-- ==== Sys2Proof/Word.lean ====
section
/-! DEFINITION. The word types and the plain exact-number type of the model (spec/00_scope.md, Bits and bytes). -/

namespace Sys2Proof

/-- One byte of memory (R5). -/
abbrev Byte := BitVec 8

/-- A 64-bit register (spec/00_scope.md, Registers). -/
abbrev Word := BitVec 64

/-- A die-local address (R435). -/
abbrev Addr := BitVec 40

/-- Forme number 0 to 11 (R28). -/
abbrev FormeIx := Fin 12

/-- An exact rational number: R90's "exact rational". `den` is positive in every value the model builds;
the pair need not be in lowest terms (the pacing of a queue pair, R619, is the only state that holds one). -/
structure Frac where
  num : Int
  den : Nat
  deriving DecidableEq, Repr, Inhabited

/-- A sparse table: pairs of a key and a value, keys strictly rising, no value equal to what an unlisted key reads as. -/
abbrev Table (α : Type) := List (Nat × α)

end Sys2Proof
end

