-- ==== Sys2Proof/Syntax.lean ====
section
/-! DEFINITION. The commands of the block: one constructor of `Instr` for each row of spec/opcode_table.json, and the
operands they carry. -/

namespace Sys2Proof

/-- The five queues of a Forme (R352). -/
inductive Queue where
  | cq | pq | vq | fq | sq
  deriving DecidableEq, Repr, Inhabited

/-- What the GDDR7 devices report during one access (R478, R479): failed CRC tries of the access before it succeeded
(4 or more also retrain the channel), granules corrected by the on-die ECC, granules reported uncorrectable (by
die-local granule number). -/
structure MemReport where
  crcFails  : Nat
  channel   : Fin 80
  corrected : List Nat
  lost      : List Nat
  deriving DecidableEq, Repr, Inhabited

/-- A Span packet (R564). -/
structure SpanPacket where
  typ     : BitVec 4
  cls     : BitVec 3
  last    : Bool
  dst     : BitVec 12
  src     : BitVec 12
  hops    : BitVec 4
  sforme  : BitVec 4
  scarr   : BitVec 3
  copyId  : BitVec 16
  addr    : Addr
  total   : BitVec 40
  rtok    : BitVec 4
  rsen    : Bool
  rforme  : BitVec 4
  aux     : BitVec 32
  payload : List Byte
  hcrc    : BitVec 32
  pcrc    : BitVec 32
  deriving DecidableEq, Repr, Inhabited

/-- A Span frame (R548): data (as the packets it carries), control flit, and what the receiver's checks find (R549). -/
structure SpanFrame where
  seq     : BitVec 16
  ack     : BitVec 16
  nak     : Bool
  crcOk   : Bool
  fecCorrected   : Nat
  fecUncorrected : Nat
  packets : List SpanPacket
  deriving DecidableEq, Repr, Inhabited

/-- What a link training finds (R551, R553, R556, R781). -/
structure TrainReport where
  ok       : Bool
  lanes    : BitVec 3
  farId    : BitVec 12
  farPort  : BitVec 4
  delay    : BitVec 16
  farKey   : List Byte
  masterNs : Nat
  deriving DecidableEq, Repr, Inhabited

/-- Kinds of RoCEv2 packet the engine tells apart (R596, R618). -/
inductive RoceKind where
  | send | write | readReq | readResp | ack | nak (code : BitVec 5) | rnrNak (timer : BitVec 5)
  | cnp | unsupported | otherTransport
  deriving DecidableEq, Repr, Inhabited

/-- A RoCEv2 packet (R596, R605, R610): `first` and `last` say where it stands in its message, `imm` is the immediate data
that its message carries, if any (R606), and `time` the ingress timestamp of its frame (R621). -/
structure RocePacket where
  qpn     : BitVec 24
  kind    : RoceKind
  first   : Bool
  last    : Bool
  psn     : BitVec 24
  imm     : Option (BitVec 32)
  va      : Word
  rkey    : BitVec 32
  dmaLen  : BitVec 32
  dscp    : BitVec 6
  ce      : Bool
  icrcOk  : Bool
  time    : Nat
  payload : List Byte
  deriving DecidableEq, Repr, Inhabited

/-- What an Ethernet frame carries (R589, R592, R620). -/
inductive EthBody where
  | arpBroadcast | solicited | fragment | pause
  | roce (ip : BitVec 128) (p : RocePacket)
  | udp (ip : BitVec 128) (srcAddr : BitVec 128) (srcPort dstPort : BitVec 16) (payload : List Byte)
  | other (multicast : Bool)
  deriving DecidableEq, Repr, Inhabited

/-- A received Ethernet frame, without FCS (R589, R590). -/
structure EthFrame where
  dst     : BitVec 48
  src     : BitVec 48
  vlan    : Option (BitVec 12)
  twoTags : Bool
  fcsOk   : Bool
  ect     : Bool
  time    : Nat
  bytes   : List Byte
  body    : EthBody
  deriving DecidableEq, Repr, Inhabited

/-- A client of the Colophon agent (R738). -/
structure Client where
  addr : BitVec 128
  port : BitVec 16
  deriving DecidableEq, Repr, Inhabited

/-- A Colophon message (R730), its body as bytes, and how it arrived (R729, R740). -/
structure ColoMsg where
  client   : Client
  mgmt     : Bool
  allNodes : Bool
  ver      : Byte
  op       : Byte
  status   : Byte
  resp     : Bool
  rsvd     : Bool
  session  : BitVec 32
  counter  : BitVec 64
  reqId    : BitVec 32
  len      : BitVec 16
  body     : List Byte
  mac      : List Byte
  deriving DecidableEq, Repr, Inhabited

/-- Kinds of Compositor core access (R626, R627, R689). -/
inductive CoreKind where
  | load | store | fetch | writeBack | inval
  deriving DecidableEq, Repr, Inhabited

/-- Press BIST outcome of one Press (R176, R177, R180): failing physical columns in ascending order, and whether they
differ from the factory repair map. -/
structure BistReport where
  forme    : FormeIx
  press    : Fin 4
  cols     : List (Fin 128)
  hintDiff : Bool
  deriving DecidableEq, Repr, Inhabited

/-- What a start stage finds (R758, R760, R777, R792). -/
structure StageReport where
  bist      : List BistReport
  memFailed : BitVec 12
  slotId    : BitVec 4
  alarms    : BitVec 6
  deriving DecidableEq, Repr, Inhabited

/-- What a service load finds (R652, R653, R771). -/
structure LoadReport where
  image        : List Byte
  shortfall    : BitVec 64
  fitsOverhang : Bool
  overhang     : BitVec 64
  kvFree       : BitVec 64
  deriving DecidableEq, Repr, Inhabited

/-- One response body a finished folio leaves for a request (R636). -/
structure Reply where
  svc   : Fin 64
  reqId : BitVec 64
  body  : List Byte
  deriving DecidableEq, Repr, Inhabited

/-- One reading of the module's sensors (R683, R802). -/
structure Sensors where
  inputMv     : BitVec 32
  inputMa     : BitVec 32
  inputW      : BitVec 32
  energyJ     : BitVec 64
  diePowerW   : BitVec 16
  coolantIn   : BitVec 32
  coolantOut  : BitVec 32
  coolantFlow : BitVec 32
  deriving DecidableEq, Repr, Inhabited

/-- The commands, in the order of spec/opcode_table.json. -/
inductive Instr where
  -- Forme front end and queues
  | instructionDispatch (f : FormeIx)
  | folioAbortDone (handle : BitVec 16)
  | waitGrant (f : FormeIx) (q : Queue)
  | waitTimeout (f : FormeIx) (q : Queue)
  | instructionComplete (f : FormeIx) (index : BitVec 24)
  | ccopy (f : FormeIx) (rep : MemReport)
  | copyComplete (f : FormeIx) (c : Fin 8)
  | pacc (f : FormeIx)
  | windowSwap (f : FormeIx) (p : Fin 4)
  | accumulateComplete (f : FormeIx)
  | drain (f : FormeIx)
  | tssave (f : FormeIx)
  | tsload (f : FormeIx)
  | vadd (f : FormeIx)
  | vsub (f : FormeIx)
  | vmul (f : FormeIx)
  | vfma (f : FormeIx)
  | vmin (f : FormeIx)
  | vmax (f : FormeIx)
  | vabs (f : FormeIx)
  | vneg (f : FormeIx)
  | vcmp (f : FormeIx)
  | vsel (f : FormeIx)
  | vcvt (f : FormeIx)
  | vqclr (f : FormeIx)
  | vqmac (f : FormeIx)
  | vqadd (f : FormeIx)
  | vqsub (f : FormeIx)
  | vqrnd (f : FormeIx)
  | vqred (f : FormeIx)
  | vqsave (f : FormeIx)
  | vqload (f : FormeIx)
  | vrms (f : FormeIx)
  | vtopk (f : FormeIx)
  | vscale (f : FormeIx)
  | vsmooth (f : FormeIx)
  | func (f : FormeIx)
  | ftload (f : FormeIx)
  | ftloadTransferStart (f : FormeIx)
  | ftloadComplete (f : FormeIx)
  | tsig (f : FormeIx)
  | twait (f : FormeIx)
  | tmark (f : FormeIx)
  | ttime (f : FormeIx)
  | scalepush (f : FormeIx)
  | srseed (f : FormeIx)
  | srsave (f : FormeIx)
  | srload (f : FormeIx)
  -- the Imposer
  | start
  | pause
  | save
  | resume
  | continueFolio
  | discard
  | folioStart
  | folioComplete (handle : BitVec 16) (replies : List Reply)
  | folioPaused (handle : BitVec 16)
  | saveComplete (handle : BitVec 16)
  | imposerCmdRing (v : Word)
  | imposerEvtRing (v : Word)
  | imposerCmdDoorbell (v : Word)
  | imposerEvtDoorbell (v : Word)
  | controlInterval (watts : Nat)
  | currentLimit
  | currentLimitEnd
  | thermalSample (dieMc memMc : Int)
  -- Proofreader and registers
  | stepClose (v : Word)
  | closeStep
  | proofAlarmRead
  | wclr (tag : BitVec 12)
  | accEventsRead (f : FormeIx)
  | spanLinkRead (p : Fin 11)
  | pressRetire (f : FormeIx) (v : Word)
  | bankRetire (f : FormeIx) (v : Word)
  | registerWrite (addr : Addr) (v : Word)
  -- GDDR7
  | extRetireGo (v : Word)
  | extMigrationComplete
  | channelRetrain (ch : Fin 80)
  | retrainTimer (ch : Fin 80)
  | refresh (ch : Fin 80) (bank : Fin 16)
  -- time, barriers, log
  | timebaseMeasure (p : Fin 11) (delay : BitVec 16) (offsetPs : BitVec 32)
  | keystoneArrive (b : Fin 4) (v : Word)
  | cancel (b : Fin 4) (v : Word)
  | keystoneRelease (b : Fin 4)
  | keystoneTimeout (b : Fin 4)
  | arrivalExpiry (b : Fin 4) (die : BitVec 12)
  | impressionAppend (v : Word)
  -- Span
  | spanFrameReceive (p : Fin 11) (fr : SpanFrame)
  | linkRetrain (p : Fin 11)
  | linkTrainingComplete (p : Fin 11) (r : TrainReport)
  | linkDown (p : Fin 11)
  | linkHold (p : Fin 11) (v : Word)
  | routeEntryWrite (die : BitVec 12) (v : Word)
  | spanWrite (p : Fin 11)
  | spanReadReq (p : Fin 11)
  | spanReadResp (p : Fin 11)
  | spanAck (p : Fin 11)
  | spanNack (p : Fin 11)
  | keystone (p : Fin 11)
  | ethfwd (p : Fin 11)
  | collGo (s : Fin 8) (v : Word)
  | collAnnouncement (p : Fin 11)
  | collData (p : Fin 11)
  | announceRepeat (s : Fin 8) (peer : BitVec 12)
  | collComplete (s : Fin 8)
  | collTimeout (s : Fin 8)
  -- Abutment and RDMA
  | ethFrameReceive (fr : EthFrame)
  | abutLinkChange (link : BitVec 2)
  | forwardGraceEnd (die : Fin 8)
  | roceSendIn
  | roceWriteIn
  | roceReadIn
  | roceResponseIn
  | cnpIn
  | ccTimer (qp : BitVec 14)
  | ackTimeout (qp : BitVec 14)
  | rnrTimer (qp : BitVec 14)
  | ingressDrain
  | qpStateCmd (v : Word)
  | cqStateCmd (v : Word)
  | srqStateCmd (v : Word)
  | sqDoorbell (v : Word)
  | rqDoorbell (v : Word)
  | srqDoorbell (v : Word)
  | cqDoorbell (v : Word)
  | send (qp : BitVec 14)
  | sendImm (qp : BitVec 14)
  | write (qp : BitVec 14)
  | writeImm (qp : BitVec 14)
  | read (qp : BitVec 14)
  | raw
  -- services
  | svcStart (s : Fin 64)
  | svcStop (s : Fin 64)
  | svcLoadComplete (s : Fin 64) (r : LoadReport)
  | svcDrainComplete (s : Fin 64)
  | batchDeadline (s : Fin 64)
  | cadenceInstanceStart (s : Fin 64)
  | mirrorValues (s : Fin 64) (reqId : BitVec 64) (crc len : BitVec 32)
  | mirrorWaitExpiry (s : Fin 64) (reqId : BitVec 64)
  -- faults
  | lineCheck (f : FormeIx) (stuck : List (Nat × Byte))
  | formeRetire (f : FormeIx) (v : Word)
  | bucketLeak (c : Fin 12)
  | ack (v : Word)
  | splitWrite (f : FormeIx) (v : Word)
  | splitRead (f : FormeIx) (v : Word)
  | galleyFlip (f : FormeIx) (v : Word)
  | fenceReq (v : Word)
  | peerFenced (d : Fin 8) (reason : BitVec 3)
  | checkGo (v : Word)
  | checkComplete
  -- Colophon
  | colophonRead (m : ColoMsg)
  | colophonWrite (m : ColoMsg)
  | readBlock (m : ColoMsg)
  | writeBlock (m : ColoMsg)
  | notify (m : ColoMsg)
  | sessionOpen (m : ColoMsg)
  | sessionConfirmTimeout (id : BitVec 32)
  | sessionIdleEnd (id : BitVec 32)
  | sessionClose (v : BitVec 32)
  | responseKeptExpiry
  | notifyRetry
  | notifyLeaseEnd
  | configSave (v : Byte)
  | operatorKey (slot : Fin 8) (key : List Byte) (inSession viaMgmt : Bool)
  | dieIdBase (v : BitVec 16)
  | dieRestart (v : Byte)
  | attestNonce (nonce : List Byte)
  | debugUnlock (token : List Byte)
  | returnPrep (v : Byte)
  | alarmClear (v : BitVec 16)
  -- update and start
  | begin
  | verify
  | activate
  | commit
  | abandon
  | dieReset (cause : BitVec 2)
  | startStageComplete (r : StageReport)
  | stageFail
  | spanStageEnd
  -- module input, alarms, ports
  | powerQualified
  | railSequenceStep
  | powerLoss
  | overvoltage
  | inputStateChange (mv : Nat)
  | railFault (d : Fin 8)
  | securityAlarm (sources : BitVec 6)
  | enclOpen (level : Bool)
  | debugPortInstruction (ir : Byte) (dr : BitVec 104)
  | spanCableChange (d : Fin 8) (seated : Bool)
  | sensorSample (r : Sensors)
  | channelRetrainFinish (ch : Fin 80) (ok : Bool)
  | trainingSignalDetected (p : Fin 11)
  | coreAccess (hart : Fin 8) (k : CoreKind) (addr : BitVec 64) (size : BitVec 4) (v : Word) (par : Bool)
  | configSaveDone
  deriving DecidableEq, Repr

end Sys2Proof
end

