-- ==== Sys2Proof/Decode.lean ====
section
/-! DEFINITION. The block's commands have no encoding: no row of spec/opcode_table.json gives bits. -/

namespace Sys2Proof

/-- The command that a word spells by the table's bits: none, since no row of the table has bits. -/
def decodeTableWord (_nbits _w : Nat) : Option Instr := none

end Sys2Proof
end

