-- ==== Sys2Proof/Config.lean ====
section
/-! DEFINITION. Values the spec leaves open (free values) and functions it names without defining (uninterpreted).
None of these constants has a body: nothing in Lean can evaluate one or prove a value of it. -/

namespace Sys2Proof.Config

/-- Byte `a` of a memory whose contents the spec leaves undefined, in the `k`-th such event (log 4).
Safe: every claim holds for every value. -/
opaque freeByte (k a : Nat) : Byte

/-- A register or event value the spec leaves undefined, or a measurement it does not relate to anything
(measured energy R672, undefined RESULT of a failed check R721, random nonce R788) (log 4, log 8). -/
opaque freeWord (k : Nat) : BitVec 64

/-- SM3 digest (32 bytes) of a byte string; the standard the spec names, uninterpreted (log 9). -/
opaque sm3 (bytes : List Byte) : List Byte

/-- HMAC-SM3 of a byte string under a key (R742, R772), uninterpreted (log 9). -/
opaque hmacSm3 (key bytes : List Byte) : List Byte

/-- SM2 signature verification under GB/T 32918.2 (R771, R787), uninterpreted (log 9). -/
opaque sm2Verify (pubkey bytes signature : List Byte) : Bool

/-- SM2 signature made with the device key over a byte string (R780), uninterpreted (log 9). -/
opaque sm2Sign (bytes : List Byte) : List Byte

/-- The SM2 key exchange of R741 as responder: from the client's ephemeral key and static key and a nonce number, the
die's ephemeral key (64 bytes), its confirmation (32 bytes) and the 64 derived bytes, uninterpreted (log 9). -/
opaque sm2Exchange (clientEphemeral clientStatic : List Byte) (n : Nat) : List Byte × List Byte × List Byte

/-- The root public key whose digest the boot ROM holds (R771), uninterpreted (log 9). -/
opaque rootKey : List Byte

/-- The device public key (R744 DEVICE_PUBKEY), uninterpreted (log 9). -/
opaque devicePubkey : List Byte

/-- The identity record's bytes that the spec fixes at manufacture (R2, R728, R779, R788, R802), by entry key
(index × 256 + sub) (log 9). -/
opaque identity (key : Nat) : List Byte

/-- Byte i of the signed firmware image that a flash slot holds from manufacture (R768), uninterpreted (log 6). -/
opaque factoryImage (component slot : Nat) : List Byte

/-- Byte a of a flash slot that has not been written since the slot was erased: the spec gives none (log 4). -/
opaque flashByte (component slot a : Nat) : Byte

/-- The segments of the exp2 stage's read-only memory (R322): entry e of the 65,536 16-bit entries (log 10). -/
opaque exp2Rom (e : Nat) : BitVec 16

/-- The hash by which SPRAY chooses among allowed usable ports (R560): not part of the interface (log 11). -/
opaque sprayHash (src sforme scarr copyid page : Nat) : Nat

/-- What the bytes of an Ethernet frame say under the standards of R589 and R596, which the spec names without giving their
layouts; uninterpreted (log 14). -/
opaque ethBody (bytes : List Byte) : EthBody

/-- The frame that carries a RoCEv2 packet of a queue pair with a context, under the standards of R596; uninterpreted
(log 14). -/
opaque roceFrame (ctx : BitVec 2048) (p : RocePacket) : List Byte

/-- A frame whose IP header has been marked CE (R617, RFC 3168); uninterpreted (log 14). -/
opaque markCe (bytes : List Byte) : List Byte

/-- ABUT_PHY_LATENCY_NS, fixed per build (R624): the spec gives no figure (log 6). -/
opaque phyLatencyNs (uzonak2 : Bool) : BitVec 16

/-- The result of a stochastic context's use by two operations at once is undefined (R130): the pattern written (log 4). -/
opaque freePattern (k i : Nat) : Nat

end Sys2Proof.Config
end

