-- ==== Sys2Proof/Machine/Bits.lean ====
section
/-! DEFINITION. Bit fields, byte order, sparse tables and CRC-32C, shared by every family. -/

namespace Sys2Proof.Machine

/-- Bits lo to lo + width − 1 of a natural number (R4). -/
def fieldN (x lo width : Nat) : Nat := (x >>> lo) % 2 ^ width

/-- Bits lo to lo + width − 1 of a register. -/
def field (x : Word) (lo width : Nat) : Nat := fieldN x.toNat lo width

/-- Bit i of a register. -/
def bit (x : Word) (i : Nat) : Bool := x.toNat.testBit i

/-- A Bool as a bit. -/
def b2n (b : Bool) : Nat := bif b then 1 else 0

/-- A register put together from fields, each with its lowest bit. -/
def pack (fs : List (Nat × Nat)) : Word :=
  BitVec.ofNat 64 (fs.foldl (fun acc p => acc + p.1 <<< p.2) 0)

/-- A sticky bit at position i: a written 1 clears it (R6 W1C). -/
def w1c (old : Bool) (v : Word) (i : Nat) : Bool := old && !bit v i

/-- Two's complement reading of the low n bits of p. -/
def toSigned (n p : Nat) : Int :=
  if p % 2 ^ n < 2 ^ (n - 1) then Int.ofNat (p % 2 ^ n) else Int.ofNat (p % 2 ^ n) - Int.ofNat (2 ^ n)

/-- The n-bit two's complement pattern of an integer. -/
def ofSigned (n : Nat) (v : Int) : Nat := (v % Int.ofNat (2 ^ n)).toNat

/-- Little-endian bytes (R5): k bytes of x, lowest first. -/
def leBytes : Nat → Nat → List Byte
  | 0, _ => []
  | k + 1, x => BitVec.ofNat 8 x :: leBytes k (x / 256)

/-- The number that little-endian bytes stand for (R5). -/
def leNat : List Byte → Nat
  | [] => 0
  | b :: bs => b.toNat + 256 * leNat bs

/-- Rounding up to a multiple of m. -/
def roundUp (x m : Nat) : Nat := (x + (m - 1)) / m * m

/-- Ceiling of a quotient. -/
def ceilDiv (x m : Nat) : Nat := (x + (m - 1)) / m

/-- The sum of a list. -/
def sumN (xs : List Nat) : Nat := xs.foldl (· + ·) 0

/-- Addition that saturates at a limit. -/
def satAdd (limit a b : Nat) : Nat := min limit (a + b)

/-- The lowest index of a list whose element meets a test. -/
def findIx {α : Type} (p : α → Bool) : List α → Nat → Option Nat
  | [], _ => none
  | x :: xs, i => bif p x then some i else findIx p xs (i + 1)

/-- Applies a function to the first element of a list that meets a test. -/
def modifyFirst {α : Type} (p : α → Bool) (g : α → α) : List α → List α
  | [] => []
  | x :: xs => bif p x then g x :: xs else x :: modifyFirst p g xs

/-- Removes the first element of a list that meets a test. -/
def eraseFirst {α : Type} (p : α → Bool) : List α → List α
  | [] => []
  | x :: xs => bif p x then xs else x :: eraseFirst p xs

/-- Cuts a list into pieces of n elements (the last may be shorter). The first argument bounds the pieces. -/
def chunksFuel {α : Type} : Nat → Nat → List α → List (List α)
  | 0, _, _ => []
  | _, _, [] => []
  | k + 1, n, xs => xs.take n :: chunksFuel k n (xs.drop n)

/-- Cuts a list into pieces of n elements. -/
def chunks {α : Type} (n : Nat) (xs : List α) : List (List α) := chunksFuel xs.length n xs

/-- A list padded with a value to n elements, or cut to n. -/
def padTo {α : Type} (n : Nat) (z : α) (xs : List α) : List α := xs.take n ++ List.replicate (n - xs.length) z

/-! ### Sparse tables -/

/-- The value of key k: as listed, else the default. -/
def tget {α : Type} (d : Nat → α) : Table α → Nat → α
  | [], k => d k
  | (j, v) :: t, k => if j = k then v else tget d t k

/-- Removes the entry of key k. -/
def tdel {α : Type} : Table α → Nat → Table α
  | [], _ => []
  | (j, v) :: t, k => if j = k then t else if k < j then (j, v) :: t else (j, v) :: tdel t k

/-- Lists the pair (k, v) in its place. -/
def tput {α : Type} : Table α → Nat → α → Table α
  | [], k, v => [(k, v)]
  | (j, w) :: t, k, v =>
    if j = k then (k, v) :: t else if k < j then (k, v) :: (j, w) :: t else (j, w) :: tput t k v

/-- Sets key k to v, keeping the canonical form: a value equal to the default is not listed. -/
def tset {α : Type} [DecidableEq α] (d : Nat → α) (t : Table α) (k : Nat) (v : α) : Table α :=
  if v = d k then tdel t k else tput t k v

/-- Applies a function to the value of key k. -/
def tmod {α : Type} [DecidableEq α] (d : Nat → α) (t : Table α) (k : Nat) (g : α → α) : Table α :=
  tset d t k (g (tget d t k))

/-- Keys strictly rising from a lower bound, and no listed value equal to its default. -/
def tableWfFrom {α : Type} [DecidableEq α] (d : Nat → α) : Nat → Table α → Bool
  | _, [] => true
  | lo, (k, v) :: t => decide (lo ≤ k) && decide (v ≠ d k) && tableWfFrom d (k + 1) t

/-- The canonical form of a sparse table. -/
def tableWf {α : Type} [DecidableEq α] (d : Nat → α) (t : Table α) : Bool := tableWfFrom d 0 t

/-! ### Fixed tables -/

/-- Entry i of a fixed table set to x. -/
def vset {α : Type} {n : Nat} (v : Vector α n) (i : Fin n) (x : α) : Vector α n := v.set i.1 x i.2

/-- Entry i of a fixed table changed by g. -/
def vmod {α : Type} {n : Nat} (v : Vector α n) (i : Fin n) (g : α → α) : Vector α n := vset v i (g (v[i]))

/-- The elements of a fixed table with their indices. -/
def venum {α : Type} {n : Nat} (v : Vector α n) : List (Fin n × α) :=
  (List.finRange n).map (fun i => (i, v[i]))

/-- Every entry of a fixed table changed by a function of its index. -/
def vmapIx {α : Type} {n : Nat} (v : Vector α n) (g : Fin n → α → α) : Vector α n :=
  Vector.ofFn (fun i => g i v[i])

/-! ### CRC-32C (R719) -/

/-- One bit of the division. -/
def crcBit (c : BitVec 32) : BitVec 32 :=
  if c.getLsbD 0 then (c >>> 1) ^^^ 0x82F63B78#32 else c >>> 1

/-- One byte of the division. -/
def crcByte (c : BitVec 32) (b : Byte) : BitVec 32 :=
  (List.range 8).foldl (fun x _ => crcBit x) (c ^^^ b.setWidth 32)

/-- CRC-32C of a byte string from a previous value (R719). -/
def crc32c (bytes : List Byte) (prev : BitVec 32 := 0) : BitVec 32 :=
  bytes.foldl crcByte (prev ^^^ 0xFFFFFFFF#32) ^^^ 0xFFFFFFFF#32

/-- The xorshift step of R117. -/
def xorshift (x : BitVec 32) : BitVec 32 :=
  let a := x ^^^ (x <<< 13)
  let b := a ^^^ (a >>> 17)
  b ^^^ (b <<< 5)

end Sys2Proof.Machine
end

