-- ==== Sys2Proof/Machine/Num.lean ====
section
/-! DEFINITION. Exact arithmetic: rationals, decoded values (R90), the rounding of a pattern (R100). -/

namespace Sys2Proof

/-! ### Rationals -/

/-- The rational of an integer. -/
def Frac.ofInt (n : Int) : Frac := ⟨n, 1⟩

/-- q × 2^e, exactly. -/
def Frac.scale2 (q : Frac) (e : Int) : Frac :=
  if e < 0 then ⟨q.num, q.den * 2 ^ e.natAbs⟩ else ⟨q.num * Int.ofNat (2 ^ e.toNat), q.den⟩

/-- 2^e. -/
def Frac.pow2 (e : Int) : Frac := Frac.scale2 ⟨1, 1⟩ e

/-- Exact sum; equal or dividing denominators are kept. -/
def Frac.add (a b : Frac) : Frac :=
  if a.den = b.den then ⟨a.num + b.num, a.den⟩
  else if b.den % a.den = 0 then ⟨a.num * Int.ofNat (b.den / a.den) + b.num, b.den⟩
  else if a.den % b.den = 0 then ⟨a.num + b.num * Int.ofNat (a.den / b.den), a.den⟩
  else ⟨a.num * Int.ofNat b.den + b.num * Int.ofNat a.den, a.den * b.den⟩

/-- Negation. -/
def Frac.neg (a : Frac) : Frac := ⟨-a.num, a.den⟩

/-- Exact product. -/
def Frac.mul (a b : Frac) : Frac := ⟨a.num * b.num, a.den * b.den⟩

/-- Exact quotient by a non-zero rational. -/
def Frac.div (a b : Frac) : Frac :=
  if b.num < 0 then ⟨-(a.num * Int.ofNat b.den), a.den * b.num.natAbs⟩
  else ⟨a.num * Int.ofNat b.den, a.den * b.num.natAbs⟩

/-- Magnitude. -/
def Frac.abs (a : Frac) : Frac := ⟨Int.ofNat a.num.natAbs, a.den⟩

/-- a < b. -/
def Frac.lt (a b : Frac) : Bool := decide (a.num * Int.ofNat b.den < b.num * Int.ofNat a.den)

/-- a ≤ b. -/
def Frac.le (a b : Frac) : Bool := decide (a.num * Int.ofNat b.den ≤ b.num * Int.ofNat a.den)

/-- a = b as numbers. -/
def Frac.eqv (a b : Frac) : Bool := decide (a.num * Int.ofNat b.den = b.num * Int.ofNat a.den)

/-- Largest integer not above the rational. -/
def Frac.floor (a : Frac) : Int := a.num / Int.ofNat a.den

/-- floor(log2 |a|) of a non-zero rational, exactly. -/
def Frac.log2 (a : Frac) : Int :=
  let n := a.num.natAbs
  let e : Int := Int.ofNat n.log2 - Int.ofNat a.den.log2
  if a.den <<< e.toNat ≤ n <<< (-e).toNat then e else e - 1

end Sys2Proof

namespace Sys2Proof.Machine

/-! ### Decoded values -/

/-- One of R90's four things: zero with a sign, NaR or NaN, an infinity, an exact (non-zero) rational. -/
inductive Val where
  | zero (neg : Bool)
  | nan
  | inf (neg : Bool)
  | real (q : Frac)
  deriving DecidableEq, Repr, Inhabited

/-- A rational as a decoded value; zero is +0. -/
def Val.ofFrac (q : Frac) : Val := if q.num = 0 then .zero false else .real q

/-- An integer as a decoded value. -/
def Val.ofInt (n : Int) : Val := Val.ofFrac ⟨n, 1⟩

/-- The rational of a real value (zero for the others). -/
def Val.frac : Val → Frac
  | .real q => q
  | _ => ⟨0, 1⟩

/-- A value that is neither NaR or NaN nor an infinity (R251). -/
def Val.isReal : Val → Bool
  | .zero _ => true
  | .real _ => true
  | _ => false

/-- The value is zero of either sign. -/
def Val.isZero : Val → Bool
  | .zero _ => true
  | _ => false

/-- The value is NaR or NaN. -/
def Val.isNan : Val → Bool
  | .nan => true
  | _ => false

/-- Sign: true when negative (−0 and −∞ included). -/
def Val.sign : Val → Bool
  | .zero n => n
  | .inf n => n
  | .real q => decide (q.num < 0)
  | .nan => false

/-- Negation. -/
def Val.neg : Val → Val
  | .zero n => .zero (!n)
  | .inf n => .inf (!n)
  | .real q => .real q.neg
  | .nan => .nan

/-- Magnitude. -/
def Val.abs : Val → Val
  | .zero _ => .zero false
  | .inf _ => .inf false
  | .real q => .real q.abs
  | .nan => .nan

/-- Exact product (R297, R298): 0 × ∞ is NaN, a zero product carries the exclusive or of the signs. -/
def Val.mul (a b : Val) : Val :=
  match a, b with
  | .nan, _ => .nan
  | _, .nan => .nan
  | .inf _, .zero _ => .nan
  | .zero _, .inf _ => .nan
  | .inf n, y => .inf (n ^^ y.sign)
  | x, .inf n => .inf (n ^^ x.sign)
  | .zero n, y => .zero (n ^^ y.sign)
  | x, .zero n => .zero (n ^^ x.sign)
  | .real p, .real q => .real (p.mul q)

/-- Exact sum (R297, R298): ∞ − ∞ is NaN; an exact zero sum is +0, but (−0) + (−0) is −0. -/
def Val.add (a b : Val) : Val :=
  match a, b with
  | .nan, _ => .nan
  | _, .nan => .nan
  | .inf m, .inf n => if m = n then .inf m else .nan
  | .inf m, _ => .inf m
  | _, .inf n => .inf n
  | .zero m, .zero n => .zero (m && n)
  | .zero _, y => y
  | x, .zero _ => x
  | .real p, .real q => Val.ofFrac (p.add q)

/-- Value times 2^e. -/
def Val.scale2 (v : Val) (e : Int) : Val :=
  match v with
  | .real q => .real (q.scale2 e)
  | _ => v

/-- Order of real and infinite values (numeric; −0 equals +0); NaN below everything. -/
def Val.numLt (a b : Val) : Bool :=
  match a, b with
  | .nan, .nan => false
  | .nan, _ => true
  | _, .nan => false
  | .inf m, .inf n => m && !n
  | .inf m, _ => m
  | _, .inf n => !n
  | x, y => Frac.lt x.frac y.frac

/-! ### Rounding (R100) -/

/-- The rounding in force for one rounding: under SR with the k of SRK and the number drawn. -/
inductive Mode where
  | rne
  | rtz
  | sr (k r : Nat)
  deriving DecidableEq, Repr, Inhabited

/-- R100: u is the kept pattern and n / d the discarded tail, a fraction in [0, 1). -/
def roundPattern (u n d : Nat) (m : Mode) : Nat :=
  match m with
  | .rtz => u
  | .rne => if d < 2 * n then u + 1 else if 2 * n = d ∧ u % 2 = 1 then u + 1 else u
  | .sr k r => if r < n * 2 ^ k / d then u + 1 else u

/-! ### Integer square roots (own fuel: no well-founded recursion) -/

/-- One bit of a square root from the top: the root r so far, bit b to try. -/
def isqrtBit (n r b : Nat) : Nat := if (r + 2 ^ b) * (r + 2 ^ b) ≤ n then r + 2 ^ b else r

/-- Largest r with r² ≤ n, bit by bit from bit b − 1 down. -/
def isqrtFrom (n : Nat) : Nat → Nat → Nat
  | 0, r => r
  | b + 1, r => isqrtFrom n b (isqrtBit n r b)

/-- Integer square root. -/
def isqrt (n : Nat) : Nat := isqrtFrom n (n.log2 / 2 + 1) 0

/-- A rational on a fine grid whose rounding to at most `bits` significant bits is that of √q, or of 1/√q: the root
truncated to `bits` + 3 significant bits, with its last bit set when the root is not exact (a sticky bit). q > 0. -/
def sqrtSticky (q : Frac) (bits : Nat) : Frac :=
  -- scale q by 4^j so that the root has at least bits + 3 bits
  let j := bits + 4 + (q.den.log2 - q.num.natAbs.log2)
  let n := q.num.natAbs * 4 ^ j / q.den
  let exact := decide (n * q.den = q.num.natAbs * 4 ^ j)
  let r := isqrt n
  let sticky := !(exact && decide (r * r = n))
  ⟨Int.ofNat (4 * r + 2 * b2n sticky), 4 * 2 ^ j⟩

/-- 1/√q with a sticky bit. -/
def rsqrtSticky (q : Frac) (bits : Nat) : Frac := sqrtSticky ⟨Int.ofNat q.den, q.num.natAbs⟩ bits

end Sys2Proof.Machine
end

