-- ==== Sys2Proof/Machine/Format.lean ====
section
/-! DEFINITION. The number formats (spec/02) and the encoding of one value (spec/03). -/

namespace Sys2Proof.Machine

/-- The format codes of R50. -/
inductive Fmt where
  | p8 | p16 | p32 | bp8 | q2 | q1 | rs8 | f16 | bf16 | f32 | e4m3 | e5m2 | i8 | i32 | i64 | e8m0 | qp8 | qp16 | qp32
  deriving DecidableEq, Repr, Inhabited

/-- The format of a 5-bit code (R50, R51). -/
def fmtOfCode (c : Nat) : Option Fmt :=
  match c with
  | 0x00 => some .p8 | 0x01 => some .p16 | 0x02 => some .p32
  | 0x04 => some .bp8 | 0x05 => some .q2 | 0x06 => some .q1 | 0x07 => some .rs8
  | 0x08 => some .f16 | 0x09 => some .bf16 | 0x0A => some .f32
  | 0x0C => some .e4m3 | 0x0D => some .e5m2
  | 0x10 => some .i8 | 0x11 => some .i32 | 0x12 => some .i64
  | 0x14 => some .e8m0
  | 0x18 => some .qp8 | 0x19 => some .qp16 | 0x1A => some .qp32
  | _ => none

/-- Bits per element in the code plane (R52). -/
def fmtBits : Fmt → Nat
  | .p8 => 8 | .p16 => 16 | .p32 => 32 | .bp8 => 8 | .q2 => 2 | .q1 => 1 | .rs8 => 8
  | .f16 => 16 | .bf16 => 16 | .f32 => 32 | .e4m3 => 8 | .e5m2 => 8
  | .i8 => 8 | .i32 => 32 | .i64 => 64 | .e8m0 => 8
  | .qp8 => 128 | .qp16 => 256 | .qp32 => 512

/-- Posit width, for the posit formats. -/
def positWidth : Fmt → Option Nat
  | .p8 => some 8 | .p16 => some 16 | .p32 => some 32 | _ => none

/-- Posit width n of a standard quire of 16n bits (R64). -/
def quireWidth : Fmt → Option Nat
  | .qp8 => some 8 | .qp16 => some 16 | .qp32 => some 32 | _ => none

/-- Width of an integer format (R85). -/
def intWidth : Fmt → Option Nat
  | .i8 => some 8 | .i32 => some 32 | .i64 => some 64 | _ => none

/-- Exponent bits, fraction bits and bias of a floating-point format (R79). -/
def floatParams : Fmt → Option (Nat × Nat × Nat)
  | .f16 => some (5, 10, 15) | .bf16 => some (8, 7, 127) | .f32 => some (8, 23, 127)
  | .e4m3 => some (4, 3, 7) | .e5m2 => some (5, 2, 15) | _ => none

/-- A posit format. -/
def isPosit (f : Fmt) : Bool := (positWidth f).isSome
/-- A standard quire format. -/
def isQuire (f : Fmt) : Bool := (quireWidth f).isSome
/-- An integer format. -/
def isInt (f : Fmt) : Bool := (intWidth f).isSome
/-- An IEEE 754 or OCP 8-bit format. -/
def isFloat (f : Fmt) : Bool := (floatParams f).isSome
/-- A format with a scale plane (R66). -/
def isScaled : Fmt → Bool
  | .bp8 => true | .q2 => true | .q1 => true | .rs8 => true | _ => false
/-- A format of less than 8 bits. -/
def isSubByte : Fmt → Bool
  | .q2 => true | .q1 => true | _ => false
/-- R52, column "Stored in memory" (E8M0 only as block scales). -/
def isStored (f : Fmt) : Bool := decide (f ≠ .e8m0)
/-- R52, column "Vector unit arithmetic": yes. -/
def isVectorArith : Fmt → Bool
  | .p8 => true | .p16 => true | .p32 => true | .f16 => true | .bf16 => true | .f32 => true | _ => false

/-- Bytes of a row of n elements in the code plane (R68). -/
def rowBytes (f : Fmt) (n : Nat) : Nat := ceilDiv (n * fmtBits f) 8

/-- Block size of a BP8 block field (R72). -/
def blkSize (blk : Nat) : Nat := 16 * 2 ^ blk

/-- Elements per block (R67): BP8 by its block field, Q2 and Q1 64. -/
def blockOf (f : Fmt) (blk : Nat) : Nat :=
  match f with
  | .bp8 => blkSize blk
  | _ => 64

/-- Scale-plane bytes of a row of n elements (R72, R74, R76; RS8: one byte per row, after its 4-byte head, R77). -/
def scaleRowBytes (f : Fmt) (blk n : Nat) : Nat :=
  match f with
  | .bp8 => ceilDiv n (blkSize blk)
  | .q2 => 4 * ceilDiv n 64
  | .q1 => ceilDiv n 64
  | .rs8 => 1
  | _ => 0

/-! ### Decoding -/

/-- Length of the run of bits equal to r from bit i − 1 downward. -/
def runLen (p : Nat) (r : Bool) : Nat → Nat
  | 0 => 0
  | i + 1 => if p.testBit i = r then 1 + runLen p r i else 0

/-- R55: the value of an n-bit posit pattern. -/
def decodePosit (n p : Nat) : Val :=
  if p = 0 then .zero false
  else if p = 2 ^ (n - 1) then .nan
  else
    let s := decide (2 ^ (n - 1) ≤ p)
    let a := if s then 2 ^ n - p else p
    let r := a.testBit (n - 2)
    let m := runLen a r (n - 1)
    let k : Int := if r then Int.ofNat m - 1 else -Int.ofNat m
    let left := n - 1 - (m + 1)          -- bits below the terminator (none when the run ends the pattern)
    let eb := min 2 left
    let fb := left - eb
    let e := (fieldN a fb eb) <<< (2 - eb)
    let f := a % 2 ^ fb
    let q := Frac.scale2 ⟨Int.ofNat (2 ^ fb + f), 1⟩ (4 * k + Int.ofNat e - Int.ofNat fb)
    .real (if s then q.neg else q)

/-- R79, R81, R83, R84: the value of a floating-point pattern, and whether a subnormal was flushed (R106). -/
def decodeFloat (f : Fmt) (ebits fbits bias : Nat) (subn : Bool) (p : Nat) : Val × Bool :=
  let s := p.testBit (ebits + fbits)
  let x := fieldN p fbits ebits
  let m := p % 2 ^ fbits
  let emax := 2 ^ ebits - 1
  if f = .e4m3 ∧ x = emax ∧ m = 2 ^ fbits - 1 then (.nan, false)
  else if f ≠ .e4m3 ∧ x = emax then (if m = 0 then (.inf s, false) else (.nan, false))
  else if x = 0 then
    if m = 0 then (.zero s, false)
    else if subn then (.zero s, true)
    else
      let q := Frac.scale2 ⟨Int.ofNat m, 1⟩ (1 - Int.ofNat bias - Int.ofNat fbits)
      (.real (if s then q.neg else q), false)
  else
    let q := Frac.scale2 ⟨Int.ofNat (2 ^ fbits + m), 1⟩ (Int.ofNat x - Int.ofNat bias - Int.ofNat fbits)
    (.real (if s then q.neg else q), false)

/-- R64: the value of a standard quire pattern for n-bit posits. -/
def decodeQuire (n p : Nat) : Val :=
  if p = 2 ^ (16 * n - 1) then .nan
  else if p = 0 then .zero false
  else .real (Frac.scale2 ⟨toSigned (16 * n) p, 1⟩ (16 - Int.ofNat (8 * n)))

/-- R69: the exponent of an E8M0 byte, none for 0xFF. -/
def e8m0Exp (b : Nat) : Option Int := if b = 0xFF then none else some (Int.ofNat b - 127)

/-- The exact value of an unscaled pattern, and whether the decode flushed a subnormal (R90, R106). -/
def decodeScalar (f : Fmt) (subn : Bool) (p : Nat) : Val × Bool :=
  match positWidth f, quireWidth f, intWidth f, floatParams f with
  | some n, _, _, _ => (decodePosit n p, false)
  | _, some n, _, _ => (decodeQuire n p, false)
  | _, _, some n, _ => (Val.ofInt (toSigned n p), false)
  | _, _, _, some (e, m, b) => decodeFloat f e m b subn p
  | _, _, _, _ => (decodePosit 8 p, false)

/-! ### Encoding -/

/-- A written pattern and the flags its encoding raised (R132). -/
structure Enc where
  pat   : Nat
  ovf   : Bool := false
  nar   : Bool := false
  flush : Bool := false
  deriving DecidableEq, Repr, Inhabited

/-- apply_sign of R58. -/
def applySign (s : Bool) (u n : Nat) : Nat := if s then 2 ^ n - u else u

/-- R58: the n-bit posit of a non-zero rational. OVF when its magnitude lies above maxpos (R132). -/
def encodePositReal (n : Nat) (q : Frac) (m : Mode) : Enc :=
  let s := decide (q.num < 0)
  let a := q.abs
  let t := a.log2
  let top : Int := 4 * (Int.ofNat n - 2)
  if top ≤ t then
    { pat := applySign s (2 ^ (n - 1) - 1) n, ovf := Frac.lt (Frac.pow2 top) a }
  else if t < -top then { pat := applySign s 1 n }
  else
    let k := t / 4
    let e := (t - 4 * k).toNat
    let rl := if 0 ≤ k then k.toNat + 2 else k.natAbs + 1     -- regime length with its terminator
    let rv := if 0 ≤ k then 2 ^ (k.toNat + 2) - 2 else 1
    -- the unbounded string as a number: regime, two exponent bits, then the fraction a / 2^t − 1
    let frac := a.scale2 (-t)
    let str : Frac := ⟨Int.ofNat ((4 * rv + e) * frac.den) + frac.num - Int.ofNat frac.den, frac.den⟩
    let x := str.scale2 (Int.ofNat (n - 1) - Int.ofNat (rl + 2))
    let u := x.num.toNat / x.den
    let u := roundPattern u (x.num.toNat % x.den) x.den m
    let u := if u = 0 then 1 else if 2 ^ (n - 1) ≤ u then 2 ^ (n - 1) - 1 else u
    { pat := applySign s u n }

/-- R58, R110: the n-bit posit of a decoded value. -/
def encodePosit (n : Nat) (v : Val) (m : Mode) : Enc :=
  match v with
  | .zero _ => { pat := 0 }
  | .real q => encodePositReal n q m
  | _ => { pat := 2 ^ (n - 1), nar := true }

/-- R80: pattern of the largest finite value. -/
def floatMax (f : Fmt) (ebits fbits : Nat) : Nat :=
  if f = .e4m3 then 2 ^ (ebits + fbits) - 2 else (2 ^ ebits - 1) * 2 ^ fbits - 1

/-- R80: the NaN that the device writes. -/
def floatNan (f : Fmt) (ebits fbits : Nat) : Nat :=
  if f = .e4m3 then 2 ^ (ebits + fbits) - 1 else (2 ^ ebits - 1) * 2 ^ fbits + 2 ^ (fbits - 1)

/-- R80: pattern of +infinity (not for E4M3). -/
def floatInf (ebits fbits : Nat) : Nat := (2 ^ ebits - 1) * 2 ^ fbits

/-- R104, R110: the floating-point pattern of a decoded value. -/
def encodeFloat (f : Fmt) (ebits fbits bias : Nat) (ovfm subn : Bool) (v : Val) (m : Mode) : Enc :=
  let sb (s : Bool) : Nat := if s then 2 ^ (ebits + fbits) else 0
  match v with
  | .zero s => { pat := sb s }
  | .nan => { pat := floatNan f ebits fbits, nar := true }
  | .inf s =>
    if ovfm then
      if f = .e4m3 then { pat := floatNan f ebits fbits, nar := true }
      else { pat := sb s + floatInf ebits fbits, nar := true }
    else { pat := sb s + floatMax f ebits fbits, ovf := true }
  | .real x =>
    let s := decide (x.num < 0)
    let a := x.abs
    let emin : Int := 1 - Int.ofNat bias
    if subn && Frac.lt a (Frac.pow2 emin) then { pat := sb s, flush := true }
    else
      let q := max a.log2 emin
      let y := a.scale2 (Int.ofNat fbits - q)
      let u := y.num.toNat / y.den
      let u := roundPattern u (y.num.toNat % y.den) y.den m
      -- the pattern rises with the value over the grid of R105
      let p := (q - emin).toNat * 2 ^ fbits + u
      if floatMax f ebits fbits < p then
        if decide (m = .rtz) || !ovfm then { pat := sb s + floatMax f ebits fbits, ovf := true }
        else if f = .e4m3 then { pat := floatNan f ebits fbits, ovf := true, nar := true }
        else { pat := sb s + floatInf ebits fbits, ovf := true, nar := true }
      else { pat := sb s + p }

/-- R109, R110: the two's complement pattern of a decoded value. -/
def encodeInt (w : Nat) (v : Val) (m : Mode) : Enc :=
  let hi : Int := Int.ofNat (2 ^ (w - 1)) - 1
  let lo : Int := -Int.ofNat (2 ^ (w - 1))
  match v with
  | .zero _ => { pat := 0 }
  | .nan => { pat := ofSigned w lo, nar := true }
  | .inf s => { pat := ofSigned w (if s then lo else hi), ovf := true }
  | .real x =>
    let a := x.abs
    let u := roundPattern (a.num.toNat / a.den) (a.num.toNat % a.den) a.den m
    let r : Int := if x.num < 0 then -Int.ofNat u else Int.ofNat u
    if hi < r then { pat := ofSigned w hi, ovf := true }
    else if r < lo then { pat := ofSigned w lo, ovf := true }
    else { pat := ofSigned w r }

/-- R110, R228, R229, R806: the standard quire of a decoded value, saturated when it does not fit. -/
def encodeQuire (n : Nat) (v : Val) (m : Mode) : Enc :=
  let w := 16 * n
  match v with
  | .zero _ => { pat := 0 }
  | .real x =>
    let a := x.abs.scale2 (Int.ofNat (8 * n) - 16)
    let u := roundPattern (a.num.toNat / a.den) (a.num.toNat % a.den) a.den m
    let sat := decide (2 ^ (w - 1) - 1 < u)
    let u := if sat then 2 ^ (w - 1) - 1 else u
    { pat := if x.num < 0 then (2 ^ w - u) % 2 ^ w else u, ovf := sat }
  | _ => { pat := 2 ^ (w - 1), nar := true }

/-- R90: one decoded value into an unscaled format. -/
def encodeScalar (f : Fmt) (ovfm subn : Bool) (v : Val) (m : Mode) : Enc :=
  match positWidth f, quireWidth f, intWidth f, floatParams f with
  | some n, _, _, _ => encodePosit n v m
  | _, some n, _, _ => encodeQuire n v m
  | _, _, some w, _ => encodeInt w v m
  | _, _, _, some (e, fb, b) => encodeFloat f e fb b ovfm subn v m
  | _, _, _, _ => encodePosit 8 v m

/-- The NaR, device NaN or R110 integer of a format. -/
def nonRealPat (f : Fmt) : Nat := (encodeScalar f false false .nan .rne).pat

/-! ### Legal conversions (R111, R112, R805, R806) -/

/-- R111: the device performs this conversion. -/
def convLegal (src dst : Fmt) : Bool :=
  if dst = .e8m0 ∨ src = .e8m0 then false
  else if isScaled dst || isScaled src then true
  else if isQuire src then true
  else
    match dst with
    | .qp8 => decide (src = .p8 ∨ isInt src = true)
    | .qp16 => decide (src = .p8 ∨ src = .p16 ∨ isInt src = true)
    | .qp32 => isPosit src || isInt src
    | _ => true

/-! ### Distances and classes -/

/-- R60, R63: the order number of a pattern. -/
def ordOf (f : Fmt) (p : Nat) : Int :=
  match floatParams f with
  | some (e, m, _) =>
    if p.testBit (e + m) then -Int.ofNat (p % 2 ^ (e + m)) else Int.ofNat p
  | none => toSigned (fmtBits f) p

/-- R62, R63: the ulp distance of two patterns of one format; the absolute difference for integers (R499). -/
def ulpDistance (f : Fmt) (a b : Nat) : Nat :=
  let na := (decodeScalar f false a).1.isNan
  let nb := (decodeScalar f false b).1.isNan
  if na && nb then 0
  else if na || nb then 0xFFFFFFFF
  else (ordOf f a - ordOf f b).natAbs

/-- The Proofreader's classes (R490). -/
inductive PClass where
  | zero | low | high | nonfin | plain
  deriving DecidableEq, Repr, Inhabited

/-- R490: the class of a written pattern; `srcNan` says that its source was NaR or NaN (integers). -/
def classOf (f : Fmt) (p : Nat) (srcNan : Bool) : PClass :=
  match positWidth f, intWidth f, floatParams f with
  | some n, _, _ =>
    if p = 2 ^ (n - 1) then .nonfin else if p = 0 then .zero
    else if p = 1 ∨ p = 2 ^ n - 1 then .low
    else if p = 2 ^ (n - 1) - 1 ∨ p = 2 ^ (n - 1) + 1 then .high else .plain
  | _, some w, _ =>
    if srcNan then .nonfin else if p = 0 then .zero
    else if p = 2 ^ (w - 1) ∨ p = 2 ^ (w - 1) - 1 then .high else .plain
  | _, _, some (e, fb, _) =>
    let m := p % 2 ^ (e + fb)
    if m = 0 then .zero
    else if m < 2 ^ fb then .low
    else if m = floatMax f e fb then .high
    else if floatMax f e fb < m then .nonfin else .plain
  | _, _, _ => -- standard quires: NaR and zero only
    if p = 2 ^ (fmtBits f - 1) then .nonfin else if p = 0 then .zero else .plain

end Sys2Proof.Machine
end

