-- ==== Sys2Proof/Machine/StForme.lean ====
section
/-! DEFINITION. State of one Forme: memories, queues, front end, Presses, Carriages (spec/03 to 10, 18). -/

namespace Sys2Proof.Machine

/-- A byte memory. `cells` lists the bytes that differ from what an unlisted byte reads as: zero in epoch 0,
the free byte of event k in epoch k + 1 (log 5). -/
structure Mem where
  epoch : Nat
  cells : Table Byte
  deriving DecidableEq, Repr, Inhabited

/-- An on-chip memory: each byte carries a parity bit (R684); `bad` lists, strictly rising, the byte addresses whose nine
bits hold an even number of ones. -/
structure ParMem where
  mem : Mem
  bad : List Nat
  deriving DecidableEq, Repr, Inhabited

/-- One instruction held in a queue: its word, and what the front end read at dispatch (R393, R489). -/
structure QEntry where
  index   : BitVec 24
  word    : BitVec 128
  /-- the operand records by position (R400), zero where none is named -/
  recs    : List (BitVec 256)
  /-- the Carriage descriptor of a CCOPY -/
  desc    : BitVec 512
  /-- CLASS of the tag of each record position (of the descriptor for CCOPY) -/
  cls     : List (BitVec 4)
  /-- its wait has been granted (true from the start when it carries none) -/
  granted : Bool
  /-- timebase at which it reached the head of its queue (R365) -/
  since   : Word
  deriving DecidableEq, Repr, Inhabited

/-- An instruction that has left its head and has not completed (R352). -/
structure Flight where
  index : BitVec 24
  queue : Queue
  word  : BitVec 128
  /-- its completion point of R352 has been reached -/
  done  : Bool
  /-- the stochastic-rounding context it claims (R128) -/
  ctx   : Option (Fin 16)
  /-- the Fount slot it references (R332 FTREF) -/
  slot  : Option (Fin 8)
  deriving DecidableEq, Repr, Inhabited

/-- What a window brings to one element: NaR, an exact sum on the 2^−112 grid (with the flag that the element starts from
zero), or the new binary32 value (R202, R211, R212). -/
inductive AccVal where
  | nar
  | sum (fresh : Bool) (d : Int)
  | f32 (p : Nat)
  deriving DecidableEq, Repr, Inhabited

/-- A window of a Press that has not been written back yet (R148, R149). -/
structure AccWin where
  index : BitVec 24
  pass  : Nat
  press : Fin 4
  tile  : Nat
  kind  : BitVec 2
  cols  : Nat
  m0    : Nat
  n0    : Nat
  width : Nat
  /-- row by row, width values each -/
  vals  : List AccVal
  deriving DecidableEq, Repr, Inhabited

/-- An accumulate in progress (R172). -/
structure Acc where
  index  : BitVec 24
  tile   : Nat
  rows   : Nat
  cols   : Nat
  kind   : BitVec 2
  k      : Nat
  init   : Bool
  /-- flags its products set, by first slot of the tile: OVF, NAR, FLUSH -/
  flags  : List (Nat × Bool × Bool × Bool)
  deriving DecidableEq, Repr, Inhabited

/-- One operand element as stored: its pattern (Q2 and Q1 already resolved to a posit8 pattern), and for BP8 and RS8 its
block or row scale and the tensor scale (R186). -/
structure Elem where
  fmt : Fmt
  pat : Nat
  sc  : Nat
  ts  : Nat
  deriving DecidableEq, Repr, Inhabited

/-- Weights that the Presses hold for REUSE (R160). -/
structure Held where
  n   : Nat
  k   : Nat
  fmt : Fmt
  w   : List (List Elem)
  deriving DecidableEq, Repr, Inhabited

/-- One Press (R180). -/
structure Press where
  /-- bypassed physical columns, ascending -/
  cols     : List (Fin 128)
  retired  : Bool
  hintDiff : Bool
  width    : BitVec 8
  deriving DecidableEq, Repr, Inhabited

/-- The sticky conversion flags of R134. -/
structure CvtStatus where
  ovf    : Bool
  nar    : Bool
  flush  : Bool
  srzero : Bool
  deriving DecidableEq, Repr, Inhabited

/-- The sticky bits of R332. -/
structure VecStatus where
  zrow  : Bool
  rsat  : Bool
  qsat  : Bool
  ftwrv : Bool
  ftpar : Bool
  deriving DecidableEq, Repr, Inhabited

/-- FORME.ACC_EVENTS (R242). -/
structure AccEvents where
  ovf   : BitVec 16
  nar   : BitVec 16
  flush : BitVec 16
  flat  : BitVec 16
  deriving DecidableEq, Repr, Inhabited

/-- FOUNT.SLOT_DESC and FOUNT.SLOT_SRC of one slot (R329, R331). -/
structure FountSlot where
  kind    : BitVec 2
  valid   : Bool
  func    : BitVec 4
  version : BitVec 16
  crc     : BitVec 32
  src     : BitVec 52
  deriving DecidableEq, Repr, Inhabited

/-- The table load in progress (R336). -/
structure FtLoad where
  index   : BitVec 24
  slot    : Fin 8
  kind    : BitVec 2
  func    : BitVec 4
  version : BitVec 16
  src     : BitVec 52
  /-- its transfer has started -/
  started : Bool
  /-- source bytes that have arrived from another die, by address -/
  data    : Table Byte
  /-- PCRC failures by address (R567) -/
  pcrc    : Table Nat
  deriving DecidableEq, Repr, Inhabited

/-- FORME.FOLIO.STATE (R376). -/
inductive FState where
  | idle | run | quiesce | paused | abort
  deriving DecidableEq, Repr, Inhabited

/-- The front end and what a folio start latches (R347, R372, R375). -/
structure FrontEnd where
  folioId  : BitVec 32
  state    : FState
  lforme   : BitVec 4
  g1       : Bool
  cadence  : Bool
  handle   : BitVec 16
  /-- folio header address in die-local GDDR7 -/
  folio    : Nat
  /-- program OFFSET and LENGTH (R344) -/
  offset   : Nat
  length   : Nat
  /-- index of the next undispatched instruction -/
  next     : Nat
  /-- external tokens -/
  ext      : BitVec 16
  /-- FORME.QSTAT.STALL (R377) -/
  stall    : BitVec 3
  deriving DecidableEq, Repr, Inhabited

/-- The entries latched at folio start (R347). -/
structure Latched where
  srK         : BitVec 8
  scaleTarget : BitVec 32
  smoothAlpha : BitVec 8
  g1Margin    : BitVec 8
  staleThr    : BitVec 16
  autoRescue  : BitVec 8
  waitTimeout : BitVec 32
  deriving DecidableEq, Repr, Inhabited

/-- FORME.PROG_ERR (R379). -/
structure ProgErr where
  code   : BitVec 8
  queue  : BitVec 3
  more   : Bool
  field  : BitVec 8
  lforme : BitVec 4
  index  : BitVec 24
  valid  : Bool
  deriving DecidableEq, Repr, Inhabited

/-- What a Carriage waits for (R450, R451, R455). -/
inductive CarPhase where
  /-- holds no copy -/
  | idle
  /-- every destination byte is written; COPY_COMPLETE may follow -/
  | written
  /-- read requests outstanding: pieces (address, length) not yet answered -/
  | reading (pieces : List (Nat × Nat))
  /-- write packets outstanding: pieces (address, length) not yet acknowledged -/
  | acking (pieces : List (Nat × Nat))
  deriving DecidableEq, Repr, Inhabited

/-- One Carriage (R450, R568). -/
structure Carriage where
  busy   : Bool
  remote : Bool
  index  : BitVec 24
  bytes  : BitVec 32
  copyId : BitVec 16
  phase  : CarPhase
  entry  : Option QEntry
  /-- source bytes that have arrived, by global address -/
  data   : Table Byte
  /-- PCRC failures of the copy's packets, by address (R567) -/
  pcrc   : Table Nat
  deriving DecidableEq, Repr, Inhabited

/-- GALLEY.FLIP (R711), the split-access registers (R710), FORME.FAULT_CTRL (R695), GALLEY.BANK_CTRL (R429). -/
structure FormeTest where
  flipByte  : BitVec 6
  dmask     : BitVec 8
  pflip     : Bool
  arm       : Bool
  splitOff  : BitVec 24
  splitMem  : BitVec 2
  splitRef  : Bool
  splitData : Word
  splitPar  : BitVec 8
  retire    : Bool
  retired   : Bool
  hold      : Bool
  bank      : BitVec 5
  bankRet   : Bool
  bankAct   : Bool
  deriving DecidableEq, Repr, Inhabited

/-- A pending abort of a Forme's part of a folio (R381, R690). -/
structure AbortInfo where
  /-- program error code, 0 for an error of stored data -/
  code : BitVec 8
  deriving DecidableEq, Repr, Inhabited

/-- Press arithmetic state of a Forme. -/
structure PressUnit where
  presses  : Vector Press 4
  retireRq : BitVec 4
  active   : BitVec 4
  held     : Option Held
  accs     : List Acc
  wins     : List AccWin
  events   : AccEvents
  /-- FORME.TILE_STATUS words of the 256 slots (R205), default 0 -/
  tiles    : Table Word
  deriving DecidableEq, Repr, Inhabited

/-- The five queues and the instructions beyond them (R352). -/
structure QueueUnit where
  cq : List QEntry
  pq : List QEntry
  vq : List QEntry
  fq : List QEntry
  sq : List QEntry
  flights : List Flight
  deriving DecidableEq, Repr, Inhabited

/-- The vector and Fount units and the stochastic-rounding contexts. -/
structure VecUnit where
  cvt    : CvtStatus
  vec    : VecStatus
  /-- lane states by context × 128 + lane; default the states of SRSEED with key 0 (R120) -/
  sr     : Table (BitVec 32)
  /-- per-lane quires: quire j of lane l at 4l + j, default 0 (R299, R302) -/
  vq     : Table (BitVec 512)
  /-- Fount table bytes by offset in the Forme's window (R327) -/
  fount  : ParMem
  slots  : Vector FountSlot 8
  ftLoad : Option FtLoad
  /-- the 128-byte line (slot × 1024 + line) whose last lookup failed parity and was fetched again (R689) -/
  ftFail : Option Nat
  deriving DecidableEq, Repr, Inhabited

/-- One Forme. -/
structure Forme where
  fe     : FrontEnd
  lat    : Latched
  tok    : Vector (BitVec 32) 16
  bal    : Vector (BitVec 16) 16
  q      : QueueUnit
  pu     : PressUnit
  vu     : VecUnit
  galley : ParMem
  quire  : ParMem
  carr   : Vector Carriage 8
  err    : ProgErr
  test   : FormeTest
  /-- local byte ranges (address, length) that the running folio's instructions have as destinations (R381) -/
  dests  : List (Nat × Nat)
  abort  : Option AbortInfo
  /-- line to check after a GALLEY or QUIRE abort (R693): local address of the line -/
  line   : Option Nat
  deriving DecidableEq, Repr, Inhabited

/-! ### Reset values -/

/-- An empty on-chip memory before it is first zeroed: its contents are free (log 5). -/
def ParMem.unset (k : Nat) : ParMem := ⟨⟨k + 1, []⟩, []⟩

/-- A memory that reads as zero everywhere, with correct parity (R204, R334, R807). -/
def ParMem.zero : ParMem := ⟨⟨0, []⟩, []⟩

/-- Lane l of a context seeded with a key (R119, R120). -/
def srSeed (key : BitVec 32) (l : Nat) : BitVec 32 :=
  let v := key ^^^ BitVec.ofNat 32 (l * 0x9E3779B9)
  if v = 0 then 1 else v

/-- Default of the lane table: every context as SRSEED with key 0 leaves it (R120). -/
def srDefault (i : Nat) : BitVec 32 := srSeed 0 (i % 128)

/-- A Press before BIST (log 12). -/
def Press.reset : Press := ⟨[], false, false, 0⟩

/-- A Carriage that holds no copy. -/
def Carriage.reset : Carriage := ⟨false, false, 0, 0, 0, .idle, none, [], []⟩

/-- A Fount slot at die reset (R334). -/
def FountSlot.reset : FountSlot := ⟨0, false, 0, 0, 0, 0⟩

/-- The latched values before the first folio start: the entries' defaults (log 6). -/
def Latched.reset : Latched := ⟨12, 2, 4, 0, 64, 0, 100000⟩

/-- A front end with no folio. -/
def FrontEnd.reset : FrontEnd := ⟨0, .idle, 0, false, false, 0, 0, 0, 0, 0, 0, 0⟩

/-- A Forme at die reset; k and k + 1 number the free contents of its memories (log 5). -/
def Forme.reset (k : Nat) : Forme where
  fe := FrontEnd.reset
  lat := Latched.reset
  tok := Vector.replicate 16 0
  bal := Vector.replicate 16 0
  q := ⟨[], [], [], [], [], []⟩
  pu := { presses := Vector.replicate 4 Press.reset, retireRq := 0, active := 0, held := none, accs := [], wins := [],
          events := ⟨0, 0, 0, 0⟩, tiles := [] }
  vu := { cvt := ⟨false, false, false, false⟩, vec := ⟨false, false, false, false, false⟩, sr := [], vq := [],
          fount := ParMem.zero, slots := Vector.replicate 8 FountSlot.reset, ftLoad := none, ftFail := none }
  galley := ParMem.unset k
  quire := ParMem.unset (k + 1)
  carr := Vector.replicate 8 Carriage.reset
  err := ⟨0, 0, false, 0, 0, 0, false⟩
  test := ⟨0, 0, false, false, 0, 0, false, 0, 0, false, false, false, 0, false, false⟩
  dests := []
  abort := none
  line := none

end Sys2Proof.Machine
end

