-- ==== Sys2Proof/Machine/StFabric.lean ====
section
/-! DEFINITION. State of the GDDR7 controllers, the tables, Span, the collective engine, the Abutment port and the RDMA
engine (spec/06, 11, 12, 13, 14, 15). -/

namespace Sys2Proof.Machine

/-! ### GDDR7 (spec/11) -/

/-- An extent-table entry (R465). -/
structure ExtEntry where
  pext  : BitVec 16
  state : BitVec 3
  cecnt : BitVec 16
  ue    : Bool
  deriving DecidableEq, Repr, Inhabited

/-- One channel (R480 to R483). -/
structure Chan where
  retraining : Bool
  fails      : Nat
  dead       : Bool
  /-- timebase at which it last trained -/
  trainedAt  : Word
  deriving DecidableEq, Repr, Inhabited

/-- MEM.EXT_RETIRE (R470). -/
structure ExtRetire where
  lext    : BitVec 16
  busy    : Bool
  done    : Bool
  refused : Bool
  rsn     : BitVec 4
  newpext : BitVec 16
  /-- logical extent that moves while BUSY -/
  moving  : BitVec 16
  /-- logical extent of the spare in use while BUSY -/
  spare   : BitVec 16
  deriving DecidableEq, Repr, Inhabited

/-- The GDDR7 of the die. -/
structure Gddr where
  /-- bytes by physical address -/
  phys  : Mem
  /-- physical 256-byte granules that report uncorrectable until written (R477, R479) -/
  lost  : List Nat
  ext   : Table ExtEntry
  ret   : ExtRetire
  /-- physical extents for which the record of R699 has been made -/
  ceRec : List Nat
  chans : Table Chan
  /-- channels waiting to retrain, oldest trigger first (R481) -/
  wait  : List Nat
  deriving DecidableEq, Repr, Inhabited

/-- The extent table at die start before retirements are applied (R467). -/
def extDefault (l : Nat) : ExtEntry :=
  ⟨BitVec.ofNat 16 l, if l < 40448 then 1 else if l < 40960 then 3 else 0, 0, false⟩

/-- A channel that has trained. -/
def chanDefault (_ : Nat) : Chan := ⟨false, 0, false, 0⟩

/-! ### Tables -/

/-- A tag-table entry (R487). -/
structure TagEntry where
  cls       : BitVec 4
  count     : Bool
  sample    : Bool
  nfalarm   : Bool
  shift     : BitVec 5
  streakLim : BitVec 16
  ulpLim    : BitVec 16
  elems     : BitVec 47
  live      : Bool
  streak    : BitVec 16
  zero      : BitVec 32
  low       : BitVec 32
  high      : BitVec 32
  nonfin    : BitVec 32
  zlost     : BitVec 32
  flat      : BitVec 32
  samples   : BitVec 32
  worst     : BitVec 32
  worstAll  : BitVec 32
  worstStep : BitVec 32
  alarms    : BitVec 6
  almStep   : BitVec 32
  prev      : BitVec 320
  deriving DecidableEq, Repr, Inhabited

/-- A tag entry at reset (R487: SHIFT 12, every other field 0). -/
def tagDefault (_ : Nat) : TagEntry :=
  ⟨0, false, false, false, 12, 0, 0, 0, false, 0, 0, 0, 0, 0, 0, 0, 0, 0, 0, 0, 0, 0, 0⟩

/-- A scale-history entry (R276). -/
structure HistEntry where
  amax    : Vector (BitVec 32) 16
  pending : BitVec 32
  head    : BitVec 4
  count   : BitVec 5
  scale   : BitVec 8
  fmt     : BitVec 5
  enable  : Bool
  rebuilt : Bool
  stale   : Bool
  flat    : Bool
  deriving DecidableEq, Repr, Inhabited

/-- A scale-history entry at reset (R276). -/
def histDefault (_ : Nat) : HistEntry := ⟨Vector.replicate 16 0, 0, 0, 0, 0, 0, false, false, false, false⟩

/-- A route-table entry (R557). -/
structure Route where
  ports : BitVec 11
  valid : Bool
  spray : Bool
  own   : Bool
  deriving DecidableEq, Repr, Inhabited

/-- A route entry at reset (R557). -/
def routeDefault (_ : Nat) : Route := ⟨0, false, false, false⟩

/-- A memory-region entry (R609). -/
structure Region where
  base   : BitVec 40
  valid  : Bool
  rwrite : Bool
  rread  : Bool
  loc    : Bool
  length : BitVec 40
  keytag : BitVec 18
  pd     : BitVec 16
  deriving DecidableEq, Repr, Inhabited

/-- A memory-region entry at reset (R609). -/
def regionDefault (_ : Nat) : Region := ⟨0, false, false, false, false, 0, 0, 0⟩

/-- A remote-window entry (R611). -/
structure Window where
  qpn   : BitVec 14
  valid : Bool
  rd    : Bool
  wr    : Bool
  rkey  : BitVec 32
  raddr : Word
  deriving DecidableEq, Repr, Inhabited

/-- A remote-window entry at reset (log 6). -/
def windowDefault (_ : Nat) : Window := ⟨0, false, false, false, 0, 0⟩

/-- The die tables. -/
structure Tables where
  tags    : Table TagEntry
  hist    : Table HistEntry
  routes  : Table Route
  regions : Table Region
  windows : Table Window
  deriving DecidableEq, Repr, Inhabited

/-! ### Proofreader (spec/12) -/

/-- A record of the alarm queue (R504). -/
structure Alarm where
  tag  : BitVec 12
  kind : BitVec 4
  step : BitVec 32
  deriving DecidableEq, Repr, Inhabited

/-- PROOF.CTRL and the alarm queue, oldest first (R503, R504). -/
structure Proof where
  step    : BitVec 32
  closing : Bool
  almint  : Bool
  alarms  : List Alarm
  deriving DecidableEq, Repr, Inhabited

/-! ### Time, barriers, Impression log (spec/13) -/

/-- The timebase (R520 to R524). -/
structure TimeBase where
  ns       : Word
  frac     : BitVec 8
  master   : BitVec 12
  offsetPs : BitVec 32
  locked   : Bool
  deriving DecidableEq, Repr, Inhabited

/-- An arrival that a root keeps (R532). -/
structure Arrival where
  die   : BitVec 12
  time  : Word
  root  : BitVec 12
  pm1   : BitVec 12
  since : Word
  deriving DecidableEq, Repr, Inhabited

/-- A Keystone barrier (R525). -/
structure Bar where
  root     : BitVec 12
  pm1      : BitVec 12
  token    : BitVec 4
  formes   : BitVec 12
  armed    : Bool
  released : Bool
  late     : Bool
  error    : Bool
  aborted  : Bool
  time     : Word
  armedAt  : Word
  /-- announced release time not yet reached -/
  relTime  : Option Word
  arrivals : List Arrival
  deriving DecidableEq, Repr, Inhabited

/-- A barrier at reset. -/
def Bar.reset : Bar := ⟨0, 0, 0, 0, false, false, false, false, false, 0, 0, none, []⟩

/-- A record that the local ring of the Impression log holds: its SEQ, its place in the ring and its bytes (R540). -/
structure LogRec where
  seq  : Nat
  pos  : Nat
  size : Nat
  deriving DecidableEq, Repr, Inhabited

/-- The Impression log (R538 to R545). -/
structure ImpLog where
  head   : Nat
  lost   : Nat
  wpos   : Nat
  recs   : List LogRec
  mirrorLost : Bool
  deriving DecidableEq, Repr, Inhabited

/-! ### Span (spec/14) -/

/-- A Span port (R548 to R553). -/
structure Port where
  st      : BitVec 4
  lanes   : BitVec 3
  hold    : Bool
  farId   : BitVec 12
  farPort : BitVec 4
  enc     : Bool
  hreason : BitVec 3
  retries : BitVec 16
  delay   : BitVec 16
  fails   : Nat
  txSeq   : BitVec 16
  rxSeq   : BitVec 16
  /-- frames sent and not acknowledged, oldest first (at most 32, R549); each frame carries one packet (log 14) -/
  replay  : List (BitVec 16 × SpanPacket)
  /-- packets waiting for room in the replay buffer -/
  txq     : List SpanPacket
  /-- times the oldest frame has been sent without delivery (R550) -/
  tries   : Nat
  /-- packets delivered and not yet handled, oldest first -/
  rx      : List SpanPacket
  deriving DecidableEq, Repr, Inhabited

/-- A port at reset (R553). -/
def Port.reset : Port := ⟨0, 0, false, 0, 0, false, 0, 0, 0, 0, 0, 0, [], [], 0, []⟩

/-- Bytes counted for a copy that another die writes here (R568). -/
structure Partial where
  src    : BitVec 12
  sforme : BitVec 4
  scarr  : BitVec 3
  copyId : BitVec 16
  count  : Nat
  total  : Option Nat
  rtok   : BitVec 4
  rsen   : Bool
  rforme : BitVec 4
  deriving DecidableEq, Repr, Inhabited

/-- The Span side of the die. -/
structure Span where
  /-- the die ID in force since the last Span training (R16) -/
  dieId : BitVec 12
  ports : Vector Port 11
  part  : List Partial
  /-- the latest READ_RESP packets sent, without payload, with their lengths: the sender sends one again on a NACK with
  reason CORRUPT (R567) -/
  served : List (SpanPacket × Nat)
  deriving DecidableEq, Repr, Inhabited

/-- An announcement kept for a collective that has no slot yet (R582). -/
structure CollAnn where
  src    : BitVec 12
  collId : BitVec 32
  kind   : BitVec 3
  op     : BitVec 2
  fmt    : BitVec 5
  count  : BitVec 32
  p      : BitVec 16
  /-- offset of the transfer that it invites -/
  off    : Nat
  deriving DecidableEq, Repr, Inhabited

/-- One transfer of a collective at a rank: where it stands in the tree (R580, R581), and the bytes off to off + bytes of the
travelling image that it moves. -/
structure CollXfer where
  peer    : BitVec 12
  rank    : Nat
  /-- in the reduce phase; otherwise in the distribution phase -/
  reduce  : Bool
  level   : Nat
  off     : Nat
  bytes   : Nat
  /-- receiver: the announcement has been sent; sender: it has arrived -/
  invited : Bool
  /-- receiver: bytes that have arrived, by offset -/
  data    : Table Byte
  sent    : Bool
  /-- receiver: combined or stored; sender: acknowledged -/
  done    : Bool
  /-- PCRC failures by offset (R567) -/
  pcrc    : Table Nat
  deriving DecidableEq, Repr, Inhabited

/-- A collective in progress (R575 to R586). -/
structure CollJob where
  kind    : BitVec 3
  op      : BitVec 2
  fmt     : BitVec 5
  count   : Nat
  src     : Nat
  dst     : Nat
  token   : BitVec 4
  formes  : BitVec 12
  collId  : BitVec 32
  list    : List (BitVec 12)
  rank    : Nat
  /-- the partial result, in the travelling format -/
  part    : List Byte
  /-- result blocks that this rank holds, by offset in the result image -/
  result  : Table (List Byte)
  /-- flags by block number: bit 0 OVF, bit 1 NAR, bit 2 FLUSH -/
  flags   : Table Nat
  recvs   : List CollXfer
  sends   : List CollXfer
  started : Word
  deriving DecidableEq, Repr, Inhabited

/-- A collective slot (R576). -/
structure CollSlot where
  daddr : BitVec 40
  busy  : Bool
  done  : Bool
  fail  : Bool
  fcode : BitVec 3
  ovf   : Bool
  nar   : Bool
  flush : Bool
  job   : Option CollJob
  deriving DecidableEq, Repr, Inhabited

/-- The collective engine. -/
structure Coll where
  /-- SPAN.GROUP registers (R574), default 0 -/
  groups : Table Word
  slots  : Vector CollSlot 8
  anns   : List CollAnn
  deriving DecidableEq, Repr, Inhabited

/-! ### Abutment and RDMA (spec/15) -/

/-- A ring held in GDDR7 (R599). -/
structure Ring where
  base  : BitVec 40
  log2n : BitVec 5
  prod  : BitVec 24
  cons  : BitVec 24
  deriving DecidableEq, Repr, Inhabited

/-- A message that a queue pair has sent and that is not complete (R596, R605, R611). -/
structure OutMsg where
  opc      : Byte
  sig      : Bool
  wrid     : Word
  firstPsn : BitVec 24
  lastPsn  : BitVec 24
  len      : Nat
  laddr    : Nat
  raddr    : Word
  rkey     : BitVec 32
  imm      : BitVec 32
  /-- it comes from the send ring and completes there; otherwise a Carriage posted it -/
  posted   : Bool
  /-- bytes of a READ that have arrived -/
  got      : Nat
  /-- the Carriage copy it belongs to, with the address of its first byte in the remote window -/
  car      : Option (FormeIx × Fin 8)
  win      : Nat
  /-- the bytes that a Carriage's WRITE carries -/
  data     : List Byte
  deriving DecidableEq, Repr, Inhabited

/-- A receive entry that has been consumed (R606): its counter value, ADDR, LEN and LKEY. -/
structure RecvEntry where
  count : BitVec 24
  addr  : Nat
  len   : Nat
  lkey  : BitVec 32
  deriving DecidableEq, Repr, Inhabited

/-- A message being received (R606, R610): a SEND, or a WRITE with its address and key; the entry that it has consumed, and
the bytes that have arrived. -/
structure InMsg where
  write : Bool
  entry : Option RecvEntry
  va    : Nat
  rkey  : BitVec 32
  got   : Nat
  deriving DecidableEq, Repr, Inhabited

/-- Pacing of a queue pair (R619). -/
structure Pace where
  rc      : Frac
  rt      : Frac
  alpha   : Frac
  periods : Nat
  /-- timebase of the last CNP that acted -/
  actedAt : Option Word
  /-- timebase at which the period of CC_TIMER_US that runs now began -/
  tickAt  : Word
  /-- timebase of the last CNP sent to the source (R618) -/
  sentAt  : Option Word
  deriving DecidableEq, Repr, Inhabited

/-- A queue pair (R598 to R603). -/
structure Qp where
  state   : BitVec 3
  ctx     : BitVec 2048
  sq      : Ring
  rq      : Ring
  sendPsn : BitVec 24
  recvPsn : BitVec 24
  /-- oldest PSN not acknowledged -/
  unaPsn  : BitVec 24
  out     : List OutMsg
  inc     : Option InMsg
  /-- a NAK for a missing PSN or an RNR NAK has been sent, and the packet it asks for has not come (R596) -/
  gap     : Bool
  /-- READs of the requester not yet answered -/
  inReads : Nat
  retries : Nat
  rnrs    : Nat
  /-- waiting for an RNR timer until this time -/
  rnrTill : Option Word
  ackedAt : Word
  pace    : Pace
  deriving DecidableEq, Repr, Inhabited

/-- Line rate in Mb/s (R589, R619). -/
def lineRate : Frac := ⟨800000, 1⟩

/-- Pacing at the start (R619: line rate, α = 1). -/
def Pace.reset : Pace := ⟨lineRate, lineRate, ⟨1, 1⟩, 0, none, 0, none⟩

/-- A queue pair in RESET. -/
def qpDefault (_ : Nat) : Qp :=
  ⟨0, 0, ⟨0, 0, 0, 0⟩, ⟨0, 0, 0, 0⟩, 0, 0, 0, [], none, false, 0, 0, 0, none, 0, Pace.reset⟩

/-- A completion queue (R600, R604, R607, R608). -/
structure Cq where
  active : Bool
  ring   : Ring
  armed  : Bool
  /-- completions that wait for room -/
  wait   : List (BitVec 256)
  deriving DecidableEq, Repr, Inhabited

/-- A completion queue in RESET. -/
def cqDefault (_ : Nat) : Cq := ⟨false, ⟨0, 0, 0, 0⟩, false, []⟩

/-- A shared receive queue (R600, R606). -/
structure Srq where
  active : Bool
  ring   : Ring
  limit  : BitVec 16
  deriving DecidableEq, Repr, Inhabited

/-- A shared receive queue in RESET. -/
def srqDefault (_ : Nat) : Srq := ⟨false, ⟨0, 0, 0, 0⟩, 0⟩

/-- A packet held in the ingress buffer (R614). -/
structure Ingress where
  qp    : BitVec 14
  /-- traffic class: 0 BULK, 2 CTRL, 3 CAD (R614) -/
  cls   : BitVec 3
  bytes : Nat
  /-- a READ request -/
  read  : Bool
  deriving DecidableEq, Repr, Inhabited

/-- ABUT.OBJ_CMD (R601). -/
structure ObjCmd where
  num     : BitVec 14
  obj     : BitVec 2
  target  : BitVec 3
  done    : Bool
  refused : Bool
  rsn     : BitVec 3
  deriving DecidableEq, Repr, Inhabited

/-- The Abutment port and the RDMA engine. -/
structure Abut where
  link    : BitVec 2
  served  : BitVec 8
  server  : BitVec 3
  /-- dies that this port still forwards for although they have another server (R594) -/
  grace   : List (Fin 8 × Word)
  cmd     : ObjCmd
  /-- RoCEv2 packets that have reached this die's engine, oldest first -/
  rx      : List RocePacket
  qps     : Table Qp
  cqs     : Table Cq
  srqs    : Table Srq
  ingress : List Ingress
  /-- ETHFWD packets that this die has sent lately, with their PCRC failures: sent again on a NACK with reason CORRUPT
  (R567) -/
  sent    : List (SpanPacket × Nat)
  /-- number of the next ETHFWD packet -/
  fwdSeq  : BitVec 14
  /-- first pieces of forwarded frames that wait for their second piece: source, direction, payload (R593) -/
  pieces  : List (BitVec 12 × Nat × List Byte)
  /-- RAW frames that wait for their egress timestamp: tag, WRID, bytes (R593, R621) -/
  raws    : List (BitVec 32 × Word × Nat)
  nextTag : BitVec 32
  deriving DecidableEq, Repr, Inhabited

end Sys2Proof.Machine
end

