-- ==== Sys2Proof/Machine/StSystem.lean ====
section
/-! DEFINITION. State of the Imposer, the Compositor complex, services, faults, Colophon, start, update, security and
power (spec/16 to 21). -/

namespace Sys2Proof.Machine

/-! ### Imposer (spec/17) -/

/-- Where a folio stands (R670 to R675). -/
inductive FolioState where
  /-- submitted and not started -/
  | ready
  | running
  /-- a pause request waits for its Formes (R372); the flag says that a save follows -/
  | pausing (save : Bool)
  | paused
  /-- its images are being written -/
  | saving
  /-- ends by R381 or R690 once every Forme is idle -/
  | aborting
  deriving DecidableEq, Repr, Inhabited

/-- A folio that the Imposer holds. -/
structure Folio where
  handle  : BitVec 16
  dep     : BitVec 16
  barrier : Bool
  keep    : Bool
  preload : Bool
  resume  : Bool
  minop   : BitVec 3
  addr    : BitVec 40
  saveBase : BitVec 40
  folioId : BitVec 32
  formes  : BitVec 4
  g1      : Bool
  cadence : Bool
  ext     : BitVec 16
  energy  : BitVec 32
  duration : BitVec 32
  peak    : BitVec 32
  skips   : Nat
  state   : FolioState
  /-- physical Formes by logical index once started -/
  fset    : List FormeIx
  /-- operating point, 0 to 5 (R666) -/
  op      : Nat
  /-- TOKEN_INIT of the header -/
  tokInit : BitVec 128
  /-- OFFSET and LENGTH of each program (R344) -/
  progs   : List (Nat × Nat)
  /-- PAUSE and SAVE commands that have not been answered (R373, R675) -/
  cmds    : Nat
  /-- program error code of its end, 0 for an error of stored data -/
  code    : BitVec 8
  deriving DecidableEq, Repr, Inhabited

/-- The Imposer (R676 to R683). -/
structure Imposer where
  cmd     : Ring
  evt     : Ring
  evint   : Bool
  /-- events that wait for room, oldest first -/
  evWait  : List (BitVec 256)
  /-- folios that have not ended, in submission order -/
  folios  : List Folio
  /-- handles that have ended (DEP) -/
  ended   : List (BitVec 16)
  hotHold : Bool
  limit   : Bool
  /-- timebase at which the limiter last acted (R681) -/
  limitAt : Word
  /-- consecutive control intervals below B − POWER_HYST_W -/
  below   : Nat
  /-- handles lowered, latest first -/
  lowered : List (BitVec 16)
  dieMc   : Int
  memMc   : Int
  /-- MODULE_POWER_LIMIT_W and DIE_POWER_LIMIT_W as of the last control interval (R665) -/
  modLimit : Nat
  dieLimit : Nat
  deriving DecidableEq, Repr, Inhabited

/-! ### Compositor complex (spec/01, 16) -/

/-- A cache line of the Compositor cores (R29, R30, R627); the caches are coherent within the die. -/
structure CacheLine where
  bytes : List Byte
  dirty : Bool
  deriving DecidableEq, Repr, Inhabited

/-- The cores' caches and the interrupt controller (R627, R629). -/
structure Cores where
  /-- lines by address / 64 -/
  lines   : List (Nat × CacheLine)
  pending : BitVec 32
  claimed : BitVec 32
  deriving DecidableEq, Repr, Inhabited

/-- Where a request came from (R636). -/
inductive Origin where
  | rdma (qp : BitVec 14)
  | udp (addr : BitVec 128) (port : BitVec 16)
  deriving DecidableEq, Repr, Inhabited

/-- A request (R635); `seq` is the SEQ of its Impression record. -/
structure Req where
  seq    : Nat
  reqId  : Word
  seqId  : Word
  stream : Bool
  cont   : Bool
  origin : Origin
  time   : Word
  /-- its batch has been run a second time after a disagreement (R661) -/
  second : Bool
  /-- taken over from the fenced partner (R656, R660) -/
  taken  : Bool
  deriving DecidableEq, Repr, Inhabited

/-- A stream of a cadence service (R644). -/
structure Stream where
  num    : Word
  latest : Option Req
  prev   : Option Req
  deriving DecidableEq, Repr, Inhabited

/-- A response that waits for the partner's values (R659 to R661). -/
structure MirrorWait where
  req   : Req
  body  : List Byte
  crc   : BitVec 32
  ready : Word
  deriving DecidableEq, Repr, Inhabited

/-- An instance of a cadence service (R643 to R646). -/
structure Instance where
  k      : Nat
  /-- requests of its inputs that are not answered -/
  inputs : List Req
  deriving DecidableEq, Repr, Inhabited

/-- A service slot's run state; its settings are Colophon entries (R631). -/
structure Svc where
  state   : BitVec 8
  reason  : BitVec 8
  /-- the open batch: T of its first request, and its requests in order -/
  batch   : Option (Word × List Req)
  /-- requests of closed batches, running instances and rerun batches that are not answered -/
  flight  : List Req
  streams : List Stream
  /-- timebase at which it entered RUNNING -/
  since   : Word
  /-- number of the next cadence instance -/
  nextK   : Nat
  running : Option Instance
  waiting : Option Instance
  mirror  : List MirrorWait
  /-- values that the partner has sent: REQ_ID, CRC, length -/
  peer    : List (Word × BitVec 32 × BitVec 32)
  /-- requests that the partner has recorded and this die has run too, with their response bodies (R658) -/
  partner : List (Req × List Byte)
  deriving DecidableEq, Repr, Inhabited

/-- A service slot at die start. -/
def Svc.reset : Svc := ⟨0, 0, none, [], [], 0, 0, none, none, [], [], []⟩

/-! ### Faults (spec/18) -/

/-- A record of the error log (R705). -/
structure FaultRec where
  seq    : Word
  time   : Word
  cls    : BitVec 4
  sev    : BitVec 2
  forme  : BitVec 4
  action : BitVec 4
  index  : BitVec 8
  folio  : BitVec 32
  addr   : BitVec 40
  deriving DecidableEq, Repr, Inhabited

/-- Fault handling (R701 to R717). -/
structure Faults where
  /-- the latest 1024 records, oldest first -/
  recs    : List FaultRec
  nextSeq : Word
  /-- a record that HARDINT covers has been logged and not acknowledged (R704) -/
  pendHard : Bool
  ovf     : BitVec 12
  /-- BUCKET_EVENTS and LEVEL per class -/
  events  : Vector Word 12
  level   : Vector (BitVec 16) 12
  /-- timebase of the last leak of each bucket -/
  leakAt  : Vector Word 12
  harts   : BitVec 8
  hardInt : Bool
  fenced  : Bool
  reason  : BitVec 3
  /-- dies of the module seen fenced or in Falsework (R722 DIES_FENCED) -/
  dies    : BitVec 8
  deriving DecidableEq, Repr, Inhabited

/-- The check unit's software requests (R721). -/
structure Check where
  addr : BitVec 40
  len  : BitVec 32
  cont : Bool
  busy : Bool
  done : Bool
  fail : Bool
  crc  : BitVec 32
  deriving DecidableEq, Repr, Inhabited

/-! ### Colophon (spec/19) -/

/-- How the agent tells clients apart (R738). -/
inductive ClientKey where
  | session (id : BitVec 32)
  | addr (c : Client)
  deriving DecidableEq, Repr, Inhabited

/-- A kept response (R738). -/
structure Kept where
  key   : ClientKey
  reqId : BitVec 32
  /-- session in whose name it was sent, 0 for none -/
  sid   : BitVec 32
  time  : Word
  op    : Byte
  status : Byte
  body  : List Byte
  deriving DecidableEq, Repr, Inhabited

/-- A session (R741 to R743). -/
structure Session where
  id        : BitVec 32
  slot      : Fin 8
  keyIn     : List Byte
  keyOut    : List Byte
  lastIn    : Word
  lastOut   : Word
  confirmed : Bool
  openedAt  : Word
  lastAt    : Word
  deriving DecidableEq, Repr, Inhabited

/-- An event (R747). -/
structure Event where
  seq    : Word
  time   : Word
  kind   : BitVec 8
  index  : BitVec 16
  detail : BitVec 32
  deriving DecidableEq, Repr, Inhabited

/-- A subscription (R746, R747). -/
structure Sub where
  key    : ClientKey
  client : Client
  mgmt   : Bool
  mask   : BitVec 32
  queue  : List Event
  lastAt : Word
  sentAt : Word
  deriving DecidableEq, Repr, Inhabited

/-- The Colophon agent. -/
structure Colo where
  /-- values of scalar entries by index × 256 + sub; the default is the entry's default -/
  ent      : Table Nat
  /-- values of writable OCT entries; the default is all zero -/
  oct      : Table (List Byte)
  kept     : List Kept
  sessions : List Session
  nextId   : BitVec 32
  subs     : List Sub
  evSeq    : Word
  /-- GEN of DIE.SPECIMEN (R753) -/
  gen      : BitVec 16
  /-- the values that a running save writes (R727) -/
  saving   : Option (Table Nat × Table (List Byte))
  /-- a request is being processed, and the events that wait for its response (R749) -/
  busy     : Bool
  later    : List Event
  deriving DecidableEq, Repr, Inhabited

/-! ### Start, flash, update, security (spec/20) -/

/-- The boot record's slot part for one component (R768, R773): preferred slot, trial slot, minimum SECVER. -/
structure CompSlot where
  preferred : Bool
  trial     : Option Bool
  minSec    : BitVec 32
  deriving DecidableEq, Repr, Inhabited

/-- A copy of the slot part (R773). -/
structure SlotPart where
  count : Nat
  comps : Vector CompSlot 5
  tagOk : Bool
  deriving DecidableEq, Repr, Inhabited

/-- A copy of the count part (R773). -/
structure CountPart where
  count    : Nat
  failed   : BitVec 8
  tried    : Bool
  digestOk : Bool
  deriving DecidableEq, Repr, Inhabited

/-- What an image slot holds: the image of manufacture, or the bytes written since it was last erased. -/
inductive SlotImage where
  | factory
  | written (bytes : List Byte)
  deriving DecidableEq, Repr, Inhabited

/-- The flash of the die (R768). -/
structure Flash where
  slotA  : SlotPart
  slotB  : SlotPart
  countA : CountPart
  countB : CountPart
  /-- configuration record: the saved entries and OCT entries of R727 -/
  confEnt : Table Nat
  confOct : Table (List Byte)
  /-- retirement record: (logical extent, spare logical extent or itself), in order (R467) -/
  retire : List (Nat × Nat)
  /-- fault record, oldest first, at most 256 (R709), and the count since manufacture -/
  faults : List FaultRec
  hardTotal : BitVec 32
  /-- images by component × 2 + slot; the default is the factory image -/
  images : Table SlotImage
  returned : Bool
  /-- stage in which the latest failed start failed (R763), 0xFF before the first -/
  lastFail : BitVec 8
  deriving DecidableEq, Repr, Inhabited

/-- Starting the die (R757 to R767). -/
structure Boot where
  state   : BitVec 8
  stage   : BitVec 8
  /-- stage in progress, 7 when none is -/
  cur     : BitVec 8
  reason  : BitVec 8
  cause   : BitVec 2
  /-- in Falsework mode from the boot ROM (R763) -/
  romMode : Bool
  startMs : BitVec 32
  /-- nanoseconds since the die reset, and that count when the stage in progress began -/
  age     : Word
  stageAt : Word
  /-- the previous start failed on a trial slot: stage 2 drops the trial mark (R773, R776) -/
  reverts : Bool
  /-- slots chosen by stage 0, per component: true for B -/
  chosen  : Vector Bool 5
  /-- components that this start runs from their trial slots (R776) -/
  onTrial : Vector Bool 5
  deriving DecidableEq, Repr, Inhabited

/-- Live update (R774, R775). -/
structure Update where
  comp   : BitVec 8
  state  : BitVec 8
  result : BitVec 8
  gen    : BitVec 32
  deriving DecidableEq, Repr, Inhabited

/-- Keys, alarms, debug port, attestation (R777 to R788). -/
structure Sec where
  latched   : BitVec 6
  live      : BitVec 6
  keyState  : BitVec 2
  debugOpen : Bool
  debugState : BitVec 8
  erasures  : BitVec 32
  nonce     : List Byte
  ir        : Byte
  mmioPrev  : Word
  report    : List Byte
  reportGen : BitVec 32
  deriving DecidableEq, Repr, Inhabited

/-! ### Module input (spec/21) -/

/-- The input stage and the sensors (R795 to R802). -/
structure Power where
  closed   : Bool
  ovLatch  : Bool
  /-- rows of R797 reached, 0 to 5 -/
  step     : BitVec 3
  good     : Bool
  /-- this die's rails are in regulation -/
  dieUp    : Bool
  /-- dies of the module with a rail out of regulation -/
  railsOut : BitVec 8
  inState  : BitVec 8
  /-- entries into LOW since power-up -/
  lowEvents : BitVec 32
  sensors  : Sensors
  cables   : BitVec 8
  enclOpen : Bool
  slotId   : BitVec 4
  /-- this die pulls FAULT_L low (R791, R793) -/
  faultL   : Bool
  deriving DecidableEq, Repr, Inhabited

/-! ### What leaves the die -/

/-- Something that the die has sent (log 2). -/
inductive Out where
  | span (port : Fin 11) (p : SpanPacket)
  | spanAck (port : Fin 11) (seq : BitVec 16) (nak : Bool)
  | spanHold (port : Fin 11)
  /-- a frame that the wired port sends for a die it serves or for itself: source die ID, TSREQ, tag, bytes -/
  | ethRaw (die : BitVec 12) (tsreq : Bool) (tag : BitVec 32) (bytes : List Byte)
  | roce (qp : BitVec 14) (p : RocePacket)
  | colophon (client : Client) (m : ColoMsg)
  | response (dest : Origin) (svc : Fin 64) (reqId seqId : Word) (stream cont : Bool) (status : Byte) (body : List Byte)
  | mirror (svc : Fin 64) (reqId : Word) (crc len : BitVec 32)
  | mirrorRec (addr : Nat) (bytes : List Byte)
  | fetchRead (dst : BitVec 12) (addr len : Nat)
  | debugData (dr : BitVec 104)
  /-- what a read of a register or of memory by a core returns -/
  | readData (value : Word)
  /-- a core's access takes an access-fault exception (R697) -/
  | coreFault (hart : Fin 8)
  deriving DecidableEq, Repr, Inhabited

end Sys2Proof.Machine
end

