-- ==== Sys2Proof/Machine/State.lean ====
section
/-! DEFINITION. The state of the block, its faults and refusals, and the state after reset. INVENTORY.md lists every field
with the rule that names it. -/

namespace Sys2Proof.Machine

/-- The two builds (R1, R2). -/
inductive Build where
  | uz8 | uz2
  deriving DecidableEq, Repr, Inhabited

/-- Faults of the model: the block has none of its own, since every error that the spec describes is a next state.
`internal` is raised by nobody; it keeps the type inhabited (safe). -/
inductive Fault where
  | internal
  deriving DecidableEq, Repr, Inhabited

/-- Refusals of the model. -/
inductive Refusal where
  /-- raised by a dispatch arm whose command has no meaning yet (safe: the model stops) -/
  | notModelled (mnemonic : String)
  /-- raised by the debug port on an instruction of level 2, which R786 does not describe (safe: the model stops) -/
  | debugLevel2
  deriving DecidableEq, Repr, Inhabited

/-- The outcome of a command. -/
abbrev Result (σ : Type) := Host.Outcome σ Fault Refusal

/-- The state of one Lanven die in its place in a module. -/
structure State where
  build    : Build
  dieIndex : Fin 8
  /-- commands that wait, first in, first out -/
  pending  : List Instr
  /-- the model's own counter of free values (log 4) -/
  free     : Nat
  /-- what the die has sent, oldest first (log 2) -/
  out      : List Out
  tb       : TimeBase
  formes   : Vector Forme 12
  gddr     : Gddr
  tbl      : Tables
  proof    : Proof
  imp      : Imposer
  bars     : Vector Bar 4
  log      : ImpLog
  span     : Span
  coll     : Coll
  abut     : Abut
  cores    : Cores
  svc      : Vector Svc 64
  fault    : Faults
  check    : Check
  colo     : Colo
  boot     : Boot
  flash    : Flash
  upd      : Update
  sec      : Sec
  pwr      : Power
  deriving DecidableEq, Repr

/-- What a command answers. -/
abbrev Outc := Host.Outcome State Fault Refusal

/-- The event happens only when its condition holds; otherwise nothing changes (log 2). -/
def onlyIf (c : Bool) (s t : State) : Outc := .next (bif c then t else s)

/-- Number of dies in the module (R1). -/
def dieCount (b : Build) : Nat :=
  match b with
  | .uz8 => 8
  | .uz2 => 2

/-- The dies with a wired Abutment port (R23). -/
def wiredDie (b : Build) (d : Nat) : Bool :=
  match b with
  | .uz8 => decide (d % 2 = 0)
  | .uz2 => decide (d < 2)

/-- Forwarding partner of a die in an intact module (R24): a wired die serves itself. -/
def homeServer (b : Build) (d : Fin 8) : Fin 8 :=
  if wiredDie b d.1 then d else ⟨d.1 - 1, by omega⟩

/-- Dies that die d serves in an intact module (R24), as a mask. -/
def homeServed (b : Build) (d : Fin 8) : BitVec 8 :=
  BitVec.ofNat 8 (((List.finRange 8).filter (fun e => decide (e.1 < dieCount b) && decide (homeServer b e = d))).foldl
    (fun acc e => acc + 2 ^ e.1) 0)

/-! ### Reset -/

/-- GDDR7 before stage 4: contents free (log 5). -/
def Gddr.reset (k : Nat) : Gddr := ⟨⟨k + 1, []⟩, [], [], ⟨0, false, false, false, 0, 0, 0, 0⟩, [], [], []⟩

/-- The Imposer at reset (R676, R683). -/
def Imposer.reset (b : Build) : Imposer where
  cmd := ⟨0, 0, 0, 0⟩
  evt := ⟨0, 0, 0, 0⟩
  evint := true
  evWait := []
  folios := []
  ended := []
  hotHold := false
  limit := false
  limitAt := 0
  below := 0
  lowered := []
  dieMc := 0
  memMc := 0
  modLimit := match b with | .uz8 => 9600 | .uz2 => 2600
  dieLimit := 1150

/-- Fault handling at reset (R702, R703, R708, R714). -/
def Faults.reset : Faults where
  recs := []
  nextSeq := 0
  pendHard := false
  ovf := 0
  events := Vector.replicate 12 0
  level := Vector.replicate 12 0
  leakAt := Vector.replicate 12 0
  harts := 1
  hardInt := true
  fenced := false
  reason := 0
  dies := 0

/-- The flash as manufactured (log 6). -/
def Flash.factory : Flash where
  slotA := ⟨1, Vector.replicate 5 ⟨false, none, 0⟩, true⟩
  slotB := ⟨0, Vector.replicate 5 ⟨false, none, 0⟩, true⟩
  countA := ⟨1, 0, false, true⟩
  countB := ⟨0, 0, false, true⟩
  confEnt := []
  confOct := []
  retire := []
  faults := []
  hardTotal := 0
  images := []
  returned := false
  lastFail := 0xFF

/-- The Abutment port at reset (R594, R623). -/
def Abut.reset (b : Build) (d : Fin 8) : Abut where
  link := if wiredDie b d.1 then 1 else 0
  served := homeServed b d
  server := BitVec.ofNat 3 (homeServer b d).1
  grace := []
  cmd := ⟨0, 0, 0, false, false, 0⟩
  rx := []
  qps := []
  cqs := []
  srqs := []
  ingress := []
  sent := []
  fwdSeq := 0
  pieces := []
  raws := []
  nextTag := 0

/-- The security logic at a die reset; n numbers the random nonce of this start (R788, log 9), and n + 1 what ATTEST_REPORT
holds before the first report, which the spec does not say (log 4). -/
def Sec.reset (n : Nat) : Sec where
  latched := 0
  live := 0
  keyState := 0
  debugOpen := false
  debugState := 0
  erasures := 0
  nonce := (List.range 16).map (fun i => Config.freeByte n i)
  ir := 0
  mmioPrev := 0
  report := (List.range 400).map (fun i => Config.freeByte (n + 1) i)
  reportGen := 0

/-- A die reset (R757): every register at its Reset value, every memory's contents gone, stage 0 next. What survives is
given: the build and place, the queue, what has been sent, the free-value counter, the flash and the module's input. -/
def dieReset (b : Build) (d : Fin 8) (pending : List Instr) (free : Nat) (out : List Out) (fl : Flash) (p : Power)
    (cause : BitVec 2) : State where
  build := b
  dieIndex := d
  pending := pending
  free := free + 32
  out := out
  tb := ⟨0, 0, BitVec.ofNat 12 d.1, 0, false⟩
  formes := Vector.ofFn (fun f => Forme.reset (free + 2 * f.1))
  gddr := Gddr.reset (free + 24)
  tbl := ⟨[], [], [], [], []⟩
  proof := ⟨0, false, true, []⟩
  imp := Imposer.reset b
  bars := Vector.replicate 4 Bar.reset
  log := ⟨0, 0, 0, [], false⟩
  span := ⟨BitVec.ofNat 12 d.1, Vector.replicate 11 Port.reset, [], []⟩
  coll := ⟨[], Vector.replicate 8 ⟨0, false, false, false, 0, false, false, false, none⟩, []⟩
  abut := Abut.reset b d
  cores := ⟨[], 0, 0⟩
  svc := Vector.replicate 64 Svc.reset
  fault := Faults.reset
  check := ⟨0, 0, false, false, false, false, 0⟩
  colo := ⟨[], [], [], [], 1, [], 0, 0, none, false, []⟩
  boot := ⟨0, 0, 0, 0xFF, cause, false, 0, 0, 0, false, Vector.replicate 5 false, Vector.replicate 5 false⟩
  flash := fl
  upd := ⟨0, 0, 0, 0⟩
  sec := Sec.reset (free + 25)
  pwr := p

/-- The module input with every rail up (log 6). -/
def Power.up : Power where
  closed := true
  ovLatch := false
  step := 5
  good := true
  dieUp := true
  railsOut := 0
  inState := 1
  lowEvents := 0
  sensors := ⟨0, 0, 0, 0, 0, 0, 0, 0⟩
  cables := 0
  enclOpen := false
  slotId := 0
  faultL := false

/-- The block right after the die reset that follows the application of 64 V: Uzonak 8, die 0, factory flash, rails up,
stage 0 about to run (log 1, log 6). -/
def State.reset : State := dieReset .uz8 0 [] 0 [] Flash.factory Power.up 0

end Sys2Proof.Machine
end

