-- ==== Sys2Proof/Machine/Entries.lean ====
section
/-! DEFINITION. The Colophon's entries (spec/19 R723 to R728, R756 and the tables of every chapter): type, access, default and
range of each. -/

namespace Sys2Proof.Machine

/-- Access rights (R725). -/
inductive Access where
  | ro | const | rw | wo | rws
  deriving DecidableEq, Repr, Inhabited

/-- Entry types (R724). -/
inductive EType where
  | u8 | u16 | u32 | u64 | i32 | str | oct (n : Nat) | domain
  deriving DecidableEq, Repr, Inhabited

/-- TYPE codes of R724. -/
def etypeCode : EType → Nat
  | .u8 => 1 | .u16 => 2 | .u32 => 3 | .u64 => 4 | .i32 => 5 | .str => 8 | .oct _ => 9 | .domain => 10

/-- Value bytes of a type; a string's length is its own (R724). -/
def etypeSize : EType → Nat
  | .u8 => 1 | .u16 => 2 | .u32 => 4 | .u64 => 8 | .i32 => 4 | .str => 0 | .oct n => n | .domain => 8

/-- One entry: type, access, default, and its range as an interval (read in two's complement for I32). -/
structure EntSpec where
  typ  : EType
  acc  : Access
  dflt : Nat
  lo   : Int
  hi   : Int
  deriving DecidableEq, Repr, Inhabited

/-- An entry that is only read. -/
def eRo (t : EType) (d : Nat := 0) : Option EntSpec := some ⟨t, .ro, d, 0, 0⟩
/-- A constant entry. -/
def eConst (t : EType) (d : Nat := 0) : Option EntSpec := some ⟨t, .const, d, 0, 0⟩
/-- A read-write entry. -/
def eRw (t : EType) (d : Nat) (lo hi : Int) : Option EntSpec := some ⟨t, .rw, d, lo, hi⟩
/-- A read-write entry that needs a session. -/
def eRws (t : EType) (d : Nat) (lo hi : Int) : Option EntSpec := some ⟨t, .rws, d, lo, hi⟩

/-- Largest values. -/
def max16 : Int := 65535
/-- Largest 32-bit value. -/
def max32 : Int := 4294967295
/-- Largest 64-bit value. -/
def max64 : Int := 18446744073709551615

/-- Key of an entry in the value tables. -/
def entKey (idx sub : Nat) : Nat := idx * 256 + sub

/-- The entries of index 0x1000 to 0x10FF. -/
def spec10 (b : Build) (d : Fin 8) (idx sub : Nat) : Option EntSpec :=
  match idx, sub with
  | 0x1000, 1 => eConst .str | 0x1000, 2 => eConst .u8 (dieCount b) | 0x1000, 3 => eConst .u8 d.1
  | 0x1000, 4 => eConst .u8 12 | 0x1000, 5 => eRo .u8 | 0x1000, 6 => eRo .u16
  | 0x1000, 7 => eConst .u16 (if b = .uz8 then 4000 else 1000) | 0x1000, 8 => eConst .u8 1
  | 0x1010, k => if 1 ≤ k ∧ k ≤ 12 then eRo .u32 else none
  | 0x1020, 1 => eConst (.oct 6) | 0x1020, 2 => eConst (.oct 16)
  | 0x1020, 3 => eRws .u32 0 0 max32 | 0x1020, 4 => eRws .u8 24 1 31 | 0x1020, 5 => eRws .u32 0 0 max32
  | 0x1030, 1 => eConst .u16 47120 | 0x1030, 2 => eRws .u8 1 0 1
  | 0x1030, 3 => eRo .u64 | 0x1030, 4 => eRo .u64 | 0x1030, 5 => eRws .u8 0 0 1 | 0x1030, 6 => eRo .u32
  | 0x1030, 7 => eRw .u16 100 10 10000 | 0x1030, 8 => eRw .u16 60 5 3600
  | 0x1040, 1 => eRo .u8 | 0x1040, 2 => eRo .u8 | 0x1040, 3 => eRo .u8 | 0x1040, 4 => eRo .u8
  | 0x1040, 5 => eRo .u8 | 0x1040, 6 => eRws .u8 0 1 2 | 0x1040, 7 => eRo .u32
  | 0x1050, 1 => eConst .str | 0x1050, 2 => eRo .u8 | 0x1050, 3 => eRo .u8 | 0x1050, 4 => eRo .u8
  | _, _ => none

/-- The entries of index 0x2000 to 0x20FF. -/
def spec20 (b : Build) (idx sub : Nat) : Option EntSpec :=
  match idx, sub with
  | 0x2000, 1 => if b = .uz8 then eRw .u16 9600 1000 9600 else eRw .u16 2600 400 2600
  | 0x2000, 2 => eConst .u16 (if b = .uz8 then 400 else 300)
  | 0x2000, 3 => eConst .u16 (if b = .uz8 then 160 else 44)
  | 0x2000, 4 => eRo .u32 | 0x2000, 5 => eRo .u32 | 0x2000, 6 => eRo .u32 | 0x2000, 7 => eRo .u64
  | 0x2000, 8 => eRo .u32
  | 0x2010, 1 => eRw .u16 1150 300 1150 | 0x2010, 2 => eConst .u16 150 | 0x2010, 3 => eRo .u16
  | 0x2010, 4 => eRo .u16 | 0x2010, 5 => eRo .i32 | 0x2010, 6 => eRo .i32
  | 0x2010, 7 => eRw .u8 95 70 100 | 0x2010, 8 => eRw .u8 90 70 95
  | 0x2010, 9 => eConst .u8 105 | 0x2010, 10 => eConst .u8 115 | 0x2010, 11 => eConst .u16 40
  | 0x2010, 12 => eConst .u16 110 | 0x2010, 13 => eConst .u16 1400
  | 0x2020, 1 => eRw .u16 0 0 1000 | 0x2020, 2 => eRw .u8 0 0 12 | 0x2020, 3 => eRw .u8 8 1 64
  | 0x2020, 4 => eRw .u8 16 0 255 | 0x2020, 5 => eRw .u16 50 10 500
  | 0x2020, 6 => eRo .u64 | 0x2020, 7 => eRo .u32 | 0x2020, 8 => eRo .u32
  | 0x2030, 1 => eRo .u8 | 0x2030, 2 => eRo .u32 | 0x2030, 3 => eRo .i32 | 0x2030, 4 => eRo .i32
  | 0x2030, 5 => eRo .u32 | 0x2030, 6 => eRo .u8
  | _, _ => none

/-- The entries of index 0x3000 to 0x4FFF. -/
def spec34 (idx sub : Nat) : Option EntSpec :=
  match idx, sub with
  | 0x3010, k => if 1 ≤ k ∧ k ≤ 12 then eRo .u32 else none
  | 0x3020, 1 => eConst .u64 84825604096 | 0x3020, 2 => eRo .u16 | 0x3020, 3 => eRo .u16 | 0x3020, 4 => eRo .u32
  | 0x3020, 5 => eRo .u32 | 0x3020, 6 => eRo .u32 | 0x3020, 7 => eRo .u32 | 0x3020, 8 => eRw .u32 1000 100 60000
  | 0x4020, 1 => eRw .u8 12 1 16
  | 0x4030, 1 => eRw .i32 2 (-8) 11 | 0x4030, 2 => eRw .u8 4 0 8 | 0x4030, 3 => eRw .u8 0 0 8
  | 0x4030, 4 => eRw .u16 64 1 max16 | 0x4030, 5 => eRw .u8 0 0 1 | 0x4030, 6 => eConst .u16 4096
  | 0x4040, k => if 1 ≤ k ∧ k ≤ 12 then eRo .u64 else none
  | 0x4050, 1 => eRw .u32 100000 0 4000000 | 0x4050, 2 => eRo .u32 | 0x4050, 3 => eConst .u64 0x1010201020
  | 0x4050, 4 => eRo .u32
  | 0x4060, 1 => eRw .u16 64 1 max16 | 0x4060, 2 => eRw .u16 1 1 max16 | 0x4060, 3 => eRo .u32 | 0x4060, 4 => eRo .u32
  | 0x4060, 5 => eConst .u16 4096 | 0x4060, 6 => some ⟨.u8, .wo, 0, 1, 1⟩
  | _, _ => none

/-- The entries of index 0x5000 to 0x6FFF. -/
def spec56 (b : Build) (idx sub : Nat) : Option EntSpec :=
  match idx, sub with
  | 0x5000, 1 => eRws .u16 0 0 (if b = .uz8 then 4088 else 4094)
  | 0x5010, 1 => eRo .u64 | 0x5010, 2 => eRo .u16 | 0x5010, 3 => eRo .i32 | 0x5010, 4 => eRo .u8
  | 0x5010, 5 => eRw .u32 2000 200 1000000 | 0x5010, 6 => eRw .u32 1000000 0 60000000
  | 0x5020, 1 => eRo .u16 | 0x5020, 2 => eRo .u32 | 0x5020, 3 => eRo .u64 | 0x5020, 4 => eRo .u32
  | 0x5020, 5 => eRo .u32 | 0x5020, 6 => eRo .u32 | 0x5020, 7 => eRo .u32
  | 0x5030, 1 => eConst .u8 8 | 0x5030, 2 => eConst .u8 64 | 0x5030, 3 => eRw .u32 1000000 0 60000000
  | 0x6000, 1 => eRo .u8 | 0x6000, 2 => eConst (.oct 6) | 0x6000, 3 => eRw .u32 0 0 max32
  | 0x6000, 4 => eRw (.oct 16) 0 0 0 | 0x6000, 5 => eRw .u16 0 0 4094 | 0x6000, 6 => eRo .u8 | 0x6000, 7 => eRo .u8
  | 0x6000, 8 => eRws .u8 0 0 1 | 0x6000, 9 => eConst .u16 | 0x6000, 10 => eRw .u64 0 0 max64
  | 0x6010, 1 => eRw .u64 0 0 max64 | 0x6010, 2 => eRw .u64 0 0 max64 | 0x6010, 3 => eRw .u64 0 0 max64
  | 0x6010, 4 => eConst .u16 16384
  | 0x6020, 1 => eRw .u32 2048 0 8192 | 0x6020, 2 => eRw .u32 1024 0 8192 | 0x6020, 3 => eRw .u32 1024 0 8192
  | 0x6020, 4 => eRw .u32 256 8 16384 | 0x6020, 5 => eRw .u8 46 0 63 | 0x6020, 6 => eRw .u8 34 0 63
  | 0x6020, 7 => eRw .u8 50 1 100 | 0x6020, 8 => eRw .u8 1 0 1 | 0x6020, 9 => eRw .u16 256 1 max16
  | 0x6020, 10 => eRw .u16 55 1 10000 | 0x6020, 11 => eRw .u32 400 1 100000 | 0x6020, 12 => eRw .u32 100 1 100000
  | 0x6020, 13 => eRw .u16 50 0 10000
  | 0x6030, 1 => eRo .u64 | 0x6030, 2 => eRo .u64 | 0x6030, 3 => eRo .u64 | 0x6030, 4 => eRo .u64 | 0x6030, 5 => eRo .u64
  | 0x6030, 6 => eRo .u32 | 0x6030, 7 => eRo .u32
  | _, _ => none

/-- The entries of one service slot (R631). -/
def specSvc (sub : Nat) : Option EntSpec :=
  match sub with
  | 0x01 => eRw .u8 0 0 2 | 0x02 => eRw .u64 0 0 max64 | 0x03 => eRw .u8 0 0 2 | 0x04 => eRw .u16 0 1024 max16
  | 0x05 => eRw .u16 0 1 1023 | 0x06 => eRw .u16 128 1 4096 | 0x07 => eRw .u32 2000 1 1000000
  | 0x08 => eRw .u32 0 0 1000000000 | 0x09 => eRw .u32 0 0 max32 | 0x0A => eRw .u8 0 0 1 | 0x0B => eRw .u8 0 0 2
  | 0x0C => eRw .u8 0 0 255 | 0x0D => eRw .u32 0 0 16777216 | 0x0E => eRw .u32 4096 256 1048576
  | 0x0F => eRo .u64 | 0x10 => eRo .u64 | 0x11 => eRw .u8 0 0 1 | 0x12 => eRo .u64 | 0x13 => eRw .u32 500 0 1000000
  | 0x14 => eRo .u8 | 0x15 => eRo .u64 | 0x16 => eRo .u64 | 0x17 => eRo .u64 | 0x18 => eRo .u64 | 0x19 => eRo .u32
  | 0x1A => eRo .u32 | 0x1B => eRo .u64 | 0x1C => eRo .u32 | 0x1D => eRo .u32 | 0x1E => eRo .u32
  | _ => none

/-- The entries of index 0x7000 to 0x8FFF. -/
def spec78 (d : Fin 8) (idx sub : Nat) : Option EntSpec :=
  match idx, sub with
  | 0x7000, 1 => eRo .str | 0x7000, 2 => eConst .u8 64 | 0x7000, 3 => eConst .u16 2500
  | 0x7010, 1 => eRw .u8 0 0 1 | 0x7010, 2 => eRw .u64 0 0 max64 | 0x7010, 3 => eRw .u64 0 2097152 68719476736
  | 0x7010, 4 => eRw .u8 0 0 1 | 0x7010, 5 => eRw .u8 (d.1 ^^^ 1) 0 7 | 0x7010, 6 => eRw .u64 0 0 max64
  | 0x7010, 7 => eRo .u64 | 0x7010, 8 => eRw .u64 0 0 max64 | 0x7010, 9 => eRo .u64
  | 0x8000, 1 => eRo .u64 | 0x8000, 2 => eRo .u32 | 0x8000, 3 => eRo .u16 | 0x8000, 4 => eRo .u8
  | 0x8000, 5 => eRws .u8 0 1 1 | 0x8000, 6 => eRo .u8 | 0x8000, 7 => eRw .u16 64 1 max16 | 0x8000, 8 => eRo .u32
  | 0x8000, 9 => eRo .domain | 0x8000, 10 => eRo .domain
  | i, k =>
    if 0x7100 ≤ i ∧ i ≤ 0x713F then specSvc k
    else if 0x8010 ≤ i ∧ i ≤ 0x801B then
      match k with
      | 1 => eRo .u64 | 2 => eRo .u16 | 3 => eRw .u16 8 1 max16 | 4 => eRw .u32 1000 1 3600000 | _ => none
    else none

/-- The entries of index 0x9000 to 0xFFFF. -/
def spec9F (idx sub : Nat) : Option EntSpec :=
  match idx, sub with
  | 0x9000, 1 => eRws .u8 0 1 1 | 0x9000, 2 => eRo .u8
  | 0x9010, 1 => eConst (.oct 64) | 0x9010, 2 => eRo .u8 | 0x9010, 3 => eRws .u16 300 10 86400
  | 0x9010, 4 => eRws .u32 0 0 max32
  | 0x9020, 1 => eRo .u16 | 0x9020, 2 => eRws .u16 0 0 max16 | 0x9020, 3 => eRws .u32 0x18F 0 0xFFF
  | 0x9020, 4 => eRo .u8 | 0x9020, 5 => eRo .u32
  | 0x9030, 1 => eRo (.oct 16) | 0x9030, 2 => eRws (.oct 160) 0 0 0 | 0x9030, 3 => eRo .u8 | 0x9030, 4 => eConst .u32
  | 0x9040, k => if 1 ≤ k ∧ k ≤ 4 then eRws (.oct 32) 0 0 0 else none
  | 0x9050, 1 => eRws (.oct 32) 0 0 0 | 0x9050, 2 => eRo .domain | 0x9050, 3 => eConst (.oct 176)
  | 0xA000, 1 => eRws .u8 0 0 4 | 0xA000, 2 => some ⟨.domain, .rws, 0, 0, 0⟩ | 0xA000, 3 => eRws .u8 0 1 5
  | 0xA000, 4 => eRo .u8 | 0xA000, 5 => eRo .u8
  | 0xF000, 1 => eRo .domain | 0xF000, 2 => eRo .u16 | 0xF000, 3 => eRo .u32
  | i, k =>
    if i = 0x9010 ∧ 0x10 ≤ k ∧ k ≤ 0x17 then eRws (.oct 64) 0 0 0
    else if 0xA010 ≤ i ∧ i ≤ 0xA014 then
      match k with
      | 1 => eRo .u8 | 2 => eRo .u32 | 3 => eRo .u32 | 4 => eRo .u32 | 5 => eRo .u32 | _ => none
    else none

/-- Highest sub-index present under an index that holds entries (R723). -/
def highestSub (idx : Nat) : Option Nat :=
  match idx with
  | 0x1000 => some 8 | 0x1010 => some 12 | 0x1020 => some 5 | 0x1030 => some 8 | 0x1040 => some 7 | 0x1050 => some 4
  | 0x2000 => some 8 | 0x2010 => some 13 | 0x2020 => some 8 | 0x2030 => some 6
  | 0x3010 => some 12 | 0x3020 => some 8 | 0x4020 => some 1 | 0x4030 => some 6 | 0x4040 => some 12 | 0x4050 => some 4
  | 0x4060 => some 6 | 0x5000 => some 1 | 0x5010 => some 6 | 0x5020 => some 7 | 0x5030 => some 3
  | 0x6000 => some 10 | 0x6010 => some 4 | 0x6020 => some 13 | 0x6030 => some 7
  | 0x7000 => some 3 | 0x7010 => some 9 | 0x8000 => some 10
  | 0x9000 => some 2 | 0x9010 => some 0x17 | 0x9020 => some 5 | 0x9030 => some 4 | 0x9040 => some 4 | 0x9050 => some 3
  | 0xA000 => some 5 | 0xF000 => some 3
  | i =>
    if 0x7100 ≤ i ∧ i ≤ 0x713F then some 0x1E
    else if 0x8010 ≤ i ∧ i ≤ 0x801B then some 4
    else if 0xA010 ≤ i ∧ i ≤ 0xA014 then some 5
    else none

/-- The entry at an index and a sub-index (R723, R756). -/
def entSpec (b : Build) (d : Fin 8) (idx sub : Nat) : Option EntSpec :=
  if sub = 0 then (highestSub idx).bind (fun h => eConst .u8 h)
  else if idx < 0x2000 then spec10 b d idx sub
  else if idx < 0x3000 then spec20 b idx sub
  else if idx < 0x5000 then spec34 idx sub
  else if idx < 0x7000 then spec56 b idx sub
  else if idx < 0x9000 then spec78 d idx sub
  else spec9F idx sub

/-- Default of an entry by its key. -/
def entDefault (b : Build) (d : Fin 8) (key : Nat) : Nat :=
  match entSpec b d (key / 256) (key % 256) with
  | some e => e.dflt
  | none => 0

/-- Value that the table of entries holds (settings and counters; reflected entries are read from their registers). -/
def entN (s : State) (idx sub : Nat) : Nat := tget (entDefault s.build s.dieIndex) s.colo.ent (entKey idx sub)

/-- Sets an entry of the table. -/
def setEnt (s : State) (idx sub v : Nat) : State :=
  { s with colo := { s.colo with ent := tset (entDefault s.build s.dieIndex) s.colo.ent (entKey idx sub) v } }

/-- Adds to a counter entry of a given width, which wraps (R7 and each table). -/
def bumpEnt (s : State) (idx sub k width : Nat) : State := setEnt s idx sub ((entN s idx sub + k) % 2 ^ width)

/-- Entries that keep their values across die starts (R727). -/
def savedKey (key : Nat) : Bool :=
  let idx := key / 256
  let sub := key % 256
  decide ((idx = 0x1020 ∧ 3 ≤ sub ∧ sub ≤ 5) ∨ (idx = 0x1030 ∧ (sub = 2 ∨ sub = 7 ∨ sub = 8)) ∨ (idx = 0x2000 ∧ sub = 1)
    ∨ (idx = 0x2010 ∧ (sub = 1 ∨ sub = 7 ∨ sub = 8)) ∨ (idx = 0x3020 ∧ sub = 8) ∨ (idx = 0x5000 ∧ sub = 1)
    ∨ (idx = 0x6000 ∧ ((3 ≤ sub ∧ sub ≤ 5) ∨ sub = 8)) ∨ (idx = 0x8000 ∧ sub = 7)
    ∨ (0x8010 ≤ idx ∧ idx ≤ 0x801B ∧ (sub = 3 ∨ sub = 4)) ∨ (idx = 0x9010 ∧ (sub = 3 ∨ (0x10 ≤ sub ∧ sub ≤ 0x17))))

end Sys2Proof.Machine
end

