-- ==== Sys2Proof/Machine/Mem.lean ====
section
/-! DEFINITION. Byte memories, their parity, and the GDDR7 window behind the extent table (spec/10, 11, 18). -/

namespace Sys2Proof.Machine

/-! ### Byte memories -/

/-- What an unlisted byte reads as: zero in epoch 0, a free byte before (log 5). -/
def memDefault (epoch a : Nat) : Byte :=
  match epoch with
  | 0 => 0
  | k + 1 => Config.freeByte k a

/-- The byte at an address. -/
def Mem.byte (m : Mem) (a : Nat) : Byte := tget (memDefault m.epoch) m.cells a

/-- Writes one byte. -/
def Mem.put (m : Mem) (a : Nat) (b : Byte) : Mem := { m with cells := tset (memDefault m.epoch) m.cells a b }

/-- The canonical form of a memory. -/
def Mem.wf (m : Mem) : Bool := tableWf (memDefault m.epoch) m.cells

/-- n bytes from an address. -/
def Mem.bytes (m : Mem) (a n : Nat) : List Byte := (List.range n).map (fun i => m.byte (a + i))

/-- Writes bytes at their addresses, in order. -/
def Mem.putAll (m : Mem) (bs : List (Nat × Byte)) : Mem := bs.foldl (fun m p => m.put p.1 p.2) m

/-- Bytes with the addresses they take from an address on. -/
def placed : Nat → List Byte → List (Nat × Byte)
  | _, [] => []
  | a, b :: bs => (a, b) :: placed (a + 1) bs

/-- The canonical form of an on-chip memory: of its bytes, and of the list of addresses with wrong parity (strictly rising). -/
def ParMem.wf (m : ParMem) : Bool := m.mem.wf && decide (m.bad.Pairwise (· < ·))

/-- Writes one byte with correct parity (R684). -/
def ParMem.put (m : ParMem) (a : Nat) (b : Byte) : ParMem := ⟨m.mem.put a b, m.bad.filter (· ≠ a)⟩

/-- Writes bytes with correct parity, in order. -/
def ParMem.putAll (m : ParMem) (bs : List (Nat × Byte)) : ParMem := bs.foldl (fun m p => m.put p.1 p.2) m

/-- The byte at an address. -/
def ParMem.byte (m : ParMem) (a : Nat) : Byte := m.mem.byte a

/-- n bytes from an address. -/
def ParMem.bytes (m : ParMem) (a n : Nat) : List Byte := m.mem.bytes a n

/-- Number of ones of a byte, modulo 2: the odd-parity bit of R684 is its complement. -/
def oddOnes (b : Byte) : Bool := (List.range 8).foldl (fun acc i => acc ^^ b.getLsbD i) false

/-- Stores a byte and a parity bit exactly as given (R710): the address is bad when the nine bits hold an even number of
ones. -/
def ParMem.putRaw (m : ParMem) (a : Nat) (b : Byte) (par : Bool) : ParMem :=
  let m := m.put a b
  if oddOnes b ^^ par then m else { m with bad := (m.bad.filter (· < a)) ++ a :: m.bad.filter (a < ·) }

/-- The parity bit stored with a byte. -/
def ParMem.par (m : ParMem) (a : Nat) : Bool := (!oddOnes (m.byte a)) ^^ m.bad.contains a

/-- An address lies in one of the ranges (start, length). -/
def inRanges (rs : List (Nat × Nat)) (a : Nat) : Bool := rs.any (fun r => decide (r.1 ≤ a) && decide (a < r.1 + r.2))

/-- The lowest byte of the ranges whose parity fails (R684: checked on every read). -/
def ParMem.firstBad (m : ParMem) (rs : List (Nat × Nat)) : Option Nat := m.bad.find? (inRanges rs)

/-! ### GDDR7 (spec/11) -/

/-- Size of the window and of an extent (R435, R464). -/
def gddrBytes : Nat := 85899345920
/-- Bytes of an extent. -/
def extBytes : Nat := 2097152

/-- Entry of a logical extent (R465). -/
def extEntry (g : Gddr) (l : Nat) : ExtEntry := tget extDefault g.ext l

/-- Physical address behind a window address (R465). -/
def physOf (g : Gddr) (a : Nat) : Nat := (extEntry g (a / extBytes)).pext.toNat * extBytes + a % extBytes

/-- The address of the same byte in the spare, while its extent migrates (R474). -/
def physNew (g : Gddr) (a : Nat) : Option Nat :=
  let l := a / extBytes
  if g.ret.busy && decide (l = g.ret.moving.toNat) then
    some ((extEntry g g.ret.spare.toNat).pext.toNat * extBytes + a % extBytes)
  else none

/-- A window address whose extent serves data: not NONE, not CONSUMED (R438, R466, R468). -/
def gddrMapped (g : Gddr) (a : Nat) : Bool :=
  decide (a < gddrBytes) && decide ((extEntry g (a / extBytes)).state ≠ 0) && decide ((extEntry g (a / extBytes)).state ≠ 4)

/-- Every byte of a range of the window is mapped: its first, its last, and each extent between. -/
def gddrRange (g : Gddr) (a n : Nat) : Bool :=
  decide (a + n ≤ gddrBytes) &&
  (List.range ((a + (n - 1)) / extBytes + 1 - a / extBytes)).all (fun i => gddrMapped g ((a / extBytes + i) * extBytes))

/-- The byte at a window address. -/
def gddrByte (g : Gddr) (a : Nat) : Byte := g.phys.byte (physOf g a)

/-- n bytes of the window. -/
def gddrBytesAt (g : Gddr) (a n : Nat) : List Byte := (List.range n).map (fun i => gddrByte g (a + i))

/-- Writes a byte, to the old and the new extent while it migrates (R474); its granule no longer reports uncorrectable
(R477, log 13). -/
def gddrPut (g : Gddr) (a : Nat) (b : Byte) : Gddr :=
  let p := physOf g a
  match physNew g a with
  | none => { g with phys := g.phys.put p b, lost := g.lost.filter (· ≠ p / 256) }
  | some q => { g with phys := (g.phys.put p b).put q b, lost := g.lost.filter (fun x => x ≠ p / 256 ∧ x ≠ q / 256) }

/-- Writes bytes at window addresses, in order. -/
def gddrPutAll (g : Gddr) (bs : List (Nat × Byte)) : Gddr := bs.foldl (fun g p => gddrPut g p.1 p.2) g

/-- Channel of a physical granule (R463). -/
def granuleChannel (granule : Nat) : Nat := granule % 80

/-- A physical granule that cannot be read: reported uncorrectable before and not written since, or on a channel lost under
R483. -/
def granuleLost (g : Gddr) (granule : Nat) : Bool :=
  g.lost.contains granule || (tget chanDefault g.chans (granuleChannel granule)).dead

/-- The window address of the first granule of a range that cannot be read. -/
def gddrLost (g : Gddr) (a n : Nat) : Option Nat :=
  if n = 0 then none
  else
    ((List.range ((a + (n - 1)) / 256 + 1 - a / 256)).map (fun i => (a / 256 + i) * 256)).find?
      (fun x => granuleLost g (physOf g x / 256))

end Sys2Proof.Machine
end

