-- ==== Sys2Proof/Machine/Ops.lean ====
section
/-! DEFINITION. Operations shared by every family: outputs, interrupts and NOTIFY events, the error log and its buckets,
Imposer events, Proofreader alarms, token signals, the queues of a Forme, folio aborts, Span routing and sending. -/

namespace Sys2Proof.Machine

/-! ### Small accessors -/

/-- Changes one Forme. -/
def modForme (s : State) (f : FormeIx) (g : Forme → Forme) : State := { s with formes := vmod s.formes f g }

/-- Forme f. -/
def State.forme (s : State) (f : FormeIx) : Forme := s.formes[f]

/-- Appends to what the die has sent (log 2). -/
def emit (s : State) (o : Out) : State := { s with out := s.out ++ [o] }

/-- The next n free values are used up; the number of the first is s.free (log 4). -/
def useFree (s : State) (n : Nat) : State := { s with free := s.free + n }

/-- The die's units run: its rails are up and it is not fenced (R715). -/
def unitsOn (s : State) : Bool := s.pwr.dieUp && !s.fault.fenced

/-- The timebase value (R520). -/
def now (s : State) : Word := s.tb.ns

/-- Microseconds or milliseconds have passed since a timebase value. -/
def elapsed (s : State) (since : Word) (ns : Nat) : Bool := decide (since.toNat + ns ≤ s.tb.ns.toNat)

/-- Nanoseconds have passed on the count since the die reset, which the Colophon agent uses. -/
def aged (s : State) (since : Word) (ns : Nat) : Bool := decide (since.toNat + ns ≤ s.boot.age.toNat)

/-- The timebase counts: from the end of Span training, or since the die joined a domain's master; until then it holds 0
(R522 to R524). -/
def timeRuns (s : State) : Bool := decide (5 ≤ s.boot.stage.toNat) || decide (s.tb.master ≠ s.span.dieId)

/-- First die ID of the module (R14). -/
def idBase (s : State) : Nat := s.span.dieId.toNat - s.dieIndex.1

/-- Die ID of die d of the module (R14). -/
def idOf (s : State) (d : Nat) : BitVec 12 := BitVec.ofNat 12 (idBase s + d)

/-- The index of a die of the own module, by die ID. -/
def indexOf (s : State) (id : BitVec 12) : Option Nat :=
  if idBase s ≤ id.toNat ∧ id.toNat < idBase s + dieCount s.build then some (id.toNat - idBase s) else none

/-- Retirements in force: Formes, Galley banks and Presses. -/
def retirements (s : State) : Nat :=
  sumN (s.formes.toList.map (fun fm => b2n fm.test.retired + b2n fm.test.bankAct
    + (fm.pu.presses.toList.filter (·.retired)).length))

/-- Each retirement that an effect brings rewrites the Specimen list, and GEN rises by 2 (R753). -/
def relist (before after : State) : State :=
  let n := retirements after - retirements before
  { after with colo := { after.colo with gen := after.colo.gen + BitVec.ofNat 16 (2 * n) } }

/-! ### Colophon messages that the die sends (R730, R742) -/

/-- The header of a message as bytes (R730). -/
def coloHeader (m : ColoMsg) : List Byte :=
  leBytes 24 (m.ver.toNat + m.op.toNat * 2 ^ 8 + m.status.toNat * 2 ^ 16 + b2n m.resp * 2 ^ 24 + b2n m.rsvd * 2 ^ 25
    + m.session.toNat * 2 ^ 32 + m.counter.toNat * 2 ^ 64 + m.reqId.toNat * 2 ^ 128 + m.len.toNat * 2 ^ 160)

/-- Sends a message to a client: inside a session with the next counter and a MAC (R742), otherwise plain. -/
def sendColo (s : State) (key : ClientKey) (c : Client) (m : ColoMsg) : State :=
  match key with
  | .addr _ => emit s (.colophon c m)
  | .session id =>
    match s.colo.sessions.find? (fun x => decide (x.id = id)) with
    | none => emit s (.colophon c m)
    | some se =>
      let m1 := { m with session := id, counter := se.lastOut + 1 }
      let m2 := { m1 with mac := Config.hmacSm3 se.keyOut (coloHeader m1 ++ m1.body) }
      let ses := s.colo.sessions.map (fun x => if x.id = id then { x with lastOut := x.lastOut + 1 } else x)
      emit { s with colo := { s.colo with sessions := ses } } (.colophon c m2)

/-- An event as the 24 bytes of R747. -/
def eventBytes (e : Event) : List Byte :=
  leBytes 8 e.seq.toNat ++ leBytes 8 e.time.toNat ++ [e.kind, 0] ++ leBytes 2 e.index.toNat ++ leBytes 4 e.detail.toNat

/-- A NOTIFY message that delivers events (R747). -/
def notifyMsg (c : Client) (mgmt : Bool) (es : List Event) : ColoMsg :=
  let body := (es.map eventBytes).flatten
  ⟨c, mgmt, false, 1, 5, 0, false, false, 0, 0, 0, BitVec.ofNat 16 body.length, body, []⟩

/-- Appends an event to a subscriber's queue of 256; a full queue loses its oldest events to a LOST event (R747). -/
def pushEvent (q : List Event) (e : Event) : List Event :=
  if q.length < 256 then q ++ [e]
  else
    match q with
    | a :: b :: t =>
      if a.kind = 31 then { a with seq := b.seq, detail := a.detail + 1 } :: t ++ [e]
      else ({ b with kind := 31, index := 0, detail := 2 } : Event) :: t ++ [e]
    | t => t ++ [e]

/-- Delivers an event to the subscription at position i (R747). -/
def deliverEvent (s : State) (e : Event) (i : Nat) : State :=
  match s.colo.subs[i]? with
  | none => s
  | some sub =>
    if sub.mask.getLsbD e.kind.toNat then
      let subs := s.colo.subs.set i { sub with queue := pushEvent sub.queue e, sentAt := s.boot.age }
      let s1 := { s with colo := { s.colo with subs := subs } }
      sendColo s1 sub.key sub.client (notifyMsg sub.client sub.mgmt [e])
    else s

/-- An event goes to every subscriber that selects it (R747). -/
def sendEvent (s : State) (e : Event) : State :=
  (List.range s.colo.subs.length).foldl (fun s i => deliverEvent s e i) s

/-- A Colophon event (R747): numbered, and sent at once, or after the response while the agent processes a request (R749).
A fenced die has none of its own. -/
def notifyEvent (s : State) (kind index detail : Nat) : State :=
  if s.fault.fenced then s
  else
    let e : Event := ⟨s.colo.evSeq, s.tb.ns, BitVec.ofNat 8 kind, BitVec.ofNat 16 index, BitVec.ofNat 32 detail⟩
    let s1 : State := { s with colo := { s.colo with evSeq := s.colo.evSeq + 1 } }
    if s.colo.busy then { s1 with colo := { s1.colo with later := s1.colo.later ++ [e] } } else sendEvent s1 e

/-- The rising edge of interrupt source k: it pends unless it is pending or claimed (R629, R630). -/
def irq (s : State) (k : Nat) : State :=
  if s.fault.fenced || (s.cores.pending ||| s.cores.claimed).getLsbD k then s
  else { s with cores := { s.cores with pending := s.cores.pending ||| BitVec.ofNat 32 (2 ^ k) } }

/-- An interrupt source of R629 with its NOTIFY event of R748. -/
def raise (s : State) (k index detail : Nat) : State := notifyEvent (irq s k) k index detail

/-! ### Error log and buckets (spec/18) -/

/-- Memory classes (R685). -/
inductive MClass where
  | galley | quire | fount | fetch | cacheI | cacheD | ingress | tables | extent | fabric | gddr7 | span | fence
  deriving DecidableEq, Repr, Inhabited

/-- Value of a class (R685). -/
def MClass.code : MClass → Nat
  | .galley => 0 | .quire => 1 | .fount => 2 | .fetch => 3 | .cacheI => 4 | .cacheD => 5 | .ingress => 6
  | .tables => 7 | .extent => 8 | .fabric => 9 | .gddr7 => 10 | .span => 11 | .fence => 12

/-- Severities (R706). -/
inductive Sev where
  | corrected | replay | uncorrected | hard
  deriving DecidableEq, Repr, Inhabited

/-- Value of a severity (R706). -/
def Sev.code : Sev → BitVec 2
  | .corrected => 0 | .replay => 1 | .uncorrected => 2 | .hard => 3

/-- Actions (R707). -/
inductive FAction where
  | none | refetched | folioAborted | entryCleared | resent | dieFenced
  deriving DecidableEq, Repr, Inhabited

/-- Value of an action (R707). -/
def FAction.code : FAction → BitVec 4
  | .none => 0 | .refetched => 1 | .folioAborted => 2 | .entryCleared => 3 | .resent => 4 | .dieFenced => 5

/-- The fault interrupt pends (R704). -/
def faultPends (s : State) : Bool := decide (s.fault.ovf ≠ 0) || s.fault.pendHard

/-- Each rise of the fault interrupt produces a NOTIFY (R704). -/
def faultRise (before after : State) : State :=
  if !faultPends before && faultPends after then notifyEvent after 16 0 after.fault.ovf.toNat else after

/-- BUCKET_LIMIT of a class (R722). -/
def bucketLimit (s : State) (c : Nat) : Nat := entN s (0x8010 + c) 3

/-- One event of a class fills its bucket (R701). -/
def bucketEvent (s : State) (c : Fin 12) : State :=
  let lim := bucketLimit s c.1
  let lvl := min lim ((s.fault.level[c]).toNat + 1)
  { s with fault := { s.fault with
      events := vmod s.fault.events c (· + 1)
      level := vset s.fault.level c (BitVec.ofNat 16 lvl)
      ovf := if lim ≤ lvl then s.fault.ovf ||| BitVec.ofNat 12 (2 ^ c.1) else s.fault.ovf } }

/-- Appends a record to the error log (R705, R708), the flash record (R709; refused after an erasure, R784), HOLD (R694) and the bucket of its class. -/
def logFault (s : State) (cls : MClass) (sev : Sev) (forme : Option FormeIx) (act : FAction) (index : Nat)
    (folio : BitVec 32) (addr : Nat) : State :=
  let r : FaultRec := ⟨s.fault.nextSeq, s.tb.ns, BitVec.ofNat 4 cls.code, sev.code,
    match forme with | some f => BitVec.ofNat 4 f.1 | none => 15, act.code, BitVec.ofNat 8 index, folio, BitVec.ofNat 40 addr⟩
  let keep := (decide (sev = .hard) || decide (act = .dieFenced)) && decide (s.sec.keyState ≠ 2)
  let s1 : State := { s with
    fault := { s.fault with
      recs := (s.fault.recs ++ [r]).drop (s.fault.recs.length + 1 - 1024)
      nextSeq := s.fault.nextSeq + 1
      pendHard := s.fault.pendHard || (s.fault.hardInt && (decide (sev = .hard) || decide (sev = .uncorrected))) }
    flash := if keep then { s.flash with
      faults := (s.flash.faults ++ [r]).drop (s.flash.faults.length + 1 - 256)
      hardTotal := s.flash.hardTotal + 1 } else s.flash }
  let s2 := match forme with
    | some f => if sev = .hard then modForme s1 f (fun fm => { fm with test := { fm.test with hold := true } }) else s1
    | none => s1
  let s3 := if h : cls.code < 12 then bucketEvent s2 ⟨cls.code, h⟩ else s2
  faultRise s s3

/-! ### Imposer events (R672, R676) -/

/-- Entries in a ring that are produced and not consumed (modulo 2^24). -/
def ringUsed (r : Ring) : Nat := (r.prod - r.cons).toNat

/-- Phase bit of the entry at a count (R607, R672): 1 on the first pass. -/
def phaseAt (log2n count : Nat) : Bool := ((count >>> log2n) % 2) = 0

/-- Writes the records that wait while the event ring has room. Each raises the IMPOSER source when EVINT is 1. -/
def flushEvents : Nat → State → State
  | 0, s => s
  | n + 1, s =>
    match s.imp.evWait with
    | [] => s
    | r :: rest =>
      let ring := s.imp.evt
      if ringUsed ring < 2 ^ ring.log2n.toNat then
        let a := ring.base.toNat + 32 * (ring.prod.toNat % 2 ^ ring.log2n.toNat)
        let w := r.toNat + b2n (phaseAt ring.log2n.toNat ring.prod.toNat) * 2 ^ 192
        let s1 : State := { s with
          gddr := gddrPutAll s.gddr (placed a (leBytes 32 w))
          imp := { s.imp with evWait := rest, evt := { ring with prod := ring.prod + 1 } } }
        let s2 := if s.imp.evint then irq s1 10 else s1
        flushEvents n (notifyEvent s2 10 (fieldN r.toNat 0 4) (fieldN r.toNat 8 16))
      else s

/-- Kinds of Imposer event (R672). -/
inductive EvKind where
  | done | paused | saved | started | refused | aborted | discarded
  deriving DecidableEq, Repr, Inhabited

/-- Value of an event kind (R672). -/
def EvKind.code : EvKind → Nat
  | .done => 1 | .paused => 2 | .saved => 3 | .started => 4 | .refused => 5 | .aborted => 6 | .discarded => 7

/-- The event carries measured energy (R672). -/
def EvKind.measured : EvKind → Bool
  | .done => true | .saved => true | .aborted => true | .discarded => true | _ => false

/-- Writes an Imposer event, or lets it wait for room; with no event ring it is discarded (R676). The measured energy is a
free value (log 8). -/
def imposerEvent (s : State) (k : EvKind) (handle : BitVec 16) (reason : Nat) (folioId : BitVec 32) (op : Nat) : State :=
  if s.imp.evt.log2n = 0 then s
  else
    let e := if k.measured then (Config.freeWord s.free).toNat % 2 ^ 32 else 0
    let r := k.code + handle.toNat * 2 ^ 8 + reason * 2 ^ 24 + folioId.toNat * 2 ^ 32 + s.tb.ns.toNat * 2 ^ 64
      + e * 2 ^ 128 + op * 2 ^ 160
    let s1 := if k.measured then useFree s 1 else s
    flushEvents (s1.imp.evWait.length + 1)
      { s1 with imp := { s1.imp with evWait := s1.imp.evWait ++ [BitVec.ofNat 256 r] } }

/-! ### Proofreader alarms (R501 to R505) -/

/-- An alarm of kind k (1 to 6) for a tag: its bit and ALMSTEP, and a record at the queue's end when the bit was clear. The
queue is brought to its bound by `settleAlarms`. -/
def noteAlarm (s : State) (tag : BitVec 12) (k : Nat) : State :=
  let e := tget tagDefault s.tbl.tags tag.toNat
  let e1 := { e with alarms := e.alarms ||| BitVec.ofNat 6 (2 ^ (k - 1)), almStep := s.proof.step }
  let s1 : State := { s with tbl := { s.tbl with tags := tset tagDefault s.tbl.tags tag.toNat e1 } }
  if e.alarms.getLsbD (k - 1) then s1
  else { s1 with proof := { s1.proof with alarms := s1.proof.alarms ++ [⟨tag, BitVec.ofNat 4 k, s.proof.step⟩] } }

/-- Order of records that one Forme cycle raises: the tag, then the kind. -/
def alarmKey (a : Alarm) : Nat := a.tag.toNat * 16 + a.kind.toNat

/-- Puts a record into an ordered list. -/
def insertAlarm (a : Alarm) : List Alarm → List Alarm
  | [] => [a]
  | b :: bs => if alarmKey a < alarmKey b then a :: b :: bs else b :: insertAlarm a bs

/-- Ends the raising of alarms of one command, before which the queue held n records: the new ones in their order (R502; log
24), those beyond 256 lost (R503), and the interrupt when the queue was empty (R504). -/
def settleAlarms (s : State) (n : Nat) : State :=
  let new := (s.proof.alarms.drop n).foldl (fun l a => insertAlarm a l) []
  if new = [] then s
  else
    let all := s.proof.alarms.take n ++ new
    let s1 : State := { s with proof := { s.proof with alarms := all.take 256 } }
    let s2 := if 256 < all.length then setEnt s1 0x4060 4 (satAdd 0xFFFFFFFF (entN s1 0x4060 4) (all.length - 256)) else s1
    if n = 0 ∧ s.proof.almint = true then raise s2 2 0 (min 256 all.length) else s2

/-- Raises alarm kind k (1 to 6) for a tag. -/
def raiseAlarm (s : State) (tag : BitVec 12) (k : Nat) : State :=
  settleAlarms (noteAlarm s tag k) s.proof.alarms.length

/-! ### Tokens (R355 to R366) -/

/-- A folio runs on the Forme (R364). -/
def formeBusy (fm : Forme) : Bool := decide (fm.fe.state ≠ .idle)

/-- Token j is external in the running folio. -/
def isExt (fm : Forme) (j : BitVec 4) : Bool := fm.fe.ext.getLsbD j.toNat

/-- Adds n to a token value (R355, R358). -/
def addToken (fm : Forme) (j : BitVec 4) (n : Nat) : Forme :=
  { fm with tok := vmod fm.tok j.toFin (· + BitVec.ofNat 32 n) }

/-- A signal from outside the Forme's own program (R363): it counts on an external token of a running folio, and is
discarded and counted otherwise (R364). -/
def remoteSignal (s : State) (f : FormeIx) (j : BitVec 4) (n : Nat) : State :=
  if formeBusy (s.forme f) && isExt (s.forme f) j then modForme s f (fun fm => addToken fm j n)
  else bumpEnt s 0x4050 4 1 32

/-- A signal to every Forme that a mask selects (R528, R586). -/
def signalMask (s : State) (mask : BitVec 12) (j : BitVec 4) : State :=
  (List.finRange 12).foldl (fun s f => if mask.getLsbD f.1 then remoteSignal s f j 1 else s) s

/-! ### Queues (R351 to R354) -/

/-- The instructions a queue holds, head first. -/
def QueueUnit.get (u : QueueUnit) : Queue → List QEntry
  | .cq => u.cq | .pq => u.pq | .vq => u.vq | .fq => u.fq | .sq => u.sq

/-- Replaces a queue's contents. -/
def QueueUnit.put (u : QueueUnit) (q : Queue) (l : List QEntry) : QueueUnit :=
  match q with
  | .cq => { u with cq := l } | .pq => { u with pq := l } | .vq => { u with vq := l }
  | .fq => { u with fq := l } | .sq => { u with sq := l }

/-- Depth of a queue (R352). -/
def queueDepth : Queue → Nat
  | .cq => 32 | .pq => 16 | .vq => 32 | .fq => 16 | .sq => 16

/-- Number of a queue in FORME.PROG_ERR and QSTAT.STALL (R377, R379). -/
def queueCode : Queue → BitVec 3
  | .cq => 1 | .pq => 2 | .vq => 3 | .fq => 4 | .sq => 5

/-- The five queues. -/
def allQueues : List Queue := [.cq, .pq, .vq, .fq, .sq]

/-- Field of an instruction word: width bits from bit lo. -/
def wfield (w : BitVec 128) (lo width : Nat) : Nat := fieldN w.toNat lo width

/-- Bit of an instruction word. -/
def wbit (w : BitVec 128) (i : Nat) : Bool := w.toNat.testBit i

/-- Opcode (R384). -/
def QEntry.op (e : QEntry) : Nat := wfield e.word 0 8

/-- The head of a queue when its wait is granted and it has the given opcode (R352). -/
def grantedHead (fm : Forme) (q : Queue) (op : Nat) : Option QEntry :=
  match (fm.q.get q).head? with
  | some e => if e.granted && decide (e.op = op) then some e else none
  | none => none

/-- Removes the head of a queue; the next entry reaches the head now (R365). -/
def popQueue (l : List QEntry) (t : Word) : List QEntry :=
  match l.tail with
  | [] => []
  | e :: es => { e with since := t } :: es

/-- The head leaves its queue and becomes an instruction in flight. -/
def issue (fm : Forme) (q : Queue) (t : Word) (fl : Flight) : Forme :=
  let u := fm.q.put q (popQueue (fm.q.get q) t)
  { fm with q := { u with flights := u.flights ++ [fl] } }

/-- A flight of an entry that claims no context and no slot. -/
def plainFlight (e : QEntry) (q : Queue) (done : Bool) : Flight := ⟨e.index, q, e.word, done, none, none⟩

/-- Marks the flight of an instruction as having reached its completion point (R352). -/
def markDone (fm : Forme) (index : BitVec 24) : Forme :=
  { fm with q := { fm.q with flights := fm.q.flights.map (fun x => if x.index = index then { x with done := true } else x) } }

/-! ### Ending a folio by an error (R381, R690) -/

/-- A Forme's part of an aborted folio: dispatch stops, and the queues are discarded with their signals (R381). -/
def abortForme (fm : Forme) : Forme :=
  { fm with
    fe := { fm.fe with state := .abort, stall := 0 }
    q := { fm.q with cq := [], pq := [], vq := [], fq := [], sq := [] } }

/-- Aborts every Forme of a set. -/
def abortSet (s : State) (fs : List FormeIx) : State := fs.foldl (fun s f => modForme s f abortForme) s

/-- The folio that occupies a Forme. -/
def folioOn (s : State) (f : FormeIx) : Option Folio :=
  s.imp.folios.find? (fun x => decide (x.state ≠ .ready) && x.fset.contains f)

/-- Changes the folio of a handle. -/
def modFolio (s : State) (h : BitVec 16) (g : Folio → Folio) : State :=
  { s with imp := { s.imp with folios := modifyFirst (fun x => decide (x.handle = h)) g s.imp.folios } }

/-- The folio of Forme f begins to end by an error: code 0 for stored data, a program error code otherwise. One end for
several errors; a program error's code prevails over stored data (R691). -/
def abortFolio (s : State) (f : FormeIx) (code : BitVec 8) : State :=
  match folioOn s f with
  | none => modForme s f abortForme
  | some fo =>
    if fo.state = .aborting then
      if fo.code = 0 then modFolio s fo.handle (fun x => { x with code := code }) else s
    else abortSet (modFolio s fo.handle (fun x => { x with state := .aborting, code := code })) fo.fset

/-- Program error codes (R378). -/
inductive PErr where
  | opcode | field | align | address | tokenOrder | tokenOvf | waitTimeout | tileKind | noPress | fountSlot | vrmsEps
  | smoothOperand | srctxBusy | fetch
  deriving DecidableEq, Repr, Inhabited

/-- Value of a program error (R378). -/
def PErr.code : PErr → BitVec 8
  | .opcode => 1 | .field => 2 | .align => 3 | .address => 4 | .tokenOrder => 5 | .tokenOvf => 6 | .waitTimeout => 7
  | .tileKind => 8 | .noPress => 9 | .fountSlot => 10 | .vrmsEps => 11 | .smoothOperand => 12 | .srctxBusy => 13
  | .fetch => 14

/-- FORME.PROG_ERR records an error, or MORE while it is VALID (R379, R380). -/
def recordProgErr (fm : Forme) (code : PErr) (q : BitVec 3) (fld : Nat) (index : BitVec 24) : Forme :=
  { fm with err :=
      if fm.err.valid then { fm.err with more := true }
      else ⟨code.code, q, fm.err.more, BitVec.ofNat 8 fld, fm.fe.lforme, index, true⟩ }

/-- A program error on Forme f (R381, steps 1 to 4). -/
def progError (s : State) (f : FormeIx) (code : PErr) (q : BitVec 3) (fld : Nat) (index : BitVec 24) : State :=
  abortFolio (modForme s f (fun fm => recordProgErr fm code q fld index)) f code.code

/-- FOLIO_ID that a Forme's records carry. -/
def folioIdOf (s : State) (f : FormeIx) : BitVec 32 := if formeBusy (s.forme f) then (s.forme f).fe.folioId else 0

/-! ### The local map (R435) -/

/-- Where a die-local address lies. -/
inductive Place where
  | gddr (a : Nat) | window (a : Nat) | galley (f : FormeIx) (o : Nat) | quire (f : FormeIx) (o : Nat)
  | fount (f : FormeIx) (o : Nat) | hist (o : Nat)
  /-- a range that Carriages may not access -/
  | closed
  | unmapped
  deriving DecidableEq, Repr, Inhabited

/-- Base of the Galleys and quire memories. -/
def galleyBase : Nat := 0xE000000000
/-- Base of the Fount tables. -/
def fountBase : Nat := 0xE800000000
/-- Base of the die registers. -/
def regBase : Nat := 0xF000000000
/-- Base of the scale-history window. -/
def histBase : Nat := 0xF000200000

/-- Bytes of a Galley (R427, R430, R432). -/
def galleyBytes (fm : Forme) : Nat := if fm.test.bankAct then 16252928 else 16777216

/-- Local address of offset o of the Galley of Forme f. -/
def galleyAddr (f : FormeIx) (o : Nat) : Nat := galleyBase + f.1 * 0x2000000 + o
/-- Local address of offset o of the quire memory of Forme f. -/
def quireAddr (f : FormeIx) (o : Nat) : Nat := galleyBase + f.1 * 0x2000000 + 0x1000000 + o

/-- The place of a local address (R435, R436, R468). -/
def placeOf (s : State) (a : Nat) : Place :=
  if a < gddrBytes then (if gddrMapped s.gddr a then .gddr a else .unmapped)
  else if 0x8000000000 ≤ a ∧ a < 0xC000000000 then
    (if dieCount s.build ≤ s.dieIndex.1 then .unmapped else .window (a - 0x8000000000))
  else if galleyBase ≤ a ∧ a < galleyBase + 12 * 0x2000000 then
    let x := a - galleyBase
    if h : x / 0x2000000 < 12 then
      let f : FormeIx := ⟨x / 0x2000000, h⟩
      let o := x % 0x2000000
      if o < 0x1000000 then (if o < galleyBytes (s.forme f) then .galley f o else .unmapped)
      else .quire f (o - 0x1000000)
    else .unmapped
  else if fountBase ≤ a ∧ a < fountBase + 12 * 0x200000 then
    let x := a - fountBase
    if h : x / 0x200000 < 12 then .fount ⟨x / 0x200000, h⟩ (x % 0x200000) else .unmapped
  else if histBase ≤ a ∧ a < histBase + 0x100000 then .hist (a - histBase)
  else if regBase ≤ a ∧ a < regBase + 0x100000 then .closed
  else if regBase + 0x300000 ≤ a ∧ a < regBase + 0x380000 then .closed
  else if regBase + 0x400000 ≤ a ∧ a < regBase + 0x410000 then .closed
  else if regBase + 0x500000 ≤ a ∧ a < regBase + 0x580000 then .closed
  else if regBase + 0x600000 ≤ a ∧ a < regBase + 0x680000 then .closed
  else if regBase + 0x1000000 ≤ a ∧ a < regBase + 0x10C0000 then .closed
  else .unmapped

/-- What a Carriage finds at a local address (R438, R566). -/
inductive AccErr where
  | unmapped | noaccess
  deriving DecidableEq, Repr, Inhabited

/-- Error of one address for a Carriage. -/
def placeErr : Place → Option AccErr
  | .closed => some .noaccess
  | .unmapped => some .unmapped
  | _ => none

/-- Points at which the kind of place can change inside a range: its first byte, each extent start of the window, each end
of a Galley, and the region limits. -/
def rangePoints (s : State) (a n : Nat) : List Nat :=
  a :: (((List.range (if a < gddrBytes then (min (a + n) gddrBytes - 1) / extBytes + 1 - a / extBytes else 0)).map
      (fun i => (a / extBytes + i) * extBytes))
    ++ [gddrBytes, 0x8000000000, 0xC000000000, galleyBase, galleyBase + 12 * 0x2000000, fountBase,
        fountBase + 12 * 0x200000, regBase, regBase + 0x100000, histBase, histBase + 0x100000, regBase + 0x380000,
        regBase + 0x400000, regBase + 0x410000, regBase + 0x500000, regBase + 0x580000, regBase + 0x600000,
        regBase + 0x680000, regBase + 0x1000000, regBase + 0x10C0000]
    ++ (List.finRange 12).map (fun f => galleyAddr f (galleyBytes (s.forme f)))
    ++ (List.finRange 12).map (fun f => quireAddr f 0)).filter (fun x => decide (a < x) && decide (x < a + n))

/-- The first address of a range that a Carriage cannot access, with its error. -/
def rangeErr (s : State) (a n : Nat) : Option (Nat × AccErr) :=
  if n = 0 then none
  else (rangePoints s a n).findSome? (fun x => (placeErr (placeOf s x)).map (fun e => (x, e)))

/-! ### Bytes of the die's memories -/

/-- Writes one Galley byte: the armed flip of R711 corrupts the first write of its byte of a line and disarms. -/
def galleyPut (fm : Forme) (o : Nat) (b : Byte) : Forme :=
  if fm.test.arm && decide (o % 64 = fm.test.flipByte.toNat) then
    let par := (!oddOnes b) ^^ fm.test.pflip
    { fm with galley := fm.galley.putRaw o (b ^^^ fm.test.dmask) par, test := { fm.test with arm := false } }
  else { fm with galley := fm.galley.put o b }

/-- Writes Galley bytes in order. -/
def galleyPutAll (fm : Forme) (bs : List (Nat × Byte)) : Forme := bs.foldl (fun fm p => galleyPut fm p.1 p.2) fm

/-- Galley bytes. -/
def galleyBytesAt (fm : Forme) (o n : Nat) : List Byte := fm.galley.bytes o n

/-- A scale-history entry as a number of 1024 bits (R276). -/
def histBits (e : HistEntry) : Nat :=
  (venum e.amax).foldl (fun acc p => acc + p.2.toNat <<< (32 * p.1.1)) 0
    + e.pending.toNat <<< 512 + e.head.toNat <<< 544 + e.count.toNat <<< 552 + e.scale.toNat <<< 560
    + e.fmt.toNat <<< 568 + b2n e.enable <<< 576 + b2n e.rebuilt <<< 577 + b2n e.stale <<< 578 + b2n e.flat <<< 579

/-- A scale-history entry from its bits. -/
def histOfBits (n : Nat) : HistEntry :=
  ⟨Vector.ofFn (fun j => BitVec.ofNat 32 (n >>> (32 * j.1))), BitVec.ofNat 32 (n >>> 512), BitVec.ofNat 4 (n >>> 544),
   BitVec.ofNat 5 (n >>> 552), BitVec.ofNat 8 (n >>> 560), BitVec.ofNat 5 (n >>> 568), n.testBit 576, n.testBit 577,
   n.testBit 578, n.testBit 579⟩

/-- Bits of an entry that a write sets (RW). -/
def histRwMask : Nat :=
  (2 ^ 544 - 1) + 0xF <<< 544 + 0x1F <<< 552 + 0xFF <<< 560 + 0x1F <<< 568 + 1 <<< 576

/-- Sticky bits of an entry (W1C). -/
def histW1cMask : Nat := 7 <<< 577

/-- Writes k bits of value v at bit lo of an entry, by the access code of each bit (R6, R276). -/
def histWrite (e : HistEntry) (lo k v : Nat) : HistEntry :=
  let old := histBits e
  let m := (2 ^ k - 1) <<< lo
  let w := (v % 2 ^ k) <<< lo
  let rw := m &&& histRwMask
  let wc := w &&& histW1cMask
  histOfBits ((old - (old &&& rw) + (w &&& rw)) - ((old &&& wc)))

/-- Scale-history entry g. -/
def histEntry (s : State) (g : Nat) : HistEntry := tget histDefault s.tbl.hist g

/-- Replaces scale-history entry g. -/
def setHist (s : State) (g : Nat) (e : HistEntry) : State :=
  { s with tbl := { s.tbl with hist := tset histDefault s.tbl.hist g e } }

/-- Byte o of the scale-history window; past the 4096 entries it reads zero (R10). -/
def histByte (s : State) (o : Nat) : Byte :=
  if o < 4096 * 128 then BitVec.ofNat 8 (histBits (histEntry s (o / 128)) >>> (8 * (o % 128))) else 0

/-- The byte at a local address, as a Carriage reads it. -/
def localByte (s : State) (a : Nat) : Byte :=
  match placeOf s a with
  | .gddr a => gddrByte s.gddr a
  | .galley f o => (s.forme f).galley.byte o
  | .quire f o => (s.forme f).quire.byte o
  | .fount f o => (s.forme f).vu.fount.byte o
  | .hist o => histByte s o
  | _ => 0

/-- n bytes from a local address. -/
def localBytes (s : State) (a n : Nat) : List Byte := (List.range n).map (fun i => localByte s (a + i))

/-- Writes the byte at a local address, as a Carriage does; Fount tables discard it and set FTWRV (R328). -/
def localPut (s : State) (a : Nat) (b : Byte) : State :=
  match placeOf s a with
  | .gddr a => { s with gddr := gddrPut s.gddr a b }
  | .galley f o => modForme s f (fun fm => galleyPut fm o b)
  | .quire f o => modForme s f (fun fm => { fm with quire := fm.quire.put o b })
  | .fount f _ => modForme s f (fun fm => { fm with vu := { fm.vu with vec := { fm.vu.vec with ftwrv := true } } })
  | .hist o => if o < 4096 * 128 then setHist s (o / 128) (histWrite (histEntry s (o / 128)) (8 * (o % 128)) 8 b.toNat) else s
  | _ => s

/-- Writes bytes at local addresses, in order. -/
def localPutAll (s : State) (bs : List (Nat × Byte)) : State := bs.foldl (fun s p => localPut s p.1 p.2) s

/-- An error of stored data that a read of local memory meets (R689, R697). -/
inductive ReadErr where
  | parity (cls : MClass) (f : FormeIx) (off : Nat)
  /-- die-local address of the granule -/
  | lost (addr : Nat)
  deriving DecidableEq, Repr, Inhabited

/-- The first parity error of a Forme's memories in ranges of local addresses. -/
def formeReadErr (s : State) (rs : List (Nat × Nat)) (f : FormeIx) : Option ReadErr :=
  let fm := s.forme f
  match fm.galley.bad.find? (fun o => inRanges rs (galleyAddr f o)) with
  | some o => some (.parity .galley f o)
  | none =>
    match fm.quire.bad.find? (fun o => inRanges rs (quireAddr f o)) with
    | some o => some (.parity .quire f o)
    | none =>
      match fm.vu.fount.bad.find? (fun o => inRanges rs (fountBase + f.1 * 0x200000 + o)) with
      | some o => some (.parity .fount f o)
      | none => none

/-- The first error of stored data in ranges of local addresses. -/
def readErr (s : State) (rs : List (Nat × Nat)) : Option ReadErr :=
  match (List.finRange 12).findSome? (formeReadErr s rs) with
  | some e => some e
  | none => rs.findSome? (fun r =>
      if r.1 < gddrBytes then (gddrLost s.gddr r.1 r.2).map ReadErr.lost else none)

/-! ### Errors of stored data (R689 to R693, R697) -/

/-- Bank of a Galley line (R427, R430). -/
def bankOf (fm : Forme) (o : Nat) : Nat :=
  let l := o / 64
  if fm.test.bankAct then
    let k := l % 31
    if k < fm.test.bank.toNat then k else k + 1
  else l % 32

/-- Starts the abort of the folio of Forme f for an error of stored data: one abort for several errors; every error is
logged before (R690, R691). -/
def storedAbort (s : State) (f : FormeIx) : State := abortFolio s f 0

/-- A GALLEY or QUIRE error (R689): logged, the folio on that Forme is aborted, and the line waits for its check (R693). -/
def memoryError (s : State) (cls : MClass) (f : FormeIx) (off : Nat) : State :=
  let fm := s.forme f
  let line := off / 64 * 64
  let idx := match cls with | .galley => bankOf fm off | _ => off / 0x10000
  let a := match cls with | .galley => galleyAddr f line | _ => quireAddr f line
  if formeBusy fm then
    let s1 := logFault s cls .replay (some f) .folioAborted idx fm.fe.folioId a
    storedAbort (modForme s1 f (fun fm => { fm with line := some a })) f
  else logFault s cls .replay (some f) .none idx 0 a

/-- Records an uncorrectable GDDR7 read (R479, R697): UE of its extent, the counters and the log. -/
def gddrError (s : State) (f : Option FormeIx) (act : FAction) (addr : Nat) : State :=
  let l := addr / extBytes
  let s1 : State := { s with gddr := { s.gddr with ext := tmod extDefault s.gddr.ext l (fun e => { e with ue := true }) } }
  let s2 := bumpEnt s1 0x3020 6 1 32
  let folio : BitVec 32 := match f with | some f => folioIdOf s f | none => 0
  logFault s2 .gddr7 .uncorrected f act (granuleChannel (physOf s.gddr addr / 256)) folio (addr / 256 * 256)

/-- Forme f meets an error of stored data while it runs an instruction or a copy: the error is logged with the memory it
lies in, and the folio of Forme f, and that of the memory's Forme, end (R689, R697). -/
def storedError (s : State) (f : FormeIx) (e : ReadErr) : State :=
  match e with
  | .parity .galley g o => let s1 := memoryError s .galley g o; if g = f then s1 else storedAbort s1 f
  | .parity .quire g o => let s1 := memoryError s .quire g o; if g = f then s1 else storedAbort s1 f
  | .parity cls g o =>
    storedAbort (logFault s cls .replay (some g) .folioAborted (o / 0x20000) (folioIdOf s f)
      (fountBase + g.1 * 0x200000 + o / 64 * 64)) f
  | .lost a => storedAbort (gddrError s (some f) .folioAborted a) f

/-! ### Span packets and routing (spec/14) -/

/-- Header bytes 0 to 31 of a packet (R564), over which HCRC is formed. -/
def spanHeader (p : SpanPacket) : List Byte :=
  leBytes 32 (p.typ.toNat + p.cls.toNat <<< 4 + b2n p.last <<< 7 + p.dst.toNat <<< 8 + p.src.toNat <<< 20 + p.hops.toNat <<< 32
    + p.sforme.toNat <<< 36 + p.scarr.toNat <<< 40 + p.copyId.toNat <<< 48 + p.addr.toNat <<< 64
    + p.payload.length <<< 104 + p.total.toNat <<< 128 + p.rtok.toNat <<< 168 + b2n p.rsen <<< 172
    + p.rforme.toNat <<< 173 + p.aux.toNat <<< 184)

/-- A packet with its two checksums (R564). -/
def sealPacket (p : SpanPacket) : SpanPacket := { p with hcrc := crc32c (spanHeader p), pcrc := crc32c p.payload }

/-- A blank packet from this die with 15 hops (R561). -/
def newPacket (s : State) (typ cls : Nat) (dst : BitVec 12) : SpanPacket :=
  ⟨BitVec.ofNat 4 typ, BitVec.ofNat 3 cls, false, dst, s.span.dieId, 15, 15, 0, 0, 0, 0, 0, false, 0, 0, [], 0, 0⟩

/-- Route entry of a die ID (R557). -/
def routeOf (s : State) (id : BitVec 12) : Route := tget routeDefault s.tbl.routes id.toNat

/-- A usable port: TRAINING, UP or NARROW (R560). -/
def portUsable (p : Port) : Bool := decide (p.st = 1) || decide (p.st = 2) || decide (p.st = 3)

/-- A port that carries frames now. -/
def portUp (p : Port) : Bool := decide (p.st = 2) || decide (p.st = 3)

/-- The allowed usable ports of a route, lowest first, without the arrival port (R560, R561). -/
def usablePorts (s : State) (r : Route) (arrival : Option (Fin 11)) : List (Fin 11) :=
  (List.finRange 11).filter (fun p => r.valid && r.ports.getLsbD p.1 && portUsable s.span.ports[p] && decide (some p ≠ arrival))

/-- The port that a packet takes (R560); SPRAY chooses by a hash that the spec leaves open (log 11). -/
def choosePort (s : State) (pk : SpanPacket) (arrival : Option (Fin 11)) : Option (Fin 11) :=
  let r := routeOf s pk.dst
  let ps := usablePorts s r arrival
  match ps with
  | [] => none
  | p :: _ =>
    if r.spray then
      some (ps.getD (Config.sprayHash pk.src.toNat pk.sforme.toNat pk.scarr.toNat pk.copyId.toNat (pk.addr.toNat / 4096)
        % ps.length) p)
    else some p

/-- Sends the frames that have room in the replay buffer of a port that is up (R549; one packet a frame, log 14). -/
def pumpPort : Nat → State → Fin 11 → State
  | 0, s, _ => s
  | n + 1, s, p =>
    let port := s.span.ports[p]
    match port.txq with
    | [] => s
    | pk :: rest =>
      if portUp port && !port.hold && decide (port.replay.length < 32) then
        let port' := { port with txq := rest, replay := port.replay ++ [(port.txSeq, pk)], txSeq := port.txSeq + 1 }
        pumpPort n (emit { s with span := { s.span with ports := vset s.span.ports p port' } } (.span p pk)) p
      else s

/-- Hands a packet to a port. -/
def enqueuePort (s : State) (p : Fin 11) (pk : SpanPacket) : State :=
  let s1 : State := { s with span := { s.span with
    ports := vmod s.span.ports p (fun x => { x with txq := x.txq ++ [pk] }) } }
  pumpPort ((s1.span.ports[p]).txq.length) s1 p

/-- NACK reasons (R566). -/
inductive Nack where
  | unmapped | route | fenced | noaccess | corrupt
  deriving DecidableEq, Repr, Inhabited

/-- Value of a NACK reason (R566). -/
def Nack.code : Nack → Nat
  | .unmapped => 1 | .route => 2 | .fenced => 3 | .noaccess => 4 | .corrupt => 5

/-- A die ID names a die of the own module that this die knows to be fenced (R563). -/
def knownFenced (s : State) (id : BitVec 12) : Bool :=
  match indexOf s id with
  | some d => s.fault.dies.getLsbD d
  | none => false

/-- Why a packet cannot leave (R560, R563), or the port it takes. -/
def routePacket (s : State) (pk : SpanPacket) (arrival : Option (Fin 11)) : Nack ⊕ Fin 11 :=
  if knownFenced s pk.dst then .inl .fenced
  else
    match choosePort s pk arrival with
    | some p => .inr p
    | none => .inl .route

/-- Sends a packet of this die; the reason when it cannot be routed. A packet dropped for want of a route counts (R588). -/
def spanSend (s : State) (pk : SpanPacket) : State × Option Nack :=
  match routePacket s pk none with
  | .inr p => (enqueuePort s p (sealPacket pk), none)
  | .inl .route => (bumpEnt s 0x5020 6 1 32, some .route)
  | .inl r => (s, some r)

/-- The NACK that answers a packet: it names the copy, the refused address and the reason (R565, R566). -/
def nackFor (s : State) (pk : SpanPacket) (r : Nack) : SpanPacket :=
  { newPacket s 5 1 pk.src with
    sforme := pk.sforme, scarr := pk.scarr, copyId := pk.copyId, addr := pk.addr, total := pk.total,
    aux := BitVec.ofNat 32 (r.code + pk.aux.toNat / 65536 * 65536) }

/-- Answers a packet from another die with NACK; an answer that cannot be routed is dropped. -/
def sendNack (s : State) (pk : SpanPacket) (r : Nack) : State := (spanSend s (nackFor s pk r)).1

end Sys2Proof.Machine
end

