-- ==== Sys2Proof/Machine/Fence.lean ====
section
/-! DEFINITION. Fencing the die (R713 to R716), closing sessions (R743) and security alarms (R782 to R784). -/

namespace Sys2Proof.Machine

/-- A Span port that a fence holds (R715, R555). -/
def Port.fencedHold (p : Port) : Port := { p with st := 4, hreason := 4, lanes := 0 }

/-- Every session closes, and with it its subscriptions (R743, R746). -/
def closeSessions (c : Colo) : Colo :=
  { c with sessions := [], subs := c.subs.filter (fun x => match x.key with | .session _ => false | .addr _ => true) }

/-- What a fence stops: Formes, Carriages and engines by FENCED itself, the Abutment link, every Span link, and the
Compositor complex with the services it runs; sessions close (R715, R714, R743). -/
def fenceStop (s : State) (reason : BitVec 3) : State :=
  { s with
    fault := { s.fault with
      fenced := true, reason := reason, dies := s.fault.dies ||| BitVec.ofNat 8 (2 ^ s.dieIndex.1) }
    boot := { s.boot with state := 2 }
    pwr := { s.pwr with faultL := true }
    abut := { s.abut with link := if s.abut.link = 0 then 0 else 1 }
    span := { s.span with ports := s.span.ports.map Port.fencedHold }
    cores := ⟨[], 0, 0⟩
    colo := closeSessions s.colo
    svc := Vector.replicate 64 Svc.reset }

/-- A record of class FENCE (R716). -/
def logFence (s : State) (reason : BitVec 3) (act : FAction) : State :=
  logFault s .fence .uncorrected none act reason.toNat 0 0

/-- A fence for SOFTWARE (1), THERMAL (2) or SECURITY (6): one record with ACTION DIE_FENCED; on a die already fenced, a
further record only (R716). -/
def fenceDie (s : State) (reason : BitVec 3) : State :=
  if s.fault.fenced then (if s.fault.reason = reason then s else logFence s reason .none)
  else fenceStop (logFence s reason .dieFenced) reason

/-- A fence caused by a fault of stored data, recorded in that fault's class (R716). -/
def fenceFault (s : State) (cls : MClass) (sev : Sev) (index addr : Nat) (reason : BitVec 3) : State :=
  if s.fault.fenced then (if s.fault.reason = reason then s else logFence s reason .none)
  else fenceStop (logFault s cls sev none .dieFenced index 0 addr) reason

/-! ### Security alarms -/

/-- The keys of R778 are erased (R784): sessions close and encrypted links drop. -/
def eraseKeys (s : State) : State :=
  { s with
    sec := { s.sec with keyState := 2, erasures := s.sec.erasures + 1 }
    colo := closeSessions s.colo
    span := { s.span with ports := s.span.ports.map (fun p => if p.enc then { p with st := 0, lanes := 0, enc := false } else p) } }

/-- The two policy bits that act for a source (R783): THERMAL always fences. -/
def policyBits (s : State) (src : Nat) : Nat :=
  let p := fieldN (entN s 0x9020 3) (2 * src) 2
  if src = 3 then p % 2 + 2 else p

/-- Alarms raised in one management cycle (R783): one event each in ascending order, and the union of their actions. -/
def securityAlarm (s : State) (srcs : BitVec 6) : State :=
  let l := (List.range 6).filter (fun i => srcs.getLsbD i)
  let s1 : State := { s with sec := { s.sec with latched := s.sec.latched ||| srcs } }
  let s2 := l.foldl (fun t i => notifyEvent t 18 i (policyBits s i)) s1
  let s3 := if l.any (fun i => (policyBits s i).testBit 0) then eraseKeys s2 else s2
  if l.any (fun i => (policyBits s i).testBit 1) then fenceDie s3 6 else s3

end Sys2Proof.Machine
end

