-- ==== Sys2Proof/Machine/EthFwd.lean ====
section
/-! DEFINITION. Frames between a die and its serving die (R25, R592 to R595), and the choice of the serving die. -/

namespace Sys2Proof.Machine

/-! ### ETHFWD packets (R593, R567) -/

/-- An ETHFWD packet: direction, piece, report flag, frame length, payload. Its COPYID numbers it (log 14). -/
def ethPacket (s : State) (dst : BitVec 12) (dir piece : Nat) (report last : Bool) (len : Nat) (payload : List Byte) :
    SpanPacket :=
  { newPacket s 8 0 dst with
    last := last, addr := BitVec.ofNat 40 (dir + len * 2), aux := BitVec.ofNat 32 (piece + 2 * b2n report)
    copyId := 0xC000 + s.abut.fwdSeq.setWidth 16, payload := payload }

/-- Sends one ETHFWD packet and remembers it in case it must be sent again. -/
def ethSendPacket (s : State) (k : SpanPacket) : State :=
  let s1 : State := { s with abut := { s.abut with
    fwdSeq := s.abut.fwdSeq + 1, sent := ((k, 0) :: s.abut.sent).take 512 } }
  (spanSend s1 k).1

/-- Sends a payload of at most 8192 bytes as one or two packets. -/
def ethSend (s : State) (dst : BitVec 12) (dir : Nat) (report : Bool) (len : Nat) (payload : List Byte) : State :=
  if payload.length ≤ 4096 then ethSendPacket s (ethPacket s dst dir 0 report true len payload)
  else
    let s1 := ethSendPacket s (ethPacket s dst dir 0 report false len (payload.take 4096))
    ethSendPacket s1 (ethPacket s1 dst dir 1 report true len (payload.drop 4096))

/-- A NACK of an ETHFWD packet: CORRUPT sends it again; the third failure is an error of stored data of class SPAN
(R567, R689). -/
def ethNack (s : State) (k : SpanPacket) : State :=
  match s.abut.sent.find? (fun x => decide (x.1.copyId = k.copyId) && decide (x.1.dst = k.src)) with
  | none => s
  | some x =>
    if fieldN k.aux.toNat 0 4 ≠ 5 then s
    else if 2 ≤ x.2 then
      logFault { s with abut := { s.abut with sent := s.abut.sent.filter (fun y => decide (y ≠ x)) } } .span .replay none .none
        (((choosePort s x.1 none).map (·.1)).getD 0) 0 0
    else
      let l := s.abut.sent.map (fun y => if y = x then (y.1, y.2 + 1) else y)
      (spanSend { s with abut := { s.abut with sent := l } } x.1).1

/-! ### Frames that leave -/

/-- The first 8 bytes of a payload towards the port: TSREQ and a tag. -/
def portHeader (tsreq : Bool) (tag : BitVec 32) : List Byte := leBytes 8 (b2n tsreq + tag.toNat * 2 ^ 32)

/-- A frame of this die leaves: through the own port while its link is UP, or from an unwired die through its serving die. A
wired die whose link is not UP loses the frame (R594). -/
def ethToPort (s : State) (tsreq : Bool) (tag : BitVec 32) (bytes : List Byte) : State :=
  if s.abut.link = 3 then emit s (.ethRaw s.span.dieId tsreq tag bytes)
  else if s.abut.link = 0 then
    ethSend s (idOf s s.abut.server.toNat) 1 false bytes.length (portHeader tsreq tag ++ bytes)
  else s

/-- Bytes of forwarded frames that wait in this port's forwarding FIFO: those whose packets no Span port has sent (R617). -/
def fifoBytes (s : State) : Nat :=
  sumN ((venum s.span.ports).map (fun p => sumN ((p.2.txq.filter (fun k =>
    decide (k.typ = 8) && decide (k.src = s.span.dieId) && !k.addr.getLsbD 0)).map (fun k => k.payload.length))))

/-- A frame for another die enters the forwarding FIFO of 4 MiB and goes to its owner (R592, R617). -/
def ethToOwner (s : State) (d : Nat) (ect : Bool) (time : Nat) (bytes : List Byte) : State :=
  let used := fifoBytes s
  if s.fault.dies.getLsbD d || decide (4194304 < used + bytes.length) then bumpEnt s 0x6030 2 1 64
  else
    let b := if ect && decide (4194304 * entN s 0x6020 7 < used * 100) then Config.markCe bytes else bytes
    ethSend s (idOf s d) 0 false b.length (leBytes 8 time ++ b)

/-! ### The serving die (R24, R25, R594) -/

/-- The die that serves die e, as far as this die knows which dies are fenced. -/
def serverFor (s : State) (e : Fin 8) : Fin 8 :=
  let home := homeServer s.build e
  if home ≠ e ∧ s.fault.dies.getLsbD home.1 = true then
    ((List.finRange 8).find? (fun d => decide (d.1 < dieCount s.build) && wiredDie s.build d.1 && !s.fault.dies.getLsbD d.1)).getD home
  else home

/-- The dies that this die's port serves, as a mask. -/
def servedNow (s : State) : BitVec 8 :=
  BitVec.ofNat 8 (sumN (((List.finRange 8).filter (fun e =>
    decide (e.1 < dieCount s.build) && decide (serverFor s e = s.dieIndex))).map (fun e => 2 ^ e.1)))

/-- The serving relation follows a change of the fenced dies: a die whose server has changed says so, and a port that no
longer serves a die goes on forwarding for it for 1 ms (R594, R595). -/
def updateServer (s : State) : State :=
  let srv := BitVec.ofNat 3 (serverFor s s.dieIndex).1
  let mask := servedNow s
  let gone := (List.finRange 8).filter (fun e => s.abut.served.getLsbD e.1 && !mask.getLsbD e.1)
  let s1 : State := { s with abut := { s.abut with
    server := srv, served := mask
    grace := s.abut.grace.filter (fun g => !mask.getLsbD g.1.1) ++ gone.map (fun e => (e, s.tb.ns)) } }
  if srv = s.abut.server then s1 else raise s1 6 srv.toNat 0

/-- A die that was fenced or in Falsework mode has trained its links again and rejoins the module (R25, R717). -/
def dieRejoins (s : State) (d : Nat) : State :=
  if s.fault.dies.getLsbD d then
    updateServer { s with fault := { s.fault with dies := s.fault.dies &&& ~~~ BitVec.ofNat 8 (2 ^ d) } }
  else s

end Sys2Proof.Machine
end

