-- ==== Sys2Proof/Machine/Operands.lean ====
section
/-! DEFINITION. Operand records, code planes and scale planes, the reading of elements and the packing of written codes
(spec/02, 09, 10). -/

namespace Sys2Proof.Machine

/-! ### Operand records (R389) -/

/-- The fields of an operand record. -/
structure Rec where
  base   : Nat
  pitch  : Nat
  fmt    : Nat
  blk    : Nat
  bcast  : Bool
  sbase  : Nat
  spitch : Nat
  tsaddr : Nat
  tagged : Bool
  tag    : BitVec 12
  jctl   : Nat
  jtab   : Nat
  len    : Nat
  /-- a Reserved field is non-zero -/
  rsvd1  : Bool
  rsvd2  : Bool
  deriving DecidableEq, Repr, Inhabited

/-- The fields of a 32-byte operand record (R389). -/
def recOf (r : BitVec 256) : Rec :=
  let x := r.toNat
  ⟨fieldN x 0 24, fieldN x 24 24, fieldN x 48 5, fieldN x 53 2, x.testBit 55, fieldN x 56 24, fieldN x 80 24,
   fieldN x 104 24, x.testBit 140, BitVec.ofNat 12 (fieldN x 128 12), fieldN x 141 6, fieldN x 152 24, fieldN x 176 25,
   decide (fieldN x 147 5 ≠ 0), decide (fieldN x 201 55 ≠ 0)⟩

/-- Record at position p of an instruction in its queue (R393). -/
def QEntry.opRec (e : QEntry) (p : Nat) : Rec := recOf (e.recs.getD p 0)

/-- CLASS of the tag of the record at position p, read at dispatch (R489). -/
def QEntry.clsAt (e : QEntry) (p : Nat) : Nat := (e.cls.getD p 0).toNat

/-- The format that a record names; the checks of R401 have found it legal. -/
def Rec.format (r : Rec) : Fmt := (fmtOfCode r.fmt).getD .p8

/-- The conversion control field (R92). -/
structure Ctl where
  rnd  : Nat
  ovfm : Bool
  subn : Bool
  srk  : Nat
  ctx  : Fin 16
  deriving DecidableEq, Repr, Inhabited

/-- The fields of a conversion control field. -/
def ctlOf (c : Nat) : Ctl :=
  ⟨fieldN c 0 2, c.testBit 2, c.testBit 3, fieldN c 4 5, ⟨fieldN c 9 4, Nat.mod_lt _ (by decide)⟩⟩

/-! ### Planes -/

/-- A tensor operand in a byte space: R396 for records, R441 for Carriages. -/
structure Plane where
  fmt    : Fmt
  blk    : Nat
  base   : Nat
  pitch  : Nat
  /-- bytes between elements of a row, for formats of 8 bits or more -/
  stride : Nat
  sbase  : Nat
  spitch : Nat
  bcast  : Bool
  /-- addresses are taken modulo this number (R569; the Galley's offsets never wrap) -/
  wrap   : Nat
  deriving DecidableEq, Repr, Inhabited

/-- The plane that a record describes, in Galley offsets. -/
def Rec.plane (r : Rec) : Plane :=
  ⟨r.format, r.blk, r.base, r.pitch, fmtBits r.format / 8, r.sbase, r.spitch, r.bcast, 2 ^ 40⟩

/-- The byte address of a plane's element (its first byte). -/
def Plane.addr (p : Plane) (r e : Nat) : Nat :=
  if p.bcast then p.base
  else if fmtBits p.fmt < 8 then (p.base + r * p.pitch + e * fmtBits p.fmt / 8) % p.wrap
  else (p.base + r * p.pitch + e * p.stride) % p.wrap

/-- n bytes of a byte space, as a number. -/
def readLe (rd : Nat → Byte) (a n : Nat) : Nat := leNat ((List.range n).map (fun i => rd (a + i)))

/-- Pattern of element (r, e) of the code plane (R68, R73, R75, R87). -/
def Plane.pat (p : Plane) (rd : Nat → Byte) (r e : Nat) : Nat :=
  let b := fmtBits p.fmt
  if b < 8 then fieldN (rd (p.addr r e)).toNat (e * b % 8) b
  else readLe rd (p.addr r e) (b / 8)

/-- Address of byte i of row r of the scale plane. -/
def Plane.saddr (p : Plane) (r i : Nat) : Nat := (p.sbase + r * p.spitch + i) % p.wrap

/-- Negation of a posit8 pattern (R61): NaR and zero stay. -/
def negP8 (p : Nat) : Nat := (256 - p) % 256

/-- Element (r, e) of an operand with the scales it depends on (R66 to R78); the block of a strided BP8 element is that of
its place in the source row (R441, log 16). -/
def Plane.elemAt (p : Plane) (rd : Nat → Byte) (r e : Nat) : Elem :=
  let c := p.pat rd r e
  match p.fmt with
  | .bp8 => ⟨.bp8, c, (rd (p.saddr r (e * p.stride / blkSize p.blk))).toNat, 0⟩
  | .q2 => ⟨.q2, (rd (p.saddr r (4 * (e / 64) + c))).toNat, 0, 0⟩
  | .q1 =>
    let s := (rd (p.saddr r (e / 64))).toNat
    ⟨.q1, if c = 1 then negP8 s else s, 0, 0⟩
  | .rs8 => ⟨.rs8, c, (rd ((p.sbase + 4 + r) % p.wrap)).toNat, readLe rd (p.sbase % p.wrap) 4⟩
  | f => ⟨f, c, 0, 0⟩

/-- Element (r, e) of an operand; a broadcast operand is its element (0, 0) everywhere (R293). -/
def Plane.elem (p : Plane) (rd : Nat → Byte) (r e : Nat) : Elem :=
  if p.bcast then p.elemAt rd 0 0 else p.elemAt rd r e

/-- The exact value of an element, and whether its decode flushed a subnormal (R71, R74, R76 to R78, R90, R106). -/
def Elem.val (subn : Bool) (x : Elem) : Val × Bool :=
  match x.fmt with
  | .bp8 =>
    match e8m0Exp x.sc with
    | none => (.nan, false)
    | some g => ((decodePosit 8 x.pat).scale2 g, false)
  | .rs8 =>
    let c := decodePosit 8 x.pat
    let s := decodePosit 8 x.sc
    let t := decodePosit 32 x.ts
    if c.isNan || s.isNan || t.isNan then (.nan, false)
    else if c.isZero || s.isZero || t.isZero then (.zero false, false)
    else ((c.mul s).mul t, false)
  | .q2 => (decodePosit 8 x.pat, false)
  | .q1 => (decodePosit 8 x.pat, false)
  | f => decodeScalar f subn x.pat

/-- The exact values of a rows × cols region, and whether any decode flushed (R106). -/
def Plane.values (p : Plane) (rd : Nat → Byte) (subn : Bool) (rows cols : Nat) : List (List (Val × Bool)) :=
  (List.range rows).map (fun r => (List.range cols).map (fun e => (p.elem rd r e).val subn))

/-- Bytes from the first to the last element of a row of a plane. -/
def Plane.rowLen (p : Plane) (cols : Nat) : Nat :=
  let b := fmtBits p.fmt
  if b < 8 then ceilDiv (cols * b) 8 else (cols - 1) * p.stride + b / 8

/-- The byte ranges of the scale plane of a rows × cols region. -/
def Plane.scaleRanges (p : Plane) (rows cols : Nat) : List (Nat × Nat) :=
  match p.fmt with
  | .rs8 => [(p.sbase % p.wrap, 4 + rows)]
  | .bp8 => (List.range rows).map (fun r => (p.saddr r 0, (cols - 1) * p.stride / blkSize p.blk + 1))
  | .q2 => (List.range rows).map (fun r => (p.saddr r 0, 4 * ceilDiv cols 64))
  | .q1 => (List.range rows).map (fun r => (p.saddr r 0, ceilDiv cols 64))
  | _ => []

/-- The byte ranges that a rows × cols region of an operand occupies: its code rows, then its scale rows. -/
def Plane.ranges (p : Plane) (rows cols : Nat) : List (Nat × Nat) :=
  if cols = 0 then []
  else if p.bcast then (p.base, ceilDiv (fmtBits p.fmt) 8) :: p.scaleRanges 1 1
  else (List.range rows).map (fun r => ((p.base + r * p.pitch) % p.wrap, p.rowLen cols)) ++ p.scaleRanges rows cols

/-! ### Packing what is written -/

/-- Bytes of a row of codes of b bits each; sub-byte codes run from bit 0 upward, padding is zero (R68, R687). -/
def packCodes (b : Nat) (codes : List Nat) : List Byte :=
  if b < 8 then (chunks (8 / b) codes).map (fun c => BitVec.ofNat 8 (c.foldr (fun x acc => x + acc * 2 ^ b) 0))
  else (codes.map (leBytes (b / 8))).flatten

/-- Bytes of a region at its rows. -/
def planeBytes (base pitch wrap : Nat) (rows : List (List Byte)) : List (Nat × Byte) :=
  (rows.zipIdx.map (fun p => placed ((base + p.2 * pitch) % wrap) p.1)).flatten

/-! ### Galley operands of one Forme -/

/-- Reader of a Forme's Galley. -/
def galleyRd (fm : Forme) (a : Nat) : Byte := fm.galley.byte a

/-- The first parity error in Galley ranges that an instruction of Forme f reads. -/
def galleyBad (fm : Forme) (f : FormeIx) (rs : List (Nat × Nat)) : Option ReadErr :=
  (fm.galley.firstBad rs).map (fun o => .parity .galley f o)

/-- The first parity error in quire-memory ranges that an instruction of Forme f reads. -/
def quireBad (fm : Forme) (f : FormeIx) (rs : List (Nat × Nat)) : Option ReadErr :=
  (fm.quire.firstBad rs).map (fun o => .parity .quire f o)

end Sys2Proof.Machine
end

