-- ==== Sys2Proof/Machine/Flags.lean ====
section
/-! DEFINITION. Sticky flags: FORME.CVT_STATUS, FORME.VEC_STATUS, tile status words and FORME.ACC_EVENTS (spec/03, 05, 07). -/

namespace Sys2Proof.Machine

/-- The three flags that conversions and accumulates raise (R132, R205). -/
structure Flg where
  ovf   : Bool
  nar   : Bool
  flush : Bool
  deriving DecidableEq, Repr, Inhabited

/-- No flag. -/
def Flg.none : Flg := ⟨false, false, false⟩

/-- Union of flags. -/
def Flg.or (a b : Flg) : Flg := ⟨a.ovf || b.ovf, a.nar || b.nar, a.flush || b.flush⟩

/-- Flags of an encoding. -/
def Enc.flg (e : Enc) : Flg := ⟨e.ovf, e.nar, e.flush⟩

/-- FORME.CVT_STATUS collects flags (R134). -/
def setCvt (fm : Forme) (g : Flg) : Forme :=
  { fm with vu := { fm.vu with cvt := { fm.vu.cvt with
      ovf := fm.vu.cvt.ovf || g.ovf, nar := fm.vu.cvt.nar || g.nar, flush := fm.vu.cvt.flush || g.flush } } }

/-- FORME.CVT_STATUS as a word (R134): SRCTX_BUSY from the claims of the instructions in flight. -/
def cvtWord (fm : Forme) : Word :=
  let busy := (List.range 16).foldl (fun acc c =>
    if fm.q.flights.any (fun x => decide (x.ctx.map (·.1) = some c)) then acc + 2 ^ c else acc) 0
  pack [(b2n fm.vu.cvt.ovf, 0), (b2n fm.vu.cvt.nar, 1), (b2n fm.vu.cvt.flush, 2), (b2n fm.vu.cvt.srzero, 3), (busy, 8)]

/-- FORME.VEC_STATUS as a word (R332): FTREF from the Fount instructions in flight, FTLOADING from the load. -/
def vecWord (fm : Forme) : Word :=
  let ref := (List.range 8).foldl (fun acc c =>
    if fm.q.flights.any (fun x => decide (x.slot.map (·.1) = some c) && decide (wfield x.word 0 8 = 0x60)) then acc + 2 ^ c
    else acc) 0
  let loading := match fm.vu.ftLoad with | some l => 2 ^ l.slot.1 | none => 0
  pack [(b2n fm.vu.vec.zrow, 0), (b2n fm.vu.vec.rsat, 1), (b2n fm.vu.vec.qsat, 2), (b2n fm.vu.vec.ftwrv, 3),
    (b2n fm.vu.vec.ftpar, 4), (ref, 8), (loading, 16)]

/-- A context is claimed (R128). -/
def ctxClaimed (fm : Forme) (c : Fin 16) : Bool := fm.q.flights.any (fun x => decide (x.ctx = some c))

/-! ### Tile status words (R205 to R210) -/

/-- Status word of a slot. -/
def tileWord (fm : Forme) (s : Nat) : Word := tget (fun _ => 0) fm.pu.tiles s

/-- Replaces a status word. -/
def setTileWord (fm : Forme) (s : Nat) (w : Word) : Forme :=
  { fm with pu := { fm.pu with tiles := tset (fun _ => 0) fm.pu.tiles s w } }

/-- KIND of a slot (R206). -/
def tileKind (fm : Forme) (s : Nat) : Nat := field (tileWord fm s) 8 2

/-- BASE of a slot. -/
def tileBase (fm : Forme) (s : Nat) : Nat := field (tileWord fm s) 16 8

/-- KCOUNT of a slot. -/
def tileKcount (fm : Forme) (s : Nat) : Nat := field (tileWord fm s) 32 32

/-- Slots of a tile's run by kind (R197). -/
def kindRun (k : Nat) : Nat := if k = 1 then 8 else if k = 2 then 4 else 1

/-- Rows and columns of a tile by kind (R197). -/
def kindSide (k : Nat) : Nat := if k = 2 then 64 else 128

/-- Bytes of an entry by kind (R197). -/
def kindBytes (k : Nat) : Nat := if k = 1 then 32 else if k = 2 then 64 else 4

/-- A status word from its fields. -/
def mkTileWord (ovf nar longsum flush flat : Bool) (kind base kcount : Nat) : Word :=
  pack [(b2n ovf, 0), (b2n nar, 1), (b2n longsum, 2), (b2n flush, 3), (b2n flat, 4), (kind, 8), (base, 16), (kcount, 32)]

/-- Sets flags in a tile's status word and counts each event once (R209, R242). -/
def setTileFlags (fm : Forme) (slot : Nat) (g : Flg) (flat : Bool) : Forme :=
  let w := tileWord fm slot ||| pack [(b2n g.ovf, 0), (b2n g.nar, 1), (b2n g.flush, 3), (b2n flat, 4)]
  let ev := fm.pu.events
  let up (b : Bool) (x : BitVec 16) : BitVec 16 := if b && decide (x ≠ 0xFFFF) then x + 1 else x
  let fm1 := setTileWord fm slot w
  { fm1 with pu := { fm1.pu with
      events := ⟨up g.ovf ev.ovf, up g.nar ev.nar, up g.flush ev.flush, up flat ev.flat⟩ } }

/-- Writes KIND and BASE into every slot of a run, with cleared flags and K count (R208). -/
def claimRun (fm : Forme) (kind first : Nat) : Forme :=
  (List.range (kindRun kind)).foldl
    (fun fm i => setTileWord fm (first + i) (mkTileWord false false false false false kind first 0)) fm

/-- KIND of every other tile whose run shares a slot with a new run becomes NONE (R208): each slot of such a tile's run loses
its KIND. -/
def dropOverlap (fm : Forme) (kind first : Nat) : Forme :=
  let bases := ((List.range (kindRun kind)).map (fun i => (tileKind fm (first + i), tileBase fm (first + i)))).filter
    (fun p => decide (p.1 ≠ 0) && !(decide (p.1 = kind) && decide (p.2 = first)))
  bases.foldl (fun fm p => (List.range (kindRun p.1)).foldl (fun fm i =>
    let s := p.2 + i
    if tileKind fm s = p.1 ∧ tileBase fm s = p.2 then setTileWord fm s (tileWord fm s &&& ~~~(0x300 : Word)) else fm) fm) fm

/-- An accumulate adds K to the K count of a tile; LONGSUM above 2^22 on a binary32 tile (R205, R210, R218). -/
def addKcount (fm : Forme) (slot k : Nat) : Forme :=
  let w := tileWord fm slot
  let n := min 0xFFFFFFFF (field w 32 32 + k)
  let long := decide (field w 8 2 = 3) && decide (field w 32 32 ≤ 2 ^ 22) && decide (2 ^ 22 < n)
  setTileWord fm slot (pack [(field w 0 32, 0), (n, 32)] ||| (if long then 4 else 0))

/-- The first slots of the tiles of an M × N grid from a first slot, with row and column of the tile (R164). -/
def gridTiles (kind first m n : Nat) : List (Nat × Nat × Nat) :=
  let side := kindSide kind
  let nc := ceilDiv n side
  ((List.range (ceilDiv m side)).map (fun i => (List.range nc).map (fun j =>
    (first + (i * nc + j) * kindRun kind, i, j)))).flatten

/-- Slots that a grid occupies: first slot and count (R164). -/
def gridSlots (kind first m n : Nat) : Nat × Nat :=
  (first, ceilDiv m (kindSide kind) * ceilDiv n (kindSide kind) * kindRun kind)

/-- Two slot ranges share a slot. -/
def slotsMeet (a b : Nat × Nat) : Bool := decide (a.1 < b.1 + b.2) && decide (b.1 < a.1 + a.2)

/-- Offset in quire memory of element (m, n) of a grid (R164, R196, R198). -/
def entryOff (kind first cols m n : Nat) : Nat :=
  let side := kindSide kind
  let tile := (m / side) * ceilDiv cols side + n / side
  (first + tile * kindRun kind) * 0x10000 + ((m % side) * side + n % side) * kindBytes kind

/-- First slot of the tile that holds element (m, n) of a grid. -/
def entrySlot (kind first cols m n : Nat) : Nat :=
  let side := kindSide kind
  first + ((m / side) * ceilDiv cols side + n / side) * kindRun kind

end Sys2Proof.Machine
end

