-- ==== Sys2Proof/Machine/Convert.lean ====
section
/-! DEFINITION. Conversion of a logical region into one or two destinations: Justification, delayed scaling, scale selection,
rounding, flags, and what the Proofreader counts and samples (spec/03, 06, 12). -/

namespace Sys2Proof.Machine

/-- A destination of a write (R391, R392, R440). -/
structure Dst where
  fmt    : Fmt
  blk    : Nat
  base   : Nat
  pitch  : Nat
  sbase  : Nat
  spitch : Nat
  wrap   : Nat
  tsaddr : Nat
  tagged : Bool
  tag    : BitVec 12
  cls    : Nat
  jctl   : Nat
  jtab   : Nat
  /-- rows lie in vectors of 128 elements, one pitch each (R414) -/
  fold   : Bool := false
  deriving DecidableEq, Repr, Inhabited

/-- The destination that an operand record names; c is the CLASS read at dispatch. -/
def Rec.dst (r : Rec) (c : Nat) : Dst :=
  ⟨r.format, r.blk, r.base, r.pitch, r.sbase, r.spitch, 2 ^ 40, r.tsaddr, r.tagged, r.tag, if r.tagged then c else 0,
   r.jctl, r.jtab, false⟩

/-- How one element is written: encoded as it is, encoded as a posit8 code after division by its scale (R113), or a code that
the scale rules choose (R263, R265), with the posit8 pattern that gives its class (R490) and its flags. -/
inductive Job where
  | plain (v : Val)
  | quot (v : Val) (s : Frac)
  | code (c cls : Nat) (g : Flg)
  deriving DecidableEq, Repr, Inhabited

/-! ### Justification (R268 to R274, R808) -/

/-- Transposes a region of n columns. -/
def transpose {α : Type} [Inhabited α] (n : Nat) (m : List (List α)) : List (List α) :=
  (List.range n).map (fun j => m.map (fun r => r.getD j default))

/-- Parity of the ones of i and j: the sign of the Hadamard entry (R270). -/
def hadNeg (i j : Nat) : Bool := (List.range 8).foldl (fun acc b => acc ^^ (i.testBit b && j.testBit b)) false

/-- Group size of JSIZE (R268). -/
def jGroup (jsize : Nat) : Nat := 8 * 2 ^ jsize

/-- Shift σ of R270. -/
def jShift (jsize : Nat) (weight : Bool) : Nat := if weight then (jsize + 4) / 2 else (jsize + 3) / 2

/-- Rotates one group (R270); a group with a non-real input becomes NaR throughout (R808). -/
def rotateGroup (jsize : Nat) (weight : Bool) (xs : List Val) : List Val :=
  if xs.all Val.isReal then
    (List.range xs.length).map (fun j =>
      Val.ofFrac ((xs.zipIdx.foldl (fun (acc : Frac) p =>
        acc.add (if hadNeg p.2 j then p.1.frac.neg else p.1.frac)) ⟨0, 1⟩).scale2 (-Int.ofNat (jShift jsize weight))))
  else xs.map (fun _ => .nan)

/-- Rotates a row group by group. -/
def rotateRow (jsize : Nat) (weight : Bool) (xs : List Val) : List Val :=
  ((chunks (jGroup jsize) xs).map (rotateGroup jsize weight)).flatten

/-- Applies smoothing to channel j (R271). -/
def smoothVal (weight : Bool) (f : Byte) (v : Val) : Val :=
  let g : Int := Int.ofNat f.toNat - 127
  v.scale2 (if weight then g else -g)

/-- The Justification transform of a region (R273): smoothing, then rotation. -/
def justify (jctl : Nat) (table : Nat → Byte) (m : List (List Val)) : List (List Val) :=
  if jctl = 0 then m
  else
    let jsize := jctl % 8
    let weight := jctl.testBit 3
    let axis := jctl.testBit 4
    let m1 := if jctl.testBit 5 then
        m.zipIdx.map (fun r => r.1.zipIdx.map (fun c => smoothVal weight (table (if axis then r.2 else c.2)) c.1))
      else m
    if jsize = 0 then m1
    else if axis then
      let cols := (m1.headD []).length
      let _ : Inhabited Val := ⟨.nan⟩
      transpose m1.length ((transpose cols m1).map (rotateRow jsize weight))
    else m1.map (rotateRow jsize weight)

/-- Channels of the smoothing table of a rows × cols region (R271). -/
def jChannels (jctl rows cols : Nat) : Nat := if jctl.testBit 5 then (if jctl.testBit 4 then rows else cols) else 0

/-! ### Scales (R252 to R267) -/

/-- Maximum magnitude of the real values (R252). -/
def amax (vs : List Val) : Frac :=
  vs.foldl (fun acc v => match v with | .real q => if acc.lt q.abs then q.abs else acc | _ => acc) ⟨0, 1⟩

/-- Clamp of an integer. -/
def clampI (lo hi x : Int) : Int := if x < lo then lo else if hi < x then hi else x

/-- R255: the E8M0 scale byte of a BP8 block, and whether the block is flat. -/
def bp8Scale (t : Int) (vs : List Val) : Nat × Bool :=
  let a := amax vs
  if a.num = 0 then (0x7F, true) else ((clampI 0 0xFE (127 + a.log2 - t)).toNat, false)

/-- R257, R258: the posit8 row scale of an RS8 row under a tensor scale's magnitude, and whether the row is flat. -/
def rs8Scale (t : Int) (tmag : Frac) (vs : List Val) : Nat × Bool :=
  let a := amax vs
  if a.num = 0 then (0x40, true)
  else
    (((List.range 127).map (· + 1)).findSome? (fun p =>
      match decodePosit 8 p with
      | .real s => if a.lt ((s.mul tmag).mul (Frac.pow2 (t + 1))) then some p else none
      | _ => none) |>.getD 0x7F, false)

/-- R260: the posit32 pattern of the chosen tensor scale. -/
def rs8Tensor (t : Int) (rows : List (List Val)) : Nat :=
  let gs := (rows.map amax).filterMap (fun a => if a.num = 0 then none else some a.log2)
  match gs with
  | [] => 0x40000000
  | g :: rest =>
    let lo := rest.foldl min g
    let hi := rest.foldl max g
    (encodePosit 32 (.real (Frac.pow2 (clampI (-120) 120 ((lo + hi) / 2 - t)))) .rne).pat

/-- Exact mean of magnitudes. -/
def meanAbs (vs : List Val) : Frac :=
  (vs.foldl (fun (acc : Frac) v => acc.add v.frac.abs) ⟨0, 1⟩).mul ⟨1, vs.length⟩

/-- R263, R264: codebook and elements of a Q2 block, and whether it is flat. -/
def q2Block (vs : List Val) : List Nat × List Job × Bool :=
  if vs.any (fun v => !v.isReal) then
    ([0x80, 0x80, 0x80, 0x80], vs.map (fun _ => .code 0 0x80 ⟨false, true, false⟩), false)
  else
    let m := amax vs
    if m.num = 0 then ([0, 0, 0, 0], vs.map (fun _ => .code 0 0 Flg.none), true)
    else
      let half := m.mul ⟨1, 2⟩
      let outer := vs.filter (fun v => half.le v.frac.abs)
      let inner := vs.filter (fun v => v.frac.abs.lt half)
      let b := encodePosit 8 (Val.ofFrac (meanAbs outer)) .rne
      let a := if inner = [] then b else encodePosit 8 (Val.ofFrac (meanAbs inner)) .rne
      let mid := ((decodePosit 8 a.pat).frac.add (decodePosit 8 b.pat).frac).mul ⟨1, 2⟩
      let book := [negP8 b.pat, negP8 a.pat, a.pat, b.pat]
      let ovf := a.ovf || b.ovf
      let job (i : Nat) (v : Val) : Job :=
        let near := mid.lt v.frac.abs
        let c := if decide (v.frac.num < 0) then (if near then 0 else 1) else (if near then 3 else 2)
        .code c (book.getD c 0) ⟨ovf && decide (i = 0), false, false⟩
      (book, vs.zipIdx.map (fun p => job p.2 p.1), false)

/-- R265: the posit8 scale and the elements of a Q1 block, and whether it is flat. -/
def q1Block (vs : List Val) : Nat × List Job × Bool :=
  if vs.any (fun v => !v.isReal) then (0x80, vs.map (fun _ => .code 0 0x80 ⟨false, true, false⟩), false)
  else if (amax vs).num = 0 then (0, vs.map (fun _ => .code 0 0 Flg.none), true)
  else
    let s := encodePosit 8 (Val.ofFrac (meanAbs vs)) .rne
    (s.pat, vs.zipIdx.map (fun p =>
      .code (b2n (decide (p.1.frac.num < 0))) s.pat ⟨s.ovf && decide (p.2 = 0), false, false⟩), false)

/-- What scale selection decides for a region. -/
structure Quant where
  jobs   : List (List Job)
  /-- bytes of the scale plane -/
  scales : List (Nat × Byte)
  /-- the tensor scale written to the operand (R259) -/
  tensor : Option Nat
  /-- flat blocks and rows: row, first column, columns (R267) -/
  flat   : List (Nat × Nat × Nat)
  deriving DecidableEq, Repr, Inhabited

/-- Scale selection of a BP8 row. -/
def bp8Row (t : Int) (B : Nat) (vs : List Val) : List (List Val × Nat × Bool) :=
  (chunks B vs).map (fun c => let s := bp8Scale t c; (c, s.1, s.2))

/-- The scale planes of R255 to R265 for a region whose rows are rows of the destination (R250); operand ts for RS8. -/
def quantise (d : Dst) (t : Int) (ts : Nat) (m : List (List Val)) : Quant :=
  let saddr (r i : Nat) : Nat := (d.sbase + r * d.spitch + i) % d.wrap
  match d.fmt with
  | .bp8 =>
    let B := blkSize d.blk
    let rows := m.map (bp8Row t B)
    ⟨rows.map (fun r => (r.map (fun b => b.1.map (fun v => Job.quot v (Frac.pow2 (Int.ofNat b.2.1 - 127))))).flatten),
     (rows.zipIdx.map (fun r => r.1.zipIdx.map (fun b => (saddr r.2 b.2, BitVec.ofNat 8 b.1.2.1)))).flatten,
     none,
     (rows.zipIdx.map (fun r => (r.1.zipIdx.filter (fun b => b.1.2.2)).map (fun b => (r.2, b.2 * B, b.1.1.length)))).flatten⟩
  | .q2 =>
    let rows := m.map (fun vs => (chunks 64 vs).map q2Block)
    ⟨rows.map (fun r => (r.map (fun b => b.2.1)).flatten),
     (rows.zipIdx.map (fun r => (r.1.zipIdx.map (fun b =>
       placed (saddr r.2 (4 * b.2)) (b.1.1.map (fun x => BitVec.ofNat 8 x)))).flatten)).flatten,
     none,
     (rows.zipIdx.map (fun r => (r.1.zipIdx.filter (fun b => b.1.2.2)).map (fun b =>
       (r.2, b.2 * 64, b.1.2.1.length)))).flatten⟩
  | .q1 =>
    let rows := m.map (fun vs => (chunks 64 vs).map q1Block)
    ⟨rows.map (fun r => (r.map (fun b => b.2.1)).flatten),
     (rows.zipIdx.map (fun r => r.1.zipIdx.map (fun b => (saddr r.2 b.2, BitVec.ofNat 8 b.1.1)))).flatten,
     none,
     (rows.zipIdx.map (fun r => (r.1.zipIdx.filter (fun b => b.1.2.2)).map (fun b =>
       (r.2, b.2 * 64, b.1.2.1.length)))).flatten⟩
  | .rs8 =>
    let T := if ts = 0 then rs8Tensor t m else ts
    let head := placed (d.sbase % d.wrap) (leBytes 4 T)
    let chosen := if ts = 0 then some T else none
    match decodePosit 32 T with
    | .real q =>
      let rows := m.map (fun vs => (vs, rs8Scale t q.abs vs))
      ⟨rows.map (fun r => r.1.map (fun v => Job.quot v ((decodePosit 8 r.2.1).frac.mul q))),
       head ++ rows.zipIdx.map (fun r => ((d.sbase + 4 + r.2) % d.wrap, BitVec.ofNat 8 r.1.2.1)),
       chosen,
       (rows.zipIdx.filter (fun r => r.1.2.2)).map (fun r => (r.2, 0, r.1.1.length))⟩
    | _ => -- a NaR operand (R262)
      ⟨m.map (fun vs => vs.map (fun _ => Job.quot .nan ⟨1, 1⟩)),
       head ++ m.zipIdx.map (fun r => ((d.sbase + 4 + r.2) % d.wrap, (0x40 : Byte))), chosen, []⟩
  | _ => ⟨m.map (fun vs => vs.map Job.plain), [], none, []⟩

/-! ### Delayed scaling (R275 to R286) -/

/-- Largest finite value of a format that delayed scaling serves (R277). -/
def scaleMax (f : Nat) : Option Frac :=
  if f = 0x0C then some ⟨448, 1⟩ else if f = 0x0D then some ⟨57344, 1⟩ else if f = 0x08 then some ⟨65504, 1⟩ else none

/-- e(h) of R277. -/
def scaleExp (f : Nat) (margin : Nat) (h : Frac) : Int :=
  match scaleMax f with
  | none => 0
  | some L => if h.num = 0 then 0 else clampI (-127) 127 ((L.div h).log2 - Int.ofNat margin)

/-- A maximum rounded upward to binary32, saturating (R280). -/
def amaxUp (a : Frac) : Nat :=
  if a.num = 0 then 0
  else
    let e := encodeFloat .f32 8 23 127 false false (.real a) .rtz
    match (decodeFloat .f32 8 23 127 false e.pat).1 with
    | .real q => if q.eqv a then e.pat else min 0x7F7FFFFF (e.pat + 1)
    | _ => e.pat + 1

/-- The value of a binary32 pattern that is finite. -/
def f32Val (p : Nat) : Frac := (decodeFloat .f32 8 23 127 false p).1.frac

/-- The code of a destination format in a scale-history entry. -/
def fmtCode (f : Fmt) : Nat :=
  match f with
  | .p8 => 0 | .p16 => 1 | .p32 => 2 | .bp8 => 4 | .q2 => 5 | .q1 => 6 | .rs8 => 7 | .f16 => 8 | .bf16 => 9 | .f32 => 0xA
  | .e4m3 => 0xC | .e5m2 => 0xD | .i8 => 0x10 | .i32 => 0x11 | .i64 => 0x12 | .e8m0 => 0x14 | .qp8 => 0x18 | .qp16 => 0x19
  | .qp32 => 0x1A

/-- Delayed scaling concerns a write: G1 folio, narrow destination, a tag whose entry is enabled (R275, R286). -/
def delayedActs (s : State) (g1 : Bool) (fmt : Fmt) (tagged : Bool) (tag : BitVec 12) : Bool :=
  g1 && (scaleMax (fmtCode fmt)).isSome && tagged && (histEntry s tag.toNat).enable

/-- What delayed scaling decides for a region. -/
structure Delay where
  e      : Int
  /-- byte 1 of the scale record (R279) -/
  mark   : Nat
  /-- the write uses SCALE_EXP, so its overflows are counted (R282) -/
  counts : Bool
  /-- the region's maximum enters PENDING (R280) -/
  enters : Bool
  /-- that maximum, rounded upward to binary32 -/
  top    : Nat
  rebuilt : Bool
  stale  : Bool
  deriving DecidableEq, Repr, Inhabited

/-- The entry after a region (R280 to R283, R286): PENDING, REBUILT, STALE. -/
def delayEntry (h : HistEntry) (x : Delay) (stale : Bool) : HistEntry :=
  { h with
    pending := if x.enters && (f32Val h.pending.toNat).lt (f32Val x.top) then BitVec.ofNat 32 x.top else h.pending
    rebuilt := h.rebuilt || x.rebuilt
    stale := h.stale || stale }

/-- Elements that would raise OVF at exponent e. -/
def countOvf (fmt : Fmt) (ovfm subn : Bool) (e : Int) (m : List (List Val)) : Nat :=
  sumN (m.map (fun r => (r.filter (fun v => (encodeScalar fmt ovfm subn (v.scale2 e) .rne).ovf)).length))

/-- R275 to R286: exponent and mark of a region's scale record, and what it does to its entry. -/
def delayOf (s : State) (fm : Forme) (d : Dst) (c : Ctl) (m : List (List Val)) : Delay :=
  let h := histEntry s d.tag.toNat
  let a := amax m.flatten
  let n := sumN (m.map List.length)
  if h.fmt.toNat ≠ fmtCode d.fmt then ⟨0, 4, false, false, 0, false, true⟩
  else
    let own := scaleExp h.fmt.toNat fm.lat.g1Margin.toNat a
    if h.count = 0 then ⟨own, 1, false, true, amaxUp a, true, false⟩
    else
      let se := toSigned 8 h.scale.toNat
      if fm.lat.autoRescue = 1 ∧ fm.lat.staleThr.toNat * n < countOvf d.fmt c.ovfm c.subn se m * 65536 then
        ⟨own, 2, false, true, amaxUp a, false, true⟩
      else ⟨se, 0, true, true, amaxUp a, false, false⟩

/-! ### Rounding of a region (R93 to R95, R117 to R125) -/

/-- A destination's rounding: false for RNE or RTZ (R93 to R95, R266). -/
def drawsSr (g1 : Bool) (c : Ctl) (d : Dst) : Bool :=
  !g1 && (decide (c.rnd = 3) || (decide (c.rnd = 0) && decide (d.cls = 3))) && decide (d.fmt ≠ .q2) && decide (d.fmt ≠ .q1)

/-- The rounding mode when no lane is drawn (R93, R95). -/
def plainMode (g1 : Bool) (c : Ctl) : Mode := if !g1 && decide (c.rnd = 2) then .rtz else .rne

/-- k of a write (R92, R99). -/
def srBits (fm : Forme) (c : Ctl) : Nat := if c.srk = 0 then fm.lat.srK.toNat else c.srk

/-- Encodes one element. -/
def encodeJob (fmt : Fmt) (c : Ctl) (md : Mode) : Job → Enc
  | .plain v => encodeScalar fmt c.ovfm c.subn v md
  | .quot v q =>
    match v with
    | .real x => encodePosit 8 (Val.ofFrac (x.div q)) md
    | .zero z => encodePosit 8 (.zero z) md
    | _ => encodePosit 8 .nan md
  | .code x _ g => { pat := x, ovf := g.ovf, nar := g.nar, flush := g.flush }

/-- Encodes one element, stepping its lane when the destination draws (R117, R122). -/
def encodeCell (g1 : Bool) (c : Ctl) (k lane : Nat) (d : Dst) (sr : Table (BitVec 32)) (j : Job) : Table (BitVec 32) × Enc :=
  if drawsSr g1 c d then
    let i := c.ctx.1 * 128 + lane
    let x := xorshift (tget srDefault sr i)
    (tset srDefault sr i x, encodeJob d.fmt c (.sr k (x.toNat >>> (32 - k))) j)
  else (sr, encodeJob d.fmt c (plainMode g1 c) j)

/-- One element into every destination, the primary first (R123, R235). -/
def encodeAll (g1 : Bool) (c : Ctl) (k lane : Nat) : List Dst → List Job → Table (BitVec 32) → Table (BitVec 32) × List Enc
  | d :: ds, j :: js, sr =>
    let r := encodeCell g1 c k lane d sr j
    let t := encodeAll g1 c k lane ds js r.1
    (t.1, r.2 :: t.2)
  | _, _, sr => (sr, [])

/-- A row, in increasing column order (R121). -/
def encodeRow (g1 : Bool) (c : Ctl) (k : Nat) (ds : List Dst) :
    Nat → List (List Job) → Table (BitVec 32) → Table (BitVec 32) × List (List Enc)
  | _, [], sr => (sr, [])
  | col, js :: rest, sr =>
    let r := encodeAll g1 c k (col % 128) ds js sr
    let t := encodeRow g1 c k ds (col + 1) rest r.1
    (t.1, r.2 :: t.2)

/-- A region, in increasing row order (R121). -/
def encodeRows (g1 : Bool) (c : Ctl) (k : Nat) (ds : List Dst) :
    List (List (List Job)) → Table (BitVec 32) → Table (BitVec 32) × List (List (List Enc))
  | [], sr => (sr, [])
  | row :: rest, sr =>
    let r := encodeRow g1 c k ds 0 row sr
    let t := encodeRows g1 c k ds rest r.1
    (t.1, r.2 :: t.2)

/-- The jobs of several destinations, gathered by element. -/
def gatherJobs (qs : List Quant) : List (List (List Job)) :=
  match qs with
  | [] => []
  | [q] => q.jobs.map (fun r => r.map (fun j => [j]))
  | q :: p :: _ => List.zipWith (fun a b => List.zipWith (fun x y => [x, y]) a b) q.jobs p.jobs

/-! ### The Proofreader (R490 to R502) -/

/-- The format whose patterns give a destination's classes (R490). -/
def classFmt (f : Fmt) : Fmt := if isScaled f then .p8 else f

/-- Class of a written element (R490). -/
def jobClass (f : Fmt) (j : Job) (e : Enc) : PClass :=
  match j with
  | .code _ cls _ => classOf .p8 cls false
  | .plain v => classOf (classFmt f) e.pat v.isNan
  | .quot _ _ => classOf .p8 e.pat false

/-- The element's exact value is non-zero and real. -/
def jobNonzero : Job → Bool
  | .plain (.real _) => true
  | _ => false

/-- Saturating 32-bit count. -/
def sat32 (a : BitVec 32) (k : Nat) : BitVec 32 := BitVec.ofNat 32 (min 0xFFFFFFFF (a.toNat + k))

/-- Adds a write's counts to its tag entry (R490 to R493). -/
def countEntry (e : TagEntry) (f : Fmt) (cells : List (Job × Enc)) (flats : Nat) : TagEntry :=
  let cls := cells.map (fun p => jobClass f p.1 p.2)
  let n (c : PClass) : Nat := (cls.filter (· = c)).length
  let zl := (cells.filter (fun p => jobNonzero p.1 && decide (jobClass f p.1 p.2 = .zero))).length
  { e with
    elems := BitVec.ofNat 47 (min (2 ^ 47 - 1) (e.elems.toNat + cells.length))
    live := e.live || cls.any (fun c => decide (c = .high) || decide (c = .plain))
    zero := sat32 e.zero (n .zero), low := sat32 e.low (n .low), high := sat32 e.high (n .high)
    nonfin := sat32 e.nonfin (n .nonfin), zlost := sat32 e.zlost zl, flat := sat32 e.flat flats }

/-- Counting of a write into a tagged destination, with NARROW and NONFIN (R492, R501, R506; log 15). -/
def countWrite (s : State) (d : Dst) (cells : List (Job × Enc)) (flats : Nat) : State :=
  if !d.tagged then s
  else
    let e := tget tagDefault s.tbl.tags d.tag.toNat
    let narrow := (decide (e.cls = 4) || decide (e.cls = 5)) && decide (d.fmt ≠ .p32) && decide (d.fmt ≠ .f32)
      && decide (d.fmt ≠ .qp32)
    let s1 := if narrow then noteAlarm s d.tag 4 else s
    if !e.count then s1
    else
      let e1 := countEntry (tget tagDefault s1.tbl.tags d.tag.toNat) d.fmt cells flats
      let s2 : State := { s1 with tbl := { s1.tbl with tags := tset tagDefault s1.tbl.tags d.tag.toNat e1 } }
      if e.nfalarm && cells.any (fun p => decide (jobClass d.fmt p.1 p.2 = .nonfin)) then noteAlarm s2 d.tag 2 else s2

/-- R498: block t of a write to a tag is sampled. -/
def sampled (tag : BitVec 12) (step : BitVec 32) (shift t : Nat) : Bool :=
  let x := tag.setWidth 32 ^^^ (step * 0x9E3779B9#32) ^^^ BitVec.ofNat 32 (t * 0x85EBCA6B)
  let y := xorshift (if x = 0 then 1 else x)
  decide (y.toNat < 2 ^ (32 - shift))

/-- R499: an element of a sampled block is compared. -/
def compared (f : Fmt) (v : Val) : Bool :=
  match v with
  | .real q =>
    let t := q.abs.log2
    let k := t / 4
    let rl := if 0 ≤ k then k.toNat + 2 else k.natAbs + 1
    decide (-120 ≤ t) && decide (t < 120) && (decide (f ≠ .bf16) || decide (rl + 2 + 7 ≤ 31))
  | _ => true

/-- R499: the reference of an element. -/
def reference (f : Fmt) (c : Ctl) (j : Job) : Nat :=
  let via (q : Frac) : Val := decodePosit 32 (encodePosit 32 (.real q) .rne).pat
  match j with
  | .plain (.real q) => (encodeScalar f c.ovfm c.subn (via q) .rne).pat
  | .quot (.real q) s => (encodeJob f c .rne (.quot (via q) s)).pat
  | j => (encodeJob f c .rne j).pat

/-- The exact value behind a job. -/
def jobVal : Job → Val
  | .plain v => v
  | .quot v _ => v
  | .code _ _ _ => .zero false

/-- Largest disagreement of a sampled block, none when no element is compared (R499). -/
def blockWorst (f : Fmt) (c : Ctl) (cells : List (Job × Enc)) : Option Nat :=
  match cells.filter (fun p => compared f (jobVal p.1)) with
  | [] => none
  | ps => some ((ps.map (fun p => ulpDistance (classFmt f) p.2.pat (reference f c p.1))).foldl max 0)

/-- Formats whose writes are sampled (R499). -/
def sampledFmt (f : Fmt) : Bool := decide (f ≠ .q2) && decide (f ≠ .q1) && decide (fmtBits f < 32)

/-- Cells of block (br, bc) of a region (R497). -/
def blockCells (m : List (List (Job × Enc))) (br bc : Nat) : List (Job × Enc) :=
  (((m.drop (br * 128)).take 128).map (fun r => (r.drop (bc * 128)).take 128)).flatten

/-- Sampled re-computation of a write (R497 to R500). -/
def sampleWrite (s : State) (d : Dst) (c : Ctl) (m : List (List (Job × Enc))) : State :=
  let e := tget tagDefault s.tbl.tags d.tag.toNat
  if !d.tagged || !e.sample || !sampledFmt d.fmt then s
  else
    let nbc := ceilDiv (m.headD []).length 128
    let ts := (List.range (ceilDiv m.length 128 * nbc)).filter (sampled d.tag s.proof.step e.shift.toNat)
    let ws := ts.filterMap (fun t => blockWorst d.fmt c (blockCells m (t / nbc) (t % nbc)))
    let w := ws.foldl max 0
    let lim := if e.ulpLim = 0 then entN s 0x4060 2 else e.ulpLim.toNat
    let e1 := { e with
      samples := sat32 e.samples ws.length
      worst := if e.worst.toNat < w then BitVec.ofNat 32 w else e.worst
      worstAll := if e.worstAll.toNat < w then BitVec.ofNat 32 w else e.worstAll
      worstStep := if e.worstAll.toNat < w then s.proof.step else e.worstStep }
    let s1 : State := { s with tbl := { s.tbl with tags := tset tagDefault s.tbl.tags d.tag.toNat e1 } }
    if lim < w then noteAlarm s1 d.tag 3 else s1

/-! ### The whole write -/

/-- What a conversion hands back: the state with lanes, flags, counts, alarms, history and the side bytes of the Galley
written; and for each destination its bytes in order, its codes and its flat blocks. -/
structure ConvOut where
  st    : State
  bytes : List (List (Nat × Byte))
  encs  : List (List (List Enc))
  flats : List (List (Nat × Nat × Nat))

/-- Which rules a write is under: delayed scaling (drain, Carriage, VCVT), sampling (all but the Fount). -/
structure ConvKind where
  delayed : Bool
  samples : Bool
  deriving DecidableEq, Repr, Inhabited

/-- Bytes of a destination: scale plane, then code rows. -/
def dstBytes (d : Dst) (q : Quant) (encs : List (List Enc)) : List (Nat × Byte) :=
  let rows := if d.fold then (encs.map (chunks 128)).flatten else encs
  q.scales ++ planeBytes d.base d.pitch d.wrap (rows.map (fun r => packCodes (fmtBits d.fmt) (r.map (·.pat))))

/-- One destination before rounding: Justification, delayed scaling and scale selection (R273, R278). -/
def prepareDst (s : State) (f : FormeIx) (g1 : Bool) (c : Ctl) (kd : ConvKind) (d : Dst) (vals : List (List Val)) :
    Quant × Option Delay :=
  let fm := s.forme f
  let jv := justify d.jctl (fun j => fm.galley.byte (d.jtab + j)) vals
  let dl := if kd.delayed && delayedActs s g1 d.fmt d.tagged d.tag then some (delayOf s fm d c jv) else none
  let jv := match dl with
    | some x => jv.map (fun r => r.map (fun v => v.scale2 x.e))
    | none => jv
  (quantise d (toSigned 32 fm.lat.scaleTarget.toNat) (if d.fmt = .rs8 then readLe (galleyRd fm) d.tsaddr 4 else 0) jv, dl)

/-- After rounding: overflows counted under SCALE_EXP (R282), the entry and the alarms of delayed scaling, the scale record
(R279) or the chosen tensor scale (R259) in the Galley. -/
def finishDst (s : State) (f : FormeIx) (d : Dst) (q : Quant) (dl : Option Delay) (encs : List (List Enc)) : State :=
  let s1 := match q.tensor with
    | some t => modForme s f (fun fm => galleyPutAll fm (placed d.tsaddr (leBytes 4 t)))
    | none => s
  match dl with
  | none => s1
  | some x =>
    let thr := (s.forme f).lat.staleThr.toNat
    let n := sumN (encs.map List.length)
    let o := sumN (encs.map (fun r => (r.filter (·.ovf)).length))
    let late := x.counts && decide (thr * n < o * 65536)
    let s2 := setHist s1 d.tag.toNat (delayEntry (histEntry s1 d.tag.toNat) x (x.stale || late))
    let s3 := if x.rebuilt then noteAlarm s2 d.tag 5 else if x.stale || late then noteAlarm s2 d.tag 6 else s2
    let rec4 := BitVec.ofNat 8 (ofSigned 8 x.e) :: BitVec.ofNat 8 x.mark :: leBytes 2 d.tag.toNat
    modForme s3 f (fun fm => galleyPutAll fm (placed d.tsaddr rec4))

/-- Counting and sampling of one destination. -/
def proofDst (s : State) (c : Ctl) (kd : ConvKind) (d : Dst) (q : Quant) (encs : List (List Enc)) : State :=
  let cells := List.zipWith List.zip q.jobs encs
  let s1 := countWrite s d cells.flatten q.flat.length
  if kd.samples then sampleWrite s1 d c cells else s1

/-- Converts the exact values of a logical region into its destinations (R90, R241, R249). Its alarms count as raised in one
Forme cycle (R502; log 24). -/
def convertRegion (s : State) (f : FormeIx) (c : Ctl) (kd : ConvKind) (ds : List Dst) (vals : List (List Val)) : ConvOut :=
  let fm := s.forme f
  let g1 := fm.fe.g1
  let qs := ds.map (fun d => prepareDst s f g1 c kd d vals)
  let r := encodeRows g1 c (srBits fm c) ds (gatherJobs (qs.map (·.1))) fm.vu.sr
  let encOf (i : Nat) : List (List Enc) := r.2.map (fun row => row.map (fun cell => cell.getD i { pat := 0 }))
  let s1 := modForme s f (fun fm => { fm with vu := { fm.vu with sr := r.1 } })
  let g := (r.2.flatten.flatten).foldl (fun g e => g.or e.flg) Flg.none
  let s2 := modForme s1 f (fun fm => setCvt fm g)
  let items := (ds.zip qs).zipIdx
  let s3 := items.foldl (fun s p => proofDst s c kd p.1.1 p.1.2.1 (encOf p.2)) s2
  let s4 := items.foldl (fun s p => finishDst s f p.1.1 p.1.2.1 p.1.2.2 (encOf p.2)) s3
  ⟨settleAlarms s4 s.proof.alarms.length, items.map (fun p => dstBytes p.1.1 p.1.2.1 (encOf p.2)), items.map (fun p => encOf p.2),
   items.map (fun p => p.1.2.1.flat)⟩

/-- The context that a conversion claims (R128). -/
def convCtx (fm : Forme) (c : Ctl) (ds : List Dst) : Option (Fin 16) :=
  if ds.any (drawsSr fm.fe.g1 c) then some c.ctx else none

/-- The conversion would draw from a context that another operation claims (R130). -/
def ctxBusy (fm : Forme) (c : Ctl) (ds : List Dst) : Bool :=
  match convCtx fm c ds with
  | some x => ctxClaimed fm x
  | none => false

/-- Galley ranges that a destination makes the write read: smoothing table, tensor-scale operand. -/
def dstReads (d : Dst) (rows cols : Nat) : List (Nat × Nat) :=
  (if jChannels d.jctl rows cols = 0 then [] else [(d.jtab, jChannels d.jctl rows cols)])
    ++ (if d.fmt = .rs8 then [(d.tsaddr, 4)] else [])

/-- A smoothing-table byte of 0xFF is an illegal operand (R271). -/
def smoothBad (fm : Forme) (d : Dst) (rows cols : Nat) : Bool :=
  (fm.galley.bytes d.jtab (jChannels d.jctl rows cols)).any (fun b => decide (b = 0xFF))

end Sys2Proof.Machine
end

