-- ==== Sys2Proof/Machine/Words.lean ====
section
/-! DEFINITION. Instruction words: the fields of each format of spec/09, side records and Carriage descriptors, and the Galley
regions that each instruction reads and writes. -/

namespace Sys2Proof.Machine

/-! ### Header fields (R384) -/

/-- WTOK. -/
def wtok (w : BitVec 128) : BitVec 4 := BitVec.ofNat 4 (wfield w 8 4)
/-- WCNT. -/
def wcnt (w : BitVec 128) : Nat := wfield w 12 4
/-- STOK. -/
def stok (w : BitVec 128) : BitVec 4 := BitVec.ofNat 4 (wfield w 16 4)
/-- SEN. -/
def sen (w : BitVec 128) : Bool := wbit w 20

/-- The count that an instruction's completion signals (R355, R385): SCNT for TSIG, else 1, 0 when it signals nothing. -/
def sigCount (w : BitVec 128) : Nat :=
  if sen w then (if wfield w 0 8 = 0x70 then wfield w 24 4 else 1) else 0

/-- The opcodes of R386. -/
def opcodeListed (op : Nat) : Bool :=
  op = 0x10 || op = 0x20 || (0x30 ≤ op && op ≤ 0x32) || (0x40 ≤ op && op ≤ 0x4A) || (0x50 ≤ op && op ≤ 0x5B)
    || op = 0x60 || op = 0x61 || (0x70 ≤ op && op ≤ 0x77)

/-- The queue of an opcode (R387). -/
def queueOf (op : Nat) : Queue :=
  match op / 16 with
  | 1 => .cq
  | 2 => .pq
  | 6 => .fq
  | 7 => .sq
  | _ => .vq

/-! ### Word formats -/

/-- PACC (R403). -/
structure PWord where
  mode  : Bool
  init  : Bool
  reuse : Bool
  spill : Nat
  tile  : Nat
  m     : Nat
  n     : Nat
  k     : Nat
  cvt   : Nat
  ra    : Nat
  rb    : Nat
  deriving DecidableEq, Repr, Inhabited

/-- Fields of a PACC word. -/
def pword (w : BitVec 128) : PWord :=
  ⟨wbit w 24, wbit w 25, wbit w 26, wfield w 27 3, wfield w 32 8, wfield w 40 10 + 1, wfield w 50 10 + 1, wfield w 60 17,
   wfield w 77 16, wfield w 93 14, wfield w 107 14⟩

/-- DRAIN (R406). -/
structure DWord where
  tile   : Nat
  m      : Nat
  n      : Nat
  skind  : Nat
  dual   : Bool
  rowmax : Bool
  rowsum : Bool
  topk   : Bool
  k      : Nat
  clr    : Bool
  dsA    : Bool
  dsB    : Bool
  cvt    : Nat
  rd     : Nat
  rx     : Nat
  rs     : Nat
  deriving DecidableEq, Repr, Inhabited

/-- Fields of a DRAIN word. -/
def dword (w : BitVec 128) : DWord :=
  ⟨wfield w 24 8, wfield w 32 10 + 1, wfield w 42 10 + 1, wfield w 52 2, wbit w 54, wbit w 55, wbit w 56, wbit w 57,
   wfield w 58 3 + 1, wbit w 61, wbit w 62, wbit w 63, wfield w 64 16, wfield w 80 14, wfield w 94 14, wfield w 108 14⟩

/-- A drain has a side output. -/
def DWord.side (d : DWord) : Bool := d.rowmax || d.rowsum || d.topk
/-- A drain applies scale records (R408). -/
def DWord.descale (d : DWord) : Bool := d.dsA || d.dsB

/-- Vector format (R411). -/
structure VWord where
  vlen  : Nat
  count : Nat
  cvt   : Nat
  ra    : Nat
  rb    : Nat
  rc    : Nat
  rd    : Nat
  aux   : Nat
  deriving DecidableEq, Repr, Inhabited

/-- Fields of a vector word. -/
def vword (w : BitVec 128) : VWord :=
  ⟨wfield w 24 7 + 1, wfield w 31 16 + 1, wfield w 47 16, wfield w 63 14, wfield w 77 14, wfield w 91 14, wfield w 105 14,
   wfield w 119 3⟩

/-- Status format (R417). -/
structure TWord where
  first : Nat
  last  : Nat
  gaddr : Nat
  deriving DecidableEq, Repr, Inhabited

/-- Fields of a status word instruction. -/
def tword (w : BitVec 128) : TWord := ⟨wfield w 24 8, wfield w 32 8, wfield w 40 24⟩

/-- Function format (R419). -/
structure FWord where
  fn    : Nat
  slot  : Fin 8
  vlen  : Nat
  count : Nat
  cvt   : Nat
  ra    : Nat
  rd    : Nat
  deriving DecidableEq, Repr, Inhabited

/-- Fields of a FUNC word. -/
def fword (w : BitVec 128) : FWord :=
  ⟨wfield w 24 4, ⟨wfield w 28 3, Nat.mod_lt _ (by decide)⟩, wfield w 32 7 + 1, wfield w 39 16 + 1, wfield w 55 16,
   wfield w 71 14, wfield w 85 14⟩

/-- Table-load format (R420). -/
structure LWord where
  slot    : Fin 8
  kind    : Nat
  func    : Nat
  version : Nat
  src     : Nat
  deriving DecidableEq, Repr, Inhabited

/-- Fields of an FTLOAD word. -/
def lword (w : BitVec 128) : LWord :=
  ⟨⟨wfield w 24 3, Nat.mod_lt _ (by decide)⟩, wfield w 27 2, wfield w 29 4, wfield w 33 16, wfield w 49 52⟩

/-- Scalar format (R423). -/
structure SWord where
  scnt  : Nat
  ctx   : Fin 16
  gaddr : Nat
  form  : Bool
  val   : Nat
  deriving DecidableEq, Repr, Inhabited

/-- Fields of a scalar word. -/
def sword (w : BitVec 128) : SWord :=
  ⟨wfield w 24 4, ⟨wfield w 28 4, Nat.mod_lt _ (by decide)⟩, wfield w 32 24, wbit w 56, wfield w 64 64⟩

/-- Side record (R407). -/
structure Side where
  maxBase  : Nat
  maxPitch : Nat
  sumBase  : Nat
  sumPitch : Nat
  topBase  : Nat
  topPitch : Nat
  scrA     : Nat
  scrB     : Nat
  rsvd     : Bool
  deriving DecidableEq, Repr, Inhabited

/-- Fields of a side record. -/
def sideOf (r : BitVec 256) : Side :=
  let x := r.toNat
  ⟨fieldN x 0 24, fieldN x 24 24, fieldN x 48 24, fieldN x 72 24, fieldN x 96 24, fieldN x 120 24, fieldN x 144 24,
   fieldN x 168 24, decide (fieldN x 192 64 ≠ 0)⟩

/-- Carriage descriptor (R440). -/
structure Desc where
  src     : Nat
  rtok    : BitVec 4
  rsen    : Bool
  rforme  : Nat
  dst     : Nat
  pat     : Nat
  sfmt    : Nat
  dfmt    : Nat
  sblk    : Nat
  dblk    : Nat
  e       : Nat
  r       : Nat
  spitch  : Nat
  dpitch  : Nat
  sstride : Nat
  cvt     : Nat
  sscale  : Nat
  dscale  : Nat
  sspitch : Nat
  dspitch : Nat
  tsoff   : Nat
  tagged  : Bool
  tag     : BitVec 12
  jctl    : Nat
  jtab    : Nat
  /-- the whole TAG field -/
  tagRaw  : Nat
  rsvdA   : Bool
  rsvdB   : Bool
  rsvdC   : Bool
  rsvdD   : Bool
  deriving DecidableEq, Repr, Inhabited

/-- Fields of a descriptor. -/
def descOf (d : BitVec 512) : Desc :=
  let x := d.toNat
  ⟨fieldN x 0 52, BitVec.ofNat 4 (fieldN x 52 4), x.testBit 56, fieldN x 57 4, fieldN x 64 52, fieldN x 128 2, fieldN x 130 5,
   fieldN x 135 5, fieldN x 140 2, fieldN x 142 2, fieldN x 144 24 + 1, fieldN x 168 24 + 1, fieldN x 192 32,
   fieldN x 224 32, fieldN x 256 16, fieldN x 272 16, fieldN x 288 40, fieldN x 328 40, fieldN x 384 24, fieldN x 408 24,
   fieldN x 432 24, x.testBit 468, BitVec.ofNat 12 (fieldN x 456 12), fieldN x 469 6, fieldN x 475 24, fieldN x 456 13,
   decide (fieldN x 61 3 ≠ 0), decide (fieldN x 116 12 ≠ 0), decide (fieldN x 368 16 ≠ 0), decide (fieldN x 499 13 ≠ 0)⟩

/-- Rows of the destination of a copy (R441). -/
def Desc.drows (d : Desc) : Nat := if d.pat = 2 then d.e else d.r
/-- Elements of a row of the destination of a copy (R441). -/
def Desc.dcols (d : Desc) : Nat := if d.pat = 2 then d.r else d.e
/-- Source format; the checks have found it legal. -/
def Desc.sformat (d : Desc) : Fmt := (fmtOfCode d.sfmt).getD .p8
/-- Destination format; the checks have found it legal. -/
def Desc.dformat (d : Desc) : Fmt := (fmtOfCode d.dfmt).getD .p8
/-- Die ID of a global address (R433). -/
def gDie (a : Nat) : BitVec 12 := BitVec.ofNat 12 (a / 2 ^ 40)
/-- Local address of a global address (R433). -/
def gLocal (a : Nat) : Nat := a % 2 ^ 40

/-- The source plane of a copy, in local addresses of the source die (R441). -/
def Desc.splane (d : Desc) : Plane :=
  ⟨d.sformat, d.sblk, gLocal d.src, d.spitch, if d.pat = 1 then d.sstride else fmtBits d.sformat / 8, d.sscale, d.sspitch,
   false, 2 ^ 40⟩

/-- The destination plane of a copy, in local addresses of the destination die (R441). -/
def Desc.dplane (d : Desc) : Plane :=
  ⟨d.dformat, d.dblk, gLocal d.dst, d.dpitch, fmtBits d.dformat / 8, d.dscale, d.dspitch, false, 2 ^ 40⟩

/-- The destination of a converting copy; c is the CLASS read at dispatch. -/
def Desc.dest (d : Desc) (c : Nat) : Dst :=
  ⟨d.dformat, d.dblk, gLocal d.dst, d.dpitch, d.dscale, d.dspitch, 2 ^ 40, d.tsoff, d.tagged, d.tag, if d.tagged then c else 0,
   d.jctl, d.jtab, false⟩

/-- R443: the copy moves bits. -/
def Desc.bitCopy (d : Desc) : Bool :=
  decide (d.sfmt = d.dfmt) && decide (d.jctl = 0)
    && (match d.sformat with
        | .bp8 => decide (d.sblk = d.dblk) && decide (d.pat = 0)
        | .rs8 => decide (d.pat ≠ 2)
        | _ => true)

/-! ### Records that an instruction names (R388, R393) -/

/-- Record indices by position; 0 where none is named. -/
def namedRecs (w : BitVec 128) : List Nat :=
  match wfield w 0 8 with
  | 0x20 => let p := pword w; [p.ra, p.rb]
  | 0x30 => let d := dword w; [d.rd, d.rx, d.rs]
  | 0x60 => let f := fword w; [f.ra, f.rd]
  | op => if 0x40 ≤ op ∧ op ≤ 0x5B then let v := vword w; [v.ra, v.rb, v.rc, v.rd] else []

/-! ### Rows of vector operands (R411, R414) -/

/-- Elements of the vectors of one row of len elements (R414). -/
def rowLens (len : Nat) : List Nat := (List.range (ceilDiv len 128)).map (fun i => min 128 (len - 128 * i))

/-- Vectors of count rows of len elements. -/
def foldedRows (count len : Nat) : List Nat := ((List.range count).map (fun _ => rowLens len)).flatten

/-- Elements of each vector of the operand at position p; an empty list where the position holds no tensor. -/
def vecRows (op : Nat) (v : VWord) (len : Nat) (p : Nat) : List Nat :=
  match op, p with
  | 0x58, 1 => rowLens len
  | 0x58, 2 => [1]
  | 0x58, _ => foldedRows v.count len
  | 0x59, 0 => foldedRows v.count len
  | 0x59, 3 => List.replicate v.count (v.aux + 1)
  | _, _ => List.replicate v.count v.vlen

/-- Code ranges of an operand with given vectors. -/
def codeRanges (r : Rec) (rows : List Nat) : List (Nat × Nat) :=
  if r.bcast then [(r.base, ceilDiv (fmtBits r.format) 8)]
  else rows.zipIdx.map (fun p => (r.base + p.2 * r.pitch, rowBytes r.format p.1))

/-- The tensor-scale operand or scale record of a destination is used (R259, R279); the first flag tells a write region of
R279 (a drain, a copy or a VCVT). -/
def tsUsed (region : Bool) (s : State) (g1 : Bool) (f : Fmt) (tagged : Bool) (tag : BitVec 12) : Bool :=
  decide (f = .rs8) || (region && delayedActs s g1 f tagged tag)

/-- Ranges of a destination's side operands: the tensor-scale operand or scale record, and the smoothing table; j tells a
write region of R279, the only one that Justification acts on (R390). -/
def destSides (s : State) (g1 : Bool) (r : Rec) (j : Bool) (rows cols : Nat) : List (Nat × Nat) :=
  (if tsUsed j s g1 r.format r.tagged r.tag then [(r.tsaddr, 4)] else [])
    ++ (if j && decide (jChannels r.jctl rows cols ≠ 0) then [(r.jtab, jChannels r.jctl rows cols)] else [])

/-- Galley ranges of the side outputs of a drain (R407). -/
def sideRanges (d : DWord) (x : Side) : List (Nat × Nat) :=
  (if d.rowmax then (List.range d.m).map (fun i => (x.maxBase + i * x.maxPitch, 4)) else [])
    ++ (if d.rowsum then (List.range d.m).map (fun i => (x.sumBase + i * x.sumPitch, 64)) else [])
    ++ (if d.topk then (List.range d.m).map (fun i => (x.topBase + i * x.topPitch, 6 * d.k)) else [])

/-- Scale records that a drain reads (R408). -/
def descaleRanges (d : DWord) (x : Side) : List (Nat × Nat) :=
  (if d.dsA then [(x.scrA, 4)] else []) ++ (if d.dsB then [(x.scrB, 4)] else [])

/-! ### Galley ranges of an instruction -/

/-- Ranges that an accumulate reads (R404). -/
def paccReads (p : PWord) (a b : Rec) : List (Nat × Nat) :=
  if p.k = 0 then []
  else (if p.mode then a.plane.ranges p.m p.k else a.plane.ranges p.k p.m) ++ b.plane.ranges p.k p.n

/-- Ranges of a vector instruction's operand at position p (sources, masks, areas and destinations alike). -/
def vecRanges (op : Nat) (v : VWord) (recs : List Rec) (p : Nat) : List (Nat × Nat) :=
  let r := recs.getD p default
  let len := (recs.getD 0 default).len
  let mask := (List.range v.count).map (fun i => (r.base + i * r.pitch, 16))
  match op, p with
  | 0x48, 3 => mask
  | 0x49, 2 => mask
  | 0x56, _ => [(r.base, 32768)]
  | 0x57, _ => [(r.base, 32768)]
  | 0x58, 3 => codeRanges r (vecRows op v len p) ++ r.plane.scaleRanges v.count len
  | 0x58, _ => codeRanges r (vecRows op v len p)
  | 0x59, 2 => (List.range v.count).map (fun i => (r.base + i * r.pitch, 4 * (v.aux + 1)))
  | 0x59, _ => codeRanges r (vecRows op v len p)
  | 0x5A, 3 => r.plane.scaleRanges v.count v.vlen
  | 0x5B, 3 => (List.range v.count).map (fun i => (r.base + i * r.pitch, v.vlen))
  | 0x54, _ => r.plane.ranges 1 v.vlen
  | _, _ => r.plane.ranges v.count v.vlen

/-- Source positions of a vector opcode (R412). -/
def vecSrcs (op : Nat) (v : VWord) : List Nat :=
  match op with
  | 0x43 => [0, 1, 2]
  | 0x46 => [0] | 0x47 => [0] | 0x4A => [0]
  | 0x49 => [0, 1, 2]
  | 0x50 => [] | 0x55 => [] | 0x54 => [] | 0x56 => []
  | 0x51 => [0, 1]
  | 0x52 => [0] | 0x53 => [0] | 0x57 => [0]
  | 0x58 => if v.rb = 0 then [0, 2] else [0, 1, 2]
  | 0x59 => [0] | 0x5A => [0]
  | _ => [0, 1]

/-- Destination positions of a vector opcode (R412). -/
def vecDsts (op : Nat) : List Nat :=
  match op with
  | 0x50 => [] | 0x51 => [] | 0x52 => [] | 0x53 => [] | 0x55 => [] | 0x57 => []
  | 0x59 => [2, 3]
  | _ => [3]

/-- The RD of this opcode is written by a conversion, with its tensor scale and its scale record. -/
def vecConverts (op : Nat) : Bool :=
  decide ((0x40 ≤ op ∧ op ≤ 0x47) ∨ op = 0x49 ∨ op = 0x4A ∨ op = 0x54 ∨ op = 0x58)

/-- Side operands of RD of a vector instruction. -/
def vecSides (s : State) (g1 : Bool) (op : Nat) (v : VWord) (recs : List Rec) : List (Nat × Nat) :=
  let r := recs.getD 3 default
  if vecConverts op then destSides s g1 r (decide (op = 0x4A)) v.count v.vlen
  else if op = 0x5A ∧ r.format = .rs8 then [(r.tsaddr, 4)]
  else []

/-- Galley ranges that an instruction uses in any way (R398). -/
def galleyUse (s : State) (g1 : Bool) (w : BitVec 128) (raw : List (BitVec 256)) : List (Nat × Nat) :=
  let recs := raw.map recOf
  let rc (p : Nat) : Rec := recs.getD p default
  match wfield w 0 8 with
  | 0x20 => paccReads (pword w) (rc 0) (rc 1)
  | 0x30 =>
    let d := dword w
    let x := sideOf (raw.getD 2 0)
    (rc 0).plane.ranges d.m d.n ++ destSides s g1 (rc 0) true d.m d.n
      ++ (if d.dual then (rc 1).plane.ranges d.m d.n ++ destSides s g1 (rc 1) true d.m d.n else [])
      ++ sideRanges d x ++ descaleRanges d x
  | 0x31 => let t := tword w; [(t.gaddr, 8 * (t.last + 1 - t.first))]
  | 0x32 => let t := tword w; [(t.gaddr, 8 * (t.last + 1 - t.first))]
  | 0x60 =>
    let f := fword w
    (rc 0).plane.ranges f.count f.vlen ++ (rc 1).plane.ranges f.count f.vlen ++ destSides s g1 (rc 1) false f.count f.vlen
  | 0x72 => [((sword w).gaddr, 16)]
  | 0x74 => if (sword w).form then [((sword w).gaddr, 4)] else []
  | 0x76 => [((sword w).gaddr, 512)]
  | 0x77 => [((sword w).gaddr, 512)]
  | op =>
    if 0x40 ≤ op ∧ op ≤ 0x5B then
      let v := vword w
      ((vecSrcs op v ++ vecDsts op).map (vecRanges op v recs)).flatten ++ vecSides s g1 op v recs
    else []

/-! ### Destinations of an instruction, as ranges of the die's local map (R381) -/

/-- Galley ranges that an instruction writes. -/
def galleyWrites (s : State) (g1 : Bool) (w : BitVec 128) (raw : List (BitVec 256)) : List (Nat × Nat) :=
  let recs := raw.map recOf
  let rc (p : Nat) : Rec := recs.getD p default
  let ts (region : Bool) (r : Rec) : List (Nat × Nat) :=
    if tsUsed region s g1 r.format r.tagged r.tag then [(r.tsaddr, 4)] else []
  match wfield w 0 8 with
  | 0x30 =>
    let d := dword w
    (rc 0).plane.ranges d.m d.n ++ ts true (rc 0)
      ++ (if d.dual then (rc 1).plane.ranges d.m d.n ++ ts true (rc 1) else []) ++ sideRanges d (sideOf (raw.getD 2 0))
  | 0x31 => let t := tword w; [(t.gaddr, 8 * (t.last + 1 - t.first))]
  | 0x60 => let f := fword w; (rc 1).plane.ranges f.count f.vlen ++ ts false (rc 1)
  | 0x72 => [((sword w).gaddr, 16)]
  | 0x76 => [((sword w).gaddr, 512)]
  | op =>
    if 0x40 ≤ op ∧ op ≤ 0x5B then
      let v := vword w
      ((vecDsts op).map (vecRanges op v recs)).flatten
        ++ (if vecConverts op || (decide (op = 0x5A) && decide ((rc 3).format = .rs8)) then ts (decide (op = 0x4A)) (rc 3) else [])
    else []

/-- Kind of tile that a pair of activation and weight formats accumulates into, and whether it is a G1 pair (R137, R138). -/
def pairKind (act wt : Fmt) : Option (Nat × Bool) :=
  let p8 (f : Fmt) : Bool := match f with | .p8 => true | .bp8 => true | .rs8 => true | _ => false
  match wt with
  | .q2 => if p8 act then some (1, false) else none
  | .q1 => if p8 act then some (1, false) else none
  | .bp8 => if p8 act then some (1, false) else none
  | .rs8 => if p8 act then some (1, false) else none
  | .p8 => if p8 act then some (1, false) else if act = .p16 then some (2, false) else none
  | .i8 => if act = .i8 then some (1, false) else none
  | .p16 => if act = .p16 ∨ act = .p8 then some (2, false) else none
  | .f16 => if act = .f16 ∨ act = .bf16 then some (3, true) else none
  | .bf16 => if act = .f16 ∨ act = .bf16 then some (3, true) else none
  | .e4m3 => if act = .e4m3 ∨ act = .e5m2 then some (3, true) else none
  | .e5m2 => if act = .e4m3 ∨ act = .e5m2 then some (3, true) else none
  | _ => none

/-- A format that R137 lists as a weight. -/
def isWeight (f : Fmt) : Bool :=
  match f with
  | .p8 => true | .bp8 => true | .rs8 => true | .q2 => true | .q1 => true | .i8 => true | .p16 => true
  | .f16 => true | .bf16 => true | .e4m3 => true | .e5m2 => true | _ => false

/-- Local ranges that an instruction of Forme f writes on this die: Galley, tiles of an accumulate, destination of a copy. -/
def destRanges (s : State) (f : FormeIx) (e : QEntry) : List (Nat × Nat) :=
  let fm := s.forme f
  match e.op with
  | 0x20 =>
    let p := pword e.word
    let kind := ((pairKind (e.opRec 0).format (e.opRec 1).format).getD (1, false)).1
    let g := gridSlots kind p.tile p.m p.n
    [(quireAddr f (g.1 * 0x10000), g.2 * 0x10000)]
  | 0x10 =>
    let d := descOf e.desc
    (if gDie d.dst = s.span.dieId then d.dplane.ranges d.drows d.dcols else [])
      ++ (if tsUsed true s fm.fe.g1 d.dformat d.tagged d.tag && !d.bitCopy then [(galleyAddr f d.tsoff, 4)] else [])
  | _ => (galleyWrites s fm.fe.g1 e.word e.recs).map (fun r => (galleyAddr f r.1, r.2))

end Sys2Proof.Machine
end

