-- ==== Sys2Proof/Machine/FrontEnd.lean ====
section
/-! DEFINITION. The front end of a Forme: the checks of R401 with the field numbers of R400, dispatch (R350 to R362), grants
and time-outs of waits, and completion. -/

namespace Sys2Proof.Machine

/-! ### Pieces of the checks -/

/-- The lowest failing field of a list of checks in ascending field number (R401). -/
def firstField (l : List (Nat × Bool)) : Option Nat := (l.find? (·.2)).map (·.1)

/-- An illegal conversion control field (R96, R97). -/
def cvtBad (c : Nat) : Bool := decide (17 ≤ fieldN c 4 5) || decide (fieldN c 13 3 ≠ 0)

/-- An illegal JCTL for a rows × cols destination (R268, R269). -/
def jctlBad (j rows cols : Nat) : Bool :=
  let size := j % 8
  decide (6 ≤ size) || (decide (size ≠ 0) && decide ((if j.testBit 4 then rows else cols) % jGroup size ≠ 0))

/-- An illegal index where a record must be named. -/
def recBad (r : Nat) : Bool := decide (r < 2)

/-- Alignment unit of a tensor's start (R88, R89, R397). -/
def alignUnit (f : Fmt) : Nat := if isSubByte f then 8 else max 1 (fmtBits f / 8)

/-- Formats of quire operands and of the posit path of VRMS (R300, R810). -/
def quireOperand (f : Fmt) : Bool :=
  match f with
  | .p8 => true | .p16 => true | .p32 => true | .i8 => true | .i32 => true | _ => false

/-- Formats of the IEEE path of VRMS (R810). -/
def ieeePath (f : Fmt) : Bool :=
  match f with
  | .f16 => true | .bf16 => true | .f32 => true | _ => false

/-- Formats of the Fount unit (R313). -/
def fountFmt (f : Fmt) : Bool :=
  match f with
  | .p8 => true | .p16 => true | .p32 => true | .f16 => true | .bf16 => true | .f32 => true | _ => false

/-- A test of a format code; codes outside R50 fail it. -/
def fmtIs (c : Nat) (p : Fmt → Bool) : Bool := match fmtOfCode c with | some f => p f | none => false

/-- The pitch of an operand of several rows is below its longest row (R396); unknown formats are found by FMT. -/
def pitchBad (r : Rec) (rows : List Nat) : Bool :=
  match fmtOfCode r.fmt with
  | some f => !r.bcast && decide (1 < rows.length) && decide (r.pitch < (rows.map (rowBytes f)).foldl max 0)
  | none => false

/-- The scale-plane pitch of an operand of several rows is too small (R396). -/
def spitchBad (r : Rec) (rows cols : Nat) : Bool :=
  match fmtOfCode r.fmt with
  | some f => !r.bcast && decide (1 < rows) && (match f with | .bp8 => true | .q2 => true | .q1 => true | _ => false)
      && decide (r.spitch < scaleRowBytes f r.blk cols)
  | none => false

/-- What a position demands of its record. -/
structure RecNeed where
  pitch  : Bool
  fmt    : Bool
  bcast  : Bool
  spitch : Bool
  jctl   : Bool
  len    : Bool

/-- The field checks of the record at position p (R400). -/
def recFields (p : Nat) (r : Rec) (x : RecNeed) : List (Nat × Bool) :=
  let b := 0x80 + 0x10 * p
  [(b + 2, x.pitch), (b + 3, x.fmt), (b + 5, x.bcast), (b + 7, x.spitch), (b + 10, x.jctl), (b + 11, r.rsvd1),
   (b + 13, x.len), (b + 14, r.rsvd2)]

/-- Misaligned BASE, PITCH or RS8 scale plane of a tensor record (R397). -/
def recMisaligned (r : Rec) : Bool :=
  match fmtOfCode r.fmt with
  | some f => decide (r.base % alignUnit f ≠ 0) || (!r.bcast && decide (r.pitch % alignUnit f ≠ 0))
      || (decide (f = .rs8) && decide (r.sbase % 4 ≠ 0))
  | none => false

/-! ### Press accumulate (R403 to R405) -/

/-- Word fields of PACC; kind as the records give it, when they could be read and are legal. -/
def paccWord (w : BitVec 128) (kind : Option (Nat × Bool)) : List (Nat × Bool) :=
  let p := pword w
  [(16, p.mode && decide (kind.map (·.2) = some true)),
   (20, decide (wfield w 30 2 ≠ 0)),
   (21, match kind with
        | some k => decide (p.tile % kindRun k.1 ≠ 0) || decide (256 < p.tile + (gridSlots k.1 p.tile p.m p.n).2)
        | none => false),
   (24, decide (65536 < p.k)), (25, cvtBad p.cvt), (26, recBad p.ra), (27, recBad p.rb), (28, decide (wfield w 121 7 ≠ 0))]

/-- Kind of a PACC from the format fields of its records. -/
def paccKind (a b : Rec) : Option (Nat × Bool) :=
  match fmtOfCode a.fmt, fmtOfCode b.fmt with
  | some x, some y => pairKind x y
  | _, _ => none

/-- Record fields of PACC. -/
def paccRecs (w : BitVec 128) (a b : Rec) : List (Nat × Bool) :=
  let p := pword w
  let bad := decide (paccKind a b = none)
  let wOk := fmtIs b.fmt isWeight
  let ar := if p.mode then p.m else p.k
  let ac := if p.mode then p.k else p.m
  recFields 0 a ⟨pitchBad a (List.replicate ar ac), bad && wOk, a.bcast, spitchBad a ar ac, false, false⟩
    ++ recFields 1 b ⟨pitchBad b (List.replicate p.k p.n), bad && !wOk, b.bcast, spitchBad b p.k p.n, false, false⟩

/-! ### Drain and status words (R406 to R409, R417) -/

/-- A drain of a tile kind may be exported to a format (R111, R227, R228). -/
def exportLegal (kind : Nat) (f : Fmt) : Bool :=
  if f = .e8m0 then false
  else if kind = 3 then convLegal .f32 f
  else if kind = 2 then decide (f ≠ .qp8)
  else true

/-- Word fields of DRAIN. -/
def drainWord (w : BitVec 128) : List (Nat × Bool) :=
  let d := dword w
  let rs := d.side || d.descale
  [(16, decide (d.skind ≠ 0) && (decide (d.tile % kindRun d.skind ≠ 0)
        || decide (256 < d.tile + (gridSlots d.skind d.tile d.m d.n).2))),
   (19, decide (d.skind = 0)), (24, !d.topk && decide (d.k ≠ 1)),
   (26, d.descale && (decide (d.skind ≠ 3) || d.side)), (27, cvtBad d.cvt), (28, recBad d.rd),
   (29, if d.dual then recBad d.rx else decide (d.rx ≠ 0)), (30, if rs then recBad d.rs else decide (d.rs ≠ 0)),
   (31, decide (wfield w 122 6 ≠ 0))]

/-- Fields of a drain's destination record. -/
def drainDest (d : DWord) (p : Nat) (r : Rec) : List (Nat × Bool) :=
  recFields p r ⟨pitchBad r (List.replicate d.m d.n), !fmtIs r.fmt (exportLegal d.skind), r.bcast, spitchBad r d.m d.n,
    jctlBad r.jctl d.m d.n, false⟩

/-- Fields of the side record (R407). -/
def sideFields (d : DWord) (x : Side) : List (Nat × Bool) :=
  let many := decide (1 < d.m)
  [(0xA2, d.rowmax && many && decide (x.maxPitch < 4)), (0xA4, d.rowsum && many && decide (x.sumPitch < 64)),
   (0xA6, d.topk && many && decide (x.topPitch < 6 * d.k)), (0xA9, x.rsvd)]

/-- Record fields of DRAIN. -/
def drainRecs (w : BitVec 128) (a b : Rec) (x : Side) : List (Nat × Bool) :=
  let d := dword w
  drainDest d 0 a ++ (if d.dual then drainDest d 1 b else []) ++ (if d.side || d.descale then sideFields d x else [])

/-- Misaligned side record fields (R407), of the outputs in use. -/
def sideMisaligned (d : DWord) (x : Side) : Bool :=
  (d.rowmax && (decide (x.maxBase % 4 ≠ 0) || decide (x.maxPitch % 4 ≠ 0)))
    || (d.rowsum && (decide (x.sumBase % 64 ≠ 0) || decide (x.sumPitch % 64 ≠ 0)))
    || (d.topk && (decide (x.topBase % 4 ≠ 0) || decide (x.topPitch % 4 ≠ 0)))
    || (d.dsA && decide (x.scrA % 4 ≠ 0)) || (d.dsB && decide (x.scrB % 4 ≠ 0))

/-! ### Vector instructions (R411 to R416) -/

/-- What a record position of a vector operation is (R412). -/
inductive VRole where
  | unused | src | quireSrc | result | mask | area | rmsX | rmsG | rmsEps | topSrc | topPos | topVal
  | scaleSrc | scaleDst | maxima | factors
  deriving DecidableEq, Repr, Inhabited

/-- Roles of RA, RB, RC and RD (R412). -/
def vecRoles (op : Nat) : List VRole :=
  match op with
  | 0x43 => [.src, .src, .src, .result]
  | 0x46 => [.src, .unused, .unused, .result]
  | 0x47 => [.src, .unused, .unused, .result]
  | 0x48 => [.src, .src, .unused, .mask]
  | 0x49 => [.src, .src, .mask, .result]
  | 0x4A => [.src, .unused, .unused, .result]
  | 0x50 => [.unused, .unused, .unused, .unused]
  | 0x51 => [.quireSrc, .quireSrc, .unused, .unused]
  | 0x52 => [.quireSrc, .unused, .unused, .unused]
  | 0x53 => [.quireSrc, .unused, .unused, .unused]
  | 0x54 => [.unused, .unused, .unused, .result]
  | 0x55 => [.unused, .unused, .unused, .unused]
  | 0x56 => [.unused, .unused, .unused, .area]
  | 0x57 => [.area, .unused, .unused, .unused]
  | 0x58 => [.rmsX, .rmsG, .rmsEps, .result]
  | 0x59 => [.topSrc, .unused, .topPos, .topVal]
  | 0x5A => [.scaleSrc, .unused, .unused, .scaleDst]
  | 0x5B => [.maxima, .maxima, .unused, .factors]
  | _ => [.src, .src, .unused, .result]

/-- The vector operation ignores CVT, which must then be zero (R395). -/
def vecNoCvt (op : Nat) : Bool :=
  decide (op = 0x50 ∨ op = 0x51 ∨ op = 0x52 ∨ op = 0x53 ∨ op = 0x55 ∨ op = 0x56 ∨ op = 0x57)

/-- Legal values of AUX (R412, R416). -/
def vecAuxCount (op : Nat) : Nat :=
  if op = 0x48 then 3 else if op = 0x59 then 8 else if (0x50 ≤ op ∧ op ≤ 0x55) then 4 else 1

/-- A record index is illegal for its role. -/
def roleIndexBad (role : VRole) (r : Nat) : Bool :=
  match role with
  | .unused => decide (r ≠ 0)
  | .rmsG => decide (r = 1)
  | _ => recBad r

/-- Word fields of a vector instruction. -/
def vecWordFields (w : BitVec 128) : List (Nat × Bool) :=
  let op := wfield w 0 8
  let v := vword w
  let role (p : Nat) : VRole := (vecRoles op).getD p .unused
  [(16, decide (op = 0x56 ∨ op = 0x57 ∨ op = 0x58 ∨ op = 0x59) && decide (v.vlen ≠ 128)),
   (17, decide (op = 0x50 ∨ op = 0x54 ∨ op = 0x55 ∨ op = 0x56 ∨ op = 0x57) && decide (v.count ≠ 1)),
   (18, cvtBad v.cvt || (vecNoCvt op && decide (v.cvt ≠ 0))),
   (19, roleIndexBad (role 0) v.ra), (20, roleIndexBad (role 1) v.rb), (21, roleIndexBad (role 2) v.rc),
   (22, roleIndexBad (role 3) v.rd), (23, decide (vecAuxCount op ≤ v.aux)), (24, decide (wfield w 122 6 ≠ 0))]

/-- An illegal format in a vector record (R416). -/
def vecFmtBad (op : Nat) (role : VRole) (a r : Rec) : Bool :=
  match role with
  | .src => if op = 0x4A then !fmtIs r.fmt isStored else !fmtIs r.fmt isVectorArith
  | .quireSrc => !fmtIs r.fmt quireOperand
  | .result =>
    if op = 0x54 then !fmtIs r.fmt (convLegal .qp32)
    else if op = 0x58 then !fmtIs r.fmt (fun f => isStored f && !isQuire f)
    else if op = 0x4A then
      (match fmtOfCode a.fmt with | some f => !fmtIs r.fmt (convLegal f) | none => !fmtIs r.fmt isStored)
    else !fmtIs r.fmt isVectorArith
  | .rmsX => !fmtIs r.fmt (fun f => quireOperand f || ieeePath f)
  | .rmsG => !((fmtIs r.fmt quireOperand && fmtIs a.fmt quireOperand) || (fmtIs r.fmt ieeePath && fmtIs a.fmt ieeePath))
  | .rmsEps => !(if fmtIs a.fmt quireOperand then fmtIs r.fmt (· = .p32) else fmtIs r.fmt (· = .f32))
  | .topSrc => !fmtIs r.fmt (fun f => isStored f && !isScaled f && !isQuire f)
  | .topVal => decide (r.fmt ≠ a.fmt)
  | .scaleSrc => !fmtIs r.fmt isStored
  | .scaleDst => !fmtIs r.fmt (fun f => decide (f = .bp8) || decide (f = .rs8))
  | .maxima => !fmtIs r.fmt (fun f => decide (f = .p32) || decide (f = .f32))
  | .factors => !fmtIs r.fmt (· = .e8m0)
  | _ => false

/-- Field checks of the record at position p of a vector instruction. -/
def vecRecFields (op : Nat) (v : VWord) (recs : List Rec) (p : Nat) : List (Nat × Bool) :=
  let r := recs.getD p default
  let a := recs.getD 0 default
  let role := (vecRoles op).getD p .unused
  let many := decide (1 < v.count)
  let rows := vecRows op v a.len p
  let pitch := match role with
    | .mask => many && decide (r.pitch < 16)
    | .topPos => many && decide (r.pitch < 4 * (v.aux + 1))
    | .factors => many && decide (r.pitch < v.vlen)
    | .area => false
    | .scaleDst => false
    | .rmsEps => false
    | _ => if op = 0x54 then false else pitchBad r rows
  let bcast := match role with
    | .src => false
    | .quireSrc => false
    | .rmsEps => !r.bcast
    | _ => r.bcast
  let spitch := match role with
    | .src => op = 0x4A && spitchBad r v.count v.vlen
    | .scaleSrc => spitchBad r v.count v.vlen
    | .scaleDst => spitchBad r v.count v.vlen
    | .result => op ≠ 0x54 && spitchBad r v.count (if op = 0x58 then a.len else v.vlen)
    | _ => false
  let len := match role with
    | .rmsX => decide (r.len = 0) || decide (1048576 < r.len)
    | .topSrc => decide (r.len = 0) || decide (2 ^ 24 < r.len)
    | _ => false
  recFields p r ⟨pitch, vecFmtBad op role a r, bcast, spitch, op = 0x4A && p = 3 && jctlBad r.jctl v.count v.vlen, len⟩

/-- Positions of a vector instruction that name a record. -/
def vecNamed (op : Nat) (v : VWord) : List Nat :=
  (List.range 4).filter (fun p => decide ((vecRoles op).getD p .unused ≠ .unused)
    && decide ([v.ra, v.rb, v.rc, v.rd].getD p 0 ≠ 0))

/-- Misalignment in a vector record (R397, R416). -/
def vecMisaligned (s : State) (g1 : Bool) (op : Nat) (recs : List Rec) (p : Nat) : Bool :=
  let r := recs.getD p default
  match (vecRoles op).getD p .unused with
  | .mask => false
  | .topPos => false
  | .factors => false
  | .area => decide (r.base % 64 ≠ 0)
  | .scaleDst => decide (r.format = .rs8) && (decide (r.sbase % 4 ≠ 0) || decide (r.tsaddr % 4 ≠ 0))
  | .result => recMisaligned r || (tsUsed (decide (op = 0x4A)) s g1 r.format r.tagged r.tag && decide (r.tsaddr % 4 ≠ 0))
  | _ => recMisaligned r

/-! ### Fount and scalar instructions (R419 to R424) -/

/-- Word fields of FUNC. -/
def funcWord (w : BitVec 128) : List (Nat × Bool) :=
  let f := fword w
  [(16, decide (12 < f.fn)), (18, wbit w 31), (21, cvtBad f.cvt), (22, recBad f.ra), (23, recBad f.rd),
   (24, decide (wfield w 99 29 ≠ 0))]

/-- Record fields of FUNC. -/
def funcRecs (w : BitVec 128) (a d : Rec) : List (Nat × Bool) :=
  let f := fword w
  recFields 0 a ⟨pitchBad a (List.replicate f.count f.vlen), !fmtIs a.fmt fountFmt, false, false, false, false⟩
    ++ recFields 1 d ⟨pitchBad d (List.replicate f.count f.vlen), !fmtIs d.fmt fountFmt, d.bcast, false, false, false⟩

/-- Word fields of FTLOAD. -/
def ftloadWord (w : BitVec 128) : List (Nat × Bool) :=
  let l := lword w
  [(17, decide (l.kind = 0)), (18, decide (12 < l.func) || (decide (l.kind = 1) && decide (l.func ≠ 0))),
   (21, decide (wfield w 101 27 ≠ 0))]

/-- Header and word fields of the scalar format (R424). -/
def scalarWord (w : BitVec 128) : List (Nat × Bool) :=
  let op := wfield w 0 8
  let x := sword w
  [(3, decide (op = 0x71) && decide (wcnt w = 0)),
   (5, (decide (op = 0x70) && !sen w) || (decide (op = 0x71) && sen w)),
   (16, if op = 0x70 then decide (x.scnt = 0) else decide (x.scnt ≠ 0)),
   (17, decide (op ≠ 0x75 ∧ op ≠ 0x76 ∧ op ≠ 0x77) && decide (x.ctx.1 ≠ 0)),
   (18, !(decide (op = 0x72 ∨ op = 0x76 ∨ op = 0x77) || (decide (op = 0x74) && x.form)) && decide (x.gaddr ≠ 0)),
   (19, decide (op ≠ 0x74) && x.form), (20, decide (wfield w 57 7 ≠ 0)),
   (21, match op with
        | 0x72 => decide (2 ^ 32 ≤ x.val)
        | 0x73 => false
        | 0x74 => decide (2 ^ 12 ≤ x.val)
        | 0x75 => decide (2 ^ 32 ≤ x.val)
        | _ => decide (x.val ≠ 0))]

/-- Misaligned GADDR of a scalar instruction (R424). -/
def scalarMisaligned (w : BitVec 128) : Bool :=
  let x := sword w
  match wfield w 0 8 with
  | 0x72 => decide (x.gaddr % 16 ≠ 0)
  | 0x74 => x.form && decide (x.gaddr % 4 ≠ 0)
  | 0x76 => decide (x.gaddr % 64 ≠ 0)
  | 0x77 => decide (x.gaddr % 64 ≠ 0)
  | _ => false

/-! ### Carriage descriptors (R440, R448, R449) -/

/-- The destination lies in the remote window of its die. -/
def inWindow (a : Nat) : Bool := decide (0x8000000000 ≤ gLocal a) && decide (gLocal a < 0xC000000000)

/-- The tensor-scale operand or scale record of a copy is used. -/
def descTs (s : State) (g1 : Bool) (d : Desc) : Bool :=
  decide (d.dformat = .rs8) || (!d.bitCopy && delayedActs s g1 d.dformat d.tagged d.tag)

/-- Formats that TRANS refuses (R448). -/
def transBad (f : Fmt) : Bool := isSubByte f || isQuire f

/-- Formats with a scale plane whose rows step by a pitch. -/
def pitchedScale (f : Fmt) : Bool := match f with | .bp8 => true | .q2 => true | .q1 => true | _ => false

/-- Descriptor fields up to DFMT, which do not depend on the formats. -/
def descHead (d : Desc) : List (Nat × Bool) :=
  let sOk := fmtIs d.sfmt isStored
  [(0x82, !d.rsen && decide (d.rtok ≠ 0)), (0x83, d.rsen && inWindow d.dst),
   (0x84, decide (11 < d.rforme) || (!d.rsen && decide (d.rforme ≠ 0))), (0x85, d.rsvdA), (0x87, d.rsvdB),
   (0x88, decide (d.pat = 3) || (decide (d.pat = 2) && (fmtIs d.sfmt transBad || fmtIs d.dfmt transBad))
      || (decide (d.pat = 1) && fmtIs d.sfmt isSubByte)),
   (0x89, !sOk),
   (0x8A, !fmtIs d.dfmt isStored || (sOk && !fmtIs d.dfmt (fun f => decide (d.sfmt = d.dfmt) || convLegal d.sformat f)))]

/-- Descriptor fields after DFMT. -/
def descTail (s : State) (g1 : Bool) (d : Desc) : List (Nat × Bool) :=
  let sf := d.sformat
  let df := d.dformat
  let size := fmtBits sf / 8
  let bc := d.bitCopy
  [(0x8B, decide (sf ≠ .bp8) && decide (d.sblk ≠ 0)), (0x8C, decide (df ≠ .bp8) && decide (d.dblk ≠ 0)),
   (0x8F, decide (1 < d.r) && decide (d.spitch < d.splane.rowLen d.e)),
   (0x90, decide (1 < d.drows) && decide (d.dpitch < rowBytes df d.dcols)),
   (0x91, if d.pat = 1 then decide (d.sstride = 0) || decide (d.sstride % size ≠ 0) else decide (d.sstride ≠ 0)),
   (0x92, if bc then decide (d.cvt ≠ 0) else cvtBad d.cvt),
   (0x93, !isScaled sf && decide (d.sscale ≠ 0)), (0x94, !isScaled df && decide (d.dscale ≠ 0)), (0x95, d.rsvdC),
   (0x96, (!isScaled sf && decide (d.sspitch ≠ 0))
      || (pitchedScale sf && decide (1 < d.r) && decide (d.sspitch < scaleRowBytes sf d.sblk d.e))),
   (0x97, (!isScaled df && decide (d.dspitch ≠ 0))
      || (pitchedScale df && decide (1 < d.drows) && decide (d.dspitch < scaleRowBytes df d.dblk d.dcols))),
   (0x98, !descTs s g1 d && decide (d.tsoff ≠ 0)), (0x99, bc && decide (d.tagRaw ≠ 0)),
   (0x9A, jctlBad d.jctl d.drows d.dcols || (decide (d.pat = 1) && decide (d.jctl ≠ 0))),
   (0x9B, !d.jctl.testBit 5 && decide (d.jtab ≠ 0)), (0x9C, d.rsvdD)]

/-- Misaligned descriptor addresses (R449). -/
def descMisaligned (d : Desc) : Bool :=
  let sf := d.sformat
  let df := d.dformat
  decide (d.src % alignUnit sf ≠ 0) || decide (d.dst % alignUnit df ≠ 0)
    || (isSubByte sf && decide (d.spitch % 8 ≠ 0)) || (isSubByte df && decide (d.dpitch % 8 ≠ 0))
    || (decide (sf = .rs8) && decide (d.sscale % 4 ≠ 0)) || (decide (df = .rs8) && decide (d.dscale % 4 ≠ 0))
    || decide (d.tsoff % 4 ≠ 0) || decide (d.jtab % 4 ≠ 0)

/-- Galley ranges of the issuing Forme that a converting copy uses. -/
def descGalley (s : State) (g1 : Bool) (d : Desc) : List (Nat × Nat) :=
  if d.bitCopy then []
  else (if descTs s g1 d then [(d.tsoff, 4)] else [])
    ++ (if jChannels d.jctl d.drows d.dcols = 0 then [] else [(d.jtab, jChannels d.jctl d.drows d.dcols)])

/-- The copy names a local address that a Carriage may not access (R438). -/
def descUnmapped (s : State) (d : Desc) : Bool :=
  let bad (rs : List (Nat × Nat)) : Bool := rs.any (fun r => (rangeErr s r.1 r.2).isSome)
  (decide (gDie d.src = s.span.dieId) && bad (d.splane.ranges d.r d.e))
    || (decide (gDie d.dst = s.span.dieId) && bad (d.dplane.ranges d.drows d.dcols))

/-! ### The checks of one instruction (R401) -/

/-- What the front end has read for one instruction. -/
structure Fetched where
  word : BitVec 128
  /-- every record and descriptor that it names lies in die-local GDDR7 -/
  resident : Bool
  recs : List (BitVec 256)
  desc : BitVec 512

/-- Header fields that every format shares. -/
def headerFields (w : BitVec 128) : List (Nat × Bool) := [(6, decide (wfield w 21 3 ≠ 0))]

/-- Word fields of any instruction. -/
def wordFields (x : Fetched) : List (Nat × Bool) :=
  let w := x.word
  let rc (p : Nat) : Rec := recOf (x.recs.getD p 0)
  match wfield w 0 8 with
  | 0x10 => headerFields w ++ [(16, decide (wfield w 24 16 = 0)), (17, decide (wfield w 40 88 ≠ 0))]
  | 0x20 => headerFields w ++ paccWord w (if x.resident then paccKind (rc 0) (rc 1) else none)
  | 0x30 => headerFields w ++ drainWord w
  | 0x31 => headerFields w ++ [(17, decide ((tword w).last < (tword w).first)), (19, decide (wfield w 64 64 ≠ 0))]
  | 0x32 => headerFields w ++ [(17, decide ((tword w).last < (tword w).first)), (19, decide (wfield w 64 64 ≠ 0))]
  | 0x60 => headerFields w ++ funcWord w
  | 0x61 => headerFields w ++ ftloadWord w
  | op =>
    if 0x70 ≤ op then
      let l := scalarWord w
      l.take 2 ++ headerFields w ++ l.drop 2
    else headerFields w ++ vecWordFields w

/-- Fields of the named records or of the descriptor. -/
def recordFields (s : State) (g1 : Bool) (x : Fetched) : List (Nat × Bool) :=
  let w := x.word
  let rc (p : Nat) : Rec := recOf (x.recs.getD p 0)
  match wfield w 0 8 with
  | 0x10 =>
    let d := descOf x.desc
    descHead d ++ (if fmtIs d.sfmt isStored && fmtIs d.dfmt isStored then descTail s g1 d else [])
  | 0x20 => paccRecs w (rc 0) (rc 1)
  | 0x30 => drainRecs w (rc 0) (rc 1) (sideOf (x.recs.getD 2 0))
  | 0x60 => funcRecs w (rc 0) (rc 1)
  | op =>
    if 0x40 ≤ op ∧ op ≤ 0x5B then
      ((vecNamed op (vword w)).map (vecRecFields op (vword w) (x.recs.map recOf))).flatten
    else []

/-- A breach of alignment (R88, R89, R335, R397, R407, R417, R424, R449). -/
def misaligned (s : State) (g1 : Bool) (x : Fetched) : Bool :=
  let w := x.word
  let rc (p : Nat) : Rec := recOf (x.recs.getD p 0)
  let ts (r : Rec) : Bool := tsUsed true s g1 r.format r.tagged r.tag && decide (r.tsaddr % 4 ≠ 0)
  match wfield w 0 8 with
  | 0x10 => descMisaligned (descOf x.desc)
  | 0x20 => recMisaligned (rc 0) || recMisaligned (rc 1)
  | 0x30 =>
    let d := dword w
    recMisaligned (rc 0) || ts (rc 0) || (d.dual && (recMisaligned (rc 1) || ts (rc 1)))
      || sideMisaligned d (sideOf (x.recs.getD 2 0))
  | 0x31 => decide ((tword w).gaddr % 8 ≠ 0)
  | 0x32 => decide ((tword w).gaddr % 8 ≠ 0)
  | 0x60 => recMisaligned (rc 0) || recMisaligned (rc 1)
  | 0x61 => decide ((lword w).src % 128 ≠ 0)
  | op =>
    if 0x70 ≤ op then scalarMisaligned w
    else (vecNamed op (vword w)).any (vecMisaligned s g1 op (x.recs.map recOf))

/-- A Galley region past the limit, or a local Carriage address that is not mapped (R398, R431, R438). -/
def outOfReach (s : State) (f : FormeIx) (g1 : Bool) (x : Fetched) : Bool :=
  let lim := galleyBytes (s.forme f)
  let past (rs : List (Nat × Nat)) : Bool := rs.any (fun r => decide (lim < r.1 + r.2))
  if wfield x.word 0 8 = 0x10 then
    let d := descOf x.desc
    past (descGalley s g1 d) || descUnmapped s d
  else past (galleyUse s g1 x.word x.recs)

/-- The dispatch-time balance after an instruction, or the error it meets (R360 to R362). -/
def balanceAfter (fm : Forme) (w : BitVec 128) : Vector (BitVec 16) 16 ⊕ PErr :=
  let wt := wtok w
  let st := stok w
  let n := wcnt w
  let waits := decide (n ≠ 0) && !isExt fm wt
  if waits && decide ((fm.bal[wt.toFin]).toNat < n) then .inr .tokenOrder
  else
    let b1 := if waits then vmod fm.bal wt.toFin (· - BitVec.ofNat 16 n) else fm.bal
    let k := sigCount w
    let signals := decide (k ≠ 0) && !isExt fm st
    if signals && decide (65535 < (b1[st.toFin]).toNat + k) then .inr .tokenOvf
    else .inl (if signals then vmod b1 st.toFin (· + BitVec.ofNat 16 k) else b1)

/-- The first check of R401 that an instruction fails, with its field number. -/
def checkFails (s : State) (f : FormeIx) (x : Fetched) : Option (PErr × Nat) :=
  let fm := s.forme f
  let g1 := fm.fe.g1
  if !opcodeListed (wfield x.word 0 8) then some (.opcode, 0)
  else
    match firstField (wordFields x) with
    | some n => some (.field, n)
    | none =>
      match (if x.resident then firstField (recordFields s g1 x) else none) with
      | some n => some (.field, n)
      | none =>
        if x.resident && misaligned s g1 x then some (.align, 0)
        else if !x.resident || outOfReach s f g1 x then some (.address, 0)
        else
          match balanceAfter fm x.word with
          | .inr e => some (e, 0)
          | .inl _ => none

/-! ### Fetching (R349, R383, R393) -/

/-- Addresses of the next instruction word. -/
def nextWordAddr (fm : Forme) : Nat := fm.fe.folio + fm.fe.offset + 16 * fm.fe.next

/-- Addresses and lengths of what an instruction word names. -/
def namedAddrs (fm : Forme) (w : BitVec 128) : List (Nat × Nat) :=
  if wfield w 0 8 = 0x10 then [(fm.fe.folio + 64 * wfield w 24 16, 64)]
  else ((namedRecs w).filter (fun r => decide (2 ≤ r))).map (fun r => (fm.fe.folio + 32 * r, 32))

/-- The next instruction with its records and descriptor. -/
def fetchNext (s : State) (f : FormeIx) : Fetched :=
  let fm := s.forme f
  let w := BitVec.ofNat 128 (leNat (gddrBytesAt s.gddr (nextWordAddr fm) 16))
  let res := (namedAddrs fm w).all (fun r => gddrRange s.gddr r.1 r.2)
  ⟨w, res,
   (namedRecs w).map (fun r => if res && decide (2 ≤ r) then
     BitVec.ofNat 256 (leNat (gddrBytesAt s.gddr (fm.fe.folio + 32 * r) 32)) else 0),
   if res && decide (wfield w 0 8 = 0x10) then
     BitVec.ofNat 512 (leNat (gddrBytesAt s.gddr (fm.fe.folio + 64 * wfield w 24 16) 64)) else 0⟩

/-- A granule that a fetch cannot read (R697). -/
def fetchLost (s : State) (f : FormeIx) : Option Nat :=
  let fm := s.forme f
  match gddrLost s.gddr (nextWordAddr fm) 16 with
  | some a => some a
  | none =>
    let w := BitVec.ofNat 128 (leNat (gddrBytesAt s.gddr (nextWordAddr fm) 16))
    if opcodeListed (wfield w 0 8) then
      ((namedAddrs fm w).filter (fun r => gddrRange s.gddr r.1 r.2)).findSome? (fun r => gddrLost s.gddr r.1 r.2)
    else none

/-- CLASS of a tag, as the tag table holds it (R489). -/
def classOfTag (s : State) (tagged : Bool) (tag : BitVec 12) : BitVec 4 :=
  if tagged then (tget tagDefault s.tbl.tags tag.toNat).cls else 0

/-- Classes read at dispatch. -/
def entryClasses (s : State) (x : Fetched) : List (BitVec 4) :=
  if wfield x.word 0 8 = 0x10 then let d := descOf x.desc; [classOfTag s d.tagged d.tag]
  else x.recs.map (fun r => let y := recOf r; classOfTag s y.tagged y.tag)

/-- The queue entry of a fetched instruction. -/
def entryOf (s : State) (f : FormeIx) (x : Fetched) : QEntry :=
  ⟨BitVec.ofNat 24 (s.forme f).fe.next, x.word, x.recs, x.desc, entryClasses s x, decide (wcnt x.word = 0), s.tb.ns⟩

/-- Puts an instruction at the tail of its queue (R350, R360). -/
def pushEntry (s : State) (f : FormeIx) (e : QEntry) (bal : Vector (BitVec 16) 16) : State :=
  modForme s f (fun fm =>
    let q := queueOf e.op
    { fm with
      bal := bal
      fe := { fm.fe with next := fm.fe.next + 1, stall := 0 }
      q := fm.q.put q (fm.q.get q ++ [e])
      dests := fm.dests ++ destRanges s f e })

/-! ### INSTRUCTION_DISPATCH (R349 to R351) -/

/-- The front end dispatches: the Forme runs and instructions remain. -/
def dispatchReady (s : State) (f : FormeIx) : Bool :=
  let fm := s.forme f
  unitsOn s && decide (fm.fe.state = .run) && decide (fm.fe.next < fm.fe.length)

/-- Index of the next instruction. -/
def nextIndex (s : State) (f : FormeIx) : BitVec 24 := BitVec.ofNat 24 (s.forme f).fe.next

/-- What dispatching the next instruction does. -/
def dispatchNext (s : State) (f : FormeIx) : State :=
  let fm := s.forme f
  if !gddrRange s.gddr (nextWordAddr fm) 16 then progError s f .address 0 0 (nextIndex s f)
  else
    match fetchLost s f with
    | some a => progError (gddrError s (some f) .folioAborted a) f .fetch 0 0 (nextIndex s f)
    | none =>
      let x := fetchNext s f
      match checkFails s f x with
      | some (e, n) => progError s f e 0 n (nextIndex s f)
      | none =>
        let q := queueOf (wfield x.word 0 8)
        if (fm.q.get q).length < queueDepth q then
          match balanceAfter fm x.word with
          | .inl b => pushEntry s f (entryOf s f x) b
          | .inr _ => s
        else modForme s f (fun fm => { fm with fe := { fm.fe with stall := queueCode q } })

/-- INSTRUCTION_DISPATCH. -/
def execInstructionDispatch (f : FormeIx) (s : State) : Outc := onlyIf (dispatchReady s f) s (dispatchNext s f)

/-! ### WAIT_GRANT, WAIT_TIMEOUT (R356, R357, R365) -/

/-- Every instruction that the queues of a Forme hold. -/
def queued (fm : Forme) : List QEntry := (allQueues.map fm.q.get).flatten

/-- The head of a queue holds a wait that is not granted. -/
def ungrantedHead (fm : Forme) (q : Queue) : Option QEntry :=
  match (fm.q.get q).head? with
  | some e => if e.granted then none else some e
  | none => none

/-- The wait of an entry is the oldest ungranted wait on its token and the value suffices (R356). -/
def grantable (fm : Forme) (e : QEntry) : Bool :=
  (queued fm).all (fun x => x.granted || decide (wtok x.word ≠ wtok e.word) || decide (e.index.toNat ≤ x.index.toNat))
    && decide (wcnt e.word ≤ (fm.tok[(wtok e.word).toFin]).toNat)

/-- WAIT_GRANT happens. -/
def waitGrantReady (s : State) (f : FormeIx) (q : Queue) : Bool :=
  unitsOn s && (match ungrantedHead (s.forme f) q with | some e => grantable (s.forme f) e | none => false)

/-- Marks the head of a queue as granted. -/
def grantHead (l : List QEntry) : List QEntry :=
  match l with
  | [] => []
  | e :: es => { e with granted := true } :: es

/-- The grant subtracts its count. -/
def waitGrantEffect (s : State) (f : FormeIx) (q : Queue) : State :=
  match ungrantedHead (s.forme f) q with
  | none => s
  | some e => modForme s f (fun fm =>
    { fm with tok := vmod fm.tok (wtok e.word).toFin (· - BitVec.ofNat 32 (wcnt e.word)), q := fm.q.put q (grantHead (fm.q.get q)) })

/-- WAIT_GRANT. -/
def execWaitGrant (f : FormeIx) (q : Queue) (s : State) : Outc := onlyIf (waitGrantReady s f q) s (waitGrantEffect s f q)

/-- WAIT_TIMEOUT happens. -/
def waitTimeoutReady (s : State) (f : FormeIx) (q : Queue) : Bool :=
  let fm := s.forme f
  unitsOn s && decide (fm.lat.waitTimeout ≠ 0)
    && (match ungrantedHead fm q with | some e => elapsed s e.since (fm.lat.waitTimeout.toNat * 1000) | none => false)

/-- The wait becomes a program error. -/
def waitTimeoutEffect (s : State) (f : FormeIx) (q : Queue) : State :=
  match ungrantedHead (s.forme f) q with
  | none => s
  | some e => progError s f .waitTimeout (queueCode q) 0 e.index

/-- WAIT_TIMEOUT. -/
def execWaitTimeout (f : FormeIx) (q : Queue) (s : State) : Outc :=
  onlyIf (waitTimeoutReady s f q) s (waitTimeoutEffect s f q)

/-! ### INSTRUCTION_COMPLETE (R352, R358) -/

/-- The flight of an instruction. -/
def flightOf (fm : Forme) (index : BitVec 24) : Option Flight := fm.q.flights.find? (fun x => decide (x.index = index))

/-- The instruction has reached its completion point. -/
def completeReady (s : State) (f : FormeIx) (index : BitVec 24) : Bool :=
  unitsOn s && (match flightOf (s.forme f) index with | some x => x.done | none => false)

/-- The instruction retires and makes its signal. -/
def completeEffect (s : State) (f : FormeIx) (index : BitVec 24) : State :=
  match flightOf (s.forme f) index with
  | none => s
  | some x => modForme s f (fun fm =>
    addToken { fm with q := { fm.q with flights := eraseFirst (fun y => decide (y.index = index)) fm.q.flights } }
      (stok x.word) (sigCount x.word))

/-- INSTRUCTION_COMPLETE. -/
def execInstructionComplete (f : FormeIx) (index : BitVec 24) (s : State) : Outc :=
  onlyIf (completeReady s f index) s (completeEffect s f index)

end Sys2Proof.Machine
end

