-- ==== Sys2Proof/Machine/Scalar.lean ====
section
/-! DEFINITION. How an instruction leaves the head of its queue and takes effect, and the instructions of SQ (R423 to R426,
R119, R126, R127, R284, R285). -/

namespace Sys2Proof.Machine

/-! ### Issue of an instruction -/

/-- The head of a queue of Forme f is granted and has the opcode. -/
def headIs (s : State) (f : FormeIx) (q : Queue) (op : Nat) : Bool :=
  unitsOn s && (grantedHead (s.forme f) q op).isSome

/-- The granted head of a queue. -/
def headOf (s : State) (f : FormeIx) (q : Queue) : QEntry := ((s.forme f).q.get q).headD default

/-- The head leaves its queue, claiming what it draws from or references. -/
def issueHead (s : State) (f : FormeIx) (q : Queue) (done : Bool) (ctx : Option (Fin 16)) (slot : Option (Fin 8)) : State :=
  let e := headOf s f q
  modForme s f (fun fm => issue fm q s.tb.ns ⟨e.index, q, e.word, done, ctx, slot⟩)

/-- A context that an instruction names is claimed by another operation (R130). -/
def claimedBy (fm : Forme) (ctx : Option (Fin 16)) : Bool :=
  match ctx with
  | some c => ctxClaimed fm c
  | none => false

/-- The head of a queue takes effect at once: a claimed context is a program error (R130), a failing byte of the ranges it
reads starts the abort of R689, and otherwise the effect happens. -/
def runHead (s : State) (f : FormeIx) (q : Queue) (names claims : Option (Fin 16)) (bad : Option ReadErr)
    (eff : State → State) : State :=
  if claimedBy (s.forme f) names then progError s f .srctxBusy (queueCode q) 0 (headOf s f q).index
  else
    let s1 := issueHead s f q true claims none
    match bad with
    | some e => storedError s1 f e
    | none => eff s1

/-! ### TSIG, TWAIT, TTIME (R355, R385, R425) -/

/-- TSIG: the signal is made at completion. -/
def execTsig (f : FormeIx) (s : State) : Outc := onlyIf (headIs s f .sq 0x70) s (runHead s f .sq none none none id)

/-- TWAIT: it only waits. -/
def execTwait (f : FormeIx) (s : State) : Outc := onlyIf (headIs s f .sq 0x71) s (runHead s f .sq none none none id)

/-- The timebase has reached VAL of the TTIME at the head of SQ (R425). -/
def ttimeDue (s : State) (f : FormeIx) : Bool := decide ((sword (headOf s f .sq).word).val ≤ s.tb.ns.toNat)

/-- TTIME. -/
def execTtime (f : FormeIx) (s : State) : Outc :=
  onlyIf (headIs s f .sq 0x73 && ttimeDue s f) s (runHead s f .sq none none none id)

/-! ### TMARK (R426) -/

/-- The 16 bytes of a mark. -/
def markBytes (s : State) (f : FormeIx) (mark : Nat) : List Byte :=
  leBytes 8 s.tb.ns.toNat ++ leBytes 4 mark ++ leBytes 4 (s.forme f).fe.folioId.toNat

/-- TMARK writes its record. -/
def tmarkEffect (f : FormeIx) (w : SWord) (s : State) : State :=
  modForme s f (fun fm => galleyPutAll fm (placed w.gaddr (markBytes s f w.val)))

/-- TMARK. -/
def execTmark (f : FormeIx) (s : State) : Outc :=
  onlyIf (headIs s f .sq 0x72) s
    (runHead s f .sq none none none (tmarkEffect f (sword (headOf s f .sq).word)))

/-! ### SCALEPUSH (R284 to R286) -/

/-- R285: h made finite and non-negative, and whether it was replaced for being NaN or infinite. -/
def pushOperand (h : Nat) : Nat × Bool :=
  let m := h % 2 ^ 31
  if 0x7F800000 ≤ m then (0x7F7FFFFF, true) else (m, false)

/-- The maxima that an entry holds valid: the COUNT latest (R276). -/
def validMaxima (e : HistEntry) : List (BitVec 32) :=
  (List.range (min 16 e.count.toNat)).map (fun i =>
    e.amax[(⟨(e.head.toNat + 15 - i) % 16, Nat.mod_lt _ (by decide)⟩ : Fin 16)])

/-- A maximum that is negative or not finite, which R277 gives no exponent. -/
def oddMaximum (m : BitVec 32) : Bool := decide (0x7F800000 ≤ m.toNat)

/-- The largest of some maxima. -/
def largestMaximum (l : List (BitVec 32)) : Frac :=
  l.foldl (fun acc m => if acc.lt (f32Val m.toNat) then f32Val m.toNat else acc) ⟨0, 1⟩

/-- R284: a push of h. -/
def pushHist (e : HistEntry) (h margin : Nat) (stale : Bool) (free : BitVec 8) : HistEntry :=
  let e1 := { e with
    amax := vset e.amax e.head.toFin (BitVec.ofNat 32 h)
    head := e.head + 1
    count := if e.count.toNat < 16 then e.count + 1 else 16
    pending := 0 }
  let v := validMaxima e1
  let x := if (scaleMax e.fmt.toNat).isSome && v.any oddMaximum then free
    else BitVec.ofNat 8 (ofSigned 8 (scaleExp e.fmt.toNat margin (largestMaximum v)))
  { e1 with scale := x, flat := e.flat || decide (h = 0), stale := e.stale || stale }

/-- SCALEPUSH. -/
def scalepushEffect (f : FormeIx) (w : SWord) (s : State) : State :=
  let fm := s.forme f
  let g := w.val % 4096
  let e := histEntry s g
  let h := if w.form then pushOperand (readLe (galleyRd fm) w.gaddr 4) else (e.pending.toNat, false)
  let s1 := setHist (useFree s 1) g (pushHist e h.1 fm.lat.g1Margin.toNat h.2 ((Config.freeWord s.free).setWidth 8))
  if h.2 then raiseAlarm s1 (BitVec.ofNat 12 g) 6 else s1

/-- The operand that a GIVEN push reads. -/
def scalepushBad (s : State) (f : FormeIx) : Option ReadErr :=
  let w := sword (headOf s f .sq).word
  if w.form then galleyBad (s.forme f) f [(w.gaddr, 4)] else none

/-- SCALEPUSH. -/
def execScalepush (f : FormeIx) (s : State) : Outc :=
  onlyIf (headIs s f .sq 0x74) s
    (runHead s f .sq none none (scalepushBad s f) (scalepushEffect f (sword (headOf s f .sq).word)))

/-! ### SRSEED, SRSAVE, SRLOAD (R119, R126, R127) -/

/-- Sets the 128 lanes of a context. -/
def setLanes (sr : Table (BitVec 32)) (c : Fin 16) (g : Nat → BitVec 32) : Table (BitVec 32) :=
  (List.range 128).foldl (fun t l => tset srDefault t (c.1 * 128 + l) (g l)) sr

/-- The context that a scalar instruction names. -/
def scalarCtx (s : State) (f : FormeIx) : Option (Fin 16) := some (sword (headOf s f .sq).word).ctx

/-- SRSEED. -/
def srseedEffect (f : FormeIx) (w : SWord) (s : State) : State :=
  modForme s f (fun fm => { fm with vu := { fm.vu with sr := setLanes fm.vu.sr w.ctx (srSeed (BitVec.ofNat 32 w.val)) } })

/-- SRSEED. -/
def execSrseed (f : FormeIx) (s : State) : Outc :=
  onlyIf (headIs s f .sq 0x75) s
    (runHead s f .sq (scalarCtx s f) none none (srseedEffect f (sword (headOf s f .sq).word)))

/-- The 512 bytes of a context (R126). -/
def ctxBytes (fm : Forme) (c : Fin 16) : List Byte :=
  ((List.range 128).map (fun l => leBytes 4 (tget srDefault fm.vu.sr (c.1 * 128 + l)).toNat)).flatten

/-- SRSAVE. -/
def srsaveEffect (f : FormeIx) (w : SWord) (s : State) : State :=
  modForme s f (fun fm => galleyPutAll fm (placed w.gaddr (ctxBytes fm w.ctx)))

/-- SRSAVE. -/
def execSrsave (f : FormeIx) (s : State) : Outc :=
  onlyIf (headIs s f .sq 0x76) s
    (runHead s f .sq (scalarCtx s f) none none (srsaveEffect f (sword (headOf s f .sq).word)))

/-- Lane l of a context area (R126). -/
def savedLane (fm : Forme) (a l : Nat) : BitVec 32 := BitVec.ofNat 32 (readLe (galleyRd fm) (a + 4 * l) 4)

/-- SRLOAD: a zero state becomes 1 and sets SRZERO (R127). -/
def srloadEffect (f : FormeIx) (w : SWord) (s : State) : State :=
  modForme s f (fun fm =>
    let lane (l : Nat) : BitVec 32 := savedLane fm w.gaddr l
    let zero := (List.range 128).any (fun l => decide (lane l = 0))
    { fm with vu := { fm.vu with
        sr := setLanes fm.vu.sr w.ctx (fun l => if lane l = 0 then 1 else lane l)
        cvt := { fm.vu.cvt with srzero := fm.vu.cvt.srzero || zero } } })

/-- SRLOAD. -/
def execSrload (f : FormeIx) (s : State) : Outc :=
  onlyIf (headIs s f .sq 0x77) s
    (runHead s f .sq (scalarCtx s f) none
      (galleyBad (s.forme f) f [((sword (headOf s f .sq).word).gaddr, 512)])
      (srloadEffect f (sword (headOf s f .sq).word)))

end Sys2Proof.Machine
end

