-- ==== Sys2Proof/Machine/Vector.lean ====
section
/-! DEFINITION. The vector instructions of VQ (R292 to R309, R411 to R416, R810). Drains and status words are in Drain. -/

namespace Sys2Proof.Machine

/-! ### Shared steps -/

/-- No VQ instruction is in progress (R294). -/
def vqIdle (fm : Forme) : Bool := fm.q.flights.all (fun x => decide (x.queue ≠ .vq))

/-- A vector instruction at the head of VQ may run. -/
def vecReady (s : State) (f : FormeIx) (op : Nat) : Bool := headIs s f .vq op && vqIdle (s.forme f)

/-- Fields of the vector instruction at the head of VQ. -/
def headVec (s : State) (f : FormeIx) : VWord := vword (headOf s f .vq).word

/-- The record of a position of the instruction at the head of VQ. -/
def headRec (s : State) (f : FormeIx) (p : Nat) : Rec := (headOf s f .vq).opRec p

/-- The destination record RD of the instruction at the head of VQ. -/
def headDst (s : State) (f : FormeIx) : Dst := (headRec s f 3).dst ((headOf s f .vq).clsAt 3)

/-- Control field of the instruction at the head of VQ. -/
def headCtl (s : State) (f : FormeIx) : Ctl := ctlOf (headVec s f).cvt

/-- Galley ranges of the operands at some positions. -/
def headRanges (s : State) (f : FormeIx) (ps : List Nat) : List (Nat × Nat) :=
  let e := headOf s f .vq
  (ps.map (vecRanges e.op (vword e.word) (e.recs.map recOf))).flatten

/-- The decode of some operand flushed a subnormal (R106). -/
def setFlush (s : State) (f : FormeIx) (b : Bool) : State := if b then modForme s f (fun fm => setCvt fm ⟨false, false, true⟩) else s

/-- Writes Galley bytes of a Forme. -/
def galleyWrite (s : State) (f : FormeIx) (bs : List (Nat × Byte)) : State := modForme s f (fun fm => galleyPutAll fm bs)

/-- Writes what a conversion hands back into the Galley of the Forme. -/
def storeOut (f : FormeIx) (o : ConvOut) : State := o.bytes.foldl (fun s bs => galleyWrite s f bs) o.st

/-- A count × vlen grid. -/
def grid {α : Type} (count vlen : Nat) (g : Nat → Nat → α) : List (List α) :=
  (List.range count).map (fun r => (List.range vlen).map (fun e => g r e))

/-! ### Element-wise operations (R295 to R298) -/

/-- The decoded sources of element (r, e) at some positions. -/
def sourceVals (s : State) (f : FormeIx) (ps : List Nat) (r e : Nat) : List (Val × Bool) :=
  let fm := s.forme f
  ps.map (fun p => ((headRec s f p).plane.elem (galleyRd fm) r e).val (headCtl s f).subn)

/-- The result grid of an element-wise operation: the exact result of each element, and whether a decode flushed. -/
def elementGrid (s : State) (f : FormeIx) (ps : List Nat) (g : List Val → Val) : List (List (Val × Bool)) :=
  let v := headVec s f
  grid v.count v.vlen (fun r e => let xs := sourceVals s f ps r e; (g (xs.map (·.1)), xs.any (·.2)))

/-- Converts a grid of exact results into the destination record of the instruction (taken from the state before issue). -/
def convertGrid (s : State) (f : FormeIx) (c : Ctl) (delayed : Bool) (d : Dst) (m : List (List (Val × Bool))) : State :=
  let s1 := setFlush s f (m.any (fun r => r.any (·.2)))
  storeOut f (convertRegion s1 f c ⟨delayed, true⟩ [d] (m.map (fun r => r.map (·.1))))

/-- Runs an instruction of VQ whose results are one converted grid. -/
def runGrid (s : State) (f : FormeIx) (reads : List (Nat × Nat)) (delayed : Bool) (d : Dst)
    (m : List (List (Val × Bool))) : State :=
  let fm := s.forme f
  let c := headCtl s f
  let ctx := convCtx fm c [d]
  let sides := dstReads d (headVec s f).count (headVec s f).vlen
  runHead s f .vq ctx ctx (galleyBad fm f (reads ++ sides)) (fun s1 => convertGrid s1 f c delayed d m)

/-- The exact result of a list of operands by a two-operand function. -/
def two (g : Val → Val → Val) (xs : List Val) : Val := g (xs.getD 0 .nan) (xs.getD 1 .nan)

/-- The exact result by a one-operand function. -/
def one (g : Val → Val) (xs : List Val) : Val := g (xs.getD 0 .nan)

/-- An element-wise operation over some source positions. -/
def elementwise (s : State) (f : FormeIx) (ps : List Nat) (g : List Val → Val) : State :=
  let d := { headDst s f with jctl := 0 }
  runGrid s f (headRanges s f ps) false d (elementGrid s f ps g)

/-- VADD. -/
def execVadd (f : FormeIx) (s : State) : Outc :=
  onlyIf (vecReady s f 0x40) s (elementwise s f [0, 1] (two Val.add))

/-- VSUB. -/
def execVsub (f : FormeIx) (s : State) : Outc :=
  onlyIf (vecReady s f 0x41) s (elementwise s f [0, 1] (two (fun a b => a.add b.neg)))

/-- VMUL. -/
def execVmul (f : FormeIx) (s : State) : Outc :=
  onlyIf (vecReady s f 0x42) s (elementwise s f [0, 1] (two Val.mul))

/-- a × b + c. -/
def fmaVal (xs : List Val) : Val := ((xs.getD 0 .nan).mul (xs.getD 1 .nan)).add (xs.getD 2 .nan)

/-- VFMA. -/
def execVfma (f : FormeIx) (s : State) : Outc :=
  onlyIf (vecReady s f 0x43) s (elementwise s f [0, 1, 2] fmaVal)

/-- R297: a comes before b in the order of VMIN and VMAX, −0 below +0. -/
def minBefore (a b : Val) : Bool :=
  match a, b with
  | .zero m, .zero n => m && !n
  | _, _ => a.numLt b

/-- The smaller of two values; NaR and NaN propagate (R297). -/
def minVal (a b : Val) : Val := if a.isNan || b.isNan then .nan else if minBefore b a then b else a

/-- The larger of two values; NaR and NaN propagate (R297). -/
def maxVal (a b : Val) : Val := if a.isNan || b.isNan then .nan else if minBefore a b then b else a

/-- VMIN. -/
def execVmin (f : FormeIx) (s : State) : Outc :=
  onlyIf (vecReady s f 0x44) s (elementwise s f [0, 1] (two minVal))

/-- VMAX. -/
def execVmax (f : FormeIx) (s : State) : Outc :=
  onlyIf (vecReady s f 0x45) s (elementwise s f [0, 1] (two maxVal))

/-- VABS. -/
def execVabs (f : FormeIx) (s : State) : Outc :=
  onlyIf (vecReady s f 0x46) s (elementwise s f [0] (one Val.abs))

/-- VNEG. -/
def execVneg (f : FormeIx) (s : State) : Outc :=
  onlyIf (vecReady s f 0x47) s (elementwise s f [0] (one Val.neg))

/-! ### VCMP (R297, R412, R413) -/

/-- R297: a < b, a = b or a ≤ b; NaR equals NaR and lies below the rest, a comparison with a NaN is false. The flags tell
posit operands, whose non-real value is NaR. -/
def compareVals (cond : Nat) (pa pb : Bool) (a b : Val) : Bool :=
  if (a.isNan && !pa) || (b.isNan && !pb) then false
  else
    let lt := a.numLt b
    let eq := !lt && !b.numLt a
    match cond with
    | 0 => lt
    | 1 => eq
    | _ => lt || eq

/-- The 16 bytes of a mask (R413). -/
def maskBytes (bits : List Bool) : List Byte :=
  leBytes 16 (bits.foldr (fun b acc => b2n b + 2 * acc) 0)

/-- The mask rows of VCMP, with the flushes of the decodes. -/
def compareGrid (s : State) (f : FormeIx) : List (List (Bool × Bool)) :=
  let v := headVec s f
  let pa := isPosit (headRec s f 0).format
  let pb := isPosit (headRec s f 1).format
  grid v.count v.vlen (fun r e =>
    let xs := sourceVals s f [0, 1] r e
    (compareVals v.aux pa pb (xs.getD 0 (.nan, false)).1 (xs.getD 1 (.nan, false)).1, xs.any (·.2)))

/-- VCMP writes its masks. -/
def vcmpRun (s : State) (f : FormeIx) : State :=
  let m := compareGrid s f
  let r := headRec s f 3
  runHead s f .vq none none (galleyBad (s.forme f) f (headRanges s f [0, 1])) (fun s1 =>
    galleyWrite (setFlush s1 f (m.any (fun x => x.any (·.2)))) f
      (planeBytes r.base r.pitch (2 ^ 40) (m.map (fun x => maskBytes (x.map (·.1))))))

/-- VCMP. -/
def execVcmp (f : FormeIx) (s : State) : Outc := onlyIf (vecReady s f 0x48) s (vcmpRun s f)

/-! ### VSEL, VCVT (R296, R309) -/

/-- Bit (r, e) of the mask operand of VSEL. -/
def maskBit (s : State) (f : FormeIx) (r e : Nat) : Bool :=
  let m := headRec s f 2
  ((s.forme f).galley.byte (m.base + r * m.pitch + e / 8)).toNat.testBit (e % 8)

/-- The selected operands of VSEL. -/
def selectGrid (s : State) (f : FormeIx) : List (List (Val × Bool)) :=
  let v := headVec s f
  grid v.count v.vlen (fun r e => (sourceVals s f [if maskBit s f r e then 0 else 1] r e).getD 0 (.nan, false))

/-- VSEL. -/
def execVsel (f : FormeIx) (s : State) : Outc :=
  onlyIf (vecReady s f 0x49) s
    (runGrid s f (headRanges s f [0, 1, 2]) false { headDst s f with jctl := 0 } (selectGrid s f))

/-- VCVT, or the illegal smoothing byte that it meets (R271). -/
def vcvtRun (s : State) (f : FormeIx) : State :=
  let d := headDst s f
  let v := headVec s f
  if smoothBad (s.forme f) d v.count v.vlen then progError s f .smoothOperand (queueCode .vq) 0 (headOf s f .vq).index
  else runGrid s f (headRanges s f [0]) true d (elementGrid s f [0] (one id))

/-- VCVT. -/
def execVcvt (f : FormeIx) (s : State) : Outc := onlyIf (vecReady s f 0x4A) s (vcvtRun s f)

/-! ### Per-lane quires (R299 to R302) -/

/-- Quire j of lane l. -/
def laneQuire (fm : Forme) (l j : Nat) : BitVec 512 := tget (fun _ => 0) fm.vu.vq (4 * l + j)

/-- Sets quire j of lane l. -/
def setLaneQuire (fm : Forme) (l j : Nat) (q : BitVec 512) : Forme :=
  { fm with vu := { fm.vu with vq := tset (fun _ => 0) fm.vu.vq (4 * l + j) q } }

/-- QSAT (R301, R332). -/
def setQsat (fm : Forme) (b : Bool) : Forme :=
  { fm with vu := { fm.vu with vec := { fm.vu.vec with qsat := fm.vu.vec.qsat || b } } }

/-- The NaR pattern of a QP32 quire (R64). -/
def quireNar : BitVec 512 := BitVec.ofNat 512 (2 ^ 511)

/-- A QP32 pattern of an exact sum of grid units, saturated (R229, R301), and whether it saturated. -/
def quireClamp (d : Int) : BitVec 512 × Bool :=
  let lim : Int := Int.ofNat (2 ^ 511) - 1
  if lim < d then (BitVec.ofInt 512 lim, true)
  else if d < -lim then (BitVec.ofInt 512 (-lim), true)
  else (BitVec.ofInt 512 d, false)

/-- Adds an exact value (none for NaR), in units of 2^−240, to a quire (R300, R301). -/
def quireAdd (q : BitVec 512) (d : Option Int) : BitVec 512 × Bool :=
  match d with
  | none => (quireNar, false)
  | some d => if q = quireNar then (q, false) else quireClamp (q.toInt + d)

/-- A decoded value in units of 2^−240, none when it is not real. -/
def quireUnits (v : Val) : Option Int := if v.isReal then some (v.frac.scale2 240).floor else none

/-- Adds the results of a function of the sources to quire j of every lane, vector by vector. -/
def quireAccumulate (s : State) (f : FormeIx) (ps : List Nat) (g : List Val → Val) (fm : Forme) : Forme :=
  let v := headVec s f
  (List.range v.count).foldl (fun fm r => (List.range v.vlen).foldl (fun fm l =>
    let x := g ((sourceVals s f ps r l).map (·.1))
    let y := quireAdd (laneQuire fm l v.aux) (quireUnits x)
    setQsat (setLaneQuire fm l v.aux y.1) y.2) fm) fm

/-- A quire instruction that reads sources. -/
def quireRun (s : State) (f : FormeIx) (ps : List Nat) (g : List Val → Val) : State :=
  runHead s f .vq none none (galleyBad (s.forme f) f (headRanges s f ps))
    (fun s1 => modForme s1 f (quireAccumulate s f ps g))

/-- VQCLR of the instruction at the head. -/
def vqclrRun (s : State) (f : FormeIx) : State :=
  let v := headVec s f
  runHead s f .vq none none none (fun s1 => modForme s1 f (fun fm =>
    (List.range v.vlen).foldl (fun fm l => setLaneQuire fm l v.aux 0) fm))

/-- VQCLR. -/
def execVqclr (f : FormeIx) (s : State) : Outc := onlyIf (vecReady s f 0x50) s (vqclrRun s f)

/-- VQMAC. -/
def execVqmac (f : FormeIx) (s : State) : Outc :=
  onlyIf (vecReady s f 0x51) s (quireRun s f [0, 1] (two Val.mul))

/-- VQADD. -/
def execVqadd (f : FormeIx) (s : State) : Outc :=
  onlyIf (vecReady s f 0x52) s (quireRun s f [0] (one id))

/-- VQSUB. -/
def execVqsub (f : FormeIx) (s : State) : Outc :=
  onlyIf (vecReady s f 0x53) s (quireRun s f [0] (one Val.neg))

/-- Quire j of lanes 0 to VLEN − 1 as exact values. -/
def quireRow (s : State) (f : FormeIx) : List (Val × Bool) :=
  let v := headVec s f
  (List.range v.vlen).map (fun l => (decodeQuire 32 (laneQuire (s.forme f) l v.aux).toNat, false))

/-- VQRND. -/
def execVqrnd (f : FormeIx) (s : State) : Outc :=
  onlyIf (vecReady s f 0x54) s (runGrid s f [] false { headDst s f with jctl := 0 } [quireRow s f])

/-- The exact sum of quire j over lanes 0 to VLEN − 1, none when one is NaR. -/
def quireTotal (fm : Forme) (j vlen : Nat) : Option Int :=
  if (List.range vlen).any (fun l => decide (laneQuire fm l j = quireNar)) then none
  else some ((List.range vlen).foldl (fun acc l => acc + (laneQuire fm l j).toInt) 0)

/-- VQRED of the instruction at the head. -/
def vqredRun (s : State) (f : FormeIx) : State :=
  let v := headVec s f
  runHead s f .vq none none none (fun s1 => modForme s1 f (fun fm =>
    let y := quireAdd 0 (quireTotal fm v.aux v.vlen)
    setQsat (setLaneQuire fm 0 v.aux y.1) y.2))

/-- VQRED. -/
def execVqred (f : FormeIx) (s : State) : Outc := onlyIf (vecReady s f 0x55) s (vqredRun s f)

/-- The 32 KiB of all per-lane quires (R300). -/
def quireArea (fm : Forme) : List Byte :=
  ((List.range 512).map (fun i => leBytes 64 (tget (fun _ => 0) fm.vu.vq i).toNat)).flatten

/-- VQSAVE of the instruction at the head. -/
def vqsaveRun (s : State) (f : FormeIx) : State :=
  let r := headRec s f 3
  runHead s f .vq none none none (fun s1 => galleyWrite s1 f (placed r.base (quireArea (s.forme f))))

/-- VQSAVE. -/
def execVqsave (f : FormeIx) (s : State) : Outc := onlyIf (vecReady s f 0x56) s (vqsaveRun s f)

/-- VQLOAD of the instruction at the head. -/
def vqloadRun (s : State) (f : FormeIx) : State :=
  let r := headRec s f 0
  runHead s f .vq none none (galleyBad (s.forme f) f [(r.base, 32768)]) (fun s1 => modForme s1 f (fun fm =>
    (List.range 512).foldl (fun fm i =>
      { fm with vu := { fm.vu with
          vq := tset (fun _ => 0) fm.vu.vq i (BitVec.ofNat 512 (readLe (galleyRd fm) (r.base + 64 * i) 64)) } }) fm))

/-- VQLOAD. -/
def execVqload (f : FormeIx) (s : State) : Outc := onlyIf (vecReady s f 0x57) s (vqloadRun s f)

/-! ### VRMS (R303 to R305, R414, R810) -/

/-- Element i of row r of a folded operand (R414): vector r × ceil(LEN / 128) + i / 128, lane i mod 128. -/
def foldedElem (fm : Forme) (x : Rec) (len r i : Nat) : Elem :=
  x.plane.elem (galleyRd fm) (r * ceilDiv len 128 + i / 128) (i % 128)

/-- Row r of a folded operand, decoded. -/
def foldedRow (fm : Forme) (x : Rec) (subn : Bool) (len r : Nat) : List (Val × Bool) :=
  (List.range len).map (fun i => (foldedElem fm x len r i).val subn)

/-- One row of VRMS: the values to encode, ZROW, RSAT, and the flags of its own roundings. -/
structure RmsRow where
  ys   : List Val
  zrow : Bool
  rsat : Bool
  flg  : Flg

/-- R303. -/
def rmsPosit (xs gs : List Val) (eps : Val) : RmsRow :=
  if eps.isNan || xs.any Val.isNan || gs.any Val.isNan then ⟨xs.map (fun _ => .nan), false, false, Flg.none⟩
  else
    let sum := xs.foldl (fun (acc : Frac) x => acc.add (x.frac.mul x.frac)) ⟨0, 1⟩
    let q := (sum.div ⟨Int.ofNat xs.length, 1⟩).add eps.frac
    if q.num = 0 then ⟨xs.map (fun _ => .zero false), true, false, Flg.none⟩
    else
      let r := encodePosit 32 (.real (rsqrtSticky q 64)) .rne
      let rv := decodePosit 32 r.pat
      ⟨List.zipWith (fun x g => (x.mul rv).mul g) xs gs, false, decide (r.pat = 0x7FFFFFFF), Flg.none⟩

/-- rne32 of R304, on a decoded value. -/
def rne32 (subn : Bool) (v : Val) : Val × Flg :=
  let e := encodeFloat .f32 8 23 127 false subn v .rne
  ((decodeFloat .f32 8 23 127 false e.pat).1, e.flg)

/-- The sequential sum of R304. -/
def rmsSum (subn : Bool) (xs : List Val) : Val × Flg :=
  xs.foldl (fun acc x => let y := rne32 subn (acc.1.add (x.mul x)); (y.1, acc.2.or y.2)) (.zero false, Flg.none)

/-- R304. -/
def rmsIeee (subn : Bool) (xs gs : List Val) (eps : Val) : RmsRow :=
  if !eps.isReal || xs.any (fun v => !v.isReal) || gs.any (fun v => !v.isReal) then
    ⟨xs.map (fun _ => .nan), false, false, Flg.none⟩
  else
    let s := rmsSum subn xs
    let m := rne32 subn (match s.1 with | .real q => .real (q.div ⟨Int.ofNat xs.length, 1⟩) | v => v)
    let q := rne32 subn (m.1.add eps)
    let g1 := (s.2.or m.2).or q.2
    match q.1 with
    | .real qv =>
      let r := rne32 subn (.real (rsqrtSticky qv 64))
      let ps := xs.map (fun x => rne32 subn (x.mul r.1))
      ⟨List.zipWith (fun p g => p.1.mul g) ps gs, false,
       decide (r.1.frac.eqv (f32Val 0x7F7FFFFF) = true), ps.foldl (fun a p => a.or p.2) (g1.or r.2)⟩
    | _ => ⟨xs.map (fun _ => .zero false), true, false, g1⟩

/-- The rows of a VRMS and whether a decode flushed. -/
def rmsRows (s : State) (f : FormeIx) : List RmsRow × Bool :=
  let fm := s.forme f
  let v := headVec s f
  let c := headCtl s f
  let x := headRec s f 0
  let eps := ((headRec s f 2).plane.elem (galleyRd fm) 0 0).val c.subn
  let gs := if v.rb = 0 then (List.range x.len).map (fun _ => (Val.ofInt 1, false))
    else foldedRow fm (headRec s f 1) c.subn x.len 0
  let rows := (List.range v.count).map (foldedRow fm x c.subn x.len)
  let go (xs : List (Val × Bool)) : RmsRow :=
    if ieeePath x.format then rmsIeee c.subn (xs.map (·.1)) (gs.map (·.1)) eps.1
    else rmsPosit (xs.map (·.1)) (gs.map (·.1)) eps.1
  (rows.map go, eps.2 || gs.any (·.2) || rows.any (fun r => r.any (·.2)))

/-- The ε of a VRMS is negative (R305). -/
def epsNegative (s : State) (f : FormeIx) : Bool :=
  match (((headRec s f 2).plane.elem (galleyRd (s.forme f)) 0 0).val (headCtl s f).subn).1 with
  | .real q => decide (q.num < 0)
  | .inf n => n
  | _ => false

/-- Sets ZROW and RSAT and the flags of intermediate roundings. -/
def rmsStatus (fm : Forme) (rs : List RmsRow) : Forme :=
  let fm1 := setCvt fm (rs.foldl (fun a r => a.or r.flg) Flg.none)
  { fm1 with vu := { fm1.vu with vec := { fm1.vu.vec with
      zrow := fm1.vu.vec.zrow || rs.any (·.zrow), rsat := fm1.vu.vec.rsat || rs.any (·.rsat) } } }

/-- VRMS of the instruction at the head. -/
def vrmsRun (s : State) (f : FormeIx) : State :=
  if epsNegative s f then progError s f .vrmsEps (queueCode .vq) 0 (headOf s f .vq).index
  else
    let fm := s.forme f
    let c := headCtl s f
    let d := { headDst s f with jctl := 0, fold := true }
    let rs := rmsRows s f
    let ctx := convCtx fm c [d]
    let srcs := vecSrcs 0x58 (headVec s f)
    runHead s f .vq ctx ctx (galleyBad fm f (headRanges s f srcs ++ dstReads d 1 1)) (fun s1 =>
      convertGrid (modForme s1 f (fun fm => rmsStatus fm rs.1)) f c false d
        (rs.1.map (fun r => r.ys.map (fun y => (y, rs.2)))))

/-- VRMS. -/
def execVrms (f : FormeIx) (s : State) : Outc := onlyIf (vecReady s f 0x58) s (vrmsRun s f)

/-! ### VTOPK (R238, R306, R414) -/

/-- Puts a ranked entry into a list kept in falling order; an equal value keeps the lower position first (R238). -/
def rankInsert {α : Type} (x : Val × α) : List (Val × α) → List (Val × α)
  | [] => [x]
  | y :: ys => if y.1.numLt x.1 then x :: y :: ys else y :: rankInsert x ys

/-- The k largest entries of a list, in falling order. -/
def topOf {α : Type} (k : Nat) (xs : List (Val × α)) : List (Val × α) :=
  xs.foldl (fun acc x => (rankInsert x acc).take k) []

/-- The pad value of R306. -/
def topPad (f : Fmt) : Nat := nonRealPat f

/-- The k largest elements of row r: patterns and positions, padded. -/
def topkRow (s : State) (f : FormeIx) (r : Nat) : List (Nat × Nat) :=
  let fm := s.forme f
  let x := headRec s f 0
  let k := (headVec s f).aux + 1
  let es := (List.range x.len).map (fun i =>
    let e := foldedElem fm x x.len r i
    ((e.val (headCtl s f).subn).1, (e.pat, i)))
  padTo k (topPad x.format, 0xFFFFFFFF) ((topOf k es).map (·.2))

/-- A decode of VTOPK flushed. -/
def topkFlush (s : State) (f : FormeIx) : Bool :=
  let x := headRec s f 0
  (List.range (headVec s f).count).any (fun r => (List.range x.len).any (fun i =>
    ((foldedElem (s.forme f) x x.len r i).val (headCtl s f).subn).2))

/-- VTOPK of the instruction at the head. -/
def vtopkRun (s : State) (f : FormeIx) : State :=
  let v := headVec s f
  let x := headRec s f 0
  let p := headRec s f 2
  let d := headRec s f 3
  let rows := (List.range v.count).map (topkRow s f)
  runHead s f .vq none none (galleyBad (s.forme f) f (headRanges s f [0])) (fun s1 =>
    galleyWrite (setFlush s1 f (topkFlush s f)) f
      (planeBytes p.base p.pitch (2 ^ 40) (rows.map (fun r => (r.map (fun y => leBytes 4 y.2)).flatten))
        ++ planeBytes d.base d.pitch (2 ^ 40) (rows.map (fun r => packCodes (fmtBits x.format) (r.map (·.1))))))

/-- VTOPK. -/
def execVtopk (f : FormeIx) (s : State) : Outc := onlyIf (vecReady s f 0x59) s (vtopkRun s f)

/-! ### VSCALE, VSMOOTH (R307, R308, R272, R415) -/

/-- The scale bytes of VSCALE: with a given tensor scale, RS8 writes its row scales only. -/
def vscaleBytes (d : Dst) (ts : Nat) (q : Quant) : List (Nat × Byte) :=
  (if d.fmt = .rs8 ∧ ts ≠ 0 then q.scales.drop 4 else q.scales)
    ++ (match q.tensor with | some t => placed d.tsaddr (leBytes 4 t) | none => [])

/-- VSCALE of the instruction at the head. -/
def vscaleRun (s : State) (f : FormeIx) : State :=
  let fm := s.forme f
  let v := headVec s f
  let d := headDst s f
  let ts := if d.fmt = .rs8 then readLe (galleyRd fm) d.tsaddr 4 else 0
  let m := grid v.count v.vlen (fun r e => ((sourceVals s f [0] r e).getD 0 (.nan, false)).1)
  let q := quantise d (toSigned 32 fm.lat.scaleTarget.toNat) ts m
  runHead s f .vq none none
    (galleyBad fm f (headRanges s f [0] ++ (if d.fmt = .rs8 then [(d.tsaddr, 4)] else [])))
    (fun s1 => galleyWrite s1 f (vscaleBytes d ts q))

/-- VSCALE. -/
def execVscale (f : FormeIx) (s : State) : Outc := onlyIf (vecReady s f 0x5A) s (vscaleRun s f)

/-- R272: the E8M0 factor of a channel from two maxima, with α = a / 8; none for a negative maximum, which the rule gives no
factor. -/
def smoothFactor (a : Nat) (x w : Val) : Option Nat :=
  match x, w with
  | .real p, .real q =>
    if p.num < 0 ∨ q.num < 0 then none
    else
      let n := Int.ofNat a * p.log2 - (8 - Int.ofNat a) * q.log2 + 4
      some (clampI (-127) 127 (n / 8) + 127).toNat
  | _, _ => some 0x7F

/-- VSMOOTH of the instruction at the head; the factor of a negative maximum is a free value (log 4). -/
def vsmoothRun (s : State) (f : FormeIx) : State :=
  let v := headVec s f
  let d := headRec s f 3
  let alpha := (s.forme f).lat.smoothAlpha.toNat
  let cells := grid v.count v.vlen (fun r e => sourceVals s f [0, 1] r e)
  let byteOf (r e : Nat) (xs : List (Val × Bool)) : Byte :=
    match smoothFactor alpha (xs.getD 0 (.nan, false)).1 (xs.getD 1 (.nan, false)).1 with
    | some n => BitVec.ofNat 8 n
    | none => Config.freeByte s.free (r * 128 + e)
  runHead s f .vq none none (galleyBad (s.forme f) f (headRanges s f [0, 1])) (fun s1 =>
    galleyWrite (setFlush (useFree s1 1) f (cells.any (fun r => r.any (fun xs => xs.any (·.2))))) f
      (planeBytes d.base d.pitch (2 ^ 40)
        (cells.zipIdx.map (fun r => r.1.zipIdx.map (fun c => byteOf r.2 c.2 c.1)))))

/-- VSMOOTH. -/
def execVsmooth (f : FormeIx) (s : State) : Outc := onlyIf (vecReady s f 0x5B) s (vsmoothRun s f)

end Sys2Proof.Machine
end

