-- ==== Sys2Proof/Machine/Interp.lean ====
section
/-! DEFINITION. The value of a Fount function on the interpolating path (R319 to R324). -/

namespace Sys2Proof.Machine

/-! ### Constants (R323) -/

/-- log2 e on the 2^−128 grid. -/
def cLog2e : Frac := Frac.scale2 ⟨490923683258796565746369346286093237522, 1⟩ (-128)
/-- ln 2 on the 2^−128 grid. -/
def cLn2 : Frac := Frac.scale2 ⟨235865763225513294137944142764154484399, 1⟩ (-128)
/-- 1/(2π) on the 2^−256 grid. -/
def cInv2pi : Frac :=
  Frac.scale2 ⟨18428883373056725475459024596439793651824491331936921676307065986443608256856, 1⟩ (-256)
/-- 1/√(2π) on the 2^−128 grid. -/
def cIsq2pi : Frac := Frac.scale2 ⟨135753023439836232162591007175785461952, 1⟩ (-128)

/-! ### Segments (R321, R322) -/

/-- A segment of an image. -/
structure Seg where
  c0   : Int
  c1   : Int
  c2   : Int
  c3   : Int
  sh   : Nat
  tail : Bool
  deriving DecidableEq, Repr, Inhabited

/-- A segment from its eight entries. -/
def segOf (e : Nat → Nat) : Seg :=
  ⟨toSigned 32 (e 0 + e 1 * 65536), toSigned 32 (e 2 + e 3 * 65536), toSigned 32 (e 4 + e 5 * 65536),
   toSigned 16 (e 6), e 7 % 32, (e 7).testBit 5⟩

/-- P(t) of R322. -/
def Seg.poly (s : Seg) (t : Frac) : Frac :=
  let h (c : Int) (acc : Frac) : Frac := (acc.mul t).add ⟨c, 1⟩
  (h s.c0 (h s.c1 (h s.c2 ⟨s.c3, 1⟩))).scale2 (-(Int.ofNat s.sh + 16))

/-- A fraction truncated to the 2^−64 grid (R323). -/
def trunc64 (r : Frac) : Frac := ⟨(r.scale2 64).floor, 2 ^ 64⟩

/-- Segment index and fraction of the period and mantissa classes (R323). -/
def split13 (r : Frac) : Nat × Frac :=
  let x := (trunc64 r).scale2 13
  (x.floor.toNat, x.add ⟨-x.floor, 1⟩)

/-- A power of two, with the exponent held within ±2^20: beyond that no result format tells it from a larger or smaller one,
since |P| of R322 stays below 2^18. -/
def pow2C (n : Int) : Frac := Frac.pow2 (clampI (-1048576) 1048576 n)

/-- The exp2 stage E of R322 on a fraction. -/
def exp2Stage (r : Frac) : Frac :=
  let s := split13 r
  (segOf (fun k => (Config.exp2Rom (8 * s.1 + k)).toNat)).poly s.2

/-- g of R322: the function value before sign and scale. -/
def segValue (s : Seg) (t : Frac) : Frac :=
  let p := s.poly t
  if s.tail then (exp2Stage (p.add ⟨-p.floor, 1⟩)).mul (Frac.pow2 p.floor) else p

/-! ### Functions (R311) -/

/-- The functions. -/
inductive Fn where
  | exp | exp2 | ln | log2 | recip | sqrt | rsqrt | sin | cos | tanh | sigmoid | gelu | silu
  deriving DecidableEq, Repr, Inhabited

/-- Function of a code (R311); the checks have refused 0xD to 0xF. -/
def fnOf (c : Nat) : Fn :=
  match c with
  | 0 => .exp | 1 => .exp2 | 2 => .ln | 3 => .log2 | 4 => .recip | 5 => .sqrt | 6 => .rsqrt | 7 => .sin | 8 => .cos
  | 9 => .tanh | 10 => .sigmoid | 11 => .gelu | _ => .silu

/-- A small integer or a half as a value. -/
def valInt (n : Int) : Val := Val.ofInt n
/-- One half. -/
def valHalf : Val := .real ⟨1, 2⟩

/-- R319: the result of a zero input; posit tells a posit input. -/
def zeroResult (fn : Fn) (posit neg : Bool) : Val :=
  match fn with
  | .exp => valInt 1 | .exp2 => valInt 1 | .cos => valInt 1 | .sigmoid => valHalf
  | .ln => if posit then .nan else .inf true
  | .log2 => if posit then .nan else .inf true
  | .recip => if posit then .nan else .inf neg
  | .rsqrt => if posit then .nan else .inf neg
  | _ => .zero neg

/-- R319: the result of an infinite input. -/
def infResult (fn : Fn) (neg : Bool) : Val :=
  match fn with
  | .exp => if neg then .zero false else .inf false
  | .exp2 => if neg then .zero false else .inf false
  | .ln => if neg then .nan else .inf false
  | .log2 => if neg then .nan else .inf false
  | .recip => .zero neg
  | .sqrt => if neg then .nan else .inf false
  | .rsqrt => if neg then .nan else .zero false
  | .sin => .nan
  | .cos => .nan
  | .tanh => valInt (if neg then -1 else 1)
  | .sigmoid => if neg then .zero false else valInt 1
  | .gelu => if neg then .zero true else .inf false
  | .silu => if neg then .zero true else .inf false

/-- The function takes no negative real (R319). -/
def positiveOnly (fn : Fn) : Bool :=
  match fn with
  | .ln => true | .log2 => true | .sqrt => true | .rsqrt => true | _ => false

/-- x^k. -/
def fpow (x : Frac) : Nat → Frac
  | 0 => ⟨1, 1⟩
  | k + 1 => (fpow x k).mul x

/-- c × x^k with c = n / d. -/
def term (n : Int) (d k : Nat) (x : Frac) : Frac := (fpow x k).mul ⟨n, d⟩

/-- Sum of terms. -/
def series (ts : List Frac) : Val := Val.ofFrac (ts.foldl Frac.add ⟨0, 1⟩)

/-- The value that saturates at minpos in a posit format and is the signed zero of an IEEE format (R324). -/
def tiny (positOut neg : Bool) : Val :=
  if positOut then .real (if neg then (Frac.pow2 (-4096)).neg else Frac.pow2 (-4096)) else .zero neg

/-- R324: the direct evaluations of a real non-zero input. -/
def directValue (fn : Fn) (positOut : Bool) (x : Frac) : Option Val :=
  let a := x.abs
  let small8 := a.lt (Frac.pow2 (-8))
  let small16 := a.lt (Frac.pow2 (-16))
  let big := (Frac.pow2 16).le a
  let neg := decide (x.num < 0)
  let d := x.add ⟨-1, 1⟩
  let near1 := d.abs.lt (Frac.pow2 (-8))
  let logSum : List Frac := [term 1 1 1 d, term (-1) 2 2 d, term 1 3 3 d, term (-1) 4 4 d, term 1 5 5 d]
  match fn with
  | .exp2 => if x.eqv ⟨x.floor, 1⟩ then some (.real (pow2C x.floor)) else none
  | .sin => if small8 then some (series [x, term (-1) 6 3 x, term 1 120 5 x]) else none
  | .cos => if small8 then some (series [⟨1, 1⟩, term (-1) 2 2 x, term 1 24 4 x]) else none
  | .ln => if near1 then some (series logSum) else none
  | .log2 => if near1 then some (series (logSum.map (fun t => t.mul cLog2e))) else none
  | .tanh =>
    if small16 then some (series [x, term (-1) 3 3 x]) else if big then some (valInt (if neg then -1 else 1)) else none
  | .sigmoid =>
    if small16 then some (series [⟨1, 2⟩, term 1 4 1 x, term (-1) 48 3 x])
    else if big then some (if neg then tiny positOut false else valInt 1) else none
  | .gelu =>
    if small16 then some (series [term 1 2 1 x, (fpow x 2).mul cIsq2pi])
    else if big then some (if neg then tiny positOut true else .real x) else none
  | .silu =>
    if small16 then some (series [term 1 2 1 x, term 1 4 2 x])
    else if big then some (if neg then tiny positOut true else .real x) else none
  | _ => none

/-- R323: segment, fraction, and the final step from g, of a real non-zero input. -/
def reduceArg (fn : Fn) (x : Frac) : Nat × Frac × (Frac → Frac) :=
  let n := x.abs.log2
  let m := x.abs.scale2 (-n)
  let mant := split13 (m.add ⟨-1, 1⟩)
  let per (y : Frac) : Nat × Frac := split13 (y.add ⟨-y.floor, 1⟩)
  let j := n / 2
  let root := split13 (((x.abs.scale2 (-(2 * j))).add ⟨-1, 1⟩).scale2 (-2))
  let r := (trunc64 (m.add ⟨-1, 1⟩)).scale2 7
  let bin := ((if x.num < 0 then 4096 else 0) + (n + 16).toNat * 128 + r.floor.toNat, r.add ⟨-r.floor, 1⟩)
  match fn with
  | .exp2 => ((per x).1, (per x).2, fun g => g.mul (pow2C x.floor))
  | .exp => let y := x.mul cLog2e; ((per y).1, (per y).2, fun g => g.mul (pow2C y.floor))
  | .sin => let y := x.mul cInv2pi; ((per y).1, (per y).2, id)
  | .cos => let y := x.mul cInv2pi; ((per y).1, (per y).2, id)
  | .log2 => (mant.1, mant.2, fun g => g.add ⟨n, 1⟩)
  | .ln => (mant.1, mant.2, fun g => (g.add ⟨n, 1⟩).mul cLn2)
  | .recip => (mant.1, mant.2, fun g => let y := g.mul (pow2C (-n)); if x.num < 0 then y.neg else y)
  | .sqrt => (root.1, root.2, fun g => g.mul (pow2C j))
  | .rsqrt => (root.1, root.2, fun g => g.mul (pow2C (-j)))
  | _ => (bin.1, bin.2, id)

/-- What an INTERP evaluation needs: nothing, or one segment. -/
inductive InterpStep where
  | known (v : Val)
  | seg (i : Nat) (t : Frac) (fin : Frac → Frac)

/-- The evaluation of a decoded input (R319, R323, R324). -/
def interpStep (fn : Fn) (positIn positOut : Bool) (x : Val) : InterpStep :=
  match x with
  | .nan => .known .nan
  | .zero n => .known (zeroResult fn positIn n)
  | .inf n => .known (infResult fn n)
  | .real q =>
    if q.num < 0 ∧ positiveOnly fn = true then .known .nan
    else
      match directValue fn positOut q with
      | some v => .known v
      | none => let r := reduceArg fn q; .seg r.1 r.2.1 r.2.2

end Sys2Proof.Machine
end

