-- ==== Sys2Proof/Machine/Fount.lean ====
section
/-! DEFINITION. The instructions of FQ: Fount functions and table loads (R311 to R342, R419 to R421, R689, R697). -/

namespace Sys2Proof.Machine

/-! ### Slots -/

/-- Bytes of a slot (R327). -/
def slotBytes : Nat := 131072

/-- Entry e of a slot. -/
def slotEntry (fm : Forme) (slot : Fin 8) (e : Nat) : Nat := readLe fm.vu.fount.byte (slot.1 * slotBytes + 2 * e) 2

/-- Local address of an offset of a Forme's table window. -/
def fountAddr (f : FormeIx) (o : Nat) : Nat := fountBase + f.1 * 0x200000 + o

/-- The head of FQ has the opcode and no load holds its slot (R337). -/
def fqHead (s : State) (f : FormeIx) (op : Nat) : Bool := headIs s f .fq op

/-- Fields of the FUNC at the head of FQ. -/
def headFunc (s : State) (f : FormeIx) : FWord := fword (headOf s f .fq).word

/-- Records of the FUNC at the head of FQ. -/
def funcRec (s : State) (f : FormeIx) (p : Nat) : Rec := (headOf s f .fq).opRec p

/-- A load in progress holds a slot (R336). -/
def slotLoading (fm : Forme) (slot : Fin 8) : Bool :=
  match fm.vu.ftLoad with
  | some l => decide (l.slot = slot)
  | none => false

/-! ### FUNC (R313 to R320, R341) -/

/-- R313, R314: the slot serves the function and the formats. -/
def slotServes (x : FountSlot) (fn : Nat) (i o : Fmt) : Bool :=
  x.valid &&
  (match x.kind.toNat with
   | 1 => decide (i = .p8) && decide (o = .p8)
   | 2 => decide (i = .p16) && decide (o = .p16) && decide (x.func.toNat = fn)
   | 3 => decide (x.func.toNat = fn)
   | _ => false)

/-- Pattern of element (r, e) of the input. -/
def funcPat (s : State) (f : FormeIx) (r e : Nat) : Nat :=
  ((funcRec s f 0).plane.elem (galleyRd (s.forme f)) r e).pat

/-- Table bytes (offset in the window, length) that an element's lookup reads. -/
def lookupRange (s : State) (f : FormeIx) (r e : Nat) : List (Nat × Nat) :=
  let w := headFunc s f
  let base := w.slot.1 * slotBytes
  let p := funcPat s f r e
  let i := (funcRec s f 0).format
  match ((s.forme f).vu.slots[w.slot]).kind.toNat with
  | 1 => [(base + 2 * (w.fn * 256 + p), 2)]
  | 2 => [(base + 2 * p, 2)]
  | _ =>
    match interpStep (fnOf w.fn) (isPosit i) (isPosit (funcRec s f 1).format) (decodeScalar i false p).1 with
    | .known _ => []
    | .seg k _ _ => [(base + 16 * k, 16)]

/-- A full-table exponential saturates: its exact value exceeds maxpos (R320, R324). -/
def fullSaturates (fn n : Nat) (p : Nat) : Bool :=
  let e : Frac := ⟨Int.ofNat (4 * (n - 2)), 1⟩
  match decodePosit n p with
  | .real x => (decide (fn = 1) && e.lt x) || (decide (fn = 0) && e.lt (x.mul cLog2e))
  | _ => false

/-- The exact result of an element, and whether a table result saturated. -/
def funcValue (s : State) (f : FormeIx) (r e : Nat) : Val × Bool :=
  let fm := s.forme f
  let w := headFunc s f
  let p := funcPat s f r e
  let i := (funcRec s f 0).format
  match (fm.vu.slots[w.slot]).kind.toNat with
  | 1 => let y := slotEntry fm w.slot (w.fn * 256 + p) % 256; (decodePosit 8 y, decide (y = 0x7F) && fullSaturates w.fn 8 p)
  | 2 => let y := slotEntry fm w.slot p; (decodePosit 16 y, decide (y = 0x7FFF) && fullSaturates w.fn 16 p)
  | _ =>
    match interpStep (fnOf w.fn) (isPosit i) (isPosit (funcRec s f 1).format) (decodeScalar i false p).1 with
    | .known v => (v, false)
    | .seg k t fin => (Val.ofFrac (fin (segValue (segOf (fun j => slotEntry fm w.slot (8 * k + j))) t)), false)

/-- The results are written: one RNE rounding per element (R315). -/
def funcWrite (f : FormeIx) (s : State) (w : FWord) (d : Dst) (m : List (List (Val × Bool))) : State :=
  let c := { ctlOf w.cvt with rnd := 1 }
  let s1 := if m.any (fun r => r.any (·.2)) then modForme s f (fun fm => setCvt fm ⟨true, false, false⟩) else s
  storeOut f (convertRegion s1 f c ⟨false, false⟩ [d] (m.map (fun r => r.map (·.1))))

/-- Every table range that the FUNC reads. -/
def funcLookups (s : State) (f : FormeIx) : List (Nat × Nat) :=
  let w := headFunc s f
  (grid w.count w.vlen (lookupRange s f)).flatten.flatten

/-- The 128-byte lines, as numbers in the window, in which some lookups meet a parity error, lowest first. -/
def badLines (fm : Forme) (rs : List (Nat × Nat)) : List Nat :=
  ((fm.vu.fount.bad.filter (inRanges rs)).map (· / 128)).foldl (fun acc l => if acc.contains l then acc else acc ++ [l]) []

/-- The 128 bytes that a refetch of a line finds at SRC of its slot: local data, or free bytes for data of another die
(log 17). -/
def refetchBytes (s : State) (f : FormeIx) (line : Nat) : List Byte :=
  let slot : Fin 8 := ⟨line / 1024 % 8, Nat.mod_lt _ (by decide)⟩
  let src := ((s.forme f).vu.slots[slot]).src.toNat
  if gDie src = s.span.dieId then localBytes s (gLocal src + line % 1024 * 128) 128
  else (List.range 128).map (fun i => Config.freeByte s.free i)

/-- SRC of a line's slot cannot give the bytes again. -/
def refetchFails (s : State) (f : FormeIx) (line : Nat) : Bool :=
  let slot : Fin 8 := ⟨line / 1024 % 8, Nat.mod_lt _ (by decide)⟩
  let src := ((s.forme f).vu.slots[slot]).src.toNat
  let a := gLocal src + line % 1024 * 128
  decide (gDie src = s.span.dieId) && ((rangeErr s a 128).isSome || (readErr s [(a, 128)]).isSome)

/-- One line is fetched again, rewritten with parity and counted (R341, R689). -/
def refetchLine (f : FormeIx) (s : State) (line : Nat) : State :=
  let bs := refetchBytes s f line
  let s1 := useFree s 1
  let s2 := modForme s1 f (fun fm => { fm with vu := { fm.vu with
    fount := fm.vu.fount.putAll (placed (line * 128) bs)
    vec := { fm.vu.vec with ftpar := true }
    ftFail := some line } })
  logFault s2 .fount .corrected (some f) .refetched (line / 1024) (folioIdOf s f) (fountAddr f (line * 128))

/-- The second failure of a line (R689): its slot is no longer VALID, and the folio ends. -/
def fountHard (f : FormeIx) (s : State) (line : Nat) : State :=
  let slot : Fin 8 := ⟨line / 1024 % 8, Nat.mod_lt _ (by decide)⟩
  let s1 := modForme s f (fun fm => { fm with vu := { fm.vu with
    slots := vmod fm.vu.slots slot (fun x => { x with valid := false }), ftFail := none } })
  storedAbort (logFault s1 .fount .hard (some f) .folioAborted (line / 1024) (folioIdOf s f) (fountAddr f (line * 128))) f

/-- A line fails again after it was fetched, or cannot be fetched (R689). -/
def lineHard (s : State) (f : FormeIx) (line : Nat) : Bool :=
  decide ((s.forme f).vu.ftFail = some line) || refetchFails s f line

/-- Once a line has been read without an error, an earlier refetch of it is over. -/
def settleLine (fm : Forme) (rs : List (Nat × Nat)) : Forme :=
  match fm.vu.ftFail with
  | some l => if rs.any (fun r => decide (r.1 / 128 = l) || decide ((r.1 + r.2 - 1) / 128 = l))
      then { fm with vu := { fm.vu with ftFail := none } } else fm
  | none => fm

/-- FUNC with its lookups: a refetch where a line fails, the end of the folio where it fails again, and the results. -/
def funcRun (s : State) (f : FormeIx) : State :=
  let fm := s.forme f
  let w := headFunc s f
  let e := headOf s f .fq
  let a := funcRec s f 0
  let d := { (funcRec s f 1).dst (e.clsAt 1) with jctl := 0 }
  if !slotServes fm.vu.slots[w.slot] w.fn a.format d.fmt then progError s f .fountSlot (queueCode .fq) 0 e.index
  else
    let issued (t : State) : State :=
      modForme t f (fun fm => issue fm .fq t.tb.ns ⟨e.index, .fq, e.word, true, none, some w.slot⟩)
    match galleyBad fm f (a.plane.ranges w.count w.vlen) with
    | some err => storedError (issued s) f err
    | none =>
      let ls := badLines fm (funcLookups s f)
      match ls.find? (lineHard s f) with
      | some l => fountHard f (issued s) l
      | none =>
        let s1 := ls.foldl (refetchLine f) s
        let s2 := if ls = [] then modForme s1 f (fun fm => settleLine fm (funcLookups s f)) else s1
        let m := grid w.count w.vlen (funcValue s2 f)
        funcWrite f (issued s2) w d m

/-- FUNC may issue: no load holds its slot (R337). -/
def funcReady (s : State) (f : FormeIx) : Bool := fqHead s f 0x60 && !slotLoading (s.forme f) (headFunc s f).slot

/-- FUNC. -/
def execFunc (f : FormeIx) (s : State) : Outc := onlyIf (funcReady s f) s (funcRun s f)

/-! ### FTLOAD (R335, R336) -/

/-- FTLOAD leaves the head unless a load is in progress. -/
def ftloadReady (s : State) (f : FormeIx) : Bool := fqHead s f 0x61 && (s.forme f).vu.ftLoad.isNone

/-- FTLOADING of its slot is set. -/
def ftloadEffect (s : State) (f : FormeIx) : State :=
  let e := headOf s f .fq
  let l := lword e.word
  modForme (issueHead s f .fq false none none) f (fun fm => { fm with vu := { fm.vu with
    ftLoad := some ⟨e.index, l.slot, BitVec.ofNat 2 l.kind, BitVec.ofNat 4 l.func, BitVec.ofNat 16 l.version,
      BitVec.ofNat 52 l.src, false, [], []⟩ } })

/-- FTLOAD. -/
def execFtload (f : FormeIx) (s : State) : Outc := onlyIf (ftloadReady s f) s (ftloadEffect s f)

/-! ### FTLOAD_TRANSFER_START (R336, R421) -/

/-- The transfer may start: every earlier FUNC on the slot has retired. -/
def transferReady (s : State) (f : FormeIx) : Bool :=
  let fm := s.forme f
  unitsOn s &&
  (match fm.vu.ftLoad with
   | some l => !l.started && fm.q.flights.all (fun x => decide (x.slot ≠ some l.slot))
   | none => false)

/-- Ends a load without its image; the FTLOAD has nothing left to do. -/
def dropLoad (s : State) (f : FormeIx) (l : FtLoad) : State :=
  modForme s f (fun fm => markDone { fm with vu := { fm.vu with ftLoad := none } } l.index)

/-- Class of a Forme's copies (R455). -/
def copyClass (fm : Forme) : Nat := if fm.fe.cadence then 3 else 0

/-- The read requests of a load from another die, 4096 bytes each (R565); they carry COPYID 0xFFFF and
request IDs from 0x8000 (log 17). -/
def loadRequest (s : State) (f : FormeIx) (l : FtLoad) (i : Nat) : SpanPacket :=
  { newPacket s 2 (copyClass (s.forme f)) (gDie l.src.toNat) with
    sforme := BitVec.ofNat 4 f.1
    copyId := 0xFFFF
    addr := BitVec.ofNat 40 (gLocal l.src.toNat + 4096 * i)
    aux := BitVec.ofNat 32 (4096 + (0x8000 + i) * 65536) }

/-- An unmapped SRC, or a die ID without a route. -/
def loadUnmapped (s : State) (l : FtLoad) : Bool :=
  let src := l.src.toNat
  if gDie src = s.span.dieId then (rangeErr s (gLocal src) slotBytes).isSome || inWindow src
  else !(routeOf s (gDie src)).valid

/-- The transfer starts. -/
def transferEffect (s : State) (f : FormeIx) : State :=
  match (s.forme f).vu.ftLoad with
  | none => s
  | some l =>
    if loadUnmapped s l then progError (dropLoad s f l) f .address (queueCode .fq) 0 l.index
    else
      let s1 := modForme s f (fun fm => { fm with vu := { fm.vu with
        ftLoad := some { l with started := true }
        slots := vmod fm.vu.slots l.slot (fun x => { x with valid := false }) } })
      if gDie l.src.toNat = s.span.dieId then s1
      else (List.range 32).foldl (fun t i => (spanSend t (loadRequest s f l i)).1) s1

/-- FTLOAD_TRANSFER_START. -/
def execFtloadTransferStart (f : FormeIx) (s : State) : Outc := onlyIf (transferReady s f) s (transferEffect s f)

/-! ### FTLOAD_COMPLETE (R336, R697) -/

/-- Every source byte is at hand. -/
def loadArrived (s : State) (l : FtLoad) : Bool :=
  l.started && (decide (gDie l.src.toNat = s.span.dieId) || decide (l.data.length = slotBytes))

/-- The load may complete. -/
def loadReady (s : State) (f : FormeIx) : Bool :=
  unitsOn s && (match (s.forme f).vu.ftLoad with | some l => loadArrived s l | none => false)

/-- The image that a load writes. -/
def loadImage (s : State) (l : FtLoad) : List Byte :=
  if gDie l.src.toNat = s.span.dieId then localBytes s (gLocal l.src.toNat) slotBytes else l.data.map (·.2)

/-- The slot holds its new image (R329, R331, R336). -/
def fillSlot (s : State) (f : FormeIx) (l : FtLoad) (bs : List Byte) : State :=
  modForme s f (fun fm => markDone { fm with vu := { fm.vu with
    ftLoad := none
    fount := fm.vu.fount.putAll (placed (l.slot.1 * slotBytes) bs)
    slots := vset fm.vu.slots l.slot ⟨l.kind, true, l.func, l.version, crc32c bs, l.src⟩
    ftFail := none } } l.index)

/-- The load ends: with its image, or with VALID clear and the folio aborted when its source cannot be read. -/
def loadEffect (s : State) (f : FormeIx) : State :=
  match (s.forme f).vu.ftLoad with
  | none => s
  | some l =>
    let bad := if gDie l.src.toNat = s.span.dieId then readErr s [(gLocal l.src.toNat, slotBytes)] else none
    match bad with
    | some e => storedError (dropLoad s f l) f e
    | none => fillSlot s f l (loadImage s l)

/-- FTLOAD_COMPLETE. -/
def execFtloadComplete (f : FormeIx) (s : State) : Outc := onlyIf (loadReady s f) s (loadEffect s f)

end Sys2Proof.Machine
end

