-- ==== Sys2Proof/Machine/Gddr.lean ====
section
/-! DEFINITION. The GDDR7 controllers: extent retirement, corrected events, retraining, refresh (spec/11, R697 to R699). -/

namespace Sys2Proof.Machine

/-- Changes the GDDR7 state. -/
def modGddr (s : State) (g : Gddr → Gddr) : State := { s with gddr := g s.gddr }

/-! ### Corrected events (R465, R478, R479, R699) -/

/-- A corrected event of the extent of a window address: CECNT, and the record of R699 once for each physical extent. -/
def ceEvent (s : State) (addr : Nat) : State :=
  let l := addr / extBytes
  let s1 := modGddr s (fun g => { g with
    ext := tmod extDefault g.ext l (fun e => { e with cecnt := BitVec.ofNat 16 (min 0xFFFF (e.cecnt.toNat + 1)) }) })
  let e := extEntry s1.gddr l
  if entN s 0x8000 7 ≤ e.cecnt.toNat ∧ e.pext.toNat ∉ s.gddr.ceRec then
    let s2 := modGddr s1 (fun g => { g with ceRec := g.ceRec ++ [e.pext.toNat] })
    logFault s2 .gddr7 .corrected none .none (granuleChannel (physOf s.gddr addr / 256)) 0 (l * extBytes)
  else s1

/-! ### Retraining (R480, R481, R483, R698) -/

/-- Channel c of the die. -/
def chanOf (g : Gddr) (c : Nat) : Chan := tget chanDefault g.chans c

/-- Changes a channel. -/
def modChan (s : State) (c : Nat) (f : Chan → Chan) : State := modGddr s (fun g => { g with chans := tmod chanDefault g.chans c f })

/-- Some channel of a controller is retraining (R461, R481). -/
def controllerBusy (g : Gddr) (k : Nat) : Bool := (List.range 8).any (fun i => (chanOf g (8 * k + i)).retraining)

/-- A channel begins to retrain, counted in CH_RETRAINS. -/
def beginRetrain (s : State) (c : Nat) : State := bumpEnt (modChan s c (fun x => { x with retraining := true })) 0x3020 7 1 32

/-- A trigger for a channel: it acts, or waits while its controller retrains another channel (R481). A channel that is lost,
that retrains now or that waits already takes no further trigger. -/
def retrainTrigger (s : State) (c : Nat) : State :=
  let x := chanOf s.gddr c
  if x.dead || x.retraining || s.gddr.wait.contains c then s
  else if controllerBusy s.gddr (c / 8) then modGddr s (fun g => { g with wait := g.wait ++ [c] })
  else beginRetrain s c

/-- The oldest waiting trigger of a controller acts once none of its channels retrains. -/
def nextRetrain (s : State) (k : Nat) : State :=
  if controllerBusy s.gddr k then s
  else
    match s.gddr.wait.find? (fun c => decide (c / 8 = k)) with
    | some c => beginRetrain (modGddr s (fun g => { g with wait := g.wait.filter (· ≠ c) })) c
    | none => s

/-- CHANNEL_RETRAIN: a trigger of R480 (the fourth failure of an access, or the device temperature). -/
def execChannelRetrain (ch : Fin 80) (s : State) : Outc := onlyIf (unitsOn s) s (retrainTrigger s ch.1)

/-- RETRAIN_INTERVAL_MS has passed since the channel last trained. -/
def retrainDue (s : State) (ch : Fin 80) : Bool :=
  unitsOn s && elapsed s (chanOf s.gddr ch.1).trainedAt (entN s 0x3020 8 * 1000000)

/-- RETRAIN_TIMER. -/
def execRetrainTimer (ch : Fin 80) (s : State) : Outc := onlyIf (retrainDue s ch) s (retrainTrigger s ch.1)

/-- The channel retrains. -/
def retrainFinishReady (s : State) (ch : Fin 80) : Bool := unitsOn s && (chanOf s.gddr ch.1).retraining

/-- A retraining ends: trained, or failed and tried again, or failed for the third time in succession, which fences the
die (R483, R698). -/
def retrainFinish (s : State) (ch : Fin 80) (ok : Bool) : State :=
  if ok then
    nextRetrain (modChan s ch.1 (fun x => { x with retraining := false, fails := 0, trainedAt := s.tb.ns })) (ch.1 / 8)
  else
    let n := (chanOf s.gddr ch.1).fails + 1
    let s1 := modChan s ch.1 (fun x => { x with retraining := false, fails := n, dead := decide (3 ≤ n) })
    if 3 ≤ n then fenceFault s1 .gddr7 .hard ch.1 0 4
    else retrainTrigger (nextRetrain s1 (ch.1 / 8)) ch.1

/-- CHANNEL_RETRAIN_FINISH. -/
def execChannelRetrainFinish (ch : Fin 80) (ok : Bool) (s : State) : Outc :=
  onlyIf (retrainFinishReady s ch) s (retrainFinish s ch ok)

/-- REFRESH: it is placed between accesses and changes timing only (R482, R483). -/
def execRefresh (_ch : Fin 80) (_bank : Fin 16) (s : State) : Outc := .next s

/-! ### Extent retirement (R470 to R476) -/

/-- The lowest-numbered SPARE logical extent (R472). -/
def lowestSpare (g : Gddr) : Option Nat := (List.range 40960).find? (fun l => decide ((extEntry g l).state = 3))

/-- Changes the entry of a logical extent. -/
def modExt (g : Gddr) (l : Nat) (f : ExtEntry → ExtEntry) : Gddr := { g with ext := tmod extDefault g.ext l f }

/-- MEM.EXT_RETIRE as a word (R470). -/
def extRetireWord (r : ExtRetire) : Word :=
  pack [(r.lext.toNat, 0), (b2n r.busy, 17), (b2n r.done, 18), (b2n r.refused, 19), (r.rsn.toNat, 20), (r.newpext.toNat, 24)]

/-- DONE or REFUSED of MEM.EXT_RETIRE has been set: interrupt source 9 and its NOTIFY (R629, R748). -/
def raiseRetire (s : State) : State := raise s 9 0 ((extRetireWord s.gddr.ret).toNat % 2 ^ 32)

/-- A refused GO (R471). -/
def refuseRetire (s : State) (rsn : BitVec 4) : State :=
  raiseRetire (modGddr s (fun g => { g with ret := { g.ret with refused := true, rsn := rsn } }))

/-- Appends a retirement to the record in flash (R472, R473); refused after an erasure of the keys (R784). -/
def recordRetirement (s : State) (l spare : Nat) : State :=
  if s.sec.keyState = 2 then s else { s with flash := { s.flash with retire := s.flash.retire ++ [(l, spare)] } }

/-- Retiring a SPARE extent (R473). -/
def retireSpare (s : State) (l : Nat) : State :=
  let p := (extEntry s.gddr l).pext
  raiseRetire (recordRetirement (modGddr s (fun g =>
    { modExt g l (fun e => { e with state := 4 }) with ret := { g.ret with done := true, newpext := p } })) l l)

/-- Retiring a MAPPED extent starts its migration (R472, steps 1 and 2). -/
def retireMapped (s : State) (l spare : Nat) : State :=
  modGddr s (fun g =>
    { modExt (modExt g spare (fun e => { e with state := 4 })) l (fun e => { e with state := 2 }) with
      ret := { g.ret with busy := true, moving := BitVec.ofNat 16 l, spare := BitVec.ofNat 16 spare } })

/-- A GO for logical extent l (R471 to R473). -/
def retireGo (s : State) (l : Nat) : State :=
  let st := (extEntry s.gddr l).state
  if s.gddr.ret.busy then refuseRetire s 1
  else if st = 3 then retireSpare s l
  else if st = 1 then
    match lowestSpare s.gddr with
    | some sp => retireMapped s l sp
    | none => refuseRetire s 2
  else refuseRetire s 3

/-- A write of MEM.EXT_RETIRE: LEXT, the sticky bits, and GO. -/
def writeExtRetire (s : State) (v : Word) : State :=
  let s1 := modGddr s (fun g => { g with ret := { g.ret with
    lext := BitVec.ofNat 16 (field v 0 16), done := w1c g.ret.done v 18, refused := w1c g.ret.refused v 19 } })
  if bit v 16 then retireGo s1 (field v 0 16) else s1

/-- EXT_RETIRE_GO. -/
def execExtRetireGo (v : Word) (s : State) : Outc := onlyIf (unitsOn s) s (writeExtRetire s v)

/-- Granules of a physical extent that report uncorrectable. -/
def lostOf (g : Gddr) (p : Nat) : List Nat :=
  (List.range 8192).filter (fun i => granuleLost g (p * 8192 + i))

/-- Physical extent q takes the bytes of physical extent p, uncorrectable granules included (R472, R477). -/
def copyExtent (g : Gddr) (p q : Nat) : Gddr :=
  { g with
    phys := (List.range extBytes).foldl (fun m i => m.put (q * extBytes + i) (m.byte (p * extBytes + i))) g.phys
    lost := g.lost.filter (fun x => decide (x / 8192 ≠ q)) ++ (lostOf g p).map (fun i => q * 8192 + i) }

/-- The migration reports each granule that it cannot read (R697). -/
def migrationErrors (s : State) (l p : Nat) : State :=
  (lostOf s.gddr p).foldl (fun t i => gddrError t none .none (l * extBytes + i * 256)) s

/-- The last granule is written (R472, steps 3 to 5). -/
def migrationDone (s : State) : State :=
  let l := s.gddr.ret.moving.toNat
  let sp := s.gddr.ret.spare.toNat
  let p := (extEntry s.gddr l).pext
  let q := (extEntry s.gddr sp).pext
  let s1 := migrationErrors s l p.toNat
  let s2 := modGddr s1 (fun g =>
    let g1 := modExt (copyExtent g p.toNat q.toNat) l (fun e => { e with pext := q, state := 1, cecnt := 0, ue := false })
    { g1 with ret := { g1.ret with busy := false, done := true, newpext := q } })
  raiseRetire (recordRetirement s2 l sp)

/-- EXT_MIGRATION_COMPLETE. -/
def execExtMigrationComplete (s : State) : Outc := onlyIf (unitsOn s && s.gddr.ret.busy) s (migrationDone s)

/-! ### What the devices report during an access (R478, R479; log 13) -/

/-- Granules (by window granule number) of ranges of window addresses. -/
def granulesOf (rs : List (Nat × Nat)) : List Nat :=
  (rs.map (fun r => if r.2 = 0 then [] else
    (List.range ((r.1 + (r.2 - 1)) / 256 + 1 - r.1 / 256)).map (fun i => r.1 / 256 + i))).flatten

/-- Failed CRC tries of the access to a channel: one corrected event once a retry succeeds, and a retraining after the fourth
failure. -/
def reportCrc (s : State) (gs : List Nat) (rep : MemReport) : State :=
  if rep.crcFails = 0 then s
  else
    match gs.find? (fun g => decide (granuleChannel (physOf s.gddr (g * 256) / 256) = rep.channel.1)) with
    | none => s
    | some g =>
      let s1 := ceEvent (bumpEnt s 0x3020 4 1 32) (g * 256)
      if 4 ≤ rep.crcFails then retrainTrigger s1 rep.channel.1 else s1

/-- A granule that the on-die ECC corrected. -/
def reportCorrected (s : State) (g : Nat) : State := ceEvent (bumpEnt s 0x3020 5 1 32) (g * 256)

/-- A granule that the on-die ECC reports uncorrectable. -/
def reportLost (s : State) (g : Nat) : State :=
  let p := physOf s.gddr (g * 256) / 256
  if s.gddr.lost.contains p then s else modGddr s (fun x => { x with lost := x.lost ++ [p] })

/-- A report on an access that reads some window ranges and writes others. -/
def applyReport (s : State) (rd wr : List (Nat × Nat)) (rep : MemReport) : State :=
  let gs := granulesOf rd
  let s1 := reportCrc s (gs ++ granulesOf wr) rep
  let s2 := (rep.corrected.filter gs.contains).foldl reportCorrected s1
  (rep.lost.filter gs.contains).foldl reportLost s2

end Sys2Proof.Machine
end

