-- ==== Sys2Proof/Machine/Impression.lean ====
section
/-! DEFINITION. The Impression log (R538 to R545). -/

namespace Sys2Proof.Machine

/-- IMPRESSION_ENABLE. -/
def logOn (s : State) : Bool := decide (entN s 0x7010 1 = 1)

/-- IMPRESSION_BASE. -/
def logBase (s : State) : Nat := entN s 0x7010 2
/-- IMPRESSION_BYTES. -/
def logSize (s : State) : Nat := entN s 0x7010 3
/-- IMPRESSION_RETAIN_SEQ. -/
def logRetain (s : State) : Nat := entN s 0x7010 8

/-- Bytes of a record with a payload of n bytes (R539). -/
def recordSize (n : Nat) : Nat := 64 + roundUp n 64

/-- A record as bytes (R539). -/
def recordBytes (typ src seq time arg : Nat) (payload : List Byte) (len : Nat) : List Byte :=
  let head := typ + src * 2 ^ 16 + len * 2 ^ 32 + seq * 2 ^ 64 + time * 2 ^ 128 + arg * 2 ^ 192
    + (crc32c payload).toNat * 2 ^ 256
  let h := leBytes 36 head
  padTo (recordSize payload.length) 0 (padTo 64 0 (h ++ leBytes 4 (crc32c h).toNat) ++ payload)

/-- Where records go: regions of the ring that they take, with the flag of a PAD, and the place after them (R540). -/
def layRecord (size n w : Nat) : List (Nat × Nat × Bool) × Nat × Nat :=
  if w + n ≤ size then ([(w, n, false)], w, (w + n) % size)
  else ([(w, size - w, true), (0, n, false)], 0, n % size)

/-- A region of the ring overlaps a record. -/
def overwrites (rs : List (Nat × Nat × Bool)) (r : LogRec) : Bool :=
  rs.any (fun x => decide (x.1 < r.pos + r.size) && decide (r.pos < x.1 + x.2.1))

/-- Writes bytes at a place of the local ring and of the mirror ring (R541, R544). -/
def ringWrite (s : State) (pos : Nat) (bs : List Byte) : State :=
  let s1 := modGddr s (fun g => gddrPutAll g (placed (logBase s + pos) bs))
  if s.log.mirrorLost then s1 else emit s1 (.mirrorRec pos bs)

/-- Writes the PAD of a layout; its payload is zeros (R539). -/
def writePad (s : State) (rs : List (Nat × Nat × Bool)) : State :=
  match rs.find? (fun x => x.2.2) with
  | some x => ringWrite s x.1 (recordBytes 0 0 (2 ^ 64 - 1) s.tb.ns.toNat 0 (List.replicate (x.2.1 - 64) 0) (x.2.1 - 64))
  | none => s

/-- Writes one record with the next SEQ, over the records in its place. -/
def putRecord (s : State) (typ src arg : Nat) (payload : List Byte) : State :=
  let n := recordSize payload.length
  let lay := layRecord (logSize s) n s.log.wpos
  let s1 := writePad s lay.1
  let s2 := ringWrite s1 lay.2.1 (recordBytes typ src s.log.head s.tb.ns.toNat arg payload payload.length)
  { s2 with log := { s2.log with
      head := s.log.head + 1
      wpos := lay.2.2
      recs := s.log.recs.filter (fun r => !overwrites lay.1 r) ++ [⟨s.log.head, lay.2.1, n⟩] } }

/-- Records that must be kept and that regions would overwrite (R543). -/
def keptHit (s : State) (rs : List (Nat × Nat × Bool)) : Nat :=
  (s.log.recs.filter (fun r => decide (logRetain s ≤ r.seq) && overwrites rs r)).length

/-- Appends a record. None: it does not fit under HOLD, or exceeds the ring. Under OVERWRITE a LOST record precedes it
(R543). -/
def logAppend (s : State) (typ src arg : Nat) (payload : List Byte) : Option State :=
  let size := logSize s
  let n := recordSize payload.length
  if size < 64 + n then none
  else
    let lay := layRecord size n s.log.wpos
    if keptHit s lay.1 = 0 then some (putRecord s typ src arg payload)
    else if entN s 0x7010 4 = 0 then none
    else
      let l1 := layRecord size 64 s.log.wpos
      let l2 := layRecord size n l1.2.2
      let lost := keptHit s (l1.1 ++ l2.1)
      let s1 := { s with log := { s.log with lost := s.log.lost + lost } }
      some (putRecord (putRecord s1 7 0 lost []) typ src arg payload)

/-- Records an input when the log is enabled; none when the input must wait (R541, R543). -/
def recordInput (s : State) (typ src arg : Nat) (payload : List Byte) : Option State :=
  if logOn s then logAppend s typ src arg payload else some s

/-! ### IMPRESSION_APPEND (R542) -/

/-- The payload that a write of IMPRESSION.APPEND names: multiple of 64, 1 to 64 units, mapped and readable GDDR7. -/
def appendPayload (s : State) (v : Word) : Option (List Byte) :=
  let a := field v 0 40
  let n := 64 * field v 40 12
  if a % 64 = 0 ∧ 1 ≤ field v 40 12 ∧ field v 40 12 ≤ 64 ∧ gddrRange s.gddr a n = true ∧ (gddrLost s.gddr a n).isNone = true
  then some (gddrBytesAt s.gddr a n) else none

/-- A MARK record; a write that HOLD cannot serve is discarded (R543). -/
def appendMark (s : State) (payload : List Byte) : State := (logAppend s 6 0 0 payload).getD s

/-- A write of IMPRESSION.APPEND while the log is enabled. An operand outside the register's rules records nothing; a payload
that GDDR7 cannot give is recorded as an error of stored data (R697). -/
def writeAppend (s : State) (v : Word) : State :=
  if !logOn s then s
  else
    match appendPayload s v with
    | some p => appendMark s p
    | none =>
      let a := field v 0 40
      if gddrRange s.gddr a (64 * field v 40 12) then
        match gddrLost s.gddr a (64 * field v 40 12) with
        | some x => gddrError s none .none x
        | none => s
      else s

/-- IMPRESSION_APPEND. -/
def execImpressionAppend (v : Word) (s : State) : Outc := onlyIf (unitsOn s) s (writeAppend s v)

end Sys2Proof.Machine
end

