-- ==== Sys2Proof/Machine/RdmaBase.lean ====
section
/-! DEFINITION. Queue pairs, completion queues and the requester side of the RDMA engine (R596 to R613, R621). -/

namespace Sys2Proof.Machine

/-! ### Objects -/

/-- Queue pair n. -/
def qpOf (s : State) (n : Nat) : Qp := tget qpDefault s.abut.qps n
/-- Changes queue pair n. -/
def modQp (s : State) (n : Nat) (g : Qp → Qp) : State := { s with abut := { s.abut with qps := tmod qpDefault s.abut.qps n g } }
/-- Completion queue n. -/
def cqOf (s : State) (n : Nat) : Cq := tget cqDefault s.abut.cqs n
/-- Changes completion queue n. -/
def modCq (s : State) (n : Nat) (g : Cq → Cq) : State := { s with abut := { s.abut with cqs := tmod cqDefault s.abut.cqs n g } }
/-- Shared receive queue n. -/
def srqOf (s : State) (n : Nat) : Srq := tget srqDefault s.abut.srqs n
/-- Changes shared receive queue n. -/
def modSrq (s : State) (n : Nat) (g : Srq → Srq) : State :=
  { s with abut := { s.abut with srqs := tmod srqDefault s.abut.srqs n g } }

/-- A field of a queue pair's context (R598). -/
def Qp.fld (q : Qp) (lo w : Nat) : Nat := fieldN q.ctx.toNat lo w
/-- Bytes of the path MTU (R598). -/
def Qp.mtu (q : Qp) : Nat := 128 * 2 ^ q.fld 16 3
/-- CQ for send completions. -/
def Qp.sqcq (q : Qp) : Nat := q.fld 128 12
/-- CQ for receive completions. -/
def Qp.rqcq (q : Qp) : Nat := q.fld 140 12

/-- A ring descriptor from its 128 bits (R599). -/
def ringOf (x : Nat) : Ring :=
  ⟨BitVec.ofNat 40 (fieldN x 0 40), BitVec.ofNat 5 (fieldN x 40 5), BitVec.ofNat 24 (fieldN x 48 24),
   BitVec.ofNat 24 (fieldN x 72 24)⟩

/-- Address of the entry of a ring for a counter value (R599). -/
def ringAddr (r : Ring) (i size : Nat) : Nat := r.base.toNat + i % 2 ^ r.log2n.toNat * size

/-- Bytes of GDDR7 as a number. -/
def gddrNat (s : State) (a n : Nat) : Nat := leNat (gddrBytesAt s.gddr a n)

/-! ### Completions (R607, R608) -/

/-- A completion without its PHASE (R607). -/
def mkCompletion (wrid qpn opc status bytes imm time : Nat) : BitVec 256 :=
  BitVec.ofNat 256 (wrid + qpn * 2 ^ 64 + opc * 2 ^ 80 + status * 2 ^ 88 + bytes * 2 ^ 96 + imm * 2 ^ 128 + time * 2 ^ 192)

/-- The token signal of a receive completion (R608). -/
def receiveSignal (s : State) (c : BitVec 256) : State :=
  let opc := fieldN c.toNat 80 8
  let q := qpOf s (fieldN c.toNat 64 14)
  if (opc = 0x10 ∨ opc = 0x11) ∧ q.fld 20 1 = 1 then
    (if h : q.fld 25 4 < 12 then remoteSignal s ⟨q.fld 25 4, h⟩ (BitVec.ofNat 4 (q.fld 21 4)) 1 else s)
  else s

/-- Writes a completion at the producer count of its CQ, signals, and interrupts when the CQ is armed. -/
def writeCompletion (s : State) (n : Nat) (c : BitVec 256) : State :=
  let r := (cqOf s n).ring
  let w := c.toNat + b2n (phaseAt r.log2n.toNat r.prod.toNat) * 2 ^ 160
  let s1 := modGddr s (fun g => gddrPutAll g (placed (ringAddr r r.prod.toNat 32) (leBytes 32 w)))
  let s2 := modCq s1 n (fun q => { q with ring := { r with prod := r.prod + 1 }, armed := false })
  let s3 := receiveSignal s2 c
  if (cqOf s n).armed then raise s3 4 n 0 else s3

/-- A CQ has room for a completion. -/
def cqRoom (q : Cq) : Bool := decide (ringUsed q.ring < 2 ^ q.ring.log2n.toNat)

/-- A completion is written, or waits for room in its CQ (R608). An inactive CQ takes none. -/
def complete (s : State) (n : Nat) (c : BitVec 256) : State :=
  let q := cqOf s n
  if !q.active then s
  else if q.wait = [] ∧ cqRoom q = true then writeCompletion s n c
  else bumpEnt (modCq s n (fun q => { q with wait := q.wait ++ [c] })) 0x6030 7 1 32

/-- Writes waiting completions while there is room. -/
def flushCq : Nat → State → Nat → State
  | 0, s, _ => s
  | k + 1, s, n =>
    match (cqOf s n).wait with
    | [] => s
    | c :: rest =>
      if cqRoom (cqOf s n) then flushCq k (writeCompletion (modCq s n (fun q => { q with wait := rest })) n c) n else s

/-- A CQ that the queue pair feeds holds waiting completions (R608). -/
def cqHolds (s : State) (q : Qp) : Bool := decide ((cqOf s q.sqcq).wait ≠ []) || decide ((cqOf s q.rqcq).wait ≠ [])

/-! ### Sending packets -/

/-- PSN a is at or before PSN b, modulo 2^24. -/
def psnLe (a b : BitVec 24) : Bool := decide ((b - a).toNat < 2 ^ 23)

/-- A packet of the engine leaves: through the own port while its link is UP, from an unwired die as a frame through its
serving die; a wired die whose link is not UP loses it (R592, R594). -/
def roceOut (s : State) (n : Nat) (p : RocePacket) : State :=
  if s.abut.link = 3 then emit s (.roce (BitVec.ofNat 14 n) p)
  else if s.abut.link = 0 then ethToPort s false 0 (Config.roceFrame (qpOf s n).ctx p)
  else s

/-- A packet of queue pair n without payload. -/
def qpPacket (q : Qp) (k : RoceKind) (psn : BitVec 24) : RocePacket :=
  ⟨BitVec.ofNat 24 (q.fld 32 24), k, true, true, psn, none, 0, 0, 0, BitVec.ofNat 6 (q.fld 120 6), false, true, 0, []⟩

/-- PSNs that a message takes (R596): one for each packet of a SEND or WRITE, one for each response packet of a READ. -/
def psnCount (len mtu : Nat) : Nat := max 1 (ceilDiv len mtu)

/-- Bytes that a SEND or WRITE message carries: the Carriage's, or those at LADDR. -/
def OutMsg.bytes (s : State) (m : OutMsg) : List Byte := if m.posted then gddrBytesAt s.gddr m.laddr m.len else m.data

/-- The packets of a message (R596, R605). -/
def msgPackets (s : State) (q : Qp) (m : OutMsg) : List RocePacket :=
  if m.opc = 4 then
    [{ qpPacket q .readReq (m.firstPsn + BitVec.ofNat 24 (m.got / q.mtu)) with
       va := m.raddr + BitVec.ofNat 64 m.got, rkey := m.rkey, dmaLen := BitVec.ofNat 32 (m.len - m.got) }]
  else
    let n := psnCount m.len q.mtu
    let kind : RoceKind := if m.opc = 0 ∨ m.opc = 1 then .send else .write
    let bs := OutMsg.bytes s m
    (List.range n).map (fun i =>
      { qpPacket q kind (m.firstPsn + BitVec.ofNat 24 i) with
        first := decide (i = 0), last := decide (i + 1 = n)
        imm := if m.opc = 1 ∨ m.opc = 3 then some m.imm else none
        va := m.raddr, rkey := m.rkey, dmaLen := BitVec.ofNat 32 m.len
        payload := (bs.drop (i * q.mtu)).take q.mtu })

/-- Sends packets of queue pair n. -/
def roceOutAll (s : State) (n : Nat) (ps : List RocePacket) : State := ps.foldl (fun s p => roceOut s n p) s

/-- Go-back-N: every packet at or after a PSN is sent again (R596). -/
def resendFrom (s : State) (n : Nat) (psn : BitVec 24) : State :=
  let q := qpOf s n
  roceOutAll (modQp s n (fun q => { q with ackedAt := s.tb.ns })) n
    ((q.out.map (msgPackets s q)).flatten.filter (fun p => psnLe psn p.psn))

/-- A message that is about to be posted. -/
def blankMsg : OutMsg := ⟨0, false, 0, 0, 0, 0, 0, 0, 0, 0, false, 0, none, 0, []⟩

/-- A queue pair accepts a message: its PSNs, its place in the order of R613, and its packets. -/
def postMsg (s : State) (n : Nat) (m : OutMsg) : State :=
  let q := qpOf s n
  let k := psnCount m.len q.mtu
  let m1 := { m with firstPsn := q.sendPsn, lastPsn := q.sendPsn + BitVec.ofNat 24 (k - 1) }
  let s1 := modQp s n (fun q => { q with
    out := q.out ++ [m1], sendPsn := q.sendPsn + BitVec.ofNat 24 k
    ackedAt := if q.out = [] then s.tb.ns else q.ackedAt
    inReads := if m.opc = 4 then q.inReads + 1 else q.inReads })
  roceOutAll s1 n (msgPackets s q m1)

/-- The queue pair may send something new: in RTS, no RNR timer running, no completion waiting (R603, R608). -/
def maySend (s : State) (q : Qp) : Bool := decide (q.state = 3) && q.rnrTill.isNone && !cqHolds s q

/-! ### Remote windows (R611, R612) -/

/-- Entry of the window that a local address lies in. -/
def windowAt (s : State) (a : Nat) : Window := tget windowDefault s.tbl.windows ((a - 0x8000000000) / 0x1000000)

/-- A local address lies in the remote-window range. -/
def isWindow (a : Nat) : Bool := decide (0x8000000000 ≤ a) && decide (a < 0xC000000000)

/-- The window serves a Carriage: VALID, the needed right, its QP in RTS (R612). -/
def windowServes (s : State) (a : Nat) (write : Bool) : Bool :=
  let w := windowAt s a
  w.valid && (if write then w.wr else w.rd) && decide ((qpOf s w.qpn.toNat).state = 3)

/-- The message for a piece of a copy within one window. -/
def windowMsg (s : State) (f : FormeIx) (c : Fin 8) (a len : Nat) (write : Bool) (bs : List Byte) : OutMsg :=
  let w := windowAt s a
  { blankMsg with
    opc := if write then 2 else 4, len := len, raddr := w.raddr + BitVec.ofNat 64 ((a - 0x8000000000) % 0x1000000)
    rkey := w.rkey, car := some (f, c), win := a, data := bs }

/-! ### Failing copies -/

/-- Frees a Carriage; its outstanding messages no longer belong to a copy. -/
def freeCarriage (s : State) (f : FormeIx) (c : Fin 8) : State :=
  let s1 := modForme s f (fun fm => { fm with carr := vmod fm.carr c (fun x =>
    { x with busy := false, remote := false, phase := .idle, entry := none, data := [], pcrc := [] }) })
  { s1 with abut := { s1.abut with qps := s1.abut.qps.map (fun p => (p.1, { p.2 with
      out := p.2.out.map (fun m => if m.car = some (f, c) then { m with car := none } else m) })) } }

/-- The copy of a Carriage ends without completing: nothing is left of it, and it makes no signal. -/
def dropCopy (s : State) (f : FormeIx) (c : Fin 8) : State :=
  let ix := ((s.forme f).carr[c]).index
  modForme (freeCarriage s f c) f (fun fm =>
    { fm with q := { fm.q with flights := eraseFirst (fun y => decide (y.index = ix)) fm.q.flights } })

/-- The copy fails with program error ADDRESS, reported with QUEUE = CQ (R438, R566, R612). -/
def failCopy (s : State) (f : FormeIx) (c : Fin 8) : State :=
  let x := (s.forme f).carr[c]
  if x.busy then progError (dropCopy s f c) f .address (queueCode .cq) 0 x.index else s

/-- Pieces of a copy that are not answered yet. -/
def CarPhase.pieces : CarPhase → List (Nat × Nat)
  | .reading ps => ps
  | .acking ps => ps
  | _ => []

/-- The copy of a Carriage uses queue pair n through a remote window (R603). -/
def usesQp (s : State) (n : Nat) (x : Carriage) : Bool :=
  x.busy && x.phase.pieces.any (fun p => isWindow p.1 && decide ((windowAt s p.1).qpn.toNat = n))

/-- Every Carriage of the die. -/
def allCarriages : List (FormeIx × Fin 8) :=
  ((List.finRange 12).map (fun f => (List.finRange 8).map (fun c => (f, c)))).flatten

/-- Every copy that uses queue pair n fails. -/
def failCopies (s : State) (n : Nat) : State :=
  allCarriages.foldl (fun t p => if usesQp s n ((s.forme p.1).carr[p.2]) then failCopy t p.1 p.2 else t) s

/-! ### Errors of a queue pair (R603) -/

/-- Completion of a message of the requester; a failure always writes one, with its status, and a success only with SIG
(R605). -/
def sendCompletion (s : State) (n : Nat) (m : OutMsg) (fail : Option Nat) : State :=
  if m.posted && (m.sig || fail.isSome) then
    complete s (qpOf s n).sqcq (mkCompletion m.wrid.toNat n m.opc.toNat (fail.getD 0) (if fail.isSome then 0 else m.len) 0
      s.tb.ns.toNat)
  else s

/-- The send entries that a queue pair has not taken complete with FLUSHED. -/
def flushSq : Nat → State → Nat → State
  | 0, s, _ => s
  | k + 1, s, n =>
    let r := (qpOf s n).sq
    if ringUsed r = 0 then s
    else
      let e := gddrNat s (ringAddr r r.cons.toNat 64) 64
      let s1 := modQp s n (fun q => { q with sq := { r with cons := r.cons + 1 } })
      flushSq k (complete s1 (qpOf s n).sqcq (mkCompletion (fieldN e 320 64) n (fieldN e 0 8) 6 0 0 s.tb.ns.toNat)) n

/-- The receive entries that a queue pair holds complete with FLUSHED. -/
def flushRq : Nat → State → Nat → State
  | 0, s, _ => s
  | k + 1, s, n =>
    let r := (qpOf s n).rq
    if ringUsed r = 0 then s
    else
      let s1 := modQp s n (fun q => { q with rq := { r with cons := r.cons + 1 } })
      flushRq k (complete s1 (qpOf s n).rqcq (mkCompletion r.cons.toNat n 0x10 6 0 0 s.tb.ns.toNat)) n

/-- The receive entry of the message in progress completes with FLUSHED. -/
def flushInc (s : State) (n : Nat) : State :=
  let q := qpOf s n
  match q.inc with
  | some m =>
    let s1 := modQp s n (fun q => { q with inc := none })
    match m.entry with
    | some e => complete s1 q.rqcq (mkCompletion e.count.toNat n 0x10 6 0 0 s.tb.ns.toNat)
    | none => s1
  | none => s

/-- RAW frames whose egress timestamp has not come complete with FLUSHED. -/
def flushRaws (s : State) : State :=
  s.abut.raws.foldl (fun t r => complete t 0 (mkCompletion r.2.1.toNat 0 8 6 0 0 s.tb.ns.toNat))
    { s with abut := { s.abut with raws := [] } }

/-- The queue pair enters ERROR: its oldest message completes with the given status, everything else with FLUSHED, and the
copies that use it fail. -/
def qpError (s : State) (n : Nat) (status : Nat) : State :=
  let q := qpOf s n
  let s0 := modQp s n (fun q => { q with state := 4, out := [], inReads := 0, rnrTill := none })
  let s1 := if n = 0 then flushRaws s0 else s0
  let s2 := q.out.zipIdx.foldl (fun t p => sendCompletion t n p.1 (some (if p.2 = 0 then status else 6))) s1
  let s3 := flushSq (ringUsed q.sq) s2 n
  let s4 := flushInc s3 n
  let s5 := if q.fld 19 1 = 1 ∨ n < 2 then s4 else flushRq (ringUsed q.rq) s4 n
  failCopies s5 n

end Sys2Proof.Machine
end

