-- ==== Sys2Proof/Machine/Carriage.lean ====
section
/-! DEFINITION. Carriage copies (R440 to R455, R568, R569): what a copy reads, converts and writes, on this die, on another
die, or through a remote window. -/

namespace Sys2Proof.Machine

/-! ### What a copy reads and writes -/

/-- Code ranges of the source in local addresses of the source die; a strided copy reads its elements only (R441). -/
def Desc.srcCode (d : Desc) : List (Nat × Nat) :=
  if d.pat = 1 then
    ((List.range d.r).map (fun r => (List.range d.e).map (fun e => (d.splane.addr r e, fmtBits d.sformat / 8)))).flatten
  else (List.range d.r).map (fun r => ((gLocal d.src + r * d.spitch) % 2 ^ 40, d.splane.rowLen d.e))

/-- Ranges of the source: its elements and its scale plane. -/
def Desc.srcRanges (d : Desc) : List (Nat × Nat) := d.srcCode ++ d.splane.scaleRanges d.r d.e

/-- Rows and columns of the destination's scale plane: those of the source grid for a bit copy. -/
def Desc.scaleGrid (d : Desc) : Nat × Nat := if d.bitCopy then (d.r, d.e) else (d.drows, d.dcols)

/-- Code ranges of the destination. -/
def Desc.dstCode (d : Desc) : List (Nat × Nat) :=
  (List.range d.drows).map (fun r => ((gLocal d.dst + r * d.dpitch) % 2 ^ 40, d.dplane.rowLen d.dcols))

/-- Scale ranges of the destination. -/
def Desc.dstScale (d : Desc) : List (Nat × Nat) := d.dplane.scaleRanges d.scaleGrid.1 d.scaleGrid.2

/-- Ranges of the destination. -/
def Desc.dstRanges (d : Desc) : List (Nat × Nat) := d.dstCode ++ d.dstScale

/-- Two lists of ranges share a byte. -/
def rangesMeet (xs ys : List (Nat × Nat)) : Bool :=
  xs.any (fun x => ys.any (fun y => decide (x.1 < y.1 + y.2) && decide (y.1 < x.1 + x.2)))

/-- R446: planes of the copy share a byte, so that every result is undefined. -/
def Desc.clash (d : Desc) : Bool :=
  let same := decide (gDie d.src = gDie d.dst)
  let ss := d.splane.scaleRanges d.r d.e
  rangesMeet d.srcCode ss || rangesMeet d.dstCode d.dstScale || (same && rangesMeet d.srcRanges d.dstRanges)

/-! ### The result of a copy -/

/-- Pattern of the source element that goes to element (r, e) of the destination (R441). -/
def Desc.movedPat (d : Desc) (rd : Nat → Byte) (r e : Nat) : Nat :=
  if d.pat = 2 then d.splane.pat rd e r else d.splane.pat rd r e

/-- Bytes of a bit copy: the code plane with padding of zeros (R68, R443), and the scale plane. -/
def bitCopyBytes (d : Desc) (rd : Nat → Byte) : List (Nat × Byte) :=
  let rows := (List.range d.drows).map (fun r => packCodes (fmtBits d.dformat) ((List.range d.dcols).map (d.movedPat rd r)))
  planeBytes (gLocal d.dst) d.dpitch (2 ^ 40) rows
    ++ (((d.splane.scaleRanges d.r d.e).zip d.dstScale).map (fun p =>
        (List.range p.1.2).map (fun i => ((p.2.1 + i) % 2 ^ 40, rd ((p.1.1 + i) % 2 ^ 40))))).flatten

/-- A converting copy: the state after its conversion, and its destination bytes (R442, R444). -/
def convertCopy (s : State) (f : FormeIx) (e : QEntry) (rd : Nat → Byte) : State × List (Nat × Byte) :=
  let d := descOf e.desc
  let c := ctlOf d.cvt
  let m := d.splane.values rd c.subn d.r d.e
  let m1 := if d.pat = 2 then transpose d.e m else m
  let s1 := setFlush s f (m.any (fun r => r.any (·.2)))
  let o := convertRegion s1 f c ⟨true, true⟩ [d.dest (e.clsAt 0)] (m1.map (fun r => r.map (·.1)))
  (o.st, o.bytes.flatten)

/-- What a copy writes: the state after any conversion, and the destination bytes; undefined bytes are free (R446). -/
def copyResult (s : State) (f : FormeIx) (e : QEntry) (rd : Nat → Byte) : State × List (Nat × Byte) :=
  let d := descOf e.desc
  let r := if d.bitCopy then (s, bitCopyBytes d rd) else convertCopy s f e rd
  if d.clash then (useFree r.1 1, r.2.map (fun p => (p.1, Config.freeByte r.1.free p.1))) else r

/-- Galley ranges that a converting copy reads on its Forme: smoothing table and tensor-scale operand. -/
def copySides (d : Desc) : List (Nat × Nat) :=
  if d.bitCopy then [] else dstReads (d.dest 0) d.drows d.dcols

/-! ### Pieces -/

/-- Cuts a range into pieces of at most m bytes that do not cross multiples of b. -/
def cutRange (m b : Nat) : Nat → Nat → Nat → List (Nat × Nat)
  | 0, _, _ => []
  | _, _, 0 => []
  | fuel + 1, a, n =>
    let k := min (min m n) (b - a % b)
    (a, k) :: cutRange m b fuel (a + k) (n - k)

/-- Pieces of ranges. -/
def cutRanges (m b : Nat) (rs : List (Nat × Nat)) : List (Nat × Nat) := (rs.map (fun r => cutRange m b r.2 r.1 r.2)).flatten

/-- Runs of consecutive addresses of a byte table. -/
def tableRuns : Table Byte → List (Nat × Nat)
  | [] => []
  | (a, _) :: t =>
    match tableRuns t with
    | (b, n) :: rs => if b = a + 1 then (a, n + 1) :: rs else (a, 1) :: (b, n) :: rs
    | [] => [(a, 1)]

/-- Bytes of a range in a byte table. -/
def tableBytes (t : Table Byte) (a n : Nat) : List Byte := (List.range n).map (fun i => tget (fun _ => (0 : Byte)) t (a + i))

/-- Pieces for remote windows: at most 64 KiB, within one window of 16 MiB (R611). -/
def windowPieces (rs : List (Nat × Nat)) : List (Nat × Nat) := cutRanges 0x10000 0x1000000 rs

/-- Pieces for Span: at most 4096 bytes (R564). -/
def spanPieces (rs : List (Nat × Nat)) : List (Nat × Nat) := cutRanges 4096 (2 ^ 40) rs

/-- The source lies on another die. -/
def Desc.remoteSrc (s : State) (d : Desc) : Bool := decide (gDie d.src ≠ s.span.dieId)
/-- The destination lies on another die. -/
def Desc.remoteDst (s : State) (d : Desc) : Bool := decide (gDie d.dst ≠ s.span.dieId)

/-- Source bytes that must be fetched before the copy can be carried out. -/
def fetchPieces (s : State) (d : Desc) : List (Nat × Nat) :=
  if d.remoteSrc s then spanPieces d.srcRanges else windowPieces (d.srcRanges.filter (fun r => isWindow r.1))

/-- Source ranges in this die's own memory, with the Galley operands of the conversion. -/
def ownReads (s : State) (f : FormeIx) (d : Desc) : List (Nat × Nat) :=
  (if d.remoteSrc s then [] else d.srcRanges.filter (fun r => !isWindow r.1))
    ++ (copySides d).map (fun r => (galleyAddr f r.1, r.2))

/-- The byte of the source at a local address of its die. -/
def sourceByte (s : State) (d : Desc) (data : Table Byte) (a : Nat) : Byte :=
  if d.remoteSrc s || isWindow a then tget (fun _ => (0 : Byte)) data a else localByte s a

/-! ### Changing a Carriage -/

/-- Changes Carriage c of Forme f. -/
def modCar (s : State) (f : FormeIx) (c : Fin 8) (g : Carriage → Carriage) : State :=
  modForme s f (fun fm => { fm with carr := vmod fm.carr c g })

/-- Carriage c of Forme f. -/
def carOf (s : State) (f : FormeIx) (c : Fin 8) : Carriage := (s.forme f).carr[c]

/-- BYTES of CARRIAGE.STATUS rises (R450). -/
def addBytes (x : Carriage) (n : Nat) : Carriage := { x with bytes := BitVec.ofNat 32 (satAdd 0xFFFFFFFF x.bytes.toNat n) }

/-! ### Requests (R565, R568, R569) -/

/-- A packet of a copy. -/
def copyPacket (s : State) (f : FormeIx) (c : Fin 8) (typ : Nat) (dst : BitVec 12) : SpanPacket :=
  { newPacket s typ (copyClass (s.forme f)) dst with
    sforme := BitVec.ofNat 4 f.1, scarr := BitVec.ofNat 3 c.1, copyId := (carOf s f c).copyId }

/-- Sends the READ_REQ of a piece; a refusal at this die fails the copy. -/
def sendRead (s : State) (f : FormeIx) (c : Fin 8) (dst : BitVec 12) (p : Nat × Nat) : State :=
  let r := spanSend s { copyPacket s f c 2 dst with addr := BitVec.ofNat 40 p.1, aux := BitVec.ofNat 32 p.2 }
  match r.2 with
  | none => r.1
  | some _ => failCopy r.1 f c

/-- Sends read requests one after the other while the copy lives. -/
def sendReads (s : State) (f : FormeIx) (c : Fin 8) (dst : BitVec 12) (ps : List (Nat × Nat)) : State :=
  ps.foldl (fun t p => if (carOf t f c).busy then sendRead t f c dst p else t) s

/-- The WRITE packet of a piece. -/
def writePacket (s : State) (f : FormeIx) (c : Fin 8) (d : Desc) (total : Nat) (last : Bool) (p : Nat × Nat) : SpanPacket :=
  { copyPacket s f c 1 (gDie d.dst) with
    last := last, addr := BitVec.ofNat 40 p.1, total := if last then BitVec.ofNat 40 total else 0
    rtok := d.rtok, rsen := d.rsen, rforme := BitVec.ofNat 4 d.rforme
    payload := tableBytes (carOf s f c).data p.1 p.2 }

/-- Sends a WRITE packet; a refusal at this die fails the copy. -/
def sendWrite (s : State) (f : FormeIx) (c : Fin 8) (pk : SpanPacket) : State :=
  let r := spanSend s pk
  match r.2 with
  | none => r.1
  | some _ => failCopy r.1 f c

/-- Sends the WRITE packets of a copy while it lives. -/
def sendWrites (s : State) (f : FormeIx) (c : Fin 8) (d : Desc) (ps : List (Nat × Nat)) : State :=
  let total := sumN (ps.map (·.2))
  ps.zipIdx.foldl (fun t p =>
    if (carOf t f c).busy then sendWrite t f c (writePacket t f c d total (decide (p.2 + 1 = ps.length)) p.1) else t) s

/-! ### Messages of remote windows -/

/-- READs of the requester side at most 16 on a queue pair (R596). -/
def readRoom (q : Qp) : Bool := decide (q.inReads < 16)

/-- The message of a piece has been posted. -/
def posted (q : Qp) (f : FormeIx) (c : Fin 8) (a : Nat) : Bool :=
  q.out.any (fun m => decide (m.car = some (f, c)) && decide (m.win = a))

/-- Posts the message of a window piece when its queue pair may send. -/
def pumpPiece (f : FormeIx) (c : Fin 8) (write : Bool) (s : State) (p : Nat × Nat) : State :=
  let n := (windowAt s p.1).qpn.toNat
  let q := qpOf s n
  if isWindow p.1 && (carOf s f c).busy && maySend s q && (write || readRoom q) && !posted q f c p.1 then
    postMsg s n (windowMsg s f c p.1 p.2 write (if write then tableBytes (carOf s f c).data p.1 p.2 else []))
  else s

/-- Posts what the copies of the die have waiting (R613). -/
def pumpCopies (s : State) : State :=
  allCarriages.foldl (fun t fc =>
    let x := carOf t fc.1 fc.2
    let w := match x.phase with | .acking _ => true | _ => false
    x.phase.pieces.foldl (pumpPiece fc.1 fc.2 w) t) s

/-! ### Writing the result -/

/-- The signal of a copy within the die (R452). -/
def ownSignal (s : State) (d : Desc) : State :=
  if d.rsen then (if h : d.rforme < 12 then remoteSignal s ⟨d.rforme, h⟩ d.rtok 1 else s) else s

/-- Result bytes on this die: memory at once; bytes in remote windows wait for their acknowledgements. -/
def landOwn (s : State) (f : FormeIx) (c : Fin 8) (d : Desc) (bs : List (Nat × Byte)) : State :=
  let own := bs.filter (fun p => !isWindow p.1)
  let win := (bs.filter (fun p => isWindow p.1)).foldl (fun t p => tput t p.1 p.2) ([] : Table Byte)
  let s1 := localPutAll s own
  let s2 := modCar s1 f c (fun x => addBytes x own.length)
  if win = [] then ownSignal (modCar s2 f c (fun x => { x with phase := .written, data := [] })) d
  else
    let ps := windowPieces (tableRuns win)
    if ps.all (fun p => windowServes s p.1 true) then
      pumpCopies (modCar s2 f c (fun x => { x with phase := .acking ps, data := win, remote := true }))
    else failCopy s2 f c

/-- Result bytes for another die: WRITE packets that wait for its acknowledgement (R451, R568). -/
def landRemote (s : State) (f : FormeIx) (c : Fin 8) (d : Desc) (bs : List (Nat × Byte)) : State :=
  let t := bs.foldl (fun t p => tput t p.1 p.2) ([] : Table Byte)
  let ps := spanPieces (tableRuns t)
  sendWrites (modCar s f c (fun x => { x with phase := .acking ps, data := t, remote := true })) f c d ps

/-- Every source byte is at hand: the copy is carried out, or ends by an error of the stored data it reads (R689, R697). -/
def carryOut (s : State) (f : FormeIx) (c : Fin 8) : State :=
  let x := carOf s f c
  match x.entry with
  | none => s
  | some e =>
    let d := descOf e.desc
    match readErr s (ownReads s f d) with
    | some err => storedError (dropCopy s f c) f err
    | none =>
      let r := copyResult s f e (sourceByte s d x.data)
      if d.remoteDst s then landRemote r.1 f c d r.2 else landOwn r.1 f c d r.2

/-! ### CCOPY (R352, R440 to R444) -/

/-- The lowest idle Carriage. -/
def idleCarriage (fm : Forme) : Option (Fin 8) := (List.finRange 8).find? (fun c => !(fm.carr[c]).busy)

/-- CCOPY may leave the head of CQ. -/
def ccopyReady (s : State) (f : FormeIx) : Bool := headIs s f .cq 0x10 && (idleCarriage (s.forme f)).isSome

/-- The descriptor of the copy at the head of CQ. -/
def headDesc (s : State) (f : FormeIx) : Desc := descOf (headOf s f .cq).desc

/-- The context that a copy draws from. -/
def copyCtx (s : State) (f : FormeIx) : Option (Fin 16) :=
  let d := headDesc s f
  if d.bitCopy then none else convCtx (s.forme f) (ctlOf d.cvt) [d.dest ((headOf s f .cq).clsAt 0)]

/-- A die ID without a valid route when the copy starts (R434), or a window that does not serve it (R612). -/
def copyAddress (s : State) (d : Desc) : Bool :=
  (d.remoteSrc s && !(routeOf s (gDie d.src)).valid) || (d.remoteDst s && !(routeOf s (gDie d.dst)).valid)
    || (!d.remoteSrc s && d.srcRanges.any (fun r => isWindow r.1 && !windowServes s r.1 false))
    || (!d.remoteDst s && d.dstRanges.any (fun r => isWindow r.1 && !windowServes s r.1 true))

/-- A smoothing byte of 0xFF in the table of a copy (R271). -/
def copySmooth (s : State) (f : FormeIx) (d : Desc) : Bool :=
  !d.bitCopy && smoothBad (s.forme f) (d.dest 0) d.drows d.dcols

/-- GDDR7 ranges of this die among ranges of local addresses. -/
def gddrPart (own : Bool) (rs : List (Nat × Nat)) : List (Nat × Nat) :=
  if own then rs.filter (fun r => decide (r.1 < gddrBytes)) else []

/-- The copy takes Carriage c; COPYID moves on for a copy that uses Span (R568). -/
def takeCarriage (s : State) (f : FormeIx) (c : Fin 8) (d : Desc) (ps : List (Nat × Nat)) : State :=
  let e := headOf s f .cq
  let ctx := copyCtx s f
  let spans := d.remoteSrc s || d.remoteDst s
  modCar (issueHead s f .cq false ctx none) f c (fun x =>
    { x with busy := true, remote := false, index := e.index, bytes := 0, entry := some e, data := [], pcrc := []
             copyId := if spans then x.copyId + 1 else x.copyId, phase := .reading ps })

/-- The copy starts on Carriage c: what it needs from elsewhere is requested, or it is carried out at once. -/
def startCopy (s : State) (f : FormeIx) (c : Fin 8) (d : Desc) : State :=
  let ps := fetchPieces s d
  let s1 := takeCarriage s f c d ps
  if ps = [] then carryOut s1 f c
  else if d.remoteSrc s then sendReads s1 f c (gDie d.src) (ps.take 64)
  else pumpCopies s1

/-- What CCOPY does. -/
def ccopyEffect (s : State) (f : FormeIx) (rep : MemReport) : State :=
  let e := headOf s f .cq
  let d := headDesc s f
  match idleCarriage (s.forme f) with
  | none => s
  | some c =>
    if claimedBy (s.forme f) (copyCtx s f) then progError s f .srctxBusy (queueCode .cq) 0 e.index
    else if copyAddress s d then progError s f .address (queueCode .cq) 0 e.index
    else if copySmooth s f d then progError s f .smoothOperand (queueCode .cq) 0 e.index
    else
      let s1 := applyReport s (gddrPart (!d.remoteSrc s) d.srcRanges) (gddrPart (!d.remoteDst s) d.dstRanges) rep
      startCopy s1 f c d

/-- CCOPY. -/
def execCcopy (f : FormeIx) (rep : MemReport) (s : State) : Outc := onlyIf (ccopyReady s f) s (ccopyEffect s f rep)

/-! ### COPY_COMPLETE (R451) -/

/-- Every destination byte is written or acknowledged. -/
def copyDone (s : State) (f : FormeIx) (c : Fin 8) : Bool :=
  unitsOn s && (carOf s f c).busy && decide ((carOf s f c).phase = .written)

/-- The Carriage is free and the instruction has reached its completion point. -/
def copyRetire (s : State) (f : FormeIx) (c : Fin 8) : State :=
  modForme s f (fun fm => markDone { fm with carr := vmod fm.carr c (fun x =>
    { x with busy := false, remote := false, phase := .idle, entry := none, data := [] }) } (fm.carr[c]).index)

/-- COPY_COMPLETE. -/
def execCopyComplete (f : FormeIx) (c : Fin 8) (s : State) : Outc := onlyIf (copyDone s f c) s (copyRetire s f c)

/-! ### Answers (R565 to R568, R596) -/

/-- Bytes of a source piece have arrived at a Carriage: the piece is answered, the next request goes out, and once no piece
is left the copy is carried out. -/
def pieceArrived (s : State) (f : FormeIx) (c : Fin 8) (a : Nat) (bs : List Byte) : State :=
  let x := carOf s f c
  match x.phase with
  | .reading ps =>
    if ps.any (fun p => decide (p.1 = a) && decide (p.2 = bs.length)) then
      let rest := eraseFirst (fun p => decide (p.1 = a)) ps
      let s1 := modCar s f c (fun x => { x with
        data := (placed a bs).foldl (fun t p => tput t p.1 p.2) x.data, phase := .reading rest })
      if rest = [] then carryOut s1 f c
      else
        match x.entry with
        | some e =>
          if (descOf e.desc).remoteSrc s && decide (64 ≤ rest.length) then
            sendReads s1 f c (gDie (descOf e.desc).src) ((rest.drop 63).take 1)
          else s1
        | none => s1
    else s
  | _ => s

/-- A piece of a copy's destination is acknowledged through its remote window (R451). -/
def windowAcked (s : State) (f : FormeIx) (c : Fin 8) (a : Nat) : State :=
  let x := carOf s f c
  match x.phase with
  | .acking ps =>
    let rest := eraseFirst (fun p => decide (p.1 = a)) ps
    let n := ((ps.find? (fun p => decide (p.1 = a))).map (·.2)).getD 0
    modCar s f c (fun x =>
      let y := addBytes x n
      if rest = [] then { y with phase := .written, remote := false, data := [] } else { y with phase := .acking rest })
  | _ => s

/-- ACK of a copy to another die (R568). -/
def copyAcked (s : State) (f : FormeIx) (c : Fin 8) (total : Nat) : State :=
  modCar s f c (fun x =>
    match x.phase with
    | .acking _ => { addBytes x total with phase := .written, remote := false, data := [] }
    | _ => x)

/-- NACK with reason CORRUPT (R567): the packet of that address is sent again; the third failure is an error of stored data
of class SPAN. -/
def copyCorrupt (s : State) (f : FormeIx) (c : Fin 8) (a : Nat) (port : Nat) : State :=
  let x := carOf s f c
  if 2 ≤ tget (fun _ => 0) x.pcrc a then
    storedAbort (logFault (dropCopy s f c) .span .replay (some f) .folioAborted port (folioIdOf s f) 0) f
  else
    let s1 := modCar s f c (fun x => { x with pcrc := tmod (fun _ => 0) x.pcrc a (· + 1) })
    match x.entry with
    | none => s1
    | some e =>
      let d := descOf e.desc
      match x.phase with
      | .acking ps =>
        match ps.zipIdx.find? (fun p => decide (p.1.1 = a)) with
        | some p => sendWrite s1 f c (writePacket s1 f c d (sumN (ps.map (·.2))) (decide (p.2 + 1 = ps.length)) p.1)
        | none => s1
      | .reading ps =>
        match ps.find? (fun p => decide (p.1 = a)) with
        | some p => sendReads s1 f c (gDie d.src) [p]
        | none => s1
      | _ => s1

end Sys2Proof.Machine
end

