-- ==== Sys2Proof/Machine/Image.lean ====
section
/-! DEFINITION. Signed images (R769 to R771). -/

namespace Sys2Proof.Machine

/-- COMPONENT of a service image. -/
def serviceComp : Nat := 0x10

/-- Field of an image header: k bytes at an offset, little-endian (R770). -/
def imageField (im : List Byte) (off k : Nat) : Nat := leNat ((im.drop off).take k)

/-- LENGTH of the payload. -/
def imageLength (im : List Byte) : Nat := imageField im 12 4
/-- SECVER. -/
def imageSecver (im : List Byte) : Nat := imageField im 4 4
/-- VERSION. -/
def imageVersion (im : List Byte) : Nat := imageField im 8 4
/-- The payload. -/
def imagePayload (im : List Byte) : List Byte := (im.drop 256).take (imageLength im)

/-- The operator key of a slot, when one is enrolled (R744). -/
def operatorKeyOf (s : State) (slot : Nat) : Option (List Byte) :=
  let k := tget (fun _ => []) s.colo.oct (entKey 0x9010 (0x10 + slot))
  if slot < 8 ∧ k.any (fun b => decide (b ≠ 0)) = true then some (padTo 64 0 k) else none

/-- The key of a SIGNER: Eutavor's for 0, an enrolled operator key for 1 to 8 (R770). -/
def keyOfSigner (s : State) (signer : Nat) : Option (List Byte) :=
  if signer = 0 then some Config.rootKey else operatorKeyOf s (signer - 1)

/-- The signing key of an image: firmware must be signed by Eutavor (R771). -/
def signerKey (s : State) (comp signer : Nat) : Option (List Byte) :=
  if signer = 0 ∨ comp = serviceComp then keyOfSigner s signer else none

/-- Results of a verification, as UPDATE_RESULT gives them (R774). -/
inductive VerifyResult where
  | ok | signature | digest | component | rollback | length
  deriving DecidableEq, Repr, Inhabited

/-- Value in UPDATE_RESULT. -/
def VerifyResult.code : VerifyResult → BitVec 8
  | .ok => 0 | .signature => 1 | .digest => 2 | .component => 3 | .rollback => 4 | .length => 5

/-- The signature of an image holds. -/
def signedOk (s : State) (comp : Nat) (im : List Byte) : Bool :=
  match signerKey s comp (imageField im 2 1) with
  | some k => Config.sm2Verify k (im.take 192) ((im.drop 192).take 64)
  | none => false

/-- Verifies an image for a component, a slot of a size in bytes, and a minimum SECVER (R771). -/
def verifyImage (s : State) (comp size minSec : Nat) (im : List Byte) : VerifyResult :=
  if imageField im 0 1 ≠ 1 ∨ imageField im 1 1 ≠ comp then .component
  else if size < 256 + imageLength im ∨ im.length < 256 + imageLength im then .length
  else if Config.sm3 (imagePayload im) ≠ (im.drop 16).take 32 then .digest
  else if imageSecver im < minSec then .rollback
  else if signedOk s comp im then .ok
  else .signature

end Sys2Proof.Machine
end

