-- ==== Sys2Proof/Machine/Intake.lean ====
section
/-! DEFINITION. Hosted services: their settings, requests, batches, stream inputs and responses (R631 to R647, R651, R655 to
R661). -/

namespace Sys2Proof.Machine

/-! ### Settings -/

/-- Setting k of service slot i (R631). -/
def svcEnt (s : State) (i : Fin 64) (k : Nat) : Nat := entN s (0x7100 + i.1) k

/-- Changes service slot i. -/
def modSvc (s : State) (i : Fin 64) (g : Svc → Svc) : State := { s with svc := vmod s.svc i g }

/-- A counter of service slot i rises. -/
def bumpSvc (s : State) (i : Fin 64) (k n width : Nat) : State := bumpEnt s (0x7100 + i.1) k n width

/-- The slots as a list. -/
def allSlots : List (Fin 64) := List.finRange 64

/-- REPLICA is SPREAD or MIRRORED. -/
def replicated (s : State) (i : Fin 64) : Bool := decide (svcEnt s i 0x0B ≠ 0)

/-- The partner die of a MIRRORED pair, which is also the die whose mirror ring this die holds (R658). -/
def partnerDie (s : State) : Nat := s.dieIndex.1 ^^^ 1

/-! ### Responses (R636 to R638) -/

/-- STATUS values (R637). -/
inductive ReqStatus where
  | ok | malformed | capacity | stopping | skipped | fault
  deriving DecidableEq, Repr, Inhabited

/-- Value of a STATUS. -/
def ReqStatus.code : ReqStatus → Byte
  | .ok => 0 | .malformed => 1 | .capacity => 2 | .stopping => 3 | .skipped => 4 | .fault => 5

/-- The queue pair on which a response to a request taken over leaves: the lowest-numbered one in RTS with the DGID of the
original's queue pair, which this die's state does not hold (free value, R657). -/
def takenQp (s : State) : Option (BitVec 14) :=
  let dgid := (Config.freeWord s.free).toNat + (Config.freeWord (s.free + 1)).toNat * 2 ^ 64
  (s.abut.qps.find? (fun p => decide (2 ≤ p.1) && decide (p.2.state = 3) && decide (p.2.fld 192 128 = dgid))).map
    (fun p => BitVec.ofNat 14 p.1)

/-- Where a response goes; none when it is lost (R636, R657). -/
def replyTo (s : State) (r : Req) : Option Origin :=
  match r.origin with
  | .udp a p => some (.udp a p)
  | .rdma q => if r.taken then (takenQp s).map .rdma else some (.rdma q)

/-- A response leaves. -/
def sendReply (s : State) (i : Fin 64) (r : Req) (st : ReqStatus) (body : List Byte) : State :=
  let s1 := if r.taken then useFree s 2 else s
  match replyTo s r with
  | some o => emit s1 (.response o i r.reqId r.seqId r.stream r.cont st.code body)
  | none => bumpSvc s1 i 0x1E 1 32

/-- A request is answered and counted (R638). -/
def answerReq (s : State) (i : Fin 64) (r : Req) (st : ReqStatus) (body : List Byte) : State :=
  bumpSvc (sendReply s i r st body) i (if st = .ok then 0x15 else 0x16) 1 64

/-- Answers several requests with the same STATUS and no body. -/
def answerAll (s : State) (i : Fin 64) (rs : List Req) (st : ReqStatus) : State :=
  rs.foldl (fun t r => answerReq t i r st []) s

/-! ### MARK records of the runtime (R642, R645) -/

/-- A MARK record, when the log is enabled. -/
def runtimeMark (s : State) (payload : List Byte) : State := if logOn s then appendMark s payload else s

/-- MARK of a closed batch: the SEQ of each request, and its first folio, whose form the spec leaves open (free value). -/
def batchMark (s : State) (rs : List Req) : State :=
  runtimeMark (useFree s 1)
    ((rs.map (fun r => leBytes 8 r.seq)).flatten ++ leBytes 8 (Config.freeWord s.free).toNat)

/-! ### Batches (R640 to R642) -/

/-- The open batch closes: logged, counted under BATCHES_FULL or BATCHES_DEADLINE, and in flight. -/
def closeBatch (s : State) (i : Fin 64) (full : Bool) : State :=
  match (s.svc[i]).batch with
  | none => s
  | some b =>
    let s1 := batchMark (modSvc s i (fun x => { x with batch := none, flight := x.flight ++ b.2 })) b.2
    bumpSvc s1 i (if full then 0x17 else 0x18) 1 64

/-- The deadline of the open batch has passed. -/
def batchDue (s : State) (i : Fin 64) : Bool :=
  match (s.svc[i]).batch with
  | some b => elapsed s b.1 (1000 * svcEnt s i 7)
  | none => false

/-- The deadline lies strictly in the past, so that a request that comes now is ordered after the close. -/
def batchOver (s : State) (i : Fin 64) : Bool :=
  match (s.svc[i]).batch with
  | some b => decide (b.1.toNat + 1000 * svcEnt s i 7 < s.tb.ns.toNat)
  | none => false

/-- A request joins the open batch or opens one; the BATCH_FULL-th closes it. -/
def joinBatch (s : State) (i : Fin 64) (r : Req) : State :=
  let s1 := if batchOver s i then closeBatch s i false else s
  let b := match (s1.svc[i]).batch with
    | some b => (b.1, b.2 ++ [r])
    | none => (r.time, [r])
  let s2 := modSvc s1 i (fun x => { x with batch := some b })
  if svcEnt s i 6 ≤ b.2.length then closeBatch s2 i true else s2

/-! ### Stream inputs (R643, R644) -/

/-- A stream request takes its stream's place; the one that it supersedes is answered with SKIPPED. -/
def joinStream (s : State) (i : Fin 64) (r : Req) : State :=
  let x := s.svc[i]
  match x.streams.find? (fun st => decide (st.num = r.seqId)) with
  | none => modSvc s i (fun x => { x with streams := x.streams ++ [⟨r.seqId, some r, none⟩] })
  | some st =>
    let s1 := modSvc s i (fun x => { x with
      streams := modifyFirst (fun y => decide (y.num = r.seqId)) (fun y => { y with latest := some r }) x.streams })
    match st.latest with
    | some old => answerReq s1 i old .skipped []
    | none => s1

/-! ### Requests (R635, R637, R651) -/

/-- The 32-byte header of a request as a number. -/
def reqHeader (bytes : List Byte) : Nat := leNat (bytes.take 32)

/-- A request from its header. -/
def reqOf (seq : Nat) (o : Origin) (time : Word) (bytes : List Byte) : Req :=
  let h := reqHeader bytes
  ⟨seq, BitVec.ofNat 64 (fieldN h 64 64), BitVec.ofNat 64 (fieldN h 128 64), decide (fieldN h 16 1 = 1),
    decide (fieldN h 17 1 = 1), o, time, false, false⟩

/-- VER, the Reserved fields and LEN are valid. -/
def reqHeaderOk (bytes : List Byte) : Bool :=
  let h := reqHeader bytes
  decide (32 ≤ bytes.length) && decide (fieldN h 0 8 = 1) && decide (fieldN h 14 2 = 0) && decide (fieldN h 18 6 = 0)
    && decide (fieldN h 192 64 = 0) && decide (fieldN h 32 32 = bytes.length - 32)

/-- STREAM agrees with the service: stream inputs, numbered 1 to 2^32 − 1, on a cadence service (R647). -/
def streamOk (s : State) (i : Fin 64) (r : Req) : Bool :=
  if svcEnt s i 8 = 0 then !r.stream
  else r.stream && decide (1 ≤ r.seqId.toNat) && decide (r.seqId.toNat < 2 ^ 32)

/-- Key-value positions that a request needs: none without a sequence; otherwise a matter of the model (free value). -/
def needPositions (s : State) (i : Fin 64) (r : Req) : Nat :=
  if svcEnt s i 0x0D = 0 ∨ r.seqId = 0 ∨ r.stream = true then 0 else (Config.freeWord s.free).toNat % 2 ^ 24

/-- A request that its service takes: its positions are reserved, RETAIN_SEQ stays at or below it, and it waits. -/
def takeReq (s : State) (i : Fin 64) (r : Req) : State :=
  let need := needPositions s i r
  let s0 := useFree s 1
  if svcEnt s i 0x0F < need then answerReq s0 i r .capacity []
  else
    let s1 := setEnt s0 (0x7100 + i.1) 0x0F (svcEnt s i 0x0F - need)
    let s2 := if replicated s i && decide (r.seq < entN s 0x7010 8) then setEnt s1 0x7010 8 r.seq else s1
    if r.stream then joinStream s2 i r else joinBatch s2 i r

/-- A request for slot i. -/
def requestFor (s : State) (i : Fin 64) (r : Req) (ok : Bool) : State :=
  let st := (s.svc[i]).state
  if !ok || !streamOk s i r then answerReq s i r .malformed []
  else if st = 3 then answerReq s i r .stopping []
  else if st ≠ 2 then answerReq s i r .malformed []
  else takeReq s i r

/-- A message has become visible at an intake that belongs to the slots of a list; a message to no intake is no request. -/
def requestIn (s : State) (slots : List (Fin 64)) (o : Origin) (time : Word) (bytes : List Byte) : State :=
  let seq := if logOn s then s.log.head - 1 else 0
  let r := reqOf seq o time bytes
  let svc := fieldN (reqHeader bytes) 8 6
  match slots.find? (fun i => decide (i.1 = svc)), slots with
  | some i, _ => requestFor s i r (reqHeaderOk bytes)
  | none, i :: _ => answerReq s i r .malformed []
  | none, [] => s

/-- Slots whose intake is shared receive queue k. -/
def srqSlots (s : State) (k : Nat) : List (Fin 64) :=
  allSlots.filter (fun i => decide (svcEnt s i 5 = k) && decide (k ≠ 0) && decide (svcEnt s i 3 ≠ 1))

/-- Slots whose intake is a UDP port. -/
def udpSlots (s : State) (port : Nat) : List (Fin 64) :=
  allSlots.filter (fun i => decide (svcEnt s i 4 = port) && decide (port ≠ 0) && decide (svcEnt s i 3 ≠ 0))

/-! ### Mirrored values (R659 to R661) -/

/-- CRC-32C and length of a response body. -/
def bodyValues (body : List Byte) : BitVec 32 × BitVec 32 := (crc32c body, BitVec.ofNat 32 body.length)

/-- The response waits no longer. -/
def dropWait (s : State) (i : Fin 64) (reqId : Word) : State :=
  modSvc s i (fun x => { x with
    mirror := x.mirror.filter (fun w => decide (w.req.reqId ≠ reqId))
    peer := x.peer.filter (fun p => decide (p.1 ≠ reqId)) })

/-- The two values of a response meet: an agreement sends it; a disagreement runs the batch once more, and a second one
answers with FAULT. -/
def compareValues (s : State) (i : Fin 64) (w : MirrorWait) (crc len : BitVec 32) : State :=
  let s1 := dropWait s i w.req.reqId
  if (crc, len) = bodyValues w.body then answerReq s1 i w.req .ok w.body
  else if w.req.second then notifyEvent (bumpSvc (answerReq s1 i w.req .fault []) i 0x1C 1 32) 17 i.1 0
  else modSvc s1 i (fun x => { x with flight := x.flight ++ [{ w.req with second := true }] })

/-- A MIRRORED response is ready. -/
def mirrorReady (s : State) (i : Fin 64) (r : Req) (body : List Byte) : State :=
  if s.fault.dies.getLsbD (partnerDie s) then bumpSvc (answerReq s i r .ok body) i 0x1D 1 32
  else
    let w : MirrorWait := ⟨r, body, (bodyValues body).1, s.tb.ns⟩
    match (s.svc[i]).peer.find? (fun p => decide (p.1 = r.reqId)) with
    | some p => compareValues s i w p.2.1 p.2.2
    | none => modSvc s i (fun x => { x with mirror := x.mirror ++ [w] })

end Sys2Proof.Machine
end

