-- ==== Sys2Proof/Machine/Rdma.lean ====
section
/-! DEFINITION. The RDMA engine: requests and responses that arrive, admission, pacing, timers, and the send entries of a
queue pair (R596, R603 to R619). -/

namespace Sys2Proof.Machine

/-! ### Regions (R609, R610) -/

/-- Rights that an access needs. -/
inductive Right where
  | rwrite | rread | loc
  deriving DecidableEq, Repr, Inhabited

/-- The right is set in a region entry. -/
def Region.has (r : Region) : Right → Bool
  | .rwrite => r.rwrite
  | .rread => r.rread
  | .loc => r.loc

/-- First byte of the spare pool (R467). -/
def spareBase : Nat := 40448 * extBytes

/-- An access of n bytes under a key is valid for a queue pair's domain; an access of no bytes touches nothing. -/
def regionOk (s : State) (key : BitVec 32) (pd : Nat) (right : Right) (a n : Nat) : Bool :=
  let r := tget regionDefault s.tbl.regions (key.toNat % 16384)
  decide (n = 0) ||
    (r.valid && decide (r.keytag.toNat = key.toNat / 16384) && decide (r.pd.toNat = pd) && r.has right
      && decide (r.base.toNat ≤ a) && decide (a + n ≤ r.base.toNat + r.length.toNat) && gddrRange s.gddr a n
      && decide (a + n ≤ spareBase))

/-- Writes bytes to GDDR7. -/
def gddrStore (s : State) (a : Nat) (bs : List Byte) : State := modGddr s (fun g => gddrPutAll g (placed a bs))

/-! ### Receive entries (R606) -/

/-- A receive entry of a ring at a counter value. -/
def recvEntryAt (s : State) (r : Ring) : RecvEntry :=
  let e := gddrNat s (ringAddr r r.cons.toNat 16) 16
  ⟨r.cons, fieldN e 0 40, fieldN e 64 32, BitVec.ofNat 32 (fieldN e 96 32)⟩

/-- Takes an entry of shared receive queue k; falling below LIMIT clears it and interrupts. -/
def takeSrq (s : State) (k : Nat) : Option (State × RecvEntry) :=
  let q := srqOf s k
  if !q.active || decide (ringUsed q.ring = 0) then none
  else
    let r : Ring := { q.ring with cons := q.ring.cons + 1 }
    let low := decide (ringUsed r < q.limit.toNat)
    let s1 := modSrq s k (fun q => { q with ring := r, limit := if low then 0 else q.limit })
    some (if low then raise s1 5 k 0 else s1, recvEntryAt s q.ring)

/-- Takes the next receive entry of queue pair n. -/
def takeRecvEntry (s : State) (n : Nat) : Option (State × RecvEntry) :=
  let q := qpOf s n
  if q.fld 19 1 = 1 then takeSrq s (q.fld 152 10)
  else if ringUsed q.rq = 0 then none
  else some (modQp s n (fun q => { q with rq := { q.rq with cons := q.rq.cons + 1 } }), recvEntryAt s q.rq)

/-- The completion of a receive entry. -/
def entryDone (s : State) (n : Nat) (e : RecvEntry) (status bytes : Nat) (imm : Option (BitVec 32)) (time : Nat) : State :=
  complete s (qpOf s n).rqcq
    (mkCompletion e.count.toNat n (if imm.isSome then 0x11 else 0x10) status bytes ((imm.getD 0).toNat) time)

/-! ### Admission (R614 to R616) -/

/-- Class of a DSCP. -/
def dscpClass (s : State) (d : BitVec 6) : BitVec 3 :=
  if d.toNat = entN s 0x6020 5 then 3 else if d.toNat = entN s 0x6020 6 then 2 else 0

/-- Bytes of a class in the ingress buffer. -/
def classBytes (s : State) (c : BitVec 3) : Nat :=
  sumN ((s.abut.ingress.filter (fun x => decide (x.cls = c))).map (·.bytes))

/-- Bytes of a queue pair in the ingress buffer. -/
def qpBytes (s : State) (n : Nat) : Nat :=
  sumN ((s.abut.ingress.filter (fun x => decide (x.qp.toNat = n))).map (·.bytes))

/-- Reservation of a class in bytes. -/
def resvBytes (s : State) (c : BitVec 3) : Nat := 1024 * entN s 0x6020 (if c = 3 then 1 else if c = 2 then 2 else 3)

/-- A request packet finds room: its queue pair is below its cap, and what exceeds the reservations fits the remainder. -/
def admits (s : State) (n : Nat) (p : RocePacket) : Bool :=
  let cls := dscpClass s p.dscp
  let shared := 16777216 - (resvBytes s 0 + resvBytes s 2 + resvBytes s 3)
  let excess := fun (c : BitVec 3) => classBytes s c + (if c = cls then p.payload.length else 0) - resvBytes s c
  decide (qpBytes s n < 1024 * entN s 0x6020 4) && decide (excess 0 + excess 2 + excess 3 ≤ shared)

/-- The packet enters the ingress buffer. -/
def enterIngress (s : State) (n : Nat) (p : RocePacket) : State :=
  { s with abut := { s.abut with ingress := s.abut.ingress
      ++ [⟨BitVec.ofNat 14 n, dscpClass s p.dscp, p.payload.length, decide (p.kind = .readReq)⟩] } }

/-- The entry of the buffer that drains next: the oldest of the highest class (R616). -/
def nextIngress (s : State) : Option Ingress :=
  match s.abut.ingress.find? (fun x => decide (x.cls = 3)) with
  | some x => some x
  | none =>
    match s.abut.ingress.find? (fun x => decide (x.cls = 2)) with
    | some x => some x
    | none => s.abut.ingress.head?

/-- A request leaves the buffer. -/
def drainIngress (s : State) : State :=
  match nextIngress s with
  | none => s
  | some x => { s with abut := { s.abut with ingress := eraseFirst (fun y => decide (y = x)) s.abut.ingress } }

/-- INGRESS_DRAIN. -/
def execIngressDrain (s : State) : Outc := onlyIf (unitsOn s && decide (s.abut.ingress ≠ [])) s (drainIngress s)

/-! ### The responder (R596, R603, R606, R610, R615) -/

/-- The oldest RoCEv2 packet of the engine. -/
def rxHead (s : State) : Option RocePacket := s.abut.rx.head?

/-- The oldest packet is taken. -/
def popRx (s : State) : State := { s with abut := { s.abut with rx := s.abut.rx.drop 1 } }

/-- A packet with a kind that a row handles is the oldest. -/
def rxReady (s : State) (k : RoceKind → Bool) : Bool :=
  unitsOn s && (match rxHead s with | some p => k p.kind | none => false)

/-- Sends an answer of queue pair n. -/
def answer (s : State) (n : Nat) (k : RoceKind) (psn : BitVec 24) : State := roceOut s n (qpPacket (qpOf s n) k psn)

/-- RNR NAK: the packet is discarded, and the ones after it until it comes again (R615). -/
def rnrAnswer (s : State) (n : Nat) (p : RocePacket) : State :=
  let s1 := answer s n (.rnrNak (BitVec.ofNat 5 ((qpOf s n).fld 115 5))) p.psn
  bumpEnt (modQp s1 n (fun q => { q with gap := true })) 0x6030 3 1 64

/-- A NAK after which the queue pair enters ERROR. -/
def nakError (s : State) (n : Nat) (code : BitVec 5) (p : RocePacket) : State := qpError (answer s n (.nak code) p.psn) n 6

/-- The entry of the message in progress completes with an error of its own, and the queue pair enters ERROR. -/
def entryError (s : State) (n : Nat) (e : RecvEntry) (status : Nat) (code : BitVec 5) (p : RocePacket) : State :=
  nakError (entryDone (modQp s n (fun q => { q with inc := none })) n e status 0 p.imm p.time) n code p

/-- A packet before the expected one: acknowledged again (R596). -/
def ackAgain (s : State) (n : Nat) : State := answer s n .ack ((qpOf s n).recvPsn - 1)

/-- A packet after the expected one: one NAK asks for the missing packet (R596). -/
def askMissing (s : State) (n : Nat) : State :=
  let q := qpOf s n
  if q.gap then s else answer (modQp s n (fun q => { q with gap := true })) n (.nak 0) q.recvPsn

/-- Handles the oldest packet as a request: one that repeats, one that comes early, or the expected one. -/
def onRequest (s : State) (again serve : State → Nat → RocePacket → State) : State :=
  match rxHead s with
  | none => s
  | some p =>
    let n := p.qpn.toNat
    let q := qpOf s n
    let s1 := popRx s
    if q.state ≠ 2 ∧ q.state ≠ 3 then s1
    else if p.psn = q.recvPsn then serve (modQp s1 n (fun q => { q with gap := false })) n p
    else if psnLe p.psn q.recvPsn then again s1 n p
    else askMissing s1 n

/-- The message that the packet belongs to, with the entry that its first packet consumes. -/
inductive Joined where
  | msg (s : State) (m : InMsg)
  | noEntry
  | invalid

/-- Joins a SEND or WRITE packet to its message (R606). -/
def joinMsg (s : State) (n : Nat) (p : RocePacket) (write : Bool) : Joined :=
  match (qpOf s n).inc with
  | some m => if p.first || decide (m.write ≠ write) then .invalid else .msg s m
  | none =>
    if !p.first then .invalid
    else if !write || p.imm.isSome then
      match takeRecvEntry s n with
      | some (s1, e) => .msg s1 ⟨write, some e, p.va.toNat, p.rkey, 0⟩
      | none => .noEntry
    else .msg s ⟨write, none, p.va.toNat, p.rkey, 0⟩

/-- A SEND whose entry came from a shared receive queue may be a request of a service (R635). -/
def sendRequest (s : State) (n : Nat) (p : RocePacket) (m : InMsg) : State :=
  match m.entry with
  | some e =>
    if m.write || !p.last || decide ((qpOf s n).fld 19 1 = 0) then s
    else requestIn s (srqSlots s ((qpOf s n).fld 152 10)) (.rdma (BitVec.ofNat 14 n)) (BitVec.ofNat 64 p.time)
      (gddrBytesAt s.gddr e.addr m.got)
  | none => s

/-- The packet is taken: its place in the order and in its message; the last one completes the entry, and an acknowledgement
goes out at the end of a message and at least every 16 packets. -/
def packetDone (s : State) (n : Nat) (p : RocePacket) (m : InMsg) : State :=
  let m1 := { m with got := m.got + p.payload.length }
  let s1 := modQp s n (fun q => { q with recvPsn := p.psn + 1, inc := if p.last then none else some m1 })
  let s2 := match m.entry with
    | some e => if p.last then entryDone s1 n e 0 m1.got p.imm p.time else s1
    | none => s1
  sendRequest (if p.last || decide (p.psn.toNat % 16 = 15) then answer s2 n .ack p.psn else s2) n p m1

/-- A packet of a SEND within its message. -/
def sendData (s0 s : State) (n : Nat) (p : RocePacket) (m : InMsg) (e : RecvEntry) : State :=
  if e.len < m.got + p.payload.length then entryError s n e 1 1 p
  else if !regionOk s e.lkey ((qpOf s n).fld 0 16) .loc (e.addr + m.got) p.payload.length then entryError s n e 7 3 p
  else
    match recordInput s 2 n (e.addr + m.got) p.payload with
    | none => rnrAnswer s0 n p
    | some s1 => packetDone (gddrStore (enterIngress s1 n p) (e.addr + m.got) p.payload) n p m

/-- A packet of a WRITE within its message. -/
def writeData (s0 s : State) (n : Nat) (p : RocePacket) (m : InMsg) : State :=
  let a := m.va + m.got
  if !regionOk s m.rkey ((qpOf s n).fld 0 16) .rwrite a p.payload.length then nakError s n 2 p
  else
    match recordInput s 1 n a p.payload with
    | none => rnrAnswer s0 n p
    | some s1 => packetDone (gddrStore (enterIngress s1 n p) a p.payload) n p m

/-- A SEND or WRITE packet in its turn. -/
def dataIn (write : Bool) (s : State) (n : Nat) (p : RocePacket) : State :=
  if !admits s n p || (p.first && cqHolds s (qpOf s n)) then rnrAnswer s n p
  else
    match joinMsg s n p write with
    | .invalid => nakError s n 1 p
    | .noEntry => rnrAnswer s n p
    | .msg s1 m =>
      match write, m.entry with
      | false, some e => sendData s s1 n p m e
      | _, _ => writeData s s1 n p m

/-- A SEND, or a request that the engine does not support (R596). -/
def isSend : RoceKind → Bool
  | .send => true
  | .unsupported => true
  | _ => false

/-- A SEND in its turn; an unsupported request is answered with NAK Invalid Request. -/
def sendIn (s : State) (n : Nat) (p : RocePacket) : State :=
  if p.kind = .unsupported then answer s n (.nak 1) p.psn else dataIn false s n p

/-- ROCE_SEND_IN. -/
def execRoceSendIn (s : State) : Outc :=
  onlyIf (rxReady s isSend) s (onRequest s (fun t n _ => ackAgain t n) sendIn)

/-- ROCE_WRITE_IN. -/
def execRoceWriteIn (s : State) : Outc :=
  onlyIf (rxReady s (fun k => decide (k = .write))) s (onRequest s (fun t n _ => ackAgain t n) (dataIn true))

/-- READs of a queue pair that the responder has not served (R596). -/
def readsHeld (s : State) (n : Nat) : Nat :=
  (s.abut.ingress.filter (fun x => x.read && decide (x.qp.toNat = n))).length

/-- The response packets of a READ. -/
def readResponses (s : State) (q : Qp) (p : RocePacket) : List RocePacket :=
  let bs := gddrBytesAt s.gddr p.va.toNat p.dmaLen.toNat
  let n := psnCount p.dmaLen.toNat q.mtu
  (List.range n).map (fun i =>
    { qpPacket q .readResp (p.psn + BitVec.ofNat 24 i) with
      first := decide (i = 0), last := decide (i + 1 = n), payload := (bs.drop (i * q.mtu)).take q.mtu })

/-- The READ is validated and served (R610, R697). -/
def serveReadIn (s : State) (n : Nat) (p : RocePacket) : State :=
  let q := qpOf s n
  if !regionOk s p.rkey (q.fld 0 16) .rread p.va.toNat p.dmaLen.toNat then nakError s n 2 p
  else
    match gddrLost s.gddr p.va.toNat p.dmaLen.toNat with
    | some a => nakError (gddrError s none .none a) n 3 p
    | none => roceOutAll s n (readResponses s q p)

/-- A READ in its turn. -/
def readIn (s : State) (n : Nat) (p : RocePacket) : State :=
  if !admits s n p || cqHolds s (qpOf s n) then rnrAnswer s n p
  else if 16 ≤ readsHeld s n then answer s n (.nak 1) p.psn
  else
    let k := psnCount p.dmaLen.toNat (qpOf s n).mtu
    serveReadIn (modQp (enterIngress s n p) n (fun q => { q with recvPsn := p.psn + BitVec.ofNat 24 k })) n p

/-- ROCE_READ_IN. -/
def execRoceReadIn (s : State) : Outc :=
  onlyIf (rxReady s (fun k => decide (k = .readReq))) s (onRequest s serveReadIn readIn)

/-! ### The requester (R596, R611 to R613) -/

/-- The oldest message of a queue pair is complete. -/
def finishMsg (s : State) (n : Nat) (m : OutMsg) : State :=
  let s1 := modQp s n (fun q => { q with
    out := q.out.drop 1, inReads := if m.opc = 4 then q.inReads - 1 else q.inReads })
  match m.car with
  | some (f, c) => if m.opc = 4 then pieceArrived s1 f c m.win m.data else windowAcked s1 f c m.win
  | none => sendCompletion s1 n m none

/-- Every message up to a PSN is acknowledged; a READ waits for its data. -/
def ackUpTo : Nat → State → Nat → BitVec 24 → State
  | 0, s, _, _ => s
  | k + 1, s, n, psn =>
    match (qpOf s n).out with
    | [] => s
    | m :: _ =>
      if psnLe m.lastPsn psn && (decide (m.opc ≠ 4) || decide (m.got = m.len)) then ackUpTo k (finishMsg s n m) n psn else s

/-- An acknowledgement up to a PSN: progress resets the retry counts. -/
def acked (s : State) (n : Nat) (psn : BitVec 24) : State :=
  let q := qpOf s n
  let s1 := if psnLe q.unaPsn psn then
      modQp s n (fun q => { q with unaPsn := psn + 1, retries := 0, rnrs := 0, ackedAt := s.tb.ns })
    else s
  ackUpTo q.out.length s1 n psn

/-- The READ that a response packet continues: the oldest message, at the place it has reached. -/
def readOf (s : State) (n : Nat) (p : RocePacket) : Option OutMsg :=
  let q := qpOf s n
  match q.out.find? (fun m => decide (m.opc = 4)) with
  | some m => if p.psn = m.firstPsn + BitVec.ofNat 24 (m.got / q.mtu) then some m else none
  | none => none

/-- Global destination address of the copy of a Carriage: ARG of a READ_RESP record (R538). -/
def copyDst (s : State) (f : FormeIx) (c : Fin 8) : Nat :=
  match (carOf s f c).entry with
  | some e => (descOf e.desc).dst
  | none => 0

/-- The record of a READ response for a Carriage; none when it must wait (R541, R543). -/
def recordResponse (s : State) (n : Nat) (m : OutMsg) (bs : List Byte) : Option State :=
  match m.car with
  | some (f, c) => recordInput s 3 n (copyDst s f c) bs
  | none => some s

/-- Data of a READ arrives. -/
def readData (s : State) (n : Nat) (p : RocePacket) : State :=
  match readOf s n p with
  | none => s
  | some m =>
    let bs := p.payload.take (m.len - m.got)
    match recordResponse s n m bs with
    | none => s
    | some s1 =>
      let s2 := if m.car.isSome then s1 else gddrStore s1 (m.laddr + m.got) bs
      let m1 := { m with got := m.got + bs.length, data := if m.car.isSome then m.data ++ bs else [] }
      acked (modQp s2 n (fun q => { q with out := modifyFirst (fun x => decide (x = m)) (fun _ => m1) q.out })) n p.psn

/-- The queue pair's retry count is used up (R596). -/
def retry (s : State) (n : Nat) (psn : BitVec 24) : State :=
  let q := qpOf s n
  if q.fld 109 3 ≤ q.retries then qpError s n 4
  else resendFrom (modQp s n (fun q => { q with retries := q.retries + 1 })) n psn

/-- A NAK: sequence error, Invalid Request, Remote Access Error, or Remote Operational Error, whose completion status the
spec does not give (free value). -/
def nakIn (s : State) (n : Nat) (code : BitVec 5) (psn : BitVec 24) : State :=
  let s1 := acked s n (psn - 1)
  if code = 0 then retry s1 n psn
  else if code = 1 then qpError s1 n 3
  else if code = 2 then qpError s1 n 2
  else if code = 3 then qpError (useFree s1 1) n ((Config.freeWord s1.free).toNat % 256)
  else s1

/-- RNR timer codes in nanoseconds (InfiniBand, PRESUMED). -/
def rnrTimerNs (code : BitVec 5) : Nat :=
  1000 * ([655360, 10, 20, 30, 40, 60, 80, 120, 160, 240, 320, 480, 640, 960, 1280, 1920, 2560, 3840, 5120, 7680, 10240,
    15360, 20480, 30720, 40960, 61440, 81920, 122880, 163840, 245760, 327680, 491520].getD code.toNat 0)

/-- An RNR NAK starts the RNR timer. -/
def rnrNakIn (s : State) (n : Nat) (timer : BitVec 5) (psn : BitVec 24) : State :=
  modQp (acked s n (psn - 1)) n (fun q => { q with rnrTill := some (s.tb.ns + BitVec.ofNat 64 (rnrTimerNs timer)) })

/-- A PSN of something that has been sent and is not acknowledged. -/
def psnOpen (q : Qp) (psn : BitVec 24) : Bool := decide (q.out ≠ []) && psnLe q.unaPsn psn && psnLe psn (q.sendPsn - 1)

/-- A response kind. -/
def isResponse : RoceKind → Bool
  | .ack => true
  | .readResp => true
  | .nak _ => true
  | .rnrNak _ => true
  | _ => false

/-- What a response does to the requester of its queue pair. -/
def responseKind (s : State) (n : Nat) (p : RocePacket) : State :=
  match p.kind with
  | .ack => acked s n p.psn
  | .readResp => readData (acked s n (p.psn - 1)) n p
  | .nak code => nakIn s n code p.psn
  | .rnrNak timer => rnrNakIn s n timer p.psn
  | _ => s

/-- A response in a queue pair in RTS, for something outstanding. -/
def responseIn (s : State) : State :=
  match rxHead s with
  | none => s
  | some p =>
    let n := p.qpn.toNat
    let q := qpOf s n
    if q.state = 3 ∧ psnOpen q p.psn = true then pumpCopies (responseKind (popRx s) n p) else popRx s

/-- A READ response that the log must record waits while the log cannot (R543). -/
def responseHeld (s : State) : Bool :=
  match rxHead s with
  | some p => match p.kind, readOf s p.qpn.toNat p with
    | .readResp, some m => (recordResponse s p.qpn.toNat m p.payload).isNone
    | _, _ => false
  | none => false

/-- ROCE_RESPONSE_IN. -/
def execRoceResponseIn (s : State) : Outc := onlyIf (rxReady s isResponse && !responseHeld s) s (responseIn s)

/-- The ACK timeout has passed (R596, R598). -/
def ackTimeoutReady (s : State) (n : Nat) : Bool :=
  let q := qpOf s n
  unitsOn s && decide (q.state = 3) && decide (q.out ≠ []) && q.rnrTill.isNone && decide (q.fld 104 5 ≠ 0)
    && elapsed s q.ackedAt (4096 * 2 ^ q.fld 104 5)

/-- ACK_TIMEOUT. -/
def execAckTimeout (qp : BitVec 14) (s : State) : Outc :=
  onlyIf (ackTimeoutReady s qp.toNat) s (pumpCopies (retry s qp.toNat (qpOf s qp.toNat).unaPsn))

/-- The RNR timer has run out. -/
def rnrTimerReady (s : State) (n : Nat) : Bool :=
  let q := qpOf s n
  unitsOn s && decide (q.state = 3) && (match q.rnrTill with | some t => decide (t.toNat ≤ s.tb.ns.toNat) | none => false)

/-- The requester sends again, or its RNR retry count is used up; 7 is without limit (R598). -/
def rnrRetry (s : State) (n : Nat) : State :=
  let q := qpOf s n
  if q.fld 112 3 ≠ 7 ∧ q.fld 112 3 ≤ q.rnrs then qpError s n 5
  else resendFrom (modQp s n (fun q => { q with rnrTill := none, rnrs := q.rnrs + 1 })) n q.unaPsn

/-- RNR_TIMER. -/
def execRnrTimer (qp : BitVec 14) (s : State) : Outc := onlyIf (rnrTimerReady s qp.toNat) s (pumpCopies (rnrRetry s qp.toNat))

/-! ### Pacing (R618, R619) -/

/-- g = CC_G / 65,536. -/
def ccG (s : State) : Frac := ⟨Int.ofNat (entN s 0x6020 9), 65536⟩

/-- a − b. -/
def Frac.minus (a b : Frac) : Frac := a.add b.neg

/-- The larger of two rates. -/
def maxFrac (a b : Frac) : Frac := if a.lt b then b else a
/-- The smaller of two rates. -/
def minFrac (a b : Frac) : Frac := if a.lt b then a else b

/-- A CNP acts on a queue pair. -/
def cnpAct (s : State) (x : Pace) : Pace :=
  let half : Frac := ⟨1, 2⟩
  let rc := maxFrac (x.rc.mul (Frac.minus ⟨1, 1⟩ (x.alpha.mul half))) ⟨Int.ofNat (entN s 0x6020 12), 1⟩
  { x with rt := x.rc, rc := rc, alpha := ((Frac.minus ⟨1, 1⟩ (ccG s)).mul x.alpha).add (ccG s), periods := 0
           actedAt := some s.tb.ns }

/-- A CNP acts at most once every 4 µs. -/
def cnpDue (s : State) (x : Pace) : Bool :=
  match x.actedAt with
  | some t => elapsed s t 4000
  | none => true

/-- A received CNP. -/
def cnpEffect (s : State) : State :=
  match rxHead s with
  | none => s
  | some p =>
    let n := p.qpn.toNat
    let s1 := popRx s
    if (qpOf s n).state ≠ 2 ∧ (qpOf s n).state ≠ 3 then s1
    else
      let s2 := bumpEnt s1 0x6030 5 1 64
      if entN s 0x6020 8 = 0 then s2
      else modQp s2 n (fun q =>
        let x := if cnpDue s q.pace then cnpAct s q.pace else q.pace
        { q with pace := { x with tickAt := s.tb.ns } })

/-- CNP_IN. -/
def execCnpIn (s : State) : Outc := onlyIf (rxReady s (fun k => decide (k = .cnp))) s (cnpEffect s)

/-- A period of CC_TIMER_US has passed without a CNP. -/
def ccTimerReady (s : State) (n : Nat) : Bool :=
  let q := qpOf s n
  unitsOn s && decide (entN s 0x6020 8 = 1) && (decide (q.state = 2) || decide (q.state = 3))
    && elapsed s q.pace.tickAt (1000 * entN s 0x6020 10)

/-- The end of such a period: α decays, and the rate rises towards its target. -/
def ccTick (s : State) (x : Pace) : Pace :=
  let rt := if x.periods < 5 then x.rt else minFrac lineRate (x.rt.add ⟨Int.ofNat (entN s 0x6020 11), 1⟩)
  { x with alpha := (Frac.minus ⟨1, 1⟩ (ccG s)).mul x.alpha, rt := rt, rc := (rt.add x.rc).mul ⟨1, 2⟩
           periods := x.periods + 1, tickAt := s.tb.ns }

/-- CC_TIMER. -/
def execCcTimer (qp : BitVec 14) (s : State) : Outc :=
  onlyIf (ccTimerReady s qp.toNat) s (modQp s qp.toNat (fun q => { q with pace := ccTick s q.pace }))

/-! ### Send entries (R605) -/

/-- The 64 bytes of the next send entry of queue pair n. -/
def sqEntry (s : State) (n : Nat) : Nat := let r := (qpOf s n).sq; gddrNat s (ringAddr r r.cons.toNat 64) 64

/-- OPC of the next send entry. -/
def sqOpc (s : State) (n : Nat) : Nat := fieldN (sqEntry s n) 0 8

/-- The queue pair may take its next send entry. -/
def sqReady (s : State) (n : Nat) : Bool :=
  unitsOn s && maySend s (qpOf s n) && decide (ringUsed (qpOf s n).sq ≠ 0)

/-- FENCE is satisfied, and a READ has room (R596, R605). -/
def entryMayGo (s : State) (n : Nat) : Bool :=
  let q := qpOf s n
  (decide (fieldN (sqEntry s n) 9 1 = 0) || decide (q.inReads = 0)) && (decide (sqOpc s n ≠ 4) || readRoom q)

/-- An entry of a Reliable Connected queue pair with one of these operations is next. -/
def sendReady (s : State) (n : Nat) (k : Nat → Bool) : Bool :=
  decide (2 ≤ n) && sqReady s n && k (sqOpc s n) && entryMayGo s n

/-- The message of a send entry. -/
def entryMsg (e : Nat) : OutMsg :=
  { blankMsg with
    opc := BitVec.ofNat 8 (fieldN e 0 8), sig := decide (fieldN e 8 1 = 1), wrid := BitVec.ofNat 64 (fieldN e 320 64)
    len := fieldN e 32 32, laddr := fieldN e 96 40, raddr := BitVec.ofNat 64 (fieldN e 192 64)
    rkey := BitVec.ofNat 32 (fieldN e 256 32), imm := BitVec.ofNat 32 (fieldN e 288 32), posted := true }

/-- The entry is taken from the ring. -/
def takeSq (s : State) (n : Nat) : State := modQp s n (fun q => { q with sq := { q.sq with cons := q.sq.cons + 1 } })

/-- The local side of an entry may be used: its length, its region and, where it is read, its stored bytes. -/
def localOk (s : State) (n e : Nat) (m : OutMsg) : Bool :=
  decide (m.len ≤ 2 ^ 31) && regionOk s (BitVec.ofNat 32 (fieldN e 64 32)) ((qpOf s n).fld 0 16) .loc m.laddr m.len
    && (decide (m.opc = 4) || (gddrLost s.gddr m.laddr m.len).isNone)

/-- An entry that cannot be executed completes with a status, and the queue pair enters ERROR. -/
def entryFails (s : State) (n : Nat) (m : OutMsg) (status : Nat) : State := qpError (sendCompletion s n m (some status)) n 6

/-- Executes the next send entry of a Reliable Connected queue pair. -/
def sendEntry (s : State) (n : Nat) : State :=
  let e := sqEntry s n
  let m := entryMsg e
  let s1 := takeSq s n
  if 4 < m.opc.toNat ∨ localOk s n e m = false then entryFails s1 n m 7 else postMsg s1 n m

/-- SEND; it also takes an entry whose OPC no row of R605 lists for the queue pair. -/
def execSend (qp : BitVec 14) (s : State) : Outc :=
  onlyIf (sendReady s qp.toNat (fun k => decide (k = 0) || decide (4 < k))) s (sendEntry s qp.toNat)
/-- SEND_IMM. -/
def execSendImm (qp : BitVec 14) (s : State) : Outc :=
  onlyIf (sendReady s qp.toNat (fun k => decide (k = 1))) s (sendEntry s qp.toNat)
/-- WRITE. -/
def execWrite (qp : BitVec 14) (s : State) : Outc :=
  onlyIf (sendReady s qp.toNat (fun k => decide (k = 2))) s (sendEntry s qp.toNat)
/-- WRITE_IMM. -/
def execWriteImm (qp : BitVec 14) (s : State) : Outc :=
  onlyIf (sendReady s qp.toNat (fun k => decide (k = 3))) s (sendEntry s qp.toNat)
/-- READ. -/
def execRead (qp : BitVec 14) (s : State) : Outc :=
  onlyIf (sendReady s qp.toNat (fun k => decide (k = 4))) s (sendEntry s qp.toNat)

/-! ### RAW frames (R602, R605, R621) -/

/-- Largest frame without FCS (R589). -/
def maxFrame : Nat := 4220

/-- The completion of a RAW frame. -/
def rawCompletion (wrid : Word) (bytes time : Nat) : BitVec 256 := mkCompletion wrid.toNat 0 8 0 bytes 0 time

/-- A RAW frame has left: its completion carries the egress timestamp with TSREQ, at once at a wired port and after the report
of R593 otherwise; without TSREQ, or for a frame that is lost, the spec gives TIME no value (free value). -/
def rawSent (s : State) (m : OutMsg) (tsreq : Bool) : State :=
  let cq := (qpOf s 0).sqcq
  if !m.sig then s
  else if tsreq && decide (s.abut.link = 3) then complete s cq (rawCompletion m.wrid m.len s.tb.ns.toNat)
  else if tsreq && decide (s.abut.link = 0) then
    { s with abut := { s.abut with raws := s.abut.raws ++ [(s.abut.nextTag, m.wrid, m.len)], nextTag := s.abut.nextTag + 1 } }
  else complete (useFree s 1) cq (rawCompletion m.wrid m.len (Config.freeWord s.free).toNat)

/-- Executes the next entry of QP 0. -/
def rawEntry (s : State) : State :=
  let e := sqEntry s 0
  let m := entryMsg e
  let s1 := takeSq s 0
  let tsreq := decide (fieldN e 10 1 = 1)
  if m.opc ≠ 8 ∨ localOk s 0 e m = false then entryFails s1 0 m 7
  else if maxFrame < m.len then entryFails s1 0 m 1
  else rawSent (ethToPort s1 tsreq s.abut.nextTag (gddrBytesAt s.gddr m.laddr m.len)) m tsreq

/-- RAW. -/
def execRaw (s : State) : Outc := onlyIf (sqReady s 0) s (rawEntry s)

/-- A timestamp report completes the RAW frame of its tag (R593). -/
def rawReport (s : State) (tag : BitVec 32) (time : Nat) : State :=
  match s.abut.raws.find? (fun r => decide (r.1 = tag)) with
  | none => s
  | some r =>
    let s1 : State := { s with abut := { s.abut with raws := s.abut.raws.filter (fun x => decide (x.1 ≠ tag)) } }
    complete s1 (qpOf s 0).sqcq (rawCompletion r.2.1 r.2.2 time)

end Sys2Proof.Machine
end

