-- ==== Sys2Proof/Machine/RdmaObj.lean ====
section
/-! DEFINITION. ABUT.OBJ_CMD and ABUT.DOORBELL: states of queue pairs, CQs and SRQs, and their counters (R597 to R604). -/

namespace Sys2Proof.Machine

/-! ### ABUT.OBJ_CMD (R601 to R603) -/

/-- Reasons for which a command is refused (R601). -/
inductive ObjRefusal where
  | transition | context | notable
  deriving DecidableEq, Repr, Inhabited

/-- Value of a reason in RSN. -/
def ObjRefusal.code : ObjRefusal → BitVec 3
  | .transition => 2
  | .context => 3
  | .notable => 4

/-- QP_TABLE_BASE, CQ_TABLE_BASE or SRQ_TABLE_BASE by object kind. -/
def objBase (s : State) (obj : Nat) : Nat := entN s 0x6010 (obj + 1)

/-- The 256 bytes of the context of queue pair n. -/
def qpContext (s : State) (n : Nat) : BitVec 2048 := BitVec.ofNat 2048 (gddrNat s (objBase s 0 + 256 * n) 256)

/-- Reserved fields of a ring descriptor are zero (R599). -/
def ringReservedZero (x : Nat) : Bool := decide (fieldN x 45 3 = 0) && decide (fieldN x 96 32 = 0)

/-- Reserved fields of a context are zero (R598); RQRING is ignored with USE_SRQ. -/
def ctxReservedZero (c : Nat) : Bool :=
  decide (fieldN c 29 3 = 0) && decide (fieldN c 126 2 = 0) && decide (fieldN c 162 14 = 0) && decide (fieldN c 368 16 = 0)
    && decide (fieldN c 640 1408 = 0) && ringReservedZero (fieldN c 384 128)
    && (decide (fieldN c 19 1 = 1) || ringReservedZero (fieldN c 512 128))

/-- The context of a Reliable Connected queue pair is accepted. -/
def ctxOk (s : State) (c : Nat) : Bool :=
  ctxReservedZero c && decide (fieldN c 25 4 ≤ 11) && decide (1 ≤ fieldN c 16 3) && decide (fieldN c 16 3 ≤ 5)
    && (cqOf s (fieldN c 128 12)).active && (cqOf s (fieldN c 140 12)).active
    && (decide (fieldN c 19 1 = 0) || (decide (fieldN c 152 10 ≠ 0) && (srqOf s (fieldN c 152 10)).active))

/-- The context of QP 0 is accepted: only SQRING and DSCP may be non-zero, and CQ 0 is active (R602). -/
def ctx0Ok (s : State) (c : Nat) : Bool :=
  decide (c - fieldN c 384 128 * 2 ^ 384 - fieldN c 120 6 * 2 ^ 120 = 0) && ringReservedZero (fieldN c 384 128)
    && (cqOf s 0).active

/-- A queue pair with a context that has just been read. -/
def loadQp (c : BitVec 2048) (state : BitVec 3) : Qp :=
  let psn := BitVec.ofNat 24 (fieldN c.toNat 56 24)
  { qpDefault 0 with
    state := state, ctx := c, sq := ringOf (fieldN c.toNat 384 128), rq := ringOf (fieldN c.toNat 512 128)
    sendPsn := psn, unaPsn := psn, recvPsn := BitVec.ofNat 24 (fieldN c.toNat 80 24) }

/-- A queue pair returns to RESET: its context is dropped, and the copies that use it fail. -/
def resetQp (s : State) (n : Nat) : State :=
  let s1 := if n = 0 then { s with abut := { s.abut with raws := [] } } else s
  failCopies (modQp s1 n (fun _ => qpDefault n)) n

/-- A transition of a queue pair from 2 upward. -/
def qpTransition (s : State) (n target : Nat) : ObjRefusal ⊕ State :=
  let q := qpOf s n
  let c := qpContext s n
  if target = 0 then .inr (resetQp s n)
  else if target = 4 then .inr (qpError s n 6)
  else if target = q.state.toNat + 1 then
    (if target = 1 then
      (if ctxOk s c.toNat then .inr (modQp s n (fun _ => loadQp c 1)) else .inl .context)
    else .inr (modQp s n (fun q => { q with state := BitVec.ofNat 3 target, ackedAt := s.tb.ns, pace := { q.pace with tickAt := s.tb.ns } })))
  else .inl .transition

/-- A transition of QP 0. -/
def qp0Transition (s : State) (target : Nat) : ObjRefusal ⊕ State :=
  let c := qpContext s 0
  if target = 0 then .inr (resetQp s 0)
  else if target = 4 then .inr (qpError s 0 6)
  else if target = 3 ∧ (qpOf s 0).state = 0 then
    (if ctx0Ok s c.toNat then .inr (modQp s 0 (fun _ => loadQp c 3)) else .inl .context)
  else .inl .transition

/-- A command for a queue pair. -/
def qpCommand (s : State) (n target : Nat) : ObjRefusal ⊕ State :=
  if n = 1 then .inl .context
  else if objBase s 0 = 0 then .inl .notable
  else if n = 0 then qp0Transition s target
  else qpTransition s n target

/-- Some queue pair that is not in RESET names an object. -/
def qpNames (s : State) (k : Qp → Bool) : Bool := s.abut.qps.any (fun p => decide (p.2.state ≠ 0) && k p.2)

/-- A command for a CQ: 4096 of them (R597). -/
def cqCommand (s : State) (n target : Nat) : ObjRefusal ⊕ State :=
  let e := gddrNat s (objBase s 1 + 32 * n) 32
  if 4096 ≤ n then .inl .context
  else if objBase s 1 = 0 then .inl .notable
  else if target = 0 then
    (if qpNames s (fun q => decide (q.sqcq = n) || decide (q.rqcq = n)) then .inl .context
    else .inr (modCq s n (fun _ => cqDefault n)))
  else if target = 1 ∧ (cqOf s n).active = false then
    (if ringReservedZero (fieldN e 0 128) && decide (fieldN e 128 128 = 0) then
      .inr (modCq s n (fun _ => ⟨true, ringOf (fieldN e 0 128), false, []⟩))
    else .inl .context)
  else .inl .transition

/-- A command for an SRQ: 1024 of them (R597). -/
def srqCommand (s : State) (n target : Nat) : ObjRefusal ⊕ State :=
  let e := gddrNat s (objBase s 2 + 32 * n) 32
  if 1024 ≤ n then .inl .context
  else if objBase s 2 = 0 then .inl .notable
  else if target = 0 then
    (if qpNames s (fun q => decide (q.fld 19 1 = 1) && decide (q.fld 152 10 = n)) then .inl .context
    else .inr (modSrq s n (fun _ => srqDefault n)))
  else if target = 1 ∧ (srqOf s n).active = false then
    (if ringReservedZero (fieldN e 0 128) && decide (fieldN e 144 112 = 0) then
      .inr (modSrq s n (fun _ => ⟨true, ringOf (fieldN e 0 128), BitVec.ofNat 16 (fieldN e 128 16)⟩))
    else .inl .context)
  else .inl .transition

/-- The command that OBJ_CMD names; OBJ 3 is reserved and refused as a context (log 18). -/
def objCommand (s : State) (n obj target : Nat) : ObjRefusal ⊕ State :=
  if obj = 0 then qpCommand s n target
  else if obj = 1 then cqCommand s n target
  else if obj = 2 then srqCommand s n target
  else .inl .context

/-- Changes OBJ_CMD. -/
def modCmd (s : State) (g : ObjCmd → ObjCmd) : State := { s with abut := { s.abut with cmd := g s.abut.cmd } }

/-- A write of ABUT.OBJ_CMD; a command runs to its end at once. -/
def writeObjCmd (s : State) (v : Word) : State :=
  let s1 := modCmd s (fun c => { c with
    num := BitVec.ofNat 14 (field v 0 14), obj := BitVec.ofNat 2 (field v 14 2), target := BitVec.ofNat 3 (field v 16 3)
    done := w1c c.done v 21, refused := w1c c.refused v 22 })
  if bit v 19 then
    match objCommand s1 (field v 0 14) (field v 14 2) (field v 16 3) with
    | .inr t => pumpCopies (modCmd t (fun c => { c with done := true }))
    | .inl r => modCmd s1 (fun c => { c with refused := true, rsn := r.code })
  else s1

/-- STATE of the object that NUM and OBJ name. -/
def objState (s : State) : Nat :=
  let n := s.abut.cmd.num.toNat
  if s.abut.cmd.obj = 0 then (qpOf s n).state.toNat
  else if s.abut.cmd.obj = 1 then b2n (cqOf s n).active
  else if s.abut.cmd.obj = 2 then b2n (srqOf s n).active
  else 0

/-- ABUT.OBJ_CMD as it reads. -/
def objCmdWord (s : State) : Word :=
  let c := s.abut.cmd
  pack [(c.num.toNat, 0), (c.obj.toNat, 14), (c.target.toNat, 16), (b2n c.done, 21), (b2n c.refused, 22), (c.rsn.toNat, 23),
    (objState s, 26)]

/-- A write of OBJ_CMD that starts a command for an object kind. -/
def objReady (s : State) (v : Word) (obj : Nat) : Bool := unitsOn s && bit v 19 && decide (field v 14 2 = obj)

/-- QP_STATE_CMD. -/
def execQpStateCmd (v : Word) (s : State) : Outc := onlyIf (objReady s v 0) s (writeObjCmd s v)
/-- CQ_STATE_CMD. -/
def execCqStateCmd (v : Word) (s : State) : Outc := onlyIf (objReady s v 1) s (writeObjCmd s v)
/-- SRQ_STATE_CMD. -/
def execSrqStateCmd (v : Word) (s : State) : Outc := onlyIf (objReady s v 2) s (writeObjCmd s v)

/-! ### ABUT.DOORBELL (R604) -/

/-- A new producer count is accepted: not backwards, and at most the ring ahead of the consumer. -/
def prodOk (r : Ring) (x : BitVec 24) : Bool :=
  decide ((x - r.prod).toNat < 2 ^ 23) && decide ((x - r.cons).toNat ≤ 2 ^ r.log2n.toNat)

/-- A new consumer count is accepted: not backwards, and not past the producer. -/
def consOk (r : Ring) (x : BitVec 24) : Bool :=
  decide ((x - r.cons).toNat < 2 ^ 23) && decide ((r.prod - x).toNat ≤ 2 ^ r.log2n.toNat)

/-- A doorbell that is discarded. -/
def doorbellError (s : State) : State := bumpEnt s 0x6030 6 1 32

/-- New send entries; in ERROR they complete with FLUSHED at once (R603). -/
def ringSq (s : State) (n : Nat) (x : BitVec 24) : State :=
  let q := qpOf s n
  if n ≠ 1 ∧ q.state ≠ 0 ∧ prodOk q.sq x = true then
    let s1 := modQp s n (fun q => { q with sq := { q.sq with prod := x } })
    if q.state = 4 then flushSq (ringUsed (qpOf s1 n).sq) s1 n else s1
  else doorbellError s

/-- New receive entries. QP 0 and a queue pair that takes its entries from an SRQ have no receive ring. -/
def ringRq (s : State) (n : Nat) (x : BitVec 24) : State :=
  let q := qpOf s n
  if 2 ≤ n ∧ q.state ≠ 0 ∧ q.fld 19 1 = 0 ∧ prodOk q.rq x = true then
    let s1 := modQp s n (fun q => { q with rq := { q.rq with prod := x } })
    if q.state = 4 then flushRq (ringUsed (qpOf s1 n).rq) s1 n else s1
  else doorbellError s

/-- New entries of a shared receive queue. -/
def ringSrq (s : State) (n : Nat) (x : BitVec 24) : State :=
  let q := srqOf s n
  if q.active && prodOk q.ring x then modSrq s n (fun q => { q with ring := { q.ring with prod := x } })
  else doorbellError s

/-- A CQ's consumer count; room lets waiting completions in, and held queue pairs go on. -/
def ringCq (s : State) (n : Nat) (x : BitVec 24) (arm : Bool) : State :=
  let q := cqOf s n
  if q.active && consOk q.ring x then
    let s1 := modCq s n (fun q => { q with ring := { q.ring with cons := x }, armed := q.armed || arm })
    pumpCopies (flushCq q.wait.length s1 n)
  else doorbellError s

/-- A write of ABUT.DOORBELL. -/
def writeDoorbell (s : State) (v : Word) : State :=
  let n := field v 0 14
  let x := BitVec.ofNat 24 (field v 16 24)
  if field v 14 2 = 0 then ringSq s n x
  else if field v 14 2 = 1 then ringRq s n x
  else if field v 14 2 = 2 then ringSrq s n x
  else ringCq s n x (bit v 40)

/-- A doorbell of a kind of ring. -/
def bellReady (s : State) (v : Word) (ring : Nat) : Bool := unitsOn s && decide (field v 14 2 = ring)

/-- SQ_DOORBELL. -/
def execSqDoorbell (v : Word) (s : State) : Outc := onlyIf (bellReady s v 0) s (writeDoorbell s v)
/-- RQ_DOORBELL. -/
def execRqDoorbell (v : Word) (s : State) : Outc := onlyIf (bellReady s v 1) s (writeDoorbell s v)
/-- SRQ_DOORBELL. -/
def execSrqDoorbell (v : Word) (s : State) : Outc := onlyIf (bellReady s v 2) s (writeDoorbell s v)
/-- CQ_DOORBELL. -/
def execCqDoorbell (v : Word) (s : State) : Outc := onlyIf (bellReady s v 3) s (writeDoorbell s v)

end Sys2Proof.Machine
end

