-- ==== Sys2Proof/Machine/Press.lean ====
section
/-! DEFINITION. Press accumulates (spec/04) and what they add to quire memory (spec/05 R186 to R218). -/

namespace Sys2Proof.Machine

/-! ### One product (R186 to R189, R212, R213) -/

/-- A value on the grid of 2^−112. -/
def gridInt (q : Frac) : Int := (q.scale2 112).floor

/-- The contribution of an exact product, as an integer on the 2^−112 grid (none for NaR), and its flags (R188). -/
def contribution (scaled : Bool) (a b : Val) : Option Int × Flg :=
  match a.mul b with
  | .zero _ => (some 0, Flg.none)
  | .real p =>
    if !scaled then (some (gridInt p), Flg.none)
    else if (Frac.pow2 78).le p.abs then (some (if p.num < 0 then -(2 ^ 190 : Int) else 2 ^ 190), ⟨true, false, false⟩)
    else
      let t := gridInt p.abs
      let q := if p.num < 0 then -t else t
      (some q, ⟨false, false, !Frac.eqv ⟨t, 2 ^ 112⟩ p.abs⟩)
  | _ => (none, ⟨false, true, false⟩)

/-- An exact sum, or NaR. -/
abbrev Sum := Option Int

/-- Adds a contribution to a sum. -/
def addSum (acc : Sum × Flg) (x : Option Int × Flg) : Sum × Flg :=
  (match acc.1, x.1 with | some a, some b => some (a + b) | _, _ => none, acc.2.or x.2)

/-- Sum of the contributions of pairs of elements. -/
def sumPairs (scaled : Bool) (ps : List (Elem × Elem)) : Sum × Flg :=
  ps.foldl (fun acc p => addSum acc (contribution scaled (p.1.val false).1 (p.2.val false).1)) (some 0, Flg.none)

/-- A binary32 pattern stands for a real number or a zero. -/
def f32Finite (v : Val) : Bool := match v with | .real _ => true | .zero _ => true | _ => false

/-- g1_step of R212 on the running pattern; R213 fixes the rounding. -/
def g1Step (subn : Bool) (acc : Nat × Flg) (p : Elem × Elem) : Nat × Flg :=
  let x := (decodeScalar .f32 false acc.1).1
  let a := p.1.val subn
  let b := p.2.val subn
  if !f32Finite x || !f32Finite a.1 || !f32Finite b.1 then (0x7FC00000, acc.2.or ⟨false, true, false⟩)
  else
    let g := acc.2.or ⟨false, false, a.2 || b.2⟩
    let y := x.add (a.1.mul b.1)
    let e := encodeScalar .f32 false subn y .rne
    (e.pat, g.or e.flg)

/-- The running value after pairs of elements in increasing k. -/
def g1Sum (subn : Bool) (start : Nat) (ps : List (Elem × Elem)) : Nat × Flg := ps.foldl (g1Step subn) (start, Flg.none)

/-! ### Folding (R154, R163 to R170, R192) -/

/-- Steps between swaps (R192). -/
def spillInterval (c : Nat) : Nat := [4096, 256, 512, 1024, 2048, 4096, 8192, 16384].getD c 4096

/-- K range of a weight block (R154). -/
def kRange (wt : Fmt) (ganged : Bool) : Nat :=
  if ganged then 64 else match wt with | .q2 => 256 | .q1 => 512 | _ => 128

/-- The active Presses with the width that each presents: its gang columns in ganged mode (R141, R166). -/
def activePresses (fm : Forme) (ganged : Bool) : List (Fin 4 × Nat) :=
  ((List.finRange 4).filter (fun p => fm.pu.active.getLsbD p.1)).map (fun p =>
    (p, if ganged then (fm.pu.presses[p]).width.toNat / 2 else (fm.pu.presses[p]).width.toNat))

/-- The logical width of a Forme (R166). -/
def logicalWidth (ps : List (Fin 4 × Nat)) : Nat := sumN (ps.map (·.2))

/-- The columns of a chunk handed out in ascending Press index: Press, first column, columns (R166). -/
def handOut : List (Fin 4 × Nat) → Nat → Nat → List (Fin 4 × Nat × Nat)
  | [], _, _ => []
  | (p, w) :: rest, n0, left => if left = 0 then [] else (p, n0, min w left) :: handOut rest (n0 + min w left) (left - w)

/-- The N chunks of an accumulate. -/
def nChunks (ps : List (Fin 4 × Nat)) (n : Nat) : List (List (Fin 4 × Nat × Nat)) :=
  let w := logicalWidth ps
  (List.range (ceilDiv n w)).map (fun i => handOut ps (i * w) (min w (n - i * w)))

/-- Starts and lengths of consecutive parts of at most m. -/
def parts (n m : Nat) : List (Nat × Nat) := (List.range (ceilDiv n m)).map (fun i => (i * m, min m (n - i * m)))

/-! ### The accumulate at the head of PQ -/

/-- Fields of the PACC at the head of PQ. -/
def headPacc (s : State) (f : FormeIx) : PWord := pword (headOf s f .pq).word

/-- Its operand records. -/
def paccRec (s : State) (f : FormeIx) (p : Nat) : Rec := (headOf s f .pq).opRec p

/-- Tile kind that the operand pair selects, and whether the pair is a G1 pair (R137, R138). -/
def headPair (s : State) (f : FormeIx) : Nat × Bool :=
  (pairKind (paccRec s f 0).format (paccRec s f 1).format).getD (1, false)

/-- Pairs of R137 that use ganged cells. -/
def isGanged (kind : Nat) (act : Fmt) : Bool := decide (kind = 2) || (decide (kind = 3) && decide (fmtBits act = 16))

/-- The pair is scaled (R187). -/
def pairScaled (a b : Fmt) : Bool :=
  (match a with | .bp8 => true | .rs8 => true | _ => false) || (match b with | .bp8 => true | .rs8 => true | _ => false)

/-- Activation element A[m][k] in the orientation of R144. -/
def actElem (s : State) (f : FormeIx) (m k : Nat) : Elem :=
  let p := (paccRec s f 0).plane
  if (headPacc s f).mode then p.elem (galleyRd (s.forme f)) m k else p.elem (galleyRd (s.forme f)) k m

/-- Weight element B[k][n] as the Galley holds it. -/
def galleyWeight (s : State) (f : FormeIx) (k n : Nat) : Elem := (paccRec s f 1).plane.elem (galleyRd (s.forme f)) k n

/-- REUSE applies: the Presses hold weights of the same N, K and format (R160). -/
def reuses (s : State) (f : FormeIx) : Bool :=
  let w := headPacc s f
  w.mode && w.reuse &&
  (match (s.forme f).pu.held with
   | some h => decide (h.n = w.n) && decide (h.k = w.k) && decide (h.fmt = (paccRec s f 1).format)
   | none => false)

/-- Weight element B[k][n] that the Presses use: the held one under REUSE, with the tensor scale of this accumulate (R146,
R160). -/
def weightElem (s : State) (f : FormeIx) (k n : Nat) : Elem :=
  let g := galleyWeight s f k n
  if reuses s f then
    match (s.forme f).pu.held with
    | some h => { (h.w.getD k []).getD n default with ts := g.ts }
    | none => g
  else g

/-- Products of element (m, n) for some steps. -/
def pairsOf (s : State) (f : FormeIx) (m n : Nat) (ks : Nat × Nat) : List (Elem × Elem) :=
  (List.range ks.2).map (fun i => (actElem s f m (ks.1 + i), weightElem s f (ks.1 + i) n))

/-! ### Tiles -/

/-- Offset in quire memory of element (m, n) of an accumulate's grid. -/
def accOff (kind tile cols m n : Nat) : Nat := entryOff kind tile cols m n

/-- Width of D by kind (R199). -/
def dWidth (kind : Nat) : Nat := if kind = 2 then 288 else 224

/-- The exact entry at an offset: none for NaR. -/
def readDeep (fm : Forme) (kind off : Nat) : Option Int :=
  let w := dWidth kind
  let d := readLe fm.quire.byte off (kindBytes kind) % 2 ^ w
  if d = 2 ^ (w - 1) then none else some (toSigned w d)

/-- The bytes of an exact entry (R199, R200). -/
def deepBytes (kind : Nat) (x : Option Int) : List Byte :=
  let w := dWidth kind
  leBytes (kindBytes kind) (match x with | none => 2 ^ (w - 1) | some d => ofSigned w d)

/-- A sum brought into the range of R200, and whether it saturated (R203). -/
def saturateDeep (kind : Nat) (d : Int) : Int × Bool :=
  let m : Int := 2 ^ (dWidth kind - 1) - 1
  if m < d then (m, true) else if d < -m then (-m, true) else (d, false)

/-- The entry of an element after a window or a partial sum, with OVF when it saturates (R202, R203). -/
def updateEntry (fm : Forme) (kind off : Nat) (v : AccVal) : List Byte × Bool :=
  match v with
  | .f32 p => (leBytes 4 p, false)
  | .nar => (deepBytes kind none, false)
  | .sum fresh d =>
    match (if fresh then some 0 else readDeep fm kind off) with
    | none => (deepBytes kind none, false)
    | some old => let r := saturateDeep kind (old + d); (deepBytes kind (some r.1), r.2)

/-- An update reads the entry that it changes. -/
def AccVal.reads : AccVal → Bool
  | .sum fresh _ => !fresh
  | _ => false

/-- Flags of tiles by first slot. -/
abbrev TileFlags := List (Nat × Bool × Bool × Bool)

/-- Adds flags of one tile. -/
def addFlags (t : TileFlags) (slot : Nat) (g : Flg) : TileFlags :=
  if g = Flg.none then t
  else if t.any (fun p => decide (p.1 = slot)) then
    t.map (fun p => if p.1 = slot then (slot, p.2.1 || g.ovf, p.2.2.1 || g.nar, p.2.2.2 || g.flush) else p)
  else t ++ [(slot, g.ovf, g.nar, g.flush)]

/-- A tile of the grid starts from exact zero: INIT, or KIND of NONE (R208, R211). -/
def startsFresh (fm : Forme) (init : Bool) (slot : Nat) : Bool := init || decide (tileKind fm slot = 0)

/-- R211: every tile of the grid has the kind of the pair at its own first slot, or no kind. -/
def kindFits (fm : Forme) (kind : Nat) (tiles : List (Nat × Nat × Nat)) : Bool :=
  tiles.all (fun t => decide (tileKind fm t.1 = 0) || (decide (tileKind fm t.1 = kind) && decide (tileBase fm t.1 = t.1)))

/-- KIND, BASE and KCOUNT of the grid as the accumulate writes them (R208, R210, R211). -/
def claimGrid (fm : Forme) (kind : Nat) (init : Bool) (k : Nat) (tiles : List (Nat × Nat × Nat)) : Forme :=
  tiles.foldl (fun fm t =>
    let fm1 := if startsFresh fm init t.1 then claimRun (dropOverlap fm kind t.1) kind t.1 else fm
    addKcount fm1 t.1 k) fm

/-! ### Windows of an outer-product accumulate (R148, R149, R168) -/

/-- Rows of an M block: gang rows in ganged mode. -/
def blockRows (ganged : Bool) : Nat := if ganged then 64 else 128

/-- One element of a window over the steps ks: what it brings, and its flags. -/
def windowVal (s : State) (f : FormeIx) (kind : Nat) (g1 : Bool) (m n : Nat) (ks : Nat × Nat) : AccVal × Flg :=
  let w := headPacc s f
  let fm := s.forme f
  let slot := entrySlot kind w.tile w.n m n
  let fresh := startsFresh fm w.init slot
  if g1 then
    let start := if fresh then 0 else readLe fm.quire.byte (accOff kind w.tile w.n m n) 4
    let r := g1Sum (ctlOf w.cvt).subn start (pairsOf s f m n (0, w.k))
    (.f32 r.1, r.2)
  else
    let r := sumPairs (pairScaled (paccRec s f 0).format (paccRec s f 1).format) (pairsOf s f m n ks)
    (match r.1 with | none => .nar | some d => .sum (fresh && decide (ks.1 = 0)) d, r.2)

/-- The windows of one swap of a pass: one for each Press with columns in the chunk. -/
def swapWindows (s : State) (f : FormeIx) (kind : Nat) (g1 : Bool) (no : Nat) (mb : Nat × Nat)
    (share : List (Fin 4 × Nat × Nat)) (ks : Nat × Nat) : List (AccWin × TileFlags) :=
  let w := headPacc s f
  share.map (fun c =>
    let cells := (List.range mb.2).map (fun i => (List.range c.2.2).map (fun j =>
      (entrySlot kind w.tile w.n (mb.1 + i) (c.2.1 + j), windowVal s f kind g1 (mb.1 + i) (c.2.1 + j) ks)))
    (⟨(headOf s f .pq).index, no, c.1, w.tile, BitVec.ofNat 2 kind, w.n, mb.1, c.2.1, c.2.2,
      (cells.map (fun r => r.map (fun x => x.2.1))).flatten⟩,
     cells.flatten.foldl (fun t x => addFlags t x.1 x.2.2) []))

/-- The swaps of an outer-product accumulate in order: pass by pass, N chunk outermost, and within a pass by spill interval
(R149, R168, R216). -/
def outerWindows (s : State) (f : FormeIx) (kind : Nat) (g1 ganged : Bool) : List (AccWin × TileFlags) :=
  let w := headPacc s f
  let ks := if g1 then [(0, w.k)] else parts w.k (spillInterval w.spill)
  let passes := ((nChunks (activePresses (s.forme f) ganged) w.n).map (fun share =>
    ((parts w.m (blockRows ganged)).map (fun mb => ks.map (fun k => (mb, share, k)))).flatten)).flatten
  (passes.zipIdx.map (fun p => swapWindows s f kind g1 p.2 p.1.1 p.1.2.1 p.1.2.2)).flatten

/-! ### Weight-stationary accumulates (R153 to R170) -/

/-- The partial sums of one element, K fold by K fold, into its entry. -/
def foldEntry (s : State) (f : FormeIx) (kind m n kr : Nat) (fm : Forme) (t : TileFlags) : Forme × TileFlags :=
  let w := headPacc s f
  let slot := entrySlot kind w.tile w.n m n
  let off := accOff kind w.tile w.n m n
  let fresh := startsFresh (s.forme f) w.init slot
  let scaled := pairScaled (paccRec s f 0).format (paccRec s f 1).format
  (parts w.k kr).foldl (fun acc ks =>
    let r := sumPairs scaled (pairsOf s f m n ks)
    let v := match r.1 with | none => AccVal.nar | some d => .sum (fresh && decide (ks.1 = 0)) d
    let u := updateEntry acc.1 kind off v
    ({ acc.1 with quire := acc.1.quire.putAll (placed off u.1) }, addFlags acc.2 slot (r.2.or ⟨u.2, false, false⟩))) (fm, t)

/-- Every element of a weight-stationary accumulate. -/
def stationary (s : State) (f : FormeIx) (kind kr : Nat) (fm : Forme) : Forme × TileFlags :=
  let w := headPacc s f
  (grid w.m w.n (fun m n => (m, n))).flatten.foldl (fun acc p => foldEntry s f kind p.1 p.2 kr acc.1 acc.2) (fm, [])

/-- The weights that the Presses hold after an accumulate with K of at least 1 (R160). -/
def heldAfter (s : State) (f : FormeIx) (kr width : Nat) : Option Held :=
  let w := headPacc s f
  if w.mode && decide (w.n ≤ width) && decide (w.k ≤ kr) then
    some ⟨w.n, w.k, (paccRec s f 1).format, grid w.k w.n (weightElem s f)⟩
  else none

/-! ### PACC (R175, R211, R219 to R223, R403) -/

/-- Slots of the grid of the accumulate at the head of PQ. -/
def headSlots (s : State) (f : FormeIx) : Nat × Nat :=
  let w := headPacc s f
  gridSlots (headPair s f).1 w.tile w.m w.n

/-- Slots that a drain or a status instruction uses. -/
def vqSlots (fm : Forme) (e : QEntry) : Option (Nat × Nat) :=
  if e.op = 0x30 then let d := dword e.word; some (gridSlots (tileKind fm d.tile) d.tile d.m d.n)
  else if e.op = 0x31 ∨ e.op = 0x32 then let t := tword e.word; some (t.first, t.last + 1 - t.first)
  else none

/-- An earlier drain, TSSAVE or TSLOAD that waits in VQ shares a slot (R220, R222). -/
def drainWaits (fm : Forme) (index : BitVec 24) (slots : Nat × Nat) : Bool :=
  fm.q.vq.any (fun e => decide (e.index.toNat < index.toNat)
    && (match vqSlots fm e with | some x => slotsMeet x slots | none => false))

/-- Slots of an accumulate in progress. -/
def accSlots (a : Acc) : Nat × Nat := gridSlots a.kind.toNat a.tile a.rows a.cols

/-- A window of another accumulate is pending on shared slots. -/
def winsPending (fm : Forme) (slots : Nat × Nat) : Bool :=
  fm.pu.accs.any (fun a => slotsMeet (accSlots a) slots && fm.pu.wins.any (fun w => decide (w.index = a.index)))

/-- PACC may leave the head of PQ: earlier drains of its slots are done (R220), a change of mode waits for the windows of
earlier accumulates (R173), and a G1 accumulate loads only settled entries (R215). -/
def paccReady (s : State) (f : FormeIx) : Bool :=
  let fm := s.forme f
  let w := headPacc s f
  headIs s f .pq 0x20 && !drainWaits fm (headOf s f .pq).index (headSlots s f)
    && (!w.mode || decide (fm.pu.wins = [])) && (!(headPair s f).2 || !winsPending fm (headSlots s f))

/-- Galley ranges that the accumulate reads; held weights are not read again (R160). -/
def paccGalley (s : State) (f : FormeIx) : List (Nat × Nat) :=
  let w := headPacc s f
  let b := paccRec s f 1
  if w.k = 0 then []
  else if reuses s f then (paccRec s f 0).plane.ranges w.m w.k ++ (if b.format = .rs8 then [(b.sbase, 4)] else [])
  else paccReads w (paccRec s f 0) b

/-- Quire-memory ranges of the entries that a direct update or a G1 load reads. -/
def paccQuire (s : State) (f : FormeIx) : List (Nat × Nat) :=
  let w := headPacc s f
  let kind := (headPair s f).1
  if w.k = 0 || !(w.mode || (headPair s f).2) then []
  else ((gridTiles kind w.tile w.m w.n).filter (fun t => !startsFresh (s.forme f) w.init t.1)).flatMap (fun t =>
    let side := kindSide kind
    (List.range (min side (w.m - t.2.1 * side))).map (fun r =>
      (t.1 * 0x10000 + r * side * kindBytes kind, min side (w.n - t.2.2 * side) * kindBytes kind)))

/-- The accumulate is in progress; what it adds is waiting in windows, or already in quire memory. -/
def beginAcc (s : State) (f : FormeIx) (s1 : State) : State :=
  let w := headPacc s f
  let e := headOf s f .pq
  let kind := (headPair s f).1
  let ganged := isGanged kind (paccRec s f 0).format
  let tiles := gridTiles kind w.tile w.m w.n
  let acc (t : TileFlags) : Acc := ⟨e.index, w.tile, w.m, w.n, BitVec.ofNat 2 kind, w.k, w.init, t⟩
  if w.k = 0 then
    modForme s1 f (fun fm =>
      let fm1 := if w.init then claimGrid fm kind true 0 tiles else fm
      { fm1 with pu := { fm1.pu with accs := fm1.pu.accs ++ [acc []] } })
  else
    let kr := kRange (paccRec s f 1).format ganged
    let width := logicalWidth (activePresses (s.forme f) ganged)
    let held := heldAfter s f kr width
    modForme s1 f (fun fm =>
      if w.mode then
        let r := stationary s f kind kr fm
        let fm1 := claimGrid r.1 kind w.init w.k tiles
        { fm1 with pu := { fm1.pu with accs := fm1.pu.accs ++ [acc r.2], held := held } }
      else
        let ws := outerWindows s f kind (headPair s f).2 ganged
        let t := ws.foldl (fun t x => x.2.foldl (fun t y => addFlags t y.1 ⟨y.2.1, y.2.2.1, y.2.2.2⟩) t) []
        let fm1 := claimGrid fm kind w.init w.k tiles
        { fm1 with pu := { fm1.pu with
            accs := fm1.pu.accs ++ [acc t], wins := fm1.pu.wins ++ ws.map (·.1), held := held } })

/-- What PACC does. -/
def paccEffect (s : State) (f : FormeIx) : State :=
  let fm := s.forme f
  let w := headPacc s f
  let e := headOf s f .pq
  let kind := (headPair s f).1
  if fm.pu.active = 0 then progError s f .noPress (queueCode .pq) 0 e.index
  else if !w.init && decide (1 ≤ w.k) && !kindFits fm kind (gridTiles kind w.tile w.m w.n) then
    progError s f .tileKind (queueCode .pq) 0 e.index
  else
    match galleyBad fm f (paccGalley s f) with
    | some err => storedError (issueHead s f .pq true none none) f err
    | none =>
      match quireBad fm f (paccQuire s f) with
      | some err => storedError (issueHead s f .pq true none none) f err
      | none => beginAcc s f (issueHead s f .pq false none none)

/-- PACC. -/
def execPacc (f : FormeIx) (s : State) : Outc := onlyIf (paccReady s f) s (paccEffect s f)

/-! ### WINDOW_SWAP (R149, R172) -/

/-- The window of a Press that swaps next: the oldest of that Press, when no other swap is due before its own. -/
def nextWindow (fm : Forme) (p : Fin 4) : Option AccWin :=
  match fm.pu.wins with
  | [] => none
  | h :: t => (h :: t).find? (fun w => decide (w.press = p) && decide (w.index = h.index) && decide (w.pass = h.pass))

/-- The swap may happen. -/
def swapReady (s : State) (f : FormeIx) (p : Fin 4) : Bool := unitsOn s && (nextWindow (s.forme f) p).isSome

/-- Offsets and values of a window, row by row. -/
def winCells (w : AccWin) : List (Nat × Nat × AccVal) :=
  w.vals.zipIdx.map (fun p =>
    let m := w.m0 + p.2 / w.width
    let n := w.n0 + p.2 % w.width
    (entrySlot w.kind.toNat w.tile w.cols m n, accOff w.kind.toNat w.tile w.cols m n, p.1))

/-- Entries that the write-back of a window reads. -/
def winReads (w : AccWin) : List (Nat × Nat) :=
  ((winCells w).filter (fun c => c.2.2.reads)).map (fun c => (c.2.1, kindBytes w.kind.toNat))

/-- Removes a window. -/
def dropWindow (fm : Forme) (w : AccWin) : Forme :=
  { fm with pu := { fm.pu with wins := eraseFirst (fun x => decide (x.index = w.index) && decide (x.pass = w.pass)
      && decide (x.press = w.press)) fm.pu.wins } }

/-- Writes one element of a window back, collecting OVF of its tile. -/
def writeBack (kind : Nat) (acc : Forme × TileFlags) (c : Nat × Nat × AccVal) : Forme × TileFlags :=
  let u := updateEntry acc.1 kind c.2.1 c.2.2
  ({ acc.1 with quire := acc.1.quire.putAll (placed c.2.1 u.1) }, addFlags acc.2 c.1 ⟨u.2, false, false⟩)

/-- The window is written back into its tiles and cleared. -/
def landWindow (fm : Forme) (w : AccWin) : Forme :=
  let r := (winCells w).foldl (writeBack w.kind.toNat) (dropWindow fm w, [])
  { r.1 with pu := { r.1.pu with accs := r.1.pu.accs.map (fun a =>
      if a.index = w.index then
        { a with flags := r.2.foldl (fun t y => addFlags t y.1 ⟨y.2.1, y.2.2.1, y.2.2.2⟩) a.flags }
      else a) } }

/-- What a swap does; an entry that fails parity ends the folio and is left as it is (R689). -/
def swapEffect (s : State) (f : FormeIx) (p : Fin 4) : State :=
  match nextWindow (s.forme f) p with
  | none => s
  | some w =>
    match quireBad (s.forme f) f (winReads w) with
    | some err => storedError (modForme s f (fun fm => dropWindow fm w)) f err
    | none => modForme s f (fun fm => landWindow fm w)

/-- WINDOW_SWAP. -/
def execWindowSwap (f : FormeIx) (p : Fin 4) (s : State) : Outc := onlyIf (swapReady s f p) s (swapEffect s f p)

/-! ### ACCUMULATE_COMPLETE (R172, R174) -/

/-- The last update of an accumulate has been made; zeroing under K = 0 waits for every earlier one (R174). -/
def accDone (fm : Forme) (a : Acc) : Bool :=
  fm.pu.wins.all (fun w => decide (w.index ≠ a.index))
    && (decide (a.k ≠ 0) || !a.init || fm.pu.wins.all (fun w => decide (a.index.toNat < w.index.toNat)))

/-- The oldest accumulate whose last update has been made. -/
def doneAcc (fm : Forme) : Option Acc := fm.pu.accs.find? (accDone fm)

/-- An accumulate with INIT that was issued later covers a slot. -/
def coveredLater (fm : Forme) (a : Acc) (slot : Nat) : Bool :=
  fm.pu.accs.any (fun b => b.init && decide (a.index.toNat < b.index.toNat) && slotsMeet (accSlots b) (slot, 1))

/-- Exact zero (+0 in a binary32 tile) in the logical region (R174). -/
def zeroRegion (fm : Forme) (a : Acc) : Forme :=
  let kind := a.kind.toNat
  (grid a.rows a.cols (fun m n => accOff kind a.tile a.cols m n)).flatten.foldl (fun fm off =>
    { fm with quire := fm.quire.putAll (placed off (List.replicate (kindBytes kind) 0)) }) fm

/-- The flags of an accumulate reach the tile status words (R209, R242). -/
def settleFlags (fm : Forme) (a : Acc) : Forme :=
  a.flags.foldl (fun fm t =>
    if coveredLater fm a t.1 then
      let ev := (setTileFlags fm t.1 ⟨t.2.1, t.2.2.1, t.2.2.2⟩ false).pu.events
      { fm with pu := { fm.pu with events := ev } }
    else setTileFlags fm t.1 ⟨t.2.1, t.2.2.1, t.2.2.2⟩ false) fm

/-- What completion does. -/
def accEffect (fm : Forme) : Forme :=
  match doneAcc fm with
  | none => fm
  | some a =>
    let fm1 := if a.k = 0 ∧ a.init = true then zeroRegion fm a else fm
    let fm2 := settleFlags fm1 a
    markDone { fm2 with pu := { fm2.pu with accs := eraseFirst (fun b => decide (b.index = a.index)) fm2.pu.accs } } a.index

/-- ACCUMULATE_COMPLETE. -/
def execAccumulateComplete (f : FormeIx) (s : State) : Outc :=
  onlyIf (unitsOn s && (doneAcc (s.forme f)).isSome) s (modForme s f accEffect)

end Sys2Proof.Machine
end

