-- ==== Sys2Proof/Machine/Drain.lean ====
section
/-! DEFINITION. Drains and status-word instructions of VQ (R205 to R241, R406 to R410, R417, R418). -/

namespace Sys2Proof.Machine

/-! ### Ordering (R219 to R222) -/

/-- Slots of the grid of a PACC that waits in PQ. -/
def queuedSlots (e : QEntry) : Nat × Nat :=
  let w := pword e.word
  gridSlots ((pairKind (e.opRec 0).format (e.opRec 1).format).getD (1, false)).1 w.tile w.m w.n

/-- Every accumulate dispatched before an instruction and sharing its slots is complete (R219). -/
def accsSettled (fm : Forme) (index : BitVec 24) (slots : Nat × Nat) : Bool :=
  fm.q.pq.all (fun e => decide (index.toNat ≤ e.index.toNat) || !slotsMeet (queuedSlots e) slots)
    && fm.pu.accs.all (fun a => decide (index.toNat ≤ a.index.toNat) || !slotsMeet (accSlots a) slots)

/-! ### DRAIN -/

/-- Fields of the DRAIN at the head of VQ. -/
def headDrain (s : State) (f : FormeIx) : DWord := dword (headOf s f .vq).word

/-- Its side record. -/
def headSide (s : State) (f : FormeIx) : Side := sideOf ((headOf s f .vq).recs.getD 2 0)

/-- Its destinations: RD, and RX under DUAL. -/
def drainDsts (s : State) (f : FormeIx) : List Dst :=
  let e := headOf s f .vq
  (e.opRec 0).dst (e.clsAt 0) :: (if (headDrain s f).dual then [(e.opRec 1).dst (e.clsAt 1)] else [])

/-- DRAIN may run: VQ is idle and earlier accumulates of its slots are complete. -/
def drainReady (s : State) (f : FormeIx) : Bool :=
  let d := headDrain s f
  headIs s f .vq 0x30 && vqIdle (s.forme f)
    && accsSettled (s.forme f) (headOf s f .vq).index (gridSlots d.skind d.tile d.m d.n)

/-- R410: every tile of the grid has its own first slot as BASE and SKIND as KIND. -/
def drainFits (fm : Forme) (d : DWord) : Bool :=
  (gridTiles d.skind d.tile d.m d.n).all (fun t => decide (tileKind fm t.1 = d.skind) && decide (tileBase fm t.1 = t.1))

/-- Pattern of a binary32 entry. -/
def f32Entry (fm : Forme) (d : DWord) (m n : Nat) : Nat := readLe fm.quire.byte (entryOff d.skind d.tile d.n m n) 4

/-- The entry value of element (m, n) before any conversion. -/
def entryVal (fm : Forme) (d : DWord) (m n : Nat) : Val :=
  if d.skind = 3 then (decodeScalar .f32 false (f32Entry fm d m n)).1
  else
    match readDeep fm d.skind (entryOff d.skind d.tile d.n m n) with
    | none => .nan
    | some x => Val.ofFrac ⟨x, 2 ^ 112⟩

/-- Byte 0 of a scale record, as an exponent. -/
def scaleExpAt (fm : Forme) (a : Nat) : Int := toSigned 8 (fm.galley.byte a).toNat

/-- eA + eB of R408. -/
def descaleExp (fm : Forme) (d : DWord) (x : Side) : Int :=
  (if d.dsA then scaleExpAt fm x.scrA else 0) + (if d.dsB then scaleExpAt fm x.scrB else 0)

/-- The value of element (m, n) that the conversion starts from, and whether its decode flushed (R106, R227, R408). -/
def drainVal (fm : Forme) (d : DWord) (x : Side) (subn : Bool) (m n : Nat) : Val × Bool :=
  if d.skind = 3 then
    let v := decodeScalar .f32 subn (f32Entry fm d m n)
    (v.1.scale2 (-(descaleExp fm d x)), v.2)
  else (entryVal fm d m n, false)

/-! ### Side outputs (R233, R236 to R240) -/

/-- The four bytes of an entry value in ROWMAX and TOPK: P32 under RNE, or the binary32 value itself. -/
def sideValue (fm : Forme) (d : DWord) (m n : Nat) : Nat :=
  if d.skind = 3 then
    let p := f32Entry fm d m n
    if (decodeScalar .f32 false p).1.isNan then 0x7FC00000 else p
  else (encodeScalar .p32 false false (entryVal fm d m n) .rne).pat

/-- The value of a NaR or NaN in ROWMAX and TOPK. -/
def sideNan (d : DWord) : Nat := if d.skind = 3 then 0x7FC00000 else 0x80000000

/-- Entries of row m with their columns. -/
def rowEntries (fm : Forme) (d : DWord) (m : Nat) : List (Val × Nat) :=
  (List.range d.n).map (fun n => (entryVal fm d m n, n))

/-- ROWMAX of row m. Where the largest entries of a binary32 row are zeros of both signs, the rules do not state which sign
the result has: it is free (log 4). -/
def rowMax (fm : Forme) (d : DWord) (free : Bool) (m : Nat) : Nat :=
  let es := rowEntries fm d m
  if es.any (fun e => e.1.isNan) then sideNan d
  else
    match topOf 1 es with
    | [] => sideNan d
    | (v, n) :: _ =>
      let zeros := (es.filter (fun e => e.1.isZero)).map (fun e => sideValue fm d m e.2)
      if v.isZero && zeros.any (fun z => decide (z ≠ sideValue fm d m n)) then (if free then 0x80000000 else 0)
      else sideValue fm d m n

/-- ROWSUM of row m: one QP32, NaR when the row holds a value that is not real (R237). -/
def rowSum (fm : Forme) (d : DWord) (m : Nat) : Nat :=
  let es := rowEntries fm d m
  if es.any (fun e => !e.1.isReal) then (encodeScalar .qp32 false false .nan .rne).pat
  else (encodeScalar .qp32 false false (Val.ofFrac (es.foldl (fun a e => a.add e.1.frac) ⟨0, 1⟩)) .rne).pat

/-- TOPK of row m: values and columns, padded (R238 to R240). -/
def rowTop (fm : Forme) (d : DWord) (m : Nat) : List (Nat × Nat) :=
  padTo d.k (sideNan d, 0xFFFF) ((topOf d.k (rowEntries fm d m)).map (fun e => (sideValue fm d m e.2, e.2)))

/-- Bytes of the side outputs. -/
def sideBytes (fm : Forme) (d : DWord) (x : Side) (free : Bool) : List (Nat × Byte) :=
  let rows (f : Nat → List Byte) : List (List Byte) := (List.range d.m).map f
  (if d.rowmax then planeBytes x.maxBase x.maxPitch (2 ^ 40) (rows (fun m => leBytes 4 (rowMax fm d free m))) else [])
    ++ (if d.rowsum then planeBytes x.sumBase x.sumPitch (2 ^ 40) (rows (fun m => leBytes 64 (rowSum fm d m))) else [])
    ++ (if d.topk then planeBytes x.topBase x.topPitch (2 ^ 40) (rows (fun m =>
          let t := rowTop fm d m
          (t.map (fun p => leBytes 4 p.1)).flatten ++ (t.map (fun p => leBytes 2 p.2)).flatten)) else [])

/-! ### Flags and clearing (R232, R234, R242) -/

/-- Flags of the tiles from the elements of one destination. -/
def encFlags (d : DWord) (t : TileFlags) (encs : List (List Enc)) : TileFlags :=
  encs.zipIdx.foldl (fun t r => r.1.zipIdx.foldl (fun t c =>
    addFlags t (entrySlot d.skind d.tile d.n r.2 c.2) c.1.flg) t) t

/-- First slots of the tiles that hold flat blocks or rows. -/
def flatSlots (d : DWord) (fl : List (Nat × Nat × Nat)) : List Nat :=
  (fl.map (fun b => (List.range b.2.2).map (fun i => entrySlot d.skind d.tile d.n b.1 (b.2.1 + i)))).flatten

/-- Sets the flags that a drain raises, tile by tile, and counts them. -/
def settleDrain (fm : Forme) (d : DWord) (t : TileFlags) (fl : List Nat) : Forme :=
  (gridTiles d.skind d.tile d.m d.n).foldl (fun fm x =>
    let g := ((t.find? (fun p => decide (p.1 = x.1))).map (fun p => (⟨p.2.1, p.2.2.1, p.2.2.2⟩ : Flg))).getD Flg.none
    if g ≠ Flg.none ∨ fl.contains x.1 = true then setTileFlags fm x.1 g (fl.contains x.1) else fm) fm

/-- CLR: every entry of the tiles is exact zero and their status words are cleared as under INIT. -/
def clearTiles (fm : Forme) (d : DWord) : Forme :=
  (gridTiles d.skind d.tile d.m d.n).foldl (fun fm t =>
    let q := fm.quire.putAll (placed (t.1 * 0x10000) (List.replicate (kindRun d.skind * 0x10000) 0))
    claimRun { fm with quire := q } d.skind t.1) fm

/-- Decode flushes as flags of the tiles (R106, R232). -/
def flushFlags (d : DWord) (m : List (List (Val × Bool))) (t : TileFlags) : TileFlags :=
  m.zipIdx.foldl (fun t r => r.1.zipIdx.foldl (fun t c =>
    if c.1.2 then addFlags t (entrySlot d.skind d.tile d.n r.2 c.2) ⟨false, false, true⟩ else t) t) t

/-- A drain whose checks have passed: conversion, side outputs, flags, and the clear. -/
def drainWrite (f : FormeIx) (d : DWord) (x : Side) (ds : List Dst) (s : State) : State :=
  let fm := s.forme f
  let c := ctlOf d.cvt
  let m := grid d.m d.n (drainVal fm d x c.subn)
  let s1 := setFlush (useFree s 1) f (m.any (fun r => r.any (·.2)))
  let o := convertRegion s1 f c ⟨true, true⟩ ds (m.map (fun r => r.map (·.1)))
  let sides := sideBytes fm d x ((Config.freeWord s.free).toNat.testBit 0)
  let s2 := galleyWrite (storeOut f o) f sides
  let t := flushFlags d m (o.encs.foldl (encFlags d) [])
  let fl := (o.flats.map (flatSlots d)).flatten
  modForme s2 f (fun fm =>
    let fm1 := settleDrain fm d t fl
    if d.clr then clearTiles fm1 d else fm1)

/-- Quire-memory ranges that a drain reads. -/
def drainQuire (d : DWord) : List (Nat × Nat) :=
  (gridTiles d.skind d.tile d.m d.n).flatMap (fun t =>
    let side := kindSide d.skind
    (List.range (min side (d.m - t.2.1 * side))).map (fun r =>
      (t.1 * 0x10000 + r * side * kindBytes d.skind, min side (d.n - t.2.2 * side) * kindBytes d.skind)))

/-- The first error of stored data that a drain meets. -/
def drainBad (s : State) (f : FormeIx) : Option ReadErr :=
  let d := headDrain s f
  match quireBad (s.forme f) f (drainQuire d) with
  | some e => some e
  | none => galleyBad (s.forme f) f (descaleRanges d (headSide s f)
      ++ ((drainDsts s f).map (fun y => dstReads y d.m d.n)).flatten)

/-- What DRAIN does. -/
def drainEffect (s : State) (f : FormeIx) : State :=
  let fm := s.forme f
  let d := headDrain s f
  let ds := drainDsts s f
  let ctx := convCtx fm (ctlOf d.cvt) ds
  if !drainFits fm d then progError s f .tileKind (queueCode .vq) 0 (headOf s f .vq).index
  else if ds.any (fun y => smoothBad fm y d.m d.n) then
    progError s f .smoothOperand (queueCode .vq) 0 (headOf s f .vq).index
  else runHead s f .vq ctx ctx (drainBad s f) (drainWrite f d (headSide s f) ds)

/-- DRAIN. -/
def execDrain (f : FormeIx) (s : State) : Outc := onlyIf (drainReady s f) s (drainEffect s f)

/-! ### TSSAVE, TSLOAD (R222, R417, R418) -/

/-- Fields of the status instruction at the head of VQ. -/
def headStatus (s : State) (f : FormeIx) : TWord := tword (headOf s f .vq).word

/-- Slots that a status instruction names. -/
def TWord.slots (t : TWord) : List Nat := (List.range (t.last + 1 - t.first)).map (fun i => t.first + i)

/-- A status instruction may run: ordered as a drain, or as an accumulate with INIT (R222). -/
def statusReady (s : State) (f : FormeIx) (op : Nat) : Bool :=
  let t := headStatus s f
  headIs s f .vq op && vqIdle (s.forme f)
    && accsSettled (s.forme f) (headOf s f .vq).index (t.first, t.last + 1 - t.first)

/-- TSSAVE copies status words to the Galley. -/
def tssaveEffect (f : FormeIx) (t : TWord) (s : State) : State :=
  galleyWrite s f (placed t.gaddr ((t.slots.map (fun i => leBytes 8 (tileWord (s.forme f) i).toNat)).flatten))

/-- TSSAVE. -/
def execTssave (f : FormeIx) (s : State) : Outc :=
  onlyIf (statusReady s f 0x31) s (runHead s f .vq none none none (tssaveEffect f (headStatus s f)))

/-- A loaded status word of slot i (R418): reserved bits are zero, and a word of another tile's slot keeps KIND and BASE
only. -/
def loadedWord (i : Nat) (w : Word) : Word :=
  let base := field w 16 8
  if base = i then
    pack [(field w 0 5, 0), (field w 8 2, 8), (base, 16), (field w 32 32, 32)]
  else pack [(field w 8 2, 8), (base, 16)]

/-- TSLOAD writes status words from the Galley. -/
def tsloadEffect (f : FormeIx) (t : TWord) (s : State) : State :=
  modForme s f (fun fm => t.slots.foldl (fun fm i =>
    setTileWord fm i (loadedWord i (BitVec.ofNat 64 (readLe (galleyRd fm) (t.gaddr + 8 * (i - t.first)) 8)))) fm)

/-- The Galley bytes that TSLOAD reads. -/
def tsloadBad (s : State) (f : FormeIx) : Option ReadErr :=
  let t := headStatus s f
  galleyBad (s.forme f) f [(t.gaddr, 8 * (t.last + 1 - t.first))]

/-- TSLOAD. -/
def execTsload (f : FormeIx) (s : State) : Outc :=
  onlyIf (statusReady s f 0x32) s (runHead s f .vq none none (tsloadBad s f) (tsloadEffect f (headStatus s f)))

end Sys2Proof.Machine
end

