-- ==== Sys2Proof/Machine/Imposer.lean ====
section
/-! DEFINITION. The Imposer: submitting, choosing, starting, pausing, saving, resuming and ending folios; power, limiter and
heat (R343 to R348, R372 to R382, R533 to R537, R663 to R683). -/

namespace Sys2Proof.Machine

/-! ### Budget and estimates (R664, R666, R668) -/

/-- Power factor of an operating point in thousandths (R666). -/
def powerFactor (op : Nat) : Nat := [1000, 726, 518, 369, 255, 105].getD op 1000

/-- Fenced dies of the module, as this die knows them. -/
def fencedDies (s : State) : Nat :=
  ((List.range (dieCount s.build)).filter (fun d => s.fault.dies.getLsbD d)).length

/-- Whole degrees above a threshold (R682), from millidegrees. -/
def degreesAbove (mc : Int) (soft : Nat) : Int := max 0 ((mc - 1000 * Int.ofNat soft) / 1000)

/-- The die's power budget B in watts (R664, R665, R682). -/
def budgetW (s : State) : Frac :=
  let f := fencedDies s
  let share : Frac :=
    ⟨Int.ofNat s.imp.modLimit - Int.ofNat (entN s 0x2000 2) - Int.ofNat (f * entN s 0x2010 11), max 1 (dieCount s.build - f)⟩
  let die := Frac.ofInt (Int.ofNat s.imp.dieLimit)
  let m := if share.lt die then share else die
  m.add (Frac.ofInt (-50 * (degreesAbove s.imp.dieMc (entN s 0x2010 7) + degreesAbove s.imp.memMc (entN s 0x2010 8))))

/-- FORMES × FORME_MAX_W, the estimate without an annotation (R668). -/
def maxDraw (s : State) (x : Folio) : Frac := Frac.ofInt (Int.ofNat (x.formes.toNat * entN s 0x2010 12))

/-- est(x, op) in watts (R668). -/
def estW (s : State) (x : Folio) (op : Nat) : Frac :=
  if x.energy = 0 ∨ x.duration = 0 then maxDraw s x
  else ⟨Int.ofNat (x.energy.toNat * 4000 * powerFactor op), x.duration.toNat * 1000⟩

/-- peak(x, op) in watts (R668). -/
def peakW (s : State) (x : Folio) (op : Nat) : Frac :=
  if x.peak = 0 then maxDraw s x else ⟨Int.ofNat (x.peak.toNat * powerFactor op), 1000 * 1000⟩

/-- A sum of watts. -/
def sumW (l : List Frac) : Frac := l.foldl Frac.add (Frac.ofInt 0)

/-! ### Which folio may start (R677) -/

/-- Folios that occupy Formes. -/
def startedFolios (s : State) : List Folio := s.imp.folios.filter (fun x => decide (x.state ≠ .ready))

/-- A Forme that the Imposer may assign (R346, R694, R695); a line that waits for its check keeps it back. -/
def assignable (fm : Forme) : Bool :=
  decide (fm.fe.state = .idle) && !fm.test.retired && !fm.test.hold && fm.line.isNone

/-- Idle Formes in the order of assignment: those without an active Press come last (R678). -/
def idleFormes (s : State) : List FormeIx :=
  let fs := (List.finRange 12).filter (fun f => assignable (s.forme f))
  fs.filter (fun f => decide ((s.forme f).pu.active ≠ 0)) ++ fs.filter (fun f => decide ((s.forme f).pu.active = 0))

/-- Formes in service (R695): FORMES_IN_SERVICE. -/
def formesInService (s : State) : List FormeIx := (List.finRange 12).filter (fun f => !(s.forme f).test.retired)

/-- fits(x, op) over the given running folios and the given number of idle Formes (R677). -/
def fitsWith (s : State) (running : List Folio) (idle : Nat) (x : Folio) (op : Nat) : Bool :=
  let cad := running.filter (·.cadence)
  let room := x.cadence || decide (entN s 0x2020 2 ≤ idle - x.formes.toNat + sumN (cad.map (fun c => c.fset.length)))
  let reserve := if x.cadence then Frac.ofInt 0
    else
      let r := (Frac.ofInt (Int.ofNat (entN s 0x2020 1))).add (sumW (cad.map (fun c => estW s c c.op))).neg
      if r.lt (Frac.ofInt 0) then Frac.ofInt 0 else r
  let base := Frac.ofInt (Int.ofNat (entN s 0x2010 2))
  let left := (budgetW s).add (base.add ((sumW (running.map (fun c => estW s c c.op))).add (estW s x op))).neg
  let peak := base.add ((sumW (running.map (fun c => peakW s c c.op))).add (peakW s x op))
  decide (op ≤ x.minop.toNat) && decide (x.formes.toNat ≤ idle) && room && reserve.le left
    && peak.le (Frac.ofInt (Int.ofNat (entN s 0x2010 13)))

/-- fits(x, op) (R677). -/
def fits (s : State) (x : Folio) (op : Nat) : Bool := fitsWith s (startedFolios s) (idleFormes s).length x op

/-- The fastest operating point that fits. -/
def fastest (s : State) (x : Folio) : Option Nat := (List.range 6).find? (fits s x)

/-- The event ring is enabled and holds no room (R676). -/
def evFull (s : State) : Bool :=
  decide (s.imp.evt.log2n ≠ 0) && decide (2 ^ s.imp.evt.log2n.toNat ≤ ringUsed s.imp.evt)

/-- Starts are held by a step close, by heat, or by events that wait (R495, R676, R682). -/
def startsHeld (s : State) : Bool := s.proof.closing || s.imp.hotHold || evFull s || decide (s.imp.evWait ≠ [])

/-- The eligible folios of a list in submission order; the flags say that the list is the oldest part and that a BARRIER
folio waits before it. -/
def eligibleFrom : Bool → Bool → List Folio → List Folio
  | _, _, [] => []
  | first, barrier, x :: t =>
    let ready := decide (x.state = .ready)
    let rest := eligibleFrom false (barrier || (ready && x.barrier)) t
    if ready && !barrier && decide (x.dep = 0) && (!x.barrier || first) then x :: rest else rest

/-- Eligible folios in submission order: DEP has ended, no earlier BARRIER folio waits, and a BARRIER folio is the oldest. -/
def eligible (s : State) : List Folio := eligibleFrom true false s.imp.folios

/-! ### Ending and freeing (R348, R672, R675, R695) -/

/-- A retirement of the Forme that waits for it to be idle takes effect (R695). -/
def retireIdle (fm : Forme) : Forme :=
  if fm.test.retire ∧ fm.fe.state = .idle then { fm with test := { fm.test with retired := true } } else fm

/-- A Forme becomes idle. -/
def freeForme (fm : Forme) : Forme :=
  retireIdle { fm with fe := { fm.fe with state := .idle, stall := 0 }, dests := [], abort := none }

/-- Events REFUSED with reason STATE for the commands of a folio that were not answered (R675). -/
def refuseWaiting (s : State) (x : Folio) : State :=
  (List.range x.cmds).foldl (fun s _ => imposerEvent s .refused x.handle 3 x.folioId 0) s

/-- A folio leaves the Imposer: its handle has ended, and folios that depend on it wait no longer. -/
def dropFolio (s : State) (x : Folio) : State :=
  { s with imp := { s.imp with
    folios := (eraseFirst (fun y => decide (y.handle = x.handle)) s.imp.folios).map
      (fun y => if y.dep = x.handle then { y with dep := 0 } else y)
    ended := x.handle :: s.imp.ended.filter (fun h => decide (h ≠ x.handle))
    lowered := s.imp.lowered.filter (fun h => decide (h ≠ x.handle)) } }

/-- Ends a folio with an event: its Formes become idle. -/
def endFolio (s : State) (x : Folio) (k : EvKind) (reason : Nat) : State :=
  let s1 := relist s (x.fset.foldl (fun s f => modForme s f freeForme) s)
  refuseWaiting (dropFolio (imposerEvent s1 k x.handle reason x.folioId 0) x) x

/-- The folio of a handle that has not ended. -/
def folioOf (s : State) (h : BitVec 16) : Option Folio := s.imp.folios.find? (fun x => decide (x.handle = h))

/-! ### FOLIO_ABORT_DONE (R381, R690, R691) -/

/-- Every Forme of a folio has no instruction beyond its queues' heads. -/
def folioQuiet (s : State) (x : Folio) : Bool := x.fset.all (fun f => decide ((s.forme f).q.flights = []))

/-- FOLIO_ABORT_DONE may happen. -/
def abortReady (s : State) (h : BitVec 16) : Bool :=
  unitsOn s &&
  (match folioOf s h with
   | some x => decide (x.state = .aborting) && folioQuiet s x
   | none => false)

/-- The bytes of a range become free values (R381: the destinations are undefined). -/
def freeRange (s : State) (r : Nat × Nat) : State :=
  useFree (localPutAll s ((List.range r.2).map (fun i => (r.1 + i, Config.freeByte s.free i)))) 1

/-- The destinations of a Forme's part of the folio are undefined. -/
def freeDests (s : State) (f : FormeIx) : State := (s.forme f).dests.foldl freeRange s

/-- The folio ends: ABORTED carries the code; a program error counts and interrupts, an error of stored data counts apart. -/
def abortEffect (s : State) (h : BitVec 16) : State :=
  match folioOf s h with
  | none => s
  | some x =>
    let s1 := x.fset.foldl freeDests s
    let failing := (x.fset.filter (fun f => (s.forme f).err.valid)).head?
    let s2 := if x.code = 0 then bumpEnt s1 0x8000 8 1 32
      else
        let f : Nat := match failing with | some f => f.1 | none => 0
        let d : Nat := match failing with
          | some f => (s.forme f).err.code.toNat + (s.forme f).err.queue.toNat <<< 8 + b2n (s.forme f).err.more <<< 11
              + (s.forme f).err.field.toNat <<< 16 + (s.forme f).err.lforme.toNat <<< 24
          | none => x.code.toNat
        raise (bumpEnt s1 0x4050 2 1 32) 1 f d
    endFolio s2 x .aborted x.code.toNat

/-- FOLIO_ABORT_DONE. -/
def execFolioAbortDone (h : BitVec 16) (s : State) : Outc := onlyIf (abortReady s h) s (abortEffect s h)

/-! ### Commands (R670, R671, R674, R675) -/

/-- The next command can be consumed: the ring is enabled and not empty, and no event waits (R676). -/
def cmdWaits (s : State) : Bool :=
  unitsOn s && decide (s.imp.cmd.log2n ≠ 0) && decide (0 < ringUsed s.imp.cmd) && !evFull s && decide (s.imp.evWait = [])

/-- Die-local address of the next command entry. -/
def cmdAddr (s : State) : Nat :=
  s.imp.cmd.base.toNat + 32 * (s.imp.cmd.cons.toNat % 2 ^ s.imp.cmd.log2n.toNat)

/-- The next command entry as a number (R670). -/
def cmdWord (s : State) : Nat := leNat (gddrBytesAt s.gddr (cmdAddr s) 32)

/-- The entry can be read. -/
def cmdReadable (s : State) : Bool := gddrRange s.gddr (cmdAddr s) 32 && (gddrLost s.gddr (cmdAddr s) 32).isNone

/-- One command is consumed. -/
def consume (s : State) : State := { s with imp := { s.imp with cmd := { s.imp.cmd with cons := s.imp.cmd.cons + 1 } } }

/-- OPC of a command word. -/
def cmdOpc (w : Nat) : Nat := fieldN w 0 4
/-- HANDLE. -/
def cmdHandle (w : Nat) : BitVec 16 := BitVec.ofNat 16 (fieldN w 8 16)
/-- DEP. -/
def cmdDep (w : Nat) : BitVec 16 := BitVec.ofNat 16 (fieldN w 24 16)
/-- KEEP. -/
def cmdKeep (w : Nat) : Bool := w.testBit 41
/-- PRELOAD. -/
def cmdPreload (w : Nat) : Bool := w.testBit 42
/-- FOLIO. -/
def cmdFolio (w : Nat) : Nat := fieldN w 64 40
/-- SAVEBASE. -/
def cmdSave (w : Nat) : Nat := fieldN w 128 40

/-- R674 FIELD: a reserved bit, an unlisted OPC or an unlisted MINOP. -/
def cmdFieldBad (w : Nat) : Bool :=
  decide (fieldN w 4 4 ≠ 0) || decide (fieldN w 46 18 ≠ 0) || decide (fieldN w 104 24 ≠ 0) || decide (fieldN w 168 88 ≠ 0)
    || decide (cmdOpc w = 0) || decide (6 < cmdOpc w) || decide (5 < fieldN w 43 3)

/-- A REFUSED event. -/
def refuse (s : State) (h : BitVec 16) (reason : Nat) (fid : BitVec 32) : State := imposerEvent s .refused h reason fid 0

/-- Bytes of a save image (R533). -/
def imageBytes : Nat := 0x2010000

/-- A save area for n images lies in die-local GDDR7 at a multiple of 64 KiB. -/
def saveAreaOk (s : State) (a n : Nat) : Bool := decide (a % 65536 = 0) && gddrRange s.gddr a (n * imageBytes)

/-- Handle errors of START and RESUME (R674 HANDLE). -/
def submitHandleBad (s : State) (w : Nat) : Bool :=
  decide (cmdHandle w = 0) || (folioOf s (cmdHandle w)).isSome
    || (decide (cmdDep w ≠ 0) && (folioOf s (cmdDep w)).isNone && !s.imp.ended.contains (cmdDep w))

/-- Address errors of START and RESUME that show before the header is read; one image is checked for a command that uses
SAVEBASE. -/
def submitAddrBad (s : State) (w : Nat) (uses : Bool) : Bool :=
  decide (cmdFolio w % 64 ≠ 0) || !gddrRange s.gddr (cmdFolio w) 64 || (uses && !saveAreaOk s (cmdSave w) 1)

/-- Header at a folio address, as a number (R343). -/
def headerWord (s : State) (a : Nat) : Nat := leNat (gddrBytesAt s.gddr a 64)

/-- Entry l of the program table (R344). -/
def progEntry (s : State) (a l : Nat) : Nat := leNat (gddrBytesAt s.gddr (a + 64 + 16 * l) 16)

/-- R343: the header's fields are legal. -/
def headerOk (h : Nat) : Bool :=
  decide (fieldN h 0 8 = 1) && decide (1 ≤ fieldN h 8 4) && decide (fieldN h 8 4 ≤ 12) && decide (fieldN h 12 4 = 0)
    && decide (fieldN h 18 14 = 0) && decide (fieldN h 48 16 = 0) && decide (fieldN h 320 192 = 0)

/-- R344: an entry of the program table is legal. -/
def progOk (e : Nat) : Bool := decide (e % 16 = 0) && decide (fieldN e 32 24 ≠ 0) && decide (fieldN e 56 72 = 0)

/-- The folio that a command submits. -/
def newFolio (s : State) (w : Nat) (resume : Bool) : Folio :=
  let a := cmdFolio w
  let h := headerWord s a
  { handle := cmdHandle w, dep := if (folioOf s (cmdDep w)).isSome then cmdDep w else 0, barrier := w.testBit 40,
    keep := cmdKeep w, preload := cmdPreload w && !resume, resume := resume, minop := BitVec.ofNat 3 (fieldN w 43 3),
    addr := BitVec.ofNat 40 a, saveBase := BitVec.ofNat 40 (cmdSave w), folioId := BitVec.ofNat 32 (fieldN h 64 32),
    formes := BitVec.ofNat 4 (fieldN h 8 4), g1 := h.testBit 16, cadence := h.testBit 17,
    ext := BitVec.ofNat 16 (fieldN h 32 16), energy := BitVec.ofNat 32 (fieldN h 96 32),
    duration := BitVec.ofNat 32 (fieldN h 128 32), peak := BitVec.ofNat 32 (fieldN h 160 32), skips := 0, state := .ready,
    fset := [], op := 0, tokInit := BitVec.ofNat 128 (fieldN h 192 128),
    progs := (List.range (fieldN h 8 4)).map (fun l => (fieldN (progEntry s a l) 0 32, fieldN (progEntry s a l) 32 24)),
    cmds := 0, code := 0 }

/-- An uncorrectable read by the Imposer (R697): logged, and the command refused with UNREADABLE. -/
def refuseUnreadable (s : State) (h : BitVec 16) (addr : Nat) (fid : BitVec 32) : State :=
  refuse (gddrError s none .none addr) h 11 fid

/-- START and RESUME after the command's own checks: UNREADABLE, HEADER, FORMES; then the folio is submitted. -/
def submit (s : State) (w : Nat) (resume : Bool) : State :=
  let a := cmdFolio w
  let h := cmdHandle w
  let uses := resume || cmdKeep w || cmdPreload w
  match gddrLost s.gddr a 64 with
  | some x => refuseUnreadable s h x 0
  | none =>
    let hd := headerWord s a
    let n := fieldN hd 8 4
    let fid := BitVec.ofNat 32 (fieldN hd 64 32)
    if !headerOk hd then refuse (bumpEnt s 0x4050 2 1 32) h 1 fid
    else if !gddrRange s.gddr (a + 64) (16 * n) then refuse s h 5 fid
    else
      match gddrLost s.gddr (a + 64) (16 * n) with
      | some x => refuseUnreadable s h x fid
      | none =>
        if !(List.range n).all (fun l => progOk (progEntry s a l)) then refuse (bumpEnt s 0x4050 2 1 32) h 1 fid
        else if uses && !saveAreaOk s (cmdSave w) n then refuse s h 5 fid
        else if (formesInService s).length < n then refuse s h 10 fid
        else { s with imp := { s.imp with folios := s.imp.folios ++ [newFolio s w resume] } }

/-- START or RESUME of a readable entry. -/
def submitCmd (s : State) (w : Nat) (resume : Bool) : State :=
  let h := cmdHandle w
  if cmdFieldBad w then refuse s h 4 0
  else if submitHandleBad s w then refuse s h 2 0
  else if submitAddrBad s w (resume || cmdKeep w || cmdPreload w) then refuse s h 5 0
  else submit s w resume

/-- The START row takes a START entry, and an entry that no other row takes: one that cannot be read or has an unlisted
OPC. -/
def startReady (s : State) : Bool :=
  cmdWaits s && (!cmdReadable s || decide (cmdOpc (cmdWord s) ≤ 1) || decide (6 < cmdOpc (cmdWord s)))

/-- START. -/
def startEffect (s : State) : State :=
  let s1 := consume s
  if cmdReadable s then submitCmd s1 (cmdWord s) false
  else
    match gddrLost s.gddr (cmdAddr s) 32 with
    | some a => refuseUnreadable s1 0 a 0
    | none => refuse s1 0 11 0

/-- START. -/
def execStart (s : State) : Outc := onlyIf (startReady s) s (startEffect s)

/-- The next command is readable and has an OPC. -/
def opcReady (s : State) (opc : Nat) : Bool := cmdWaits s && cmdReadable s && decide (cmdOpc (cmdWord s) = opc)

/-- RESUME. -/
def execResume (s : State) : Outc := onlyIf (opcReady s 4) s (submitCmd (consume s) (cmdWord s) true)

/-- A command that names a folio: FIELD and HANDLE are checked, then the command's own part runs. -/
def onFolio (s : State) (w : Nat) (g : State → Folio → State) : State :=
  if cmdFieldBad w then refuse s (cmdHandle w) 4 0
  else
    match folioOf s (cmdHandle w) with
    | none => refuse s (cmdHandle w) 2 0
    | some x => g s x

/-- Every Forme of a folio changes its FORME.FOLIO.STATE. -/
def setFolioFormes (s : State) (x : Folio) (st : FState) : State :=
  x.fset.foldl (fun s f => modForme s f (fun fm => { fm with fe := { fm.fe with state := st, stall := 0 } })) s

/-- A pause request (R372, R373, R675): held for a folio with external tokens and for one that ends by an error, else
dispatch stops. -/
def requestPause (s : State) (x : Folio) (save : Bool) (base : BitVec 40) : State :=
  let held := modFolio s x.handle (fun y => { y with cmds := y.cmds + 1 })
  match x.state with
  | .running =>
    if x.ext ≠ 0 then held
    else setFolioFormes (modFolio held x.handle (fun y => { y with
      state := .pausing save, saveBase := if save then base else y.saveBase })) x .quiesce
  | .aborting => held
  | .paused =>
    if save then modFolio held x.handle (fun y => { y with state := .saving, saveBase := base })
    else refuse s x.handle 3 x.folioId
  | _ => refuse s x.handle 3 x.folioId

/-- PAUSE. -/
def execPause (s : State) : Outc :=
  onlyIf (opcReady s 2) s (onFolio (consume s) (cmdWord s) (fun t x => requestPause t x false 0))

/-- SAVE: its save area is checked before its state. -/
def execSave (s : State) : Outc :=
  onlyIf (opcReady s 3) s (onFolio (consume s) (cmdWord s) (fun t x =>
    if saveAreaOk t (cmdSave (cmdWord s)) x.formes.toNat then
      requestPause t x true (BitVec.ofNat 40 (cmdSave (cmdWord s)))
    else refuse t x.handle 5 x.folioId))

/-- CONTINUE (R374). -/
def execContinueFolio (s : State) : Outc :=
  onlyIf (opcReady s 5) s (onFolio (consume s) (cmdWord s) (fun t x =>
    if x.state = .paused then setFolioFormes (modFolio t x.handle (fun y => { y with state := .running })) x .run
    else refuse t x.handle 3 x.folioId))

/-- DISCARD. -/
def execDiscard (s : State) : Outc :=
  onlyIf (opcReady s 6) s (onFolio (consume s) (cmdWord s) (fun t x =>
    if x.state = .paused then endFolio t x .discarded 0 else refuse t x.handle 3 x.folioId))

/-! ### Save images (R533, R534) -/

/-- FOUNT.SLOT_DESC of a slot (R329). -/
def slotDescWord (x : FountSlot) : Word :=
  pack [(x.kind.toNat, 0), (b2n x.valid, 2), (x.func.toNat, 4), (x.version.toNat, 16), (x.crc.toNat, 32)]

/-- The header of a save image (R534), as a number. -/
def imageHeader (fm : Forme) (idle : Bool) (icrc : BitVec 32) : Nat :=
  let toks := (venum fm.tok).foldl (fun acc p => acc + p.2.toNat <<< (128 + 32 * p.1.1)) 0
  let bals := (venum fm.bal).foldl (fun acc p => acc + p.2.toNat <<< (640 + 16 * p.1.1)) 0
  let slots := (venum fm.vu.slots).foldl (fun acc p =>
    acc + (slotDescWord p.2).toNat <<< (1024 + 128 * p.1.1) + p.2.src.toNat <<< (1088 + 128 * p.1.1)) 0
  1 + fm.fe.lforme.toNat <<< 8 + b2n fm.fe.g1 <<< 12 + b2n fm.fe.cadence <<< 13 + b2n idle <<< 14 + fm.fe.ext.toNat <<< 16
    + fm.fe.folioId.toNat <<< 32 + fm.fe.next <<< 64 + 1 <<< 88 + galleyBytes fm <<< 96 + toks + bals
    + fm.lat.srK.toNat <<< 896 + fm.lat.scaleTarget.toNat <<< 904 + fm.lat.smoothAlpha.toNat <<< 936
    + fm.lat.g1Margin.toNat <<< 944 + fm.lat.staleThr.toNat <<< 952 + fm.lat.autoRescue.toNat <<< 968
    + fm.lat.waitTimeout.toNat <<< 976 + slots + (cvtWord fm).toNat <<< 2048
    + fieldN (vecWord fm).toNat 0 5 <<< 2112 + icrc.toNat <<< 2176

/-- Image bytes 0x1000 to 0x200FFFF (R533). -/
def imageBody (fm : Forme) : List Byte :=
  ((List.finRange 16).map (ctxBytes fm)).flatten
    ++ ((List.range 256).map (fun i => leBytes 8 (tileWord fm i).toNat)).flatten
    ++ List.replicate 0x800 0 ++ quireArea fm ++ List.replicate 0x4000 0
    ++ padTo 0x1000000 0 (fm.galley.bytes 0 (galleyBytes fm)) ++ fm.quire.bytes 0 0x1000000

/-- A whole save image; ICRC covers the body. -/
def imageOf (fm : Forme) (idle : Bool) : List Byte :=
  let body := imageBody fm
  leBytes 0x1000 (imageHeader fm idle (crc32c body)) ++ body

/-- The first byte of a Forme's memories that an image cannot read. -/
def imageBad (fm : Forme) (f : FormeIx) : Option ReadErr :=
  match fm.galley.bad.head? with
  | some o => some (.parity .galley f o)
  | none => fm.quire.bad.head?.map (fun o => .parity .quire f o)

/-- Writes the images of a folio's Formes at its SAVEBASE; an error of stored data that a read meets instead (R691). -/
def writeImages (s : State) (x : Folio) (idle : Bool) : State ⊕ State :=
  match x.fset.findSome? (fun f => (imageBad (s.forme f) f).map (fun e => (f, e))) with
  | some (f, e) => .inl (storedError s f e)
  | none =>
    .inr (x.fset.zipIdx.foldl (fun t p =>
      { t with gddr := gddrPutAll t.gddr (placed (x.saveBase.toNat + p.2 * imageBytes) (imageOf (s.forme p.1) idle)) }) s)

/-! ### FOLIO_PAUSED, SAVE_COMPLETE, and the end of a folio (R348, R372, R533, R675) -/

/-- A Forme's part of a folio is complete (R348). -/
def partComplete (fm : Forme) : Bool :=
  decide (fm.fe.next = fm.fe.length) && decide (fm.q.flights = []) && allQueues.all (fun q => (fm.q.get q).isEmpty)

/-- Every dispatched instruction of a Forme has completed (R372). -/
def formeQuiet (fm : Forme) : Bool := decide (fm.q.flights = []) && allQueues.all (fun q => (fm.q.get q).isEmpty)

/-- A pause request is open for a folio. -/
def pausing (x : Folio) : Option Bool :=
  match x.state with
  | .pausing b => some b
  | _ => none

/-- FOLIO_PAUSED may happen: every dispatched instruction has completed, and the folio is not complete. -/
def pausedReady (s : State) (h : BitVec 16) : Bool :=
  unitsOn s &&
  (match folioOf s h with
   | some x => (pausing x).isSome && x.fset.all (fun f => formeQuiet (s.forme f))
       && !x.fset.all (fun f => partComplete (s.forme f))
   | none => false)

/-- Every Forme holds the paused state; PAUSED is written, and a save begins when SAVE asked for it. -/
def pausedEffect (s : State) (h : BitVec 16) : State :=
  match folioOf s h with
  | none => s
  | some x =>
    let save := pausing x = some true
    let s1 := setFolioFormes s x .paused
    let s2 := modFolio s1 h (fun y => { y with
      state := if save then .saving else .paused, cmds := if save then y.cmds else y.cmds - 1 })
    imposerEvent s2 .paused h 0 x.folioId 0

/-- FOLIO_PAUSED. -/
def execFolioPaused (h : BitVec 16) (s : State) : Outc := onlyIf (pausedReady s h) s (pausedEffect s h)

/-- A save is being written. -/
def saveReady (s : State) (h : BitVec 16) : Bool :=
  unitsOn s && (match folioOf s h with | some x => decide (x.state = .saving) | none => false)

/-- The images are written, SAVED is reported and the Formes are free; a failing byte ends the folio instead (R691). -/
def saveEffect (s : State) (h : BitVec 16) : State :=
  match folioOf s h with
  | none => s
  | some x =>
    let y := { x with cmds := x.cmds - 1 }
    match writeImages s x false with
    | .inl t => modFolio t h (fun z => { z with cmds := z.cmds - 1 })
    | .inr t => endFolio t y .saved 0

/-- SAVE_COMPLETE. -/
def execSaveComplete (h : BitVec 16) (s : State) : Outc := onlyIf (saveReady s h) s (saveEffect s h)

/-- A folio is complete on every Forme (R348). -/
def folioDoneReady (s : State) (h : BitVec 16) : Bool :=
  unitsOn s &&
  (match folioOf s h with
   | some x => (decide (x.state = .running) || (pausing x).isSome) && x.fset.all (fun f => partComplete (s.forme f))
   | none => false)

/-- KEEP writes the images, DONE is written, and the Formes are free (R348, R673). -/
def folioDoneEffect (s : State) (h : BitVec 16) : State :=
  match folioOf s h with
  | none => s
  | some x =>
    if x.keep then
      match writeImages s x true with
      | .inl t => t
      | .inr t => endFolio t x .done 0
    else endFolio s x .done 0

/-! ### Restoring images (R535, R537, R673) -/

/-- Address of the image of logical Forme l. -/
def imageAt (x : Folio) (l : Nat) : Nat := x.saveBase.toNat + l * imageBytes

/-- Header of an image as a number. -/
def imageHead (s : State) (a : Nat) : Nat := leNat (gddrBytesAt s.gddr a 276)

/-- FOUNT.SLOT_DESC and SLOT_SRC of slot i in an image header. -/
def imageSlot (h : Nat) (i : Nat) : FountSlot :=
  let d := fieldN h (1024 + 128 * i) 64
  ⟨BitVec.ofNat 2 d, d.testBit 2, BitVec.ofNat 4 (fieldN d 4 4), BitVec.ofNat 16 (fieldN d 16 16),
   BitVec.ofNat 32 (fieldN d 32 32), BitVec.ofNat 52 (fieldN h (1088 + 128 * i) 52)⟩

/-- The bytes that a reload of a slot finds at its SRC, none where they cannot be read; bytes of another die are free
(log 17). -/
def reloadBytes (s : State) (x : FountSlot) (k : Nat) : Option (List Byte) :=
  let src := x.src.toNat
  let a := gLocal src
  if gDie src = s.span.dieId then
    (if (rangeErr s a slotBytes).isSome || (readErr s [(a, slotBytes)]).isSome then none else some (localBytes s a slotBytes))
  else some ((List.range slotBytes).map (fun i => Config.freeByte k i))

/-- The slots of an image that are marked VALID. -/
def imageSlots (h : Nat) : List (Fin 8 × FountSlot) :=
  ((List.finRange 8).map (fun i => (i, imageSlot h i.1))).filter (fun p => p.2.valid)

/-- The reload of a slot gives the saved CRC (R342). -/
def slotReloads (s : State) (k : Nat) (p : Fin 8 × FountSlot) : Bool :=
  match reloadBytes s p.2 (k + p.1.1) with
  | some bs => decide (crc32c bs = p.2.crc)
  | none => false

/-- Why the images of a folio cannot be restored into the chosen Formes, by the order of R674. -/
def restoreErr (s : State) (x : Folio) (fs : List FormeIx) : Option Nat :=
  let ims := fs.zipIdx.map (fun p => (p.1, imageAt x p.2, imageHead s (imageAt x p.2)))
  if ims.any (fun i => decide (BitVec.ofNat 32 (fieldN i.2.2 2176 32)
      ≠ crc32c (gddrBytesAt s.gddr (i.2.1 + 0x1000) (imageBytes - 0x1000)))) then some 6
  else if ims.any (fun i => decide (fieldN i.2.2 0 8 ≠ 1) || decide (fieldN i.2.2 88 8 ≠ entN s 0x1000 8)) then some 9
  else if x.preload && ims.any (fun i => !i.2.2.testBit 14) then some 3
  else if ims.any (fun i => decide (galleyBytes (s.forme i.1) < fieldN i.2.2 96 32)) then some 8
  else if ims.any (fun i => (imageSlots i.2.2).any (fun p => !slotReloads s (s.free + 8 * i.1.1) p)) then some 7
  else none

/-- The first uncorrectable granule of a folio's images. -/
def imagesLost (s : State) (x : Folio) : Option Nat := gddrLost s.gddr x.saveBase.toNat (x.formes.toNat * imageBytes)

/-- One slot is filled again from its SRC. -/
def reloadSlot (f : FormeIx) (k : Nat) (s : State) (p : Fin 8 × FountSlot) : State :=
  match reloadBytes s p.2 (k + p.1.1) with
  | none => s
  | some bs => modForme s f (fun fm => { fm with vu := { fm.vu with
      fount := fm.vu.fount.putAll (placed (p.1.1 * slotBytes) bs), slots := vset fm.vu.slots p.1 p.2, ftFail := none } })

/-- A Forme with the memories of an image: contexts, tile status words, per-lane quires, Galley and quire memory. -/
def restoreMem (fm : Forme) (rd : Nat → Nat → List Byte) : Forme :=
  let word (o k : Nat) : Nat := leNat (rd o k)
  let sr := (List.range 2048).foldl (fun t i => tset srDefault t i (BitVec.ofNat 32 (word (0x1000 + 4 * i) 4))) []
  let vq := (List.range 512).foldl (fun t i => tset (fun _ => 0) t i (BitVec.ofNat 512 (word (0x4000 + 64 * i) 64))) []
  let fm1 := (List.range 256).foldl (fun fm i => setTileWord fm i (loadedWord i (BitVec.ofNat 64 (word (0x3000 + 8 * i) 8)))) fm
  let fm2 := galleyPutAll fm1 (placed 0 (rd 0x10000 (galleyBytes fm)))
  { fm2 with vu := { fm2.vu with sr := sr, vq := vq }, quire := fm2.quire.putAll (placed 0 (rd 0x1010000 0x1000000)) }

/-- A Forme with the rest of the saved state of a resumed folio (R535): place, tokens, latched values, header bits, flags. -/
def restoreRun (fm : Forme) (h : Nat) : Forme :=
  { fm with
    fe := { fm.fe with next := fieldN h 64 24, g1 := h.testBit 12, cadence := h.testBit 13, ext := BitVec.ofNat 16 (fieldN h 16 16) }
    tok := Vector.ofFn (fun j => BitVec.ofNat 32 (fieldN h (128 + 32 * j.1) 32))
    bal := Vector.ofFn (fun j => BitVec.ofNat 16 (fieldN h (640 + 16 * j.1) 16))
    lat := ⟨BitVec.ofNat 8 (fieldN h 896 8), BitVec.ofNat 32 (fieldN h 904 32), BitVec.ofNat 8 (fieldN h 936 8),
      BitVec.ofNat 8 (fieldN h 944 8), BitVec.ofNat 16 (fieldN h 952 16), BitVec.ofNat 8 (fieldN h 968 8),
      BitVec.ofNat 32 (fieldN h 976 32)⟩
    vu := { fm.vu with
      cvt := ⟨h.testBit 2048, h.testBit 2049, h.testBit 2050, h.testBit 2051⟩
      vec := ⟨h.testBit 2112, h.testBit 2113, h.testBit 2114, h.testBit 2115, h.testBit 2116⟩ } }

/-- Restores the image of one Forme. -/
def restoreForme (x : Folio) (s : State) (p : FormeIx × Nat) : State :=
  let a := imageAt x p.2
  let h := imageHead s a
  let s1 := modForme s p.1 (fun fm => restoreMem fm (fun o k => gddrBytesAt s.gddr (a + o) k))
  let s2 := (imageSlots h).foldl (reloadSlot p.1 (s.free + 8 * p.1.1)) s1
  if x.resume then modForme s2 p.1 (fun fm => restoreRun fm h) else s2

/-! ### Starting a folio (R182, R347, R430, R678) -/

/-- Pending Press retirements take effect (R182). -/
def retirePresses (fm : Forme) : Forme :=
  { fm with pu := { fm.pu with
    presses := vmapIx fm.pu.presses (fun p x => if fm.pu.retireRq.getLsbD p.1 then { x with retired := true, width := 0 } else x)
    active := fm.pu.active &&& ~~~fm.pu.retireRq } }

/-- A pending bank retirement takes effect: the whole Galley's contents are undefined (R430). -/
def retireBank (s : State) (f : FormeIx) : State :=
  let fm := s.forme f
  if fm.test.bankRet ∧ fm.test.bankAct = false then
    useFree (modForme s f (fun fm => { fm with galley := ParMem.unset s.free, test := { fm.test with bankAct := true } })) 1
  else s

/-- The entries latched at folio start (R99, R253, R347). -/
def latchEntries (s : State) : Latched :=
  ⟨BitVec.ofNat 8 (entN s 0x4020 1), BitVec.ofNat 32 (entN s 0x4030 1), BitVec.ofNat 8 (entN s 0x4030 2),
   BitVec.ofNat 8 (entN s 0x4030 3), BitVec.ofNat 16 (entN s 0x4030 4), BitVec.ofNat 8 (entN s 0x4030 5),
   BitVec.ofNat 32 (entN s 0x4050 1)⟩

/-- A Forme at the start of logical part l of a folio (R347). -/
def startForme (s : State) (x : Folio) (l : Nat) (fm : Forme) : Forme :=
  let p := x.progs.getD l (0, 0)
  let byte (j : Nat) : Nat := fieldN x.tokInit.toNat (8 * j) 8
  { fm with
    fe := ⟨x.folioId, .run, BitVec.ofNat 4 l, x.g1, x.cadence, x.handle, x.addr.toNat, p.1, p.2, 0, x.ext, 0⟩
    lat := latchEntries s
    tok := Vector.ofFn (fun j => BitVec.ofNat 32 (byte j.1))
    bal := Vector.ofFn (fun j => BitVec.ofNat 16 (byte j.1))
    pu := { fm.pu with held := none }
    dests := [], abort := none }

/-- The operating point at which a folio's Formes run: no faster than OP20 while the limiter acts (R681). -/
def cappedOp (s : State) (op : Nat) : Nat := if s.imp.limit then max op 4 else op

/-- start(x, op) (R347, R535, R673, R678): retirements, then the images where the command asks for them, then the start; a
refused restore ends the folio with REFUSED. -/
def startFolio (s : State) (x : Folio) (op : Nat) : State :=
  let fs := (idleFormes s).take x.formes.toNat
  let s1 := relist s (fs.foldl (fun t f => retireBank (modForme t f retirePresses) f) s)
  let restore := x.preload || x.resume
  let lost := if restore then imagesLost s x else none
  match lost with
  | some a => dropFolio (refuseUnreadable s x.handle a x.folioId) x
  | none =>
    match (if restore then restoreErr s1 x fs else none) with
    | some r => dropFolio (refuse s x.handle r x.folioId) x
    | none =>
      let s2 := fs.zipIdx.foldl (fun t p => modForme t p.1 (startForme s x p.2)) s1
      let s3 := if restore then useFree (fs.zipIdx.foldl (restoreForme x) s2) 96 else s2
      let o := cappedOp s op
      let s4 := modFolio s3 x.handle (fun y => { y with state := .running, fset := fs, op := o })
      let s5 := bumpEnt s4 0x2020 6 1 64
      let s6 := if o = 0 then s5 else bumpEnt s5 0x2020 7 1 32
      imposerEvent s6 .started x.handle 0 x.folioId o

/-- A folio of the Imposer is ready. -/
def stillReady (s : State) (h : BitVec 16) : Bool :=
  match folioOf s h with
  | some x => decide (x.state = .ready)
  | none => false

/-- Starts a folio, unless an event now waits for room (R676). -/
def tryStart (s : State) (x : Folio) (op : Nat) : State := if evFull s then s else startFolio s x op

/-- Cadence folios, oldest first, at the fastest operating point that fits. -/
def startCadence (s : State) (xs : List Folio) : State :=
  xs.foldl (fun s x => match fastest s x with | some op => tryStart s x op | none => s) s

/-- The loop over w of R677: the folios seen so far, the rest; answers the state and whether the loop was blocked. -/
def scanWindow : List Folio → List Folio → State → State × Bool
  | _, [], s => (s, false)
  | seen, x :: t, s =>
    if fits s x 0 && !evFull s then
      let s1 := tryStart s x 0
      let s2 := seen.foldl (fun s y => if stillReady s y.handle then
        modFolio s y.handle (fun z => { z with skips := z.skips + 1 }) else s) s1
      scanWindow (seen ++ [x]) t s2
    else
      let skips := match folioOf s x.handle with | some y => y.skips | none => 0
      if entN s 0x2020 4 ≤ skips then (s, true) else scanWindow (seen ++ [x]) t s

/-- One run of choose() (R677). -/
def choose (s : State) : State :=
  let s1 := startCadence s ((eligible s).filter (·.cadence))
  let w := ((eligible s1).filter (fun x => !x.cadence)).take (entN s 0x2020 3)
  let r := scanWindow [] w s1
  let s2 := r.1
  let waiting := w.filter (fun x => stillReady s2 x.handle)
  match waiting with
  | [] => s2
  | o :: _ =>
    if r.2 || decide (waiting.length = w.length) then
      match fastest s2 o with
      | some op => tryStart s2 o op
      | none => s2
    else s2

/-- Starts are not held, and the die runs (R761). -/
def chooseReady (s : State) : Bool := unitsOn s && !startsHeld s && decide (s.boot.state = 1)

/-- FOLIO_START: one run of choose(). -/
def execFolioStart (s : State) : Outc := onlyIf (chooseReady s) s (choose s)

/-! ### Rings (R676) -/

/-- A ring register's value that is accepted: LOG2N 0 or 4 to 12. -/
def ringValueOk (v : Word) : Bool := decide (field v 40 5 = 0) || (decide (4 ≤ field v 40 5) && decide (field v 40 5 ≤ 12))

/-- A ring just written: its counts are 0. -/
def newRing (v : Word) : Ring := ⟨BitVec.ofNat 40 (field v 0 40), BitVec.ofNat 5 (field v 40 5), 0, 0⟩

/-- A write of a ring register is accepted: no folio is submitted or runs. -/
def ringReady (s : State) (v : Word) : Bool := unitsOn s && decide (s.imp.folios = []) && ringValueOk v

/-- IMPOSER.CMD_RING. -/
def writeCmdRing (s : State) (v : Word) : State := { s with imp := { s.imp with cmd := newRing v } }

/-- IMPOSER_CMD_RING. -/
def execImposerCmdRing (v : Word) (s : State) : Outc := onlyIf (ringReady s v) s (writeCmdRing s v)

/-- IMPOSER.EVT_RING; events that waited for room in the old ring are written to the new one. -/
def writeEvtRing (s : State) (v : Word) : State :=
  let s1 : State := { s with imp := { s.imp with evt := newRing v } }
  if (newRing v).log2n = 0 then { s1 with imp := { s1.imp with evWait := [] } } else flushEvents (s1.imp.evWait.length + 1) s1

/-- IMPOSER_EVT_RING. -/
def execImposerEvtRing (v : Word) (s : State) : Outc := onlyIf (ringReady s v) s (writeEvtRing s v)

/-- WCMD of a doorbell is accepted: not backwards, at most a ring ahead. -/
def cmdBellReady (s : State) (v : Word) : Bool :=
  let p := BitVec.ofNat 24 (field v 0 24)
  unitsOn s && bit v 24 && decide (ringUsed s.imp.cmd ≤ (p - s.imp.cmd.cons).toNat)
    && decide ((p - s.imp.cmd.cons).toNat ≤ 2 ^ s.imp.cmd.log2n.toNat)

/-- CMD_PROD is applied. -/
def cmdBell (s : State) (v : Word) : State :=
  { s with imp := { s.imp with cmd := { s.imp.cmd with prod := BitVec.ofNat 24 (field v 0 24) } } }

/-- IMPOSER_CMD_DOORBELL. -/
def execImposerCmdDoorbell (v : Word) (s : State) : Outc := onlyIf (cmdBellReady s v) s (cmdBell s v)

/-- WEVT of a doorbell is accepted: not backwards, not ahead of the events written. -/
def evtBellReady (s : State) (v : Word) : Bool :=
  unitsOn s && bit v 49 && decide ((BitVec.ofNat 24 (field v 25 24) - s.imp.evt.cons).toNat ≤ ringUsed s.imp.evt)

/-- EVT_CONS is applied, and events that wait are written. -/
def evtBell (s : State) (v : Word) : State :=
  let s1 : State := { s with imp := { s.imp with evt := { s.imp.evt with cons := BitVec.ofNat 24 (field v 25 24) } } }
  flushEvents (s1.imp.evWait.length + 1) s1

/-- IMPOSER_EVT_DOORBELL. -/
def execImposerEvtDoorbell (v : Word) (s : State) : Outc := onlyIf (evtBellReady s v) s (evtBell s v)

/-! ### Control loop, limiter and heat (R680 to R682) -/

/-- A folio whose Formes run: its operating point may move. -/
def moving (x : Folio) : Bool := decide (x.state = .running) || (pausing x).isSome

/-- The folio with the largest est at its operating point, the oldest among equals. -/
def largestEst (s : State) : List Folio → Option Folio
  | [] => none
  | x :: t =>
    match largestEst s t with
    | none => some x
    | some y => if (estW s x x.op).lt (estW s y y.op) then some y else some x

/-- The folio that the loop lowers: non-cadence first, above its MINOP (R680). -/
def lowerWhich (s : State) : Option Folio :=
  let xs := s.imp.folios.filter (fun x => moving x && decide (x.op < x.minop.toNat))
  match largestEst s (xs.filter (fun x => !x.cadence)) with
  | some x => some x
  | none => largestEst s (xs.filter (·.cadence))

/-- The folio's operating point moves, counted in OP_CHANGES. -/
def moveOp (s : State) (h : BitVec 16) (op : Nat) : State := bumpEnt (modFolio s h (fun x => { x with op := op })) 0x2020 8 1 32

/-- One step lower. -/
def lowerOne (s : State) : State :=
  match lowerWhich s with
  | none => s
  | some x =>
    let s1 := moveOp s x.handle (x.op + 1)
    { s1 with imp := { s1.imp with lowered := x.handle :: s1.imp.lowered } }

/-- A folio may run one step faster: fits holds at the new point without the folio's own estimate. -/
def raiseFits (s : State) (x : Folio) : Bool :=
  let others := (startedFolios s).filter (fun y => decide (y.handle ≠ x.handle))
  decide (0 < x.op) && !s.imp.hotHold && (!s.imp.limit || decide (4 < x.op))
    && fitsWith s others ((idleFormes s).length + x.fset.length) x (x.op - 1)

/-- One step up for the folio lowered most recently. -/
def raiseOne (s : State) : State :=
  match s.imp.lowered with
  | [] => s
  | h :: rest =>
    match folioOf s h with
    | none => s
    | some x =>
      if moving x && raiseFits s x then
        let s1 := moveOp s h (x.op - 1)
        { s1 with imp := { s1.imp with lowered := rest } }
      else s

/-- A control interval with the measured die power. -/
def controlEffect (s : State) (watts : Nat) : State :=
  let s0 : State := { s with imp := { s.imp with modLimit := entN s 0x2000 1, dieLimit := entN s 0x2010 1 } }
  let w := Frac.ofInt (Int.ofNat watts)
  let b := budgetW s0
  let low := b.add (Frac.ofInt (-(Int.ofNat (entN s 0x2020 5))))
  if b.lt w then lowerOne { s0 with imp := { s0.imp with below := 0 } }
  else if w.lt low then
    let n := min 10 (s.imp.below + 1)
    let s1 : State := { s0 with imp := { s0.imp with below := n } }
    if n = 10 then raiseOne s1 else s1
  else { s0 with imp := { s0.imp with below := 0 } }

/-- CONTROL_INTERVAL. -/
def execControlInterval (watts : Nat) (s : State) : Outc := onlyIf (unitsOn s) s (controlEffect s watts)

/-- Every started folio's Formes run at an operating point no faster than the given one. -/
def capOps (s : State) (op : Nat) : State :=
  { s with imp := { s.imp with folios := s.imp.folios.map (fun x => if x.state = .ready then x else { x with op := max x.op op }) } }

/-- The fast limiter acts (R681). -/
def limitEffect (s : State) : State :=
  let s1 := bumpEnt (capOps s 4) 0x2000 8 1 32
  { s1 with imp := { s1.imp with limit := true, limitAt := s.tb.ns } }

/-- CURRENT_LIMIT. -/
def execCurrentLimit (s : State) : Outc := onlyIf (unitsOn s) s (limitEffect s)

/-- CURRENT_LIMIT_END: 1 ms has passed. -/
def execCurrentLimitEnd (s : State) : Outc :=
  onlyIf (unitsOn s && s.imp.limit && elapsed s s.imp.limitAt 1000000) s { s with imp := { s.imp with limit := false } }

/-- Temperatures act on starts and operating points (R682); the trip is that of the fence. -/
def thermalEffect (s : State) (dieMc memMc : Int) : State :=
  let hard : Int := 1000 * Int.ofNat (entN s 0x2010 9)
  let s1 : State := { s with imp := { s.imp with dieMc := dieMc, memMc := memMc } }
  if hard ≤ dieMc ∨ 100000 ≤ memMc then
    let s2 := capOps s1 5
    { s2 with imp := { s2.imp with hotHold := true } }
  else if dieMc < hard - 5000 ∧ memMc < 95000 then { s1 with imp := { s1.imp with hotHold := false } }
  else s1

end Sys2Proof.Machine
end

