-- ==== Sys2Proof/Machine/Proofreader.lean ====
section
/-! DEFINITION. The Proofreader's registers and the step close, and the retirement requests and read-clear registers of a Forme
(R181, R242, R429, R487, R495 to R505). -/

namespace Sys2Proof.Machine

/-! ### Tag entries as bits (R487) -/

/-- A tag entry as a number of 1024 bits. -/
def tagBits (e : TagEntry) : Nat :=
  e.cls.toNat + b2n e.count <<< 4 + b2n e.sample <<< 5 + b2n e.nfalarm <<< 6 + e.shift.toNat <<< 8 + e.streakLim.toNat <<< 16
    + e.ulpLim.toNat <<< 32 + e.elems.toNat <<< 64 + b2n e.live <<< 111 + e.streak.toNat <<< 112 + e.zero.toNat <<< 128
    + e.low.toNat <<< 160 + e.high.toNat <<< 192 + e.nonfin.toNat <<< 224 + e.zlost.toNat <<< 256 + e.flat.toNat <<< 288
    + e.samples.toNat <<< 320 + e.worst.toNat <<< 352 + e.worstAll.toNat <<< 384 + e.worstStep.toNat <<< 416
    + e.alarms.toNat <<< 448 + e.almStep.toNat <<< 480 + e.prev.toNat <<< 512

/-- Tag entry g. -/
def tagEntry (s : State) (g : Nat) : TagEntry := tget tagDefault s.tbl.tags g

/-- Replaces tag entry g. -/
def setTag (s : State) (g : Nat) (e : TagEntry) : State :=
  { s with tbl := { s.tbl with tags := tset tagDefault s.tbl.tags g e } }

/-- WORST_ALL and WORST_STEP are cleared. -/
def clearWorst (e : TagEntry) : TagEntry := { e with worstAll := 0, worstStep := 0 }

/-- Writes the configuration word of a tag; an illegal SHIFT or CLASS discards it whole. -/
def writeTagConfig (e : TagEntry) (v : Word) : TagEntry :=
  if 16 < field v 8 5 ∨ 5 < field v 0 4 then e
  else { e with
    cls := BitVec.ofNat 4 (field v 0 4), count := bit v 4, sample := bit v 5, nfalarm := bit v 6
    shift := BitVec.ofNat 5 (field v 8 5), streakLim := BitVec.ofNat 16 (field v 16 16), ulpLim := BitVec.ofNat 16 (field v 32 16) }

/-- Writes the word of a tag that holds ALARMS (W1C) and WCLR (WO). -/
def writeTagAlarms (e : TagEntry) (v : Word) : TagEntry :=
  let e1 := { e with alarms := e.alarms &&& ~~~(BitVec.ofNat 6 (field v 0 6)) }
  if bit v 6 then clearWorst e1 else e1

/-- WCLR. -/
def execWclr (tag : BitVec 12) (s : State) : Outc :=
  onlyIf (unitsOn s) s (setTag s tag.toNat (clearWorst (tagEntry s tag.toNat)))

/-! ### Step close (R495, R496) -/

/-- A step close is requested; a request during a close is merged into it. -/
def requestClose (s : State) : State := { s with proof := { s.proof with closing := true } }

/-- STEP_CLOSE. -/
def execStepClose (v : Word) (s : State) : Outc := onlyIf (unitsOn s && bit v 0) s (requestClose s)

/-- The close waits until no Forme is in RUN or QUIESCE. -/
def closeReady (s : State) : Bool :=
  unitsOn s && s.proof.closing &&
  (List.finRange 12).all (fun f => decide ((s.forme f).fe.state ≠ .run) && decide ((s.forme f).fe.state ≠ .quiesce))

/-- STREAK after the close. -/
def closedStreak (e : TagEntry) : BitVec 16 :=
  if e.elems = 0 then e.streak
  else if e.live then 0
  else BitVec.ofNat 16 (satAdd 0xFFFF e.streak.toNat 1)

/-- STUCK is raised: the streak reaches its limit. -/
def streakHits (s : State) (e : TagEntry) : Bool :=
  let lim := if e.streakLim = 0 then entN s 0x4060 1 else e.streakLim.toNat
  decide (e.elems ≠ 0) && !e.live && decide ((closedStreak e).toNat = lim)

/-- A tag entry after the close. -/
def closedTag (e : TagEntry) : TagEntry :=
  let e1 := { e with streak := closedStreak e }
  { e1 with
    prev := BitVec.ofNat 320 (tagBits e1 >>> 64)
    elems := 0, live := false, zero := 0, low := 0, high := 0, nonfin := 0, zlost := 0, flat := 0, samples := 0, worst := 0 }

/-- Closes the step of one tag. -/
def closeTag (s : State) (g : Nat) : State :=
  let e := tagEntry s g
  if e.count then
    let s1 := if streakHits s e then raiseAlarm s (BitVec.ofNat 12 g) 1 else s
    let e1 := tagEntry s1 g
    setTag s1 g { closedTag e with alarms := e1.alarms, almStep := e1.almStep }
  else s

/-- Every tag is closed in ascending order, STEP increments, and starts are released. -/
def closeEffect (s : State) : State :=
  let s1 := (s.tbl.tags.map (·.1)).foldl closeTag s
  { s1 with proof := { s1.proof with step := s1.proof.step + 1, closing := false } }

/-- CLOSE_STEP. -/
def execCloseStep (s : State) : Outc := onlyIf (closeReady s) s (closeEffect s)

/-! ### Read-clear registers and retirement requests -/

/-- PROOF.ALARM as it reads (R504). -/
def alarmWord (s : State) : Word :=
  match s.proof.alarms with
  | [] => 0
  | a :: _ => pack [(a.tag.toNat, 0), (a.kind.toNat, 12), (a.step.toNat, 16), (1, 63)]

/-- PROOF_ALARM_READ: the oldest record leaves the queue. -/
def execProofAlarmRead (s : State) : Outc :=
  onlyIf (unitsOn s) s (emit { s with proof := { s.proof with alarms := s.proof.alarms.tail } } (.readData (alarmWord s)))

/-- FORME.ACC_EVENTS as it reads (R242). -/
def accEventsWord (e : AccEvents) : Word :=
  pack [(e.ovf.toNat, 0), (e.nar.toNat, 16), (e.flush.toNat, 32), (e.flat.toNat, 48)]

/-- ACC_EVENTS_READ (R244). -/
def accEventsReadEffect (s : State) (f : FormeIx) : State :=
  emit (modForme s f (fun fm => { fm with pu := { fm.pu with events := ⟨0, 0, 0, 0⟩ } }))
    (.readData (accEventsWord (s.forme f).pu.events))

/-- ACC_EVENTS_READ. -/
def execAccEventsRead (f : FormeIx) (s : State) : Outc := onlyIf (unitsOn s) s (accEventsReadEffect s f)

/-- A write of FORME.PRESS_CTRL: a RETIRE bit written to 1 stays (R181). -/
def writePressCtrl (fm : Forme) (v : Word) : Forme :=
  { fm with pu := { fm.pu with retireRq := fm.pu.retireRq ||| BitVec.ofNat 4 (field v 0 4) } }

/-- PRESS_RETIRE. -/
def execPressRetire (f : FormeIx) (v : Word) (s : State) : Outc :=
  onlyIf (unitsOn s) s (modForme s f (fun fm => writePressCtrl fm v))

/-- A write of GALLEY.BANK_CTRL: discarded once RETIRE is 1 (R429). -/
def writeBankCtrl (fm : Forme) (v : Word) : Forme :=
  if fm.test.bankRet then fm
  else { fm with test := { fm.test with bank := BitVec.ofNat 5 (field v 0 5), bankRet := bit v 5 } }

/-- BANK_RETIRE. -/
def execBankRetire (f : FormeIx) (v : Word) (s : State) : Outc :=
  onlyIf (unitsOn s) s (modForme s f (fun fm => writeBankCtrl fm v))

end Sys2Proof.Machine
end

