-- ==== Sys2Proof/Machine/SpanBase.lean ====
section
/-! DEFINITION. Handling packets that have arrived on a Span port, forwarding, and the route entries that the die maintains
(R558 to R567). -/

namespace Sys2Proof.Machine

/-! ### Routes (R558, R559) -/

/-- Changes port p. -/
def modPort (s : State) (p : Fin 11) (g : Port → Port) : State :=
  { s with span := { s.span with ports := vmod s.span.ports p g } }

/-- The internal ports. -/
def internalPorts : List (Fin 11) := (List.finRange 11).filter (fun p => decide (p.1 < 7))

/-- The die that an internal port reaches (R20, R21). -/
def portPeer (s : State) (p : Fin 11) : Nat :=
  match s.build with
  | .uz8 => (s.dieIndex.1 + p.1 + 1) % 8
  | .uz2 => 1 - s.dieIndex.1

/-- The ports as a mask. -/
def portMask (ps : List (Fin 11)) : BitVec 11 := BitVec.ofNat 11 (sumN (ps.map (fun p => 2 ^ p.1)))

/-- The route entry that the die keeps for peer e of its module (R558, R559). -/
def ownRoute (s : State) (e : Nat) : Route :=
  let direct := internalPorts.filter (fun p => decide (portPeer s p = e))
  match s.build with
  | .uz2 => ⟨portMask direct, true, true, true⟩
  | .uz8 =>
    let down := direct.all (fun p => decide ((s.span.ports[p]).st = 0) || decide ((s.span.ports[p]).st = 4))
    let others := internalPorts.filter (fun p => decide (portPeer s p ≠ e) && portUp s.span.ports[p])
    if down && decide (others ≠ []) then ⟨portMask others, true, true, true⟩ else ⟨portMask direct, true, false, true⟩

/-- Span training has written the die's own entries. -/
def routesOwn (s : State) : Bool := (routeOf s s.span.dieId).own

/-- Writes the entries of the die IDs of the own module. -/
def writeOwnRoutes (s : State) : State :=
  let rs := (List.range (dieCount s.build)).foldl (fun t e =>
    tset routeDefault t (idOf s e).toNat (if e = s.dieIndex.1 then ⟨0, true, false, true⟩ else ownRoute s e)) s.tbl.routes
  { s with tbl := { s.tbl with routes := rs } }

/-- Rewrites the entries after a link has changed, once training has written them (R559). -/
def updateRoutes (s : State) : State := if routesOwn s then writeOwnRoutes s else s

/-! ### Taking and forwarding packets (R561, R563, R567) -/

/-- The oldest packet of a type that waits on a port. -/
def waitingPacket (s : State) (p : Fin 11) (typ : Nat) : Option SpanPacket :=
  (s.span.ports[p]).rx.find? (fun k => decide (k.typ.toNat = typ))

/-- A packet of the type waits, and the die's units run. -/
def packetReady (s : State) (p : Fin 11) (typ : Nat) : Bool := unitsOn s && (waitingPacket s p typ).isSome

/-- The packet leaves the port's buffer. -/
def takePacket (s : State) (p : Fin 11) (typ : Nat) : State :=
  modPort s p (fun x => { x with rx := eraseFirst (fun k => decide (k.typ.toNat = typ)) x.rx })

/-- A type whose refusal is answered with NACK: not an answer itself (log 14). -/
def answered (k : SpanPacket) : Bool := decide (k.typ ≠ 3) && decide (k.typ ≠ 4) && decide (k.typ ≠ 5)

/-- Answers a refused packet, unless it is an answer. -/
def refusePacket (s : State) (k : SpanPacket) (r : Nack) : State := if answered k then sendNack s k r else s

/-- A packet whose HOPS falls by one; HCRC follows the header, and stays wrong where it was wrong. -/
def hopPacket (k : SpanPacket) : SpanPacket :=
  let k1 := { k with hops := k.hops - 1 }
  { k1 with hcrc := crc32c (spanHeader k1) ^^^ crc32c (spanHeader k) ^^^ k.hcrc }

/-- Forwards a packet for another die. -/
def forwardPacket (s : State) (p : Fin 11) (k : SpanPacket) : State :=
  if knownFenced s k.dst then refusePacket s k .fenced
  else
    match (if k.hops ≤ 1 then none else choosePort s k (some p)) with
    | none => refusePacket (bumpEnt s 0x5020 6 1 32) k .route
    | some q => enqueuePort s q (hopPacket k)

/-- Both checksums of a packet. -/
def hcrcOk (k : SpanPacket) : Bool := decide (k.hcrc = crc32c (spanHeader k))
/-- PCRC covers the payload. -/
def pcrcOk (k : SpanPacket) : Bool := decide (k.pcrc = crc32c k.payload)

/-- Handles the oldest packet of a type on a port: forwarded when it is for another die, discarded for HCRC, handed to `bad`
for PCRC, and to `good` otherwise. -/
def onPacket (s : State) (p : Fin 11) (typ : Nat) (bad good : State → SpanPacket → State) : State :=
  match waitingPacket s p typ with
  | none => s
  | some k =>
    let s1 := takePacket s p typ
    if k.dst ≠ s.span.dieId then forwardPacket s1 p k
    else if !hcrcOk k then bumpEnt s1 0x5020 7 1 32
    else if !pcrcOk k then bad s1 k
    else good s1 k

/-- The usual answer to a packet whose PCRC fails. -/
def answerCorrupt (s : State) (k : SpanPacket) : State := refusePacket s k .corrupt

/-- Copies whose source is a fenced die are forgotten (R563). -/
def dropPartials (s : State) (src : BitVec 12) : State :=
  { s with span := { s.span with part := s.span.part.filter (fun x => decide (x.src ≠ src)) } }

end Sys2Proof.Machine
end

