-- ==== Sys2Proof/Machine/Abut.lean ====
section
/-! DEFINITION. The Abutment port: frames that arrive, forwarding, datagrams, timestamp reports (R589 to R597, R617 to R621,
R623). -/

namespace Sys2Proof.Machine

/-! ### Addresses (R591) -/

/-- The number of bytes in network order. -/
def beNat (bs : List Byte) : Nat := bs.foldl (fun acc b => acc * 256 + b.toNat) 0

/-- Bytes in network order. -/
def beBytes (k x : Nat) : List Byte := (leBytes k x).reverse

/-- ABUT_MAC of die d of the module: 6 bytes from its identity flash. -/
def macBytes (d : Nat) : List Byte := padTo 6 0 (Config.identity (entKey 0x6000 2 + d * 2 ^ 24))

/-- ABUT_MAC as a number. -/
def macOf (d : Nat) : BitVec 48 := BitVec.ofNat 48 (beNat (macBytes d))

/-- An IP address of this die: its IPv6 address, or its IPv4 address in the mapped form of R598; zero disables each. -/
def ownIp (s : State) (ip : BitVec 128) : Bool :=
  let v4 := entN s 0x6000 3
  let v6 := beNat (tget (fun _ => []) s.colo.oct (entKey 0x6000 4))
  (decide (v4 ≠ 0) && decide (ip.toNat = 0xFFFF * 2 ^ 32 + v4)) || (decide (v6 ≠ 0) && decide (ip.toNat = v6))

/-! ### The datagram path (R597, R620) -/

/-- A frame is discarded and counted in ABUT_RX_DISCARDS. -/
def rxDiscard (s : State) : State := bumpEnt s 0x6030 1 1 64

/-- The record of a UDP datagram (R538); none when the log cannot take it (R543). -/
def recordDatagram (s : State) (body : EthBody) : Option State :=
  match body with
  | .udp _ src sp dp payload => recordInput s 4 dp.toNat 0 (beBytes 16 src.toNat ++ beBytes 2 sp.toNat ++ payload)
  | _ => some s

/-- The completion of a datagram. -/
def datagramDone (s : State) (status bytes time : Nat) : State := complete s 0 (mkCompletion 0 0 0x20 status bytes 0 time)

/-- A UDP datagram may be a request of a service (R635). -/
def datagramRequest (s : State) (time : Nat) (body : EthBody) : State :=
  match body with
  | .udp _ src sp dp payload => requestIn s (udpSlots s dp.toNat) (.udp src sp) (BitVec.ofNat 64 time) payload
  | _ => s

/-- A frame goes to the next entry of SRQ 0: LEN_ERR or LOCAL_ACCESS where the entry cannot take it (log 18). -/
def datagram (s : State) (time : Nat) (bytes : List Byte) (body : EthBody) : State :=
  if !(cqOf s 0).active then rxDiscard s
  else
    match takeSrq s 0 with
    | none => rxDiscard s
    | some (s1, e) =>
      if e.len < bytes.length then datagramDone s1 1 0 time
      else if !regionOk s e.lkey 0 .loc e.addr bytes.length then datagramDone s1 7 0 time
      else
        match recordDatagram s1 body with
        | none => s
        | some s2 => datagramRequest (datagramDone (gddrStore s2 e.addr bytes) 0 bytes.length time) time body

/-! ### Frames of this die (R591, R596, R597, R618) -/

/-- The ingress buffer is above ECN_LOCAL_PCT full (R617). -/
def ingressMarks (s : State) : Bool :=
  decide (16777216 * entN s 0x6020 7 < 100 * sumN (s.abut.ingress.map (·.bytes)))

/-- A CNP may go to the source of a queue pair (R618). -/
def cnpMay (s : State) (q : Qp) : Bool :=
  match q.pace.sentAt with
  | some t => elapsed s t (1000 * entN s 0x6020 13)
  | none => true

/-- A CE-marked packet of queue pair n: a CNP with DSCP 48 goes to its source (R618). -/
def sendCnp (s : State) (n : Nat) : State :=
  let q := qpOf s n
  if (q.state = 2 ∨ q.state = 3) ∧ cnpMay s q = true then
    let s1 := modQp s n (fun q => { q with pace := { q.pace with sentAt := some s.tb.ns } })
    bumpEnt (roceOut s1 n { qpPacket q .cnp 0 with dscp := 48 }) 0x6030 4 1 64
  else s

/-- A RoCEv2 packet for the engine. -/
def engineIn (s : State) (ect : Bool) (time : Nat) (p : RocePacket) : State :=
  if p.kind = .otherTransport then rxDiscard s
  else
    let s1 : State := { s with abut := { s.abut with rx := s.abut.rx ++ [{ p with time := time }] } }
    if p.ce || (ect && ingressMarks s) then sendCnp s1 p.qpn.toNat else s1

/-- A frame reaches its owner. -/
def frameIn (s : State) (ect : Bool) (time : Nat) (bytes : List Byte) (body : EthBody) : State :=
  match body with
  | .roce ip p =>
    if !ownIp s ip || !p.icrcOk then s
    else if 2 ≤ p.qpn.toNat ∧ p.qpn.toNat < 16384 then engineIn s ect time p
    else datagram s time bytes body
  | .udp _ _ _ dp _ =>
    if dp = 47120 ∧ entN s 0x6000 8 = 1 then s else datagram s time bytes body
  | _ => datagram s time bytes body

/-! ### ETH_FRAME_RECEIVE (R589, R590, R592, R594, R595) -/

/-- R589 and R590 admit a frame. -/
def frameAdmitted (s : State) (fr : EthFrame) : Bool :=
  decide (fr.bytes.length ≤ maxFrame) && fr.fcsOk && !fr.twoTags
    && (match fr.vlan with | some v => decide (v.toNat = entN s 0x6000 5) | none => true)
    && (match fr.body with
        | .fragment => false
        | .pause => false
        | .other multicast => !multicast
        | _ => true)

/-- A frame that every served die receives. -/
def frameShared : EthBody → Bool
  | .arpBroadcast => true
  | .solicited => true
  | _ => false

/-- This port forwards for die d: it serves the die, or goes on for 1 ms (R594). -/
def forwardsFor (s : State) (d : Fin 8) : Bool :=
  decide (d ≠ s.dieIndex) && (s.abut.served.getLsbD d.1 || s.abut.grace.any (fun g => decide (g.1 = d)))

/-- The dies besides this one for which the port forwards. -/
def forwardDies (s : State) : List (Fin 8) := (List.finRange 8).filter (forwardsFor s)

/-- An admitted frame is delivered, forwarded, or passed by. -/
def deliverFrame (s : State) (fr : EthFrame) : State :=
  if frameShared fr.body then
    frameIn ((forwardDies s).foldl (fun t d => ethToOwner t d.1 fr.ect fr.time fr.bytes) s) fr.ect fr.time fr.bytes fr.body
  else if fr.dst = macOf s.dieIndex.1 then frameIn s fr.ect fr.time fr.bytes fr.body
  else
    match (forwardDies s).find? (fun d => decide (macOf d.1 = fr.dst)) with
    | some d => ethToOwner s d.1 fr.ect fr.time fr.bytes
    | none => s

/-- What a received frame does. -/
def ethFrameEffect (s : State) (fr : EthFrame) : State := if frameAdmitted s fr then deliverFrame s fr else rxDiscard s

/-- ETH_FRAME_RECEIVE. -/
def execEthFrameReceive (fr : EthFrame) (s : State) : Outc :=
  onlyIf (unitsOn s && decide (s.abut.link = 3)) s (ethFrameEffect s fr)

/-! ### ETHFWD (R593) -/

/-- A frame for this die, with its ingress timestamp. -/
def forwardedIn (s : State) (pl : List Byte) : State :=
  let bytes := pl.drop 8
  frameIn s false (leNat (pl.take 8)) bytes (Config.ethBody bytes)

/-- A frame of another die leaves through this port; a frame with TSREQ is reported with its egress timestamp. -/
def portOut (s : State) (src : BitVec 12) (pl : List Byte) : State :=
  let h := leNat (pl.take 8)
  let tsreq := decide (h % 2 = 1)
  let tag := BitVec.ofNat 32 (h / 2 ^ 32)
  if s.abut.link ≠ 3 then s
  else
    let s1 := emit s (.ethRaw src tsreq tag (pl.drop 8))
    if tsreq then ethSend s1 src 0 true 0 (leBytes 8 s.tb.ns.toNat ++ leBytes 8 tag.toNat) else s1

/-- A whole payload, by direction. -/
def ethPayload (s : State) (src : BitVec 12) (dir : Nat) (pl : List Byte) : State :=
  if dir = 0 then forwardedIn s pl else portOut s src pl

/-- An ETHFWD packet for this die: a timestamp report, a first piece that waits, or the end of a frame. -/
def ethfwdEffect (s : State) (k : SpanPacket) : State :=
  let dir := k.addr.toNat % 2
  let mine := fun (x : BitVec 12 × Nat × List Byte) => decide (x.1 = k.src) && decide (x.2.1 = dir)
  let rest := s.abut.pieces.filter (fun x => !mine x)
  if k.aux.getLsbD 1 then rawReport s (BitVec.ofNat 32 (leNat ((k.payload.drop 8).take 4))) (leNat (k.payload.take 8))
  else if k.aux.getLsbD 0 then
    match s.abut.pieces.find? mine with
    | some x => ethPayload { s with abut := { s.abut with pieces := rest } } k.src dir (x.2.2 ++ k.payload)
    | none => s
  else if k.last then ethPayload s k.src dir k.payload
  else { s with abut := { s.abut with pieces := rest ++ [(k.src, dir, k.payload)] } }

/-- ETHFWD. -/
def execEthfwd (p : Fin 11) (s : State) : Outc := onlyIf (packetReady s p 8) s (onPacket s p 8 answerCorrupt ethfwdEffect)

/-! ### The link (R623, R594) -/

/-- ABUT_LINK_CHANGE: the link of a wired port is DOWN, TRAINING or UP. -/
def execAbutLinkChange (link : BitVec 2) (s : State) : Outc :=
  onlyIf (unitsOn s && decide (s.abut.link ≠ 0) && decide (link ≠ 0)) s { s with abut := { s.abut with link := link } }

/-- 1 ms has passed since the default partner of a die rejoined. -/
def graceReady (s : State) (d : Fin 8) : Bool :=
  unitsOn s && s.abut.grace.any (fun g => decide (g.1 = d) && elapsed s g.2 1000000)

/-- FORWARD_GRACE_END. -/
def execForwardGraceEnd (d : Fin 8) (s : State) : Outc :=
  onlyIf (graceReady s d) s { s with abut := { s.abut with grace := s.abut.grace.filter (fun g => decide (g.1 ≠ d)) } }

/-- ABUT.PORT as it reads (R623). -/
def portWord (s : State) : Word := pack [(s.abut.link.toNat, 0), (s.abut.served.toNat, 8), (s.abut.server.toNat, 16)]

end Sys2Proof.Machine
end

