-- ==== Sys2Proof/Machine/Services.lean ====
section
/-! DEFINITION. The life of a hosted service: loading, batches, cadence instances, finished folios, mirrored values, and the
loss of a die (R632 to R634, R640 to R662). -/

namespace Sys2Proof.Machine

/-! ### Starting and stopping (R632 to R634, R653) -/

/-- SVC_STATE as the Colophon shows it. -/
def svcState (s : State) (i : Fin 64) : BitVec 8 := (s.svc[i]).state

/-- A write of 2 is accepted. -/
def svcStartOk (s : State) (i : Fin 64) : Bool := decide (svcState s i = 0)

/-- The service moves to LOADING. -/
def svcStart (s : State) (i : Fin 64) : State := modSvc s i (fun _ => { Svc.reset with state := 1 })

/-- SVC_START. -/
def execSvcStart (i : Fin 64) (s : State) : Outc := onlyIf (unitsOn s && svcStartOk s i) s (svcStart s i)

/-- A write of 0 is accepted. -/
def svcStopOk (s : State) (i : Fin 64) : Bool := decide (svcState s i = 2) || decide (svcState s i = 4)

/-- The service moves to DRAINING, or from FAILED to STOPPED. -/
def svcStop (s : State) (i : Fin 64) : State :=
  if svcState s i = 2 then modSvc s i (fun x => { x with state := 3 }) else modSvc s i (fun _ => Svc.reset)

/-- SVC_STOP. -/
def execSvcStop (i : Fin 64) (s : State) : Outc := onlyIf (unitsOn s && svcStopOk s i) s (svcStop s i)

/-- The dies that SVC_DIES names. -/
def svcDies (s : State) (i : Fin 64) : List Nat := (List.range 8).filter (fun d => (svcEnt s i 0x0C).testBit d)

/-- Reasons of FAILED (R633). -/
inductive SvcReason where
  | none | image | fit | nolog | pairs | dies | conflict
  deriving DecidableEq, Repr, Inhabited

/-- Value of a reason. -/
def SvcReason.code : SvcReason → BitVec 8
  | .none => 0 | .image => 1 | .fit => 2 | .nolog => 3 | .pairs => 4 | .dies => 5 | .conflict => 6

/-- A pair of SVC_DIES is incomplete (R658). -/
def pairsBroken (s : State) (i : Fin 64) : Bool := (svcDies s i).any (fun d => !(svcDies s i).contains (d ^^^ 1))

/-- Every die of SVC_DIES is fenced, or both dies of a pair (R633, R662). -/
def diesLost (s : State) (i : Fin 64) : Bool :=
  let dead := fun (d : Nat) => s.fault.dies.getLsbD d
  (svcDies s i).all dead || (decide (svcEnt s i 0x0B = 2) && (svcDies s i).any (fun d => dead d && dead (d ^^^ 1)))

/-- SVC_UDP_PORT or SVC_SRQ is in use by another service. -/
def svcConflict (s : State) (i : Fin 64) : Bool :=
  allSlots.any (fun j => decide (j ≠ i) && decide (svcState s j ≠ 0) && decide (svcState s j ≠ 4)
    && ((decide (svcEnt s i 4 ≠ 0) && decide (svcEnt s j 4 = svcEnt s i 4))
      || (decide (svcEnt s i 5 ≠ 0) && decide (svcEnt s j 5 = svcEnt s i 5))))

/-- Why a service cannot run, in the order of R633. -/
def loadReason (s : State) (i : Fin 64) (r : LoadReport) : SvcReason :=
  if verifyImage s serviceComp (2 ^ 40) 0 r.image ≠ .ok then .image
  else if r.shortfall ≠ 0 ∧ (svcEnt s i 0x11 = 0 ∨ r.fitsOverhang = false) then .fit
  else if replicated s i && decide (entN s 0x7010 1 = 0) then .nolog
  else if decide (svcEnt s i 0x0B = 2) && pairsBroken s i then .pairs
  else if diesLost s i then .dies
  else if svcConflict s i then .conflict
  else .none

/-- Number of the first cadence instance that starts after a timebase value (R643). -/
def firstInstance (period phase t : Nat) : Nat := if period = 0 ∨ t < phase then 0 else (t - phase) / period + 1

/-- Loading ends: what it found is shown, and the service runs or has failed. -/
def svcLoadEffect (s : State) (i : Fin 64) (r : LoadReport) : State :=
  let why := loadReason s i r
  let overh : Nat := if r.shortfall ≠ 0 ∧ why = .none then r.overhang.toNat else 0
  let s1 := setEnt (setEnt (setEnt s (0x7100 + i.1) 0x10 r.shortfall.toNat) (0x7100 + i.1) 0x12 overh)
    (0x7100 + i.1) 0x0F r.kvFree.toNat
  modSvc s1 i (fun x =>
    if why = .none then
      { x with state := 2, reason := 0, since := s.tb.ns, nextK := firstInstance (svcEnt s i 8) (svcEnt s i 9) s.tb.ns.toNat }
    else { x with state := 4, reason := why.code })

/-- SVC_LOAD_COMPLETE. -/
def execSvcLoadComplete (i : Fin 64) (r : LoadReport) (s : State) : Outc :=
  onlyIf (unitsOn s && decide (svcState s i = 1)) s (svcLoadEffect s i r)

/-- Nothing of the service is in flight. -/
def svcQuiet (x : Svc) : Bool :=
  x.batch.isNone && decide (x.flight = []) && decide (x.mirror = []) && x.running.isNone && x.waiting.isNone
    && x.streams.all (fun st => st.latest.isNone)

/-- SVC_DRAIN_COMPLETE. -/
def execSvcDrainComplete (i : Fin 64) (s : State) : Outc :=
  onlyIf (unitsOn s && decide (svcState s i = 3) && svcQuiet s.svc[i]) s (modSvc s i (fun _ => Svc.reset))

/-! ### Batches (R640) -/

/-- BATCH_DEADLINE. -/
def execBatchDeadline (i : Fin 64) (s : State) : Outc := onlyIf (unitsOn s && batchDue s i) s (closeBatch s i false)

/-! ### Cadence (R643 to R646) -/

/-- The next instance has reached its start; a draining service starts one only for inputs that wait. -/
def cadenceReady (s : State) (i : Fin 64) : Bool :=
  let x := s.svc[i]
  let p := svcEnt s i 8
  unitsOn s && decide (p ≠ 0)
    && (decide (x.state = 2) || (decide (x.state = 3) && x.streams.any (fun st => st.latest.isSome)))
    && decide (x.nextK * p + svcEnt s i 9 ≤ s.tb.ns.toNat)

/-- What a stream contributes: its latest request, its previous one under REPEAT, or nothing (R644). -/
def streamInput (repeating : Bool) (st : Stream) : Option Req :=
  match st.latest with
  | some r => some r
  | none => if repeating then st.prev else none

/-- The stream after the start of an instance. -/
def advanceStream (st : Stream) : Stream :=
  match st.latest with
  | some r => { st with latest := none, prev := some r }
  | none => st

/-- MARK of an instance: k, and for each stream its number and the SEQ of its input, all ones for none (R645). -/
def instanceMark (s : State) (k : Nat) (repeating : Bool) (sts : List Stream) : State :=
  runtimeMark s (leBytes 8 k ++ (sts.map (fun st =>
    leBytes 8 st.num.toNat ++ leBytes 8 (match streamInput repeating st with | some r => r.seq | none => 2 ^ 64 - 1))).flatten)

/-- Streams left out under SKIP get a response of LEN 0, in the name of their previous request (R644). -/
def skipReplies (s : State) (i : Fin 64) (sts : List Stream) : State :=
  sts.foldl (fun t st =>
    match st.latest, st.prev with
    | none, some r => sendReply t i r .ok []
    | _, _ => t) s

/-- A waiting instance is dropped (R646). -/
def dropWaiting (s : State) (i : Fin 64) : State :=
  match (s.svc[i]).waiting with
  | none => s
  | some w => bumpSvc (answerAll (modSvc s i (fun x => { x with waiting := none })) i w.inputs .skipped) i 0x1A 1 32

/-- An instance whose Formes are held waits, in place of one that waits already. -/
def waitInstance (s : State) (i : Fin 64) (n : Instance) : State :=
  bumpSvc (modSvc (dropWaiting s i) i (fun x => { x with waiting := some n })) i 0x19 1 32

/-- An instance starts, or waits while the previous one holds its Formes. -/
def startInstance (s : State) (i : Fin 64) : State :=
  let x := s.svc[i]
  let rep := decide (svcEnt s i 0x0A = 1)
  let s1 := instanceMark s x.nextK rep x.streams
  let s2 := if rep then s1 else skipReplies s1 i x.streams
  let n : Instance := ⟨x.nextK, x.streams.filterMap (streamInput rep)⟩
  let s3 := modSvc s2 i (fun x => { x with streams := x.streams.map advanceStream, nextK := x.nextK + 1 })
  if n.inputs = [] then s3
  else if x.running.isNone then modSvc s3 i (fun x => { x with running := some n })
  else waitInstance s3 i n

/-- CADENCE_INSTANCE_START. -/
def execCadenceInstanceStart (i : Fin 64) (s : State) : Outc := onlyIf (cadenceReady s i) s (startInstance s i)

/-! ### The mirror ring of the partner (R541, R656, R658) -/

/-- A record found in the mirror ring. -/
structure PeerRec where
  typ     : Nat
  src     : Nat
  payload : List Byte

/-- The record at an offset of the partner's ring, when its header checksum holds. -/
def peerRec (s : State) (pos : Nat) : Option (Nat × PeerRec) :=
  let a := entN s 0x7010 6 + pos
  let h := gddrBytesAt s.gddr a 64
  if leNat ((h.drop 36).take 4) = (crc32c (h.take 36)).toNat then
    some (leNat ((h.drop 8).take 8), ⟨leNat (h.take 1), leNat ((h.drop 2).take 2), gddrBytesAt s.gddr (a + 64) (leNat ((h.drop 4).take 4))⟩)
  else none

/-- The records of the partner's ring in SEQ order. -/
def peerRecs (s : State) : Table PeerRec :=
  ((List.range (logSize s / 64)).filterMap (fun i => peerRec s (64 * i))).foldl (fun t r => tput t r.1 r.2) []

/-- Messages that SEND records make up: a table of open messages by queue pair, and the complete ones. -/
def joinSend (acc : Table (List Byte) × List (Nat × Origin × List Byte)) (seq : Nat) (r : PeerRec) :
    Table (List Byte) × List (Nat × Origin × List Byte) :=
  let bs := tget (fun _ => []) acc.1 r.src ++ r.payload
  if bs.length < 32 + fieldN (reqHeader bs) 32 32 then (tput acc.1 r.src bs, acc.2)
  else (tdel acc.1 r.src, acc.2 ++ [(seq, .rdma (BitVec.ofNat 14 r.src), bs)])

/-- One record of the partner's ring as an input. -/
def joinPeer (acc : Table (List Byte) × List (Nat × Origin × List Byte)) (r : Nat × PeerRec) :
    Table (List Byte) × List (Nat × Origin × List Byte) :=
  if r.2.typ = 2 then joinSend acc r.1 r.2
  else if r.2.typ = 4 then
    let a := BitVec.ofNat 128 (leNat (r.2.payload.take 16).reverse)
    let p := BitVec.ofNat 16 (leNat ((r.2.payload.drop 16).take 2).reverse)
    (acc.1, acc.2 ++ [(r.1, .udp a p, r.2.payload.drop 18)])
  else acc

/-- The requests for a slot that the partner has recorded. -/
def peerReqs (s : State) (i : Fin 64) : List Req :=
  (((peerRecs s).foldl joinPeer ([], [])).2.filter (fun x => decide (fieldN (reqHeader x.2.2) 8 6 = i.1) && reqHeaderOk x.2.2)).map
    (fun x => reqOf x.1 x.2.1 0 x.2.2)

/-! ### Finished folios (R636, R658, R659) -/

/-- The running instance has no input left: the waiting one runs. -/
def endInstance (s : State) (i : Fin 64) : State :=
  match (s.svc[i]).running with
  | some n => if n.inputs = [] then modSvc s i (fun x => { x with running := x.waiting, waiting := none }) else s
  | none => s

/-- A result for a request of this die. -/
def resultFor (s : State) (i : Fin 64) (r : Req) (body : List Byte) : State :=
  if svcEnt s i 0x0B = 2 ∧ r.taken = false then mirrorReady s i r body else answerReq s i r .ok body

/-- A result for a request that the partner has recorded: its values go to the partner. -/
def resultForPartner (s : State) (i : Fin 64) (reqId : Word) (body : List Byte) : State :=
  match (peerReqs s i).find? (fun r => decide (r.reqId = reqId)) with
  | none => s
  | some r =>
    let v := bodyValues body
    emit (modSvc s i (fun x => { x with partner := x.partner.filter (fun p => decide (p.1.reqId ≠ reqId)) ++ [(r, body)] }))
      (.mirror i reqId v.1 v.2)

/-- One response body that a finished folio leaves. -/
def replyIn (s : State) (r : Reply) : State :=
  let i := r.svc
  let x := s.svc[i]
  let here := fun (q : Req) => decide (q.reqId = r.reqId)
  match x.flight.find? here with
  | some q => resultFor (modSvc s i (fun x => { x with flight := eraseFirst here x.flight })) i q r.body
  | none =>
    match x.running with
    | some n =>
      (match n.inputs.find? here with
      | some q =>
        endInstance (resultFor (modSvc s i (fun x => { x with running := some { n with inputs := eraseFirst here n.inputs } })) i
          q r.body) i
      | none => s)
    | none => if svcEnt s i 0x0B = 2 then resultForPartner s i r.reqId r.body else s

/-- FOLIO_COMPLETE: the Imposer's part, and the responses that the folio leaves. -/
def execFolioComplete (handle : BitVec 16) (replies : List Reply) (s : State) : Outc :=
  onlyIf (folioDoneReady s handle) s (replies.foldl replyIn (folioDoneEffect s handle))

/-! ### Mirrored values (R659, R660) -/

/-- The response of a request that waits for the partner's values. -/
def waitOf (s : State) (i : Fin 64) (reqId : Word) : Option MirrorWait :=
  (s.svc[i]).mirror.find? (fun w => decide (w.req.reqId = reqId))

/-- The partner's values arrive: compared, or kept until the own response is ready. -/
def valuesIn (s : State) (i : Fin 64) (reqId : Word) (crc len : BitVec 32) : State :=
  match waitOf s i reqId with
  | some w => compareValues s i w crc len
  | none => modSvc s i (fun x => { x with peer := x.peer.filter (fun p => decide (p.1 ≠ reqId)) ++ [(reqId, crc, len)] })

/-- MIRROR_VALUES. -/
def execMirrorValues (i : Fin 64) (reqId : BitVec 64) (crc len : BitVec 32) (s : State) : Outc :=
  onlyIf (unitsOn s && decide (svcEnt s i 0x0B = 2)) s (valuesIn s i reqId crc len)

/-- MIRROR_WAIT_US has passed. -/
def waitOver (s : State) (i : Fin 64) (reqId : Word) : Bool :=
  match waitOf s i reqId with
  | some w => unitsOn s && elapsed s w.ready (1000 * svcEnt s i 0x13)
  | none => false

/-- A waiting response is sent unchecked. -/
def sendUnchecked (s : State) (i : Fin 64) (reqId : Word) : State :=
  match waitOf s i reqId with
  | some w => bumpSvc (answerReq (dropWait s i reqId) i w.req .ok w.body) i 0x1D 1 32
  | none => s

/-- MIRROR_WAIT_EXPIRY. -/
def execMirrorWaitExpiry (i : Fin 64) (reqId : BitVec 64) (s : State) : Outc :=
  onlyIf (waitOver s i reqId) s (sendUnchecked s i reqId)

/-! ### A die of the module is fenced (R656, R660, R662) -/

/-- Requests of the fenced partner that it has not answered: from a SEQ that only the partner knew (free value). -/
def unanswered (s : State) (rs : List Req) : List Req :=
  (rs.filter (fun r => decide ((Config.freeWord s.free).toNat ≤ r.seq))).map (fun r => { r with taken := true })

/-- The mirror die of a SPREAD service takes the fenced die's requests over and runs them again (R656). -/
def spreadTakes (s : State) (i : Fin 64) : State :=
  let rs := unanswered s (peerReqs s i)
  bumpSvc (modSvc (useFree s 1) i (fun x => { x with flight := x.flight ++ rs })) i 0x1B rs.length 64

/-- The survivor of a MIRRORED pair sends what waits, and answers the partner's requests (R660). -/
def mirrorTakes (s : State) (i : Fin 64) : State :=
  let s1 := (s.svc[i]).mirror.foldl (fun t w => sendUnchecked t i w.req.reqId) s
  let rs := unanswered s1 ((s1.svc[i]).partner.map (·.1))
  let bodyOf := fun (r : Req) => (((s1.svc[i]).partner.find? (fun p => decide (p.1.reqId = r.reqId))).map (·.2)).getD []
  modSvc (rs.foldl (fun t r => answerReq t i r .ok (bodyOf r)) (useFree s1 1)) i (fun x => { x with partner := [] })

/-- One service when die d is fenced. -/
def svcLosesDie (d : Nat) (s : State) (i : Fin 64) : State :=
  let st := svcState s i
  if (st = 2 ∨ st = 3) ∧ d ∈ svcDies s i then
    (if diesLost s i then modSvc s i (fun _ => { Svc.reset with state := 4, reason := SvcReason.dies.code })
    else if d ≠ partnerDie s then s
    else if svcEnt s i 0x0B = 1 then spreadTakes s i
    else if svcEnt s i 0x0B = 2 then mirrorTakes s i
    else s)
  else s

/-- Every service when die d is fenced. -/
def servicesLoseDie (s : State) (d : Nat) : State := allSlots.foldl (svcLosesDie d) s

/-! ### Placement of the key-value cache (R648, R650) -/

/-- The die that holds stripe b of a sequence. -/
def stripeDie (s : State) (i : Fin 64) (b : Nat) : Option Nat := (svcDies s i)[b % (svcDies s i).length]?

/-- Extents that a stripe takes on its die. -/
def stripeExtents (s : State) (i : Fin 64) : Nat := ceilDiv (svcEnt s i 0x0E * svcEnt s i 0x0D) extBytes

/-- The survivor that takes the j-th stripe of a fenced die of a SPREAD service. -/
def stripeHeir (s : State) (i : Fin 64) (d j : Nat) : Option Nat :=
  let live := (svcDies s i).filter (fun e => decide (e ≠ d))
  live[j % live.length]?

end Sys2Proof.Machine
end

