-- ==== Sys2Proof/Machine/Keystone.lean ====
section
/-! DEFINITION. The common timebase and the Keystone barrier (R520 to R532). -/

namespace Sys2Proof.Machine

/-! ### The timebase (R521 to R524) -/

/-- A measurement of a link's round trip and of the offset to the master (R521, R522). -/
def measureEffect (s : State) (p : Fin 11) (delay : BitVec 16) (offset : BitVec 32) : State :=
  let off : BitVec 32 := if s.tb.master = s.span.dieId then 0 else offset
  let s1 := modPort s p (fun x => { x with delay := delay })
  { s1 with tb := { s1.tb with offsetPs := off, locked := decide ((toSigned 32 off.toNat).natAbs ≤ 750) } }

/-- TIMEBASE_MEASURE. -/
def execTimebaseMeasure (p : Fin 11) (delay : BitVec 16) (offset : BitVec 32) (s : State) : Outc :=
  onlyIf (unitsOn s && portUp s.span.ports[p]) s (measureEffect s p delay offset)

/-! ### Barriers (R525 to R532) -/

/-- Changes barrier b. -/
def modBar (s : State) (b : Fin 4) (g : Bar → Bar) : State := { s with bars := vmod s.bars b g }

/-- KEYSTONE.BAR bits 45 to 42, as the event reports them (R748). -/
def barDetail (x : Bar) : Nat := b2n x.released + b2n x.late * 2 + b2n x.error * 4 + b2n x.aborted * 8

/-- KEYSTONE.BAR as it reads (R525). -/
def barWord (x : Bar) : Word :=
  pack [(x.root.toNat, 0), (x.pm1.toNat, 12), (x.token.toNat, 24), (x.formes.toNat, 28), (b2n x.armed, 41),
    (b2n x.released, 42), (b2n x.late, 43), (b2n x.error, 44), (b2n x.aborted, 45)]

/-- A KEYSTONE packet (R565): kind 0 arrival, 1 release, 2 abort. COPYID names barrier and kind for an answer (log 14). -/
def keystonePacket (s : State) (b : Fin 4) (kind : Nat) (dst : BitVec 12) (time : Word) (x : Bar) : SpanPacket :=
  { newPacket s 7 5 dst with
    copyId := BitVec.ofNat 16 (0x8000 + 4 * b.1 + kind)
    aux := BitVec.ofNat 32 (b.1 + kind * 4)
    payload := leBytes 8 time.toNat ++ leBytes 2 x.root.toNat ++ leBytes 2 x.pm1.toNat ++ [0, 0, 0, 0] }

/-- The barrier aborts on this die (R531). The root also aborts every participant whose arrival it holds. -/
def abortBar (s : State) (b : Fin 4) : State :=
  let x := s.bars[b]
  let s1 := modBar s b (fun x => { x with armed := false, aborted := true, relTime := none, arrivals := [] })
  let s2 := if x.root = s.span.dieId then
      (x.arrivals.filter (fun a => decide (a.die ≠ s.span.dieId))).foldl
        (fun t a => (spanSend t (keystonePacket t b 2 a.die 0 x)).1) s1
    else s1
  raise s2 11 b.1 (barDetail s2.bars[b])

/-- The release on this die (R528). -/
def releaseBar (s : State) (b : Fin 4) (t : Word) (late : Bool) : State :=
  let x := s.bars[b]
  let s1 := modBar s b (fun x => { x with
    armed := false, released := true, late := x.late || late, time := t, relTime := none })
  let s2 := signalMask s1 x.formes x.token
  raise s2 11 b.1 (barDetail s2.bars[b])

/-- The root holds every arrival: the release time is set and announced (R527). -/
def announce (s : State) (b : Fin 4) : State :=
  let x := s.bars[b]
  if x.armed ∧ x.root = s.span.dieId ∧ x.arrivals.length = x.pm1.toNat + 1 then
    let latest := (x.arrivals.map (fun a => a.time.toNat)).foldl max 0
    let t : Word := BitVec.ofNat 64 (latest + entN s 0x5010 5)
    let s1 := (x.arrivals.filter (fun a => decide (a.die ≠ s.span.dieId))).foldl
      (fun u a => (spanSend u (keystonePacket u b 1 a.die t x)).1) s
    modBar s1 b (fun x => { x with relTime := some t, arrivals := [] })
  else s

/-- An arrival fits the root's own ROOT and PM1. -/
def arrivalFits (x : Bar) (a : Arrival) : Bool := decide (a.root = x.root) && decide (a.pm1 = x.pm1)

/-- An arrival reaches the root (R527, R532). -/
def receiveArrival (s : State) (b : Fin 4) (a : Arrival) : State :=
  let x := s.bars[b]
  if x.armed && !arrivalFits x a then modBar s b (fun x => { x with error := true })
  else if x.arrivals.any (fun y => decide (y.die = a.die)) then s
  else announce (modBar s b (fun x => { x with arrivals := x.arrivals ++ [a] })) b

/-- This die arrives (R526, R532). -/
def arriveBar (s : State) (b : Fin 4) : State :=
  let x := s.bars[b]
  let s1 := modBar s b (fun x => { x with armed := true, armedAt := s.tb.ns, relTime := none })
  if x.root = s.span.dieId then
    let keep := x.arrivals.filter (arrivalFits x)
    let s2 := modBar s1 b (fun y => { y with arrivals := keep, error := y.error || decide (keep.length < x.arrivals.length) })
    receiveArrival s2 b ⟨s.span.dieId, s.tb.ns, x.root, x.pm1, s.tb.ns⟩
  else
    let r := spanSend s1 (keystonePacket s1 b 0 x.root s.tb.ns x)
    match r.2 with
    | none => r.1
    | some _ => abortBar r.1 b

/-- A write of KEYSTONE.BAR: sticky bits clear, fields change while the barrier is not ARMED, then ARRIVE and CANCEL act. -/
def writeBar (s : State) (b : Fin 4) (v : Word) : State :=
  let armed := (s.bars[b]).armed
  let s1 := modBar s b (fun x =>
    let y := { x with released := w1c x.released v 42, late := w1c x.late v 43, error := w1c x.error v 44,
                      aborted := w1c x.aborted v 45 }
    if armed then y
    else { y with root := BitVec.ofNat 12 (field v 0 12), pm1 := BitVec.ofNat 12 (field v 12 12),
                  token := BitVec.ofNat 4 (field v 24 4), formes := BitVec.ofNat 12 (field v 28 12) })
  let s2 := if bit v 40 && !armed then arriveBar s1 b else s1
  if bit v 46 then abortBar s2 b else s2

/-- KEYSTONE_ARRIVE: ARRIVE is written while the barrier is not ARMED. -/
def arriveReady (s : State) (b : Fin 4) (v : Word) : Bool := unitsOn s && bit v 40 && !(s.bars[b]).armed

/-- KEYSTONE_ARRIVE. -/
def execKeystoneArrive (b : Fin 4) (v : Word) (s : State) : Outc := onlyIf (arriveReady s b v) s (writeBar s b v)

/-- CANCEL. -/
def execCancel (b : Fin 4) (v : Word) (s : State) : Outc := onlyIf (unitsOn s && bit v 46) s (writeBar s b v)

/-- The timebase has reached the announced release time. -/
def releaseReady (s : State) (b : Fin 4) : Bool :=
  unitsOn s && (s.bars[b]).armed &&
  (match (s.bars[b]).relTime with
   | some t => decide (t ≤ s.tb.ns)
   | none => false)

/-- KEYSTONE_RELEASE. -/
def releaseEffect (s : State) (b : Fin 4) : State :=
  match (s.bars[b]).relTime with
  | some t => releaseBar s b t false
  | none => s

/-- KEYSTONE_RELEASE. -/
def execKeystoneRelease (b : Fin 4) (s : State) : Outc := onlyIf (releaseReady s b) s (releaseEffect s b)

/-- KEYSTONE_TIMEOUT_US has passed since a time; 0 disables (R531, R532). -/
def keystoneExpired (s : State) (since : Word) : Bool :=
  decide (entN s 0x5010 6 ≠ 0) && elapsed s since (1000 * entN s 0x5010 6)

/-- KEYSTONE_TIMEOUT. -/
def execKeystoneTimeout (b : Fin 4) (s : State) : Outc :=
  onlyIf (unitsOn s && (s.bars[b]).armed && keystoneExpired s (s.bars[b]).armedAt) s (abortBar s b)

/-- An arrival that the root has kept without arriving itself is old enough to be discarded. -/
def expiryReady (s : State) (b : Fin 4) (die : BitVec 12) : Bool :=
  unitsOn s && !(s.bars[b]).armed
    && (s.bars[b]).arrivals.any (fun a => decide (a.die = die) && keystoneExpired s a.since)

/-- ARRIVAL_EXPIRY. -/
def execArrivalExpiry (b : Fin 4) (die : BitVec 12) (s : State) : Outc :=
  onlyIf (expiryReady s b die) s
    (modBar s b (fun x => { x with arrivals := x.arrivals.filter (fun a => decide (a.die ≠ die)) }))

/-! ### KEYSTONE packets (R565, R530, R531) -/

/-- A KEYSTONE packet for this die. -/
def keystoneEffect (s : State) (k : SpanPacket) : State :=
  let b : Fin 4 := (BitVec.ofNat 2 k.aux.toNat).toFin
  let time : Word := BitVec.ofNat 64 (leNat (k.payload.take 8))
  let x := s.bars[b]
  if k.aux.getLsbD 3 then (if x.armed then abortBar s b else s)
  else if k.aux.getLsbD 2 then
    (if !x.armed then s
     else if time < s.tb.ns then releaseBar s b time true
     else modBar s b (fun x => { x with relTime := some time }))
  else
    receiveArrival s b ⟨k.src, time, BitVec.ofNat 12 (leNat ((k.payload.drop 8).take 2)),
      BitVec.ofNat 12 (leNat ((k.payload.drop 10).take 2)), s.tb.ns⟩

/-- KEYSTONE. -/
def execKeystone (p : Fin 11) (s : State) : Outc :=
  onlyIf (packetReady s p 7) s (onPacket s p 7 answerCorrupt keystoneEffect)

/-- NACK of a KEYSTONE packet: CORRUPT sends it again (R567); any other reason aborts a barrier that waits on its arrival
(R531). -/
def keystoneNack (s : State) (k : SpanPacket) : State :=
  let b : Fin 4 := (BitVec.ofNat 2 (k.copyId.toNat / 4)).toFin
  let kind := k.copyId.toNat % 4
  let x := s.bars[b]
  if fieldN k.aux.toNat 0 4 = 5 then
    let time := if kind = 0 then x.armedAt else if kind = 1 then x.relTime.getD x.time else 0
    (spanSend s (keystonePacket s b kind k.src time x)).1
  else if kind = 0 ∧ x.armed = true ∧ x.root ≠ s.span.dieId then abortBar s b
  else s

end Sys2Proof.Machine
end

