-- ==== Sys2Proof/Machine/SpanLink.lean ====
section
/-! DEFINITION. Span links: frames, retries, training, hold, and writes of the route table (R547 to R562, R781). -/

namespace Sys2Proof.Machine

/-! ### Registers (R553) -/

/-- SPAN.LINK as it reads. -/
def linkWord (p : Port) : Word :=
  pack [(p.st.toNat, 0), (p.lanes.toNat, 4), (b2n p.hold, 7), (p.farId.toNat, 8), (p.farPort.toNat, 20), (b2n p.enc, 24),
    (p.hreason.toNat, 25), (p.retries.toNat, 32), (p.delay.toNat, 48)]

/-- A read returns RETRIES and clears it. -/
def linkReadEffect (s : State) (p : Fin 11) : State :=
  emit (modPort s p (fun x => { x with retries := 0 })) (.readData (linkWord s.span.ports[p]))

/-- SPAN_LINK_READ. -/
def execSpanLinkRead (p : Fin 11) (s : State) : Outc := onlyIf (unitsOn s) s (linkReadEffect s p)

/-! ### Holding a link (R553, R555) -/

/-- A port kept down for a reason. -/
def heldPort (reason : BitVec 3) (x : Port) : Port := { x with st := 4, hreason := reason, lanes := 0, enc := false }

/-- A port with HOLD goes down once every frame sent has been acknowledged. -/
def settleHold (s : State) (p : Fin 11) : State :=
  let x := s.span.ports[p]
  if x.hold ∧ x.replay = [] ∧ x.st ≠ 4 then updateRoutes (modPort s p (heldPort 1)) else s

/-- A write of SPAN.LINK: HOLD takes the link down, or releases it (R551). -/
def writeLink (s : State) (p : Fin 11) (v : Word) : State :=
  let x := s.span.ports[p]
  if bit v 7 then settleHold (modPort s p (fun x => { x with hold := true })) p
  else
    let y := { x with hold := false }
    if x.st = 4 ∧ x.hreason = 1 then modPort s p (fun _ => { y with st := 0, hreason := 0 })
    else pumpPort x.txq.length (modPort s p (fun _ => y)) p

/-- LINK_HOLD. -/
def execLinkHold (p : Fin 11) (v : Word) (s : State) : Outc := onlyIf (unitsOn s) s (writeLink s p v)

/-! ### Frames (R548 to R550) -/

/-- The frames that an acknowledgement leaves in the replay buffer. -/
def dropAcked (ack : BitVec 16) (l : List (BitVec 16 × SpanPacket)) : List (BitVec 16 × SpanPacket) :=
  if l.any (fun x => decide (x.1 = ack)) then (l.dropWhile (fun x => decide (x.1 ≠ ack))).drop 1 else l

/-- Sends again every frame that has not been acknowledged (R549); RETRIES and SPAN_FRAME_RETRIES count them. -/
def resendFrames (s : State) (p : Fin 11) : State :=
  let x := s.span.ports[p]
  let n := x.replay.length
  let s1 := x.replay.foldl (fun t f => emit t (.span p f.2)) s
  let s2 := modPort s1 p (fun x => { x with
    retries := BitVec.ofNat 16 (satAdd 0xFFFF x.retries.toNat n), tries := if n = 0 then x.tries else x.tries + 1 })
  bumpEnt s2 0x5020 2 n 32

/-- The acknowledgement that a control flit carries. -/
def takeAck (s : State) (p : Fin 11) (fr : SpanFrame) : State :=
  let x := s.span.ports[p]
  let left := dropAcked fr.ack x.replay
  let s1 := modPort s p (fun x => { x with replay := left, tries := if left.length < x.replay.length then 0 else x.tries })
  let s2 := if fr.nak then resendFrames s1 p else s1
  settleHold (pumpPort x.txq.length s2 p) p

/-- A frame's data flits (R549): delivered in sequence, else discarded; the answer goes back with NAK where they were bad. -/
def takeData (s : State) (p : Fin 11) (fr : SpanFrame) (ok : Bool) : State :=
  let x := s.span.ports[p]
  if !ok then emit s (.spanAck p (x.rxSeq - 1) true)
  else if fr.packets = [] then s
  else if fr.seq = x.rxSeq then
    emit (modPort s p (fun x => { x with rxSeq := x.rxSeq + 1, rx := x.rx ++ fr.packets })) (.spanAck p fr.seq false)
  else if (x.rxSeq - fr.seq).toNat < 32768 then emit s (.spanAck p (x.rxSeq - 1) false)
  else emit s (.spanAck p (x.rxSeq - 1) true)

/-- A frame has been received. -/
def frameEffect (s : State) (p : Fin 11) (fr : SpanFrame) : State :=
  let ok := fr.crcOk && decide (fr.fecUncorrected = 0)
  let s1 := bumpEnt (bumpEnt s 0x5020 3 fr.fecCorrected 64) 0x5020 4 fr.fecUncorrected 32
  let s2 := takeData s1 p fr ok
  if ok then takeAck s2 p fr else s2

/-- SPAN_FRAME_RECEIVE. -/
def execSpanFrameReceive (p : Fin 11) (fr : SpanFrame) (s : State) : Outc :=
  onlyIf (unitsOn s && portUp s.span.ports[p]) s (frameEffect s p fr)

/-! ### Training (R550, R551, R556, R781) -/

/-- The oldest frame has been sent 8 times without delivery. -/
def retrainReady (s : State) (p : Fin 11) : Bool :=
  unitsOn s && portUp s.span.ports[p] && decide (8 ≤ (s.span.ports[p]).tries)

/-- A retraining starts; the other links keep running. -/
def retrainEffect (s : State) (p : Fin 11) : State :=
  bumpEnt (modPort s p (fun x => { x with st := 1, tries := 0 })) 0x5020 5 1 32

/-- LINK_RETRAIN. -/
def execLinkRetrain (p : Fin 11) (s : State) : Outc := onlyIf (retrainReady s p) s (retrainEffect s p)

/-- Links may train: from stage 5 on (R758, R763). -/
def trainAllowed (s : State) : Bool :=
  unitsOn s && (decide (s.boot.cur = 5) || decide (s.boot.cur = 6) || decide (s.boot.state = 1))

/-- TRAINING_SIGNAL_DETECTED. -/
def execTrainingSignalDetected (p : Fin 11) (s : State) : Outc :=
  onlyIf (trainAllowed s && decide ((s.span.ports[p]).st = 0) && !(s.span.ports[p]).hold) s
    (modPort s p (fun x => { x with st := 1 }))

/-- An external port (R547). -/
def externalPort (p : Fin 11) : Bool := decide (7 ≤ p.1)

/-- SPAN_ENC_PEER of an external port: the digest, when encryption is on (R781). -/
def encPeer (s : State) (p : Fin 11) : Option (List Byte) :=
  if externalPort p then
    let d := tget (fun _ => []) s.colo.oct (entKey 0x9040 (p.1 - 6))
    if d.any (fun b => decide (b ≠ 0)) then some d else none
  else none

/-- The far end is not the die that the topology or the module's ID range allows (R556). -/
def farCollides (s : State) (p : Fin 11) (far : BitVec 12) : Bool :=
  if externalPort p then (indexOf s far).isSome else decide (far ≠ idOf s (portPeer s p))

/-- A training has failed: the third in succession holds the link and is logged as a hard fault (R551). -/
def trainFailed (s : State) (p : Fin 11) : State :=
  let n := (s.span.ports[p]).fails + 1
  if 3 ≤ n then
    logFault (updateRoutes (modPort s p (fun x => heldPort 3 { x with fails := 0 }))) .span .hard none .none p.1 0 0
  else modPort s p (fun x => { x with fails := n })

/-- The die joins the timebase of a master with a lower ID (R521, R522). -/
def joinTimebase (s : State) (far : BitVec 12) (masterNs : Nat) : State :=
  if far < s.tb.master then
    { s with tb := { s.tb with master := far, ns := BitVec.ofNat 64 masterNs, frac := 0, offsetPs := 0, locked := true } }
  else s

/-- A link has trained: it comes up or narrow, or is held; frames in the replay buffer are sent again. -/
def trainedEffect (s : State) (p : Fin 11) (r : TrainReport) : State :=
  if farCollides s p r.farId then updateRoutes (modPort s p (heldPort 2))
  else
    let full : BitVec 3 := if externalPort p then 2 else 4
    let s1 := modPort s p (fun x => { x with
      st := if r.lanes = full then 2 else 3, lanes := r.lanes, farId := r.farId, farPort := r.farPort, delay := r.delay
      enc := (encPeer s p).isSome, hreason := 0, fails := 0, tries := 0 })
    let s2 := joinTimebase (writeOwnRoutes s1) r.farId r.masterNs
    let s3 := (s2.span.ports[p]).replay.foldl (fun t f => emit t (.span p f.2)) s2
    let s4 := settleHold (pumpPort (s3.span.ports[p]).txq.length s3 p) p
    if externalPort p then s4 else dieRejoins s4 (portPeer s p)

/-- LINK_TRAINING_COMPLETE: a training fails by its report, by a link agreement, or after an erasure of the keys. -/
def trainingEffect (s : State) (p : Fin 11) (r : TrainReport) : State :=
  if !r.ok then trainFailed s p
  else
    match encPeer s p with
    | none => trainedEffect s p r
    | some d =>
      if s.sec.keyState = 2 then trainFailed s p
      else if d ≠ Config.sm3 r.farKey then securityAlarm (trainFailed s p) 0x20
      else trainedEffect s p r

/-- LINK_TRAINING_COMPLETE. -/
def execLinkTrainingComplete (p : Fin 11) (r : TrainReport) (s : State) : Outc :=
  onlyIf (unitsOn s && decide ((s.span.ports[p]).st = 1)) s (trainingEffect s p r)

/-- LINK_DOWN. -/
def execLinkDown (p : Fin 11) (s : State) : Outc :=
  onlyIf (unitsOn s && portUsable s.span.ports[p]) s
    (updateRoutes (modPort s p (fun x => { x with st := 0, lanes := 0, enc := false })))

/-! ### The route table (R557, R558) -/

/-- Bits 63 to 0 of a route entry as they read. -/
def routeWord (r : Route) : Word := pack [(r.ports.toNat, 0), (b2n r.valid, 16), (b2n r.spray, 17), (b2n r.own, 18)]

/-- A write of a route entry is accepted. -/
def routeWriteOk (s : State) (id : BitVec 12) (v : Word) : Bool :=
  !(routeOf s id).own && !(bit v 16 && decide (field v 0 11 = 0))

/-- A write of a route entry. -/
def writeRoute (s : State) (id : BitVec 12) (v : Word) : State :=
  if routeWriteOk s id v then
    let e : Route := ⟨BitVec.ofNat 11 (field v 0 11), bit v 16, bit v 17, false⟩
    { s with tbl := { s.tbl with routes := tset routeDefault s.tbl.routes id.toNat e } }
  else s

/-- ROUTE_ENTRY_WRITE. -/
def execRouteEntryWrite (id : BitVec 12) (v : Word) (s : State) : Outc := onlyIf (unitsOn s) s (writeRoute s id v)

end Sys2Proof.Machine
end

