-- ==== Sys2Proof/Machine/Collective.lean ====
section
/-! DEFINITION. The collective engine: descriptors, reduction and distribution trees, announcements, data and completion
(R514 to R519, R574 to R587). -/

namespace Sys2Proof.Machine

/-! ### Arithmetic (R516, R583) -/

/-- A combine or conversion reports flags as bits 0 OVF, 1 NAR, 2 FLUSH. -/
def collFlg (e : Enc) : Nat := b2n e.ovf + 2 * b2n e.nar + 4 * b2n e.flush

/-- Format in which partial results travel: QP32 for the quire formats (R583). -/
def travelFmt (f : Fmt) : Fmt := if isQuire f then .qp32 else f

/-- combine of two patterns of the travelling format (R515, R516, R583). -/
def combinePat (f : Fmt) (op : Nat) (a b : Nat) : Enc :=
  let x := (decodeScalar f false a).1
  let y := (decodeScalar f false b).1
  match op with
  | 0 =>
    if isFloat f && !(x.isReal && y.isReal) then { pat := nonRealPat f, nar := true }
    else encodeScalar f false false (x.add y) .rne
  | 1 => if x.isNan || y.isNan then { pat := nonRealPat f, nar := true } else { pat := if minBefore x y then b else a }
  | _ => if x.isNan || y.isNan then { pat := nonRealPat f, nar := true } else { pat := if minBefore y x then b else a }

/-- Pattern of element i of an image of n-byte elements. -/
def elemAt (bs : List Byte) (n i : Nat) : Nat := leNat ((bs.drop (n * i)).take n)

/-- combine(own, received) of two images of the travelling format; answers the image and the flags of each element. -/
def combineImage (f : Fmt) (op : Nat) (own got : List Byte) : List Byte × List Nat :=
  let n := fmtBits f / 8
  let es := (List.range (own.length / n)).map (fun i => combinePat f op (elemAt own n i) (elemAt got n i))
  ((es.map (fun e => leBytes n e.pat)).flatten, es.map collFlg)

/-- An image of one format written in another, element by element, with the flags of each. -/
def convertImage (src dst : Fmt) (bs : List Byte) : List Byte × List Nat :=
  if src = dst then (bs, [])
  else
    let n := fmtBits src / 8
    let es := (List.range (bs.length / n)).map (fun i =>
      encodeScalar dst false false (decodeScalar src false (elemAt bs n i)).1 .rne)
    ((es.map (fun e => leBytes (fmtBits dst / 8) e.pat)).flatten, es.map collFlg)

/-- Flags of elements joined into the flags of blocks of `count` elements. -/
def blockFlags (count : Nat) (t : Table Nat) (fs : List Nat) : Table Nat :=
  fs.zipIdx.foldl (fun t p => if p.1 = 0 then t else tmod (fun _ => 0) t (p.2 / count) (· ||| p.1)) t

/-! ### Trees (R514, R580, R581) -/

/-- Levels of a tree over P ranks. -/
def treeLevels (p : Nat) : List Nat := (List.range 13).filter (fun l => decide (2 ^ l < p))

/-- The rank whose relative rank to a root is given. -/
def absRank (p root rel : Nat) : Nat := (rel + root) % p

/-- Relative rank (R581). -/
def relRank (p root r : Nat) : Nat := (r + p - root) % p

/-- Relative ranks below a rank in a tree: the partner and level of each transfer with a higher rank. -/
def treeDown (p rel : Nat) : List (Nat × Nat) :=
  ((treeLevels p).filter (fun l => decide (rel % 2 ^ (l + 1) = 0) && decide (rel + 2 ^ l < p))).map (fun l => (l, rel + 2 ^ l))

/-- The transfer with a lower rank, where there is one. -/
def treeUp (p rel : Nat) : List (Nat × Nat) :=
  ((treeLevels p).filter (fun l => decide (rel % 2 ^ (l + 1) = 2 ^ l))).map (fun l => (l, rel - 2 ^ l))

/-- A blank transfer. -/
def newXfer (list : List (BitVec 12)) (rank : Nat) (reduce : Bool) (level off bytes : Nat) : CollXfer :=
  ⟨list.getD rank 0, rank, reduce, level, off, bytes, false, [], false, false, []⟩

/-- Bytes of one element in memory. -/
def CollJob.esize (j : CollJob) : Nat := fmtBits ((fmtOfCode j.fmt.toNat).getD .p8) / 8
/-- Format of the elements. -/
def CollJob.format (j : CollJob) : Fmt := (fmtOfCode j.fmt.toNat).getD .p8
/-- Bytes of a block (or part) in memory. -/
def CollJob.block (j : CollJob) : Nat := j.count * j.esize
/-- Ranks. -/
def CollJob.p (j : CollJob) : Nat := j.list.length
/-- The kind reduces. -/
def CollJob.reduces (j : CollJob) : Bool := decide (j.kind.toNat ≤ 2)
/-- Blocks of the result image. -/
def CollJob.blocks (j : CollJob) : Nat := if j.kind = 2 ∨ j.kind = 4 then j.p else 1
/-- Bytes of the travelling partial result. -/
def CollJob.partBytes (j : CollJob) : Nat :=
  (if j.kind = 2 then j.p else 1) * j.count * (fmtBits (travelFmt j.format) / 8)

/-- Part of the result image that goes to relative rank `rel` at a level of the tree rooted at rank 0: for REDUCE_SCATTER the
parts of the ranks below it, otherwise everything. -/
def CollJob.span (j : CollJob) (level rel : Nat) : Nat × Nat :=
  if j.kind = 2 then (rel * j.block, (min j.p (rel + 2 ^ level) - rel) * j.block) else (0, j.block)

/-- Transfers that this rank receives. -/
def CollJob.plannedRecvs (j : CollJob) : List CollXfer :=
  let p := j.p
  let red := if j.reduces then (treeDown p j.rank).map (fun x => newXfer j.list x.2 true x.1 0 j.partBytes) else []
  let dist :=
    match j.kind.toNat with
    | 1 => []
    | 4 => ((List.range p).map (fun i => (treeUp p (relRank p i j.rank)).map (fun x =>
        newXfer j.list (absRank p i x.2) false x.1 (i * j.block) j.block))).flatten
    | _ => (treeUp p j.rank).map (fun x =>
        newXfer j.list x.2 false x.1 (j.span x.1 j.rank).1 (j.span x.1 j.rank).2)
  red ++ dist

/-- Transfers that this rank sends. -/
def CollJob.plannedSends (j : CollJob) : List CollXfer :=
  let p := j.p
  let red := if j.reduces then (treeUp p j.rank).map (fun x => newXfer j.list x.2 true x.1 0 j.partBytes) else []
  let dist :=
    match j.kind.toNat with
    | 1 => []
    | 4 => ((List.range p).map (fun i => (treeDown p (relRank p i j.rank)).map (fun x =>
        newXfer j.list (absRank p i x.2) false x.1 (i * j.block) j.block))).flatten
    | _ => (treeDown p j.rank).map (fun x =>
        newXfer j.list x.2 false x.1 (j.span x.1 x.2).1 (j.span x.1 x.2).2)
  red ++ dist

/-! ### Slots -/

/-- Changes slot i. -/
def modSlot (s : State) (i : Fin 8) (g : CollSlot → CollSlot) : State :=
  { s with coll := { s.coll with slots := vmod s.coll.slots i g } }

/-- Changes the job of slot i. -/
def modJob (s : State) (i : Fin 8) (g : CollJob → CollJob) : State := modSlot s i (fun x => { x with job := x.job.map g })

/-- SPAN.COLL as it reads (R576). -/
def collWord (x : CollSlot) : Word :=
  pack [(x.daddr.toNat, 0), (b2n x.busy, 41), (b2n x.done, 42), (b2n x.fail, 43), (x.fcode.toNat, 44), (b2n x.ovf, 48),
    (b2n x.nar, 49), (b2n x.flush, 50)]

/-- The interrupt and NOTIFY of a slot (R586, R748). -/
def collRaise (s : State) (i : Fin 8) : State := raise s 3 i.1 (field (collWord s.coll.slots[i]) 42 9)

/-- Ranges that a rank writes at DST (R578). -/
def CollJob.dstBytes (j : CollJob) : Nat :=
  match j.kind.toNat with
  | 1 => if j.rank = 0 then j.block else 0
  | 4 => j.p * j.block
  | _ => j.block

/-- Ranges that a rank reads at SRC. -/
def CollJob.srcBytes (j : CollJob) : Nat :=
  match j.kind.toNat with
  | 2 => j.p * j.block
  | 3 => if j.rank = 0 then j.block else 0
  | _ => j.block

/-- The collective of a slot fails (R585): DST is undefined and no token is signalled. -/
def collFail (s : State) (i : Fin 8) (code : BitVec 3) : State :=
  let s1 := match (s.coll.slots[i]).job with
    | some j => freeRange s (j.dst, j.dstBytes)
    | none => s
  collRaise (modSlot s1 i (fun x => { x with busy := false, fail := true, fcode := code, job := none })) i

/-! ### Sending (R582) -/

/-- A COLL packet of a slot. -/
def collPacket (s : State) (i : Fin 8) (dst : BitVec 12) (collId : BitVec 32) (off aux : Nat) (bs : List Byte) : SpanPacket :=
  { newPacket s 6 4 dst with
    copyId := BitVec.ofNat 16 (i.1 * 4096), addr := BitVec.ofNat 40 off, total := collId.setWidth 40
    aux := BitVec.ofNat 32 aux, payload := bs }

/-- The announcement that invites a transfer (R582; its payload layout is log 14's). -/
def announcement (s : State) (i : Fin 8) (j : CollJob) (x : CollXfer) : SpanPacket :=
  collPacket s i x.peer j.collId x.off (j.rank + 0x10000)
    ([j.kind.setWidth 8, j.op.setWidth 8, j.fmt.setWidth 8, 0] ++ leBytes 4 j.count ++ leBytes 2 j.p ++ [0, 0])

/-- Sends a packet of a slot; a refusal at this die fails the collective with ROUTE. -/
def collSend (s : State) (i : Fin 8) (k : SpanPacket) : State :=
  if (s.coll.slots[i]).busy then
    let r := spanSend s k
    match r.2 with
    | none => r.1
    | some _ => collFail r.1 i 5
  else s

/-- The data packets of a range, at most 4096 bytes each and none across a block: offset, length, block. -/
def dataPieces (off bytes block : Nat) : List (Nat × Nat × Nat) :=
  if block = 0 then []
  else ((List.range (bytes / block)).map (fun b => (List.range (ceilDiv block 4096)).map (fun q =>
    (off + b * block + q * 4096, min 4096 (block - q * 4096), off / block + b)))).flatten

/-- Block size of a transfer's image. -/
def CollJob.unit (j : CollJob) (x : CollXfer) : Nat :=
  if x.reduce then j.count * (fmtBits (travelFmt j.format) / 8) else j.block

/-- Bytes of the result image that a rank holds. -/
def CollJob.resultBytes (j : CollJob) (off n : Nat) : List Byte :=
  ((List.range (n / j.block)).map (fun b => tget (fun _ => []) j.result (off + b * j.block))).flatten

/-- Bytes that a transfer sends. -/
def CollJob.sendBytes (j : CollJob) (x : CollXfer) : List Byte := if x.reduce then j.part else j.resultBytes x.off x.bytes

/-- One data packet of a transfer; the block's flags travel in AUX[19:17] (log 14). -/
def dataPacket (s : State) (i : Fin 8) (j : CollJob) (x : CollXfer) (q : Nat × Nat × Nat) : SpanPacket :=
  collPacket s i x.peer j.collId q.1 (j.rank + tget (fun _ => 0) j.flags q.2.2 * 0x20000)
    ((j.sendBytes x |>.drop (q.1 - x.off)).take q.2.1)

/-- Every reduce-phase transfer into this rank has been combined. -/
def CollJob.reduced (j : CollJob) : Bool := j.recvs.all (fun x => !x.reduce || x.done)

/-- The bytes of a transfer are at hand (R580). -/
def CollJob.canSend (j : CollJob) (x : CollXfer) : Bool :=
  if x.reduce then j.reduced
  else (List.range (x.bytes / j.block)).all (fun b => decide (tget (fun _ => []) j.result (x.off + b * j.block) ≠ []))

/-- Marks the transfer of a list at position n. -/
def modNth (l : List CollXfer) (n : Nat) (g : CollXfer → CollXfer) : List CollXfer :=
  l.zipIdx.map (fun p => if p.2 = n then g p.1 else p.1)

/-- Sends the transfer at position n when it is invited and its bytes are at hand. -/
def trySend (i : Fin 8) (s : State) (n : Nat) : State :=
  match (s.coll.slots[i]).job with
  | none => s
  | some j =>
    match j.sends[n]? with
    | none => s
    | some x =>
      if x.invited && !x.sent && j.canSend x then
        let s1 := modJob s i (fun j => { j with sends := modNth j.sends n (fun x => { x with sent := true }) })
        (dataPieces x.off x.bytes (j.unit x)).foldl (fun t q => collSend t i (dataPacket t i j x q)) s1
      else s

/-! ### Receiving (R580, R583) -/

/-- A received transfer is complete and its turn has come: reduce transfers combine in ascending level. -/
def CollJob.due (j : CollJob) (x : CollXfer) : Bool :=
  !x.done && decide (x.data.length = x.bytes) && decide (0 < x.bytes)
    && (!x.reduce || j.recvs.all (fun y => !y.reduce || y.done || decide (x.level ≤ y.level)))

/-- A job with the received transfer at position n taken in. -/
def takeRecv (j : CollJob) (n : Nat) : CollJob :=
  match j.recvs[n]? with
  | none => j
  | some x =>
    if j.due x then
      let bs := x.data.map (·.2)
      let j1 := { j with recvs := modNth j.recvs n (fun x => { x with done := true, data := [] }) }
      if x.reduce then
        let r := combineImage (travelFmt j.format) j.op.toNat j.part bs
        { j1 with part := r.1, flags := blockFlags j.count j.flags r.2 }
      else
        { j1 with result := (List.range (x.bytes / j.block)).foldl (fun t b =>
            tput t (x.off + b * j.block) ((bs.drop (b * j.block)).take j.block)) j.result }
    else j

/-- Rank 0 of a reduction forms the results once everything has been combined. -/
def formResult (j : CollJob) : CollJob :=
  if j.reduces && decide (j.rank = 0) && j.reduced && decide (j.result = []) then
    let r := convertImage (travelFmt j.format) j.format j.part
    { j with
      flags := blockFlags j.count j.flags r.2
      result := (List.range j.blocks).map (fun b => (b * j.block, (r.1.drop (b * j.block)).take j.block)) }
  else j

/-- What a job can do now: take in transfers, form results, and send. -/
def collProgress (s : State) (i : Fin 8) : State :=
  let s1 := modJob s i (fun j => formResult ((List.range j.recvs.length).foldl takeRecv j))
  let n := match (s1.coll.slots[i]).job with | some j => j.sends.length | none => 0
  (List.range n).foldl (trySend i) s1

/-! ### Announcements (R582, R585) -/

/-- An announcement agrees with a job's descriptor. -/
def annAgrees (j : CollJob) (a : CollAnn) : Bool :=
  decide (a.kind = j.kind) && decide (a.op = j.op) && decide (a.fmt = j.fmt) && decide (a.count.toNat = j.count)
    && decide (a.p.toNat = j.p) && j.sends.any (fun x => decide (x.peer = a.src) && decide (x.off = a.off))

/-- A slot takes an announcement: its transfer is invited, or the collective fails with MISMATCH. -/
def takeAnn (s : State) (i : Fin 8) (a : CollAnn) : State :=
  match (s.coll.slots[i]).job with
  | none => s
  | some j =>
    if annAgrees j a then
      let mine (x : CollXfer) : Bool := decide (x.peer = a.src) && decide (x.off = a.off)
      let sends := modifyFirst mine (fun x => { x with invited := true }) j.sends
      collProgress (modJob s i (fun j => { j with sends := sends })) i
    else collFail s i 4

/-- The busy slot of a collective. -/
def slotOf (s : State) (id : BitVec 32) : Option (Fin 8) :=
  (List.finRange 8).find? (fun i => match (s.coll.slots[i]).job with
    | some j => (s.coll.slots[i]).busy && decide (j.collId = id)
    | none => false)

/-- An announcement as a packet carries it. -/
def annOf (k : SpanPacket) : CollAnn :=
  let b (i : Nat) : Nat := ((k.payload.drop i).headD 0).toNat
  ⟨k.src, BitVec.ofNat 32 k.total.toNat, BitVec.ofNat 3 (b 0), BitVec.ofNat 2 (b 1), BitVec.ofNat 5 (b 2),
   BitVec.ofNat 32 (leNat ((k.payload.drop 4).take 4)), BitVec.ofNat 16 (leNat ((k.payload.drop 8).take 2)), k.addr.toNat⟩

/-- An announcement arrives: a slot takes it, it is kept, or it is refused because the table is full. -/
def annEffect (s : State) (k : SpanPacket) : State :=
  let a := annOf k
  match slotOf s a.collId with
  | some i => takeAnn s i a
  | none =>
    if s.coll.anns.length < 64 then { s with coll := { s.coll with anns := s.coll.anns ++ [a] } }
    else sendNack s k .noaccess

/-! ### GO (R575 to R579, R585) -/

/-- The legal combinations of R579. -/
def collLegal (kind op : Nat) (fmt : Option Fmt) : Bool :=
  match fmt with
  | none => false
  | some f =>
    if kind ≤ 2 then
      match op with
      | 0 => [Fmt.qp8, .qp16, .qp32, .f32].contains f
      | 1 => [Fmt.p8, .p16, .p32, .f32, .i32, .i64].contains f
      | 2 => [Fmt.p8, .p16, .p32, .f32, .i32, .i64].contains f
      | _ => false
    else decide (kind ≤ 4) && decide (op = 0) && isStored f && decide (8 ≤ fmtBits f)

/-- A local range that the engine may access (R585 ADDRESS). -/
def collRange (s : State) (a n : Nat) : Bool :=
  (rangeErr s a n).isNone && !(decide (a < 0xC000000000) && decide (0x8000000000 < a + n)) && decide (a + n ≤ 2 ^ 40)

/-- SPAN.GROUP of a rank group (R574). -/
def groupWord (s : State) (g : Nat) : Word := tget (fun _ => 0) s.coll.groups g

/-- The list of a rank group, read at GO. -/
def groupList (s : State) (g : Word) : List (BitVec 12) :=
  (List.range (field g 40 12 + 1)).map (fun r => BitVec.ofNat 12 (leNat (localBytes s (field g 0 40 + 2 * r) 2)))

/-- The job that a descriptor describes. -/
def jobOf (s : State) (d : Nat) (list : List (BitVec 12)) : CollJob :=
  { kind := BitVec.ofNat 3 (fieldN d 0 3), op := BitVec.ofNat 2 (fieldN d 3 2), fmt := BitVec.ofNat 5 (fieldN d 5 5),
    count := fieldN d 32 32, src := fieldN d 64 40, dst := fieldN d 104 40, token := BitVec.ofNat 4 (fieldN d 144 4),
    formes := BitVec.ofNat 12 (fieldN d 148 12), collId := BitVec.ofNat 32 (fieldN d 160 32), list := list,
    rank := list.findIdx (fun x => decide (x = s.span.dieId)), part := [], result := [], flags := [], recvs := [], sends := [],
    started := s.tb.ns }

/-- The first failure of a GO, in the order FIELD, GROUP, ADDRESS; or the job. -/
def goCheck (s : State) (daddr : Nat) : Nat ⊕ CollJob :=
  if daddr % 64 ≠ 0 then .inl 1
  else if !gddrRange s.gddr daddr 64 || (readErr s [(daddr, 64)]).isSome then .inl 3
  else
    let d := gddrNat s daddr 64
    if !collLegal (fieldN d 0 3) (fieldN d 3 2) (fmtOfCode (fieldN d 5 5)) || decide (fieldN d 10 6 ≠ 0)
        || decide (fieldN d 22 10 ≠ 0) || decide (fieldN d 192 320 ≠ 0) || decide (fieldN d 32 32 = 0) then .inl 1
    else
      let g := groupWord s (fieldN d 16 6)
      let n := 2 * (field g 40 12 + 1)
      if !bit g 52 || decide (field g 0 40 % 64 ≠ 0) then .inl 2
      else if !collRange s (field g 0 40) n || (readErr s [(field g 0 40, n)]).isSome then .inl 3
      else
        let list := groupList s g
        if list.count s.span.dieId ≠ 1 then .inl 2
        else
          let j := jobOf s d list
          if !collRange s j.src j.srcBytes || !collRange s j.dst j.dstBytes || (readErr s [(j.src, j.srcBytes)]).isSome then .inl 3
          else .inr j

/-- A job with its transfers, its partial result and the block that it owns. -/
def primeJob (s : State) (j : CollJob) : CollJob :=
  let own := localBytes s j.src j.srcBytes
  let j1 := { j with recvs := j.plannedRecvs, sends := j.plannedSends }
  match j.kind.toNat with
  | 3 => if j.rank = 0 then { j1 with result := [(0, own)] } else j1
  | 4 => { j1 with result := [(j.rank * j.block, own)] }
  | _ => { j1 with part := (convertImage j.format (travelFmt j.format) own).1 }

/-- Every transfer into this rank is announced. -/
def announceAll (s : State) (i : Fin 8) (j : CollJob) : State :=
  j.recvs.foldl (fun t x => collSend t i (announcement t i j x)) s

/-- Announcements that were kept for this collective are taken. -/
def takeKept (s : State) (i : Fin 8) (id : BitVec 32) : State :=
  let mine := s.coll.anns.filter (fun a => decide (a.collId = id))
  let s1 : State := { s with coll := { s.coll with anns := s.coll.anns.filter (fun a => decide (a.collId ≠ id)) } }
  mine.foldl (fun t a => takeAnn t i a) s1

/-- An uncorrectable report or parity error that a GO meets in what it reads is logged (R689, R697). -/
def logCollRead (s : State) (rs : List (Nat × Nat)) : State :=
  match readErr s rs with
  | some (.lost a) => gddrError s none .none a
  | some (.parity .galley f o) => memoryError s .galley f o
  | some (.parity .quire f o) => memoryError s .quire f o
  | _ => s

/-- GO: the collective starts, or fails at once. -/
def collStart (s : State) (i : Fin 8) : State :=
  let a := (s.coll.slots[i]).daddr.toNat
  let s1 := modSlot s i (fun x => { x with busy := true, ovf := false, nar := false, flush := false, job := none })
  match goCheck s a with
  | .inl c =>
    let d := gddrNat s a 64
    let g := groupWord s (fieldN d 16 6)
    let reads := if c = 3 then [(a, 64), (field g 0 40, 2 * (field g 40 12 + 1)), (fieldN d 64 40, (jobOf s d (groupList s g)).srcBytes)]
      else []
    collFail (logCollRead s1 reads) i (BitVec.ofNat 3 c)
  | .inr j =>
    let j1 := primeJob s j
    let s2 := modSlot s1 i (fun x => { x with job := some { j1 with recvs := j1.recvs.map (fun x => { x with invited := true }) } })
    collProgress (takeKept (announceAll s2 i j1) i j.collId) i

/-- A write of SPAN.COLL (R576). -/
def writeColl (s : State) (i : Fin 8) (v : Word) : State :=
  let s1 := modSlot s i (fun x => { x with
    daddr := BitVec.ofNat 40 (field v 0 40), done := w1c x.done v 42, fail := w1c x.fail v 43 })
  if bit v 40 && !(s.coll.slots[i]).busy then collStart s1 i else s1

/-- COLL_GO: GO is written while the slot is not BUSY. -/
def execCollGo (i : Fin 8) (v : Word) (s : State) : Outc :=
  onlyIf (unitsOn s && bit v 40 && !(s.coll.slots[i]).busy) s (writeColl s i v)

/-! ### Packets -/

/-- A COLL packet waits on a port: an announcement or data. -/
def collWaits (s : State) (p : Fin 11) (ann : Bool) : Bool :=
  packetReady s p 6 && (match waitingPacket s p 6 with | some k => decide (k.aux.getLsbD 16 = ann) | none => false)

/-- COLL_ANNOUNCEMENT. -/
def execCollAnnouncement (p : Fin 11) (s : State) : Outc :=
  onlyIf (collWaits s p true) s (onPacket s p 6 answerCorrupt annEffect)

/-- The ACK of a transfer (R586): it names the slot, the offset and the bytes. -/
def collAck (s : State) (k : SpanPacket) (off bytes : Nat) : SpanPacket :=
  { newPacket s 4 1 k.src with copyId := k.copyId, addr := BitVec.ofNat 40 off, total := BitVec.ofNat 40 bytes }

/-- The received transfer that a data packet belongs to. -/
def recvIx (j : CollJob) (k : SpanPacket) : Option Nat :=
  findIx (fun x => decide (x.peer = k.src) && decide (x.rank = k.aux.toNat % 4096) && decide (x.off ≤ k.addr.toNat)
    && decide (k.addr.toNat + k.payload.length ≤ x.off + x.bytes) && !x.done) j.recvs 0

/-- A data packet of a collective. -/
def dataEffect (s : State) (k : SpanPacket) : State :=
  match slotOf s (BitVec.ofNat 32 k.total.toNat) with
  | none => s
  | some i =>
    match (s.coll.slots[i]).job with
    | none => s
    | some j =>
      match recvIx j k with
      | none => s
      | some n =>
        let x := j.recvs.getD n (newXfer [] 0 false 0 0 0)
        let data := (placed k.addr.toNat k.payload).foldl (fun t p => tput t p.1 p.2) x.data
        let unit := j.unit x
        let fl := fieldN k.aux.toNat 17 3
        let s1 := modJob s i (fun j => { j with
          recvs := modNth j.recvs n (fun x => { x with data := data })
          flags := if fl = 0 ∨ unit = 0 then j.flags else tmod (fun _ => 0) j.flags (k.addr.toNat / unit) (· ||| fl) })
        let s2 := if data.length = x.bytes then (spanSend s1 (collAck s1 k x.off x.bytes)).1 else s1
        collProgress s2 i

/-- COLL_DATA. -/
def execCollData (p : Fin 11) (s : State) : Outc :=
  onlyIf (collWaits s p false) s (onPacket s p 6 answerCorrupt dataEffect)

/-- A refused announcement of a slot to a peer waits to be repeated. -/
def repeatReady (s : State) (i : Fin 8) (peer : BitVec 12) : Bool :=
  unitsOn s && (match (s.coll.slots[i]).job with
    | some j => j.recvs.any (fun x => decide (x.peer = peer) && !x.invited)
    | none => false)

/-- The refused announcements of a slot to a peer are sent again. -/
def repeatEffect (s : State) (i : Fin 8) (peer : BitVec 12) : State :=
  match (s.coll.slots[i]).job with
  | none => s
  | some j =>
    let xs := j.recvs.filter (fun x => decide (x.peer = peer) && !x.invited)
    let s1 := modJob s i (fun j => { j with
      recvs := j.recvs.map (fun x => if x.peer = peer then { x with invited := true } else x) })
    xs.foldl (fun t x => collSend t i (announcement t i j x)) s1

/-- ANNOUNCE_REPEAT. -/
def execAnnounceRepeat (i : Fin 8) (peer : BitVec 12) (s : State) : Outc :=
  onlyIf (repeatReady s i peer) s (repeatEffect s i peer)

/-! ### Completion (R576, R586) -/

/-- Every transfer is over. -/
def CollJob.finished (j : CollJob) : Bool := j.recvs.all (·.done) && j.sends.all (·.done)

/-- Result bytes that this rank writes at DST. -/
def CollJob.output (j : CollJob) : List Byte :=
  match j.kind.toNat with
  | 1 => if j.rank = 0 then j.resultBytes 0 j.block else []
  | 2 => j.resultBytes (j.rank * j.block) j.block
  | 4 => j.resultBytes 0 (j.p * j.block)
  | _ => j.resultBytes 0 j.block

/-- Flags of the results that this rank writes. -/
def CollJob.outFlags (j : CollJob) : Nat :=
  match j.kind.toNat with
  | 0 => tget (fun _ => 0) j.flags 0
  | 1 => if j.rank = 0 then tget (fun _ => 0) j.flags 0 else 0
  | 2 => tget (fun _ => 0) j.flags j.rank
  | _ => 0

/-- COLL_COMPLETE may happen. -/
def collDoneReady (s : State) (i : Fin 8) : Bool :=
  unitsOn s && (s.coll.slots[i]).busy && (match (s.coll.slots[i]).job with | some j => j.finished | none => false)

/-- The results are written, the tokens signalled, and DONE set. -/
def collDoneEffect (s : State) (i : Fin 8) : State :=
  match (s.coll.slots[i]).job with
  | none => s
  | some j =>
    let s1 := localPutAll s (placed j.dst j.output)
    let s2 := signalMask s1 j.formes j.token
    let f := j.outFlags
    collRaise (modSlot s2 i (fun x => { x with
      busy := false, done := true, ovf := f.testBit 0, nar := f.testBit 1, flush := f.testBit 2, job := none })) i

/-- COLL_COMPLETE. -/
def execCollComplete (i : Fin 8) (s : State) : Outc := onlyIf (collDoneReady s i) s (collDoneEffect s i)

/-- A slot has been BUSY for longer than COLL_TIMEOUT_US; 0 disables. -/
def collLate (s : State) (i : Fin 8) : Bool :=
  unitsOn s && (s.coll.slots[i]).busy && decide (entN s 0x5030 3 ≠ 0) &&
  (match (s.coll.slots[i]).job with
   | some j => decide (j.started.toNat + 1000 * entN s 0x5030 3 < s.tb.ns.toNat)
   | none => false)

/-- COLL_TIMEOUT. -/
def execCollTimeout (i : Fin 8) (s : State) : Outc := onlyIf (collLate s i) s (collFail s i 6)

/-! ### Answers -/

/-- ACK of a transfer. -/
def collAcked (s : State) (k : SpanPacket) : State :=
  let i : Fin 8 := (BitVec.ofNat 3 (k.copyId.toNat / 4096)).toFin
  modJob s i (fun j => { j with sends := j.sends.map (fun x =>
    if x.peer = k.src ∧ x.off = k.addr.toNat ∧ x.sent = true then { x with done := true } else x) })

/-- NACK CORRUPT of a data packet: sent again; the third failure is logged in class SPAN (R567). -/
def collCorrupt (s : State) (i : Fin 8) (j : CollJob) (k : SpanPacket) : State :=
  let a := k.addr.toNat
  match findIx (fun x => decide (x.peer = k.src) && x.sent && decide (x.off ≤ a) && decide (a < x.off + x.bytes)) j.sends 0 with
  | none => s
  | some n =>
    let x := j.sends.getD n (newXfer [] 0 false 0 0 0)
    if 2 ≤ tget (fun _ => 0) x.pcrc a then
      logFault s .span .replay none .none (((choosePort s k none).map (·.1)).getD 0) 0 0
    else
      let s1 := modJob s i (fun j => { j with
        sends := modNth j.sends n (fun x => { x with pcrc := tmod (fun _ => 0) x.pcrc a (· + 1) }) })
      ((dataPieces x.off x.bytes (j.unit x)).filter (fun q => decide (q.1 = a))).foldl
        (fun t q => collSend t i (dataPacket t i j x q)) s1

/-- NACK of a COLL packet (R566, R582, R585). -/
def collNack (s : State) (k : SpanPacket) : State :=
  let i : Fin 8 := (BitVec.ofNat 3 (k.copyId.toNat / 4096)).toFin
  let r := fieldN k.aux.toNat 0 4
  match (s.coll.slots[i]).job with
  | none => s
  | some j =>
    if j.collId.toNat ≠ k.total.toNat then s
    else if r = 2 ∨ r = 3 then collFail s i 5
    else if k.aux.getLsbD 16 then
      let s1 := modJob s i (fun j => { j with recvs := j.recvs.map (fun x =>
        if x.peer = k.src ∧ x.off = k.addr.toNat then { x with invited := false } else x) })
      if r = 5 then repeatEffect s1 i k.src else s1
    else if r = 5 then collCorrupt s i j k
    else s

end Sys2Proof.Machine
end

