-- ==== Sys2Proof/Machine/SpanFam.lean ====
section
/-! DEFINITION. Span packets of copies and reads: WRITE, READ_REQ, READ_RESP, ACK and NACK (R438, R452, R565 to R569). -/

namespace Sys2Proof.Machine

/-! ### Access from another die -/

/-- The first address of a range that a packet may not access on this die, with the NACK reason. Remote windows serve only the
die's own Carriages. -/
def remoteErr (s : State) (a n : Nat) : Option (Nat × Nack) :=
  match rangeErr s a n with
  | some (x, .unmapped) => some (x, .unmapped)
  | some (x, .noaccess) => some (x, .noaccess)
  | none => if decide (a < 0xC000000000) && decide (0x8000000000 < a + n) then some (max a 0x8000000000, .unmapped) else none

/-- Refuses a packet at an address (R565). -/
def refuseAt (s : State) (k : SpanPacket) (a : Nat) (r : Nack) : State :=
  (spanSend s { nackFor s k r with addr := BitVec.ofNat 40 a }).1

/-! ### WRITE (R452, R568) -/

/-- A count of the bytes written for the copy that a packet belongs to. -/
def partialOf (s : State) (k : SpanPacket) : Partial :=
  match s.span.part.find? (fun x => decide (x.src = k.src) && decide (x.sforme = k.sforme) && decide (x.scarr = k.scarr)
      && decide (x.copyId = k.copyId)) with
  | some x => x
  | none => ⟨k.src, k.sforme, k.scarr, k.copyId, 0, none, 0, false, 0⟩

/-- The count after a packet; LAST brings the total. -/
def countPartial (x : Partial) (k : SpanPacket) : Partial :=
  { x with
    count := x.count + k.payload.length
    total := if k.last then some k.total.toNat else x.total
    rtok := k.rtok, rsen := k.rsen, rforme := k.rforme }

/-- The counts without a copy. -/
def otherPartials (s : State) (k : SpanPacket) : List Partial :=
  s.span.part.filter (fun x => !(decide (x.src = k.src) && decide (x.sforme = k.sforme) && decide (x.scarr = k.scarr)
    && decide (x.copyId = k.copyId)))

/-- The ACK of a copy (R565). -/
def copyAck (s : State) (k : SpanPacket) (total : Nat) : SpanPacket :=
  { newPacket s 4 1 k.src with
    sforme := k.sforme, scarr := k.scarr, copyId := k.copyId, total := BitVec.ofNat 40 total }

/-- The signal that a copy asks for. -/
def partialSignal (s : State) (x : Partial) : State :=
  if x.rsen then (if h : x.rforme.toNat < 12 then remoteSignal s ⟨x.rforme.toNat, h⟩ x.rtok 1 else s) else s

/-- A WRITE packet for this die: written and counted; the last byte makes the signal and the ACK. -/
def writePacketEffect (s : State) (k : SpanPacket) : State :=
  match remoteErr s k.addr.toNat k.payload.length with
  | some (a, r) => refuseAt s k a r
  | none =>
    let x := countPartial (partialOf s k) k
    let s1 := localPutAll s (placed k.addr.toNat k.payload)
    if x.total = some x.count then
      let s2 := partialSignal { s1 with span := { s1.span with part := otherPartials s k } } x
      (spanSend s2 (copyAck s2 k x.count)).1
    else { s1 with span := { s1.span with part := otherPartials s k ++ [x] } }

/-- SPAN_WRITE. -/
def execSpanWrite (p : Fin 11) (s : State) : Outc :=
  onlyIf (packetReady s p 1) s (onPacket s p 1 answerCorrupt writePacketEffect)

/-! ### READ_REQ (R565, R567) -/

/-- A READ_RESP packet; `bad` spoils its PCRC, so that a read of lost data never delivers bytes (log 14). -/
def responsePacket (s : State) (k : SpanPacket) (bs : List Byte) (bad : Bool) : SpanPacket :=
  let r := sealPacket { newPacket s 3 1 k.src with
    sforme := k.sforme, scarr := k.scarr, copyId := k.copyId, addr := k.addr
    aux := BitVec.ofNat 32 (k.aux.toNat / 65536 * 65536), payload := bs }
  if bad then { r with pcrc := ~~~r.pcrc } else r

/-- Sends a packet that is sealed already. -/
def sendSealed (s : State) (k : SpanPacket) : State :=
  match routePacket s k none with
  | .inr p => enqueuePort s p k
  | .inl .route => bumpEnt s 0x5020 6 1 32
  | .inl _ => s

/-- An error of stored data that a read for another die meets is logged here. -/
def logRemoteRead (s : State) (e : ReadErr) : State :=
  match e with
  | .lost a => gddrError s none .none a
  | .parity .galley f o => memoryError s .galley f o
  | .parity .quire f o => memoryError s .quire f o
  | .parity cls f o => logFault s cls .replay (some f) .none (o / 0x20000) 0 (fountAddr f (o / 64 * 64))

/-- Serves n bytes of this die to the die of a packet, and remembers the packet in case it must be sent again. -/
def serveRead (s : State) (k : SpanPacket) (n : Nat) : State :=
  let bs := localBytes s k.addr.toNat n
  let keep := ({ k with payload := [] }, n) :: (s.span.served.filter (fun x => decide (x.1 ≠ { k with payload := [] }))).take 511
  let s1 : State := { s with span := { s.span with served := keep } }
  match readErr s1 [(k.addr.toNat, n)] with
  | some e => sendSealed (logRemoteRead s1 e) (responsePacket s1 k bs true)
  | none => sendSealed s1 (responsePacket s1 k bs false)

/-- A READ_REQ packet for this die. -/
def readReqEffect (s : State) (k : SpanPacket) : State :=
  let n := k.aux.toNat % 8192
  if n = 0 ∨ 4096 < n then s
  else
    match remoteErr s k.addr.toNat n with
    | some (a, r) => refuseAt s k a r
    | none => serveRead s k n

/-- SPAN_READ_REQ. -/
def execSpanReadReq (p : Fin 11) (s : State) : Outc :=
  onlyIf (packetReady s p 2) s (onPacket s p 2 answerCorrupt readReqEffect)

/-! ### READ_RESP (R565, R567) -/

/-- The packet belongs to a table load: COPYID 0xFFFF and a request ID from 0x8000 (log 17). -/
def forLoad (k : SpanPacket) : Bool := decide (k.copyId = 0xFFFF) && decide (0x8000 ≤ k.aux.toNat / 65536)

/-- The Carriage that a packet names, when its copy is the one named. -/
def packetCar (s : State) (k : SpanPacket) : Option (FormeIx × Fin 8) :=
  if h : k.sforme.toNat < 12 then
    let f : FormeIx := ⟨k.sforme.toNat, h⟩
    let c : Fin 8 := k.scarr.toFin
    if (carOf s f c).busy ∧ (carOf s f c).copyId = k.copyId then some (f, c) else none
  else none

/-- The Forme that a packet names. -/
def packetForme (k : SpanPacket) : Option FormeIx := if h : k.sforme.toNat < 12 then some ⟨k.sforme.toNat, h⟩ else none

/-- Bytes of a table load have arrived. -/
def loadBytes (s : State) (k : SpanPacket) : State :=
  match packetForme k with
  | none => s
  | some f => modForme s f (fun fm => match fm.vu.ftLoad with
      | some l =>
        let l1 := { l with data := (placed k.addr.toNat k.payload).foldl (fun t p => tput t p.1 p.2) l.data }
        if l.started then { fm with vu := { fm.vu with ftLoad := some l1 } } else fm
      | none => fm)

/-- A READ_RESP packet for this die. -/
def readRespEffect (s : State) (k : SpanPacket) : State :=
  if forLoad k then loadBytes s k
  else
    match packetCar s k with
    | some (f, c) => pumpCopies (pieceArrived s f c k.addr.toNat k.payload)
    | none => s

/-- The NACK CORRUPT of a READ_RESP: AUX[4] tells it from that of a WRITE (log 14). -/
def respNack (s : State) (k : SpanPacket) : State :=
  let n := nackFor s k .corrupt
  (spanSend s { n with aux := n.aux ||| 16 }).1

/-- Port that a packet from a die takes back; the INDEX of a SPAN record. -/
def backPort (s : State) (k : SpanPacket) : Nat := ((choosePort s { k with dst := k.src } none).map (·.1)).getD 0

/-- The third PCRC failure of a table load's packet: the load ends and its folio is aborted. -/
def loadCorrupt (s : State) (f : FormeIx) (l : FtLoad) (k : SpanPacket) : State :=
  let a := k.addr.toNat
  if 2 ≤ tget (fun _ => 0) l.pcrc a then
    storedAbort (logFault (dropLoad s f l) .span .replay (some f) .folioAborted (backPort s k) (folioIdOf s f) 0) f
  else
    let l1 := { l with pcrc := tmod (fun _ => 0) l.pcrc a (· + 1) }
    respNack (modForme s f (fun fm => { fm with vu := { fm.vu with ftLoad := some l1 } })) k

/-- A READ_RESP whose PCRC fails (R567). -/
def respCorrupt (s : State) (k : SpanPacket) : State :=
  if forLoad k then
    match packetForme k with
    | some f => (match (s.forme f).vu.ftLoad with | some l => loadCorrupt s f l k | none => s)
    | none => s
  else
    match packetCar s k with
    | some (f, c) =>
      let a := k.addr.toNat
      if 2 ≤ tget (fun _ => 0) (carOf s f c).pcrc a then
        storedAbort (logFault (dropCopy s f c) .span .replay (some f) .folioAborted (backPort s k) (folioIdOf s f) 0) f
      else respNack (modCar s f c (fun x => { x with pcrc := tmod (fun _ => 0) x.pcrc a (· + 1) })) k
    | none => s

/-- SPAN_READ_RESP. -/
def execSpanReadResp (p : Fin 11) (s : State) : Outc :=
  onlyIf (packetReady s p 3) s (onPacket s p 3 respCorrupt readRespEffect)

/-! ### ACK (R565) -/

/-- An ACK packet for this die. -/
def ackEffect (s : State) (k : SpanPacket) : State :=
  if k.sforme = 15 then collAcked s k
  else
    match packetCar s k with
    | some (f, c) => copyAcked s f c k.total.toNat
    | none => s

/-- SPAN_ACK. -/
def execSpanAck (p : Fin 11) (s : State) : Outc := onlyIf (packetReady s p 4) s (onPacket s p 4 (fun s _ => s) ackEffect)

/-! ### NACK (R566, R567) -/

/-- A READ_RESP that this die sent is sent again. -/
def serveAgain (s : State) (k : SpanPacket) : State :=
  match s.span.served.find? (fun x => decide (x.1.src = k.src) && decide (x.1.sforme = k.sforme)
      && decide (x.1.scarr = k.scarr) && decide (x.1.copyId = k.copyId) && decide (x.1.addr = k.addr)) with
  | some x => serveRead s x.1 x.2
  | none => s

/-- A NACK of a table load: CORRUPT asks for the piece again; any other reason is program error ADDRESS. -/
def loadNack (s : State) (k : SpanPacket) : State :=
  match packetForme k with
  | none => s
  | some f =>
    match (s.forme f).vu.ftLoad with
    | none => s
    | some l =>
      if fieldN k.aux.toNat 0 4 = 5 then (spanSend s (loadRequest s f l (k.aux.toNat / 65536 - 0x8000))).1
      else progError (dropLoad s f l) f .address (queueCode .fq) 0 l.index

/-- A NACK packet for this die. -/
def nackEffect (s : State) (k : SpanPacket) : State :=
  if k.aux.getLsbD 4 then serveAgain s k
  else if k.sforme = 15 then 
    (if 0xC000 ≤ k.copyId.toNat then ethNack s k else if k.copyId.getLsbD 15 then keystoneNack s k else collNack s k)
  else if forLoad k then loadNack s k
  else
    match packetCar s k with
    | some (f, c) =>
      if fieldN k.aux.toNat 0 4 = 5 then copyCorrupt s f c k.addr.toNat (backPort s k) else pumpCopies (failCopy s f c)
    | none => s

/-- SPAN_NACK. -/
def execSpanNack (p : Fin 11) (s : State) : Outc := onlyIf (packetReady s p 5) s (onPacket s p 5 (fun s _ => s) nackEffect)

end Sys2Proof.Machine
end

