-- ==== Sys2Proof/Machine/FaultFam.lean ====
section
/-! DEFINITION. Stored-data integrity: line checks, retirement, buckets, checker tests, fencing and the check unit (R693 to R695,
R701 to R721, R764). -/

namespace Sys2Proof.Machine

/-! ### Line checks (R693, R694) -/

/-- The Forme is IDLE and a line of it waits for its check. -/
def lineCheckReady (s : State) (f : FormeIx) : Bool :=
  unitsOn s && decide ((s.forme f).fe.state = .idle) && (s.forme f).line.isSome

/-- 64 bytes of 0xAA with correct parity. -/
def aaLine (m : ParMem) (o : Nat) : ParMem := m.putAll (placed o (List.replicate 64 0xAA))

/-- The line at a local address is checked: it ends as 0xAA bytes, and bytes that do not hold both patterns make a HARD
record. -/
def lineCheck (s : State) (f : FormeIx) (a : Nat) (bad : Bool) : State :=
  let fm := s.forme f
  let q := decide (quireAddr f 0 ≤ a)
  let o := a - (if q then quireAddr f 0 else galleyAddr f 0)
  let s1 := modForme s f (fun fm =>
    if q then { fm with quire := aaLine fm.quire o, line := none } else { fm with galley := aaLine fm.galley o, line := none })
  if bad then logFault s1 (if q then .quire else .galley) .hard (some f) .none (if q then o / 0x10000 else bankOf fm o)
    fm.fe.folioId a
  else s1

/-- What LINE_CHECK does; the operand lists the bytes of the line that are stuck. -/
def lineCheckEffect (s : State) (f : FormeIx) (stuck : List (Nat × Byte)) : State :=
  match (s.forme f).line with
  | some a => lineCheck s f a (stuck.any (fun p => decide (p.1 < 64)))
  | none => s

/-- LINE_CHECK. -/
def execLineCheck (f : FormeIx) (stuck : List (Nat × Byte)) (s : State) : Outc :=
  onlyIf (lineCheckReady s f) s (lineCheckEffect s f stuck)

/-! ### Retiring a Forme (R695) -/

/-- A write of FORME.FAULT_CTRL: RETIRE stays once set and takes effect when the Forme is IDLE; HOLD clears by a 1. -/
def writeFaultCtrl (fm : Forme) (v : Word) : Forme :=
  let t := { fm.test with retire := fm.test.retire || bit v 0, hold := w1c fm.test.hold v 2 }
  { fm with test := if t.retire && decide (fm.fe.state = .idle) then { t with retired := true } else t }

/-- FORME.FAULT_CTRL as it reads. -/
def faultCtrlWord (t : FormeTest) : Word := pack [(b2n t.retire, 0), (b2n t.retired, 1), (b2n t.hold, 2)]

/-- FORME_RETIRE. -/
def execFormeRetire (f : FormeIx) (v : Word) (s : State) : Outc :=
  onlyIf (unitsOn s && bit v 0) s (relist s (modForme s f (fun fm => writeFaultCtrl fm v)))

/-! ### Buckets and the log (R701 to R708) -/

/-- LEAK_MS of a class in nanoseconds. -/
def leakNs (s : State) (c : Fin 12) : Nat := 1000000 * entN s (0x8010 + c.1) 4

/-- LEVEL drops by 1 unless it is 0. -/
def leakEffect (s : State) (c : Fin 12) : State :=
  { s with fault := { s.fault with
      level := vmod s.fault.level c (fun l => if l = 0 then 0 else l - 1)
      leakAt := vmod s.fault.leakAt c (fun t => t + BitVec.ofNat 64 (leakNs s c)) } }

/-- BUCKET_LEAK. -/
def execBucketLeak (c : Fin 12) (s : State) : Outc :=
  onlyIf (unitsOn s && elapsed s (s.fault.leakAt[c]) (leakNs s c)) s (leakEffect s c)

/-- A write of FAULT.LOG_CTRL (R708). -/
def writeLogCtrl (s : State) (v : Word) : State :=
  if bit v 63 then { s with fault := { s.fault with pendHard := false } } else s

/-- FAULT.LOG_CTRL as it reads. -/
def logCtrlWord (s : State) : Word := pack [(s.fault.nextSeq.toNat % 2 ^ 48, 0)]

/-- ACK. -/
def execAck (v : Word) (s : State) : Outc := onlyIf (unitsOn s && bit v 63) s (writeLogCtrl s v)

/-- A write of FAULT.BUCKETS (R702). -/
def writeBuckets (s : State) (v : Word) : State :=
  { s with fault := { s.fault with ovf := s.fault.ovf &&& ~~~ BitVec.ofNat 12 (field v 0 12) } }

/-- A write of FAULT.INT_CTRL (R703). -/
def writeIntCtrl (s : State) (v : Word) : State :=
  { s with fault := { s.fault with harts := BitVec.ofNat 8 (field v 0 8), hardInt := bit v 8 } }

/-- The 32 bytes of a record of the error log (R705). -/
def faultBytes (r : FaultRec) : List Byte :=
  leBytes 32 (r.seq.toNat + r.time.toNat * 2 ^ 64 + r.cls.toNat * 2 ^ 128 + r.sev.toNat * 2 ^ 132 + r.forme.toNat * 2 ^ 136
    + r.action.toNat * 2 ^ 140 + r.index.toNat * 2 ^ 144 + r.folio.toNat * 2 ^ 160 + r.addr.toNat * 2 ^ 192)

/-- An empty slot of the error log: SEQ of all ones. -/
def emptyFault : List Byte := List.replicate 8 0xFF ++ List.replicate 24 0

/-- Slot k of the error log: the latest record whose SEQ falls on it. -/
def faultSlot (s : State) (k : Nat) : List Byte :=
  match s.fault.recs.find? (fun r => decide (r.seq.toNat % 1024 = k)) with
  | some r => faultBytes r
  | none => emptyFault

/-! ### Testing the checkers (R710, R711) -/

/-- Eight bytes with their parity bits, stored unchecked. -/
def splitStore (m : ParMem) (o : Nat) (data : Word) (par : BitVec 8) : ParMem :=
  (List.range 8).foldl (fun m j => m.putRaw (o + j) (BitVec.ofNat 8 (field data (8 * j) 8)) (par.getLsbD j)) m

/-- The parity bits of eight bytes. -/
def splitPar (m : ParMem) (o : Nat) : BitVec 8 :=
  BitVec.ofNat 8 (sumN ((List.range 8).map (fun j => b2n (m.par (o + j)) * 2 ^ j)))

/-- A split access may be carried out: the Forme is IDLE, MEM names a memory, and the offset lies in it. -/
def splitOk (fm : Forme) (mem o : Nat) : Bool :=
  decide (fm.fe.state = .idle) && (decide (mem = 1) || (decide (mem = 0) && decide (o < galleyBytes fm)))

/-- The split write of SPLIT_DATA and SPLIT_PAR. -/
def splitWrite (fm : Forme) (mem o : Nat) : Forme :=
  if mem = 0 then { fm with galley := splitStore fm.galley o fm.test.splitData fm.test.splitPar }
  else { fm with quire := splitStore fm.quire o fm.test.splitData fm.test.splitPar }

/-- The split read into SPLIT_DATA and SPLIT_PAR. -/
def splitRead (fm : Forme) (mem o : Nat) : Forme :=
  let m := if mem = 0 then fm.galley else fm.quire
  { fm with test := { fm.test with splitData := BitVec.ofNat 64 (leNat (m.bytes o 8)), splitPar := splitPar m o } }

/-- A write of FORME.SPLIT_ADDR. -/
def writeSplitAddr (fm : Forme) (v : Word) : Forme :=
  let mem := field v 24 2
  let o := field v 0 24 / 8 * 8
  let fm1 := { fm with test := { fm.test with
    splitOff := BitVec.ofNat 24 (field v 0 24), splitMem := BitVec.ofNat 2 mem, splitRef := w1c fm.test.splitRef v 28 } }
  if !bit v 26 && !bit v 27 then fm1
  else if splitOk fm mem o then
    let fm2 := if bit v 26 then splitWrite fm1 mem o else fm1
    if bit v 27 then splitRead fm2 mem o else fm2
  else { fm1 with test := { fm1.test with splitRef := true } }

/-- FORME.SPLIT_ADDR as it reads. -/
def splitAddrWord (t : FormeTest) : Word := pack [(t.splitOff.toNat, 0), (t.splitMem.toNat, 24), (b2n t.splitRef, 28)]

/-- SPLIT_WRITE. -/
def execSplitWrite (f : FormeIx) (v : Word) (s : State) : Outc :=
  onlyIf (unitsOn s && bit v 26) s (modForme s f (fun fm => writeSplitAddr fm v))

/-- SPLIT_READ. -/
def execSplitRead (f : FormeIx) (v : Word) (s : State) : Outc :=
  onlyIf (unitsOn s && bit v 27) s (modForme s f (fun fm => writeSplitAddr fm v))

/-- A write of GALLEY.FLIP. -/
def writeFlip (fm : Forme) (v : Word) : Forme :=
  { fm with test := { fm.test with
      flipByte := BitVec.ofNat 6 (field v 0 6), dmask := BitVec.ofNat 8 (field v 8 8), pflip := bit v 16, arm := bit v 17 } }

/-- GALLEY.FLIP as it reads. -/
def flipWord (t : FormeTest) : Word := pack [(t.flipByte.toNat, 0), (t.dmask.toNat, 8), (b2n t.pflip, 16), (b2n t.arm, 17)]

/-- GALLEY_FLIP. -/
def execGalleyFlip (f : FormeIx) (v : Word) (s : State) : Outc :=
  onlyIf (unitsOn s && bit v 17) s (modForme s f (fun fm => writeFlip fm v))

/-! ### Fencing (R713 to R717) -/

/-- A write of FAULT.FENCE. -/
def writeFence (s : State) (v : Word) : State := if bit v 4 then fenceDie s 1 else s

/-- FAULT.FENCE as it reads. -/
def fenceWord (s : State) : Word := pack [(b2n s.fault.fenced, 0), (s.fault.reason.toNat, 1)]

/-- FENCE_REQ. -/
def execFenceReq (v : Word) (s : State) : Outc := onlyIf (unitsOn s && bit v 4) s (writeFence s v)

/-- The internal links to a fenced die are held with reason FENCED (R563). -/
def holdLinks (s : State) (d : Nat) : State :=
  (internalPorts.filter (fun p => decide (portPeer s p = d))).foldl (fun t p => modPort t p (heldPort 4)) s

/-- The die with the next lowest ID becomes the timebase's master (R523). -/
def nextMaster (s : State) (d : Nat) : State :=
  if s.tb.master = idOf s d then
    match (List.range (dieCount s.build)).find? (fun e => !s.fault.dies.getLsbD e) with
    | some e => { s with tb := { s.tb with master := idOf s e } }
    | none => s
  else s

/-- The Impression mirror is lost when its die is fenced (R544). -/
def mirrorDieLost (s : State) (d : Nat) : State :=
  if logOn s && decide (entN s 0x7010 5 = d) && !s.log.mirrorLost then
    raise { s with log := { s.log with mirrorLost := true } } 7 d 0
  else s

/-- What this die does when die d of the module is fenced, or is found in Falsework mode (reason 0, R764). -/
def peerFenced (s : State) (d : Fin 8) (reason : BitVec 3) : State :=
  let s1 : State := { s with fault := { s.fault with dies := s.fault.dies ||| BitVec.ofNat 8 (2 ^ d.1) } }
  let s2 := dropPartials (updateRoutes (holdLinks s1 d.1)) (idOf s d.1)
  let s3 := nextMaster (updateServer s2) d.1
  let s4 := servicesLoseDie (mirrorDieLost s3 d.1) d.1
  raise s4 8 d.1 reason.toNat

/-- Another die of the module, not known to be fenced yet. -/
def peerFencedReady (s : State) (d : Fin 8) : Bool :=
  unitsOn s && decide (d ≠ s.dieIndex) && decide (d.1 < dieCount s.build) && !s.fault.dies.getLsbD d.1

/-- PEER_FENCED. -/
def execPeerFenced (d : Fin 8) (reason : BitVec 3) (s : State) : Outc :=
  onlyIf (peerFencedReady s d) s (peerFenced s d reason)

/-! ### The check unit (R719 to R721) -/

/-- A write of CHECK.SRC. -/
def writeCheckSrc (c : Check) (v : Word) : Check := if c.busy then c else { c with addr := BitVec.ofNat 40 (field v 0 40) }

/-- A write of CHECK.CTRL. -/
def writeCheckCtrl (c : Check) (v : Word) : Check :=
  let c1 := { c with done := w1c c.done v 34, fail := w1c c.fail v 35 }
  if c.busy then c1 else { c1 with len := BitVec.ofNat 32 (field v 0 32), cont := bit v 36, busy := bit v 32 }

/-- CHECK.CTRL as it reads. -/
def checkCtrlWord (c : Check) : Word :=
  pack [(c.len.toNat, 0), (b2n c.busy, 33), (b2n c.done, 34), (b2n c.fail, 35), (b2n c.cont, 36)]

/-- CHECK_GO. -/
def execCheckGo (v : Word) (s : State) : Outc :=
  onlyIf (unitsOn s && bit v 32) s { s with check := writeCheckCtrl s.check v }

/-- Every byte of the range lies in GDDR7, a Galley, quire memory or a Fount table. -/
def checkMapped (s : State) : Bool :=
  let a := s.check.addr.toNat
  let n := s.check.len.toNat
  (rangeErr s a n).isNone && !rangesMeet [(a, n)] [(0x8000000000, 0x4000000000), (histBase, 0x100000)]

/-- The check ends with FAIL; RESULT is undefined (free value). -/
def checkUnitFails (s : State) : State :=
  { useFree s 1 with check := { s.check with
      busy := false, fail := true, crc := BitVec.ofNat 32 (Config.freeWord s.free).toNat } }

/-- The check ends. -/
def checkEnds (s : State) : State :=
  let c := s.check
  if !checkMapped s then checkUnitFails s
  else
    match readErr s [(c.addr.toNat, c.len.toNat)] with
    | some e => checkUnitFails (logRemoteRead s e)
    | none =>
      let r := crc32c (localBytes s c.addr.toNat c.len.toNat) (if c.cont then c.crc else 0)
      { s with check := { c with busy := false, done := true, crc := r } }

/-- CHECK_COMPLETE. -/
def execCheckComplete (s : State) : Outc := onlyIf (unitsOn s && s.check.busy) s (checkEnds s)

end Sys2Proof.Machine
end

