-- ==== Sys2Proof/Machine/Specimen.lean ====
section
/-! DEFINITION. The Specimen list and the start-dependent values that it and the Colophon share (R17, R18, R180, R184, R333,
R750 to R755). -/

namespace Sys2Proof.Machine

/-! ### Presses and Fount slots -/

/-- PRESS.REPAIR as it reads (R180). -/
def repairWord (p : Press) : Word :=
  let c (i : Nat) : Nat := (p.cols.map (·.1)).getD i 0
  pack [(c 0, 0), (c 1, 8), (c 2, 16), (c 3, 24), (p.cols.length, 32), (b2n p.retired, 35), (b2n p.hintDiff, 36),
    (p.width.toNat, 40)]

/-- FORME_PRESS_WIDTHS of a Forme (R184). -/
def pressWidths (fm : Forme) : Nat := (venum fm.pu.presses).foldl (fun acc p => acc + p.2.width.toNat * 2 ^ (8 * p.1.1)) 0

/-- Widths of every Press of the die. -/
def allWidths (s : State) : List Nat := (s.formes.toList.map (fun fm => fm.pu.presses.toList.map (·.width.toNat))).flatten

/-- PRESSES_ACTIVE (R17, R18): a Press that BIST or a retirement has put out presents width 0. -/
def pressesActive (s : State) : Nat := ((allWidths s).filter (fun w => decide (w ≠ 0))).length

/-- COLUMNS_ACTIVE (R17, R18). -/
def columnsActive (s : State) : Nat := sumN (allWidths s)

/-- FOUNT_SLOTS of a Forme: KIND + 4 × VALID + 16 × FUNC of slot k in byte k (R333). -/
def fountSlots (fm : Forme) : Nat :=
  (venum fm.vu.slots).foldl (fun acc p =>
    acc + (p.2.kind.toNat + 4 * b2n p.2.valid + 16 * p.2.func.toNat) * 2 ^ (8 * p.1.1)) 0

/-- FOUNT_CLOCK_MHZ (R17). -/
def fountClock (b : Build) : Nat := match b with | .uz8 => 4000 | .uz2 => 1000

/-! ### Records (R751, R754) -/

/-- A record: ID, VER 1, LEN and NEXT, then its body; NEXT is 0 for the last. -/
def specimenRecord (id at_ : Nat) (last : Bool) (body : List Byte) : List Byte :=
  let len := 8 + body.length
  leBytes 2 id ++ [1, 0] ++ leBytes 2 len ++ leBytes 2 (if last then 0 else at_ + len) ++ body

/-- Body of the DIE record. -/
def dieBody (s : State) : List Byte :=
  [1] ++ leBytes 1 s.dieIndex.1 ++ leBytes 1 (dieCount s.build) ++ [12] ++ leBytes 2 (fountClock s.build) ++ leBytes 2 4000
    ++ leBytes 2 2500 ++ leBytes 1 (b2n (wiredDie s.build s.dieIndex.1)) ++ List.replicate 5 0

/-- Body of a FORME record. -/
def formeBody (f : FormeIx) (fm : Forme) : List Byte :=
  leBytes 1 f.1 ++ leBytes 1 (b2n (!fm.test.retired) + 2 * b2n fm.test.bankAct) ++ [0, 0] ++ leBytes 4 (galleyBytes fm)
    ++ (fm.pu.presses.toList.map (fun p => leBytes 8 (repairWord p).toNat)).flatten ++ leBytes 8 (fountSlots fm)

/-- Bodies of the records that follow the FORME records: FORMATS, FOUNT, QUEUES, MEMORY, LINKS, RDMA. -/
def tailBodies : List (List Byte) :=
  [leBytes 4 0x071737F7 ++ List.replicate 4 0,
   leBytes 2 0x1FFF ++ [8, 0] ++ leBytes 4 65536,
   [32, 16, 32, 16, 16, 16, 16, 8],
   leBytes 8 84825604096 ++ [80, 0] ++ leBytes 2 40960 ++ leBytes 2 512 ++ [0, 0],
   [11, 4, 2, 8, 64, 0] ++ leBytes 2 4096,
   leBytes 2 16384 ++ leBytes 2 4096 ++ leBytes 2 1024 ++ leBytes 2 16384 ++ leBytes 2 16384 ++ List.replicate 6 0]

/-- Bodies of all records with their IDs, in the order of R754. -/
def specimenBodies (s : State) : List (Nat × List Byte) :=
  (1, dieBody s) :: ((List.finRange 12).map (fun f => (2, formeBody f (s.forme f)))) ++ (tailBodies.zipIdx 3).map (fun p => (p.2, p.1))

/-- Records laid out from an offset. -/
def layRecords : Nat → List (Nat × List Byte) → List Byte
  | _, [] => []
  | o, (id, b) :: t => specimenRecord id o t.isEmpty b ++ layRecords (o + 8 + b.length) t

/-- The Specimen list of the die. -/
def specimenList (s : State) : List Byte := layRecords 0 (specimenBodies s)

/-- DIE.SPECIMEN as it reads (R750). -/
def specimenWord (s : State) : Word :=
  pack [(0x10000, 0), ((specimenList s).length, 32), (s.colo.gen.toNat, 48)]

/-! ### Logs (R705, R709, R755) -/

/-- The window of the error log, 32,768 bytes. -/
def errorLogBytes (s : State) : List Byte := ((List.range 1024).map (faultSlot s)).flatten

/-- The flash fault record, 8192 bytes, oldest first. -/
def faultRecordBytes (s : State) : List Byte :=
  (s.flash.faults.map faultBytes).flatten ++ (List.replicate (256 - s.flash.faults.length) emptyFault).flatten

end Sys2Proof.Machine
end

