-- ==== Sys2Proof/Machine/RegRead.lean ====
section
/-! DEFINITION. Reading the registers and tables of a die by address (R6, R435, R437, R439). -/

namespace Sys2Proof.Machine

/-! ### Words of registers -/

/-- Value of FORME.FOLIO.STATE (R376). -/
def FState.code : FState → Nat
  | .idle => 0 | .run => 1 | .quiesce => 2 | .paused => 3 | .abort => 4

/-- FORME.FOLIO as it reads (R375). -/
def folioWord (fe : FrontEnd) : Word :=
  pack [(fe.folioId.toNat, 0), (fe.state.code, 32), (fe.lforme.toNat, 40), (b2n fe.g1, 48), (b2n fe.cadence, 49)]

/-- FORME.QSTAT as it reads (R377). -/
def qstatWord (fm : Forme) : Word :=
  pack [(fm.q.cq.length, 0), (fm.q.pq.length, 8), (fm.q.vq.length, 16), (fm.q.fq.length, 24), (fm.q.sq.length, 32),
    (fm.fe.stall.toNat, 40)]

/-- FORME.PROG_ERR as it reads (R379). -/
def progErrWord (e : ProgErr) : Word :=
  pack [(e.code.toNat, 0), (e.queue.toNat, 8), (b2n e.more, 11), (e.field.toNat, 16), (e.lforme.toNat, 24), (e.index.toNat, 32),
    (b2n e.valid, 63)]

/-- FORME.PRESS_CTRL as it reads (R181). -/
def pressCtrlWord (pu : PressUnit) : Word := pack [(pu.retireRq.toNat, 0), (pu.active.toNat, 4)]

/-- GALLEY.BANK_CTRL as it reads (R429). -/
def bankCtrlWord (t : FormeTest) : Word := pack [(t.bank.toNat, 0), (b2n t.bankRet, 5), (b2n t.bankAct, 6)]

/-- A queue head holds an ungranted wait on token j (R366). -/
def tokenWaits (fm : Forme) (j : Nat) : Bool :=
  allQueues.any (fun q => match (fm.q.get q).head? with
    | some e => !e.granted && decide (wfield e.word 8 4 = j)
    | none => false)

/-- FORME.TOKEN of token j as it reads (R366). -/
def tokenWord (fm : Forme) (j : Fin 16) : Word :=
  let ext := fm.fe.ext.getLsbD j.1
  pack [((fm.tok[j]).toNat, 0), (if ext then 0 else (fm.bal[j]).toNat, 32), (b2n ext, 48), (b2n (tokenWaits fm j.1), 49)]

/-- CARRIAGE.STATUS as it reads (R450). -/
def carriageWord (c : Carriage) : Word := pack [(b2n c.busy, 0), (b2n c.remote, 1), (c.index.toNat, 8), (c.bytes.toNat, 32)]

/-- PROOF.CTRL as it reads (R504). -/
def proofCtrlWord (p : Proof) : Word :=
  pack [(b2n p.closing, 1), (b2n p.almint, 2), (p.alarms.length, 8), (p.step.toNat, 32)]

/-- Operating point of a Forme: that of its folio, 0xF when it is idle (R666, R676). -/
def formeOp (s : State) (f : FormeIx) : Nat :=
  match s.imp.folios.find? (fun x => x.fset.contains f) with
  | some x => x.op
  | none => 0xF

/-- IMPOSER.OPPOINT as it reads. -/
def oppointWord (s : State) : Word := pack ((List.finRange 12).map (fun f => (formeOp s f, 4 * f.1)))

/-- A ring register as it reads (R676). -/
def ringWord (r : Ring) : Word := pack [(r.base.toNat, 0), (r.log2n.toNat, 40)]

/-- Folios submitted and not started. -/
def readyFolios (s : State) : Nat := (s.imp.folios.filter (fun x => decide (x.state = .ready))).length

/-- IMPOSER.STATUS as it reads. -/
def imposerStatus (s : State) : Word :=
  pack [(s.imp.cmd.cons.toNat, 0), (b2n s.imp.evint, 24), (b2n (decide (s.imp.evWait ≠ [])), 25), (b2n (startsHeld s), 26),
    (b2n s.imp.limit, 27), (readyFolios s, 32)]

/-- SEC.ALARM as it reads (R785). -/
def secAlarmWord (s : State) : Word :=
  pack [(s.sec.latched.toNat, 0), (s.sec.live.toNat, 8), (s.sec.keyState.toNat, 16), (b2n s.sec.debugOpen, 18)]

/-- An extent-table entry as it reads (R465). -/
def extWord (e : ExtEntry) : Word := pack [(e.pext.toNat, 0), (e.state.toNat, 16), (e.cecnt.toNat, 24), (b2n e.ue, 40)]

/-- A memory-region entry as a number (R609). -/
def regionBits (r : Region) : Nat :=
  r.base.toNat + b2n r.valid <<< 48 + b2n r.rwrite <<< 49 + b2n r.rread <<< 50 + b2n r.loc <<< 51 + r.length.toNat <<< 64
    + r.keytag.toNat <<< 128 + r.pd.toNat <<< 160

/-- A remote-window entry as a number (R611). -/
def windowBits (w : Window) : Nat :=
  w.qpn.toNat + b2n w.valid <<< 14 + b2n w.rd <<< 15 + b2n w.wr <<< 16 + w.rkey.toNat <<< 32 + w.raddr.toNat <<< 64

/-- Word k of a wide entry. -/
def wordAt (n k : Nat) : Word := BitVec.ofNat 64 (n >>> (64 * k))

/-- Eight bytes of a list at an offset; past its end zeros. -/
def listWord (l : List Byte) (o : Nat) : Word := BitVec.ofNat 64 (leNat ((l.drop o).take 8))

/-! ### Where an address lies -/

/-- A register or table word. -/
inductive RegAddr where
  /-- a register of Forme f at an offset of its block -/
  | forme (f : FormeIx) (o : Nat)
  | die (o : Nat)
  | specimen (o : Nat)
  | errorLog (o : Nat)
  | tag (g k : Nat)
  | hist (o : Nat)
  | extent (l : Nat)
  | route (id k : Nat)
  | region (n k : Nat)
  | window (n k : Nat)
  deriving DecidableEq, Repr, Inhabited

/-- The register or table word at an offset from local 0xF0_0000_0000 (R435). -/
def regAt (o : Nat) : Option RegAddr :=
  if o < 0x10000 then some (.die o)
  else if o < 0x20000 then some (.specimen (o - 0x10000))
  else if 0x40000 ≤ o ∧ o < 0x48000 then some (.errorLog (o - 0x40000))
  else if 0x80000 ≤ o ∧ o < 0x100000 then some (.tag ((o - 0x80000) / 128) ((o - 0x80000) % 128 / 8))
  else if o < 0x100000 then some (.die o)
  else if 0x200000 ≤ o ∧ o < 0x300000 then some (.hist (o - 0x200000))
  else if 0x300000 ≤ o ∧ o < 0x380000 then some (.extent ((o - 0x300000) / 8))
  else if 0x400000 ≤ o ∧ o < 0x410000 then some (.route ((o - 0x400000) / 16) ((o - 0x400000) % 16 / 8))
  else if 0x500000 ≤ o ∧ o < 0x580000 then some (.region ((o - 0x500000) / 32) ((o - 0x500000) % 32 / 8))
  else if 0x600000 ≤ o ∧ o < 0x680000 then some (.window ((o - 0x600000) / 32) ((o - 0x600000) % 32 / 8))
  else if h : 0x1000000 ≤ o ∧ o < 0x10C0000 then
    some (.forme ⟨(o - 0x1000000) / 0x10000, by omega⟩ (o % 0x10000))
  else none

/-- The register or table word at a local address, for a naturally aligned 8-byte access (R437). -/
def regOf (a : Nat) : Option RegAddr := if a % 8 = 0 ∧ regBase ≤ a then regAt (a - regBase) else none

/-! ### Reading -/

/-- Element i of a register array that begins at an offset, eight bytes each. -/
def inArray (o base n : Nat) : Option (Fin n) :=
  if h : base ≤ o ∧ o < base + 8 * n then some ⟨(o - base) / 8, by omega⟩ else none

/-- Registers of a Forme that stand alone (R439, R695, R710, R711). -/
def formeSingle (fm : Forme) (o : Nat) : Word :=
  match o with
  | 0x0000 => cvtWord fm
  | 0x0008 => vecWord fm
  | 0x0010 => accEventsWord fm.pu.events
  | 0x0018 => pressCtrlWord fm.pu
  | 0x0020 => folioWord fm.fe
  | 0x0028 => qstatWord fm
  | 0x0030 => progErrWord fm.err
  | 0x0038 => bankCtrlWord fm.test
  | 0x1000 => faultCtrlWord fm.test
  | 0x1008 => flipWord fm.test
  | 0x1010 => splitAddrWord fm.test
  | 0x1018 => fm.test.splitData
  | 0x1020 => fm.test.splitPar.setWidth 64
  | _ => 0

/-- A register of a Forme as it reads; offsets not listed are reserved and read zero (R10). -/
def formeReg (fm : Forme) (o : Nat) : Word :=
  match inArray o 0x0040 4 with
  | some p => repairWord fm.pu.presses[p]
  | none =>
    match inArray o 0x0080 16 with
    | some j => tokenWord fm j
    | none =>
      match inArray o 0x0100 8 with
      | some k => slotDescWord fm.vu.slots[k]
      | none =>
        match inArray o 0x0140 8 with
        | some k => (fm.vu.slots[k]).src.setWidth 64
        | none =>
          match inArray o 0x0180 8 with
          | some c => carriageWord fm.carr[c]
          | none =>
            match inArray o 0x0800 256 with
            | some k => tileWord fm k.1
            | none => formeSingle fm o

/-- Die registers that stand alone. Write-only registers read zero (R6). -/
def dieSingle (s : State) (o : Nat) : Word :=
  match o with
  | 0x0000 => specimenWord s
  | 0x0400 => extRetireWord s.gddr.ret
  | 0x0500 => proofCtrlWord s.proof
  | 0x0508 => alarmWord s
  | 0x0C00 => objCmdWord s
  | 0x0C18 => portWord s
  | 0x0D00 => ringWord s.imp.cmd
  | 0x0D08 => ringWord s.imp.evt
  | 0x0D18 => oppointWord s
  | 0x0D20 => imposerStatus s
  | 0x0E00 => logCtrlWord s
  | 0x0E08 => s.fault.ovf.setWidth 64
  | 0x0E10 => pack [(s.fault.harts.toNat, 0), (b2n s.fault.hardInt, 8)]
  | 0x0E18 => fenceWord s
  | 0x0E20 => s.check.addr.setWidth 64
  | 0x0E28 => checkCtrlWord s.check
  | 0x0E38 => s.check.crc.setWidth 64
  | 0x0F00 => secAlarmWord s
  | _ => 0

/-- A die register as it reads. -/
def dieReg (s : State) (o : Nat) : Word :=
  match inArray o 0x0600 8 with
  | some i =>
    let x := s.bars[(⟨i.1 / 2, by omega⟩ : Fin 4)]
    if i.1 % 2 = 0 then barWord x else x.time
  | none =>
    match inArray o 0x0800 11 with
    | some p => linkWord s.span.ports[p]
    | none =>
      match inArray o 0x0900 8 with
      | some i => collWord s.coll.slots[i]
      | none =>
        match inArray o 0x0A00 64 with
        | some g => groupWord s g.1
        | none => dieSingle s o

/-- A register or table word as it reads. -/
def regValue (s : State) : RegAddr → Word
  | .forme f o => formeReg (s.forme f) o
  | .die o => dieReg s o
  | .specimen o => listWord (specimenList s) o
  | .errorLog o => listWord (faultSlot s (o / 32)) (o % 32)
  | .tag g k => wordAt (tagBits (tagEntry s g)) k
  | .hist o => if o < 4096 * 128 then wordAt (histBits (histEntry s (o / 128))) (o % 128 / 8) else 0
  | .extent l => extWord (extEntry s.gddr l)
  | .route id k => if k = 0 then routeWord (tget routeDefault s.tbl.routes id) else 0
  | .region n k => wordAt (regionBits (tget regionDefault s.tbl.regions n)) k
  | .window n k => wordAt (windowBits (tget windowDefault s.tbl.windows n)) k

/-- What a read changes: read-clear fields (R6, R242, R504, R553). -/
def regReadEffect (s : State) : RegAddr → State
  | .forme f o =>
    if o = 0x0010 then modForme s f (fun fm => { fm with pu := { fm.pu with events := ⟨0, 0, 0, 0⟩ } }) else s
  | .die o =>
    if o = 0x0508 then { s with proof := { s.proof with alarms := s.proof.alarms.tail } }
    else
      match inArray o 0x0800 11 with
      | some p => modPort s p (fun x => { x with retries := 0 })
      | none => s
  | _ => s

/-- Reads 64 bits at a local address by R437: the value, and the state that the read leaves. An address that is no register
or table word, or an access that is not naturally aligned, reads zero. -/
def mmioRead (s : State) (a : Nat) : Word × State :=
  match regOf a with
  | some r => (regValue s r, regReadEffect s r)
  | none => (0, s)

end Sys2Proof.Machine
end

