-- ==== Sys2Proof/Machine/Slots.lean ====
section
/-! DEFINITION. The flash of a die: image slots, and the two copies of the boot record (R768 to R773). -/

namespace Sys2Proof.Machine

/-! ### Image slots -/

/-- Size of a component's slot (R768): LOADER, DIE_FW, QUOIN, CALIB, FOUNT. -/
def slotSize (c : Fin 5) : Nat := [0x100000, 0x800000, 0x2000000, 0x400000, 0x1000000].getD c.1 0

/-- Key of a slot in the table of images: slot B is the odd one. -/
def slotKey (c : Fin 5) (b : Bool) : Nat := 2 * c.1 + b2n b

/-- What a slot holds. -/
def slotAt (fl : Flash) (c : Fin 5) (b : Bool) : SlotImage := tget (fun _ => .factory) fl.images (slotKey c b)

/-- Replaces a slot. -/
def setSlot (fl : Flash) (c : Fin 5) (b : Bool) (x : SlotImage) : Flash :=
  { fl with images := tset (fun _ => .factory) fl.images (slotKey c b) x }

/-- The byte of a slot at an offset. -/
def slotByte (fl : Flash) (c : Fin 5) (b : Bool) (a : Nat) : Byte :=
  match slotAt fl c b with
  | .factory => (Config.factoryImage c.1 (b2n b)).getD a (Config.flashByte c.1 (b2n b) a)
  | .written bs => bs.getD a (Config.flashByte c.1 (b2n b) a)

/-- The first n bytes of a slot. -/
def flashBytes (fl : Flash) (c : Fin 5) (b : Bool) (n : Nat) : List Byte := (List.range n).map (slotByte fl c b)

/-- The header of a slot's image. -/
def slotHead (fl : Flash) (c : Fin 5) (b : Bool) : List Byte := flashBytes fl c b 256

/-- Header and payload, as far as the slot holds them. -/
def slotImage (fl : Flash) (c : Fin 5) (b : Bool) : List Byte :=
  flashBytes fl c b (min (slotSize c) (256 + imageLength (slotHead fl c b)))

/-- Verifies the image of a slot (R771). The images of manufacture are signed and whole; only their SECVER is checked. -/
def verifySlot (s : State) (c : Fin 5) (b : Bool) (minSec : Nat) : VerifyResult :=
  match slotAt s.flash c b with
  | .factory => if imageSecver (slotHead s.flash c b) < minSec then .rollback else .ok
  | .written _ => verifyImage s c.1 (slotSize c) minSec (slotImage s.flash c b)

/-! ### The boot record (R773) -/

/-- The slot part with the higher write count: copy A, or copy B. -/
def slotPart (fl : Flash) : SlotPart := if fl.slotB.count ≤ fl.slotA.count then fl.slotA else fl.slotB

/-- The count part with the higher write count among those whose digest matches; none when neither does. -/
def countPart (fl : Flash) : CountPart :=
  if fl.countA.digestOk ∧ (¬ fl.countB.digestOk ∨ fl.countB.count ≤ fl.countA.count) then fl.countA
  else if fl.countB.digestOk then fl.countB
  else ⟨0, 0, false, true⟩

/-- Writes the count part into the copy that is not in force, with the next write count. -/
def writeCountOther (fl : Flash) (failed : BitVec 8) (tried : Bool) : Flash :=
  let p : CountPart := ⟨(countPart fl).count + 1, failed, tried, true⟩
  if fl.countA = countPart fl then { fl with countB := p } else { fl with countA := p }

/-- Writes the count part, copy after copy (R772). -/
def writeCount (fl : Flash) (failed : BitVec 8) (tried : Bool) : Flash :=
  let p : CountPart := ⟨(countPart fl).count + 1, failed, tried, true⟩
  { fl with countA := p, countB := p }

/-- Writes the slot part, copy after copy (R772). -/
def writeSlots (fl : Flash) (comps : Vector CompSlot 5) : Flash :=
  let p : SlotPart := ⟨(slotPart fl).count + 1, comps, true⟩
  { fl with slotA := p, slotB := p }

/-- Changes the boot record's slot data of one component. -/
def modComp (fl : Flash) (c : Fin 5) (g : CompSlot → CompSlot) : Flash := writeSlots fl (vmod (slotPart fl).comps c g)

/-- The boot record's slot data of one component. -/
def compSlot (fl : Flash) (c : Fin 5) : CompSlot := (slotPart fl).comps[c]

/-- Minimum SECVER of a component. -/
def minSecOf (fl : Flash) (c : Fin 5) : Nat := (compSlot fl c).minSec.toNat

/-- FAILED_STARTS. -/
def failedStarts (fl : Flash) : BitVec 8 := (countPart fl).failed

/-- TRIED. -/
def triedBit (fl : Flash) : Bool := (countPart fl).tried

/-- The slot that a component runs from. -/
def activeSlot (s : State) (c : Fin 5) : Bool := s.boot.chosen[c]

/-- The component that an update concerns. -/
def updComp (s : State) : Fin 5 := Fin.ofNat 5 s.upd.comp.toNat

/-- The slot that UPDATE_IMAGE writes. -/
def inactiveSlot (s : State) : Bool := !activeSlot s (updComp s)

/-! ### Identity -/

/-- n bytes of the identity record under an entry's key (log 9). -/
def identityN (key n : Nat) : List Byte := padTo n 0 (Config.identity key)

/-- DEVICE_PUBKEY (R744). -/
def devicePubkey : List Byte := padTo 64 0 Config.devicePubkey

/-- The serial number of DEVICE_CERT (R779). -/
def dieSerial : List Byte := identityN (entKey 0x9050 3) 16

/-- DEVICE_CERT (R779): serial number, public key, GENERATION, zeros, signature. -/
def deviceCert : List Byte :=
  dieSerial ++ devicePubkey ++ [1] ++ List.replicate 31 0 ++ identityN (entKey 0x9050 0x80) 64

end Sys2Proof.Machine
end

