-- ==== Sys2Proof/Machine/ColoRead.lean ====
section
/-! DEFINITION. Values of the Colophon's entries (R12, R723 to R728, R756, and the tables of every chapter). -/

namespace Sys2Proof.Machine

/-! ### Entries that reflect a register or are computed -/

/-- An integer as the pattern of an I32. -/
def i32 (v : Int) : Nat := ofSigned 32 v

/-- DIE_BUDGET_W: whole watts of B. -/
def budgetEntry (s : State) : Nat := ((budgetW s).num / Int.ofNat (budgetW s).den).toNat

/-- COOLING_WARN (R802). -/
def coolingWarn (s : State) : Nat :=
  let minFlow : Nat := match s.build with | .uz8 => 8000 | .uz2 => 2500
  b2n (decide (40000 < s.pwr.sensors.coolantIn.toInt)) + 2 * b2n (decide (s.pwr.sensors.coolantFlow.toNat < minFlow))

/-- SPAN_LINKS_UP (R588). -/
def linksUp (s : State) : Nat := sumN ((List.finRange 11).map (fun p => b2n (portUp s.span.ports[p]) * 2 ^ p.1))

/-- FORMES_IN_SERVICE (R695, R722). -/
def formesMask (s : State) : Nat := sumN ((formesInService s).map (fun f => 2 ^ f.1))

/-- SPARE_EXTENTS_FREE (R485). -/
def sparesFree (s : State) : Nat :=
  ((List.range 512).filter (fun i => decide ((extEntry s.gddr (40448 + i)).state = 3))).length

/-- Numbers of index 0x1000 to 0x10FF that are not table values. -/
def num10 (s : State) (idx sub : Nat) : Option Nat :=
  match idx, sub with
  | 0x1000, 5 => some (pressesActive s)
  | 0x1000, 6 => some (columnsActive s)
  | 0x1030, 5 => some (b2n s.colo.saving.isSome)
  | 0x1040, 1 => some s.boot.state.toNat
  | 0x1040, 2 => some s.boot.stage.toNat
  | 0x1040, 3 => some (failedStarts s.flash).toNat
  | 0x1040, 4 => some s.boot.reason.toNat
  | 0x1040, 5 => some s.boot.cause.toNat
  | 0x1040, 7 => some s.boot.startMs.toNat
  | 0x1050, 2 => some s.pwr.slotId.toNat
  | 0x1050, 3 => some s.pwr.cables.toNat
  | 0x1050, 4 => some (b2n s.pwr.enclOpen)
  | _, _ => none

/-- Numbers of index 0x2000 to 0x20FF that are not table values. -/
def num20 (s : State) (idx sub : Nat) : Option Nat :=
  match idx, sub with
  | 0x2000, 4 => some s.pwr.sensors.inputMv.toNat
  | 0x2000, 5 => some s.pwr.sensors.inputMa.toNat
  | 0x2000, 6 => some s.pwr.sensors.inputW.toNat
  | 0x2000, 7 => some s.pwr.sensors.energyJ.toNat
  | 0x2010, 3 => some (budgetEntry s)
  | 0x2010, 4 => some s.pwr.sensors.diePowerW.toNat
  | 0x2010, 5 => some (i32 s.imp.dieMc)
  | 0x2010, 6 => some (i32 s.imp.memMc)
  | 0x2030, 1 => some s.pwr.inState.toNat
  | 0x2030, 2 => some s.pwr.lowEvents.toNat
  | 0x2030, 3 => some s.pwr.sensors.coolantIn.toNat
  | 0x2030, 4 => some s.pwr.sensors.coolantOut.toNat
  | 0x2030, 5 => some s.pwr.sensors.coolantFlow.toNat
  | 0x2030, 6 => some (coolingWarn s)
  | _, _ => none

/-- Numbers of index 0x3000 to 0x7FFF that are not table values. -/
def num37 (s : State) (idx sub : Nat) : Option Nat :=
  match idx, sub with
  | 0x3020, 2 => some (sparesFree s)
  | 0x3020, 3 => some s.flash.retire.length
  | 0x4060, 3 => some s.proof.step.toNat
  | 0x5010, 1 => some s.tb.ns.toNat
  | 0x5010, 2 => some s.tb.master.toNat
  | 0x5010, 3 => some s.tb.offsetPs.toNat
  | 0x5010, 4 => some (b2n s.tb.locked)
  | 0x5020, 1 => some (linksUp s)
  | 0x6000, 1 => some s.abut.link.toNat
  | 0x6000, 6 => some s.abut.served.toNat
  | 0x6000, 7 => some s.abut.server.toNat
  | 0x6000, 9 => some (Config.phyLatencyNs (decide (s.build = .uz2))).toNat
  | 0x7010, 7 => some s.log.head
  | 0x7010, 9 => some s.log.lost
  | _, _ => none

/-- Numbers of index 0x8000 to 0xFFFF that are not table values. -/
def num8F (s : State) (idx sub : Nat) : Option Nat :=
  match idx, sub with
  | 0x8000, 1 => some s.fault.nextSeq.toNat
  | 0x8000, 2 => some s.flash.hardTotal.toNat
  | 0x8000, 3 => some (formesMask s)
  | 0x8000, 4 => some s.fault.dies.toNat
  | 0x8000, 6 => some s.fault.reason.toNat
  | 0x9000, 2 => some (b2n s.flash.returned)
  | 0x9010, 2 => some s.colo.sessions.length
  | 0x9020, 1 => some s.sec.latched.toNat
  | 0x9020, 4 => some s.sec.keyState.toNat
  | 0x9020, 5 => some s.sec.erasures.toNat
  | 0x9030, 3 => some s.sec.debugState.toNat
  | 0x9030, 4 => some (leNat (identityN (entKey 0x9030 4) 4))
  | 0xA000, 1 => some s.upd.comp.toNat
  | 0xA000, 4 => some s.upd.state.toNat
  | 0xA000, 5 => some s.upd.result.toNat
  | 0xF000, 2 => some s.colo.gen.toNat
  | 0xF000, 3 => some (specimenList s).length
  | _, _ => none

/-- Numbers of the arrays: one index per Forme, service, class or component. -/
def numArray (s : State) (idx sub : Nat) : Option Nat :=
  if h : idx = 0x1010 ∧ 1 ≤ sub ∧ sub ≤ 12 then some (pressWidths (s.forme ⟨sub - 1, by omega⟩))
  else if h : idx = 0x3010 ∧ 1 ≤ sub ∧ sub ≤ 12 then some (galleyBytes (s.forme ⟨sub - 1, by omega⟩))
  else if h : idx = 0x4040 ∧ 1 ≤ sub ∧ sub ≤ 12 then some (fountSlots (s.forme ⟨sub - 1, by omega⟩))
  else if h : 0x7100 ≤ idx ∧ idx ≤ 0x713F then
    let x := s.svc[(⟨idx - 0x7100, by omega⟩ : Fin 64)]
    if sub = 0x01 then some x.state.toNat else if sub = 0x14 then some x.reason.toNat else none
  else if h : 0x8010 ≤ idx ∧ idx ≤ 0x801B then
    let c : Fin 12 := ⟨idx - 0x8010, by omega⟩
    if sub = 1 then some (s.fault.events[c]).toNat else if sub = 2 then some (s.fault.level[c]).toNat else none
  else if h : 0xA010 ≤ idx ∧ idx ≤ 0xA014 then
    let c : Fin 5 := ⟨idx - 0xA010, by omega⟩
    let b := activeSlot s c
    match sub with
    | 1 => some (b2n b)
    | 2 => some (imageVersion (slotHead s.flash c b))
    | 3 => some (imageSecver (slotHead s.flash c b))
    | 4 => some (minSecOf s.flash c)
    | 5 => some (if verifySlot s c (!b) (minSecOf s.flash c) = .ok then imageVersion (slotHead s.flash c (!b)) else 0)
    | _ => none
  else none

/-- The number that an entry reads as. -/
def entryNum (s : State) (idx sub : Nat) : Nat :=
  match numArray s idx sub with
  | some v => v
  | none =>
    let v := if idx < 0x2000 then num10 s idx sub else if idx < 0x3000 then num20 s idx sub
      else if idx < 0x8000 then num37 s idx sub else num8F s idx sub
    v.getD (entN s idx sub)

/-! ### Strings and byte strings -/

/-- MODULE_PART_NUMBER (R2): TS-UZ8-640 or TS-UZ2-160. -/
def partNumber (b : Build) : List Byte :=
  match b with
  | .uz8 => [0x54, 0x53, 0x2D, 0x55, 0x5A, 0x38, 0x2D, 0x36, 0x34, 0x30]
  | .uz2 => [0x54, 0x53, 0x2D, 0x55, 0x5A, 0x32, 0x2D, 0x31, 0x36, 0x30]

/-- Strings: the part number, the Quoin's version (at most 32 characters) and the module's serial number. -/
def entryStr (s : State) (idx : Nat) : List Byte :=
  if idx = 0x1000 then partNumber s.build
  else if idx = 0x7000 then (Config.identity (entKey 0x7000 1)).take 32
  else identityN (entKey 0x1050 1) 16

/-- MGMT_MAC (R728). -/
def mgmtMac (s : State) : List Byte := identityN (entKey 0x1020 1 + s.dieIndex.1 * 2 ^ 24) 6

/-- MGMT_IPV6_LL: fe80::/64 with the modified EUI-64 of the address (R728). -/
def mgmtIpv6 (mac : List Byte) : List Byte :=
  [0xFE, 0x80, 0, 0, 0, 0, 0, 0, (mac.getD 0 0) ^^^ 2] ++ (mac.drop 1).take 2 ++ [0xFF, 0xFE] ++ mac.drop 3

/-- A writable byte string: as written, else zeros. -/
def octValue (s : State) (idx sub n : Nat) : List Byte :=
  padTo n 0 (tget (fun _ => []) s.colo.oct (entKey idx sub))

/-- A byte-string entry of n bytes as it reads. -/
def entryOct (s : State) (idx sub n : Nat) : List Byte :=
  match idx, sub with
  | 0x1020, 1 => mgmtMac s
  | 0x1020, 2 => mgmtIpv6 (mgmtMac s)
  | 0x6000, 2 => macBytes s.dieIndex.1
  | 0x9010, 1 => devicePubkey
  | 0x9030, 1 => s.sec.nonce
  | 0x9050, 3 => deviceCert
  | _, _ => octValue s idx sub n

/-! ### Blocks (R737, R755, R774, R780) -/

/-- A DOMAIN entry: its generation, its size and its bytes. -/
structure Block where
  gen   : Nat
  total : Nat
  piece : Nat → Nat → List Byte

/-- A block whose bytes are a list. -/
def listBlock (gen : Nat) (l : List Byte) : Block := ⟨gen, l.length, fun o n => (l.drop o).take n⟩

/-- UPDATE_IMAGE: the inactive slot of UPDATE_COMPONENT. -/
def updateBlock (s : State) : Block :=
  let c := updComp s
  ⟨s.upd.gen.toNat, slotSize c, fun o n => (List.range (min n (slotSize c - o))).map (fun i => slotByte s.flash c (inactiveSlot s) (o + i))⟩

/-- The block of a DOMAIN entry. -/
def domainOf (s : State) (idx sub : Nat) : Option Block :=
  match idx, sub with
  | 0xF000, 1 => some (listBlock s.colo.gen.toNat (specimenList s))
  | 0x8000, 9 => some (listBlock 0 (errorLogBytes s))
  | 0x8000, 10 => some (listBlock 0 (faultRecordBytes s))
  | 0x9050, 2 => some (listBlock s.sec.reportGen.toNat s.sec.report)
  | 0xA000, 2 => some (updateBlock s)
  | _, _ => none

/-- Size of a DOMAIN entry. -/
def blockSize (s : State) (idx sub : Nat) : Nat :=
  match domainOf s idx sub with
  | some b => b.total
  | none => 0

/-! ### One entry -/

/-- The bytes that an entry reads as (R724, R725, R735). -/
def entryBytes (s : State) (e : EntSpec) (idx sub : Nat) : List Byte :=
  match e.typ with
  | .str => entryStr s idx
  | .oct n => if e.acc = .wo then List.replicate n 0 else entryOct s idx sub n
  | .domain => leBytes 8 (blockSize s idx sub)
  | t => leBytes (etypeSize t) (if e.acc = .wo then 0 else entryNum s idx sub)

end Sys2Proof.Machine
end

