-- ==== Sys2Proof/Machine/Update.lean ====
section
/-! DEFINITION. Live update (R774 to R776). -/

namespace Sys2Proof.Machine

/-- Values of UPDATE_STATE (R775). -/
inductive UpdState where
  | idle | receiving | verified | trial | failed
  deriving DecidableEq, Repr, Inhabited

/-- Code of a state. -/
def UpdState.code : UpdState → BitVec 8
  | .idle => 0 | .receiving => 1 | .verified => 2 | .trial => 3 | .failed => 4

/-- UPDATE_STATE is one of the given states. -/
def updIn (s : State) (l : List UpdState) : Bool := l.any (fun x => decide (s.upd.state = x.code))

/-- UPDATE_STATE and UPDATE_RESULT change, with an UPDATE event (R776). -/
def setUpdate (s : State) (st : UpdState) (result : BitVec 8) : State :=
  notifyEvent { s with upd := { s.upd with state := st.code, result := result } } 19 s.upd.comp.toNat
    (st.code.toNat + result.toNat * 256)

/-- The inactive slot is replaced. -/
def setInactive (s : State) (x : SlotImage) : State :=
  { s with flash := setSlot s.flash (updComp s) (inactiveSlot s) x }

/-- The count part is written with TRIED 0, when it is 1 (R773). -/
def clearTried (fl : Flash) : Flash := if triedBit fl then writeCount fl (failedStarts fl) false else fl

/-- BEGIN: allowed in IDLE and FAILED. -/
def beginOk (s : State) : Bool := updIn s [.idle, .failed]

/-- BEGIN erases the inactive slot. -/
def beginUpdate (s : State) : State :=
  let s1 := setInactive s (.written [])
  setUpdate { s1 with upd := { s1.upd with gen := s1.upd.gen + 1 } } .receiving s.upd.result

/-- VERIFY: allowed in RECEIVING. -/
def verifyOk (s : State) : Bool := updIn s [.receiving]

/-- VERIFY checks the inactive slot by R771. -/
def verifyUpdate (s : State) : State :=
  let r := verifySlot s (updComp s) (inactiveSlot s) (minSecOf s.flash (updComp s))
  if r = .ok then setUpdate s .verified 0 else setUpdate s .failed r.code

/-- The slot part may be written (R773, R784). -/
def slotsWritable (s : State) : Bool := decide (s.sec.keyState = 1)

/-- ACTIVATE: allowed in VERIFIED. -/
def activateOk (s : State) : Bool := updIn s [.verified] && slotsWritable s

/-- ACTIVATE marks the inactive slot as trial. -/
def activateUpdate (s : State) : State :=
  let b := inactiveSlot s
  setUpdate { s with flash := modComp s.flash (updComp s) (fun x => { x with trial := some b }) } .trial s.upd.result

/-- COMMIT: allowed in TRIAL, once a start has completed on the trial slot. -/
def commitOk (s : State) : Bool :=
  updIn s [.trial] && slotsWritable s && decide (s.boot.stage = 6) && s.boot.onTrial[updComp s]

/-- COMMIT makes the trial slot preferred and raises the minimum SECVER to its SECVER. -/
def commitUpdate (s : State) : State :=
  let c := updComp s
  let b := activeSlot s c
  let sv := BitVec.ofNat 32 (imageSecver (slotHead s.flash c b))
  let fl := modComp s.flash c (fun x => { x with preferred := b, trial := none, minSec := if x.minSec < sv then sv else x.minSec })
  setUpdate { s with flash := clearTried fl } .idle s.upd.result

/-- ABANDON: allowed in RECEIVING, VERIFIED and TRIAL; a trial mark is dropped in the slot part. -/
def abandonOk (s : State) : Bool := updIn s [.receiving, .verified] || (updIn s [.trial] && slotsWritable s)

/-- ABANDON. -/
def abandonUpdate (s : State) : State :=
  let fl := if updIn s [.trial] then modComp s.flash (updComp s) (fun x => { x with trial := none }) else s.flash
  setUpdate { s with flash := clearTried fl } .idle s.upd.result

/-- A write of UPDATE_CMD is allowed in the present state. -/
def updateCmdOk (s : State) (v : Nat) : Bool :=
  match v with
  | 1 => beginOk s
  | 2 => verifyOk s
  | 3 => activateOk s
  | 4 => commitOk s
  | 5 => abandonOk s
  | _ => false

/-- What a write of UPDATE_CMD does. -/
def updateCmd (s : State) (v : Nat) : State :=
  match v with
  | 1 => beginUpdate s
  | 2 => verifyUpdate s
  | 3 => activateUpdate s
  | 4 => commitUpdate s
  | 5 => abandonUpdate s
  | _ => s

/-- The bytes received so far. -/
def received (s : State) : List Byte :=
  match slotAt s.flash (updComp s) (inactiveSlot s) with
  | .written bs => bs
  | .factory => []

/-- A piece of UPDATE_IMAGE is stored after the bytes received. -/
def receivePiece (s : State) (bs : List Byte) : State := setInactive s (.written (received s ++ bs))

end Sys2Proof.Machine
end

