-- ==== Sys2Proof/Machine/Security.lean ====
section
/-! DEFINITION. Operator keys, saved settings, attestation, the debug port's unlock, alarms cleared, and preparing a return (R727,
R744, R745, R780, R785 to R789). -/

namespace Sys2Proof.Machine

/-- Sets a writable byte-string entry; all zeros is the unlisted value. -/
def setOct (s : State) (idx sub : Nat) (bs : List Byte) : State :=
  let v := if bs.all (fun b => decide (b = 0)) then [] else bs
  { s with colo := { s.colo with oct := tset (fun _ => []) s.colo.oct (entKey idx sub) v } }

/-! ### Saved settings (R727) -/

/-- The entries that R727 keeps, with their values in force. -/
def savedValues (s : State) : Table Nat × Table (List Byte) :=
  (s.colo.ent.filter (fun p => savedKey p.1), s.colo.oct.filter (fun p => savedKey p.1))

/-- A write of CONFIG_SAVE is accepted: the record key is there (R784). -/
def saveOk (s : State) : Bool := decide (s.sec.keyState = 1)

/-- A write of 1 starts a save of the values in force now. -/
def startSave (s : State) (v : Nat) : State :=
  if v = 1 then { s with colo := { s.colo with saving := some (savedValues s) } } else s

/-- The record is written, unless the keys have been erased meanwhile (R784). -/
def endSave (s : State) : State :=
  match s.colo.saving with
  | none => s
  | some (e, o) =>
    let fl := if saveOk s then { s.flash with confEnt := e, confOct := o } else s.flash
    { s with flash := fl, colo := { s.colo with saving := none } }

/-! ### Operator keys (R744, R745, R789) -/

/-- No operator key is enrolled. -/
def noOperatorKeys (s : State) : Bool := (List.range 8).all (fun i => (operatorKeyOf s i).isNone)

/-- Writes an operator key; enrolling one clears RETURN_PREPARED. -/
def writeOperatorKey (s : State) (slot : Nat) (key : List Byte) : State :=
  let s1 := setOct s 0x9010 (0x10 + slot) (padTo 64 0 key)
  if key.any (fun b => decide (b ≠ 0)) then { s1 with flash := { s1.flash with returned := false } } else s1

/-- Sub-indices of the operator keys. -/
def isOperatorKey (key : Nat) : Bool := decide (entKey 0x9010 0x10 ≤ key) && decide (key ≤ entKey 0x9010 0x17)

/-- A write of 1 to RETURN_PREP (R789). -/
def returnPrep (s : State) : State :=
  { s with
    flash := { s.flash with confEnt := [], confOct := [], returned := true }
    colo := { s.colo with oct := s.colo.oct.filter (fun p => !isOperatorKey p.1) } }

/-! ### Alarms (R785) -/

/-- A write of ALARM_CLEAR, or of SEC.ALARM. -/
def clearAlarms (s : State) (v : Nat) : State :=
  { s with sec := { s.sec with latched := s.sec.latched &&& ~~~ BitVec.ofNat 6 v } }

/-! ### Attestation (R780) -/

/-- One component's record in the report. -/
def attestRecord (s : State) (c : Fin 5) : List Byte :=
  let b := activeSlot s c
  leBytes 1 c.1 ++ leBytes 1 (b2n b) ++ [0, 0] ++ leBytes 4 (imageSecver (slotHead s.flash c b))
    ++ padTo 32 0 (Config.sm3 (imagePayload (slotImage s.flash c b)))

/-- Bytes 0 to 335 of the report. -/
def attestBody (s : State) (nonce : List Byte) : List Byte :=
  [1, 5, s.sec.debugState] ++ leBytes 1 s.sec.keyState.toNat ++ leBytes 2 s.sec.latched.toNat ++ [failedStarts s.flash, s.boot.reason]
    ++ padTo 32 0 nonce ++ devicePubkey ++ dieSerial ++ leBytes 8 s.tb.ns.toNat ++ [1] ++ leBytes 1 s.dieIndex.1
    ++ leBytes 2 s.span.dieId.toNat ++ leBytes 4 s.sec.erasures.toNat
    ++ ((List.finRange 5).map (attestRecord s)).flatten

/-- A write of ATTEST_NONCE is accepted. -/
def attestOk (s : State) : Bool := decide (s.sec.keyState = 1)

/-- Builds and signs a new report. -/
def attest (s : State) (nonce : List Byte) : State :=
  let b := attestBody s nonce
  setOct { s with sec := { s.sec with
    report := b ++ padTo 64 0 (Config.sm2Sign b), reportGen := s.sec.reportGen + 1 } } 0x9050 1 (padTo 32 0 nonce)

/-! ### Unlocking the debug port (R787, R788) -/

/-- LEVEL of a token. -/
def tokenLevel (t : List Byte) : Nat := imageField t 1 1

/-- The token holds: version, level, digest of this die's key, nonce, zeros and signature. -/
def tokenOk (s : State) (t : List Byte) : Bool :=
  let level := tokenLevel t
  let signer := imageField t 2 1
  decide (imageField t 0 1 = 1) && (decide (level = 1) || (decide (level = 2) && decide (signer = 0)))
    && decide (imageField t 3 1 = 0) && decide ((t.drop 4).take 32 = Config.sm3 devicePubkey)
    && decide ((t.drop 36).take 16 = s.sec.nonce) && ((t.drop 52).take 44).all (fun b => decide (b = 0))
    && (match keyOfSigner s signer with
        | some k => Config.sm2Verify k (t.take 96) ((t.drop 96).take 64)
        | none => false)

/-- Each write replaces DEBUG_NONCE by random bytes (free values). -/
def newNonce (s : State) : State :=
  { useFree s 1 with sec := { s.sec with nonce := (List.range 16).map (fun i => Config.freeByte s.free i) } }

/-- An accepted token's effect after the response: keys erased, port open at its level until the next start. -/
def unlock (s : State) (level : Nat) : State :=
  let s1 := eraseKeys s
  { s1 with sec := { s1.sec with debugOpen := true, debugState := BitVec.ofNat 8 level } }

/-- A refused token raises DEBUG_PROBE. -/
def unlockRefused (s : State) : State := securityAlarm s 0x10

end Sys2Proof.Machine
end

