-- ==== Sys2Proof/Machine/Boot.lean ====
section
/-! DEFINITION. Die reset, the start and its stages, failed starts and Falsework mode (R757 to R767, R773, R776, R777). -/

namespace Sys2Proof.Machine

/-! ### Die reset (R757, R766) -/

/-- A die reset with its cause; the start follows at once. -/
def resetDie (s : State) (cause : BitVec 2) : State :=
  dieReset s.build s.dieIndex s.pending s.free s.out s.flash s.pwr cause

/-- FAILED_STARTS becomes 0. -/
def clearFailed (fl : Flash) : Flash := writeCount fl 0 (triedBit fl)

/-- A write of DIE_RESTART: 1 resets the die, 2 first sets FAILED_STARTS to 0. -/
def dieRestart (s : State) (v : Nat) : State :=
  if v = 1 then resetDie s 1
  else if v = 2 then resetDie { s with flash := clearFailed s.flash } 1
  else s

/-- A die whose rails are up may be reset for one of the three causes. -/
def resetReady (s : State) (cause : BitVec 2) : Bool := s.pwr.dieUp && decide (cause ≠ 3)

/-- DIE_RESET. -/
def execDieReset (cause : BitVec 2) (s : State) : Outc := onlyIf (resetReady s cause) s (resetDie s cause)

/-! ### Stage 0: choosing slots (R758, R763, R773) -/

/-- The previous start ran a trial slot and failed. -/
def trialFailed (fl : Flash) : Bool := triedBit fl && decide (failedStarts fl ≠ 0)

/-- Slot that stage 0 chooses for a component: the trial slot where one is marked, else the preferred slot. -/
def chooseSlot (fl : Flash) (c : Fin 5) : Bool :=
  match (compSlot fl c).trial with
  | some t => if trialFailed fl then (compSlot fl c).preferred else t
  | none => (compSlot fl c).preferred

/-- Stage 0 chooses a trial slot for the component. -/
def choosesTrial (fl : Flash) (c : Fin 5) : Bool := (compSlot fl c).trial.isSome && !trialFailed fl

/-- A slot's image verifies for its component. -/
def slotVerifies (s : State) (c : Fin 5) (b : Bool) : Bool := decide (verifySlot s c b (minSecOf s.flash c) = .ok)

/-- The chosen slot when it verifies, else the other when that verifies. -/
def runnableSlot (s : State) (c : Fin 5) (b : Bool) : Option Bool :=
  if slotVerifies s c b then some b else if slotVerifies s c (!b) then some (!b) else none

/-- LOADER. -/
def loaderComp : Fin 5 := 0

/-- The loader slot that stage 0 runs. -/
def loaderSlot (s : State) : Option Bool := runnableSlot s loaderComp (chooseSlot s.flash loaderComp)

/-- Stage 0's count part: FAILED_STARTS rises by 1, and TRIED is 1 when a trial slot was chosen; written to the other copy. -/
def countStart (fl : Flash) : Flash :=
  let tried := triedBit fl || (List.finRange 5).any (choosesTrial fl)
  writeCountOther fl (BitVec.ofNat 8 (satAdd 255 (failedStarts fl).toNat 1)) tried

/-- The component of a trial mark. -/
def trialComp (fl : Flash) : Option (Fin 5) := (List.finRange 5).find? (fun c => (compSlot fl c).trial.isSome)

/-- UPDATE_STATE at a start: TRIAL while a trial is marked, else IDLE. -/
def startUpdate (fl : Flash) (u : Update) : Update :=
  match trialComp fl with
  | some c => { u with comp := BitVec.ofNat 8 c.1, state := UpdState.trial.code }
  | none => u

/-- Enters Falsework mode, from the loader or from the boot ROM (R763). -/
def enterFalsework (s : State) (rom : Bool) : State :=
  { s with
    boot := { s.boot with state := 3, cur := 7, reason := s.flash.lastFail, romMode := rom }
    pwr := { s.pwr with faultL := true } }

/-- The next stage begins. -/
def beginStage (s : State) (done next : BitVec 8) : State :=
  { s with boot := { s.boot with stage := done, cur := next, stageAt := s.boot.age } }

/-- Stage 0 completes with a loader slot: slots are chosen and the start is counted; a start that found FAILED_STARTS at 3 or
more enters Falsework mode. -/
def romStage (s : State) (b : Bool) : State :=
  let fl := s.flash
  let chosen := Vector.ofFn (fun c => if c = loaderComp then b else chooseSlot fl c)
  let onTrial := Vector.ofFn (fun c => choosesTrial fl c && decide (some chosen[c] = (compSlot fl c).trial))
  let s1 : State := { s with
    flash := countStart fl
    upd := startUpdate fl s.upd
    boot := { s.boot with chosen := chosen, onTrial := onTrial, reverts := trialFailed fl } }
  if 3 ≤ (failedStarts fl).toNat then enterFalsework s1 false else beginStage s1 0 1

/-! ### Stage 1: the key (R773, R777, R784, R792) -/

/-- The slot part that stage 0 used authenticates. -/
def slotPartOk (s : State) : Bool := (slotPart s.flash).tagOk

/-- Alarm sources asserted at the start: those reported, and the enclosure's input. -/
def startSources (s : State) (r : StageReport) : BitVec 6 := r.alarms ||| BitVec.ofNat 6 (4 * b2n s.pwr.enclOpen)

/-- Stage 1 completes: the keys are there, SLOT_ID is sampled, and asserted sources raise their alarms. The levels of ENCLOSURE
and THERMAL stay; the other sources are momentary. -/
def keyStage (s : State) (r : StageReport) : State :=
  let s1 : State := { s with
    sec := { s.sec with keyState := 1, live := startSources s r &&& 0xC }
    pwr := { s.pwr with slotId := r.slotId } }
  securityAlarm (beginStage s1 1 2) (startSources s r)

/-- A slot part that fails its tag is rewritten from the other copy when that authenticates (R773). -/
def mendSlots (fl : Flash) : Flash :=
  if (slotPart fl).tagOk then fl
  else if fl.slotA.tagOk then { fl with slotB := fl.slotA }
  else if fl.slotB.tagOk then { fl with slotA := fl.slotB }
  else fl

/-! ### Stage 2: configuration (R727, R758, R776) -/

/-- The slots that run, of DIE_FW, QUOIN, CALIB and FOUNT; none when a component has no image that verifies. -/
def firmwareSlot (s : State) (c : Fin 5) : Option Bool :=
  if c = loaderComp then some s.boot.chosen[c] else runnableSlot s c s.boot.chosen[c]

/-- Every image verifies. -/
def firmwareOk (s : State) : Bool := (List.finRange 5).all (fun c => (firmwareSlot s c).isSome)

/-- The saved values are applied. -/
def applySaved (s : State) : State :=
  let d := entDefault s.build s.dieIndex
  { s with colo := { s.colo with
      ent := s.flash.confEnt.foldl (fun t p => tset d t p.1 p.2) s.colo.ent
      oct := s.flash.confOct.foldl (fun t p => tset (fun _ => []) t p.1 p.2) s.colo.oct } }

/-- After a failed trial start the trial mark is dropped, TRIED returns to 0, and the update ends REVERTED. -/
def dropTrial (s : State) : State :=
  match trialComp s.flash with
  | some c =>
    if s.boot.reverts then
      let fl := clearTried (modComp s.flash c (fun x => { x with trial := none }))
      setUpdate { s with flash := fl, upd := { s.upd with comp := BitVec.ofNat 8 c.1 } } .failed 7
    else s
  | none => s

/-- Stage 2 completes. -/
def configStage (s : State) : State :=
  let slots := Vector.ofFn (fun c => (firmwareSlot s c).getD s.boot.chosen[c])
  let trial := Vector.ofFn (fun c => s.boot.onTrial[c] && decide (slots[c] = s.boot.chosen[c]))
  let s1 : State := { s with boot := { s.boot with chosen := slots, onTrial := trial } }
  beginStage (applySaved (dropTrial s1)) 2 3

/-! ### Stage 3: BIST and memory tests (R176, R177, R204, R334, R760, R807) -/

/-- What BIST reports of a Press; a Press that no report names has no failing column. -/
def bistOf (r : StageReport) (f : FormeIx) (p : Fin 4) : List (Fin 128) × Bool :=
  match r.bist.find? (fun b => decide (b.forme = f) && decide (b.press = p)) with
  | some b => (b.cols, b.hintDiff)
  | none => ([], false)

/-- A Press after BIST: one to four failing columns are bypassed, more retire it. -/
def testedPress (x : List (Fin 128) × Bool) : Press :=
  if x.1.length ≤ 4 then ⟨x.1, false, x.2, BitVec.ofNat 8 (128 - x.1.length)⟩ else ⟨[], true, x.2, 0⟩

/-- Presses that take part in accumulates. -/
def activeMask (ps : Vector Press 4) : BitVec 4 :=
  BitVec.ofNat 4 (sumN ((venum ps).map (fun p => b2n (!p.2.retired) * 2 ^ p.1.1)))

/-- A Forme after stage 3: Presses by their reports, memories zeroed, Fount slots empty; retired when a memory fails. -/
def testedForme (r : StageReport) (f : FormeIx) (fm : Forme) : Forme :=
  let ps := Vector.ofFn (fun p => testedPress (bistOf r f p))
  let failed := r.memFailed.getLsbD f.1
  { fm with
    pu := { fm.pu with presses := ps, active := activeMask ps }
    vu := { fm.vu with fount := ParMem.zero, slots := Vector.replicate 8 FountSlot.reset }
    galley := ParMem.zero
    quire := ParMem.zero
    test := { fm.test with retire := failed, retired := failed } }

/-- Stage 3 completes. -/
def bistStage (s : State) (r : StageReport) : State :=
  beginStage { s with formes := vmapIx s.formes (testedForme r) } 3 4

/-- Some Forme has an active Press and sound memories. -/
def bistOk (r : StageReport) : Bool :=
  (List.finRange 12).any (fun f => !r.memFailed.getLsbD f.1
    && (List.finRange 4).any (fun p => !(testedPress (bistOf r f p)).retired))

/-! ### Stages 4 to 6 (R467, R469, R524, R758, R759, R761, R762) -/

/-- One retirement of the record is applied to the extent table. -/
def applyRetire (t : Table ExtEntry) (x : Nat × Nat) : Table ExtEntry :=
  let q := (tget extDefault t x.2).pext
  let t1 := tmod extDefault t x.2 (fun e => { e with state := 4 })
  if x.1 = x.2 then t1 else tmod extDefault t1 x.1 (fun e => { e with pext := q, state := 1 })

/-- Stage 4 completes: channels trained, retirements applied, window zeroed. -/
def memoryStage (s : State) : State :=
  let g := s.gddr
  let g1 : Gddr := { g with
    phys := ⟨0, []⟩, lost := [], ext := s.flash.retire.foldl applyRetire [], chans := [], wait := [] }
  beginStage { s with gddr := g1 } 4 5

/-- Stage 5 begins with the die ID that DIE_ID_BASE gives (R14, R16); until it joins a domain the die is its own master. -/
def joinModule (s : State) : State :=
  let id := BitVec.ofNat 12 (entN s 0x5000 1 + s.dieIndex.1)
  { s with span := { s.span with dieId := id }, tb := { s.tb with master := id } }

/-- The stage in progress completes without a fault. -/
def stageCan (s : State) (r : StageReport) : Bool :=
  unitsOn s && decide (s.boot.state = 0) &&
  (match s.boot.cur.toNat with
   | 0 => (loaderSlot s).isSome
   | 1 => slotPartOk s
   | 2 => firmwareOk s
   | 3 => bistOk r
   | 4 => true
   | 6 => true
   | _ => false)

/-- Stage 6 completes: the die runs, FAILED_STARTS is 0, and FAULT_L is released (R793). -/
def runtimeStage (s : State) : State :=
  { s with
    flash := clearFailed s.flash
    pwr := { s.pwr with faultL := false }
    boot := { s.boot with stage := 6, cur := 7, state := 1, startMs := BitVec.ofNat 32 (s.boot.age.toNat / 1000000) } }

/-- The stage in progress completes. -/
def stageDone (s : State) (r : StageReport) : State :=
  match s.boot.cur.toNat with
  | 0 => romStage s ((loaderSlot s).getD false)
  | 1 => keyStage s r
  | 2 => configStage s
  | 3 => bistStage s r
  | 4 => joinModule (memoryStage s)
  | 6 => runtimeStage s
  | _ => s

/-- START_STAGE_COMPLETE. -/
def execStartStageComplete (r : StageReport) (s : State) : Outc := onlyIf (stageCan s r) s (stageDone s r)

/-- A stage other than 5 is in progress. -/
def stageFailReady (s : State) : Bool :=
  unitsOn s && decide (s.boot.state = 0) && decide (s.boot.cur ≠ 5) && decide (s.boot.cur.toNat ≤ 6)

/-- A failed start: the stage is held, and the die is reset. In stage 0 the start is counted first, and one that found
FAILED_STARTS at 3 or more, with no loader that verifies, enters Falsework mode from the boot ROM. -/
def stageFail (s : State) : State :=
  let k := s.boot.cur
  let s1 : State := { s with flash := { s.flash with lastFail := k } }
  if k = 0 then
    let s2 : State := { s1 with
      flash := countStart s1.flash, boot := { s1.boot with chosen := Vector.ofFn (chooseSlot s.flash) } }
    if 3 ≤ (failedStarts s.flash).toNat then enterFalsework s2 true else resetDie s2 2
  else if k = 1 then resetDie { s1 with flash := mendSlots s1.flash } 2
  else resetDie s1 2

/-- STAGE_FAIL. -/
def execStageFail (s : State) : Outc := onlyIf (stageFailReady s) s (stageFail s)

/-- An internal link is UP, NARROW or HELD. -/
def linkSettled (s : State) (p : Fin 11) : Bool := portUp s.span.ports[p] || decide ((s.span.ports[p]).st = 4)

/-- Stage 5 ends: every internal link has settled, or 2 s have passed. -/
def spanStageReady (s : State) : Bool :=
  unitsOn s && decide (s.boot.state = 0) && decide (s.boot.cur = 5)
    && (internalPorts.all (linkSettled s) || aged s s.boot.stageAt 2000000000)

/-- SPAN_STAGE_END. -/
def execSpanStageEnd (s : State) : Outc := onlyIf (spanStageReady s) s (beginStage s 5 6)

end Sys2Proof.Machine
end

