-- ==== Sys2Proof/Machine/PowerFam.lean ====
section
/-! DEFINITION. The module input, rails, sensors, heat, the alarm inputs and the debug port (R682, R683, R782 to R786, R791 to R802). -/

namespace Sys2Proof.Machine

/-! ### Power (R795 to R799) -/

/-- The die loses power: everything but the flash is gone, and a start in progress has failed (R762, R798). -/
def powerOff (s : State) (p : Power) : State :=
  let k := s.boot.cur
  let fl := if s.boot.state = 0 ∧ k.toNat ≤ 6 ∧ s.pwr.dieUp = true then { s.flash with lastFail := k } else s.flash
  dieReset s.build s.dieIndex s.pending s.free s.out fl p 0

/-- The module's input stage without power; what the enclosure and the cables drive stays. -/
def Power.unpowered (p : Power) (latch : Bool) : Power :=
  { p with closed := false, ovLatch := latch, step := 0, good := false, dieUp := false, railsOut := 0, inState := 1, lowEvents := 0,
           sensors := ⟨0, 0, 0, 0, 0, 0, 0, 0⟩, faultL := false }

/-- The input has qualified while the switch is open and not held open. -/
def qualifyReady (s : State) : Bool := !s.pwr.closed && !s.pwr.ovLatch

/-- POWER_QUALIFIED: the input switch closes. -/
def execPowerQualified (s : State) : Outc :=
  onlyIf (qualifyReady s) s { s with pwr := { s.pwr with closed := true, step := 0 } }

/-- The sequence of R797 is under way. -/
def sequencing (s : State) : Bool := s.pwr.closed && decide (s.pwr.step.toNat < 5)

/-- The last row: rails in regulation, die reset released, PWR_GOOD released unless a die's rails are out (R799). -/
def railsUp (s : State) : State :=
  let own := s.pwr.railsOut.getLsbD s.dieIndex.1
  let s1 : State := { s with pwr := { s.pwr with step := 5, good := decide (s.pwr.railsOut = 0), dieUp := !own } }
  if own then s1 else resetDie s1 0

/-- The next row of the sequence is reached. -/
def railStep (s : State) : State :=
  if s.pwr.step.toNat = 4 then railsUp s else { s with pwr := { s.pwr with step := s.pwr.step + 1 } }

/-- RAIL_SEQUENCE_STEP. -/
def execRailSequenceStep (s : State) : Outc := onlyIf (sequencing s) s (railStep s)

/-- POWER_LOSS: the input switch was closed; every rail goes off. -/
def execPowerLoss (s : State) : Outc := onlyIf s.pwr.closed s (powerOff s (s.pwr.unpowered s.pwr.ovLatch))

/-- OVERVOLTAGE: the input switch opens and stays open. -/
def execOvervoltage (s : State) : Outc := onlyIf s.pwr.closed s (powerOff s (s.pwr.unpowered true))

/-- The band of a voltage in which operation continues: NORMAL, LOW, HIGH (R795). -/
def inputBand (mv : Nat) : Option (BitVec 8) :=
  if 56000 ≤ mv ∧ mv ≤ 67000 then some 1
  else if 52000 ≤ mv ∧ mv < 56000 then some 2
  else if 67000 < mv ∧ mv ≤ 72000 then some 3
  else none

/-- V_in has a new level: below 40 V it releases the switch, and in a band it sets INPUT_STATE and counts entries into LOW. -/
def inputEffect (s : State) (mv : Nat) : State :=
  let latch := s.pwr.ovLatch && decide (40000 ≤ mv)
  let p := { s.pwr with ovLatch := latch }
  match inputBand mv with
  | some b =>
    if s.pwr.closed then
      let n := if b = 2 ∧ p.inState ≠ 2 then p.lowEvents + 1 else p.lowEvents
      { s with pwr := { p with inState := b, lowEvents := n } }
    else { s with pwr := p }
  | none => { s with pwr := p }

/-- INPUT_STATE_CHANGE. -/
def execInputStateChange (mv : Nat) (s : State) : Outc := onlyIf true s (inputEffect s mv)

/-- The rails of a die of the module may fail while the input is there. -/
def railFaultReady (s : State) (d : Fin 8) : Bool :=
  s.pwr.closed && decide (d.1 < dieCount s.build) && !s.pwr.railsOut.getLsbD d.1

/-- A die's rails fail: PWR_GOOD is low, the die is held in reset, and the others treat it as one in Falsework mode. -/
def railFault (s : State) (d : Fin 8) : State :=
  let p := { s.pwr with railsOut := s.pwr.railsOut ||| BitVec.ofNat 8 (2 ^ d.1), good := false }
  if d = s.dieIndex then powerOff s { p with dieUp := false, faultL := false }
  else
    let s1 : State := { s with pwr := p }
    if peerFencedReady s1 d then peerFenced s1 d 0 else s1

/-- RAIL_FAULT. -/
def execRailFault (d : Fin 8) (s : State) : Outc := onlyIf (railFaultReady s d) s (railFault s d)

/-! ### Sensors and heat (R682, R683, R802) -/

/-- SENSOR_SAMPLE: the die reads the module's sensors. -/
def execSensorSample (r : Sensors) (s : State) : Outc := onlyIf s.pwr.dieUp s { s with pwr := { s.pwr with sensors := r } }

/-- Alarm sources rise: LIVE shows them, and the rising ones alarm. -/
def riseSources (s : State) (src : BitVec 6) : State :=
  let rising := src &&& ~~~s.sec.live
  securityAlarm { s with sec := { s.sec with live := s.sec.live ||| src } } rising

/-- Bit of THERMAL. -/
def thermalSrc : BitVec 6 := 8

/-- THERMAL_TRIP_C is reached. -/
def tripped (s : State) (dieMc : Int) : Bool := decide (1000 * Int.ofNat (entN s 0x2010 10) ≤ dieMc)

/-- A temperature sample: budget, starts and operating points (R682), and at the trip the fence and the alarm. -/
def thermalSampleEffect (s : State) (dieMc memMc : Int) : State :=
  let s1 := thermalEffect s dieMc memMc
  if tripped s dieMc then riseSources (fenceDie s1 2) thermalSrc
  else { s1 with sec := { s1.sec with live := s1.sec.live &&& ~~~thermalSrc } }

/-- THERMAL_SAMPLE. -/
def execThermalSample (dieMc memMc : Int) (s : State) : Outc := onlyIf s.pwr.dieUp s (thermalSampleEffect s dieMc memMc)

/-! ### Alarm inputs, cables (R782, R783, R792, R794) -/

/-- The security logic runs: its rails are up, from stage 1 of a start on. -/
def securityOn (s : State) : Bool := s.pwr.dieUp && !(decide (s.boot.state = 0) && decide (s.boot.cur = 0))

/-- SECURITY_ALARM: sources rise in one management cycle; one whose level is already high has no edge. -/
def execSecurityAlarm (sources : BitVec 6) (s : State) : Outc :=
  onlyIf (securityOn s) s (securityAlarm s (sources &&& ~~~s.sec.live))

/-- The debounced enclosure input has a new level. -/
def enclEffect (s : State) (level : Bool) : State :=
  let s1 : State := { s with pwr := { s.pwr with enclOpen := level } }
  if !securityOn s then s1
  else if level then riseSources s1 4
  else { s1 with sec := { s1.sec with live := s1.sec.live &&& ~~~ 4 } }

/-- ENCL_OPEN. -/
def execEnclOpen (level : Bool) (s : State) : Outc := onlyIf true s (enclEffect s level)

/-- SPAN_CABLE_CHANGE: a cable in Sd is seated or removed. -/
def execSpanCableChange (d : Fin 8) (seated : Bool) (s : State) : Outc :=
  onlyIf (decide (d.1 < dieCount s.build)) s
    { s with pwr := { s.pwr with cables :=
        (s.pwr.cables &&& ~~~ BitVec.ofNat 8 (2 ^ d.1)) ||| (if seated then BitVec.ofNat 8 (2 ^ d.1) else 0) } }

/-! ### The debug port (R786) -/

/-- IDCODE, MMIO_READ and BYPASS. -/
def irIdcode : Byte := 0x01
/-- MMIO_READ. -/
def irMmioRead : Byte := 0x02
/-- BYPASS. -/
def irBypass : Byte := 0xFF

/-- The instruction is in the instruction register. -/
def setIr (s : State) (ir : Byte) : State := { s with sec := { s.sec with ir := ir } }

/-- An instruction that acts as BYPASS: one bit, captured as 0 (IEEE 1149.1). -/
def bypass (s : State) (ir : Byte) : State := emit (setIr s ir) (.debugData 0)

/-- IDCODE. -/
def idcode (s : State) : State := emit (setIr s irIdcode) (.debugData (BitVec.ofNat 104 (entryNum s 0x9030 4)))

/-- MMIO_READ: the address of this update is read; what the previous update read comes out above 40 bits that the spec does
not describe (free value). -/
def debugRead (s : State) (dr : BitVec 104) : State :=
  let r := mmioRead s (dr.toNat % 2 ^ 40)
  let low := (Config.freeWord s.free).toNat % 2 ^ 40
  let s1 := emit (setIr (useFree r.2 1) irMmioRead) (.debugData (BitVec.ofNat 104 (low + s.sec.mmioPrev.toNat * 2 ^ 40)))
  { s1 with sec := { s1.sec with mmioPrev := r.1 } }

/-- An instruction in the debug port. While the port is locked, every one but IDCODE and BYPASS raises DEBUG_PROBE. -/
def debugEffect (s : State) (ir : Byte) (dr : BitVec 104) : State :=
  if ir = irIdcode then idcode s
  else if ir = irBypass then bypass s ir
  else if s.sec.debugState = 0 then securityAlarm (bypass s ir) 0x10
  else if ir = irMmioRead then debugRead s dr
  else bypass s ir

/-- An instruction of level 2, which the spec does not describe. -/
def levelTwo (s : State) (ir : Byte) : Bool :=
  decide (s.sec.debugState = 2) && decide (ir ≠ irIdcode) && decide (ir ≠ irBypass) && decide (ir ≠ irMmioRead)

/-- DEBUG_PORT_INSTRUCTION. -/
def execDebugPortInstruction (ir : Byte) (dr : BitVec 104) (s : State) : Outc :=
  if s.pwr.dieUp && levelTwo s ir then .refused .debugLevel2 else onlyIf s.pwr.dieUp s (debugEffect s ir dr)

end Sys2Proof.Machine
end

