-- ==== Sys2Proof/Machine/Agent.lean ====
section
/-! DEFINITION. The Colophon agent: what it serves, reads and writes of entries, sessions (R725 to R745, R749, R761, R765). -/

namespace Sys2Proof.Machine

/-! ### Status values (R733) -/

/-- Statuses of messages and items. -/
inductive CStat where
  | ok | noentry | readonly | type | range | auth | state | logfull | toobig | falsework | malformed | busy | nosession | changed
  deriving DecidableEq, Repr, Inhabited

/-- Value of a status. -/
def CStat.code : CStat → Byte
  | .ok => 0 | .noentry => 1 | .readonly => 2 | .type => 3 | .range => 4 | .auth => 5 | .state => 6 | .logfull => 7
  | .toobig => 8 | .falsework => 9 | .malformed => 10 | .busy => 11 | .nosession => 12 | .changed => 13

/-! ### What the agent serves -/

/-- The modes of the agent (R739, R761, R765). -/
inductive AgentMode where
  | full
  /-- fenced, starting from stage 1 on, or in Falsework mode from the loader -/
  | limited
  /-- in Falsework mode from the boot ROM -/
  | rom
  /-- no agent runs -/
  | silent
  deriving DecidableEq, Repr, Inhabited

/-- The agent's mode. -/
def agentMode (s : State) : AgentMode :=
  if !s.pwr.dieUp then .silent
  else if s.boot.state = 3 then (if s.boot.romMode then .rom else .limited)
  else if s.fault.fenced then .limited
  else if s.boot.state = 1 then .full
  else if s.boot.cur = 0 then .silent
  else .limited

/-- UPDATE entries (R765). -/
def updEntry (idx : Nat) : Bool := decide (idx = 0xA000)

/-- Writes that the limited modes serve (R765); v is the value written. -/
def limitedWrite (s : State) (idx sub v : Nat) : Bool :=
  match agentMode s with
  | .limited => decide ((idx = 0x1040 ∧ sub = 6) ∨ (idx = 0x9010 ∧ sub = 4) ∨ (idx = 0x9020 ∧ sub = 2) ∨ (idx = 0x9050 ∧ sub = 1)
      ∨ (idx = 0x9000 ∧ sub = 1)) || updEntry idx
  | .rom => decide (idx = 0x1040 ∧ sub = 6)
      || (updEntry idx && decide (if sub = 1 then v = 0 else s.upd.comp = 0))
  | _ => false

/-- A write is served in the present mode. -/
def writeServed (s : State) (idx sub v : Nat) : Bool := decide (agentMode s = .full) || limitedWrite s idx sub v

/-- A read is served in the present mode. -/
def readServed (s : State) (idx sub : Nat) : Bool :=
  match agentMode s with
  | .rom => decide (idx = 0x1000) || decide (idx = 0x1040) || decide (idx = 0x8000 ∧ sub = 10)
  | _ => true

/-- COLOPHON_OPEN_ACCESS is 1. -/
def openAccess (s : State) : Bool := decide (entN s 0x1030 2 = 1)

/-- A write that needs no session although R740 asks for one: an operator key while none is enrolled (R745), and the writes of
R765 while KEY_STATE is not REGENERATED. Both come through the management port. -/
def sessionExempt (s : State) (mgmt : Bool) (idx sub v : Nat) : Bool :=
  mgmt && ((decide (idx = 0x9010 ∧ 0x10 ≤ sub ∧ sub ≤ 0x17) && noOperatorKeys s)
    || (decide (s.sec.keyState ≠ 1) && limitedWrite s idx sub v))

/-! ### Who asks -/

/-- A request's standing: the client, whether it is in a session, and whether it came through the management port. -/
structure Asker where
  key  : ClientKey
  mgmt : Bool
  deriving DecidableEq, Repr, Inhabited

/-- The request is in a session. -/
def Asker.inSession (a : Asker) : Bool := match a.key with | .session _ => true | .addr _ => false

/-- The request may write the entry (R740). -/
def writeAllowed (s : State) (a : Asker) (acc : Access) (idx sub v : Nat) : Bool :=
  a.inSession || sessionExempt s a.mgmt idx sub v || (a.mgmt && openAccess s && decide (acc ≠ .rws))

/-! ### Writing an entry -/

/-- The value that bytes give for a numeric type, read as I32 or unsigned. -/
def valueInt (t : EType) (v : Nat) : Int := if t = .i32 then toSigned 32 v else Int.ofNat v

/-- A value lies outside an entry's interval. -/
def outOfInterval (e : EntSpec) (v : Nat) : Bool :=
  match e.typ with
  | .oct _ => false
  | .str => false
  | .domain => false
  | t => decide (valueInt t v < e.lo) || decide (e.hi < valueInt t v)

/-- Value is a multiple of n. -/
def notMultiple (v n : Nat) : Bool := decide (v % n ≠ 0)

/-- Powers of two in the range of KV_STRIPE. -/
def isPow2 (v : Nat) : Bool := (List.range 21).any (fun k => decide (v = 2 ^ k))

/-- Range rules of service entries beyond their interval (R631, R632). -/
def svcRangeBad (s : State) (idx sub v : Nat) : Bool :=
  match sub with
  | 0x01 => decide (v = 1)
  | 0x04 => decide (v = 4791) || decide (v = 47120)
  | 0x08 => decide (v ≠ 0 ∧ v < 100000)
  | 0x09 => decide (v ≠ 0) && decide (entN s idx 8 ≤ v)
  | 0x0C => decide (2 ^ dieCount s.build ≤ v)
  | 0x0E => !isPow2 v
  | _ => false

/-- ADMIT_RESV entries keep a sum of at most 12,288 KiB (R624). -/
def admitSumBad (s : State) (sub v : Nat) : Bool :=
  decide (12288 < v + sumN (([1, 2, 3].filter (fun k => decide (k ≠ sub))).map (entN s 0x6020)))

/-- A value breaks an entry's range beyond its interval. -/
def ownRangeBad (s : State) (idx sub v : Nat) : Bool :=
  match idx, sub with
  | 0x5000, 1 => notMultiple v (dieCount s.build)
  | 0x6010, _ => notMultiple v 4096
  | 0x6020, 1 => admitSumBad s 1 v
  | 0x6020, 2 => admitSumBad s 2 v
  | 0x6020, 3 => admitSumBad s 3 v
  | 0x7010, 2 => notMultiple v extBytes || decide (gddrBytes ≤ v)
  | 0x7010, 3 => notMultiple v extBytes
  | 0x7010, 5 => decide (dieCount s.build ≤ v)
  | 0x7010, 6 => notMultiple v extBytes || decide (gddrBytes ≤ v)
  | _, _ => if 0x7100 ≤ idx ∧ idx ≤ 0x713F then svcRangeBad s idx sub v else false

/-- An object of the kind of a table base is active (R624): 1 QP, 2 CQ, 3 SRQ. -/
def objectsActive (s : State) (sub : Nat) : Bool :=
  match sub with
  | 1 => s.abut.qps.any (fun p => decide (p.2.state ≠ 0))
  | 2 => s.abut.cqs.any (fun p => p.2.active)
  | _ => s.abut.srqs.any (fun p => p.2.active)

/-- Rules of service slots (R634). -/
def svcStateBad (s : State) (i : Fin 64) (sub v : Nat) : Bool :=
  if sub = 1 then (if v = 2 then !svcStartOk s i else !svcStopOk s i)
  else decide (svcState s i ≠ 0) && decide (svcState s i ≠ 4)

/-- The service slot of an index. -/
def svcIx (idx : Nat) : Fin 64 := Fin.ofNat 64 (idx - 0x7100)

/-- An entry's own rules refuse the write with STATE. -/
def ownStateBad (s : State) (idx sub v : Nat) (bs : List Byte) : Bool :=
  match idx, sub with
  | 0x1030, 5 => decide (v = 1) && !saveOk s
  | 0x6010, k => objectsActive s k
  | 0x7010, 2 => logOn s
  | 0x7010, 3 => logOn s
  | 0x7010, 5 => logOn s
  | 0x7010, 6 => logOn s
  | 0x9030, 2 => !tokenOk s bs
  | 0x9050, 1 => !attestOk s
  | 0xA000, 1 => !updIn s [.idle, .failed]
  | 0xA000, 3 => !updateCmdOk s v
  | _, _ => if 0x7100 ≤ idx ∧ idx ≤ 0x713F then svcStateBad s (svcIx idx) sub v else false

/-- Entries whose accepted writes are inputs of the Impression log (R538, R734). -/
def loggedEntry (idx : Nat) : Bool :=
  (decide (0x4000 ≤ idx) && decide (idx ≤ 0x4FFF)) || (decide (0x7000 ≤ idx) && decide (idx ≤ 0x7FFF))

/-- A new BUCKET_LIMIT below LEVEL brings LEVEL down to it (R722). -/
def lowerLevel (s : State) (idx v : Nat) : State :=
  { s with fault := { s.fault with
      level := vmod s.fault.level (Fin.ofNat 12 (idx - 0x8010)) (fun l => if v < l.toNat then BitVec.ofNat 16 v else l) } }

/-- What an accepted write of a numeric entry changes before the response. -/
def applyNum (s : State) (idx sub v : Nat) : State :=
  match idx, sub with
  | 0x1030, 5 => startSave s v
  | 0x1040, 6 => s
  | 0x4060, 6 => requestClose s
  | 0x7010, 2 => let t := setEnt s idx sub v; { t with log := { t.log with wpos := 0, recs := [] } }
  | 0x7010, 3 => let t := setEnt s idx sub v; { t with log := { t.log with wpos := 0, recs := [] } }
  | 0x7010, 5 => let t := setEnt s idx sub v; { t with log := { t.log with mirrorLost := false } }
  | 0x8000, 5 => s
  | 0x9000, 1 => if v = 1 then returnPrep s else s
  | 0x9010, 4 => s
  | 0x9020, 2 => clearAlarms s v
  | 0xA000, 1 => { s with upd := { s.upd with comp := BitVec.ofNat 8 v } }
  | 0xA000, 3 => updateCmd s v
  | _, _ =>
    if 0x7100 ≤ idx ∧ idx ≤ 0x713F ∧ sub = 1 then (if v = 2 then svcStart s (svcIx idx) else svcStop s (svcIx idx))
    else if 0x8010 ≤ idx ∧ idx ≤ 0x801B ∧ sub = 3 then lowerLevel (setEnt s idx sub v) idx v
    else setEnt s idx sub v

/-- What an accepted write of a byte-string entry changes before the response. -/
def applyOct (s : State) (idx sub : Nat) (bs : List Byte) : State :=
  if idx = 0x9010 then writeOperatorKey s (sub - 0x10) bs
  else if idx = 0x9050 then attest s bs
  else if idx = 0x9030 then newNonce s
  else setOct s idx sub bs

/-- What an accepted write changes before the response. -/
def applyWrite (s : State) (e : EntSpec) (idx sub : Nat) (bs : List Byte) : State :=
  match e.typ with
  | .oct _ => applyOct s idx sub bs
  | _ => applyNum s idx sub (leNat bs)

/-- A write refused with STATE changes the state only for DEBUG_UNLOCK: a new nonce, and the alarm (R787). -/
def refusedWrite (s : State) (idx sub : Nat) : State :=
  if idx = 0x9030 ∧ sub = 2 then unlockRefused (newNonce s) else s

/-- Effects that follow the response to a write (R766, R788, R743, and the fence that stops the agent's die). -/
inductive After where
  | restart (v : Nat)
  | fence
  | closeSession (id : BitVec 32)
  | unlock (level : Nat)
  deriving DecidableEq, Repr, Inhabited

/-- The effect that follows an accepted write. -/
def afterOf (idx sub : Nat) (bs : List Byte) : List After :=
  match idx, sub with
  | 0x1040, 6 => [.restart (leNat bs)]
  | 0x8000, 5 => [.fence]
  | 0x9010, 4 => [.closeSession (BitVec.ofNat 32 (leNat bs))]
  | 0x9030, 2 => [.unlock (tokenLevel bs)]
  | _, _ => []

/-- The checks of one write, in the model's order, before its log record. -/
def checkWrite (s : State) (a : Asker) (idx sub : Nat) (typ vlen : Nat) (bs : List Byte) : CStat :=
  match entSpec s.build s.dieIndex idx sub with
  | none => .noentry
  | some e =>
    let v := leNat bs
    if !writeServed s idx sub v then .falsework
    else if e.typ = .domain then .type
    else if e.acc = .ro ∨ e.acc = .const then .readonly
    else if !writeAllowed s a e.acc idx sub v then .auth
    else if typ ≠ etypeCode e.typ ∨ vlen ≠ etypeSize e.typ then .type
    else if outOfInterval e v ∨ ownRangeBad s idx sub v then .range
    else if ownStateBad s idx sub v bs then .state
    else .ok

/-- One write (R725, R736): its status, the state before the response, and what follows the response. -/
def writeEntry (s : State) (a : Asker) (idx sub typ vlen : Nat) (bs : List Byte) : CStat × State × List After :=
  match checkWrite s a idx sub typ vlen bs, entSpec s.build s.dieIndex idx sub with
  | .ok, some e =>
    match (if loggedEntry idx then recordInput s 5 0 (idx + sub * 65536) bs else some s) with
    | some s1 => (.ok, applyWrite s1 e idx sub bs, afterOf idx sub bs)
    | none => (.logfull, s, [])
  | .state, _ => (.state, refusedWrite s idx sub, [])
  | st, _ => (st, s, [])

/-! ### Sessions (R741 to R743, R746) -/

/-- Closes a session: it goes with its subscription. -/
def closeSession (s : State) (id : BitVec 32) : State :=
  { s with colo := { s.colo with
      sessions := s.colo.sessions.filter (fun x => decide (x.id ≠ id))
      subs := s.colo.subs.filter (fun x => decide (x.key ≠ .session id)) } }

/-- Carries out what follows a response. -/
def doAfter (s : State) (x : After) : State :=
  match x with
  | .restart v => dieRestart s v
  | .fence => fenceDie s 1
  | .closeSession id => closeSession s id
  | .unlock level => unlock s level

end Sys2Proof.Machine
end

