-- ==== Sys2Proof/Machine/ColoFam.lean ====
section
/-! DEFINITION. The Colophon's messages and timers, and writes of single entries (R729 to R747). -/

namespace Sys2Proof.Machine

/-! ### Bodies -/

/-- What handling a request gives: message status, response body, the session in whose name it answers when it opened one, how
many items were refused, the state before the response, and what follows it. -/
structure Handled where
  status  : CStat
  body    : List Byte
  sid     : Option (BitVec 32)
  refused : Nat
  st      : State
  after   : List After

/-- A request refused as a whole, with an empty body. -/
def refuseMsg (s : State) (c : CStat) : Handled := ⟨c, [], none, 1, s, []⟩

/-- Little-endian field of a body. -/
def bodyN (b : List Byte) (off k : Nat) : Nat := leNat ((b.drop off).take k)

/-- Largest body (R730). -/
def maxBody : Nat := 1344

/-- Padding to a multiple of 4. -/
def pad4 (bs : List Byte) : List Byte := padTo (roundUp bs.length 4) 0 bs

/-! ### READ (R735) -/

/-- An item of a READ response. -/
def readItem (idx sub : Nat) (st : CStat) (typ : Nat) (val : List Byte) : List Byte :=
  leBytes 2 idx ++ leBytes 1 sub ++ [st.code] ++ leBytes 1 typ ++ [0] ++ leBytes 2 val.length ++ pad4 val

/-- Status, TYPE and value of a READ item. -/
def readEntry (s : State) (idx sub : Nat) : CStat × Nat × List Byte :=
  match entSpec s.build s.dieIndex idx sub with
  | none => (.noentry, 0, [])
  | some e => if readServed s idx sub then (.ok, etypeCode e.typ, entryBytes s e idx sub) else (.falsework, etypeCode e.typ, [])

/-- READ items in order; `full` says that an item did not fit. Room is kept for the headers of the items that follow. Answers
the body and the number of items refused. -/
def readItems (s : State) : Bool → Nat → List (Nat × Nat) → List Byte × Nat
  | _, _, [] => ([], 0)
  | full, used, (idx, sub) :: t =>
    let r := readEntry s idx sub
    let item := readItem idx sub r.1 r.2.1 r.2.2
    if full || decide (maxBody < used + item.length + 8 * t.length) then
      let x := readItems s true (used + 8) t
      (readItem idx sub .toobig r.2.1 [] ++ x.1, x.2 + 1)
    else
      let x := readItems s false (used + item.length) t
      (item ++ x.1, x.2 + (if r.1 = .ok then 0 else 1))

/-- The items of a READ body: four bytes each, at most 64; none when it is malformed. -/
def readList (b : List Byte) : Option (List (Nat × Nat)) :=
  let cs := chunks 4 b
  if b.length % 4 = 0 ∧ cs.length ≤ 64 ∧ cs.all (fun c => decide (bodyN c 3 1 = 0)) = true then
    some (cs.map (fun c => (bodyN c 0 2, bodyN c 2 1)))
  else none

/-- READ. -/
def handleRead (s : State) (b : List Byte) : Handled :=
  match readList b with
  | none => refuseMsg s .malformed
  | some l => let x := readItems s false 0 l; ⟨.ok, x.1, none, x.2, s, []⟩

/-! ### WRITE (R736) -/

/-- An item of a WRITE request. -/
structure WItem where
  idx  : Nat
  sub  : Nat
  typ  : Nat
  vlen : Nat
  val  : List Byte
  deriving DecidableEq, Repr, Inhabited

/-- The items of a WRITE body; none when it is malformed. The first argument bounds their number. -/
def writeList : Nat → List Byte → Option (List WItem)
  | _, [] => some []
  | 0, _ => none
  | n + 1, b =>
    let vlen := bodyN b 6 2
    let size := 8 + roundUp vlen 4
    if b.length < size ∨ bodyN b 3 1 ≠ 0 ∨ bodyN b 5 1 ≠ 0 then none
    else (writeList n (b.drop size)).map (fun t => ⟨bodyN b 0 2, bodyN b 2 1, bodyN b 4 1, vlen, (b.drop 8).take vlen⟩ :: t)

/-- Answer of a WRITE item. -/
def writeAnswer (x : WItem) (st : CStat) : List Byte := leBytes 2 x.idx ++ leBytes 1 x.sub ++ [st.code, 0]

/-- WRITE items in order, each on its own. -/
def writeItems (a : Asker) : State → List WItem → List Byte × Nat × State × List After
  | s, [] => ([], 0, s, [])
  | s, x :: t =>
    let r := writeEntry s a x.idx x.sub x.typ x.vlen x.val
    let y := writeItems a r.2.1 t
    (writeAnswer x r.1 ++ y.1, y.2.1 + (if r.1 = .ok then 0 else 1), y.2.2.1, r.2.2 ++ y.2.2.2)

/-- An item that R745 or R765 accepts without a session. -/
def exemptItem (s : State) (a : Asker) (x : WItem) : Bool := sessionExempt s a.mgmt x.idx x.sub (leNat x.val)

/-- WRITE. -/
def handleWrite (s : State) (a : Asker) (b : List Byte) : Handled :=
  match writeList 64 b with
  | none => refuseMsg s .malformed
  | some l =>
    if a.inSession || (a.mgmt && (openAccess s || l.any (exemptItem s a))) then
      let x := writeItems a s l
      ⟨.ok, x.1, none, x.2.1, x.2.2.1, x.2.2.2⟩
    else refuseMsg s .auth

/-! ### READ-BLOCK and WRITE-BLOCK (R737) -/

/-- Body of a READ-BLOCK response. -/
def readBlockAnswer (idx sub : Nat) (st : CStat) (gen off total : Nat) (data : List Byte) : List Byte :=
  leBytes 2 idx ++ leBytes 1 sub ++ [st.code, 0] ++ leBytes 4 gen ++ leBytes 8 off ++ leBytes 8 total ++ data

/-- Status and data of a piece of a block: CHECK, the generation expected, offset and length. -/
def readPiece (d : Block) (chk : Bool) (gen off len : Nat) : CStat × List Byte :=
  if chk && decide (gen ≠ d.gen) then (.changed, [])
  else if len = 0 ∨ 1024 < len ∨ d.total ≤ off then (.range, [])
  else (.ok, d.piece off (min len (d.total - off)))

/-- READ-BLOCK. -/
def handleReadBlock (s : State) (b : List Byte) : Handled :=
  if b.length ≠ 24 ∨ bodyN b 20 4 ≠ 0 then refuseMsg s .malformed
  else
    let idx := bodyN b 0 2
    let sub := bodyN b 2 1
    let off := bodyN b 8 8
    let fail (c : CStat) : Handled := ⟨.ok, readBlockAnswer idx sub c 0 off 0 [], none, 1, s, []⟩
    match entSpec s.build s.dieIndex idx sub with
    | none => fail .noentry
    | some _ =>
      if !readServed s idx sub then fail .falsework
      else
        match domainOf s idx sub with
        | none => fail .type
        | some d =>
          let r := readPiece d ((bodyN b 3 1).testBit 0) (bodyN b 4 4) off (bodyN b 16 4)
          ⟨.ok, readBlockAnswer idx sub r.1 d.gen off d.total r.2, none, if r.1 = .ok then 0 else 1, s, []⟩

/-- The status of a WRITE-BLOCK piece. -/
def pieceStatus (s : State) (a : Asker) (idx sub off len : Nat) : CStat :=
  match entSpec s.build s.dieIndex idx sub with
  | none => .noentry
  | some e =>
    if !writeServed s idx sub 0 then .falsework
    else if e.typ ≠ .domain then .type
    else if e.acc = .ro then .readonly
    else if !writeAllowed s a e.acc idx sub 0 then .auth
    else if !updIn s [.receiving] then .state
    else if off ≠ (received s).length ∨ slotSize (updComp s) < off + len then .range
    else .ok

/-- WRITE-BLOCK. -/
def handleWriteBlock (s : State) (a : Asker) (b : List Byte) : Handled :=
  if b.length < 17 ∨ bodyN b 3 6 ≠ 0 then refuseMsg s .malformed
  else
    let idx := bodyN b 0 2
    let sub := bodyN b 2 1
    let off := bodyN b 9 8
    let data := b.drop 17
    if a.inSession || (a.mgmt && (openAccess s || sessionExempt s a.mgmt idx sub 0)) then
      let st := pieceStatus s a idx sub off data.length
      let body := leBytes 2 idx ++ leBytes 1 sub ++ [st.code, 0] ++ [0, 0, 0, 0] ++ leBytes 8 off
      ⟨.ok, body, none, if st = .ok then 0 else 1, if st = .ok then receivePiece s data else s, []⟩
    else refuseMsg s .auth

/-! ### NOTIFY (R746) -/

/-- Events that an acknowledgement leaves. -/
def unacked (ack : Nat) (q : List Event) : List Event := q.filter (fun e => decide (ack < e.seq.toNat))

/-- Renews or ends a subscription. -/
def renewSub (s : State) (key : ClientKey) (c : ColoMsg) (mask ack : Nat) : State :=
  let subs := s.colo.subs.map (fun x => if x.key = key then
    { x with client := c.client, mgmt := c.mgmt, mask := BitVec.ofNat 32 mask, queue := unacked ack x.queue, lastAt := s.boot.age }
    else x)
  { s with colo := { s.colo with subs := if mask = 0 then subs.filter (fun x => decide (x.key ≠ key)) else subs } }

/-- A new subscription. -/
def addSub (s : State) (key : ClientKey) (c : ColoMsg) (mask : Nat) : State :=
  { s with colo := { s.colo with
      subs := s.colo.subs ++ [⟨key, c.client, c.mgmt, BitVec.ofNat 32 mask, [], s.boot.age, s.boot.age⟩] } }

/-- NOTIFY. -/
def handleNotify (s : State) (a : Asker) (m : ColoMsg) : Handled :=
  if m.body.length ≠ 16 ∨ bodyN m.body 4 4 ≠ 0 then refuseMsg s .malformed
  else
    let mask := bodyN m.body 0 4
    let answer : List Byte := leBytes 4 mask ++ leBytes 8 s.colo.evSeq.toNat
    if s.colo.subs.any (fun x => decide (x.key = a.key)) then
      ⟨.ok, answer, none, 0, renewSub s a.key m mask (bodyN m.body 8 8), []⟩
    else if mask = 0 then ⟨.ok, answer, none, 0, s, []⟩
    else if 4 ≤ s.colo.subs.length then refuseMsg s .busy
    else ⟨.ok, answer, none, 0, addSub s a.key m mask, []⟩

/-! ### SESSION-OPEN (R741) -/

/-- Opens a session for an operator key slot: the key exchange gives the die's ephemeral key, its confirmation and the two MAC
keys (log 9). -/
def openSession (s : State) (slot : Nat) (ea key : List Byte) : Handled :=
  let x := Config.sm2Exchange ea key s.free
  let id := s.colo.nextId
  let keys := padTo 64 0 x.2.2
  let se : Session := ⟨id, Fin.ofNat 8 slot, keys.take 32, keys.drop 32, 0, 0, false, s.boot.age, s.boot.age⟩
  let s1 : State := { useFree s 1 with colo := { s.colo with sessions := s.colo.sessions ++ [se], nextId := id + 1 } }
  ⟨.ok, padTo 64 0 x.1 ++ padTo 32 0 x.2.1, some id, 0, s1, []⟩

/-- SESSION-OPEN. -/
def handleSessionOpen (s : State) (a : Asker) (b : List Byte) : Handled :=
  if a.inSession || decide (b.length ≠ 68) || decide (bodyN b 1 3 ≠ 0) then refuseMsg s .malformed
  else if s.sec.keyState ≠ 1 then refuseMsg s .falsework
  else
    match operatorKeyOf s (bodyN b 0 1) with
    | none => refuseMsg s .auth
    | some key => if 8 ≤ s.colo.sessions.length then refuseMsg s .busy else openSession s (bodyN b 0 1) (b.drop 4) key

/-! ### One message (R729 to R734, R738 to R742) -/

/-- The agent takes the message: it serves in its mode, at the port it came through; of multicasts only the all-nodes READ of
identity (R729). Responses are no requests. -/
def listens (s : State) (m : ColoMsg) : Bool :=
  let port := m.mgmt || (decide (agentMode s = .full) && decide (entN s 0x6000 8 = 1))
  let cast := !m.allNodes || (decide (m.op = 1) &&
    (match readList m.body with
     | some l => l.all (fun x => decide (x.1 = 0x1000))
     | none => false))
  decide (agentMode s ≠ .silent) && port && cast && !m.resp

/-- The request is invalid as a message (R731, R732). -/
def malformedMsg (m : ColoMsg) : Bool :=
  decide (m.ver ≠ 1) || m.rsvd || decide (m.len.toNat ≠ m.body.length) || decide (maxBody < m.body.length)
    || (decide (m.session = 0) && (decide (m.counter ≠ 0) || decide (m.mac ≠ [])))
    || decide (m.op = 0) || decide (6 < m.op.toNat)

/-- R740 for requests that only read. -/
def readAllowed (s : State) (a : Asker) : Bool := a.inSession || (a.mgmt && openAccess s)

/-- Handles a request that is valid as a message. -/
def handleOp (s : State) (a : Asker) (m : ColoMsg) : Handled :=
  match m.op.toNat with
  | 1 => if readAllowed s a then handleRead s m.body else refuseMsg s .auth
  | 2 => handleWrite s a m.body
  | 3 => if readAllowed s a then handleReadBlock s m.body else refuseMsg s .auth
  | 4 => handleWriteBlock s a m.body
  | 5 => if readAllowed s a then handleNotify s a m else refuseMsg s .auth
  | 6 => handleSessionOpen s a m.body
  | _ => refuseMsg s .malformed

/-- The key under which an answer goes out. -/
def answerKey (key : ClientKey) (sid : BitVec 32) : ClientKey := if sid = 0 then key else .session sid

/-- A response message. -/
def responseMsg (m : ColoMsg) (op status : Byte) (body : List Byte) : ColoMsg :=
  ⟨m.client, m.mgmt, false, 1, op, status, true, false, 0, 0, m.reqId, BitVec.ofNat 16 body.length, body, []⟩

/-- Sends a response and keeps it among the client's last 16 (R738). -/
def respond (s : State) (key : ClientKey) (m : ColoMsg) (h : Handled) : State :=
  let sid := h.sid.getD 0
  let s1 := sendColo s (answerKey key sid) m.client (responseMsg m m.op h.status.code h.body)
  let mine := s1.colo.kept.filter (fun x => decide (x.key = key))
  let rest := if mine.length < 16 then s1.colo.kept else eraseFirst (fun x => decide (x.key = key)) s1.colo.kept
  let k : Kept := ⟨key, m.reqId, sid, s.boot.age, m.op, h.status.code, h.body⟩
  { s1 with colo := { s1.colo with kept := rest ++ [k] } }

/-- Counts a request that is answered (R728). -/
def countRequest (s : State) (refused : Nat) : State := bumpEnt (bumpEnt s 0x1030 3 1 64) 0x1030 4 refused 64

/-- Events that occurred meanwhile are sent now (R749). -/
def releaseEvents (s : State) : State :=
  s.colo.later.foldl sendEvent { s with colo := { s.colo with busy := false, later := [] } }

/-- Processes a request, answers it, sends the events that waited, and carries out what follows the response. -/
def process (s : State) (a : Asker) (m : ColoMsg) : State :=
  let s1 : State := { s with colo := { s.colo with busy := true } }
  let h := if malformedMsg m then refuseMsg s1 .malformed else handleOp s1 a m
  let s2 := countRequest h.st h.refused
  h.after.foldl doAfter (releaseEvents (respond s2 a.key m h))

/-- A kept response of the client with this REQ_ID (R738). -/
def keptFor (s : State) (key : ClientKey) (m : ColoMsg) : Option Kept :=
  s.colo.kept.find? (fun x => decide (x.key = key) && decide (x.reqId = m.reqId) && !aged s x.time 2000000000)

/-- Answers a request from a kept response, or processes it. -/
def serve (s : State) (a : Asker) (m : ColoMsg) : State :=
  match keptFor s a.key m with
  | some k => sendColo s (answerKey a.key k.sid) m.client (responseMsg m k.op k.status k.body)
  | none => process s a m

/-- The message's MAC and counter hold (R742). -/
def sessionMsgOk (se : Session) (m : ColoMsg) : Bool :=
  decide (se.lastIn < m.counter) && decide (m.mac = Config.hmacSm3 se.keyIn (coloHeader m ++ m.body))

/-- A valid request keeps its session open, and the first confirms it. -/
def touchSession (s : State) (id : BitVec 32) (m : ColoMsg) : State :=
  { s with colo := { s.colo with sessions := s.colo.sessions.map (fun x =>
      if x.id = id then { x with lastIn := m.counter, confirmed := true, lastAt := s.boot.age } else x) } }

/-- What a message that the agent takes does. -/
def coloMessage (s : State) (m : ColoMsg) : State :=
  if m.session = 0 then serve s ⟨.addr m.client, m.mgmt⟩ m
  else
    match s.colo.sessions.find? (fun x => decide (x.id = m.session)) with
    | none => respond (countRequest s 1) (.addr m.client) m (refuseMsg s .nosession)
    | some se =>
      if sessionMsgOk se m then serve (touchSession s m.session m) ⟨.session m.session, m.mgmt⟩ m
      else bumpEnt s 0x1030 6 1 32

/-- A message with an operation of a row reaches the agent. -/
def coloReady (s : State) (m : ColoMsg) (op : Byte) : Bool := listens s m && decide (m.op = op)

/-- COLOPHON_READ: READ messages, and those whose OP no row has. -/
def execColophonRead (m : ColoMsg) (s : State) : Outc :=
  onlyIf (listens s m && (decide (m.op ≤ 1) || decide (6 < m.op.toNat))) s (coloMessage s m)
/-- COLOPHON_WRITE. -/
def execColophonWrite (m : ColoMsg) (s : State) : Outc := onlyIf (coloReady s m 2) s (coloMessage s m)
/-- READ_BLOCK. -/
def execReadBlock (m : ColoMsg) (s : State) : Outc := onlyIf (coloReady s m 3) s (coloMessage s m)
/-- WRITE_BLOCK. -/
def execWriteBlock (m : ColoMsg) (s : State) : Outc := onlyIf (coloReady s m 4) s (coloMessage s m)
/-- NOTIFY. -/
def execNotify (m : ColoMsg) (s : State) : Outc := onlyIf (coloReady s m 5) s (coloMessage s m)
/-- SESSION_OPEN. -/
def execSessionOpen (m : ColoMsg) (s : State) : Outc := onlyIf (coloReady s m 6) s (coloMessage s m)

/-! ### Timers -/

/-- The session of an identifier meets a test. -/
def sessionIs (s : State) (id : BitVec 32) (p : Session → Bool) : Bool :=
  match s.colo.sessions.find? (fun x => decide (x.id = id)) with
  | some x => p x
  | none => false

/-- No valid request has come within 10 s of opening. -/
def unconfirmed (s : State) (id : BitVec 32) : Bool :=
  sessionIs s id (fun x => !x.confirmed && aged s x.openedAt 10000000000)

/-- SESSION_CONFIRM_TIMEOUT. -/
def execSessionConfirmTimeout (id : BitVec 32) (s : State) : Outc := onlyIf (unconfirmed s id) s (closeSession s id)

/-- SESSION_IDLE_S has passed without a valid request. -/
def idleSession (s : State) (id : BitVec 32) : Bool :=
  sessionIs s id (fun x => aged s x.lastAt (1000000000 * entN s 0x9010 3))

/-- SESSION_IDLE_END. -/
def execSessionIdleEnd (id : BitVec 32) (s : State) : Outc := onlyIf (idleSession s id) s (closeSession s id)

/-- A kept response is older than 2 s. -/
def keptExpired (s : State) : Bool := s.colo.kept.any (fun x => aged s x.time 2000000000)

/-- RESPONSE_KEPT_EXPIRY. -/
def execResponseKeptExpiry (s : State) : Outc :=
  onlyIf (keptExpired s) s
    { s with colo := { s.colo with kept := s.colo.kept.filter (fun x => !aged s x.time 2000000000) } }

/-- A subscription whose unacknowledged events are due again. -/
def retryDue (s : State) (x : Sub) : Bool := decide (x.queue ≠ []) && aged s x.sentAt (1000000 * entN s 0x1030 7)

/-- Sends a subscription's events again, 16 to a message. -/
def resendSub (s : State) (x : Sub) : State :=
  let s1 := (chunks 16 x.queue).foldl (fun t es => sendColo t x.key x.client (notifyMsg x.client x.mgmt es)) s
  { s1 with colo := { s1.colo with subs := s1.colo.subs.map (fun y => if y.key = x.key then { y with sentAt := s.boot.age } else y) } }

/-- Some subscription is due, on a die that is not fenced (R749). -/
def retryReady (s : State) : Bool := !s.fault.fenced && s.colo.subs.any (retryDue s)

/-- NOTIFY_RETRY. -/
def execNotifyRetry (s : State) : Outc := onlyIf (retryReady s) s ((s.colo.subs.filter (retryDue s)).foldl resendSub s)

/-- A subscription's lease is over. -/
def leaseOver (s : State) (x : Sub) : Bool := aged s x.lastAt (1000000000 * entN s 0x1030 8)

/-- NOTIFY_LEASE_END. -/
def execNotifyLeaseEnd (s : State) : Outc :=
  onlyIf (s.colo.subs.any (leaseOver s)) s
    { s with colo := { s.colo with subs := s.colo.subs.filter (fun x => !leaseOver s x) } }

/-! ### Writes of single entries that have rows of their own -/

/-- A write that the agent has authenticated: served in its mode, within the entry's range and rules. -/
def entryWriteOk (s : State) (idx sub : Nat) (bs : List Byte) : Bool :=
  match entSpec s.build s.dieIndex idx sub with
  | some e => decide (agentMode s ≠ .silent)
      && decide (checkWrite s ⟨.session 0, true⟩ idx sub (etypeCode e.typ) bs.length bs = .ok)
  | none => false

/-- SESSION_CLOSE. -/
def execSessionClose (v : BitVec 32) (s : State) : Outc :=
  onlyIf (entryWriteOk s 0x9010 4 (leBytes 4 v.toNat)) s (closeSession s v)

/-- CONFIG_SAVE. -/
def execConfigSave (v : Byte) (s : State) : Outc := onlyIf (entryWriteOk s 0x1030 5 [v]) s (startSave s v.toNat)

/-- CONFIG_SAVE_DONE. -/
def execConfigSaveDone (s : State) : Outc := onlyIf s.colo.saving.isSome s (endSave s)

/-- A write of an operator key is accepted: in a session, or through the management port while none is enrolled (R745). -/
def operatorKeyOk (s : State) (slot : Fin 8) (key : List Byte) (inSession viaMgmt : Bool) : Bool :=
  entryWriteOk s 0x9010 (0x10 + slot.1) key && (inSession || (viaMgmt && noOperatorKeys s))

/-- OPERATOR_KEY. -/
def execOperatorKey (slot : Fin 8) (key : List Byte) (inSession viaMgmt : Bool) (s : State) : Outc :=
  onlyIf (operatorKeyOk s slot key inSession viaMgmt) s (writeOperatorKey s slot.1 key)

/-- DIE_ID_BASE. -/
def execDieIdBase (v : BitVec 16) (s : State) : Outc :=
  onlyIf (entryWriteOk s 0x5000 1 (leBytes 2 v.toNat)) s (setEnt s 0x5000 1 v.toNat)

/-- DIE_RESTART. -/
def execDieRestart (v : Byte) (s : State) : Outc := onlyIf (entryWriteOk s 0x1040 6 [v]) s (dieRestart s v.toNat)

/-- ATTEST_NONCE. -/
def execAttestNonce (nonce : List Byte) (s : State) : Outc := onlyIf (entryWriteOk s 0x9050 1 nonce) s (attest s nonce)

/-- DEBUG_UNLOCK can be written: the agent serves in full. -/
def unlockServed (s : State) (token : List Byte) : Bool := decide (agentMode s = .full) && decide (token.length = 160)

/-- A write of DEBUG_UNLOCK: accepted, the keys go and the port opens; refused, an alarm; each replaces the nonce. -/
def unlockEffect (s : State) (token : List Byte) : State :=
  if tokenOk s token then unlock (newNonce s) (tokenLevel token) else unlockRefused (newNonce s)

/-- DEBUG_UNLOCK. -/
def execDebugUnlock (token : List Byte) (s : State) : Outc := onlyIf (unlockServed s token) s (unlockEffect s token)

/-- RETURN_PREP. -/
def execReturnPrep (v : Byte) (s : State) : Outc :=
  onlyIf (entryWriteOk s 0x9000 1 [v]) s (if v = 1 then returnPrep s else s)

/-- ALARM_CLEAR. -/
def execAlarmClear (v : BitVec 16) (s : State) : Outc :=
  onlyIf (entryWriteOk s 0x9020 2 (leBytes 2 v.toNat)) s (clearAlarms s v.toNat)

/-- BEGIN. -/
def execBegin (s : State) : Outc := onlyIf (entryWriteOk s 0xA000 3 [1]) s (beginUpdate s)
/-- VERIFY. -/
def execVerify (s : State) : Outc := onlyIf (entryWriteOk s 0xA000 3 [2]) s (verifyUpdate s)
/-- ACTIVATE. -/
def execActivate (s : State) : Outc := onlyIf (entryWriteOk s 0xA000 3 [3]) s (activateUpdate s)
/-- COMMIT. -/
def execCommit (s : State) : Outc := onlyIf (entryWriteOk s 0xA000 3 [4]) s (commitUpdate s)
/-- ABANDON. -/
def execAbandon (s : State) : Outc := onlyIf (entryWriteOk s 0xA000 3 [5]) s (abandonUpdate s)

end Sys2Proof.Machine
end

