-- ==== Sys2Proof/Machine/Regs.lean ====
section
/-! DEFINITION. Writes of registers and tables by address, and the accesses of the Compositor cores (R6, R435, R437, R439, R626, R627,
R689, R697). -/

namespace Sys2Proof.Machine

/-! ### Registers of a Forme -/

/-- FORME.CVT_STATUS: sticky bits (R134). -/
def writeCvtStatus (fm : Forme) (v : Word) : Forme :=
  let c := fm.vu.cvt
  { fm with vu := { fm.vu with cvt := ⟨w1c c.ovf v 0, w1c c.nar v 1, w1c c.flush v 2, w1c c.srzero v 3⟩ } }

/-- FORME.VEC_STATUS: sticky bits (R332). -/
def writeVecStatus (fm : Forme) (v : Word) : Forme :=
  let c := fm.vu.vec
  { fm with vu := { fm.vu with
      vec := ⟨w1c c.zrow v 0, w1c c.rsat v 1, w1c c.qsat v 2, w1c c.ftwrv v 3, w1c c.ftpar v 4⟩ } }

/-- FORME.PROG_ERR: VALID (R379). -/
def writeProgErr (fm : Forme) (v : Word) : Forme := { fm with err := { fm.err with valid := w1c fm.err.valid v 63 } }

/-- FORME.TILE_STATUS of a slot: sticky bits (R205). -/
def writeTileStatus (fm : Forme) (k : Nat) (v : Word) : Forme :=
  setTileWord fm k (tileWord fm k &&& ~~~ BitVec.ofNat 64 (field v 0 5))

/-- Registers of a Forme that stand alone; a read-only or unlisted one discards the write. -/
def writeFormeSingle (fm : Forme) (o : Nat) (v : Word) : Forme :=
  match o with
  | 0x0000 => writeCvtStatus fm v
  | 0x0008 => writeVecStatus fm v
  | 0x0018 => writePressCtrl fm v
  | 0x0030 => writeProgErr fm v
  | 0x0038 => writeBankCtrl fm v
  | 0x1000 => writeFaultCtrl fm v
  | 0x1008 => writeFlip fm v
  | 0x1010 => writeSplitAddr fm v
  | 0x1018 => { fm with test := { fm.test with splitData := v } }
  | 0x1020 => { fm with test := { fm.test with splitPar := BitVec.ofNat 8 (field v 0 8) } }
  | _ => fm

/-- A write of a register of a Forme. -/
def writeFormeReg (fm : Forme) (o : Nat) (v : Word) : Forme :=
  match inArray o 0x0800 256 with
  | some k => writeTileStatus fm k.1 v
  | none => writeFormeSingle fm o v

/-! ### Die registers -/

/-- PROOF.CTRL: ALMINT and CLOSE (R504). -/
def writeProofCtrl (s : State) (v : Word) : State :=
  let s1 : State := { s with proof := { s.proof with almint := bit v 2 } }
  if bit v 0 then requestClose s1 else s1

/-- IMPOSER.DOORBELL: each part is checked and applied on its own (R676). -/
def writeImposerBell (s : State) (v : Word) : State :=
  let s1 := if cmdBellReady s v then cmdBell s v else s
  if evtBellReady s1 v then evtBell s1 v else s1

/-- IMPOSER.STATUS: EVINT. -/
def writeImposerStatus (s : State) (v : Word) : State := { s with imp := { s.imp with evint := bit v 24 } }

/-- SPAN.GROUP (R574). -/
def writeGroup (s : State) (g : Nat) (v : Word) : State :=
  { s with coll := { s.coll with groups := tset (fun _ => 0) s.coll.groups g (BitVec.ofNat 64 (field v 0 53)) } }

/-- Die registers that stand alone. -/
def writeDieSingle (s : State) (o : Nat) (v : Word) : State :=
  match o with
  | 0x0400 => writeExtRetire s v
  | 0x0500 => writeProofCtrl s v
  | 0x0700 => writeAppend s v
  | 0x0C00 => writeObjCmd s v
  | 0x0C08 => writeDoorbell s v
  | 0x0D00 => if ringReady s v then writeCmdRing s v else s
  | 0x0D08 => if ringReady s v then writeEvtRing s v else s
  | 0x0D10 => writeImposerBell s v
  | 0x0D20 => writeImposerStatus s v
  | 0x0E00 => writeLogCtrl s v
  | 0x0E08 => writeBuckets s v
  | 0x0E10 => writeIntCtrl s v
  | 0x0E18 => writeFence s v
  | 0x0E20 => { s with check := writeCheckSrc s.check v }
  | 0x0E28 => { s with check := writeCheckCtrl s.check v }
  | 0x0F00 => clearAlarms s (field v 0 6)
  | _ => s

/-- A write of a die register. -/
def writeDieReg (s : State) (o : Nat) (v : Word) : State :=
  match inArray o 0x0600 8 with
  | some i => if i.1 % 2 = 0 then writeBar s ⟨i.1 / 2, by omega⟩ v else s
  | none =>
    match inArray o 0x0800 11 with
    | some p => writeLink s p v
    | none =>
      match inArray o 0x0900 8 with
      | some i => writeColl s i v
      | none =>
        match inArray o 0x0A00 64 with
        | some g => writeGroup s g.1 v
        | none => writeDieSingle s o v

/-! ### Tables -/

/-- A number with its word k replaced. -/
def setWordAt (n k : Nat) (v : Word) : Nat := n - (wordAt n k).toNat <<< (64 * k) + v.toNat <<< (64 * k)

/-- A memory region from the bits of its entry (R609). -/
def regionOfBits (n : Nat) : Region :=
  ⟨BitVec.ofNat 40 n, n.testBit 48, n.testBit 49, n.testBit 50, n.testBit 51, BitVec.ofNat 40 (n >>> 64),
   BitVec.ofNat 18 (n >>> 128), BitVec.ofNat 16 (n >>> 160)⟩

/-- A remote window from the bits of its entry (R611). -/
def windowOfBits (n : Nat) : Window :=
  ⟨BitVec.ofNat 14 n, n.testBit 14, n.testBit 15, n.testBit 16, BitVec.ofNat 32 (n >>> 32), BitVec.ofNat 64 (n >>> 64)⟩

/-- A write of word k of a memory region. -/
def writeRegion (s : State) (n k : Nat) (v : Word) : State :=
  { s with tbl := { s.tbl with
      regions := tmod regionDefault s.tbl.regions n (fun e => regionOfBits (setWordAt (regionBits e) k v)) } }

/-- A write of word k of a remote window. -/
def writeWindow (s : State) (n k : Nat) (v : Word) : State :=
  { s with tbl := { s.tbl with
      windows := tmod windowDefault s.tbl.windows n (fun e => windowOfBits (setWordAt (windowBits e) k v)) } }

/-- A write of word k of a tag entry: its configuration, or its alarms; the rest is read only (R487). -/
def writeTag (s : State) (g k : Nat) (v : Word) : State :=
  if k = 0 then setTag s g (writeTagConfig (tagEntry s g) v)
  else if k = 7 then setTag s g (writeTagAlarms (tagEntry s g) v)
  else s

/-- A write of eight bytes of the scale-history window (R276). -/
def writeHist (s : State) (o : Nat) (v : Word) : State :=
  if o < 4096 * 128 then setHist s (o / 128) (histWrite (histEntry s (o / 128)) (8 * (o % 128)) 64 v.toNat) else s

/-- A write of a register or table word. -/
def writeReg (s : State) (v : Word) : RegAddr → State
  | .forme f o => relist s (modForme s f (fun fm => writeFormeReg fm o v))
  | .die o => writeDieReg s o v
  | .specimen _ => s
  | .errorLog _ => s
  | .tag g k => writeTag s g k v
  | .hist o => writeHist s o v
  | .extent _ => s
  | .route id k => if k = 0 then writeRoute s (BitVec.ofNat 12 id) v else s
  | .region n k => writeRegion s n k v
  | .window n k => writeWindow s n k v

/-- A write of 64 bits at a local address by R437; one that meets no register or table word is discarded. -/
def mmioWrite (s : State) (a : Nat) (v : Word) : State :=
  match regOf a with
  | some r => writeReg s v r
  | none => s

/-- REGISTER_WRITE. -/
def execRegisterWrite (addr : Addr) (v : Word) (s : State) : Outc := onlyIf (unitsOn s) s (mmioWrite s addr.toNat v)

/-! ### Compositor cores: cached accesses (R29, R626, R627, R689, R697) -/

/-- The cache line that holds addresses 64l to 64l + 63. -/
def lineOf (s : State) (l : Nat) : Option CacheLine := (s.cores.lines.find? (fun p => decide (p.1 = l))).map (·.2)

/-- Puts a line into the caches. -/
def setLine (s : State) (l : Nat) (x : CacheLine) : State := { s with cores := { s.cores with lines := tput s.cores.lines l x } }

/-- Drops a line. -/
def dropLine (s : State) (l : Nat) : State := { s with cores := { s.cores with lines := tdel s.cores.lines l } }

/-- The access takes an access-fault exception. -/
def coreFaults (s : State) (hart : Fin 8) : State := emit s (.coreFault hart)

/-- The class of the caches that an access reads. -/
def cacheClass (k : CoreKind) : MClass := match k with | .fetch => .cacheI | _ => .cacheD

/-- A parity error in the line that an access meets: a dirty line fences the die, a clean line is dropped to be fetched again.
Nothing happens when the line is not there. -/
def cacheError (s : State) (hart : Fin 8) (k : CoreKind) (l : Nat) : State :=
  match lineOf s l with
  | none => s
  | some x =>
    if x.dirty then fenceFault s .cacheD .uncorrected hart.1 (64 * l) 3
    else dropLine (logFault s (cacheClass k) .corrected none .refetched hart.1 0 (64 * l)) l

/-- Fetches a line that is not there from GDDR7; none when a read is uncorrectable, which is logged, and the line is not
filled. -/
def fillLine (s : State) (l : Nat) : State ⊕ State :=
  match lineOf s l with
  | some _ => .inr s
  | none =>
    match gddrLost s.gddr (64 * l) 64 with
    | some a => .inl (gddrError s none .none a)
    | none => .inr (setLine s l ⟨gddrBytesAt s.gddr (64 * l) 64, false⟩)

/-- Fetches the lines of an access in order. -/
def fillLines : List Nat → State → State ⊕ State
  | [], s => .inr s
  | l :: t, s =>
    match fillLine s l with
    | .inl x => .inl x
    | .inr x => fillLines t x

/-- The lines of n bytes at an address. -/
def linesOf (a n : Nat) : List Nat := if (a + (n - 1)) / 64 = a / 64 then [a / 64] else [a / 64, a / 64 + 1]

/-- The byte at an address in the caches. -/
def cachedByte (s : State) (a : Nat) : Byte :=
  match lineOf s (a / 64) with
  | some x => x.bytes.getD (a % 64) 0
  | none => 0

/-- Stores a byte in the caches; its line is dirty. -/
def storeByte (s : State) (p : Nat × Byte) : State :=
  match lineOf s (p.1 / 64) with
  | some x => setLine s (p.1 / 64) ⟨x.bytes.set (p.1 % 64) p.2, true⟩
  | none => s

/-- A load, fetch or store of n bytes of GDDR7 through the caches. -/
def cachedAccess (s : State) (hart : Fin 8) (store : Bool) (a n : Nat) (v : Word) : State :=
  match fillLines (linesOf a n) s with
  | .inl x => coreFaults x hart
  | .inr x =>
    if store then (placed a (leBytes n v.toNat)).foldl storeByte x
    else emit x (.readData (BitVec.ofNat 64 (leNat ((List.range n).map (fun i => cachedByte x (a + i))))))

/-- A line is written back to GDDR7 and is clean (cbo.clean, cbo.flush). -/
def writeBackLine (s : State) (l : Nat) : State :=
  match lineOf s l with
  | some x =>
    if x.dirty ∧ gddrMapped s.gddr (64 * l) = true then
      setLine { s with gddr := gddrPutAll s.gddr (placed (64 * l) x.bytes) } l ⟨x.bytes, false⟩
    else s
  | none => s

/-! ### Uncached accesses (R437, R626) -/

/-- Eight bytes of a Galley, quire memory or Fount table; a parity error is handled as any read of that memory (R689), and the
value is then a free value. -/
def memLoad (s : State) (a : Nat) : State :=
  match readErr s [(a, 8)] with
  | some (.parity .galley g o) => emit (useFree (memoryError s .galley g o) 1) (.readData (Config.freeWord s.free))
  | some (.parity .quire g o) => emit (useFree (memoryError s .quire g o) 1) (.readData (Config.freeWord s.free))
  | some (.parity cls g o) =>
    emit (useFree (logFault s cls .replay (some g) .none (o / 0x20000) 0 (fountBase + g.1 * 0x200000 + o / 64 * 64)) 1)
      (.readData (Config.freeWord s.free))
  | _ => emit s (.readData (BitVec.ofNat 64 (leNat (localBytes s a 8))))

/-- The address lies in a Galley, quire memory or Fount table. -/
def inFormeMem (s : State) (a : Nat) : Bool :=
  match placeOf s a with
  | .galley _ _ => true
  | .quire _ _ => true
  | .fount _ _ => true
  | _ => false

/-- An aligned 8-byte load outside GDDR7. -/
def uncachedLoad (s : State) (hart : Fin 8) (a : Nat) : State :=
  match regOf a with
  | some r => emit (regReadEffect s r) (.readData (regValue s r))
  | none => if inFormeMem s a then memLoad s a else coreFaults s hart

/-- An aligned 8-byte store outside GDDR7. -/
def uncachedStore (s : State) (hart : Fin 8) (a : Nat) (v : Word) : State :=
  match regOf a with
  | some r => writeReg s v r
  | none => if inFormeMem s a then localPutAll s (placed a (leBytes 8 v.toNat)) else coreFaults s hart

/-- An access outside GDDR7: one that is not of 8 aligned bytes is discarded, and reads zero. -/
def uncachedAccess (s : State) (hart : Fin 8) (store : Bool) (a n : Nat) (v : Word) : State :=
  if n ≠ 8 ∨ a % 8 ≠ 0 then (if store then s else emit s (.readData 0))
  else if store then uncachedStore s hart a v
  else uncachedLoad s hart a

/-! ### CORE_ACCESS -/

/-- An access of n bytes stays inside mapped GDDR7. -/
def coreGddr (s : State) (a n : Nat) : Bool := gddrRange s.gddr a n

/-- A load, fetch or store. -/
def dataAccess (s : State) (hart : Fin 8) (store : Bool) (a n : Nat) (v : Word) : State :=
  if a < gddrBytes then (if coreGddr s a n then cachedAccess s hart store a n v else coreFaults s hart)
  else uncachedAccess s hart store a n v

/-- What an access does after the parity check of its line. -/
def coreOp (s : State) (hart : Fin 8) (k : CoreKind) (a n : Nat) (v : Word) : State :=
  match k with
  | .load => dataAccess s hart false a n v
  | .fetch => dataAccess s hart false a n v
  | .store => dataAccess s hart true a n v
  | .writeBack => writeBackLine s (a / 64)
  | .inval => dropLine s (a / 64)

/-- Widths of a core's accesses (R625). -/
def coreSizeOk (n : BitVec 4) : Bool := decide (n = 1) || decide (n = 2) || decide (n = 4) || decide (n = 8)

/-- A core's access; `par` says that the parity of the line that it meets fails. A fence that this brings ends the access. -/
def coreEffect (s : State) (hart : Fin 8) (k : CoreKind) (a n : Nat) (v : Word) (par : Bool) : State :=
  let s1 := if par then cacheError s hart k (a / 64) else s
  if s1.fault.fenced then s1 else coreOp s1 hart k a n v

/-- CORE_ACCESS. -/
def execCoreAccess (hart : Fin 8) (k : CoreKind) (addr : BitVec 64) (size : BitVec 4) (v : Word) (par : Bool) (s : State) : Outc :=
  onlyIf (unitsOn s && coreSizeOk size) s (coreEffect s hart k addr.toNat size.toNat v par)

end Sys2Proof.Machine
end

