-- ==== Sys2Proof/Machine/Dispatch.lean ====
section
/-! DEFINITION. The meaning of each command, one arm per constructor of Instr. -/

namespace Sys2Proof.Machine

/-- What a command does to the state, by its own meaning. -/
def exec (i : Instr) (s : State) : Host.Outcome State Fault Refusal :=
  match i with
  | .instructionDispatch f => Sys2Proof.Machine.execInstructionDispatch f s
  | .folioAbortDone handle => Sys2Proof.Machine.execFolioAbortDone handle s
  | .waitGrant f q => Sys2Proof.Machine.execWaitGrant f q s
  | .waitTimeout f q => Sys2Proof.Machine.execWaitTimeout f q s
  | .instructionComplete f index => Sys2Proof.Machine.execInstructionComplete f index s
  | .ccopy f rep => Sys2Proof.Machine.execCcopy f rep s
  | .copyComplete f c => Sys2Proof.Machine.execCopyComplete f c s
  | .pacc f => Sys2Proof.Machine.execPacc f s
  | .windowSwap f p => Sys2Proof.Machine.execWindowSwap f p s
  | .accumulateComplete f => Sys2Proof.Machine.execAccumulateComplete f s
  | .drain f => Sys2Proof.Machine.execDrain f s
  | .tssave f => Sys2Proof.Machine.execTssave f s
  | .tsload f => Sys2Proof.Machine.execTsload f s
  | .vadd f => Sys2Proof.Machine.execVadd f s
  | .vsub f => Sys2Proof.Machine.execVsub f s
  | .vmul f => Sys2Proof.Machine.execVmul f s
  | .vfma f => Sys2Proof.Machine.execVfma f s
  | .vmin f => Sys2Proof.Machine.execVmin f s
  | .vmax f => Sys2Proof.Machine.execVmax f s
  | .vabs f => Sys2Proof.Machine.execVabs f s
  | .vneg f => Sys2Proof.Machine.execVneg f s
  | .vcmp f => Sys2Proof.Machine.execVcmp f s
  | .vsel f => Sys2Proof.Machine.execVsel f s
  | .vcvt f => Sys2Proof.Machine.execVcvt f s
  | .vqclr f => Sys2Proof.Machine.execVqclr f s
  | .vqmac f => Sys2Proof.Machine.execVqmac f s
  | .vqadd f => Sys2Proof.Machine.execVqadd f s
  | .vqsub f => Sys2Proof.Machine.execVqsub f s
  | .vqrnd f => Sys2Proof.Machine.execVqrnd f s
  | .vqred f => Sys2Proof.Machine.execVqred f s
  | .vqsave f => Sys2Proof.Machine.execVqsave f s
  | .vqload f => Sys2Proof.Machine.execVqload f s
  | .vrms f => Sys2Proof.Machine.execVrms f s
  | .vtopk f => Sys2Proof.Machine.execVtopk f s
  | .vscale f => Sys2Proof.Machine.execVscale f s
  | .vsmooth f => Sys2Proof.Machine.execVsmooth f s
  | .func f => Sys2Proof.Machine.execFunc f s
  | .ftload f => Sys2Proof.Machine.execFtload f s
  | .ftloadTransferStart f => Sys2Proof.Machine.execFtloadTransferStart f s
  | .ftloadComplete f => Sys2Proof.Machine.execFtloadComplete f s
  | .tsig f => Sys2Proof.Machine.execTsig f s
  | .twait f => Sys2Proof.Machine.execTwait f s
  | .tmark f => Sys2Proof.Machine.execTmark f s
  | .ttime f => Sys2Proof.Machine.execTtime f s
  | .scalepush f => Sys2Proof.Machine.execScalepush f s
  | .srseed f => Sys2Proof.Machine.execSrseed f s
  | .srsave f => Sys2Proof.Machine.execSrsave f s
  | .srload f => Sys2Proof.Machine.execSrload f s
  | .start => Sys2Proof.Machine.execStart s
  | .pause => Sys2Proof.Machine.execPause s
  | .save => Sys2Proof.Machine.execSave s
  | .resume => Sys2Proof.Machine.execResume s
  | .continueFolio => Sys2Proof.Machine.execContinueFolio s
  | .discard => Sys2Proof.Machine.execDiscard s
  | .folioStart => Sys2Proof.Machine.execFolioStart s
  | .folioComplete handle replies => Sys2Proof.Machine.execFolioComplete handle replies s
  | .folioPaused handle => Sys2Proof.Machine.execFolioPaused handle s
  | .saveComplete handle => Sys2Proof.Machine.execSaveComplete handle s
  | .imposerCmdRing v => Sys2Proof.Machine.execImposerCmdRing v s
  | .imposerEvtRing v => Sys2Proof.Machine.execImposerEvtRing v s
  | .imposerCmdDoorbell v => Sys2Proof.Machine.execImposerCmdDoorbell v s
  | .imposerEvtDoorbell v => Sys2Proof.Machine.execImposerEvtDoorbell v s
  | .controlInterval watts => Sys2Proof.Machine.execControlInterval watts s
  | .currentLimit => Sys2Proof.Machine.execCurrentLimit s
  | .currentLimitEnd => Sys2Proof.Machine.execCurrentLimitEnd s
  | .thermalSample dieMc memMc => Sys2Proof.Machine.execThermalSample dieMc memMc s
  | .stepClose v => Sys2Proof.Machine.execStepClose v s
  | .closeStep => Sys2Proof.Machine.execCloseStep s
  | .proofAlarmRead => Sys2Proof.Machine.execProofAlarmRead s
  | .wclr tag => Sys2Proof.Machine.execWclr tag s
  | .accEventsRead f => Sys2Proof.Machine.execAccEventsRead f s
  | .spanLinkRead p => Sys2Proof.Machine.execSpanLinkRead p s
  | .pressRetire f v => Sys2Proof.Machine.execPressRetire f v s
  | .bankRetire f v => Sys2Proof.Machine.execBankRetire f v s
  | .registerWrite addr v => Sys2Proof.Machine.execRegisterWrite addr v s
  | .extRetireGo v => Sys2Proof.Machine.execExtRetireGo v s
  | .extMigrationComplete => Sys2Proof.Machine.execExtMigrationComplete s
  | .channelRetrain ch => Sys2Proof.Machine.execChannelRetrain ch s
  | .retrainTimer ch => Sys2Proof.Machine.execRetrainTimer ch s
  | .refresh ch bank => Sys2Proof.Machine.execRefresh ch bank s
  | .timebaseMeasure p delay offsetPs => Sys2Proof.Machine.execTimebaseMeasure p delay offsetPs s
  | .keystoneArrive b v => Sys2Proof.Machine.execKeystoneArrive b v s
  | .cancel b v => Sys2Proof.Machine.execCancel b v s
  | .keystoneRelease b => Sys2Proof.Machine.execKeystoneRelease b s
  | .keystoneTimeout b => Sys2Proof.Machine.execKeystoneTimeout b s
  | .arrivalExpiry b die => Sys2Proof.Machine.execArrivalExpiry b die s
  | .impressionAppend v => Sys2Proof.Machine.execImpressionAppend v s
  | .spanFrameReceive p fr => Sys2Proof.Machine.execSpanFrameReceive p fr s
  | .linkRetrain p => Sys2Proof.Machine.execLinkRetrain p s
  | .linkTrainingComplete p r => Sys2Proof.Machine.execLinkTrainingComplete p r s
  | .linkDown p => Sys2Proof.Machine.execLinkDown p s
  | .linkHold p v => Sys2Proof.Machine.execLinkHold p v s
  | .routeEntryWrite die v => Sys2Proof.Machine.execRouteEntryWrite die v s
  | .spanWrite p => Sys2Proof.Machine.execSpanWrite p s
  | .spanReadReq p => Sys2Proof.Machine.execSpanReadReq p s
  | .spanReadResp p => Sys2Proof.Machine.execSpanReadResp p s
  | .spanAck p => Sys2Proof.Machine.execSpanAck p s
  | .spanNack p => Sys2Proof.Machine.execSpanNack p s
  | .keystone p => Sys2Proof.Machine.execKeystone p s
  | .ethfwd p => Sys2Proof.Machine.execEthfwd p s
  | .collGo ix v => Sys2Proof.Machine.execCollGo ix v s
  | .collAnnouncement p => Sys2Proof.Machine.execCollAnnouncement p s
  | .collData p => Sys2Proof.Machine.execCollData p s
  | .announceRepeat ix peer => Sys2Proof.Machine.execAnnounceRepeat ix peer s
  | .collComplete ix => Sys2Proof.Machine.execCollComplete ix s
  | .collTimeout ix => Sys2Proof.Machine.execCollTimeout ix s
  | .ethFrameReceive fr => Sys2Proof.Machine.execEthFrameReceive fr s
  | .abutLinkChange link => Sys2Proof.Machine.execAbutLinkChange link s
  | .forwardGraceEnd die => Sys2Proof.Machine.execForwardGraceEnd die s
  | .roceSendIn => Sys2Proof.Machine.execRoceSendIn s
  | .roceWriteIn => Sys2Proof.Machine.execRoceWriteIn s
  | .roceReadIn => Sys2Proof.Machine.execRoceReadIn s
  | .roceResponseIn => Sys2Proof.Machine.execRoceResponseIn s
  | .cnpIn => Sys2Proof.Machine.execCnpIn s
  | .ccTimer qp => Sys2Proof.Machine.execCcTimer qp s
  | .ackTimeout qp => Sys2Proof.Machine.execAckTimeout qp s
  | .rnrTimer qp => Sys2Proof.Machine.execRnrTimer qp s
  | .ingressDrain => Sys2Proof.Machine.execIngressDrain s
  | .qpStateCmd v => Sys2Proof.Machine.execQpStateCmd v s
  | .cqStateCmd v => Sys2Proof.Machine.execCqStateCmd v s
  | .srqStateCmd v => Sys2Proof.Machine.execSrqStateCmd v s
  | .sqDoorbell v => Sys2Proof.Machine.execSqDoorbell v s
  | .rqDoorbell v => Sys2Proof.Machine.execRqDoorbell v s
  | .srqDoorbell v => Sys2Proof.Machine.execSrqDoorbell v s
  | .cqDoorbell v => Sys2Proof.Machine.execCqDoorbell v s
  | .send qp => Sys2Proof.Machine.execSend qp s
  | .sendImm qp => Sys2Proof.Machine.execSendImm qp s
  | .write qp => Sys2Proof.Machine.execWrite qp s
  | .writeImm qp => Sys2Proof.Machine.execWriteImm qp s
  | .read qp => Sys2Proof.Machine.execRead qp s
  | .raw => Sys2Proof.Machine.execRaw s
  | .svcStart ix => Sys2Proof.Machine.execSvcStart ix s
  | .svcStop ix => Sys2Proof.Machine.execSvcStop ix s
  | .svcLoadComplete ix r => Sys2Proof.Machine.execSvcLoadComplete ix r s
  | .svcDrainComplete ix => Sys2Proof.Machine.execSvcDrainComplete ix s
  | .batchDeadline ix => Sys2Proof.Machine.execBatchDeadline ix s
  | .cadenceInstanceStart ix => Sys2Proof.Machine.execCadenceInstanceStart ix s
  | .mirrorValues ix reqId crc len => Sys2Proof.Machine.execMirrorValues ix reqId crc len s
  | .mirrorWaitExpiry ix reqId => Sys2Proof.Machine.execMirrorWaitExpiry ix reqId s
  | .lineCheck f stuck => Sys2Proof.Machine.execLineCheck f stuck s
  | .formeRetire f v => Sys2Proof.Machine.execFormeRetire f v s
  | .bucketLeak c => Sys2Proof.Machine.execBucketLeak c s
  | .ack v => Sys2Proof.Machine.execAck v s
  | .splitWrite f v => Sys2Proof.Machine.execSplitWrite f v s
  | .splitRead f v => Sys2Proof.Machine.execSplitRead f v s
  | .galleyFlip f v => Sys2Proof.Machine.execGalleyFlip f v s
  | .fenceReq v => Sys2Proof.Machine.execFenceReq v s
  | .peerFenced d reason => Sys2Proof.Machine.execPeerFenced d reason s
  | .checkGo v => Sys2Proof.Machine.execCheckGo v s
  | .checkComplete => Sys2Proof.Machine.execCheckComplete s
  | .colophonRead m => Sys2Proof.Machine.execColophonRead m s
  | .colophonWrite m => Sys2Proof.Machine.execColophonWrite m s
  | .readBlock m => Sys2Proof.Machine.execReadBlock m s
  | .writeBlock m => Sys2Proof.Machine.execWriteBlock m s
  | .notify m => Sys2Proof.Machine.execNotify m s
  | .sessionOpen m => Sys2Proof.Machine.execSessionOpen m s
  | .sessionConfirmTimeout id => Sys2Proof.Machine.execSessionConfirmTimeout id s
  | .sessionIdleEnd id => Sys2Proof.Machine.execSessionIdleEnd id s
  | .sessionClose v => Sys2Proof.Machine.execSessionClose v s
  | .responseKeptExpiry => Sys2Proof.Machine.execResponseKeptExpiry s
  | .notifyRetry => Sys2Proof.Machine.execNotifyRetry s
  | .notifyLeaseEnd => Sys2Proof.Machine.execNotifyLeaseEnd s
  | .configSave v => Sys2Proof.Machine.execConfigSave v s
  | .operatorKey slot key inSession viaMgmt => Sys2Proof.Machine.execOperatorKey slot key inSession viaMgmt s
  | .dieIdBase v => Sys2Proof.Machine.execDieIdBase v s
  | .dieRestart v => Sys2Proof.Machine.execDieRestart v s
  | .attestNonce nonce => Sys2Proof.Machine.execAttestNonce nonce s
  | .debugUnlock token => Sys2Proof.Machine.execDebugUnlock token s
  | .returnPrep v => Sys2Proof.Machine.execReturnPrep v s
  | .alarmClear v => Sys2Proof.Machine.execAlarmClear v s
  | .begin => Sys2Proof.Machine.execBegin s
  | .verify => Sys2Proof.Machine.execVerify s
  | .activate => Sys2Proof.Machine.execActivate s
  | .commit => Sys2Proof.Machine.execCommit s
  | .abandon => Sys2Proof.Machine.execAbandon s
  | .dieReset cause => Sys2Proof.Machine.execDieReset cause s
  | .startStageComplete r => Sys2Proof.Machine.execStartStageComplete r s
  | .stageFail => Sys2Proof.Machine.execStageFail s
  | .spanStageEnd => Sys2Proof.Machine.execSpanStageEnd s
  | .powerQualified => Sys2Proof.Machine.execPowerQualified s
  | .railSequenceStep => Sys2Proof.Machine.execRailSequenceStep s
  | .powerLoss => Sys2Proof.Machine.execPowerLoss s
  | .overvoltage => Sys2Proof.Machine.execOvervoltage s
  | .inputStateChange mv => Sys2Proof.Machine.execInputStateChange mv s
  | .railFault d => Sys2Proof.Machine.execRailFault d s
  | .securityAlarm sources => Sys2Proof.Machine.execSecurityAlarm sources s
  | .enclOpen level => Sys2Proof.Machine.execEnclOpen level s
  | .debugPortInstruction ir dr => Sys2Proof.Machine.execDebugPortInstruction ir dr s
  | .spanCableChange d seated => Sys2Proof.Machine.execSpanCableChange d seated s
  | .sensorSample r => Sys2Proof.Machine.execSensorSample r s
  | .channelRetrainFinish ch ok => Sys2Proof.Machine.execChannelRetrainFinish ch ok s
  | .trainingSignalDetected p => Sys2Proof.Machine.execTrainingSignalDetected p s
  | .coreAccess hart k addr size v par => Sys2Proof.Machine.execCoreAccess hart k addr size v par s
  | .configSaveDone => Sys2Proof.Machine.execConfigSaveDone s

end Sys2Proof.Machine
end

