-- ==== Sys2Proof/Machine/Step.lean ====
section
/-! DEFINITION. One step: the front command of the queue, or, on an empty queue, the passing of a nanosecond. -/

namespace Sys2Proof.Machine

/-- With no command waiting, a nanosecond passes: the time since the die reset counts, and the timebase once it runs (R520,
R524; log 3). -/
def tick (s : State) : State :=
  { s with
    tb := { s.tb with ns := if timeRuns s then s.tb.ns + 1 else s.tb.ns }
    boot := { s.boot with age := s.boot.age + 1 } }

/-- Takes the command at the front of the queue and runs it on the state with the queue's rest. -/
def step (s : State) : Outc :=
  match s.pending with
  | [] => .next (tick s)
  | c :: rest => exec c { s with pending := rest }

/-- The state with the command that a word spells in front of its queue; a word spells none (no row has bits), so the state
is unchanged. -/
def State.withFetchWord (s : State) (nbits w : Nat) : State :=
  match decodeTableWord nbits w with
  | some c => { s with pending := c :: s.pending }
  | none => s

end Sys2Proof.Machine
end

