-- ==== Sys2Proof/Safety.lean ====
section
/-! DEFINITION. Safe runs, and the words in which the statements say what a command leaves unchanged: the components of the
state, and of a Forme, that two states agree on. -/

namespace Sys2Proof

open Machine

/-- The step answers a next state. -/
def SafeStep (s : State) : Prop := ∃ t, step s = .next t

/-- The first n steps from s all answer a next state. -/
def SafeRun (n : Nat) (s : State) : Prop := ∃ t, core.run n s = .next t

/-- The components of the state. -/
inductive Part where
  | build | dieIndex | pending | free | out | tb | formes | gddr | tbl | proof | imp | bars | log | span | coll | abut
  | cores | svc | fault | check | colo | boot | flash | upd | sec | pwr
  deriving DecidableEq, Repr

/-- Two states agree on a component. -/
def agree (s t : State) : Part → Prop
  | .build => t.build = s.build
  | .dieIndex => t.dieIndex = s.dieIndex
  | .pending => t.pending = s.pending
  | .free => t.free = s.free
  | .out => t.out = s.out
  | .tb => t.tb = s.tb
  | .formes => t.formes = s.formes
  | .gddr => t.gddr = s.gddr
  | .tbl => t.tbl = s.tbl
  | .proof => t.proof = s.proof
  | .imp => t.imp = s.imp
  | .bars => t.bars = s.bars
  | .log => t.log = s.log
  | .span => t.span = s.span
  | .coll => t.coll = s.coll
  | .abut => t.abut = s.abut
  | .cores => t.cores = s.cores
  | .svc => t.svc = s.svc
  | .fault => t.fault = s.fault
  | .check => t.check = s.check
  | .colo => t.colo = s.colo
  | .boot => t.boot = s.boot
  | .flash => t.flash = s.flash
  | .upd => t.upd = s.upd
  | .sec => t.sec = s.sec
  | .pwr => t.pwr = s.pwr

/-- From s to t nothing changes but the listed components. -/
def Touches (ps : List Part) (s t : State) : Prop := ∀ p, p ∉ ps → agree s t p

/-- The components of a Forme. -/
inductive FPart where
  | fe | lat | tok | bal | q | pu | vu | galley | quire | carr | err | test | dests | abort | line
  deriving DecidableEq, Repr

/-- Two Formes agree on a component. -/
def fagree (a b : Forme) : FPart → Prop
  | .fe => b.fe = a.fe
  | .lat => b.lat = a.lat
  | .tok => b.tok = a.tok
  | .bal => b.bal = a.bal
  | .q => b.q = a.q
  | .pu => b.pu = a.pu
  | .vu => b.vu = a.vu
  | .galley => b.galley = a.galley
  | .quire => b.quire = a.quire
  | .carr => b.carr = a.carr
  | .err => b.err = a.err
  | .test => b.test = a.test
  | .dests => b.dests = a.dests
  | .abort => b.abort = a.abort
  | .line => b.line = a.line

/-- From one Forme to another nothing changes but the listed components. -/
def FTouches (ps : List FPart) (a b : Forme) : Prop := ∀ p, p ∉ ps → fagree a b p

/-- Of the Formes only f changes, and of f only the listed components. -/
def OnlyForme (f : FormeIx) (ps : List FPart) (s t : State) : Prop :=
  (∀ g, g ≠ f → t.forme g = s.forme g) ∧ FTouches ps (s.forme f) (t.forme f)

/-- From s to t the head of queue q of Forme f leaves its queue and is in progress (R352): with its effect made or not, and
with the stochastic-rounding context and the Fount slot that it claims. The next entry reaches the head now; the other queues
keep their entries. -/
def LeavesHead (f : FormeIx) (q : Queue) (done : Bool) (ctx : Option (Fin 16)) (slot : Option (Fin 8)) (s t : State) : Prop :=
  ∃ e rest, (s.forme f).q.get q = e :: rest ∧ (t.forme f).q.get q = popQueue (e :: rest) s.tb.ns
    ∧ (∀ r, r ≠ q → (t.forme f).q.get r = (s.forme f).q.get r)
    ∧ (t.forme f).q.flights = (s.forme f).q.flights ++ [⟨e.index, q, e.word, done, ctx, slot⟩]

/-- The Galley of Forme f from s to t: the bytes stored from an address on read as given, every other byte reads as before. -/
def GalleyStores (f : FormeIx) (a : Nat) (bs : List Byte) (s t : State) : Prop :=
  (t.forme f).galley.bytes a bs.length = bs
    ∧ ∀ x, (x < a ∨ a + bs.length ≤ x) → (t.forme f).galley.byte x = (s.forme f).galley.byte x

/-- The Galley of Forme f from s to t: it takes some bytes at their addresses, in order; every other byte reads as before. -/
def GalleyWrites (f : FormeIx) (bs : List (Nat × Byte)) (s t : State) : Prop :=
  (t.forme f).galley = (s.forme f).galley.putAll bs
    ∧ ∀ x, (∀ p ∈ bs, p.1 ≠ x) → (t.forme f).galley.byte x = (s.forme f).galley.byte x

/-- The three memories of a Forme are in canonical form. -/
def FormeOk (fm : Forme) : Prop := fm.galley.wf = true ∧ fm.quire.wf = true ∧ fm.vu.fount.wf = true

/-- Every memory of the die is in canonical form: the Galley, quire memory and Fount tables of each Forme, and GDDR7. -/
def MemOk (s : State) : Prop := (∀ f, FormeOk (s.forme f)) ∧ s.gddr.phys.wf = true

/-- The commands that act on a fenced die too: management, the agent's timers, power and security (R715, R716). -/
def managementCommand : Instr → Bool
  | .thermalSample _ _ | .refresh _ _ | .colophonRead _ | .colophonWrite _ | .readBlock _ | .writeBlock _
  | .notify _ | .sessionOpen _ | .sessionConfirmTimeout _ | .sessionIdleEnd _ | .sessionClose _ | .responseKeptExpiry
  | .notifyRetry | .notifyLeaseEnd | .configSave _ | .operatorKey _ _ _ _ | .dieIdBase _ | .dieRestart _
  | .attestNonce _ | .debugUnlock _ | .returnPrep _ | .alarmClear _ | .begin | .verify
  | .activate | .commit | .abandon | .dieReset _ | .powerQualified | .railSequenceStep
  | .powerLoss | .overvoltage | .inputStateChange _ | .railFault _ | .securityAlarm _ | .enclOpen _
  | .debugPortInstruction _ _ | .spanCableChange _ _ | .sensorSample _ | .configSaveDone => true
  | _ => false

end Sys2Proof
end

