-- ==== Sys2Proof/Certificates/Slice0/Obligations.lean ====
section
/-! DEFINITION. The statements for the provers. Each says what a command does to the state and what it leaves as it is: Touches,
OnlyForme and the other words of Safety.lean name the components that may change. -/

open Sys2Proof Sys2Proof.Machine

/-- A step with a command in front of the queue is exec of that command on the state with the queue's rest. -/
def Obligations.StepRunsFrontCommand : Prop :=
  ∀ (c : Instr) (rest : List Instr) (s : State),
    step { s with pending := c :: rest } = exec c { s with pending := rest }

/-- Log 3 (the model's choice): on an empty queue a nanosecond passes. The age of the die since its reset counts, and the
timebase counts once it runs; nothing else changes. -/
def Obligations.StepOnEmptyQueueIsATick : Prop :=
  ∀ s : State, s.pending = [] → ∃ t, step s = .next t
    ∧ t.boot.age = s.boot.age + 1
    ∧ t.tb.ns = (if 5 ≤ s.boot.stage.toNat ∨ s.tb.master ≠ s.span.dieId then s.tb.ns + 1 else s.tb.ns)
    ∧ t = { s with tb := { s.tb with ns := t.tb.ns }, boot := { s.boot with age := t.boot.age } }

/-- R1, R13 and the queue's rule: no command changes the build, the die's place in its module, or the commands that wait. -/
def Obligations.CommandsKeepIdentityAndQueue : Prop :=
  ∀ (c : Instr) (s t : State), exec c s = .next t →
    t.build = s.build ∧ t.dieIndex = s.dieIndex ∧ t.pending = s.pending

/-- The state right after reset (R757): no command waits, nothing is fenced (R715), no folio is held (R676), no link is up
(R553), no fault is recorded (R708), every token and every counter of the Formes is 0 (R366), and every queue is empty.
Where a clause goes beyond the rules it is the model's choice, and these entries say which: log 6. -/
def Obligations.ResetLeavesTheDieIdle : Prop :=
  State.reset.pending = [] ∧ State.reset.fault.fenced = false ∧ State.reset.imp.folios = []
    ∧ State.reset.imp.cmd.log2n = 0 ∧ State.reset.imp.evt.log2n = 0
    ∧ (∀ p : Fin 11, (State.reset.span.ports[p]).st = 0)
    ∧ State.reset.fault.recs = [] ∧ State.reset.fault.harts = 1 ∧ State.reset.fault.hardInt = true
    ∧ State.reset.boot.state = 0 ∧ State.reset.boot.cur = 0
    ∧ ∀ f : FormeIx, (State.reset.forme f).fe.state = .idle ∧ (∀ j : Fin 16, ((State.reset.forme f).tok[j]) = 0)
        ∧ (∀ q : Queue, (State.reset.forme f).q.get q = []) ∧ (State.reset.forme f).err.valid = false

/-- Every memory of the die is in canonical form right after reset. -/
def Obligations.ResetMemoryIsCanonical : Prop := MemOk State.reset

/-- Every step keeps the canonical form of every memory: the Galleys, the quire memories, the Fount tables and GDDR7. -/
def Obligations.StepKeepsMemoryCanonical : Prop :=
  ∀ s t : State, MemOk s → step s = .next t → MemOk t

/-- R350 to R352, R360: dispatching the next instruction of a running program puts it at the tail of its queue. It waits
there ungranted when it carries a wait, the balance is what R360 makes it, and nothing else changes.
Where a clause goes beyond the rules it is the model's choice, and these entries say which: log 2. -/
def Obligations.DispatchAppendsToItsQueue : Prop :=
  ∀ (f : FormeIx) (s : State),
    let fm := s.forme f
    let x := fetchNext s f
    let q := queueOf (wfield x.word 0 8)
    unitsOn s = true → fm.fe.state = .run → fm.fe.next < fm.fe.length →
    gddrRange s.gddr (nextWordAddr fm) 16 = true → fetchLost s f = none → checkFails s f x = none →
    (fm.q.get q).length < queueDepth q →
    ∃ t, exec (.instructionDispatch f) s = .next t
      ∧ (∃ e, (t.forme f).q.get q = fm.q.get q ++ [e] ∧ e.word = x.word ∧ e.index.toNat = fm.fe.next % 2 ^ 24
          ∧ e.recs = x.recs ∧ e.desc = x.desc ∧ (e.granted = true ↔ wcnt x.word = 0) ∧ e.since = s.tb.ns)
      ∧ (∀ r, r ≠ q → (t.forme f).q.get r = fm.q.get r)
      ∧ (t.forme f).q.flights = fm.q.flights
      ∧ (t.forme f).fe = { fm.fe with next := fm.fe.next + 1, stall := 0 }
      ∧ balanceAfter fm x.word = .inl (t.forme f).bal
      ∧ OnlyForme f [.fe, .q, .bal, .dests] s t ∧ Touches [.formes] s t

/-- R351: while the queue of the next instruction is full, nothing is dispatched; the register FORME.QSTAT names the queue. -/
def Obligations.FullQueueStallsDispatch : Prop :=
  ∀ (f : FormeIx) (s : State),
    let fm := s.forme f
    let x := fetchNext s f
    let q := queueOf (wfield x.word 0 8)
    unitsOn s = true → fm.fe.state = .run → fm.fe.next < fm.fe.length →
    gddrRange s.gddr (nextWordAddr fm) 16 = true → fetchLost s f = none → checkFails s f x = none →
    queueDepth q ≤ (fm.q.get q).length →
    ∃ t, exec (.instructionDispatch f) s = .next t
      ∧ (t.forme f).fe = { fm.fe with stall := queueCode q }
      ∧ OnlyForme f [.fe] s t ∧ Touches [.formes] s t

/-- R379, R381, R401: an instruction that fails a check is not dispatched. FORME.PROG_ERR takes the code, the field, the
index and the logical Forme unless it holds an earlier error, and the Forme stops with its five queues discarded.
Where a clause goes beyond the rules it is the model's choice, and these entries say which: log 22. -/
def Obligations.FailedCheckIsAProgramError : Prop :=
  ∀ (f : FormeIx) (s : State) (e : PErr) (n : Nat),
    let fm := s.forme f
    unitsOn s = true → fm.fe.state = .run → fm.fe.next < fm.fe.length →
    gddrRange s.gddr (nextWordAddr fm) 16 = true → fetchLost s f = none →
    checkFails s f (fetchNext s f) = some (e, n) → folioOn s f = none → fm.err.valid = false →
    ∃ t, exec (.instructionDispatch f) s = .next t
      ∧ (t.forme f).err = ⟨e.code, 0, fm.err.more, BitVec.ofNat 8 n, fm.fe.lforme, BitVec.ofNat 24 fm.fe.next, true⟩
      ∧ (t.forme f).fe.state = .abort ∧ (t.forme f).fe.next = fm.fe.next
      ∧ (∀ q, (t.forme f).q.get q = []) ∧ (t.forme f).q.flights = fm.q.flights
      ∧ OnlyForme f [.fe, .q, .err] s t ∧ Touches [.formes] s t

/-- R356, R357: a wait at the head of a queue that is the oldest ungranted wait on its token and whose token has reached its
count is granted, and the grant subtracts the count. -/
def Obligations.GrantSubtractsItsCount : Prop :=
  ∀ (f : FormeIx) (q : Queue) (s : State) (e : QEntry) (rest : List QEntry),
    let fm := s.forme f
    unitsOn s = true → fm.q.get q = e :: rest → e.granted = false → grantable fm e = true →
    ∃ t, exec (.waitGrant f q) s = .next t
      ∧ (t.forme f).q.get q = { e with granted := true } :: rest
      ∧ (∀ r, r ≠ q → (t.forme f).q.get r = fm.q.get r) ∧ (t.forme f).q.flights = fm.q.flights
      ∧ ((t.forme f).tok[(wtok e.word).toFin]).toNat = (fm.tok[(wtok e.word).toFin]).toNat - wcnt e.word
      ∧ (∀ j : Fin 16, j ≠ (wtok e.word).toFin → (t.forme f).tok[j] = fm.tok[j])
      ∧ OnlyForme f [.tok, .q] s t ∧ Touches [.formes] s t

/-- R365: a wait that has stood at the head of its queue for WAIT_TIMEOUT_US microseconds of the timebase is a program error
with code 7, recorded with the number of its queue and its index. -/
def Obligations.WaitTimeoutIsAProgramError : Prop :=
  ∀ (f : FormeIx) (q : Queue) (s : State) (e : QEntry),
    let fm := s.forme f
    unitsOn s = true → fm.lat.waitTimeout ≠ 0 → (fm.q.get q).head? = some e → e.granted = false →
    e.since.toNat + fm.lat.waitTimeout.toNat * 1000 ≤ s.tb.ns.toNat → folioOn s f = none → fm.err.valid = false →
    ∃ t, exec (.waitTimeout f q) s = .next t
      ∧ (t.forme f).err = ⟨7, queueCode q, fm.err.more, 0, fm.fe.lforme, e.index, true⟩
      ∧ (t.forme f).fe.state = .abort ∧ (∀ r, (t.forme f).q.get r = [])
      ∧ OnlyForme f [.fe, .q, .err] s t ∧ Touches [.formes] s t

/-- R352, R355, R358: an instruction that has reached its completion point completes: it leaves the instructions in progress,
and its signal adds its count to its token.
Where a clause goes beyond the rules it is the model's choice, and these entries say which: log 39. -/
def Obligations.CompletionSignals : Prop :=
  ∀ (f : FormeIx) (index : BitVec 24) (s : State) (x : Flight),
    let fm := s.forme f
    unitsOn s = true → fm.q.flights.find? (fun y => decide (y.index = index)) = some x → x.done = true →
    ∃ t, exec (.instructionComplete f index) s = .next t
      ∧ (t.forme f).q.flights.length + 1 = fm.q.flights.length
      ∧ (∀ q, (t.forme f).q.get q = fm.q.get q)
      ∧ (t.forme f).tok[(stok x.word).toFin] = fm.tok[(stok x.word).toFin] + BitVec.ofNat 32 (sigCount x.word)
      ∧ (∀ j : Fin 16, j ≠ (stok x.word).toFin → (t.forme f).tok[j] = fm.tok[j])
      ∧ OnlyForme f [.tok, .q] s t ∧ Touches [.formes] s t

/-- R352, R385, R425: TSIG, TWAIT and TTIME leave the head of SQ and do nothing else before they complete; a TTIME stays at the
head until the timebase has reached VAL. -/
def Obligations.TokenScalarsOnlyIssue : Prop :=
  ∀ (f : FormeIx) (s : State) (e : QEntry),
    unitsOn s = true → (s.forme f).q.sq.head? = some e → e.granted = true →
    (e.op = 0x70 → ∃ t, exec (.tsig f) s = .next t ∧ LeavesHead f .sq true none none s t ∧ OnlyForme f [.q] s t ∧ Touches [.formes] s t)
    ∧ (e.op = 0x71 → ∃ t, exec (.twait f) s = .next t ∧ LeavesHead f .sq true none none s t ∧ OnlyForme f [.q] s t ∧ Touches [.formes] s t)
    ∧ (e.op = 0x73 → (sword e.word).val ≤ s.tb.ns.toNat →
        ∃ t, exec (.ttime f) s = .next t ∧ LeavesHead f .sq true none none s t ∧ OnlyForme f [.q] s t ∧ Touches [.formes] s t)
    ∧ (e.op = 0x73 → s.tb.ns.toNat < (sword e.word).val → exec (.ttime f) s = .next s)

/-- R426: TMARK writes 16 bytes at GADDR of the Galley: the timebase, the mark and FOLIO_ID, each little-endian, and changes no
other byte of any memory. -/
def Obligations.TmarkWritesItsRecord : Prop :=
  ∀ (f : FormeIx) (s : State) (e : QEntry),
    MemOk s → unitsOn s = true → (s.forme f).q.sq.head? = some e → e.granted = true → e.op = 0x72 →
    (s.forme f).test.arm = false →
    ∃ t, exec (.tmark f) s = .next t
      ∧ GalleyStores f (sword e.word).gaddr
          (leBytes 8 s.tb.ns.toNat ++ leBytes 4 (sword e.word).val ++ leBytes 4 (s.forme f).fe.folioId.toNat) s t
      ∧ LeavesHead f .sq true none none s t ∧ OnlyForme f [.q, .galley] s t ∧ Touches [.formes] s t

/-- R284 to R286: a SCALEPUSH whose operand reads without error pushes a maximum into its entry: the operand made finite and
non-negative (GIVEN), or PENDING. The maximum goes to the place of HEAD, HEAD and COUNT advance, PENDING becomes 0, and FLAT
and STALE are only ever set. No other entry changes.
Where a clause goes beyond the rules it is the model's choice, and these entries say which: log 4, log 25. -/
def Obligations.ScalepushPushesAMaximum : Prop :=
  ∀ (f : FormeIx) (s : State) (e : QEntry),
    let w := sword e.word
    let g := w.val % 4096
    let old := histEntry s g
    let given := if w.form then readLe (galleyRd (s.forme f)) w.gaddr 4 % 2 ^ 31 else old.pending.toNat
    let odd := w.form && decide (0x7F800000 ≤ given)
    let h := if odd then 0x7F7FFFFF else given
    unitsOn s = true → (s.forme f).q.sq.head? = some e → e.granted = true → e.op = 0x74 →
    (w.form = true → (s.forme f).galley.firstBad [(w.gaddr, 4)] = none) →
    ∃ t new, exec (.scalepush f) s = .next t ∧ t.tbl.hist = tset histDefault s.tbl.hist g new
      ∧ new.amax = vset old.amax old.head.toFin (BitVec.ofNat 32 h) ∧ new.head = old.head + 1
      ∧ new.count.toNat = (if old.count.toNat < 16 then old.count.toNat + 1 else 16)
      ∧ new.pending = 0 ∧ new.fmt = old.fmt ∧ new.enable = old.enable ∧ new.rebuilt = old.rebuilt
      ∧ new.flat = (old.flat || decide (h = 0)) ∧ new.stale = (old.stale || odd)
      ∧ (odd = false → t.tbl = { s.tbl with hist := t.tbl.hist } ∧ Touches [.formes, .tbl, .free] s t)
      ∧ LeavesHead f .sq true none none s t ∧ OnlyForme f [.q] s t
      ∧ Touches [.formes, .tbl, .free, .proof, .colo, .cores, .out] s t

/-- R119, R126, R127: with its context claimed by no instruction in progress, SRSEED sets the 128 lanes of the context from
its key, SRSAVE stores them as 512 bytes, and SRLOAD sets them from 512 bytes that read without error, a zero becoming 1 with
SRZERO set. -/
def Obligations.RoundingContextsSeedSaveLoad : Prop :=
  ∀ (f : FormeIx) (s : State) (e : QEntry),
    let w := sword e.word
    let fm := s.forme f
    unitsOn s = true → fm.q.sq.head? = some e → e.granted = true → ctxClaimed fm w.ctx = false →
    (e.op = 0x75 → ∃ t, exec (.srseed f) s = .next t
        ∧ (t.forme f).vu = { fm.vu with sr := setLanes fm.vu.sr w.ctx (srSeed (BitVec.ofNat 32 w.val)) }
        ∧ LeavesHead f .sq true none none s t ∧ OnlyForme f [.q, .vu] s t ∧ Touches [.formes] s t)
    ∧ (e.op = 0x76 → MemOk s → fm.test.arm = false → ∃ t, exec (.srsave f) s = .next t
        ∧ GalleyStores f w.gaddr (ctxBytes fm w.ctx) s t
        ∧ LeavesHead f .sq true none none s t ∧ OnlyForme f [.q, .galley] s t ∧ Touches [.formes] s t)
    ∧ (e.op = 0x77 → fm.galley.firstBad [(w.gaddr, 512)] = none → ∃ t, exec (.srload f) s = .next t
        ∧ (t.forme f).vu = { fm.vu with
            sr := setLanes fm.vu.sr w.ctx (fun l => if savedLane fm w.gaddr l = 0 then 1 else savedLane fm w.gaddr l)
            cvt := { fm.vu.cvt with srzero := fm.vu.cvt.srzero || (List.range 128).any (fun l => decide (savedLane fm w.gaddr l = 0)) } }
        ∧ LeavesHead f .sq true none none s t ∧ OnlyForme f [.q, .vu] s t ∧ Touches [.formes] s t)

/-- R130: an SRSEED, SRSAVE or SRLOAD whose context an instruction in progress claims is a program error with code 13 in SQ. -/
def Obligations.ClaimedContextIsAProgramError : Prop :=
  ∀ (f : FormeIx) (s : State) (e : QEntry),
    let fm := s.forme f
    unitsOn s = true → fm.q.sq.head? = some e → e.granted = true → ctxClaimed fm (sword e.word).ctx = true →
    folioOn s f = none → fm.err.valid = false →
    ∀ c, (e.op = 0x75 ∧ c = .srseed f ∨ e.op = 0x76 ∧ c = .srsave f ∨ e.op = 0x77 ∧ c = .srload f) →
    ∃ t, exec c s = .next t ∧ (t.forme f).err = ⟨13, 5, fm.err.more, 0, fm.fe.lforme, e.index, true⟩
      ∧ (t.forme f).fe.state = .abort ∧ OnlyForme f [.fe, .q, .err] s t ∧ Touches [.formes] s t

/-- R297, R298, R352: with its operands readable and its rounding context free, each element-wise operation leaves the head of
VQ and converts its exact results, element by element, into the destination record RD. It changes the issuing Forme's Galley,
queues and vector unit only, and of the rest at most what conversion and the Proofreader change. -/
def Obligations.ElementwiseConvertsExactResults : Prop :=
  ∀ (f : FormeIx) (s : State),
    let v := headVec s f
    let c := headCtl s f
    let d := { headDst s f with jctl := 0 }
    let ctx := convCtx (s.forme f) c [d]
    ∀ i op ps g, (i, op, ps, g) ∈ ([(.vadd f, 0x40, [0, 1], fun xs => (xs.getD 0 .nan).add (xs.getD 1 .nan)),
        (.vsub f, 0x41, [0, 1], fun xs => (xs.getD 0 .nan).add (xs.getD 1 .nan).neg),
        (.vmul f, 0x42, [0, 1], fun xs => (xs.getD 0 .nan).mul (xs.getD 1 .nan)),
        (.vfma f, 0x43, [0, 1, 2], fun xs => ((xs.getD 0 .nan).mul (xs.getD 1 .nan)).add (xs.getD 2 .nan)),
        (.vmin f, 0x44, [0, 1], fun xs => minVal (xs.getD 0 .nan) (xs.getD 1 .nan)),
        (.vmax f, 0x45, [0, 1], fun xs => maxVal (xs.getD 0 .nan) (xs.getD 1 .nan)),
        (.vabs f, 0x46, [0], fun xs => (xs.getD 0 .nan).abs),
        (.vneg f, 0x47, [0], fun xs => (xs.getD 0 .nan).neg)] : List (Instr × Nat × List Nat × (List Val → Val))) →
      vecReady s f op = true → claimedBy (s.forme f) ctx = false →
      galleyBad (s.forme f) f (headRanges s f ps ++ dstReads d v.count v.vlen) = none →
      ∃ t, exec i s = .next t
        ∧ t = convertGrid (issueHead s f .vq true ctx none) f c false d
            (grid v.count v.vlen (fun r e => (g ((sourceVals s f ps r e).map (·.1)), (sourceVals s f ps r e).any (·.2))))
        ∧ LeavesHead f .vq true ctx none s t ∧ OnlyForme f [.q, .galley, .vu, .test] s t
        ∧ Touches [.formes, .tbl, .proof, .colo, .cores, .out] s t

/-- R93, R295, R298: an element-wise sum of one vector into an untagged destination of a plain format of 8 bits or more, with
no stochastic rounding, stores at RD.BASE the rounded exact sums in lane order, and no other byte changes. -/
def Obligations.VaddStoresRoundedSums : Prop :=
  ∀ (f : FormeIx) (s : State),
    let v := headVec s f
    let c := headCtl s f
    let r := headRec s f 3
    let md : Mode := if c.rnd = 2 ∧ (s.forme f).fe.g1 = false then .rtz else .rne
    MemOk s → vecReady s f 0x40 = true → v.count = 1 → r.tagged = false → isScaled r.format = false → 8 ≤ fmtBits r.format →
    isQuire r.format = false → drawsSr (s.forme f).fe.g1 c (headDst s f) = false → (s.forme f).test.arm = false →
    galleyBad (s.forme f) f (headRanges s f [0, 1]) = none → r.base < 2 ^ 24 →
    ∃ t, exec (.vadd f) s = .next t
      ∧ GalleyStores f r.base ((List.range v.vlen).map (fun e =>
          let x := (((headRec s f 0).plane.elem (galleyRd (s.forme f)) 0 e).val c.subn).1
          let y := (((headRec s f 1).plane.elem (galleyRd (s.forme f)) 0 e).val c.subn).1
          leBytes (fmtBits r.format / 8) (encodeScalar r.format c.ovfm c.subn (x.add y) md).pat)).flatten s t
      ∧ OnlyForme f [.q, .galley, .vu] s t ∧ Touches [.formes] s t

/-- R297, R412, R413: with its operands readable, VCMP leaves the head of VQ and writes 16 bytes of mask for each vector at
RD.BASE + r × PITCH: bit e of row r is the comparison of elements (r, e), and the bits from VLEN up are 0. -/
def Obligations.VcmpWritesMasks : Prop :=
  ∀ (f : FormeIx) (s : State),
    let v := headVec s f
    let d := headRec s f 3
    let x (p r e : Nat) := ((headRec s f p).plane.elem (galleyRd (s.forme f)) r e).val (headCtl s f).subn
    let row (r : Nat) : List Byte := leBytes 16 ((List.range v.vlen).foldr (fun e acc =>
      b2n (compareVals v.aux (isPosit (headRec s f 0).format) (isPosit (headRec s f 1).format) (x 0 r e).1 (x 1 r e).1) + 2 * acc) 0)
    vecReady s f 0x48 = true → (s.forme f).test.arm = false →
    galleyBad (s.forme f) f (headRanges s f [0, 1]) = none →
    ∃ t, exec (.vcmp f) s = .next t
      ∧ GalleyWrites f (planeBytes d.base d.pitch (2 ^ 40) ((List.range v.count).map row)) s t
      ∧ LeavesHead f .vq true none none s t ∧ OnlyForme f [.q, .galley, .vu] s t ∧ Touches [.formes] s t

/-- R296, R309, R271, R411: VSEL converts, element by element, the source that the mask bit selects, and VCVT the source itself
(with the Justification of RD). A smoothing byte of 0xFF makes a VCVT a program error with code 12.
Where a clause goes beyond the rules it is the model's choice, and these entries say which: log 4, log 22. -/
def Obligations.VselAndVcvtConvertTheirSources : Prop :=
  ∀ (f : FormeIx) (s : State),
    let v := headVec s f
    let c := headCtl s f
    let fm := s.forme f
    let d := headDst s f
    let d0 := { d with jctl := 0 }
    let x (p r e : Nat) := ((headRec s f p).plane.elem (galleyRd fm) r e).val c.subn
    let bit (r e : Nat) : Bool :=
      (fm.galley.byte ((headRec s f 2).base + r * (headRec s f 2).pitch + e / 8)).toNat.testBit (e % 8)
    (vecReady s f 0x49 = true → claimedBy fm (convCtx fm c [d0]) = false →
      galleyBad fm f (headRanges s f [0, 1, 2] ++ dstReads d0 v.count v.vlen) = none →
      ∃ t, exec (.vsel f) s = .next t
        ∧ t = convertGrid (issueHead s f .vq true (convCtx fm c [d0]) none) f c false d0
            (grid v.count v.vlen (fun r e => if bit r e then x 0 r e else x 1 r e))
        ∧ LeavesHead f .vq true (convCtx fm c [d0]) none s t ∧ OnlyForme f [.q, .galley, .vu, .test] s t
        ∧ Touches [.formes, .tbl, .proof, .colo, .cores, .out] s t)
    ∧ (vecReady s f 0x4A = true → smoothBad fm d v.count v.vlen = false → claimedBy fm (convCtx fm c [d]) = false →
      galleyBad fm f (headRanges s f [0] ++ dstReads d v.count v.vlen) = none →
      ∃ t, exec (.vcvt f) s = .next t
        ∧ t = convertGrid (issueHead s f .vq true (convCtx fm c [d]) none) f c true d (grid v.count v.vlen (x 0))
        ∧ LeavesHead f .vq true (convCtx fm c [d]) none s t ∧ OnlyForme f [.q, .galley, .vu, .test] s t
        ∧ Touches [.formes, .tbl, .proof, .colo, .cores, .out] s t)
    ∧ (vecReady s f 0x4A = true → smoothBad fm d v.count v.vlen = true → folioOn s f = none → fm.err.valid = false →
      ∃ t, exec (.vcvt f) s = .next t
        ∧ (t.forme f).err = ⟨12, queueCode .vq, fm.err.more, 0, fm.fe.lforme, (headOf s f .vq).index, true⟩
        ∧ (t.forme f).fe.state = .abort ∧ OnlyForme f [.fe, .q, .err] s t ∧ Touches [.formes] s t)

/-- R299, R300: VQCLR zeroes quire j of lanes 0 to VLEN − 1; VQSAVE stores the 32 KiB of all per-lane quires at RD.BASE;
VQLOAD sets all 512 quires from 32 KiB that read without error; VQRED puts the sum of quire j over the lanes into lane 0,
clamped to the QP32 range with QSAT, NaR when a lane is NaR. -/
def Obligations.LaneQuiresClearSaveLoadReduce : Prop :=
  ∀ (f : FormeIx) (s : State),
    let v := headVec s f
    let fm := s.forme f
    let sum := quireAdd 0 (quireTotal fm v.aux v.vlen)
    (vecReady s f 0x50 = true → ∃ t, exec (.vqclr f) s = .next t
      ∧ (t.forme f).vu = { fm.vu with vq := (List.range v.vlen).foldl (fun q l => tset (fun _ => 0) q (4 * l + v.aux) 0) fm.vu.vq }
      ∧ LeavesHead f .vq true none none s t ∧ OnlyForme f [.q, .vu] s t ∧ Touches [.formes] s t)
    ∧ (vecReady s f 0x56 = true → MemOk s → fm.test.arm = false → ∃ t, exec (.vqsave f) s = .next t
      ∧ GalleyStores f (headRec s f 3).base (quireArea fm) s t
      ∧ LeavesHead f .vq true none none s t ∧ OnlyForme f [.q, .galley] s t ∧ Touches [.formes] s t)
    ∧ (vecReady s f 0x57 = true → fm.galley.firstBad [((headRec s f 0).base, 32768)] = none →
      ∃ t, exec (.vqload f) s = .next t
      ∧ (t.forme f).vu = { fm.vu with vq := (List.range 512).foldl (fun q i =>
          tset (fun _ => 0) q i (BitVec.ofNat 512 (readLe (galleyRd fm) ((headRec s f 0).base + 64 * i) 64))) fm.vu.vq }
      ∧ LeavesHead f .vq true none none s t ∧ OnlyForme f [.q, .vu] s t ∧ Touches [.formes] s t)
    ∧ (vecReady s f 0x55 = true → ∃ t, exec (.vqred f) s = .next t
      ∧ (t.forme f).vu = { fm.vu with vq := tset (fun _ => 0) fm.vu.vq v.aux sum.1
                                      vec := { fm.vu.vec with qsat := fm.vu.vec.qsat || sum.2 } }
      ∧ LeavesHead f .vq true none none s t ∧ OnlyForme f [.q, .vu] s t ∧ Touches [.formes] s t)

/-- R301: an addition to a QP32 quire is exact within the range, clamps to the nearer end with QSAT outside it, and NaR
absorbs. -/
def Obligations.QuireAdditionsAreExactOrSaturate : Prop :=
  ∀ (q : BitVec 512) (d : Int), q ≠ quireNar →
    (-(2 ^ 511 - 1) ≤ q.toInt + d → q.toInt + d ≤ 2 ^ 511 - 1 →
      ((quireAdd q (some d)).1.toInt = q.toInt + d ∧ (quireAdd q (some d)).2 = false))
    ∧ (2 ^ 511 - 1 < q.toInt + d → ((quireAdd q (some d)).1.toInt = 2 ^ 511 - 1 ∧ (quireAdd q (some d)).2 = true))
    ∧ (q.toInt + d < -(2 ^ 511 - 1) → ((quireAdd q (some d)).1.toInt = -(2 ^ 511 - 1) ∧ (quireAdd q (some d)).2 = true))
    ∧ quireAdd q none = (quireNar, false) ∧ quireAdd quireNar (some d) = (quireNar, false)

/-- R299, R301: VQMAC, VQADD and VQSUB of one vector of one lane add the exact product, the operand, or its negation to quire j
of lane 0, with QSAT where it clamps; of several vectors and lanes they do so element by element, row after row. VQRND
converts quire j of each lane into RD. -/
def Obligations.LaneQuiresAccumulateAndRound : Prop :=
  ∀ (f : FormeIx) (s : State),
    let v := headVec s f
    let c := headCtl s f
    let fm := s.forme f
    let d := { headDst s f with jctl := 0 }
    let x (p : Nat) (r l : Nat) : Val := (((headRec s f p).plane.elem (galleyRd fm) r l).val c.subn).1
    (∀ i op ps, ∀ g : Nat → Nat → Val, (i, op, ps, g) ∈ ([(.vqmac f, 0x51, [0, 1], fun r l => (x 0 r l).mul (x 1 r l)),
        (.vqadd f, 0x52, [0], fun r l => x 0 r l), (.vqsub f, 0x53, [0], fun r l => (x 0 r l).neg)]
        : List (Instr × Nat × List Nat × (Nat → Nat → Val))) →
      vecReady s f op = true → galleyBad fm f (headRanges s f ps) = none →
      ∃ t, exec i s = .next t
        ∧ (t.forme f).vu = ((List.range v.count).foldl (fun a r => (List.range v.vlen).foldl (fun a l =>
            let y := quireAdd (laneQuire a l v.aux) (quireUnits (g r l))
            setQsat (setLaneQuire a l v.aux y.1) y.2) a) fm).vu
        ∧ LeavesHead f .vq true none none s t ∧ OnlyForme f [.q, .vu] s t ∧ Touches [.formes] s t)
    ∧ (vecReady s f 0x54 = true → claimedBy fm (convCtx fm c [d]) = false → galleyBad fm f (dstReads d v.count v.vlen) = none →
      ∃ t, exec (.vqrnd f) s = .next t
        ∧ t = convertGrid (issueHead s f .vq true (convCtx fm c [d]) none) f c false d
            [(List.range v.vlen).map (fun l => (decodeQuire 32 (laneQuire fm l v.aux).toNat, false))]
        ∧ LeavesHead f .vq true (convCtx fm c [d]) none s t ∧ OnlyForme f [.q, .galley, .vu, .test] s t
        ∧ Touches [.formes, .tbl, .proof, .colo, .cores, .out] s t)

/-- R303 to R305, R414: with ε not negative, VRMS converts the normalised rows and sets ZROW, RSAT and the flags of its own
roundings; a negative ε is a program error with code 11.
Where a clause goes beyond the rules it is the model's choice, and these entries say which: log 4, log 19, log 21. -/
def Obligations.VrmsNormalisesItsRows : Prop :=
  ∀ (f : FormeIx) (s : State),
    let fm := s.forme f
    let c := headCtl s f
    let d := { headDst s f with jctl := 0, fold := true }
    let rs := rmsRows s f
    let ctx := convCtx fm c [d]
    (vecReady s f 0x58 = true → epsNegative s f = false → claimedBy fm ctx = false →
      galleyBad fm f (headRanges s f (vecSrcs 0x58 (headVec s f)) ++ dstReads d 1 1) = none →
      ∃ t, exec (.vrms f) s = .next t
        ∧ t = convertGrid (modForme (issueHead s f .vq true ctx none) f (fun g => rmsStatus g rs.1)) f c false d
            (rs.1.map (fun r => r.ys.map (fun y => (y, rs.2))))
        ∧ LeavesHead f .vq true ctx none s t ∧ OnlyForme f [.q, .galley, .vu, .test] s t
        ∧ Touches [.formes, .tbl, .proof, .colo, .cores, .out] s t)
    ∧ (vecReady s f 0x58 = true → epsNegative s f = true → folioOn s f = none → fm.err.valid = false →
      ∃ t, exec (.vrms f) s = .next t
        ∧ (t.forme f).err = ⟨11, queueCode .vq, fm.err.more, 0, fm.fe.lforme, (headOf s f .vq).index, true⟩
        ∧ (t.forme f).fe.state = .abort ∧ OnlyForme f [.fe, .q, .err] s t ∧ Touches [.formes] s t)

/-- R306, R414: VTOPK writes, row by row, the positions of the AUX + 1 largest elements as 4-byte values into the position
record and their patterns into RD, padded where a row is shorter.
Where a clause goes beyond the rules it is the model's choice, and these entries say which: log 22, log 26. -/
def Obligations.VtopkWritesPositionsAndPatterns : Prop :=
  ∀ (f : FormeIx) (s : State),
    let p := headRec s f 2
    let d := headRec s f 3
    let rows := (List.range (headVec s f).count).map (topkRow s f)
    vecReady s f 0x59 = true → (s.forme f).test.arm = false → galleyBad (s.forme f) f (headRanges s f [0]) = none →
    (∀ r ∈ rows, r.length = (headVec s f).aux + 1)
    ∧ ∃ t, exec (.vtopk f) s = .next t
      ∧ GalleyWrites f (planeBytes p.base p.pitch (2 ^ 40) (rows.map (fun r => (r.map (fun y => leBytes 4 y.2)).flatten))
          ++ planeBytes d.base d.pitch (2 ^ 40) (rows.map (fun r => packCodes (fmtBits (headRec s f 0).format) (r.map (·.1))))) s t
      ∧ LeavesHead f .vq true none none s t ∧ OnlyForme f [.q, .galley, .vu] s t ∧ Touches [.formes] s t

/-- R307, R308, R272: VSCALE writes the scale plane that a conversion of its operand would choose and no code; VSMOOTH writes
one E8M0 byte for each pair of maxima, the factor of R272 (a free value for a pair that R272 gives no factor, log 4).
Where a clause goes beyond the rules it is the model's choice, and these entries say which: log 4, log 25. -/
def Obligations.VscaleAndVsmoothWriteTheirBytes : Prop :=
  ∀ (f : FormeIx) (s : State),
    let fm := s.forme f
    let v := headVec s f
    let x (p r e : Nat) : Val := (((headRec s f p).plane.elem (galleyRd fm) r e).val (headCtl s f).subn).1
    let d := headDst s f
    let ts := if d.fmt = .rs8 then readLe (galleyRd fm) d.tsaddr 4 else 0
    let q := quantise d (toSigned 32 fm.lat.scaleTarget.toNat) ts (grid v.count v.vlen (x 0))
    let factor (r e : Nat) : Byte := match smoothFactor fm.lat.smoothAlpha.toNat (x 0 r e) (x 1 r e) with
      | some n => BitVec.ofNat 8 n
      | none => Config.freeByte s.free (r * 128 + e)
    (vecReady s f 0x5A = true → fm.test.arm = false →
      galleyBad fm f (headRanges s f [0] ++ (if d.fmt = .rs8 then [(d.tsaddr, 4)] else [])) = none →
      ∃ t, exec (.vscale f) s = .next t ∧ GalleyWrites f (vscaleBytes d ts q) s t
        ∧ LeavesHead f .vq true none none s t ∧ OnlyForme f [.q, .galley] s t ∧ Touches [.formes] s t)
    ∧ (vecReady s f 0x5B = true → fm.test.arm = false → galleyBad fm f (headRanges s f [0, 1]) = none →
      ∃ t, exec (.vsmooth f) s = .next t
        ∧ GalleyWrites f (planeBytes (headRec s f 3).base (headRec s f 3).pitch (2 ^ 40) (grid v.count v.vlen factor)) s t
        ∧ LeavesHead f .vq true none none s t ∧ OnlyForme f [.q, .galley, .vu] s t ∧ Touches [.formes, .free] s t)

/-- R313, R314, R337: a FUNC whose slot does not serve its function and formats is a program error with code 10. With a slot
that serves it and no failing byte, FUNC converts the function's value of every element with round to nearest, claiming its
slot until it completes.
Where a clause goes beyond the rules it is the model's choice, and these entries say which: log 10, log 19, log 22. -/
def Obligations.FuncEvaluatesItsTable : Prop :=
  ∀ (f : FormeIx) (s : State),
    let fm := s.forme f
    let w := headFunc s f
    let a := funcRec s f 0
    let d := { (funcRec s f 1).dst ((headOf s f .fq).clsAt 1) with jctl := 0 }
    (funcReady s f = true → slotServes fm.vu.slots[w.slot] w.fn a.format d.fmt = true →
      galleyBad fm f (a.plane.ranges w.count w.vlen) = none → badLines fm (funcLookups s f) = [] → fm.vu.ftFail = none →
      ∃ t, exec (.func f) s = .next t
        ∧ t = funcWrite f (issueHead s f .fq true none (some w.slot)) w d (grid w.count w.vlen (funcValue s f))
        ∧ LeavesHead f .fq true none (some w.slot) s t ∧ OnlyForme f [.q, .galley, .vu, .test] s t
        ∧ Touches [.formes, .tbl, .proof, .colo, .cores, .out] s t)
    ∧ (funcReady s f = true → slotServes fm.vu.slots[w.slot] w.fn a.format d.fmt = false → folioOn s f = none →
      fm.err.valid = false →
      ∃ t, exec (.func f) s = .next t
        ∧ (t.forme f).err = ⟨10, queueCode .fq, fm.err.more, 0, fm.fe.lforme, (headOf s f .fq).index, true⟩
        ∧ (t.forme f).fe.state = .abort ∧ OnlyForme f [.fe, .q, .err] s t ∧ Touches [.formes] s t)

/-- R335, R336: FTLOAD leaves the head of FQ when no load is in progress and holds its slot from then; the transfer starts
when no FUNC on the slot is in progress, and clears VALID; at its end the slot's 128 KiB hold the image and its record is
valid, with the CRC-32C of the image.
Where a clause goes beyond the rules it is the model's choice, and these entries say which: log 17, log 41. -/
def Obligations.FountLoadsReplaceASlot : Prop :=
  ∀ (f : FormeIx) (s : State),
    let fm := s.forme f
    let e := headOf s f .fq
    let h := lword e.word
    (ftloadReady s f = true → ∃ t, exec (.ftload f) s = .next t
      ∧ (t.forme f).vu = { fm.vu with ftLoad := some ⟨e.index, h.slot, BitVec.ofNat 2 h.kind, BitVec.ofNat 4 h.func,
          BitVec.ofNat 16 h.version, BitVec.ofNat 52 h.src, false, [], []⟩ }
      ∧ LeavesHead f .fq false none none s t ∧ OnlyForme f [.q, .vu] s t ∧ Touches [.formes] s t)
    ∧ (∀ l, fm.vu.ftLoad = some l → transferReady s f = true → loadUnmapped s l = false →
      ∃ t, exec (.ftloadTransferStart f) s = .next t
        ∧ (t.forme f).vu = { fm.vu with ftLoad := some { l with started := true }
                                        slots := vmod fm.vu.slots l.slot (fun x => { x with valid := false }) }
        ∧ OnlyForme f [.vu] s t ∧ (gDie l.src.toNat = s.span.dieId → Touches [.formes] s t)
        ∧ Touches [.formes, .span, .out, .colo] s t)
    ∧ (∀ l, MemOk s → fm.vu.ftLoad = some l → unitsOn s = true → l.started = true → gDie l.src.toNat = s.span.dieId →
      readErr s [(gLocal l.src.toNat, 131072)] = none →
      ∃ t, exec (.ftloadComplete f) s = .next t
        ∧ (t.forme f).vu.fount.bytes (l.slot.1 * 131072) 131072 = localBytes s (gLocal l.src.toNat) 131072
        ∧ (∀ x, (x < l.slot.1 * 131072 ∨ l.slot.1 * 131072 + 131072 ≤ x) → (t.forme f).vu.fount.byte x = fm.vu.fount.byte x)
        ∧ (t.forme f).vu.slots = vset fm.vu.slots l.slot
            ⟨l.kind, true, l.func, l.version, crc32c (localBytes s (gLocal l.src.toNat) 131072), l.src⟩
        ∧ (t.forme f).vu.ftLoad = none ∧ (∀ q, (t.forme f).q.get q = fm.q.get q)
        ∧ OnlyForme f [.q, .vu] s t ∧ Touches [.formes] s t)

/-- R175, R208 to R211, R219 to R223: a PACC that passes its checks leaves the head of PQ in progress and joins the
accumulates. An outer product adds nothing to quire memory yet, its sums wait in windows; K of 0 makes no window. Without a
Press in service it is a program error with code 9, and on tiles of another kind one with code 8.
Where a clause goes beyond the rules it is the model's choice, and these entries say which: log 23. -/
def Obligations.PaccBeginsItsAccumulate : Prop :=
  ∀ (f : FormeIx) (s : State),
    let fm := s.forme f
    let w := headPacc s f
    let kind := (headPair s f).1
    let fits := w.init || decide (w.k = 0) || kindFits fm kind (gridTiles kind w.tile w.m w.n)
    (paccReady s f = true → fm.pu.active ≠ 0 → fits = true → galleyBad fm f (paccGalley s f) = none →
      quireBad fm f (paccQuire s f) = none →
      ∃ t, exec (.pacc f) s = .next t
        ∧ (∃ a, (t.forme f).pu.accs = fm.pu.accs ++ [a] ∧ a.index = (headOf s f .pq).index ∧ a.tile = w.tile ∧ a.rows = w.m
            ∧ a.cols = w.n ∧ a.k = w.k ∧ a.init = w.init ∧ a.kind = BitVec.ofNat 2 kind)
        ∧ (w.mode = false → (t.forme f).quire = fm.quire) ∧ (w.k = 0 → (t.forme f).pu.wins = fm.pu.wins)
        ∧ (w.k ≠ 0 → w.mode = false → ∃ ws, (t.forme f).pu.wins = fm.pu.wins ++ ws)
        ∧ LeavesHead f .pq false none none s t ∧ OnlyForme f [.q, .pu, .quire] s t ∧ Touches [.formes] s t)
    ∧ (paccReady s f = true → fm.pu.active = 0 → folioOn s f = none → fm.err.valid = false →
      ∃ t, exec (.pacc f) s = .next t
        ∧ (t.forme f).err = ⟨9, queueCode .pq, fm.err.more, 0, fm.fe.lforme, (headOf s f .pq).index, true⟩
        ∧ (t.forme f).fe.state = .abort ∧ OnlyForme f [.fe, .q, .err] s t ∧ Touches [.formes] s t)
    ∧ (paccReady s f = true → fm.pu.active ≠ 0 → fits = false → folioOn s f = none → fm.err.valid = false →
      ∃ t, exec (.pacc f) s = .next t
        ∧ (t.forme f).err = ⟨8, queueCode .pq, fm.err.more, 0, fm.fe.lforme, (headOf s f .pq).index, true⟩
        ∧ (t.forme f).fe.state = .abort ∧ OnlyForme f [.fe, .q, .err] s t ∧ Touches [.formes] s t)

/-- R149, R172, R174: the oldest window of a Press is written back into the entries of its tiles and is gone; an accumulate
whose last update has been made leaves the accumulates, and its instruction has reached its completion point.
Where a clause goes beyond the rules it is the model's choice, and these entries say which: log 20, log 23. -/
def Obligations.WindowsLandAndAccumulatesComplete : Prop :=
  ∀ (f : FormeIx) (s : State),
    let fm := s.forme f
    (∀ p w, unitsOn s = true → nextWindow fm p = some w → quireBad fm f (winReads w) = none →
      ∃ t, exec (.windowSwap f p) s = .next t
        ∧ (t.forme f).pu.wins.length + 1 = fm.pu.wins.length
        ∧ (t.forme f).quire = ((winCells w).foldl (writeBack w.kind.toNat) (fm, [])).1.quire
        ∧ OnlyForme f [.pu, .quire] s t ∧ Touches [.formes] s t)
    ∧ (∀ a, unitsOn s = true → doneAcc fm = some a →
      ∃ t, exec (.accumulateComplete f) s = .next t
        ∧ (t.forme f).pu.accs = eraseFirst (fun b => decide (b.index = a.index)) fm.pu.accs
        ∧ (t.forme f).pu.wins = fm.pu.wins
        ∧ (t.forme f).q.flights = fm.q.flights.map (fun x => if x.index = a.index then { x with done := true } else x)
        ∧ (∀ q, (t.forme f).q.get q = fm.q.get q) ∧ (a.k ≠ 0 → (t.forme f).quire = fm.quire)
        ∧ OnlyForme f [.q, .pu, .quire] s t ∧ Touches [.formes] s t)

/-- R199, R200, R202, R203: an update of an exact entry adds the sum to what the entry holds (to zero when the tile starts
fresh), saturating at the largest magnitude of the entry with OVF; NaR stays NaR. The entry read back is that value. -/
def Obligations.UpdatesAddExactlyOrSaturate : Prop :=
  ∀ (fm : Forme) (kind off : Nat) (fresh : Bool) (d : Int),
    let u := updateEntry fm kind off (.sum fresh d)
    let lim : Int := 2 ^ (dWidth kind - 1) - 1
    let after := readDeep { fm with quire := fm.quire.putAll (placed off u.1) } kind off
    fm.quire.wf = true → kind = 1 ∨ kind = 2 →
    (∀ old, (if fresh then some 0 else readDeep fm kind off) = some old →
      (-lim ≤ old + d → old + d ≤ lim → after = some (old + d) ∧ u.2 = false)
      ∧ (lim < old + d → after = some lim ∧ u.2 = true)
      ∧ (old + d < -lim → after = some (-lim) ∧ u.2 = true))
    ∧ (fresh = false → readDeep fm kind off = none → after = none ∧ u.2 = false)

/-- R223 to R242: a DRAIN whose tiles fit, whose context is free and whose operands read without error leaves the head of VQ
and writes its conversions, side outputs and flags; without CLR it leaves quire memory as it is. A tile that does not fit is a
program error with code 8.
Where a clause goes beyond the rules it is the model's choice, and these entries say which: log 4, log 19, log 24. -/
def Obligations.DrainWritesItsDestinations : Prop :=
  ∀ (f : FormeIx) (s : State),
    let fm := s.forme f
    let d := headDrain s f
    let ds := drainDsts s f
    let ctx := convCtx fm (ctlOf d.cvt) ds
    (drainReady s f = true → drainFits fm d = true → ds.any (fun y => smoothBad fm y d.m d.n) = false →
      claimedBy fm ctx = false → drainBad s f = none →
      ∃ t, exec (.drain f) s = .next t
        ∧ t = drainWrite f d (headSide s f) ds (issueHead s f .vq true ctx none)
        ∧ LeavesHead f .vq true ctx none s t ∧ (d.clr = false → (t.forme f).quire = fm.quire)
        ∧ OnlyForme f [.q, .galley, .vu, .test, .pu, .quire] s t
        ∧ Touches [.formes, .free, .tbl, .proof, .colo, .cores, .out] s t)
    ∧ (drainReady s f = true → drainFits fm d = false → folioOn s f = none → fm.err.valid = false →
      ∃ t, exec (.drain f) s = .next t
        ∧ (t.forme f).err = ⟨8, queueCode .vq, fm.err.more, 0, fm.fe.lforme, (headOf s f .vq).index, true⟩
        ∧ (t.forme f).fe.state = .abort ∧ OnlyForme f [.fe, .q, .err] s t ∧ Touches [.formes] s t)

/-- R417, R418: TSSAVE stores the status words of its slots at GADDR, 8 bytes each; TSLOAD sets them from the Galley, a word
whose BASE is another slot keeping its KIND and BASE only. -/
def Obligations.StatusWordsSaveAndLoad : Prop :=
  ∀ (f : FormeIx) (s : State),
    let fm := s.forme f
    let h := headStatus s f
    (MemOk s → statusReady s f 0x31 = true → fm.test.arm = false →
      ∃ t, exec (.tssave f) s = .next t
        ∧ GalleyStores f h.gaddr ((h.slots.map (fun i => leBytes 8 (tileWord fm i).toNat)).flatten) s t
        ∧ LeavesHead f .vq true none none s t ∧ OnlyForme f [.q, .galley] s t ∧ Touches [.formes] s t)
    ∧ (statusReady s f 0x32 = true → fm.galley.firstBad [(h.gaddr, 8 * (h.last + 1 - h.first))] = none →
      ∃ t, exec (.tsload f) s = .next t
        ∧ (t.forme f).pu = { fm.pu with tiles := h.slots.foldl (fun x i => tset (fun _ => 0) x i
            (loadedWord i (BitVec.ofNat 64 (readLe (galleyRd fm) (h.gaddr + 8 * (i - h.first)) 8)))) fm.pu.tiles }
        ∧ LeavesHead f .vq true none none s t ∧ OnlyForme f [.q, .pu] s t ∧ Touches [.formes] s t)

/-- R352, R440 to R444, R451: a CCOPY takes the lowest idle Carriage and leaves the head of CQ in progress. A bit copy within
the die whose planes share no byte and whose source reads without error writes every destination byte; COPY_COMPLETE then
frees the Carriage and completes the instruction.
Where a clause goes beyond the rules it is the model's choice, and these entries say which: log 17, log 27. -/
def Obligations.CopiesTakeACarriageAndComplete : Prop :=
  ∀ (f : FormeIx) (c : Fin 8) (s : State),
    let fm := s.forme f
    let d := headDesc s f
    (∀ rep, ccopyReady s f = true → idleCarriage fm = some c → claimedBy fm (copyCtx s f) = false →
      copyAddress s d = false → copySmooth s f d = false →
      ∃ t, exec (.ccopy f rep) s = .next t
        ∧ t = startCopy (applyReport s (gddrPart (!d.remoteSrc s) d.srcRanges) (gddrPart (!d.remoteDst s) d.dstRanges) rep) f c d)
    ∧ (∀ ch, let s1 := takeCarriage s f c d []
      let bs := bitCopyBytes d (sourceByte s1 d [])
      ccopyReady s f = true → idleCarriage fm = some c → copyAddress s d = false →
      d.bitCopy = true → d.clash = false → d.remoteSrc s = false → d.remoteDst s = false → d.rsen = false →
      fetchPieces s d = [] → readErr s1 (ownReads s1 f d) = none → (∀ p ∈ bs, isWindow p.1 = false) →
      ∃ t, exec (.ccopy f ⟨0, ch, [], []⟩) s = .next t
        ∧ t = modCar (localPutAll s1 bs) f c (fun x => { addBytes x bs.length with phase := .written, data := [] })
        ∧ Touches [.formes, .gddr, .tbl] s t)
    ∧ (unitsOn s = true → (fm.carr[c]).busy = true → (fm.carr[c]).phase = .written →
      ∃ t, exec (.copyComplete f c) s = .next t
        ∧ (t.forme f).carr[c] = { fm.carr[c] with busy := false, remote := false, phase := .idle, entry := none, data := [] }
        ∧ (∀ k : Fin 8, k ≠ c → (t.forme f).carr[k] = fm.carr[k])
        ∧ (t.forme f).q.flights = fm.q.flights.map (fun x => if x.index = (fm.carr[c]).index then { x with done := true } else x)
        ∧ (∀ q, (t.forme f).q.get q = fm.q.get q) ∧ OnlyForme f [.q, .carr] s t ∧ Touches [.formes] s t)

/-- R670, R671, R674, R675: a START or RESUME entry that passes every check is consumed and its folio joins the submitted
folios, last; a reserved bit is refused with FIELD and a handle in use with HANDLE. PAUSE and SAVE of a running folio without
external tokens stop dispatch on its Formes, CONTINUE lets a paused folio run again, and DISCARD ends it.
Where a clause goes beyond the rules it is the model's choice, and these entries say which: log 38. -/
def Obligations.ImposerCommandsAnswer : Prop :=
  ∀ s : State,
    let w := cmdWord s
    let c := consume s
    let a := cmdFolio w
    let n := fieldN (headerWord s a) 8 4
    let accepted (resume : Bool) : Prop :=
      cmdFieldBad w = false ∧ submitHandleBad s w = false ∧ submitAddrBad s w (resume || cmdKeep w || cmdPreload w) = false
        ∧ gddrLost s.gddr a 64 = none ∧ headerOk (headerWord s a) = true ∧ gddrRange s.gddr (a + 64) (16 * n) = true
        ∧ gddrLost s.gddr (a + 64) (16 * n) = none ∧ (List.range n).all (fun l => progOk (progEntry s a l)) = true
        ∧ ((resume || cmdKeep w || cmdPreload w) && !saveAreaOk s (cmdSave w) n) = false ∧ n ≤ (formesInService s).length
    let named (x : Folio) : Prop := cmdFieldBad w = false ∧ folioOf s (cmdHandle w) = some x
    let moved (x : Folio) (st : FState) (g : Folio → Folio) (t : State) : Prop :=
      t.imp.folios = modifyFirst (fun y => decide (y.handle = x.handle)) g s.imp.folios
        ∧ (∀ f ∈ x.fset, (t.forme f).fe = { (s.forme f).fe with state := st, stall := 0 })
        ∧ (∀ f, f ∉ x.fset → t.forme f = s.forme f) ∧ t.imp.cmd.cons = s.imp.cmd.cons + 1 ∧ Touches [.formes, .imp] s t
    (∀ resume i, (resume = false ∧ i = .start ∧ startReady s = true ∧ cmdReadable s = true
        ∨ resume = true ∧ i = .resume ∧ opcReady s 4 = true) → accepted resume →
      ∃ t, exec i s = .next t ∧ t = { c with imp := { c.imp with folios := s.imp.folios ++ [newFolio s w resume] } }
        ∧ Touches [.imp] s t)
    ∧ (startReady s = true → cmdReadable s = true → cmdFieldBad w = true →
      exec .start s = .next (imposerEvent c .refused (cmdHandle w) 4 0 0))
    ∧ (startReady s = true → cmdReadable s = true → cmdFieldBad w = false → (folioOf s (cmdHandle w)).isSome = true →
      exec .start s = .next (imposerEvent c .refused (cmdHandle w) 2 0 0))
    ∧ (∀ x, named x → x.state = .running → x.ext = 0 →
      (opcReady s 2 = true → ∃ t, exec .pause s = .next t
        ∧ moved x .quiesce (fun y => { y with cmds := y.cmds + 1, state := .pausing false }) t)
      ∧ (opcReady s 3 = true → saveAreaOk s (cmdSave w) x.formes.toNat = true → ∃ t, exec .save s = .next t
        ∧ moved x .quiesce (fun y => { y with
            cmds := y.cmds + 1, state := .pausing true, saveBase := BitVec.ofNat 40 (cmdSave w) }) t))
    ∧ (∀ x, named x → x.state = .paused →
      (opcReady s 5 = true → ∃ t, exec .continueFolio s = .next t ∧ moved x .run (fun y => { y with state := .running }) t)
      ∧ (opcReady s 6 = true → ∃ t, exec .discard s = .next t
        ∧ t.imp.folios = (eraseFirst (fun y => decide (y.handle = x.handle)) s.imp.folios).map
            (fun y => if y.dep = x.handle then { y with dep := 0 } else y)
        ∧ t.imp.ended.head? = some x.handle ∧ (∀ f ∈ x.fset, (t.forme f).fe.state = .idle)
        ∧ (∀ f, f ∉ x.fset → t.forme f = s.forme f) ∧ t.imp.cmd.cons = s.imp.cmd.cons + 1
        ∧ Touches [.free, .out, .formes, .gddr, .imp, .cores, .colo] s t))

/-- R348, R372, R381, R533, R677, R678, R690: a sole ready folio that fits at OP100 starts; a folio whose Formes are quiet
after a pause request is paused; a saved, completed or aborted folio leaves the Imposer and its Formes are idle, with DEP
cleared where other folios waited for it.
Where a clause goes beyond the rules it is the model's choice, and these entries say which: log 4, log 38, log 39. -/
def Obligations.FoliosStartPauseAndEnd : Prop :=
  ∀ s : State,
    let gone (x : Folio) (t : State) : Prop :=
      t.imp.folios = (eraseFirst (fun y => decide (y.handle = x.handle)) s.imp.folios).map
          (fun y => if y.dep = x.handle then { y with dep := 0 } else y)
        ∧ t.imp.ended.head? = some x.handle ∧ (∀ f ∈ x.fset, (t.forme f).fe.state = .idle)
    (∀ x, chooseReady s = true → s.imp.folios = [x] → x.state = .ready → x.dep = 0 → x.cadence = false →
      x.preload = false → x.resume = false → 1 ≤ entN s 0x2020 3 → fits s x 0 = true →
      ∃ t, exec .folioStart s = .next t ∧ t = startFolio s x 0
        ∧ t.imp.folios = [{ x with state := .running, fset := (idleFormes s).take x.formes.toNat, op := cappedOp s 0 }]
        ∧ Touches [.free, .out, .formes, .gddr, .imp, .cores, .colo] s t)
    ∧ (∀ h x, pausedReady s h = true → folioOf s h = some x → ∃ t, exec (.folioPaused h) s = .next t
        ∧ t.imp.folios = modifyFirst (fun y => decide (y.handle = h)) (fun y => { y with
            state := if pausing x = some true then .saving else .paused
            cmds := if pausing x = some true then y.cmds else y.cmds - 1 }) s.imp.folios
        ∧ (∀ f ∈ x.fset, (t.forme f).fe = { (s.forme f).fe with state := .paused, stall := 0 })
        ∧ (∀ f, f ∉ x.fset → t.forme f = s.forme f) ∧ Touches [.free, .out, .formes, .gddr, .imp, .cores, .colo] s t)
    ∧ (∀ h x u, saveReady s h = true → folioOf s h = some x → writeImages s x false = .inr u →
      ∃ t, exec (.saveComplete h) s = .next t ∧ t = endFolio u { x with cmds := x.cmds - 1 } .saved 0 ∧ gone x t
        ∧ Touches [.free, .out, .formes, .gddr, .imp, .cores, .colo] s t)
    ∧ (∀ h x replies, folioDoneReady s h = true → folioOf s h = some x → x.keep = false →
      ∃ t, exec (.folioComplete h replies) s = .next t ∧ gone x t
        ∧ Touches [.free, .out, .formes, .gddr, .imp, .cores, .svc, .colo] s t)
    ∧ (∀ h x, abortReady s h = true → folioOf s h = some x → ∃ t, exec (.folioAbortDone h) s = .next t ∧ gone x t
        ∧ Touches [.free, .out, .formes, .gddr, .tbl, .imp, .cores, .colo] s t)

/-- R676, R680 to R682: an accepted write of a ring register sets base and size with counts of 0, an accepted doorbell
advances its count; a control interval latches the two power limits; the limiter caps running folios at OP20 and its end
clears it; temperatures are recorded, and hold starts from the hard limit until both lie 5 °C below it.
Where a clause goes beyond the rules it is the model's choice, and these entries say which: log 8, log 40. -/
def Obligations.RingsIntervalsAndLimits : Prop :=
  ∀ (v : Word) (s : State),
    (ringReady s v = true → exec (.imposerCmdRing v) s = .next { s with imp := { s.imp with
      cmd := ⟨BitVec.ofNat 40 (field v 0 40), BitVec.ofNat 5 (field v 40 5), 0, 0⟩ } })
    ∧ (ringReady s v = true → ∃ t, exec (.imposerEvtRing v) s = .next t
      ∧ t.imp.evt.base = BitVec.ofNat 40 (field v 0 40) ∧ t.imp.evt.log2n = BitVec.ofNat 5 (field v 40 5)
      ∧ t.imp.evt.cons = 0 ∧ t.imp.folios = s.imp.folios ∧ t.imp.cmd = s.imp.cmd
      ∧ (BitVec.ofNat 5 (field v 40 5) = 0 → t.imp.evWait = []) ∧ Touches [.out, .gddr, .imp, .cores, .colo] s t)
    ∧ (cmdBellReady s v = true → exec (.imposerCmdDoorbell v) s = .next { s with imp := { s.imp with
      cmd := { s.imp.cmd with prod := BitVec.ofNat 24 (field v 0 24) } } })
    ∧ (evtBellReady s v = true → ∃ t, exec (.imposerEvtDoorbell v) s = .next t
      ∧ t.imp.evt.cons = BitVec.ofNat 24 (field v 25 24) ∧ t.imp.evt.base = s.imp.evt.base ∧ t.imp.folios = s.imp.folios
      ∧ Touches [.out, .gddr, .imp, .cores, .colo] s t)
    ∧ (∀ watts, unitsOn s = true → ∃ t, exec (.controlInterval watts) s = .next t
      ∧ t.imp.modLimit = entN s 0x2000 1 ∧ t.imp.dieLimit = entN s 0x2010 1
      ∧ t.imp.folios.length = s.imp.folios.length ∧ t.imp.limit = s.imp.limit ∧ Touches [.imp, .colo] s t)
    ∧ (unitsOn s = true → ∃ t, exec .currentLimit s = .next t ∧ t.imp.limit = true ∧ t.imp.limitAt = s.tb.ns
      ∧ t.imp.folios = s.imp.folios.map (fun x => if x.state = .ready then x else { x with op := max x.op 4 })
      ∧ Touches [.imp, .colo] s t)
    ∧ (unitsOn s = true → s.imp.limit = true → elapsed s s.imp.limitAt 1000000 = true →
      exec .currentLimitEnd s = .next { s with imp := { s.imp with limit := false } })
    ∧ (∀ die mem, let hard : Int := 1000 * Int.ofNat (entN s 0x2010 9)
      s.pwr.dieUp = true → tripped s die = false → ∃ t, exec (.thermalSample die mem) s = .next t
        ∧ t.imp.dieMc = die ∧ t.imp.memMc = mem
        ∧ t.imp.hotHold = (if hard ≤ die ∨ 100000 ≤ mem then true
            else if die < hard - 5000 ∧ mem < 95000 then false else s.imp.hotHold) ∧ Touches [.imp, .sec] s t)

/-- R242, R487, R495, R502, R504, R553: a step close closes the tags with COUNT = 1 and no other, raises STUCK at the limit and
increments STEP; WCLR clears WORST_ALL and WORST_STEP; a read of PROOF.ALARM takes the oldest record, and reads of
FORME.ACC_EVENTS and SPAN.LINK return their counts and clear them.
Where a clause goes beyond the rules it is the model's choice, and these entries say which: log 24. -/
def Obligations.ProofreaderClosesStepsAndReadsClear : Prop :=
  ∀ s : State,
    (∀ v, unitsOn s = true → bit v 0 = true →
      exec (.stepClose v) s = .next { s with proof := { s.proof with closing := true } })
    ∧ (closeReady s = true → tableWf tagDefault s.tbl.tags = true → (∀ p ∈ s.tbl.tags, p.1 < 4096) →
      ∃ t, exec .closeStep s = .next t ∧ t.proof.step = s.proof.step + 1 ∧ t.proof.closing = false
        ∧ (∀ g, (tagEntry s g).count = false → tagEntry t g = tagEntry s g)
        ∧ (∀ g, (tagEntry s g).count = true →
            let e := tagEntry s g
            let n : BitVec 16 := if e.elems = 0 then e.streak else if e.live then 0
              else BitVec.ofNat 16 (min 0xFFFF (e.streak.toNat + 1))
            let lim := if e.streakLim = 0 then entN s 0x4060 1 else e.streakLim.toNat
            let stuck := decide (e.elems ≠ 0) && !e.live && decide (n.toNat = lim)
            tagEntry t g = { e with
              streak := n, elems := 0, live := false, zero := 0, low := 0, high := 0, nonfin := 0, zlost := 0, flat := 0
              samples := 0, worst := 0, prev := BitVec.ofNat 320 (tagBits { e with streak := n } >>> 64)
              alarms := if stuck then e.alarms ||| 1 else e.alarms, almStep := if stuck then s.proof.step else e.almStep })
        ∧ { t.tbl with tags := s.tbl.tags } = s.tbl ∧ Touches [.out, .tbl, .proof, .cores, .colo] s t)
    ∧ (unitsOn s = true →
      (∀ tag : BitVec 12, tableWf tagDefault s.tbl.tags = true → ∃ t, exec (.wclr tag) s = .next t
        ∧ tagEntry t tag.toNat = { tagEntry s tag.toNat with worstAll := 0, worstStep := 0 }
        ∧ (∀ g, g ≠ tag.toNat → tagEntry t g = tagEntry s g) ∧ { t.tbl with tags := s.tbl.tags } = s.tbl ∧ Touches [.tbl] s t)
      ∧ (∀ a rest, s.proof.alarms = a :: rest → exec .proofAlarmRead s = .next { s with
          proof := { s.proof with alarms := rest }
          out := s.out ++ [.readData (pack [(a.tag.toNat, 0), (a.kind.toNat, 12), (a.step.toNat, 16), (1, 63)])] })
      ∧ (s.proof.alarms = [] → exec .proofAlarmRead s = .next { s with out := s.out ++ [.readData 0] })
      ∧ (∀ f, let e := (s.forme f).pu.events
          ∃ t, exec (.accEventsRead f) s = .next t ∧ (t.forme f).pu.events = ⟨0, 0, 0, 0⟩
            ∧ t.out = s.out ++ [.readData (pack [(e.ovf.toNat, 0), (e.nar.toNat, 16), (e.flush.toNat, 32), (e.flat.toNat, 48)])]
            ∧ OnlyForme f [.pu] s t ∧ Touches [.out, .formes] s t)
      ∧ (∀ p, ∃ t, exec (.spanLinkRead p) s = .next t ∧ t.span.ports[p] = { s.span.ports[p] with retries := 0 }
          ∧ t.out = s.out ++ [.readData (linkWord s.span.ports[p])]
          ∧ (∀ q, q ≠ p → t.span.ports[q] = s.span.ports[q]) ∧ { t.span with ports := s.span.ports } = s.span
          ∧ Touches [.out, .span] s t))

/-- R181, R429, R693 to R695, R710, R711: requests of retirement stay once set; RETIRE of an IDLE Forme takes effect at once;
split accesses store and load eight bytes with their parity bits, or are refused; GALLEY.FLIP takes its fields; a line check
leaves 0xAA bytes, and stuck bytes set HOLD.
Where a clause goes beyond the rules it is the model's choice, and these entries say which: log 41. -/
def Obligations.RetirementAndTestRegistersAct : Prop :=
  ∀ (f : FormeIx) (v : Word) (s : State), unitsOn s = true →
    let fm := s.forme f
    let mem := field v 24 2
    let o := field v 0 24 / 8 * 8
    let test1 : FormeTest := { fm.test with
      splitOff := BitVec.ofNat 24 (field v 0 24), splitMem := BitVec.ofNat 2 mem, splitRef := w1c fm.test.splitRef v 28 }
    let inMem := fm.fe.state = .idle ∧ (mem = 1 ∨ mem = 0 ∧ o < galleyBytes fm)
    let memOf (x : Forme) : ParMem := if mem = 0 then x.galley else x.quire
    (∃ t, exec (.pressRetire f v) s = .next t
      ∧ (t.forme f).pu = { fm.pu with retireRq := fm.pu.retireRq ||| BitVec.ofNat 4 (field v 0 4) }
      ∧ OnlyForme f [.pu] s t ∧ Touches [.formes] s t)
    ∧ (∃ t, exec (.bankRetire f v) s = .next t
      ∧ (t.forme f).test = (if fm.test.bankRet then fm.test
          else { fm.test with bank := BitVec.ofNat 5 (field v 0 5), bankRet := bit v 5 })
      ∧ OnlyForme f [.test] s t ∧ Touches [.formes] s t)
    ∧ (bit v 0 = true → ∃ t, exec (.formeRetire f v) s = .next t
      ∧ (t.forme f).test = { fm.test with
          retire := true, hold := w1c fm.test.hold v 2, retired := fm.test.retired || decide (fm.fe.state = .idle) }
      ∧ OnlyForme f [.test] s t ∧ Touches [.formes, .colo] s t)
    ∧ (bit v 26 = true → ∃ t, exec (.splitWrite f v) s = .next t
      ∧ (inMem → (t.forme f).test = (if bit v 27 then { test1 with
              splitData := BitVec.ofNat 64 (leNat ((memOf (t.forme f)).bytes o 8)), splitPar := splitPar (memOf (t.forme f)) o }
            else test1)
          ∧ memOf (t.forme f) = (List.range 8).foldl (fun m j =>
              m.putRaw (o + j) (BitVec.ofNat 8 (field fm.test.splitData (8 * j) 8)) (fm.test.splitPar.getLsbD j)) (memOf fm)
          ∧ (∀ x, (x < o ∨ o + 8 ≤ x) → (memOf (t.forme f)).byte x = (memOf fm).byte x))
      ∧ (¬ inMem → t.forme f = { fm with test := { test1 with splitRef := true } })
      ∧ OnlyForme f [if mem = 0 then .galley else .quire, .test] s t ∧ Touches [.formes] s t
      ∧ (bit v 27 = true → exec (.splitRead f v) s = .next t))
    ∧ (bit v 26 = false → bit v 27 = true → ∃ t, exec (.splitRead f v) s = .next t
      ∧ (inMem → (t.forme f).test = { test1 with
          splitData := BitVec.ofNat 64 (leNat ((memOf fm).bytes o 8)), splitPar := splitPar (memOf fm) o })
      ∧ (¬ inMem → (t.forme f).test = { test1 with splitRef := true })
      ∧ OnlyForme f [.test] s t ∧ Touches [.formes] s t)
    ∧ (bit v 17 = true → ∃ t, exec (.galleyFlip f v) s = .next t
      ∧ (t.forme f).test = { fm.test with
          flipByte := BitVec.ofNat 6 (field v 0 6), dmask := BitVec.ofNat 8 (field v 8 8), pflip := bit v 16, arm := true }
      ∧ OnlyForme f [.test] s t ∧ Touches [.formes] s t)
    ∧ (∀ a stuck, fm.fe.state = .idle → fm.line = some a →
      let q := decide (quireAddr f 0 ≤ a)
      let m := if q then fm.quire else fm.galley
      let b := a - (if q then quireAddr f 0 else galleyAddr f 0)
      ∃ t, exec (.lineCheck f stuck) s = .next t ∧ (t.forme f).line = none
        ∧ (if q then (t.forme f).quire else (t.forme f).galley) = m.putAll (placed b (List.replicate 64 0xAA))
        ∧ (t.forme f).test = { fm.test with hold := fm.test.hold || stuck.any (fun p => decide (p.1 < 64)) }
        ∧ (stuck.any (fun p => decide (p.1 < 64)) = false → t.fault = s.fault)
        ∧ OnlyForme f [if q then .quire else .galley, .line, .test] s t
        ∧ Touches [.out, .formes, .fault, .colo, .flash] s t)

/-- R6, R437, R439, R487, R504, R609, R611, R702, R703, R720: a register write changes the named fields of the register or table
word at its address and nothing else; sticky bits clear where a 1 is written; a read-only word, and an address without a
register, discard it. -/
def Obligations.RegisterWritesReachTheirRegister : Prop :=
  ∀ (addr : Addr) (v : Word) (s : State), unitsOn s = true →
    let c := exec (.registerWrite addr v) s
    let at_ (r : RegAddr) : Prop := regOf addr.toNat = some r
    (regOf addr.toNat = none → c = .next s)
    ∧ ((∃ o, at_ (.specimen o) ∨ at_ (.errorLog o) ∨ at_ (.extent o)) → c = .next s)
    ∧ (∀ f, at_ (.forme f 0x0000) → ∃ t, c = .next t ∧ OnlyForme f [.vu] s t ∧ Touches [.formes, .colo] s t
      ∧ let a := (s.forme f).vu.cvt
        (t.forme f).vu = { (s.forme f).vu with
          cvt := ⟨a.ovf && !bit v 0, a.nar && !bit v 1, a.flush && !bit v 2, a.srzero && !bit v 3⟩ })
    ∧ (∀ f, at_ (.forme f 0x0008) → ∃ t, c = .next t ∧ OnlyForme f [.vu] s t ∧ Touches [.formes, .colo] s t
      ∧ let a := (s.forme f).vu.vec
        (t.forme f).vu = { (s.forme f).vu with vec := ⟨a.zrow && !bit v 0, a.rsat && !bit v 1, a.qsat && !bit v 2,
          a.ftwrv && !bit v 3, a.ftpar && !bit v 4⟩ })
    ∧ (∀ f, at_ (.forme f 0x0030) → ∃ t, c = .next t ∧ OnlyForme f [.err] s t ∧ Touches [.formes, .colo] s t
      ∧ (t.forme f).err = { (s.forme f).err with valid := (s.forme f).err.valid && !bit v 63 })
    ∧ (∀ f, at_ (.forme f 0x1018) → ∃ t, c = .next t ∧ OnlyForme f [.test] s t ∧ Touches [.formes, .colo] s t
      ∧ (t.forme f).test = { (s.forme f).test with splitData := v })
    ∧ (at_ (.die 0x0500) → c = .next { s with
        proof := { s.proof with almint := bit v 2, closing := s.proof.closing || bit v 0 } })
    ∧ (at_ (.die 0x0E08) → c = .next { s with
        fault := { s.fault with ovf := s.fault.ovf &&& ~~~ BitVec.ofNat 12 (field v 0 12) } })
    ∧ (at_ (.die 0x0E10) → c = .next { s with
        fault := { s.fault with harts := BitVec.ofNat 8 (field v 0 8), hardInt := bit v 8 } })
    ∧ (at_ (.die 0x0E20) → c = .next { s with
        check := if s.check.busy then s.check else { s.check with addr := BitVec.ofNat 40 (field v 0 40) } })
    ∧ (∀ g, at_ (.tag g 0) → tableWf tagDefault s.tbl.tags = true → ∃ t, c = .next t
        ∧ (∀ h, h ≠ g → tagEntry t h = tagEntry s h) ∧ { t.tbl with tags := s.tbl.tags } = s.tbl ∧ Touches [.tbl] s t
        ∧ tagEntry t g = (if 16 < field v 8 5 ∨ 5 < field v 0 4 then tagEntry s g
            else { tagEntry s g with
              cls := BitVec.ofNat 4 (field v 0 4), count := bit v 4, sample := bit v 5, nfalarm := bit v 6
              shift := BitVec.ofNat 5 (field v 8 5), streakLim := BitVec.ofNat 16 (field v 16 16)
              ulpLim := BitVec.ofNat 16 (field v 32 16) }))
    ∧ (∀ n k, at_ (.region n k) → tableWf regionDefault s.tbl.regions = true → ∃ t, c = .next t
        ∧ tget regionDefault t.tbl.regions n
            = regionOfBits (setWordAt (regionBits (tget regionDefault s.tbl.regions n)) k v)
        ∧ (∀ m, m ≠ n → tget regionDefault t.tbl.regions m = tget regionDefault s.tbl.regions m)
        ∧ { t.tbl with regions := s.tbl.regions } = s.tbl ∧ Touches [.tbl] s t)
    ∧ (∀ n k, at_ (.window n k) → tableWf windowDefault s.tbl.windows = true → ∃ t, c = .next t
        ∧ tget windowDefault t.tbl.windows n
            = windowOfBits (setWordAt (windowBits (tget windowDefault s.tbl.windows n)) k v)
        ∧ (∀ m, m ≠ n → tget windowDefault t.tbl.windows m = tget windowDefault s.tbl.windows m)
        ∧ { t.tbl with windows := s.tbl.windows } = s.tbl ∧ Touches [.tbl] s t)

/-- R437, R625 to R627, R689: a core's load, fetch or store of GDDR7 goes through the caches: a line that is not there is
fetched, a store makes its line dirty and leaves GDDR7 alone; a write-back stores a dirty line; an invalidation drops one. Other
addresses are uncached: registers are read and written, and other sizes or alignments read zero or are discarded.
Where a clause goes beyond the rules it is the model's choice, and these entries say which: log 4, log 53. -/
def Obligations.CoresReachMemoryThroughTheirCaches : Prop :=
  ∀ (h : Fin 8) (a : BitVec 64) (size : BitVec 4) (v : Word) (s : State), unitsOn s = true →
    (size = 1 ∨ size = 2 ∨ size = 4 ∨ size = 8) → (∀ p ∈ s.cores.lines, p.2.bytes.length = 64) →
    let n := size.toNat
    let x := a.toNat
    let l := x / 64
    let run (k : CoreKind) := exec (.coreAccess h k a size v false) s
    let bytes (b : Nat → Byte) := Out.readData (BitVec.ofNat 64 (leNat ((List.range n).map (fun i => b (x + i)))))
    (gddrRange s.gddr x n = true → x < gddrBytes → (∀ m ∈ linesOf x n, (lineOf s m).isSome = true) →
      (∀ k, k = .load ∨ k = .fetch → run k = .next { s with out := s.out ++ [bytes (cachedByte s)] })
      ∧ ∃ t, run .store = .next t
        ∧ (∀ i, i < n → cachedByte t (x + i) = (leBytes n v.toNat).getD i 0 ∧ (lineOf t ((x + i) / 64)).any (·.dirty) = true)
        ∧ (∀ y, (y < x ∨ x + n ≤ y) → cachedByte t y = cachedByte s y)
        ∧ { t.cores with lines := s.cores.lines } = s.cores ∧ Touches [.cores] s t)
    ∧ (gddrRange s.gddr x n = true → x < gddrBytes → linesOf x n = [l] → lineOf s l = none →
        gddrLost s.gddr (64 * l) 64 = none → ∀ k, k = .load ∨ k = .fetch →
        run k = .next { s with
          cores := { s.cores with lines := tput s.cores.lines l ⟨gddrBytesAt s.gddr (64 * l) 64, false⟩ }
          out := s.out ++ [bytes (gddrByte s.gddr)] })
    ∧ (∀ line, lineOf s l = some line → line.dirty = true → gddrMapped s.gddr (64 * l) = true →
        run .writeBack = .next { s with
          gddr := gddrPutAll s.gddr (placed (64 * l) line.bytes)
          cores := { s.cores with lines := tput s.cores.lines l ⟨line.bytes, false⟩ } })
    ∧ run .inval = .next { s with cores := { s.cores with lines := tdel s.cores.lines l } }
    ∧ (gddrBytes ≤ x → n ≠ 8 ∨ x % 8 ≠ 0 → run .store = .next s
        ∧ ∀ k, k = .load ∨ k = .fetch → run k = .next { s with out := s.out ++ [.readData 0] })
    ∧ (∀ r, gddrBytes ≤ x → n = 8 → regOf x = some r → run .store = .next (writeReg s v r)
        ∧ ∀ k, k = .load ∨ k = .fetch → run k = .next (emit (regReadEffect s r) (.readData (regValue s r))))
    ∧ (gddrBytes ≤ x → n = 8 → x % 8 = 0 → regOf x = none → inFormeMem s x = false → ∀ k, k = .load ∨ k = .fetch ∨ k = .store →
        run k = .next { s with out := s.out ++ [.coreFault h] })
    ∧ (∀ line, lineOf s l = some line → line.dirty = false → ∃ t,
        exec (.coreAccess h .inval a size v true) s = .next t ∧ t.cores.lines = tdel (tdel s.cores.lines l) l
          ∧ t.fault.recs.getLast? = some ⟨s.fault.nextSeq, s.tb.ns, 5, 0, 15, 1, BitVec.ofNat 8 h.1, 0, BitVec.ofNat 40 (64 * l)⟩
          ∧ Touches [.out, .cores, .fault, .colo] s t)

/-- R471 to R473, R477, R480 to R483, R698: a GO retires a spare at once, starts the migration of a mapped extent to the
lowest spare, or is refused with its reason; the end of a migration copies the old extent and maps the new one; triggers of a
channel act, or wait while its controller retrains; three failed retrainings fence the die; a refresh changes nothing.
Where a clause goes beyond the rules it is the model's choice, and these entries say which: log 13, log 28, log 47. -/
def Obligations.Gddr7RetiresAndRetrains : Prop :=
  ∀ s : State,
    let r := s.gddr.ret
    let ent (t : State) (l : Nat) := extEntry t.gddr l
    let keeps (l m : Nat) (t : State) : Prop := ∀ k, k ≠ l → k ≠ m → ent t k = ent s k
    let recorded (l sp : Nat) (t : State) : Prop :=
      t.flash = (if s.sec.keyState = 2 then s.flash else { s.flash with retire := s.flash.retire ++ [(l, sp)] })
    let interrupts (t : State) : Prop := (t.cores.pending ||| t.cores.claimed).getLsbD 9 = true
    let chan (t : State) (c : Fin 80) := chanOf t.gddr c.1
    let taken (c : Fin 80) : Bool := (chan s c).dead || (chan s c).retraining || s.gddr.wait.contains c.1
    let begins (c : Fin 80) (t : State) : Prop := chan t c = { chan s c with retraining := true }
      ∧ (∀ d, d ≠ c → chan t d = chan s d) ∧ entN t 0x3020 7 = (entN s 0x3020 7 + 1) % 2 ^ 32
      ∧ { t.gddr with chans := s.gddr.chans } = s.gddr
    (tableWf extDefault s.gddr.ext = true → unitsOn s = true → ∀ v : Word,
      let l := field v 0 16
      let r1 : ExtRetire := { r with
        lext := BitVec.ofNat 16 l, done := w1c r.done v 18, refused := w1c r.refused v 19 }
      let refused (n : BitVec 4) : Prop := ∃ t, exec (.extRetireGo v) s = .next t
        ∧ t.gddr = { s.gddr with ret := { r1 with refused := true, rsn := n } } ∧ interrupts t
        ∧ Touches [.out, .gddr, .cores, .colo] s t
      (bit v 16 = false → exec (.extRetireGo v) s = .next { s with gddr := { s.gddr with ret := r1 } })
      ∧ (bit v 16 = true → r.busy = true → refused 1)
      ∧ (bit v 16 = true → r.busy = false → (ent s l).state = 3 → ∃ t, exec (.extRetireGo v) s = .next t
          ∧ ent t l = { ent s l with state := 4 } ∧ keeps l l t ∧ recorded l l t ∧ interrupts t
          ∧ t.gddr.ret = { r1 with done := true, newpext := (ent s l).pext }
          ∧ { t.gddr with ext := s.gddr.ext, ret := r } = s.gddr ∧ Touches [.out, .gddr, .cores, .colo, .flash] s t)
      ∧ (∀ sp, bit v 16 = true → r.busy = false → (ent s l).state = 1 → lowestSpare s.gddr = some sp →
          ∃ t, exec (.extRetireGo v) s = .next t ∧ ent t sp = { ent s sp with state := 4 }
          ∧ ent t l = { ent s l with state := 2 } ∧ keeps l sp t
          ∧ t.gddr.ret = { r1 with busy := true, moving := BitVec.ofNat 16 l, spare := BitVec.ofNat 16 sp }
          ∧ { t.gddr with ext := s.gddr.ext, ret := r } = s.gddr ∧ Touches [.gddr] s t)
      ∧ (bit v 16 = true → r.busy = false → (ent s l).state = 1 → lowestSpare s.gddr = none → refused 2)
      ∧ (bit v 16 = true → r.busy = false → (ent s l).state ≠ 1 → (ent s l).state ≠ 3 → refused 3))
    ∧ (tableWf extDefault s.gddr.ext = true → s.gddr.phys.wf = true → unitsOn s = true → r.busy = true →
      let l := r.moving.toNat
      let p := (ent s l).pext.toNat
      let q := (ent s r.spare.toNat).pext.toNat
      p ≠ q → ∃ t, exec .extMigrationComplete s = .next t
        ∧ ent t l = ⟨(ent s r.spare.toNat).pext, 1, 0, false⟩ ∧ keeps l l t ∧ interrupts t
        ∧ t.gddr.ret = { r with busy := false, done := true, newpext := (ent s r.spare.toNat).pext }
        ∧ (∀ i, i < extBytes → t.gddr.phys.byte (q * extBytes + i) = s.gddr.phys.byte (p * extBytes + i))
        ∧ (∀ a, (a < q * extBytes ∨ q * extBytes + extBytes ≤ a) → t.gddr.phys.byte a = s.gddr.phys.byte a)
        ∧ recorded l r.spare.toNat t ∧ Touches [.out, .gddr, .cores, .fault, .colo, .flash] s t)
    ∧ (tableWf chanDefault s.gddr.chans = true → tableWf (entDefault s.build s.dieIndex) s.colo.ent = true → ∀ c : Fin 80,
      (unitsOn s = true → taken c = true → exec (.channelRetrain c) s = .next s)
      ∧ (unitsOn s = true → taken c = false → controllerBusy s.gddr (c.1 / 8) = true →
          exec (.channelRetrain c) s = .next { s with gddr := { s.gddr with wait := s.gddr.wait ++ [c.1] } })
      ∧ (unitsOn s = true → taken c = false → controllerBusy s.gddr (c.1 / 8) = false →
          ∃ t, exec (.channelRetrain c) s = .next t ∧ begins c t ∧ Touches [.gddr, .colo] s t)
      ∧ (retrainDue s c = true → exec (.retrainTimer c) s = exec (.channelRetrain c) s)
      ∧ (retrainFinishReady s c = true →
          (c.1 ∉ s.gddr.wait → ∃ t, exec (.channelRetrainFinish c true) s = .next t ∧ t.gddr.phys = s.gddr.phys
            ∧ chan t c = { chan s c with retraining := false, fails := 0, trainedAt := s.tb.ns } ∧ Touches [.gddr, .colo] s t)
          ∧ ((chan s c).fails < 2 → ∃ t, exec (.channelRetrainFinish c false) s = .next t
            ∧ (chan t c).fails = (chan s c).fails + 1 ∧ (chan t c).dead = false ∧ t.gddr.phys = s.gddr.phys
            ∧ ((chan t c).retraining = true ∨ c.1 ∈ t.gddr.wait) ∧ Touches [.gddr, .colo] s t)
          ∧ (2 ≤ (chan s c).fails → ∃ t, exec (.channelRetrainFinish c false) s = .next t
            ∧ (chan t c).dead = true ∧ (chan t c).retraining = false ∧ t.fault.fenced = true ∧ t.fault.reason = 4
            ∧ t.gddr.phys = s.gddr.phys
            ∧ Touches [.out, .formes, .gddr, .span, .abut, .cores, .svc, .fault, .colo, .boot, .flash, .pwr] s t))
      ∧ ∀ b, exec (.refresh c b) s = .next s)

/-- R521, R522, R525 to R528, R530 to R532: a measurement sets the delay, the offset and LOCKED; an arrival arms the barrier and
is sent to the root, or joins the arrivals that the root holds; the last one sets the release time; a release signals TOKEN on
the selected Formes; CANCEL, a timeout and an abort packet abort the barrier; old arrivals are discarded.
Where a clause goes beyond the rules it is the model's choice, and these entries say which: log 14, log 30, log 31. -/
def Obligations.KeystoneArrivesReleasesAndAborts : Prop :=
  ∀ (b : Fin 4) (s : State),
    let x := s.bars[b]
    let others (t : State) : Prop := ∀ c, c ≠ b → t.bars[c] = s.bars[c]
    let aborts (x : Bar) (t : State) : Prop := t.bars[b] = { x with armed := false, aborted := true, relTime := none, arrivals := [] }
      ∧ others t ∧ (t.cores.pending ||| t.cores.claimed).getLsbD 11 = true
      ∧ Touches [.out, .bars, .span, .cores, .colo] s t
    let released (time : Word) (late : Bool) (t : State) : Prop :=
      t.bars[b] = { x with armed := false, released := true, late := x.late || late, time := time, relTime := none }
      ∧ others t ∧ (t.cores.pending ||| t.cores.claimed).getLsbD 11 = true
      ∧ (∀ f : FormeIx, t.forme f = if x.formes.getLsbD f.1 && formeBusy (s.forme f) && isExt (s.forme f) x.token
          then { s.forme f with tok := vmod (s.forme f).tok x.token.toFin (· + 1) } else s.forme f)
    (∀ (p : Fin 11) (delay : BitVec 16) (offset : BitVec 32), unitsOn s = true → portUp s.span.ports[p] = true →
      let off : BitVec 32 := if s.tb.master = s.span.dieId then 0 else offset
      ∃ t, exec (.timebaseMeasure p delay offset) s = .next t
        ∧ t.tb = { s.tb with offsetPs := off, locked := decide ((toSigned 32 off.toNat).natAbs ≤ 750) }
        ∧ t.span.ports[p] = { s.span.ports[p] with delay := delay } ∧ (∀ q, q ≠ p → t.span.ports[q] = s.span.ports[q])
        ∧ { t.span with ports := s.span.ports } = s.span ∧ Touches [.tb, .span] s t)
    ∧ (∀ v : Word,
      let y : Bar := { x with
        released := w1c x.released v 42, late := w1c x.late v 43, error := w1c x.error v 44, aborted := w1c x.aborted v 45
        root := BitVec.ofNat 12 (field v 0 12), pm1 := BitVec.ofNat 12 (field v 12 12)
        token := BitVec.ofNat 4 (field v 24 4), formes := BitVec.ofNat 12 (field v 28 12) }
      let own : Arrival := ⟨s.span.dieId, s.tb.ns, y.root, y.pm1, s.tb.ns⟩
      let keep := x.arrivals.filter (fun a => decide (a.root = y.root) && decide (a.pm1 = y.pm1))
      let z : Bar := { y with armed := true, armedAt := s.tb.ns, relTime := none }
      (∀ p, arriveReady s b v = true → bit v 46 = false → y.root ≠ s.span.dieId →
        let u : State := { s with bars := vset s.bars b z }
        let pk := keystonePacket u b 0 y.root s.tb.ns y
        routePacket u pk none = .inr p →
        exec (.keystoneArrive b v) s = .next (enqueuePort u p (sealPacket pk)))
      ∧ (arriveReady s b v = true → bit v 46 = false → y.root = s.span.dieId →
        (∀ a ∈ x.arrivals, a.die ≠ s.span.dieId) → ∃ t, exec (.keystoneArrive b v) s = .next t
          ∧ t.bars[b] = (if keep.length = y.pm1.toNat then { z with
                error := y.error || decide (keep.length < x.arrivals.length), arrivals := []
                relTime := some (BitVec.ofNat 64 (((keep ++ [own]).map (fun a => a.time.toNat)).foldl max 0 + entN s 0x5010 5)) }
              else { z with error := y.error || decide (keep.length < x.arrivals.length), arrivals := keep ++ [own] })
          ∧ others t ∧ Touches [.out, .bars, .span, .cores, .colo] s t)
      ∧ (unitsOn s = true → bit v 46 = true → bit v 40 = false → x.armed = true → ∃ t, exec (.cancel b v) s = .next t
          ∧ aborts { x with released := w1c x.released v 42, late := w1c x.late v 43, error := w1c x.error v 44 } t)
      ∧ (unitsOn s = true → bit v 46 = true → bit v 40 = false → x.armed = false → ∃ t, exec (.cancel b v) s = .next t ∧ aborts y t))
    ∧ (∀ time, releaseReady s b = true → x.relTime = some time → ∃ t, exec (.keystoneRelease b) s = .next t
        ∧ released time false t ∧ Touches [.out, .formes, .bars, .cores, .colo] s t)
    ∧ (unitsOn s = true → x.armed = true → entN s 0x5010 6 ≠ 0 → elapsed s x.armedAt (1000 * entN s 0x5010 6) = true →
        ∃ t, exec (.keystoneTimeout b) s = .next t ∧ aborts x t)
    ∧ (∀ die, expiryReady s b die = true → ∃ t, exec (.arrivalExpiry b die) s = .next t
        ∧ t.bars[b] = { x with arrivals := x.arrivals.filter (fun a => decide (a.die ≠ die)) } ∧ others t ∧ Touches [.bars] s t)
    ∧ (∀ p k, unitsOn s = true → waitingPacket s p 7 = some k → k.dst = s.span.dieId → hcrcOk k = true → pcrcOk k = true →
        k.aux.toNat % 4 = b.1 →
        let time : Word := BitVec.ofNat 64 (leNat (k.payload.take 8))
        let arrival : Arrival := ⟨k.src, time, BitVec.ofNat 12 (leNat ((k.payload.drop 8).take 2)),
          BitVec.ofNat 12 (leNat ((k.payload.drop 10).take 2)), s.tb.ns⟩
        let gives (q : State → Prop) : Prop := ∃ t, exec (.keystone p) s = .next t ∧ q t
          ∧ Touches [.out, .formes, .bars, .span, .cores, .colo] s t
        (k.aux.getLsbD 3 = true → x.armed = true → gives (aborts x))
        ∧ (k.aux.getLsbD 3 = false → k.aux.getLsbD 2 = true → x.armed = true → time < s.tb.ns → gives (released time true))
        ∧ (k.aux.getLsbD 3 = false → k.aux.getLsbD 2 = true → x.armed = true → ¬ time < s.tb.ns →
            gives (fun t => t.bars[b] = { x with relTime := some time } ∧ others t))
        ∧ (k.aux.getLsbD 3 = false → k.aux.getLsbD 2 = false → x.armed = false → (∀ a ∈ x.arrivals, a.die ≠ k.src) →
            gives (fun t => t.bars[b] = { x with arrivals := x.arrivals ++ [arrival] } ∧ others t))
        ∧ (x.armed = false → (k.aux.getLsbD 3 = true ∨ k.aux.getLsbD 2 = true) → gives (fun t => t.bars = s.bars)))

/-- R539, R540, R542, R543, R549 to R551, R553 to R558: a frame in sequence is delivered once and a bad one is answered with
NAK; links train, go down, retrain and are held; a route entry that the die does not own takes a legal write; a MARK record
is appended to the Impression log, or discarded while the log is off or full under HOLD.
Where a clause goes beyond the rules it is the model's choice, and these entries say which: log 14, log 32. -/
def Obligations.SpanLinksDeliverTrainAndHold : Prop :=
  ∀ (p : Fin 11) (s : State), unitsOn s = true →
    let x := s.span.ports[p]
    let only (t : State) : Prop := (∀ q, q ≠ p → t.span.ports[q] = s.span.ports[q]) ∧ { t.span with ports := s.span.ports } = s.span
    (∀ fr : SpanFrame, portUp x = true → fr.crcOk = true → fr.fecUncorrected = 0 → fr.packets ≠ [] → fr.seq = x.rxSeq →
      ∃ t, exec (.spanFrameReceive p fr) s = .next t ∧ (t.span.ports[p]).rx = x.rx ++ fr.packets
        ∧ (t.span.ports[p]).rxSeq = x.rxSeq + 1 ∧ Out.spanAck p fr.seq false ∈ t.out ∧ only t
        ∧ Touches [.out, .tbl, .span, .colo] s t)
    ∧ (∀ fr : SpanFrame, portUp x = true → fr.crcOk = false ∨ fr.fecUncorrected ≠ 0 →
      ∃ t, exec (.spanFrameReceive p fr) s = .next t ∧ t.span = s.span
        ∧ t.out = s.out ++ [.spanAck p (x.rxSeq - 1) true] ∧ Touches [.out, .colo] s t)
    ∧ (portUp x = true → 8 ≤ x.tries → ∃ t, exec (.linkRetrain p) s = .next t
        ∧ t.span.ports[p] = { x with st := 1, tries := 0 } ∧ only t ∧ Touches [.span, .colo] s t)
    ∧ (trainAllowed s = true → x.st = 0 → x.hold = false → ∃ t, exec (.trainingSignalDetected p) s = .next t
        ∧ t.span.ports[p] = { x with st := 1 } ∧ only t ∧ Touches [.span] s t)
    ∧ (∀ r : TrainReport, x.st = 1 → r.ok = false →
        (x.fails < 2 → ∃ t, exec (.linkTrainingComplete p r) s = .next t
          ∧ t.span.ports[p] = { x with fails := x.fails + 1 } ∧ only t ∧ Touches [.span] s t)
        ∧ (2 ≤ x.fails → ∃ t, exec (.linkTrainingComplete p r) s = .next t ∧ only t ∧ t.fault.nextSeq = s.fault.nextSeq + 1
          ∧ t.span.ports[p] = { x with fails := 0, st := 4, hreason := 3, lanes := 0, enc := false }))
    ∧ (∀ r : TrainReport, x.st = 1 → r.ok = true → encPeer s p = none →
        (farCollides s p r.farId = true → ∃ t, exec (.linkTrainingComplete p r) s = .next t ∧ only t
          ∧ t.span.ports[p] = { x with st := 4, hreason := 2, lanes := 0, enc := false } ∧ Touches [.tbl, .span] s t)
        ∧ (farCollides s p r.farId = false → x.hold = false → ∃ t, exec (.linkTrainingComplete p r) s = .next t ∧ only t
          ∧ (∃ q w n, t.span.ports[p] = { x with
              st := if r.lanes = (if 7 ≤ p.1 then 2 else 4) then 2 else 3, lanes := r.lanes, farId := r.farId
              farPort := r.farPort, delay := r.delay, enc := false, hreason := 0, fails := 0, tries := 0
              txq := q, replay := w, txSeq := n })
          ∧ (r.farId < s.tb.master → t.tb.master = r.farId ∧ t.tb.ns = BitVec.ofNat 64 r.masterNs)))
    ∧ (portUsable x = true → ∃ t, exec (.linkDown p) s = .next t
        ∧ t.span.ports[p] = { x with st := 0, lanes := 0, enc := false } ∧ only t ∧ Touches [.tbl, .span] s t)
    ∧ (∀ v : Word,
        (bit v 7 = true → ∃ t, exec (.linkHold p v) s = .next t ∧ only t ∧ Touches [.tbl, .span] s t
          ∧ t.span.ports[p] = (if x.replay = [] ∧ x.st ≠ 4 then { x with hold := true, st := 4, hreason := 1, lanes := 0, enc := false }
              else { x with hold := true }))
        ∧ (bit v 7 = false → x.st = 4 → x.hreason = 1 → ∃ t, exec (.linkHold p v) s = .next t ∧ only t
          ∧ t.span.ports[p] = { x with hold := false, st := 0, hreason := 0 } ∧ Touches [.span] s t)
        ∧ (bit v 7 = false → ¬ (x.st = 4 ∧ x.hreason = 1) → ∃ t q w n, exec (.linkHold p v) s = .next t ∧ only t
          ∧ t.span.ports[p] = { x with hold := false, txq := q, replay := w, txSeq := n } ∧ Touches [.out, .span] s t))
    ∧ (∀ (id : BitVec 12) (v : Word), tableWf routeDefault s.tbl.routes = true →
        let bad := (routeOf s id).own = true ∨ bit v 16 = true ∧ field v 0 11 = 0
        (bad → exec (.routeEntryWrite id v) s = .next s)
        ∧ (¬ bad → ∃ t, exec (.routeEntryWrite id v) s = .next t
          ∧ routeOf t id = ⟨BitVec.ofNat 11 (field v 0 11), bit v 16, bit v 17, false⟩
          ∧ (∀ i, i ≠ id → routeOf t i = routeOf s i) ∧ { t.tbl with routes := s.tbl.routes } = s.tbl ∧ Touches [.tbl] s t))
    ∧ (∀ v : Word,
        (entN s 0x7010 1 ≠ 1 → exec (.impressionAppend v) s = .next s)
        ∧ (∀ bs, entN s 0x7010 1 = 1 → appendPayload s v = some bs →
            let n := 64 + roundUp bs.length 64
            let lay := layRecord (entN s 0x7010 3) n s.log.wpos
            (64 + n ≤ entN s 0x7010 3 → keptHit s lay.1 = 0 → ∃ t, exec (.impressionAppend v) s = .next t
              ∧ t.log = { s.log with
                  head := s.log.head + 1, wpos := lay.2.2
                  recs := s.log.recs.filter (fun r => !overwrites lay.1 r) ++ [⟨s.log.head, lay.2.1, n⟩] }
              ∧ Touches [.out, .gddr, .log] s t)
            ∧ (64 + n ≤ entN s 0x7010 3 → keptHit s lay.1 ≠ 0 → entN s 0x7010 4 = 0 → exec (.impressionAppend v) s = .next s)))

/-- R438, R452, R561, R563, R565 to R568, R593: a packet for another die is forwarded with HOPS one lower; one whose HCRC fails
is discarded and counted; one whose PCRC fails is answered with NACK CORRUPT, unless it is an answer itself; then a WRITE stores
and counts its bytes and the last one is acknowledged, a READ_REQ is answered with READ_RESP, a READ_RESP brings its piece to
the copy or table load that waits for it, an ACK completes a copy's writes, a NACK fails its copy or asks for a packet again, and
an ETHFWD packet carries a frame.
Where a clause goes beyond the rules it is the model's choice, and these entries say which: log 14, log 27. -/
def Obligations.SpanPacketsReachTheirCopies : Prop :=
  ∀ (p : Fin 11) (k : SpanPacket) (s : State), unitsOn s = true →
    let here (n : Nat) : Prop := waitingPacket s p n = some k ∧ k.dst = s.span.dieId ∧ hcrcOk k = true ∧ pcrcOk k = true
    (∀ c n, (c, n) ∈ [(Instr.spanWrite p, 1), (.spanReadReq p, 2), (.spanReadResp p, 3), (.spanAck p, 4), (.spanNack p, 5), (.ethfwd p, 8)] →
      waitingPacket s p n = some k →
      let u := takePacket s p n
      ((u.span.ports[p]).rx = eraseFirst (fun x => decide (x.typ.toNat = n)) (s.span.ports[p]).rx
          ∧ (∀ q, q ≠ p → u.span.ports[q] = s.span.ports[q]) ∧ { u.span with ports := s.span.ports } = s.span ∧ Touches [.span] s u)
      ∧ (∀ q, k.dst ≠ s.span.dieId → knownFenced u k.dst = false → 1 < k.hops → choosePort u k (some p) = some q →
          exec c s = .next (enqueuePort u q (hopPacket k)))
      ∧ (k.dst = s.span.dieId → hcrcOk k = false → ∃ t, exec c s = .next t ∧ t.span = u.span ∧ Touches [.span, .colo] s t
          ∧ (tableWf (entDefault s.build s.dieIndex) s.colo.ent = true → entN t 0x5020 7 = (entN s 0x5020 7 + 1) % 2 ^ 32))
      ∧ (k.dst = s.span.dieId → hcrcOk k = true → pcrcOk k = false →
          (n = 1 ∨ n = 2 ∨ n = 8 → k.typ.toNat = n → exec c s = .next (sendNack u k .corrupt)) ∧ (n = 4 ∨ n = 5 → exec c s = .next u)))
    ∧ (here 1 →
        let u := takePacket s p 1
        let x := countPartial (partialOf u k) k
        let v := localPutAll u (placed k.addr.toNat k.payload)
        (∀ a r, remoteErr u k.addr.toNat k.payload.length = some (a, r) → exec (.spanWrite p) s = .next (refuseAt u k a r))
        ∧ (remoteErr u k.addr.toNat k.payload.length = none → x.total ≠ some x.count → ∃ t, exec (.spanWrite p) s = .next t
            ∧ t.formes = v.formes ∧ t.gddr = v.gddr ∧ t.span.part = otherPartials u k ++ [x] ∧ t.span.ports = u.span.ports)
        ∧ (remoteErr u k.addr.toNat k.payload.length = none → x.total = some x.count → x.rsen = false →
            let w : State := { v with span := { v.span with part := otherPartials u k } }
            exec (.spanWrite p) s = .next (spanSend w (copyAck w k x.count)).1))
    ∧ (here 2 →
        let u := takePacket s p 2
        let n := k.aux.toNat % 8192
        (n = 0 ∨ 4096 < n → exec (.spanReadReq p) s = .next u)
        ∧ (∀ a r, n ≠ 0 → n ≤ 4096 → remoteErr u k.addr.toNat n = some (a, r) → exec (.spanReadReq p) s = .next (refuseAt u k a r))
        ∧ (n ≠ 0 → n ≤ 4096 → remoteErr u k.addr.toNat n = none → readErr u [(k.addr.toNat, n)] = none →
            ∃ l, exec (.spanReadReq p) s = .next (sendSealed
                { u with span := { u.span with served := ({ k with payload := [] }, n) :: l } }
                (responsePacket u k (localBytes u k.addr.toNat n) false))))
    ∧ (here 3 →
        let u := takePacket s p 3
        (∀ f l, forLoad k = true → packetForme k = some f → (s.forme f).vu.ftLoad = some l → l.started = true →
          ∃ t, exec (.spanReadResp p) s = .next t ∧ OnlyForme f [.vu] s t ∧ Touches [.formes, .span] s t
            ∧ (t.forme f).vu.ftLoad = some { l with data := (placed k.addr.toNat k.payload).foldl (fun t p => tput t p.1 p.2) l.data })
        ∧ (forLoad k = false → packetCar s k = none → exec (.spanReadResp p) s = .next u)
        ∧ (∀ f c ps, forLoad k = false → packetCar s k = some (f, c) → (carOf s f c).phase = .reading ps →
            (k.addr.toNat, k.payload.length) ∈ ps → eraseFirst (fun q => decide (q.1 = k.addr.toNat)) ps ≠ [] → ps.length < 64 →
            exec (.spanReadResp p) s = .next (pumpCopies (modCar u f c (fun x => { x with
              data := (placed k.addr.toNat k.payload).foldl (fun t p => tput t p.1 p.2) x.data
              phase := .reading (eraseFirst (fun q => decide (q.1 = k.addr.toNat)) ps) })))))
    ∧ (here 4 → ∀ f c ps, k.sforme ≠ 15 → packetCar s k = some (f, c) → (carOf s f c).phase = .acking ps →
        ∃ t, exec (.spanAck p) s = .next t ∧ OnlyForme f [.carr] s t ∧ Touches [.formes, .span] s t
          ∧ carOf t f c = { addBytes (carOf s f c) k.total.toNat with phase := .written, remote := false, data := [] }
          ∧ (∀ d, d ≠ c → carOf t f d = carOf s f d))
    ∧ (here 5 →
        let u := takePacket s p 5
        (k.aux.getLsbD 4 = false → k.sforme ≠ 15 → forLoad k = false →
          (packetCar s k = none → exec (.spanNack p) s = .next u)
          ∧ (∀ f c, packetCar s k = some (f, c) → fieldN k.aux.toNat 0 4 ≠ 5 → exec (.spanNack p) s = .next (pumpCopies (failCopy u f c)))
          ∧ (∀ f c, packetCar s k = some (f, c) → fieldN k.aux.toNat 0 4 = 5 →
              exec (.spanNack p) s = .next (copyCorrupt u f c k.addr.toNat (backPort u k))))
        ∧ (∀ f l, k.aux.getLsbD 4 = false → k.sforme ≠ 15 → forLoad k = true → packetForme k = some f → (s.forme f).vu.ftLoad = some l →
            (fieldN k.aux.toNat 0 4 = 5 → exec (.spanNack p) s = .next (spanSend u (loadRequest u f l (k.aux.toNat / 65536 - 0x8000))).1)
            ∧ (fieldN k.aux.toNat 0 4 ≠ 5 →
                exec (.spanNack p) s = .next (progError (dropLoad u f l) f .address (queueCode .fq) 0 l.index))))
    ∧ (here 8 →
        let u := takePacket s p 8
        let dir := k.addr.toNat % 2
        let mine := fun (x : BitVec 12 × Nat × List Byte) => decide (x.1 = k.src) && decide (x.2.1 = dir)
        k.aux.getLsbD 0 = false → k.aux.getLsbD 1 = false →
          (k.last = false → ∃ t, exec (.ethfwd p) s = .next t ∧ Touches [.span, .abut] s t ∧ t.span = u.span
            ∧ t.abut = { s.abut with pieces := s.abut.pieces.filter (fun x => !mine x) ++ [(k.src, dir, k.payload)] })
          ∧ (k.last = true → dir = 1 → s.abut.link ≠ 3 → exec (.ethfwd p) s = .next u)
          ∧ (k.last = true → dir = 1 → s.abut.link = 3 → leNat (k.payload.take 8) % 2 = 0 → ∃ t, exec (.ethfwd p) s = .next t
            ∧ t.out = s.out ++ [.ethRaw k.src false (BitVec.ofNat 32 (leNat (k.payload.take 8) / 2 ^ 32)) (k.payload.drop 8)]
            ∧ t.span = u.span ∧ Touches [.out, .span] s t)
          ∧ (k.last = true → dir = 0 → exec (.ethfwd p) s = .next (forwardedIn u k.payload)))

/-- R575 to R577, R579, R580, R582, R585, R586: GO clears the result flags; a descriptor that the engine refuses fails the slot
with its code, a legal one starts it; an announcement is kept until a slot takes it, refused when the table is full, and fails
a slot whose descriptor disagrees; data fills its transfer, which is acknowledged when whole; a refused announcement is sent
again; completion stores the results, signals the tokens and sets DONE; a slot that is BUSY for too long fails with TIMEOUT. A
failure and a completion raise the interrupt of the collectives.
Where a clause goes beyond the rules it is the model's choice, and these entries say which: log 4, log 14, log 33. -/
def Obligations.CollectivesRunToDoneOrFail : Prop :=
  ∀ (i : Fin 8) (s : State), unitsOn s = true →
    let x := s.coll.slots[i]
    let others (t : State) : Prop := (∀ k, k ≠ i → t.coll.slots[k] = s.coll.slots[k])
    let irqs (t : State) : Prop := (t.cores.pending ||| t.cores.claimed).getLsbD 3 = true
    let fails (y : CollSlot) (code : BitVec 3) (t : State) : Prop :=
      t.coll.slots[i] = { y with busy := false, fail := true, fcode := code, job := none } ∧ others t ∧ irqs t
    (∀ v : Word, bit v 40 = true → x.busy = false →
      let a := field v 0 40
      let y : CollSlot := { x with
        daddr := BitVec.ofNat 40 a, done := w1c x.done v 42, fail := w1c x.fail v 43, ovf := false, nar := false, flush := false
        busy := true, job := none }
      (a % 64 ≠ 0 → ∃ t, exec (.collGo i v) s = .next t ∧ fails y 1 t)
      ∧ (a % 64 = 0 → gddrRange s.gddr a 64 = false → ∃ t, exec (.collGo i v) s = .next t ∧ fails y 3 t)
      ∧ (∀ c, goCheck s a = .inl c → ∃ t, exec (.collGo i v) s = .next t ∧ fails y (BitVec.ofNat 3 c) t)
      ∧ (∀ j, goCheck s a = .inr j →
          let j1 := primeJob s j
          let u := modSlot s i (fun _ => { y with job := some { j1 with recvs := j1.recvs.map (fun x => { x with invited := true }) } })
          exec (.collGo i v) s = .next (collProgress (takeKept (announceAll u i j1) i j.collId) i)))
    ∧ (∀ p k, waitingPacket s p 6 = some k → k.dst = s.span.dieId → hcrcOk k = true → pcrcOk k = true → k.aux.getLsbD 16 = true →
        let u := takePacket s p 6
        (slotOf s (annOf k).collId = none → s.coll.anns.length < 64 → ∃ t, exec (.collAnnouncement p) s = .next t
            ∧ t.coll = { s.coll with anns := s.coll.anns ++ [annOf k] } ∧ t.span = u.span ∧ Touches [.span, .coll] s t)
        ∧ (slotOf s (annOf k).collId = none → 64 ≤ s.coll.anns.length → exec (.collAnnouncement p) s = .next (sendNack u k .noaccess))
        ∧ (∀ j, slotOf s (annOf k).collId = some i → x.job = some j → annAgrees j (annOf k) = false →
            ∃ t, exec (.collAnnouncement p) s = .next t ∧ fails x 4 t)
        ∧ (∀ j, slotOf s (annOf k).collId = some i → x.job = some j → annAgrees j (annOf k) = true →
            exec (.collAnnouncement p) s = .next (collProgress (modJob u i (fun q => { q with
              sends := modifyFirst (fun y => decide (y.peer = k.src) && decide (y.off = k.addr.toNat)) (fun y => { y with invited := true }) j.sends })) i)))
    ∧ (∀ p k, waitingPacket s p 6 = some k → k.dst = s.span.dieId → hcrcOk k = true → pcrcOk k = true → k.aux.getLsbD 16 = false →
        let u := takePacket s p 6
        (slotOf s (BitVec.ofNat 32 k.total.toNat) = none → exec (.collData p) s = .next u)
        ∧ (∀ j n y, slotOf s (BitVec.ofNat 32 k.total.toNat) = some i → x.job = some j → recvIx j k = some n → j.recvs[n]? = some y →
            let data := (placed k.addr.toNat k.payload).foldl (fun t p => tput t p.1 p.2) y.data
            let w := modJob u i (fun q => { q with
              recvs := modNth q.recvs n (fun x => { x with data := data })
              flags := if fieldN k.aux.toNat 17 3 = 0 ∨ j.unit y = 0 then q.flags
                else tmod (fun _ => 0) q.flags (k.addr.toNat / j.unit y) (· ||| fieldN k.aux.toNat 17 3) })
            exec (.collData p) s = .next (collProgress
              (if data.length = y.bytes then (spanSend w (collAck w k y.off y.bytes)).1 else w) i)))
    ∧ (∀ peer j, x.job = some j → (∃ y ∈ j.recvs, y.peer = peer ∧ y.invited = false) →
        let u := modJob s i (fun j => { j with recvs := j.recvs.map (fun x => if x.peer = peer then { x with invited := true } else x) })
        exec (.announceRepeat i peer) s = .next ((j.recvs.filter (fun x => decide (x.peer = peer) && !x.invited)).foldl
          (fun t x => collSend t i (announcement t i j x)) u))
    ∧ (∀ j, x.busy = true → x.job = some j → (∀ y ∈ j.recvs, y.done = true) → (∀ y ∈ j.sends, y.done = true) →
        ∃ t, exec (.collComplete i) s = .next t ∧ others t ∧ irqs t
          ∧ t.coll.slots[i] = { x with
              busy := false, done := true, ovf := j.outFlags.testBit 0, nar := j.outFlags.testBit 1, flush := j.outFlags.testBit 2
              job := none }
          ∧ t.gddr = (localPutAll s (placed j.dst j.output)).gddr
          ∧ (∀ f : FormeIx, t.forme f =
              let fm := (localPutAll s (placed j.dst j.output)).forme f
              if j.formes.getLsbD f.1 && formeBusy fm && isExt fm j.token then { fm with tok := vmod fm.tok j.token.toFin (· + 1) } else fm)
          ∧ Touches [.out, .formes, .gddr, .tbl, .coll, .cores, .colo] s t)
    ∧ (∀ j, x.busy = true → x.job = some j → entN s 0x5030 3 ≠ 0 → j.started.toNat + 1000 * entN s 0x5030 3 < s.tb.ns.toNat →
        ∃ t, exec (.collTimeout i) s = .next t ∧ fails x 6 t)

/-- R589 to R592, R594, R596, R597, R616, R623: a frame that R589 or R590 does not admit is discarded and counted; an admitted one
for another served die is forwarded, one for a die that the port does not serve is passed by, and a RoCEv2 packet of this die
joins the engine's queue; the link takes its new state; forwarding ends 1 ms after the default partner rejoined; the ingress
buffer drains the oldest packet of its highest class.
Where a clause goes beyond the rules it is the model's choice, and these entries say which: log 14, log 18, log 34. -/
def Obligations.AbutmentTakesFramesAndDrains : Prop :=
  ∀ s : State, unitsOn s = true →
    (∀ fr : EthFrame, s.abut.link = 3 →
      let discards : Prop := ∃ t, exec (.ethFrameReceive fr) s = .next t ∧ Touches [.colo] s t
        ∧ (tableWf (entDefault s.build s.dieIndex) s.colo.ent = true → entN t 0x6030 1 = (entN s 0x6030 1 + 1) % 2 ^ 64)
      (4220 < fr.bytes.length ∨ fr.fcsOk = false ∨ fr.twoTags = true ∨ fr.body = .pause ∨ fr.body = .fragment ∨ fr.body = .other true
          ∨ (∃ v, fr.vlan = some v ∧ v.toNat ≠ entN s 0x6000 5) → discards)
      ∧ (frameAdmitted s fr = true → frameShared fr.body = false →
        (fr.dst ≠ macOf s.dieIndex.1 →
          ((∀ d, forwardsFor s d = true → macOf d.1 ≠ fr.dst) → exec (.ethFrameReceive fr) s = .next s)
          ∧ (∀ d, (forwardDies s).find? (fun d => decide (macOf d.1 = fr.dst)) = some d →
              exec (.ethFrameReceive fr) s = .next (ethToOwner s d.1 fr.ect fr.time fr.bytes)))
        ∧ (fr.dst = macOf s.dieIndex.1 →
          (∀ ip p, fr.body = .roce ip p →
            (ownIp s ip = false ∨ p.icrcOk = false → exec (.ethFrameReceive fr) s = .next s)
            ∧ (ownIp s ip = true → p.icrcOk = true → 2 ≤ p.qpn.toNat → p.qpn.toNat < 16384 →
              (p.kind = .otherTransport → discards)
              ∧ (p.kind ≠ .otherTransport → p.ce = false → fr.ect = false → ∃ t, exec (.ethFrameReceive fr) s = .next t
                ∧ t.abut = { s.abut with rx := s.abut.rx ++ [{ p with time := fr.time }] } ∧ Touches [.abut] s t)))
          ∧ (fr.body = .other false → (cqOf s 0).active = false → discards))))
    ∧ (∀ l : BitVec 2, s.abut.link ≠ 0 → l ≠ 0 → ∃ t, exec (.abutLinkChange l) s = .next t
        ∧ t.abut = { s.abut with link := l } ∧ Touches [.abut] s t)
    ∧ (∀ d time, (d, time) ∈ s.abut.grace → elapsed s time 1000000 = true → ∃ t, exec (.forwardGraceEnd d) s = .next t
        ∧ t.abut = { s.abut with grace := s.abut.grace.filter (fun g => decide (g.1 ≠ d)) } ∧ Touches [.abut] s t)
    ∧ (s.abut.ingress ≠ [] → ∃ t x, exec .ingressDrain s = .next t ∧ x ∈ s.abut.ingress
        ∧ ((∃ y ∈ s.abut.ingress, y.cls = 3) → x.cls = 3)
        ∧ ((∀ y ∈ s.abut.ingress, y.cls ≠ 3) → (∃ y ∈ s.abut.ingress, y.cls = 2) → x.cls = 2)
        ∧ t.abut = { s.abut with ingress := eraseFirst (fun y => decide (y = x)) s.abut.ingress } ∧ Touches [.abut] s t)

/-- R596, R603, R606, R610, R615, R618: the oldest RoCEv2 packet is taken; a queue pair that does not receive discards it, a
request that repeats is acknowledged or served again, one that comes early asks once for the missing packet; the expected one is
refused with RNR NAK while there is no room or no receive entry, with NAK for a key that is not valid, and is stored or served
otherwise; a response acts on what is outstanding; a CNP is counted and slows its queue pair.
Where a clause goes beyond the rules it is the model's choice, and these entries say which: log 18, log 35. -/
def Obligations.RocePacketsReachTheirQueuePair : Prop :=
  ∀ (s : State) (p : RocePacket), unitsOn s = true → s.abut.rx.head? = some p →
    let n := p.qpn.toNat
    let q := qpOf s n
    let u : State := { s with abut := { s.abut with rx := s.abut.rx.drop 1 } }
    let w := modQp u n (fun q => { q with gap := false })
    (∀ c k, (c, k) ∈ [(Instr.roceSendIn, RoceKind.send), (.roceSendIn, .unsupported), (.roceWriteIn, .write), (.roceReadIn, .readReq)] →
      p.kind = k →
      (q.state ≠ 2 → q.state ≠ 3 → exec c s = .next u)
      ∧ ((q.state = 2 ∨ q.state = 3) → psnLe p.psn q.recvPsn = false →
          (q.gap = true → exec c s = .next u)
          ∧ (q.gap = false → exec c s = .next (roceOut (modQp u n (fun q => { q with gap := true })) n
              (qpPacket (qpOf (modQp u n (fun q => { q with gap := true })) n) (.nak 0) q.recvPsn))))
      ∧ ((q.state = 2 ∨ q.state = 3) → psnLe p.psn q.recvPsn = true → p.psn ≠ q.recvPsn → k ≠ .readReq →
          exec c s = .next (roceOut u n (qpPacket q .ack (q.recvPsn - 1))))
      ∧ ((q.state = 2 ∨ q.state = 3) → p.psn = q.recvPsn → k ≠ .unsupported → admits w n p = false →
          exec c s = .next (rnrAnswer w n p)))
    ∧ ((q.state = 2 ∨ q.state = 3) → p.psn = q.recvPsn →
      (p.kind = .unsupported → exec .roceSendIn s = .next (answer w n (.nak 1) p.psn))
      ∧ (admits w n p = true → cqHolds w (qpOf w n) = false →
        (p.kind = .send →
          (∀ t m e, joinMsg w n p false = .msg t m → m.entry = some e → m.got + p.payload.length ≤ e.len →
            regionOk t e.lkey ((qpOf t n).fld 0 16) .loc (e.addr + m.got) p.payload.length = true →
            ∀ v, recordInput t 2 n (e.addr + m.got) p.payload = some v →
              exec .roceSendIn s = .next (packetDone (gddrStore (enterIngress v n p) (e.addr + m.got) p.payload) n p m))
          ∧ (∀ t m e, joinMsg w n p false = .msg t m → m.entry = some e → e.len < m.got + p.payload.length →
              exec .roceSendIn s = .next (entryError t n e 1 1 p)))
        ∧ (∀ k c, (k = .send ∧ c = .roceSendIn ∧ joinMsg w n p false = .noEntry ∨ k = .write ∧ c = .roceWriteIn ∧ joinMsg w n p true = .noEntry) →
            p.kind = k → exec c s = .next (rnrAnswer w n p))
        ∧ (p.kind = .write → ∀ t m, joinMsg w n p true = .msg t m →
          (regionOk t m.rkey ((qpOf t n).fld 0 16) .rwrite (m.va + m.got) p.payload.length = false →
            exec .roceWriteIn s = .next (nakError t n 2 p))
          ∧ (regionOk t m.rkey ((qpOf t n).fld 0 16) .rwrite (m.va + m.got) p.payload.length = true →
            ∀ v, recordInput t 1 n (m.va + m.got) p.payload = some v →
              exec .roceWriteIn s = .next (packetDone (gddrStore (enterIngress v n p) (m.va + m.got) p.payload) n p m)))
        ∧ (p.kind = .readReq →
          (16 ≤ readsHeld w n → exec .roceReadIn s = .next (answer w n (.nak 1) p.psn))
          ∧ (readsHeld w n < 16 →
            let t := modQp (enterIngress w n p) n (fun q => { q with recvPsn := p.psn + BitVec.ofNat 24 (psnCount p.dmaLen.toNat (qpOf w n).mtu) })
            (regionOk t p.rkey ((qpOf t n).fld 0 16) .rread p.va.toNat p.dmaLen.toNat = false →
              exec .roceReadIn s = .next (nakError t n 2 p))
            ∧ (regionOk t p.rkey ((qpOf t n).fld 0 16) .rread p.va.toNat p.dmaLen.toNat = true →
              gddrLost t.gddr p.va.toNat p.dmaLen.toNat = none →
              exec .roceReadIn s = .next (roceOutAll t n (readResponses t (qpOf t n) p)))))))
    ∧ (isResponse p.kind = true → responseHeld s = false →
      (¬ (q.state = 3 ∧ psnOpen q p.psn = true) → exec .roceResponseIn s = .next u)
      ∧ (q.state = 3 → psnOpen q p.psn = true →
        (p.kind = .ack → exec .roceResponseIn s = .next (pumpCopies (acked u n p.psn)))
        ∧ (p.kind = .readResp → exec .roceResponseIn s = .next (pumpCopies (readData (acked u n (p.psn - 1)) n p)))
        ∧ (p.kind = .nak 0 → exec .roceResponseIn s = .next (pumpCopies (retry (acked u n (p.psn - 1)) n p.psn)))
        ∧ (p.kind = .nak 1 → exec .roceResponseIn s = .next (pumpCopies (qpError (acked u n (p.psn - 1)) n 3)))
        ∧ (p.kind = .nak 2 → exec .roceResponseIn s = .next (pumpCopies (qpError (acked u n (p.psn - 1)) n 2)))
        ∧ (∀ k, p.kind = .rnrNak k → exec .roceResponseIn s = .next (pumpCopies (rnrNakIn u n k p.psn)))))
    ∧ (p.kind = .cnp → tableWf (entDefault s.build s.dieIndex) s.colo.ent = true → tableWf qpDefault s.abut.qps = true →
      (q.state ≠ 2 → q.state ≠ 3 → exec .cnpIn s = .next u)
      ∧ ((q.state = 2 ∨ q.state = 3) → ∃ t, exec .cnpIn s = .next t ∧ entN t 0x6030 5 = (entN s 0x6030 5 + 1) % 2 ^ 64
          ∧ Touches [.abut, .colo] s t
          ∧ (entN s 0x6020 8 = 0 → t.abut = u.abut)
          ∧ (entN s 0x6020 8 ≠ 0 → qpOf t n = { q with pace := { (if cnpDue s q.pace then cnpAct s q.pace else q.pace) with tickAt := s.tb.ns } }
              ∧ (∀ m, m ≠ n → qpOf t m = qpOf s m) ∧ { t.abut with qps := s.abut.qps } = u.abut)))

/-- R596, R603, R605, R615, R618, R619: an ACK timeout and an RNR timer send again from the oldest packet that is not
acknowledged, or end the queue pair in ERROR once their retry count is used up; a period without CNP lets the rate of a queue
pair rise; a send entry becomes a message that takes its place and its PSNs, or completes with LOCAL_ACCESS; a RAW frame leaves
or completes with LOCAL_ACCESS or LEN_ERR.
Where a clause goes beyond the rules it is the model's choice, and these entries say which: log 18, log 35. -/
def Obligations.RequestersSendAndRetry : Prop :=
  ∀ (k : BitVec 14) (s : State), unitsOn s = true →
    let n := k.toNat
    let q := qpOf s n
    (q.state = 3 → q.out ≠ [] → q.rnrTill = none → q.fld 104 5 ≠ 0 → elapsed s q.ackedAt (4096 * 2 ^ q.fld 104 5) = true →
      (q.retries < q.fld 109 3 → exec (.ackTimeout k) s
          = .next (pumpCopies (resendFrom (modQp s n (fun q => { q with retries := q.retries + 1 })) n q.unaPsn)))
      ∧ (q.fld 109 3 ≤ q.retries → exec (.ackTimeout k) s = .next (pumpCopies (qpError s n 4))))
    ∧ (∀ till, q.state = 3 → q.rnrTill = some till → till.toNat ≤ s.tb.ns.toNat →
      (q.fld 112 3 = 7 ∨ q.rnrs < q.fld 112 3 → exec (.rnrTimer k) s
          = .next (pumpCopies (resendFrom (modQp s n (fun q => { q with rnrTill := none, rnrs := q.rnrs + 1 })) n q.unaPsn)))
      ∧ (q.fld 112 3 ≠ 7 → q.fld 112 3 ≤ q.rnrs → exec (.rnrTimer k) s = .next (pumpCopies (qpError s n 5))))
    ∧ (entN s 0x6020 8 = 1 → (q.state = 2 ∨ q.state = 3) → elapsed s q.pace.tickAt (1000 * entN s 0x6020 10) = true →
      tableWf qpDefault s.abut.qps = true → ∃ t, exec (.ccTimer k) s = .next t ∧ Touches [.abut] s t
        ∧ (qpOf t n).pace.periods = q.pace.periods + 1 ∧ (qpOf t n).pace.tickAt = s.tb.ns
        ∧ (q.pace.periods < 5 → (qpOf t n).pace.rt = q.pace.rt)
        ∧ { qpOf t n with pace := q.pace } = q ∧ (∀ m, m ≠ n → qpOf t m = qpOf s m) ∧ { t.abut with qps := s.abut.qps } = s.abut)
    ∧ (∀ c o, (c, o) ∈ [(Instr.send k, 0), (.sendImm k, 1), (.write k, 2), (.writeImm k, 3), (.read k, 4), (.send k, 8)] →
      2 ≤ n → maySend s q = true → ringUsed q.sq ≠ 0 →
      let e := sqEntry s n
      let m := entryMsg e
      fieldN e 0 8 = o → (fieldN e 9 1 = 0 ∨ q.inReads = 0) → (o = 4 → readRoom q = true) →
      let u := modQp s n (fun q => { q with sq := { q.sq with cons := q.sq.cons + 1 } })
      (o ≤ 4 → localOk s n e m = true → exec c s = .next (postMsg u n m))
      ∧ (4 < o ∨ localOk s n e m = false → exec c s = .next (qpError (sendCompletion u n m (some 7)) n 6)))
    ∧ (maySend s (qpOf s 0) = true → ringUsed (qpOf s 0).sq ≠ 0 →
      let e := sqEntry s 0
      let m := entryMsg e
      let u := modQp s 0 (fun q => { q with sq := { q.sq with cons := q.sq.cons + 1 } })
      (fieldN e 0 8 ≠ 8 ∨ localOk s 0 e m = false → exec .raw s = .next (qpError (sendCompletion u 0 m (some 7)) 0 6))
      ∧ (fieldN e 0 8 = 8 → localOk s 0 e m = true → 4220 < m.len → exec .raw s = .next (qpError (sendCompletion u 0 m (some 1)) 0 6))
      ∧ (fieldN e 0 8 = 8 → localOk s 0 e m = true → m.len ≤ 4220 → s.abut.link = 3 →
          (m.sig = false → ∃ t, exec .raw s = .next t ∧ t.abut = u.abut ∧ Touches [.out, .abut] s t
            ∧ t.out = s.out ++ [.ethRaw s.span.dieId (decide (fieldN e 10 1 = 1)) s.abut.nextTag (gddrBytesAt s.gddr m.laddr m.len)])
          ∧ (m.sig = true → fieldN e 10 1 = 1 → exec .raw s = .next (complete
              (emit u (.ethRaw s.span.dieId true s.abut.nextTag (gddrBytesAt s.gddr m.laddr m.len))) (qpOf u 0).sqcq
              (mkCompletion m.wrid.toNat 0 8 0 m.len 0 s.tb.ns.toNat)))))

/-- R597, R599, R601 to R604: a command of ABUT.OBJ_CMD leaves its fields, and DONE or REFUSED with a reason; QP 1, numbers
beyond the table, a table that is not set and a transition that R602 does not list are refused; a queue pair in RESET with a
legal context enters INIT with the counters of its context, and goes on one state at a time; a CQ and an SRQ become active with
their ring, and not inactive while a queue pair names them. A doorbell sets the count of its ring, or is discarded and counted.
Where a clause goes beyond the rules it is the model's choice, and these entries say which: log 18. -/
def Obligations.ObjectsAndDoorbellsAct : Prop :=
  ∀ (v : Word) (s : State), unitsOn s = true →
    let n := field v 0 14
    (bit v 19 = true →
      let c1 : ObjCmd := { s.abut.cmd with
        num := BitVec.ofNat 14 n, obj := BitVec.ofNat 2 (field v 14 2), target := BitVec.ofNat 3 (field v 16 3)
        done := w1c s.abut.cmd.done v 21, refused := w1c s.abut.cmd.refused v 22 }
      let u : State := { s with abut := { s.abut with cmd := c1 } }
      let refuses (c : Instr) (r : BitVec 3) : Prop := ∃ t, exec c s = .next t
        ∧ t.abut = { s.abut with cmd := { c1 with refused := true, rsn := r } } ∧ Touches [.abut] s t
      let does (c : Instr) (w : State) : Prop :=
        exec c s = .next (pumpCopies { w with abut := { w.abut with cmd := { w.abut.cmd with done := true } } })
      let k := field v 16 3
      (field v 14 2 = 0 →
        let q := qpOf s n
        (n = 1 → refuses (.qpStateCmd v) 3)
        ∧ (n ≠ 1 → objBase s 0 = 0 → refuses (.qpStateCmd v) 4)
        ∧ (2 ≤ n → objBase s 0 ≠ 0 →
          (k = 0 → does (.qpStateCmd v) (resetQp u n))
          ∧ (k = 4 → does (.qpStateCmd v) (qpError u n 6))
          ∧ (k = 1 → q.state = 0 → ctxOk s (qpContext s n).toNat = true → does (.qpStateCmd v) (modQp u n (fun _ => loadQp (qpContext s n) 1)))
          ∧ (k = 1 → q.state = 0 → ctxOk s (qpContext s n).toNat = false → refuses (.qpStateCmd v) 3)
          ∧ ((k = 2 ∨ k = 3) → k = q.state.toNat + 1 → does (.qpStateCmd v) (modQp u n (fun q => { q with
              state := BitVec.ofNat 3 k, ackedAt := s.tb.ns, pace := { q.pace with tickAt := s.tb.ns } })))
          ∧ (k ≠ 0 → k ≠ 4 → k ≠ q.state.toNat + 1 → refuses (.qpStateCmd v) 2)))
      ∧ (field v 14 2 = 1 →
        let e := gddrNat s (objBase s 1 + 32 * n) 32
        (4096 ≤ n → refuses (.cqStateCmd v) 3)
        ∧ (n < 4096 → objBase s 1 = 0 → refuses (.cqStateCmd v) 4)
        ∧ (n < 4096 → objBase s 1 ≠ 0 →
          (k = 0 → qpNames s (fun q => decide (q.sqcq = n) || decide (q.rqcq = n)) = true → refuses (.cqStateCmd v) 3)
          ∧ (k = 0 → qpNames s (fun q => decide (q.sqcq = n) || decide (q.rqcq = n)) = false → does (.cqStateCmd v) (modCq u n (fun _ => cqDefault n)))
          ∧ (k = 1 → (cqOf s n).active = false → ringReservedZero (fieldN e 0 128) = true → fieldN e 128 128 = 0 →
              does (.cqStateCmd v) (modCq u n (fun _ => ⟨true, ringOf (fieldN e 0 128), false, []⟩)))
          ∧ (1 < k ∨ k = 1 ∧ (cqOf s n).active = true → refuses (.cqStateCmd v) 2)))
      ∧ (field v 14 2 = 2 →
        let e := gddrNat s (objBase s 2 + 32 * n) 32
        (1024 ≤ n → refuses (.srqStateCmd v) 3)
        ∧ (n < 1024 → objBase s 2 = 0 → refuses (.srqStateCmd v) 4)
        ∧ (n < 1024 → objBase s 2 ≠ 0 →
          (k = 0 → qpNames s (fun q => decide (q.fld 19 1 = 1) && decide (q.fld 152 10 = n)) = false → does (.srqStateCmd v) (modSrq u n (fun _ => srqDefault n)))
          ∧ (k = 1 → (srqOf s n).active = false → ringReservedZero (fieldN e 0 128) = true → fieldN e 144 112 = 0 →
              does (.srqStateCmd v) (modSrq u n (fun _ => ⟨true, ringOf (fieldN e 0 128), BitVec.ofNat 16 (fieldN e 128 16)⟩)))
          ∧ (1 < k ∨ k = 1 ∧ (srqOf s n).active = true → refuses (.srqStateCmd v) 2))))
    ∧ (let x := BitVec.ofNat 24 (field v 16 24)
      let q := qpOf s n
      let discards (c : Instr) : Prop := ∃ t, exec c s = .next t ∧ Touches [.colo] s t
        ∧ (tableWf (entDefault s.build s.dieIndex) s.colo.ent = true → entN t 0x6030 6 = (entN s 0x6030 6 + 1) % 2 ^ 32)
      (field v 14 2 = 0 →
        (n ≠ 1 → q.state ≠ 0 → q.state ≠ 4 → prodOk q.sq x = true →
          exec (.sqDoorbell v) s = .next (modQp s n (fun q => { q with sq := { q.sq with prod := x } })))
        ∧ (n = 1 ∨ q.state = 0 ∨ prodOk q.sq x = false → discards (.sqDoorbell v)))
      ∧ (field v 14 2 = 1 →
        (2 ≤ n → q.state ≠ 0 → q.state ≠ 4 → q.fld 19 1 = 0 → prodOk q.rq x = true →
          exec (.rqDoorbell v) s = .next (modQp s n (fun q => { q with rq := { q.rq with prod := x } })))
        ∧ (n < 2 ∨ q.state = 0 ∨ q.fld 19 1 = 1 ∨ prodOk q.rq x = false → discards (.rqDoorbell v)))
      ∧ (field v 14 2 = 2 →
        ((srqOf s n).active = true → prodOk (srqOf s n).ring x = true →
          exec (.srqDoorbell v) s = .next (modSrq s n (fun q => { q with ring := { q.ring with prod := x } })))
        ∧ ((srqOf s n).active = false ∨ prodOk (srqOf s n).ring x = false → discards (.srqDoorbell v)))
      ∧ (field v 14 2 = 3 →
        ((cqOf s n).active = true → consOk (cqOf s n).ring x = true → (cqOf s n).wait = [] →
          exec (.cqDoorbell v) s = .next (pumpCopies (modCq s n (fun q => { q with
            ring := { q.ring with cons := x }, armed := q.armed || bit v 40 }))))
        ∧ ((cqOf s n).active = false ∨ consOk (cqOf s n).ring x = false → discards (.cqDoorbell v))))

/-- R632 to R634, R640, R642 to R646, R658 to R660: a service loads on a start, drains or stops on a stop, runs or fails when
loading ends, and stops when it has drained; the deadline of a batch closes it and puts its requests in flight; an instance takes
the latest input of each stream and runs, or waits for the one that runs; the partner's values are kept, or compared with the
response that waits; a response that has waited for too long is sent unchecked.
Where a clause goes beyond the rules it is the model's choice, and these entries say which: log 36, log 37. -/
def Obligations.ServicesRunTheirLife : Prop :=
  ∀ (i : Fin 64) (s : State), unitsOn s = true →
    let x := s.svc[i]
    let others (t : State) : Prop := ∀ k, k ≠ i → t.svc[k] = s.svc[k]
    let becomes (c : Instr) (y : Svc) : Prop := ∃ t, exec c s = .next t ∧ t.svc[i] = y ∧ others t ∧ Touches [.svc] s t
    let wf : Prop := tableWf (entDefault s.build s.dieIndex) s.colo.ent = true
    (x.state = 0 → becomes (.svcStart i) { Svc.reset with state := 1 })
    ∧ (x.state = 2 → becomes (.svcStop i) { x with state := 3 })
    ∧ (x.state = 4 → becomes (.svcStop i) Svc.reset)
    ∧ (x.state = 3 → svcQuiet x = true → becomes (.svcDrainComplete i) Svc.reset)
    ∧ (∀ r : LoadReport, x.state = 1 →
      let why := loadReason s i r
      (verifyImage s serviceComp (2 ^ 40) 0 r.image ≠ .ok → why = .image)
      ∧ ∃ t, exec (.svcLoadComplete i r) s = .next t ∧ others t ∧ Touches [.svc, .colo] s t
        ∧ (why ≠ .none → t.svc[i] = { x with state := 4, reason := why.code })
        ∧ (why = .none → t.svc[i] = { x with
            state := 2, reason := 0, since := s.tb.ns, nextK := firstInstance (svcEnt s i 8) (svcEnt s i 9) s.tb.ns.toNat })
        ∧ (wf → svcEnt t i 0x0F = r.kvFree.toNat ∧ svcEnt t i 0x10 = r.shortfall.toNat
            ∧ svcEnt t i 0x12 = if r.shortfall ≠ 0 ∧ why = .none then r.overhang.toNat else 0))
    ∧ (∀ b, x.batch = some b → elapsed s b.1 (1000 * svcEnt s i 7) = true →
      ∃ t, exec (.batchDeadline i) s = .next t ∧ others t ∧ t.svc[i] = { x with batch := none, flight := x.flight ++ b.2 }
        ∧ (wf → svcEnt t i 0x18 = (svcEnt s i 0x18 + 1) % 2 ^ 64) ∧ Touches [.free, .out, .gddr, .log, .svc, .colo] s t)
    ∧ (svcEnt s i 8 ≠ 0 → x.nextK * svcEnt s i 8 + svcEnt s i 9 ≤ s.tb.ns.toNat →
      (x.state = 2 ∨ x.state = 3 ∧ ∃ st ∈ x.streams, st.latest.isSome = true) →
      let n : Instance := ⟨x.nextK, x.streams.filterMap (streamInput (decide (svcEnt s i 0x0A = 1)))⟩
      let y : Svc := { x with streams := x.streams.map advanceStream, nextK := x.nextK + 1 }
      ∃ t, exec (.cadenceInstanceStart i) s = .next t ∧ others t ∧ Touches [.free, .out, .gddr, .log, .svc, .colo] s t
        ∧ t.svc[i] = (if n.inputs = [] then y else if x.running.isNone then { y with running := some n } else { y with waiting := some n }))
    ∧ (∀ (id : BitVec 64) (crc len : BitVec 32), svcEnt s i 0x0B = 2 →
      (waitOf s i id = none → becomes (.mirrorValues i id crc len) { x with
        peer := x.peer.filter (fun p => decide (p.1 ≠ id)) ++ [(id, crc, len)] })
      ∧ (∀ w, waitOf s i id = some w →
        let y : Svc := { x with mirror := x.mirror.filter (fun z => decide (z.req.reqId ≠ w.req.reqId)), peer := x.peer.filter (fun p => decide (p.1 ≠ w.req.reqId)) }
        ((crc, len) = bodyValues w.body → ∃ t, exec (.mirrorValues i id crc len) s = .next t
          ∧ t = answerReq (dropWait s i w.req.reqId) i w.req .ok w.body ∧ t.svc[i] = y ∧ others t)
        ∧ ((crc, len) ≠ bodyValues w.body → w.req.second = false →
            becomes (.mirrorValues i id crc len) { y with flight := x.flight ++ [{ w.req with second := true }] })
        ∧ ((crc, len) ≠ bodyValues w.body → w.req.second = true → ∃ t, exec (.mirrorValues i id crc len) s = .next t
          ∧ t.svc[i] = y ∧ others t ∧ Touches [.free, .out, .svc, .colo] s t)))
    ∧ (∀ (id : BitVec 64) w, waitOf s i id = some w → elapsed s w.ready (1000 * svcEnt s i 0x13) = true →
      ∃ t, exec (.mirrorWaitExpiry i id) s = .next t ∧ others t ∧ Touches [.free, .out, .svc, .colo] s t
        ∧ t.svc[i] = { x with mirror := x.mirror.filter (fun z => decide (z.req.reqId ≠ id)), peer := x.peer.filter (fun p => decide (p.1 ≠ id)) }
        ∧ (let u := answerReq (dropWait s i id) i w.req .ok w.body; t = bumpSvc u i 0x1D 1 32))

/-- R701, R702, R708, R713 to R717, R719 to R721: a bucket leaks one event each LEAK_MS; ACK clears the pending HARD condition;
a requested fence is recorded and stops Formes, links, cores, services and sessions; the fence of another die holds the links to
it; a check computes CRC-32C over its range, or fails where the range is not mapped.
Where a clause goes beyond the rules it is the model's choice, and these entries say which: log 4, log 41, log 42, log 43. -/
def Obligations.BucketsFencesAndChecksAct : Prop :=
  ∀ s : State, unitsOn s = true →
    (∀ c : Fin 12, elapsed s (s.fault.leakAt[c]) (1000000 * entN s (0x8010 + c.1) 4) = true →
      ∃ t, exec (.bucketLeak c) s = .next t ∧ Touches [.fault] s t
        ∧ t.fault.level[c] = (if s.fault.level[c] = 0 then 0 else s.fault.level[c] - 1)
        ∧ t.fault.leakAt[c] = s.fault.leakAt[c] + BitVec.ofNat 64 (1000000 * entN s (0x8010 + c.1) 4)
        ∧ (∀ d, d ≠ c → t.fault.level[d] = s.fault.level[d] ∧ t.fault.leakAt[d] = s.fault.leakAt[d])
        ∧ { t.fault with level := s.fault.level, leakAt := s.fault.leakAt } = s.fault)
    ∧ (∀ v, bit v 63 = true → exec (.ack v) s = .next { s with fault := { s.fault with pendHard := false } })
    ∧ (∀ v, bit v 4 = true → ∃ t, exec (.fenceReq v) s = .next t
        ∧ t.fault.fenced = true ∧ t.fault.reason = 1 ∧ t.fault.dies.getLsbD s.dieIndex.1 = true ∧ t.boot.state = 2
        ∧ t.fault.nextSeq = s.fault.nextSeq + 1
        ∧ t.fault.recs = (s.fault.recs ++ [(⟨s.fault.nextSeq, s.tb.ns, BitVec.ofNat 4 MClass.fence.code, Sev.uncorrected.code, 15,
            FAction.dieFenced.code, 1, 0, 0⟩ : FaultRec)]).drop (s.fault.recs.length + 1 - 1024)
        ∧ (∀ p : Fin 11, t.span.ports[p] = { s.span.ports[p] with st := 4, hreason := 4, lanes := 0 })
        ∧ t.abut = { s.abut with link := if s.abut.link = 0 then 0 else 1 }
        ∧ t.cores = ⟨[], 0, 0⟩ ∧ (∀ i : Fin 64, t.svc[i] = Svc.reset) ∧ t.colo.sessions = []
        ∧ Touches [.out, .formes, .span, .abut, .cores, .svc, .fault, .colo, .boot, .flash, .pwr] s t)
    ∧ (∀ (d : Fin 8) (r : BitVec 3), d ≠ s.dieIndex → d.1 < dieCount s.build → s.fault.dies.getLsbD d.1 = false →
      ∃ t, exec (.peerFenced d r) s = .next t ∧ t.fault = { s.fault with dies := s.fault.dies ||| BitVec.ofNat 8 (2 ^ d.1) }
        ∧ (∀ p ∈ internalPorts, portPeer s p = d.1 → (t.span.ports[p]).st = 4 ∧ (t.span.ports[p]).hreason = 4)
        ∧ (∀ p, p ∉ internalPorts ∨ portPeer s p ≠ d.1 → t.span.ports[p] = s.span.ports[p])
        ∧ (t.cores.pending ||| t.cores.claimed).getLsbD 8 = true
        ∧ Touches [.free, .out, .tb, .tbl, .log, .span, .abut, .cores, .svc, .fault, .colo] s t)
    ∧ (∀ v, bit v 32 = true → ∃ t, exec (.checkGo v) s = .next t ∧ Touches [.check] s t
        ∧ t.check = { s.check with
            done := w1c s.check.done v 34, fail := w1c s.check.fail v 35
            len := if s.check.busy then s.check.len else BitVec.ofNat 32 (field v 0 32)
            cont := if s.check.busy then s.check.cont else bit v 36, busy := true })
    ∧ (s.check.busy = true →
      let r := [(s.check.addr.toNat, s.check.len.toNat)]
      (checkMapped s = true → readErr s r = none → exec .checkComplete s = .next { s with check := { s.check with
          busy := false, done := true
          crc := crc32c (localBytes s s.check.addr.toNat s.check.len.toNat) (if s.check.cont then s.check.crc else 0) } })
      ∧ (checkMapped s = false → ∃ t, exec .checkComplete s = .next t ∧ Touches [.free, .check] s t
          ∧ { t.check with crc := s.check.crc } = { s.check with busy := false, fail := true })
      ∧ (∀ e, checkMapped s = true → readErr s r = some e → ∃ t, exec .checkComplete s = .next t
          ∧ { t.check with crc := s.check.crc } = { s.check with busy := false, fail := true }))

/-- R729 to R743, R745, R746: a request in a session that is not open is answered NOSESSION, one whose MAC or COUNTER does not
hold is counted and ignored; a request that repeats gets its kept response again; outside a session a request needs the
management port and OPEN_ACCESS; READ, WRITE, READ-BLOCK, WRITE-BLOCK, NOTIFY and SESSION-OPEN are answered by their rules.
Where a clause goes beyond the rules it is the model's choice, and these entries say which: log 9, log 44, log 45. -/
def Obligations.ColophonAnswersItsRequests : Prop :=
  ∀ (m : ColoMsg) (s : State), listens s m = true →
    let key : ClientKey := .addr m.client
    let a : Asker := ⟨key, m.mgmt⟩
    let u : State := { s with colo := { s.colo with busy := true } }
    ∀ c op, (c, op) ∈ [(Instr.colophonRead m, (1 : Byte)), (.colophonWrite m, 2), (.readBlock m, 3), (.writeBlock m, 4), (.notify m, 5),
        (.sessionOpen m, 6)] → m.op = op →
      let answers (h : Handled) : Prop :=
        exec c s = .next (h.after.foldl doAfter (releaseEvents (respond (countRequest h.st h.refused) key m h)))
      let refuses (r : CStat) : Prop := answers (refuseMsg u r) ∧ ∀ t, exec c s = .next t → Touches [.out, .colo] s t
      let open_ := readAllowed s a
      (m.session ≠ 0 → s.colo.sessions.find? (fun x => decide (x.id = m.session)) = none →
        ∃ t, exec c s = .next t ∧ t = respond (countRequest s 1) key m (refuseMsg s .nosession) ∧ Touches [.out, .colo] s t)
      ∧ (∀ se, m.session ≠ 0 → s.colo.sessions.find? (fun x => decide (x.id = m.session)) = some se → sessionMsgOk se m = false →
        ∃ t, exec c s = .next t ∧ Touches [.colo] s t ∧ t.colo.sessions = s.colo.sessions
          ∧ (tableWf (entDefault s.build s.dieIndex) s.colo.ent = true → entN t 0x1030 6 = (entN s 0x1030 6 + 1) % 2 ^ 32))
      ∧ (∀ k, m.session = 0 → keptFor s key m = some k →
        exec c s = .next (sendColo s (answerKey key k.sid) m.client (responseMsg m k.op k.status k.body)))
      ∧ (m.session = 0 → keptFor s key m = none →
        (m.ver ≠ 1 ∨ m.rsvd = true ∨ m.len.toNat ≠ m.body.length ∨ 1344 < m.body.length ∨ m.counter ≠ 0 ∨ m.mac ≠ [] → refuses .malformed)
        ∧ (malformedMsg m = false →
          ((op = 1 ∨ op = 3 ∨ op = 5) → open_ = false → refuses .auth)
          ∧ (op = 1 → open_ = true →
            (readList m.body = none → refuses .malformed)
            ∧ (∀ l, readList m.body = some l → answers ⟨.ok, (readItems u false 0 l).1, none, (readItems u false 0 l).2, u, []⟩))
          ∧ (op = 2 →
            (writeList 64 m.body = none → refuses .malformed)
            ∧ (∀ l, writeList 64 m.body = some l → open_ = false → (m.mgmt = true → ∀ x ∈ l, exemptItem u a x = false) → refuses .auth)
            ∧ (∀ l, writeList 64 m.body = some l → open_ = true →
              let x := writeItems a u l
              answers ⟨.ok, x.1, none, x.2.1, x.2.2.1, x.2.2.2⟩))
          ∧ (op = 3 → open_ = true → answers (handleReadBlock u m.body)
            ∧ (m.body.length ≠ 24 → refuses .malformed))
          ∧ (op = 4 →
            (m.body.length < 17 → refuses .malformed)
            ∧ (17 ≤ m.body.length → bodyN m.body 3 6 = 0 → open_ = true →
              pieceStatus u a (bodyN m.body 0 2) (bodyN m.body 2 1) (bodyN m.body 9 8) (m.body.drop 17).length = .ok →
              ∃ body, answers ⟨.ok, body, none, 0, receivePiece u (m.body.drop 17), []⟩))
          ∧ (op = 5 → open_ = true → m.body.length = 16 → bodyN m.body 4 4 = 0 →
            let mask := bodyN m.body 0 4
            let body := leBytes 4 mask ++ leBytes 8 s.colo.evSeq.toNat
            ((∃ x ∈ s.colo.subs, x.key = key) → answers ⟨.ok, body, none, 0, renewSub u key m mask (bodyN m.body 8 8), []⟩)
            ∧ ((∀ x ∈ s.colo.subs, x.key ≠ key) → mask ≠ 0 →
              (4 ≤ s.colo.subs.length → refuses .busy)
              ∧ (s.colo.subs.length < 4 → answers ⟨.ok, body, none, 0, addSub u key m mask, []⟩)))
          ∧ (op = 6 → m.body.length = 68 → bodyN m.body 1 3 = 0 →
            (s.sec.keyState ≠ 1 → refuses .falsework)
            ∧ (s.sec.keyState = 1 → operatorKeyOf s (bodyN m.body 0 1) = none → refuses .auth)
            ∧ (∀ k, s.sec.keyState = 1 → operatorKeyOf s (bodyN m.body 0 1) = some k →
              (8 ≤ s.colo.sessions.length → refuses .busy)
              ∧ (s.colo.sessions.length < 8 → answers (openSession u (bodyN m.body 0 1) (m.body.drop 4) k))))))

/-- R727, R738, R741 to R747, R780, R785, R789: a session that nobody confirms, that is idle, or that is closed goes with its
subscription; a response is kept for 2 s; events that are not acknowledged are sent again, and a subscription ends with its
lease; a save writes the values in force at its start; the writes of operator keys, DIE_ID_BASE, ATTEST_NONCE, ALARM_CLEAR and
RETURN_PREP act on their state and on nothing else.
Where a clause goes beyond the rules it is the model's choice, and these entries say which: log 9, log 44, log 45, log 46. -/
def Obligations.ColophonTimersAndEntriesAct : Prop :=
  ∀ s : State,
    let closes (c : Instr) (id : BitVec 32) : Prop := exec c s = .next { s with colo := { s.colo with
      sessions := s.colo.sessions.filter (fun x => decide (x.id ≠ id))
      subs := s.colo.subs.filter (fun x => decide (x.key ≠ .session id)) } }
    (∀ id x, s.colo.sessions.find? (fun x => decide (x.id = id)) = some x → x.confirmed = false →
      aged s x.openedAt 10000000000 = true → closes (.sessionConfirmTimeout id) id)
    ∧ (∀ id x, s.colo.sessions.find? (fun x => decide (x.id = id)) = some x →
      aged s x.lastAt (1000000000 * entN s 0x9010 3) = true → closes (.sessionIdleEnd id) id)
    ∧ (∀ id, entryWriteOk s 0x9010 4 (leBytes 4 id.toNat) = true → closes (.sessionClose id) id)
    ∧ ((∃ x ∈ s.colo.kept, aged s x.time 2000000000 = true) → exec .responseKeptExpiry s = .next { s with
        colo := { s.colo with kept := s.colo.kept.filter (fun x => !aged s x.time 2000000000) } })
    ∧ (s.fault.fenced = false → (∃ x ∈ s.colo.subs, retryDue s x = true) → ∃ t, exec .notifyRetry s = .next t
        ∧ (∀ x ∈ s.colo.subs, retryDue s x = true → (∃ c, x.key = .addr c) → ∀ es ∈ chunks 16 x.queue,
            Out.colophon x.client (notifyMsg x.client x.mgmt es) ∈ t.out)
        ∧ t.colo.subs = s.colo.subs.map (fun y =>
            if (s.colo.subs.filter (retryDue s)).any (fun x => decide (x.key = y.key)) then { y with sentAt := s.boot.age } else y)
        ∧ Touches [.out, .colo] s t)
    ∧ ((∃ x ∈ s.colo.subs, aged s x.lastAt (1000000000 * entN s 0x1030 8) = true) → exec .notifyLeaseEnd s = .next { s with
        colo := { s.colo with subs := s.colo.subs.filter (fun x => !aged s x.lastAt (1000000000 * entN s 0x1030 8)) } })
    ∧ (entryWriteOk s 0x1030 5 [1] = true → exec (.configSave 1) s = .next { s with colo := { s.colo with
        saving := some (s.colo.ent.filter (fun p => savedKey p.1), s.colo.oct.filter (fun p => savedKey p.1)) } })
    ∧ (∀ e o, s.colo.saving = some (e, o) →
      (s.sec.keyState = 1 → exec .configSaveDone s = .next { s with
        flash := { s.flash with confEnt := e, confOct := o }, colo := { s.colo with saving := none } })
      ∧ (s.sec.keyState ≠ 1 → exec .configSaveDone s = .next { s with colo := { s.colo with saving := none } }))
    ∧ (∀ (slot : Fin 8) key ses mgmt, operatorKeyOk s slot key ses mgmt = true → key.length = 64 →
      tableWf (fun _ => ([] : List Byte)) s.colo.oct = true → ∃ t, exec (.operatorKey slot key ses mgmt) s = .next t
        ∧ operatorKeyOf t slot.1 = (if key.all (fun b => decide (b = 0)) then none else some key)
        ∧ (∀ k, k ≠ slot.1 → operatorKeyOf t k = operatorKeyOf s k)
        ∧ t.flash = { s.flash with returned := s.flash.returned && key.all (fun b => decide (b = 0)) }
        ∧ Touches [.colo, .flash] s t)
    ∧ (∀ v : BitVec 16, entryWriteOk s 0x5000 1 (leBytes 2 v.toNat) = true → ∃ t, exec (.dieIdBase v) s = .next t
        ∧ (tableWf (entDefault s.build s.dieIndex) s.colo.ent = true → entN t 0x5000 1 = v.toNat)
        ∧ (∀ i k, entKey i k ≠ entKey 0x5000 1 → entN t i k = entN s i k) ∧ Touches [.colo] s t)
    ∧ (∀ n, entryWriteOk s 0x9050 1 n = true → ∃ t, exec (.attestNonce n) s = .next t
        ∧ t.sec.report = attestBody s n ++ padTo 64 0 (Config.sm2Sign (attestBody s n)) ∧ Touches [.colo, .sec] s t)
    ∧ (∀ v : BitVec 16, entryWriteOk s 0x9020 2 (leBytes 2 v.toNat) = true →
        exec (.alarmClear v) s = .next { s with sec := { s.sec with latched := s.sec.latched &&& ~~~ BitVec.ofNat 6 v.toNat } })
    ∧ (entryWriteOk s 0x9000 1 [1] = true → exec (.returnPrep 1) s = .next { s with
        flash := { s.flash with confEnt := [], confOct := [], returned := true }
        colo := { s.colo with oct := s.colo.oct.filter (fun p => !isOperatorKey p.1) } })

/-- R773 to R776: BEGIN erases the inactive slot and moves to RECEIVING; VERIFY checks it and moves to VERIFIED or FAILED with a
result; ACTIVATE marks it as trial and moves to TRIAL; COMMIT makes the trial slot preferred, raises the minimum SECVER and
moves to IDLE; ABANDON drops a trial mark and moves to IDLE; each sends an UPDATE event, and a command that UPDATE_STATE does not
allow changes nothing.
Where a clause goes beyond the rules it is the model's choice, and these entries say which: log 9, log 49. -/
def Obligations.UpdatesAdvanceBySlots : Prop :=
  ∀ s : State,
    let c := updComp s
    let b := inactiveSlot s
    let takes (k : Byte) : Prop := entryWriteOk s 0xA000 3 [k] = true
    let moves (i : Instr) (st : UpdState) (result : BitVec 8) (gen : BitVec 32) (fl : Flash) : Prop := ∃ t, exec i s = .next t
      ∧ t.upd = { s.upd with state := st.code, result := result, gen := gen } ∧ t.flash = fl
      ∧ Touches [.out, .colo, .flash, .upd] s t
    (∀ i k, (i, k) ∈ [(Instr.begin, (1 : Byte)), (.verify, 2), (.activate, 3), (.commit, 4), (.abandon, 5)] →
      (entryWriteOk s 0xA000 3 [k] = false → exec i s = .next s)
      ∧ (agentMode s = .full → updateCmdOk s k.toNat = true → takes k) ∧ (updateCmdOk s k.toNat = false → ¬ takes k))
    ∧ (takes 1 → moves .begin .receiving s.upd.result (s.upd.gen + 1) (setSlot s.flash c b (.written [])))
    ∧ (takes 2 →
      (verifySlot s c b (minSecOf s.flash c) = .ok → moves .verify .verified 0 s.upd.gen s.flash)
      ∧ (∀ r, verifySlot s c b (minSecOf s.flash c) = r → r ≠ .ok → moves .verify .failed r.code s.upd.gen s.flash))
    ∧ (takes 3 → moves .activate .trial s.upd.result s.upd.gen (modComp s.flash c (fun x => { x with trial := some b })))
    ∧ (takes 4 →
      let sv := BitVec.ofNat 32 (imageSecver (slotHead s.flash c (activeSlot s c)))
      moves .commit .idle s.upd.result s.upd.gen (clearTried (modComp s.flash c (fun x =>
        { x with preferred := activeSlot s c, trial := none, minSec := if x.minSec < sv then sv else x.minSec }))))
    ∧ (takes 5 →
      (updIn s [.trial] = true → moves .abandon .idle s.upd.result s.upd.gen
        (clearTried (modComp s.flash c (fun x => { x with trial := none }))))
      ∧ (updIn s [.trial] = false → moves .abandon .idle s.upd.result s.upd.gen (clearTried s.flash)))

/-- R757 to R763, R766, R773: a die reset and a written restart begin a start afresh and keep only flash and power; a stage that
completes does its part and the next begins; a start that has failed too often enters Falsework mode; a failed stage is recorded
in flash and resets the die; stage 5 ends when the internal links have settled; after stage 6 the die runs.
Where a clause goes beyond the rules it is the model's choice, and these entries say which: log 12, log 48. -/
def Obligations.StartsRunTheirStages : Prop :=
  ∀ s : State,
    let fresh (cause : BitVec 2) (fl : Flash) (t : State) : Prop :=
      t.flash = fl ∧ t.pwr = s.pwr ∧ t.out = s.out ∧ t.pending = s.pending ∧ t.build = s.build ∧ t.dieIndex = s.dieIndex
        ∧ t.boot.state = 0 ∧ t.boot.cur = 0 ∧ t.boot.stage = 0 ∧ t.boot.cause = cause ∧ t.fault = Faults.reset
        ∧ (∀ f : FormeIx, ∃ n, t.forme f = Forme.reset n) ∧ (∀ p : Fin 11, t.span.ports[p] = Port.reset)
        ∧ t.tbl = ⟨[], [], [], [], []⟩ ∧ t.cores = ⟨[], 0, 0⟩ ∧ t.colo.sessions = [] ∧ t.colo.subs = [] ∧ t.colo.ent = [] ∧ t.log.recs = []
    let gives (c : Instr) (p : State → Prop) : Prop := ∃ t, exec c s = .next t ∧ p t
    (∀ cause, s.pwr.dieUp = true → cause ≠ 3 → gives (.dieReset cause) (fresh cause s.flash))
    ∧ (entryWriteOk s 0x1040 6 [1] = true → gives (.dieRestart 1) (fresh 1 s.flash))
    ∧ (entryWriteOk s 0x1040 6 [2] = true → gives (.dieRestart 2) (fresh 1 (clearFailed s.flash)) ∧ failedStarts (clearFailed s.flash) = 0)
    ∧ (unitsOn s = true → s.boot.state = 0 →
      (∀ r : StageReport,
        let next (k : BitVec 8) (t : State) : Prop := t.boot.stage = k ∧ t.boot.cur = k + 1 ∧ t.boot.state = 0
        (∀ b, s.boot.cur = 0 → loaderSlot s = some b → gives (.startStageComplete r) (fun t =>
          t.flash = countStart s.flash ∧ t.boot.chosen[loaderComp] = b
          ∧ (failedStarts s.flash < 3 → next 0 t)
          ∧ (3 ≤ failedStarts s.flash → t.boot.state = 3 ∧ t.boot.romMode = false ∧ t.boot.reason = (countStart s.flash).lastFail ∧ t.pwr.faultL = true)))
        ∧ (s.boot.cur = 1 → (slotPart s.flash).tagOk = true → startSources s r = 0 → gives (.startStageComplete r) (fun t =>
          next 1 t ∧ t.sec.keyState = 1 ∧ t.pwr.slotId = r.slotId))
        ∧ (s.boot.cur = 2 → firmwareOk s = true → gives (.startStageComplete r) (next 2))
        ∧ (s.boot.cur = 3 → bistOk r = true → gives (.startStageComplete r) (fun t => next 3 t
          ∧ (∀ f, t.forme f = testedForme r f (s.forme f)) ∧ Touches [.formes, .boot] s t))
        ∧ (s.boot.cur = 4 → gives (.startStageComplete r) (fun t => next 4 t
          ∧ t.gddr.phys = ⟨0, []⟩ ∧ t.gddr.lost = [] ∧ t.gddr.ext = s.flash.retire.foldl applyRetire []
          ∧ t.span.dieId = BitVec.ofNat 12 (entN s 0x5000 1 + s.dieIndex.1) ∧ t.tb.master = t.span.dieId))
        ∧ (s.boot.cur = 6 → gives (.startStageComplete r) (fun t =>
          t.boot.state = 1 ∧ t.boot.stage = 6 ∧ t.flash = clearFailed s.flash ∧ t.pwr.faultL = false
          ∧ t.boot.startMs = BitVec.ofNat 32 (s.boot.age.toNat / 1000000) ∧ Touches [.boot, .flash, .pwr] s t)))
      ∧ (s.boot.cur = 5 → internalPorts.all (linkSettled s) = true ∨ aged s s.boot.stageAt 2000000000 = true →
        exec .spanStageEnd s = .next { s with boot := { s.boot with stage := 5, cur := 6, stageAt := s.boot.age } })
      ∧ (let fl : Flash := { s.flash with lastFail := s.boot.cur }
        (s.boot.cur = 0 → failedStarts s.flash < 3 → gives .stageFail (fresh 2 (countStart fl)))
        ∧ (s.boot.cur = 0 → 3 ≤ failedStarts s.flash → gives .stageFail (fun t =>
          t.flash = countStart fl ∧ t.boot.state = 3 ∧ t.boot.romMode = true ∧ t.pwr.faultL = true))
        ∧ (s.boot.cur = 1 → gives .stageFail (fresh 2 (mendSlots fl)))
        ∧ (s.boot.cur = 2 ∨ s.boot.cur = 3 ∨ s.boot.cur = 4 ∨ s.boot.cur = 6 → gives .stageFail (fresh 2 fl))))

/-- R682, R764, R793 to R799, R802: the input switch closes and the rails rise row by row until the die starts; a loss of power or an
overvoltage takes everything but the flash and, during a start, leaves a failed stage; INPUT_STATE and its count follow the input;
a die without rails is held in reset; sensors and cables are read; a temperature at the trip fences the die.
Where a clause goes beyond the rules it is the model's choice, and these entries say which: log 6, log 52. -/
def Obligations.PowerFollowsItsInput : Prop :=
  ∀ s : State,
    let off (latch : Bool) (t : State) : Prop := t.pwr = s.pwr.unpowered latch ∧ t.boot.state = 0 ∧ t.boot.stage = 0 ∧ t.boot.cur = 0
      ∧ t.boot.cause = 0 ∧ t.fault = Faults.reset ∧ t.cores = ⟨[], 0, 0⟩ ∧ t.colo.sessions = [] ∧ t.colo.ent = [] ∧ t.log.recs = []
      ∧ t.out = s.out ∧ t.pending = s.pending ∧ t.build = s.build ∧ t.dieIndex = s.dieIndex
      ∧ t.flash = (if s.boot.state = 0 ∧ s.boot.cur.toNat ≤ 6 ∧ s.pwr.dieUp = true then { s.flash with lastFail := s.boot.cur } else s.flash)
    (s.pwr.closed = false → s.pwr.ovLatch = false →
      exec .powerQualified s = .next { s with pwr := { s.pwr with closed := true, step := 0 } })
    ∧ (s.pwr.closed = true →
      (s.pwr.step.toNat < 4 → exec .railSequenceStep s = .next { s with pwr := { s.pwr with step := s.pwr.step + 1 } })
      ∧ (s.pwr.step = 4 → ∃ t, exec .railSequenceStep s = .next t ∧ t.flash = s.flash
          ∧ t.pwr = { s.pwr with step := 5, good := decide (s.pwr.railsOut = 0), dieUp := !s.pwr.railsOut.getLsbD s.dieIndex.1 }
          ∧ (s.pwr.railsOut.getLsbD s.dieIndex.1 = false → t.boot.state = 0 ∧ t.boot.cur = 0 ∧ t.boot.cause = 0)
          ∧ (s.pwr.railsOut.getLsbD s.dieIndex.1 = true → Touches [.pwr] s t))
      ∧ (∃ t, exec .powerLoss s = .next t ∧ off s.pwr.ovLatch t)
      ∧ (∃ t, exec .overvoltage s = .next t ∧ off true t)
      ∧ (∀ d : Fin 8, d.1 < dieCount s.build → s.pwr.railsOut.getLsbD d.1 = false →
        ∃ t, exec (.railFault d) s = .next t ∧ t.pwr.good = false ∧ t.pwr.railsOut = s.pwr.railsOut ||| BitVec.ofNat 8 (2 ^ d.1)
          ∧ (d = s.dieIndex → t.pwr.dieUp = false ∧ t.fault = Faults.reset ∧ t.cores = ⟨[], 0, 0⟩ ∧ t.log.recs = [])
          ∧ (d ≠ s.dieIndex → t.flash = s.flash ∧ t.boot = s.boot ∧ t.formes = s.formes
            ∧ (unitsOn s = true → t.fault = { s.fault with dies := s.fault.dies ||| BitVec.ofNat 8 (2 ^ d.1) }))))
    ∧ (∀ mv : Nat, ∃ t, exec (.inputStateChange mv) s = .next t ∧ Touches [.pwr] s t
        ∧ t.pwr.ovLatch = (s.pwr.ovLatch && decide (40000 ≤ mv))
        ∧ { t.pwr with ovLatch := s.pwr.ovLatch, inState := s.pwr.inState, lowEvents := s.pwr.lowEvents } = s.pwr
        ∧ (s.pwr.closed = true →
          (56000 ≤ mv → mv ≤ 67000 → t.pwr.inState = 1 ∧ t.pwr.lowEvents = s.pwr.lowEvents)
          ∧ (52000 ≤ mv → mv < 56000 → t.pwr.inState = 2
            ∧ t.pwr.lowEvents = (if s.pwr.inState = 2 then s.pwr.lowEvents else s.pwr.lowEvents + 1))
          ∧ (67000 < mv → mv ≤ 72000 → t.pwr.inState = 3 ∧ t.pwr.lowEvents = s.pwr.lowEvents)))
    ∧ (∀ r, s.pwr.dieUp = true → exec (.sensorSample r) s = .next { s with pwr := { s.pwr with sensors := r } })
    ∧ (∀ (d : Fin 8) (seated : Bool), d.1 < dieCount s.build → ∃ t, exec (.spanCableChange d seated) s = .next t ∧ Touches [.pwr] s t
        ∧ t.pwr.cables.getLsbD d.1 = seated ∧ (∀ i, i ≠ d.1 → t.pwr.cables.getLsbD i = s.pwr.cables.getLsbD i)
        ∧ { t.pwr with cables := s.pwr.cables } = s.pwr)
    ∧ (∀ die mem : Int, s.pwr.dieUp = true → s.fault.fenced = false → 1000 * (entN s 0x2010 10 : Int) ≤ die → ∃ t, exec (.thermalSample die mem) s = .next t
        ∧ t.fault.fenced = true ∧ t.boot.state = 2 ∧ t.sec.live.getLsbD 3 = true ∧ (s.sec.live.getLsbD 3 = false → t.sec.latched.getLsbD 3 = true)
        ∧ Touches [.out, .formes, .imp, .span, .abut, .cores, .svc, .fault, .colo, .boot, .flash, .sec, .pwr] s t)

/-- R782 to R784, R786 to R788, R792: an alarm latches its sources, sends its events and applies the union of its policies, erasing keys
and fencing the die; the enclosure input rises and falls; the debug port answers its instructions, alarms while it is locked, and
refuses those of level 2 by name; a token opens it and erases the keys, or alarms.
Where a clause goes beyond the rules it is the model's choice, and these entries say which: log 4, log 50, log 51. -/
def Obligations.AlarmsAndTheDebugPortAct : Prop :=
  ∀ s : State, s.pwr.dieUp = true →
    let act (src : BitVec 6) (k : Nat) : Prop := ∃ i, i < 6 ∧ src.getLsbD i = true ∧ (policyBits s i).testBit k = true
    let alarmed (src : BitVec 6) (t : State) : Prop :=
      t.sec.latched = s.sec.latched ||| src
      ∧ (act src 0 → t.sec.keyState = 2 ∧ t.sec.erasures = s.sec.erasures + 1 ∧ (s.fault.fenced = false → t.colo.sessions = [])
          ∧ (¬ act src 1 → ∀ p : Fin 11, (s.span.ports[p]).enc = true → (t.span.ports[p]).st = 0 ∧ (t.span.ports[p]).enc = false))
      ∧ (¬ act src 0 → t.sec.keyState = s.sec.keyState ∧ t.sec.erasures = s.sec.erasures)
      ∧ (act src 1 → s.fault.fenced = false → t.fault.fenced = true ∧ t.fault.reason = 6 ∧ t.boot.state = 2 ∧ t.cores = ⟨[], 0, 0⟩)
      ∧ (¬ act src 1 → t.fault = s.fault ∧ t.boot = s.boot ∧ t.cores = s.cores ∧ t.svc = s.svc ∧ t.abut = s.abut)
      ∧ Touches [.free, .out, .formes, .span, .abut, .cores, .svc, .fault, .colo, .boot, .flash, .sec, .pwr] s t
    (¬ (s.boot.state = 0 ∧ s.boot.cur = 0) →
      (∀ src, ∃ t, exec (.securityAlarm src) s = .next t ∧ alarmed (src &&& ~~~ s.sec.live) t ∧ t.sec.live = s.sec.live)
      ∧ (s.sec.live.getLsbD 2 = false → ∃ t, exec (.enclOpen true) s = .next t ∧ alarmed 4 t ∧ t.sec.live = s.sec.live ||| 4
          ∧ t.pwr.enclOpen = true)
      ∧ (∃ t, exec (.enclOpen false) s = .next t ∧ Touches [.sec, .pwr] s t ∧ t.pwr = { s.pwr with enclOpen := false }
          ∧ t.sec = { s.sec with live := s.sec.live &&& ~~~ 4 }))
    ∧ (∀ dr, exec (.debugPortInstruction 0x01 dr) s = .next { s with
          sec := { s.sec with ir := 0x01 }, out := s.out ++ [.debugData (BitVec.ofNat 104 (entryNum { s with sec := { s.sec with ir := 0x01 } } 0x9030 4))] })
    ∧ (∀ ir dr, ir = 0xFF ∨ (s.sec.debugState = 1 ∧ ir ≠ 0x01 ∧ ir ≠ 0x02) →
        exec (.debugPortInstruction ir dr) s = .next { s with sec := { s.sec with ir := ir }, out := s.out ++ [.debugData 0] })
    ∧ (∀ ir dr, s.sec.debugState = 0 → ir ≠ 0x01 → ir ≠ 0xFF →
        ∃ t, exec (.debugPortInstruction ir dr) s = .next t ∧ alarmed 0x10 t ∧ t.sec.ir = ir)
    ∧ (∀ dr, s.sec.debugState ≠ 0 → ∃ t, exec (.debugPortInstruction 0x02 dr) s = .next t
        ∧ t.sec = { s.sec with ir := 0x02, mmioPrev := (mmioRead s (dr.toNat % 2 ^ 40)).1 }
        ∧ ∃ o : BitVec 104, t.out = s.out ++ [.debugData o] ∧ o.toNat / 2 ^ 40 = s.sec.mmioPrev.toNat)
    ∧ (∀ ir dr, s.sec.debugState = 2 → ir ≠ 0x01 → ir ≠ 0x02 → ir ≠ 0xFF →
        exec (.debugPortInstruction ir dr) s = .refused .debugLevel2)
    ∧ (∀ token, agentMode s = .full → token.length = 160 →
      (tokenOk s token = true → ∃ t, exec (.debugUnlock token) s = .next t ∧ Touches [.free, .span, .colo, .sec] s t
        ∧ t.sec.debugOpen = true ∧ t.sec.debugState = BitVec.ofNat 8 (tokenLevel token) ∧ t.sec.keyState = 2
        ∧ t.sec.erasures = s.sec.erasures + 1 ∧ t.colo.sessions = [] ∧ t.free = s.free + 1)
      ∧ (tokenOk s token = false → ∃ t, exec (.debugUnlock token) s = .next t ∧ alarmed 0x10 t ∧ t.free = s.free + 1
        ∧ t.sec.debugOpen = s.sec.debugOpen ∧ t.sec.debugState = s.sec.debugState))

/-- R715, R716: on a die that is fenced or without power, every command but those of management, timers of the agent, power and
security leaves the state as it is; and whatever the command, a fenced die stays fenced for its first reason unless a start has
begun.
Where a clause goes beyond the rules it is the model's choice, and these entries say which: log 2, log 42. -/
def Obligations.AFenceLastsUntilTheNextStart : Prop :=
  (∀ (c : Instr) (s : State), managementCommand c = false → unitsOn s = false → exec c s = .next s)
  ∧ ∀ (c : Instr) (s t : State), s.fault.fenced = true → exec c s = .next t →
      (t.fault.fenced = true ∧ t.fault.reason = s.fault.reason) ∨ (t.boot.stage = 0 ∧ t.boot.cur = 0 ∧ t.boot.age = 0)
end

