-- ==== Sys2Proof/Laws/Table.lean ====
section
/-! SUPPORT. Sparse tables and memories: read after write, and every write keeps the canonical form. -/

namespace Sys2Proof.Laws

open Machine

/-! ### Tables -/

theorem tget_tput_same {α : Type} (d : Nat → α) (t : Table α) (k : Nat) (v : α) : tget d (tput t k v) k = v := by
  induction t with
  | nil => simp [tput, tget]
  | cons x t ih =>
    obtain ⟨j, w⟩ := x
    unfold tput
    split
    · simp [tget]
    · split
      · simp [tget]
      · rename_i h _; simp [tget, h, ih]

theorem tget_tput_other {α : Type} (d : Nat → α) (t : Table α) (k j : Nat) (v : α) (h : j ≠ k) :
    tget d (tput t k v) j = tget d t j := by
  induction t with
  | nil => simp [tput, tget, Ne.symm h]
  | cons x t ih =>
    obtain ⟨i, w⟩ := x
    unfold tput
    split
    · rename_i hi; subst hi; simp [tget, Ne.symm h]
    · split
      · simp [tget, Ne.symm h]
      · simp only [tget, ih]

theorem tableWfFrom_mono {α : Type} [DecidableEq α] {d : Nat → α} {lo lo' : Nat} {t : Table α} (h : lo' ≤ lo)
    (ht : tableWfFrom d lo t = true) : tableWfFrom d lo' t = true := by
  cases t with
  | nil => rfl
  | cons x t =>
    simp only [tableWfFrom, Bool.and_eq_true, decide_eq_true_eq] at *
    exact ⟨⟨Nat.le_trans h ht.1.1, ht.1.2⟩, ht.2⟩

/-- In a canonical table a key below the bound reads as its default. -/
theorem tget_below {α : Type} [DecidableEq α] (d : Nat → α) {lo : Nat} {t : Table α} (ht : tableWfFrom d lo t = true)
    {k : Nat} (hk : k < lo) : tget d t k = d k := by
  induction t generalizing lo with
  | nil => rfl
  | cons x t ih =>
    obtain ⟨j, v⟩ := x
    simp only [tableWfFrom, Bool.and_eq_true, decide_eq_true_eq] at ht
    have : ¬ j = k := by omega
    simp only [tget, this, if_false]
    exact ih ht.2 (by omega)

theorem tget_tdel_same {α : Type} [DecidableEq α] (d : Nat → α) {lo : Nat} {t : Table α} (ht : tableWfFrom d lo t = true)
    (k : Nat) : tget d (tdel t k) k = d k := by
  induction t generalizing lo with
  | nil => rfl
  | cons x t ih =>
    obtain ⟨j, v⟩ := x
    simp only [tableWfFrom, Bool.and_eq_true, decide_eq_true_eq] at ht
    unfold tdel
    split
    · rename_i h
      exact tget_below d ht.2 (by omega)
    · split
      · rename_i h1 h2
        refine tget_below d (lo := j) ?_ h2
        simp only [tableWfFrom, Bool.and_eq_true, decide_eq_true_eq]
        exact ⟨⟨Nat.le_refl j, ht.1.2⟩, ht.2⟩
      · rename_i h _
        simp only [tget, h, if_false]
        exact ih ht.2

theorem tget_tdel_other {α : Type} (d : Nat → α) (t : Table α) (k j : Nat) (h : j ≠ k) :
    tget d (tdel t k) j = tget d t j := by
  induction t with
  | nil => rfl
  | cons x t ih =>
    obtain ⟨i, w⟩ := x
    unfold tdel
    split
    · rename_i hi; subst hi; simp [tget, Ne.symm h]
    · split
      · rfl
      · simp only [tget, ih]

/-- Reading a key after setting it gives the value set. -/
theorem tget_tset_same {α : Type} [DecidableEq α] (d : Nat → α) (t : Table α) (k : Nat) (v : α) (ht : tableWf d t = true) :
    tget d (tset d t k v) k = v := by
  unfold tset
  split
  · rename_i h; rw [tget_tdel_same d ht, h]
  · exact tget_tput_same d t k v

/-- Setting a key leaves every other key alone. -/
theorem tget_tset_other {α : Type} [DecidableEq α] (d : Nat → α) (t : Table α) (k j : Nat) (v : α) (h : j ≠ k) :
    tget d (tset d t k v) j = tget d t j := by
  unfold tset
  split
  · exact tget_tdel_other d t k j h
  · exact tget_tput_other d t k j v h

theorem tdel_wf {α : Type} [DecidableEq α] {d : Nat → α} {lo : Nat} {t : Table α} (k : Nat) (ht : tableWfFrom d lo t = true) :
    tableWfFrom d lo (tdel t k) = true := by
  induction t generalizing lo with
  | nil => rfl
  | cons x t ih =>
    obtain ⟨j, v⟩ := x
    have hw := ht
    simp only [tableWfFrom, Bool.and_eq_true, decide_eq_true_eq] at ht
    unfold tdel
    split
    · exact tableWfFrom_mono (by omega) ht.2
    · split
      · exact hw
      · simp only [tableWfFrom, Bool.and_eq_true, decide_eq_true_eq]
        exact ⟨ht.1, ih ht.2⟩

theorem tput_wf {α : Type} [DecidableEq α] {d : Nat → α} {lo : Nat} {t : Table α} {k : Nat} {v : α} (hk : lo ≤ k) (hv : v ≠ d k)
    (ht : tableWfFrom d lo t = true) : tableWfFrom d lo (tput t k v) = true := by
  induction t generalizing lo with
  | nil => simp [tput, tableWfFrom, hk, hv]
  | cons x t ih =>
    obtain ⟨j, w⟩ := x
    simp only [tableWfFrom, Bool.and_eq_true, decide_eq_true_eq] at ht
    unfold tput
    split
    · rename_i h; subst h
      simp only [tableWfFrom, Bool.and_eq_true, decide_eq_true_eq]
      exact ⟨⟨hk, hv⟩, ht.2⟩
    · split
      · simp only [tableWfFrom, Bool.and_eq_true, decide_eq_true_eq]
        exact ⟨⟨hk, hv⟩, ⟨by omega, ht.1.2⟩, ht.2⟩
      · simp only [tableWfFrom, Bool.and_eq_true, decide_eq_true_eq]
        exact ⟨ht.1, ih (by omega) ht.2⟩

/-- Setting a key keeps the canonical form. -/
theorem tset_wf {α : Type} [DecidableEq α] {d : Nat → α} {t : Table α} (k : Nat) (v : α) (ht : tableWf d t = true) :
    tableWf d (tset d t k v) = true := by
  unfold tset tableWf
  split
  · exact tdel_wf k ht
  · exact tput_wf (Nat.zero_le k) (by assumption) ht

/-- Changing a key keeps the canonical form. -/
theorem tmod_wf {α : Type} [DecidableEq α] {d : Nat → α} {t : Table α} (k : Nat) (g : α → α) (ht : tableWf d t = true) :
    tableWf d (tmod d t k g) = true := tset_wf k _ ht

/-! ### Fixed tables -/

@[simp] theorem vset_get_same {α : Type} {n : Nat} (v : Vector α n) (i : Fin n) (x : α) : (vset v i x)[i] = x := by
  simp [vset]

theorem vset_get_other {α : Type} {n : Nat} (v : Vector α n) (i j : Fin n) (x : α) (h : j ≠ i) : (vset v i x)[j] = v[j] := by
  simp only [vset, Fin.getElem_fin]
  exact Vector.getElem_set_ne _ _ (fun hh => h (Fin.ext hh.symm))

@[simp] theorem vmod_get_same {α : Type} {n : Nat} (v : Vector α n) (i : Fin n) (g : α → α) : (vmod v i g)[i] = g v[i] :=
  vset_get_same v i _

theorem vmod_get_other {α : Type} {n : Nat} (v : Vector α n) (i j : Fin n) (g : α → α) (h : j ≠ i) : (vmod v i g)[j] = v[j] :=
  vset_get_other v i j _ h

/-! ### Byte memories -/

theorem Mem.byte_put_same (m : Mem) (a : Nat) (b : Byte) (h : m.wf = true) : (m.put a b).byte a = b :=
  tget_tset_same _ _ _ _ h

theorem Mem.byte_put_other (m : Mem) (a x : Nat) (b : Byte) (h : x ≠ a) : (m.put a b).byte x = m.byte x :=
  tget_tset_other _ _ _ _ _ h

theorem Mem.put_wf {m : Mem} (a : Nat) (b : Byte) (h : m.wf = true) : (m.put a b).wf = true := tset_wf _ _ h

theorem Mem.putAll_wf {m : Mem} (bs : List (Nat × Byte)) (h : m.wf = true) : (m.putAll bs).wf = true := by
  unfold Mem.putAll
  induction bs generalizing m with
  | nil => exact h
  | cons x xs ih => exact ih (Mem.put_wf _ _ h)

/-! ### On-chip memories -/

theorem ParMem.byte_put_same (m : ParMem) (a : Nat) (b : Byte) (h : m.wf = true) : (m.put a b).byte a = b := by
  simp only [ParMem.wf, Bool.and_eq_true] at h
  exact Mem.byte_put_same _ _ _ h.1

theorem ParMem.byte_put_other (m : ParMem) (a x : Nat) (b : Byte) (h : x ≠ a) : (m.put a b).byte x = m.byte x :=
  Mem.byte_put_other _ _ _ _ h

theorem ParMem.put_wf {m : ParMem} (a : Nat) (b : Byte) (h : m.wf = true) : (m.put a b).wf = true := by
  simp only [ParMem.wf, Bool.and_eq_true, decide_eq_true_eq] at *
  exact ⟨Mem.put_wf _ _ h.1, h.2.filter _⟩

theorem ParMem.putAll_wf {m : ParMem} (bs : List (Nat × Byte)) (h : m.wf = true) : (m.putAll bs).wf = true := by
  unfold ParMem.putAll
  induction bs generalizing m with
  | nil => exact h
  | cons x xs ih => exact ih (ParMem.put_wf _ _ h)

theorem ParMem.putRaw_wf {m : ParMem} (a : Nat) (b : Byte) (par : Bool) (h : m.wf = true) : (m.putRaw a b par).wf = true := by
  have h1 := ParMem.put_wf a b h
  unfold ParMem.putRaw
  dsimp only
  split
  · exact h1
  · simp only [ParMem.wf, Bool.and_eq_true, decide_eq_true_eq] at *
    refine ⟨h1.1, ?_⟩
    rw [List.pairwise_append]
    refine ⟨h1.2.filter _, ?_, ?_⟩
    · rw [List.pairwise_cons]
      refine ⟨?_, h1.2.filter _⟩
      intro x hx
      simpa using (List.mem_filter.mp hx).2
    · intro x hx y hy
      have hxa : x < a := by simpa using (List.mem_filter.mp hx).2
      rcases List.mem_cons.mp hy with rfl | hy
      · exact hxa
      · have : a < y := by simpa using (List.mem_filter.mp hy).2
        omega

/-- Outside the addresses written, every byte reads as before. -/
theorem ParMem.byte_putAll_other (m : ParMem) (bs : List (Nat × Byte)) (x : Nat) (h : ∀ p ∈ bs, p.1 ≠ x) :
    (m.putAll bs).byte x = m.byte x := by
  unfold ParMem.putAll
  induction bs generalizing m with
  | nil => rfl
  | cons p ps ih =>
    rw [List.foldl_cons, ih _ (fun q hq => h q (List.mem_cons_of_mem _ hq))]
    exact ParMem.byte_put_other _ _ _ _ (fun hh => h p List.mem_cons_self hh.symm)

theorem mem_placed {a x : Nat} {b : Byte} {bs : List Byte} (h : (x, b) ∈ placed a bs) : a ≤ x ∧ x < a + bs.length := by
  induction bs generalizing a with
  | nil => cases h
  | cons c cs ih =>
    rcases List.mem_cons.mp h with h | h
    · injection h with h1 _; subst h1; simp
    · have := ih h; simp only [List.length_cons]; omega

theorem ParMem.bytes_placed_other (m : ParMem) (a : Nat) (bs : List Byte) (x : Nat) (h : x < a ∨ a + bs.length ≤ x) :
    (m.putAll (placed a bs)).byte x = m.byte x := by
  apply ParMem.byte_putAll_other
  rintro ⟨y, b⟩ hp hy
  have := mem_placed hp
  have : y = x := hy
  omega

/-- Bytes written at an address read back. -/
theorem ParMem.bytes_placed (m : ParMem) (a : Nat) (bs : List Byte) (h : m.wf = true) :
    (m.putAll (placed a bs)).bytes a bs.length = bs := by
  induction bs generalizing m a with
  | nil => rfl
  | cons c cs ih =>
    have h1 := ParMem.put_wf a c h
    have e : m.putAll (placed a (c :: cs)) = (m.put a c).putAll (placed (a + 1) cs) := rfl
    have hh := ih (m.put a c) (a + 1) h1
    rw [e]
    have hb : ((m.put a c).putAll (placed (a + 1) cs)).byte a = c := by
      rw [ParMem.bytes_placed_other _ _ _ _ (by omega)]
      exact ParMem.byte_put_same _ _ _ h
    unfold ParMem.bytes Mem.bytes at *
    rw [List.length_cons, List.range_succ_eq_map, List.map_cons, List.map_map]
    congr 1
    have : ((fun i => ((m.put a c).putAll (placed (a + 1) cs)).mem.byte (a + i)) ∘ Nat.succ)
        = (fun i => ((m.put a c).putAll (placed (a + 1) cs)).mem.byte (a + 1 + i)) := by
      funext i; simp only [Function.comp]; congr 1; omega
    rw [this]; exact hh

/-! ### The GDDR7 window -/

theorem gddrPut_wf {g : Gddr} (a : Nat) (b : Byte) (h : g.phys.wf = true) : (gddrPut g a b).phys.wf = true := by
  unfold gddrPut
  dsimp only
  split
  · exact Mem.put_wf _ _ h
  · exact Mem.put_wf _ _ (Mem.put_wf _ _ h)

theorem gddrPutAll_wf {g : Gddr} (bs : List (Nat × Byte)) (h : g.phys.wf = true) : (gddrPutAll g bs).phys.wf = true := by
  unfold gddrPutAll
  induction bs generalizing g with
  | nil => exact h
  | cons x xs ih => exact ih (gddrPut_wf _ _ h)

end Sys2Proof.Laws
end

