-- ==== Sys2Proof/Laws/State.lean ====
section
/-! SUPPORT. One lemma for each field under each small update of the state, and the Formes under `modForme`. -/

namespace Sys2Proof.Laws

open Machine

@[simp] theorem modForme_forme_same (s : State) (f : FormeIx) (g : Forme → Forme) :
    (modForme s f g).forme f = g (s.forme f) := by
  simp [State.forme, modForme, vmod, vset]

theorem modForme_forme_other (s : State) (f k : FormeIx) (g : Forme → Forme) (h : k ≠ f) :
    (modForme s f g).forme k = s.forme k := vmod_get_other _ _ _ _ h

@[simp] theorem emit_out (s : State) (o : Out) : (emit s o).out = s.out ++ [o] := rfl
@[simp] theorem useFree_free (s : State) (n : Nat) : (useFree s n).free = s.free + n := rfl
@[simp] theorem modGddr_gddr (s : State) (g : Gddr → Gddr) : (modGddr s g).gddr = g s.gddr := rfl

/-- Modifying a Forme twice is modifying it once. -/
@[simp] theorem modForme_modForme (s : State) (f : FormeIx) (g k : Forme → Forme) :
    modForme (modForme s f g) f k = modForme s f (fun fm => k (g fm)) := by
  simp [modForme, vmod, vset]

/-- With no flip armed, a Galley write stores its bytes as given. -/
theorem galleyPutAll_plain (fm : Forme) (bs : List (Nat × Byte)) (h : fm.test.arm = false) :
    galleyPutAll fm bs = { fm with galley := fm.galley.putAll bs } := by
  unfold galleyPutAll ParMem.putAll
  induction bs generalizing fm with
  | nil => rfl
  | cons p ps ih =>
    have e : galleyPut fm p.1 p.2 = { fm with galley := fm.galley.put p.1 p.2 } := by simp [galleyPut, h]
    rw [List.foldl_cons, List.foldl_cons, e]
    exact ih _ h

/-- The head of a queue that issues leaves it. -/
theorem issueHead_forme (s : State) (f : FormeIx) (q : Queue) (done : Bool) (ctx : Option (Fin 16)) (slot : Option (Fin 8)) :
    (issueHead s f q done ctx slot).forme f
      = issue (s.forme f) q s.tb.ns ⟨(headOf s f q).index, q, (headOf s f q).word, done, ctx, slot⟩ := by
  unfold issueHead; exact modForme_forme_same s f _

/-- An event whose condition holds answers its effect. -/
@[simp] theorem onlyIf_true (s t : State) : onlyIf true s t = .next t := rfl

/-- An event whose condition fails changes nothing. -/
@[simp] theorem onlyIf_false (s t : State) : onlyIf false s t = .next s := rfl

/-- An event always answers a next state. -/
theorem onlyIf_next (c : Bool) (s t : State) : ∃ u, onlyIf c s t = .next u := ⟨_, rfl⟩

@[simp] theorem modForme_build (s : State) (f : FormeIx) (g : Forme → Forme) : (modForme s f g).build = s.build := rfl
@[simp] theorem modForme_dieIndex (s : State) (f : FormeIx) (g : Forme → Forme) : (modForme s f g).dieIndex = s.dieIndex := rfl
@[simp] theorem modForme_pending (s : State) (f : FormeIx) (g : Forme → Forme) : (modForme s f g).pending = s.pending := rfl
@[simp] theorem modForme_free (s : State) (f : FormeIx) (g : Forme → Forme) : (modForme s f g).free = s.free := rfl
@[simp] theorem modForme_out (s : State) (f : FormeIx) (g : Forme → Forme) : (modForme s f g).out = s.out := rfl
@[simp] theorem modForme_tb (s : State) (f : FormeIx) (g : Forme → Forme) : (modForme s f g).tb = s.tb := rfl
@[simp] theorem modForme_gddr (s : State) (f : FormeIx) (g : Forme → Forme) : (modForme s f g).gddr = s.gddr := rfl
@[simp] theorem modForme_tbl (s : State) (f : FormeIx) (g : Forme → Forme) : (modForme s f g).tbl = s.tbl := rfl
@[simp] theorem modForme_proof (s : State) (f : FormeIx) (g : Forme → Forme) : (modForme s f g).proof = s.proof := rfl
@[simp] theorem modForme_imp (s : State) (f : FormeIx) (g : Forme → Forme) : (modForme s f g).imp = s.imp := rfl
@[simp] theorem modForme_bars (s : State) (f : FormeIx) (g : Forme → Forme) : (modForme s f g).bars = s.bars := rfl
@[simp] theorem modForme_log (s : State) (f : FormeIx) (g : Forme → Forme) : (modForme s f g).log = s.log := rfl
@[simp] theorem modForme_span (s : State) (f : FormeIx) (g : Forme → Forme) : (modForme s f g).span = s.span := rfl
@[simp] theorem modForme_coll (s : State) (f : FormeIx) (g : Forme → Forme) : (modForme s f g).coll = s.coll := rfl
@[simp] theorem modForme_abut (s : State) (f : FormeIx) (g : Forme → Forme) : (modForme s f g).abut = s.abut := rfl
@[simp] theorem modForme_cores (s : State) (f : FormeIx) (g : Forme → Forme) : (modForme s f g).cores = s.cores := rfl
@[simp] theorem modForme_svc (s : State) (f : FormeIx) (g : Forme → Forme) : (modForme s f g).svc = s.svc := rfl
@[simp] theorem modForme_fault (s : State) (f : FormeIx) (g : Forme → Forme) : (modForme s f g).fault = s.fault := rfl
@[simp] theorem modForme_check (s : State) (f : FormeIx) (g : Forme → Forme) : (modForme s f g).check = s.check := rfl
@[simp] theorem modForme_colo (s : State) (f : FormeIx) (g : Forme → Forme) : (modForme s f g).colo = s.colo := rfl
@[simp] theorem modForme_boot (s : State) (f : FormeIx) (g : Forme → Forme) : (modForme s f g).boot = s.boot := rfl
@[simp] theorem modForme_flash (s : State) (f : FormeIx) (g : Forme → Forme) : (modForme s f g).flash = s.flash := rfl
@[simp] theorem modForme_upd (s : State) (f : FormeIx) (g : Forme → Forme) : (modForme s f g).upd = s.upd := rfl
@[simp] theorem modForme_sec (s : State) (f : FormeIx) (g : Forme → Forme) : (modForme s f g).sec = s.sec := rfl
@[simp] theorem modForme_pwr (s : State) (f : FormeIx) (g : Forme → Forme) : (modForme s f g).pwr = s.pwr := rfl
@[simp] theorem emit_build (s : State) (o : Out) : (emit s o).build = s.build := rfl
@[simp] theorem emit_dieIndex (s : State) (o : Out) : (emit s o).dieIndex = s.dieIndex := rfl
@[simp] theorem emit_pending (s : State) (o : Out) : (emit s o).pending = s.pending := rfl
@[simp] theorem emit_free (s : State) (o : Out) : (emit s o).free = s.free := rfl
@[simp] theorem emit_tb (s : State) (o : Out) : (emit s o).tb = s.tb := rfl
@[simp] theorem emit_formes (s : State) (o : Out) : (emit s o).formes = s.formes := rfl
@[simp] theorem emit_gddr (s : State) (o : Out) : (emit s o).gddr = s.gddr := rfl
@[simp] theorem emit_tbl (s : State) (o : Out) : (emit s o).tbl = s.tbl := rfl
@[simp] theorem emit_proof (s : State) (o : Out) : (emit s o).proof = s.proof := rfl
@[simp] theorem emit_imp (s : State) (o : Out) : (emit s o).imp = s.imp := rfl
@[simp] theorem emit_bars (s : State) (o : Out) : (emit s o).bars = s.bars := rfl
@[simp] theorem emit_log (s : State) (o : Out) : (emit s o).log = s.log := rfl
@[simp] theorem emit_span (s : State) (o : Out) : (emit s o).span = s.span := rfl
@[simp] theorem emit_coll (s : State) (o : Out) : (emit s o).coll = s.coll := rfl
@[simp] theorem emit_abut (s : State) (o : Out) : (emit s o).abut = s.abut := rfl
@[simp] theorem emit_cores (s : State) (o : Out) : (emit s o).cores = s.cores := rfl
@[simp] theorem emit_svc (s : State) (o : Out) : (emit s o).svc = s.svc := rfl
@[simp] theorem emit_fault (s : State) (o : Out) : (emit s o).fault = s.fault := rfl
@[simp] theorem emit_check (s : State) (o : Out) : (emit s o).check = s.check := rfl
@[simp] theorem emit_colo (s : State) (o : Out) : (emit s o).colo = s.colo := rfl
@[simp] theorem emit_boot (s : State) (o : Out) : (emit s o).boot = s.boot := rfl
@[simp] theorem emit_flash (s : State) (o : Out) : (emit s o).flash = s.flash := rfl
@[simp] theorem emit_upd (s : State) (o : Out) : (emit s o).upd = s.upd := rfl
@[simp] theorem emit_sec (s : State) (o : Out) : (emit s o).sec = s.sec := rfl
@[simp] theorem emit_pwr (s : State) (o : Out) : (emit s o).pwr = s.pwr := rfl
@[simp] theorem useFree_build (s : State) (n : Nat) : (useFree s n).build = s.build := rfl
@[simp] theorem useFree_dieIndex (s : State) (n : Nat) : (useFree s n).dieIndex = s.dieIndex := rfl
@[simp] theorem useFree_pending (s : State) (n : Nat) : (useFree s n).pending = s.pending := rfl
@[simp] theorem useFree_out (s : State) (n : Nat) : (useFree s n).out = s.out := rfl
@[simp] theorem useFree_tb (s : State) (n : Nat) : (useFree s n).tb = s.tb := rfl
@[simp] theorem useFree_formes (s : State) (n : Nat) : (useFree s n).formes = s.formes := rfl
@[simp] theorem useFree_gddr (s : State) (n : Nat) : (useFree s n).gddr = s.gddr := rfl
@[simp] theorem useFree_tbl (s : State) (n : Nat) : (useFree s n).tbl = s.tbl := rfl
@[simp] theorem useFree_proof (s : State) (n : Nat) : (useFree s n).proof = s.proof := rfl
@[simp] theorem useFree_imp (s : State) (n : Nat) : (useFree s n).imp = s.imp := rfl
@[simp] theorem useFree_bars (s : State) (n : Nat) : (useFree s n).bars = s.bars := rfl
@[simp] theorem useFree_log (s : State) (n : Nat) : (useFree s n).log = s.log := rfl
@[simp] theorem useFree_span (s : State) (n : Nat) : (useFree s n).span = s.span := rfl
@[simp] theorem useFree_coll (s : State) (n : Nat) : (useFree s n).coll = s.coll := rfl
@[simp] theorem useFree_abut (s : State) (n : Nat) : (useFree s n).abut = s.abut := rfl
@[simp] theorem useFree_cores (s : State) (n : Nat) : (useFree s n).cores = s.cores := rfl
@[simp] theorem useFree_svc (s : State) (n : Nat) : (useFree s n).svc = s.svc := rfl
@[simp] theorem useFree_fault (s : State) (n : Nat) : (useFree s n).fault = s.fault := rfl
@[simp] theorem useFree_check (s : State) (n : Nat) : (useFree s n).check = s.check := rfl
@[simp] theorem useFree_colo (s : State) (n : Nat) : (useFree s n).colo = s.colo := rfl
@[simp] theorem useFree_boot (s : State) (n : Nat) : (useFree s n).boot = s.boot := rfl
@[simp] theorem useFree_flash (s : State) (n : Nat) : (useFree s n).flash = s.flash := rfl
@[simp] theorem useFree_upd (s : State) (n : Nat) : (useFree s n).upd = s.upd := rfl
@[simp] theorem useFree_sec (s : State) (n : Nat) : (useFree s n).sec = s.sec := rfl
@[simp] theorem useFree_pwr (s : State) (n : Nat) : (useFree s n).pwr = s.pwr := rfl
@[simp] theorem modGddr_build (s : State) (g : Gddr → Gddr) : (modGddr s g).build = s.build := rfl
@[simp] theorem modGddr_dieIndex (s : State) (g : Gddr → Gddr) : (modGddr s g).dieIndex = s.dieIndex := rfl
@[simp] theorem modGddr_pending (s : State) (g : Gddr → Gddr) : (modGddr s g).pending = s.pending := rfl
@[simp] theorem modGddr_free (s : State) (g : Gddr → Gddr) : (modGddr s g).free = s.free := rfl
@[simp] theorem modGddr_out (s : State) (g : Gddr → Gddr) : (modGddr s g).out = s.out := rfl
@[simp] theorem modGddr_tb (s : State) (g : Gddr → Gddr) : (modGddr s g).tb = s.tb := rfl
@[simp] theorem modGddr_formes (s : State) (g : Gddr → Gddr) : (modGddr s g).formes = s.formes := rfl
@[simp] theorem modGddr_tbl (s : State) (g : Gddr → Gddr) : (modGddr s g).tbl = s.tbl := rfl
@[simp] theorem modGddr_proof (s : State) (g : Gddr → Gddr) : (modGddr s g).proof = s.proof := rfl
@[simp] theorem modGddr_imp (s : State) (g : Gddr → Gddr) : (modGddr s g).imp = s.imp := rfl
@[simp] theorem modGddr_bars (s : State) (g : Gddr → Gddr) : (modGddr s g).bars = s.bars := rfl
@[simp] theorem modGddr_log (s : State) (g : Gddr → Gddr) : (modGddr s g).log = s.log := rfl
@[simp] theorem modGddr_span (s : State) (g : Gddr → Gddr) : (modGddr s g).span = s.span := rfl
@[simp] theorem modGddr_coll (s : State) (g : Gddr → Gddr) : (modGddr s g).coll = s.coll := rfl
@[simp] theorem modGddr_abut (s : State) (g : Gddr → Gddr) : (modGddr s g).abut = s.abut := rfl
@[simp] theorem modGddr_cores (s : State) (g : Gddr → Gddr) : (modGddr s g).cores = s.cores := rfl
@[simp] theorem modGddr_svc (s : State) (g : Gddr → Gddr) : (modGddr s g).svc = s.svc := rfl
@[simp] theorem modGddr_fault (s : State) (g : Gddr → Gddr) : (modGddr s g).fault = s.fault := rfl
@[simp] theorem modGddr_check (s : State) (g : Gddr → Gddr) : (modGddr s g).check = s.check := rfl
@[simp] theorem modGddr_colo (s : State) (g : Gddr → Gddr) : (modGddr s g).colo = s.colo := rfl
@[simp] theorem modGddr_boot (s : State) (g : Gddr → Gddr) : (modGddr s g).boot = s.boot := rfl
@[simp] theorem modGddr_flash (s : State) (g : Gddr → Gddr) : (modGddr s g).flash = s.flash := rfl
@[simp] theorem modGddr_upd (s : State) (g : Gddr → Gddr) : (modGddr s g).upd = s.upd := rfl
@[simp] theorem modGddr_sec (s : State) (g : Gddr → Gddr) : (modGddr s g).sec = s.sec := rfl
@[simp] theorem modGddr_pwr (s : State) (g : Gddr → Gddr) : (modGddr s g).pwr = s.pwr := rfl
@[simp] theorem modFolio_build (s : State) (h : BitVec 16) (g : Folio → Folio) : (modFolio s h g).build = s.build := rfl
@[simp] theorem modFolio_dieIndex (s : State) (h : BitVec 16) (g : Folio → Folio) : (modFolio s h g).dieIndex = s.dieIndex := rfl
@[simp] theorem modFolio_pending (s : State) (h : BitVec 16) (g : Folio → Folio) : (modFolio s h g).pending = s.pending := rfl
@[simp] theorem modFolio_free (s : State) (h : BitVec 16) (g : Folio → Folio) : (modFolio s h g).free = s.free := rfl
@[simp] theorem modFolio_out (s : State) (h : BitVec 16) (g : Folio → Folio) : (modFolio s h g).out = s.out := rfl
@[simp] theorem modFolio_tb (s : State) (h : BitVec 16) (g : Folio → Folio) : (modFolio s h g).tb = s.tb := rfl
@[simp] theorem modFolio_formes (s : State) (h : BitVec 16) (g : Folio → Folio) : (modFolio s h g).formes = s.formes := rfl
@[simp] theorem modFolio_gddr (s : State) (h : BitVec 16) (g : Folio → Folio) : (modFolio s h g).gddr = s.gddr := rfl
@[simp] theorem modFolio_tbl (s : State) (h : BitVec 16) (g : Folio → Folio) : (modFolio s h g).tbl = s.tbl := rfl
@[simp] theorem modFolio_proof (s : State) (h : BitVec 16) (g : Folio → Folio) : (modFolio s h g).proof = s.proof := rfl
@[simp] theorem modFolio_bars (s : State) (h : BitVec 16) (g : Folio → Folio) : (modFolio s h g).bars = s.bars := rfl
@[simp] theorem modFolio_log (s : State) (h : BitVec 16) (g : Folio → Folio) : (modFolio s h g).log = s.log := rfl
@[simp] theorem modFolio_span (s : State) (h : BitVec 16) (g : Folio → Folio) : (modFolio s h g).span = s.span := rfl
@[simp] theorem modFolio_coll (s : State) (h : BitVec 16) (g : Folio → Folio) : (modFolio s h g).coll = s.coll := rfl
@[simp] theorem modFolio_abut (s : State) (h : BitVec 16) (g : Folio → Folio) : (modFolio s h g).abut = s.abut := rfl
@[simp] theorem modFolio_cores (s : State) (h : BitVec 16) (g : Folio → Folio) : (modFolio s h g).cores = s.cores := rfl
@[simp] theorem modFolio_svc (s : State) (h : BitVec 16) (g : Folio → Folio) : (modFolio s h g).svc = s.svc := rfl
@[simp] theorem modFolio_fault (s : State) (h : BitVec 16) (g : Folio → Folio) : (modFolio s h g).fault = s.fault := rfl
@[simp] theorem modFolio_check (s : State) (h : BitVec 16) (g : Folio → Folio) : (modFolio s h g).check = s.check := rfl
@[simp] theorem modFolio_colo (s : State) (h : BitVec 16) (g : Folio → Folio) : (modFolio s h g).colo = s.colo := rfl
@[simp] theorem modFolio_boot (s : State) (h : BitVec 16) (g : Folio → Folio) : (modFolio s h g).boot = s.boot := rfl
@[simp] theorem modFolio_flash (s : State) (h : BitVec 16) (g : Folio → Folio) : (modFolio s h g).flash = s.flash := rfl
@[simp] theorem modFolio_upd (s : State) (h : BitVec 16) (g : Folio → Folio) : (modFolio s h g).upd = s.upd := rfl
@[simp] theorem modFolio_sec (s : State) (h : BitVec 16) (g : Folio → Folio) : (modFolio s h g).sec = s.sec := rfl
@[simp] theorem modFolio_pwr (s : State) (h : BitVec 16) (g : Folio → Folio) : (modFolio s h g).pwr = s.pwr := rfl
@[simp] theorem setHist_build (s : State) (g : Nat) (e : HistEntry) : (setHist s g e).build = s.build := rfl
@[simp] theorem setHist_dieIndex (s : State) (g : Nat) (e : HistEntry) : (setHist s g e).dieIndex = s.dieIndex := rfl
@[simp] theorem setHist_pending (s : State) (g : Nat) (e : HistEntry) : (setHist s g e).pending = s.pending := rfl
@[simp] theorem setHist_free (s : State) (g : Nat) (e : HistEntry) : (setHist s g e).free = s.free := rfl
@[simp] theorem setHist_out (s : State) (g : Nat) (e : HistEntry) : (setHist s g e).out = s.out := rfl
@[simp] theorem setHist_tb (s : State) (g : Nat) (e : HistEntry) : (setHist s g e).tb = s.tb := rfl
@[simp] theorem setHist_formes (s : State) (g : Nat) (e : HistEntry) : (setHist s g e).formes = s.formes := rfl
@[simp] theorem setHist_gddr (s : State) (g : Nat) (e : HistEntry) : (setHist s g e).gddr = s.gddr := rfl
@[simp] theorem setHist_proof (s : State) (g : Nat) (e : HistEntry) : (setHist s g e).proof = s.proof := rfl
@[simp] theorem setHist_imp (s : State) (g : Nat) (e : HistEntry) : (setHist s g e).imp = s.imp := rfl
@[simp] theorem setHist_bars (s : State) (g : Nat) (e : HistEntry) : (setHist s g e).bars = s.bars := rfl
@[simp] theorem setHist_log (s : State) (g : Nat) (e : HistEntry) : (setHist s g e).log = s.log := rfl
@[simp] theorem setHist_span (s : State) (g : Nat) (e : HistEntry) : (setHist s g e).span = s.span := rfl
@[simp] theorem setHist_coll (s : State) (g : Nat) (e : HistEntry) : (setHist s g e).coll = s.coll := rfl
@[simp] theorem setHist_abut (s : State) (g : Nat) (e : HistEntry) : (setHist s g e).abut = s.abut := rfl
@[simp] theorem setHist_cores (s : State) (g : Nat) (e : HistEntry) : (setHist s g e).cores = s.cores := rfl
@[simp] theorem setHist_svc (s : State) (g : Nat) (e : HistEntry) : (setHist s g e).svc = s.svc := rfl
@[simp] theorem setHist_fault (s : State) (g : Nat) (e : HistEntry) : (setHist s g e).fault = s.fault := rfl
@[simp] theorem setHist_check (s : State) (g : Nat) (e : HistEntry) : (setHist s g e).check = s.check := rfl
@[simp] theorem setHist_colo (s : State) (g : Nat) (e : HistEntry) : (setHist s g e).colo = s.colo := rfl
@[simp] theorem setHist_boot (s : State) (g : Nat) (e : HistEntry) : (setHist s g e).boot = s.boot := rfl
@[simp] theorem setHist_flash (s : State) (g : Nat) (e : HistEntry) : (setHist s g e).flash = s.flash := rfl
@[simp] theorem setHist_upd (s : State) (g : Nat) (e : HistEntry) : (setHist s g e).upd = s.upd := rfl
@[simp] theorem setHist_sec (s : State) (g : Nat) (e : HistEntry) : (setHist s g e).sec = s.sec := rfl
@[simp] theorem setHist_pwr (s : State) (g : Nat) (e : HistEntry) : (setHist s g e).pwr = s.pwr := rfl
@[simp] theorem setEnt_build (s : State) (idx sub v : Nat) : (setEnt s idx sub v).build = s.build := rfl
@[simp] theorem setEnt_dieIndex (s : State) (idx sub v : Nat) : (setEnt s idx sub v).dieIndex = s.dieIndex := rfl
@[simp] theorem setEnt_pending (s : State) (idx sub v : Nat) : (setEnt s idx sub v).pending = s.pending := rfl
@[simp] theorem setEnt_free (s : State) (idx sub v : Nat) : (setEnt s idx sub v).free = s.free := rfl
@[simp] theorem setEnt_out (s : State) (idx sub v : Nat) : (setEnt s idx sub v).out = s.out := rfl
@[simp] theorem setEnt_tb (s : State) (idx sub v : Nat) : (setEnt s idx sub v).tb = s.tb := rfl
@[simp] theorem setEnt_formes (s : State) (idx sub v : Nat) : (setEnt s idx sub v).formes = s.formes := rfl
@[simp] theorem setEnt_gddr (s : State) (idx sub v : Nat) : (setEnt s idx sub v).gddr = s.gddr := rfl
@[simp] theorem setEnt_tbl (s : State) (idx sub v : Nat) : (setEnt s idx sub v).tbl = s.tbl := rfl
@[simp] theorem setEnt_proof (s : State) (idx sub v : Nat) : (setEnt s idx sub v).proof = s.proof := rfl
@[simp] theorem setEnt_imp (s : State) (idx sub v : Nat) : (setEnt s idx sub v).imp = s.imp := rfl
@[simp] theorem setEnt_bars (s : State) (idx sub v : Nat) : (setEnt s idx sub v).bars = s.bars := rfl
@[simp] theorem setEnt_log (s : State) (idx sub v : Nat) : (setEnt s idx sub v).log = s.log := rfl
@[simp] theorem setEnt_span (s : State) (idx sub v : Nat) : (setEnt s idx sub v).span = s.span := rfl
@[simp] theorem setEnt_coll (s : State) (idx sub v : Nat) : (setEnt s idx sub v).coll = s.coll := rfl
@[simp] theorem setEnt_abut (s : State) (idx sub v : Nat) : (setEnt s idx sub v).abut = s.abut := rfl
@[simp] theorem setEnt_cores (s : State) (idx sub v : Nat) : (setEnt s idx sub v).cores = s.cores := rfl
@[simp] theorem setEnt_svc (s : State) (idx sub v : Nat) : (setEnt s idx sub v).svc = s.svc := rfl
@[simp] theorem setEnt_fault (s : State) (idx sub v : Nat) : (setEnt s idx sub v).fault = s.fault := rfl
@[simp] theorem setEnt_check (s : State) (idx sub v : Nat) : (setEnt s idx sub v).check = s.check := rfl
@[simp] theorem setEnt_boot (s : State) (idx sub v : Nat) : (setEnt s idx sub v).boot = s.boot := rfl
@[simp] theorem setEnt_flash (s : State) (idx sub v : Nat) : (setEnt s idx sub v).flash = s.flash := rfl
@[simp] theorem setEnt_upd (s : State) (idx sub v : Nat) : (setEnt s idx sub v).upd = s.upd := rfl
@[simp] theorem setEnt_sec (s : State) (idx sub v : Nat) : (setEnt s idx sub v).sec = s.sec := rfl
@[simp] theorem setEnt_pwr (s : State) (idx sub v : Nat) : (setEnt s idx sub v).pwr = s.pwr := rfl
@[simp] theorem modPort_build (s : State) (p : Fin 11) (f : Port → Port) : (modPort s p f).build = s.build := rfl
@[simp] theorem modPort_dieIndex (s : State) (p : Fin 11) (f : Port → Port) : (modPort s p f).dieIndex = s.dieIndex := rfl
@[simp] theorem modPort_pending (s : State) (p : Fin 11) (f : Port → Port) : (modPort s p f).pending = s.pending := rfl
@[simp] theorem modPort_free (s : State) (p : Fin 11) (f : Port → Port) : (modPort s p f).free = s.free := rfl
@[simp] theorem modPort_out (s : State) (p : Fin 11) (f : Port → Port) : (modPort s p f).out = s.out := rfl
@[simp] theorem modPort_tb (s : State) (p : Fin 11) (f : Port → Port) : (modPort s p f).tb = s.tb := rfl
@[simp] theorem modPort_formes (s : State) (p : Fin 11) (f : Port → Port) : (modPort s p f).formes = s.formes := rfl
@[simp] theorem modPort_gddr (s : State) (p : Fin 11) (f : Port → Port) : (modPort s p f).gddr = s.gddr := rfl
@[simp] theorem modPort_tbl (s : State) (p : Fin 11) (f : Port → Port) : (modPort s p f).tbl = s.tbl := rfl
@[simp] theorem modPort_proof (s : State) (p : Fin 11) (f : Port → Port) : (modPort s p f).proof = s.proof := rfl
@[simp] theorem modPort_imp (s : State) (p : Fin 11) (f : Port → Port) : (modPort s p f).imp = s.imp := rfl
@[simp] theorem modPort_bars (s : State) (p : Fin 11) (f : Port → Port) : (modPort s p f).bars = s.bars := rfl
@[simp] theorem modPort_log (s : State) (p : Fin 11) (f : Port → Port) : (modPort s p f).log = s.log := rfl
@[simp] theorem modPort_coll (s : State) (p : Fin 11) (f : Port → Port) : (modPort s p f).coll = s.coll := rfl
@[simp] theorem modPort_abut (s : State) (p : Fin 11) (f : Port → Port) : (modPort s p f).abut = s.abut := rfl
@[simp] theorem modPort_cores (s : State) (p : Fin 11) (f : Port → Port) : (modPort s p f).cores = s.cores := rfl
@[simp] theorem modPort_svc (s : State) (p : Fin 11) (f : Port → Port) : (modPort s p f).svc = s.svc := rfl
@[simp] theorem modPort_fault (s : State) (p : Fin 11) (f : Port → Port) : (modPort s p f).fault = s.fault := rfl
@[simp] theorem modPort_check (s : State) (p : Fin 11) (f : Port → Port) : (modPort s p f).check = s.check := rfl
@[simp] theorem modPort_colo (s : State) (p : Fin 11) (f : Port → Port) : (modPort s p f).colo = s.colo := rfl
@[simp] theorem modPort_boot (s : State) (p : Fin 11) (f : Port → Port) : (modPort s p f).boot = s.boot := rfl
@[simp] theorem modPort_flash (s : State) (p : Fin 11) (f : Port → Port) : (modPort s p f).flash = s.flash := rfl
@[simp] theorem modPort_upd (s : State) (p : Fin 11) (f : Port → Port) : (modPort s p f).upd = s.upd := rfl
@[simp] theorem modPort_sec (s : State) (p : Fin 11) (f : Port → Port) : (modPort s p f).sec = s.sec := rfl
@[simp] theorem modPort_pwr (s : State) (p : Fin 11) (f : Port → Port) : (modPort s p f).pwr = s.pwr := rfl
@[simp] theorem modBar_build (s : State) (b : Fin 4) (g : Bar → Bar) : (modBar s b g).build = s.build := rfl
@[simp] theorem modBar_dieIndex (s : State) (b : Fin 4) (g : Bar → Bar) : (modBar s b g).dieIndex = s.dieIndex := rfl
@[simp] theorem modBar_pending (s : State) (b : Fin 4) (g : Bar → Bar) : (modBar s b g).pending = s.pending := rfl
@[simp] theorem modBar_free (s : State) (b : Fin 4) (g : Bar → Bar) : (modBar s b g).free = s.free := rfl
@[simp] theorem modBar_out (s : State) (b : Fin 4) (g : Bar → Bar) : (modBar s b g).out = s.out := rfl
@[simp] theorem modBar_tb (s : State) (b : Fin 4) (g : Bar → Bar) : (modBar s b g).tb = s.tb := rfl
@[simp] theorem modBar_formes (s : State) (b : Fin 4) (g : Bar → Bar) : (modBar s b g).formes = s.formes := rfl
@[simp] theorem modBar_gddr (s : State) (b : Fin 4) (g : Bar → Bar) : (modBar s b g).gddr = s.gddr := rfl
@[simp] theorem modBar_tbl (s : State) (b : Fin 4) (g : Bar → Bar) : (modBar s b g).tbl = s.tbl := rfl
@[simp] theorem modBar_proof (s : State) (b : Fin 4) (g : Bar → Bar) : (modBar s b g).proof = s.proof := rfl
@[simp] theorem modBar_imp (s : State) (b : Fin 4) (g : Bar → Bar) : (modBar s b g).imp = s.imp := rfl
@[simp] theorem modBar_log (s : State) (b : Fin 4) (g : Bar → Bar) : (modBar s b g).log = s.log := rfl
@[simp] theorem modBar_span (s : State) (b : Fin 4) (g : Bar → Bar) : (modBar s b g).span = s.span := rfl
@[simp] theorem modBar_coll (s : State) (b : Fin 4) (g : Bar → Bar) : (modBar s b g).coll = s.coll := rfl
@[simp] theorem modBar_abut (s : State) (b : Fin 4) (g : Bar → Bar) : (modBar s b g).abut = s.abut := rfl
@[simp] theorem modBar_cores (s : State) (b : Fin 4) (g : Bar → Bar) : (modBar s b g).cores = s.cores := rfl
@[simp] theorem modBar_svc (s : State) (b : Fin 4) (g : Bar → Bar) : (modBar s b g).svc = s.svc := rfl
@[simp] theorem modBar_fault (s : State) (b : Fin 4) (g : Bar → Bar) : (modBar s b g).fault = s.fault := rfl
@[simp] theorem modBar_check (s : State) (b : Fin 4) (g : Bar → Bar) : (modBar s b g).check = s.check := rfl
@[simp] theorem modBar_colo (s : State) (b : Fin 4) (g : Bar → Bar) : (modBar s b g).colo = s.colo := rfl
@[simp] theorem modBar_boot (s : State) (b : Fin 4) (g : Bar → Bar) : (modBar s b g).boot = s.boot := rfl
@[simp] theorem modBar_flash (s : State) (b : Fin 4) (g : Bar → Bar) : (modBar s b g).flash = s.flash := rfl
@[simp] theorem modBar_upd (s : State) (b : Fin 4) (g : Bar → Bar) : (modBar s b g).upd = s.upd := rfl
@[simp] theorem modBar_sec (s : State) (b : Fin 4) (g : Bar → Bar) : (modBar s b g).sec = s.sec := rfl
@[simp] theorem modBar_pwr (s : State) (b : Fin 4) (g : Bar → Bar) : (modBar s b g).pwr = s.pwr := rfl
@[simp] theorem modSvc_build (s : State) (i : Fin 64) (g : Svc → Svc) : (modSvc s i g).build = s.build := rfl
@[simp] theorem modSvc_dieIndex (s : State) (i : Fin 64) (g : Svc → Svc) : (modSvc s i g).dieIndex = s.dieIndex := rfl
@[simp] theorem modSvc_pending (s : State) (i : Fin 64) (g : Svc → Svc) : (modSvc s i g).pending = s.pending := rfl
@[simp] theorem modSvc_free (s : State) (i : Fin 64) (g : Svc → Svc) : (modSvc s i g).free = s.free := rfl
@[simp] theorem modSvc_out (s : State) (i : Fin 64) (g : Svc → Svc) : (modSvc s i g).out = s.out := rfl
@[simp] theorem modSvc_tb (s : State) (i : Fin 64) (g : Svc → Svc) : (modSvc s i g).tb = s.tb := rfl
@[simp] theorem modSvc_formes (s : State) (i : Fin 64) (g : Svc → Svc) : (modSvc s i g).formes = s.formes := rfl
@[simp] theorem modSvc_gddr (s : State) (i : Fin 64) (g : Svc → Svc) : (modSvc s i g).gddr = s.gddr := rfl
@[simp] theorem modSvc_tbl (s : State) (i : Fin 64) (g : Svc → Svc) : (modSvc s i g).tbl = s.tbl := rfl
@[simp] theorem modSvc_proof (s : State) (i : Fin 64) (g : Svc → Svc) : (modSvc s i g).proof = s.proof := rfl
@[simp] theorem modSvc_imp (s : State) (i : Fin 64) (g : Svc → Svc) : (modSvc s i g).imp = s.imp := rfl
@[simp] theorem modSvc_bars (s : State) (i : Fin 64) (g : Svc → Svc) : (modSvc s i g).bars = s.bars := rfl
@[simp] theorem modSvc_log (s : State) (i : Fin 64) (g : Svc → Svc) : (modSvc s i g).log = s.log := rfl
@[simp] theorem modSvc_span (s : State) (i : Fin 64) (g : Svc → Svc) : (modSvc s i g).span = s.span := rfl
@[simp] theorem modSvc_coll (s : State) (i : Fin 64) (g : Svc → Svc) : (modSvc s i g).coll = s.coll := rfl
@[simp] theorem modSvc_abut (s : State) (i : Fin 64) (g : Svc → Svc) : (modSvc s i g).abut = s.abut := rfl
@[simp] theorem modSvc_cores (s : State) (i : Fin 64) (g : Svc → Svc) : (modSvc s i g).cores = s.cores := rfl
@[simp] theorem modSvc_fault (s : State) (i : Fin 64) (g : Svc → Svc) : (modSvc s i g).fault = s.fault := rfl
@[simp] theorem modSvc_check (s : State) (i : Fin 64) (g : Svc → Svc) : (modSvc s i g).check = s.check := rfl
@[simp] theorem modSvc_colo (s : State) (i : Fin 64) (g : Svc → Svc) : (modSvc s i g).colo = s.colo := rfl
@[simp] theorem modSvc_boot (s : State) (i : Fin 64) (g : Svc → Svc) : (modSvc s i g).boot = s.boot := rfl
@[simp] theorem modSvc_flash (s : State) (i : Fin 64) (g : Svc → Svc) : (modSvc s i g).flash = s.flash := rfl
@[simp] theorem modSvc_upd (s : State) (i : Fin 64) (g : Svc → Svc) : (modSvc s i g).upd = s.upd := rfl
@[simp] theorem modSvc_sec (s : State) (i : Fin 64) (g : Svc → Svc) : (modSvc s i g).sec = s.sec := rfl
@[simp] theorem modSvc_pwr (s : State) (i : Fin 64) (g : Svc → Svc) : (modSvc s i g).pwr = s.pwr := rfl
@[simp] theorem issueHead_build (s : State) (f : FormeIx) (q : Queue) (done : Bool) (ctx : Option (Fin 16)) (slot : Option (Fin 8)) : (issueHead s f q done ctx slot).build = s.build := rfl
@[simp] theorem issueHead_dieIndex (s : State) (f : FormeIx) (q : Queue) (done : Bool) (ctx : Option (Fin 16)) (slot : Option (Fin 8)) : (issueHead s f q done ctx slot).dieIndex = s.dieIndex := rfl
@[simp] theorem issueHead_pending (s : State) (f : FormeIx) (q : Queue) (done : Bool) (ctx : Option (Fin 16)) (slot : Option (Fin 8)) : (issueHead s f q done ctx slot).pending = s.pending := rfl
@[simp] theorem issueHead_free (s : State) (f : FormeIx) (q : Queue) (done : Bool) (ctx : Option (Fin 16)) (slot : Option (Fin 8)) : (issueHead s f q done ctx slot).free = s.free := rfl
@[simp] theorem issueHead_out (s : State) (f : FormeIx) (q : Queue) (done : Bool) (ctx : Option (Fin 16)) (slot : Option (Fin 8)) : (issueHead s f q done ctx slot).out = s.out := rfl
@[simp] theorem issueHead_tb (s : State) (f : FormeIx) (q : Queue) (done : Bool) (ctx : Option (Fin 16)) (slot : Option (Fin 8)) : (issueHead s f q done ctx slot).tb = s.tb := rfl
@[simp] theorem issueHead_gddr (s : State) (f : FormeIx) (q : Queue) (done : Bool) (ctx : Option (Fin 16)) (slot : Option (Fin 8)) : (issueHead s f q done ctx slot).gddr = s.gddr := rfl
@[simp] theorem issueHead_tbl (s : State) (f : FormeIx) (q : Queue) (done : Bool) (ctx : Option (Fin 16)) (slot : Option (Fin 8)) : (issueHead s f q done ctx slot).tbl = s.tbl := rfl
@[simp] theorem issueHead_proof (s : State) (f : FormeIx) (q : Queue) (done : Bool) (ctx : Option (Fin 16)) (slot : Option (Fin 8)) : (issueHead s f q done ctx slot).proof = s.proof := rfl
@[simp] theorem issueHead_imp (s : State) (f : FormeIx) (q : Queue) (done : Bool) (ctx : Option (Fin 16)) (slot : Option (Fin 8)) : (issueHead s f q done ctx slot).imp = s.imp := rfl
@[simp] theorem issueHead_bars (s : State) (f : FormeIx) (q : Queue) (done : Bool) (ctx : Option (Fin 16)) (slot : Option (Fin 8)) : (issueHead s f q done ctx slot).bars = s.bars := rfl
@[simp] theorem issueHead_log (s : State) (f : FormeIx) (q : Queue) (done : Bool) (ctx : Option (Fin 16)) (slot : Option (Fin 8)) : (issueHead s f q done ctx slot).log = s.log := rfl
@[simp] theorem issueHead_span (s : State) (f : FormeIx) (q : Queue) (done : Bool) (ctx : Option (Fin 16)) (slot : Option (Fin 8)) : (issueHead s f q done ctx slot).span = s.span := rfl
@[simp] theorem issueHead_coll (s : State) (f : FormeIx) (q : Queue) (done : Bool) (ctx : Option (Fin 16)) (slot : Option (Fin 8)) : (issueHead s f q done ctx slot).coll = s.coll := rfl
@[simp] theorem issueHead_abut (s : State) (f : FormeIx) (q : Queue) (done : Bool) (ctx : Option (Fin 16)) (slot : Option (Fin 8)) : (issueHead s f q done ctx slot).abut = s.abut := rfl
@[simp] theorem issueHead_cores (s : State) (f : FormeIx) (q : Queue) (done : Bool) (ctx : Option (Fin 16)) (slot : Option (Fin 8)) : (issueHead s f q done ctx slot).cores = s.cores := rfl
@[simp] theorem issueHead_svc (s : State) (f : FormeIx) (q : Queue) (done : Bool) (ctx : Option (Fin 16)) (slot : Option (Fin 8)) : (issueHead s f q done ctx slot).svc = s.svc := rfl
@[simp] theorem issueHead_fault (s : State) (f : FormeIx) (q : Queue) (done : Bool) (ctx : Option (Fin 16)) (slot : Option (Fin 8)) : (issueHead s f q done ctx slot).fault = s.fault := rfl
@[simp] theorem issueHead_check (s : State) (f : FormeIx) (q : Queue) (done : Bool) (ctx : Option (Fin 16)) (slot : Option (Fin 8)) : (issueHead s f q done ctx slot).check = s.check := rfl
@[simp] theorem issueHead_colo (s : State) (f : FormeIx) (q : Queue) (done : Bool) (ctx : Option (Fin 16)) (slot : Option (Fin 8)) : (issueHead s f q done ctx slot).colo = s.colo := rfl
@[simp] theorem issueHead_boot (s : State) (f : FormeIx) (q : Queue) (done : Bool) (ctx : Option (Fin 16)) (slot : Option (Fin 8)) : (issueHead s f q done ctx slot).boot = s.boot := rfl
@[simp] theorem issueHead_flash (s : State) (f : FormeIx) (q : Queue) (done : Bool) (ctx : Option (Fin 16)) (slot : Option (Fin 8)) : (issueHead s f q done ctx slot).flash = s.flash := rfl
@[simp] theorem issueHead_upd (s : State) (f : FormeIx) (q : Queue) (done : Bool) (ctx : Option (Fin 16)) (slot : Option (Fin 8)) : (issueHead s f q done ctx slot).upd = s.upd := rfl
@[simp] theorem issueHead_sec (s : State) (f : FormeIx) (q : Queue) (done : Bool) (ctx : Option (Fin 16)) (slot : Option (Fin 8)) : (issueHead s f q done ctx slot).sec = s.sec := rfl
@[simp] theorem issueHead_pwr (s : State) (f : FormeIx) (q : Queue) (done : Bool) (ctx : Option (Fin 16)) (slot : Option (Fin 8)) : (issueHead s f q done ctx slot).pwr = s.pwr := rfl

end Sys2Proof.Laws
end

