-- ==== Sys2Proof/Laws/Touch.lean ====
section
/-! SUPPORT. The algebra of what a command leaves unchanged, and the frame of each shared operation. -/

namespace Sys2Proof

open Machine

/-! ### The algebra -/

theorem Touches.refl (ps : List Part) (s : State) : Touches ps s s := by
  intro p _; cases p <;> rfl

theorem Touches.mono {ps qs : List Part} {s t : State} (h : Touches ps s t) (hs : ps ⊆ qs) : Touches qs s t :=
  fun p hp => h p (fun hm => hp (hs hm))

theorem agree_trans {s t u : State} {p : Part} (h : agree s t p) (k : agree t u p) : agree s u p := by
  cases p <;> exact Eq.trans k h

theorem Touches.trans {ps : List Part} {s t u : State} (h : Touches ps s t) (k : Touches ps t u) : Touches ps s u :=
  fun p hp => agree_trans (h p hp) (k p hp)

/-- A fold keeps what each of its steps keeps. -/
theorem Touches.foldl {α : Type} {ps : List Part} (g : State → α → State) (h : ∀ s x, Touches ps s (g s x))
    (l : List α) (s : State) : Touches ps s (l.foldl g s) := by
  induction l generalizing s with
  | nil => exact Touches.refl ps s
  | cons x xs ih => exact (h s x).trans (ih (g s x))

theorem touch_foldl {α : Type} {ps : List Part} {s0 s : State} {g : State → α → State} {l : List α}
    (hg : ∀ s x, Touches ps s (g s x)) (h : Touches ps s0 s) : Touches ps s0 (l.foldl g s) :=
  h.trans (Touches.foldl g hg l s)

theorem touch_ite {c : Prop} [Decidable c] {ps : List Part} {s0 a b : State} (ha : Touches ps s0 a) (hb : Touches ps s0 b) :
    Touches ps s0 (if c then a else b) := by
  split
  · exact ha
  · exact hb

theorem touch_cond {c : Bool} {ps : List Part} {s0 a b : State} (ha : Touches ps s0 a) (hb : Touches ps s0 b) :
    Touches ps s0 (bif c then a else b) := by
  cases c
  · exact hb
  · exact ha

theorem FTouches.refl (ps : List FPart) (a : Forme) : FTouches ps a a := by
  intro p _; cases p <;> rfl

theorem FTouches.mono {ps qs : List FPart} {a b : Forme} (h : FTouches ps a b) (hs : ps ⊆ qs) : FTouches qs a b :=
  fun p hp => h p (fun hm => hp (hs hm))

theorem fagree_trans {a b c : Forme} {p : FPart} (h : fagree a b p) (k : fagree b c p) : fagree a c p := by
  cases p <;> exact Eq.trans k h

theorem FTouches.trans {ps : List FPart} {a b c : Forme} (h : FTouches ps a b) (k : FTouches ps b c) : FTouches ps a c :=
  fun p hp => fagree_trans (h p hp) (k p hp)

theorem FTouches.foldl {α : Type} {ps : List FPart} (g : Forme → α → Forme) (h : ∀ a x, FTouches ps a (g a x))
    (l : List α) (a : Forme) : FTouches ps a (l.foldl g a) := by
  induction l generalizing a with
  | nil => exact FTouches.refl ps a
  | cons x xs ih => exact (h a x).trans (ih (g a x))

end Sys2Proof
end

