-- ==== Sys2Proof/Laws/TouchShared.lean ====
section
/-! SUPPORT. What each operation of the shared operations, fences, frame forwarding and GDDR7 leaves unchanged: one lemma each, `f_touch` -/

namespace Sys2Proof

open Machine

set_option maxRecDepth 4000
set_option linter.unusedSimpArgs false
set_option linter.unusedVariables false

theorem touch_abut {ps : List Part} {s0 s : State} {v0} (m0 : Part.abut ∈ ps) (h : Touches ps s0 s) :
    Touches ps s0 { s with abut := v0 } := by
  refine h.trans ?_
  intro p hp
  cases p <;> first | rfl | contradiction

theorem touch_bars {ps : List Part} {s0 s : State} {v0} (m0 : Part.bars ∈ ps) (h : Touches ps s0 s) :
    Touches ps s0 { s with bars := v0 } := by
  refine h.trans ?_
  intro p hp
  cases p <;> first | rfl | contradiction

theorem touch_boot {ps : List Part} {s0 s : State} {v0} (m0 : Part.boot ∈ ps) (h : Touches ps s0 s) :
    Touches ps s0 { s with boot := v0 } := by
  refine h.trans ?_
  intro p hp
  cases p <;> first | rfl | contradiction

theorem touch_boot_flash {ps : List Part} {s0 s : State} {v0} {v1} (m0 : Part.boot ∈ ps) (m1 : Part.flash ∈ ps) (h : Touches ps s0 s) :
    Touches ps s0 { s with boot := v0, flash := v1 } := by
  refine h.trans ?_
  intro p hp
  cases p <;> first | rfl | contradiction

theorem touch_boot_flash_pwr {ps : List Part} {s0 s : State} {v0} {v1} {v2} (m0 : Part.boot ∈ ps) (m1 : Part.flash ∈ ps) (m2 : Part.pwr ∈ ps) (h : Touches ps s0 s) :
    Touches ps s0 { s with boot := v0, flash := v1, pwr := v2 } := by
  refine h.trans ?_
  intro p hp
  cases p <;> first | rfl | contradiction

theorem touch_boot_flash_upd {ps : List Part} {s0 s : State} {v0} {v1} {v2} (m0 : Part.boot ∈ ps) (m1 : Part.flash ∈ ps) (m2 : Part.upd ∈ ps) (h : Touches ps s0 s) :
    Touches ps s0 { s with boot := v0, flash := v1, upd := v2 } := by
  refine h.trans ?_
  intro p hp
  cases p <;> first | rfl | contradiction

theorem touch_boot_pwr {ps : List Part} {s0 s : State} {v0} {v1} (m0 : Part.boot ∈ ps) (m1 : Part.pwr ∈ ps) (h : Touches ps s0 s) :
    Touches ps s0 { s with boot := v0, pwr := v1 } := by
  refine h.trans ?_
  intro p hp
  cases p <;> first | rfl | contradiction

theorem touch_check {ps : List Part} {s0 s : State} {v0} (m0 : Part.check ∈ ps) (h : Touches ps s0 s) :
    Touches ps s0 { s with check := v0 } := by
  refine h.trans ?_
  intro p hp
  cases p <;> first | rfl | contradiction

theorem touch_coll {ps : List Part} {s0 s : State} {v0} (m0 : Part.coll ∈ ps) (h : Touches ps s0 s) :
    Touches ps s0 { s with coll := v0 } := by
  refine h.trans ?_
  intro p hp
  cases p <;> first | rfl | contradiction

theorem touch_colo {ps : List Part} {s0 s : State} {v0} (m0 : Part.colo ∈ ps) (h : Touches ps s0 s) :
    Touches ps s0 { s with colo := v0 } := by
  refine h.trans ?_
  intro p hp
  cases p <;> first | rfl | contradiction

theorem touch_colo_flash {ps : List Part} {s0 s : State} {v0} {v1} (m0 : Part.colo ∈ ps) (m1 : Part.flash ∈ ps) (h : Touches ps s0 s) :
    Touches ps s0 { s with colo := v0, flash := v1 } := by
  refine h.trans ?_
  intro p hp
  cases p <;> first | rfl | contradiction

theorem touch_cores {ps : List Part} {s0 s : State} {v0} (m0 : Part.cores ∈ ps) (h : Touches ps s0 s) :
    Touches ps s0 { s with cores := v0 } := by
  refine h.trans ?_
  intro p hp
  cases p <;> first | rfl | contradiction

theorem touch_fault {ps : List Part} {s0 s : State} {v0} (m0 : Part.fault ∈ ps) (h : Touches ps s0 s) :
    Touches ps s0 { s with fault := v0 } := by
  refine h.trans ?_
  intro p hp
  cases p <;> first | rfl | contradiction

theorem touch_fault_flash {ps : List Part} {s0 s : State} {v0} {v1} (m0 : Part.fault ∈ ps) (m1 : Part.flash ∈ ps) (h : Touches ps s0 s) :
    Touches ps s0 { s with fault := v0, flash := v1 } := by
  refine h.trans ?_
  intro p hp
  cases p <;> first | rfl | contradiction

theorem touch_flash {ps : List Part} {s0 s : State} {v0} (m0 : Part.flash ∈ ps) (h : Touches ps s0 s) :
    Touches ps s0 { s with flash := v0 } := by
  refine h.trans ?_
  intro p hp
  cases p <;> first | rfl | contradiction

theorem touch_flash_upd {ps : List Part} {s0 s : State} {v0} {v1} (m0 : Part.flash ∈ ps) (m1 : Part.upd ∈ ps) (h : Touches ps s0 s) :
    Touches ps s0 { s with flash := v0, upd := v1 } := by
  refine h.trans ?_
  intro p hp
  cases p <;> first | rfl | contradiction

theorem touch_formes {ps : List Part} {s0 s : State} {v0} (m0 : Part.formes ∈ ps) (h : Touches ps s0 s) :
    Touches ps s0 { s with formes := v0 } := by
  refine h.trans ?_
  intro p hp
  cases p <;> first | rfl | contradiction

theorem touch_free {ps : List Part} {s0 s : State} {v0} (m0 : Part.free ∈ ps) (h : Touches ps s0 s) :
    Touches ps s0 { s with free := v0 } := by
  refine h.trans ?_
  intro p hp
  cases p <;> first | rfl | contradiction

theorem touch_gddr {ps : List Part} {s0 s : State} {v0} (m0 : Part.gddr ∈ ps) (h : Touches ps s0 s) :
    Touches ps s0 { s with gddr := v0 } := by
  refine h.trans ?_
  intro p hp
  cases p <;> first | rfl | contradiction

theorem touch_gddr_imp {ps : List Part} {s0 s : State} {v0} {v1} (m0 : Part.gddr ∈ ps) (m1 : Part.imp ∈ ps) (h : Touches ps s0 s) :
    Touches ps s0 { s with gddr := v0, imp := v1 } := by
  refine h.trans ?_
  intro p hp
  cases p <;> first | rfl | contradiction

theorem touch_imp {ps : List Part} {s0 s : State} {v0} (m0 : Part.imp ∈ ps) (h : Touches ps s0 s) :
    Touches ps s0 { s with imp := v0 } := by
  refine h.trans ?_
  intro p hp
  cases p <;> first | rfl | contradiction

theorem touch_log {ps : List Part} {s0 s : State} {v0} (m0 : Part.log ∈ ps) (h : Touches ps s0 s) :
    Touches ps s0 { s with log := v0 } := by
  refine h.trans ?_
  intro p hp
  cases p <;> first | rfl | contradiction

theorem touch_out {ps : List Part} {s0 s : State} {v0} (m0 : Part.out ∈ ps) (h : Touches ps s0 s) :
    Touches ps s0 { s with out := v0 } := by
  refine h.trans ?_
  intro p hp
  cases p <;> first | rfl | contradiction

theorem touch_proof {ps : List Part} {s0 s : State} {v0} (m0 : Part.proof ∈ ps) (h : Touches ps s0 s) :
    Touches ps s0 { s with proof := v0 } := by
  refine h.trans ?_
  intro p hp
  cases p <;> first | rfl | contradiction

theorem touch_pwr {ps : List Part} {s0 s : State} {v0} (m0 : Part.pwr ∈ ps) (h : Touches ps s0 s) :
    Touches ps s0 { s with pwr := v0 } := by
  refine h.trans ?_
  intro p hp
  cases p <;> first | rfl | contradiction

theorem touch_sec {ps : List Part} {s0 s : State} {v0} (m0 : Part.sec ∈ ps) (h : Touches ps s0 s) :
    Touches ps s0 { s with sec := v0 } := by
  refine h.trans ?_
  intro p hp
  cases p <;> first | rfl | contradiction

theorem touch_sec_pwr {ps : List Part} {s0 s : State} {v0} {v1} (m0 : Part.sec ∈ ps) (m1 : Part.pwr ∈ ps) (h : Touches ps s0 s) :
    Touches ps s0 { s with sec := v0, pwr := v1 } := by
  refine h.trans ?_
  intro p hp
  cases p <;> first | rfl | contradiction

theorem touch_span {ps : List Part} {s0 s : State} {v0} (m0 : Part.span ∈ ps) (h : Touches ps s0 s) :
    Touches ps s0 { s with span := v0 } := by
  refine h.trans ?_
  intro p hp
  cases p <;> first | rfl | contradiction

theorem touch_span_abut_cores_svc_fault_colo_boot_pwr {ps : List Part} {s0 s : State} {v0} {v1} {v2} {v3} {v4} {v5} {v6} {v7} (m0 : Part.span ∈ ps) (m1 : Part.abut ∈ ps) (m2 : Part.cores ∈ ps) (m3 : Part.svc ∈ ps) (m4 : Part.fault ∈ ps) (m5 : Part.colo ∈ ps) (m6 : Part.boot ∈ ps) (m7 : Part.pwr ∈ ps) (h : Touches ps s0 s) :
    Touches ps s0 { s with span := v0, abut := v1, cores := v2, svc := v3, fault := v4, colo := v5, boot := v6, pwr := v7 } := by
  refine h.trans ?_
  intro p hp
  cases p <;> first | rfl | contradiction

theorem touch_span_colo_sec {ps : List Part} {s0 s : State} {v0} {v1} {v2} (m0 : Part.span ∈ ps) (m1 : Part.colo ∈ ps) (m2 : Part.sec ∈ ps) (h : Touches ps s0 s) :
    Touches ps s0 { s with span := v0, colo := v1, sec := v2 } := by
  refine h.trans ?_
  intro p hp
  cases p <;> first | rfl | contradiction

theorem touch_svc {ps : List Part} {s0 s : State} {v0} (m0 : Part.svc ∈ ps) (h : Touches ps s0 s) :
    Touches ps s0 { s with svc := v0 } := by
  refine h.trans ?_
  intro p hp
  cases p <;> first | rfl | contradiction

theorem touch_tb {ps : List Part} {s0 s : State} {v0} (m0 : Part.tb ∈ ps) (h : Touches ps s0 s) :
    Touches ps s0 { s with tb := v0 } := by
  refine h.trans ?_
  intro p hp
  cases p <;> first | rfl | contradiction

theorem touch_tb_span {ps : List Part} {s0 s : State} {v0} {v1} (m0 : Part.tb ∈ ps) (m1 : Part.span ∈ ps) (h : Touches ps s0 s) :
    Touches ps s0 { s with tb := v0, span := v1 } := by
  refine h.trans ?_
  intro p hp
  cases p <;> first | rfl | contradiction

theorem touch_tbl {ps : List Part} {s0 s : State} {v0} (m0 : Part.tbl ∈ ps) (h : Touches ps s0 s) :
    Touches ps s0 { s with tbl := v0 } := by
  refine h.trans ?_
  intro p hp
  cases p <;> first | rfl | contradiction

theorem touch_upd {ps : List Part} {s0 s : State} {v0} (m0 : Part.upd ∈ ps) (h : Touches ps s0 s) :
    Touches ps s0 { s with upd := v0 } := by
  refine h.trans ?_
  intro p hp
  cases p <;> first | rfl | contradiction

theorem setEnt_touch {qs : List Part} {sI : State} (s : State) (idx sub v : Nat) (m_colo : Part.colo ∈ qs)  (ht : Touches qs sI s) :
    Touches qs sI (setEnt s idx sub v) := by
  unfold setEnt
  (try dsimp only)
  (repeat' split) <;> simp (maxDischargeDepth := 40) only [ht, m_colo, touch_colo, Touches.refl, touch_foldl, touch_ite, touch_cond, implies_true, and_self]

theorem bumpEnt_touch {qs : List Part} {sI : State} (s : State) (idx sub k width : Nat) (m_colo : Part.colo ∈ qs)  (ht : Touches qs sI s) :
    Touches qs sI (bumpEnt s idx sub k width) := by
  unfold bumpEnt
  (try dsimp only)
  (repeat' split) <;> simp (maxDischargeDepth := 40) only [ht, m_colo, setEnt_touch, Touches.refl, touch_foldl, touch_ite, touch_cond, implies_true, and_self]

theorem modForme_touch {qs : List Part} {sI : State} (s : State) (f : FormeIx) (g : Forme → Forme) (m_formes : Part.formes ∈ qs)  (ht : Touches qs sI s) :
    Touches qs sI (modForme s f g) := by
  unfold modForme
  (try dsimp only)
  (repeat' split) <;> simp (maxDischargeDepth := 40) only [ht, m_formes, touch_formes, Touches.refl, touch_foldl, touch_ite, touch_cond, implies_true, and_self]

theorem emit_touch {qs : List Part} {sI : State} (s : State) (o : Out) (m_out : Part.out ∈ qs)  (ht : Touches qs sI s) :
    Touches qs sI (emit s o) := by
  unfold emit
  (try dsimp only)
  (repeat' split) <;> simp (maxDischargeDepth := 40) only [ht, m_out, touch_out, Touches.refl, touch_foldl, touch_ite, touch_cond, implies_true, and_self]

theorem useFree_touch {qs : List Part} {sI : State} (s : State) (n : Nat) (m_free : Part.free ∈ qs)  (ht : Touches qs sI s) :
    Touches qs sI (useFree s n) := by
  unfold useFree
  (try dsimp only)
  (repeat' split) <;> simp (maxDischargeDepth := 40) only [ht, m_free, touch_free, Touches.refl, touch_foldl, touch_ite, touch_cond, implies_true, and_self]

theorem relist_touch {qs : List Part} {sI : State} (before after : State) (m_colo : Part.colo ∈ qs)  (ht : Touches qs sI after) :
    Touches qs sI (relist before after) := by
  unfold relist
  (try dsimp only)
  (repeat' split) <;> simp (maxDischargeDepth := 40) only [ht, m_colo, touch_colo, Touches.refl, touch_foldl, touch_ite, touch_cond, implies_true, and_self]

theorem sendColo_touch {qs : List Part} {sI : State} (s : State) (key : ClientKey) (c : Client) (m : ColoMsg) (m_out : Part.out ∈ qs) (m_colo : Part.colo ∈ qs)  (ht : Touches qs sI s) :
    Touches qs sI (sendColo s key c m) := by
  unfold sendColo
  (try dsimp only)
  (repeat' split) <;> simp (maxDischargeDepth := 40) only [ht, m_out, m_colo, emit_touch, touch_colo, Touches.refl, touch_foldl, touch_ite, touch_cond, implies_true, and_self]

theorem deliverEvent_touch {qs : List Part} {sI : State} (s : State) (e : Event) (i : Nat) (m_out : Part.out ∈ qs) (m_colo : Part.colo ∈ qs)  (ht : Touches qs sI s) :
    Touches qs sI (deliverEvent s e i) := by
  unfold deliverEvent
  (try dsimp only)
  (repeat' split) <;> simp (maxDischargeDepth := 40) only [ht, m_out, m_colo, sendColo_touch, touch_colo, Touches.refl, touch_foldl, touch_ite, touch_cond, implies_true, and_self]

theorem sendEvent_touch {qs : List Part} {sI : State} (s : State) (e : Event) (m_out : Part.out ∈ qs) (m_colo : Part.colo ∈ qs)  (ht : Touches qs sI s) :
    Touches qs sI (sendEvent s e) := by
  unfold sendEvent
  (try dsimp only)
  (repeat' split) <;> simp (maxDischargeDepth := 40) only [ht, m_out, m_colo, deliverEvent_touch, Touches.refl, touch_foldl, touch_ite, touch_cond, implies_true, and_self]

theorem notifyEvent_touch {qs : List Part} {sI : State} (s : State) (kind index detail : Nat) (m_out : Part.out ∈ qs) (m_colo : Part.colo ∈ qs)  (ht : Touches qs sI s) :
    Touches qs sI (notifyEvent s kind index detail) := by
  unfold notifyEvent
  (try dsimp only)
  (repeat' split) <;> simp (maxDischargeDepth := 40) only [ht, m_out, m_colo, sendEvent_touch, touch_colo, Touches.refl, touch_foldl, touch_ite, touch_cond, implies_true, and_self]

theorem irq_touch {qs : List Part} {sI : State} (s : State) (k : Nat) (m_cores : Part.cores ∈ qs)  (ht : Touches qs sI s) :
    Touches qs sI (irq s k) := by
  unfold irq
  (try dsimp only)
  (repeat' split) <;> simp (maxDischargeDepth := 40) only [ht, m_cores, touch_cores, Touches.refl, touch_foldl, touch_ite, touch_cond, implies_true, and_self]

theorem raise_touch {qs : List Part} {sI : State} (s : State) (k index detail : Nat) (m_out : Part.out ∈ qs) (m_cores : Part.cores ∈ qs) (m_colo : Part.colo ∈ qs)  (ht : Touches qs sI s) :
    Touches qs sI (raise s k index detail) := by
  unfold raise
  (try dsimp only)
  (repeat' split) <;> simp (maxDischargeDepth := 40) only [ht, m_out, m_cores, m_colo, irq_touch, notifyEvent_touch, Touches.refl, touch_foldl, touch_ite, touch_cond, implies_true, and_self]

theorem faultRise_touch {qs : List Part} {sI : State} (before after : State) (m_out : Part.out ∈ qs) (m_colo : Part.colo ∈ qs)  (ht : Touches qs sI after) :
    Touches qs sI (faultRise before after) := by
  unfold faultRise
  (try dsimp only)
  (repeat' split) <;> simp (maxDischargeDepth := 40) only [ht, m_out, m_colo, notifyEvent_touch, Touches.refl, touch_foldl, touch_ite, touch_cond, implies_true, and_self]

theorem bucketEvent_touch {qs : List Part} {sI : State} (s : State) (c : Fin 12) (m_fault : Part.fault ∈ qs)  (ht : Touches qs sI s) :
    Touches qs sI (bucketEvent s c) := by
  unfold bucketEvent
  (try dsimp only)
  (repeat' split) <;> simp (maxDischargeDepth := 40) only [ht, m_fault, touch_fault, Touches.refl, touch_foldl, touch_ite, touch_cond, implies_true, and_self]

theorem logFault_touch {qs : List Part} {sI : State} (s : State) (cls : MClass) (sev : Sev) (forme : Option FormeIx) (act : FAction) (index : Nat) (folio : BitVec 32) (addr : Nat) (m_out : Part.out ∈ qs) (m_formes : Part.formes ∈ qs) (m_fault : Part.fault ∈ qs) (m_colo : Part.colo ∈ qs) (m_flash : Part.flash ∈ qs)  (ht : Touches qs sI s) :
    Touches qs sI (logFault s cls sev forme act index folio addr) := by
  unfold logFault
  (try dsimp only)
  (repeat' split) <;> simp (maxDischargeDepth := 40) only [ht, m_out, m_formes, m_fault, m_colo, m_flash, bucketEvent_touch, faultRise_touch, modForme_touch, touch_fault_flash, Touches.refl, touch_foldl, touch_ite, touch_cond, implies_true, and_self]

theorem flushEvents_touch {qs : List Part} {sI : State} (n : Nat) (s : State) (m_out : Part.out ∈ qs) (m_gddr : Part.gddr ∈ qs) (m_imp : Part.imp ∈ qs) (m_cores : Part.cores ∈ qs) (m_colo : Part.colo ∈ qs) (ht : Touches qs sI s) :
    Touches qs sI (flushEvents n s) := by
  induction n generalizing s with
  | zero => exact ht
  | succ n ih =>
    unfold flushEvents
    dsimp only
    (repeat' split) <;> first
      | exact ht
      | (apply ih; simp (maxDischargeDepth := 40) only [ht, m_out, m_gddr, m_imp, m_cores, m_colo, notifyEvent_touch, irq_touch, touch_gddr_imp])

theorem imposerEvent_touch {qs : List Part} {sI : State} (s : State) (k : EvKind) (handle : BitVec 16) (reason : Nat) (folioId : BitVec 32) (op : Nat) (m_free : Part.free ∈ qs) (m_out : Part.out ∈ qs) (m_gddr : Part.gddr ∈ qs) (m_imp : Part.imp ∈ qs) (m_cores : Part.cores ∈ qs) (m_colo : Part.colo ∈ qs)  (ht : Touches qs sI s) :
    Touches qs sI (imposerEvent s k handle reason folioId op) := by
  unfold imposerEvent
  (try dsimp only)
  (repeat' split) <;> simp (maxDischargeDepth := 40) only [ht, m_free, m_out, m_gddr, m_imp, m_cores, m_colo, flushEvents_touch, useFree_touch, touch_imp, Touches.refl, touch_foldl, touch_ite, touch_cond, implies_true, and_self]

theorem noteAlarm_touch {qs : List Part} {sI : State} (s : State) (tag : BitVec 12) (k : Nat) (m_tbl : Part.tbl ∈ qs) (m_proof : Part.proof ∈ qs) (ht : Touches qs sI s) :
    Touches qs sI (noteAlarm s tag k) := by
  unfold noteAlarm
  dsimp only
  split
  · exact touch_tbl m_tbl ht
  · refine ht.trans ?_
    intro p hp
    cases p <;> first | contradiction | rfl

theorem settleAlarms_touch {qs : List Part} {sI : State} (s : State) (n : Nat) (m_out : Part.out ∈ qs) (m_proof : Part.proof ∈ qs) (m_cores : Part.cores ∈ qs) (m_colo : Part.colo ∈ qs)  (ht : Touches qs sI s) :
    Touches qs sI (settleAlarms s n) := by
  unfold settleAlarms
  (try dsimp only)
  (repeat' split) <;> simp (maxDischargeDepth := 40) only [ht, m_out, m_proof, m_cores, m_colo, raise_touch, setEnt_touch, touch_proof, Touches.refl, touch_foldl, touch_ite, touch_cond, implies_true, and_self]

theorem raiseAlarm_touch {qs : List Part} {sI : State} (s : State) (tag : BitVec 12) (k : Nat) (m_out : Part.out ∈ qs) (m_tbl : Part.tbl ∈ qs) (m_proof : Part.proof ∈ qs) (m_cores : Part.cores ∈ qs) (m_colo : Part.colo ∈ qs)  (ht : Touches qs sI s) :
    Touches qs sI (raiseAlarm s tag k) := by
  unfold raiseAlarm
  (try dsimp only)
  (repeat' split) <;> simp (maxDischargeDepth := 40) only [ht, m_out, m_tbl, m_proof, m_cores, m_colo, noteAlarm_touch, settleAlarms_touch, Touches.refl, touch_foldl, touch_ite, touch_cond, implies_true, and_self]

theorem remoteSignal_touch {qs : List Part} {sI : State} (s : State) (f : FormeIx) (j : BitVec 4) (n : Nat) (m_formes : Part.formes ∈ qs) (m_colo : Part.colo ∈ qs)  (ht : Touches qs sI s) :
    Touches qs sI (remoteSignal s f j n) := by
  unfold remoteSignal
  (try dsimp only)
  (repeat' split) <;> simp (maxDischargeDepth := 40) only [ht, m_formes, m_colo, bumpEnt_touch, modForme_touch, Touches.refl, touch_foldl, touch_ite, touch_cond, implies_true, and_self]

theorem signalMask_touch {qs : List Part} {sI : State} (s : State) (mask : BitVec 12) (j : BitVec 4) (m_formes : Part.formes ∈ qs) (m_colo : Part.colo ∈ qs)  (ht : Touches qs sI s) :
    Touches qs sI (signalMask s mask j) := by
  unfold signalMask
  (try dsimp only)
  (repeat' split) <;> simp (maxDischargeDepth := 40) only [ht, m_formes, m_colo, remoteSignal_touch, Touches.refl, touch_foldl, touch_ite, touch_cond, implies_true, and_self]

theorem abortSet_touch {qs : List Part} {sI : State} (s : State) (fs : List FormeIx) (m_formes : Part.formes ∈ qs)  (ht : Touches qs sI s) :
    Touches qs sI (abortSet s fs) := by
  unfold abortSet
  (try dsimp only)
  (repeat' split) <;> simp (maxDischargeDepth := 40) only [ht, m_formes, modForme_touch, Touches.refl, touch_foldl, touch_ite, touch_cond, implies_true, and_self]

theorem modFolio_touch {qs : List Part} {sI : State} (s : State) (h : BitVec 16) (g : Folio → Folio) (m_imp : Part.imp ∈ qs)  (ht : Touches qs sI s) :
    Touches qs sI (modFolio s h g) := by
  unfold modFolio
  (try dsimp only)
  (repeat' split) <;> simp (maxDischargeDepth := 40) only [ht, m_imp, touch_imp, Touches.refl, touch_foldl, touch_ite, touch_cond, implies_true, and_self]

theorem abortFolio_touch {qs : List Part} {sI : State} (s : State) (f : FormeIx) (code : BitVec 8) (m_formes : Part.formes ∈ qs) (m_imp : Part.imp ∈ qs)  (ht : Touches qs sI s) :
    Touches qs sI (abortFolio s f code) := by
  unfold abortFolio
  (try dsimp only)
  (repeat' split) <;> simp (maxDischargeDepth := 40) only [ht, m_formes, m_imp, abortSet_touch, modFolio_touch, modForme_touch, Touches.refl, touch_foldl, touch_ite, touch_cond, implies_true, and_self]

theorem progError_touch {qs : List Part} {sI : State} (s : State) (f : FormeIx) (code : PErr) (q : BitVec 3) (fld : Nat) (index : BitVec 24) (m_formes : Part.formes ∈ qs) (m_imp : Part.imp ∈ qs)  (ht : Touches qs sI s) :
    Touches qs sI (progError s f code q fld index) := by
  unfold progError
  (try dsimp only)
  (repeat' split) <;> simp (maxDischargeDepth := 40) only [ht, m_formes, m_imp, abortFolio_touch, modForme_touch, Touches.refl, touch_foldl, touch_ite, touch_cond, implies_true, and_self]

theorem setHist_touch {qs : List Part} {sI : State} (s : State) (g : Nat) (e : HistEntry) (m_tbl : Part.tbl ∈ qs)  (ht : Touches qs sI s) :
    Touches qs sI (setHist s g e) := by
  unfold setHist
  (try dsimp only)
  (repeat' split) <;> simp (maxDischargeDepth := 40) only [ht, m_tbl, touch_tbl, Touches.refl, touch_foldl, touch_ite, touch_cond, implies_true, and_self]

theorem localPut_touch {qs : List Part} {sI : State} (s : State) (a : Nat) (b : Byte) (m_formes : Part.formes ∈ qs) (m_gddr : Part.gddr ∈ qs) (m_tbl : Part.tbl ∈ qs)  (ht : Touches qs sI s) :
    Touches qs sI (localPut s a b) := by
  unfold localPut
  (try dsimp only)
  (repeat' split) <;> simp (maxDischargeDepth := 40) only [ht, m_formes, m_gddr, m_tbl, modForme_touch, setHist_touch, touch_gddr, Touches.refl, touch_foldl, touch_ite, touch_cond, implies_true, and_self]

theorem localPutAll_touch {qs : List Part} {sI : State} (s : State) (bs : List (Nat × Byte)) (m_formes : Part.formes ∈ qs) (m_gddr : Part.gddr ∈ qs) (m_tbl : Part.tbl ∈ qs)  (ht : Touches qs sI s) :
    Touches qs sI (localPutAll s bs) := by
  unfold localPutAll
  (try dsimp only)
  (repeat' split) <;> simp (maxDischargeDepth := 40) only [ht, m_formes, m_gddr, m_tbl, localPut_touch, Touches.refl, touch_foldl, touch_ite, touch_cond, implies_true, and_self]

theorem storedAbort_touch {qs : List Part} {sI : State} (s : State) (f : FormeIx) (m_formes : Part.formes ∈ qs) (m_imp : Part.imp ∈ qs)  (ht : Touches qs sI s) :
    Touches qs sI (storedAbort s f) := by
  unfold storedAbort
  (try dsimp only)
  (repeat' split) <;> simp (maxDischargeDepth := 40) only [ht, m_formes, m_imp, abortFolio_touch, Touches.refl, touch_foldl, touch_ite, touch_cond, implies_true, and_self]

theorem memoryError_touch {qs : List Part} {sI : State} (s : State) (cls : MClass) (f : FormeIx) (off : Nat) (m_out : Part.out ∈ qs) (m_formes : Part.formes ∈ qs) (m_imp : Part.imp ∈ qs) (m_fault : Part.fault ∈ qs) (m_colo : Part.colo ∈ qs) (m_flash : Part.flash ∈ qs)  (ht : Touches qs sI s) :
    Touches qs sI (memoryError s cls f off) := by
  unfold memoryError
  (try dsimp only)
  (repeat' split) <;> simp (maxDischargeDepth := 40) only [ht, m_out, m_formes, m_imp, m_fault, m_colo, m_flash, logFault_touch, modForme_touch, storedAbort_touch, Touches.refl, touch_foldl, touch_ite, touch_cond, implies_true, and_self]

theorem gddrError_touch {qs : List Part} {sI : State} (s : State) (f : Option FormeIx) (act : FAction) (addr : Nat) (m_out : Part.out ∈ qs) (m_formes : Part.formes ∈ qs) (m_gddr : Part.gddr ∈ qs) (m_fault : Part.fault ∈ qs) (m_colo : Part.colo ∈ qs) (m_flash : Part.flash ∈ qs)  (ht : Touches qs sI s) :
    Touches qs sI (gddrError s f act addr) := by
  unfold gddrError
  (try dsimp only)
  (repeat' split) <;> simp (maxDischargeDepth := 40) only [ht, m_out, m_formes, m_gddr, m_fault, m_colo, m_flash, bumpEnt_touch, logFault_touch, touch_gddr, Touches.refl, touch_foldl, touch_ite, touch_cond, implies_true, and_self]

theorem storedError_touch {qs : List Part} {sI : State} (s : State) (f : FormeIx) (e : ReadErr) (m_out : Part.out ∈ qs) (m_formes : Part.formes ∈ qs) (m_gddr : Part.gddr ∈ qs) (m_imp : Part.imp ∈ qs) (m_fault : Part.fault ∈ qs) (m_colo : Part.colo ∈ qs) (m_flash : Part.flash ∈ qs)  (ht : Touches qs sI s) :
    Touches qs sI (storedError s f e) := by
  unfold storedError
  (try dsimp only)
  (repeat' split) <;> simp (maxDischargeDepth := 40) only [ht, m_out, m_formes, m_gddr, m_imp, m_fault, m_colo, m_flash, gddrError_touch, logFault_touch, memoryError_touch, storedAbort_touch, Touches.refl, touch_foldl, touch_ite, touch_cond, implies_true, and_self]

theorem pumpPort_touch {qs : List Part} {sI : State} (n : Nat) (s : State) (p : Fin 11) (m_out : Part.out ∈ qs) (m_span : Part.span ∈ qs) (ht : Touches qs sI s) :
    Touches qs sI (pumpPort n s p) := by
  induction n generalizing s with
  | zero => exact ht
  | succ n ih =>
    unfold pumpPort
    dsimp only
    (repeat' split) <;> first
      | exact ht
      | (apply ih; simp (maxDischargeDepth := 40) only [ht, m_out, m_span, emit_touch, touch_span])

theorem enqueuePort_touch {qs : List Part} {sI : State} (s : State) (p : Fin 11) (pk : SpanPacket) (m_out : Part.out ∈ qs) (m_span : Part.span ∈ qs)  (ht : Touches qs sI s) :
    Touches qs sI (enqueuePort s p pk) := by
  unfold enqueuePort
  (try dsimp only)
  (repeat' split) <;> simp (maxDischargeDepth := 40) only [ht, m_out, m_span, pumpPort_touch, touch_span, Touches.refl, touch_foldl, touch_ite, touch_cond, implies_true, and_self]

theorem spanSend_touch {qs : List Part} {sI : State} (s : State) (pk : SpanPacket) (m_out : Part.out ∈ qs) (m_span : Part.span ∈ qs) (m_colo : Part.colo ∈ qs)  (ht : Touches qs sI s) :
    Touches qs sI (spanSend s pk).1 := by
  unfold spanSend
  (try dsimp only)
  (repeat' split) <;> simp (maxDischargeDepth := 40) only [ht, m_out, m_span, m_colo, bumpEnt_touch, enqueuePort_touch, Touches.refl, touch_foldl, touch_ite, touch_cond, implies_true, and_self]

theorem sendNack_touch {qs : List Part} {sI : State} (s : State) (pk : SpanPacket) (r : Nack) (m_out : Part.out ∈ qs) (m_span : Part.span ∈ qs) (m_colo : Part.colo ∈ qs)  (ht : Touches qs sI s) :
    Touches qs sI (sendNack s pk r) := by
  unfold sendNack
  (try dsimp only)
  (repeat' split) <;> simp (maxDischargeDepth := 40) only [ht, m_out, m_span, m_colo, spanSend_touch, Touches.refl, touch_foldl, touch_ite, touch_cond, implies_true, and_self]

theorem fenceStop_touch {qs : List Part} {sI : State} (s : State) (reason : BitVec 3) (m_span : Part.span ∈ qs) (m_abut : Part.abut ∈ qs) (m_cores : Part.cores ∈ qs) (m_svc : Part.svc ∈ qs) (m_fault : Part.fault ∈ qs) (m_colo : Part.colo ∈ qs) (m_boot : Part.boot ∈ qs) (m_pwr : Part.pwr ∈ qs)  (ht : Touches qs sI s) :
    Touches qs sI (fenceStop s reason) := by
  unfold fenceStop
  (try dsimp only)
  (repeat' split) <;> simp (maxDischargeDepth := 40) only [ht, m_span, m_abut, m_cores, m_svc, m_fault, m_colo, m_boot, m_pwr, touch_span_abut_cores_svc_fault_colo_boot_pwr, Touches.refl, touch_foldl, touch_ite, touch_cond, implies_true, and_self]

theorem logFence_touch {qs : List Part} {sI : State} (s : State) (reason : BitVec 3) (act : FAction) (m_out : Part.out ∈ qs) (m_formes : Part.formes ∈ qs) (m_fault : Part.fault ∈ qs) (m_colo : Part.colo ∈ qs) (m_flash : Part.flash ∈ qs)  (ht : Touches qs sI s) :
    Touches qs sI (logFence s reason act) := by
  unfold logFence
  (try dsimp only)
  (repeat' split) <;> simp (maxDischargeDepth := 40) only [ht, m_out, m_formes, m_fault, m_colo, m_flash, logFault_touch, Touches.refl, touch_foldl, touch_ite, touch_cond, implies_true, and_self]

theorem fenceDie_touch {qs : List Part} {sI : State} (s : State) (reason : BitVec 3) (m_out : Part.out ∈ qs) (m_formes : Part.formes ∈ qs) (m_span : Part.span ∈ qs) (m_abut : Part.abut ∈ qs) (m_cores : Part.cores ∈ qs) (m_svc : Part.svc ∈ qs) (m_fault : Part.fault ∈ qs) (m_colo : Part.colo ∈ qs) (m_boot : Part.boot ∈ qs) (m_flash : Part.flash ∈ qs) (m_pwr : Part.pwr ∈ qs)  (ht : Touches qs sI s) :
    Touches qs sI (fenceDie s reason) := by
  unfold fenceDie
  (try dsimp only)
  (repeat' split) <;> simp (maxDischargeDepth := 40) only [ht, m_out, m_formes, m_span, m_abut, m_cores, m_svc, m_fault, m_colo, m_boot, m_flash, m_pwr, fenceStop_touch, logFence_touch, Touches.refl, touch_foldl, touch_ite, touch_cond, implies_true, and_self]

theorem fenceFault_touch {qs : List Part} {sI : State} (s : State) (cls : MClass) (sev : Sev) (index addr : Nat) (reason : BitVec 3) (m_out : Part.out ∈ qs) (m_formes : Part.formes ∈ qs) (m_span : Part.span ∈ qs) (m_abut : Part.abut ∈ qs) (m_cores : Part.cores ∈ qs) (m_svc : Part.svc ∈ qs) (m_fault : Part.fault ∈ qs) (m_colo : Part.colo ∈ qs) (m_boot : Part.boot ∈ qs) (m_flash : Part.flash ∈ qs) (m_pwr : Part.pwr ∈ qs)  (ht : Touches qs sI s) :
    Touches qs sI (fenceFault s cls sev index addr reason) := by
  unfold fenceFault
  (try dsimp only)
  (repeat' split) <;> simp (maxDischargeDepth := 40) only [ht, m_out, m_formes, m_span, m_abut, m_cores, m_svc, m_fault, m_colo, m_boot, m_flash, m_pwr, fenceStop_touch, logFault_touch, logFence_touch, Touches.refl, touch_foldl, touch_ite, touch_cond, implies_true, and_self]

theorem eraseKeys_touch {qs : List Part} {sI : State} (s : State) (m_span : Part.span ∈ qs) (m_colo : Part.colo ∈ qs) (m_sec : Part.sec ∈ qs)  (ht : Touches qs sI s) :
    Touches qs sI (eraseKeys s) := by
  unfold eraseKeys
  (try dsimp only)
  (repeat' split) <;> simp (maxDischargeDepth := 40) only [ht, m_span, m_colo, m_sec, touch_span_colo_sec, Touches.refl, touch_foldl, touch_ite, touch_cond, implies_true, and_self]

theorem securityAlarm_touch {qs : List Part} {sI : State} (s : State) (srcs : BitVec 6) (m_out : Part.out ∈ qs) (m_formes : Part.formes ∈ qs) (m_span : Part.span ∈ qs) (m_abut : Part.abut ∈ qs) (m_cores : Part.cores ∈ qs) (m_svc : Part.svc ∈ qs) (m_fault : Part.fault ∈ qs) (m_colo : Part.colo ∈ qs) (m_boot : Part.boot ∈ qs) (m_flash : Part.flash ∈ qs) (m_sec : Part.sec ∈ qs) (m_pwr : Part.pwr ∈ qs)  (ht : Touches qs sI s) :
    Touches qs sI (securityAlarm s srcs) := by
  unfold securityAlarm
  (try dsimp only)
  (repeat' split) <;> simp (maxDischargeDepth := 40) only [ht, m_out, m_formes, m_span, m_abut, m_cores, m_svc, m_fault, m_colo, m_boot, m_flash, m_sec, m_pwr, eraseKeys_touch, fenceDie_touch, notifyEvent_touch, touch_sec, Touches.refl, touch_foldl, touch_ite, touch_cond, implies_true, and_self]

theorem ethSendPacket_touch {qs : List Part} {sI : State} (s : State) (k : SpanPacket) (m_out : Part.out ∈ qs) (m_span : Part.span ∈ qs) (m_abut : Part.abut ∈ qs) (m_colo : Part.colo ∈ qs)  (ht : Touches qs sI s) :
    Touches qs sI (ethSendPacket s k) := by
  unfold ethSendPacket
  (try dsimp only)
  (repeat' split) <;> simp (maxDischargeDepth := 40) only [ht, m_out, m_span, m_abut, m_colo, spanSend_touch, touch_abut, Touches.refl, touch_foldl, touch_ite, touch_cond, implies_true, and_self]

theorem ethSend_touch {qs : List Part} {sI : State} (s : State) (dst : BitVec 12) (dir : Nat) (report : Bool) (len : Nat) (payload : List Byte) (m_out : Part.out ∈ qs) (m_span : Part.span ∈ qs) (m_abut : Part.abut ∈ qs) (m_colo : Part.colo ∈ qs)  (ht : Touches qs sI s) :
    Touches qs sI (ethSend s dst dir report len payload) := by
  unfold ethSend
  (try dsimp only)
  (repeat' split) <;> simp (maxDischargeDepth := 40) only [ht, m_out, m_span, m_abut, m_colo, ethSendPacket_touch, Touches.refl, touch_foldl, touch_ite, touch_cond, implies_true, and_self]

theorem ethNack_touch {qs : List Part} {sI : State} (s : State) (k : SpanPacket) (m_out : Part.out ∈ qs) (m_formes : Part.formes ∈ qs) (m_span : Part.span ∈ qs) (m_abut : Part.abut ∈ qs) (m_fault : Part.fault ∈ qs) (m_colo : Part.colo ∈ qs) (m_flash : Part.flash ∈ qs)  (ht : Touches qs sI s) :
    Touches qs sI (ethNack s k) := by
  unfold ethNack
  (try dsimp only)
  (repeat' split) <;> simp (maxDischargeDepth := 40) only [ht, m_out, m_formes, m_span, m_abut, m_fault, m_colo, m_flash, logFault_touch, spanSend_touch, touch_abut, Touches.refl, touch_foldl, touch_ite, touch_cond, implies_true, and_self]

theorem ethToPort_touch {qs : List Part} {sI : State} (s : State) (tsreq : Bool) (tag : BitVec 32) (bytes : List Byte) (m_out : Part.out ∈ qs) (m_span : Part.span ∈ qs) (m_abut : Part.abut ∈ qs) (m_colo : Part.colo ∈ qs)  (ht : Touches qs sI s) :
    Touches qs sI (ethToPort s tsreq tag bytes) := by
  unfold ethToPort
  (try dsimp only)
  (repeat' split) <;> simp (maxDischargeDepth := 40) only [ht, m_out, m_span, m_abut, m_colo, emit_touch, ethSend_touch, Touches.refl, touch_foldl, touch_ite, touch_cond, implies_true, and_self]

theorem ethToOwner_touch {qs : List Part} {sI : State} (s : State) (d : Nat) (ect : Bool) (time : Nat) (bytes : List Byte) (m_out : Part.out ∈ qs) (m_span : Part.span ∈ qs) (m_abut : Part.abut ∈ qs) (m_colo : Part.colo ∈ qs)  (ht : Touches qs sI s) :
    Touches qs sI (ethToOwner s d ect time bytes) := by
  unfold ethToOwner
  (try dsimp only)
  (repeat' split) <;> simp (maxDischargeDepth := 40) only [ht, m_out, m_span, m_abut, m_colo, bumpEnt_touch, ethSend_touch, Touches.refl, touch_foldl, touch_ite, touch_cond, implies_true, and_self]

theorem updateServer_touch {qs : List Part} {sI : State} (s : State) (m_out : Part.out ∈ qs) (m_abut : Part.abut ∈ qs) (m_cores : Part.cores ∈ qs) (m_colo : Part.colo ∈ qs)  (ht : Touches qs sI s) :
    Touches qs sI (updateServer s) := by
  unfold updateServer
  (try dsimp only)
  (repeat' split) <;> simp (maxDischargeDepth := 40) only [ht, m_out, m_abut, m_cores, m_colo, raise_touch, touch_abut, Touches.refl, touch_foldl, touch_ite, touch_cond, implies_true, and_self]

theorem dieRejoins_touch {qs : List Part} {sI : State} (s : State) (d : Nat) (m_out : Part.out ∈ qs) (m_abut : Part.abut ∈ qs) (m_cores : Part.cores ∈ qs) (m_fault : Part.fault ∈ qs) (m_colo : Part.colo ∈ qs)  (ht : Touches qs sI s) :
    Touches qs sI (dieRejoins s d) := by
  unfold dieRejoins
  (try dsimp only)
  (repeat' split) <;> simp (maxDischargeDepth := 40) only [ht, m_out, m_abut, m_cores, m_fault, m_colo, updateServer_touch, touch_fault, Touches.refl, touch_foldl, touch_ite, touch_cond, implies_true, and_self]

theorem modGddr_touch {qs : List Part} {sI : State} (s : State) (g : Gddr → Gddr) (m_gddr : Part.gddr ∈ qs)  (ht : Touches qs sI s) :
    Touches qs sI (modGddr s g) := by
  unfold modGddr
  (try dsimp only)
  (repeat' split) <;> simp (maxDischargeDepth := 40) only [ht, m_gddr, touch_gddr, Touches.refl, touch_foldl, touch_ite, touch_cond, implies_true, and_self]

theorem ceEvent_touch {qs : List Part} {sI : State} (s : State) (addr : Nat) (m_out : Part.out ∈ qs) (m_formes : Part.formes ∈ qs) (m_gddr : Part.gddr ∈ qs) (m_fault : Part.fault ∈ qs) (m_colo : Part.colo ∈ qs) (m_flash : Part.flash ∈ qs)  (ht : Touches qs sI s) :
    Touches qs sI (ceEvent s addr) := by
  unfold ceEvent
  (try dsimp only)
  (repeat' split) <;> simp (maxDischargeDepth := 40) only [ht, m_out, m_formes, m_gddr, m_fault, m_colo, m_flash, logFault_touch, modGddr_touch, Touches.refl, touch_foldl, touch_ite, touch_cond, implies_true, and_self]

theorem modChan_touch {qs : List Part} {sI : State} (s : State) (c : Nat) (f : Chan → Chan) (m_gddr : Part.gddr ∈ qs)  (ht : Touches qs sI s) :
    Touches qs sI (modChan s c f) := by
  unfold modChan
  (try dsimp only)
  (repeat' split) <;> simp (maxDischargeDepth := 40) only [ht, m_gddr, modGddr_touch, Touches.refl, touch_foldl, touch_ite, touch_cond, implies_true, and_self]

theorem beginRetrain_touch {qs : List Part} {sI : State} (s : State) (c : Nat) (m_gddr : Part.gddr ∈ qs) (m_colo : Part.colo ∈ qs)  (ht : Touches qs sI s) :
    Touches qs sI (beginRetrain s c) := by
  unfold beginRetrain
  (try dsimp only)
  (repeat' split) <;> simp (maxDischargeDepth := 40) only [ht, m_gddr, m_colo, bumpEnt_touch, modChan_touch, Touches.refl, touch_foldl, touch_ite, touch_cond, implies_true, and_self]

theorem retrainTrigger_touch {qs : List Part} {sI : State} (s : State) (c : Nat) (m_gddr : Part.gddr ∈ qs) (m_colo : Part.colo ∈ qs)  (ht : Touches qs sI s) :
    Touches qs sI (retrainTrigger s c) := by
  unfold retrainTrigger
  (try dsimp only)
  (repeat' split) <;> simp (maxDischargeDepth := 40) only [ht, m_gddr, m_colo, beginRetrain_touch, modGddr_touch, Touches.refl, touch_foldl, touch_ite, touch_cond, implies_true, and_self]

theorem nextRetrain_touch {qs : List Part} {sI : State} (s : State) (k : Nat) (m_gddr : Part.gddr ∈ qs) (m_colo : Part.colo ∈ qs)  (ht : Touches qs sI s) :
    Touches qs sI (nextRetrain s k) := by
  unfold nextRetrain
  (try dsimp only)
  (repeat' split) <;> simp (maxDischargeDepth := 40) only [ht, m_gddr, m_colo, beginRetrain_touch, modGddr_touch, Touches.refl, touch_foldl, touch_ite, touch_cond, implies_true, and_self]

theorem retrainFinish_touch {qs : List Part} {sI : State} (s : State) (ch : Fin 80) (ok : Bool) (m_out : Part.out ∈ qs) (m_formes : Part.formes ∈ qs) (m_gddr : Part.gddr ∈ qs) (m_span : Part.span ∈ qs) (m_abut : Part.abut ∈ qs) (m_cores : Part.cores ∈ qs) (m_svc : Part.svc ∈ qs) (m_fault : Part.fault ∈ qs) (m_colo : Part.colo ∈ qs) (m_boot : Part.boot ∈ qs) (m_flash : Part.flash ∈ qs) (m_pwr : Part.pwr ∈ qs)  (ht : Touches qs sI s) :
    Touches qs sI (retrainFinish s ch ok) := by
  unfold retrainFinish
  (try dsimp only)
  (repeat' split) <;> simp (maxDischargeDepth := 40) only [ht, m_out, m_formes, m_gddr, m_span, m_abut, m_cores, m_svc, m_fault, m_colo, m_boot, m_flash, m_pwr, fenceFault_touch, modChan_touch, nextRetrain_touch, retrainTrigger_touch, Touches.refl, touch_foldl, touch_ite, touch_cond, implies_true, and_self]

theorem raiseRetire_touch {qs : List Part} {sI : State} (s : State) (m_out : Part.out ∈ qs) (m_cores : Part.cores ∈ qs) (m_colo : Part.colo ∈ qs)  (ht : Touches qs sI s) :
    Touches qs sI (raiseRetire s) := by
  unfold raiseRetire
  (try dsimp only)
  (repeat' split) <;> simp (maxDischargeDepth := 40) only [ht, m_out, m_cores, m_colo, raise_touch, Touches.refl, touch_foldl, touch_ite, touch_cond, implies_true, and_self]

theorem refuseRetire_touch {qs : List Part} {sI : State} (s : State) (rsn : BitVec 4) (m_out : Part.out ∈ qs) (m_gddr : Part.gddr ∈ qs) (m_cores : Part.cores ∈ qs) (m_colo : Part.colo ∈ qs)  (ht : Touches qs sI s) :
    Touches qs sI (refuseRetire s rsn) := by
  unfold refuseRetire
  (try dsimp only)
  (repeat' split) <;> simp (maxDischargeDepth := 40) only [ht, m_out, m_gddr, m_cores, m_colo, modGddr_touch, raiseRetire_touch, Touches.refl, touch_foldl, touch_ite, touch_cond, implies_true, and_self]

theorem recordRetirement_touch {qs : List Part} {sI : State} (s : State) (l spare : Nat) (m_flash : Part.flash ∈ qs)  (ht : Touches qs sI s) :
    Touches qs sI (recordRetirement s l spare) := by
  unfold recordRetirement
  (try dsimp only)
  (repeat' split) <;> simp (maxDischargeDepth := 40) only [ht, m_flash, touch_flash, Touches.refl, touch_foldl, touch_ite, touch_cond, implies_true, and_self]

theorem retireSpare_touch {qs : List Part} {sI : State} (s : State) (l : Nat) (m_out : Part.out ∈ qs) (m_gddr : Part.gddr ∈ qs) (m_cores : Part.cores ∈ qs) (m_colo : Part.colo ∈ qs) (m_flash : Part.flash ∈ qs)  (ht : Touches qs sI s) :
    Touches qs sI (retireSpare s l) := by
  unfold retireSpare
  (try dsimp only)
  (repeat' split) <;> simp (maxDischargeDepth := 40) only [ht, m_out, m_gddr, m_cores, m_colo, m_flash, modGddr_touch, raiseRetire_touch, recordRetirement_touch, Touches.refl, touch_foldl, touch_ite, touch_cond, implies_true, and_self]

theorem retireMapped_touch {qs : List Part} {sI : State} (s : State) (l spare : Nat) (m_gddr : Part.gddr ∈ qs)  (ht : Touches qs sI s) :
    Touches qs sI (retireMapped s l spare) := by
  unfold retireMapped
  (try dsimp only)
  (repeat' split) <;> simp (maxDischargeDepth := 40) only [ht, m_gddr, modGddr_touch, Touches.refl, touch_foldl, touch_ite, touch_cond, implies_true, and_self]

theorem retireGo_touch {qs : List Part} {sI : State} (s : State) (l : Nat) (m_out : Part.out ∈ qs) (m_gddr : Part.gddr ∈ qs) (m_cores : Part.cores ∈ qs) (m_colo : Part.colo ∈ qs) (m_flash : Part.flash ∈ qs)  (ht : Touches qs sI s) :
    Touches qs sI (retireGo s l) := by
  unfold retireGo
  (try dsimp only)
  (repeat' split) <;> simp (maxDischargeDepth := 40) only [ht, m_out, m_gddr, m_cores, m_colo, m_flash, refuseRetire_touch, retireMapped_touch, retireSpare_touch, Touches.refl, touch_foldl, touch_ite, touch_cond, implies_true, and_self]

theorem writeExtRetire_touch {qs : List Part} {sI : State} (s : State) (v : Word) (m_out : Part.out ∈ qs) (m_gddr : Part.gddr ∈ qs) (m_cores : Part.cores ∈ qs) (m_colo : Part.colo ∈ qs) (m_flash : Part.flash ∈ qs)  (ht : Touches qs sI s) :
    Touches qs sI (writeExtRetire s v) := by
  unfold writeExtRetire
  (try dsimp only)
  (repeat' split) <;> simp (maxDischargeDepth := 40) only [ht, m_out, m_gddr, m_cores, m_colo, m_flash, modGddr_touch, retireGo_touch, Touches.refl, touch_foldl, touch_ite, touch_cond, implies_true, and_self]

theorem migrationErrors_touch {qs : List Part} {sI : State} (s : State) (l p : Nat) (m_out : Part.out ∈ qs) (m_formes : Part.formes ∈ qs) (m_gddr : Part.gddr ∈ qs) (m_fault : Part.fault ∈ qs) (m_colo : Part.colo ∈ qs) (m_flash : Part.flash ∈ qs)  (ht : Touches qs sI s) :
    Touches qs sI (migrationErrors s l p) := by
  unfold migrationErrors
  (try dsimp only)
  (repeat' split) <;> simp (maxDischargeDepth := 40) only [ht, m_out, m_formes, m_gddr, m_fault, m_colo, m_flash, gddrError_touch, Touches.refl, touch_foldl, touch_ite, touch_cond, implies_true, and_self]

theorem migrationDone_touch {qs : List Part} {sI : State} (s : State) (m_out : Part.out ∈ qs) (m_formes : Part.formes ∈ qs) (m_gddr : Part.gddr ∈ qs) (m_cores : Part.cores ∈ qs) (m_fault : Part.fault ∈ qs) (m_colo : Part.colo ∈ qs) (m_flash : Part.flash ∈ qs)  (ht : Touches qs sI s) :
    Touches qs sI (migrationDone s) := by
  unfold migrationDone
  (try dsimp only)
  (repeat' split) <;> simp (maxDischargeDepth := 40) only [ht, m_out, m_formes, m_gddr, m_cores, m_fault, m_colo, m_flash, migrationErrors_touch, modGddr_touch, raiseRetire_touch, recordRetirement_touch, Touches.refl, touch_foldl, touch_ite, touch_cond, implies_true, and_self]

theorem reportCrc_touch {qs : List Part} {sI : State} (s : State) (gs : List Nat) (rep : MemReport) (m_out : Part.out ∈ qs) (m_formes : Part.formes ∈ qs) (m_gddr : Part.gddr ∈ qs) (m_fault : Part.fault ∈ qs) (m_colo : Part.colo ∈ qs) (m_flash : Part.flash ∈ qs)  (ht : Touches qs sI s) :
    Touches qs sI (reportCrc s gs rep) := by
  unfold reportCrc
  (try dsimp only)
  (repeat' split) <;> simp (maxDischargeDepth := 40) only [ht, m_out, m_formes, m_gddr, m_fault, m_colo, m_flash, bumpEnt_touch, ceEvent_touch, retrainTrigger_touch, Touches.refl, touch_foldl, touch_ite, touch_cond, implies_true, and_self]

theorem reportCorrected_touch {qs : List Part} {sI : State} (s : State) (g : Nat) (m_out : Part.out ∈ qs) (m_formes : Part.formes ∈ qs) (m_gddr : Part.gddr ∈ qs) (m_fault : Part.fault ∈ qs) (m_colo : Part.colo ∈ qs) (m_flash : Part.flash ∈ qs)  (ht : Touches qs sI s) :
    Touches qs sI (reportCorrected s g) := by
  unfold reportCorrected
  (try dsimp only)
  (repeat' split) <;> simp (maxDischargeDepth := 40) only [ht, m_out, m_formes, m_gddr, m_fault, m_colo, m_flash, bumpEnt_touch, ceEvent_touch, Touches.refl, touch_foldl, touch_ite, touch_cond, implies_true, and_self]

theorem reportLost_touch {qs : List Part} {sI : State} (s : State) (g : Nat) (m_gddr : Part.gddr ∈ qs)  (ht : Touches qs sI s) :
    Touches qs sI (reportLost s g) := by
  unfold reportLost
  (try dsimp only)
  (repeat' split) <;> simp (maxDischargeDepth := 40) only [ht, m_gddr, modGddr_touch, Touches.refl, touch_foldl, touch_ite, touch_cond, implies_true, and_self]

theorem applyReport_touch {qs : List Part} {sI : State} (s : State) (rd wr : List (Nat × Nat)) (rep : MemReport) (m_out : Part.out ∈ qs) (m_formes : Part.formes ∈ qs) (m_gddr : Part.gddr ∈ qs) (m_fault : Part.fault ∈ qs) (m_colo : Part.colo ∈ qs) (m_flash : Part.flash ∈ qs)  (ht : Touches qs sI s) :
    Touches qs sI (applyReport s rd wr rep) := by
  unfold applyReport
  (try dsimp only)
  (repeat' split) <;> simp (maxDischargeDepth := 40) only [ht, m_out, m_formes, m_gddr, m_fault, m_colo, m_flash, reportCorrected_touch, reportCrc_touch, reportLost_touch, Touches.refl, touch_foldl, touch_ite, touch_cond, implies_true, and_self]

end Sys2Proof
end

