-- ==== Sys2Proof/Laws/TouchForme.lean ====
section
/-! SUPPORT. What each operation of the front end, the instruction families, Carriages and the queue pairs under them leaves unchanged: one lemma each, `f_touch` -/

namespace Sys2Proof

open Machine

set_option maxRecDepth 4000
set_option linter.unusedSimpArgs false
set_option linter.unusedVariables false

theorem countWrite_touch {qs : List Part} {sI : State} (s : State) (d : Dst) (cells : List (Job × Enc)) (flats : Nat) (m_tbl : Part.tbl ∈ qs) (m_proof : Part.proof ∈ qs)  (ht : Touches qs sI s) :
    Touches qs sI (countWrite s d cells flats) := by
  unfold countWrite
  (try dsimp only)
  (repeat' split) <;> simp (maxDischargeDepth := 40) only [ht, m_tbl, m_proof, noteAlarm_touch, touch_tbl, Touches.refl, touch_foldl, touch_ite, touch_cond, implies_true, and_self]

theorem sampleWrite_touch {qs : List Part} {sI : State} (s : State) (d : Dst) (c : Ctl) (m : List (List (Job × Enc))) (m_tbl : Part.tbl ∈ qs) (m_proof : Part.proof ∈ qs)  (ht : Touches qs sI s) :
    Touches qs sI (sampleWrite s d c m) := by
  unfold sampleWrite
  (try dsimp only)
  (repeat' split) <;> simp (maxDischargeDepth := 40) only [ht, m_tbl, m_proof, noteAlarm_touch, touch_tbl, Touches.refl, touch_foldl, touch_ite, touch_cond, implies_true, and_self]

theorem finishDst_touch {qs : List Part} {sI : State} (s : State) (f : FormeIx) (d : Dst) (q : Quant) (dl : Option Delay) (encs : List (List Enc)) (m_formes : Part.formes ∈ qs) (m_tbl : Part.tbl ∈ qs) (m_proof : Part.proof ∈ qs)  (ht : Touches qs sI s) :
    Touches qs sI (finishDst s f d q dl encs) := by
  unfold finishDst
  (try dsimp only)
  (repeat' split) <;> simp (maxDischargeDepth := 40) only [ht, m_formes, m_tbl, m_proof, modForme_touch, noteAlarm_touch, setHist_touch, Touches.refl, touch_foldl, touch_ite, touch_cond, implies_true, and_self]

theorem proofDst_touch {qs : List Part} {sI : State} (s : State) (c : Ctl) (kd : ConvKind) (d : Dst) (q : Quant) (encs : List (List Enc)) (m_tbl : Part.tbl ∈ qs) (m_proof : Part.proof ∈ qs)  (ht : Touches qs sI s) :
    Touches qs sI (proofDst s c kd d q encs) := by
  unfold proofDst
  (try dsimp only)
  (repeat' split) <;> simp (maxDischargeDepth := 40) only [ht, m_tbl, m_proof, countWrite_touch, sampleWrite_touch, Touches.refl, touch_foldl, touch_ite, touch_cond, implies_true, and_self]

theorem convertRegion_touch {qs : List Part} {sI : State} (s : State) (f : FormeIx) (c : Ctl) (kd : ConvKind) (ds : List Dst) (vals : List (List Val)) (m_out : Part.out ∈ qs) (m_formes : Part.formes ∈ qs) (m_tbl : Part.tbl ∈ qs) (m_proof : Part.proof ∈ qs) (m_cores : Part.cores ∈ qs) (m_colo : Part.colo ∈ qs)  (ht : Touches qs sI s) :
    Touches qs sI (convertRegion s f c kd ds vals).st := by
  unfold convertRegion
  (try dsimp only)
  (repeat' split) <;> simp (maxDischargeDepth := 40) only [ht, m_out, m_formes, m_tbl, m_proof, m_cores, m_colo, finishDst_touch, modForme_touch, proofDst_touch, settleAlarms_touch, Touches.refl, touch_foldl, touch_ite, touch_cond, implies_true, and_self]

theorem pushEntry_touch {qs : List Part} {sI : State} (s : State) (f : FormeIx) (e : QEntry) (bal : Vector (BitVec 16) 16) (m_formes : Part.formes ∈ qs)  (ht : Touches qs sI s) :
    Touches qs sI (pushEntry s f e bal) := by
  unfold pushEntry
  (try dsimp only)
  (repeat' split) <;> simp (maxDischargeDepth := 40) only [ht, m_formes, modForme_touch, Touches.refl, touch_foldl, touch_ite, touch_cond, implies_true, and_self]

theorem dispatchNext_touch {qs : List Part} {sI : State} (s : State) (f : FormeIx) (m_out : Part.out ∈ qs) (m_formes : Part.formes ∈ qs) (m_gddr : Part.gddr ∈ qs) (m_imp : Part.imp ∈ qs) (m_fault : Part.fault ∈ qs) (m_colo : Part.colo ∈ qs) (m_flash : Part.flash ∈ qs)  (ht : Touches qs sI s) :
    Touches qs sI (dispatchNext s f) := by
  unfold dispatchNext
  (try dsimp only)
  (repeat' split) <;> simp (maxDischargeDepth := 40) only [ht, m_out, m_formes, m_gddr, m_imp, m_fault, m_colo, m_flash, gddrError_touch, modForme_touch, progError_touch, pushEntry_touch, Touches.refl, touch_foldl, touch_ite, touch_cond, implies_true, and_self]

theorem waitGrantEffect_touch {qs : List Part} {sI : State} (s : State) (f : FormeIx) (q : Queue) (m_formes : Part.formes ∈ qs)  (ht : Touches qs sI s) :
    Touches qs sI (waitGrantEffect s f q) := by
  unfold waitGrantEffect
  (try dsimp only)
  (repeat' split) <;> simp (maxDischargeDepth := 40) only [ht, m_formes, modForme_touch, Touches.refl, touch_foldl, touch_ite, touch_cond, implies_true, and_self]

theorem waitTimeoutEffect_touch {qs : List Part} {sI : State} (s : State) (f : FormeIx) (q : Queue) (m_formes : Part.formes ∈ qs) (m_imp : Part.imp ∈ qs)  (ht : Touches qs sI s) :
    Touches qs sI (waitTimeoutEffect s f q) := by
  unfold waitTimeoutEffect
  (try dsimp only)
  (repeat' split) <;> simp (maxDischargeDepth := 40) only [ht, m_formes, m_imp, progError_touch, Touches.refl, touch_foldl, touch_ite, touch_cond, implies_true, and_self]

theorem completeEffect_touch {qs : List Part} {sI : State} (s : State) (f : FormeIx) (index : BitVec 24) (m_formes : Part.formes ∈ qs)  (ht : Touches qs sI s) :
    Touches qs sI (completeEffect s f index) := by
  unfold completeEffect
  (try dsimp only)
  (repeat' split) <;> simp (maxDischargeDepth := 40) only [ht, m_formes, modForme_touch, Touches.refl, touch_foldl, touch_ite, touch_cond, implies_true, and_self]

theorem issueHead_touch {qs : List Part} {sI : State} (s : State) (f : FormeIx) (q : Queue) (done : Bool) (ctx : Option (Fin 16)) (slot : Option (Fin 8)) (m_formes : Part.formes ∈ qs)  (ht : Touches qs sI s) :
    Touches qs sI (issueHead s f q done ctx slot) := by
  unfold issueHead
  (try dsimp only)
  (repeat' split) <;> simp (maxDischargeDepth := 40) only [ht, m_formes, modForme_touch, Touches.refl, touch_foldl, touch_ite, touch_cond, implies_true, and_self]

theorem runHead_touch {qs : List Part} {sI : State} (s : State) (f : FormeIx) (q : Queue) (names claims : Option (Fin 16))
    (bad : Option ReadErr) (eff : State → State) (m_out : Part.out ∈ qs) (m_formes : Part.formes ∈ qs) (m_gddr : Part.gddr ∈ qs) (m_imp : Part.imp ∈ qs) (m_fault : Part.fault ∈ qs) (m_colo : Part.colo ∈ qs) (m_flash : Part.flash ∈ qs) (heff : ∀ t, Touches qs t (eff t)) (ht : Touches qs sI s) :
    Touches qs sI (runHead s f q names claims bad eff) := by
  have h1 : Touches qs sI (issueHead s f q true claims none) := by
    simp (maxDischargeDepth := 40) only [issueHead_touch, *]
  unfold runHead
  dsimp only
  split
  · simp (maxDischargeDepth := 40) only [progError_touch, *]
  · split
    · simp (maxDischargeDepth := 40) only [storedError_touch, *]
    · exact h1.trans (heff _)

theorem tmarkEffect_touch {qs : List Part} {sI : State} (f : FormeIx) (w : SWord) (s : State) (m_formes : Part.formes ∈ qs)  (ht : Touches qs sI s) :
    Touches qs sI (tmarkEffect f w s) := by
  unfold tmarkEffect
  (try dsimp only)
  (repeat' split) <;> simp (maxDischargeDepth := 40) only [ht, m_formes, modForme_touch, Touches.refl, touch_foldl, touch_ite, touch_cond, implies_true, and_self]

theorem scalepushEffect_touch {qs : List Part} {sI : State} (f : FormeIx) (w : SWord) (s : State) (m_free : Part.free ∈ qs) (m_out : Part.out ∈ qs) (m_tbl : Part.tbl ∈ qs) (m_proof : Part.proof ∈ qs) (m_cores : Part.cores ∈ qs) (m_colo : Part.colo ∈ qs)  (ht : Touches qs sI s) :
    Touches qs sI (scalepushEffect f w s) := by
  unfold scalepushEffect
  (try dsimp only)
  (repeat' split) <;> simp (maxDischargeDepth := 40) only [ht, m_free, m_out, m_tbl, m_proof, m_cores, m_colo, raiseAlarm_touch, setHist_touch, useFree_touch, Touches.refl, touch_foldl, touch_ite, touch_cond, implies_true, and_self]

theorem srseedEffect_touch {qs : List Part} {sI : State} (f : FormeIx) (w : SWord) (s : State) (m_formes : Part.formes ∈ qs)  (ht : Touches qs sI s) :
    Touches qs sI (srseedEffect f w s) := by
  unfold srseedEffect
  (try dsimp only)
  (repeat' split) <;> simp (maxDischargeDepth := 40) only [ht, m_formes, modForme_touch, Touches.refl, touch_foldl, touch_ite, touch_cond, implies_true, and_self]

theorem srsaveEffect_touch {qs : List Part} {sI : State} (f : FormeIx) (w : SWord) (s : State) (m_formes : Part.formes ∈ qs)  (ht : Touches qs sI s) :
    Touches qs sI (srsaveEffect f w s) := by
  unfold srsaveEffect
  (try dsimp only)
  (repeat' split) <;> simp (maxDischargeDepth := 40) only [ht, m_formes, modForme_touch, Touches.refl, touch_foldl, touch_ite, touch_cond, implies_true, and_self]

theorem srloadEffect_touch {qs : List Part} {sI : State} (f : FormeIx) (w : SWord) (s : State) (m_formes : Part.formes ∈ qs)  (ht : Touches qs sI s) :
    Touches qs sI (srloadEffect f w s) := by
  unfold srloadEffect
  (try dsimp only)
  (repeat' split) <;> simp (maxDischargeDepth := 40) only [ht, m_formes, modForme_touch, Touches.refl, touch_foldl, touch_ite, touch_cond, implies_true, and_self]

theorem setFlush_touch {qs : List Part} {sI : State} (s : State) (f : FormeIx) (b : Bool) (m_formes : Part.formes ∈ qs)  (ht : Touches qs sI s) :
    Touches qs sI (setFlush s f b) := by
  unfold setFlush
  (try dsimp only)
  (repeat' split) <;> simp (maxDischargeDepth := 40) only [ht, m_formes, modForme_touch, Touches.refl, touch_foldl, touch_ite, touch_cond, implies_true, and_self]

theorem galleyWrite_touch {qs : List Part} {sI : State} (s : State) (f : FormeIx) (bs : List (Nat × Byte)) (m_formes : Part.formes ∈ qs)  (ht : Touches qs sI s) :
    Touches qs sI (galleyWrite s f bs) := by
  unfold galleyWrite
  (try dsimp only)
  (repeat' split) <;> simp (maxDischargeDepth := 40) only [ht, m_formes, modForme_touch, Touches.refl, touch_foldl, touch_ite, touch_cond, implies_true, and_self]

theorem storeOut_touch {qs : List Part} {sI : State} (f : FormeIx) (o : ConvOut) (m_formes : Part.formes ∈ qs)  (ht : Touches qs sI o.st) :
    Touches qs sI (storeOut f o) := by
  unfold storeOut
  (try dsimp only)
  (repeat' split) <;> simp (maxDischargeDepth := 40) only [ht, m_formes, galleyWrite_touch, Touches.refl, touch_foldl, touch_ite, touch_cond, implies_true, and_self]

theorem convertGrid_touch {qs : List Part} {sI : State} (s : State) (f : FormeIx) (c : Ctl) (delayed : Bool) (d : Dst) (m : List (List (Val × Bool))) (m_out : Part.out ∈ qs) (m_formes : Part.formes ∈ qs) (m_tbl : Part.tbl ∈ qs) (m_proof : Part.proof ∈ qs) (m_cores : Part.cores ∈ qs) (m_colo : Part.colo ∈ qs)  (ht : Touches qs sI s) :
    Touches qs sI (convertGrid s f c delayed d m) := by
  unfold convertGrid
  (try dsimp only)
  (repeat' split) <;> simp (maxDischargeDepth := 40) only [ht, m_out, m_formes, m_tbl, m_proof, m_cores, m_colo, convertRegion_touch, setFlush_touch, storeOut_touch, Touches.refl, touch_foldl, touch_ite, touch_cond, implies_true, and_self]

theorem runGrid_touch {qs : List Part} {sI : State} (s : State) (f : FormeIx) (reads : List (Nat × Nat)) (delayed : Bool) (d : Dst) (m : List (List (Val × Bool))) (m_out : Part.out ∈ qs) (m_formes : Part.formes ∈ qs) (m_gddr : Part.gddr ∈ qs) (m_tbl : Part.tbl ∈ qs) (m_proof : Part.proof ∈ qs) (m_imp : Part.imp ∈ qs) (m_cores : Part.cores ∈ qs) (m_fault : Part.fault ∈ qs) (m_colo : Part.colo ∈ qs) (m_flash : Part.flash ∈ qs)  (ht : Touches qs sI s) :
    Touches qs sI (runGrid s f reads delayed d m) := by
  unfold runGrid
  (try dsimp only)
  (repeat' split) <;> simp (maxDischargeDepth := 40) only [ht, m_out, m_formes, m_gddr, m_tbl, m_proof, m_imp, m_cores, m_fault, m_colo, m_flash, convertGrid_touch, runHead_touch, Touches.refl, touch_foldl, touch_ite, touch_cond, implies_true, and_self]

theorem elementwise_touch {qs : List Part} {sI : State} (s : State) (f : FormeIx) (ps : List Nat) (g : List Val → Val) (m_out : Part.out ∈ qs) (m_formes : Part.formes ∈ qs) (m_gddr : Part.gddr ∈ qs) (m_tbl : Part.tbl ∈ qs) (m_proof : Part.proof ∈ qs) (m_imp : Part.imp ∈ qs) (m_cores : Part.cores ∈ qs) (m_fault : Part.fault ∈ qs) (m_colo : Part.colo ∈ qs) (m_flash : Part.flash ∈ qs)  (ht : Touches qs sI s) :
    Touches qs sI (elementwise s f ps g) := by
  unfold elementwise
  (try dsimp only)
  (repeat' split) <;> simp (maxDischargeDepth := 40) only [ht, m_out, m_formes, m_gddr, m_tbl, m_proof, m_imp, m_cores, m_fault, m_colo, m_flash, runGrid_touch, Touches.refl, touch_foldl, touch_ite, touch_cond, implies_true, and_self]

theorem vcmpRun_touch {qs : List Part} {sI : State} (s : State) (f : FormeIx) (m_out : Part.out ∈ qs) (m_formes : Part.formes ∈ qs) (m_gddr : Part.gddr ∈ qs) (m_imp : Part.imp ∈ qs) (m_fault : Part.fault ∈ qs) (m_colo : Part.colo ∈ qs) (m_flash : Part.flash ∈ qs)  (ht : Touches qs sI s) :
    Touches qs sI (vcmpRun s f) := by
  unfold vcmpRun
  (try dsimp only)
  (repeat' split) <;> simp (maxDischargeDepth := 40) only [ht, m_out, m_formes, m_gddr, m_imp, m_fault, m_colo, m_flash, galleyWrite_touch, runHead_touch, setFlush_touch, Touches.refl, touch_foldl, touch_ite, touch_cond, implies_true, and_self]

theorem vcvtRun_touch {qs : List Part} {sI : State} (s : State) (f : FormeIx) (m_out : Part.out ∈ qs) (m_formes : Part.formes ∈ qs) (m_gddr : Part.gddr ∈ qs) (m_tbl : Part.tbl ∈ qs) (m_proof : Part.proof ∈ qs) (m_imp : Part.imp ∈ qs) (m_cores : Part.cores ∈ qs) (m_fault : Part.fault ∈ qs) (m_colo : Part.colo ∈ qs) (m_flash : Part.flash ∈ qs)  (ht : Touches qs sI s) :
    Touches qs sI (vcvtRun s f) := by
  unfold vcvtRun
  (try dsimp only)
  (repeat' split) <;> simp (maxDischargeDepth := 40) only [ht, m_out, m_formes, m_gddr, m_tbl, m_proof, m_imp, m_cores, m_fault, m_colo, m_flash, progError_touch, runGrid_touch, Touches.refl, touch_foldl, touch_ite, touch_cond, implies_true, and_self]

theorem quireRun_touch {qs : List Part} {sI : State} (s : State) (f : FormeIx) (ps : List Nat) (g : List Val → Val) (m_out : Part.out ∈ qs) (m_formes : Part.formes ∈ qs) (m_gddr : Part.gddr ∈ qs) (m_imp : Part.imp ∈ qs) (m_fault : Part.fault ∈ qs) (m_colo : Part.colo ∈ qs) (m_flash : Part.flash ∈ qs)  (ht : Touches qs sI s) :
    Touches qs sI (quireRun s f ps g) := by
  unfold quireRun
  (try dsimp only)
  (repeat' split) <;> simp (maxDischargeDepth := 40) only [ht, m_out, m_formes, m_gddr, m_imp, m_fault, m_colo, m_flash, modForme_touch, runHead_touch, Touches.refl, touch_foldl, touch_ite, touch_cond, implies_true, and_self]

theorem vqclrRun_touch {qs : List Part} {sI : State} (s : State) (f : FormeIx) (m_out : Part.out ∈ qs) (m_formes : Part.formes ∈ qs) (m_gddr : Part.gddr ∈ qs) (m_imp : Part.imp ∈ qs) (m_fault : Part.fault ∈ qs) (m_colo : Part.colo ∈ qs) (m_flash : Part.flash ∈ qs)  (ht : Touches qs sI s) :
    Touches qs sI (vqclrRun s f) := by
  unfold vqclrRun
  (try dsimp only)
  (repeat' split) <;> simp (maxDischargeDepth := 40) only [ht, m_out, m_formes, m_gddr, m_imp, m_fault, m_colo, m_flash, modForme_touch, runHead_touch, Touches.refl, touch_foldl, touch_ite, touch_cond, implies_true, and_self]

theorem vqredRun_touch {qs : List Part} {sI : State} (s : State) (f : FormeIx) (m_out : Part.out ∈ qs) (m_formes : Part.formes ∈ qs) (m_gddr : Part.gddr ∈ qs) (m_imp : Part.imp ∈ qs) (m_fault : Part.fault ∈ qs) (m_colo : Part.colo ∈ qs) (m_flash : Part.flash ∈ qs)  (ht : Touches qs sI s) :
    Touches qs sI (vqredRun s f) := by
  unfold vqredRun
  (try dsimp only)
  (repeat' split) <;> simp (maxDischargeDepth := 40) only [ht, m_out, m_formes, m_gddr, m_imp, m_fault, m_colo, m_flash, modForme_touch, runHead_touch, Touches.refl, touch_foldl, touch_ite, touch_cond, implies_true, and_self]

theorem vqsaveRun_touch {qs : List Part} {sI : State} (s : State) (f : FormeIx) (m_out : Part.out ∈ qs) (m_formes : Part.formes ∈ qs) (m_gddr : Part.gddr ∈ qs) (m_imp : Part.imp ∈ qs) (m_fault : Part.fault ∈ qs) (m_colo : Part.colo ∈ qs) (m_flash : Part.flash ∈ qs)  (ht : Touches qs sI s) :
    Touches qs sI (vqsaveRun s f) := by
  unfold vqsaveRun
  (try dsimp only)
  (repeat' split) <;> simp (maxDischargeDepth := 40) only [ht, m_out, m_formes, m_gddr, m_imp, m_fault, m_colo, m_flash, galleyWrite_touch, runHead_touch, Touches.refl, touch_foldl, touch_ite, touch_cond, implies_true, and_self]

theorem vqloadRun_touch {qs : List Part} {sI : State} (s : State) (f : FormeIx) (m_out : Part.out ∈ qs) (m_formes : Part.formes ∈ qs) (m_gddr : Part.gddr ∈ qs) (m_imp : Part.imp ∈ qs) (m_fault : Part.fault ∈ qs) (m_colo : Part.colo ∈ qs) (m_flash : Part.flash ∈ qs)  (ht : Touches qs sI s) :
    Touches qs sI (vqloadRun s f) := by
  unfold vqloadRun
  (try dsimp only)
  (repeat' split) <;> simp (maxDischargeDepth := 40) only [ht, m_out, m_formes, m_gddr, m_imp, m_fault, m_colo, m_flash, modForme_touch, runHead_touch, Touches.refl, touch_foldl, touch_ite, touch_cond, implies_true, and_self]

theorem vrmsRun_touch {qs : List Part} {sI : State} (s : State) (f : FormeIx) (m_out : Part.out ∈ qs) (m_formes : Part.formes ∈ qs) (m_gddr : Part.gddr ∈ qs) (m_tbl : Part.tbl ∈ qs) (m_proof : Part.proof ∈ qs) (m_imp : Part.imp ∈ qs) (m_cores : Part.cores ∈ qs) (m_fault : Part.fault ∈ qs) (m_colo : Part.colo ∈ qs) (m_flash : Part.flash ∈ qs)  (ht : Touches qs sI s) :
    Touches qs sI (vrmsRun s f) := by
  unfold vrmsRun
  (try dsimp only)
  (repeat' split) <;> simp (maxDischargeDepth := 40) only [ht, m_out, m_formes, m_gddr, m_tbl, m_proof, m_imp, m_cores, m_fault, m_colo, m_flash, convertGrid_touch, modForme_touch, progError_touch, runHead_touch, Touches.refl, touch_foldl, touch_ite, touch_cond, implies_true, and_self]

theorem vtopkRun_touch {qs : List Part} {sI : State} (s : State) (f : FormeIx) (m_out : Part.out ∈ qs) (m_formes : Part.formes ∈ qs) (m_gddr : Part.gddr ∈ qs) (m_imp : Part.imp ∈ qs) (m_fault : Part.fault ∈ qs) (m_colo : Part.colo ∈ qs) (m_flash : Part.flash ∈ qs)  (ht : Touches qs sI s) :
    Touches qs sI (vtopkRun s f) := by
  unfold vtopkRun
  (try dsimp only)
  (repeat' split) <;> simp (maxDischargeDepth := 40) only [ht, m_out, m_formes, m_gddr, m_imp, m_fault, m_colo, m_flash, galleyWrite_touch, runHead_touch, setFlush_touch, Touches.refl, touch_foldl, touch_ite, touch_cond, implies_true, and_self]

theorem vscaleRun_touch {qs : List Part} {sI : State} (s : State) (f : FormeIx) (m_out : Part.out ∈ qs) (m_formes : Part.formes ∈ qs) (m_gddr : Part.gddr ∈ qs) (m_imp : Part.imp ∈ qs) (m_fault : Part.fault ∈ qs) (m_colo : Part.colo ∈ qs) (m_flash : Part.flash ∈ qs)  (ht : Touches qs sI s) :
    Touches qs sI (vscaleRun s f) := by
  unfold vscaleRun
  (try dsimp only)
  (repeat' split) <;> simp (maxDischargeDepth := 40) only [ht, m_out, m_formes, m_gddr, m_imp, m_fault, m_colo, m_flash, galleyWrite_touch, runHead_touch, Touches.refl, touch_foldl, touch_ite, touch_cond, implies_true, and_self]

theorem vsmoothRun_touch {qs : List Part} {sI : State} (s : State) (f : FormeIx) (m_free : Part.free ∈ qs) (m_out : Part.out ∈ qs) (m_formes : Part.formes ∈ qs) (m_gddr : Part.gddr ∈ qs) (m_imp : Part.imp ∈ qs) (m_fault : Part.fault ∈ qs) (m_colo : Part.colo ∈ qs) (m_flash : Part.flash ∈ qs)  (ht : Touches qs sI s) :
    Touches qs sI (vsmoothRun s f) := by
  unfold vsmoothRun
  (try dsimp only)
  (repeat' split) <;> simp (maxDischargeDepth := 40) only [ht, m_free, m_out, m_formes, m_gddr, m_imp, m_fault, m_colo, m_flash, galleyWrite_touch, runHead_touch, setFlush_touch, useFree_touch, Touches.refl, touch_foldl, touch_ite, touch_cond, implies_true, and_self]

theorem funcWrite_touch {qs : List Part} {sI : State} (f : FormeIx) (s : State) (w : FWord) (d : Dst) (m : List (List (Val × Bool))) (m_out : Part.out ∈ qs) (m_formes : Part.formes ∈ qs) (m_tbl : Part.tbl ∈ qs) (m_proof : Part.proof ∈ qs) (m_cores : Part.cores ∈ qs) (m_colo : Part.colo ∈ qs)  (ht : Touches qs sI s) :
    Touches qs sI (funcWrite f s w d m) := by
  unfold funcWrite
  (try dsimp only)
  (repeat' split) <;> simp (maxDischargeDepth := 40) only [ht, m_out, m_formes, m_tbl, m_proof, m_cores, m_colo, convertRegion_touch, modForme_touch, storeOut_touch, Touches.refl, touch_foldl, touch_ite, touch_cond, implies_true, and_self]

theorem refetchLine_touch {qs : List Part} {sI : State} (f : FormeIx) (s : State) (line : Nat) (m_free : Part.free ∈ qs) (m_out : Part.out ∈ qs) (m_formes : Part.formes ∈ qs) (m_fault : Part.fault ∈ qs) (m_colo : Part.colo ∈ qs) (m_flash : Part.flash ∈ qs)  (ht : Touches qs sI s) :
    Touches qs sI (refetchLine f s line) := by
  unfold refetchLine
  (try dsimp only)
  (repeat' split) <;> simp (maxDischargeDepth := 40) only [ht, m_free, m_out, m_formes, m_fault, m_colo, m_flash, logFault_touch, modForme_touch, useFree_touch, Touches.refl, touch_foldl, touch_ite, touch_cond, implies_true, and_self]

theorem fountHard_touch {qs : List Part} {sI : State} (f : FormeIx) (s : State) (line : Nat) (m_out : Part.out ∈ qs) (m_formes : Part.formes ∈ qs) (m_imp : Part.imp ∈ qs) (m_fault : Part.fault ∈ qs) (m_colo : Part.colo ∈ qs) (m_flash : Part.flash ∈ qs)  (ht : Touches qs sI s) :
    Touches qs sI (fountHard f s line) := by
  unfold fountHard
  (try dsimp only)
  (repeat' split) <;> simp (maxDischargeDepth := 40) only [ht, m_out, m_formes, m_imp, m_fault, m_colo, m_flash, logFault_touch, modForme_touch, storedAbort_touch, Touches.refl, touch_foldl, touch_ite, touch_cond, implies_true, and_self]

theorem funcRun_touch {qs : List Part} {sI : State} (s : State) (f : FormeIx) (m_free : Part.free ∈ qs) (m_out : Part.out ∈ qs) (m_formes : Part.formes ∈ qs) (m_gddr : Part.gddr ∈ qs) (m_tbl : Part.tbl ∈ qs) (m_proof : Part.proof ∈ qs) (m_imp : Part.imp ∈ qs) (m_cores : Part.cores ∈ qs) (m_fault : Part.fault ∈ qs) (m_colo : Part.colo ∈ qs) (m_flash : Part.flash ∈ qs)  (ht : Touches qs sI s) :
    Touches qs sI (funcRun s f) := by
  unfold funcRun
  (try dsimp only)
  (repeat' split) <;> simp (maxDischargeDepth := 40) only [ht, m_free, m_out, m_formes, m_gddr, m_tbl, m_proof, m_imp, m_cores, m_fault, m_colo, m_flash, fountHard_touch, funcWrite_touch, modForme_touch, progError_touch, refetchLine_touch, storedError_touch, Touches.refl, touch_foldl, touch_ite, touch_cond, implies_true, and_self]

theorem ftloadEffect_touch {qs : List Part} {sI : State} (s : State) (f : FormeIx) (m_formes : Part.formes ∈ qs)  (ht : Touches qs sI s) :
    Touches qs sI (ftloadEffect s f) := by
  unfold ftloadEffect
  (try dsimp only)
  (repeat' split) <;> simp (maxDischargeDepth := 40) only [ht, m_formes, issueHead_touch, modForme_touch, Touches.refl, touch_foldl, touch_ite, touch_cond, implies_true, and_self]

theorem dropLoad_touch {qs : List Part} {sI : State} (s : State) (f : FormeIx) (l : FtLoad) (m_formes : Part.formes ∈ qs)  (ht : Touches qs sI s) :
    Touches qs sI (dropLoad s f l) := by
  unfold dropLoad
  (try dsimp only)
  (repeat' split) <;> simp (maxDischargeDepth := 40) only [ht, m_formes, modForme_touch, Touches.refl, touch_foldl, touch_ite, touch_cond, implies_true, and_self]

theorem transferEffect_touch {qs : List Part} {sI : State} (s : State) (f : FormeIx) (m_out : Part.out ∈ qs) (m_formes : Part.formes ∈ qs) (m_imp : Part.imp ∈ qs) (m_span : Part.span ∈ qs) (m_colo : Part.colo ∈ qs)  (ht : Touches qs sI s) :
    Touches qs sI (transferEffect s f) := by
  unfold transferEffect
  (try dsimp only)
  (repeat' split) <;> simp (maxDischargeDepth := 40) only [ht, m_out, m_formes, m_imp, m_span, m_colo, dropLoad_touch, modForme_touch, progError_touch, spanSend_touch, Touches.refl, touch_foldl, touch_ite, touch_cond, implies_true, and_self]

theorem fillSlot_touch {qs : List Part} {sI : State} (s : State) (f : FormeIx) (l : FtLoad) (bs : List Byte) (m_formes : Part.formes ∈ qs)  (ht : Touches qs sI s) :
    Touches qs sI (fillSlot s f l bs) := by
  unfold fillSlot
  (try dsimp only)
  (repeat' split) <;> simp (maxDischargeDepth := 40) only [ht, m_formes, modForme_touch, Touches.refl, touch_foldl, touch_ite, touch_cond, implies_true, and_self]

theorem loadEffect_touch {qs : List Part} {sI : State} (s : State) (f : FormeIx) (m_out : Part.out ∈ qs) (m_formes : Part.formes ∈ qs) (m_gddr : Part.gddr ∈ qs) (m_imp : Part.imp ∈ qs) (m_fault : Part.fault ∈ qs) (m_colo : Part.colo ∈ qs) (m_flash : Part.flash ∈ qs)  (ht : Touches qs sI s) :
    Touches qs sI (loadEffect s f) := by
  unfold loadEffect
  (try dsimp only)
  (repeat' split) <;> simp (maxDischargeDepth := 40) only [ht, m_out, m_formes, m_gddr, m_imp, m_fault, m_colo, m_flash, dropLoad_touch, fillSlot_touch, storedError_touch, Touches.refl, touch_foldl, touch_ite, touch_cond, implies_true, and_self]

theorem ringWrite_touch {qs : List Part} {sI : State} (s : State) (pos : Nat) (bs : List Byte) (m_out : Part.out ∈ qs) (m_gddr : Part.gddr ∈ qs)  (ht : Touches qs sI s) :
    Touches qs sI (ringWrite s pos bs) := by
  unfold ringWrite
  (try dsimp only)
  (repeat' split) <;> simp (maxDischargeDepth := 40) only [ht, m_out, m_gddr, emit_touch, modGddr_touch, Touches.refl, touch_foldl, touch_ite, touch_cond, implies_true, and_self]

theorem writePad_touch {qs : List Part} {sI : State} (s : State) (rs : List (Nat × Nat × Bool)) (m_out : Part.out ∈ qs) (m_gddr : Part.gddr ∈ qs)  (ht : Touches qs sI s) :
    Touches qs sI (writePad s rs) := by
  unfold writePad
  (try dsimp only)
  (repeat' split) <;> simp (maxDischargeDepth := 40) only [ht, m_out, m_gddr, ringWrite_touch, Touches.refl, touch_foldl, touch_ite, touch_cond, implies_true, and_self]

theorem putRecord_touch {qs : List Part} {sI : State} (s : State) (typ src arg : Nat) (payload : List Byte) (m_out : Part.out ∈ qs) (m_gddr : Part.gddr ∈ qs) (m_log : Part.log ∈ qs)  (ht : Touches qs sI s) :
    Touches qs sI (putRecord s typ src arg payload) := by
  unfold putRecord
  (try dsimp only)
  (repeat' split) <;> simp (maxDischargeDepth := 40) only [ht, m_out, m_gddr, m_log, ringWrite_touch, writePad_touch, touch_log, Touches.refl, touch_foldl, touch_ite, touch_cond, implies_true, and_self]

theorem logAppend_touch {qs : List Part} {sI : State} {s : State} {typ src arg : Nat} {payload : List Byte} {t : State} (he : logAppend s typ src arg payload = some t) (m_out : Part.out ∈ qs) (m_gddr : Part.gddr ∈ qs) (m_log : Part.log ∈ qs)  (ht : Touches qs sI s) :
    Touches qs sI t := by
  revert he
  unfold logAppend
  (try dsimp only)
  (repeat' split) <;> intro he <;> (first | contradiction | (injection he with he; subst he; (first | simp (maxDischargeDepth := 40) only [ht, m_out, m_gddr, m_log, putRecord_touch, touch_log, Touches.refl, touch_foldl, touch_ite, touch_cond, implies_true, and_self])))

theorem recordInput_touch {qs : List Part} {sI : State} {s : State} {typ src arg : Nat} {payload : List Byte} {t : State} (he : recordInput s typ src arg payload = some t) (m_out : Part.out ∈ qs) (m_gddr : Part.gddr ∈ qs) (m_log : Part.log ∈ qs)  (ht : Touches qs sI s) :
    Touches qs sI t := by
  revert he
  unfold recordInput
  (try dsimp only)
  (repeat' split) <;> intro he <;> (first | contradiction | (have hx := logAppend_touch (sI := sI) he m_out m_gddr m_log (by simp (maxDischargeDepth := 40) only [ht, m_out, m_gddr, m_log, Touches.refl, touch_foldl, touch_ite, touch_cond, implies_true, and_self]); exact hx) | (injection he with he; subst he; (first | simp (maxDischargeDepth := 40) only [ht, m_out, m_gddr, m_log, Touches.refl, touch_foldl, touch_ite, touch_cond, implies_true, and_self] | (have hx := logAppend_touch (sI := sI) (by assumption) m_out m_gddr m_log (by simp (maxDischargeDepth := 40) only [ht, m_out, m_gddr, m_log, Touches.refl, touch_foldl, touch_ite, touch_cond, implies_true, and_self]); simp (maxDischargeDepth := 40) only [hx, ht, m_out, m_gddr, m_log, Touches.refl, touch_foldl, touch_ite, touch_cond, implies_true, and_self]))))

theorem appendMark_touch {qs : List Part} {sI : State} (s : State) (payload : List Byte) (m_out : Part.out ∈ qs) (m_gddr : Part.gddr ∈ qs) (m_log : Part.log ∈ qs) (ht : Touches qs sI s) :
    Touches qs sI (appendMark s payload) := by
  unfold appendMark
  cases h : logAppend s 6 0 0 payload with
  | none => exact ht
  | some t => exact logAppend_touch h (by assumption) (by assumption) (by assumption) ht

theorem writeAppend_touch {qs : List Part} {sI : State} (s : State) (v : Word) (m_out : Part.out ∈ qs) (m_formes : Part.formes ∈ qs) (m_gddr : Part.gddr ∈ qs) (m_log : Part.log ∈ qs) (m_fault : Part.fault ∈ qs) (m_colo : Part.colo ∈ qs) (m_flash : Part.flash ∈ qs)  (ht : Touches qs sI s) :
    Touches qs sI (writeAppend s v) := by
  unfold writeAppend
  (try dsimp only)
  (repeat' split) <;> simp (maxDischargeDepth := 40) only [ht, m_out, m_formes, m_gddr, m_log, m_fault, m_colo, m_flash, appendMark_touch, gddrError_touch, Touches.refl, touch_foldl, touch_ite, touch_cond, implies_true, and_self]

theorem modQp_touch {qs : List Part} {sI : State} (s : State) (n : Nat) (g : Qp → Qp) (m_abut : Part.abut ∈ qs)  (ht : Touches qs sI s) :
    Touches qs sI (modQp s n g) := by
  unfold modQp
  (try dsimp only)
  (repeat' split) <;> simp (maxDischargeDepth := 40) only [ht, m_abut, touch_abut, Touches.refl, touch_foldl, touch_ite, touch_cond, implies_true, and_self]

theorem modCq_touch {qs : List Part} {sI : State} (s : State) (n : Nat) (g : Cq → Cq) (m_abut : Part.abut ∈ qs)  (ht : Touches qs sI s) :
    Touches qs sI (modCq s n g) := by
  unfold modCq
  (try dsimp only)
  (repeat' split) <;> simp (maxDischargeDepth := 40) only [ht, m_abut, touch_abut, Touches.refl, touch_foldl, touch_ite, touch_cond, implies_true, and_self]

theorem modSrq_touch {qs : List Part} {sI : State} (s : State) (n : Nat) (g : Srq → Srq) (m_abut : Part.abut ∈ qs)  (ht : Touches qs sI s) :
    Touches qs sI (modSrq s n g) := by
  unfold modSrq
  (try dsimp only)
  (repeat' split) <;> simp (maxDischargeDepth := 40) only [ht, m_abut, touch_abut, Touches.refl, touch_foldl, touch_ite, touch_cond, implies_true, and_self]

theorem receiveSignal_touch {qs : List Part} {sI : State} (s : State) (c : BitVec 256) (m_formes : Part.formes ∈ qs) (m_colo : Part.colo ∈ qs)  (ht : Touches qs sI s) :
    Touches qs sI (receiveSignal s c) := by
  unfold receiveSignal
  (try dsimp only)
  (repeat' split) <;> simp (maxDischargeDepth := 40) only [ht, m_formes, m_colo, remoteSignal_touch, Touches.refl, touch_foldl, touch_ite, touch_cond, implies_true, and_self]

theorem writeCompletion_touch {qs : List Part} {sI : State} (s : State) (n : Nat) (c : BitVec 256) (m_out : Part.out ∈ qs) (m_formes : Part.formes ∈ qs) (m_gddr : Part.gddr ∈ qs) (m_abut : Part.abut ∈ qs) (m_cores : Part.cores ∈ qs) (m_colo : Part.colo ∈ qs)  (ht : Touches qs sI s) :
    Touches qs sI (writeCompletion s n c) := by
  unfold writeCompletion
  (try dsimp only)
  (repeat' split) <;> simp (maxDischargeDepth := 40) only [ht, m_out, m_formes, m_gddr, m_abut, m_cores, m_colo, modCq_touch, modGddr_touch, raise_touch, receiveSignal_touch, Touches.refl, touch_foldl, touch_ite, touch_cond, implies_true, and_self]

theorem complete_touch {qs : List Part} {sI : State} (s : State) (n : Nat) (c : BitVec 256) (m_out : Part.out ∈ qs) (m_formes : Part.formes ∈ qs) (m_gddr : Part.gddr ∈ qs) (m_abut : Part.abut ∈ qs) (m_cores : Part.cores ∈ qs) (m_colo : Part.colo ∈ qs)  (ht : Touches qs sI s) :
    Touches qs sI (complete s n c) := by
  unfold complete
  (try dsimp only)
  (repeat' split) <;> simp (maxDischargeDepth := 40) only [ht, m_out, m_formes, m_gddr, m_abut, m_cores, m_colo, bumpEnt_touch, modCq_touch, writeCompletion_touch, Touches.refl, touch_foldl, touch_ite, touch_cond, implies_true, and_self]

theorem flushCq_touch {qs : List Part} {sI : State} (k : Nat) (s : State) (n : Nat) (m_out : Part.out ∈ qs) (m_formes : Part.formes ∈ qs) (m_gddr : Part.gddr ∈ qs) (m_abut : Part.abut ∈ qs) (m_cores : Part.cores ∈ qs) (m_colo : Part.colo ∈ qs) (ht : Touches qs sI s) :
    Touches qs sI (flushCq k s n) := by
  induction k generalizing s with
  | zero => exact ht
  | succ k ih =>
    unfold flushCq
    (repeat' split) <;> first
      | exact ht
      | (apply ih; simp (maxDischargeDepth := 40) only [*, writeCompletion_touch, modCq_touch])

theorem roceOut_touch {qs : List Part} {sI : State} (s : State) (n : Nat) (p : RocePacket) (m_out : Part.out ∈ qs) (m_span : Part.span ∈ qs) (m_abut : Part.abut ∈ qs) (m_colo : Part.colo ∈ qs)  (ht : Touches qs sI s) :
    Touches qs sI (roceOut s n p) := by
  unfold roceOut
  (try dsimp only)
  (repeat' split) <;> simp (maxDischargeDepth := 40) only [ht, m_out, m_span, m_abut, m_colo, emit_touch, ethToPort_touch, Touches.refl, touch_foldl, touch_ite, touch_cond, implies_true, and_self]

theorem roceOutAll_touch {qs : List Part} {sI : State} (s : State) (n : Nat) (ps : List RocePacket) (m_out : Part.out ∈ qs) (m_span : Part.span ∈ qs) (m_abut : Part.abut ∈ qs) (m_colo : Part.colo ∈ qs)  (ht : Touches qs sI s) :
    Touches qs sI (roceOutAll s n ps) := by
  unfold roceOutAll
  (try dsimp only)
  (repeat' split) <;> simp (maxDischargeDepth := 40) only [ht, m_out, m_span, m_abut, m_colo, roceOut_touch, Touches.refl, touch_foldl, touch_ite, touch_cond, implies_true, and_self]

theorem resendFrom_touch {qs : List Part} {sI : State} (s : State) (n : Nat) (psn : BitVec 24) (m_out : Part.out ∈ qs) (m_span : Part.span ∈ qs) (m_abut : Part.abut ∈ qs) (m_colo : Part.colo ∈ qs)  (ht : Touches qs sI s) :
    Touches qs sI (resendFrom s n psn) := by
  unfold resendFrom
  (try dsimp only)
  (repeat' split) <;> simp (maxDischargeDepth := 40) only [ht, m_out, m_span, m_abut, m_colo, modQp_touch, roceOutAll_touch, Touches.refl, touch_foldl, touch_ite, touch_cond, implies_true, and_self]

theorem postMsg_touch {qs : List Part} {sI : State} (s : State) (n : Nat) (m : OutMsg) (m_out : Part.out ∈ qs) (m_span : Part.span ∈ qs) (m_abut : Part.abut ∈ qs) (m_colo : Part.colo ∈ qs)  (ht : Touches qs sI s) :
    Touches qs sI (postMsg s n m) := by
  unfold postMsg
  (try dsimp only)
  (repeat' split) <;> simp (maxDischargeDepth := 40) only [ht, m_out, m_span, m_abut, m_colo, modQp_touch, roceOutAll_touch, Touches.refl, touch_foldl, touch_ite, touch_cond, implies_true, and_self]

theorem freeCarriage_touch {qs : List Part} {sI : State} (s : State) (f : FormeIx) (c : Fin 8) (m_out : Part.out ∈ qs) (m_formes : Part.formes ∈ qs) (m_abut : Part.abut ∈ qs)  (ht : Touches qs sI s) :
    Touches qs sI (freeCarriage s f c) := by
  unfold freeCarriage
  (try dsimp only)
  (repeat' split) <;> simp (maxDischargeDepth := 40) only [ht, m_out, m_formes, m_abut, modForme_touch, touch_abut, touch_out, Touches.refl, touch_foldl, touch_ite, touch_cond, implies_true, and_self]

theorem dropCopy_touch {qs : List Part} {sI : State} (s : State) (f : FormeIx) (c : Fin 8) (m_out : Part.out ∈ qs) (m_formes : Part.formes ∈ qs) (m_abut : Part.abut ∈ qs)  (ht : Touches qs sI s) :
    Touches qs sI (dropCopy s f c) := by
  unfold dropCopy
  (try dsimp only)
  (repeat' split) <;> simp (maxDischargeDepth := 40) only [ht, m_out, m_formes, m_abut, freeCarriage_touch, modForme_touch, Touches.refl, touch_foldl, touch_ite, touch_cond, implies_true, and_self]

theorem failCopy_touch {qs : List Part} {sI : State} (s : State) (f : FormeIx) (c : Fin 8) (m_out : Part.out ∈ qs) (m_formes : Part.formes ∈ qs) (m_imp : Part.imp ∈ qs) (m_abut : Part.abut ∈ qs)  (ht : Touches qs sI s) :
    Touches qs sI (failCopy s f c) := by
  unfold failCopy
  (try dsimp only)
  (repeat' split) <;> simp (maxDischargeDepth := 40) only [ht, m_out, m_formes, m_imp, m_abut, dropCopy_touch, progError_touch, Touches.refl, touch_foldl, touch_ite, touch_cond, implies_true, and_self]

theorem failCopies_touch {qs : List Part} {sI : State} (s : State) (n : Nat) (m_out : Part.out ∈ qs) (m_formes : Part.formes ∈ qs) (m_imp : Part.imp ∈ qs) (m_abut : Part.abut ∈ qs)  (ht : Touches qs sI s) :
    Touches qs sI (failCopies s n) := by
  unfold failCopies
  (try dsimp only)
  (repeat' split) <;> simp (maxDischargeDepth := 40) only [ht, m_out, m_formes, m_imp, m_abut, failCopy_touch, Touches.refl, touch_foldl, touch_ite, touch_cond, implies_true, and_self]

theorem sendCompletion_touch {qs : List Part} {sI : State} (s : State) (n : Nat) (m : OutMsg) (fail : Option Nat) (m_out : Part.out ∈ qs) (m_formes : Part.formes ∈ qs) (m_gddr : Part.gddr ∈ qs) (m_abut : Part.abut ∈ qs) (m_cores : Part.cores ∈ qs) (m_colo : Part.colo ∈ qs)  (ht : Touches qs sI s) :
    Touches qs sI (sendCompletion s n m fail) := by
  unfold sendCompletion
  (try dsimp only)
  (repeat' split) <;> simp (maxDischargeDepth := 40) only [ht, m_out, m_formes, m_gddr, m_abut, m_cores, m_colo, complete_touch, Touches.refl, touch_foldl, touch_ite, touch_cond, implies_true, and_self]

theorem flushSq_touch {qs : List Part} {sI : State} (k : Nat) (s : State) (n : Nat) (m_out : Part.out ∈ qs) (m_formes : Part.formes ∈ qs) (m_gddr : Part.gddr ∈ qs) (m_abut : Part.abut ∈ qs) (m_cores : Part.cores ∈ qs) (m_colo : Part.colo ∈ qs) (ht : Touches qs sI s) :
    Touches qs sI (flushSq k s n) := by
  induction k generalizing s with
  | zero => exact ht
  | succ k ih =>
    unfold flushSq
    dsimp only
    split
    · exact ht
    · apply ih
      simp (maxDischargeDepth := 40) only [*, complete_touch, modQp_touch]

theorem flushRq_touch {qs : List Part} {sI : State} (k : Nat) (s : State) (n : Nat) (m_out : Part.out ∈ qs) (m_formes : Part.formes ∈ qs) (m_gddr : Part.gddr ∈ qs) (m_abut : Part.abut ∈ qs) (m_cores : Part.cores ∈ qs) (m_colo : Part.colo ∈ qs) (ht : Touches qs sI s) :
    Touches qs sI (flushRq k s n) := by
  induction k generalizing s with
  | zero => exact ht
  | succ k ih =>
    unfold flushRq
    dsimp only
    split
    · exact ht
    · apply ih
      simp (maxDischargeDepth := 40) only [*, complete_touch, modQp_touch]

theorem flushInc_touch {qs : List Part} {sI : State} (s : State) (n : Nat) (m_out : Part.out ∈ qs) (m_formes : Part.formes ∈ qs) (m_gddr : Part.gddr ∈ qs) (m_abut : Part.abut ∈ qs) (m_cores : Part.cores ∈ qs) (m_colo : Part.colo ∈ qs)  (ht : Touches qs sI s) :
    Touches qs sI (flushInc s n) := by
  unfold flushInc
  (try dsimp only)
  (repeat' split) <;> simp (maxDischargeDepth := 40) only [ht, m_out, m_formes, m_gddr, m_abut, m_cores, m_colo, complete_touch, modQp_touch, Touches.refl, touch_foldl, touch_ite, touch_cond, implies_true, and_self]

theorem flushRaws_touch {qs : List Part} {sI : State} (s : State) (m_out : Part.out ∈ qs) (m_formes : Part.formes ∈ qs) (m_gddr : Part.gddr ∈ qs) (m_abut : Part.abut ∈ qs) (m_cores : Part.cores ∈ qs) (m_colo : Part.colo ∈ qs)  (ht : Touches qs sI s) :
    Touches qs sI (flushRaws s) := by
  unfold flushRaws
  (try dsimp only)
  (repeat' split) <;> simp (maxDischargeDepth := 40) only [ht, m_out, m_formes, m_gddr, m_abut, m_cores, m_colo, complete_touch, touch_abut, Touches.refl, touch_foldl, touch_ite, touch_cond, implies_true, and_self]

theorem qpError_touch {qs : List Part} {sI : State} (s : State) (n : Nat) (status : Nat) (m_out : Part.out ∈ qs) (m_formes : Part.formes ∈ qs) (m_gddr : Part.gddr ∈ qs) (m_imp : Part.imp ∈ qs) (m_abut : Part.abut ∈ qs) (m_cores : Part.cores ∈ qs) (m_colo : Part.colo ∈ qs)  (ht : Touches qs sI s) :
    Touches qs sI (qpError s n status) := by
  unfold qpError
  (try dsimp only)
  (repeat' split) <;> simp (maxDischargeDepth := 40) only [ht, m_out, m_formes, m_gddr, m_imp, m_abut, m_cores, m_colo, failCopies_touch, flushInc_touch, flushRaws_touch, flushRq_touch, flushSq_touch, modQp_touch, sendCompletion_touch, Touches.refl, touch_foldl, touch_ite, touch_cond, implies_true, and_self]

theorem modSvc_touch {qs : List Part} {sI : State} (s : State) (i : Fin 64) (g : Svc → Svc) (m_svc : Part.svc ∈ qs)  (ht : Touches qs sI s) :
    Touches qs sI (modSvc s i g) := by
  unfold modSvc
  (try dsimp only)
  (repeat' split) <;> simp (maxDischargeDepth := 40) only [ht, m_svc, touch_svc, Touches.refl, touch_foldl, touch_ite, touch_cond, implies_true, and_self]

theorem bumpSvc_touch {qs : List Part} {sI : State} (s : State) (i : Fin 64) (k n width : Nat) (m_colo : Part.colo ∈ qs)  (ht : Touches qs sI s) :
    Touches qs sI (bumpSvc s i k n width) := by
  unfold bumpSvc
  (try dsimp only)
  (repeat' split) <;> simp (maxDischargeDepth := 40) only [ht, m_colo, bumpEnt_touch, Touches.refl, touch_foldl, touch_ite, touch_cond, implies_true, and_self]

theorem sendReply_touch {qs : List Part} {sI : State} (s : State) (i : Fin 64) (r : Req) (st : ReqStatus) (body : List Byte) (m_free : Part.free ∈ qs) (m_out : Part.out ∈ qs) (m_colo : Part.colo ∈ qs)  (ht : Touches qs sI s) :
    Touches qs sI (sendReply s i r st body) := by
  unfold sendReply
  (try dsimp only)
  (repeat' split) <;> simp (maxDischargeDepth := 40) only [ht, m_free, m_out, m_colo, bumpSvc_touch, emit_touch, useFree_touch, Touches.refl, touch_foldl, touch_ite, touch_cond, implies_true, and_self]

theorem answerReq_touch {qs : List Part} {sI : State} (s : State) (i : Fin 64) (r : Req) (st : ReqStatus) (body : List Byte) (m_free : Part.free ∈ qs) (m_out : Part.out ∈ qs) (m_colo : Part.colo ∈ qs)  (ht : Touches qs sI s) :
    Touches qs sI (answerReq s i r st body) := by
  unfold answerReq
  (try dsimp only)
  (repeat' split) <;> simp (maxDischargeDepth := 40) only [ht, m_free, m_out, m_colo, bumpSvc_touch, sendReply_touch, Touches.refl, touch_foldl, touch_ite, touch_cond, implies_true, and_self]

theorem answerAll_touch {qs : List Part} {sI : State} (s : State) (i : Fin 64) (rs : List Req) (st : ReqStatus) (m_free : Part.free ∈ qs) (m_out : Part.out ∈ qs) (m_colo : Part.colo ∈ qs)  (ht : Touches qs sI s) :
    Touches qs sI (answerAll s i rs st) := by
  unfold answerAll
  (try dsimp only)
  (repeat' split) <;> simp (maxDischargeDepth := 40) only [ht, m_free, m_out, m_colo, answerReq_touch, Touches.refl, touch_foldl, touch_ite, touch_cond, implies_true, and_self]

theorem runtimeMark_touch {qs : List Part} {sI : State} (s : State) (payload : List Byte) (m_out : Part.out ∈ qs) (m_gddr : Part.gddr ∈ qs) (m_log : Part.log ∈ qs)  (ht : Touches qs sI s) :
    Touches qs sI (runtimeMark s payload) := by
  unfold runtimeMark
  (try dsimp only)
  (repeat' split) <;> simp (maxDischargeDepth := 40) only [ht, m_out, m_gddr, m_log, appendMark_touch, Touches.refl, touch_foldl, touch_ite, touch_cond, implies_true, and_self]

theorem batchMark_touch {qs : List Part} {sI : State} (s : State) (rs : List Req) (m_free : Part.free ∈ qs) (m_out : Part.out ∈ qs) (m_gddr : Part.gddr ∈ qs) (m_log : Part.log ∈ qs)  (ht : Touches qs sI s) :
    Touches qs sI (batchMark s rs) := by
  unfold batchMark
  (try dsimp only)
  (repeat' split) <;> simp (maxDischargeDepth := 40) only [ht, m_free, m_out, m_gddr, m_log, runtimeMark_touch, useFree_touch, Touches.refl, touch_foldl, touch_ite, touch_cond, implies_true, and_self]

theorem closeBatch_touch {qs : List Part} {sI : State} (s : State) (i : Fin 64) (full : Bool) (m_free : Part.free ∈ qs) (m_out : Part.out ∈ qs) (m_gddr : Part.gddr ∈ qs) (m_log : Part.log ∈ qs) (m_svc : Part.svc ∈ qs) (m_colo : Part.colo ∈ qs)  (ht : Touches qs sI s) :
    Touches qs sI (closeBatch s i full) := by
  unfold closeBatch
  (try dsimp only)
  (repeat' split) <;> simp (maxDischargeDepth := 40) only [ht, m_free, m_out, m_gddr, m_log, m_svc, m_colo, batchMark_touch, bumpSvc_touch, modSvc_touch, Touches.refl, touch_foldl, touch_ite, touch_cond, implies_true, and_self]

theorem joinBatch_touch {qs : List Part} {sI : State} (s : State) (i : Fin 64) (r : Req) (m_free : Part.free ∈ qs) (m_out : Part.out ∈ qs) (m_gddr : Part.gddr ∈ qs) (m_log : Part.log ∈ qs) (m_svc : Part.svc ∈ qs) (m_colo : Part.colo ∈ qs)  (ht : Touches qs sI s) :
    Touches qs sI (joinBatch s i r) := by
  unfold joinBatch
  (try dsimp only)
  (repeat' split) <;> simp (maxDischargeDepth := 40) only [ht, m_free, m_out, m_gddr, m_log, m_svc, m_colo, closeBatch_touch, modSvc_touch, Touches.refl, touch_foldl, touch_ite, touch_cond, implies_true, and_self]

theorem joinStream_touch {qs : List Part} {sI : State} (s : State) (i : Fin 64) (r : Req) (m_free : Part.free ∈ qs) (m_out : Part.out ∈ qs) (m_svc : Part.svc ∈ qs) (m_colo : Part.colo ∈ qs)  (ht : Touches qs sI s) :
    Touches qs sI (joinStream s i r) := by
  unfold joinStream
  (try dsimp only)
  (repeat' split) <;> simp (maxDischargeDepth := 40) only [ht, m_free, m_out, m_svc, m_colo, answerReq_touch, modSvc_touch, Touches.refl, touch_foldl, touch_ite, touch_cond, implies_true, and_self]

theorem takeReq_touch {qs : List Part} {sI : State} (s : State) (i : Fin 64) (r : Req) (m_free : Part.free ∈ qs) (m_out : Part.out ∈ qs) (m_gddr : Part.gddr ∈ qs) (m_log : Part.log ∈ qs) (m_svc : Part.svc ∈ qs) (m_colo : Part.colo ∈ qs)  (ht : Touches qs sI s) :
    Touches qs sI (takeReq s i r) := by
  unfold takeReq
  (try dsimp only)
  (repeat' split) <;> simp (maxDischargeDepth := 40) only [ht, m_free, m_out, m_gddr, m_log, m_svc, m_colo, answerReq_touch, joinBatch_touch, joinStream_touch, setEnt_touch, useFree_touch, Touches.refl, touch_foldl, touch_ite, touch_cond, implies_true, and_self]

theorem requestFor_touch {qs : List Part} {sI : State} (s : State) (i : Fin 64) (r : Req) (ok : Bool) (m_free : Part.free ∈ qs) (m_out : Part.out ∈ qs) (m_gddr : Part.gddr ∈ qs) (m_log : Part.log ∈ qs) (m_svc : Part.svc ∈ qs) (m_colo : Part.colo ∈ qs)  (ht : Touches qs sI s) :
    Touches qs sI (requestFor s i r ok) := by
  unfold requestFor
  (try dsimp only)
  (repeat' split) <;> simp (maxDischargeDepth := 40) only [ht, m_free, m_out, m_gddr, m_log, m_svc, m_colo, answerReq_touch, takeReq_touch, Touches.refl, touch_foldl, touch_ite, touch_cond, implies_true, and_self]

theorem requestIn_touch {qs : List Part} {sI : State} (s : State) (slots : List (Fin 64)) (o : Origin) (time : Word) (bytes : List Byte) (m_free : Part.free ∈ qs) (m_out : Part.out ∈ qs) (m_gddr : Part.gddr ∈ qs) (m_log : Part.log ∈ qs) (m_svc : Part.svc ∈ qs) (m_colo : Part.colo ∈ qs)  (ht : Touches qs sI s) :
    Touches qs sI (requestIn s slots o time bytes) := by
  unfold requestIn
  (try dsimp only)
  (repeat' split) <;> simp (maxDischargeDepth := 40) only [ht, m_free, m_out, m_gddr, m_log, m_svc, m_colo, answerReq_touch, requestFor_touch, Touches.refl, touch_foldl, touch_ite, touch_cond, implies_true, and_self]

theorem dropWait_touch {qs : List Part} {sI : State} (s : State) (i : Fin 64) (reqId : Word) (m_svc : Part.svc ∈ qs)  (ht : Touches qs sI s) :
    Touches qs sI (dropWait s i reqId) := by
  unfold dropWait
  (try dsimp only)
  (repeat' split) <;> simp (maxDischargeDepth := 40) only [ht, m_svc, modSvc_touch, Touches.refl, touch_foldl, touch_ite, touch_cond, implies_true, and_self]

theorem compareValues_touch {qs : List Part} {sI : State} (s : State) (i : Fin 64) (w : MirrorWait) (crc len : BitVec 32) (m_free : Part.free ∈ qs) (m_out : Part.out ∈ qs) (m_svc : Part.svc ∈ qs) (m_colo : Part.colo ∈ qs)  (ht : Touches qs sI s) :
    Touches qs sI (compareValues s i w crc len) := by
  unfold compareValues
  (try dsimp only)
  (repeat' split) <;> simp (maxDischargeDepth := 40) only [ht, m_free, m_out, m_svc, m_colo, answerReq_touch, bumpSvc_touch, dropWait_touch, modSvc_touch, notifyEvent_touch, Touches.refl, touch_foldl, touch_ite, touch_cond, implies_true, and_self]

theorem mirrorReady_touch {qs : List Part} {sI : State} (s : State) (i : Fin 64) (r : Req) (body : List Byte) (m_free : Part.free ∈ qs) (m_out : Part.out ∈ qs) (m_svc : Part.svc ∈ qs) (m_colo : Part.colo ∈ qs)  (ht : Touches qs sI s) :
    Touches qs sI (mirrorReady s i r body) := by
  unfold mirrorReady
  (try dsimp only)
  (repeat' split) <;> simp (maxDischargeDepth := 40) only [ht, m_free, m_out, m_svc, m_colo, answerReq_touch, bumpSvc_touch, compareValues_touch, modSvc_touch, Touches.refl, touch_foldl, touch_ite, touch_cond, implies_true, and_self]

theorem convertCopy_touch {qs : List Part} {sI : State} (s : State) (f : FormeIx) (e : QEntry) (rd : Nat → Byte) (m_out : Part.out ∈ qs) (m_formes : Part.formes ∈ qs) (m_tbl : Part.tbl ∈ qs) (m_proof : Part.proof ∈ qs) (m_cores : Part.cores ∈ qs) (m_colo : Part.colo ∈ qs)  (ht : Touches qs sI s) :
    Touches qs sI (convertCopy s f e rd).1 := by
  unfold convertCopy
  (try dsimp only)
  (repeat' split) <;> simp (maxDischargeDepth := 40) only [ht, m_out, m_formes, m_tbl, m_proof, m_cores, m_colo, convertRegion_touch, setFlush_touch, Touches.refl, touch_foldl, touch_ite, touch_cond, implies_true, and_self]

theorem copyResult_touch {qs : List Part} {sI : State} (s : State) (f : FormeIx) (e : QEntry) (rd : Nat → Byte) (m_free : Part.free ∈ qs) (m_out : Part.out ∈ qs) (m_formes : Part.formes ∈ qs) (m_tbl : Part.tbl ∈ qs) (m_proof : Part.proof ∈ qs) (m_cores : Part.cores ∈ qs) (m_colo : Part.colo ∈ qs)  (ht : Touches qs sI s) :
    Touches qs sI (copyResult s f e rd).1 := by
  unfold copyResult
  (try dsimp only)
  (repeat' split) <;> simp (maxDischargeDepth := 40) only [ht, m_free, m_out, m_formes, m_tbl, m_proof, m_cores, m_colo, convertCopy_touch, useFree_touch, Touches.refl, touch_foldl, touch_ite, touch_cond, implies_true, and_self]

theorem modCar_touch {qs : List Part} {sI : State} (s : State) (f : FormeIx) (c : Fin 8) (g : Carriage → Carriage) (m_formes : Part.formes ∈ qs)  (ht : Touches qs sI s) :
    Touches qs sI (modCar s f c g) := by
  unfold modCar
  (try dsimp only)
  (repeat' split) <;> simp (maxDischargeDepth := 40) only [ht, m_formes, modForme_touch, Touches.refl, touch_foldl, touch_ite, touch_cond, implies_true, and_self]

theorem sendRead_touch {qs : List Part} {sI : State} (s : State) (f : FormeIx) (c : Fin 8) (dst : BitVec 12) (p : Nat × Nat) (m_out : Part.out ∈ qs) (m_formes : Part.formes ∈ qs) (m_imp : Part.imp ∈ qs) (m_span : Part.span ∈ qs) (m_abut : Part.abut ∈ qs) (m_colo : Part.colo ∈ qs)  (ht : Touches qs sI s) :
    Touches qs sI (sendRead s f c dst p) := by
  unfold sendRead
  (try dsimp only)
  (repeat' split) <;> simp (maxDischargeDepth := 40) only [ht, m_out, m_formes, m_imp, m_span, m_abut, m_colo, failCopy_touch, spanSend_touch, Touches.refl, touch_foldl, touch_ite, touch_cond, implies_true, and_self]

theorem sendReads_touch {qs : List Part} {sI : State} (s : State) (f : FormeIx) (c : Fin 8) (dst : BitVec 12) (ps : List (Nat × Nat)) (m_out : Part.out ∈ qs) (m_formes : Part.formes ∈ qs) (m_imp : Part.imp ∈ qs) (m_span : Part.span ∈ qs) (m_abut : Part.abut ∈ qs) (m_colo : Part.colo ∈ qs)  (ht : Touches qs sI s) :
    Touches qs sI (sendReads s f c dst ps) := by
  unfold sendReads
  (try dsimp only)
  (repeat' split) <;> simp (maxDischargeDepth := 40) only [ht, m_out, m_formes, m_imp, m_span, m_abut, m_colo, sendRead_touch, Touches.refl, touch_foldl, touch_ite, touch_cond, implies_true, and_self]

theorem sendWrite_touch {qs : List Part} {sI : State} (s : State) (f : FormeIx) (c : Fin 8) (pk : SpanPacket) (m_out : Part.out ∈ qs) (m_formes : Part.formes ∈ qs) (m_imp : Part.imp ∈ qs) (m_span : Part.span ∈ qs) (m_abut : Part.abut ∈ qs) (m_colo : Part.colo ∈ qs)  (ht : Touches qs sI s) :
    Touches qs sI (sendWrite s f c pk) := by
  unfold sendWrite
  (try dsimp only)
  (repeat' split) <;> simp (maxDischargeDepth := 40) only [ht, m_out, m_formes, m_imp, m_span, m_abut, m_colo, failCopy_touch, spanSend_touch, Touches.refl, touch_foldl, touch_ite, touch_cond, implies_true, and_self]

theorem sendWrites_touch {qs : List Part} {sI : State} (s : State) (f : FormeIx) (c : Fin 8) (d : Desc) (ps : List (Nat × Nat)) (m_out : Part.out ∈ qs) (m_formes : Part.formes ∈ qs) (m_imp : Part.imp ∈ qs) (m_span : Part.span ∈ qs) (m_abut : Part.abut ∈ qs) (m_colo : Part.colo ∈ qs)  (ht : Touches qs sI s) :
    Touches qs sI (sendWrites s f c d ps) := by
  unfold sendWrites
  (try dsimp only)
  (repeat' split) <;> simp (maxDischargeDepth := 40) only [ht, m_out, m_formes, m_imp, m_span, m_abut, m_colo, sendWrite_touch, Touches.refl, touch_foldl, touch_ite, touch_cond, implies_true, and_self]

theorem pumpPiece_touch {qs : List Part} {sI : State} (f : FormeIx) (c : Fin 8) (write : Bool) (s : State) (p : Nat × Nat) (m_out : Part.out ∈ qs) (m_span : Part.span ∈ qs) (m_abut : Part.abut ∈ qs) (m_colo : Part.colo ∈ qs)  (ht : Touches qs sI s) :
    Touches qs sI (pumpPiece f c write s p) := by
  unfold pumpPiece
  (try dsimp only)
  (repeat' split) <;> simp (maxDischargeDepth := 40) only [ht, m_out, m_span, m_abut, m_colo, postMsg_touch, Touches.refl, touch_foldl, touch_ite, touch_cond, implies_true, and_self]

theorem pumpCopies_touch {qs : List Part} {sI : State} (s : State) (m_out : Part.out ∈ qs) (m_span : Part.span ∈ qs) (m_abut : Part.abut ∈ qs) (m_colo : Part.colo ∈ qs)  (ht : Touches qs sI s) :
    Touches qs sI (pumpCopies s) := by
  unfold pumpCopies
  (try dsimp only)
  (repeat' split) <;> simp (maxDischargeDepth := 40) only [ht, m_out, m_span, m_abut, m_colo, pumpPiece_touch, Touches.refl, touch_foldl, touch_ite, touch_cond, implies_true, and_self]

theorem ownSignal_touch {qs : List Part} {sI : State} (s : State) (d : Desc) (m_formes : Part.formes ∈ qs) (m_colo : Part.colo ∈ qs)  (ht : Touches qs sI s) :
    Touches qs sI (ownSignal s d) := by
  unfold ownSignal
  (try dsimp only)
  (repeat' split) <;> simp (maxDischargeDepth := 40) only [ht, m_formes, m_colo, remoteSignal_touch, Touches.refl, touch_foldl, touch_ite, touch_cond, implies_true, and_self]

theorem landOwn_touch {qs : List Part} {sI : State} (s : State) (f : FormeIx) (c : Fin 8) (d : Desc) (bs : List (Nat × Byte)) (m_out : Part.out ∈ qs) (m_formes : Part.formes ∈ qs) (m_gddr : Part.gddr ∈ qs) (m_tbl : Part.tbl ∈ qs) (m_imp : Part.imp ∈ qs) (m_span : Part.span ∈ qs) (m_abut : Part.abut ∈ qs) (m_colo : Part.colo ∈ qs)  (ht : Touches qs sI s) :
    Touches qs sI (landOwn s f c d bs) := by
  unfold landOwn
  (try dsimp only)
  (repeat' split) <;> simp (maxDischargeDepth := 40) only [ht, m_out, m_formes, m_gddr, m_tbl, m_imp, m_span, m_abut, m_colo, failCopy_touch, localPutAll_touch, modCar_touch, ownSignal_touch, pumpCopies_touch, Touches.refl, touch_foldl, touch_ite, touch_cond, implies_true, and_self]

theorem landRemote_touch {qs : List Part} {sI : State} (s : State) (f : FormeIx) (c : Fin 8) (d : Desc) (bs : List (Nat × Byte)) (m_out : Part.out ∈ qs) (m_formes : Part.formes ∈ qs) (m_imp : Part.imp ∈ qs) (m_span : Part.span ∈ qs) (m_abut : Part.abut ∈ qs) (m_colo : Part.colo ∈ qs)  (ht : Touches qs sI s) :
    Touches qs sI (landRemote s f c d bs) := by
  unfold landRemote
  (try dsimp only)
  (repeat' split) <;> simp (maxDischargeDepth := 40) only [ht, m_out, m_formes, m_imp, m_span, m_abut, m_colo, modCar_touch, sendWrites_touch, Touches.refl, touch_foldl, touch_ite, touch_cond, implies_true, and_self]

theorem carryOut_touch {qs : List Part} {sI : State} (s : State) (f : FormeIx) (c : Fin 8) (m_free : Part.free ∈ qs) (m_out : Part.out ∈ qs) (m_formes : Part.formes ∈ qs) (m_gddr : Part.gddr ∈ qs) (m_tbl : Part.tbl ∈ qs) (m_proof : Part.proof ∈ qs) (m_imp : Part.imp ∈ qs) (m_span : Part.span ∈ qs) (m_abut : Part.abut ∈ qs) (m_cores : Part.cores ∈ qs) (m_fault : Part.fault ∈ qs) (m_colo : Part.colo ∈ qs) (m_flash : Part.flash ∈ qs)  (ht : Touches qs sI s) :
    Touches qs sI (carryOut s f c) := by
  unfold carryOut
  (try dsimp only)
  (repeat' split) <;> simp (maxDischargeDepth := 40) only [ht, m_free, m_out, m_formes, m_gddr, m_tbl, m_proof, m_imp, m_span, m_abut, m_cores, m_fault, m_colo, m_flash, copyResult_touch, dropCopy_touch, landOwn_touch, landRemote_touch, storedError_touch, Touches.refl, touch_foldl, touch_ite, touch_cond, implies_true, and_self]

theorem takeCarriage_touch {qs : List Part} {sI : State} (s : State) (f : FormeIx) (c : Fin 8) (d : Desc) (ps : List (Nat × Nat)) (m_formes : Part.formes ∈ qs)  (ht : Touches qs sI s) :
    Touches qs sI (takeCarriage s f c d ps) := by
  unfold takeCarriage
  (try dsimp only)
  (repeat' split) <;> simp (maxDischargeDepth := 40) only [ht, m_formes, issueHead_touch, modCar_touch, Touches.refl, touch_foldl, touch_ite, touch_cond, implies_true, and_self]

theorem startCopy_touch {qs : List Part} {sI : State} (s : State) (f : FormeIx) (c : Fin 8) (d : Desc) (m_free : Part.free ∈ qs) (m_out : Part.out ∈ qs) (m_formes : Part.formes ∈ qs) (m_gddr : Part.gddr ∈ qs) (m_tbl : Part.tbl ∈ qs) (m_proof : Part.proof ∈ qs) (m_imp : Part.imp ∈ qs) (m_span : Part.span ∈ qs) (m_abut : Part.abut ∈ qs) (m_cores : Part.cores ∈ qs) (m_fault : Part.fault ∈ qs) (m_colo : Part.colo ∈ qs) (m_flash : Part.flash ∈ qs)  (ht : Touches qs sI s) :
    Touches qs sI (startCopy s f c d) := by
  unfold startCopy
  (try dsimp only)
  (repeat' split) <;> simp (maxDischargeDepth := 40) only [ht, m_free, m_out, m_formes, m_gddr, m_tbl, m_proof, m_imp, m_span, m_abut, m_cores, m_fault, m_colo, m_flash, carryOut_touch, pumpCopies_touch, sendReads_touch, takeCarriage_touch, Touches.refl, touch_foldl, touch_ite, touch_cond, implies_true, and_self]

theorem ccopyEffect_touch {qs : List Part} {sI : State} (s : State) (f : FormeIx) (rep : MemReport) (m_free : Part.free ∈ qs) (m_out : Part.out ∈ qs) (m_formes : Part.formes ∈ qs) (m_gddr : Part.gddr ∈ qs) (m_tbl : Part.tbl ∈ qs) (m_proof : Part.proof ∈ qs) (m_imp : Part.imp ∈ qs) (m_span : Part.span ∈ qs) (m_abut : Part.abut ∈ qs) (m_cores : Part.cores ∈ qs) (m_fault : Part.fault ∈ qs) (m_colo : Part.colo ∈ qs) (m_flash : Part.flash ∈ qs)  (ht : Touches qs sI s) :
    Touches qs sI (ccopyEffect s f rep) := by
  unfold ccopyEffect
  (try dsimp only)
  (repeat' split) <;> simp (maxDischargeDepth := 40) only [ht, m_free, m_out, m_formes, m_gddr, m_tbl, m_proof, m_imp, m_span, m_abut, m_cores, m_fault, m_colo, m_flash, applyReport_touch, progError_touch, startCopy_touch, Touches.refl, touch_foldl, touch_ite, touch_cond, implies_true, and_self]

theorem copyRetire_touch {qs : List Part} {sI : State} (s : State) (f : FormeIx) (c : Fin 8) (m_formes : Part.formes ∈ qs)  (ht : Touches qs sI s) :
    Touches qs sI (copyRetire s f c) := by
  unfold copyRetire
  (try dsimp only)
  (repeat' split) <;> simp (maxDischargeDepth := 40) only [ht, m_formes, modForme_touch, Touches.refl, touch_foldl, touch_ite, touch_cond, implies_true, and_self]

theorem pieceArrived_touch {qs : List Part} {sI : State} (s : State) (f : FormeIx) (c : Fin 8) (a : Nat) (bs : List Byte) (m_free : Part.free ∈ qs) (m_out : Part.out ∈ qs) (m_formes : Part.formes ∈ qs) (m_gddr : Part.gddr ∈ qs) (m_tbl : Part.tbl ∈ qs) (m_proof : Part.proof ∈ qs) (m_imp : Part.imp ∈ qs) (m_span : Part.span ∈ qs) (m_abut : Part.abut ∈ qs) (m_cores : Part.cores ∈ qs) (m_fault : Part.fault ∈ qs) (m_colo : Part.colo ∈ qs) (m_flash : Part.flash ∈ qs)  (ht : Touches qs sI s) :
    Touches qs sI (pieceArrived s f c a bs) := by
  unfold pieceArrived
  (try dsimp only)
  (repeat' split) <;> simp (maxDischargeDepth := 40) only [ht, m_free, m_out, m_formes, m_gddr, m_tbl, m_proof, m_imp, m_span, m_abut, m_cores, m_fault, m_colo, m_flash, carryOut_touch, modCar_touch, sendReads_touch, Touches.refl, touch_foldl, touch_ite, touch_cond, implies_true, and_self]

theorem windowAcked_touch {qs : List Part} {sI : State} (s : State) (f : FormeIx) (c : Fin 8) (a : Nat) (m_formes : Part.formes ∈ qs)  (ht : Touches qs sI s) :
    Touches qs sI (windowAcked s f c a) := by
  unfold windowAcked
  (try dsimp only)
  (repeat' split) <;> simp (maxDischargeDepth := 40) only [ht, m_formes, modCar_touch, Touches.refl, touch_foldl, touch_ite, touch_cond, implies_true, and_self]

theorem copyAcked_touch {qs : List Part} {sI : State} (s : State) (f : FormeIx) (c : Fin 8) (total : Nat) (m_formes : Part.formes ∈ qs)  (ht : Touches qs sI s) :
    Touches qs sI (copyAcked s f c total) := by
  unfold copyAcked
  (try dsimp only)
  (repeat' split) <;> simp (maxDischargeDepth := 40) only [ht, m_formes, modCar_touch, Touches.refl, touch_foldl, touch_ite, touch_cond, implies_true, and_self]

theorem copyCorrupt_touch {qs : List Part} {sI : State} (s : State) (f : FormeIx) (c : Fin 8) (a : Nat) (port : Nat) (m_out : Part.out ∈ qs) (m_formes : Part.formes ∈ qs) (m_imp : Part.imp ∈ qs) (m_span : Part.span ∈ qs) (m_abut : Part.abut ∈ qs) (m_fault : Part.fault ∈ qs) (m_colo : Part.colo ∈ qs) (m_flash : Part.flash ∈ qs)  (ht : Touches qs sI s) :
    Touches qs sI (copyCorrupt s f c a port) := by
  unfold copyCorrupt
  (try dsimp only)
  (repeat' split) <;> simp (maxDischargeDepth := 40) only [ht, m_out, m_formes, m_imp, m_span, m_abut, m_fault, m_colo, m_flash, dropCopy_touch, logFault_touch, modCar_touch, sendReads_touch, sendWrite_touch, storedAbort_touch, Touches.refl, touch_foldl, touch_ite, touch_cond, implies_true, and_self]

end Sys2Proof
end

