-- ==== Sys2Proof/Laws/TouchFabric.lean ====
section
/-! SUPPORT. What each operation of RDMA, the Presses, the Imposer, services, Span and collectives leaves unchanged: one lemma each, `f_touch` -/

namespace Sys2Proof

open Machine

set_option maxRecDepth 4000
set_option linter.unusedSimpArgs false
set_option linter.unusedVariables false

theorem gddrStore_touch {qs : List Part} {sI : State} (s : State) (a : Nat) (bs : List Byte) (m_gddr : Part.gddr ∈ qs)  (ht : Touches qs sI s) :
    Touches qs sI (gddrStore s a bs) := by
  unfold gddrStore
  (try dsimp only)
  (repeat' split) <;> simp (maxDischargeDepth := 40) only [ht, m_gddr, modGddr_touch, Touches.refl, touch_foldl, touch_ite, touch_cond, implies_true, and_self]

theorem takeSrq_touch {qs : List Part} {sI : State} {s : State} {k : Nat} {t : (State × RecvEntry)} (he : takeSrq s k = some t) (m_out : Part.out ∈ qs) (m_abut : Part.abut ∈ qs) (m_cores : Part.cores ∈ qs) (m_colo : Part.colo ∈ qs)  (ht : Touches qs sI s) :
    Touches qs sI t.1 := by
  revert he
  unfold takeSrq
  (try dsimp only)
  (repeat' split) <;> intro he <;> (first | contradiction | (injection he with he; subst he; (first | simp (maxDischargeDepth := 40) only [ht, m_out, m_abut, m_cores, m_colo, modSrq_touch, raise_touch, Touches.refl, touch_foldl, touch_ite, touch_cond, implies_true, and_self])))

theorem takeRecvEntry_touch {qs : List Part} {sI : State} {s : State} {n : Nat} {t : (State × RecvEntry)} (he : takeRecvEntry s n = some t) (m_out : Part.out ∈ qs) (m_abut : Part.abut ∈ qs) (m_cores : Part.cores ∈ qs) (m_colo : Part.colo ∈ qs)  (ht : Touches qs sI s) :
    Touches qs sI t.1 := by
  revert he
  unfold takeRecvEntry
  (try dsimp only)
  (repeat' split) <;> intro he <;> (first | contradiction | (have hx := takeSrq_touch (sI := sI) he m_out m_abut m_cores m_colo (by simp (maxDischargeDepth := 40) only [ht, m_out, m_abut, m_cores, m_colo, modQp_touch, Touches.refl, touch_foldl, touch_ite, touch_cond, implies_true, and_self]); exact hx) | (injection he with he; subst he; (first | simp (maxDischargeDepth := 40) only [ht, m_out, m_abut, m_cores, m_colo, modQp_touch, Touches.refl, touch_foldl, touch_ite, touch_cond, implies_true, and_self] | (have hx := takeSrq_touch (sI := sI) (by assumption) m_out m_abut m_cores m_colo (by simp (maxDischargeDepth := 40) only [ht, m_out, m_abut, m_cores, m_colo, modQp_touch, Touches.refl, touch_foldl, touch_ite, touch_cond, implies_true, and_self]); simp (maxDischargeDepth := 40) only [hx, ht, m_out, m_abut, m_cores, m_colo, modQp_touch, Touches.refl, touch_foldl, touch_ite, touch_cond, implies_true, and_self]))))

theorem entryDone_touch {qs : List Part} {sI : State} (s : State) (n : Nat) (e : RecvEntry) (status bytes : Nat) (imm : Option (BitVec 32)) (time : Nat) (m_out : Part.out ∈ qs) (m_formes : Part.formes ∈ qs) (m_gddr : Part.gddr ∈ qs) (m_abut : Part.abut ∈ qs) (m_cores : Part.cores ∈ qs) (m_colo : Part.colo ∈ qs)  (ht : Touches qs sI s) :
    Touches qs sI (entryDone s n e status bytes imm time) := by
  unfold entryDone
  (try dsimp only)
  (repeat' split) <;> simp (maxDischargeDepth := 40) only [ht, m_out, m_formes, m_gddr, m_abut, m_cores, m_colo, complete_touch, Touches.refl, touch_foldl, touch_ite, touch_cond, implies_true, and_self]

theorem enterIngress_touch {qs : List Part} {sI : State} (s : State) (n : Nat) (p : RocePacket) (m_abut : Part.abut ∈ qs)  (ht : Touches qs sI s) :
    Touches qs sI (enterIngress s n p) := by
  unfold enterIngress
  (try dsimp only)
  (repeat' split) <;> simp (maxDischargeDepth := 40) only [ht, m_abut, touch_abut, Touches.refl, touch_foldl, touch_ite, touch_cond, implies_true, and_self]

theorem drainIngress_touch {qs : List Part} {sI : State} (s : State) (m_abut : Part.abut ∈ qs)  (ht : Touches qs sI s) :
    Touches qs sI (drainIngress s) := by
  unfold drainIngress
  (try dsimp only)
  (repeat' split) <;> simp (maxDischargeDepth := 40) only [ht, m_abut, touch_abut, Touches.refl, touch_foldl, touch_ite, touch_cond, implies_true, and_self]

theorem popRx_touch {qs : List Part} {sI : State} (s : State) (m_abut : Part.abut ∈ qs)  (ht : Touches qs sI s) :
    Touches qs sI (popRx s) := by
  unfold popRx
  (try dsimp only)
  (repeat' split) <;> simp (maxDischargeDepth := 40) only [ht, m_abut, touch_abut, Touches.refl, touch_foldl, touch_ite, touch_cond, implies_true, and_self]

theorem answer_touch {qs : List Part} {sI : State} (s : State) (n : Nat) (k : RoceKind) (psn : BitVec 24) (m_out : Part.out ∈ qs) (m_span : Part.span ∈ qs) (m_abut : Part.abut ∈ qs) (m_colo : Part.colo ∈ qs)  (ht : Touches qs sI s) :
    Touches qs sI (answer s n k psn) := by
  unfold answer
  (try dsimp only)
  (repeat' split) <;> simp (maxDischargeDepth := 40) only [ht, m_out, m_span, m_abut, m_colo, roceOut_touch, Touches.refl, touch_foldl, touch_ite, touch_cond, implies_true, and_self]

theorem rnrAnswer_touch {qs : List Part} {sI : State} (s : State) (n : Nat) (p : RocePacket) (m_out : Part.out ∈ qs) (m_span : Part.span ∈ qs) (m_abut : Part.abut ∈ qs) (m_colo : Part.colo ∈ qs)  (ht : Touches qs sI s) :
    Touches qs sI (rnrAnswer s n p) := by
  unfold rnrAnswer
  (try dsimp only)
  (repeat' split) <;> simp (maxDischargeDepth := 40) only [ht, m_out, m_span, m_abut, m_colo, answer_touch, bumpEnt_touch, modQp_touch, Touches.refl, touch_foldl, touch_ite, touch_cond, implies_true, and_self]

theorem nakError_touch {qs : List Part} {sI : State} (s : State) (n : Nat) (code : BitVec 5) (p : RocePacket) (m_out : Part.out ∈ qs) (m_formes : Part.formes ∈ qs) (m_gddr : Part.gddr ∈ qs) (m_imp : Part.imp ∈ qs) (m_span : Part.span ∈ qs) (m_abut : Part.abut ∈ qs) (m_cores : Part.cores ∈ qs) (m_colo : Part.colo ∈ qs)  (ht : Touches qs sI s) :
    Touches qs sI (nakError s n code p) := by
  unfold nakError
  (try dsimp only)
  (repeat' split) <;> simp (maxDischargeDepth := 40) only [ht, m_out, m_formes, m_gddr, m_imp, m_span, m_abut, m_cores, m_colo, answer_touch, qpError_touch, Touches.refl, touch_foldl, touch_ite, touch_cond, implies_true, and_self]

theorem entryError_touch {qs : List Part} {sI : State} (s : State) (n : Nat) (e : RecvEntry) (status : Nat) (code : BitVec 5) (p : RocePacket) (m_out : Part.out ∈ qs) (m_formes : Part.formes ∈ qs) (m_gddr : Part.gddr ∈ qs) (m_imp : Part.imp ∈ qs) (m_span : Part.span ∈ qs) (m_abut : Part.abut ∈ qs) (m_cores : Part.cores ∈ qs) (m_colo : Part.colo ∈ qs)  (ht : Touches qs sI s) :
    Touches qs sI (entryError s n e status code p) := by
  unfold entryError
  (try dsimp only)
  (repeat' split) <;> simp (maxDischargeDepth := 40) only [ht, m_out, m_formes, m_gddr, m_imp, m_span, m_abut, m_cores, m_colo, entryDone_touch, modQp_touch, nakError_touch, Touches.refl, touch_foldl, touch_ite, touch_cond, implies_true, and_self]

theorem ackAgain_touch {qs : List Part} {sI : State} (s : State) (n : Nat) (m_out : Part.out ∈ qs) (m_span : Part.span ∈ qs) (m_abut : Part.abut ∈ qs) (m_colo : Part.colo ∈ qs)  (ht : Touches qs sI s) :
    Touches qs sI (ackAgain s n) := by
  unfold ackAgain
  (try dsimp only)
  (repeat' split) <;> simp (maxDischargeDepth := 40) only [ht, m_out, m_span, m_abut, m_colo, answer_touch, Touches.refl, touch_foldl, touch_ite, touch_cond, implies_true, and_self]

theorem askMissing_touch {qs : List Part} {sI : State} (s : State) (n : Nat) (m_out : Part.out ∈ qs) (m_span : Part.span ∈ qs) (m_abut : Part.abut ∈ qs) (m_colo : Part.colo ∈ qs)  (ht : Touches qs sI s) :
    Touches qs sI (askMissing s n) := by
  unfold askMissing
  (try dsimp only)
  (repeat' split) <;> simp (maxDischargeDepth := 40) only [ht, m_out, m_span, m_abut, m_colo, answer_touch, modQp_touch, Touches.refl, touch_foldl, touch_ite, touch_cond, implies_true, and_self]

theorem onRequest_touch {qs : List Part} {sI : State} (s : State) (again serve : State → Nat → RocePacket → State)
    (m_abut : Part.abut ∈ qs) (m_out : Part.out ∈ qs) (m_formes : Part.formes ∈ qs) (m_span : Part.span ∈ qs)
    (m_colo : Part.colo ∈ qs)
    (ha : ∀ t y z, Touches qs t (again t y z)) (hs : ∀ t y z, Touches qs t (serve t y z)) (ht : Touches qs sI s) :
    Touches qs sI (onRequest s again serve) := by
  have h1 : Touches qs sI (popRx s) := by simp (maxDischargeDepth := 40) only [popRx_touch, *]
  unfold onRequest
  dsimp only
  (repeat' split)
  · exact ht
  · exact h1
  · refine Touches.trans ?_ (hs _ _ _)
    simp (maxDischargeDepth := 40) only [modQp_touch, *]
  · exact h1.trans (ha _ _ _)
  · simp (maxDischargeDepth := 40) only [askMissing_touch, *]

theorem joinMsg_touch {qs : List Part} {sI : State} {s : State} {n : Nat} {p : RocePacket} {write : Bool} {t : State} {m : InMsg}
    (he : joinMsg s n p write = .msg t m) (m_out : Part.out ∈ qs) (m_abut : Part.abut ∈ qs) (m_cores : Part.cores ∈ qs) (m_colo : Part.colo ∈ qs) (ht : Touches qs sI s) : Touches qs sI t := by
  revert he
  unfold joinMsg
  (repeat' split) <;> intro he <;> (first | contradiction | (injection he with he _; subst he; first
    | exact ht
    | (have hx := takeRecvEntry_touch (sI := sI) (by assumption) (by assumption) (by assumption) (by assumption) (by assumption) ht
       exact hx)))

theorem sendRequest_touch {qs : List Part} {sI : State} (s : State) (n : Nat) (p : RocePacket) (m : InMsg) (m_free : Part.free ∈ qs) (m_out : Part.out ∈ qs) (m_gddr : Part.gddr ∈ qs) (m_log : Part.log ∈ qs) (m_svc : Part.svc ∈ qs) (m_colo : Part.colo ∈ qs)  (ht : Touches qs sI s) :
    Touches qs sI (sendRequest s n p m) := by
  unfold sendRequest
  (try dsimp only)
  (repeat' split) <;> simp (maxDischargeDepth := 40) only [ht, m_free, m_out, m_gddr, m_log, m_svc, m_colo, requestIn_touch, Touches.refl, touch_foldl, touch_ite, touch_cond, implies_true, and_self]

theorem packetDone_touch {qs : List Part} {sI : State} (s : State) (n : Nat) (p : RocePacket) (m : InMsg) (m_free : Part.free ∈ qs) (m_out : Part.out ∈ qs) (m_formes : Part.formes ∈ qs) (m_gddr : Part.gddr ∈ qs) (m_log : Part.log ∈ qs) (m_span : Part.span ∈ qs) (m_abut : Part.abut ∈ qs) (m_cores : Part.cores ∈ qs) (m_svc : Part.svc ∈ qs) (m_colo : Part.colo ∈ qs)  (ht : Touches qs sI s) :
    Touches qs sI (packetDone s n p m) := by
  unfold packetDone
  (try dsimp only)
  (repeat' split) <;> simp (maxDischargeDepth := 40) only [ht, m_free, m_out, m_formes, m_gddr, m_log, m_span, m_abut, m_cores, m_svc, m_colo, answer_touch, entryDone_touch, modQp_touch, sendRequest_touch, Touches.refl, touch_foldl, touch_ite, touch_cond, implies_true, and_self]

theorem sendData_touch {qs : List Part} {sI : State} (s0 s : State) (n : Nat) (p : RocePacket) (m : InMsg) (e : RecvEntry)
    (m_free : Part.free ∈ qs) (m_out : Part.out ∈ qs) (m_formes : Part.formes ∈ qs) (m_gddr : Part.gddr ∈ qs) (m_imp : Part.imp ∈ qs) (m_log : Part.log ∈ qs) (m_span : Part.span ∈ qs) (m_abut : Part.abut ∈ qs) (m_cores : Part.cores ∈ qs) (m_svc : Part.svc ∈ qs) (m_colo : Part.colo ∈ qs) (ht0 : Touches qs sI s0) (ht : Touches qs sI s) : Touches qs sI (sendData s0 s n p m e) := by
  unfold sendData
  (repeat' split) <;> first
    | simp (maxDischargeDepth := 40) only [entryError_touch, rnrAnswer_touch, *]
    | (have hx := recordInput_touch (sI := sI) (by assumption) (by assumption) (by assumption) (by assumption) ht
       simp (maxDischargeDepth := 40) only [packetDone_touch, gddrStore_touch, enterIngress_touch, *])

theorem writeData_touch {qs : List Part} {sI : State} (s0 s : State) (n : Nat) (p : RocePacket) (m : InMsg)
    (m_free : Part.free ∈ qs) (m_out : Part.out ∈ qs) (m_formes : Part.formes ∈ qs) (m_gddr : Part.gddr ∈ qs) (m_imp : Part.imp ∈ qs) (m_log : Part.log ∈ qs) (m_span : Part.span ∈ qs) (m_abut : Part.abut ∈ qs) (m_cores : Part.cores ∈ qs) (m_svc : Part.svc ∈ qs) (m_colo : Part.colo ∈ qs) (ht0 : Touches qs sI s0) (ht : Touches qs sI s) : Touches qs sI (writeData s0 s n p m) := by
  unfold writeData
  dsimp only
  (repeat' split) <;> first
    | simp (maxDischargeDepth := 40) only [nakError_touch, rnrAnswer_touch, *]
    | (have hx := recordInput_touch (sI := sI) (by assumption) (by assumption) (by assumption) (by assumption) ht
       simp (maxDischargeDepth := 40) only [packetDone_touch, gddrStore_touch, enterIngress_touch, *])

theorem dataIn_touch {qs : List Part} {sI : State} (write : Bool) (s : State) (n : Nat) (p : RocePacket) (m_free : Part.free ∈ qs) (m_out : Part.out ∈ qs) (m_formes : Part.formes ∈ qs) (m_gddr : Part.gddr ∈ qs) (m_imp : Part.imp ∈ qs) (m_log : Part.log ∈ qs) (m_span : Part.span ∈ qs) (m_abut : Part.abut ∈ qs) (m_cores : Part.cores ∈ qs) (m_svc : Part.svc ∈ qs) (m_colo : Part.colo ∈ qs)
    (ht : Touches qs sI s) : Touches qs sI (dataIn write s n p) := by
  unfold dataIn
  split
  · simp (maxDischargeDepth := 40) only [rnrAnswer_touch, *]
  · split
    · simp (maxDischargeDepth := 40) only [nakError_touch, *]
    · simp (maxDischargeDepth := 40) only [rnrAnswer_touch, *]
    · rename_i heq
      have hx := joinMsg_touch (sI := sI) heq (by assumption) (by assumption) (by assumption) (by assumption) ht
      split <;> simp (maxDischargeDepth := 40) only [sendData_touch, writeData_touch, *]

theorem sendIn_touch {qs : List Part} {sI : State} (s : State) (n : Nat) (p : RocePacket) (m_free : Part.free ∈ qs) (m_out : Part.out ∈ qs) (m_formes : Part.formes ∈ qs) (m_gddr : Part.gddr ∈ qs) (m_imp : Part.imp ∈ qs) (m_log : Part.log ∈ qs) (m_span : Part.span ∈ qs) (m_abut : Part.abut ∈ qs) (m_cores : Part.cores ∈ qs) (m_svc : Part.svc ∈ qs) (m_colo : Part.colo ∈ qs)  (ht : Touches qs sI s) :
    Touches qs sI (sendIn s n p) := by
  unfold sendIn
  (try dsimp only)
  (repeat' split) <;> simp (maxDischargeDepth := 40) only [ht, m_free, m_out, m_formes, m_gddr, m_imp, m_log, m_span, m_abut, m_cores, m_svc, m_colo, answer_touch, dataIn_touch, Touches.refl, touch_foldl, touch_ite, touch_cond, implies_true, and_self]

theorem serveReadIn_touch {qs : List Part} {sI : State} (s : State) (n : Nat) (p : RocePacket) (m_out : Part.out ∈ qs) (m_formes : Part.formes ∈ qs) (m_gddr : Part.gddr ∈ qs) (m_imp : Part.imp ∈ qs) (m_span : Part.span ∈ qs) (m_abut : Part.abut ∈ qs) (m_cores : Part.cores ∈ qs) (m_fault : Part.fault ∈ qs) (m_colo : Part.colo ∈ qs) (m_flash : Part.flash ∈ qs)  (ht : Touches qs sI s) :
    Touches qs sI (serveReadIn s n p) := by
  unfold serveReadIn
  (try dsimp only)
  (repeat' split) <;> simp (maxDischargeDepth := 40) only [ht, m_out, m_formes, m_gddr, m_imp, m_span, m_abut, m_cores, m_fault, m_colo, m_flash, gddrError_touch, nakError_touch, roceOutAll_touch, Touches.refl, touch_foldl, touch_ite, touch_cond, implies_true, and_self]

theorem readIn_touch {qs : List Part} {sI : State} (s : State) (n : Nat) (p : RocePacket) (m_out : Part.out ∈ qs) (m_formes : Part.formes ∈ qs) (m_gddr : Part.gddr ∈ qs) (m_imp : Part.imp ∈ qs) (m_span : Part.span ∈ qs) (m_abut : Part.abut ∈ qs) (m_cores : Part.cores ∈ qs) (m_fault : Part.fault ∈ qs) (m_colo : Part.colo ∈ qs) (m_flash : Part.flash ∈ qs)  (ht : Touches qs sI s) :
    Touches qs sI (readIn s n p) := by
  unfold readIn
  (try dsimp only)
  (repeat' split) <;> simp (maxDischargeDepth := 40) only [ht, m_out, m_formes, m_gddr, m_imp, m_span, m_abut, m_cores, m_fault, m_colo, m_flash, answer_touch, enterIngress_touch, modQp_touch, rnrAnswer_touch, serveReadIn_touch, Touches.refl, touch_foldl, touch_ite, touch_cond, implies_true, and_self]

theorem finishMsg_touch {qs : List Part} {sI : State} (s : State) (n : Nat) (m : OutMsg) (m_free : Part.free ∈ qs) (m_out : Part.out ∈ qs) (m_formes : Part.formes ∈ qs) (m_gddr : Part.gddr ∈ qs) (m_tbl : Part.tbl ∈ qs) (m_proof : Part.proof ∈ qs) (m_imp : Part.imp ∈ qs) (m_span : Part.span ∈ qs) (m_abut : Part.abut ∈ qs) (m_cores : Part.cores ∈ qs) (m_fault : Part.fault ∈ qs) (m_colo : Part.colo ∈ qs) (m_flash : Part.flash ∈ qs)  (ht : Touches qs sI s) :
    Touches qs sI (finishMsg s n m) := by
  unfold finishMsg
  (try dsimp only)
  (repeat' split) <;> simp (maxDischargeDepth := 40) only [ht, m_free, m_out, m_formes, m_gddr, m_tbl, m_proof, m_imp, m_span, m_abut, m_cores, m_fault, m_colo, m_flash, modQp_touch, pieceArrived_touch, sendCompletion_touch, windowAcked_touch, Touches.refl, touch_foldl, touch_ite, touch_cond, implies_true, and_self]

theorem ackUpTo_touch {qs : List Part} {sI : State} (k : Nat) (s : State) (n : Nat) (psn : BitVec 24) (m_free : Part.free ∈ qs) (m_out : Part.out ∈ qs) (m_formes : Part.formes ∈ qs) (m_gddr : Part.gddr ∈ qs) (m_tbl : Part.tbl ∈ qs) (m_proof : Part.proof ∈ qs) (m_imp : Part.imp ∈ qs) (m_span : Part.span ∈ qs) (m_abut : Part.abut ∈ qs) (m_cores : Part.cores ∈ qs) (m_fault : Part.fault ∈ qs) (m_colo : Part.colo ∈ qs) (m_flash : Part.flash ∈ qs) (ht : Touches qs sI s) :
    Touches qs sI (ackUpTo k s n psn) := by
  induction k generalizing s with
  | zero => exact ht
  | succ k ih =>
    unfold ackUpTo
    (repeat' split) <;> first
      | exact ht
      | (apply ih; simp (maxDischargeDepth := 40) only [*, finishMsg_touch])

theorem acked_touch {qs : List Part} {sI : State} (s : State) (n : Nat) (psn : BitVec 24) (m_free : Part.free ∈ qs) (m_out : Part.out ∈ qs) (m_formes : Part.formes ∈ qs) (m_gddr : Part.gddr ∈ qs) (m_tbl : Part.tbl ∈ qs) (m_proof : Part.proof ∈ qs) (m_imp : Part.imp ∈ qs) (m_span : Part.span ∈ qs) (m_abut : Part.abut ∈ qs) (m_cores : Part.cores ∈ qs) (m_fault : Part.fault ∈ qs) (m_colo : Part.colo ∈ qs) (m_flash : Part.flash ∈ qs)  (ht : Touches qs sI s) :
    Touches qs sI (acked s n psn) := by
  unfold acked
  (try dsimp only)
  (repeat' split) <;> simp (maxDischargeDepth := 40) only [ht, m_free, m_out, m_formes, m_gddr, m_tbl, m_proof, m_imp, m_span, m_abut, m_cores, m_fault, m_colo, m_flash, ackUpTo_touch, modQp_touch, Touches.refl, touch_foldl, touch_ite, touch_cond, implies_true, and_self]

theorem recordResponse_touch {qs : List Part} {sI : State} {s : State} {n : Nat} {m : OutMsg} {bs : List Byte} {t : State} (he : recordResponse s n m bs = some t) (m_out : Part.out ∈ qs) (m_gddr : Part.gddr ∈ qs) (m_log : Part.log ∈ qs)  (ht : Touches qs sI s) :
    Touches qs sI t := by
  revert he
  unfold recordResponse
  (try dsimp only)
  (repeat' split) <;> intro he <;> (first | contradiction | (have hx := recordInput_touch (sI := sI) he m_out m_gddr m_log (by simp (maxDischargeDepth := 40) only [ht, m_out, m_gddr, m_log, Touches.refl, touch_foldl, touch_ite, touch_cond, implies_true, and_self]); exact hx) | (injection he with he; subst he; (first | simp (maxDischargeDepth := 40) only [ht, m_out, m_gddr, m_log, Touches.refl, touch_foldl, touch_ite, touch_cond, implies_true, and_self] | (have hx := recordInput_touch (sI := sI) (by assumption) m_out m_gddr m_log (by simp (maxDischargeDepth := 40) only [ht, m_out, m_gddr, m_log, Touches.refl, touch_foldl, touch_ite, touch_cond, implies_true, and_self]); simp (maxDischargeDepth := 40) only [hx, ht, m_out, m_gddr, m_log, Touches.refl, touch_foldl, touch_ite, touch_cond, implies_true, and_self]))))

theorem readData_touch {qs : List Part} {sI : State} (s : State) (n : Nat) (p : RocePacket) (m_free : Part.free ∈ qs) (m_out : Part.out ∈ qs) (m_formes : Part.formes ∈ qs) (m_gddr : Part.gddr ∈ qs) (m_tbl : Part.tbl ∈ qs) (m_proof : Part.proof ∈ qs) (m_imp : Part.imp ∈ qs) (m_log : Part.log ∈ qs) (m_span : Part.span ∈ qs) (m_abut : Part.abut ∈ qs) (m_cores : Part.cores ∈ qs) (m_fault : Part.fault ∈ qs) (m_colo : Part.colo ∈ qs) (m_flash : Part.flash ∈ qs)  (ht : Touches qs sI s) :
    Touches qs sI (readData s n p) := by
  unfold readData
  (try dsimp only)
  (repeat' split) <;> (first | simp (maxDischargeDepth := 40) only [ht, m_free, m_out, m_formes, m_gddr, m_tbl, m_proof, m_imp, m_log, m_span, m_abut, m_cores, m_fault, m_colo, m_flash, acked_touch, gddrStore_touch, modQp_touch, touch_out, Touches.refl, touch_foldl, touch_ite, touch_cond, implies_true, and_self] | (have hx := recordResponse_touch (sI := sI) (by assumption) m_out m_gddr m_log (by simp (maxDischargeDepth := 40) only [ht, m_free, m_out, m_formes, m_gddr, m_tbl, m_proof, m_imp, m_log, m_span, m_abut, m_cores, m_fault, m_colo, m_flash, acked_touch, gddrStore_touch, modQp_touch, touch_out, Touches.refl, touch_foldl, touch_ite, touch_cond, implies_true, and_self]); simp (maxDischargeDepth := 40) only [hx, ht, m_free, m_out, m_formes, m_gddr, m_tbl, m_proof, m_imp, m_log, m_span, m_abut, m_cores, m_fault, m_colo, m_flash, acked_touch, gddrStore_touch, modQp_touch, touch_out, Touches.refl, touch_foldl, touch_ite, touch_cond, implies_true, and_self]))

theorem retry_touch {qs : List Part} {sI : State} (s : State) (n : Nat) (psn : BitVec 24) (m_out : Part.out ∈ qs) (m_formes : Part.formes ∈ qs) (m_gddr : Part.gddr ∈ qs) (m_imp : Part.imp ∈ qs) (m_span : Part.span ∈ qs) (m_abut : Part.abut ∈ qs) (m_cores : Part.cores ∈ qs) (m_colo : Part.colo ∈ qs)  (ht : Touches qs sI s) :
    Touches qs sI (retry s n psn) := by
  unfold retry
  (try dsimp only)
  (repeat' split) <;> simp (maxDischargeDepth := 40) only [ht, m_out, m_formes, m_gddr, m_imp, m_span, m_abut, m_cores, m_colo, modQp_touch, qpError_touch, resendFrom_touch, Touches.refl, touch_foldl, touch_ite, touch_cond, implies_true, and_self]

theorem nakIn_touch {qs : List Part} {sI : State} (s : State) (n : Nat) (code : BitVec 5) (psn : BitVec 24) (m_free : Part.free ∈ qs) (m_out : Part.out ∈ qs) (m_formes : Part.formes ∈ qs) (m_gddr : Part.gddr ∈ qs) (m_tbl : Part.tbl ∈ qs) (m_proof : Part.proof ∈ qs) (m_imp : Part.imp ∈ qs) (m_span : Part.span ∈ qs) (m_abut : Part.abut ∈ qs) (m_cores : Part.cores ∈ qs) (m_fault : Part.fault ∈ qs) (m_colo : Part.colo ∈ qs) (m_flash : Part.flash ∈ qs)  (ht : Touches qs sI s) :
    Touches qs sI (nakIn s n code psn) := by
  unfold nakIn
  (try dsimp only)
  (repeat' split) <;> simp (maxDischargeDepth := 40) only [ht, m_free, m_out, m_formes, m_gddr, m_tbl, m_proof, m_imp, m_span, m_abut, m_cores, m_fault, m_colo, m_flash, acked_touch, qpError_touch, retry_touch, useFree_touch, Touches.refl, touch_foldl, touch_ite, touch_cond, implies_true, and_self]

theorem rnrNakIn_touch {qs : List Part} {sI : State} (s : State) (n : Nat) (timer : BitVec 5) (psn : BitVec 24) (m_free : Part.free ∈ qs) (m_out : Part.out ∈ qs) (m_formes : Part.formes ∈ qs) (m_gddr : Part.gddr ∈ qs) (m_tbl : Part.tbl ∈ qs) (m_proof : Part.proof ∈ qs) (m_imp : Part.imp ∈ qs) (m_span : Part.span ∈ qs) (m_abut : Part.abut ∈ qs) (m_cores : Part.cores ∈ qs) (m_fault : Part.fault ∈ qs) (m_colo : Part.colo ∈ qs) (m_flash : Part.flash ∈ qs)  (ht : Touches qs sI s) :
    Touches qs sI (rnrNakIn s n timer psn) := by
  unfold rnrNakIn
  (try dsimp only)
  (repeat' split) <;> simp (maxDischargeDepth := 40) only [ht, m_free, m_out, m_formes, m_gddr, m_tbl, m_proof, m_imp, m_span, m_abut, m_cores, m_fault, m_colo, m_flash, acked_touch, modQp_touch, Touches.refl, touch_foldl, touch_ite, touch_cond, implies_true, and_self]

theorem responseKind_touch {qs : List Part} {sI : State} (s : State) (n : Nat) (p : RocePacket) (m_free : Part.free ∈ qs) (m_out : Part.out ∈ qs) (m_formes : Part.formes ∈ qs) (m_gddr : Part.gddr ∈ qs) (m_tbl : Part.tbl ∈ qs) (m_proof : Part.proof ∈ qs) (m_imp : Part.imp ∈ qs) (m_log : Part.log ∈ qs) (m_span : Part.span ∈ qs) (m_abut : Part.abut ∈ qs) (m_cores : Part.cores ∈ qs) (m_fault : Part.fault ∈ qs) (m_colo : Part.colo ∈ qs) (m_flash : Part.flash ∈ qs)  (ht : Touches qs sI s) :
    Touches qs sI (responseKind s n p) := by
  unfold responseKind
  (try dsimp only)
  (repeat' split) <;> simp (maxDischargeDepth := 40) only [ht, m_free, m_out, m_formes, m_gddr, m_tbl, m_proof, m_imp, m_log, m_span, m_abut, m_cores, m_fault, m_colo, m_flash, acked_touch, nakIn_touch, readData_touch, rnrNakIn_touch, Touches.refl, touch_foldl, touch_ite, touch_cond, implies_true, and_self]

theorem responseIn_touch {qs : List Part} {sI : State} (s : State) (m_free : Part.free ∈ qs) (m_out : Part.out ∈ qs) (m_formes : Part.formes ∈ qs) (m_gddr : Part.gddr ∈ qs) (m_tbl : Part.tbl ∈ qs) (m_proof : Part.proof ∈ qs) (m_imp : Part.imp ∈ qs) (m_log : Part.log ∈ qs) (m_span : Part.span ∈ qs) (m_abut : Part.abut ∈ qs) (m_cores : Part.cores ∈ qs) (m_fault : Part.fault ∈ qs) (m_colo : Part.colo ∈ qs) (m_flash : Part.flash ∈ qs)  (ht : Touches qs sI s) :
    Touches qs sI (responseIn s) := by
  unfold responseIn
  (try dsimp only)
  (repeat' split) <;> simp (maxDischargeDepth := 40) only [ht, m_free, m_out, m_formes, m_gddr, m_tbl, m_proof, m_imp, m_log, m_span, m_abut, m_cores, m_fault, m_colo, m_flash, popRx_touch, pumpCopies_touch, responseKind_touch, Touches.refl, touch_foldl, touch_ite, touch_cond, implies_true, and_self]

theorem rnrRetry_touch {qs : List Part} {sI : State} (s : State) (n : Nat) (m_out : Part.out ∈ qs) (m_formes : Part.formes ∈ qs) (m_gddr : Part.gddr ∈ qs) (m_imp : Part.imp ∈ qs) (m_span : Part.span ∈ qs) (m_abut : Part.abut ∈ qs) (m_cores : Part.cores ∈ qs) (m_colo : Part.colo ∈ qs)  (ht : Touches qs sI s) :
    Touches qs sI (rnrRetry s n) := by
  unfold rnrRetry
  (try dsimp only)
  (repeat' split) <;> simp (maxDischargeDepth := 40) only [ht, m_out, m_formes, m_gddr, m_imp, m_span, m_abut, m_cores, m_colo, modQp_touch, qpError_touch, resendFrom_touch, Touches.refl, touch_foldl, touch_ite, touch_cond, implies_true, and_self]

theorem cnpEffect_touch {qs : List Part} {sI : State} (s : State) (m_abut : Part.abut ∈ qs) (m_colo : Part.colo ∈ qs)  (ht : Touches qs sI s) :
    Touches qs sI (cnpEffect s) := by
  unfold cnpEffect
  (try dsimp only)
  (repeat' split) <;> simp (maxDischargeDepth := 40) only [ht, m_abut, m_colo, bumpEnt_touch, modQp_touch, popRx_touch, Touches.refl, touch_foldl, touch_ite, touch_cond, implies_true, and_self]

theorem takeSq_touch {qs : List Part} {sI : State} (s : State) (n : Nat) (m_abut : Part.abut ∈ qs)  (ht : Touches qs sI s) :
    Touches qs sI (takeSq s n) := by
  unfold takeSq
  (try dsimp only)
  (repeat' split) <;> simp (maxDischargeDepth := 40) only [ht, m_abut, modQp_touch, Touches.refl, touch_foldl, touch_ite, touch_cond, implies_true, and_self]

theorem entryFails_touch {qs : List Part} {sI : State} (s : State) (n : Nat) (m : OutMsg) (status : Nat) (m_out : Part.out ∈ qs) (m_formes : Part.formes ∈ qs) (m_gddr : Part.gddr ∈ qs) (m_imp : Part.imp ∈ qs) (m_abut : Part.abut ∈ qs) (m_cores : Part.cores ∈ qs) (m_colo : Part.colo ∈ qs)  (ht : Touches qs sI s) :
    Touches qs sI (entryFails s n m status) := by
  unfold entryFails
  (try dsimp only)
  (repeat' split) <;> simp (maxDischargeDepth := 40) only [ht, m_out, m_formes, m_gddr, m_imp, m_abut, m_cores, m_colo, qpError_touch, sendCompletion_touch, Touches.refl, touch_foldl, touch_ite, touch_cond, implies_true, and_self]

theorem sendEntry_touch {qs : List Part} {sI : State} (s : State) (n : Nat) (m_out : Part.out ∈ qs) (m_formes : Part.formes ∈ qs) (m_gddr : Part.gddr ∈ qs) (m_imp : Part.imp ∈ qs) (m_span : Part.span ∈ qs) (m_abut : Part.abut ∈ qs) (m_cores : Part.cores ∈ qs) (m_colo : Part.colo ∈ qs)  (ht : Touches qs sI s) :
    Touches qs sI (sendEntry s n) := by
  unfold sendEntry
  (try dsimp only)
  (repeat' split) <;> simp (maxDischargeDepth := 40) only [ht, m_out, m_formes, m_gddr, m_imp, m_span, m_abut, m_cores, m_colo, entryFails_touch, postMsg_touch, takeSq_touch, Touches.refl, touch_foldl, touch_ite, touch_cond, implies_true, and_self]

theorem rawSent_touch {qs : List Part} {sI : State} (s : State) (m : OutMsg) (tsreq : Bool) (m_free : Part.free ∈ qs) (m_out : Part.out ∈ qs) (m_formes : Part.formes ∈ qs) (m_gddr : Part.gddr ∈ qs) (m_abut : Part.abut ∈ qs) (m_cores : Part.cores ∈ qs) (m_colo : Part.colo ∈ qs)  (ht : Touches qs sI s) :
    Touches qs sI (rawSent s m tsreq) := by
  unfold rawSent
  (try dsimp only)
  (repeat' split) <;> simp (maxDischargeDepth := 40) only [ht, m_free, m_out, m_formes, m_gddr, m_abut, m_cores, m_colo, complete_touch, useFree_touch, touch_abut, Touches.refl, touch_foldl, touch_ite, touch_cond, implies_true, and_self]

theorem rawEntry_touch {qs : List Part} {sI : State} (s : State) (m_free : Part.free ∈ qs) (m_out : Part.out ∈ qs) (m_formes : Part.formes ∈ qs) (m_gddr : Part.gddr ∈ qs) (m_imp : Part.imp ∈ qs) (m_span : Part.span ∈ qs) (m_abut : Part.abut ∈ qs) (m_cores : Part.cores ∈ qs) (m_colo : Part.colo ∈ qs)  (ht : Touches qs sI s) :
    Touches qs sI (rawEntry s) := by
  unfold rawEntry
  (try dsimp only)
  (repeat' split) <;> simp (maxDischargeDepth := 40) only [ht, m_free, m_out, m_formes, m_gddr, m_imp, m_span, m_abut, m_cores, m_colo, entryFails_touch, ethToPort_touch, rawSent_touch, takeSq_touch, Touches.refl, touch_foldl, touch_ite, touch_cond, implies_true, and_self]

theorem rawReport_touch {qs : List Part} {sI : State} (s : State) (tag : BitVec 32) (time : Nat) (m_out : Part.out ∈ qs) (m_formes : Part.formes ∈ qs) (m_gddr : Part.gddr ∈ qs) (m_abut : Part.abut ∈ qs) (m_cores : Part.cores ∈ qs) (m_colo : Part.colo ∈ qs)  (ht : Touches qs sI s) :
    Touches qs sI (rawReport s tag time) := by
  unfold rawReport
  (try dsimp only)
  (repeat' split) <;> simp (maxDischargeDepth := 40) only [ht, m_out, m_formes, m_gddr, m_abut, m_cores, m_colo, complete_touch, touch_abut, Touches.refl, touch_foldl, touch_ite, touch_cond, implies_true, and_self]

theorem resetQp_touch {qs : List Part} {sI : State} (s : State) (n : Nat) (m_out : Part.out ∈ qs) (m_formes : Part.formes ∈ qs) (m_imp : Part.imp ∈ qs) (m_abut : Part.abut ∈ qs)  (ht : Touches qs sI s) :
    Touches qs sI (resetQp s n) := by
  unfold resetQp
  (try dsimp only)
  (repeat' split) <;> simp (maxDischargeDepth := 40) only [ht, m_out, m_formes, m_imp, m_abut, failCopies_touch, modQp_touch, touch_abut, Touches.refl, touch_foldl, touch_ite, touch_cond, implies_true, and_self]

theorem qpTransition_touch {qs : List Part} {sI : State} {s : State} {n target : Nat} {t : State} (he : qpTransition s n target = .inr t) (m_out : Part.out ∈ qs) (m_formes : Part.formes ∈ qs) (m_gddr : Part.gddr ∈ qs) (m_imp : Part.imp ∈ qs) (m_abut : Part.abut ∈ qs) (m_cores : Part.cores ∈ qs) (m_colo : Part.colo ∈ qs)  (ht : Touches qs sI s) :
    Touches qs sI t := by
  revert he
  unfold qpTransition
  (try dsimp only)
  (repeat' split) <;> intro he <;> (first | contradiction | (injection he with he; subst he; (first | simp (maxDischargeDepth := 40) only [ht, m_out, m_formes, m_gddr, m_imp, m_abut, m_cores, m_colo, modQp_touch, qpError_touch, resetQp_touch, Touches.refl, touch_foldl, touch_ite, touch_cond, implies_true, and_self])))

theorem qp0Transition_touch {qs : List Part} {sI : State} {s : State} {target : Nat} {t : State} (he : qp0Transition s target = .inr t) (m_out : Part.out ∈ qs) (m_formes : Part.formes ∈ qs) (m_gddr : Part.gddr ∈ qs) (m_imp : Part.imp ∈ qs) (m_abut : Part.abut ∈ qs) (m_cores : Part.cores ∈ qs) (m_colo : Part.colo ∈ qs)  (ht : Touches qs sI s) :
    Touches qs sI t := by
  revert he
  unfold qp0Transition
  (try dsimp only)
  (repeat' split) <;> intro he <;> (first | contradiction | (injection he with he; subst he; (first | simp (maxDischargeDepth := 40) only [ht, m_out, m_formes, m_gddr, m_imp, m_abut, m_cores, m_colo, modQp_touch, qpError_touch, resetQp_touch, Touches.refl, touch_foldl, touch_ite, touch_cond, implies_true, and_self])))

theorem qpCommand_touch {qs : List Part} {sI : State} {s : State} {n target : Nat} {t : State}
    (he : qpCommand s n target = .inr t) (m_out : Part.out ∈ qs) (m_formes : Part.formes ∈ qs) (m_gddr : Part.gddr ∈ qs) (m_imp : Part.imp ∈ qs) (m_abut : Part.abut ∈ qs) (m_cores : Part.cores ∈ qs) (m_colo : Part.colo ∈ qs) (ht : Touches qs sI s) : Touches qs sI t := by
  unfold qpCommand at he
  split at he
  · cases he
  · split at he
    · cases he
    · split at he
      · apply qp0Transition_touch he <;> assumption
      · apply qpTransition_touch he <;> assumption

theorem cqCommand_touch {qs : List Part} {sI : State} {s : State} {n target : Nat} {t : State} (he : cqCommand s n target = .inr t) (m_abut : Part.abut ∈ qs)  (ht : Touches qs sI s) :
    Touches qs sI t := by
  revert he
  unfold cqCommand
  (try dsimp only)
  (repeat' split) <;> intro he <;> (first | contradiction | (injection he with he; subst he; (first | simp (maxDischargeDepth := 40) only [ht, m_abut, modCq_touch, Touches.refl, touch_foldl, touch_ite, touch_cond, implies_true, and_self])))

theorem srqCommand_touch {qs : List Part} {sI : State} {s : State} {n target : Nat} {t : State} (he : srqCommand s n target = .inr t) (m_abut : Part.abut ∈ qs)  (ht : Touches qs sI s) :
    Touches qs sI t := by
  revert he
  unfold srqCommand
  (try dsimp only)
  (repeat' split) <;> intro he <;> (first | contradiction | (injection he with he; subst he; (first | simp (maxDischargeDepth := 40) only [ht, m_abut, modSrq_touch, Touches.refl, touch_foldl, touch_ite, touch_cond, implies_true, and_self])))

theorem objCommand_touch {qs : List Part} {sI : State} {s : State} {n obj target : Nat} {t : State} (he : objCommand s n obj target = .inr t) (m_out : Part.out ∈ qs) (m_formes : Part.formes ∈ qs) (m_gddr : Part.gddr ∈ qs) (m_imp : Part.imp ∈ qs) (m_abut : Part.abut ∈ qs) (m_cores : Part.cores ∈ qs) (m_colo : Part.colo ∈ qs)  (ht : Touches qs sI s) :
    Touches qs sI t := by
  revert he
  unfold objCommand
  (try dsimp only)
  (repeat' split) <;> intro he <;> (first | contradiction | (have hx := cqCommand_touch (sI := sI) he m_abut (by simp (maxDischargeDepth := 40) only [ht, m_out, m_formes, m_gddr, m_imp, m_abut, m_cores, m_colo, Touches.refl, touch_foldl, touch_ite, touch_cond, implies_true, and_self]); exact hx) | (have hx := qpCommand_touch (sI := sI) he m_out m_formes m_gddr m_imp m_abut m_cores m_colo (by simp (maxDischargeDepth := 40) only [ht, m_out, m_formes, m_gddr, m_imp, m_abut, m_cores, m_colo, Touches.refl, touch_foldl, touch_ite, touch_cond, implies_true, and_self]); exact hx) | (have hx := srqCommand_touch (sI := sI) he m_abut (by simp (maxDischargeDepth := 40) only [ht, m_out, m_formes, m_gddr, m_imp, m_abut, m_cores, m_colo, Touches.refl, touch_foldl, touch_ite, touch_cond, implies_true, and_self]); exact hx) | (injection he with he; subst he; (first | simp (maxDischargeDepth := 40) only [ht, m_out, m_formes, m_gddr, m_imp, m_abut, m_cores, m_colo, Touches.refl, touch_foldl, touch_ite, touch_cond, implies_true, and_self] | (have hx := cqCommand_touch (sI := sI) (by assumption) m_abut (by simp (maxDischargeDepth := 40) only [ht, m_out, m_formes, m_gddr, m_imp, m_abut, m_cores, m_colo, Touches.refl, touch_foldl, touch_ite, touch_cond, implies_true, and_self]); simp (maxDischargeDepth := 40) only [hx, ht, m_out, m_formes, m_gddr, m_imp, m_abut, m_cores, m_colo, Touches.refl, touch_foldl, touch_ite, touch_cond, implies_true, and_self]) | (have hx := qpCommand_touch (sI := sI) (by assumption) m_out m_formes m_gddr m_imp m_abut m_cores m_colo (by simp (maxDischargeDepth := 40) only [ht, m_out, m_formes, m_gddr, m_imp, m_abut, m_cores, m_colo, Touches.refl, touch_foldl, touch_ite, touch_cond, implies_true, and_self]); simp (maxDischargeDepth := 40) only [hx, ht, m_out, m_formes, m_gddr, m_imp, m_abut, m_cores, m_colo, Touches.refl, touch_foldl, touch_ite, touch_cond, implies_true, and_self]) | (have hx := srqCommand_touch (sI := sI) (by assumption) m_abut (by simp (maxDischargeDepth := 40) only [ht, m_out, m_formes, m_gddr, m_imp, m_abut, m_cores, m_colo, Touches.refl, touch_foldl, touch_ite, touch_cond, implies_true, and_self]); simp (maxDischargeDepth := 40) only [hx, ht, m_out, m_formes, m_gddr, m_imp, m_abut, m_cores, m_colo, Touches.refl, touch_foldl, touch_ite, touch_cond, implies_true, and_self]))))

theorem modCmd_touch {qs : List Part} {sI : State} (s : State) (g : ObjCmd → ObjCmd) (m_abut : Part.abut ∈ qs)  (ht : Touches qs sI s) :
    Touches qs sI (modCmd s g) := by
  unfold modCmd
  (try dsimp only)
  (repeat' split) <;> simp (maxDischargeDepth := 40) only [ht, m_abut, touch_abut, Touches.refl, touch_foldl, touch_ite, touch_cond, implies_true, and_self]

theorem writeObjCmd_touch {qs : List Part} {sI : State} (s : State) (v : Word) (m_out : Part.out ∈ qs) (m_formes : Part.formes ∈ qs) (m_gddr : Part.gddr ∈ qs) (m_imp : Part.imp ∈ qs) (m_span : Part.span ∈ qs) (m_abut : Part.abut ∈ qs) (m_cores : Part.cores ∈ qs) (m_colo : Part.colo ∈ qs)  (ht : Touches qs sI s) :
    Touches qs sI (writeObjCmd s v) := by
  unfold writeObjCmd
  (try dsimp only)
  (repeat' split) <;> (first | simp (maxDischargeDepth := 40) only [ht, m_out, m_formes, m_gddr, m_imp, m_span, m_abut, m_cores, m_colo, modCmd_touch, pumpCopies_touch, Touches.refl, touch_foldl, touch_ite, touch_cond, implies_true, and_self] | (have hx := objCommand_touch (sI := sI) (by assumption) m_out m_formes m_gddr m_imp m_abut m_cores m_colo (by simp (maxDischargeDepth := 40) only [ht, m_out, m_formes, m_gddr, m_imp, m_span, m_abut, m_cores, m_colo, modCmd_touch, pumpCopies_touch, Touches.refl, touch_foldl, touch_ite, touch_cond, implies_true, and_self]); simp (maxDischargeDepth := 40) only [hx, ht, m_out, m_formes, m_gddr, m_imp, m_span, m_abut, m_cores, m_colo, modCmd_touch, pumpCopies_touch, Touches.refl, touch_foldl, touch_ite, touch_cond, implies_true, and_self]))

theorem doorbellError_touch {qs : List Part} {sI : State} (s : State) (m_colo : Part.colo ∈ qs)  (ht : Touches qs sI s) :
    Touches qs sI (doorbellError s) := by
  unfold doorbellError
  (try dsimp only)
  (repeat' split) <;> simp (maxDischargeDepth := 40) only [ht, m_colo, bumpEnt_touch, Touches.refl, touch_foldl, touch_ite, touch_cond, implies_true, and_self]

theorem ringSq_touch {qs : List Part} {sI : State} (s : State) (n : Nat) (x : BitVec 24) (m_out : Part.out ∈ qs) (m_formes : Part.formes ∈ qs) (m_gddr : Part.gddr ∈ qs) (m_abut : Part.abut ∈ qs) (m_cores : Part.cores ∈ qs) (m_colo : Part.colo ∈ qs)  (ht : Touches qs sI s) :
    Touches qs sI (ringSq s n x) := by
  unfold ringSq
  (try dsimp only)
  (repeat' split) <;> simp (maxDischargeDepth := 40) only [ht, m_out, m_formes, m_gddr, m_abut, m_cores, m_colo, doorbellError_touch, flushSq_touch, modQp_touch, Touches.refl, touch_foldl, touch_ite, touch_cond, implies_true, and_self]

theorem ringRq_touch {qs : List Part} {sI : State} (s : State) (n : Nat) (x : BitVec 24) (m_out : Part.out ∈ qs) (m_formes : Part.formes ∈ qs) (m_gddr : Part.gddr ∈ qs) (m_abut : Part.abut ∈ qs) (m_cores : Part.cores ∈ qs) (m_colo : Part.colo ∈ qs)  (ht : Touches qs sI s) :
    Touches qs sI (ringRq s n x) := by
  unfold ringRq
  (try dsimp only)
  (repeat' split) <;> simp (maxDischargeDepth := 40) only [ht, m_out, m_formes, m_gddr, m_abut, m_cores, m_colo, doorbellError_touch, flushRq_touch, modQp_touch, Touches.refl, touch_foldl, touch_ite, touch_cond, implies_true, and_self]

theorem ringSrq_touch {qs : List Part} {sI : State} (s : State) (n : Nat) (x : BitVec 24) (m_abut : Part.abut ∈ qs) (m_colo : Part.colo ∈ qs)  (ht : Touches qs sI s) :
    Touches qs sI (ringSrq s n x) := by
  unfold ringSrq
  (try dsimp only)
  (repeat' split) <;> simp (maxDischargeDepth := 40) only [ht, m_abut, m_colo, doorbellError_touch, modSrq_touch, Touches.refl, touch_foldl, touch_ite, touch_cond, implies_true, and_self]

theorem ringCq_touch {qs : List Part} {sI : State} (s : State) (n : Nat) (x : BitVec 24) (arm : Bool) (m_out : Part.out ∈ qs) (m_formes : Part.formes ∈ qs) (m_gddr : Part.gddr ∈ qs) (m_span : Part.span ∈ qs) (m_abut : Part.abut ∈ qs) (m_cores : Part.cores ∈ qs) (m_colo : Part.colo ∈ qs)  (ht : Touches qs sI s) :
    Touches qs sI (ringCq s n x arm) := by
  unfold ringCq
  (try dsimp only)
  (repeat' split) <;> simp (maxDischargeDepth := 40) only [ht, m_out, m_formes, m_gddr, m_span, m_abut, m_cores, m_colo, doorbellError_touch, flushCq_touch, modCq_touch, pumpCopies_touch, Touches.refl, touch_foldl, touch_ite, touch_cond, implies_true, and_self]

theorem writeDoorbell_touch {qs : List Part} {sI : State} (s : State) (v : Word) (m_out : Part.out ∈ qs) (m_formes : Part.formes ∈ qs) (m_gddr : Part.gddr ∈ qs) (m_span : Part.span ∈ qs) (m_abut : Part.abut ∈ qs) (m_cores : Part.cores ∈ qs) (m_colo : Part.colo ∈ qs)  (ht : Touches qs sI s) :
    Touches qs sI (writeDoorbell s v) := by
  unfold writeDoorbell
  (try dsimp only)
  (repeat' split) <;> simp (maxDischargeDepth := 40) only [ht, m_out, m_formes, m_gddr, m_span, m_abut, m_cores, m_colo, ringCq_touch, ringRq_touch, ringSq_touch, ringSrq_touch, Touches.refl, touch_foldl, touch_ite, touch_cond, implies_true, and_self]

theorem beginAcc_touch {qs : List Part} {sI : State} (s : State) (f : FormeIx) (s1 : State) (m_formes : Part.formes ∈ qs)  (ht : Touches qs sI s1) :
    Touches qs sI (beginAcc s f s1) := by
  unfold beginAcc
  (try dsimp only)
  (repeat' split) <;> simp (maxDischargeDepth := 40) only [ht, m_formes, modForme_touch, Touches.refl, touch_foldl, touch_ite, touch_cond, implies_true, and_self]

theorem paccEffect_touch {qs : List Part} {sI : State} (s : State) (f : FormeIx) (m_out : Part.out ∈ qs) (m_formes : Part.formes ∈ qs) (m_gddr : Part.gddr ∈ qs) (m_imp : Part.imp ∈ qs) (m_fault : Part.fault ∈ qs) (m_colo : Part.colo ∈ qs) (m_flash : Part.flash ∈ qs)  (ht : Touches qs sI s) :
    Touches qs sI (paccEffect s f) := by
  unfold paccEffect
  (try dsimp only)
  (repeat' split) <;> simp (maxDischargeDepth := 40) only [ht, m_out, m_formes, m_gddr, m_imp, m_fault, m_colo, m_flash, beginAcc_touch, issueHead_touch, progError_touch, storedError_touch, Touches.refl, touch_foldl, touch_ite, touch_cond, implies_true, and_self]

theorem swapEffect_touch {qs : List Part} {sI : State} (s : State) (f : FormeIx) (p : Fin 4) (m_out : Part.out ∈ qs) (m_formes : Part.formes ∈ qs) (m_gddr : Part.gddr ∈ qs) (m_imp : Part.imp ∈ qs) (m_fault : Part.fault ∈ qs) (m_colo : Part.colo ∈ qs) (m_flash : Part.flash ∈ qs)  (ht : Touches qs sI s) :
    Touches qs sI (swapEffect s f p) := by
  unfold swapEffect
  (try dsimp only)
  (repeat' split) <;> simp (maxDischargeDepth := 40) only [ht, m_out, m_formes, m_gddr, m_imp, m_fault, m_colo, m_flash, modForme_touch, storedError_touch, Touches.refl, touch_foldl, touch_ite, touch_cond, implies_true, and_self]

theorem drainWrite_touch {qs : List Part} {sI : State} (f : FormeIx) (d : DWord) (x : Side) (ds : List Dst) (s : State) (m_free : Part.free ∈ qs) (m_out : Part.out ∈ qs) (m_formes : Part.formes ∈ qs) (m_tbl : Part.tbl ∈ qs) (m_proof : Part.proof ∈ qs) (m_cores : Part.cores ∈ qs) (m_colo : Part.colo ∈ qs)  (ht : Touches qs sI s) :
    Touches qs sI (drainWrite f d x ds s) := by
  unfold drainWrite
  (try dsimp only)
  (repeat' split) <;> simp (maxDischargeDepth := 40) only [ht, m_free, m_out, m_formes, m_tbl, m_proof, m_cores, m_colo, convertRegion_touch, galleyWrite_touch, modForme_touch, setFlush_touch, storeOut_touch, useFree_touch, Touches.refl, touch_foldl, touch_ite, touch_cond, implies_true, and_self]

theorem drainEffect_touch {qs : List Part} {sI : State} (s : State) (f : FormeIx) (m_free : Part.free ∈ qs) (m_out : Part.out ∈ qs) (m_formes : Part.formes ∈ qs) (m_gddr : Part.gddr ∈ qs) (m_tbl : Part.tbl ∈ qs) (m_proof : Part.proof ∈ qs) (m_imp : Part.imp ∈ qs) (m_cores : Part.cores ∈ qs) (m_fault : Part.fault ∈ qs) (m_colo : Part.colo ∈ qs) (m_flash : Part.flash ∈ qs)  (ht : Touches qs sI s) :
    Touches qs sI (drainEffect s f) := by
  unfold drainEffect
  (try dsimp only)
  (repeat' split) <;> simp (maxDischargeDepth := 40) only [ht, m_free, m_out, m_formes, m_gddr, m_tbl, m_proof, m_imp, m_cores, m_fault, m_colo, m_flash, drainWrite_touch, progError_touch, runHead_touch, Touches.refl, touch_foldl, touch_ite, touch_cond, implies_true, and_self]

theorem tssaveEffect_touch {qs : List Part} {sI : State} (f : FormeIx) (t : TWord) (s : State) (m_formes : Part.formes ∈ qs)  (ht : Touches qs sI s) :
    Touches qs sI (tssaveEffect f t s) := by
  unfold tssaveEffect
  (try dsimp only)
  (repeat' split) <;> simp (maxDischargeDepth := 40) only [ht, m_formes, galleyWrite_touch, Touches.refl, touch_foldl, touch_ite, touch_cond, implies_true, and_self]

theorem tsloadEffect_touch {qs : List Part} {sI : State} (f : FormeIx) (t : TWord) (s : State) (m_formes : Part.formes ∈ qs)  (ht : Touches qs sI s) :
    Touches qs sI (tsloadEffect f t s) := by
  unfold tsloadEffect
  (try dsimp only)
  (repeat' split) <;> simp (maxDischargeDepth := 40) only [ht, m_formes, modForme_touch, Touches.refl, touch_foldl, touch_ite, touch_cond, implies_true, and_self]

theorem refuseWaiting_touch {qs : List Part} {sI : State} (s : State) (x : Folio) (m_free : Part.free ∈ qs) (m_out : Part.out ∈ qs) (m_gddr : Part.gddr ∈ qs) (m_imp : Part.imp ∈ qs) (m_cores : Part.cores ∈ qs) (m_colo : Part.colo ∈ qs)  (ht : Touches qs sI s) :
    Touches qs sI (refuseWaiting s x) := by
  unfold refuseWaiting
  (try dsimp only)
  (repeat' split) <;> simp (maxDischargeDepth := 40) only [ht, m_free, m_out, m_gddr, m_imp, m_cores, m_colo, imposerEvent_touch, Touches.refl, touch_foldl, touch_ite, touch_cond, implies_true, and_self]

theorem dropFolio_touch {qs : List Part} {sI : State} (s : State) (x : Folio) (m_imp : Part.imp ∈ qs)  (ht : Touches qs sI s) :
    Touches qs sI (dropFolio s x) := by
  unfold dropFolio
  (try dsimp only)
  (repeat' split) <;> simp (maxDischargeDepth := 40) only [ht, m_imp, touch_imp, Touches.refl, touch_foldl, touch_ite, touch_cond, implies_true, and_self]

theorem endFolio_touch {qs : List Part} {sI : State} (s : State) (x : Folio) (k : EvKind) (reason : Nat) (m_free : Part.free ∈ qs) (m_out : Part.out ∈ qs) (m_formes : Part.formes ∈ qs) (m_gddr : Part.gddr ∈ qs) (m_imp : Part.imp ∈ qs) (m_cores : Part.cores ∈ qs) (m_colo : Part.colo ∈ qs)  (ht : Touches qs sI s) :
    Touches qs sI (endFolio s x k reason) := by
  unfold endFolio
  (try dsimp only)
  (repeat' split) <;> simp (maxDischargeDepth := 40) only [ht, m_free, m_out, m_formes, m_gddr, m_imp, m_cores, m_colo, dropFolio_touch, imposerEvent_touch, modForme_touch, refuseWaiting_touch, relist_touch, Touches.refl, touch_foldl, touch_ite, touch_cond, implies_true, and_self]

theorem freeRange_touch {qs : List Part} {sI : State} (s : State) (r : Nat × Nat) (m_free : Part.free ∈ qs) (m_formes : Part.formes ∈ qs) (m_gddr : Part.gddr ∈ qs) (m_tbl : Part.tbl ∈ qs)  (ht : Touches qs sI s) :
    Touches qs sI (freeRange s r) := by
  unfold freeRange
  (try dsimp only)
  (repeat' split) <;> simp (maxDischargeDepth := 40) only [ht, m_free, m_formes, m_gddr, m_tbl, localPutAll_touch, useFree_touch, Touches.refl, touch_foldl, touch_ite, touch_cond, implies_true, and_self]

theorem freeDests_touch {qs : List Part} {sI : State} (s : State) (f : FormeIx) (m_free : Part.free ∈ qs) (m_formes : Part.formes ∈ qs) (m_gddr : Part.gddr ∈ qs) (m_tbl : Part.tbl ∈ qs)  (ht : Touches qs sI s) :
    Touches qs sI (freeDests s f) := by
  unfold freeDests
  (try dsimp only)
  (repeat' split) <;> simp (maxDischargeDepth := 40) only [ht, m_free, m_formes, m_gddr, m_tbl, freeRange_touch, Touches.refl, touch_foldl, touch_ite, touch_cond, implies_true, and_self]

theorem abortEffect_touch {qs : List Part} {sI : State} (s : State) (h : BitVec 16) (m_free : Part.free ∈ qs) (m_out : Part.out ∈ qs) (m_formes : Part.formes ∈ qs) (m_gddr : Part.gddr ∈ qs) (m_tbl : Part.tbl ∈ qs) (m_imp : Part.imp ∈ qs) (m_cores : Part.cores ∈ qs) (m_colo : Part.colo ∈ qs)  (ht : Touches qs sI s) :
    Touches qs sI (abortEffect s h) := by
  unfold abortEffect
  (try dsimp only)
  (repeat' split) <;> simp (maxDischargeDepth := 40) only [ht, m_free, m_out, m_formes, m_gddr, m_tbl, m_imp, m_cores, m_colo, bumpEnt_touch, endFolio_touch, freeDests_touch, raise_touch, Touches.refl, touch_foldl, touch_ite, touch_cond, implies_true, and_self]

theorem consume_touch {qs : List Part} {sI : State} (s : State) (m_imp : Part.imp ∈ qs)  (ht : Touches qs sI s) :
    Touches qs sI (consume s) := by
  unfold consume
  (try dsimp only)
  (repeat' split) <;> simp (maxDischargeDepth := 40) only [ht, m_imp, touch_imp, Touches.refl, touch_foldl, touch_ite, touch_cond, implies_true, and_self]

theorem refuse_touch {qs : List Part} {sI : State} (s : State) (h : BitVec 16) (reason : Nat) (fid : BitVec 32) (m_free : Part.free ∈ qs) (m_out : Part.out ∈ qs) (m_gddr : Part.gddr ∈ qs) (m_imp : Part.imp ∈ qs) (m_cores : Part.cores ∈ qs) (m_colo : Part.colo ∈ qs)  (ht : Touches qs sI s) :
    Touches qs sI (refuse s h reason fid) := by
  unfold refuse
  (try dsimp only)
  (repeat' split) <;> simp (maxDischargeDepth := 40) only [ht, m_free, m_out, m_gddr, m_imp, m_cores, m_colo, imposerEvent_touch, Touches.refl, touch_foldl, touch_ite, touch_cond, implies_true, and_self]

theorem refuseUnreadable_touch {qs : List Part} {sI : State} (s : State) (h : BitVec 16) (addr : Nat) (fid : BitVec 32) (m_free : Part.free ∈ qs) (m_out : Part.out ∈ qs) (m_formes : Part.formes ∈ qs) (m_gddr : Part.gddr ∈ qs) (m_imp : Part.imp ∈ qs) (m_cores : Part.cores ∈ qs) (m_fault : Part.fault ∈ qs) (m_colo : Part.colo ∈ qs) (m_flash : Part.flash ∈ qs)  (ht : Touches qs sI s) :
    Touches qs sI (refuseUnreadable s h addr fid) := by
  unfold refuseUnreadable
  (try dsimp only)
  (repeat' split) <;> simp (maxDischargeDepth := 40) only [ht, m_free, m_out, m_formes, m_gddr, m_imp, m_cores, m_fault, m_colo, m_flash, gddrError_touch, refuse_touch, Touches.refl, touch_foldl, touch_ite, touch_cond, implies_true, and_self]

theorem submit_touch {qs : List Part} {sI : State} (s : State) (w : Nat) (resume : Bool) (m_free : Part.free ∈ qs) (m_out : Part.out ∈ qs) (m_formes : Part.formes ∈ qs) (m_gddr : Part.gddr ∈ qs) (m_imp : Part.imp ∈ qs) (m_cores : Part.cores ∈ qs) (m_fault : Part.fault ∈ qs) (m_colo : Part.colo ∈ qs) (m_flash : Part.flash ∈ qs)  (ht : Touches qs sI s) :
    Touches qs sI (submit s w resume) := by
  unfold submit
  (try dsimp only)
  (repeat' split) <;> simp (maxDischargeDepth := 40) only [ht, m_free, m_out, m_formes, m_gddr, m_imp, m_cores, m_fault, m_colo, m_flash, bumpEnt_touch, refuse_touch, refuseUnreadable_touch, touch_imp, Touches.refl, touch_foldl, touch_ite, touch_cond, implies_true, and_self]

theorem submitCmd_touch {qs : List Part} {sI : State} (s : State) (w : Nat) (resume : Bool) (m_free : Part.free ∈ qs) (m_out : Part.out ∈ qs) (m_formes : Part.formes ∈ qs) (m_gddr : Part.gddr ∈ qs) (m_imp : Part.imp ∈ qs) (m_cores : Part.cores ∈ qs) (m_fault : Part.fault ∈ qs) (m_colo : Part.colo ∈ qs) (m_flash : Part.flash ∈ qs)  (ht : Touches qs sI s) :
    Touches qs sI (submitCmd s w resume) := by
  unfold submitCmd
  (try dsimp only)
  (repeat' split) <;> simp (maxDischargeDepth := 40) only [ht, m_free, m_out, m_formes, m_gddr, m_imp, m_cores, m_fault, m_colo, m_flash, refuse_touch, submit_touch, Touches.refl, touch_foldl, touch_ite, touch_cond, implies_true, and_self]

theorem startEffect_touch {qs : List Part} {sI : State} (s : State) (m_free : Part.free ∈ qs) (m_out : Part.out ∈ qs) (m_formes : Part.formes ∈ qs) (m_gddr : Part.gddr ∈ qs) (m_imp : Part.imp ∈ qs) (m_cores : Part.cores ∈ qs) (m_fault : Part.fault ∈ qs) (m_colo : Part.colo ∈ qs) (m_flash : Part.flash ∈ qs)  (ht : Touches qs sI s) :
    Touches qs sI (startEffect s) := by
  unfold startEffect
  (try dsimp only)
  (repeat' split) <;> simp (maxDischargeDepth := 40) only [ht, m_free, m_out, m_formes, m_gddr, m_imp, m_cores, m_fault, m_colo, m_flash, consume_touch, refuse_touch, refuseUnreadable_touch, submitCmd_touch, Touches.refl, touch_foldl, touch_ite, touch_cond, implies_true, and_self]

theorem onFolio_touch {qs : List Part} {sI : State} (s : State) (w : Nat) (g : State → Folio → State) (m_free : Part.free ∈ qs) (m_out : Part.out ∈ qs) (m_gddr : Part.gddr ∈ qs) (m_imp : Part.imp ∈ qs) (m_cores : Part.cores ∈ qs) (m_colo : Part.colo ∈ qs)
    (hg : ∀ t y, Touches qs t (g t y)) (ht : Touches qs sI s) : Touches qs sI (onFolio s w g) := by
  unfold onFolio
  (repeat' split) <;> first
    | simp (maxDischargeDepth := 40) only [refuse_touch, *]
    | exact ht.trans (hg _ _)

theorem setFolioFormes_touch {qs : List Part} {sI : State} (s : State) (x : Folio) (st : FState) (m_formes : Part.formes ∈ qs)  (ht : Touches qs sI s) :
    Touches qs sI (setFolioFormes s x st) := by
  unfold setFolioFormes
  (try dsimp only)
  (repeat' split) <;> simp (maxDischargeDepth := 40) only [ht, m_formes, modForme_touch, Touches.refl, touch_foldl, touch_ite, touch_cond, implies_true, and_self]

theorem requestPause_touch {qs : List Part} {sI : State} (s : State) (x : Folio) (save : Bool) (base : BitVec 40) (m_free : Part.free ∈ qs) (m_out : Part.out ∈ qs) (m_formes : Part.formes ∈ qs) (m_gddr : Part.gddr ∈ qs) (m_imp : Part.imp ∈ qs) (m_cores : Part.cores ∈ qs) (m_colo : Part.colo ∈ qs)  (ht : Touches qs sI s) :
    Touches qs sI (requestPause s x save base) := by
  unfold requestPause
  (try dsimp only)
  (repeat' split) <;> simp (maxDischargeDepth := 40) only [ht, m_free, m_out, m_formes, m_gddr, m_imp, m_cores, m_colo, modFolio_touch, refuse_touch, setFolioFormes_touch, Touches.refl, touch_foldl, touch_ite, touch_cond, implies_true, and_self]

theorem writeImages_touch {qs : List Part} {sI : State} {s : State} {x : Folio} {idle : Bool} {t : State} (he : writeImages s x idle = .inl t ∨ writeImages s x idle = .inr t) (m_out : Part.out ∈ qs) (m_formes : Part.formes ∈ qs) (m_gddr : Part.gddr ∈ qs) (m_imp : Part.imp ∈ qs) (m_fault : Part.fault ∈ qs) (m_colo : Part.colo ∈ qs) (m_flash : Part.flash ∈ qs)  (ht : Touches qs sI s) :
    Touches qs sI t := by
  revert he
  unfold writeImages
  (try dsimp only)
  (repeat' split) <;> intro he <;> (rcases he with he | he) <;> (first | contradiction | (injection he with he; subst he; (first | simp (maxDischargeDepth := 40) only [ht, m_out, m_formes, m_gddr, m_imp, m_fault, m_colo, m_flash, storedError_touch, touch_gddr, Touches.refl, touch_foldl, touch_ite, touch_cond, implies_true, and_self])))

theorem pausedEffect_touch {qs : List Part} {sI : State} (s : State) (h : BitVec 16) (m_free : Part.free ∈ qs) (m_out : Part.out ∈ qs) (m_formes : Part.formes ∈ qs) (m_gddr : Part.gddr ∈ qs) (m_imp : Part.imp ∈ qs) (m_cores : Part.cores ∈ qs) (m_colo : Part.colo ∈ qs)  (ht : Touches qs sI s) :
    Touches qs sI (pausedEffect s h) := by
  unfold pausedEffect
  (try dsimp only)
  (repeat' split) <;> simp (maxDischargeDepth := 40) only [ht, m_free, m_out, m_formes, m_gddr, m_imp, m_cores, m_colo, imposerEvent_touch, modFolio_touch, setFolioFormes_touch, Touches.refl, touch_foldl, touch_ite, touch_cond, implies_true, and_self]

theorem saveEffect_touch {qs : List Part} {sI : State} (s : State) (h : BitVec 16) (m_free : Part.free ∈ qs) (m_out : Part.out ∈ qs) (m_formes : Part.formes ∈ qs) (m_gddr : Part.gddr ∈ qs) (m_imp : Part.imp ∈ qs) (m_cores : Part.cores ∈ qs) (m_fault : Part.fault ∈ qs) (m_colo : Part.colo ∈ qs) (m_flash : Part.flash ∈ qs)  (ht : Touches qs sI s) :
    Touches qs sI (saveEffect s h) := by
  unfold saveEffect
  (try dsimp only)
  (repeat' split) <;> (first | simp (maxDischargeDepth := 40) only [ht, m_free, m_out, m_formes, m_gddr, m_imp, m_cores, m_fault, m_colo, m_flash, endFolio_touch, modFolio_touch, Touches.refl, touch_foldl, touch_ite, touch_cond, implies_true, and_self] | (have hx := writeImages_touch (sI := sI) (.inl (by assumption)) m_out m_formes m_gddr m_imp m_fault m_colo m_flash (by simp (maxDischargeDepth := 40) only [ht, m_free, m_out, m_formes, m_gddr, m_imp, m_cores, m_fault, m_colo, m_flash, endFolio_touch, modFolio_touch, Touches.refl, touch_foldl, touch_ite, touch_cond, implies_true, and_self]); simp (maxDischargeDepth := 40) only [hx, ht, m_free, m_out, m_formes, m_gddr, m_imp, m_cores, m_fault, m_colo, m_flash, endFolio_touch, modFolio_touch, Touches.refl, touch_foldl, touch_ite, touch_cond, implies_true, and_self]) | (have hx := writeImages_touch (sI := sI) (.inr (by assumption)) m_out m_formes m_gddr m_imp m_fault m_colo m_flash (by simp (maxDischargeDepth := 40) only [ht, m_free, m_out, m_formes, m_gddr, m_imp, m_cores, m_fault, m_colo, m_flash, endFolio_touch, modFolio_touch, Touches.refl, touch_foldl, touch_ite, touch_cond, implies_true, and_self]); simp (maxDischargeDepth := 40) only [hx, ht, m_free, m_out, m_formes, m_gddr, m_imp, m_cores, m_fault, m_colo, m_flash, endFolio_touch, modFolio_touch, Touches.refl, touch_foldl, touch_ite, touch_cond, implies_true, and_self]))

theorem folioDoneEffect_touch {qs : List Part} {sI : State} (s : State) (h : BitVec 16) (m_free : Part.free ∈ qs) (m_out : Part.out ∈ qs) (m_formes : Part.formes ∈ qs) (m_gddr : Part.gddr ∈ qs) (m_imp : Part.imp ∈ qs) (m_cores : Part.cores ∈ qs) (m_fault : Part.fault ∈ qs) (m_colo : Part.colo ∈ qs) (m_flash : Part.flash ∈ qs)  (ht : Touches qs sI s) :
    Touches qs sI (folioDoneEffect s h) := by
  unfold folioDoneEffect
  (try dsimp only)
  (repeat' split) <;> (first | simp (maxDischargeDepth := 40) only [ht, m_free, m_out, m_formes, m_gddr, m_imp, m_cores, m_fault, m_colo, m_flash, endFolio_touch, Touches.refl, touch_foldl, touch_ite, touch_cond, implies_true, and_self] | (have hx := writeImages_touch (sI := sI) (.inl (by assumption)) m_out m_formes m_gddr m_imp m_fault m_colo m_flash (by simp (maxDischargeDepth := 40) only [ht, m_free, m_out, m_formes, m_gddr, m_imp, m_cores, m_fault, m_colo, m_flash, endFolio_touch, Touches.refl, touch_foldl, touch_ite, touch_cond, implies_true, and_self]); simp (maxDischargeDepth := 40) only [hx, ht, m_free, m_out, m_formes, m_gddr, m_imp, m_cores, m_fault, m_colo, m_flash, endFolio_touch, Touches.refl, touch_foldl, touch_ite, touch_cond, implies_true, and_self]) | (have hx := writeImages_touch (sI := sI) (.inr (by assumption)) m_out m_formes m_gddr m_imp m_fault m_colo m_flash (by simp (maxDischargeDepth := 40) only [ht, m_free, m_out, m_formes, m_gddr, m_imp, m_cores, m_fault, m_colo, m_flash, endFolio_touch, Touches.refl, touch_foldl, touch_ite, touch_cond, implies_true, and_self]); simp (maxDischargeDepth := 40) only [hx, ht, m_free, m_out, m_formes, m_gddr, m_imp, m_cores, m_fault, m_colo, m_flash, endFolio_touch, Touches.refl, touch_foldl, touch_ite, touch_cond, implies_true, and_self]))

theorem reloadSlot_touch {qs : List Part} {sI : State} (f : FormeIx) (k : Nat) (s : State) (p : Fin 8 × FountSlot) (m_formes : Part.formes ∈ qs)  (ht : Touches qs sI s) :
    Touches qs sI (reloadSlot f k s p) := by
  unfold reloadSlot
  (try dsimp only)
  (repeat' split) <;> simp (maxDischargeDepth := 40) only [ht, m_formes, modForme_touch, Touches.refl, touch_foldl, touch_ite, touch_cond, implies_true, and_self]

theorem restoreForme_touch {qs : List Part} {sI : State} (x : Folio) (s : State) (p : FormeIx × Nat) (m_formes : Part.formes ∈ qs)  (ht : Touches qs sI s) :
    Touches qs sI (restoreForme x s p) := by
  unfold restoreForme
  (try dsimp only)
  (repeat' split) <;> simp (maxDischargeDepth := 40) only [ht, m_formes, modForme_touch, reloadSlot_touch, Touches.refl, touch_foldl, touch_ite, touch_cond, implies_true, and_self]

theorem retireBank_touch {qs : List Part} {sI : State} (s : State) (f : FormeIx) (m_free : Part.free ∈ qs) (m_formes : Part.formes ∈ qs)  (ht : Touches qs sI s) :
    Touches qs sI (retireBank s f) := by
  unfold retireBank
  (try dsimp only)
  (repeat' split) <;> simp (maxDischargeDepth := 40) only [ht, m_free, m_formes, modForme_touch, useFree_touch, Touches.refl, touch_foldl, touch_ite, touch_cond, implies_true, and_self]

theorem startFolio_touch {qs : List Part} {sI : State} (s : State) (x : Folio) (op : Nat) (m_free : Part.free ∈ qs) (m_out : Part.out ∈ qs) (m_formes : Part.formes ∈ qs) (m_gddr : Part.gddr ∈ qs) (m_imp : Part.imp ∈ qs) (m_cores : Part.cores ∈ qs) (m_fault : Part.fault ∈ qs) (m_colo : Part.colo ∈ qs) (m_flash : Part.flash ∈ qs)  (ht : Touches qs sI s) :
    Touches qs sI (startFolio s x op) := by
  unfold startFolio
  (try dsimp only)
  (repeat' split) <;> simp (maxDischargeDepth := 40) only [ht, m_free, m_out, m_formes, m_gddr, m_imp, m_cores, m_fault, m_colo, m_flash, bumpEnt_touch, dropFolio_touch, imposerEvent_touch, modFolio_touch, modForme_touch, refuse_touch, refuseUnreadable_touch, relist_touch, restoreForme_touch, retireBank_touch, useFree_touch, Touches.refl, touch_foldl, touch_ite, touch_cond, implies_true, and_self]

theorem tryStart_touch {qs : List Part} {sI : State} (s : State) (x : Folio) (op : Nat) (m_free : Part.free ∈ qs) (m_out : Part.out ∈ qs) (m_formes : Part.formes ∈ qs) (m_gddr : Part.gddr ∈ qs) (m_imp : Part.imp ∈ qs) (m_cores : Part.cores ∈ qs) (m_fault : Part.fault ∈ qs) (m_colo : Part.colo ∈ qs) (m_flash : Part.flash ∈ qs)  (ht : Touches qs sI s) :
    Touches qs sI (tryStart s x op) := by
  unfold tryStart
  (try dsimp only)
  (repeat' split) <;> simp (maxDischargeDepth := 40) only [ht, m_free, m_out, m_formes, m_gddr, m_imp, m_cores, m_fault, m_colo, m_flash, startFolio_touch, Touches.refl, touch_foldl, touch_ite, touch_cond, implies_true, and_self]

theorem startCadence_touch {qs : List Part} {sI : State} (s : State) (xs : List Folio) (m_free : Part.free ∈ qs) (m_out : Part.out ∈ qs) (m_formes : Part.formes ∈ qs) (m_gddr : Part.gddr ∈ qs) (m_imp : Part.imp ∈ qs) (m_cores : Part.cores ∈ qs) (m_fault : Part.fault ∈ qs) (m_colo : Part.colo ∈ qs) (m_flash : Part.flash ∈ qs) (ht : Touches qs sI s) :
    Touches qs sI (startCadence s xs) := by
  unfold startCadence
  refine touch_foldl ?_ ht
  intro t x
  split <;> simp (maxDischargeDepth := 40) only [tryStart_touch, Touches.refl, *]

theorem scanWindow_touch {qs : List Part} {sI : State} (a b : List Folio) (s : State) (m_free : Part.free ∈ qs) (m_out : Part.out ∈ qs) (m_formes : Part.formes ∈ qs) (m_gddr : Part.gddr ∈ qs) (m_imp : Part.imp ∈ qs) (m_cores : Part.cores ∈ qs) (m_fault : Part.fault ∈ qs) (m_colo : Part.colo ∈ qs) (m_flash : Part.flash ∈ qs) (ht : Touches qs sI s) :
    Touches qs sI (scanWindow a b s).1 := by
  induction b generalizing a s with
  | nil => exact ht
  | cons x t ih =>
    unfold scanWindow
    dsimp only
    split
    · apply ih
      refine touch_foldl ?_ (by simp (maxDischargeDepth := 40) only [tryStart_touch, *])
      intro u y
      split <;> simp (maxDischargeDepth := 40) only [modFolio_touch, Touches.refl, *]
    · split <;> split <;> first | exact ht | exact ih _ _ ht

theorem choose_touch {qs : List Part} {sI : State} (s : State) (m_free : Part.free ∈ qs) (m_out : Part.out ∈ qs) (m_formes : Part.formes ∈ qs) (m_gddr : Part.gddr ∈ qs) (m_imp : Part.imp ∈ qs) (m_cores : Part.cores ∈ qs) (m_fault : Part.fault ∈ qs) (m_colo : Part.colo ∈ qs) (m_flash : Part.flash ∈ qs)  (ht : Touches qs sI s) :
    Touches qs sI (choose s) := by
  unfold choose
  (try dsimp only)
  (repeat' split) <;> simp (maxDischargeDepth := 40) only [ht, m_free, m_out, m_formes, m_gddr, m_imp, m_cores, m_fault, m_colo, m_flash, scanWindow_touch, startCadence_touch, tryStart_touch, Touches.refl, touch_foldl, touch_ite, touch_cond, implies_true, and_self]

theorem writeCmdRing_touch {qs : List Part} {sI : State} (s : State) (v : Word) (m_imp : Part.imp ∈ qs)  (ht : Touches qs sI s) :
    Touches qs sI (writeCmdRing s v) := by
  unfold writeCmdRing
  (try dsimp only)
  (repeat' split) <;> simp (maxDischargeDepth := 40) only [ht, m_imp, touch_imp, Touches.refl, touch_foldl, touch_ite, touch_cond, implies_true, and_self]

theorem writeEvtRing_touch {qs : List Part} {sI : State} (s : State) (v : Word) (m_out : Part.out ∈ qs) (m_gddr : Part.gddr ∈ qs) (m_imp : Part.imp ∈ qs) (m_cores : Part.cores ∈ qs) (m_colo : Part.colo ∈ qs)  (ht : Touches qs sI s) :
    Touches qs sI (writeEvtRing s v) := by
  unfold writeEvtRing
  (try dsimp only)
  (repeat' split) <;> simp (maxDischargeDepth := 40) only [ht, m_out, m_gddr, m_imp, m_cores, m_colo, flushEvents_touch, touch_imp, Touches.refl, touch_foldl, touch_ite, touch_cond, implies_true, and_self]

theorem cmdBell_touch {qs : List Part} {sI : State} (s : State) (v : Word) (m_imp : Part.imp ∈ qs)  (ht : Touches qs sI s) :
    Touches qs sI (cmdBell s v) := by
  unfold cmdBell
  (try dsimp only)
  (repeat' split) <;> simp (maxDischargeDepth := 40) only [ht, m_imp, touch_imp, Touches.refl, touch_foldl, touch_ite, touch_cond, implies_true, and_self]

theorem evtBell_touch {qs : List Part} {sI : State} (s : State) (v : Word) (m_out : Part.out ∈ qs) (m_gddr : Part.gddr ∈ qs) (m_imp : Part.imp ∈ qs) (m_cores : Part.cores ∈ qs) (m_colo : Part.colo ∈ qs)  (ht : Touches qs sI s) :
    Touches qs sI (evtBell s v) := by
  unfold evtBell
  (try dsimp only)
  (repeat' split) <;> simp (maxDischargeDepth := 40) only [ht, m_out, m_gddr, m_imp, m_cores, m_colo, flushEvents_touch, touch_imp, Touches.refl, touch_foldl, touch_ite, touch_cond, implies_true, and_self]

theorem moveOp_touch {qs : List Part} {sI : State} (s : State) (h : BitVec 16) (op : Nat) (m_imp : Part.imp ∈ qs) (m_colo : Part.colo ∈ qs)  (ht : Touches qs sI s) :
    Touches qs sI (moveOp s h op) := by
  unfold moveOp
  (try dsimp only)
  (repeat' split) <;> simp (maxDischargeDepth := 40) only [ht, m_imp, m_colo, bumpEnt_touch, modFolio_touch, Touches.refl, touch_foldl, touch_ite, touch_cond, implies_true, and_self]

theorem lowerOne_touch {qs : List Part} {sI : State} (s : State) (m_imp : Part.imp ∈ qs) (m_colo : Part.colo ∈ qs)  (ht : Touches qs sI s) :
    Touches qs sI (lowerOne s) := by
  unfold lowerOne
  (try dsimp only)
  (repeat' split) <;> simp (maxDischargeDepth := 40) only [ht, m_imp, m_colo, moveOp_touch, touch_imp, Touches.refl, touch_foldl, touch_ite, touch_cond, implies_true, and_self]

theorem raiseOne_touch {qs : List Part} {sI : State} (s : State) (m_imp : Part.imp ∈ qs) (m_colo : Part.colo ∈ qs)  (ht : Touches qs sI s) :
    Touches qs sI (raiseOne s) := by
  unfold raiseOne
  (try dsimp only)
  (repeat' split) <;> simp (maxDischargeDepth := 40) only [ht, m_imp, m_colo, moveOp_touch, touch_imp, Touches.refl, touch_foldl, touch_ite, touch_cond, implies_true, and_self]

theorem controlEffect_touch {qs : List Part} {sI : State} (s : State) (watts : Nat) (m_imp : Part.imp ∈ qs) (m_colo : Part.colo ∈ qs)  (ht : Touches qs sI s) :
    Touches qs sI (controlEffect s watts) := by
  unfold controlEffect
  (try dsimp only)
  (repeat' split) <;> simp (maxDischargeDepth := 40) only [ht, m_imp, m_colo, lowerOne_touch, raiseOne_touch, touch_imp, Touches.refl, touch_foldl, touch_ite, touch_cond, implies_true, and_self]

theorem capOps_touch {qs : List Part} {sI : State} (s : State) (op : Nat) (m_imp : Part.imp ∈ qs)  (ht : Touches qs sI s) :
    Touches qs sI (capOps s op) := by
  unfold capOps
  (try dsimp only)
  (repeat' split) <;> simp (maxDischargeDepth := 40) only [ht, m_imp, touch_imp, Touches.refl, touch_foldl, touch_ite, touch_cond, implies_true, and_self]

theorem limitEffect_touch {qs : List Part} {sI : State} (s : State) (m_imp : Part.imp ∈ qs) (m_colo : Part.colo ∈ qs)  (ht : Touches qs sI s) :
    Touches qs sI (limitEffect s) := by
  unfold limitEffect
  (try dsimp only)
  (repeat' split) <;> simp (maxDischargeDepth := 40) only [ht, m_imp, m_colo, bumpEnt_touch, capOps_touch, touch_imp, Touches.refl, touch_foldl, touch_ite, touch_cond, implies_true, and_self]

theorem thermalEffect_touch {qs : List Part} {sI : State} (s : State) (dieMc memMc : Int) (m_imp : Part.imp ∈ qs)  (ht : Touches qs sI s) :
    Touches qs sI (thermalEffect s dieMc memMc) := by
  unfold thermalEffect
  (try dsimp only)
  (repeat' split) <;> simp (maxDischargeDepth := 40) only [ht, m_imp, capOps_touch, touch_imp, Touches.refl, touch_foldl, touch_ite, touch_cond, implies_true, and_self]

theorem svcStart_touch {qs : List Part} {sI : State} (s : State) (i : Fin 64) (m_svc : Part.svc ∈ qs)  (ht : Touches qs sI s) :
    Touches qs sI (svcStart s i) := by
  unfold svcStart
  (try dsimp only)
  (repeat' split) <;> simp (maxDischargeDepth := 40) only [ht, m_svc, modSvc_touch, Touches.refl, touch_foldl, touch_ite, touch_cond, implies_true, and_self]

theorem svcStop_touch {qs : List Part} {sI : State} (s : State) (i : Fin 64) (m_svc : Part.svc ∈ qs)  (ht : Touches qs sI s) :
    Touches qs sI (svcStop s i) := by
  unfold svcStop
  (try dsimp only)
  (repeat' split) <;> simp (maxDischargeDepth := 40) only [ht, m_svc, modSvc_touch, Touches.refl, touch_foldl, touch_ite, touch_cond, implies_true, and_self]

theorem svcLoadEffect_touch {qs : List Part} {sI : State} (s : State) (i : Fin 64) (r : LoadReport) (m_svc : Part.svc ∈ qs) (m_colo : Part.colo ∈ qs)  (ht : Touches qs sI s) :
    Touches qs sI (svcLoadEffect s i r) := by
  unfold svcLoadEffect
  (try dsimp only)
  (repeat' split) <;> simp (maxDischargeDepth := 40) only [ht, m_svc, m_colo, modSvc_touch, setEnt_touch, Touches.refl, touch_foldl, touch_ite, touch_cond, implies_true, and_self]

theorem instanceMark_touch {qs : List Part} {sI : State} (s : State) (k : Nat) (repeating : Bool) (sts : List Stream) (m_out : Part.out ∈ qs) (m_gddr : Part.gddr ∈ qs) (m_log : Part.log ∈ qs)  (ht : Touches qs sI s) :
    Touches qs sI (instanceMark s k repeating sts) := by
  unfold instanceMark
  (try dsimp only)
  (repeat' split) <;> simp (maxDischargeDepth := 40) only [ht, m_out, m_gddr, m_log, runtimeMark_touch, Touches.refl, touch_foldl, touch_ite, touch_cond, implies_true, and_self]

theorem skipReplies_touch {qs : List Part} {sI : State} (s : State) (i : Fin 64) (sts : List Stream) (m_free : Part.free ∈ qs) (m_out : Part.out ∈ qs) (m_colo : Part.colo ∈ qs) (ht : Touches qs sI s) :
    Touches qs sI (skipReplies s i sts) := by
  unfold skipReplies
  refine touch_foldl ?_ ht
  intro t x
  split <;> simp (maxDischargeDepth := 40) only [sendReply_touch, Touches.refl, *]

theorem dropWaiting_touch {qs : List Part} {sI : State} (s : State) (i : Fin 64) (m_free : Part.free ∈ qs) (m_out : Part.out ∈ qs) (m_svc : Part.svc ∈ qs) (m_colo : Part.colo ∈ qs)  (ht : Touches qs sI s) :
    Touches qs sI (dropWaiting s i) := by
  unfold dropWaiting
  (try dsimp only)
  (repeat' split) <;> simp (maxDischargeDepth := 40) only [ht, m_free, m_out, m_svc, m_colo, answerAll_touch, bumpSvc_touch, modSvc_touch, Touches.refl, touch_foldl, touch_ite, touch_cond, implies_true, and_self]

theorem waitInstance_touch {qs : List Part} {sI : State} (s : State) (i : Fin 64) (n : Instance) (m_free : Part.free ∈ qs) (m_out : Part.out ∈ qs) (m_svc : Part.svc ∈ qs) (m_colo : Part.colo ∈ qs)  (ht : Touches qs sI s) :
    Touches qs sI (waitInstance s i n) := by
  unfold waitInstance
  (try dsimp only)
  (repeat' split) <;> simp (maxDischargeDepth := 40) only [ht, m_free, m_out, m_svc, m_colo, bumpSvc_touch, dropWaiting_touch, modSvc_touch, Touches.refl, touch_foldl, touch_ite, touch_cond, implies_true, and_self]

theorem startInstance_touch {qs : List Part} {sI : State} (s : State) (i : Fin 64) (m_free : Part.free ∈ qs) (m_out : Part.out ∈ qs) (m_gddr : Part.gddr ∈ qs) (m_log : Part.log ∈ qs) (m_svc : Part.svc ∈ qs) (m_colo : Part.colo ∈ qs)  (ht : Touches qs sI s) :
    Touches qs sI (startInstance s i) := by
  unfold startInstance
  (try dsimp only)
  (repeat' split) <;> simp (maxDischargeDepth := 40) only [ht, m_free, m_out, m_gddr, m_log, m_svc, m_colo, instanceMark_touch, modSvc_touch, skipReplies_touch, waitInstance_touch, Touches.refl, touch_foldl, touch_ite, touch_cond, implies_true, and_self]

theorem endInstance_touch {qs : List Part} {sI : State} (s : State) (i : Fin 64) (m_svc : Part.svc ∈ qs)  (ht : Touches qs sI s) :
    Touches qs sI (endInstance s i) := by
  unfold endInstance
  (try dsimp only)
  (repeat' split) <;> simp (maxDischargeDepth := 40) only [ht, m_svc, modSvc_touch, Touches.refl, touch_foldl, touch_ite, touch_cond, implies_true, and_self]

theorem resultFor_touch {qs : List Part} {sI : State} (s : State) (i : Fin 64) (r : Req) (body : List Byte) (m_free : Part.free ∈ qs) (m_out : Part.out ∈ qs) (m_svc : Part.svc ∈ qs) (m_colo : Part.colo ∈ qs)  (ht : Touches qs sI s) :
    Touches qs sI (resultFor s i r body) := by
  unfold resultFor
  (try dsimp only)
  (repeat' split) <;> simp (maxDischargeDepth := 40) only [ht, m_free, m_out, m_svc, m_colo, answerReq_touch, mirrorReady_touch, Touches.refl, touch_foldl, touch_ite, touch_cond, implies_true, and_self]

theorem resultForPartner_touch {qs : List Part} {sI : State} (s : State) (i : Fin 64) (reqId : Word) (body : List Byte) (m_out : Part.out ∈ qs) (m_svc : Part.svc ∈ qs)  (ht : Touches qs sI s) :
    Touches qs sI (resultForPartner s i reqId body) := by
  unfold resultForPartner
  (try dsimp only)
  (repeat' split) <;> simp (maxDischargeDepth := 40) only [ht, m_out, m_svc, emit_touch, modSvc_touch, Touches.refl, touch_foldl, touch_ite, touch_cond, implies_true, and_self]

theorem replyIn_touch {qs : List Part} {sI : State} (s : State) (r : Reply) (m_free : Part.free ∈ qs) (m_out : Part.out ∈ qs) (m_svc : Part.svc ∈ qs) (m_colo : Part.colo ∈ qs)  (ht : Touches qs sI s) :
    Touches qs sI (replyIn s r) := by
  unfold replyIn
  (try dsimp only)
  (repeat' split) <;> simp (maxDischargeDepth := 40) only [ht, m_free, m_out, m_svc, m_colo, endInstance_touch, modSvc_touch, resultFor_touch, resultForPartner_touch, Touches.refl, touch_foldl, touch_ite, touch_cond, implies_true, and_self]

theorem valuesIn_touch {qs : List Part} {sI : State} (s : State) (i : Fin 64) (reqId : Word) (crc len : BitVec 32) (m_free : Part.free ∈ qs) (m_out : Part.out ∈ qs) (m_svc : Part.svc ∈ qs) (m_colo : Part.colo ∈ qs)  (ht : Touches qs sI s) :
    Touches qs sI (valuesIn s i reqId crc len) := by
  unfold valuesIn
  (try dsimp only)
  (repeat' split) <;> simp (maxDischargeDepth := 40) only [ht, m_free, m_out, m_svc, m_colo, compareValues_touch, modSvc_touch, Touches.refl, touch_foldl, touch_ite, touch_cond, implies_true, and_self]

theorem sendUnchecked_touch {qs : List Part} {sI : State} (s : State) (i : Fin 64) (reqId : Word) (m_free : Part.free ∈ qs) (m_out : Part.out ∈ qs) (m_svc : Part.svc ∈ qs) (m_colo : Part.colo ∈ qs)  (ht : Touches qs sI s) :
    Touches qs sI (sendUnchecked s i reqId) := by
  unfold sendUnchecked
  (try dsimp only)
  (repeat' split) <;> simp (maxDischargeDepth := 40) only [ht, m_free, m_out, m_svc, m_colo, answerReq_touch, bumpSvc_touch, dropWait_touch, Touches.refl, touch_foldl, touch_ite, touch_cond, implies_true, and_self]

theorem spreadTakes_touch {qs : List Part} {sI : State} (s : State) (i : Fin 64) (m_free : Part.free ∈ qs) (m_svc : Part.svc ∈ qs) (m_colo : Part.colo ∈ qs)  (ht : Touches qs sI s) :
    Touches qs sI (spreadTakes s i) := by
  unfold spreadTakes
  (try dsimp only)
  (repeat' split) <;> simp (maxDischargeDepth := 40) only [ht, m_free, m_svc, m_colo, bumpSvc_touch, modSvc_touch, useFree_touch, Touches.refl, touch_foldl, touch_ite, touch_cond, implies_true, and_self]

theorem mirrorTakes_touch {qs : List Part} {sI : State} (s : State) (i : Fin 64) (m_free : Part.free ∈ qs) (m_out : Part.out ∈ qs) (m_svc : Part.svc ∈ qs) (m_colo : Part.colo ∈ qs)  (ht : Touches qs sI s) :
    Touches qs sI (mirrorTakes s i) := by
  unfold mirrorTakes
  (try dsimp only)
  (repeat' split) <;> simp (maxDischargeDepth := 40) only [ht, m_free, m_out, m_svc, m_colo, answerReq_touch, modSvc_touch, sendUnchecked_touch, useFree_touch, Touches.refl, touch_foldl, touch_ite, touch_cond, implies_true, and_self]

theorem svcLosesDie_touch {qs : List Part} {sI : State} (d : Nat) (s : State) (i : Fin 64) (m_free : Part.free ∈ qs) (m_out : Part.out ∈ qs) (m_svc : Part.svc ∈ qs) (m_colo : Part.colo ∈ qs)  (ht : Touches qs sI s) :
    Touches qs sI (svcLosesDie d s i) := by
  unfold svcLosesDie
  (try dsimp only)
  (repeat' split) <;> simp (maxDischargeDepth := 40) only [ht, m_free, m_out, m_svc, m_colo, mirrorTakes_touch, modSvc_touch, spreadTakes_touch, Touches.refl, touch_foldl, touch_ite, touch_cond, implies_true, and_self]

theorem servicesLoseDie_touch {qs : List Part} {sI : State} (s : State) (d : Nat) (m_free : Part.free ∈ qs) (m_out : Part.out ∈ qs) (m_svc : Part.svc ∈ qs) (m_colo : Part.colo ∈ qs)  (ht : Touches qs sI s) :
    Touches qs sI (servicesLoseDie s d) := by
  unfold servicesLoseDie
  (try dsimp only)
  (repeat' split) <;> simp (maxDischargeDepth := 40) only [ht, m_free, m_out, m_svc, m_colo, svcLosesDie_touch, Touches.refl, touch_foldl, touch_ite, touch_cond, implies_true, and_self]

theorem setTag_touch {qs : List Part} {sI : State} (s : State) (g : Nat) (e : TagEntry) (m_tbl : Part.tbl ∈ qs)  (ht : Touches qs sI s) :
    Touches qs sI (setTag s g e) := by
  unfold setTag
  (try dsimp only)
  (repeat' split) <;> simp (maxDischargeDepth := 40) only [ht, m_tbl, touch_tbl, Touches.refl, touch_foldl, touch_ite, touch_cond, implies_true, and_self]

theorem requestClose_touch {qs : List Part} {sI : State} (s : State) (m_proof : Part.proof ∈ qs)  (ht : Touches qs sI s) :
    Touches qs sI (requestClose s) := by
  unfold requestClose
  (try dsimp only)
  (repeat' split) <;> simp (maxDischargeDepth := 40) only [ht, m_proof, touch_proof, Touches.refl, touch_foldl, touch_ite, touch_cond, implies_true, and_self]

theorem closeTag_touch {qs : List Part} {sI : State} (s : State) (g : Nat) (m_out : Part.out ∈ qs) (m_tbl : Part.tbl ∈ qs) (m_proof : Part.proof ∈ qs) (m_cores : Part.cores ∈ qs) (m_colo : Part.colo ∈ qs)  (ht : Touches qs sI s) :
    Touches qs sI (closeTag s g) := by
  unfold closeTag
  (try dsimp only)
  (repeat' split) <;> simp (maxDischargeDepth := 40) only [ht, m_out, m_tbl, m_proof, m_cores, m_colo, raiseAlarm_touch, setTag_touch, Touches.refl, touch_foldl, touch_ite, touch_cond, implies_true, and_self]

theorem closeEffect_touch {qs : List Part} {sI : State} (s : State) (m_out : Part.out ∈ qs) (m_tbl : Part.tbl ∈ qs) (m_proof : Part.proof ∈ qs) (m_cores : Part.cores ∈ qs) (m_colo : Part.colo ∈ qs)  (ht : Touches qs sI s) :
    Touches qs sI (closeEffect s) := by
  unfold closeEffect
  (try dsimp only)
  (repeat' split) <;> simp (maxDischargeDepth := 40) only [ht, m_out, m_tbl, m_proof, m_cores, m_colo, closeTag_touch, touch_proof, Touches.refl, touch_foldl, touch_ite, touch_cond, implies_true, and_self]

theorem accEventsReadEffect_touch {qs : List Part} {sI : State} (s : State) (f : FormeIx) (m_free : Part.free ∈ qs) (m_out : Part.out ∈ qs) (m_formes : Part.formes ∈ qs) (m_gddr : Part.gddr ∈ qs) (m_tbl : Part.tbl ∈ qs) (m_proof : Part.proof ∈ qs) (m_imp : Part.imp ∈ qs) (m_log : Part.log ∈ qs) (m_span : Part.span ∈ qs) (m_abut : Part.abut ∈ qs) (m_cores : Part.cores ∈ qs) (m_fault : Part.fault ∈ qs) (m_colo : Part.colo ∈ qs) (m_flash : Part.flash ∈ qs)  (ht : Touches qs sI s) :
    Touches qs sI (accEventsReadEffect s f) := by
  unfold accEventsReadEffect
  (try dsimp only)
  (repeat' split) <;> simp (maxDischargeDepth := 40) only [ht, m_free, m_out, m_formes, m_gddr, m_tbl, m_proof, m_imp, m_log, m_span, m_abut, m_cores, m_fault, m_colo, m_flash, emit_touch, modForme_touch, readData_touch, Touches.refl, touch_foldl, touch_ite, touch_cond, implies_true, and_self]

theorem modPort_touch {qs : List Part} {sI : State} (s : State) (p : Fin 11) (g : Port → Port) (m_span : Part.span ∈ qs)  (ht : Touches qs sI s) :
    Touches qs sI (modPort s p g) := by
  unfold modPort
  (try dsimp only)
  (repeat' split) <;> simp (maxDischargeDepth := 40) only [ht, m_span, touch_span, Touches.refl, touch_foldl, touch_ite, touch_cond, implies_true, and_self]

theorem writeOwnRoutes_touch {qs : List Part} {sI : State} (s : State) (m_tbl : Part.tbl ∈ qs)  (ht : Touches qs sI s) :
    Touches qs sI (writeOwnRoutes s) := by
  unfold writeOwnRoutes
  (try dsimp only)
  (repeat' split) <;> simp (maxDischargeDepth := 40) only [ht, m_tbl, touch_tbl, Touches.refl, touch_foldl, touch_ite, touch_cond, implies_true, and_self]

theorem updateRoutes_touch {qs : List Part} {sI : State} (s : State) (m_tbl : Part.tbl ∈ qs)  (ht : Touches qs sI s) :
    Touches qs sI (updateRoutes s) := by
  unfold updateRoutes
  (try dsimp only)
  (repeat' split) <;> simp (maxDischargeDepth := 40) only [ht, m_tbl, writeOwnRoutes_touch, Touches.refl, touch_foldl, touch_ite, touch_cond, implies_true, and_self]

theorem takePacket_touch {qs : List Part} {sI : State} (s : State) (p : Fin 11) (typ : Nat) (m_span : Part.span ∈ qs)  (ht : Touches qs sI s) :
    Touches qs sI (takePacket s p typ) := by
  unfold takePacket
  (try dsimp only)
  (repeat' split) <;> simp (maxDischargeDepth := 40) only [ht, m_span, modPort_touch, Touches.refl, touch_foldl, touch_ite, touch_cond, implies_true, and_self]

theorem refusePacket_touch {qs : List Part} {sI : State} (s : State) (k : SpanPacket) (r : Nack) (m_out : Part.out ∈ qs) (m_span : Part.span ∈ qs) (m_colo : Part.colo ∈ qs)  (ht : Touches qs sI s) :
    Touches qs sI (refusePacket s k r) := by
  unfold refusePacket
  (try dsimp only)
  (repeat' split) <;> simp (maxDischargeDepth := 40) only [ht, m_out, m_span, m_colo, sendNack_touch, Touches.refl, touch_foldl, touch_ite, touch_cond, implies_true, and_self]

theorem forwardPacket_touch {qs : List Part} {sI : State} (s : State) (p : Fin 11) (k : SpanPacket) (m_out : Part.out ∈ qs) (m_span : Part.span ∈ qs) (m_colo : Part.colo ∈ qs)  (ht : Touches qs sI s) :
    Touches qs sI (forwardPacket s p k) := by
  unfold forwardPacket
  (try dsimp only)
  (repeat' split) <;> simp (maxDischargeDepth := 40) only [ht, m_out, m_span, m_colo, bumpEnt_touch, enqueuePort_touch, refusePacket_touch, Touches.refl, touch_foldl, touch_ite, touch_cond, implies_true, and_self]

theorem onPacket_touch {qs : List Part} {sI : State} (s : State) (p : Fin 11) (typ : Nat) (bad good : State → SpanPacket → State) (m_out : Part.out ∈ qs) (m_span : Part.span ∈ qs) (m_colo : Part.colo ∈ qs)
    (hb : ∀ t y, Touches qs t (bad t y)) (hg : ∀ t y, Touches qs t (good t y)) (ht : Touches qs sI s) :
    Touches qs sI (onPacket s p typ bad good) := by
  have h1 : Touches qs sI (takePacket s p typ) := by simp (maxDischargeDepth := 40) only [takePacket_touch, *]
  unfold onPacket
  dsimp only
  (repeat' split) <;> first
    | exact ht
    | exact h1.trans (hb _ _)
    | exact h1.trans (hg _ _)
    | simp (maxDischargeDepth := 40) only [forwardPacket_touch, bumpEnt_touch, *]

theorem answerCorrupt_touch {qs : List Part} {sI : State} (s : State) (k : SpanPacket) (m_out : Part.out ∈ qs) (m_span : Part.span ∈ qs) (m_colo : Part.colo ∈ qs)  (ht : Touches qs sI s) :
    Touches qs sI (answerCorrupt s k) := by
  unfold answerCorrupt
  (try dsimp only)
  (repeat' split) <;> simp (maxDischargeDepth := 40) only [ht, m_out, m_span, m_colo, refusePacket_touch, Touches.refl, touch_foldl, touch_ite, touch_cond, implies_true, and_self]

theorem dropPartials_touch {qs : List Part} {sI : State} (s : State) (src : BitVec 12) (m_span : Part.span ∈ qs)  (ht : Touches qs sI s) :
    Touches qs sI (dropPartials s src) := by
  unfold dropPartials
  (try dsimp only)
  (repeat' split) <;> simp (maxDischargeDepth := 40) only [ht, m_span, touch_span, Touches.refl, touch_foldl, touch_ite, touch_cond, implies_true, and_self]

theorem rxDiscard_touch {qs : List Part} {sI : State} (s : State) (m_colo : Part.colo ∈ qs)  (ht : Touches qs sI s) :
    Touches qs sI (rxDiscard s) := by
  unfold rxDiscard
  (try dsimp only)
  (repeat' split) <;> simp (maxDischargeDepth := 40) only [ht, m_colo, bumpEnt_touch, Touches.refl, touch_foldl, touch_ite, touch_cond, implies_true, and_self]

theorem recordDatagram_touch {qs : List Part} {sI : State} {s : State} {body : EthBody} {t : State} (he : recordDatagram s body = some t) (m_out : Part.out ∈ qs) (m_gddr : Part.gddr ∈ qs) (m_log : Part.log ∈ qs)  (ht : Touches qs sI s) :
    Touches qs sI t := by
  revert he
  unfold recordDatagram
  (try dsimp only)
  (repeat' split) <;> intro he <;> (first | contradiction | (have hx := recordInput_touch (sI := sI) he m_out m_gddr m_log (by simp (maxDischargeDepth := 40) only [ht, m_out, m_gddr, m_log, Touches.refl, touch_foldl, touch_ite, touch_cond, implies_true, and_self]); exact hx) | (injection he with he; subst he; (first | simp (maxDischargeDepth := 40) only [ht, m_out, m_gddr, m_log, Touches.refl, touch_foldl, touch_ite, touch_cond, implies_true, and_self] | (have hx := recordInput_touch (sI := sI) (by assumption) m_out m_gddr m_log (by simp (maxDischargeDepth := 40) only [ht, m_out, m_gddr, m_log, Touches.refl, touch_foldl, touch_ite, touch_cond, implies_true, and_self]); simp (maxDischargeDepth := 40) only [hx, ht, m_out, m_gddr, m_log, Touches.refl, touch_foldl, touch_ite, touch_cond, implies_true, and_self]))))

theorem datagramDone_touch {qs : List Part} {sI : State} (s : State) (status bytes time : Nat) (m_out : Part.out ∈ qs) (m_formes : Part.formes ∈ qs) (m_gddr : Part.gddr ∈ qs) (m_abut : Part.abut ∈ qs) (m_cores : Part.cores ∈ qs) (m_colo : Part.colo ∈ qs)  (ht : Touches qs sI s) :
    Touches qs sI (datagramDone s status bytes time) := by
  unfold datagramDone
  (try dsimp only)
  (repeat' split) <;> simp (maxDischargeDepth := 40) only [ht, m_out, m_formes, m_gddr, m_abut, m_cores, m_colo, complete_touch, Touches.refl, touch_foldl, touch_ite, touch_cond, implies_true, and_self]

theorem datagramRequest_touch {qs : List Part} {sI : State} (s : State) (time : Nat) (body : EthBody) (m_free : Part.free ∈ qs) (m_out : Part.out ∈ qs) (m_gddr : Part.gddr ∈ qs) (m_log : Part.log ∈ qs) (m_svc : Part.svc ∈ qs) (m_colo : Part.colo ∈ qs)  (ht : Touches qs sI s) :
    Touches qs sI (datagramRequest s time body) := by
  unfold datagramRequest
  (try dsimp only)
  (repeat' split) <;> simp (maxDischargeDepth := 40) only [ht, m_free, m_out, m_gddr, m_log, m_svc, m_colo, requestIn_touch, Touches.refl, touch_foldl, touch_ite, touch_cond, implies_true, and_self]

theorem datagram_touch {qs : List Part} {sI : State} (s : State) (time : Nat) (bytes : List Byte) (body : EthBody) (m_free : Part.free ∈ qs) (m_out : Part.out ∈ qs) (m_formes : Part.formes ∈ qs) (m_gddr : Part.gddr ∈ qs) (m_log : Part.log ∈ qs) (m_abut : Part.abut ∈ qs) (m_cores : Part.cores ∈ qs) (m_svc : Part.svc ∈ qs) (m_colo : Part.colo ∈ qs)
    (ht : Touches qs sI s) : Touches qs sI (datagram s time bytes body) := by
  unfold datagram
  split
  · simp (maxDischargeDepth := 40) only [rxDiscard_touch, *]
  · split
    · simp (maxDischargeDepth := 40) only [rxDiscard_touch, *]
    · rename_i heq
      have h1 := takeSrq_touch (sI := sI) heq (by assumption) (by assumption) (by assumption) (by assumption) ht
      split
      · simp (maxDischargeDepth := 40) only [datagramDone_touch, *]
      · split
        · simp (maxDischargeDepth := 40) only [datagramDone_touch, *]
        · split
          · exact ht
          · rename_i h2
            have h3 := recordDatagram_touch (sI := sI) h2 (by assumption) (by assumption) (by assumption) h1
            simp (maxDischargeDepth := 40) only [datagramRequest_touch, datagramDone_touch, gddrStore_touch, *]

theorem sendCnp_touch {qs : List Part} {sI : State} (s : State) (n : Nat) (m_out : Part.out ∈ qs) (m_span : Part.span ∈ qs) (m_abut : Part.abut ∈ qs) (m_colo : Part.colo ∈ qs)  (ht : Touches qs sI s) :
    Touches qs sI (sendCnp s n) := by
  unfold sendCnp
  (try dsimp only)
  (repeat' split) <;> simp (maxDischargeDepth := 40) only [ht, m_out, m_span, m_abut, m_colo, bumpEnt_touch, modQp_touch, roceOut_touch, Touches.refl, touch_foldl, touch_ite, touch_cond, implies_true, and_self]

theorem engineIn_touch {qs : List Part} {sI : State} (s : State) (ect : Bool) (time : Nat) (p : RocePacket) (m_out : Part.out ∈ qs) (m_span : Part.span ∈ qs) (m_abut : Part.abut ∈ qs) (m_colo : Part.colo ∈ qs)  (ht : Touches qs sI s) :
    Touches qs sI (engineIn s ect time p) := by
  unfold engineIn
  (try dsimp only)
  (repeat' split) <;> simp (maxDischargeDepth := 40) only [ht, m_out, m_span, m_abut, m_colo, rxDiscard_touch, sendCnp_touch, touch_abut, Touches.refl, touch_foldl, touch_ite, touch_cond, implies_true, and_self]

theorem frameIn_touch {qs : List Part} {sI : State} (s : State) (ect : Bool) (time : Nat) (bytes : List Byte) (body : EthBody) (m_free : Part.free ∈ qs) (m_out : Part.out ∈ qs) (m_formes : Part.formes ∈ qs) (m_gddr : Part.gddr ∈ qs) (m_log : Part.log ∈ qs) (m_span : Part.span ∈ qs) (m_abut : Part.abut ∈ qs) (m_cores : Part.cores ∈ qs) (m_svc : Part.svc ∈ qs) (m_colo : Part.colo ∈ qs)  (ht : Touches qs sI s) :
    Touches qs sI (frameIn s ect time bytes body) := by
  unfold frameIn
  (try dsimp only)
  (repeat' split) <;> simp (maxDischargeDepth := 40) only [ht, m_free, m_out, m_formes, m_gddr, m_log, m_span, m_abut, m_cores, m_svc, m_colo, datagram_touch, engineIn_touch, Touches.refl, touch_foldl, touch_ite, touch_cond, implies_true, and_self]

theorem deliverFrame_touch {qs : List Part} {sI : State} (s : State) (fr : EthFrame) (m_free : Part.free ∈ qs) (m_out : Part.out ∈ qs) (m_formes : Part.formes ∈ qs) (m_gddr : Part.gddr ∈ qs) (m_log : Part.log ∈ qs) (m_span : Part.span ∈ qs) (m_abut : Part.abut ∈ qs) (m_cores : Part.cores ∈ qs) (m_svc : Part.svc ∈ qs) (m_colo : Part.colo ∈ qs)  (ht : Touches qs sI s) :
    Touches qs sI (deliverFrame s fr) := by
  unfold deliverFrame
  (try dsimp only)
  (repeat' split) <;> simp (maxDischargeDepth := 40) only [ht, m_free, m_out, m_formes, m_gddr, m_log, m_span, m_abut, m_cores, m_svc, m_colo, ethToOwner_touch, frameIn_touch, Touches.refl, touch_foldl, touch_ite, touch_cond, implies_true, and_self]

theorem ethFrameEffect_touch {qs : List Part} {sI : State} (s : State) (fr : EthFrame) (m_free : Part.free ∈ qs) (m_out : Part.out ∈ qs) (m_formes : Part.formes ∈ qs) (m_gddr : Part.gddr ∈ qs) (m_log : Part.log ∈ qs) (m_span : Part.span ∈ qs) (m_abut : Part.abut ∈ qs) (m_cores : Part.cores ∈ qs) (m_svc : Part.svc ∈ qs) (m_colo : Part.colo ∈ qs)  (ht : Touches qs sI s) :
    Touches qs sI (ethFrameEffect s fr) := by
  unfold ethFrameEffect
  (try dsimp only)
  (repeat' split) <;> simp (maxDischargeDepth := 40) only [ht, m_free, m_out, m_formes, m_gddr, m_log, m_span, m_abut, m_cores, m_svc, m_colo, deliverFrame_touch, rxDiscard_touch, Touches.refl, touch_foldl, touch_ite, touch_cond, implies_true, and_self]

theorem forwardedIn_touch {qs : List Part} {sI : State} (s : State) (pl : List Byte) (m_free : Part.free ∈ qs) (m_out : Part.out ∈ qs) (m_formes : Part.formes ∈ qs) (m_gddr : Part.gddr ∈ qs) (m_log : Part.log ∈ qs) (m_span : Part.span ∈ qs) (m_abut : Part.abut ∈ qs) (m_cores : Part.cores ∈ qs) (m_svc : Part.svc ∈ qs) (m_colo : Part.colo ∈ qs)  (ht : Touches qs sI s) :
    Touches qs sI (forwardedIn s pl) := by
  unfold forwardedIn
  (try dsimp only)
  (repeat' split) <;> simp (maxDischargeDepth := 40) only [ht, m_free, m_out, m_formes, m_gddr, m_log, m_span, m_abut, m_cores, m_svc, m_colo, frameIn_touch, Touches.refl, touch_foldl, touch_ite, touch_cond, implies_true, and_self]

theorem portOut_touch {qs : List Part} {sI : State} (s : State) (src : BitVec 12) (pl : List Byte) (m_out : Part.out ∈ qs) (m_span : Part.span ∈ qs) (m_abut : Part.abut ∈ qs) (m_colo : Part.colo ∈ qs)  (ht : Touches qs sI s) :
    Touches qs sI (portOut s src pl) := by
  unfold portOut
  (try dsimp only)
  (repeat' split) <;> simp (maxDischargeDepth := 40) only [ht, m_out, m_span, m_abut, m_colo, emit_touch, ethSend_touch, Touches.refl, touch_foldl, touch_ite, touch_cond, implies_true, and_self]

theorem ethPayload_touch {qs : List Part} {sI : State} (s : State) (src : BitVec 12) (dir : Nat) (pl : List Byte) (m_free : Part.free ∈ qs) (m_out : Part.out ∈ qs) (m_formes : Part.formes ∈ qs) (m_gddr : Part.gddr ∈ qs) (m_log : Part.log ∈ qs) (m_span : Part.span ∈ qs) (m_abut : Part.abut ∈ qs) (m_cores : Part.cores ∈ qs) (m_svc : Part.svc ∈ qs) (m_colo : Part.colo ∈ qs)  (ht : Touches qs sI s) :
    Touches qs sI (ethPayload s src dir pl) := by
  unfold ethPayload
  (try dsimp only)
  (repeat' split) <;> simp (maxDischargeDepth := 40) only [ht, m_free, m_out, m_formes, m_gddr, m_log, m_span, m_abut, m_cores, m_svc, m_colo, forwardedIn_touch, portOut_touch, Touches.refl, touch_foldl, touch_ite, touch_cond, implies_true, and_self]

theorem ethfwdEffect_touch {qs : List Part} {sI : State} (s : State) (k : SpanPacket) (m_free : Part.free ∈ qs) (m_out : Part.out ∈ qs) (m_formes : Part.formes ∈ qs) (m_gddr : Part.gddr ∈ qs) (m_log : Part.log ∈ qs) (m_span : Part.span ∈ qs) (m_abut : Part.abut ∈ qs) (m_cores : Part.cores ∈ qs) (m_svc : Part.svc ∈ qs) (m_colo : Part.colo ∈ qs)  (ht : Touches qs sI s) :
    Touches qs sI (ethfwdEffect s k) := by
  unfold ethfwdEffect
  (try dsimp only)
  (repeat' split) <;> simp (maxDischargeDepth := 40) only [ht, m_free, m_out, m_formes, m_gddr, m_log, m_span, m_abut, m_cores, m_svc, m_colo, ethPayload_touch, rawReport_touch, touch_abut, Touches.refl, touch_foldl, touch_ite, touch_cond, implies_true, and_self]

theorem measureEffect_touch {qs : List Part} {sI : State} (s : State) (p : Fin 11) (delay : BitVec 16) (offset : BitVec 32) (m_tb : Part.tb ∈ qs) (m_span : Part.span ∈ qs)  (ht : Touches qs sI s) :
    Touches qs sI (measureEffect s p delay offset) := by
  unfold measureEffect
  (try dsimp only)
  (repeat' split) <;> simp (maxDischargeDepth := 40) only [ht, m_tb, m_span, modPort_touch, touch_tb, Touches.refl, touch_foldl, touch_ite, touch_cond, implies_true, and_self]

theorem modBar_touch {qs : List Part} {sI : State} (s : State) (b : Fin 4) (g : Bar → Bar) (m_bars : Part.bars ∈ qs)  (ht : Touches qs sI s) :
    Touches qs sI (modBar s b g) := by
  unfold modBar
  (try dsimp only)
  (repeat' split) <;> simp (maxDischargeDepth := 40) only [ht, m_bars, touch_bars, Touches.refl, touch_foldl, touch_ite, touch_cond, implies_true, and_self]

theorem abortBar_touch {qs : List Part} {sI : State} (s : State) (b : Fin 4) (m_out : Part.out ∈ qs) (m_bars : Part.bars ∈ qs) (m_span : Part.span ∈ qs) (m_cores : Part.cores ∈ qs) (m_colo : Part.colo ∈ qs)  (ht : Touches qs sI s) :
    Touches qs sI (abortBar s b) := by
  unfold abortBar
  (try dsimp only)
  (repeat' split) <;> simp (maxDischargeDepth := 40) only [ht, m_out, m_bars, m_span, m_cores, m_colo, modBar_touch, raise_touch, spanSend_touch, Touches.refl, touch_foldl, touch_ite, touch_cond, implies_true, and_self]

theorem releaseBar_touch {qs : List Part} {sI : State} (s : State) (b : Fin 4) (t : Word) (late : Bool) (m_out : Part.out ∈ qs) (m_formes : Part.formes ∈ qs) (m_bars : Part.bars ∈ qs) (m_cores : Part.cores ∈ qs) (m_colo : Part.colo ∈ qs)  (ht : Touches qs sI s) :
    Touches qs sI (releaseBar s b t late) := by
  unfold releaseBar
  (try dsimp only)
  (repeat' split) <;> simp (maxDischargeDepth := 40) only [ht, m_out, m_formes, m_bars, m_cores, m_colo, modBar_touch, raise_touch, signalMask_touch, Touches.refl, touch_foldl, touch_ite, touch_cond, implies_true, and_self]

theorem announce_touch {qs : List Part} {sI : State} (s : State) (b : Fin 4) (m_out : Part.out ∈ qs) (m_bars : Part.bars ∈ qs) (m_span : Part.span ∈ qs) (m_colo : Part.colo ∈ qs)  (ht : Touches qs sI s) :
    Touches qs sI (announce s b) := by
  unfold announce
  (try dsimp only)
  (repeat' split) <;> simp (maxDischargeDepth := 40) only [ht, m_out, m_bars, m_span, m_colo, modBar_touch, spanSend_touch, Touches.refl, touch_foldl, touch_ite, touch_cond, implies_true, and_self]

theorem receiveArrival_touch {qs : List Part} {sI : State} (s : State) (b : Fin 4) (a : Arrival) (m_out : Part.out ∈ qs) (m_bars : Part.bars ∈ qs) (m_span : Part.span ∈ qs) (m_colo : Part.colo ∈ qs)  (ht : Touches qs sI s) :
    Touches qs sI (receiveArrival s b a) := by
  unfold receiveArrival
  (try dsimp only)
  (repeat' split) <;> simp (maxDischargeDepth := 40) only [ht, m_out, m_bars, m_span, m_colo, announce_touch, modBar_touch, Touches.refl, touch_foldl, touch_ite, touch_cond, implies_true, and_self]

theorem arriveBar_touch {qs : List Part} {sI : State} (s : State) (b : Fin 4) (m_out : Part.out ∈ qs) (m_bars : Part.bars ∈ qs) (m_span : Part.span ∈ qs) (m_cores : Part.cores ∈ qs) (m_colo : Part.colo ∈ qs)  (ht : Touches qs sI s) :
    Touches qs sI (arriveBar s b) := by
  unfold arriveBar
  (try dsimp only)
  (repeat' split) <;> simp (maxDischargeDepth := 40) only [ht, m_out, m_bars, m_span, m_cores, m_colo, abortBar_touch, modBar_touch, receiveArrival_touch, spanSend_touch, Touches.refl, touch_foldl, touch_ite, touch_cond, implies_true, and_self]

theorem writeBar_touch {qs : List Part} {sI : State} (s : State) (b : Fin 4) (v : Word) (m_out : Part.out ∈ qs) (m_bars : Part.bars ∈ qs) (m_span : Part.span ∈ qs) (m_cores : Part.cores ∈ qs) (m_colo : Part.colo ∈ qs)  (ht : Touches qs sI s) :
    Touches qs sI (writeBar s b v) := by
  unfold writeBar
  (try dsimp only)
  (repeat' split) <;> simp (maxDischargeDepth := 40) only [ht, m_out, m_bars, m_span, m_cores, m_colo, abortBar_touch, arriveBar_touch, modBar_touch, Touches.refl, touch_foldl, touch_ite, touch_cond, implies_true, and_self]

theorem releaseEffect_touch {qs : List Part} {sI : State} (s : State) (b : Fin 4) (m_out : Part.out ∈ qs) (m_formes : Part.formes ∈ qs) (m_bars : Part.bars ∈ qs) (m_cores : Part.cores ∈ qs) (m_colo : Part.colo ∈ qs)  (ht : Touches qs sI s) :
    Touches qs sI (releaseEffect s b) := by
  unfold releaseEffect
  (try dsimp only)
  (repeat' split) <;> simp (maxDischargeDepth := 40) only [ht, m_out, m_formes, m_bars, m_cores, m_colo, releaseBar_touch, Touches.refl, touch_foldl, touch_ite, touch_cond, implies_true, and_self]

theorem keystoneEffect_touch {qs : List Part} {sI : State} (s : State) (k : SpanPacket) (m_out : Part.out ∈ qs) (m_formes : Part.formes ∈ qs) (m_bars : Part.bars ∈ qs) (m_span : Part.span ∈ qs) (m_cores : Part.cores ∈ qs) (m_colo : Part.colo ∈ qs)  (ht : Touches qs sI s) :
    Touches qs sI (keystoneEffect s k) := by
  unfold keystoneEffect
  (try dsimp only)
  (repeat' split) <;> simp (maxDischargeDepth := 40) only [ht, m_out, m_formes, m_bars, m_span, m_cores, m_colo, abortBar_touch, modBar_touch, receiveArrival_touch, releaseBar_touch, Touches.refl, touch_foldl, touch_ite, touch_cond, implies_true, and_self]

theorem keystoneNack_touch {qs : List Part} {sI : State} (s : State) (k : SpanPacket) (m_out : Part.out ∈ qs) (m_bars : Part.bars ∈ qs) (m_span : Part.span ∈ qs) (m_cores : Part.cores ∈ qs) (m_colo : Part.colo ∈ qs)  (ht : Touches qs sI s) :
    Touches qs sI (keystoneNack s k) := by
  unfold keystoneNack
  (try dsimp only)
  (repeat' split) <;> simp (maxDischargeDepth := 40) only [ht, m_out, m_bars, m_span, m_cores, m_colo, abortBar_touch, spanSend_touch, Touches.refl, touch_foldl, touch_ite, touch_cond, implies_true, and_self]

theorem linkReadEffect_touch {qs : List Part} {sI : State} (s : State) (p : Fin 11) (m_free : Part.free ∈ qs) (m_out : Part.out ∈ qs) (m_formes : Part.formes ∈ qs) (m_gddr : Part.gddr ∈ qs) (m_tbl : Part.tbl ∈ qs) (m_proof : Part.proof ∈ qs) (m_imp : Part.imp ∈ qs) (m_log : Part.log ∈ qs) (m_span : Part.span ∈ qs) (m_abut : Part.abut ∈ qs) (m_cores : Part.cores ∈ qs) (m_fault : Part.fault ∈ qs) (m_colo : Part.colo ∈ qs) (m_flash : Part.flash ∈ qs)  (ht : Touches qs sI s) :
    Touches qs sI (linkReadEffect s p) := by
  unfold linkReadEffect
  (try dsimp only)
  (repeat' split) <;> simp (maxDischargeDepth := 40) only [ht, m_free, m_out, m_formes, m_gddr, m_tbl, m_proof, m_imp, m_log, m_span, m_abut, m_cores, m_fault, m_colo, m_flash, emit_touch, modPort_touch, readData_touch, Touches.refl, touch_foldl, touch_ite, touch_cond, implies_true, and_self]

theorem settleHold_touch {qs : List Part} {sI : State} (s : State) (p : Fin 11) (m_tbl : Part.tbl ∈ qs) (m_span : Part.span ∈ qs)  (ht : Touches qs sI s) :
    Touches qs sI (settleHold s p) := by
  unfold settleHold
  (try dsimp only)
  (repeat' split) <;> simp (maxDischargeDepth := 40) only [ht, m_tbl, m_span, modPort_touch, updateRoutes_touch, Touches.refl, touch_foldl, touch_ite, touch_cond, implies_true, and_self]

theorem writeLink_touch {qs : List Part} {sI : State} (s : State) (p : Fin 11) (v : Word) (m_out : Part.out ∈ qs) (m_tbl : Part.tbl ∈ qs) (m_span : Part.span ∈ qs)  (ht : Touches qs sI s) :
    Touches qs sI (writeLink s p v) := by
  unfold writeLink
  (try dsimp only)
  (repeat' split) <;> simp (maxDischargeDepth := 40) only [ht, m_out, m_tbl, m_span, modPort_touch, pumpPort_touch, settleHold_touch, Touches.refl, touch_foldl, touch_ite, touch_cond, implies_true, and_self]

theorem resendFrames_touch {qs : List Part} {sI : State} (s : State) (p : Fin 11) (m_out : Part.out ∈ qs) (m_span : Part.span ∈ qs) (m_colo : Part.colo ∈ qs)  (ht : Touches qs sI s) :
    Touches qs sI (resendFrames s p) := by
  unfold resendFrames
  (try dsimp only)
  (repeat' split) <;> simp (maxDischargeDepth := 40) only [ht, m_out, m_span, m_colo, bumpEnt_touch, emit_touch, modPort_touch, Touches.refl, touch_foldl, touch_ite, touch_cond, implies_true, and_self]

theorem takeAck_touch {qs : List Part} {sI : State} (s : State) (p : Fin 11) (fr : SpanFrame) (m_out : Part.out ∈ qs) (m_tbl : Part.tbl ∈ qs) (m_span : Part.span ∈ qs) (m_colo : Part.colo ∈ qs)  (ht : Touches qs sI s) :
    Touches qs sI (takeAck s p fr) := by
  unfold takeAck
  (try dsimp only)
  (repeat' split) <;> simp (maxDischargeDepth := 40) only [ht, m_out, m_tbl, m_span, m_colo, modPort_touch, pumpPort_touch, resendFrames_touch, settleHold_touch, Touches.refl, touch_foldl, touch_ite, touch_cond, implies_true, and_self]

theorem takeData_touch {qs : List Part} {sI : State} (s : State) (p : Fin 11) (fr : SpanFrame) (ok : Bool) (m_out : Part.out ∈ qs) (m_span : Part.span ∈ qs)  (ht : Touches qs sI s) :
    Touches qs sI (takeData s p fr ok) := by
  unfold takeData
  (try dsimp only)
  (repeat' split) <;> simp (maxDischargeDepth := 40) only [ht, m_out, m_span, emit_touch, modPort_touch, Touches.refl, touch_foldl, touch_ite, touch_cond, implies_true, and_self]

theorem frameEffect_touch {qs : List Part} {sI : State} (s : State) (p : Fin 11) (fr : SpanFrame) (m_out : Part.out ∈ qs) (m_tbl : Part.tbl ∈ qs) (m_span : Part.span ∈ qs) (m_colo : Part.colo ∈ qs)  (ht : Touches qs sI s) :
    Touches qs sI (frameEffect s p fr) := by
  unfold frameEffect
  (try dsimp only)
  (repeat' split) <;> simp (maxDischargeDepth := 40) only [ht, m_out, m_tbl, m_span, m_colo, bumpEnt_touch, takeAck_touch, takeData_touch, Touches.refl, touch_foldl, touch_ite, touch_cond, implies_true, and_self]

theorem retrainEffect_touch {qs : List Part} {sI : State} (s : State) (p : Fin 11) (m_span : Part.span ∈ qs) (m_colo : Part.colo ∈ qs)  (ht : Touches qs sI s) :
    Touches qs sI (retrainEffect s p) := by
  unfold retrainEffect
  (try dsimp only)
  (repeat' split) <;> simp (maxDischargeDepth := 40) only [ht, m_span, m_colo, bumpEnt_touch, modPort_touch, Touches.refl, touch_foldl, touch_ite, touch_cond, implies_true, and_self]

theorem trainFailed_touch {qs : List Part} {sI : State} (s : State) (p : Fin 11) (m_out : Part.out ∈ qs) (m_formes : Part.formes ∈ qs) (m_tbl : Part.tbl ∈ qs) (m_span : Part.span ∈ qs) (m_fault : Part.fault ∈ qs) (m_colo : Part.colo ∈ qs) (m_flash : Part.flash ∈ qs)  (ht : Touches qs sI s) :
    Touches qs sI (trainFailed s p) := by
  unfold trainFailed
  (try dsimp only)
  (repeat' split) <;> simp (maxDischargeDepth := 40) only [ht, m_out, m_formes, m_tbl, m_span, m_fault, m_colo, m_flash, logFault_touch, modPort_touch, updateRoutes_touch, Touches.refl, touch_foldl, touch_ite, touch_cond, implies_true, and_self]

theorem joinTimebase_touch {qs : List Part} {sI : State} (s : State) (far : BitVec 12) (masterNs : Nat) (m_tb : Part.tb ∈ qs)  (ht : Touches qs sI s) :
    Touches qs sI (joinTimebase s far masterNs) := by
  unfold joinTimebase
  (try dsimp only)
  (repeat' split) <;> simp (maxDischargeDepth := 40) only [ht, m_tb, touch_tb, Touches.refl, touch_foldl, touch_ite, touch_cond, implies_true, and_self]

theorem trainedEffect_touch {qs : List Part} {sI : State} (s : State) (p : Fin 11) (r : TrainReport) (m_out : Part.out ∈ qs) (m_tb : Part.tb ∈ qs) (m_tbl : Part.tbl ∈ qs) (m_span : Part.span ∈ qs) (m_abut : Part.abut ∈ qs) (m_cores : Part.cores ∈ qs) (m_fault : Part.fault ∈ qs) (m_colo : Part.colo ∈ qs)  (ht : Touches qs sI s) :
    Touches qs sI (trainedEffect s p r) := by
  unfold trainedEffect
  (try dsimp only)
  (repeat' split) <;> simp (maxDischargeDepth := 40) only [ht, m_out, m_tb, m_tbl, m_span, m_abut, m_cores, m_fault, m_colo, dieRejoins_touch, emit_touch, joinTimebase_touch, modPort_touch, pumpPort_touch, settleHold_touch, updateRoutes_touch, writeOwnRoutes_touch, Touches.refl, touch_foldl, touch_ite, touch_cond, implies_true, and_self]

theorem trainingEffect_touch {qs : List Part} {sI : State} (s : State) (p : Fin 11) (r : TrainReport) (m_out : Part.out ∈ qs) (m_tb : Part.tb ∈ qs) (m_formes : Part.formes ∈ qs) (m_tbl : Part.tbl ∈ qs) (m_span : Part.span ∈ qs) (m_abut : Part.abut ∈ qs) (m_cores : Part.cores ∈ qs) (m_svc : Part.svc ∈ qs) (m_fault : Part.fault ∈ qs) (m_colo : Part.colo ∈ qs) (m_boot : Part.boot ∈ qs) (m_flash : Part.flash ∈ qs) (m_sec : Part.sec ∈ qs) (m_pwr : Part.pwr ∈ qs)  (ht : Touches qs sI s) :
    Touches qs sI (trainingEffect s p r) := by
  unfold trainingEffect
  (try dsimp only)
  (repeat' split) <;> simp (maxDischargeDepth := 40) only [ht, m_out, m_tb, m_formes, m_tbl, m_span, m_abut, m_cores, m_svc, m_fault, m_colo, m_boot, m_flash, m_sec, m_pwr, securityAlarm_touch, trainFailed_touch, trainedEffect_touch, Touches.refl, touch_foldl, touch_ite, touch_cond, implies_true, and_self]

theorem writeRoute_touch {qs : List Part} {sI : State} (s : State) (id : BitVec 12) (v : Word) (m_tbl : Part.tbl ∈ qs)  (ht : Touches qs sI s) :
    Touches qs sI (writeRoute s id v) := by
  unfold writeRoute
  (try dsimp only)
  (repeat' split) <;> simp (maxDischargeDepth := 40) only [ht, m_tbl, touch_tbl, Touches.refl, touch_foldl, touch_ite, touch_cond, implies_true, and_self]

theorem modSlot_touch {qs : List Part} {sI : State} (s : State) (i : Fin 8) (g : CollSlot → CollSlot) (m_coll : Part.coll ∈ qs)  (ht : Touches qs sI s) :
    Touches qs sI (modSlot s i g) := by
  unfold modSlot
  (try dsimp only)
  (repeat' split) <;> simp (maxDischargeDepth := 40) only [ht, m_coll, touch_coll, Touches.refl, touch_foldl, touch_ite, touch_cond, implies_true, and_self]

theorem modJob_touch {qs : List Part} {sI : State} (s : State) (i : Fin 8) (g : CollJob → CollJob) (m_coll : Part.coll ∈ qs)  (ht : Touches qs sI s) :
    Touches qs sI (modJob s i g) := by
  unfold modJob
  (try dsimp only)
  (repeat' split) <;> simp (maxDischargeDepth := 40) only [ht, m_coll, modSlot_touch, Touches.refl, touch_foldl, touch_ite, touch_cond, implies_true, and_self]

theorem collRaise_touch {qs : List Part} {sI : State} (s : State) (i : Fin 8) (m_out : Part.out ∈ qs) (m_cores : Part.cores ∈ qs) (m_colo : Part.colo ∈ qs)  (ht : Touches qs sI s) :
    Touches qs sI (collRaise s i) := by
  unfold collRaise
  (try dsimp only)
  (repeat' split) <;> simp (maxDischargeDepth := 40) only [ht, m_out, m_cores, m_colo, raise_touch, Touches.refl, touch_foldl, touch_ite, touch_cond, implies_true, and_self]

theorem collFail_touch {qs : List Part} {sI : State} (s : State) (i : Fin 8) (code : BitVec 3) (m_free : Part.free ∈ qs) (m_out : Part.out ∈ qs) (m_formes : Part.formes ∈ qs) (m_gddr : Part.gddr ∈ qs) (m_tbl : Part.tbl ∈ qs) (m_coll : Part.coll ∈ qs) (m_cores : Part.cores ∈ qs) (m_colo : Part.colo ∈ qs)  (ht : Touches qs sI s) :
    Touches qs sI (collFail s i code) := by
  unfold collFail
  (try dsimp only)
  (repeat' split) <;> simp (maxDischargeDepth := 40) only [ht, m_free, m_out, m_formes, m_gddr, m_tbl, m_coll, m_cores, m_colo, collRaise_touch, freeRange_touch, modSlot_touch, Touches.refl, touch_foldl, touch_ite, touch_cond, implies_true, and_self]

theorem collSend_touch {qs : List Part} {sI : State} (s : State) (i : Fin 8) (k : SpanPacket) (m_free : Part.free ∈ qs) (m_out : Part.out ∈ qs) (m_formes : Part.formes ∈ qs) (m_gddr : Part.gddr ∈ qs) (m_tbl : Part.tbl ∈ qs) (m_span : Part.span ∈ qs) (m_coll : Part.coll ∈ qs) (m_cores : Part.cores ∈ qs) (m_colo : Part.colo ∈ qs)  (ht : Touches qs sI s) :
    Touches qs sI (collSend s i k) := by
  unfold collSend
  (try dsimp only)
  (repeat' split) <;> simp (maxDischargeDepth := 40) only [ht, m_free, m_out, m_formes, m_gddr, m_tbl, m_span, m_coll, m_cores, m_colo, collFail_touch, spanSend_touch, Touches.refl, touch_foldl, touch_ite, touch_cond, implies_true, and_self]

theorem trySend_touch {qs : List Part} {sI : State} (i : Fin 8) (s : State) (n : Nat) (m_free : Part.free ∈ qs) (m_out : Part.out ∈ qs) (m_formes : Part.formes ∈ qs) (m_gddr : Part.gddr ∈ qs) (m_tbl : Part.tbl ∈ qs) (m_span : Part.span ∈ qs) (m_coll : Part.coll ∈ qs) (m_cores : Part.cores ∈ qs) (m_colo : Part.colo ∈ qs)  (ht : Touches qs sI s) :
    Touches qs sI (trySend i s n) := by
  unfold trySend
  (try dsimp only)
  (repeat' split) <;> simp (maxDischargeDepth := 40) only [ht, m_free, m_out, m_formes, m_gddr, m_tbl, m_span, m_coll, m_cores, m_colo, collSend_touch, modJob_touch, Touches.refl, touch_foldl, touch_ite, touch_cond, implies_true, and_self]

theorem collProgress_touch {qs : List Part} {sI : State} (s : State) (i : Fin 8) (m_free : Part.free ∈ qs) (m_out : Part.out ∈ qs) (m_formes : Part.formes ∈ qs) (m_gddr : Part.gddr ∈ qs) (m_tbl : Part.tbl ∈ qs) (m_span : Part.span ∈ qs) (m_coll : Part.coll ∈ qs) (m_cores : Part.cores ∈ qs) (m_colo : Part.colo ∈ qs)  (ht : Touches qs sI s) :
    Touches qs sI (collProgress s i) := by
  unfold collProgress
  (try dsimp only)
  (repeat' split) <;> simp (maxDischargeDepth := 40) only [ht, m_free, m_out, m_formes, m_gddr, m_tbl, m_span, m_coll, m_cores, m_colo, modJob_touch, trySend_touch, Touches.refl, touch_foldl, touch_ite, touch_cond, implies_true, and_self]

theorem takeAnn_touch {qs : List Part} {sI : State} (s : State) (i : Fin 8) (a : CollAnn) (m_free : Part.free ∈ qs) (m_out : Part.out ∈ qs) (m_formes : Part.formes ∈ qs) (m_gddr : Part.gddr ∈ qs) (m_tbl : Part.tbl ∈ qs) (m_span : Part.span ∈ qs) (m_coll : Part.coll ∈ qs) (m_cores : Part.cores ∈ qs) (m_colo : Part.colo ∈ qs)  (ht : Touches qs sI s) :
    Touches qs sI (takeAnn s i a) := by
  unfold takeAnn
  (try dsimp only)
  (repeat' split) <;> simp (maxDischargeDepth := 40) only [ht, m_free, m_out, m_formes, m_gddr, m_tbl, m_span, m_coll, m_cores, m_colo, collFail_touch, collProgress_touch, modJob_touch, Touches.refl, touch_foldl, touch_ite, touch_cond, implies_true, and_self]

theorem annEffect_touch {qs : List Part} {sI : State} (s : State) (k : SpanPacket) (m_free : Part.free ∈ qs) (m_out : Part.out ∈ qs) (m_formes : Part.formes ∈ qs) (m_gddr : Part.gddr ∈ qs) (m_tbl : Part.tbl ∈ qs) (m_span : Part.span ∈ qs) (m_coll : Part.coll ∈ qs) (m_cores : Part.cores ∈ qs) (m_colo : Part.colo ∈ qs)  (ht : Touches qs sI s) :
    Touches qs sI (annEffect s k) := by
  unfold annEffect
  (try dsimp only)
  (repeat' split) <;> simp (maxDischargeDepth := 40) only [ht, m_free, m_out, m_formes, m_gddr, m_tbl, m_span, m_coll, m_cores, m_colo, sendNack_touch, takeAnn_touch, touch_coll, Touches.refl, touch_foldl, touch_ite, touch_cond, implies_true, and_self]

theorem announceAll_touch {qs : List Part} {sI : State} (s : State) (i : Fin 8) (j : CollJob) (m_free : Part.free ∈ qs) (m_out : Part.out ∈ qs) (m_formes : Part.formes ∈ qs) (m_gddr : Part.gddr ∈ qs) (m_tbl : Part.tbl ∈ qs) (m_span : Part.span ∈ qs) (m_coll : Part.coll ∈ qs) (m_cores : Part.cores ∈ qs) (m_colo : Part.colo ∈ qs)  (ht : Touches qs sI s) :
    Touches qs sI (announceAll s i j) := by
  unfold announceAll
  (try dsimp only)
  (repeat' split) <;> simp (maxDischargeDepth := 40) only [ht, m_free, m_out, m_formes, m_gddr, m_tbl, m_span, m_coll, m_cores, m_colo, collSend_touch, Touches.refl, touch_foldl, touch_ite, touch_cond, implies_true, and_self]

theorem takeKept_touch {qs : List Part} {sI : State} (s : State) (i : Fin 8) (id : BitVec 32) (m_free : Part.free ∈ qs) (m_out : Part.out ∈ qs) (m_formes : Part.formes ∈ qs) (m_gddr : Part.gddr ∈ qs) (m_tbl : Part.tbl ∈ qs) (m_span : Part.span ∈ qs) (m_coll : Part.coll ∈ qs) (m_cores : Part.cores ∈ qs) (m_colo : Part.colo ∈ qs)  (ht : Touches qs sI s) :
    Touches qs sI (takeKept s i id) := by
  unfold takeKept
  (try dsimp only)
  (repeat' split) <;> simp (maxDischargeDepth := 40) only [ht, m_free, m_out, m_formes, m_gddr, m_tbl, m_span, m_coll, m_cores, m_colo, takeAnn_touch, touch_coll, Touches.refl, touch_foldl, touch_ite, touch_cond, implies_true, and_self]

theorem logCollRead_touch {qs : List Part} {sI : State} (s : State) (rs : List (Nat × Nat)) (m_out : Part.out ∈ qs) (m_formes : Part.formes ∈ qs) (m_gddr : Part.gddr ∈ qs) (m_imp : Part.imp ∈ qs) (m_fault : Part.fault ∈ qs) (m_colo : Part.colo ∈ qs) (m_flash : Part.flash ∈ qs)  (ht : Touches qs sI s) :
    Touches qs sI (logCollRead s rs) := by
  unfold logCollRead
  (try dsimp only)
  (repeat' split) <;> simp (maxDischargeDepth := 40) only [ht, m_out, m_formes, m_gddr, m_imp, m_fault, m_colo, m_flash, gddrError_touch, memoryError_touch, Touches.refl, touch_foldl, touch_ite, touch_cond, implies_true, and_self]

theorem collStart_touch {qs : List Part} {sI : State} (s : State) (i : Fin 8) (m_free : Part.free ∈ qs) (m_out : Part.out ∈ qs) (m_formes : Part.formes ∈ qs) (m_gddr : Part.gddr ∈ qs) (m_tbl : Part.tbl ∈ qs) (m_imp : Part.imp ∈ qs) (m_span : Part.span ∈ qs) (m_coll : Part.coll ∈ qs) (m_cores : Part.cores ∈ qs) (m_fault : Part.fault ∈ qs) (m_colo : Part.colo ∈ qs) (m_flash : Part.flash ∈ qs)  (ht : Touches qs sI s) :
    Touches qs sI (collStart s i) := by
  unfold collStart
  (try dsimp only)
  (repeat' split) <;> simp (maxDischargeDepth := 40) only [ht, m_free, m_out, m_formes, m_gddr, m_tbl, m_imp, m_span, m_coll, m_cores, m_fault, m_colo, m_flash, announceAll_touch, collFail_touch, collProgress_touch, logCollRead_touch, modSlot_touch, takeKept_touch, Touches.refl, touch_foldl, touch_ite, touch_cond, implies_true, and_self]

theorem writeColl_touch {qs : List Part} {sI : State} (s : State) (i : Fin 8) (v : Word) (m_free : Part.free ∈ qs) (m_out : Part.out ∈ qs) (m_formes : Part.formes ∈ qs) (m_gddr : Part.gddr ∈ qs) (m_tbl : Part.tbl ∈ qs) (m_imp : Part.imp ∈ qs) (m_span : Part.span ∈ qs) (m_coll : Part.coll ∈ qs) (m_cores : Part.cores ∈ qs) (m_fault : Part.fault ∈ qs) (m_colo : Part.colo ∈ qs) (m_flash : Part.flash ∈ qs)  (ht : Touches qs sI s) :
    Touches qs sI (writeColl s i v) := by
  unfold writeColl
  (try dsimp only)
  (repeat' split) <;> simp (maxDischargeDepth := 40) only [ht, m_free, m_out, m_formes, m_gddr, m_tbl, m_imp, m_span, m_coll, m_cores, m_fault, m_colo, m_flash, collStart_touch, modSlot_touch, Touches.refl, touch_foldl, touch_ite, touch_cond, implies_true, and_self]

theorem dataEffect_touch {qs : List Part} {sI : State} (s : State) (k : SpanPacket) (m_free : Part.free ∈ qs) (m_out : Part.out ∈ qs) (m_formes : Part.formes ∈ qs) (m_gddr : Part.gddr ∈ qs) (m_tbl : Part.tbl ∈ qs) (m_span : Part.span ∈ qs) (m_coll : Part.coll ∈ qs) (m_cores : Part.cores ∈ qs) (m_colo : Part.colo ∈ qs)  (ht : Touches qs sI s) :
    Touches qs sI (dataEffect s k) := by
  unfold dataEffect
  (try dsimp only)
  (repeat' split) <;> simp (maxDischargeDepth := 40) only [ht, m_free, m_out, m_formes, m_gddr, m_tbl, m_span, m_coll, m_cores, m_colo, collProgress_touch, modJob_touch, spanSend_touch, Touches.refl, touch_foldl, touch_ite, touch_cond, implies_true, and_self]

theorem repeatEffect_touch {qs : List Part} {sI : State} (s : State) (i : Fin 8) (peer : BitVec 12) (m_free : Part.free ∈ qs) (m_out : Part.out ∈ qs) (m_formes : Part.formes ∈ qs) (m_gddr : Part.gddr ∈ qs) (m_tbl : Part.tbl ∈ qs) (m_span : Part.span ∈ qs) (m_coll : Part.coll ∈ qs) (m_cores : Part.cores ∈ qs) (m_colo : Part.colo ∈ qs)  (ht : Touches qs sI s) :
    Touches qs sI (repeatEffect s i peer) := by
  unfold repeatEffect
  (try dsimp only)
  (repeat' split) <;> simp (maxDischargeDepth := 40) only [ht, m_free, m_out, m_formes, m_gddr, m_tbl, m_span, m_coll, m_cores, m_colo, collSend_touch, modJob_touch, Touches.refl, touch_foldl, touch_ite, touch_cond, implies_true, and_self]

theorem collDoneEffect_touch {qs : List Part} {sI : State} (s : State) (i : Fin 8) (m_out : Part.out ∈ qs) (m_formes : Part.formes ∈ qs) (m_gddr : Part.gddr ∈ qs) (m_tbl : Part.tbl ∈ qs) (m_coll : Part.coll ∈ qs) (m_cores : Part.cores ∈ qs) (m_colo : Part.colo ∈ qs)  (ht : Touches qs sI s) :
    Touches qs sI (collDoneEffect s i) := by
  unfold collDoneEffect
  (try dsimp only)
  (repeat' split) <;> simp (maxDischargeDepth := 40) only [ht, m_out, m_formes, m_gddr, m_tbl, m_coll, m_cores, m_colo, collRaise_touch, localPutAll_touch, modSlot_touch, signalMask_touch, Touches.refl, touch_foldl, touch_ite, touch_cond, implies_true, and_self]

theorem collAcked_touch {qs : List Part} {sI : State} (s : State) (k : SpanPacket) (m_coll : Part.coll ∈ qs)  (ht : Touches qs sI s) :
    Touches qs sI (collAcked s k) := by
  unfold collAcked
  (try dsimp only)
  (repeat' split) <;> simp (maxDischargeDepth := 40) only [ht, m_coll, modJob_touch, Touches.refl, touch_foldl, touch_ite, touch_cond, implies_true, and_self]

theorem collCorrupt_touch {qs : List Part} {sI : State} (s : State) (i : Fin 8) (j : CollJob) (k : SpanPacket) (m_free : Part.free ∈ qs) (m_out : Part.out ∈ qs) (m_formes : Part.formes ∈ qs) (m_gddr : Part.gddr ∈ qs) (m_tbl : Part.tbl ∈ qs) (m_span : Part.span ∈ qs) (m_coll : Part.coll ∈ qs) (m_cores : Part.cores ∈ qs) (m_fault : Part.fault ∈ qs) (m_colo : Part.colo ∈ qs) (m_flash : Part.flash ∈ qs)  (ht : Touches qs sI s) :
    Touches qs sI (collCorrupt s i j k) := by
  unfold collCorrupt
  (try dsimp only)
  (repeat' split) <;> simp (maxDischargeDepth := 40) only [ht, m_free, m_out, m_formes, m_gddr, m_tbl, m_span, m_coll, m_cores, m_fault, m_colo, m_flash, collSend_touch, logFault_touch, modJob_touch, Touches.refl, touch_foldl, touch_ite, touch_cond, implies_true, and_self]

theorem collNack_touch {qs : List Part} {sI : State} (s : State) (k : SpanPacket) (m_free : Part.free ∈ qs) (m_out : Part.out ∈ qs) (m_formes : Part.formes ∈ qs) (m_gddr : Part.gddr ∈ qs) (m_tbl : Part.tbl ∈ qs) (m_span : Part.span ∈ qs) (m_coll : Part.coll ∈ qs) (m_cores : Part.cores ∈ qs) (m_fault : Part.fault ∈ qs) (m_colo : Part.colo ∈ qs) (m_flash : Part.flash ∈ qs)  (ht : Touches qs sI s) :
    Touches qs sI (collNack s k) := by
  unfold collNack
  (try dsimp only)
  (repeat' split) <;> simp (maxDischargeDepth := 40) only [ht, m_free, m_out, m_formes, m_gddr, m_tbl, m_span, m_coll, m_cores, m_fault, m_colo, m_flash, collCorrupt_touch, collFail_touch, modJob_touch, repeatEffect_touch, Touches.refl, touch_foldl, touch_ite, touch_cond, implies_true, and_self]

theorem refuseAt_touch {qs : List Part} {sI : State} (s : State) (k : SpanPacket) (a : Nat) (r : Nack) (m_out : Part.out ∈ qs) (m_span : Part.span ∈ qs) (m_colo : Part.colo ∈ qs)  (ht : Touches qs sI s) :
    Touches qs sI (refuseAt s k a r) := by
  unfold refuseAt
  (try dsimp only)
  (repeat' split) <;> simp (maxDischargeDepth := 40) only [ht, m_out, m_span, m_colo, spanSend_touch, Touches.refl, touch_foldl, touch_ite, touch_cond, implies_true, and_self]

theorem partialSignal_touch {qs : List Part} {sI : State} (s : State) (x : Partial) (m_formes : Part.formes ∈ qs) (m_colo : Part.colo ∈ qs)  (ht : Touches qs sI s) :
    Touches qs sI (partialSignal s x) := by
  unfold partialSignal
  (try dsimp only)
  (repeat' split) <;> simp (maxDischargeDepth := 40) only [ht, m_formes, m_colo, remoteSignal_touch, Touches.refl, touch_foldl, touch_ite, touch_cond, implies_true, and_self]

theorem writePacketEffect_touch {qs : List Part} {sI : State} (s : State) (k : SpanPacket) (m_out : Part.out ∈ qs) (m_formes : Part.formes ∈ qs) (m_gddr : Part.gddr ∈ qs) (m_tbl : Part.tbl ∈ qs) (m_span : Part.span ∈ qs) (m_colo : Part.colo ∈ qs)  (ht : Touches qs sI s) :
    Touches qs sI (writePacketEffect s k) := by
  unfold writePacketEffect
  (try dsimp only)
  (repeat' split) <;> simp (maxDischargeDepth := 40) only [ht, m_out, m_formes, m_gddr, m_tbl, m_span, m_colo, localPutAll_touch, partialSignal_touch, refuseAt_touch, spanSend_touch, touch_span, Touches.refl, touch_foldl, touch_ite, touch_cond, implies_true, and_self]

theorem sendSealed_touch {qs : List Part} {sI : State} (s : State) (k : SpanPacket) (m_out : Part.out ∈ qs) (m_span : Part.span ∈ qs) (m_colo : Part.colo ∈ qs)  (ht : Touches qs sI s) :
    Touches qs sI (sendSealed s k) := by
  unfold sendSealed
  (try dsimp only)
  (repeat' split) <;> simp (maxDischargeDepth := 40) only [ht, m_out, m_span, m_colo, bumpEnt_touch, enqueuePort_touch, Touches.refl, touch_foldl, touch_ite, touch_cond, implies_true, and_self]

theorem logRemoteRead_touch {qs : List Part} {sI : State} (s : State) (e : ReadErr) (m_out : Part.out ∈ qs) (m_formes : Part.formes ∈ qs) (m_gddr : Part.gddr ∈ qs) (m_imp : Part.imp ∈ qs) (m_fault : Part.fault ∈ qs) (m_colo : Part.colo ∈ qs) (m_flash : Part.flash ∈ qs)  (ht : Touches qs sI s) :
    Touches qs sI (logRemoteRead s e) := by
  unfold logRemoteRead
  (try dsimp only)
  (repeat' split) <;> simp (maxDischargeDepth := 40) only [ht, m_out, m_formes, m_gddr, m_imp, m_fault, m_colo, m_flash, gddrError_touch, logFault_touch, memoryError_touch, Touches.refl, touch_foldl, touch_ite, touch_cond, implies_true, and_self]

theorem serveRead_touch {qs : List Part} {sI : State} (s : State) (k : SpanPacket) (n : Nat) (m_out : Part.out ∈ qs) (m_formes : Part.formes ∈ qs) (m_gddr : Part.gddr ∈ qs) (m_imp : Part.imp ∈ qs) (m_span : Part.span ∈ qs) (m_fault : Part.fault ∈ qs) (m_colo : Part.colo ∈ qs) (m_flash : Part.flash ∈ qs)  (ht : Touches qs sI s) :
    Touches qs sI (serveRead s k n) := by
  unfold serveRead
  (try dsimp only)
  (repeat' split) <;> simp (maxDischargeDepth := 40) only [ht, m_out, m_formes, m_gddr, m_imp, m_span, m_fault, m_colo, m_flash, logRemoteRead_touch, sendSealed_touch, touch_span, Touches.refl, touch_foldl, touch_ite, touch_cond, implies_true, and_self]

theorem readReqEffect_touch {qs : List Part} {sI : State} (s : State) (k : SpanPacket) (m_out : Part.out ∈ qs) (m_formes : Part.formes ∈ qs) (m_gddr : Part.gddr ∈ qs) (m_imp : Part.imp ∈ qs) (m_span : Part.span ∈ qs) (m_fault : Part.fault ∈ qs) (m_colo : Part.colo ∈ qs) (m_flash : Part.flash ∈ qs)  (ht : Touches qs sI s) :
    Touches qs sI (readReqEffect s k) := by
  unfold readReqEffect
  (try dsimp only)
  (repeat' split) <;> simp (maxDischargeDepth := 40) only [ht, m_out, m_formes, m_gddr, m_imp, m_span, m_fault, m_colo, m_flash, refuseAt_touch, serveRead_touch, Touches.refl, touch_foldl, touch_ite, touch_cond, implies_true, and_self]

theorem loadBytes_touch {qs : List Part} {sI : State} (s : State) (k : SpanPacket) (m_formes : Part.formes ∈ qs)  (ht : Touches qs sI s) :
    Touches qs sI (loadBytes s k) := by
  unfold loadBytes
  (try dsimp only)
  (repeat' split) <;> simp (maxDischargeDepth := 40) only [ht, m_formes, modForme_touch, Touches.refl, touch_foldl, touch_ite, touch_cond, implies_true, and_self]

theorem readRespEffect_touch {qs : List Part} {sI : State} (s : State) (k : SpanPacket) (m_free : Part.free ∈ qs) (m_out : Part.out ∈ qs) (m_formes : Part.formes ∈ qs) (m_gddr : Part.gddr ∈ qs) (m_tbl : Part.tbl ∈ qs) (m_proof : Part.proof ∈ qs) (m_imp : Part.imp ∈ qs) (m_span : Part.span ∈ qs) (m_abut : Part.abut ∈ qs) (m_cores : Part.cores ∈ qs) (m_fault : Part.fault ∈ qs) (m_colo : Part.colo ∈ qs) (m_flash : Part.flash ∈ qs)  (ht : Touches qs sI s) :
    Touches qs sI (readRespEffect s k) := by
  unfold readRespEffect
  (try dsimp only)
  (repeat' split) <;> simp (maxDischargeDepth := 40) only [ht, m_free, m_out, m_formes, m_gddr, m_tbl, m_proof, m_imp, m_span, m_abut, m_cores, m_fault, m_colo, m_flash, loadBytes_touch, pieceArrived_touch, pumpCopies_touch, Touches.refl, touch_foldl, touch_ite, touch_cond, implies_true, and_self]

theorem respNack_touch {qs : List Part} {sI : State} (s : State) (k : SpanPacket) (m_out : Part.out ∈ qs) (m_span : Part.span ∈ qs) (m_colo : Part.colo ∈ qs)  (ht : Touches qs sI s) :
    Touches qs sI (respNack s k) := by
  unfold respNack
  (try dsimp only)
  (repeat' split) <;> simp (maxDischargeDepth := 40) only [ht, m_out, m_span, m_colo, spanSend_touch, Touches.refl, touch_foldl, touch_ite, touch_cond, implies_true, and_self]

theorem loadCorrupt_touch {qs : List Part} {sI : State} (s : State) (f : FormeIx) (l : FtLoad) (k : SpanPacket) (m_out : Part.out ∈ qs) (m_formes : Part.formes ∈ qs) (m_imp : Part.imp ∈ qs) (m_span : Part.span ∈ qs) (m_fault : Part.fault ∈ qs) (m_colo : Part.colo ∈ qs) (m_flash : Part.flash ∈ qs)  (ht : Touches qs sI s) :
    Touches qs sI (loadCorrupt s f l k) := by
  unfold loadCorrupt
  (try dsimp only)
  (repeat' split) <;> simp (maxDischargeDepth := 40) only [ht, m_out, m_formes, m_imp, m_span, m_fault, m_colo, m_flash, dropLoad_touch, logFault_touch, modForme_touch, respNack_touch, storedAbort_touch, Touches.refl, touch_foldl, touch_ite, touch_cond, implies_true, and_self]

theorem respCorrupt_touch {qs : List Part} {sI : State} (s : State) (k : SpanPacket) (m_out : Part.out ∈ qs) (m_formes : Part.formes ∈ qs) (m_imp : Part.imp ∈ qs) (m_span : Part.span ∈ qs) (m_abut : Part.abut ∈ qs) (m_fault : Part.fault ∈ qs) (m_colo : Part.colo ∈ qs) (m_flash : Part.flash ∈ qs)  (ht : Touches qs sI s) :
    Touches qs sI (respCorrupt s k) := by
  unfold respCorrupt
  (try dsimp only)
  (repeat' split) <;> simp (maxDischargeDepth := 40) only [ht, m_out, m_formes, m_imp, m_span, m_abut, m_fault, m_colo, m_flash, dropCopy_touch, loadCorrupt_touch, logFault_touch, modCar_touch, respNack_touch, storedAbort_touch, Touches.refl, touch_foldl, touch_ite, touch_cond, implies_true, and_self]

theorem ackEffect_touch {qs : List Part} {sI : State} (s : State) (k : SpanPacket) (m_formes : Part.formes ∈ qs) (m_coll : Part.coll ∈ qs)  (ht : Touches qs sI s) :
    Touches qs sI (ackEffect s k) := by
  unfold ackEffect
  (try dsimp only)
  (repeat' split) <;> simp (maxDischargeDepth := 40) only [ht, m_formes, m_coll, collAcked_touch, copyAcked_touch, Touches.refl, touch_foldl, touch_ite, touch_cond, implies_true, and_self]

theorem serveAgain_touch {qs : List Part} {sI : State} (s : State) (k : SpanPacket) (m_out : Part.out ∈ qs) (m_formes : Part.formes ∈ qs) (m_gddr : Part.gddr ∈ qs) (m_imp : Part.imp ∈ qs) (m_span : Part.span ∈ qs) (m_fault : Part.fault ∈ qs) (m_colo : Part.colo ∈ qs) (m_flash : Part.flash ∈ qs)  (ht : Touches qs sI s) :
    Touches qs sI (serveAgain s k) := by
  unfold serveAgain
  (try dsimp only)
  (repeat' split) <;> simp (maxDischargeDepth := 40) only [ht, m_out, m_formes, m_gddr, m_imp, m_span, m_fault, m_colo, m_flash, serveRead_touch, Touches.refl, touch_foldl, touch_ite, touch_cond, implies_true, and_self]

theorem loadNack_touch {qs : List Part} {sI : State} (s : State) (k : SpanPacket) (m_out : Part.out ∈ qs) (m_formes : Part.formes ∈ qs) (m_imp : Part.imp ∈ qs) (m_span : Part.span ∈ qs) (m_colo : Part.colo ∈ qs)  (ht : Touches qs sI s) :
    Touches qs sI (loadNack s k) := by
  unfold loadNack
  (try dsimp only)
  (repeat' split) <;> simp (maxDischargeDepth := 40) only [ht, m_out, m_formes, m_imp, m_span, m_colo, dropLoad_touch, progError_touch, spanSend_touch, Touches.refl, touch_foldl, touch_ite, touch_cond, implies_true, and_self]

theorem nackEffect_touch {qs : List Part} {sI : State} (s : State) (k : SpanPacket) (m_free : Part.free ∈ qs) (m_out : Part.out ∈ qs) (m_formes : Part.formes ∈ qs) (m_gddr : Part.gddr ∈ qs) (m_tbl : Part.tbl ∈ qs) (m_imp : Part.imp ∈ qs) (m_bars : Part.bars ∈ qs) (m_span : Part.span ∈ qs) (m_coll : Part.coll ∈ qs) (m_abut : Part.abut ∈ qs) (m_cores : Part.cores ∈ qs) (m_fault : Part.fault ∈ qs) (m_colo : Part.colo ∈ qs) (m_flash : Part.flash ∈ qs)  (ht : Touches qs sI s) :
    Touches qs sI (nackEffect s k) := by
  unfold nackEffect
  (try dsimp only)
  (repeat' split) <;> simp (maxDischargeDepth := 40) only [ht, m_free, m_out, m_formes, m_gddr, m_tbl, m_imp, m_bars, m_span, m_coll, m_abut, m_cores, m_fault, m_colo, m_flash, collNack_touch, copyCorrupt_touch, ethNack_touch, failCopy_touch, keystoneNack_touch, loadNack_touch, pumpCopies_touch, serveAgain_touch, Touches.refl, touch_foldl, touch_ite, touch_cond, implies_true, and_self]

end Sys2Proof
end

