-- ==== Sys2Proof/Laws/TouchSystem.lean ====
section
/-! SUPPORT. What each operation of faults, registers, update, security, start, power and the Colophon agent leaves unchanged: one lemma each, `f_touch` -/

namespace Sys2Proof

open Machine

set_option maxRecDepth 4000
set_option linter.unusedSimpArgs false
set_option linter.unusedVariables false

theorem lineCheck_touch {qs : List Part} {sI : State} (s : State) (f : FormeIx) (a : Nat) (bad : Bool) (m_out : Part.out ∈ qs) (m_formes : Part.formes ∈ qs) (m_fault : Part.fault ∈ qs) (m_colo : Part.colo ∈ qs) (m_flash : Part.flash ∈ qs)  (ht : Touches qs sI s) :
    Touches qs sI (lineCheck s f a bad) := by
  unfold lineCheck
  (try dsimp only)
  (repeat' split) <;> simp (maxDischargeDepth := 40) only [ht, m_out, m_formes, m_fault, m_colo, m_flash, logFault_touch, modForme_touch, Touches.refl, touch_foldl, touch_ite, touch_cond, implies_true, and_self]

theorem lineCheckEffect_touch {qs : List Part} {sI : State} (s : State) (f : FormeIx) (stuck : List (Nat × Byte)) (m_out : Part.out ∈ qs) (m_formes : Part.formes ∈ qs) (m_fault : Part.fault ∈ qs) (m_colo : Part.colo ∈ qs) (m_flash : Part.flash ∈ qs)  (ht : Touches qs sI s) :
    Touches qs sI (lineCheckEffect s f stuck) := by
  unfold lineCheckEffect
  (try dsimp only)
  (repeat' split) <;> simp (maxDischargeDepth := 40) only [ht, m_out, m_formes, m_fault, m_colo, m_flash, lineCheck_touch, Touches.refl, touch_foldl, touch_ite, touch_cond, implies_true, and_self]

theorem leakEffect_touch {qs : List Part} {sI : State} (s : State) (c : Fin 12) (m_fault : Part.fault ∈ qs)  (ht : Touches qs sI s) :
    Touches qs sI (leakEffect s c) := by
  unfold leakEffect
  (try dsimp only)
  (repeat' split) <;> simp (maxDischargeDepth := 40) only [ht, m_fault, touch_fault, Touches.refl, touch_foldl, touch_ite, touch_cond, implies_true, and_self]

theorem writeLogCtrl_touch {qs : List Part} {sI : State} (s : State) (v : Word) (m_fault : Part.fault ∈ qs)  (ht : Touches qs sI s) :
    Touches qs sI (writeLogCtrl s v) := by
  unfold writeLogCtrl
  (try dsimp only)
  (repeat' split) <;> simp (maxDischargeDepth := 40) only [ht, m_fault, touch_fault, Touches.refl, touch_foldl, touch_ite, touch_cond, implies_true, and_self]

theorem writeBuckets_touch {qs : List Part} {sI : State} (s : State) (v : Word) (m_fault : Part.fault ∈ qs)  (ht : Touches qs sI s) :
    Touches qs sI (writeBuckets s v) := by
  unfold writeBuckets
  (try dsimp only)
  (repeat' split) <;> simp (maxDischargeDepth := 40) only [ht, m_fault, touch_fault, Touches.refl, touch_foldl, touch_ite, touch_cond, implies_true, and_self]

theorem writeIntCtrl_touch {qs : List Part} {sI : State} (s : State) (v : Word) (m_fault : Part.fault ∈ qs)  (ht : Touches qs sI s) :
    Touches qs sI (writeIntCtrl s v) := by
  unfold writeIntCtrl
  (try dsimp only)
  (repeat' split) <;> simp (maxDischargeDepth := 40) only [ht, m_fault, touch_fault, Touches.refl, touch_foldl, touch_ite, touch_cond, implies_true, and_self]

theorem writeFence_touch {qs : List Part} {sI : State} (s : State) (v : Word) (m_out : Part.out ∈ qs) (m_formes : Part.formes ∈ qs) (m_span : Part.span ∈ qs) (m_abut : Part.abut ∈ qs) (m_cores : Part.cores ∈ qs) (m_svc : Part.svc ∈ qs) (m_fault : Part.fault ∈ qs) (m_colo : Part.colo ∈ qs) (m_boot : Part.boot ∈ qs) (m_flash : Part.flash ∈ qs) (m_pwr : Part.pwr ∈ qs)  (ht : Touches qs sI s) :
    Touches qs sI (writeFence s v) := by
  unfold writeFence
  (try dsimp only)
  (repeat' split) <;> simp (maxDischargeDepth := 40) only [ht, m_out, m_formes, m_span, m_abut, m_cores, m_svc, m_fault, m_colo, m_boot, m_flash, m_pwr, fenceDie_touch, Touches.refl, touch_foldl, touch_ite, touch_cond, implies_true, and_self]

theorem holdLinks_touch {qs : List Part} {sI : State} (s : State) (d : Nat) (m_span : Part.span ∈ qs)  (ht : Touches qs sI s) :
    Touches qs sI (holdLinks s d) := by
  unfold holdLinks
  (try dsimp only)
  (repeat' split) <;> simp (maxDischargeDepth := 40) only [ht, m_span, modPort_touch, Touches.refl, touch_foldl, touch_ite, touch_cond, implies_true, and_self]

theorem nextMaster_touch {qs : List Part} {sI : State} (s : State) (d : Nat) (m_tb : Part.tb ∈ qs)  (ht : Touches qs sI s) :
    Touches qs sI (nextMaster s d) := by
  unfold nextMaster
  (try dsimp only)
  (repeat' split) <;> simp (maxDischargeDepth := 40) only [ht, m_tb, touch_tb, Touches.refl, touch_foldl, touch_ite, touch_cond, implies_true, and_self]

theorem mirrorDieLost_touch {qs : List Part} {sI : State} (s : State) (d : Nat) (m_out : Part.out ∈ qs) (m_log : Part.log ∈ qs) (m_cores : Part.cores ∈ qs) (m_colo : Part.colo ∈ qs)  (ht : Touches qs sI s) :
    Touches qs sI (mirrorDieLost s d) := by
  unfold mirrorDieLost
  (try dsimp only)
  (repeat' split) <;> simp (maxDischargeDepth := 40) only [ht, m_out, m_log, m_cores, m_colo, raise_touch, touch_log, Touches.refl, touch_foldl, touch_ite, touch_cond, implies_true, and_self]

theorem peerFenced_touch {qs : List Part} {sI : State} (s : State) (d : Fin 8) (reason : BitVec 3) (m_free : Part.free ∈ qs) (m_out : Part.out ∈ qs) (m_tb : Part.tb ∈ qs) (m_tbl : Part.tbl ∈ qs) (m_log : Part.log ∈ qs) (m_span : Part.span ∈ qs) (m_abut : Part.abut ∈ qs) (m_cores : Part.cores ∈ qs) (m_svc : Part.svc ∈ qs) (m_fault : Part.fault ∈ qs) (m_colo : Part.colo ∈ qs)  (ht : Touches qs sI s) :
    Touches qs sI (peerFenced s d reason) := by
  unfold peerFenced
  (try dsimp only)
  (repeat' split) <;> simp (maxDischargeDepth := 40) only [ht, m_free, m_out, m_tb, m_tbl, m_log, m_span, m_abut, m_cores, m_svc, m_fault, m_colo, dropPartials_touch, holdLinks_touch, mirrorDieLost_touch, nextMaster_touch, raise_touch, servicesLoseDie_touch, updateRoutes_touch, updateServer_touch, touch_fault, Touches.refl, touch_foldl, touch_ite, touch_cond, implies_true, and_self]

theorem checkUnitFails_touch {qs : List Part} {sI : State} (s : State) (m_free : Part.free ∈ qs) (m_check : Part.check ∈ qs)  (ht : Touches qs sI s) :
    Touches qs sI (checkUnitFails s) := by
  unfold checkUnitFails
  (try dsimp only)
  (repeat' split) <;> simp (maxDischargeDepth := 40) only [ht, m_free, m_check, useFree_touch, touch_check, Touches.refl, touch_foldl, touch_ite, touch_cond, implies_true, and_self]

theorem checkEnds_touch {qs : List Part} {sI : State} (s : State) (m_free : Part.free ∈ qs) (m_out : Part.out ∈ qs) (m_formes : Part.formes ∈ qs) (m_gddr : Part.gddr ∈ qs) (m_imp : Part.imp ∈ qs) (m_fault : Part.fault ∈ qs) (m_check : Part.check ∈ qs) (m_colo : Part.colo ∈ qs) (m_flash : Part.flash ∈ qs)  (ht : Touches qs sI s) :
    Touches qs sI (checkEnds s) := by
  unfold checkEnds
  (try dsimp only)
  (repeat' split) <;> simp (maxDischargeDepth := 40) only [ht, m_free, m_out, m_formes, m_gddr, m_imp, m_fault, m_check, m_colo, m_flash, checkUnitFails_touch, logRemoteRead_touch, touch_check, Touches.refl, touch_foldl, touch_ite, touch_cond, implies_true, and_self]

theorem regReadEffect_touch {qs : List Part} {sI : State} (s : State) (r : RegAddr) (m_formes : Part.formes ∈ qs) (m_proof : Part.proof ∈ qs) (m_span : Part.span ∈ qs) (ht : Touches qs sI s) :
    Touches qs sI (regReadEffect s r) := by
  cases r <;> unfold regReadEffect <;> dsimp only <;> (repeat' split) <;>
    simp (maxDischargeDepth := 40) only [modForme_touch, modPort_touch, touch_proof, *]

theorem mmioRead_touch {qs : List Part} {sI : State} (s : State) (a : Nat) (m_formes : Part.formes ∈ qs) (m_proof : Part.proof ∈ qs) (m_span : Part.span ∈ qs)  (ht : Touches qs sI s) :
    Touches qs sI (mmioRead s a).2 := by
  unfold mmioRead
  (try dsimp only)
  (repeat' split) <;> simp (maxDischargeDepth := 40) only [ht, m_formes, m_proof, m_span, regReadEffect_touch, Touches.refl, touch_foldl, touch_ite, touch_cond, implies_true, and_self]

theorem setUpdate_touch {qs : List Part} {sI : State} (s : State) (st : UpdState) (result : BitVec 8) (m_out : Part.out ∈ qs) (m_colo : Part.colo ∈ qs) (m_upd : Part.upd ∈ qs)  (ht : Touches qs sI s) :
    Touches qs sI (setUpdate s st result) := by
  unfold setUpdate
  (try dsimp only)
  (repeat' split) <;> simp (maxDischargeDepth := 40) only [ht, m_out, m_colo, m_upd, notifyEvent_touch, touch_upd, Touches.refl, touch_foldl, touch_ite, touch_cond, implies_true, and_self]

theorem setInactive_touch {qs : List Part} {sI : State} (s : State) (x : SlotImage) (m_flash : Part.flash ∈ qs)  (ht : Touches qs sI s) :
    Touches qs sI (setInactive s x) := by
  unfold setInactive
  (try dsimp only)
  (repeat' split) <;> simp (maxDischargeDepth := 40) only [ht, m_flash, touch_flash, Touches.refl, touch_foldl, touch_ite, touch_cond, implies_true, and_self]

theorem beginUpdate_touch {qs : List Part} {sI : State} (s : State) (m_out : Part.out ∈ qs) (m_colo : Part.colo ∈ qs) (m_flash : Part.flash ∈ qs) (m_upd : Part.upd ∈ qs)  (ht : Touches qs sI s) :
    Touches qs sI (beginUpdate s) := by
  unfold beginUpdate
  (try dsimp only)
  (repeat' split) <;> simp (maxDischargeDepth := 40) only [ht, m_out, m_colo, m_flash, m_upd, setInactive_touch, setUpdate_touch, touch_upd, Touches.refl, touch_foldl, touch_ite, touch_cond, implies_true, and_self]

theorem verifyUpdate_touch {qs : List Part} {sI : State} (s : State) (m_out : Part.out ∈ qs) (m_colo : Part.colo ∈ qs) (m_upd : Part.upd ∈ qs)  (ht : Touches qs sI s) :
    Touches qs sI (verifyUpdate s) := by
  unfold verifyUpdate
  (try dsimp only)
  (repeat' split) <;> simp (maxDischargeDepth := 40) only [ht, m_out, m_colo, m_upd, setUpdate_touch, Touches.refl, touch_foldl, touch_ite, touch_cond, implies_true, and_self]

theorem activateUpdate_touch {qs : List Part} {sI : State} (s : State) (m_out : Part.out ∈ qs) (m_colo : Part.colo ∈ qs) (m_flash : Part.flash ∈ qs) (m_upd : Part.upd ∈ qs)  (ht : Touches qs sI s) :
    Touches qs sI (activateUpdate s) := by
  unfold activateUpdate
  (try dsimp only)
  (repeat' split) <;> simp (maxDischargeDepth := 40) only [ht, m_out, m_colo, m_flash, m_upd, setUpdate_touch, touch_flash, Touches.refl, touch_foldl, touch_ite, touch_cond, implies_true, and_self]

theorem commitUpdate_touch {qs : List Part} {sI : State} (s : State) (m_out : Part.out ∈ qs) (m_colo : Part.colo ∈ qs) (m_flash : Part.flash ∈ qs) (m_upd : Part.upd ∈ qs)  (ht : Touches qs sI s) :
    Touches qs sI (commitUpdate s) := by
  unfold commitUpdate
  (try dsimp only)
  (repeat' split) <;> simp (maxDischargeDepth := 40) only [ht, m_out, m_colo, m_flash, m_upd, setUpdate_touch, touch_flash, Touches.refl, touch_foldl, touch_ite, touch_cond, implies_true, and_self]

theorem abandonUpdate_touch {qs : List Part} {sI : State} (s : State) (m_out : Part.out ∈ qs) (m_colo : Part.colo ∈ qs) (m_flash : Part.flash ∈ qs) (m_upd : Part.upd ∈ qs)  (ht : Touches qs sI s) :
    Touches qs sI (abandonUpdate s) := by
  unfold abandonUpdate
  (try dsimp only)
  (repeat' split) <;> simp (maxDischargeDepth := 40) only [ht, m_out, m_colo, m_flash, m_upd, setUpdate_touch, touch_flash, Touches.refl, touch_foldl, touch_ite, touch_cond, implies_true, and_self]

theorem updateCmd_touch {qs : List Part} {sI : State} (s : State) (v : Nat) (m_out : Part.out ∈ qs) (m_colo : Part.colo ∈ qs) (m_flash : Part.flash ∈ qs) (m_upd : Part.upd ∈ qs)  (ht : Touches qs sI s) :
    Touches qs sI (updateCmd s v) := by
  unfold updateCmd
  (try dsimp only)
  (repeat' split) <;> simp (maxDischargeDepth := 40) only [ht, m_out, m_colo, m_flash, m_upd, abandonUpdate_touch, activateUpdate_touch, beginUpdate_touch, commitUpdate_touch, verifyUpdate_touch, Touches.refl, touch_foldl, touch_ite, touch_cond, implies_true, and_self]

theorem receivePiece_touch {qs : List Part} {sI : State} (s : State) (bs : List Byte) (m_flash : Part.flash ∈ qs)  (ht : Touches qs sI s) :
    Touches qs sI (receivePiece s bs) := by
  unfold receivePiece
  (try dsimp only)
  (repeat' split) <;> simp (maxDischargeDepth := 40) only [ht, m_flash, setInactive_touch, Touches.refl, touch_foldl, touch_ite, touch_cond, implies_true, and_self]

theorem setOct_touch {qs : List Part} {sI : State} (s : State) (idx sub : Nat) (bs : List Byte) (m_colo : Part.colo ∈ qs)  (ht : Touches qs sI s) :
    Touches qs sI (setOct s idx sub bs) := by
  unfold setOct
  (try dsimp only)
  (repeat' split) <;> simp (maxDischargeDepth := 40) only [ht, m_colo, touch_colo, Touches.refl, touch_foldl, touch_ite, touch_cond, implies_true, and_self]

theorem startSave_touch {qs : List Part} {sI : State} (s : State) (v : Nat) (m_colo : Part.colo ∈ qs)  (ht : Touches qs sI s) :
    Touches qs sI (startSave s v) := by
  unfold startSave
  (try dsimp only)
  (repeat' split) <;> simp (maxDischargeDepth := 40) only [ht, m_colo, touch_colo, Touches.refl, touch_foldl, touch_ite, touch_cond, implies_true, and_self]

theorem endSave_touch {qs : List Part} {sI : State} (s : State) (m_colo : Part.colo ∈ qs) (m_flash : Part.flash ∈ qs)  (ht : Touches qs sI s) :
    Touches qs sI (endSave s) := by
  unfold endSave
  (try dsimp only)
  (repeat' split) <;> simp (maxDischargeDepth := 40) only [ht, m_colo, m_flash, touch_colo_flash, Touches.refl, touch_foldl, touch_ite, touch_cond, implies_true, and_self]

theorem writeOperatorKey_touch {qs : List Part} {sI : State} (s : State) (slot : Nat) (key : List Byte) (m_colo : Part.colo ∈ qs) (m_flash : Part.flash ∈ qs)  (ht : Touches qs sI s) :
    Touches qs sI (writeOperatorKey s slot key) := by
  unfold writeOperatorKey
  (try dsimp only)
  (repeat' split) <;> simp (maxDischargeDepth := 40) only [ht, m_colo, m_flash, setOct_touch, touch_flash, Touches.refl, touch_foldl, touch_ite, touch_cond, implies_true, and_self]

theorem returnPrep_touch {qs : List Part} {sI : State} (s : State) (m_colo : Part.colo ∈ qs) (m_flash : Part.flash ∈ qs)  (ht : Touches qs sI s) :
    Touches qs sI (returnPrep s) := by
  unfold returnPrep
  (try dsimp only)
  (repeat' split) <;> simp (maxDischargeDepth := 40) only [ht, m_colo, m_flash, touch_colo_flash, Touches.refl, touch_foldl, touch_ite, touch_cond, implies_true, and_self]

theorem clearAlarms_touch {qs : List Part} {sI : State} (s : State) (v : Nat) (m_sec : Part.sec ∈ qs)  (ht : Touches qs sI s) :
    Touches qs sI (clearAlarms s v) := by
  unfold clearAlarms
  (try dsimp only)
  (repeat' split) <;> simp (maxDischargeDepth := 40) only [ht, m_sec, touch_sec, Touches.refl, touch_foldl, touch_ite, touch_cond, implies_true, and_self]

theorem attest_touch {qs : List Part} {sI : State} (s : State) (nonce : List Byte) (m_colo : Part.colo ∈ qs) (m_sec : Part.sec ∈ qs)  (ht : Touches qs sI s) :
    Touches qs sI (attest s nonce) := by
  unfold attest
  (try dsimp only)
  (repeat' split) <;> simp (maxDischargeDepth := 40) only [ht, m_colo, m_sec, setOct_touch, touch_sec, Touches.refl, touch_foldl, touch_ite, touch_cond, implies_true, and_self]

theorem newNonce_touch {qs : List Part} {sI : State} (s : State) (m_free : Part.free ∈ qs) (m_sec : Part.sec ∈ qs)  (ht : Touches qs sI s) :
    Touches qs sI (newNonce s) := by
  unfold newNonce
  (try dsimp only)
  (repeat' split) <;> simp (maxDischargeDepth := 40) only [ht, m_free, m_sec, useFree_touch, touch_sec, Touches.refl, touch_foldl, touch_ite, touch_cond, implies_true, and_self]

theorem unlock_touch {qs : List Part} {sI : State} (s : State) (level : Nat) (m_span : Part.span ∈ qs) (m_colo : Part.colo ∈ qs) (m_sec : Part.sec ∈ qs)  (ht : Touches qs sI s) :
    Touches qs sI (unlock s level) := by
  unfold unlock
  (try dsimp only)
  (repeat' split) <;> simp (maxDischargeDepth := 40) only [ht, m_span, m_colo, m_sec, eraseKeys_touch, touch_sec, Touches.refl, touch_foldl, touch_ite, touch_cond, implies_true, and_self]

theorem unlockRefused_touch {qs : List Part} {sI : State} (s : State) (m_out : Part.out ∈ qs) (m_formes : Part.formes ∈ qs) (m_span : Part.span ∈ qs) (m_abut : Part.abut ∈ qs) (m_cores : Part.cores ∈ qs) (m_svc : Part.svc ∈ qs) (m_fault : Part.fault ∈ qs) (m_colo : Part.colo ∈ qs) (m_boot : Part.boot ∈ qs) (m_flash : Part.flash ∈ qs) (m_sec : Part.sec ∈ qs) (m_pwr : Part.pwr ∈ qs)  (ht : Touches qs sI s) :
    Touches qs sI (unlockRefused s) := by
  unfold unlockRefused
  (try dsimp only)
  (repeat' split) <;> simp (maxDischargeDepth := 40) only [ht, m_out, m_formes, m_span, m_abut, m_cores, m_svc, m_fault, m_colo, m_boot, m_flash, m_sec, m_pwr, securityAlarm_touch, Touches.refl, touch_foldl, touch_ite, touch_cond, implies_true, and_self]

theorem resetDie_touch {qs : List Part} {sI : State} (s : State) (cause : BitVec 2) (m_free : Part.free ∈ qs) (m_out : Part.out ∈ qs) (m_tb : Part.tb ∈ qs) (m_formes : Part.formes ∈ qs) (m_gddr : Part.gddr ∈ qs) (m_tbl : Part.tbl ∈ qs) (m_proof : Part.proof ∈ qs) (m_imp : Part.imp ∈ qs) (m_bars : Part.bars ∈ qs) (m_log : Part.log ∈ qs) (m_span : Part.span ∈ qs) (m_coll : Part.coll ∈ qs) (m_abut : Part.abut ∈ qs) (m_cores : Part.cores ∈ qs) (m_svc : Part.svc ∈ qs) (m_fault : Part.fault ∈ qs) (m_check : Part.check ∈ qs) (m_colo : Part.colo ∈ qs) (m_boot : Part.boot ∈ qs) (m_flash : Part.flash ∈ qs) (m_upd : Part.upd ∈ qs) (m_sec : Part.sec ∈ qs) (m_pwr : Part.pwr ∈ qs) (ht : Touches qs sI s) :
    Touches qs sI (resetDie s cause) := by
  refine ht.trans ?_
  intro p hp
  cases p <;> first | contradiction | rfl

theorem dieRestart_touch {qs : List Part} {sI : State} (s : State) (v : Nat) (m_free : Part.free ∈ qs) (m_out : Part.out ∈ qs) (m_tb : Part.tb ∈ qs) (m_formes : Part.formes ∈ qs) (m_gddr : Part.gddr ∈ qs) (m_tbl : Part.tbl ∈ qs) (m_proof : Part.proof ∈ qs) (m_imp : Part.imp ∈ qs) (m_bars : Part.bars ∈ qs) (m_log : Part.log ∈ qs) (m_span : Part.span ∈ qs) (m_coll : Part.coll ∈ qs) (m_abut : Part.abut ∈ qs) (m_cores : Part.cores ∈ qs) (m_svc : Part.svc ∈ qs) (m_fault : Part.fault ∈ qs) (m_check : Part.check ∈ qs) (m_colo : Part.colo ∈ qs) (m_boot : Part.boot ∈ qs) (m_flash : Part.flash ∈ qs) (m_upd : Part.upd ∈ qs) (m_sec : Part.sec ∈ qs) (m_pwr : Part.pwr ∈ qs)  (ht : Touches qs sI s) :
    Touches qs sI (dieRestart s v) := by
  unfold dieRestart
  (try dsimp only)
  (repeat' split) <;> simp (maxDischargeDepth := 40) only [ht, m_free, m_out, m_tb, m_formes, m_gddr, m_tbl, m_proof, m_imp, m_bars, m_log, m_span, m_coll, m_abut, m_cores, m_svc, m_fault, m_check, m_colo, m_boot, m_flash, m_upd, m_sec, m_pwr, resetDie_touch, touch_flash, Touches.refl, touch_foldl, touch_ite, touch_cond, implies_true, and_self]

theorem enterFalsework_touch {qs : List Part} {sI : State} (s : State) (rom : Bool) (m_boot : Part.boot ∈ qs) (m_pwr : Part.pwr ∈ qs)  (ht : Touches qs sI s) :
    Touches qs sI (enterFalsework s rom) := by
  unfold enterFalsework
  (try dsimp only)
  (repeat' split) <;> simp (maxDischargeDepth := 40) only [ht, m_boot, m_pwr, touch_boot_pwr, Touches.refl, touch_foldl, touch_ite, touch_cond, implies_true, and_self]

theorem beginStage_touch {qs : List Part} {sI : State} (s : State) (done next : BitVec 8) (m_boot : Part.boot ∈ qs)  (ht : Touches qs sI s) :
    Touches qs sI (beginStage s done next) := by
  unfold beginStage
  (try dsimp only)
  (repeat' split) <;> simp (maxDischargeDepth := 40) only [ht, m_boot, touch_boot, Touches.refl, touch_foldl, touch_ite, touch_cond, implies_true, and_self]

theorem romStage_touch {qs : List Part} {sI : State} (s : State) (b : Bool) (m_boot : Part.boot ∈ qs) (m_flash : Part.flash ∈ qs) (m_upd : Part.upd ∈ qs) (m_pwr : Part.pwr ∈ qs)  (ht : Touches qs sI s) :
    Touches qs sI (romStage s b) := by
  unfold romStage
  (try dsimp only)
  (repeat' split) <;> simp (maxDischargeDepth := 40) only [ht, m_boot, m_flash, m_upd, m_pwr, beginStage_touch, enterFalsework_touch, touch_boot_flash_upd, Touches.refl, touch_foldl, touch_ite, touch_cond, implies_true, and_self]

theorem keyStage_touch {qs : List Part} {sI : State} (s : State) (r : StageReport) (m_out : Part.out ∈ qs) (m_formes : Part.formes ∈ qs) (m_span : Part.span ∈ qs) (m_abut : Part.abut ∈ qs) (m_cores : Part.cores ∈ qs) (m_svc : Part.svc ∈ qs) (m_fault : Part.fault ∈ qs) (m_colo : Part.colo ∈ qs) (m_boot : Part.boot ∈ qs) (m_flash : Part.flash ∈ qs) (m_sec : Part.sec ∈ qs) (m_pwr : Part.pwr ∈ qs)  (ht : Touches qs sI s) :
    Touches qs sI (keyStage s r) := by
  unfold keyStage
  (try dsimp only)
  (repeat' split) <;> simp (maxDischargeDepth := 40) only [ht, m_out, m_formes, m_span, m_abut, m_cores, m_svc, m_fault, m_colo, m_boot, m_flash, m_sec, m_pwr, beginStage_touch, securityAlarm_touch, touch_sec_pwr, Touches.refl, touch_foldl, touch_ite, touch_cond, implies_true, and_self]

theorem applySaved_touch {qs : List Part} {sI : State} (s : State) (m_colo : Part.colo ∈ qs)  (ht : Touches qs sI s) :
    Touches qs sI (applySaved s) := by
  unfold applySaved
  (try dsimp only)
  (repeat' split) <;> simp (maxDischargeDepth := 40) only [ht, m_colo, touch_colo, Touches.refl, touch_foldl, touch_ite, touch_cond, implies_true, and_self]

theorem dropTrial_touch {qs : List Part} {sI : State} (s : State) (m_out : Part.out ∈ qs) (m_colo : Part.colo ∈ qs) (m_flash : Part.flash ∈ qs) (m_upd : Part.upd ∈ qs)  (ht : Touches qs sI s) :
    Touches qs sI (dropTrial s) := by
  unfold dropTrial
  (try dsimp only)
  (repeat' split) <;> simp (maxDischargeDepth := 40) only [ht, m_out, m_colo, m_flash, m_upd, setUpdate_touch, touch_flash_upd, Touches.refl, touch_foldl, touch_ite, touch_cond, implies_true, and_self]

theorem configStage_touch {qs : List Part} {sI : State} (s : State) (m_out : Part.out ∈ qs) (m_colo : Part.colo ∈ qs) (m_boot : Part.boot ∈ qs) (m_flash : Part.flash ∈ qs) (m_upd : Part.upd ∈ qs)  (ht : Touches qs sI s) :
    Touches qs sI (configStage s) := by
  unfold configStage
  (try dsimp only)
  (repeat' split) <;> simp (maxDischargeDepth := 40) only [ht, m_out, m_colo, m_boot, m_flash, m_upd, applySaved_touch, beginStage_touch, dropTrial_touch, touch_boot, Touches.refl, touch_foldl, touch_ite, touch_cond, implies_true, and_self]

theorem bistStage_touch {qs : List Part} {sI : State} (s : State) (r : StageReport) (m_formes : Part.formes ∈ qs) (m_boot : Part.boot ∈ qs)  (ht : Touches qs sI s) :
    Touches qs sI (bistStage s r) := by
  unfold bistStage
  (try dsimp only)
  (repeat' split) <;> simp (maxDischargeDepth := 40) only [ht, m_formes, m_boot, beginStage_touch, touch_formes, Touches.refl, touch_foldl, touch_ite, touch_cond, implies_true, and_self]

theorem memoryStage_touch {qs : List Part} {sI : State} (s : State) (m_gddr : Part.gddr ∈ qs) (m_boot : Part.boot ∈ qs)  (ht : Touches qs sI s) :
    Touches qs sI (memoryStage s) := by
  unfold memoryStage
  (try dsimp only)
  (repeat' split) <;> simp (maxDischargeDepth := 40) only [ht, m_gddr, m_boot, beginStage_touch, touch_gddr, Touches.refl, touch_foldl, touch_ite, touch_cond, implies_true, and_self]

theorem joinModule_touch {qs : List Part} {sI : State} (s : State) (m_tb : Part.tb ∈ qs) (m_span : Part.span ∈ qs)  (ht : Touches qs sI s) :
    Touches qs sI (joinModule s) := by
  unfold joinModule
  (try dsimp only)
  (repeat' split) <;> simp (maxDischargeDepth := 40) only [ht, m_tb, m_span, touch_tb_span, Touches.refl, touch_foldl, touch_ite, touch_cond, implies_true, and_self]

theorem runtimeStage_touch {qs : List Part} {sI : State} (s : State) (m_boot : Part.boot ∈ qs) (m_flash : Part.flash ∈ qs) (m_pwr : Part.pwr ∈ qs)  (ht : Touches qs sI s) :
    Touches qs sI (runtimeStage s) := by
  unfold runtimeStage
  (try dsimp only)
  (repeat' split) <;> simp (maxDischargeDepth := 40) only [ht, m_boot, m_flash, m_pwr, touch_boot_flash_pwr, Touches.refl, touch_foldl, touch_ite, touch_cond, implies_true, and_self]

theorem stageDone_touch {qs : List Part} {sI : State} (s : State) (r : StageReport) (m_out : Part.out ∈ qs) (m_tb : Part.tb ∈ qs) (m_formes : Part.formes ∈ qs) (m_gddr : Part.gddr ∈ qs) (m_span : Part.span ∈ qs) (m_abut : Part.abut ∈ qs) (m_cores : Part.cores ∈ qs) (m_svc : Part.svc ∈ qs) (m_fault : Part.fault ∈ qs) (m_colo : Part.colo ∈ qs) (m_boot : Part.boot ∈ qs) (m_flash : Part.flash ∈ qs) (m_upd : Part.upd ∈ qs) (m_sec : Part.sec ∈ qs) (m_pwr : Part.pwr ∈ qs)  (ht : Touches qs sI s) :
    Touches qs sI (stageDone s r) := by
  unfold stageDone
  (try dsimp only)
  (repeat' split) <;> simp (maxDischargeDepth := 40) only [ht, m_out, m_tb, m_formes, m_gddr, m_span, m_abut, m_cores, m_svc, m_fault, m_colo, m_boot, m_flash, m_upd, m_sec, m_pwr, bistStage_touch, configStage_touch, joinModule_touch, keyStage_touch, memoryStage_touch, romStage_touch, runtimeStage_touch, Touches.refl, touch_foldl, touch_ite, touch_cond, implies_true, and_self]

theorem stageFail_touch {qs : List Part} {sI : State} (s : State) (m_free : Part.free ∈ qs) (m_out : Part.out ∈ qs) (m_tb : Part.tb ∈ qs) (m_formes : Part.formes ∈ qs) (m_gddr : Part.gddr ∈ qs) (m_tbl : Part.tbl ∈ qs) (m_proof : Part.proof ∈ qs) (m_imp : Part.imp ∈ qs) (m_bars : Part.bars ∈ qs) (m_log : Part.log ∈ qs) (m_span : Part.span ∈ qs) (m_coll : Part.coll ∈ qs) (m_abut : Part.abut ∈ qs) (m_cores : Part.cores ∈ qs) (m_svc : Part.svc ∈ qs) (m_fault : Part.fault ∈ qs) (m_check : Part.check ∈ qs) (m_colo : Part.colo ∈ qs) (m_boot : Part.boot ∈ qs) (m_flash : Part.flash ∈ qs) (m_upd : Part.upd ∈ qs) (m_sec : Part.sec ∈ qs) (m_pwr : Part.pwr ∈ qs)  (ht : Touches qs sI s) :
    Touches qs sI (stageFail s) := by
  unfold stageFail
  (try dsimp only)
  (repeat' split) <;> simp (maxDischargeDepth := 40) only [ht, m_free, m_out, m_tb, m_formes, m_gddr, m_tbl, m_proof, m_imp, m_bars, m_log, m_span, m_coll, m_abut, m_cores, m_svc, m_fault, m_check, m_colo, m_boot, m_flash, m_upd, m_sec, m_pwr, enterFalsework_touch, resetDie_touch, touch_boot_flash, touch_flash, Touches.refl, touch_foldl, touch_ite, touch_cond, implies_true, and_self]

theorem powerOff_touch {qs : List Part} {sI : State} (s : State) (p : Power) (m_free : Part.free ∈ qs) (m_out : Part.out ∈ qs) (m_tb : Part.tb ∈ qs) (m_formes : Part.formes ∈ qs) (m_gddr : Part.gddr ∈ qs) (m_tbl : Part.tbl ∈ qs) (m_proof : Part.proof ∈ qs) (m_imp : Part.imp ∈ qs) (m_bars : Part.bars ∈ qs) (m_log : Part.log ∈ qs) (m_span : Part.span ∈ qs) (m_coll : Part.coll ∈ qs) (m_abut : Part.abut ∈ qs) (m_cores : Part.cores ∈ qs) (m_svc : Part.svc ∈ qs) (m_fault : Part.fault ∈ qs) (m_check : Part.check ∈ qs) (m_colo : Part.colo ∈ qs) (m_boot : Part.boot ∈ qs) (m_flash : Part.flash ∈ qs) (m_upd : Part.upd ∈ qs) (m_sec : Part.sec ∈ qs) (m_pwr : Part.pwr ∈ qs) (ht : Touches qs sI s) :
    Touches qs sI (powerOff s p) := by
  refine ht.trans ?_
  intro p hp
  cases p <;> first | contradiction | rfl

theorem railsUp_touch {qs : List Part} {sI : State} (s : State) (m_free : Part.free ∈ qs) (m_out : Part.out ∈ qs) (m_tb : Part.tb ∈ qs) (m_formes : Part.formes ∈ qs) (m_gddr : Part.gddr ∈ qs) (m_tbl : Part.tbl ∈ qs) (m_proof : Part.proof ∈ qs) (m_imp : Part.imp ∈ qs) (m_bars : Part.bars ∈ qs) (m_log : Part.log ∈ qs) (m_span : Part.span ∈ qs) (m_coll : Part.coll ∈ qs) (m_abut : Part.abut ∈ qs) (m_cores : Part.cores ∈ qs) (m_svc : Part.svc ∈ qs) (m_fault : Part.fault ∈ qs) (m_check : Part.check ∈ qs) (m_colo : Part.colo ∈ qs) (m_boot : Part.boot ∈ qs) (m_flash : Part.flash ∈ qs) (m_upd : Part.upd ∈ qs) (m_sec : Part.sec ∈ qs) (m_pwr : Part.pwr ∈ qs)  (ht : Touches qs sI s) :
    Touches qs sI (railsUp s) := by
  unfold railsUp
  (try dsimp only)
  (repeat' split) <;> simp (maxDischargeDepth := 40) only [ht, m_free, m_out, m_tb, m_formes, m_gddr, m_tbl, m_proof, m_imp, m_bars, m_log, m_span, m_coll, m_abut, m_cores, m_svc, m_fault, m_check, m_colo, m_boot, m_flash, m_upd, m_sec, m_pwr, resetDie_touch, touch_pwr, Touches.refl, touch_foldl, touch_ite, touch_cond, implies_true, and_self]

theorem railStep_touch {qs : List Part} {sI : State} (s : State) (m_free : Part.free ∈ qs) (m_out : Part.out ∈ qs) (m_tb : Part.tb ∈ qs) (m_formes : Part.formes ∈ qs) (m_gddr : Part.gddr ∈ qs) (m_tbl : Part.tbl ∈ qs) (m_proof : Part.proof ∈ qs) (m_imp : Part.imp ∈ qs) (m_bars : Part.bars ∈ qs) (m_log : Part.log ∈ qs) (m_span : Part.span ∈ qs) (m_coll : Part.coll ∈ qs) (m_abut : Part.abut ∈ qs) (m_cores : Part.cores ∈ qs) (m_svc : Part.svc ∈ qs) (m_fault : Part.fault ∈ qs) (m_check : Part.check ∈ qs) (m_colo : Part.colo ∈ qs) (m_boot : Part.boot ∈ qs) (m_flash : Part.flash ∈ qs) (m_upd : Part.upd ∈ qs) (m_sec : Part.sec ∈ qs) (m_pwr : Part.pwr ∈ qs)  (ht : Touches qs sI s) :
    Touches qs sI (railStep s) := by
  unfold railStep
  (try dsimp only)
  (repeat' split) <;> simp (maxDischargeDepth := 40) only [ht, m_free, m_out, m_tb, m_formes, m_gddr, m_tbl, m_proof, m_imp, m_bars, m_log, m_span, m_coll, m_abut, m_cores, m_svc, m_fault, m_check, m_colo, m_boot, m_flash, m_upd, m_sec, m_pwr, railsUp_touch, touch_pwr, Touches.refl, touch_foldl, touch_ite, touch_cond, implies_true, and_self]

theorem inputEffect_touch {qs : List Part} {sI : State} (s : State) (mv : Nat) (m_pwr : Part.pwr ∈ qs)  (ht : Touches qs sI s) :
    Touches qs sI (inputEffect s mv) := by
  unfold inputEffect
  (try dsimp only)
  (repeat' split) <;> simp (maxDischargeDepth := 40) only [ht, m_pwr, touch_pwr, Touches.refl, touch_foldl, touch_ite, touch_cond, implies_true, and_self]

theorem railFault_touch {qs : List Part} {sI : State} (s : State) (d : Fin 8) (m_free : Part.free ∈ qs) (m_out : Part.out ∈ qs) (m_tb : Part.tb ∈ qs) (m_formes : Part.formes ∈ qs) (m_gddr : Part.gddr ∈ qs) (m_tbl : Part.tbl ∈ qs) (m_proof : Part.proof ∈ qs) (m_imp : Part.imp ∈ qs) (m_bars : Part.bars ∈ qs) (m_log : Part.log ∈ qs) (m_span : Part.span ∈ qs) (m_coll : Part.coll ∈ qs) (m_abut : Part.abut ∈ qs) (m_cores : Part.cores ∈ qs) (m_svc : Part.svc ∈ qs) (m_fault : Part.fault ∈ qs) (m_check : Part.check ∈ qs) (m_colo : Part.colo ∈ qs) (m_boot : Part.boot ∈ qs) (m_flash : Part.flash ∈ qs) (m_upd : Part.upd ∈ qs) (m_sec : Part.sec ∈ qs) (m_pwr : Part.pwr ∈ qs)  (ht : Touches qs sI s) :
    Touches qs sI (railFault s d) := by
  unfold railFault
  (try dsimp only)
  (repeat' split) <;> simp (maxDischargeDepth := 40) only [ht, m_free, m_out, m_tb, m_formes, m_gddr, m_tbl, m_proof, m_imp, m_bars, m_log, m_span, m_coll, m_abut, m_cores, m_svc, m_fault, m_check, m_colo, m_boot, m_flash, m_upd, m_sec, m_pwr, peerFenced_touch, powerOff_touch, touch_pwr, Touches.refl, touch_foldl, touch_ite, touch_cond, implies_true, and_self]

theorem riseSources_touch {qs : List Part} {sI : State} (s : State) (src : BitVec 6) (m_out : Part.out ∈ qs) (m_formes : Part.formes ∈ qs) (m_span : Part.span ∈ qs) (m_abut : Part.abut ∈ qs) (m_cores : Part.cores ∈ qs) (m_svc : Part.svc ∈ qs) (m_fault : Part.fault ∈ qs) (m_colo : Part.colo ∈ qs) (m_boot : Part.boot ∈ qs) (m_flash : Part.flash ∈ qs) (m_sec : Part.sec ∈ qs) (m_pwr : Part.pwr ∈ qs)  (ht : Touches qs sI s) :
    Touches qs sI (riseSources s src) := by
  unfold riseSources
  (try dsimp only)
  (repeat' split) <;> simp (maxDischargeDepth := 40) only [ht, m_out, m_formes, m_span, m_abut, m_cores, m_svc, m_fault, m_colo, m_boot, m_flash, m_sec, m_pwr, securityAlarm_touch, touch_sec, Touches.refl, touch_foldl, touch_ite, touch_cond, implies_true, and_self]

theorem thermalSampleEffect_touch {qs : List Part} {sI : State} (s : State) (dieMc memMc : Int) (m_out : Part.out ∈ qs) (m_formes : Part.formes ∈ qs) (m_imp : Part.imp ∈ qs) (m_span : Part.span ∈ qs) (m_abut : Part.abut ∈ qs) (m_cores : Part.cores ∈ qs) (m_svc : Part.svc ∈ qs) (m_fault : Part.fault ∈ qs) (m_colo : Part.colo ∈ qs) (m_boot : Part.boot ∈ qs) (m_flash : Part.flash ∈ qs) (m_sec : Part.sec ∈ qs) (m_pwr : Part.pwr ∈ qs)  (ht : Touches qs sI s) :
    Touches qs sI (thermalSampleEffect s dieMc memMc) := by
  unfold thermalSampleEffect
  (try dsimp only)
  (repeat' split) <;> simp (maxDischargeDepth := 40) only [ht, m_out, m_formes, m_imp, m_span, m_abut, m_cores, m_svc, m_fault, m_colo, m_boot, m_flash, m_sec, m_pwr, fenceDie_touch, riseSources_touch, thermalEffect_touch, touch_sec, Touches.refl, touch_foldl, touch_ite, touch_cond, implies_true, and_self]

theorem enclEffect_touch {qs : List Part} {sI : State} (s : State) (level : Bool) (m_out : Part.out ∈ qs) (m_formes : Part.formes ∈ qs) (m_span : Part.span ∈ qs) (m_abut : Part.abut ∈ qs) (m_cores : Part.cores ∈ qs) (m_svc : Part.svc ∈ qs) (m_fault : Part.fault ∈ qs) (m_colo : Part.colo ∈ qs) (m_boot : Part.boot ∈ qs) (m_flash : Part.flash ∈ qs) (m_sec : Part.sec ∈ qs) (m_pwr : Part.pwr ∈ qs) (ht : Touches qs sI s) :
    Touches qs sI (enclEffect s level) := by
  have h1 := touch_pwr m_pwr ht (v0 := { s.pwr with enclOpen := level })
  unfold enclEffect
  dsimp only
  split
  · exact h1
  · split
    · exact riseSources_touch _ _ (by assumption) (by assumption) (by assumption) (by assumption) (by assumption) (by assumption)
        (by assumption) (by assumption) (by assumption) (by assumption) (by assumption) (by assumption) h1
    · exact touch_sec m_sec h1

theorem setIr_touch {qs : List Part} {sI : State} (s : State) (ir : Byte) (m_sec : Part.sec ∈ qs)  (ht : Touches qs sI s) :
    Touches qs sI (setIr s ir) := by
  unfold setIr
  (try dsimp only)
  (repeat' split) <;> simp (maxDischargeDepth := 40) only [ht, m_sec, touch_sec, Touches.refl, touch_foldl, touch_ite, touch_cond, implies_true, and_self]

theorem bypass_touch {qs : List Part} {sI : State} (s : State) (ir : Byte) (m_out : Part.out ∈ qs) (m_sec : Part.sec ∈ qs)  (ht : Touches qs sI s) :
    Touches qs sI (bypass s ir) := by
  unfold bypass
  (try dsimp only)
  (repeat' split) <;> simp (maxDischargeDepth := 40) only [ht, m_out, m_sec, emit_touch, setIr_touch, Touches.refl, touch_foldl, touch_ite, touch_cond, implies_true, and_self]

theorem idcode_touch {qs : List Part} {sI : State} (s : State) (m_out : Part.out ∈ qs) (m_sec : Part.sec ∈ qs)  (ht : Touches qs sI s) :
    Touches qs sI (idcode s) := by
  unfold idcode
  (try dsimp only)
  (repeat' split) <;> simp (maxDischargeDepth := 40) only [ht, m_out, m_sec, emit_touch, setIr_touch, Touches.refl, touch_foldl, touch_ite, touch_cond, implies_true, and_self]

theorem debugRead_touch {qs : List Part} {sI : State} (s : State) (dr : BitVec 104) (m_free : Part.free ∈ qs) (m_out : Part.out ∈ qs) (m_formes : Part.formes ∈ qs) (m_proof : Part.proof ∈ qs) (m_span : Part.span ∈ qs) (m_sec : Part.sec ∈ qs)  (ht : Touches qs sI s) :
    Touches qs sI (debugRead s dr) := by
  unfold debugRead
  (try dsimp only)
  (repeat' split) <;> simp (maxDischargeDepth := 40) only [ht, m_free, m_out, m_formes, m_proof, m_span, m_sec, emit_touch, mmioRead_touch, setIr_touch, useFree_touch, touch_sec, Touches.refl, touch_foldl, touch_ite, touch_cond, implies_true, and_self]

theorem debugEffect_touch {qs : List Part} {sI : State} (s : State) (ir : Byte) (dr : BitVec 104) (m_free : Part.free ∈ qs) (m_out : Part.out ∈ qs) (m_formes : Part.formes ∈ qs) (m_proof : Part.proof ∈ qs) (m_span : Part.span ∈ qs) (m_abut : Part.abut ∈ qs) (m_cores : Part.cores ∈ qs) (m_svc : Part.svc ∈ qs) (m_fault : Part.fault ∈ qs) (m_colo : Part.colo ∈ qs) (m_boot : Part.boot ∈ qs) (m_flash : Part.flash ∈ qs) (m_sec : Part.sec ∈ qs) (m_pwr : Part.pwr ∈ qs)  (ht : Touches qs sI s) :
    Touches qs sI (debugEffect s ir dr) := by
  unfold debugEffect
  (try dsimp only)
  (repeat' split) <;> simp (maxDischargeDepth := 40) only [ht, m_free, m_out, m_formes, m_proof, m_span, m_abut, m_cores, m_svc, m_fault, m_colo, m_boot, m_flash, m_sec, m_pwr, bypass_touch, debugRead_touch, idcode_touch, securityAlarm_touch, Touches.refl, touch_foldl, touch_ite, touch_cond, implies_true, and_self]

theorem lowerLevel_touch {qs : List Part} {sI : State} (s : State) (idx v : Nat) (m_fault : Part.fault ∈ qs)  (ht : Touches qs sI s) :
    Touches qs sI (lowerLevel s idx v) := by
  unfold lowerLevel
  (try dsimp only)
  (repeat' split) <;> simp (maxDischargeDepth := 40) only [ht, m_fault, touch_fault, Touches.refl, touch_foldl, touch_ite, touch_cond, implies_true, and_self]

theorem applyNum_touch {qs : List Part} {sI : State} (s : State) (idx sub v : Nat) (m_out : Part.out ∈ qs) (m_proof : Part.proof ∈ qs) (m_log : Part.log ∈ qs) (m_svc : Part.svc ∈ qs) (m_fault : Part.fault ∈ qs) (m_colo : Part.colo ∈ qs) (m_flash : Part.flash ∈ qs) (m_upd : Part.upd ∈ qs) (m_sec : Part.sec ∈ qs)  (ht : Touches qs sI s) :
    Touches qs sI (applyNum s idx sub v) := by
  unfold applyNum
  (try dsimp only)
  (repeat' split) <;> simp (maxDischargeDepth := 40) only [ht, m_out, m_proof, m_log, m_svc, m_fault, m_colo, m_flash, m_upd, m_sec, clearAlarms_touch, lowerLevel_touch, requestClose_touch, returnPrep_touch, setEnt_touch, startSave_touch, svcStart_touch, svcStop_touch, updateCmd_touch, touch_log, touch_upd, Touches.refl, touch_foldl, touch_ite, touch_cond, implies_true, and_self]

theorem applyOct_touch {qs : List Part} {sI : State} (s : State) (idx sub : Nat) (bs : List Byte) (m_free : Part.free ∈ qs) (m_colo : Part.colo ∈ qs) (m_flash : Part.flash ∈ qs) (m_sec : Part.sec ∈ qs)  (ht : Touches qs sI s) :
    Touches qs sI (applyOct s idx sub bs) := by
  unfold applyOct
  (try dsimp only)
  (repeat' split) <;> simp (maxDischargeDepth := 40) only [ht, m_free, m_colo, m_flash, m_sec, attest_touch, newNonce_touch, setOct_touch, writeOperatorKey_touch, Touches.refl, touch_foldl, touch_ite, touch_cond, implies_true, and_self]

theorem applyWrite_touch {qs : List Part} {sI : State} (s : State) (e : EntSpec) (idx sub : Nat) (bs : List Byte) (m_free : Part.free ∈ qs) (m_out : Part.out ∈ qs) (m_proof : Part.proof ∈ qs) (m_log : Part.log ∈ qs) (m_svc : Part.svc ∈ qs) (m_fault : Part.fault ∈ qs) (m_colo : Part.colo ∈ qs) (m_flash : Part.flash ∈ qs) (m_upd : Part.upd ∈ qs) (m_sec : Part.sec ∈ qs)  (ht : Touches qs sI s) :
    Touches qs sI (applyWrite s e idx sub bs) := by
  unfold applyWrite
  (try dsimp only)
  (repeat' split) <;> simp (maxDischargeDepth := 40) only [ht, m_free, m_out, m_proof, m_log, m_svc, m_fault, m_colo, m_flash, m_upd, m_sec, applyNum_touch, applyOct_touch, Touches.refl, touch_foldl, touch_ite, touch_cond, implies_true, and_self]

theorem refusedWrite_touch {qs : List Part} {sI : State} (s : State) (idx sub : Nat) (m_free : Part.free ∈ qs) (m_out : Part.out ∈ qs) (m_formes : Part.formes ∈ qs) (m_span : Part.span ∈ qs) (m_abut : Part.abut ∈ qs) (m_cores : Part.cores ∈ qs) (m_svc : Part.svc ∈ qs) (m_fault : Part.fault ∈ qs) (m_colo : Part.colo ∈ qs) (m_boot : Part.boot ∈ qs) (m_flash : Part.flash ∈ qs) (m_sec : Part.sec ∈ qs) (m_pwr : Part.pwr ∈ qs)  (ht : Touches qs sI s) :
    Touches qs sI (refusedWrite s idx sub) := by
  unfold refusedWrite
  (try dsimp only)
  (repeat' split) <;> simp (maxDischargeDepth := 40) only [ht, m_free, m_out, m_formes, m_span, m_abut, m_cores, m_svc, m_fault, m_colo, m_boot, m_flash, m_sec, m_pwr, newNonce_touch, unlockRefused_touch, Touches.refl, touch_foldl, touch_ite, touch_cond, implies_true, and_self]

theorem writeEntry_touch {qs : List Part} {sI : State} (s : State) (a : Asker) (idx sub typ vlen : Nat) (bs : List Byte) (m_free : Part.free ∈ qs) (m_out : Part.out ∈ qs) (m_formes : Part.formes ∈ qs) (m_gddr : Part.gddr ∈ qs) (m_proof : Part.proof ∈ qs) (m_log : Part.log ∈ qs) (m_span : Part.span ∈ qs) (m_abut : Part.abut ∈ qs) (m_cores : Part.cores ∈ qs) (m_svc : Part.svc ∈ qs) (m_fault : Part.fault ∈ qs) (m_colo : Part.colo ∈ qs) (m_boot : Part.boot ∈ qs) (m_flash : Part.flash ∈ qs) (m_upd : Part.upd ∈ qs) (m_sec : Part.sec ∈ qs) (m_pwr : Part.pwr ∈ qs)
    (ht : Touches qs sI s) : Touches qs sI (writeEntry s a idx sub typ vlen bs).2.1 := by
  unfold writeEntry
  split
  · split
    · rename_i t heq
      have hx : Touches qs sI t := by
        split at heq
        · exact recordInput_touch heq (by assumption) (by assumption) (by assumption) ht
        · injection heq with heq; subst heq; exact ht
      simp (maxDischargeDepth := 40) only [applyWrite_touch, *]
    · exact ht
  · simp (maxDischargeDepth := 40) only [refusedWrite_touch, *]
  · exact ht

theorem closeSession_touch {qs : List Part} {sI : State} (s : State) (id : BitVec 32) (m_colo : Part.colo ∈ qs)  (ht : Touches qs sI s) :
    Touches qs sI (closeSession s id) := by
  unfold closeSession
  (try dsimp only)
  (repeat' split) <;> simp (maxDischargeDepth := 40) only [ht, m_colo, touch_colo, Touches.refl, touch_foldl, touch_ite, touch_cond, implies_true, and_self]

theorem doAfter_touch {qs : List Part} {sI : State} (s : State) (x : After) (m_free : Part.free ∈ qs) (m_out : Part.out ∈ qs) (m_tb : Part.tb ∈ qs) (m_formes : Part.formes ∈ qs) (m_gddr : Part.gddr ∈ qs) (m_tbl : Part.tbl ∈ qs) (m_proof : Part.proof ∈ qs) (m_imp : Part.imp ∈ qs) (m_bars : Part.bars ∈ qs) (m_log : Part.log ∈ qs) (m_span : Part.span ∈ qs) (m_coll : Part.coll ∈ qs) (m_abut : Part.abut ∈ qs) (m_cores : Part.cores ∈ qs) (m_svc : Part.svc ∈ qs) (m_fault : Part.fault ∈ qs) (m_check : Part.check ∈ qs) (m_colo : Part.colo ∈ qs) (m_boot : Part.boot ∈ qs) (m_flash : Part.flash ∈ qs) (m_upd : Part.upd ∈ qs) (m_sec : Part.sec ∈ qs) (m_pwr : Part.pwr ∈ qs)  (ht : Touches qs sI s) :
    Touches qs sI (doAfter s x) := by
  unfold doAfter
  (try dsimp only)
  (repeat' split) <;> simp (maxDischargeDepth := 40) only [ht, m_free, m_out, m_tb, m_formes, m_gddr, m_tbl, m_proof, m_imp, m_bars, m_log, m_span, m_coll, m_abut, m_cores, m_svc, m_fault, m_check, m_colo, m_boot, m_flash, m_upd, m_sec, m_pwr, closeSession_touch, dieRestart_touch, fenceDie_touch, unlock_touch, Touches.refl, touch_foldl, touch_ite, touch_cond, implies_true, and_self]

theorem refuseMsg_touch {qs : List Part} {sI : State} (s : State) (c : CStat)   (ht : Touches qs sI s) :
    Touches qs sI (refuseMsg s c).st := by
  unfold refuseMsg
  (try dsimp only)
  (repeat' split) <;> simp (maxDischargeDepth := 40) only [ht, Touches.refl, touch_foldl, touch_ite, touch_cond, implies_true, and_self]

theorem handleRead_touch {qs : List Part} {sI : State} (s : State) (b : List Byte)   (ht : Touches qs sI s) :
    Touches qs sI (handleRead s b).st := by
  unfold handleRead
  (try dsimp only)
  (repeat' split) <;> simp (maxDischargeDepth := 40) only [ht, refuseMsg_touch, Touches.refl, touch_foldl, touch_ite, touch_cond, implies_true, and_self]

theorem writeItems_touch {qs : List Part} {sI : State} (a : Asker) (s : State) (l : List WItem) (m_free : Part.free ∈ qs) (m_out : Part.out ∈ qs) (m_formes : Part.formes ∈ qs) (m_gddr : Part.gddr ∈ qs) (m_proof : Part.proof ∈ qs) (m_log : Part.log ∈ qs) (m_span : Part.span ∈ qs) (m_abut : Part.abut ∈ qs) (m_cores : Part.cores ∈ qs) (m_svc : Part.svc ∈ qs) (m_fault : Part.fault ∈ qs) (m_colo : Part.colo ∈ qs) (m_boot : Part.boot ∈ qs) (m_flash : Part.flash ∈ qs) (m_upd : Part.upd ∈ qs) (m_sec : Part.sec ∈ qs) (m_pwr : Part.pwr ∈ qs) (ht : Touches qs sI s) :
    Touches qs sI (writeItems a s l).2.2.1 := by
  induction l generalizing s with
  | nil => exact ht
  | cons x t ih =>
    unfold writeItems
    dsimp only
    apply ih
    simp (maxDischargeDepth := 40) only [writeEntry_touch, *]

theorem handleWrite_touch {qs : List Part} {sI : State} (s : State) (a : Asker) (b : List Byte) (m_free : Part.free ∈ qs) (m_out : Part.out ∈ qs) (m_formes : Part.formes ∈ qs) (m_gddr : Part.gddr ∈ qs) (m_proof : Part.proof ∈ qs) (m_log : Part.log ∈ qs) (m_span : Part.span ∈ qs) (m_abut : Part.abut ∈ qs) (m_cores : Part.cores ∈ qs) (m_svc : Part.svc ∈ qs) (m_fault : Part.fault ∈ qs) (m_colo : Part.colo ∈ qs) (m_boot : Part.boot ∈ qs) (m_flash : Part.flash ∈ qs) (m_upd : Part.upd ∈ qs) (m_sec : Part.sec ∈ qs) (m_pwr : Part.pwr ∈ qs)  (ht : Touches qs sI s) :
    Touches qs sI (handleWrite s a b).st := by
  unfold handleWrite
  (try dsimp only)
  (repeat' split) <;> simp (maxDischargeDepth := 40) only [ht, m_free, m_out, m_formes, m_gddr, m_proof, m_log, m_span, m_abut, m_cores, m_svc, m_fault, m_colo, m_boot, m_flash, m_upd, m_sec, m_pwr, refuseMsg_touch, writeItems_touch, Touches.refl, touch_foldl, touch_ite, touch_cond, implies_true, and_self]

theorem handleReadBlock_touch {qs : List Part} {sI : State} (s : State) (b : List Byte)   (ht : Touches qs sI s) :
    Touches qs sI (handleReadBlock s b).st := by
  unfold handleReadBlock
  (try dsimp only)
  (repeat' split) <;> simp (maxDischargeDepth := 40) only [ht, refuseMsg_touch, Touches.refl, touch_foldl, touch_ite, touch_cond, implies_true, and_self]

theorem handleWriteBlock_touch {qs : List Part} {sI : State} (s : State) (a : Asker) (b : List Byte) (m_flash : Part.flash ∈ qs)  (ht : Touches qs sI s) :
    Touches qs sI (handleWriteBlock s a b).st := by
  unfold handleWriteBlock
  (try dsimp only)
  (repeat' split) <;> simp (maxDischargeDepth := 40) only [ht, m_flash, receivePiece_touch, refuseMsg_touch, Touches.refl, touch_foldl, touch_ite, touch_cond, implies_true, and_self]

theorem renewSub_touch {qs : List Part} {sI : State} (s : State) (key : ClientKey) (c : ColoMsg) (mask ack : Nat) (m_colo : Part.colo ∈ qs)  (ht : Touches qs sI s) :
    Touches qs sI (renewSub s key c mask ack) := by
  unfold renewSub
  (try dsimp only)
  (repeat' split) <;> simp (maxDischargeDepth := 40) only [ht, m_colo, touch_colo, Touches.refl, touch_foldl, touch_ite, touch_cond, implies_true, and_self]

theorem addSub_touch {qs : List Part} {sI : State} (s : State) (key : ClientKey) (c : ColoMsg) (mask : Nat) (m_colo : Part.colo ∈ qs)  (ht : Touches qs sI s) :
    Touches qs sI (addSub s key c mask) := by
  unfold addSub
  (try dsimp only)
  (repeat' split) <;> simp (maxDischargeDepth := 40) only [ht, m_colo, touch_colo, Touches.refl, touch_foldl, touch_ite, touch_cond, implies_true, and_self]

theorem handleNotify_touch {qs : List Part} {sI : State} (s : State) (a : Asker) (m : ColoMsg) (m_out : Part.out ∈ qs) (m_span : Part.span ∈ qs) (m_abut : Part.abut ∈ qs) (m_colo : Part.colo ∈ qs)  (ht : Touches qs sI s) :
    Touches qs sI (handleNotify s a m).st := by
  unfold handleNotify
  (try dsimp only)
  (repeat' split) <;> simp (maxDischargeDepth := 40) only [ht, m_out, m_span, m_abut, m_colo, addSub_touch, answer_touch, refuseMsg_touch, renewSub_touch, Touches.refl, touch_foldl, touch_ite, touch_cond, implies_true, and_self]

theorem openSession_touch {qs : List Part} {sI : State} (s : State) (slot : Nat) (ea key : List Byte) (m_free : Part.free ∈ qs) (m_colo : Part.colo ∈ qs)  (ht : Touches qs sI s) :
    Touches qs sI (openSession s slot ea key).st := by
  unfold openSession
  (try dsimp only)
  (repeat' split) <;> simp (maxDischargeDepth := 40) only [ht, m_free, m_colo, useFree_touch, touch_colo, Touches.refl, touch_foldl, touch_ite, touch_cond, implies_true, and_self]

theorem handleSessionOpen_touch {qs : List Part} {sI : State} (s : State) (a : Asker) (b : List Byte) (m_free : Part.free ∈ qs) (m_colo : Part.colo ∈ qs)  (ht : Touches qs sI s) :
    Touches qs sI (handleSessionOpen s a b).st := by
  unfold handleSessionOpen
  (try dsimp only)
  (repeat' split) <;> simp (maxDischargeDepth := 40) only [ht, m_free, m_colo, openSession_touch, refuseMsg_touch, Touches.refl, touch_foldl, touch_ite, touch_cond, implies_true, and_self]

theorem handleOp_touch {qs : List Part} {sI : State} (s : State) (a : Asker) (m : ColoMsg) (m_free : Part.free ∈ qs) (m_out : Part.out ∈ qs) (m_formes : Part.formes ∈ qs) (m_gddr : Part.gddr ∈ qs) (m_proof : Part.proof ∈ qs) (m_log : Part.log ∈ qs) (m_span : Part.span ∈ qs) (m_abut : Part.abut ∈ qs) (m_cores : Part.cores ∈ qs) (m_svc : Part.svc ∈ qs) (m_fault : Part.fault ∈ qs) (m_colo : Part.colo ∈ qs) (m_boot : Part.boot ∈ qs) (m_flash : Part.flash ∈ qs) (m_upd : Part.upd ∈ qs) (m_sec : Part.sec ∈ qs) (m_pwr : Part.pwr ∈ qs)  (ht : Touches qs sI s) :
    Touches qs sI (handleOp s a m).st := by
  unfold handleOp
  (try dsimp only)
  (repeat' split) <;> simp (maxDischargeDepth := 40) only [ht, m_free, m_out, m_formes, m_gddr, m_proof, m_log, m_span, m_abut, m_cores, m_svc, m_fault, m_colo, m_boot, m_flash, m_upd, m_sec, m_pwr, handleNotify_touch, handleRead_touch, handleReadBlock_touch, handleSessionOpen_touch, handleWrite_touch, handleWriteBlock_touch, refuseMsg_touch, Touches.refl, touch_foldl, touch_ite, touch_cond, implies_true, and_self]

theorem respond_touch {qs : List Part} {sI : State} (s : State) (key : ClientKey) (m : ColoMsg) (h : Handled) (m_out : Part.out ∈ qs) (m_colo : Part.colo ∈ qs)  (ht : Touches qs sI s) :
    Touches qs sI (respond s key m h) := by
  unfold respond
  (try dsimp only)
  (repeat' split) <;> simp (maxDischargeDepth := 40) only [ht, m_out, m_colo, sendColo_touch, touch_colo, Touches.refl, touch_foldl, touch_ite, touch_cond, implies_true, and_self]

theorem countRequest_touch {qs : List Part} {sI : State} (s : State) (refused : Nat) (m_colo : Part.colo ∈ qs)  (ht : Touches qs sI s) :
    Touches qs sI (countRequest s refused) := by
  unfold countRequest
  (try dsimp only)
  (repeat' split) <;> simp (maxDischargeDepth := 40) only [ht, m_colo, bumpEnt_touch, Touches.refl, touch_foldl, touch_ite, touch_cond, implies_true, and_self]

theorem releaseEvents_touch {qs : List Part} {sI : State} (s : State) (m_out : Part.out ∈ qs) (m_colo : Part.colo ∈ qs)  (ht : Touches qs sI s) :
    Touches qs sI (releaseEvents s) := by
  unfold releaseEvents
  (try dsimp only)
  (repeat' split) <;> simp (maxDischargeDepth := 40) only [ht, m_out, m_colo, sendEvent_touch, touch_colo, Touches.refl, touch_foldl, touch_ite, touch_cond, implies_true, and_self]

theorem process_touch {qs : List Part} {sI : State} (s : State) (a : Asker) (m : ColoMsg) (m_free : Part.free ∈ qs) (m_out : Part.out ∈ qs) (m_tb : Part.tb ∈ qs) (m_formes : Part.formes ∈ qs) (m_gddr : Part.gddr ∈ qs) (m_tbl : Part.tbl ∈ qs) (m_proof : Part.proof ∈ qs) (m_imp : Part.imp ∈ qs) (m_bars : Part.bars ∈ qs) (m_log : Part.log ∈ qs) (m_span : Part.span ∈ qs) (m_coll : Part.coll ∈ qs) (m_abut : Part.abut ∈ qs) (m_cores : Part.cores ∈ qs) (m_svc : Part.svc ∈ qs) (m_fault : Part.fault ∈ qs) (m_check : Part.check ∈ qs) (m_colo : Part.colo ∈ qs) (m_boot : Part.boot ∈ qs) (m_flash : Part.flash ∈ qs) (m_upd : Part.upd ∈ qs) (m_sec : Part.sec ∈ qs) (m_pwr : Part.pwr ∈ qs) (ht : Touches qs sI s) :
    Touches qs sI (process s a m) := by
  have h1 := touch_colo m_colo ht (v0 := { s.colo with busy := true })
  unfold process
  dsimp only
  split
  all_goals
    refine touch_foldl ?_ ?_
    · intro t x
      simp (maxDischargeDepth := 40) only [doAfter_touch, Touches.refl, *]
    · simp (maxDischargeDepth := 40) only [releaseEvents_touch, respond_touch, countRequest_touch, refuseMsg_touch,
        handleOp_touch, *]

theorem serve_touch {qs : List Part} {sI : State} (s : State) (a : Asker) (m : ColoMsg) (m_free : Part.free ∈ qs) (m_out : Part.out ∈ qs) (m_tb : Part.tb ∈ qs) (m_formes : Part.formes ∈ qs) (m_gddr : Part.gddr ∈ qs) (m_tbl : Part.tbl ∈ qs) (m_proof : Part.proof ∈ qs) (m_imp : Part.imp ∈ qs) (m_bars : Part.bars ∈ qs) (m_log : Part.log ∈ qs) (m_span : Part.span ∈ qs) (m_coll : Part.coll ∈ qs) (m_abut : Part.abut ∈ qs) (m_cores : Part.cores ∈ qs) (m_svc : Part.svc ∈ qs) (m_fault : Part.fault ∈ qs) (m_check : Part.check ∈ qs) (m_colo : Part.colo ∈ qs) (m_boot : Part.boot ∈ qs) (m_flash : Part.flash ∈ qs) (m_upd : Part.upd ∈ qs) (m_sec : Part.sec ∈ qs) (m_pwr : Part.pwr ∈ qs)  (ht : Touches qs sI s) :
    Touches qs sI (serve s a m) := by
  unfold serve
  (try dsimp only)
  (repeat' split) <;> simp (maxDischargeDepth := 40) only [ht, m_free, m_out, m_tb, m_formes, m_gddr, m_tbl, m_proof, m_imp, m_bars, m_log, m_span, m_coll, m_abut, m_cores, m_svc, m_fault, m_check, m_colo, m_boot, m_flash, m_upd, m_sec, m_pwr, process_touch, sendColo_touch, Touches.refl, touch_foldl, touch_ite, touch_cond, implies_true, and_self]

theorem touchSession_touch {qs : List Part} {sI : State} (s : State) (id : BitVec 32) (m : ColoMsg) (m_colo : Part.colo ∈ qs)  (ht : Touches qs sI s) :
    Touches qs sI (touchSession s id m) := by
  unfold touchSession
  (try dsimp only)
  (repeat' split) <;> simp (maxDischargeDepth := 40) only [ht, m_colo, touch_colo, Touches.refl, touch_foldl, touch_ite, touch_cond, implies_true, and_self]

theorem coloMessage_touch {qs : List Part} {sI : State} (s : State) (m : ColoMsg) (m_free : Part.free ∈ qs) (m_out : Part.out ∈ qs) (m_tb : Part.tb ∈ qs) (m_formes : Part.formes ∈ qs) (m_gddr : Part.gddr ∈ qs) (m_tbl : Part.tbl ∈ qs) (m_proof : Part.proof ∈ qs) (m_imp : Part.imp ∈ qs) (m_bars : Part.bars ∈ qs) (m_log : Part.log ∈ qs) (m_span : Part.span ∈ qs) (m_coll : Part.coll ∈ qs) (m_abut : Part.abut ∈ qs) (m_cores : Part.cores ∈ qs) (m_svc : Part.svc ∈ qs) (m_fault : Part.fault ∈ qs) (m_check : Part.check ∈ qs) (m_colo : Part.colo ∈ qs) (m_boot : Part.boot ∈ qs) (m_flash : Part.flash ∈ qs) (m_upd : Part.upd ∈ qs) (m_sec : Part.sec ∈ qs) (m_pwr : Part.pwr ∈ qs)  (ht : Touches qs sI s) :
    Touches qs sI (coloMessage s m) := by
  unfold coloMessage
  (try dsimp only)
  (repeat' split) <;> simp (maxDischargeDepth := 40) only [ht, m_free, m_out, m_tb, m_formes, m_gddr, m_tbl, m_proof, m_imp, m_bars, m_log, m_span, m_coll, m_abut, m_cores, m_svc, m_fault, m_check, m_colo, m_boot, m_flash, m_upd, m_sec, m_pwr, bumpEnt_touch, countRequest_touch, refuseMsg_touch, respond_touch, serve_touch, touchSession_touch, Touches.refl, touch_foldl, touch_ite, touch_cond, implies_true, and_self]

theorem resendSub_touch {qs : List Part} {sI : State} (s : State) (x : Sub) (m_out : Part.out ∈ qs) (m_colo : Part.colo ∈ qs)  (ht : Touches qs sI s) :
    Touches qs sI (resendSub s x) := by
  unfold resendSub
  (try dsimp only)
  (repeat' split) <;> simp (maxDischargeDepth := 40) only [ht, m_out, m_colo, sendColo_touch, touch_colo, Touches.refl, touch_foldl, touch_ite, touch_cond, implies_true, and_self]

theorem unlockEffect_touch {qs : List Part} {sI : State} (s : State) (token : List Byte) (m_free : Part.free ∈ qs) (m_out : Part.out ∈ qs) (m_formes : Part.formes ∈ qs) (m_span : Part.span ∈ qs) (m_abut : Part.abut ∈ qs) (m_cores : Part.cores ∈ qs) (m_svc : Part.svc ∈ qs) (m_fault : Part.fault ∈ qs) (m_colo : Part.colo ∈ qs) (m_boot : Part.boot ∈ qs) (m_flash : Part.flash ∈ qs) (m_sec : Part.sec ∈ qs) (m_pwr : Part.pwr ∈ qs)  (ht : Touches qs sI s) :
    Touches qs sI (unlockEffect s token) := by
  unfold unlockEffect
  (try dsimp only)
  (repeat' split) <;> simp (maxDischargeDepth := 40) only [ht, m_free, m_out, m_formes, m_span, m_abut, m_cores, m_svc, m_fault, m_colo, m_boot, m_flash, m_sec, m_pwr, newNonce_touch, unlock_touch, unlockRefused_touch, Touches.refl, touch_foldl, touch_ite, touch_cond, implies_true, and_self]

theorem writeProofCtrl_touch {qs : List Part} {sI : State} (s : State) (v : Word) (m_proof : Part.proof ∈ qs)  (ht : Touches qs sI s) :
    Touches qs sI (writeProofCtrl s v) := by
  unfold writeProofCtrl
  (try dsimp only)
  (repeat' split) <;> simp (maxDischargeDepth := 40) only [ht, m_proof, requestClose_touch, touch_proof, Touches.refl, touch_foldl, touch_ite, touch_cond, implies_true, and_self]

theorem writeImposerBell_touch {qs : List Part} {sI : State} (s : State) (v : Word) (m_out : Part.out ∈ qs) (m_gddr : Part.gddr ∈ qs) (m_imp : Part.imp ∈ qs) (m_cores : Part.cores ∈ qs) (m_colo : Part.colo ∈ qs)  (ht : Touches qs sI s) :
    Touches qs sI (writeImposerBell s v) := by
  unfold writeImposerBell
  (try dsimp only)
  (repeat' split) <;> simp (maxDischargeDepth := 40) only [ht, m_out, m_gddr, m_imp, m_cores, m_colo, cmdBell_touch, evtBell_touch, Touches.refl, touch_foldl, touch_ite, touch_cond, implies_true, and_self]

theorem writeImposerStatus_touch {qs : List Part} {sI : State} (s : State) (v : Word) (m_imp : Part.imp ∈ qs)  (ht : Touches qs sI s) :
    Touches qs sI (writeImposerStatus s v) := by
  unfold writeImposerStatus
  (try dsimp only)
  (repeat' split) <;> simp (maxDischargeDepth := 40) only [ht, m_imp, touch_imp, Touches.refl, touch_foldl, touch_ite, touch_cond, implies_true, and_self]

theorem writeGroup_touch {qs : List Part} {sI : State} (s : State) (g : Nat) (v : Word) (m_coll : Part.coll ∈ qs)  (ht : Touches qs sI s) :
    Touches qs sI (writeGroup s g v) := by
  unfold writeGroup
  (try dsimp only)
  (repeat' split) <;> simp (maxDischargeDepth := 40) only [ht, m_coll, touch_coll, Touches.refl, touch_foldl, touch_ite, touch_cond, implies_true, and_self]

theorem writeDieSingle_touch {qs : List Part} {sI : State} (s : State) (o : Nat) (v : Word) (m_out : Part.out ∈ qs) (m_formes : Part.formes ∈ qs) (m_gddr : Part.gddr ∈ qs) (m_proof : Part.proof ∈ qs) (m_imp : Part.imp ∈ qs) (m_log : Part.log ∈ qs) (m_span : Part.span ∈ qs) (m_abut : Part.abut ∈ qs) (m_cores : Part.cores ∈ qs) (m_svc : Part.svc ∈ qs) (m_fault : Part.fault ∈ qs) (m_check : Part.check ∈ qs) (m_colo : Part.colo ∈ qs) (m_boot : Part.boot ∈ qs) (m_flash : Part.flash ∈ qs) (m_sec : Part.sec ∈ qs) (m_pwr : Part.pwr ∈ qs)  (ht : Touches qs sI s) :
    Touches qs sI (writeDieSingle s o v) := by
  unfold writeDieSingle
  (try dsimp only)
  (repeat' split) <;> simp (maxDischargeDepth := 40) only [ht, m_out, m_formes, m_gddr, m_proof, m_imp, m_log, m_span, m_abut, m_cores, m_svc, m_fault, m_check, m_colo, m_boot, m_flash, m_sec, m_pwr, clearAlarms_touch, writeAppend_touch, writeBuckets_touch, writeCmdRing_touch, writeDoorbell_touch, writeEvtRing_touch, writeExtRetire_touch, writeFence_touch, writeImposerBell_touch, writeImposerStatus_touch, writeIntCtrl_touch, writeLogCtrl_touch, writeObjCmd_touch, writeProofCtrl_touch, touch_check, Touches.refl, touch_foldl, touch_ite, touch_cond, implies_true, and_self]

theorem writeDieReg_touch {qs : List Part} {sI : State} (s : State) (o : Nat) (v : Word) (m_free : Part.free ∈ qs) (m_out : Part.out ∈ qs) (m_formes : Part.formes ∈ qs) (m_gddr : Part.gddr ∈ qs) (m_tbl : Part.tbl ∈ qs) (m_proof : Part.proof ∈ qs) (m_imp : Part.imp ∈ qs) (m_bars : Part.bars ∈ qs) (m_log : Part.log ∈ qs) (m_span : Part.span ∈ qs) (m_coll : Part.coll ∈ qs) (m_abut : Part.abut ∈ qs) (m_cores : Part.cores ∈ qs) (m_svc : Part.svc ∈ qs) (m_fault : Part.fault ∈ qs) (m_check : Part.check ∈ qs) (m_colo : Part.colo ∈ qs) (m_boot : Part.boot ∈ qs) (m_flash : Part.flash ∈ qs) (m_sec : Part.sec ∈ qs) (m_pwr : Part.pwr ∈ qs)  (ht : Touches qs sI s) :
    Touches qs sI (writeDieReg s o v) := by
  unfold writeDieReg
  (try dsimp only)
  (repeat' split) <;> simp (maxDischargeDepth := 40) only [ht, m_free, m_out, m_formes, m_gddr, m_tbl, m_proof, m_imp, m_bars, m_log, m_span, m_coll, m_abut, m_cores, m_svc, m_fault, m_check, m_colo, m_boot, m_flash, m_sec, m_pwr, writeBar_touch, writeColl_touch, writeDieSingle_touch, writeGroup_touch, writeLink_touch, Touches.refl, touch_foldl, touch_ite, touch_cond, implies_true, and_self]

theorem writeRegion_touch {qs : List Part} {sI : State} (s : State) (n k : Nat) (v : Word) (m_tbl : Part.tbl ∈ qs)  (ht : Touches qs sI s) :
    Touches qs sI (writeRegion s n k v) := by
  unfold writeRegion
  (try dsimp only)
  (repeat' split) <;> simp (maxDischargeDepth := 40) only [ht, m_tbl, touch_tbl, Touches.refl, touch_foldl, touch_ite, touch_cond, implies_true, and_self]

theorem writeWindow_touch {qs : List Part} {sI : State} (s : State) (n k : Nat) (v : Word) (m_tbl : Part.tbl ∈ qs)  (ht : Touches qs sI s) :
    Touches qs sI (writeWindow s n k v) := by
  unfold writeWindow
  (try dsimp only)
  (repeat' split) <;> simp (maxDischargeDepth := 40) only [ht, m_tbl, touch_tbl, Touches.refl, touch_foldl, touch_ite, touch_cond, implies_true, and_self]

theorem writeTag_touch {qs : List Part} {sI : State} (s : State) (g k : Nat) (v : Word) (m_tbl : Part.tbl ∈ qs)  (ht : Touches qs sI s) :
    Touches qs sI (writeTag s g k v) := by
  unfold writeTag
  (try dsimp only)
  (repeat' split) <;> simp (maxDischargeDepth := 40) only [ht, m_tbl, setTag_touch, Touches.refl, touch_foldl, touch_ite, touch_cond, implies_true, and_self]

theorem writeHist_touch {qs : List Part} {sI : State} (s : State) (o : Nat) (v : Word) (m_tbl : Part.tbl ∈ qs)  (ht : Touches qs sI s) :
    Touches qs sI (writeHist s o v) := by
  unfold writeHist
  (try dsimp only)
  (repeat' split) <;> simp (maxDischargeDepth := 40) only [ht, m_tbl, setHist_touch, Touches.refl, touch_foldl, touch_ite, touch_cond, implies_true, and_self]

theorem writeReg_touch {qs : List Part} {sI : State} (s : State) (v : Word) (r : RegAddr) (m_free : Part.free ∈ qs) (m_out : Part.out ∈ qs) (m_formes : Part.formes ∈ qs) (m_gddr : Part.gddr ∈ qs) (m_tbl : Part.tbl ∈ qs) (m_proof : Part.proof ∈ qs) (m_imp : Part.imp ∈ qs) (m_bars : Part.bars ∈ qs) (m_log : Part.log ∈ qs) (m_span : Part.span ∈ qs) (m_coll : Part.coll ∈ qs) (m_abut : Part.abut ∈ qs) (m_cores : Part.cores ∈ qs) (m_svc : Part.svc ∈ qs) (m_fault : Part.fault ∈ qs) (m_check : Part.check ∈ qs) (m_colo : Part.colo ∈ qs) (m_boot : Part.boot ∈ qs) (m_flash : Part.flash ∈ qs) (m_sec : Part.sec ∈ qs) (m_pwr : Part.pwr ∈ qs) (ht : Touches qs sI s) :
    Touches qs sI (writeReg s v r) := by
  cases r <;> unfold writeReg <;> dsimp only <;> (repeat' split) <;>
    simp (maxDischargeDepth := 40) only [modForme_touch, relist_touch, writeDieReg_touch, writeTag_touch, writeHist_touch,
      writeRoute_touch, writeRegion_touch, writeWindow_touch, *]

theorem mmioWrite_touch {qs : List Part} {sI : State} (s : State) (a : Nat) (v : Word) (m_free : Part.free ∈ qs) (m_out : Part.out ∈ qs) (m_formes : Part.formes ∈ qs) (m_gddr : Part.gddr ∈ qs) (m_tbl : Part.tbl ∈ qs) (m_proof : Part.proof ∈ qs) (m_imp : Part.imp ∈ qs) (m_bars : Part.bars ∈ qs) (m_log : Part.log ∈ qs) (m_span : Part.span ∈ qs) (m_coll : Part.coll ∈ qs) (m_abut : Part.abut ∈ qs) (m_cores : Part.cores ∈ qs) (m_svc : Part.svc ∈ qs) (m_fault : Part.fault ∈ qs) (m_check : Part.check ∈ qs) (m_colo : Part.colo ∈ qs) (m_boot : Part.boot ∈ qs) (m_flash : Part.flash ∈ qs) (m_sec : Part.sec ∈ qs) (m_pwr : Part.pwr ∈ qs)  (ht : Touches qs sI s) :
    Touches qs sI (mmioWrite s a v) := by
  unfold mmioWrite
  (try dsimp only)
  (repeat' split) <;> simp (maxDischargeDepth := 40) only [ht, m_free, m_out, m_formes, m_gddr, m_tbl, m_proof, m_imp, m_bars, m_log, m_span, m_coll, m_abut, m_cores, m_svc, m_fault, m_check, m_colo, m_boot, m_flash, m_sec, m_pwr, writeReg_touch, Touches.refl, touch_foldl, touch_ite, touch_cond, implies_true, and_self]

theorem setLine_touch {qs : List Part} {sI : State} (s : State) (l : Nat) (x : CacheLine) (m_cores : Part.cores ∈ qs)  (ht : Touches qs sI s) :
    Touches qs sI (setLine s l x) := by
  unfold setLine
  (try dsimp only)
  (repeat' split) <;> simp (maxDischargeDepth := 40) only [ht, m_cores, touch_cores, Touches.refl, touch_foldl, touch_ite, touch_cond, implies_true, and_self]

theorem dropLine_touch {qs : List Part} {sI : State} (s : State) (l : Nat) (m_cores : Part.cores ∈ qs)  (ht : Touches qs sI s) :
    Touches qs sI (dropLine s l) := by
  unfold dropLine
  (try dsimp only)
  (repeat' split) <;> simp (maxDischargeDepth := 40) only [ht, m_cores, touch_cores, Touches.refl, touch_foldl, touch_ite, touch_cond, implies_true, and_self]

theorem coreFaults_touch {qs : List Part} {sI : State} (s : State) (hart : Fin 8) (m_out : Part.out ∈ qs)  (ht : Touches qs sI s) :
    Touches qs sI (coreFaults s hart) := by
  unfold coreFaults
  (try dsimp only)
  (repeat' split) <;> simp (maxDischargeDepth := 40) only [ht, m_out, emit_touch, Touches.refl, touch_foldl, touch_ite, touch_cond, implies_true, and_self]

theorem cacheError_touch {qs : List Part} {sI : State} (s : State) (hart : Fin 8) (k : CoreKind) (l : Nat) (m_out : Part.out ∈ qs) (m_formes : Part.formes ∈ qs) (m_span : Part.span ∈ qs) (m_abut : Part.abut ∈ qs) (m_cores : Part.cores ∈ qs) (m_svc : Part.svc ∈ qs) (m_fault : Part.fault ∈ qs) (m_colo : Part.colo ∈ qs) (m_boot : Part.boot ∈ qs) (m_flash : Part.flash ∈ qs) (m_pwr : Part.pwr ∈ qs)  (ht : Touches qs sI s) :
    Touches qs sI (cacheError s hart k l) := by
  unfold cacheError
  (try dsimp only)
  (repeat' split) <;> simp (maxDischargeDepth := 40) only [ht, m_out, m_formes, m_span, m_abut, m_cores, m_svc, m_fault, m_colo, m_boot, m_flash, m_pwr, dropLine_touch, fenceFault_touch, logFault_touch, Touches.refl, touch_foldl, touch_ite, touch_cond, implies_true, and_self]

theorem fillLine_touch {qs : List Part} {sI : State} {s : State} {l : Nat} {t : State} (he : fillLine s l = .inl t ∨ fillLine s l = .inr t) (m_out : Part.out ∈ qs) (m_formes : Part.formes ∈ qs) (m_gddr : Part.gddr ∈ qs) (m_cores : Part.cores ∈ qs) (m_fault : Part.fault ∈ qs) (m_colo : Part.colo ∈ qs) (m_flash : Part.flash ∈ qs)  (ht : Touches qs sI s) :
    Touches qs sI t := by
  revert he
  unfold fillLine
  (try dsimp only)
  (repeat' split) <;> intro he <;> (rcases he with he | he) <;> (first | contradiction | (injection he with he; subst he; (first | simp (maxDischargeDepth := 40) only [ht, m_out, m_formes, m_gddr, m_cores, m_fault, m_colo, m_flash, gddrError_touch, setLine_touch, Touches.refl, touch_foldl, touch_ite, touch_cond, implies_true, and_self])))

theorem fillLines_touch {qs : List Part} {sI : State} {l : List Nat} {s t : State}
    (he : fillLines l s = .inl t ∨ fillLines l s = .inr t) (m_out : Part.out ∈ qs) (m_formes : Part.formes ∈ qs) (m_gddr : Part.gddr ∈ qs) (m_cores : Part.cores ∈ qs) (m_fault : Part.fault ∈ qs) (m_colo : Part.colo ∈ qs) (m_flash : Part.flash ∈ qs) (ht : Touches qs sI s) : Touches qs sI t := by
  induction l generalizing s with
  | nil => rcases he with he | he <;> first | contradiction | (injection he with he; subst he; exact ht)
  | cons x xs ih =>
    unfold fillLines at he
    cases hx : fillLine s x with
    | inl u =>
      rw [hx] at he
      have hu := fillLine_touch (sI := sI) (.inl hx) (by assumption) (by assumption) (by assumption) (by assumption)
        (by assumption) (by assumption) (by assumption) ht
      rcases he with he | he <;> first | contradiction | (injection he with he; subst he; exact hu)
    | inr u =>
      rw [hx] at he
      exact ih he (fillLine_touch (sI := sI) (.inr hx) (by assumption) (by assumption) (by assumption) (by assumption)
        (by assumption) (by assumption) (by assumption) ht)

theorem storeByte_touch {qs : List Part} {sI : State} (s : State) (p : Nat × Byte) (m_cores : Part.cores ∈ qs)  (ht : Touches qs sI s) :
    Touches qs sI (storeByte s p) := by
  unfold storeByte
  (try dsimp only)
  (repeat' split) <;> simp (maxDischargeDepth := 40) only [ht, m_cores, setLine_touch, Touches.refl, touch_foldl, touch_ite, touch_cond, implies_true, and_self]

theorem cachedAccess_touch {qs : List Part} {sI : State} (s : State) (hart : Fin 8) (store : Bool) (a n : Nat) (v : Word) (m_free : Part.free ∈ qs) (m_out : Part.out ∈ qs) (m_formes : Part.formes ∈ qs) (m_gddr : Part.gddr ∈ qs) (m_tbl : Part.tbl ∈ qs) (m_proof : Part.proof ∈ qs) (m_imp : Part.imp ∈ qs) (m_log : Part.log ∈ qs) (m_span : Part.span ∈ qs) (m_abut : Part.abut ∈ qs) (m_cores : Part.cores ∈ qs) (m_fault : Part.fault ∈ qs) (m_colo : Part.colo ∈ qs) (m_flash : Part.flash ∈ qs)
    (ht : Touches qs sI s) : Touches qs sI (cachedAccess s hart store a n v) := by
  have hf : ∀ {t}, fillLines (linesOf a n) s = .inl t ∨ fillLines (linesOf a n) s = .inr t → Touches qs sI t := fun he =>
    fillLines_touch he (by assumption) (by assumption) (by assumption) (by assumption) (by assumption) (by assumption)
      (by assumption) ht
  unfold cachedAccess
  split
  · rename_i he
    have h1 := hf (.inl he)
    simp (maxDischargeDepth := 40) only [coreFaults_touch, *]
  · rename_i he
    have h1 := hf (.inr he)
    split
    · refine touch_foldl ?_ h1
      intro t x
      simp (maxDischargeDepth := 40) only [storeByte_touch, Touches.refl, *]
    · simp (maxDischargeDepth := 40) only [emit_touch, *]

theorem writeBackLine_touch {qs : List Part} {sI : State} (s : State) (l : Nat) (m_gddr : Part.gddr ∈ qs) (m_cores : Part.cores ∈ qs)  (ht : Touches qs sI s) :
    Touches qs sI (writeBackLine s l) := by
  unfold writeBackLine
  (try dsimp only)
  (repeat' split) <;> simp (maxDischargeDepth := 40) only [ht, m_gddr, m_cores, setLine_touch, touch_gddr, Touches.refl, touch_foldl, touch_ite, touch_cond, implies_true, and_self]

theorem memLoad_touch {qs : List Part} {sI : State} (s : State) (a : Nat) (m_free : Part.free ∈ qs) (m_out : Part.out ∈ qs) (m_formes : Part.formes ∈ qs) (m_gddr : Part.gddr ∈ qs) (m_tbl : Part.tbl ∈ qs) (m_proof : Part.proof ∈ qs) (m_imp : Part.imp ∈ qs) (m_log : Part.log ∈ qs) (m_span : Part.span ∈ qs) (m_abut : Part.abut ∈ qs) (m_cores : Part.cores ∈ qs) (m_fault : Part.fault ∈ qs) (m_colo : Part.colo ∈ qs) (m_flash : Part.flash ∈ qs)  (ht : Touches qs sI s) :
    Touches qs sI (memLoad s a) := by
  unfold memLoad
  (try dsimp only)
  (repeat' split) <;> simp (maxDischargeDepth := 40) only [ht, m_free, m_out, m_formes, m_gddr, m_tbl, m_proof, m_imp, m_log, m_span, m_abut, m_cores, m_fault, m_colo, m_flash, emit_touch, logFault_touch, memoryError_touch, readData_touch, useFree_touch, Touches.refl, touch_foldl, touch_ite, touch_cond, implies_true, and_self]

theorem uncachedLoad_touch {qs : List Part} {sI : State} (s : State) (hart : Fin 8) (a : Nat) (m_free : Part.free ∈ qs) (m_out : Part.out ∈ qs) (m_formes : Part.formes ∈ qs) (m_gddr : Part.gddr ∈ qs) (m_tbl : Part.tbl ∈ qs) (m_proof : Part.proof ∈ qs) (m_imp : Part.imp ∈ qs) (m_log : Part.log ∈ qs) (m_span : Part.span ∈ qs) (m_abut : Part.abut ∈ qs) (m_cores : Part.cores ∈ qs) (m_fault : Part.fault ∈ qs) (m_colo : Part.colo ∈ qs) (m_flash : Part.flash ∈ qs)  (ht : Touches qs sI s) :
    Touches qs sI (uncachedLoad s hart a) := by
  unfold uncachedLoad
  (try dsimp only)
  (repeat' split) <;> simp (maxDischargeDepth := 40) only [ht, m_free, m_out, m_formes, m_gddr, m_tbl, m_proof, m_imp, m_log, m_span, m_abut, m_cores, m_fault, m_colo, m_flash, coreFaults_touch, emit_touch, memLoad_touch, readData_touch, regReadEffect_touch, Touches.refl, touch_foldl, touch_ite, touch_cond, implies_true, and_self]

theorem uncachedStore_touch {qs : List Part} {sI : State} (s : State) (hart : Fin 8) (a : Nat) (v : Word) (m_free : Part.free ∈ qs) (m_out : Part.out ∈ qs) (m_formes : Part.formes ∈ qs) (m_gddr : Part.gddr ∈ qs) (m_tbl : Part.tbl ∈ qs) (m_proof : Part.proof ∈ qs) (m_imp : Part.imp ∈ qs) (m_bars : Part.bars ∈ qs) (m_log : Part.log ∈ qs) (m_span : Part.span ∈ qs) (m_coll : Part.coll ∈ qs) (m_abut : Part.abut ∈ qs) (m_cores : Part.cores ∈ qs) (m_svc : Part.svc ∈ qs) (m_fault : Part.fault ∈ qs) (m_check : Part.check ∈ qs) (m_colo : Part.colo ∈ qs) (m_boot : Part.boot ∈ qs) (m_flash : Part.flash ∈ qs) (m_sec : Part.sec ∈ qs) (m_pwr : Part.pwr ∈ qs)  (ht : Touches qs sI s) :
    Touches qs sI (uncachedStore s hart a v) := by
  unfold uncachedStore
  (try dsimp only)
  (repeat' split) <;> simp (maxDischargeDepth := 40) only [ht, m_free, m_out, m_formes, m_gddr, m_tbl, m_proof, m_imp, m_bars, m_log, m_span, m_coll, m_abut, m_cores, m_svc, m_fault, m_check, m_colo, m_boot, m_flash, m_sec, m_pwr, coreFaults_touch, localPutAll_touch, writeReg_touch, Touches.refl, touch_foldl, touch_ite, touch_cond, implies_true, and_self]

theorem uncachedAccess_touch {qs : List Part} {sI : State} (s : State) (hart : Fin 8) (store : Bool) (a n : Nat) (v : Word) (m_free : Part.free ∈ qs) (m_out : Part.out ∈ qs) (m_formes : Part.formes ∈ qs) (m_gddr : Part.gddr ∈ qs) (m_tbl : Part.tbl ∈ qs) (m_proof : Part.proof ∈ qs) (m_imp : Part.imp ∈ qs) (m_bars : Part.bars ∈ qs) (m_log : Part.log ∈ qs) (m_span : Part.span ∈ qs) (m_coll : Part.coll ∈ qs) (m_abut : Part.abut ∈ qs) (m_cores : Part.cores ∈ qs) (m_svc : Part.svc ∈ qs) (m_fault : Part.fault ∈ qs) (m_check : Part.check ∈ qs) (m_colo : Part.colo ∈ qs) (m_boot : Part.boot ∈ qs) (m_flash : Part.flash ∈ qs) (m_sec : Part.sec ∈ qs) (m_pwr : Part.pwr ∈ qs)  (ht : Touches qs sI s) :
    Touches qs sI (uncachedAccess s hart store a n v) := by
  unfold uncachedAccess
  (try dsimp only)
  (repeat' split) <;> simp (maxDischargeDepth := 40) only [ht, m_free, m_out, m_formes, m_gddr, m_tbl, m_proof, m_imp, m_bars, m_log, m_span, m_coll, m_abut, m_cores, m_svc, m_fault, m_check, m_colo, m_boot, m_flash, m_sec, m_pwr, emit_touch, readData_touch, uncachedLoad_touch, uncachedStore_touch, Touches.refl, touch_foldl, touch_ite, touch_cond, implies_true, and_self]

theorem dataAccess_touch {qs : List Part} {sI : State} (s : State) (hart : Fin 8) (store : Bool) (a n : Nat) (v : Word) (m_free : Part.free ∈ qs) (m_out : Part.out ∈ qs) (m_formes : Part.formes ∈ qs) (m_gddr : Part.gddr ∈ qs) (m_tbl : Part.tbl ∈ qs) (m_proof : Part.proof ∈ qs) (m_imp : Part.imp ∈ qs) (m_bars : Part.bars ∈ qs) (m_log : Part.log ∈ qs) (m_span : Part.span ∈ qs) (m_coll : Part.coll ∈ qs) (m_abut : Part.abut ∈ qs) (m_cores : Part.cores ∈ qs) (m_svc : Part.svc ∈ qs) (m_fault : Part.fault ∈ qs) (m_check : Part.check ∈ qs) (m_colo : Part.colo ∈ qs) (m_boot : Part.boot ∈ qs) (m_flash : Part.flash ∈ qs) (m_sec : Part.sec ∈ qs) (m_pwr : Part.pwr ∈ qs)  (ht : Touches qs sI s) :
    Touches qs sI (dataAccess s hart store a n v) := by
  unfold dataAccess
  (try dsimp only)
  (repeat' split) <;> simp (maxDischargeDepth := 40) only [ht, m_free, m_out, m_formes, m_gddr, m_tbl, m_proof, m_imp, m_bars, m_log, m_span, m_coll, m_abut, m_cores, m_svc, m_fault, m_check, m_colo, m_boot, m_flash, m_sec, m_pwr, cachedAccess_touch, coreFaults_touch, uncachedAccess_touch, Touches.refl, touch_foldl, touch_ite, touch_cond, implies_true, and_self]

theorem coreOp_touch {qs : List Part} {sI : State} (s : State) (hart : Fin 8) (k : CoreKind) (a n : Nat) (v : Word) (m_free : Part.free ∈ qs) (m_out : Part.out ∈ qs) (m_formes : Part.formes ∈ qs) (m_gddr : Part.gddr ∈ qs) (m_tbl : Part.tbl ∈ qs) (m_proof : Part.proof ∈ qs) (m_imp : Part.imp ∈ qs) (m_bars : Part.bars ∈ qs) (m_log : Part.log ∈ qs) (m_span : Part.span ∈ qs) (m_coll : Part.coll ∈ qs) (m_abut : Part.abut ∈ qs) (m_cores : Part.cores ∈ qs) (m_svc : Part.svc ∈ qs) (m_fault : Part.fault ∈ qs) (m_check : Part.check ∈ qs) (m_colo : Part.colo ∈ qs) (m_boot : Part.boot ∈ qs) (m_flash : Part.flash ∈ qs) (m_sec : Part.sec ∈ qs) (m_pwr : Part.pwr ∈ qs)  (ht : Touches qs sI s) :
    Touches qs sI (coreOp s hart k a n v) := by
  unfold coreOp
  (try dsimp only)
  (repeat' split) <;> simp (maxDischargeDepth := 40) only [ht, m_free, m_out, m_formes, m_gddr, m_tbl, m_proof, m_imp, m_bars, m_log, m_span, m_coll, m_abut, m_cores, m_svc, m_fault, m_check, m_colo, m_boot, m_flash, m_sec, m_pwr, dataAccess_touch, dropLine_touch, writeBackLine_touch, Touches.refl, touch_foldl, touch_ite, touch_cond, implies_true, and_self]

theorem coreEffect_touch {qs : List Part} {sI : State} (s : State) (hart : Fin 8) (k : CoreKind) (a n : Nat) (v : Word) (par : Bool) (m_free : Part.free ∈ qs) (m_out : Part.out ∈ qs) (m_formes : Part.formes ∈ qs) (m_gddr : Part.gddr ∈ qs) (m_tbl : Part.tbl ∈ qs) (m_proof : Part.proof ∈ qs) (m_imp : Part.imp ∈ qs) (m_bars : Part.bars ∈ qs) (m_log : Part.log ∈ qs) (m_span : Part.span ∈ qs) (m_coll : Part.coll ∈ qs) (m_abut : Part.abut ∈ qs) (m_cores : Part.cores ∈ qs) (m_svc : Part.svc ∈ qs) (m_fault : Part.fault ∈ qs) (m_check : Part.check ∈ qs) (m_colo : Part.colo ∈ qs) (m_boot : Part.boot ∈ qs) (m_flash : Part.flash ∈ qs) (m_sec : Part.sec ∈ qs) (m_pwr : Part.pwr ∈ qs)  (ht : Touches qs sI s) :
    Touches qs sI (coreEffect s hart k a n v par) := by
  unfold coreEffect
  (try dsimp only)
  (repeat' split) <;> simp (maxDischargeDepth := 40) only [ht, m_free, m_out, m_formes, m_gddr, m_tbl, m_proof, m_imp, m_bars, m_log, m_span, m_coll, m_abut, m_cores, m_svc, m_fault, m_check, m_colo, m_boot, m_flash, m_sec, m_pwr, cacheError_touch, coreOp_touch, Touches.refl, touch_foldl, touch_ite, touch_cond, implies_true, and_self]

end Sys2Proof
end

