-- ==== Sys2Proof/Laws/TouchExec.lean ====
section
/-! SUPPORT. What each command leaves unchanged: one lemma each, `execX_touch` -/

namespace Sys2Proof

open Machine

set_option maxRecDepth 4000
set_option linter.unusedSimpArgs false
set_option linter.unusedVariables false

theorem onlyIf_touch {c : Bool} {ps : List Part} {s u t : State} (he : onlyIf c s u = .next t) (h : Touches ps s u) :
    Touches ps s t := by
  unfold onlyIf at he
  injection he with he
  subst he
  cases c
  · exact Touches.refl _ _
  · exact h

theorem execInstructionDispatch_touch {f : FormeIx} {s : State} {t : State} (he : execInstructionDispatch f s = .next t) :
    Touches [.out, .formes, .gddr, .imp, .fault, .colo, .flash] s t := by
  unfold execInstructionDispatch at he
  refine onlyIf_touch he ?_
  (try dsimp only)
  (repeat' split) <;> simp (maxDischargeDepth := 40) only [dispatchNext_touch, Touches.refl, touch_foldl, touch_ite, touch_cond, id_eq, implies_true, and_self, List.mem_cons, List.mem_nil_iff, true_or, or_true, reduceCtorEq]

theorem execFolioAbortDone_touch {h : BitVec 16} {s : State} {t : State} (he : execFolioAbortDone h s = .next t) :
    Touches [.free, .out, .formes, .gddr, .tbl, .imp, .cores, .colo] s t := by
  unfold execFolioAbortDone at he
  refine onlyIf_touch he ?_
  (try dsimp only)
  (repeat' split) <;> simp (maxDischargeDepth := 40) only [abortEffect_touch, Touches.refl, touch_foldl, touch_ite, touch_cond, id_eq, implies_true, and_self, List.mem_cons, List.mem_nil_iff, true_or, or_true, reduceCtorEq]

theorem execWaitGrant_touch {f : FormeIx} {q : Queue} {s : State} {t : State} (he : execWaitGrant f q s = .next t) :
    Touches [.formes] s t := by
  unfold execWaitGrant at he
  refine onlyIf_touch he ?_
  (try dsimp only)
  (repeat' split) <;> simp (maxDischargeDepth := 40) only [waitGrantEffect_touch, Touches.refl, touch_foldl, touch_ite, touch_cond, id_eq, implies_true, and_self, List.mem_cons, List.mem_nil_iff, true_or, or_true, reduceCtorEq]

theorem execWaitTimeout_touch {f : FormeIx} {q : Queue} {s : State} {t : State} (he : execWaitTimeout f q s = .next t) :
    Touches [.formes, .imp] s t := by
  unfold execWaitTimeout at he
  refine onlyIf_touch he ?_
  (try dsimp only)
  (repeat' split) <;> simp (maxDischargeDepth := 40) only [waitTimeoutEffect_touch, Touches.refl, touch_foldl, touch_ite, touch_cond, id_eq, implies_true, and_self, List.mem_cons, List.mem_nil_iff, true_or, or_true, reduceCtorEq]

theorem execInstructionComplete_touch {f : FormeIx} {index : BitVec 24} {s : State} {t : State} (he : execInstructionComplete f index s = .next t) :
    Touches [.formes] s t := by
  unfold execInstructionComplete at he
  refine onlyIf_touch he ?_
  (try dsimp only)
  (repeat' split) <;> simp (maxDischargeDepth := 40) only [completeEffect_touch, Touches.refl, touch_foldl, touch_ite, touch_cond, id_eq, implies_true, and_self, List.mem_cons, List.mem_nil_iff, true_or, or_true, reduceCtorEq]

theorem execCcopy_touch {f : FormeIx} {rep : MemReport} {s : State} {t : State} (he : execCcopy f rep s = .next t) :
    Touches [.free, .out, .formes, .gddr, .tbl, .proof, .imp, .span, .abut, .cores, .fault, .colo, .flash] s t := by
  unfold execCcopy at he
  refine onlyIf_touch he ?_
  (try dsimp only)
  (repeat' split) <;> simp (maxDischargeDepth := 40) only [ccopyEffect_touch, Touches.refl, touch_foldl, touch_ite, touch_cond, id_eq, implies_true, and_self, List.mem_cons, List.mem_nil_iff, true_or, or_true, reduceCtorEq]

theorem execCopyComplete_touch {f : FormeIx} {c : Fin 8} {s : State} {t : State} (he : execCopyComplete f c s = .next t) :
    Touches [.formes] s t := by
  unfold execCopyComplete at he
  refine onlyIf_touch he ?_
  (try dsimp only)
  (repeat' split) <;> simp (maxDischargeDepth := 40) only [copyRetire_touch, Touches.refl, touch_foldl, touch_ite, touch_cond, id_eq, implies_true, and_self, List.mem_cons, List.mem_nil_iff, true_or, or_true, reduceCtorEq]

theorem execPacc_touch {f : FormeIx} {s : State} {t : State} (he : execPacc f s = .next t) :
    Touches [.out, .formes, .gddr, .imp, .fault, .colo, .flash] s t := by
  unfold execPacc at he
  refine onlyIf_touch he ?_
  (try dsimp only)
  (repeat' split) <;> simp (maxDischargeDepth := 40) only [paccEffect_touch, Touches.refl, touch_foldl, touch_ite, touch_cond, id_eq, implies_true, and_self, List.mem_cons, List.mem_nil_iff, true_or, or_true, reduceCtorEq]

theorem execWindowSwap_touch {f : FormeIx} {p : Fin 4} {s : State} {t : State} (he : execWindowSwap f p s = .next t) :
    Touches [.out, .formes, .gddr, .imp, .fault, .colo, .flash] s t := by
  unfold execWindowSwap at he
  refine onlyIf_touch he ?_
  (try dsimp only)
  (repeat' split) <;> simp (maxDischargeDepth := 40) only [swapEffect_touch, Touches.refl, touch_foldl, touch_ite, touch_cond, id_eq, implies_true, and_self, List.mem_cons, List.mem_nil_iff, true_or, or_true, reduceCtorEq]

theorem execAccumulateComplete_touch {f : FormeIx} {s : State} {t : State} (he : execAccumulateComplete f s = .next t) :
    Touches [.formes] s t := by
  unfold execAccumulateComplete at he
  refine onlyIf_touch he ?_
  (try dsimp only)
  (repeat' split) <;> simp (maxDischargeDepth := 40) only [modForme_touch, Touches.refl, touch_foldl, touch_ite, touch_cond, id_eq, implies_true, and_self, List.mem_cons, List.mem_nil_iff, true_or, or_true, reduceCtorEq]

theorem execDrain_touch {f : FormeIx} {s : State} {t : State} (he : execDrain f s = .next t) :
    Touches [.free, .out, .formes, .gddr, .tbl, .proof, .imp, .cores, .fault, .colo, .flash] s t := by
  unfold execDrain at he
  refine onlyIf_touch he ?_
  (try dsimp only)
  (repeat' split) <;> simp (maxDischargeDepth := 40) only [drainEffect_touch, Touches.refl, touch_foldl, touch_ite, touch_cond, id_eq, implies_true, and_self, List.mem_cons, List.mem_nil_iff, true_or, or_true, reduceCtorEq]

theorem execTssave_touch {f : FormeIx} {s : State} {t : State} (he : execTssave f s = .next t) :
    Touches [.out, .formes, .gddr, .imp, .fault, .colo, .flash] s t := by
  unfold execTssave at he
  refine onlyIf_touch he ?_
  (try dsimp only)
  (repeat' split) <;> simp (maxDischargeDepth := 40) only [runHead_touch, tssaveEffect_touch, Touches.refl, touch_foldl, touch_ite, touch_cond, id_eq, implies_true, and_self, List.mem_cons, List.mem_nil_iff, true_or, or_true, reduceCtorEq]

theorem execTsload_touch {f : FormeIx} {s : State} {t : State} (he : execTsload f s = .next t) :
    Touches [.out, .formes, .gddr, .imp, .fault, .colo, .flash] s t := by
  unfold execTsload at he
  refine onlyIf_touch he ?_
  (try dsimp only)
  (repeat' split) <;> simp (maxDischargeDepth := 40) only [runHead_touch, tsloadEffect_touch, Touches.refl, touch_foldl, touch_ite, touch_cond, id_eq, implies_true, and_self, List.mem_cons, List.mem_nil_iff, true_or, or_true, reduceCtorEq]

theorem execVadd_touch {f : FormeIx} {s : State} {t : State} (he : execVadd f s = .next t) :
    Touches [.out, .formes, .gddr, .tbl, .proof, .imp, .cores, .fault, .colo, .flash] s t := by
  unfold execVadd at he
  refine onlyIf_touch he ?_
  (try dsimp only)
  (repeat' split) <;> simp (maxDischargeDepth := 40) only [elementwise_touch, Touches.refl, touch_foldl, touch_ite, touch_cond, id_eq, implies_true, and_self, List.mem_cons, List.mem_nil_iff, true_or, or_true, reduceCtorEq]

theorem execVsub_touch {f : FormeIx} {s : State} {t : State} (he : execVsub f s = .next t) :
    Touches [.out, .formes, .gddr, .tbl, .proof, .imp, .cores, .fault, .colo, .flash] s t := by
  unfold execVsub at he
  refine onlyIf_touch he ?_
  (try dsimp only)
  (repeat' split) <;> simp (maxDischargeDepth := 40) only [elementwise_touch, Touches.refl, touch_foldl, touch_ite, touch_cond, id_eq, implies_true, and_self, List.mem_cons, List.mem_nil_iff, true_or, or_true, reduceCtorEq]

theorem execVmul_touch {f : FormeIx} {s : State} {t : State} (he : execVmul f s = .next t) :
    Touches [.out, .formes, .gddr, .tbl, .proof, .imp, .cores, .fault, .colo, .flash] s t := by
  unfold execVmul at he
  refine onlyIf_touch he ?_
  (try dsimp only)
  (repeat' split) <;> simp (maxDischargeDepth := 40) only [elementwise_touch, Touches.refl, touch_foldl, touch_ite, touch_cond, id_eq, implies_true, and_self, List.mem_cons, List.mem_nil_iff, true_or, or_true, reduceCtorEq]

theorem execVfma_touch {f : FormeIx} {s : State} {t : State} (he : execVfma f s = .next t) :
    Touches [.out, .formes, .gddr, .tbl, .proof, .imp, .cores, .fault, .colo, .flash] s t := by
  unfold execVfma at he
  refine onlyIf_touch he ?_
  (try dsimp only)
  (repeat' split) <;> simp (maxDischargeDepth := 40) only [elementwise_touch, Touches.refl, touch_foldl, touch_ite, touch_cond, id_eq, implies_true, and_self, List.mem_cons, List.mem_nil_iff, true_or, or_true, reduceCtorEq]

theorem execVmin_touch {f : FormeIx} {s : State} {t : State} (he : execVmin f s = .next t) :
    Touches [.out, .formes, .gddr, .tbl, .proof, .imp, .cores, .fault, .colo, .flash] s t := by
  unfold execVmin at he
  refine onlyIf_touch he ?_
  (try dsimp only)
  (repeat' split) <;> simp (maxDischargeDepth := 40) only [elementwise_touch, Touches.refl, touch_foldl, touch_ite, touch_cond, id_eq, implies_true, and_self, List.mem_cons, List.mem_nil_iff, true_or, or_true, reduceCtorEq]

theorem execVmax_touch {f : FormeIx} {s : State} {t : State} (he : execVmax f s = .next t) :
    Touches [.out, .formes, .gddr, .tbl, .proof, .imp, .cores, .fault, .colo, .flash] s t := by
  unfold execVmax at he
  refine onlyIf_touch he ?_
  (try dsimp only)
  (repeat' split) <;> simp (maxDischargeDepth := 40) only [elementwise_touch, Touches.refl, touch_foldl, touch_ite, touch_cond, id_eq, implies_true, and_self, List.mem_cons, List.mem_nil_iff, true_or, or_true, reduceCtorEq]

theorem execVabs_touch {f : FormeIx} {s : State} {t : State} (he : execVabs f s = .next t) :
    Touches [.out, .formes, .gddr, .tbl, .proof, .imp, .cores, .fault, .colo, .flash] s t := by
  unfold execVabs at he
  refine onlyIf_touch he ?_
  (try dsimp only)
  (repeat' split) <;> simp (maxDischargeDepth := 40) only [elementwise_touch, Touches.refl, touch_foldl, touch_ite, touch_cond, id_eq, implies_true, and_self, List.mem_cons, List.mem_nil_iff, true_or, or_true, reduceCtorEq]

theorem execVneg_touch {f : FormeIx} {s : State} {t : State} (he : execVneg f s = .next t) :
    Touches [.out, .formes, .gddr, .tbl, .proof, .imp, .cores, .fault, .colo, .flash] s t := by
  unfold execVneg at he
  refine onlyIf_touch he ?_
  (try dsimp only)
  (repeat' split) <;> simp (maxDischargeDepth := 40) only [elementwise_touch, Touches.refl, touch_foldl, touch_ite, touch_cond, id_eq, implies_true, and_self, List.mem_cons, List.mem_nil_iff, true_or, or_true, reduceCtorEq]

theorem execVcmp_touch {f : FormeIx} {s : State} {t : State} (he : execVcmp f s = .next t) :
    Touches [.out, .formes, .gddr, .imp, .fault, .colo, .flash] s t := by
  unfold execVcmp at he
  refine onlyIf_touch he ?_
  (try dsimp only)
  (repeat' split) <;> simp (maxDischargeDepth := 40) only [vcmpRun_touch, Touches.refl, touch_foldl, touch_ite, touch_cond, id_eq, implies_true, and_self, List.mem_cons, List.mem_nil_iff, true_or, or_true, reduceCtorEq]

theorem execVsel_touch {f : FormeIx} {s : State} {t : State} (he : execVsel f s = .next t) :
    Touches [.out, .formes, .gddr, .tbl, .proof, .imp, .cores, .fault, .colo, .flash] s t := by
  unfold execVsel at he
  refine onlyIf_touch he ?_
  (try dsimp only)
  (repeat' split) <;> simp (maxDischargeDepth := 40) only [runGrid_touch, Touches.refl, touch_foldl, touch_ite, touch_cond, id_eq, implies_true, and_self, List.mem_cons, List.mem_nil_iff, true_or, or_true, reduceCtorEq]

theorem execVcvt_touch {f : FormeIx} {s : State} {t : State} (he : execVcvt f s = .next t) :
    Touches [.out, .formes, .gddr, .tbl, .proof, .imp, .cores, .fault, .colo, .flash] s t := by
  unfold execVcvt at he
  refine onlyIf_touch he ?_
  (try dsimp only)
  (repeat' split) <;> simp (maxDischargeDepth := 40) only [vcvtRun_touch, Touches.refl, touch_foldl, touch_ite, touch_cond, id_eq, implies_true, and_self, List.mem_cons, List.mem_nil_iff, true_or, or_true, reduceCtorEq]

theorem execVqclr_touch {f : FormeIx} {s : State} {t : State} (he : execVqclr f s = .next t) :
    Touches [.out, .formes, .gddr, .imp, .fault, .colo, .flash] s t := by
  unfold execVqclr at he
  refine onlyIf_touch he ?_
  (try dsimp only)
  (repeat' split) <;> simp (maxDischargeDepth := 40) only [vqclrRun_touch, Touches.refl, touch_foldl, touch_ite, touch_cond, id_eq, implies_true, and_self, List.mem_cons, List.mem_nil_iff, true_or, or_true, reduceCtorEq]

theorem execVqmac_touch {f : FormeIx} {s : State} {t : State} (he : execVqmac f s = .next t) :
    Touches [.out, .formes, .gddr, .imp, .fault, .colo, .flash] s t := by
  unfold execVqmac at he
  refine onlyIf_touch he ?_
  (try dsimp only)
  (repeat' split) <;> simp (maxDischargeDepth := 40) only [quireRun_touch, Touches.refl, touch_foldl, touch_ite, touch_cond, id_eq, implies_true, and_self, List.mem_cons, List.mem_nil_iff, true_or, or_true, reduceCtorEq]

theorem execVqadd_touch {f : FormeIx} {s : State} {t : State} (he : execVqadd f s = .next t) :
    Touches [.out, .formes, .gddr, .imp, .fault, .colo, .flash] s t := by
  unfold execVqadd at he
  refine onlyIf_touch he ?_
  (try dsimp only)
  (repeat' split) <;> simp (maxDischargeDepth := 40) only [quireRun_touch, Touches.refl, touch_foldl, touch_ite, touch_cond, id_eq, implies_true, and_self, List.mem_cons, List.mem_nil_iff, true_or, or_true, reduceCtorEq]

theorem execVqsub_touch {f : FormeIx} {s : State} {t : State} (he : execVqsub f s = .next t) :
    Touches [.out, .formes, .gddr, .imp, .fault, .colo, .flash] s t := by
  unfold execVqsub at he
  refine onlyIf_touch he ?_
  (try dsimp only)
  (repeat' split) <;> simp (maxDischargeDepth := 40) only [quireRun_touch, Touches.refl, touch_foldl, touch_ite, touch_cond, id_eq, implies_true, and_self, List.mem_cons, List.mem_nil_iff, true_or, or_true, reduceCtorEq]

theorem execVqrnd_touch {f : FormeIx} {s : State} {t : State} (he : execVqrnd f s = .next t) :
    Touches [.out, .formes, .gddr, .tbl, .proof, .imp, .cores, .fault, .colo, .flash] s t := by
  unfold execVqrnd at he
  refine onlyIf_touch he ?_
  (try dsimp only)
  (repeat' split) <;> simp (maxDischargeDepth := 40) only [runGrid_touch, Touches.refl, touch_foldl, touch_ite, touch_cond, id_eq, implies_true, and_self, List.mem_cons, List.mem_nil_iff, true_or, or_true, reduceCtorEq]

theorem execVqred_touch {f : FormeIx} {s : State} {t : State} (he : execVqred f s = .next t) :
    Touches [.out, .formes, .gddr, .imp, .fault, .colo, .flash] s t := by
  unfold execVqred at he
  refine onlyIf_touch he ?_
  (try dsimp only)
  (repeat' split) <;> simp (maxDischargeDepth := 40) only [vqredRun_touch, Touches.refl, touch_foldl, touch_ite, touch_cond, id_eq, implies_true, and_self, List.mem_cons, List.mem_nil_iff, true_or, or_true, reduceCtorEq]

theorem execVqsave_touch {f : FormeIx} {s : State} {t : State} (he : execVqsave f s = .next t) :
    Touches [.out, .formes, .gddr, .imp, .fault, .colo, .flash] s t := by
  unfold execVqsave at he
  refine onlyIf_touch he ?_
  (try dsimp only)
  (repeat' split) <;> simp (maxDischargeDepth := 40) only [vqsaveRun_touch, Touches.refl, touch_foldl, touch_ite, touch_cond, id_eq, implies_true, and_self, List.mem_cons, List.mem_nil_iff, true_or, or_true, reduceCtorEq]

theorem execVqload_touch {f : FormeIx} {s : State} {t : State} (he : execVqload f s = .next t) :
    Touches [.out, .formes, .gddr, .imp, .fault, .colo, .flash] s t := by
  unfold execVqload at he
  refine onlyIf_touch he ?_
  (try dsimp only)
  (repeat' split) <;> simp (maxDischargeDepth := 40) only [vqloadRun_touch, Touches.refl, touch_foldl, touch_ite, touch_cond, id_eq, implies_true, and_self, List.mem_cons, List.mem_nil_iff, true_or, or_true, reduceCtorEq]

theorem execVrms_touch {f : FormeIx} {s : State} {t : State} (he : execVrms f s = .next t) :
    Touches [.out, .formes, .gddr, .tbl, .proof, .imp, .cores, .fault, .colo, .flash] s t := by
  unfold execVrms at he
  refine onlyIf_touch he ?_
  (try dsimp only)
  (repeat' split) <;> simp (maxDischargeDepth := 40) only [vrmsRun_touch, Touches.refl, touch_foldl, touch_ite, touch_cond, id_eq, implies_true, and_self, List.mem_cons, List.mem_nil_iff, true_or, or_true, reduceCtorEq]

theorem execVtopk_touch {f : FormeIx} {s : State} {t : State} (he : execVtopk f s = .next t) :
    Touches [.out, .formes, .gddr, .imp, .fault, .colo, .flash] s t := by
  unfold execVtopk at he
  refine onlyIf_touch he ?_
  (try dsimp only)
  (repeat' split) <;> simp (maxDischargeDepth := 40) only [vtopkRun_touch, Touches.refl, touch_foldl, touch_ite, touch_cond, id_eq, implies_true, and_self, List.mem_cons, List.mem_nil_iff, true_or, or_true, reduceCtorEq]

theorem execVscale_touch {f : FormeIx} {s : State} {t : State} (he : execVscale f s = .next t) :
    Touches [.out, .formes, .gddr, .imp, .fault, .colo, .flash] s t := by
  unfold execVscale at he
  refine onlyIf_touch he ?_
  (try dsimp only)
  (repeat' split) <;> simp (maxDischargeDepth := 40) only [vscaleRun_touch, Touches.refl, touch_foldl, touch_ite, touch_cond, id_eq, implies_true, and_self, List.mem_cons, List.mem_nil_iff, true_or, or_true, reduceCtorEq]

theorem execVsmooth_touch {f : FormeIx} {s : State} {t : State} (he : execVsmooth f s = .next t) :
    Touches [.free, .out, .formes, .gddr, .imp, .fault, .colo, .flash] s t := by
  unfold execVsmooth at he
  refine onlyIf_touch he ?_
  (try dsimp only)
  (repeat' split) <;> simp (maxDischargeDepth := 40) only [vsmoothRun_touch, Touches.refl, touch_foldl, touch_ite, touch_cond, id_eq, implies_true, and_self, List.mem_cons, List.mem_nil_iff, true_or, or_true, reduceCtorEq]

theorem execFunc_touch {f : FormeIx} {s : State} {t : State} (he : execFunc f s = .next t) :
    Touches [.free, .out, .formes, .gddr, .tbl, .proof, .imp, .cores, .fault, .colo, .flash] s t := by
  unfold execFunc at he
  refine onlyIf_touch he ?_
  (try dsimp only)
  (repeat' split) <;> simp (maxDischargeDepth := 40) only [funcRun_touch, Touches.refl, touch_foldl, touch_ite, touch_cond, id_eq, implies_true, and_self, List.mem_cons, List.mem_nil_iff, true_or, or_true, reduceCtorEq]

theorem execFtload_touch {f : FormeIx} {s : State} {t : State} (he : execFtload f s = .next t) :
    Touches [.formes] s t := by
  unfold execFtload at he
  refine onlyIf_touch he ?_
  (try dsimp only)
  (repeat' split) <;> simp (maxDischargeDepth := 40) only [ftloadEffect_touch, Touches.refl, touch_foldl, touch_ite, touch_cond, id_eq, implies_true, and_self, List.mem_cons, List.mem_nil_iff, true_or, or_true, reduceCtorEq]

theorem execFtloadTransferStart_touch {f : FormeIx} {s : State} {t : State} (he : execFtloadTransferStart f s = .next t) :
    Touches [.out, .formes, .imp, .span, .colo] s t := by
  unfold execFtloadTransferStart at he
  refine onlyIf_touch he ?_
  (try dsimp only)
  (repeat' split) <;> simp (maxDischargeDepth := 40) only [transferEffect_touch, Touches.refl, touch_foldl, touch_ite, touch_cond, id_eq, implies_true, and_self, List.mem_cons, List.mem_nil_iff, true_or, or_true, reduceCtorEq]

theorem execFtloadComplete_touch {f : FormeIx} {s : State} {t : State} (he : execFtloadComplete f s = .next t) :
    Touches [.out, .formes, .gddr, .imp, .fault, .colo, .flash] s t := by
  unfold execFtloadComplete at he
  refine onlyIf_touch he ?_
  (try dsimp only)
  (repeat' split) <;> simp (maxDischargeDepth := 40) only [loadEffect_touch, Touches.refl, touch_foldl, touch_ite, touch_cond, id_eq, implies_true, and_self, List.mem_cons, List.mem_nil_iff, true_or, or_true, reduceCtorEq]

theorem execTsig_touch {f : FormeIx} {s : State} {t : State} (he : execTsig f s = .next t) :
    Touches [.out, .formes, .gddr, .imp, .fault, .colo, .flash] s t := by
  unfold execTsig at he
  refine onlyIf_touch he ?_
  (try dsimp only)
  (repeat' split) <;> simp (maxDischargeDepth := 40) only [runHead_touch, Touches.refl, touch_foldl, touch_ite, touch_cond, id_eq, implies_true, and_self, List.mem_cons, List.mem_nil_iff, true_or, or_true, reduceCtorEq]

theorem execTwait_touch {f : FormeIx} {s : State} {t : State} (he : execTwait f s = .next t) :
    Touches [.out, .formes, .gddr, .imp, .fault, .colo, .flash] s t := by
  unfold execTwait at he
  refine onlyIf_touch he ?_
  (try dsimp only)
  (repeat' split) <;> simp (maxDischargeDepth := 40) only [runHead_touch, Touches.refl, touch_foldl, touch_ite, touch_cond, id_eq, implies_true, and_self, List.mem_cons, List.mem_nil_iff, true_or, or_true, reduceCtorEq]

theorem execTmark_touch {f : FormeIx} {s : State} {t : State} (he : execTmark f s = .next t) :
    Touches [.out, .formes, .gddr, .imp, .fault, .colo, .flash] s t := by
  unfold execTmark at he
  refine onlyIf_touch he ?_
  (try dsimp only)
  (repeat' split) <;> simp (maxDischargeDepth := 40) only [runHead_touch, tmarkEffect_touch, Touches.refl, touch_foldl, touch_ite, touch_cond, id_eq, implies_true, and_self, List.mem_cons, List.mem_nil_iff, true_or, or_true, reduceCtorEq]

theorem execTtime_touch {f : FormeIx} {s : State} {t : State} (he : execTtime f s = .next t) :
    Touches [.out, .formes, .gddr, .imp, .fault, .colo, .flash] s t := by
  unfold execTtime at he
  refine onlyIf_touch he ?_
  (try dsimp only)
  (repeat' split) <;> simp (maxDischargeDepth := 40) only [runHead_touch, Touches.refl, touch_foldl, touch_ite, touch_cond, id_eq, implies_true, and_self, List.mem_cons, List.mem_nil_iff, true_or, or_true, reduceCtorEq]

theorem execScalepush_touch {f : FormeIx} {s : State} {t : State} (he : execScalepush f s = .next t) :
    Touches [.free, .out, .formes, .gddr, .tbl, .proof, .imp, .cores, .fault, .colo, .flash] s t := by
  unfold execScalepush at he
  refine onlyIf_touch he ?_
  (try dsimp only)
  (repeat' split) <;> simp (maxDischargeDepth := 40) only [runHead_touch, scalepushEffect_touch, Touches.refl, touch_foldl, touch_ite, touch_cond, id_eq, implies_true, and_self, List.mem_cons, List.mem_nil_iff, true_or, or_true, reduceCtorEq]

theorem execSrseed_touch {f : FormeIx} {s : State} {t : State} (he : execSrseed f s = .next t) :
    Touches [.out, .formes, .gddr, .imp, .fault, .colo, .flash] s t := by
  unfold execSrseed at he
  refine onlyIf_touch he ?_
  (try dsimp only)
  (repeat' split) <;> simp (maxDischargeDepth := 40) only [runHead_touch, srseedEffect_touch, Touches.refl, touch_foldl, touch_ite, touch_cond, id_eq, implies_true, and_self, List.mem_cons, List.mem_nil_iff, true_or, or_true, reduceCtorEq]

theorem execSrsave_touch {f : FormeIx} {s : State} {t : State} (he : execSrsave f s = .next t) :
    Touches [.out, .formes, .gddr, .imp, .fault, .colo, .flash] s t := by
  unfold execSrsave at he
  refine onlyIf_touch he ?_
  (try dsimp only)
  (repeat' split) <;> simp (maxDischargeDepth := 40) only [runHead_touch, srsaveEffect_touch, Touches.refl, touch_foldl, touch_ite, touch_cond, id_eq, implies_true, and_self, List.mem_cons, List.mem_nil_iff, true_or, or_true, reduceCtorEq]

theorem execSrload_touch {f : FormeIx} {s : State} {t : State} (he : execSrload f s = .next t) :
    Touches [.out, .formes, .gddr, .imp, .fault, .colo, .flash] s t := by
  unfold execSrload at he
  refine onlyIf_touch he ?_
  (try dsimp only)
  (repeat' split) <;> simp (maxDischargeDepth := 40) only [runHead_touch, srloadEffect_touch, Touches.refl, touch_foldl, touch_ite, touch_cond, id_eq, implies_true, and_self, List.mem_cons, List.mem_nil_iff, true_or, or_true, reduceCtorEq]

theorem execStart_touch {s : State} {t : State} (he : execStart s = .next t) :
    Touches [.free, .out, .formes, .gddr, .imp, .cores, .fault, .colo, .flash] s t := by
  unfold execStart at he
  refine onlyIf_touch he ?_
  (try dsimp only)
  (repeat' split) <;> simp (maxDischargeDepth := 40) only [startEffect_touch, Touches.refl, touch_foldl, touch_ite, touch_cond, id_eq, implies_true, and_self, List.mem_cons, List.mem_nil_iff, true_or, or_true, reduceCtorEq]

theorem execPause_touch {s : State} {t : State} (he : execPause s = .next t) :
    Touches [.free, .out, .formes, .gddr, .imp, .cores, .colo] s t := by
  unfold execPause at he
  refine onlyIf_touch he ?_
  (try dsimp only)
  (repeat' split) <;> simp (maxDischargeDepth := 40) only [consume_touch, onFolio_touch, requestPause_touch, Touches.refl, touch_foldl, touch_ite, touch_cond, id_eq, implies_true, and_self, List.mem_cons, List.mem_nil_iff, true_or, or_true, reduceCtorEq]

theorem execSave_touch {s : State} {t : State} (he : execSave s = .next t) :
    Touches [.free, .out, .formes, .gddr, .imp, .cores, .colo] s t := by
  unfold execSave at he
  refine onlyIf_touch he ?_
  (try dsimp only)
  (repeat' split) <;> simp (maxDischargeDepth := 40) only [consume_touch, onFolio_touch, refuse_touch, requestPause_touch, Touches.refl, touch_foldl, touch_ite, touch_cond, id_eq, implies_true, and_self, List.mem_cons, List.mem_nil_iff, true_or, or_true, reduceCtorEq]

theorem execResume_touch {s : State} {t : State} (he : execResume s = .next t) :
    Touches [.free, .out, .formes, .gddr, .imp, .cores, .fault, .colo, .flash] s t := by
  unfold execResume at he
  refine onlyIf_touch he ?_
  (try dsimp only)
  (repeat' split) <;> simp (maxDischargeDepth := 40) only [consume_touch, submitCmd_touch, Touches.refl, touch_foldl, touch_ite, touch_cond, id_eq, implies_true, and_self, List.mem_cons, List.mem_nil_iff, true_or, or_true, reduceCtorEq]

theorem execContinueFolio_touch {s : State} {t : State} (he : execContinueFolio s = .next t) :
    Touches [.free, .out, .formes, .gddr, .imp, .cores, .colo] s t := by
  unfold execContinueFolio at he
  refine onlyIf_touch he ?_
  (try dsimp only)
  (repeat' split) <;> simp (maxDischargeDepth := 40) only [consume_touch, modFolio_touch, onFolio_touch, refuse_touch, setFolioFormes_touch, Touches.refl, touch_foldl, touch_ite, touch_cond, id_eq, implies_true, and_self, List.mem_cons, List.mem_nil_iff, true_or, or_true, reduceCtorEq]

theorem execDiscard_touch {s : State} {t : State} (he : execDiscard s = .next t) :
    Touches [.free, .out, .formes, .gddr, .imp, .cores, .colo] s t := by
  unfold execDiscard at he
  refine onlyIf_touch he ?_
  (try dsimp only)
  (repeat' split) <;> simp (maxDischargeDepth := 40) only [consume_touch, endFolio_touch, onFolio_touch, refuse_touch, Touches.refl, touch_foldl, touch_ite, touch_cond, id_eq, implies_true, and_self, List.mem_cons, List.mem_nil_iff, true_or, or_true, reduceCtorEq]

theorem execFolioStart_touch {s : State} {t : State} (he : execFolioStart s = .next t) :
    Touches [.free, .out, .formes, .gddr, .imp, .cores, .fault, .colo, .flash] s t := by
  unfold execFolioStart at he
  refine onlyIf_touch he ?_
  (try dsimp only)
  (repeat' split) <;> simp (maxDischargeDepth := 40) only [choose_touch, Touches.refl, touch_foldl, touch_ite, touch_cond, id_eq, implies_true, and_self, List.mem_cons, List.mem_nil_iff, true_or, or_true, reduceCtorEq]

theorem execFolioComplete_touch {handle : BitVec 16} {replies : List Reply} {s : State} {t : State} (he : execFolioComplete handle replies s = .next t) :
    Touches [.free, .out, .formes, .gddr, .imp, .cores, .svc, .fault, .colo, .flash] s t := by
  unfold execFolioComplete at he
  refine onlyIf_touch he ?_
  (try dsimp only)
  (repeat' split) <;> simp (maxDischargeDepth := 40) only [folioDoneEffect_touch, replyIn_touch, Touches.refl, touch_foldl, touch_ite, touch_cond, id_eq, implies_true, and_self, List.mem_cons, List.mem_nil_iff, true_or, or_true, reduceCtorEq]

theorem execFolioPaused_touch {h : BitVec 16} {s : State} {t : State} (he : execFolioPaused h s = .next t) :
    Touches [.free, .out, .formes, .gddr, .imp, .cores, .colo] s t := by
  unfold execFolioPaused at he
  refine onlyIf_touch he ?_
  (try dsimp only)
  (repeat' split) <;> simp (maxDischargeDepth := 40) only [pausedEffect_touch, Touches.refl, touch_foldl, touch_ite, touch_cond, id_eq, implies_true, and_self, List.mem_cons, List.mem_nil_iff, true_or, or_true, reduceCtorEq]

theorem execSaveComplete_touch {h : BitVec 16} {s : State} {t : State} (he : execSaveComplete h s = .next t) :
    Touches [.free, .out, .formes, .gddr, .imp, .cores, .fault, .colo, .flash] s t := by
  unfold execSaveComplete at he
  refine onlyIf_touch he ?_
  (try dsimp only)
  (repeat' split) <;> simp (maxDischargeDepth := 40) only [saveEffect_touch, Touches.refl, touch_foldl, touch_ite, touch_cond, id_eq, implies_true, and_self, List.mem_cons, List.mem_nil_iff, true_or, or_true, reduceCtorEq]

theorem execImposerCmdRing_touch {v : Word} {s : State} {t : State} (he : execImposerCmdRing v s = .next t) :
    Touches [.imp] s t := by
  unfold execImposerCmdRing at he
  refine onlyIf_touch he ?_
  (try dsimp only)
  (repeat' split) <;> simp (maxDischargeDepth := 40) only [writeCmdRing_touch, Touches.refl, touch_foldl, touch_ite, touch_cond, id_eq, implies_true, and_self, List.mem_cons, List.mem_nil_iff, true_or, or_true, reduceCtorEq]

theorem execImposerEvtRing_touch {v : Word} {s : State} {t : State} (he : execImposerEvtRing v s = .next t) :
    Touches [.out, .gddr, .imp, .cores, .colo] s t := by
  unfold execImposerEvtRing at he
  refine onlyIf_touch he ?_
  (try dsimp only)
  (repeat' split) <;> simp (maxDischargeDepth := 40) only [writeEvtRing_touch, Touches.refl, touch_foldl, touch_ite, touch_cond, id_eq, implies_true, and_self, List.mem_cons, List.mem_nil_iff, true_or, or_true, reduceCtorEq]

theorem execImposerCmdDoorbell_touch {v : Word} {s : State} {t : State} (he : execImposerCmdDoorbell v s = .next t) :
    Touches [.imp] s t := by
  unfold execImposerCmdDoorbell at he
  refine onlyIf_touch he ?_
  (try dsimp only)
  (repeat' split) <;> simp (maxDischargeDepth := 40) only [cmdBell_touch, Touches.refl, touch_foldl, touch_ite, touch_cond, id_eq, implies_true, and_self, List.mem_cons, List.mem_nil_iff, true_or, or_true, reduceCtorEq]

theorem execImposerEvtDoorbell_touch {v : Word} {s : State} {t : State} (he : execImposerEvtDoorbell v s = .next t) :
    Touches [.out, .gddr, .imp, .cores, .colo] s t := by
  unfold execImposerEvtDoorbell at he
  refine onlyIf_touch he ?_
  (try dsimp only)
  (repeat' split) <;> simp (maxDischargeDepth := 40) only [evtBell_touch, Touches.refl, touch_foldl, touch_ite, touch_cond, id_eq, implies_true, and_self, List.mem_cons, List.mem_nil_iff, true_or, or_true, reduceCtorEq]

theorem execControlInterval_touch {watts : Nat} {s : State} {t : State} (he : execControlInterval watts s = .next t) :
    Touches [.imp, .colo] s t := by
  unfold execControlInterval at he
  refine onlyIf_touch he ?_
  (try dsimp only)
  (repeat' split) <;> simp (maxDischargeDepth := 40) only [controlEffect_touch, Touches.refl, touch_foldl, touch_ite, touch_cond, id_eq, implies_true, and_self, List.mem_cons, List.mem_nil_iff, true_or, or_true, reduceCtorEq]

theorem execCurrentLimit_touch {s : State} {t : State} (he : execCurrentLimit s = .next t) :
    Touches [.imp, .colo] s t := by
  unfold execCurrentLimit at he
  refine onlyIf_touch he ?_
  (try dsimp only)
  (repeat' split) <;> simp (maxDischargeDepth := 40) only [limitEffect_touch, Touches.refl, touch_foldl, touch_ite, touch_cond, id_eq, implies_true, and_self, List.mem_cons, List.mem_nil_iff, true_or, or_true, reduceCtorEq]

theorem execCurrentLimitEnd_touch {s : State} {t : State} (he : execCurrentLimitEnd s = .next t) :
    Touches [.imp] s t := by
  unfold execCurrentLimitEnd at he
  refine onlyIf_touch he ?_
  (try dsimp only)
  (repeat' split) <;> simp (maxDischargeDepth := 40) only [touch_imp, Touches.refl, touch_foldl, touch_ite, touch_cond, id_eq, implies_true, and_self, List.mem_cons, List.mem_nil_iff, true_or, or_true, reduceCtorEq]

theorem execThermalSample_touch {dieMc memMc : Int} {s : State} {t : State} (he : execThermalSample dieMc memMc s = .next t) :
    Touches [.out, .formes, .imp, .span, .abut, .cores, .svc, .fault, .colo, .boot, .flash, .sec, .pwr] s t := by
  unfold execThermalSample at he
  refine onlyIf_touch he ?_
  (try dsimp only)
  (repeat' split) <;> simp (maxDischargeDepth := 40) only [thermalSampleEffect_touch, Touches.refl, touch_foldl, touch_ite, touch_cond, id_eq, implies_true, and_self, List.mem_cons, List.mem_nil_iff, true_or, or_true, reduceCtorEq]

theorem execStepClose_touch {v : Word} {s : State} {t : State} (he : execStepClose v s = .next t) :
    Touches [.proof] s t := by
  unfold execStepClose at he
  refine onlyIf_touch he ?_
  (try dsimp only)
  (repeat' split) <;> simp (maxDischargeDepth := 40) only [requestClose_touch, Touches.refl, touch_foldl, touch_ite, touch_cond, id_eq, implies_true, and_self, List.mem_cons, List.mem_nil_iff, true_or, or_true, reduceCtorEq]

theorem execCloseStep_touch {s : State} {t : State} (he : execCloseStep s = .next t) :
    Touches [.out, .tbl, .proof, .cores, .colo] s t := by
  unfold execCloseStep at he
  refine onlyIf_touch he ?_
  (try dsimp only)
  (repeat' split) <;> simp (maxDischargeDepth := 40) only [closeEffect_touch, Touches.refl, touch_foldl, touch_ite, touch_cond, id_eq, implies_true, and_self, List.mem_cons, List.mem_nil_iff, true_or, or_true, reduceCtorEq]

theorem execProofAlarmRead_touch {s : State} {t : State} (he : execProofAlarmRead s = .next t) :
    Touches [.free, .out, .formes, .gddr, .tbl, .proof, .imp, .log, .span, .abut, .cores, .fault, .colo, .flash] s t := by
  unfold execProofAlarmRead at he
  refine onlyIf_touch he ?_
  (try dsimp only)
  (repeat' split) <;> simp (maxDischargeDepth := 40) only [emit_touch, readData_touch, touch_proof, Touches.refl, touch_foldl, touch_ite, touch_cond, id_eq, implies_true, and_self, List.mem_cons, List.mem_nil_iff, true_or, or_true, reduceCtorEq]

theorem execWclr_touch {tag : BitVec 12} {s : State} {t : State} (he : execWclr tag s = .next t) :
    Touches [.tbl] s t := by
  unfold execWclr at he
  refine onlyIf_touch he ?_
  (try dsimp only)
  (repeat' split) <;> simp (maxDischargeDepth := 40) only [setTag_touch, Touches.refl, touch_foldl, touch_ite, touch_cond, id_eq, implies_true, and_self, List.mem_cons, List.mem_nil_iff, true_or, or_true, reduceCtorEq]

theorem execAccEventsRead_touch {f : FormeIx} {s : State} {t : State} (he : execAccEventsRead f s = .next t) :
    Touches [.free, .out, .formes, .gddr, .tbl, .proof, .imp, .log, .span, .abut, .cores, .fault, .colo, .flash] s t := by
  unfold execAccEventsRead at he
  refine onlyIf_touch he ?_
  (try dsimp only)
  (repeat' split) <;> simp (maxDischargeDepth := 40) only [accEventsReadEffect_touch, Touches.refl, touch_foldl, touch_ite, touch_cond, id_eq, implies_true, and_self, List.mem_cons, List.mem_nil_iff, true_or, or_true, reduceCtorEq]

theorem execSpanLinkRead_touch {p : Fin 11} {s : State} {t : State} (he : execSpanLinkRead p s = .next t) :
    Touches [.free, .out, .formes, .gddr, .tbl, .proof, .imp, .log, .span, .abut, .cores, .fault, .colo, .flash] s t := by
  unfold execSpanLinkRead at he
  refine onlyIf_touch he ?_
  (try dsimp only)
  (repeat' split) <;> simp (maxDischargeDepth := 40) only [linkReadEffect_touch, Touches.refl, touch_foldl, touch_ite, touch_cond, id_eq, implies_true, and_self, List.mem_cons, List.mem_nil_iff, true_or, or_true, reduceCtorEq]

theorem execPressRetire_touch {f : FormeIx} {v : Word} {s : State} {t : State} (he : execPressRetire f v s = .next t) :
    Touches [.formes] s t := by
  unfold execPressRetire at he
  refine onlyIf_touch he ?_
  (try dsimp only)
  (repeat' split) <;> simp (maxDischargeDepth := 40) only [modForme_touch, Touches.refl, touch_foldl, touch_ite, touch_cond, id_eq, implies_true, and_self, List.mem_cons, List.mem_nil_iff, true_or, or_true, reduceCtorEq]

theorem execBankRetire_touch {f : FormeIx} {v : Word} {s : State} {t : State} (he : execBankRetire f v s = .next t) :
    Touches [.formes] s t := by
  unfold execBankRetire at he
  refine onlyIf_touch he ?_
  (try dsimp only)
  (repeat' split) <;> simp (maxDischargeDepth := 40) only [modForme_touch, Touches.refl, touch_foldl, touch_ite, touch_cond, id_eq, implies_true, and_self, List.mem_cons, List.mem_nil_iff, true_or, or_true, reduceCtorEq]

theorem execRegisterWrite_touch {addr : Addr} {v : Word} {s : State} {t : State} (he : execRegisterWrite addr v s = .next t) :
    Touches [.free, .out, .formes, .gddr, .tbl, .proof, .imp, .bars, .log, .span, .coll, .abut, .cores, .svc, .fault, .check, .colo, .boot, .flash, .sec, .pwr] s t := by
  unfold execRegisterWrite at he
  refine onlyIf_touch he ?_
  (try dsimp only)
  (repeat' split) <;> simp (maxDischargeDepth := 40) only [mmioWrite_touch, Touches.refl, touch_foldl, touch_ite, touch_cond, id_eq, implies_true, and_self, List.mem_cons, List.mem_nil_iff, true_or, or_true, reduceCtorEq]

theorem execExtRetireGo_touch {v : Word} {s : State} {t : State} (he : execExtRetireGo v s = .next t) :
    Touches [.out, .gddr, .cores, .colo, .flash] s t := by
  unfold execExtRetireGo at he
  refine onlyIf_touch he ?_
  (try dsimp only)
  (repeat' split) <;> simp (maxDischargeDepth := 40) only [writeExtRetire_touch, Touches.refl, touch_foldl, touch_ite, touch_cond, id_eq, implies_true, and_self, List.mem_cons, List.mem_nil_iff, true_or, or_true, reduceCtorEq]

theorem execExtMigrationComplete_touch {s : State} {t : State} (he : execExtMigrationComplete s = .next t) :
    Touches [.out, .formes, .gddr, .cores, .fault, .colo, .flash] s t := by
  unfold execExtMigrationComplete at he
  refine onlyIf_touch he ?_
  (try dsimp only)
  (repeat' split) <;> simp (maxDischargeDepth := 40) only [migrationDone_touch, Touches.refl, touch_foldl, touch_ite, touch_cond, id_eq, implies_true, and_self, List.mem_cons, List.mem_nil_iff, true_or, or_true, reduceCtorEq]

theorem execChannelRetrain_touch {ch : Fin 80} {s : State} {t : State} (he : execChannelRetrain ch s = .next t) :
    Touches [.gddr, .colo] s t := by
  unfold execChannelRetrain at he
  refine onlyIf_touch he ?_
  (try dsimp only)
  (repeat' split) <;> simp (maxDischargeDepth := 40) only [retrainTrigger_touch, Touches.refl, touch_foldl, touch_ite, touch_cond, id_eq, implies_true, and_self, List.mem_cons, List.mem_nil_iff, true_or, or_true, reduceCtorEq]

theorem execRetrainTimer_touch {ch : Fin 80} {s : State} {t : State} (he : execRetrainTimer ch s = .next t) :
    Touches [.gddr, .colo] s t := by
  unfold execRetrainTimer at he
  refine onlyIf_touch he ?_
  (try dsimp only)
  (repeat' split) <;> simp (maxDischargeDepth := 40) only [retrainTrigger_touch, Touches.refl, touch_foldl, touch_ite, touch_cond, id_eq, implies_true, and_self, List.mem_cons, List.mem_nil_iff, true_or, or_true, reduceCtorEq]

theorem execRefresh_touch {_ch : Fin 80} {_bank : Fin 16} {s : State} {t : State} (he : execRefresh _ch _bank s = .next t) : Touches [] s t := by
  unfold execRefresh at he
  injection he with he
  subst he
  exact Touches.refl _ _

theorem execTimebaseMeasure_touch {p : Fin 11} {delay : BitVec 16} {offset : BitVec 32} {s : State} {t : State} (he : execTimebaseMeasure p delay offset s = .next t) :
    Touches [.tb, .span] s t := by
  unfold execTimebaseMeasure at he
  refine onlyIf_touch he ?_
  (try dsimp only)
  (repeat' split) <;> simp (maxDischargeDepth := 40) only [measureEffect_touch, Touches.refl, touch_foldl, touch_ite, touch_cond, id_eq, implies_true, and_self, List.mem_cons, List.mem_nil_iff, true_or, or_true, reduceCtorEq]

theorem execKeystoneArrive_touch {b : Fin 4} {v : Word} {s : State} {t : State} (he : execKeystoneArrive b v s = .next t) :
    Touches [.out, .bars, .span, .cores, .colo] s t := by
  unfold execKeystoneArrive at he
  refine onlyIf_touch he ?_
  (try dsimp only)
  (repeat' split) <;> simp (maxDischargeDepth := 40) only [writeBar_touch, Touches.refl, touch_foldl, touch_ite, touch_cond, id_eq, implies_true, and_self, List.mem_cons, List.mem_nil_iff, true_or, or_true, reduceCtorEq]

theorem execCancel_touch {b : Fin 4} {v : Word} {s : State} {t : State} (he : execCancel b v s = .next t) :
    Touches [.out, .bars, .span, .cores, .colo] s t := by
  unfold execCancel at he
  refine onlyIf_touch he ?_
  (try dsimp only)
  (repeat' split) <;> simp (maxDischargeDepth := 40) only [writeBar_touch, Touches.refl, touch_foldl, touch_ite, touch_cond, id_eq, implies_true, and_self, List.mem_cons, List.mem_nil_iff, true_or, or_true, reduceCtorEq]

theorem execKeystoneRelease_touch {b : Fin 4} {s : State} {t : State} (he : execKeystoneRelease b s = .next t) :
    Touches [.out, .formes, .bars, .cores, .colo] s t := by
  unfold execKeystoneRelease at he
  refine onlyIf_touch he ?_
  (try dsimp only)
  (repeat' split) <;> simp (maxDischargeDepth := 40) only [releaseEffect_touch, Touches.refl, touch_foldl, touch_ite, touch_cond, id_eq, implies_true, and_self, List.mem_cons, List.mem_nil_iff, true_or, or_true, reduceCtorEq]

theorem execKeystoneTimeout_touch {b : Fin 4} {s : State} {t : State} (he : execKeystoneTimeout b s = .next t) :
    Touches [.out, .bars, .span, .cores, .colo] s t := by
  unfold execKeystoneTimeout at he
  refine onlyIf_touch he ?_
  (try dsimp only)
  (repeat' split) <;> simp (maxDischargeDepth := 40) only [abortBar_touch, Touches.refl, touch_foldl, touch_ite, touch_cond, id_eq, implies_true, and_self, List.mem_cons, List.mem_nil_iff, true_or, or_true, reduceCtorEq]

theorem execArrivalExpiry_touch {b : Fin 4} {die : BitVec 12} {s : State} {t : State} (he : execArrivalExpiry b die s = .next t) :
    Touches [.bars] s t := by
  unfold execArrivalExpiry at he
  refine onlyIf_touch he ?_
  (try dsimp only)
  (repeat' split) <;> simp (maxDischargeDepth := 40) only [modBar_touch, Touches.refl, touch_foldl, touch_ite, touch_cond, id_eq, implies_true, and_self, List.mem_cons, List.mem_nil_iff, true_or, or_true, reduceCtorEq]

theorem execImpressionAppend_touch {v : Word} {s : State} {t : State} (he : execImpressionAppend v s = .next t) :
    Touches [.out, .formes, .gddr, .log, .fault, .colo, .flash] s t := by
  unfold execImpressionAppend at he
  refine onlyIf_touch he ?_
  (try dsimp only)
  (repeat' split) <;> simp (maxDischargeDepth := 40) only [writeAppend_touch, Touches.refl, touch_foldl, touch_ite, touch_cond, id_eq, implies_true, and_self, List.mem_cons, List.mem_nil_iff, true_or, or_true, reduceCtorEq]

theorem execSpanFrameReceive_touch {p : Fin 11} {fr : SpanFrame} {s : State} {t : State} (he : execSpanFrameReceive p fr s = .next t) :
    Touches [.out, .tbl, .span, .colo] s t := by
  unfold execSpanFrameReceive at he
  refine onlyIf_touch he ?_
  (try dsimp only)
  (repeat' split) <;> simp (maxDischargeDepth := 40) only [frameEffect_touch, Touches.refl, touch_foldl, touch_ite, touch_cond, id_eq, implies_true, and_self, List.mem_cons, List.mem_nil_iff, true_or, or_true, reduceCtorEq]

theorem execLinkRetrain_touch {p : Fin 11} {s : State} {t : State} (he : execLinkRetrain p s = .next t) :
    Touches [.span, .colo] s t := by
  unfold execLinkRetrain at he
  refine onlyIf_touch he ?_
  (try dsimp only)
  (repeat' split) <;> simp (maxDischargeDepth := 40) only [retrainEffect_touch, Touches.refl, touch_foldl, touch_ite, touch_cond, id_eq, implies_true, and_self, List.mem_cons, List.mem_nil_iff, true_or, or_true, reduceCtorEq]

theorem execLinkTrainingComplete_touch {p : Fin 11} {r : TrainReport} {s : State} {t : State} (he : execLinkTrainingComplete p r s = .next t) :
    Touches [.out, .tb, .formes, .tbl, .span, .abut, .cores, .svc, .fault, .colo, .boot, .flash, .sec, .pwr] s t := by
  unfold execLinkTrainingComplete at he
  refine onlyIf_touch he ?_
  (try dsimp only)
  (repeat' split) <;> simp (maxDischargeDepth := 40) only [trainingEffect_touch, Touches.refl, touch_foldl, touch_ite, touch_cond, id_eq, implies_true, and_self, List.mem_cons, List.mem_nil_iff, true_or, or_true, reduceCtorEq]

theorem execLinkDown_touch {p : Fin 11} {s : State} {t : State} (he : execLinkDown p s = .next t) :
    Touches [.tbl, .span] s t := by
  unfold execLinkDown at he
  refine onlyIf_touch he ?_
  (try dsimp only)
  (repeat' split) <;> simp (maxDischargeDepth := 40) only [modPort_touch, updateRoutes_touch, Touches.refl, touch_foldl, touch_ite, touch_cond, id_eq, implies_true, and_self, List.mem_cons, List.mem_nil_iff, true_or, or_true, reduceCtorEq]

theorem execLinkHold_touch {p : Fin 11} {v : Word} {s : State} {t : State} (he : execLinkHold p v s = .next t) :
    Touches [.out, .tbl, .span] s t := by
  unfold execLinkHold at he
  refine onlyIf_touch he ?_
  (try dsimp only)
  (repeat' split) <;> simp (maxDischargeDepth := 40) only [writeLink_touch, Touches.refl, touch_foldl, touch_ite, touch_cond, id_eq, implies_true, and_self, List.mem_cons, List.mem_nil_iff, true_or, or_true, reduceCtorEq]

theorem execRouteEntryWrite_touch {id : BitVec 12} {v : Word} {s : State} {t : State} (he : execRouteEntryWrite id v s = .next t) :
    Touches [.tbl] s t := by
  unfold execRouteEntryWrite at he
  refine onlyIf_touch he ?_
  (try dsimp only)
  (repeat' split) <;> simp (maxDischargeDepth := 40) only [writeRoute_touch, Touches.refl, touch_foldl, touch_ite, touch_cond, id_eq, implies_true, and_self, List.mem_cons, List.mem_nil_iff, true_or, or_true, reduceCtorEq]

theorem execSpanWrite_touch {p : Fin 11} {s : State} {t : State} (he : execSpanWrite p s = .next t) :
    Touches [.out, .formes, .gddr, .tbl, .span, .colo] s t := by
  unfold execSpanWrite at he
  refine onlyIf_touch he ?_
  (try dsimp only)
  (repeat' split) <;> simp (maxDischargeDepth := 40) only [answerCorrupt_touch, onPacket_touch, writePacketEffect_touch, Touches.refl, touch_foldl, touch_ite, touch_cond, id_eq, implies_true, and_self, List.mem_cons, List.mem_nil_iff, true_or, or_true, reduceCtorEq]

theorem execSpanReadReq_touch {p : Fin 11} {s : State} {t : State} (he : execSpanReadReq p s = .next t) :
    Touches [.out, .formes, .gddr, .imp, .span, .fault, .colo, .flash] s t := by
  unfold execSpanReadReq at he
  refine onlyIf_touch he ?_
  (try dsimp only)
  (repeat' split) <;> simp (maxDischargeDepth := 40) only [answerCorrupt_touch, onPacket_touch, readReqEffect_touch, Touches.refl, touch_foldl, touch_ite, touch_cond, id_eq, implies_true, and_self, List.mem_cons, List.mem_nil_iff, true_or, or_true, reduceCtorEq]

theorem execSpanReadResp_touch {p : Fin 11} {s : State} {t : State} (he : execSpanReadResp p s = .next t) :
    Touches [.free, .out, .formes, .gddr, .tbl, .proof, .imp, .span, .abut, .cores, .fault, .colo, .flash] s t := by
  unfold execSpanReadResp at he
  refine onlyIf_touch he ?_
  (try dsimp only)
  (repeat' split) <;> simp (maxDischargeDepth := 40) only [onPacket_touch, readRespEffect_touch, respCorrupt_touch, Touches.refl, touch_foldl, touch_ite, touch_cond, id_eq, implies_true, and_self, List.mem_cons, List.mem_nil_iff, true_or, or_true, reduceCtorEq]

theorem execSpanAck_touch {p : Fin 11} {s : State} {t : State} (he : execSpanAck p s = .next t) :
    Touches [.out, .formes, .span, .coll, .colo] s t := by
  unfold execSpanAck at he
  refine onlyIf_touch he ?_
  (try dsimp only)
  (repeat' split) <;> simp (maxDischargeDepth := 40) only [ackEffect_touch, onPacket_touch, Touches.refl, touch_foldl, touch_ite, touch_cond, id_eq, implies_true, and_self, List.mem_cons, List.mem_nil_iff, true_or, or_true, reduceCtorEq]

theorem execSpanNack_touch {p : Fin 11} {s : State} {t : State} (he : execSpanNack p s = .next t) :
    Touches [.free, .out, .formes, .gddr, .tbl, .imp, .bars, .span, .coll, .abut, .cores, .fault, .colo, .flash] s t := by
  unfold execSpanNack at he
  refine onlyIf_touch he ?_
  (try dsimp only)
  (repeat' split) <;> simp (maxDischargeDepth := 40) only [nackEffect_touch, onPacket_touch, Touches.refl, touch_foldl, touch_ite, touch_cond, id_eq, implies_true, and_self, List.mem_cons, List.mem_nil_iff, true_or, or_true, reduceCtorEq]

theorem execKeystone_touch {p : Fin 11} {s : State} {t : State} (he : execKeystone p s = .next t) :
    Touches [.out, .formes, .bars, .span, .cores, .colo] s t := by
  unfold execKeystone at he
  refine onlyIf_touch he ?_
  (try dsimp only)
  (repeat' split) <;> simp (maxDischargeDepth := 40) only [answerCorrupt_touch, keystoneEffect_touch, onPacket_touch, Touches.refl, touch_foldl, touch_ite, touch_cond, id_eq, implies_true, and_self, List.mem_cons, List.mem_nil_iff, true_or, or_true, reduceCtorEq]

theorem execEthfwd_touch {p : Fin 11} {s : State} {t : State} (he : execEthfwd p s = .next t) :
    Touches [.free, .out, .formes, .gddr, .log, .span, .abut, .cores, .svc, .colo] s t := by
  unfold execEthfwd at he
  refine onlyIf_touch he ?_
  (try dsimp only)
  (repeat' split) <;> simp (maxDischargeDepth := 40) only [answerCorrupt_touch, ethfwdEffect_touch, onPacket_touch, Touches.refl, touch_foldl, touch_ite, touch_cond, id_eq, implies_true, and_self, List.mem_cons, List.mem_nil_iff, true_or, or_true, reduceCtorEq]

theorem execCollGo_touch {i : Fin 8} {v : Word} {s : State} {t : State} (he : execCollGo i v s = .next t) :
    Touches [.free, .out, .formes, .gddr, .tbl, .imp, .span, .coll, .cores, .fault, .colo, .flash] s t := by
  unfold execCollGo at he
  refine onlyIf_touch he ?_
  (try dsimp only)
  (repeat' split) <;> simp (maxDischargeDepth := 40) only [writeColl_touch, Touches.refl, touch_foldl, touch_ite, touch_cond, id_eq, implies_true, and_self, List.mem_cons, List.mem_nil_iff, true_or, or_true, reduceCtorEq]

theorem execCollAnnouncement_touch {p : Fin 11} {s : State} {t : State} (he : execCollAnnouncement p s = .next t) :
    Touches [.free, .out, .formes, .gddr, .tbl, .span, .coll, .cores, .colo] s t := by
  unfold execCollAnnouncement at he
  refine onlyIf_touch he ?_
  (try dsimp only)
  (repeat' split) <;> simp (maxDischargeDepth := 40) only [annEffect_touch, answerCorrupt_touch, onPacket_touch, Touches.refl, touch_foldl, touch_ite, touch_cond, id_eq, implies_true, and_self, List.mem_cons, List.mem_nil_iff, true_or, or_true, reduceCtorEq]

theorem execCollData_touch {p : Fin 11} {s : State} {t : State} (he : execCollData p s = .next t) :
    Touches [.free, .out, .formes, .gddr, .tbl, .span, .coll, .cores, .colo] s t := by
  unfold execCollData at he
  refine onlyIf_touch he ?_
  (try dsimp only)
  (repeat' split) <;> simp (maxDischargeDepth := 40) only [answerCorrupt_touch, dataEffect_touch, onPacket_touch, Touches.refl, touch_foldl, touch_ite, touch_cond, id_eq, implies_true, and_self, List.mem_cons, List.mem_nil_iff, true_or, or_true, reduceCtorEq]

theorem execAnnounceRepeat_touch {i : Fin 8} {peer : BitVec 12} {s : State} {t : State} (he : execAnnounceRepeat i peer s = .next t) :
    Touches [.free, .out, .formes, .gddr, .tbl, .span, .coll, .cores, .colo] s t := by
  unfold execAnnounceRepeat at he
  refine onlyIf_touch he ?_
  (try dsimp only)
  (repeat' split) <;> simp (maxDischargeDepth := 40) only [repeatEffect_touch, Touches.refl, touch_foldl, touch_ite, touch_cond, id_eq, implies_true, and_self, List.mem_cons, List.mem_nil_iff, true_or, or_true, reduceCtorEq]

theorem execCollComplete_touch {i : Fin 8} {s : State} {t : State} (he : execCollComplete i s = .next t) :
    Touches [.out, .formes, .gddr, .tbl, .coll, .cores, .colo] s t := by
  unfold execCollComplete at he
  refine onlyIf_touch he ?_
  (try dsimp only)
  (repeat' split) <;> simp (maxDischargeDepth := 40) only [collDoneEffect_touch, Touches.refl, touch_foldl, touch_ite, touch_cond, id_eq, implies_true, and_self, List.mem_cons, List.mem_nil_iff, true_or, or_true, reduceCtorEq]

theorem execCollTimeout_touch {i : Fin 8} {s : State} {t : State} (he : execCollTimeout i s = .next t) :
    Touches [.free, .out, .formes, .gddr, .tbl, .coll, .cores, .colo] s t := by
  unfold execCollTimeout at he
  refine onlyIf_touch he ?_
  (try dsimp only)
  (repeat' split) <;> simp (maxDischargeDepth := 40) only [collFail_touch, Touches.refl, touch_foldl, touch_ite, touch_cond, id_eq, implies_true, and_self, List.mem_cons, List.mem_nil_iff, true_or, or_true, reduceCtorEq]

theorem execEthFrameReceive_touch {fr : EthFrame} {s : State} {t : State} (he : execEthFrameReceive fr s = .next t) :
    Touches [.free, .out, .formes, .gddr, .log, .span, .abut, .cores, .svc, .colo] s t := by
  unfold execEthFrameReceive at he
  refine onlyIf_touch he ?_
  (try dsimp only)
  (repeat' split) <;> simp (maxDischargeDepth := 40) only [ethFrameEffect_touch, Touches.refl, touch_foldl, touch_ite, touch_cond, id_eq, implies_true, and_self, List.mem_cons, List.mem_nil_iff, true_or, or_true, reduceCtorEq]

theorem execAbutLinkChange_touch {link : BitVec 2} {s : State} {t : State} (he : execAbutLinkChange link s = .next t) :
    Touches [.abut] s t := by
  unfold execAbutLinkChange at he
  refine onlyIf_touch he ?_
  (try dsimp only)
  (repeat' split) <;> simp (maxDischargeDepth := 40) only [touch_abut, Touches.refl, touch_foldl, touch_ite, touch_cond, id_eq, implies_true, and_self, List.mem_cons, List.mem_nil_iff, true_or, or_true, reduceCtorEq]

theorem execForwardGraceEnd_touch {d : Fin 8} {s : State} {t : State} (he : execForwardGraceEnd d s = .next t) :
    Touches [.abut] s t := by
  unfold execForwardGraceEnd at he
  refine onlyIf_touch he ?_
  (try dsimp only)
  (repeat' split) <;> simp (maxDischargeDepth := 40) only [touch_abut, Touches.refl, touch_foldl, touch_ite, touch_cond, id_eq, implies_true, and_self, List.mem_cons, List.mem_nil_iff, true_or, or_true, reduceCtorEq]

theorem execRoceSendIn_touch {s : State} {t : State} (he : execRoceSendIn s = .next t) :
    Touches [.free, .out, .tb, .formes, .gddr, .tbl, .proof, .imp, .bars, .log, .span, .coll, .abut, .cores, .svc, .fault, .check, .colo, .boot, .flash, .upd, .sec, .pwr] s t := by
  unfold execRoceSendIn at he
  refine onlyIf_touch he ?_
  (try dsimp only)
  (repeat' split) <;> simp (maxDischargeDepth := 40) only [ackAgain_touch, onRequest_touch, sendIn_touch, Touches.refl, touch_foldl, touch_ite, touch_cond, id_eq, implies_true, and_self, List.mem_cons, List.mem_nil_iff, true_or, or_true, reduceCtorEq]

theorem execRoceWriteIn_touch {s : State} {t : State} (he : execRoceWriteIn s = .next t) :
    Touches [.free, .out, .tb, .formes, .gddr, .tbl, .proof, .imp, .bars, .log, .span, .coll, .abut, .cores, .svc, .fault, .check, .colo, .boot, .flash, .upd, .sec, .pwr] s t := by
  unfold execRoceWriteIn at he
  refine onlyIf_touch he ?_
  (try dsimp only)
  (repeat' split) <;> simp (maxDischargeDepth := 40) only [ackAgain_touch, dataIn_touch, onRequest_touch, Touches.refl, touch_foldl, touch_ite, touch_cond, id_eq, implies_true, and_self, List.mem_cons, List.mem_nil_iff, true_or, or_true, reduceCtorEq]

theorem execRoceReadIn_touch {s : State} {t : State} (he : execRoceReadIn s = .next t) :
    Touches [.free, .out, .tb, .formes, .gddr, .tbl, .proof, .imp, .bars, .log, .span, .coll, .abut, .cores, .svc, .fault, .check, .colo, .boot, .flash, .upd, .sec, .pwr] s t := by
  unfold execRoceReadIn at he
  refine onlyIf_touch he ?_
  (try dsimp only)
  (repeat' split) <;> simp (maxDischargeDepth := 40) only [onRequest_touch, readIn_touch, serveReadIn_touch, Touches.refl, touch_foldl, touch_ite, touch_cond, id_eq, implies_true, and_self, List.mem_cons, List.mem_nil_iff, true_or, or_true, reduceCtorEq]

theorem execRoceResponseIn_touch {s : State} {t : State} (he : execRoceResponseIn s = .next t) :
    Touches [.free, .out, .formes, .gddr, .tbl, .proof, .imp, .log, .span, .abut, .cores, .fault, .colo, .flash] s t := by
  unfold execRoceResponseIn at he
  refine onlyIf_touch he ?_
  (try dsimp only)
  (repeat' split) <;> simp (maxDischargeDepth := 40) only [responseIn_touch, Touches.refl, touch_foldl, touch_ite, touch_cond, id_eq, implies_true, and_self, List.mem_cons, List.mem_nil_iff, true_or, or_true, reduceCtorEq]

theorem execCnpIn_touch {s : State} {t : State} (he : execCnpIn s = .next t) :
    Touches [.abut, .colo] s t := by
  unfold execCnpIn at he
  refine onlyIf_touch he ?_
  (try dsimp only)
  (repeat' split) <;> simp (maxDischargeDepth := 40) only [cnpEffect_touch, Touches.refl, touch_foldl, touch_ite, touch_cond, id_eq, implies_true, and_self, List.mem_cons, List.mem_nil_iff, true_or, or_true, reduceCtorEq]

theorem execCcTimer_touch {qp : BitVec 14} {s : State} {t : State} (he : execCcTimer qp s = .next t) :
    Touches [.abut] s t := by
  unfold execCcTimer at he
  refine onlyIf_touch he ?_
  (try dsimp only)
  (repeat' split) <;> simp (maxDischargeDepth := 40) only [modQp_touch, Touches.refl, touch_foldl, touch_ite, touch_cond, id_eq, implies_true, and_self, List.mem_cons, List.mem_nil_iff, true_or, or_true, reduceCtorEq]

theorem execAckTimeout_touch {qp : BitVec 14} {s : State} {t : State} (he : execAckTimeout qp s = .next t) :
    Touches [.out, .formes, .gddr, .imp, .span, .abut, .cores, .colo] s t := by
  unfold execAckTimeout at he
  refine onlyIf_touch he ?_
  (try dsimp only)
  (repeat' split) <;> simp (maxDischargeDepth := 40) only [pumpCopies_touch, retry_touch, Touches.refl, touch_foldl, touch_ite, touch_cond, id_eq, implies_true, and_self, List.mem_cons, List.mem_nil_iff, true_or, or_true, reduceCtorEq]

theorem execRnrTimer_touch {qp : BitVec 14} {s : State} {t : State} (he : execRnrTimer qp s = .next t) :
    Touches [.out, .formes, .gddr, .imp, .span, .abut, .cores, .colo] s t := by
  unfold execRnrTimer at he
  refine onlyIf_touch he ?_
  (try dsimp only)
  (repeat' split) <;> simp (maxDischargeDepth := 40) only [pumpCopies_touch, rnrRetry_touch, Touches.refl, touch_foldl, touch_ite, touch_cond, id_eq, implies_true, and_self, List.mem_cons, List.mem_nil_iff, true_or, or_true, reduceCtorEq]

theorem execIngressDrain_touch {s : State} {t : State} (he : execIngressDrain s = .next t) :
    Touches [.abut] s t := by
  unfold execIngressDrain at he
  refine onlyIf_touch he ?_
  (try dsimp only)
  (repeat' split) <;> simp (maxDischargeDepth := 40) only [drainIngress_touch, Touches.refl, touch_foldl, touch_ite, touch_cond, id_eq, implies_true, and_self, List.mem_cons, List.mem_nil_iff, true_or, or_true, reduceCtorEq]

theorem execQpStateCmd_touch {v : Word} {s : State} {t : State} (he : execQpStateCmd v s = .next t) :
    Touches [.out, .formes, .gddr, .imp, .span, .abut, .cores, .colo] s t := by
  unfold execQpStateCmd at he
  refine onlyIf_touch he ?_
  (try dsimp only)
  (repeat' split) <;> simp (maxDischargeDepth := 40) only [writeObjCmd_touch, Touches.refl, touch_foldl, touch_ite, touch_cond, id_eq, implies_true, and_self, List.mem_cons, List.mem_nil_iff, true_or, or_true, reduceCtorEq]

theorem execCqStateCmd_touch {v : Word} {s : State} {t : State} (he : execCqStateCmd v s = .next t) :
    Touches [.out, .formes, .gddr, .imp, .span, .abut, .cores, .colo] s t := by
  unfold execCqStateCmd at he
  refine onlyIf_touch he ?_
  (try dsimp only)
  (repeat' split) <;> simp (maxDischargeDepth := 40) only [writeObjCmd_touch, Touches.refl, touch_foldl, touch_ite, touch_cond, id_eq, implies_true, and_self, List.mem_cons, List.mem_nil_iff, true_or, or_true, reduceCtorEq]

theorem execSrqStateCmd_touch {v : Word} {s : State} {t : State} (he : execSrqStateCmd v s = .next t) :
    Touches [.out, .formes, .gddr, .imp, .span, .abut, .cores, .colo] s t := by
  unfold execSrqStateCmd at he
  refine onlyIf_touch he ?_
  (try dsimp only)
  (repeat' split) <;> simp (maxDischargeDepth := 40) only [writeObjCmd_touch, Touches.refl, touch_foldl, touch_ite, touch_cond, id_eq, implies_true, and_self, List.mem_cons, List.mem_nil_iff, true_or, or_true, reduceCtorEq]

theorem execSqDoorbell_touch {v : Word} {s : State} {t : State} (he : execSqDoorbell v s = .next t) :
    Touches [.out, .formes, .gddr, .span, .abut, .cores, .colo] s t := by
  unfold execSqDoorbell at he
  refine onlyIf_touch he ?_
  (try dsimp only)
  (repeat' split) <;> simp (maxDischargeDepth := 40) only [writeDoorbell_touch, Touches.refl, touch_foldl, touch_ite, touch_cond, id_eq, implies_true, and_self, List.mem_cons, List.mem_nil_iff, true_or, or_true, reduceCtorEq]

theorem execRqDoorbell_touch {v : Word} {s : State} {t : State} (he : execRqDoorbell v s = .next t) :
    Touches [.out, .formes, .gddr, .span, .abut, .cores, .colo] s t := by
  unfold execRqDoorbell at he
  refine onlyIf_touch he ?_
  (try dsimp only)
  (repeat' split) <;> simp (maxDischargeDepth := 40) only [writeDoorbell_touch, Touches.refl, touch_foldl, touch_ite, touch_cond, id_eq, implies_true, and_self, List.mem_cons, List.mem_nil_iff, true_or, or_true, reduceCtorEq]

theorem execSrqDoorbell_touch {v : Word} {s : State} {t : State} (he : execSrqDoorbell v s = .next t) :
    Touches [.out, .formes, .gddr, .span, .abut, .cores, .colo] s t := by
  unfold execSrqDoorbell at he
  refine onlyIf_touch he ?_
  (try dsimp only)
  (repeat' split) <;> simp (maxDischargeDepth := 40) only [writeDoorbell_touch, Touches.refl, touch_foldl, touch_ite, touch_cond, id_eq, implies_true, and_self, List.mem_cons, List.mem_nil_iff, true_or, or_true, reduceCtorEq]

theorem execCqDoorbell_touch {v : Word} {s : State} {t : State} (he : execCqDoorbell v s = .next t) :
    Touches [.out, .formes, .gddr, .span, .abut, .cores, .colo] s t := by
  unfold execCqDoorbell at he
  refine onlyIf_touch he ?_
  (try dsimp only)
  (repeat' split) <;> simp (maxDischargeDepth := 40) only [writeDoorbell_touch, Touches.refl, touch_foldl, touch_ite, touch_cond, id_eq, implies_true, and_self, List.mem_cons, List.mem_nil_iff, true_or, or_true, reduceCtorEq]

theorem execSend_touch {qp : BitVec 14} {s : State} {t : State} (he : execSend qp s = .next t) :
    Touches [.out, .formes, .gddr, .imp, .span, .abut, .cores, .colo] s t := by
  unfold execSend at he
  refine onlyIf_touch he ?_
  (try dsimp only)
  (repeat' split) <;> simp (maxDischargeDepth := 40) only [sendEntry_touch, Touches.refl, touch_foldl, touch_ite, touch_cond, id_eq, implies_true, and_self, List.mem_cons, List.mem_nil_iff, true_or, or_true, reduceCtorEq]

theorem execSendImm_touch {qp : BitVec 14} {s : State} {t : State} (he : execSendImm qp s = .next t) :
    Touches [.out, .formes, .gddr, .imp, .span, .abut, .cores, .colo] s t := by
  unfold execSendImm at he
  refine onlyIf_touch he ?_
  (try dsimp only)
  (repeat' split) <;> simp (maxDischargeDepth := 40) only [sendEntry_touch, Touches.refl, touch_foldl, touch_ite, touch_cond, id_eq, implies_true, and_self, List.mem_cons, List.mem_nil_iff, true_or, or_true, reduceCtorEq]

theorem execWrite_touch {qp : BitVec 14} {s : State} {t : State} (he : execWrite qp s = .next t) :
    Touches [.out, .formes, .gddr, .imp, .span, .abut, .cores, .colo] s t := by
  unfold execWrite at he
  refine onlyIf_touch he ?_
  (try dsimp only)
  (repeat' split) <;> simp (maxDischargeDepth := 40) only [sendEntry_touch, Touches.refl, touch_foldl, touch_ite, touch_cond, id_eq, implies_true, and_self, List.mem_cons, List.mem_nil_iff, true_or, or_true, reduceCtorEq]

theorem execWriteImm_touch {qp : BitVec 14} {s : State} {t : State} (he : execWriteImm qp s = .next t) :
    Touches [.out, .formes, .gddr, .imp, .span, .abut, .cores, .colo] s t := by
  unfold execWriteImm at he
  refine onlyIf_touch he ?_
  (try dsimp only)
  (repeat' split) <;> simp (maxDischargeDepth := 40) only [sendEntry_touch, Touches.refl, touch_foldl, touch_ite, touch_cond, id_eq, implies_true, and_self, List.mem_cons, List.mem_nil_iff, true_or, or_true, reduceCtorEq]

theorem execRead_touch {qp : BitVec 14} {s : State} {t : State} (he : execRead qp s = .next t) :
    Touches [.out, .formes, .gddr, .imp, .span, .abut, .cores, .colo] s t := by
  unfold execRead at he
  refine onlyIf_touch he ?_
  (try dsimp only)
  (repeat' split) <;> simp (maxDischargeDepth := 40) only [sendEntry_touch, Touches.refl, touch_foldl, touch_ite, touch_cond, id_eq, implies_true, and_self, List.mem_cons, List.mem_nil_iff, true_or, or_true, reduceCtorEq]

theorem execRaw_touch {s : State} {t : State} (he : execRaw s = .next t) :
    Touches [.free, .out, .formes, .gddr, .imp, .span, .abut, .cores, .colo] s t := by
  unfold execRaw at he
  refine onlyIf_touch he ?_
  (try dsimp only)
  (repeat' split) <;> simp (maxDischargeDepth := 40) only [rawEntry_touch, Touches.refl, touch_foldl, touch_ite, touch_cond, id_eq, implies_true, and_self, List.mem_cons, List.mem_nil_iff, true_or, or_true, reduceCtorEq]

theorem execSvcStart_touch {i : Fin 64} {s : State} {t : State} (he : execSvcStart i s = .next t) :
    Touches [.svc] s t := by
  unfold execSvcStart at he
  refine onlyIf_touch he ?_
  (try dsimp only)
  (repeat' split) <;> simp (maxDischargeDepth := 40) only [svcStart_touch, Touches.refl, touch_foldl, touch_ite, touch_cond, id_eq, implies_true, and_self, List.mem_cons, List.mem_nil_iff, true_or, or_true, reduceCtorEq]

theorem execSvcStop_touch {i : Fin 64} {s : State} {t : State} (he : execSvcStop i s = .next t) :
    Touches [.svc] s t := by
  unfold execSvcStop at he
  refine onlyIf_touch he ?_
  (try dsimp only)
  (repeat' split) <;> simp (maxDischargeDepth := 40) only [svcStop_touch, Touches.refl, touch_foldl, touch_ite, touch_cond, id_eq, implies_true, and_self, List.mem_cons, List.mem_nil_iff, true_or, or_true, reduceCtorEq]

theorem execSvcLoadComplete_touch {i : Fin 64} {r : LoadReport} {s : State} {t : State} (he : execSvcLoadComplete i r s = .next t) :
    Touches [.svc, .colo] s t := by
  unfold execSvcLoadComplete at he
  refine onlyIf_touch he ?_
  (try dsimp only)
  (repeat' split) <;> simp (maxDischargeDepth := 40) only [svcLoadEffect_touch, Touches.refl, touch_foldl, touch_ite, touch_cond, id_eq, implies_true, and_self, List.mem_cons, List.mem_nil_iff, true_or, or_true, reduceCtorEq]

theorem execSvcDrainComplete_touch {i : Fin 64} {s : State} {t : State} (he : execSvcDrainComplete i s = .next t) :
    Touches [.svc] s t := by
  unfold execSvcDrainComplete at he
  refine onlyIf_touch he ?_
  (try dsimp only)
  (repeat' split) <;> simp (maxDischargeDepth := 40) only [modSvc_touch, Touches.refl, touch_foldl, touch_ite, touch_cond, id_eq, implies_true, and_self, List.mem_cons, List.mem_nil_iff, true_or, or_true, reduceCtorEq]

theorem execBatchDeadline_touch {i : Fin 64} {s : State} {t : State} (he : execBatchDeadline i s = .next t) :
    Touches [.free, .out, .gddr, .log, .svc, .colo] s t := by
  unfold execBatchDeadline at he
  refine onlyIf_touch he ?_
  (try dsimp only)
  (repeat' split) <;> simp (maxDischargeDepth := 40) only [closeBatch_touch, Touches.refl, touch_foldl, touch_ite, touch_cond, id_eq, implies_true, and_self, List.mem_cons, List.mem_nil_iff, true_or, or_true, reduceCtorEq]

theorem execCadenceInstanceStart_touch {i : Fin 64} {s : State} {t : State} (he : execCadenceInstanceStart i s = .next t) :
    Touches [.free, .out, .gddr, .log, .svc, .colo] s t := by
  unfold execCadenceInstanceStart at he
  refine onlyIf_touch he ?_
  (try dsimp only)
  (repeat' split) <;> simp (maxDischargeDepth := 40) only [startInstance_touch, Touches.refl, touch_foldl, touch_ite, touch_cond, id_eq, implies_true, and_self, List.mem_cons, List.mem_nil_iff, true_or, or_true, reduceCtorEq]

theorem execMirrorValues_touch {i : Fin 64} {reqId : BitVec 64} {crc len : BitVec 32} {s : State} {t : State} (he : execMirrorValues i reqId crc len s = .next t) :
    Touches [.free, .out, .svc, .colo] s t := by
  unfold execMirrorValues at he
  refine onlyIf_touch he ?_
  (try dsimp only)
  (repeat' split) <;> simp (maxDischargeDepth := 40) only [valuesIn_touch, Touches.refl, touch_foldl, touch_ite, touch_cond, id_eq, implies_true, and_self, List.mem_cons, List.mem_nil_iff, true_or, or_true, reduceCtorEq]

theorem execMirrorWaitExpiry_touch {i : Fin 64} {reqId : BitVec 64} {s : State} {t : State} (he : execMirrorWaitExpiry i reqId s = .next t) :
    Touches [.free, .out, .svc, .colo] s t := by
  unfold execMirrorWaitExpiry at he
  refine onlyIf_touch he ?_
  (try dsimp only)
  (repeat' split) <;> simp (maxDischargeDepth := 40) only [sendUnchecked_touch, Touches.refl, touch_foldl, touch_ite, touch_cond, id_eq, implies_true, and_self, List.mem_cons, List.mem_nil_iff, true_or, or_true, reduceCtorEq]

theorem execLineCheck_touch {f : FormeIx} {stuck : List (Nat × Byte)} {s : State} {t : State} (he : execLineCheck f stuck s = .next t) :
    Touches [.out, .formes, .fault, .colo, .flash] s t := by
  unfold execLineCheck at he
  refine onlyIf_touch he ?_
  (try dsimp only)
  (repeat' split) <;> simp (maxDischargeDepth := 40) only [lineCheckEffect_touch, Touches.refl, touch_foldl, touch_ite, touch_cond, id_eq, implies_true, and_self, List.mem_cons, List.mem_nil_iff, true_or, or_true, reduceCtorEq]

theorem execFormeRetire_touch {f : FormeIx} {v : Word} {s : State} {t : State} (he : execFormeRetire f v s = .next t) :
    Touches [.formes, .colo] s t := by
  unfold execFormeRetire at he
  refine onlyIf_touch he ?_
  (try dsimp only)
  (repeat' split) <;> simp (maxDischargeDepth := 40) only [modForme_touch, relist_touch, Touches.refl, touch_foldl, touch_ite, touch_cond, id_eq, implies_true, and_self, List.mem_cons, List.mem_nil_iff, true_or, or_true, reduceCtorEq]

theorem execBucketLeak_touch {c : Fin 12} {s : State} {t : State} (he : execBucketLeak c s = .next t) :
    Touches [.fault] s t := by
  unfold execBucketLeak at he
  refine onlyIf_touch he ?_
  (try dsimp only)
  (repeat' split) <;> simp (maxDischargeDepth := 40) only [leakEffect_touch, Touches.refl, touch_foldl, touch_ite, touch_cond, id_eq, implies_true, and_self, List.mem_cons, List.mem_nil_iff, true_or, or_true, reduceCtorEq]

theorem execAck_touch {v : Word} {s : State} {t : State} (he : execAck v s = .next t) :
    Touches [.fault] s t := by
  unfold execAck at he
  refine onlyIf_touch he ?_
  (try dsimp only)
  (repeat' split) <;> simp (maxDischargeDepth := 40) only [writeLogCtrl_touch, Touches.refl, touch_foldl, touch_ite, touch_cond, id_eq, implies_true, and_self, List.mem_cons, List.mem_nil_iff, true_or, or_true, reduceCtorEq]

theorem execSplitWrite_touch {f : FormeIx} {v : Word} {s : State} {t : State} (he : execSplitWrite f v s = .next t) :
    Touches [.formes] s t := by
  unfold execSplitWrite at he
  refine onlyIf_touch he ?_
  (try dsimp only)
  (repeat' split) <;> simp (maxDischargeDepth := 40) only [modForme_touch, Touches.refl, touch_foldl, touch_ite, touch_cond, id_eq, implies_true, and_self, List.mem_cons, List.mem_nil_iff, true_or, or_true, reduceCtorEq]

theorem execSplitRead_touch {f : FormeIx} {v : Word} {s : State} {t : State} (he : execSplitRead f v s = .next t) :
    Touches [.formes] s t := by
  unfold execSplitRead at he
  refine onlyIf_touch he ?_
  (try dsimp only)
  (repeat' split) <;> simp (maxDischargeDepth := 40) only [modForme_touch, Touches.refl, touch_foldl, touch_ite, touch_cond, id_eq, implies_true, and_self, List.mem_cons, List.mem_nil_iff, true_or, or_true, reduceCtorEq]

theorem execGalleyFlip_touch {f : FormeIx} {v : Word} {s : State} {t : State} (he : execGalleyFlip f v s = .next t) :
    Touches [.formes] s t := by
  unfold execGalleyFlip at he
  refine onlyIf_touch he ?_
  (try dsimp only)
  (repeat' split) <;> simp (maxDischargeDepth := 40) only [modForme_touch, Touches.refl, touch_foldl, touch_ite, touch_cond, id_eq, implies_true, and_self, List.mem_cons, List.mem_nil_iff, true_or, or_true, reduceCtorEq]

theorem execFenceReq_touch {v : Word} {s : State} {t : State} (he : execFenceReq v s = .next t) :
    Touches [.out, .formes, .span, .abut, .cores, .svc, .fault, .colo, .boot, .flash, .pwr] s t := by
  unfold execFenceReq at he
  refine onlyIf_touch he ?_
  (try dsimp only)
  (repeat' split) <;> simp (maxDischargeDepth := 40) only [writeFence_touch, Touches.refl, touch_foldl, touch_ite, touch_cond, id_eq, implies_true, and_self, List.mem_cons, List.mem_nil_iff, true_or, or_true, reduceCtorEq]

theorem execPeerFenced_touch {d : Fin 8} {reason : BitVec 3} {s : State} {t : State} (he : execPeerFenced d reason s = .next t) :
    Touches [.free, .out, .tb, .tbl, .log, .span, .abut, .cores, .svc, .fault, .colo] s t := by
  unfold execPeerFenced at he
  refine onlyIf_touch he ?_
  (try dsimp only)
  (repeat' split) <;> simp (maxDischargeDepth := 40) only [peerFenced_touch, Touches.refl, touch_foldl, touch_ite, touch_cond, id_eq, implies_true, and_self, List.mem_cons, List.mem_nil_iff, true_or, or_true, reduceCtorEq]

theorem execCheckGo_touch {v : Word} {s : State} {t : State} (he : execCheckGo v s = .next t) :
    Touches [.check] s t := by
  unfold execCheckGo at he
  refine onlyIf_touch he ?_
  (try dsimp only)
  (repeat' split) <;> simp (maxDischargeDepth := 40) only [touch_check, Touches.refl, touch_foldl, touch_ite, touch_cond, id_eq, implies_true, and_self, List.mem_cons, List.mem_nil_iff, true_or, or_true, reduceCtorEq]

theorem execCheckComplete_touch {s : State} {t : State} (he : execCheckComplete s = .next t) :
    Touches [.free, .out, .formes, .gddr, .imp, .fault, .check, .colo, .flash] s t := by
  unfold execCheckComplete at he
  refine onlyIf_touch he ?_
  (try dsimp only)
  (repeat' split) <;> simp (maxDischargeDepth := 40) only [checkEnds_touch, Touches.refl, touch_foldl, touch_ite, touch_cond, id_eq, implies_true, and_self, List.mem_cons, List.mem_nil_iff, true_or, or_true, reduceCtorEq]

theorem execColophonRead_touch {m : ColoMsg} {s : State} {t : State} (he : execColophonRead m s = .next t) :
    Touches [.free, .out, .tb, .formes, .gddr, .tbl, .proof, .imp, .bars, .log, .span, .coll, .abut, .cores, .svc, .fault, .check, .colo, .boot, .flash, .upd, .sec, .pwr] s t := by
  unfold execColophonRead at he
  refine onlyIf_touch he ?_
  (try dsimp only)
  (repeat' split) <;> simp (maxDischargeDepth := 40) only [coloMessage_touch, Touches.refl, touch_foldl, touch_ite, touch_cond, id_eq, implies_true, and_self, List.mem_cons, List.mem_nil_iff, true_or, or_true, reduceCtorEq]

theorem execColophonWrite_touch {m : ColoMsg} {s : State} {t : State} (he : execColophonWrite m s = .next t) :
    Touches [.free, .out, .tb, .formes, .gddr, .tbl, .proof, .imp, .bars, .log, .span, .coll, .abut, .cores, .svc, .fault, .check, .colo, .boot, .flash, .upd, .sec, .pwr] s t := by
  unfold execColophonWrite at he
  refine onlyIf_touch he ?_
  (try dsimp only)
  (repeat' split) <;> simp (maxDischargeDepth := 40) only [coloMessage_touch, Touches.refl, touch_foldl, touch_ite, touch_cond, id_eq, implies_true, and_self, List.mem_cons, List.mem_nil_iff, true_or, or_true, reduceCtorEq]

theorem execReadBlock_touch {m : ColoMsg} {s : State} {t : State} (he : execReadBlock m s = .next t) :
    Touches [.free, .out, .tb, .formes, .gddr, .tbl, .proof, .imp, .bars, .log, .span, .coll, .abut, .cores, .svc, .fault, .check, .colo, .boot, .flash, .upd, .sec, .pwr] s t := by
  unfold execReadBlock at he
  refine onlyIf_touch he ?_
  (try dsimp only)
  (repeat' split) <;> simp (maxDischargeDepth := 40) only [coloMessage_touch, Touches.refl, touch_foldl, touch_ite, touch_cond, id_eq, implies_true, and_self, List.mem_cons, List.mem_nil_iff, true_or, or_true, reduceCtorEq]

theorem execWriteBlock_touch {m : ColoMsg} {s : State} {t : State} (he : execWriteBlock m s = .next t) :
    Touches [.free, .out, .tb, .formes, .gddr, .tbl, .proof, .imp, .bars, .log, .span, .coll, .abut, .cores, .svc, .fault, .check, .colo, .boot, .flash, .upd, .sec, .pwr] s t := by
  unfold execWriteBlock at he
  refine onlyIf_touch he ?_
  (try dsimp only)
  (repeat' split) <;> simp (maxDischargeDepth := 40) only [coloMessage_touch, Touches.refl, touch_foldl, touch_ite, touch_cond, id_eq, implies_true, and_self, List.mem_cons, List.mem_nil_iff, true_or, or_true, reduceCtorEq]

theorem execNotify_touch {m : ColoMsg} {s : State} {t : State} (he : execNotify m s = .next t) :
    Touches [.free, .out, .tb, .formes, .gddr, .tbl, .proof, .imp, .bars, .log, .span, .coll, .abut, .cores, .svc, .fault, .check, .colo, .boot, .flash, .upd, .sec, .pwr] s t := by
  unfold execNotify at he
  refine onlyIf_touch he ?_
  (try dsimp only)
  (repeat' split) <;> simp (maxDischargeDepth := 40) only [coloMessage_touch, Touches.refl, touch_foldl, touch_ite, touch_cond, id_eq, implies_true, and_self, List.mem_cons, List.mem_nil_iff, true_or, or_true, reduceCtorEq]

theorem execSessionOpen_touch {m : ColoMsg} {s : State} {t : State} (he : execSessionOpen m s = .next t) :
    Touches [.free, .out, .tb, .formes, .gddr, .tbl, .proof, .imp, .bars, .log, .span, .coll, .abut, .cores, .svc, .fault, .check, .colo, .boot, .flash, .upd, .sec, .pwr] s t := by
  unfold execSessionOpen at he
  refine onlyIf_touch he ?_
  (try dsimp only)
  (repeat' split) <;> simp (maxDischargeDepth := 40) only [coloMessage_touch, Touches.refl, touch_foldl, touch_ite, touch_cond, id_eq, implies_true, and_self, List.mem_cons, List.mem_nil_iff, true_or, or_true, reduceCtorEq]

theorem execSessionConfirmTimeout_touch {id : BitVec 32} {s : State} {t : State} (he : execSessionConfirmTimeout id s = .next t) :
    Touches [.colo] s t := by
  unfold execSessionConfirmTimeout at he
  refine onlyIf_touch he ?_
  (try dsimp only)
  (repeat' split) <;> simp (maxDischargeDepth := 40) only [closeSession_touch, Touches.refl, touch_foldl, touch_ite, touch_cond, id_eq, implies_true, and_self, List.mem_cons, List.mem_nil_iff, true_or, or_true, reduceCtorEq]

theorem execSessionIdleEnd_touch {id : BitVec 32} {s : State} {t : State} (he : execSessionIdleEnd id s = .next t) :
    Touches [.colo] s t := by
  unfold execSessionIdleEnd at he
  refine onlyIf_touch he ?_
  (try dsimp only)
  (repeat' split) <;> simp (maxDischargeDepth := 40) only [closeSession_touch, Touches.refl, touch_foldl, touch_ite, touch_cond, id_eq, implies_true, and_self, List.mem_cons, List.mem_nil_iff, true_or, or_true, reduceCtorEq]

theorem execSessionClose_touch {v : BitVec 32} {s : State} {t : State} (he : execSessionClose v s = .next t) :
    Touches [.colo] s t := by
  unfold execSessionClose at he
  refine onlyIf_touch he ?_
  (try dsimp only)
  (repeat' split) <;> simp (maxDischargeDepth := 40) only [closeSession_touch, Touches.refl, touch_foldl, touch_ite, touch_cond, id_eq, implies_true, and_self, List.mem_cons, List.mem_nil_iff, true_or, or_true, reduceCtorEq]

theorem execResponseKeptExpiry_touch {s : State} {t : State} (he : execResponseKeptExpiry s = .next t) :
    Touches [.colo] s t := by
  unfold execResponseKeptExpiry at he
  refine onlyIf_touch he ?_
  (try dsimp only)
  (repeat' split) <;> simp (maxDischargeDepth := 40) only [touch_colo, Touches.refl, touch_foldl, touch_ite, touch_cond, id_eq, implies_true, and_self, List.mem_cons, List.mem_nil_iff, true_or, or_true, reduceCtorEq]

theorem execNotifyRetry_touch {s : State} {t : State} (he : execNotifyRetry s = .next t) :
    Touches [.out, .colo] s t := by
  unfold execNotifyRetry at he
  refine onlyIf_touch he ?_
  (try dsimp only)
  (repeat' split) <;> simp (maxDischargeDepth := 40) only [resendSub_touch, Touches.refl, touch_foldl, touch_ite, touch_cond, id_eq, implies_true, and_self, List.mem_cons, List.mem_nil_iff, true_or, or_true, reduceCtorEq]

theorem execNotifyLeaseEnd_touch {s : State} {t : State} (he : execNotifyLeaseEnd s = .next t) :
    Touches [.colo] s t := by
  unfold execNotifyLeaseEnd at he
  refine onlyIf_touch he ?_
  (try dsimp only)
  (repeat' split) <;> simp (maxDischargeDepth := 40) only [touch_colo, Touches.refl, touch_foldl, touch_ite, touch_cond, id_eq, implies_true, and_self, List.mem_cons, List.mem_nil_iff, true_or, or_true, reduceCtorEq]

theorem execConfigSave_touch {v : Byte} {s : State} {t : State} (he : execConfigSave v s = .next t) :
    Touches [.colo] s t := by
  unfold execConfigSave at he
  refine onlyIf_touch he ?_
  (try dsimp only)
  (repeat' split) <;> simp (maxDischargeDepth := 40) only [startSave_touch, Touches.refl, touch_foldl, touch_ite, touch_cond, id_eq, implies_true, and_self, List.mem_cons, List.mem_nil_iff, true_or, or_true, reduceCtorEq]

theorem execOperatorKey_touch {slot : Fin 8} {key : List Byte} {inSession viaMgmt : Bool} {s : State} {t : State} (he : execOperatorKey slot key inSession viaMgmt s = .next t) :
    Touches [.colo, .flash] s t := by
  unfold execOperatorKey at he
  refine onlyIf_touch he ?_
  (try dsimp only)
  (repeat' split) <;> simp (maxDischargeDepth := 40) only [writeOperatorKey_touch, Touches.refl, touch_foldl, touch_ite, touch_cond, id_eq, implies_true, and_self, List.mem_cons, List.mem_nil_iff, true_or, or_true, reduceCtorEq]

theorem execDieIdBase_touch {v : BitVec 16} {s : State} {t : State} (he : execDieIdBase v s = .next t) :
    Touches [.colo] s t := by
  unfold execDieIdBase at he
  refine onlyIf_touch he ?_
  (try dsimp only)
  (repeat' split) <;> simp (maxDischargeDepth := 40) only [setEnt_touch, Touches.refl, touch_foldl, touch_ite, touch_cond, id_eq, implies_true, and_self, List.mem_cons, List.mem_nil_iff, true_or, or_true, reduceCtorEq]

theorem execDieRestart_touch {v : Byte} {s : State} {t : State} (he : execDieRestart v s = .next t) :
    Touches [.free, .out, .tb, .formes, .gddr, .tbl, .proof, .imp, .bars, .log, .span, .coll, .abut, .cores, .svc, .fault, .check, .colo, .boot, .flash, .upd, .sec, .pwr] s t := by
  unfold execDieRestart at he
  refine onlyIf_touch he ?_
  (try dsimp only)
  (repeat' split) <;> simp (maxDischargeDepth := 40) only [dieRestart_touch, Touches.refl, touch_foldl, touch_ite, touch_cond, id_eq, implies_true, and_self, List.mem_cons, List.mem_nil_iff, true_or, or_true, reduceCtorEq]

theorem execAttestNonce_touch {nonce : List Byte} {s : State} {t : State} (he : execAttestNonce nonce s = .next t) :
    Touches [.colo, .sec] s t := by
  unfold execAttestNonce at he
  refine onlyIf_touch he ?_
  (try dsimp only)
  (repeat' split) <;> simp (maxDischargeDepth := 40) only [attest_touch, Touches.refl, touch_foldl, touch_ite, touch_cond, id_eq, implies_true, and_self, List.mem_cons, List.mem_nil_iff, true_or, or_true, reduceCtorEq]

theorem execDebugUnlock_touch {token : List Byte} {s : State} {t : State} (he : execDebugUnlock token s = .next t) :
    Touches [.free, .out, .formes, .span, .abut, .cores, .svc, .fault, .colo, .boot, .flash, .sec, .pwr] s t := by
  unfold execDebugUnlock at he
  refine onlyIf_touch he ?_
  (try dsimp only)
  (repeat' split) <;> simp (maxDischargeDepth := 40) only [unlockEffect_touch, Touches.refl, touch_foldl, touch_ite, touch_cond, id_eq, implies_true, and_self, List.mem_cons, List.mem_nil_iff, true_or, or_true, reduceCtorEq]

theorem execReturnPrep_touch {v : Byte} {s : State} {t : State} (he : execReturnPrep v s = .next t) :
    Touches [.colo, .flash] s t := by
  unfold execReturnPrep at he
  refine onlyIf_touch he ?_
  (try dsimp only)
  (repeat' split) <;> simp (maxDischargeDepth := 40) only [returnPrep_touch, Touches.refl, touch_foldl, touch_ite, touch_cond, id_eq, implies_true, and_self, List.mem_cons, List.mem_nil_iff, true_or, or_true, reduceCtorEq]

theorem execAlarmClear_touch {v : BitVec 16} {s : State} {t : State} (he : execAlarmClear v s = .next t) :
    Touches [.sec] s t := by
  unfold execAlarmClear at he
  refine onlyIf_touch he ?_
  (try dsimp only)
  (repeat' split) <;> simp (maxDischargeDepth := 40) only [clearAlarms_touch, Touches.refl, touch_foldl, touch_ite, touch_cond, id_eq, implies_true, and_self, List.mem_cons, List.mem_nil_iff, true_or, or_true, reduceCtorEq]

theorem execBegin_touch {s : State} {t : State} (he : execBegin s = .next t) :
    Touches [.out, .colo, .flash, .upd] s t := by
  unfold execBegin at he
  refine onlyIf_touch he ?_
  (try dsimp only)
  (repeat' split) <;> simp (maxDischargeDepth := 40) only [beginUpdate_touch, Touches.refl, touch_foldl, touch_ite, touch_cond, id_eq, implies_true, and_self, List.mem_cons, List.mem_nil_iff, true_or, or_true, reduceCtorEq]

theorem execVerify_touch {s : State} {t : State} (he : execVerify s = .next t) :
    Touches [.out, .colo, .upd] s t := by
  unfold execVerify at he
  refine onlyIf_touch he ?_
  (try dsimp only)
  (repeat' split) <;> simp (maxDischargeDepth := 40) only [verifyUpdate_touch, Touches.refl, touch_foldl, touch_ite, touch_cond, id_eq, implies_true, and_self, List.mem_cons, List.mem_nil_iff, true_or, or_true, reduceCtorEq]

theorem execActivate_touch {s : State} {t : State} (he : execActivate s = .next t) :
    Touches [.out, .colo, .flash, .upd] s t := by
  unfold execActivate at he
  refine onlyIf_touch he ?_
  (try dsimp only)
  (repeat' split) <;> simp (maxDischargeDepth := 40) only [activateUpdate_touch, Touches.refl, touch_foldl, touch_ite, touch_cond, id_eq, implies_true, and_self, List.mem_cons, List.mem_nil_iff, true_or, or_true, reduceCtorEq]

theorem execCommit_touch {s : State} {t : State} (he : execCommit s = .next t) :
    Touches [.out, .colo, .flash, .upd] s t := by
  unfold execCommit at he
  refine onlyIf_touch he ?_
  (try dsimp only)
  (repeat' split) <;> simp (maxDischargeDepth := 40) only [commitUpdate_touch, Touches.refl, touch_foldl, touch_ite, touch_cond, id_eq, implies_true, and_self, List.mem_cons, List.mem_nil_iff, true_or, or_true, reduceCtorEq]

theorem execAbandon_touch {s : State} {t : State} (he : execAbandon s = .next t) :
    Touches [.out, .colo, .flash, .upd] s t := by
  unfold execAbandon at he
  refine onlyIf_touch he ?_
  (try dsimp only)
  (repeat' split) <;> simp (maxDischargeDepth := 40) only [abandonUpdate_touch, Touches.refl, touch_foldl, touch_ite, touch_cond, id_eq, implies_true, and_self, List.mem_cons, List.mem_nil_iff, true_or, or_true, reduceCtorEq]

theorem execDieReset_touch {cause : BitVec 2} {s : State} {t : State} (he : execDieReset cause s = .next t) :
    Touches [.free, .out, .tb, .formes, .gddr, .tbl, .proof, .imp, .bars, .log, .span, .coll, .abut, .cores, .svc, .fault, .check, .colo, .boot, .flash, .upd, .sec, .pwr] s t := by
  unfold execDieReset at he
  refine onlyIf_touch he ?_
  (try dsimp only)
  (repeat' split) <;> simp (maxDischargeDepth := 40) only [resetDie_touch, Touches.refl, touch_foldl, touch_ite, touch_cond, id_eq, implies_true, and_self, List.mem_cons, List.mem_nil_iff, true_or, or_true, reduceCtorEq]

theorem execStartStageComplete_touch {r : StageReport} {s : State} {t : State} (he : execStartStageComplete r s = .next t) :
    Touches [.out, .tb, .formes, .gddr, .span, .abut, .cores, .svc, .fault, .colo, .boot, .flash, .upd, .sec, .pwr] s t := by
  unfold execStartStageComplete at he
  refine onlyIf_touch he ?_
  (try dsimp only)
  (repeat' split) <;> simp (maxDischargeDepth := 40) only [stageDone_touch, Touches.refl, touch_foldl, touch_ite, touch_cond, id_eq, implies_true, and_self, List.mem_cons, List.mem_nil_iff, true_or, or_true, reduceCtorEq]

theorem execStageFail_touch {s : State} {t : State} (he : execStageFail s = .next t) :
    Touches [.free, .out, .tb, .formes, .gddr, .tbl, .proof, .imp, .bars, .log, .span, .coll, .abut, .cores, .svc, .fault, .check, .colo, .boot, .flash, .upd, .sec, .pwr] s t := by
  unfold execStageFail at he
  refine onlyIf_touch he ?_
  (try dsimp only)
  (repeat' split) <;> simp (maxDischargeDepth := 40) only [stageFail_touch, Touches.refl, touch_foldl, touch_ite, touch_cond, id_eq, implies_true, and_self, List.mem_cons, List.mem_nil_iff, true_or, or_true, reduceCtorEq]

theorem execSpanStageEnd_touch {s : State} {t : State} (he : execSpanStageEnd s = .next t) :
    Touches [.boot] s t := by
  unfold execSpanStageEnd at he
  refine onlyIf_touch he ?_
  (try dsimp only)
  (repeat' split) <;> simp (maxDischargeDepth := 40) only [beginStage_touch, Touches.refl, touch_foldl, touch_ite, touch_cond, id_eq, implies_true, and_self, List.mem_cons, List.mem_nil_iff, true_or, or_true, reduceCtorEq]

theorem execPowerQualified_touch {s : State} {t : State} (he : execPowerQualified s = .next t) :
    Touches [.pwr] s t := by
  unfold execPowerQualified at he
  refine onlyIf_touch he ?_
  (try dsimp only)
  (repeat' split) <;> simp (maxDischargeDepth := 40) only [touch_pwr, Touches.refl, touch_foldl, touch_ite, touch_cond, id_eq, implies_true, and_self, List.mem_cons, List.mem_nil_iff, true_or, or_true, reduceCtorEq]

theorem execRailSequenceStep_touch {s : State} {t : State} (he : execRailSequenceStep s = .next t) :
    Touches [.free, .out, .tb, .formes, .gddr, .tbl, .proof, .imp, .bars, .log, .span, .coll, .abut, .cores, .svc, .fault, .check, .colo, .boot, .flash, .upd, .sec, .pwr] s t := by
  unfold execRailSequenceStep at he
  refine onlyIf_touch he ?_
  (try dsimp only)
  (repeat' split) <;> simp (maxDischargeDepth := 40) only [railStep_touch, Touches.refl, touch_foldl, touch_ite, touch_cond, id_eq, implies_true, and_self, List.mem_cons, List.mem_nil_iff, true_or, or_true, reduceCtorEq]

theorem execPowerLoss_touch {s : State} {t : State} (he : execPowerLoss s = .next t) :
    Touches [.free, .out, .tb, .formes, .gddr, .tbl, .proof, .imp, .bars, .log, .span, .coll, .abut, .cores, .svc, .fault, .check, .colo, .boot, .flash, .upd, .sec, .pwr] s t := by
  unfold execPowerLoss at he
  refine onlyIf_touch he ?_
  (try dsimp only)
  (repeat' split) <;> simp (maxDischargeDepth := 40) only [powerOff_touch, Touches.refl, touch_foldl, touch_ite, touch_cond, id_eq, implies_true, and_self, List.mem_cons, List.mem_nil_iff, true_or, or_true, reduceCtorEq]

theorem execOvervoltage_touch {s : State} {t : State} (he : execOvervoltage s = .next t) :
    Touches [.free, .out, .tb, .formes, .gddr, .tbl, .proof, .imp, .bars, .log, .span, .coll, .abut, .cores, .svc, .fault, .check, .colo, .boot, .flash, .upd, .sec, .pwr] s t := by
  unfold execOvervoltage at he
  refine onlyIf_touch he ?_
  (try dsimp only)
  (repeat' split) <;> simp (maxDischargeDepth := 40) only [powerOff_touch, Touches.refl, touch_foldl, touch_ite, touch_cond, id_eq, implies_true, and_self, List.mem_cons, List.mem_nil_iff, true_or, or_true, reduceCtorEq]

theorem execInputStateChange_touch {mv : Nat} {s : State} {t : State} (he : execInputStateChange mv s = .next t) :
    Touches [.pwr] s t := by
  unfold execInputStateChange at he
  refine onlyIf_touch he ?_
  (try dsimp only)
  (repeat' split) <;> simp (maxDischargeDepth := 40) only [inputEffect_touch, Touches.refl, touch_foldl, touch_ite, touch_cond, id_eq, implies_true, and_self, List.mem_cons, List.mem_nil_iff, true_or, or_true, reduceCtorEq]

theorem execRailFault_touch {d : Fin 8} {s : State} {t : State} (he : execRailFault d s = .next t) :
    Touches [.free, .out, .tb, .formes, .gddr, .tbl, .proof, .imp, .bars, .log, .span, .coll, .abut, .cores, .svc, .fault, .check, .colo, .boot, .flash, .upd, .sec, .pwr] s t := by
  unfold execRailFault at he
  refine onlyIf_touch he ?_
  (try dsimp only)
  (repeat' split) <;> simp (maxDischargeDepth := 40) only [railFault_touch, Touches.refl, touch_foldl, touch_ite, touch_cond, id_eq, implies_true, and_self, List.mem_cons, List.mem_nil_iff, true_or, or_true, reduceCtorEq]

theorem execSecurityAlarm_touch {sources : BitVec 6} {s : State} {t : State} (he : execSecurityAlarm sources s = .next t) :
    Touches [.out, .formes, .span, .abut, .cores, .svc, .fault, .colo, .boot, .flash, .sec, .pwr] s t := by
  unfold execSecurityAlarm at he
  refine onlyIf_touch he ?_
  (try dsimp only)
  (repeat' split) <;> simp (maxDischargeDepth := 40) only [securityAlarm_touch, Touches.refl, touch_foldl, touch_ite, touch_cond, id_eq, implies_true, and_self, List.mem_cons, List.mem_nil_iff, true_or, or_true, reduceCtorEq]

theorem execEnclOpen_touch {level : Bool} {s : State} {t : State} (he : execEnclOpen level s = .next t) :
    Touches [.out, .formes, .span, .abut, .cores, .svc, .fault, .colo, .boot, .flash, .sec, .pwr] s t := by
  unfold execEnclOpen at he
  refine onlyIf_touch he ?_
  (try dsimp only)
  (repeat' split) <;> simp (maxDischargeDepth := 40) only [enclEffect_touch, Touches.refl, touch_foldl, touch_ite, touch_cond, id_eq, implies_true, and_self, List.mem_cons, List.mem_nil_iff, true_or, or_true, reduceCtorEq]

theorem execDebugPortInstruction_touch {ir : Byte} {dr : BitVec 104} {s : State} {t : State} (he : execDebugPortInstruction ir dr s = .next t) :
    Touches [.free, .out, .formes, .proof, .span, .abut, .cores, .svc, .fault, .colo, .boot, .flash, .sec, .pwr] s t := by
  unfold execDebugPortInstruction at he
  split at he
  · contradiction
  · refine onlyIf_touch he ?_
    (try dsimp only)
    (repeat' split) <;> simp (maxDischargeDepth := 40) only [debugEffect_touch, Touches.refl, touch_foldl, touch_ite, touch_cond, id_eq, implies_true, and_self, List.mem_cons, List.mem_nil_iff, true_or, or_true, reduceCtorEq]

theorem execSpanCableChange_touch {d : Fin 8} {seated : Bool} {s : State} {t : State} (he : execSpanCableChange d seated s = .next t) :
    Touches [.pwr] s t := by
  unfold execSpanCableChange at he
  refine onlyIf_touch he ?_
  (try dsimp only)
  (repeat' split) <;> simp (maxDischargeDepth := 40) only [touch_pwr, Touches.refl, touch_foldl, touch_ite, touch_cond, id_eq, implies_true, and_self, List.mem_cons, List.mem_nil_iff, true_or, or_true, reduceCtorEq]

theorem execSensorSample_touch {r : Sensors} {s : State} {t : State} (he : execSensorSample r s = .next t) :
    Touches [.pwr] s t := by
  unfold execSensorSample at he
  refine onlyIf_touch he ?_
  (try dsimp only)
  (repeat' split) <;> simp (maxDischargeDepth := 40) only [touch_pwr, Touches.refl, touch_foldl, touch_ite, touch_cond, id_eq, implies_true, and_self, List.mem_cons, List.mem_nil_iff, true_or, or_true, reduceCtorEq]

theorem execChannelRetrainFinish_touch {ch : Fin 80} {ok : Bool} {s : State} {t : State} (he : execChannelRetrainFinish ch ok s = .next t) :
    Touches [.out, .formes, .gddr, .span, .abut, .cores, .svc, .fault, .colo, .boot, .flash, .pwr] s t := by
  unfold execChannelRetrainFinish at he
  refine onlyIf_touch he ?_
  (try dsimp only)
  (repeat' split) <;> simp (maxDischargeDepth := 40) only [retrainFinish_touch, Touches.refl, touch_foldl, touch_ite, touch_cond, id_eq, implies_true, and_self, List.mem_cons, List.mem_nil_iff, true_or, or_true, reduceCtorEq]

theorem execTrainingSignalDetected_touch {p : Fin 11} {s : State} {t : State} (he : execTrainingSignalDetected p s = .next t) :
    Touches [.span] s t := by
  unfold execTrainingSignalDetected at he
  refine onlyIf_touch he ?_
  (try dsimp only)
  (repeat' split) <;> simp (maxDischargeDepth := 40) only [modPort_touch, Touches.refl, touch_foldl, touch_ite, touch_cond, id_eq, implies_true, and_self, List.mem_cons, List.mem_nil_iff, true_or, or_true, reduceCtorEq]

theorem execCoreAccess_touch {hart : Fin 8} {k : CoreKind} {addr : BitVec 64} {size : BitVec 4} {v : Word} {par : Bool} {s : State} {t : State} (he : execCoreAccess hart k addr size v par s = .next t) :
    Touches [.free, .out, .formes, .gddr, .tbl, .proof, .imp, .bars, .log, .span, .coll, .abut, .cores, .svc, .fault, .check, .colo, .boot, .flash, .sec, .pwr] s t := by
  unfold execCoreAccess at he
  refine onlyIf_touch he ?_
  (try dsimp only)
  (repeat' split) <;> simp (maxDischargeDepth := 40) only [coreEffect_touch, Touches.refl, touch_foldl, touch_ite, touch_cond, id_eq, implies_true, and_self, List.mem_cons, List.mem_nil_iff, true_or, or_true, reduceCtorEq]

theorem execConfigSaveDone_touch {s : State} {t : State} (he : execConfigSaveDone s = .next t) :
    Touches [.colo, .flash] s t := by
  unfold execConfigSaveDone at he
  refine onlyIf_touch he ?_
  (try dsimp only)
  (repeat' split) <;> simp (maxDischargeDepth := 40) only [endSave_touch, Touches.refl, touch_foldl, touch_ite, touch_cond, id_eq, implies_true, and_self, List.mem_cons, List.mem_nil_iff, true_or, or_true, reduceCtorEq]

end Sys2Proof
end

