-- ==== Sys2Proof/Laws/Forme.lean ====
section
/-! SUPPORT. What an operation on one Forme leaves unchanged of it and of the others, and how an instruction leaves the head of
its queue. -/

namespace Sys2Proof

open Machine

theorem OnlyForme.refl (f : FormeIx) (ps : List FPart) (s : State) : OnlyForme f ps s s :=
  ⟨fun _ _ => rfl, FTouches.refl ps _⟩

theorem OnlyForme.trans {f : FormeIx} {ps : List FPart} {s t u : State} (h : OnlyForme f ps s t) (k : OnlyForme f ps t u) :
    OnlyForme f ps s u :=
  ⟨fun g hg => (k.1 g hg).trans (h.1 g hg), FTouches.trans h.2 k.2⟩

theorem OnlyForme.mono {f : FormeIx} {ps qs : List FPart} {s t : State} (h : OnlyForme f ps s t) (hs : ps ⊆ qs) :
    OnlyForme f qs s t := ⟨h.1, FTouches.mono h.2 hs⟩

/-- What does not touch the Formes changes none. -/
theorem OnlyForme.of_touch {f : FormeIx} {ps : List FPart} {qs : List Part} {s t : State} (h : Touches qs s t)
    (hq : Part.formes ∉ qs) : OnlyForme f ps s t := by
  have h1 : t.formes = s.formes := h .formes hq
  have h2 : ∀ g, t.forme g = s.forme g := fun g => by unfold State.forme; rw [h1]
  exact ⟨fun g _ => h2 g, by rw [h2 f]; exact FTouches.refl _ _⟩

/-- A change of Forme f is a change of that Forme only. -/
theorem OnlyForme.mod (s : State) (f : FormeIx) (g : Forme → Forme) {ps : List FPart}
    (h : FTouches ps (s.forme f) (g (s.forme f))) : OnlyForme f ps s (modForme s f g) :=
  ⟨fun k hk => Laws.modForme_forme_other s f k g hk, by rw [Laws.modForme_forme_same]; exact h⟩

theorem OnlyForme.foldl {α : Type} {f : FormeIx} {ps : List FPart} {g : State → α → State}
    (h : ∀ s x, OnlyForme f ps s (g s x)) (l : List α) (s : State) : OnlyForme f ps s (l.foldl g s) := by
  induction l generalizing s with
  | nil => exact OnlyForme.refl _ _ _
  | cons x xs ih => exact (h s x).trans (ih _)

theorem only_ite {c : Prop} [Decidable c] {f : FormeIx} {ps : List FPart} {s0 a b : State} (ha : OnlyForme f ps s0 a)
    (hb : OnlyForme f ps s0 b) : OnlyForme f ps s0 (if c then a else b) := by
  split
  · exact ha
  · exact hb

namespace Laws

theorem queue_get_put_same (u : QueueUnit) (q : Queue) (l : List QEntry) : (u.put q l).get q = l := by cases q <;> rfl

theorem queue_get_put_other (u : QueueUnit) (q r : Queue) (l : List QEntry) (h : r ≠ q) : (u.put q l).get r = u.get r := by
  cases q <;> cases r <;> first | rfl | cases h rfl

theorem queue_put_flights (u : QueueUnit) (q : Queue) (l : List QEntry) : (u.put q l).flights = u.flights := by
  cases q <;> rfl

/-- The head of a queue, once known. -/
theorem headOf_eq {s : State} {f : FormeIx} {q : Queue} {e : QEntry} (h : ((s.forme f).q.get q).head? = some e) :
    headOf s f q = e := by
  unfold headOf
  cases hl : (s.forme f).q.get q with
  | nil => rw [hl] at h; cases h
  | cons x xs => rw [hl] at h; exact Option.some.inj h

/-- A granted head of the opcode is ready. -/
theorem headIs_of {s : State} {f : FormeIx} {q : Queue} {e : QEntry} {op : Nat} (hu : unitsOn s = true)
    (h : ((s.forme f).q.get q).head? = some e) (hg : e.granted = true) (ho : e.op = op) : headIs s f q op = true := by
  unfold headIs grantedHead
  rw [h]
  simp [hu, hg, ho]

theorem head_of_headIs {s : State} {f : FormeIx} {q : Queue} {op : Nat} (h : headIs s f q op = true) :
    ∃ e rest, (s.forme f).q.get q = e :: rest ∧ e.granted = true ∧ e.op = op := by
  unfold headIs grantedHead at h
  cases hl : (s.forme f).q.get q with
  | nil => rw [hl] at h; simp at h
  | cons x xs =>
    rw [hl] at h
    simp only [List.head?_cons] at h
    by_cases hc : (x.granted && decide (x.op = op)) = true
    · simp only [Bool.and_eq_true, decide_eq_true_eq] at hc
      exact ⟨x, xs, rfl, hc.1, hc.2⟩
    · simp [hc] at h

/-- A head that issues leaves its queue, and changes nothing but the queues of its Forme. -/
theorem issueHead_leaves {s : State} {f : FormeIx} {q : Queue} {e : QEntry} (done : Bool) (ctx : Option (Fin 16))
    (slot : Option (Fin 8)) (h : ((s.forme f).q.get q).head? = some e) :
    LeavesHead f q done ctx slot s (issueHead s f q done ctx slot) := by
  have he := headOf_eq h
  cases hl : (s.forme f).q.get q with
  | nil => rw [hl] at h; cases h
  | cons x xs =>
    rw [hl] at h; injection h with h; subst h
    refine ⟨x, xs, hl, ?_, ?_, ?_⟩
    · rw [issueHead_forme]; unfold issue; dsimp only
      rw [← hl]
      have : ∀ (u : QueueUnit) fl, ({ u with flights := fl } : QueueUnit).get q = u.get q := by
        intro u fl; cases q <;> rfl
      rw [this]; exact queue_get_put_same _ _ _
    · intro r hr
      rw [issueHead_forme]; unfold issue; dsimp only
      have : ∀ (u : QueueUnit) fl, ({ u with flights := fl } : QueueUnit).get r = u.get r := by
        intro u fl; cases r <;> rfl
      rw [this]; exact queue_get_put_other _ _ _ _ hr
    · rw [issueHead_forme]; unfold issue; dsimp only
      rw [queue_put_flights, he]

theorem issueHead_only (s : State) (f : FormeIx) (q : Queue) (done : Bool) (ctx : Option (Fin 16)) (slot : Option (Fin 8)) :
    OnlyForme f [.q] s (issueHead s f q done ctx slot) := by
  apply OnlyForme.mod
  intro p hp
  cases p <;> first | exact absurd (by decide) hp | rfl

/-- What keeps the queues of Forme f keeps that a head has left. -/
theorem LeavesHead.keep {f : FormeIx} {q : Queue} {done : Bool} {ctx : Option (Fin 16)} {slot : Option (Fin 8)}
    {s t u : State} (h : LeavesHead f q done ctx slot s t) (k : (u.forme f).q = (t.forme f).q) :
    LeavesHead f q done ctx slot s u := by
  obtain ⟨e, rest, h1, h2, h3, h4⟩ := h
  exact ⟨e, rest, h1, by rw [k]; exact h2, fun r hr => by rw [k]; exact h3 r hr, by rw [k]; exact h4⟩

/-- A head that takes effect at once, with its context free and its operands readable. -/
theorem runHead_runs {s : State} {f : FormeIx} {q : Queue} {names claims : Option (Fin 16)} {eff : State → State}
    (h : claimedBy (s.forme f) names = false) :
    runHead s f q names claims none eff = eff (issueHead s f q true claims none) := by
  unfold runHead; simp [h]

/-- The rest of the Forme as its head issues. -/
theorem issueHead_keeps (s : State) (f : FormeIx) (q : Queue) (done : Bool) (ctx : Option (Fin 16)) (slot : Option (Fin 8)) :
    (issueHead s f q done ctx slot).forme f
      = { s.forme f with q := ((issueHead s f q done ctx slot).forme f).q } := by
  rw [issueHead_forme]; rfl

theorem issueHead_galley (s : State) (f : FormeIx) (q : Queue) (done : Bool) (ctx : Option (Fin 16)) (slot : Option (Fin 8)) :
    ((issueHead s f q done ctx slot).forme f).galley = (s.forme f).galley := by rw [issueHead_keeps]
theorem issueHead_test (s : State) (f : FormeIx) (q : Queue) (done : Bool) (ctx : Option (Fin 16)) (slot : Option (Fin 8)) :
    ((issueHead s f q done ctx slot).forme f).test = (s.forme f).test := by rw [issueHead_keeps]
theorem issueHead_fe (s : State) (f : FormeIx) (q : Queue) (done : Bool) (ctx : Option (Fin 16)) (slot : Option (Fin 8)) :
    ((issueHead s f q done ctx slot).forme f).fe = (s.forme f).fe := by rw [issueHead_keeps]
theorem issueHead_vu (s : State) (f : FormeIx) (q : Queue) (done : Bool) (ctx : Option (Fin 16)) (slot : Option (Fin 8)) :
    ((issueHead s f q done ctx slot).forme f).vu = (s.forme f).vu := by rw [issueHead_keeps]
theorem issueHead_pu (s : State) (f : FormeIx) (q : Queue) (done : Bool) (ctx : Option (Fin 16)) (slot : Option (Fin 8)) :
    ((issueHead s f q done ctx slot).forme f).pu = (s.forme f).pu := by rw [issueHead_keeps]
theorem issueHead_quire (s : State) (f : FormeIx) (q : Queue) (done : Bool) (ctx : Option (Fin 16)) (slot : Option (Fin 8)) :
    ((issueHead s f q done ctx slot).forme f).quire = (s.forme f).quire := by rw [issueHead_keeps]
theorem issueHead_lat (s : State) (f : FormeIx) (q : Queue) (done : Bool) (ctx : Option (Fin 16)) (slot : Option (Fin 8)) :
    ((issueHead s f q done ctx slot).forme f).lat = (s.forme f).lat := by rw [issueHead_keeps]

/-- What is made of a Forme counts only at that Forme. -/
theorem modForme_congr {s : State} {f : FormeIx} {g k : Forme → Forme} (h : g (s.forme f) = k (s.forme f)) :
    modForme s f g = modForme s f k := by
  have h1 : g s.formes[f] = k s.formes[f] := h
  unfold modForme vmod; rw [h1]

/-- A Forme that stays as it is leaves the state as it is. -/
theorem modForme_self {s : State} {f : FormeIx} {g : Forme → Forme} (h : g (s.forme f) = s.forme f) : modForme s f g = s := by
  have h1 : g s.formes[f] = s.formes[f] := h
  unfold modForme vmod vset; rw [h1]; simp

theorem modForme_touches (s : State) (f : FormeIx) (g : Forme → Forme) : Touches [.formes] s (modForme s f g) :=
  modForme_touch s f g (by simp) (Touches.refl _ s)

theorem issueHead_touches (s : State) (f : FormeIx) (q : Queue) (done : Bool) (ctx : Option (Fin 16)) (slot : Option (Fin 8)) :
    Touches [.formes] s (issueHead s f q done ctx slot) := modForme_touches _ _ _

/-- With no flip armed, bytes written into a canonical Galley read back, and nothing but the Galley changes. -/
theorem galleyWrite_stores {s : State} {f : FormeIx} (a : Nat) (bs : List Byte) (hw : (s.forme f).galley.wf = true)
    (ha : (s.forme f).test.arm = false) :
    let t := modForme s f (fun fm => galleyPutAll fm (placed a bs))
    GalleyStores f a bs s t ∧ OnlyForme f [.galley] s t := by
  intro t
  have ht : t.forme f = { s.forme f with galley := (s.forme f).galley.putAll (placed a bs) } := by
    simp only [t, modForme_forme_same, galleyPutAll_plain _ _ ha]
  refine ⟨⟨?_, ?_⟩, fun k hk => modForme_forme_other _ _ _ _ hk, ?_⟩
  · rw [ht]; exact ParMem.bytes_placed _ _ _ hw
  · intro x hx; rw [ht]; exact ParMem.bytes_placed_other _ _ _ _ hx
  · rw [ht]; intro p hp; cases p <;> first | exact absurd (by decide) hp | rfl

/-- A store that follows the issue of a head, seen from the state before both. -/
theorem issueHead_stores {s : State} {f : FormeIx} (q : Queue) (done : Bool) (ctx : Option (Fin 16)) (slot : Option (Fin 8))
    (a : Nat) (bs : List Byte) (hw : (s.forme f).galley.wf = true) (ha : (s.forme f).test.arm = false) :
    let u := issueHead s f q done ctx slot
    let t := modForme u f (fun fm => galleyPutAll fm (placed a bs))
    GalleyStores f a bs s t ∧ OnlyForme f [.q, .galley] s t ∧ (t.forme f).q = (u.forme f).q ∧ Touches [.formes] s t := by
  intro u t
  have hg : (u.forme f).galley = (s.forme f).galley := issueHead_galley s f q done ctx slot
  have h2 : (u.forme f).test.arm = false := by rw [issueHead_test]; exact ha
  obtain ⟨h3, h4⟩ := galleyWrite_stores (s := u) (f := f) a bs (hg ▸ hw) h2
  refine ⟨⟨h3.1, fun x hx => (h3.2 x hx).trans (by rw [hg])⟩,
    ((issueHead_only s f q done ctx slot).mono (by decide)).trans (h4.mono (by decide)), h4.2 .q (by decide),
    (issueHead_touches s f q done ctx slot).trans (modForme_touches _ _ _)⟩

/-- A program error of a Forme on which no folio runs and no error is recorded (R365, R379, R401). -/
theorem progError_facts (s : State) (f : FormeIx) (e : PErr) (q : BitVec 3) (n : Nat) (ix : BitVec 24) (hf : folioOn s f = none)
    (hv : (s.forme f).err.valid = false) :
    let t := progError s f e q n ix
    (t.forme f).err = ⟨e.code, q, (s.forme f).err.more, BitVec.ofNat 8 n, (s.forme f).fe.lforme, ix, true⟩
      ∧ (t.forme f).fe.state = .abort ∧ (t.forme f).fe.next = (s.forme f).fe.next
      ∧ (∀ q, (t.forme f).q.get q = []) ∧ (t.forme f).q.flights = (s.forme f).q.flights
      ∧ OnlyForme f [.fe, .q, .err] s t ∧ Touches [.formes] s t := by
  intro t
  have ht : t = modForme s f (fun fm => abortForme (recordProgErr fm e q n ix)) := by
    have : folioOn (modForme s f (fun fm => recordProgErr fm e q n ix)) f = none := by
      simpa [folioOn] using hf
    simp only [t, progError, abortFolio, this, modForme_modForme]
  rw [ht]
  simp only [modForme_forme_same, abortForme, recordProgErr, hv]
  refine ⟨by simp, by simp, by simp, ?_, by simp, ?_, modForme_touches _ _ _⟩
  · intro q; cases q <;> rfl
  · apply OnlyForme.mod
    intro p hp
    cases p <;> first | exact absurd (by decide) hp | rfl

theorem galleyPut_only (fm : Forme) (o : Nat) (b : Byte) : FTouches [.galley, .test] fm (galleyPut fm o b) := by
  unfold galleyPut
  split <;> (intro p hp; cases p <;> first | exact absurd (by decide) hp | rfl)

theorem galleyPutAll_only (fm : Forme) (bs : List (Nat × Byte)) : FTouches [.galley, .test] fm (galleyPutAll fm bs) :=
  FTouches.foldl (fun fm (p : Nat × Byte) => galleyPut fm p.1 p.2) (fun a x => galleyPut_only a x.1 x.2) bs fm

theorem galleyWrite_only (s : State) (f : FormeIx) (bs : List (Nat × Byte)) :
    OnlyForme f [.galley, .test] s (galleyWrite s f bs) := OnlyForme.mod _ _ _ (galleyPutAll_only _ _)

theorem setCvt_only (fm : Forme) (g : Flg) : FTouches [.vu] fm (setCvt fm g) := by
  intro p hp; cases p <;> first | exact absurd (by decide) hp | rfl

theorem setFlush_only (s : State) (f : FormeIx) (b : Bool) : OnlyForme f [.vu] s (setFlush s f b) := by
  unfold setFlush
  split
  · exact OnlyForme.mod _ _ _ (setCvt_only _ _)
  · exact OnlyForme.refl _ _ _

theorem raiseAlarm_only (s : State) (f : FormeIx) (ps : List FPart) (tag : BitVec 12) (k : Nat) :
    OnlyForme f ps s (raiseAlarm s tag k) := by
  refine OnlyForme.of_touch (qs := [.out, .tbl, .proof, .cores, .colo]) ?_ (by decide)
  apply raiseAlarm_touch <;> first | exact Touches.refl _ _ | decide

theorem noteAlarm_only (s : State) (f : FormeIx) (ps : List FPart) (tag : BitVec 12) (k : Nat) :
    OnlyForme f ps s (noteAlarm s tag k) := by
  refine OnlyForme.of_touch (qs := [.tbl, .proof]) ?_ (by decide)
  apply noteAlarm_touch <;> first | exact Touches.refl _ _ | decide

theorem settleAlarms_only (s : State) (f : FormeIx) (ps : List FPart) (n : Nat) :
    OnlyForme f ps s (settleAlarms s n) := by
  refine OnlyForme.of_touch (qs := [.out, .proof, .cores, .colo]) ?_ (by decide)
  apply settleAlarms_touch <;> first | exact Touches.refl _ _ | decide

/-- Settling the queue changes no table. -/
theorem settleAlarms_tbl (s : State) (n : Nat) : (settleAlarms s n).tbl = s.tbl :=
  (settleAlarms_touch (qs := [.out, .proof, .cores, .colo]) s n (by decide) (by decide) (by decide) (by decide)
    (Touches.refl _ s)) .tbl (by decide)

/-- With no alarm raised there is nothing to settle. -/
theorem settleAlarms_self (s : State) (n : Nat) (h : s.proof.alarms.length ≤ n) : settleAlarms s n = s := by
  simp [settleAlarms, List.drop_eq_nil_of_le h]

/-- An alarm changes the tag entries only of the tables. -/
theorem raiseAlarm_hist (s : State) (tag : BitVec 12) (k : Nat) : (raiseAlarm s tag k).tbl.hist = s.tbl.hist := by
  unfold raiseAlarm
  rw [settleAlarms_tbl]
  unfold noteAlarm
  dsimp only
  split <;> rfl

theorem proofDst_only (s : State) (f : FormeIx) (ps : List FPart) (c : Ctl) (kd : ConvKind) (d : Dst) (q : Quant)
    (encs : List (List Enc)) : OnlyForme f ps s (proofDst s c kd d q encs) := by
  refine OnlyForme.of_touch (qs := [.out, .tbl, .proof, .cores, .colo]) ?_ (by decide)
  apply proofDst_touch <;> first | exact Touches.refl _ _ | decide

theorem finishDst_only (s : State) (f : FormeIx) (d : Dst) (q : Quant) (dl : Option Delay) (encs : List (List Enc)) :
    OnlyForme f [.galley, .test] s (finishDst s f d q dl encs) := by
  have h1 : OnlyForme f [.galley, .test] s (match q.tensor with
      | some t => modForme s f (fun fm => galleyPutAll fm (placed d.tsaddr (leBytes 4 t)))
      | none => s) := by
    split
    · exact OnlyForme.mod _ _ _ (galleyPutAll_only _ _)
    · exact OnlyForme.refl _ _ _
  have h2 : ∀ (u : State) (g : Nat) (e : HistEntry), OnlyForme f [.galley, .test] u (setHist u g e) := fun u g e =>
    OnlyForme.of_touch (qs := [.tbl]) (by intro p hq; cases p <;> first | exact absurd (by decide) hq | rfl) (by decide)
  unfold finishDst
  dsimp only
  split
  · exact h1
  · refine OnlyForme.trans (only_ite ?_ (only_ite ?_ ?_)) (OnlyForme.mod _ _ _ (galleyPutAll_only _ _))
    · exact (h1.trans (h2 _ _ _)).trans (noteAlarm_only _ _ _ _ _)
    · exact (h1.trans (h2 _ _ _)).trans (noteAlarm_only _ _ _ _ _)
    · exact h1.trans (h2 _ _ _)

/-- A conversion changes the Galley and the vector unit of the Forme that makes it (and the flip that a write disarms). -/
theorem convertRegion_only (s : State) (f : FormeIx) (c : Ctl) (kd : ConvKind) (ds : List Dst) (vals : List (List Val)) :
    OnlyForme f [.galley, .vu, .test] s (convertRegion s f c kd ds vals).st := by
  unfold convertRegion
  dsimp only
  refine OnlyForme.trans ?_ (settleAlarms_only _ _ _ _)
  refine OnlyForme.trans ?_ (OnlyForme.foldl (fun t p => (finishDst_only t f _ _ _ _).mono (by decide)) _ _)
  refine OnlyForme.trans ?_ (OnlyForme.foldl (fun t p => proofDst_only t f _ _ _ _ _ _) _ _)
  refine OnlyForme.trans ?_ (OnlyForme.mod _ _ _ ((setCvt_only _ _).mono (by decide)))
  apply OnlyForme.mod
  intro p hp
  cases p <;> first | exact absurd (by decide) hp | rfl

theorem storeOut_only (f : FormeIx) (o : ConvOut) : OnlyForme f [.galley, .vu, .test] o.st (storeOut f o) :=
  OnlyForme.foldl (fun t bs => (galleyWrite_only t f bs).mono (by decide)) _ _

theorem convertGrid_only (s : State) (f : FormeIx) (c : Ctl) (delayed : Bool) (d : Dst) (m : List (List (Val × Bool))) :
    OnlyForme f [.galley, .vu, .test] s (convertGrid s f c delayed d m) := by
  unfold convertGrid
  dsimp only
  refine OnlyForme.trans ?_ (storeOut_only f _)
  refine OnlyForme.trans ((setFlush_only _ _ _).mono (by decide)) (convertRegion_only _ _ _ _ _ _)

/-- A grid conversion of VQ with its context free and its operands readable. -/
theorem runGrid_runs {s : State} {f : FormeIx} {reads : List (Nat × Nat)} {dl : Bool} {d : Dst} {m : List (List (Val × Bool))}
    (hc : claimedBy (s.forme f) (convCtx (s.forme f) (headCtl s f) [d]) = false)
    (hb : galleyBad (s.forme f) f (reads ++ dstReads d (headVec s f).count (headVec s f).vlen) = none) :
    runGrid s f reads dl d m = convertGrid (issueHead s f .vq true (convCtx (s.forme f) (headCtl s f) [d]) none) f (headCtl s f) dl d m := by
  unfold runGrid
  dsimp only
  rw [hb, runHead_runs hc]

theorem head_of_ready {s : State} {f : FormeIx} {op : Nat} (h : vecReady s f op = true) :
    ∃ e, ((s.forme f).q.get .vq).head? = some e := by
  unfold vecReady at h
  simp only [Bool.and_eq_true] at h
  obtain ⟨e, rest, h1, _⟩ := head_of_headIs h.1
  exact ⟨e, by rw [h1]; rfl⟩

/-- What a grid conversion of VQ changes. -/
theorem convertGrid_facts (s : State) (f : FormeIx) (op : Nat) (ctx : Option (Fin 16)) (c : Ctl) (d : Dst) (dl : Bool) (m : List (List (Val × Bool))) (h : vecReady s f op = true) :
    let t := convertGrid (issueHead s f .vq true ctx none) f c dl d m
    LeavesHead f .vq true ctx none s t ∧ OnlyForme f [.q, .galley, .vu, .test] s t
        ∧ Touches [.formes, .tbl, .proof, .colo, .cores, .out] s t := by
  intro t
  obtain ⟨e, he⟩ := head_of_ready h
  have h1 := convertGrid_only (issueHead s f .vq true ctx none) f c dl d m
  refine ⟨LeavesHead.keep (issueHead_leaves true ctx none he) (h1.2 .q (by decide)),
    ((issueHead_only s f .vq true ctx none).mono (by decide)).trans (h1.mono (by decide)),
    ((issueHead_touches s f .vq true ctx none).mono (by decide)).trans ?_⟩
  apply convertGrid_touch <;> first | exact Touches.refl _ _ | decide

/-- Without stochastic rounding no lane steps and each element is encoded by itself. -/
theorem encodeRow_plain {g1 : Bool} {c : Ctl} {k : Nat} {d : Dst} (h : drawsSr g1 c d = false) (col : Nat) (js : List Job)
    (sr : Table (BitVec 32)) :
    encodeRow g1 c k [d] col (js.map (fun j => [j])) sr = (sr, js.map (fun j => [encodeJob d.fmt c (plainMode g1 c) j])) := by
  induction js generalizing col with
  | nil => rfl
  | cons j js ih => simp [encodeRow, encodeAll, encodeCell, h, ih]

theorem encodeRows_plain {g1 : Bool} {c : Ctl} {k : Nat} {d : Dst} (h : drawsSr g1 c d = false) (rows : List (List Job))
    (sr : Table (BitVec 32)) :
    encodeRows g1 c k [d] (rows.map (fun r => r.map (fun j => [j]))) sr
      = (sr, rows.map (fun r => r.map (fun j => [encodeJob d.fmt c (plainMode g1 c) j]))) := by
  induction rows with
  | nil => rfl
  | cons r rows ih => simp [encodeRows, encodeRow_plain h, ih]

theorem quantise_plain {d : Dst} (h : isScaled d.fmt = false) (t : Int) (ts : Nat) (m : List (List Val)) :
    quantise d t ts m = ⟨m.map (fun vs => vs.map Job.plain), [], none, []⟩ := by
  unfold quantise
  cases hf : d.fmt <;> first | rfl | (rw [hf] at h; exact absurd h (by decide))

/-- Conversion of a region into one untagged destination of a plain format without stochastic rounding: its bytes are the
encoded rows, and only the vector unit's sticky flags change. -/
theorem convertRegion_plain (s : State) (f : FormeIx) (c : Ctl) (kd : ConvKind) (d : Dst) (vals : List (List Val))
    (h1 : isScaled d.fmt = false) (h2 : d.tagged = false) (h3 : d.jctl = 0) (h4 : drawsSr (s.forme f).fe.g1 c d = false) :
    let o := convertRegion s f c kd [d] vals
    let md := plainMode (s.forme f).fe.g1 c
    o.bytes = [planeBytes d.base d.pitch d.wrap ((if d.fold then (vals.map (fun r => r.map (fun v => encodeJob d.fmt c md (.plain v)))).map (chunks 128) |>.flatten else vals.map (fun r => r.map (fun v => encodeJob d.fmt c md (.plain v)))).map (fun r => packCodes (fmtBits d.fmt) (r.map (·.pat))))]
      ∧ OnlyForme f [.vu] s o.st ∧ Touches [.formes] s o.st := by
  intro o md
  have hp : prepareDst s f (s.forme f).fe.g1 c kd d vals = (⟨vals.map (fun vs => vs.map Job.plain), [], none, []⟩, none) := by
    unfold prepareDst
    simp [justify, h3, delayedActs, h2, quantise_plain h1]
  have hs : ∀ (t : State) kd q encs, proofDst t c kd d q encs = t := by
    intro t kd q encs
    unfold proofDst; simp [countWrite, sampleWrite, h2]
  have hrows : (vals.map (fun vs => vs.map Job.plain)).map (fun r => r.map (fun j => [j]))
     = gatherJobs ([d].map (fun d => prepareDst s f (s.forme f).fe.g1 c kd d vals) |>.map (·.1)) := by
    simp [hp, gatherJobs]
  have henc := encodeRows_plain (k := srBits (s.forme f) c) h4 (vals.map (fun vs => vs.map Job.plain)) (s.forme f).vu.sr
  rw [hrows] at henc
  have hf : ∀ (t : State) q encs, q.tensor = none → finishDst t f d q none encs = t := by
    intro t q encs hq
    unfold finishDst; simp [hq]
  refine ⟨?_, ?_, ?_⟩
  · simp only [o, convertRegion, henc]
    simp [hp, dstBytes, md, Function.comp_def]
  · have hst : o.st = modForme (modForme s f (fun fm => { fm with vu := { fm.vu with sr := (s.forme f).vu.sr } })) f
        (fun fm => setCvt fm (((vals.map (fun vs => vs.map Job.plain)).map (fun r => r.map (fun j => [encodeJob d.fmt c (plainMode (s.forme f).fe.g1 c) j]))).flatten.flatten.foldl (fun g e => g.or e.flg) Flg.none)) := by
      simp only [o, convertRegion, henc]
      simp [hp, hf, hs, Function.comp_def]
      exact settleAlarms_self _ _ (Nat.le_refl _)
    rw [hst]
    refine (OnlyForme.mod _ _ _ ?_).trans (OnlyForme.mod _ _ _ (setCvt_only _ _))
    intro p hp; cases p <;> first | exact absurd (by decide) hp | rfl
  · have hst : o.st = modForme (modForme s f (fun fm => { fm with vu := { fm.vu with sr := (s.forme f).vu.sr } })) f
        (fun fm => setCvt fm (((vals.map (fun vs => vs.map Job.plain)).map (fun r => r.map (fun j => [encodeJob d.fmt c (plainMode (s.forme f).fe.g1 c) j]))).flatten.flatten.foldl (fun g e => g.or e.flg) Flg.none)) := by
      simp only [o, convertRegion, henc]
      simp [hp, hf, hs, Function.comp_def]
      exact settleAlarms_self _ _ (Nat.le_refl _)
    rw [hst]
    exact (modForme_touches _ _ _).trans (modForme_touches _ _ _)

theorem storeOut_one {f : FormeIx} {o : ConvOut} {a : Nat} {bs : List Byte} (h : o.bytes = [placed a bs]) :
    storeOut f o = modForme o.st f (fun fm => galleyPutAll fm (placed a bs)) := by
  unfold storeOut; rw [h]; rfl

/-- With no flip armed, a list of bytes goes into the Galley at their addresses, and nothing but the Galley changes. -/
theorem galleyWrite_writes {u : State} {f : FormeIx} (bs : List (Nat × Byte)) (ha : (u.forme f).test.arm = false) :
    GalleyWrites f bs u (galleyWrite u f bs) ∧ OnlyForme f [.galley] u (galleyWrite u f bs)
      ∧ Touches [.formes] u (galleyWrite u f bs) := by
  have ht : (galleyWrite u f bs).forme f = { u.forme f with galley := (u.forme f).galley.putAll bs } := by
    simp only [galleyWrite, modForme_forme_same, galleyPutAll_plain _ _ ha]
  refine ⟨⟨by rw [ht], ?_⟩, ⟨fun k hk => modForme_forme_other _ _ _ _ hk, ?_⟩, modForme_touches _ _ _⟩
  · intro x hx; rw [ht]; exact ParMem.byte_putAll_other _ _ _ hx
  · rw [ht]; intro p hp; cases p <;> first | exact absurd (by decide) hp | rfl

/-- A write seen from an earlier state with the same Galley. -/
theorem GalleyWrites.from {f : FormeIx} {bs : List (Nat × Byte)} {s u t : State} (h : GalleyWrites f bs u t)
    (k : (u.forme f).galley = (s.forme f).galley) : GalleyWrites f bs s t :=
  ⟨by rw [← k]; exact h.1, fun x hx => by rw [← k]; exact h.2 x hx⟩

theorem setFlush_touches (s : State) (f : FormeIx) (b : Bool) : Touches [.formes] s (setFlush s f b) := by
  unfold setFlush
  split
  · exact modForme_touches _ _ _
  · exact Touches.refl _ _

/-- A head that issues and then changes its Forme only outside the queues. -/
theorem issueHead_then {s : State} {f : FormeIx} {q : Queue} {e : QEntry} {ctx : Option (Fin 16)} {ps : List FPart}
    {g : Forme → Forme} (h : ((s.forme f).q.get q).head? = some e)
    (hg : FTouches ps ((issueHead s f q true ctx none).forme f) (g ((issueHead s f q true ctx none).forme f)))
    (hq : FPart.q ∉ ps) :
    let t := modForme (issueHead s f q true ctx none) f g
    LeavesHead f q true ctx none s t ∧ OnlyForme f (.q :: ps) s t ∧ Touches [.formes] s t := by
  intro t
  have hm := OnlyForme.mod _ f g hg
  exact ⟨LeavesHead.keep (issueHead_leaves true ctx none h) (hm.2 .q hq),
    ((issueHead_only s f q true ctx none).mono (by simp)).trans (hm.mono (by simp)),
    (issueHead_touches s f q true ctx none).trans (modForme_touches _ _ _)⟩

/-- A head of VQ with no context and no operand to check takes its effect. -/
theorem runHead_plain {s : State} {f : FormeIx} {q : Queue} {eff : State → State} :
    runHead s f q none none none eff = eff (issueHead s f q true none none) := runHead_runs rfl

end Laws

end Sys2Proof
end

