-- ==== Sys2Proof/Laws/Facts.lean ====
section
/-! SUPPORT. What the shared operations of the die do: the object dictionary, events and interrupts, Span ports and packets,
and the Carriages of a Forme. -/

namespace Sys2Proof

open Machine Laws

theorem Touches.of_eq {s t : State} {ps : List Part} (h : t = s) : Touches ps s t := by subst h; exact Touches.refl _ _

/-! ### The object dictionary -/

theorem entN_congr {s t : State} (hb : t.build = s.build) (hd : t.dieIndex = s.dieIndex) (he : t.colo.ent = s.colo.ent) (i j : Nat) :
    entN t i j = entN s i j := by unfold entN; rw [hb, hd, he]

theorem entN_setEnt_other (s : State) (i j v i' j' : Nat) (h : entKey i' j' ≠ entKey i j) :
    entN (setEnt s i j v) i' j' = entN s i' j' := by
  unfold entN setEnt; exact tget_tset_other _ _ _ _ _ h

theorem entN_setEnt_same (s : State) (i j v : Nat) (h : tableWf (entDefault s.build s.dieIndex) s.colo.ent = true) :
    entN (setEnt s i j v) i j = v := by
  unfold entN setEnt; exact tget_tset_same _ _ _ _ h

theorem entN_bumpEnt_same (s : State) (i j k w : Nat) (h : tableWf (entDefault s.build s.dieIndex) s.colo.ent = true) :
    entN (bumpEnt s i j k w) i j = (entN s i j + k) % 2 ^ w := entN_setEnt_same _ _ _ _ h

theorem setEnt_wf (s : State) (i j v : Nat) (h : tableWf (entDefault s.build s.dieIndex) s.colo.ent = true) :
    tableWf (entDefault (setEnt s i j v).build (setEnt s i j v).dieIndex) (setEnt s i j v).colo.ent = true := tset_wf _ _ h

theorem bumpEnt_touches (s : State) (i j k w : Nat) : Touches [.colo] s (bumpEnt s i j k w) := by
  intro p hp; cases p <;> first | exact absurd (by decide) hp | rfl

theorem setEnt_touches (s : State) (i j v : Nat) : Touches [.colo] s (setEnt s i j v) := by
  intro p hp; cases p <;> first | exact absurd (by decide) hp | rfl

/-! ### Span ports -/

theorem modPort_same (s : State) (p : Fin 11) (g : Port → Port) : (modPort s p g).span.ports[p] = g s.span.ports[p] :=
  vmod_get_same _ _ _

theorem modPort_other (s : State) (p q : Fin 11) (g : Port → Port) (h : q ≠ p) :
    (modPort s p g).span.ports[q] = s.span.ports[q] := vmod_get_other _ _ _ _ h

theorem modPort_touches (s : State) (b : Fin 11) (g : Port → Port) : Touches [.span] s (modPort s b g) := by
  intro p hp; cases p <;> first | exact absurd (by decide) hp | rfl

theorem port_congr {s t : State} (h : t.span = s.span) (p : Fin 11) : t.span.ports[p] = s.span.ports[p] := by rw [h]

/-- A packet leaves its port's buffer; nothing else of the Span changes. -/
theorem takePacket_keeps (s : State) (p : Fin 11) (n : Nat) :
    ((takePacket s p n).span.ports[p]).rx = eraseFirst (fun x => decide (x.typ.toNat = n)) (s.span.ports[p]).rx
      ∧ (∀ q, q ≠ p → (takePacket s p n).span.ports[q] = s.span.ports[q]) ∧ { (takePacket s p n).span with ports := s.span.ports } = s.span
      ∧ Touches [.span] s (takePacket s p n) :=
  ⟨by rw [takePacket, modPort_same], fun q hq => modPort_other _ _ _ _ hq, rfl, modPort_touches _ _ _⟩

theorem packetReady_of {s : State} {p : Fin 11} {n : Nat} {k : SpanPacket} (hu : unitsOn s = true)
    (hw : waitingPacket s p n = some k) : packetReady s p n = true := by
  unfold packetReady; rw [hu, hw]; rfl

section
variable {s : State} {p q : Fin 11} {n : Nat} {k : SpanPacket} {bad good : State → SpanPacket → State}

/-- A packet for another die is forwarded. -/
theorem onPacket_forward (hw : waitingPacket s p n = some k) (hd : k.dst ≠ s.span.dieId)
    (hf : knownFenced (takePacket s p n) k.dst = false) (hh : 1 < k.hops)
    (hc : choosePort (takePacket s p n) k (some p) = some q) :
    onPacket s p n bad good = enqueuePort (takePacket s p n) q (hopPacket k) := by
  unfold onPacket; rw [hw]; dsimp only; rw [if_pos hd]; unfold forwardPacket
  have h2 : ¬ k.hops ≤ 1 := by bv_omega
  rw [hf, if_neg (by decide), if_neg h2, hc]

/-- A packet whose HCRC fails is counted. -/
theorem onPacket_hcrc (hw : waitingPacket s p n = some k) (hd : k.dst = s.span.dieId) (hh : hcrcOk k = false) :
    onPacket s p n bad good = bumpEnt (takePacket s p n) 0x5020 7 1 32 := by
  unfold onPacket; rw [hw]; dsimp only; rw [if_neg (by simp [hd]), hh]; rfl

/-- A packet whose PCRC fails. -/
theorem onPacket_pcrc (hw : waitingPacket s p n = some k) (hd : k.dst = s.span.dieId) (hh : hcrcOk k = true)
    (hp : pcrcOk k = false) : onPacket s p n bad good = bad (takePacket s p n) k := by
  unfold onPacket; rw [hw]; dsimp only; rw [if_neg (by simp [hd]), hh, hp]; rfl

/-- A whole packet for this die. -/
theorem onPacket_good (hw : waitingPacket s p n = some k) (hd : k.dst = s.span.dieId) (hh : hcrcOk k = true)
    (hp : pcrcOk k = true) : onPacket s p n bad good = good (takePacket s p n) k := by
  unfold onPacket; rw [hw]; dsimp only; rw [if_neg (by simp [hd]), hh, hp]; rfl
end

/-! ### Carriages -/

theorem carOf_modCar_same (s : State) (f : FormeIx) (c : Fin 8) (g : Carriage → Carriage) :
    carOf (modCar s f c g) f c = g (carOf s f c) := by
  unfold carOf modCar; rw [modForme_forme_same]; exact vmod_get_same _ _ _

theorem carOf_modCar_other (s : State) (f : FormeIx) (c d : Fin 8) (g : Carriage → Carriage) (h : d ≠ c) :
    carOf (modCar s f c g) f d = carOf s f d := by
  unfold carOf modCar; rw [modForme_forme_same]; exact vmod_get_other _ _ _ _ h

theorem localPutAll_span (s : State) (l : List (Nat × Byte)) : (localPutAll s l).span = s.span :=
  localPutAll_touch (qs := [.formes, .gddr, .tbl]) s l (by decide) (by decide) (by decide) (Touches.refl _ s) .span (by decide)

/-! ### Interrupts, events and signals -/


theorem unitsOn_not_fenced {s : State} (h : unitsOn s = true) : s.fault.fenced = false := by
  unfold unitsOn at h; simp only [Bool.and_eq_true, Bool.not_eq_true'] at h; exact h.2

theorem irq_bit (s : State) (k : Nat) (hk : k < 32) (h : s.fault.fenced = false) : ((irq s k).cores.pending ||| (irq s k).cores.claimed).getLsbD k = true := by
  unfold irq; rw [h, Bool.false_or]
  split
  · assumption
  · rename_i hh
    rw [BitVec.getLsbD_or, BitVec.getLsbD_or, BitVec.getLsbD_ofNat, Nat.testBit_two_pow_self]; simp [hk]

theorem raise_bit (s : State) (k i d : Nat) (hk : k < 32) (h : s.fault.fenced = false) : ((raise s k i d).cores.pending ||| (raise s k i d).cores.claimed).getLsbD k = true := by
  have : (raise s k i d).cores = (irq s k).cores :=
    (notifyEvent_touch (qs := [.out, .colo]) (irq s k) k i d (by decide) (by decide) (Touches.refl _ _)) .cores (by decide)
  rw [this]; exact irq_bit s k hk h
theorem raise_tt (s : State) (k i d : Nat) : Touches [.out, .cores, .colo] s (raise s k i d) :=
  raise_touch (qs := [.out, .cores, .colo]) s k i d (by decide) (by decide) (by decide) (Touches.refl _ s)



theorem spanSend_tt (s : State) (pk : SpanPacket) : Touches [.out, .span, .colo] s (spanSend s pk).1 :=
  spanSend_touch s pk (by decide) (by decide) (by decide) (Touches.refl _ _)

theorem remoteSignal_facts (s : State) (f : FormeIx) (j : BitVec 4) :
    (remoteSignal s f j 1).forme f = (if formeBusy (s.forme f) && isExt (s.forme f) j then { s.forme f with tok := vmod (s.forme f).tok j.toFin (· + 1) } else s.forme f)
     ∧ (∀ g, g ≠ f → (remoteSignal s f j 1).forme g = s.forme g) := by
  unfold remoteSignal
  split
  · exact ⟨by rw [modForme_forme_same]; rfl, fun g hg => modForme_forme_other _ _ _ _ hg⟩
  · exact ⟨rfl, fun _ _ => rfl⟩

theorem signals_facts (mask : BitVec 12) (j : BitVec 4) (l : List FormeIx) (hn : l.Nodup) (s : State) :
    let t := l.foldl (fun s f => if mask.getLsbD f.1 then remoteSignal s f j 1 else s) s
    (∀ f ∈ l, t.forme f = if mask.getLsbD f.1 && formeBusy (s.forme f) && isExt (s.forme f) j
          then { s.forme f with tok := vmod (s.forme f).tok j.toFin (· + 1) } else s.forme f)
      ∧ (∀ f, f ∉ l → t.forme f = s.forme f) := by
  induction l generalizing s with
  | nil => exact ⟨fun _ h => absurd h List.not_mem_nil, fun _ _ => rfl⟩
  | cons a l ih =>
    obtain ⟨ha, hn'⟩ := List.nodup_cons.mp hn
    intro t
    obtain ⟨i1, i2⟩ := ih hn' (if mask.getLsbD a.1 then remoteSignal s a j 1 else s)
    have hoth : ∀ g, g ≠ a → (if mask.getLsbD a.1 then remoteSignal s a j 1 else s).forme g = s.forme g := fun g hg => by
      split
      · exact (remoteSignal_facts s a j).2 g hg
      · rfl
    refine ⟨fun f hf => ?_, fun f hf => ?_⟩
    · rcases List.mem_cons.mp hf with h | h
      · subst h
        refine (i2 _ ha).trans ?_
        cases hm : mask.getLsbD f.1
        · simp
        · simp only [if_true, Bool.true_and]; exact (remoteSignal_facts s f j).1
      · have hne : f ≠ a := fun e => ha (e ▸ h)
        refine (i1 f h).trans ?_
        rw [hoth f hne]
    · have hne : f ≠ a := fun e => hf (e ▸ List.mem_cons_self)
      exact (i2 f (fun h => hf (List.mem_cons_of_mem _ h))).trans (hoth f hne)

theorem signalMask_facts (s : State) (mask : BitVec 12) (j : BitVec 4) (f : FormeIx) :
    (signalMask s mask j).forme f = if mask.getLsbD f.1 && formeBusy (s.forme f) && isExt (s.forme f) j
          then { s.forme f with tok := vmod (s.forme f).tok j.toFin (· + 1) } else s.forme f :=
  (signals_facts mask j (List.finRange 12) (List.nodup_finRange 12) s).1 f (List.mem_finRange f)


/-! ### The error log -/


theorem faultRise_tt (b a : State) : Touches [.out, .colo] a (faultRise b a) := by
  unfold faultRise; split
  · exact notifyEvent_touch (qs := [.out, .colo]) a _ _ _ (by decide) (by decide) (Touches.refl _ a)
  · exact Touches.refl _ _
set_option maxRecDepth 20000 in
/-- What a record of a class changes in the fault state. -/
theorem logFault_recs (s : State) (cls : MClass) (sev : Sev) (fo : Option FormeIx) (act : FAction) (ix : Nat) (fid : BitVec 32) (a : Nat) :
    (logFault s cls sev fo act ix fid a).fault.recs = (s.fault.recs ++ [(⟨s.fault.nextSeq, s.tb.ns, BitVec.ofNat 4 cls.code, sev.code,
    match fo with | some f => BitVec.ofNat 4 f.1 | none => 15, act.code, BitVec.ofNat 8 ix, fid, BitVec.ofNat 40 a⟩ : FaultRec)]).drop (s.fault.recs.length + 1 - 1024)
    ∧ (logFault s cls sev fo act ix fid a).fault.nextSeq = s.fault.nextSeq + 1
    ∧ (logFault s cls sev fo act ix fid a).fault.fenced = s.fault.fenced := by
  unfold logFault
  dsimp only
  have hfr : ∀ b x : State, (faultRise b x).fault = x.fault := fun b x => (faultRise_tt b x) .fault (by decide)
  rw [hfr]
  have hb : ∀ (x : State) (c : Fin 12), (bucketEvent x c).fault.recs = x.fault.recs ∧ (bucketEvent x c).fault.nextSeq = x.fault.nextSeq ∧ (bucketEvent x c).fault.fenced = x.fault.fenced := fun _ _ => ⟨rfl, rfl, rfl⟩
  have hf : ∀ (x : State) (f : FormeIx) (g : Forme → Forme), (modForme x f g).fault = x.fault := fun _ _ _ => rfl
  cases fo with
  | none =>
    dsimp only; split
    · rw [(hb _ _).1, (hb _ _).2.1, (hb _ _).2.2]; exact ⟨rfl, rfl, rfl⟩
    · exact ⟨rfl, rfl, rfl⟩
  | some f =>
    dsimp only; split
    · rw [(hb _ _).1, (hb _ _).2.1, (hb _ _).2.2]; split
      · rw [hf]; exact ⟨rfl, rfl, rfl⟩
      · exact ⟨rfl, rfl, rfl⟩
    · split
      · rw [hf]; exact ⟨rfl, rfl, rfl⟩
      · exact ⟨rfl, rfl, rfl⟩

theorem logFault_fenced (s : State) (cls : MClass) (sev : Sev) (fo : Option FormeIx) (act : FAction) (ix : Nat) (fid : BitVec 32) (a : Nat) :
    (logFault s cls sev fo act ix fid a).fault.fenced = s.fault.fenced := (logFault_recs s cls sev fo act ix fid a).2.2


set_option maxRecDepth 20000 in
theorem logFault_none_tt (s : State) (cls : MClass) (sev : Sev) (act : FAction) (ix : Nat) (fid : BitVec 32) (a : Nat)
    (hs : sev ≠ .hard) (ha : act ≠ .dieFenced) : Touches [.out, .fault, .colo] s (logFault s cls sev none act ix fid a) := by
  have hfr : ∀ b x : State, Touches [.out, .colo] x (faultRise b x) := fun b a => by
    unfold faultRise; split
    · exact notifyEvent_touch (qs := [.out, .colo]) a _ _ _ (by decide) (by decide) (Touches.refl _ a)
    · exact Touches.refl _ _
  unfold logFault; dsimp only
  simp only [hs, ha, decide_false, Bool.or_self, Bool.false_and, Bool.false_eq_true, if_false]
  refine Touches.trans ?_ ((hfr s _).mono (by decide))
  split
  · intro p hp; cases p <;> first | exact absurd (by decide) hp | rfl
  · intro p hp; cases p <;> first | exact absurd (by decide) hp | rfl


/-! ### What a Span operation leaves of the other ports -/


/-- Of the Span only port p changes. -/
def OnlyPort (p : Fin 11) (s t : State) : Prop := (∀ q, q ≠ p → t.span.ports[q] = s.span.ports[q]) ∧ { t.span with ports := s.span.ports } = s.span
theorem OnlyPort.refl (p : Fin 11) (s : State) : OnlyPort p s s := ⟨fun _ _ => rfl, rfl⟩
theorem OnlyPort.trans {p : Fin 11} {s t u : State} (h : OnlyPort p s t) (k : OnlyPort p t u) : OnlyPort p s u :=
  ⟨fun q hq => (k.1 q hq).trans (h.1 q hq), by rw [← h.2, ← k.2]⟩
theorem OnlyPort.of_span {p : Fin 11} {s t : State} (h : t.span = s.span) : OnlyPort p s t := ⟨fun _ _ => by rw [h], by rw [h]⟩
theorem OnlyPort.mod (s : State) (p : Fin 11) (g : Port → Port) : OnlyPort p s (modPort s p g) := ⟨fun q hq => modPort_other _ _ _ _ hq, rfl⟩

theorem pumpPort_keeps (n : Nat) (s : State) (p : Fin 11) :
    (∃ q w k, (pumpPort n s p).span.ports[p] = { s.span.ports[p] with txq := q, replay := w, txSeq := k })
     ∧ OnlyPort p s (pumpPort n s p) ∧ Touches [.out, .span] s (pumpPort n s p) ∧ (∀ o ∈ s.out, o ∈ (pumpPort n s p).out) := by
  induction n generalizing s with
  | zero => exact ⟨⟨_, _, _, rfl⟩, OnlyPort.refl _ _, Touches.refl _ _, fun _ h => h⟩
  | succ n ih =>
    unfold pumpPort; dsimp only
    split
    · exact ⟨⟨_, _, _, rfl⟩, OnlyPort.refl _ _, Touches.refl _ _, fun _ h => h⟩
    · rename_i pk rest heq
      split
      · let port' : Port := { s.span.ports[p] with txq := rest, replay := (s.span.ports[p]).replay ++ [((s.span.ports[p]).txSeq, pk)], txSeq := (s.span.ports[p]).txSeq + 1 }
        let s1 : State := emit { s with span := { s.span with ports := vset s.span.ports p port' } } (.span p pk)
        have hs1 : s1.span.ports[p] = port' := vset_get_same _ _ _
        obtain ⟨⟨q, w, k, h1⟩, h2, h3, h4⟩ := ih s1
        refine ⟨⟨q, w, k, ?_⟩, OnlyPort.trans (t := s1) ⟨fun q hq => vset_get_other _ _ _ _ hq, rfl⟩ h2, Touches.trans (t := s1) ?_ h3, ?_⟩
        · exact h1.trans (by rw [hs1])
        · intro p hp; cases p <;> first | exact absurd (by decide) hp | rfl
        · intro o ho; exact h4 o (List.mem_append_left _ ho)
      · exact ⟨⟨_, _, _, rfl⟩, OnlyPort.refl _ _, Touches.refl _ _, fun _ h => h⟩


theorem updateRoutes_tt (s : State) : Touches [.tbl] s (updateRoutes s) := updateRoutes_touch s (by decide) (Touches.refl _ _)
theorem updateRoutes_span (s : State) : (updateRoutes s).span = s.span := updateRoutes_tt s .span (by decide)
theorem updateRoutes_out (s : State) : (updateRoutes s).out = s.out := updateRoutes_tt s .out (by decide)

theorem settleHold_keeps (s : State) (p : Fin 11) :
    ((settleHold s p).span.ports[p]).rx = (s.span.ports[p]).rx ∧ ((settleHold s p).span.ports[p]).rxSeq = (s.span.ports[p]).rxSeq
     ∧ OnlyPort p s (settleHold s p) ∧ Touches [.tbl, .span] s (settleHold s p) ∧ (settleHold s p).out = s.out := by
  unfold settleHold; dsimp only
  split
  · refine ⟨by rw [port_congr (updateRoutes_span _) p, modPort_same]; rfl, by rw [port_congr (updateRoutes_span _) p, modPort_same]; rfl, (OnlyPort.mod _ _ _).trans (OnlyPort.of_span (updateRoutes_span _)), ((modPort_touches _ _ _).mono (by decide)).trans ((updateRoutes_tt _).mono (by decide)), by rw [updateRoutes_out]; rfl⟩
  · exact ⟨rfl, rfl, OnlyPort.refl _ _, Touches.refl _ _, rfl⟩

theorem emits_keep {α : Type} (f : α → Out) (l : List α) (s : State) : (l.foldl (fun t a => emit t (f a)) s).span = s.span ∧ Touches [.out] s (l.foldl (fun t a => emit t (f a)) s)
    ∧ (∀ o ∈ s.out, o ∈ (l.foldl (fun t a => emit t (f a)) s).out) := by
  induction l generalizing s with
  | nil => exact ⟨rfl, Touches.refl _ _, fun _ h => h⟩
  | cons a l ih =>
    rw [List.foldl_cons]
    obtain ⟨h1, h2, h3⟩ := ih (emit s (f a))
    refine ⟨h1, Touches.trans (t := emit s (f a)) ?_ h2, fun o ho => h3 o (List.mem_append_left _ ho)⟩
    intro p hp; cases p <;> first | exact absurd (by decide) hp | rfl

theorem resend_keeps (s : State) (p : Fin 11) :
    ((resendFrames s p).span.ports[p]).rx = (s.span.ports[p]).rx ∧ ((resendFrames s p).span.ports[p]).rxSeq = (s.span.ports[p]).rxSeq
     ∧ OnlyPort p s (resendFrames s p) ∧ Touches [.out, .span, .colo] s (resendFrames s p) ∧ (∀ o ∈ s.out, o ∈ (resendFrames s p).out) := by
  unfold resendFrames; dsimp only
  obtain ⟨h1, h2, h3⟩ := emits_keep (fun f : BitVec 16 × SpanPacket => Out.span p f.2) (s.span.ports[p]).replay s
  refine ⟨?_, ?_, ?_, ?_, h3⟩
  · show ((modPort _ p _).span.ports[p]).rx = _
    rw [modPort_same, port_congr h1 p]
  · show ((modPort _ p _).span.ports[p]).rxSeq = _
    rw [modPort_same, port_congr h1 p]
  · exact (OnlyPort.of_span h1).trans (OnlyPort.mod _ _ _)
  · refine (h2.mono (by decide)).trans ?_
    intro p hp; cases p <;> first | exact absurd (by decide) hp | rfl

theorem takeAck_keeps (s : State) (p : Fin 11) (fr : SpanFrame) :
    ((takeAck s p fr).span.ports[p]).rx = (s.span.ports[p]).rx ∧ ((takeAck s p fr).span.ports[p]).rxSeq = (s.span.ports[p]).rxSeq
     ∧ OnlyPort p s (takeAck s p fr) ∧ (∀ o ∈ s.out, o ∈ (takeAck s p fr).out) := by
  let s1 := modPort s p (fun y => { y with replay := dropAcked fr.ack (s.span.ports[p]).replay, tries := if (dropAcked fr.ack (s.span.ports[p]).replay).length < y.replay.length then 0 else y.tries })
  have e1 : (s1.span.ports[p]).rx = (s.span.ports[p]).rx ∧ (s1.span.ports[p]).rxSeq = (s.span.ports[p]).rxSeq := by
    simp only [s1]; rw [modPort_same]; exact ⟨rfl, rfl⟩
  let s2 := if fr.nak then resendFrames s1 p else s1
  have e2 : (s2.span.ports[p]).rx = (s1.span.ports[p]).rx ∧ (s2.span.ports[p]).rxSeq = (s1.span.ports[p]).rxSeq ∧ OnlyPort p s1 s2 ∧ (∀ o ∈ s1.out, o ∈ s2.out) := by
    simp only [s2]; split
    · obtain ⟨a, b, c, d, e⟩ := resend_keeps s1 p; exact ⟨a, b, c, e⟩
    · exact ⟨rfl, rfl, OnlyPort.refl _ _, fun _ h => h⟩
  obtain ⟨⟨q, w, k, h1⟩, h2, h3, h4⟩ := pumpPort_keeps (s.span.ports[p]).txq.length s2 p
  obtain ⟨g1, g2, g3, g4, g5⟩ := settleHold_keeps (pumpPort (s.span.ports[p]).txq.length s2 p) p
  have ht : takeAck s p fr = settleHold (pumpPort (s.span.ports[p]).txq.length s2 p) p := rfl
  rw [ht]
  refine ⟨?_, ?_, (OnlyPort.mod _ _ _).trans (e2.2.2.1.trans (h2.trans g3)), fun o ho => ?_⟩
  · rw [g1, h1]; exact e2.1.trans e1.1
  · rw [g2, h1]; exact e2.2.1.trans e1.2
  · rw [g5]; exact h4 o (e2.2.2.2 o ho)


/-! ### Dictionary entries past an event -/


theorem deliverEvent_ent (s : State) (e : Event) (i : Nat) : (deliverEvent s e i).colo.ent = s.colo.ent := by
  unfold deliverEvent
  split
  · rfl
  · split
    · unfold sendColo; dsimp only
      split
      · rfl
      · split <;> rfl
    · rfl
theorem sendEvent_ent (s : State) (e : Event) : (sendEvent s e).colo.ent = s.colo.ent := by
  unfold sendEvent
  generalize List.range s.colo.subs.length = l
  induction l generalizing s with
  | nil => rfl
  | cons a l ih => rw [List.foldl_cons, ih, deliverEvent_ent]
theorem notifyEvent_ent (s : State) (a b c : Nat) : (notifyEvent s a b c).colo.ent = s.colo.ent := by
  unfold notifyEvent
  split
  · rfl
  · dsimp only
    split
    · rfl
    · rw [sendEvent_ent]
theorem irq_colo (s : State) (k : Nat) : (irq s k).colo = s.colo :=
  (irq_touch (qs := [.cores]) s k (by decide) (Touches.refl _ s)) .colo (by decide)

theorem raise_ent (s : State) (a b c : Nat) : (raise s a b c).colo.ent = s.colo.ent := by
  unfold raise; rw [notifyEvent_ent, irq_colo]

theorem raise_entN (s : State) (a b c i j : Nat) : entN (raise s a b c) i j = entN s i j := by
  have h : Touches [.out, .cores, .colo] s (raise s a b c) := raise_touch (qs := [.out, .cores, .colo]) s a b c (by decide) (by decide) (by decide) (Touches.refl _ s)
  exact entN_congr (h .build (by decide)) (h .dieIndex (by decide)) (raise_ent _ _ _ _) _ _

end Sys2Proof
end

