-- ==== Sys2Proof/Laws/Fenced.lean ====
section
/-! SUPPORT. What keeps a die fenced (R716): an operation that answers a state answers one that is still fenced for the same
reason, or one in which a start has begun; and what an alarm does. -/

set_option linter.unusedSimpArgs false

namespace Sys2Proof
open Machine Laws

theorem list_act (s : State) (src : BitVec 6) (k : Nat) :
    ((List.range 6).filter (fun i => src.getLsbD i)).any (fun i => (policyBits s i).testBit k) = true
      ↔ ∃ i, i < 6 ∧ src.getLsbD i = true ∧ (policyBits s i).testBit k = true := by
  rw [List.any_eq_true]
  constructor
  · rintro ⟨i, h1, h2⟩
    obtain ⟨h3, h4⟩ := List.mem_filter.mp h1
    exact ⟨i, List.mem_range.mp h3, h4, h2⟩
  · rintro ⟨i, h1, h2, h3⟩
    exact ⟨i, List.mem_filter.mpr ⟨List.mem_range.mpr h1, h2⟩, h3⟩

set_option maxRecDepth 20000 in
theorem alarm_facts (s0 s : State) (src : BitVec 6) (hp : ∀ i, policyBits s i = policyBits s0 i)
    (ht : Touches [.free, .out, .sec, .pwr] s0 s) (h1 : s.sec.latched = s0.sec.latched) (h2 : s.sec.keyState = s0.sec.keyState)
    (h3 : s.sec.erasures = s0.sec.erasures) :
    let act (src : BitVec 6) (k : Nat) : Prop := ∃ i, i < 6 ∧ src.getLsbD i = true ∧ (policyBits s0 i).testBit k = true
    let t := securityAlarm s src
    t.sec.latched = s0.sec.latched ||| src
      ∧ (act src 0 → t.sec.keyState = 2 ∧ t.sec.erasures = s0.sec.erasures + 1 ∧ (s0.fault.fenced = false → t.colo.sessions = [])
          ∧ (¬ act src 1 → ∀ p : Fin 11, (s0.span.ports[p]).enc = true → (t.span.ports[p]).st = 0 ∧ (t.span.ports[p]).enc = false))
      ∧ (¬ act src 0 → t.sec.keyState = s0.sec.keyState ∧ t.sec.erasures = s0.sec.erasures)
      ∧ (act src 1 → s0.fault.fenced = false → t.fault.fenced = true ∧ t.fault.reason = 6 ∧ t.boot.state = 2 ∧ t.cores = ⟨[], 0, 0⟩)
      ∧ (¬ act src 1 → t.fault = s0.fault ∧ t.boot = s0.boot ∧ t.cores = s0.cores ∧ t.svc = s0.svc ∧ t.abut = s0.abut)
      ∧ Touches [.free, .out, .formes, .span, .abut, .cores, .svc, .fault, .colo, .boot, .flash, .sec, .pwr] s0 t
      ∧ t.sec.live = s.sec.live ∧ t.sec.ir = s.sec.ir ∧ t.sec.debugOpen = s.sec.debugOpen ∧ t.sec.debugState = s.sec.debugState ∧ t.free = s.free
      ∧ t.pwr.enclOpen = s.pwr.enclOpen := by
  intro act t
  let s1 : State := { s with sec := { s.sec with latched := s.sec.latched ||| src } }
  let l := (List.range 6).filter (fun i => src.getLsbD i)
  let s2 := l.foldl (fun t i => notifyEvent t 18 i (policyBits s i)) s1
  have t2 : Touches [.out, .colo] s1 s2 := touch_foldl (fun a x => notifyEvent_touch a _ _ _ (by decide) (by decide) (Touches.refl _ _)) (Touches.refl _ _)
  let s3 := if l.any (fun i => (policyBits s i).testBit 0) then eraseKeys s2 else s2
  have hA : ∀ k, l.any (fun i => (policyBits s i).testBit k) = true ↔ act src k := fun k => by
    show ((List.range 6).filter (fun i => src.getLsbD i)).any _ = true ↔ _
    rw [list_act]; simp only [hp]; exact Iff.rfl
  have hT : t = if l.any (fun i => (policyBits s i).testBit 1) then fenceDie s3 6 else s3 := rfl
  have hpow := fun (x : Part) (h : x ∉ [Part.free, .out, .sec, .pwr]) => ht x h
  -- s3
  have t3 : Touches [.out, .span, .colo, .sec] s1 s3 := by
    show Touches _ _ (if _ then _ else _)
    split
    · exact eraseKeys_touch _ (by decide) (by decide) (by decide) (t2.mono (by decide))
    · exact t2.mono (by decide)
  have hs2 : s2.sec = s1.sec := t2 .sec (by decide)
  have e3 : act src 0 → s3 = eraseKeys s2 := fun h => if_pos ((hA 0).mpr h)
  have e3' : ¬ act src 0 → s3 = s2 := fun h => if_neg (fun hh => h ((hA 0).mp hh))
  have eT : act src 1 → t = fenceDie s3 6 := fun h => hT.trans (if_pos ((hA 1).mpr h))
  have eT' : ¬ act src 1 → t = s3 := fun h => hT.trans (if_neg (fun hh => h ((hA 1).mp hh)))
  have tf : Touches [.out, .formes, .span, .abut, .cores, .svc, .fault, .colo, .boot, .flash, .pwr] s3 t := by
    by_cases h : act src 1
    · rw [eT h]
      exact fenceDie_touch s3 6 (by decide) (by decide) (by decide) (by decide) (by decide) (by decide) (by decide) (by decide) (by decide) (by decide) (by decide) (Touches.refl _ _)
    · rw [eT' h]; exact Touches.refl _ _
  have hsec : t.sec = s3.sec := tf .sec (by decide)
  have h3sec : s3.sec = if act src 0 then { s1.sec with keyState := 2, erasures := s1.sec.erasures + 1 } else s1.sec := by
    split
    · rename_i h; rw [e3 h]; show ({ s2.sec with keyState := 2, erasures := s2.sec.erasures + 1 } : Sec) = _; rw [hs2]
    · rename_i h; rw [e3' h]; exact hs2
  have hsess : act src 0 → s0.fault.fenced = false → t.colo.sessions = [] := by
    intro h hfe
    have h30 : s3.colo.sessions = [] := by rw [e3 h]; rfl
    by_cases h1 : act src 1
    · have hf3 : s3.fault.fenced = false := by rw [(t3 .fault (by decide)), show s1.fault = s.fault from rfl, ht .fault (by decide)]; exact hfe
      rw [eT h1]; unfold fenceDie; rw [hf3]; rfl
    · rw [eT' h1]; exact h30
  have hsp : Touches [.out, .colo, .sec, .pwr, .free] s0 s2 := by
    refine (ht.mono (by decide)).trans ?_
    refine Touches.trans ?_ (t2.mono (by decide))
    intro p hp'; cases p <;> first | exact absurd (by decide) hp' | rfl
  refine ⟨?_, fun h => ⟨?_, ?_, hsess h, ?_⟩, fun h => ⟨?_, ?_⟩, fun h hfe => ?_, fun h => ?_, ?_, ?_, ?_, ?_, ?_, ?_, ?_⟩
  · rw [hsec, h3sec]; split <;> (show s.sec.latched ||| src = _; rw [h1])
  · rw [hsec, h3sec, if_pos h]
  · rw [hsec, h3sec, if_pos h]; show s.sec.erasures + 1 = _; rw [h3]
  · intro hn p hen
    rw [eT' hn, e3 h]
    have hq : s2.span.ports[p] = s0.span.ports[p] := port_congr (hsp .span (by decide)) p
    have hm : (eraseKeys s2).span.ports[p] = (fun p : Port => if p.enc then { p with st := 0, lanes := 0, enc := false } else p) (s2.span.ports[p]) := by
      simp only [eraseKeys, Fin.getElem_fin, Vector.getElem_map]
    rw [hm, hq]; dsimp only; rw [if_pos hen]; exact ⟨rfl, rfl⟩
  · rw [hsec, h3sec, if_neg h]; exact h2
  · rw [hsec, h3sec, if_neg h]; exact h3
  · have hf3 : s3.fault.fenced = false := by rw [(t3 .fault (by decide)), show s1.fault = s.fault from rfl, ht .fault (by decide)]; exact hfe
    rw [eT h]; unfold fenceDie; rw [hf3]; exact ⟨rfl, rfl, rfl, rfl⟩
  · rw [eT' h]
    exact ⟨(t3 .fault (by decide)).trans (ht .fault (by decide)), (t3 .boot (by decide)).trans (ht .boot (by decide)), (t3 .cores (by decide)).trans (ht .cores (by decide)),
      (t3 .svc (by decide)).trans (ht .svc (by decide)), (t3 .abut (by decide)).trans (ht .abut (by decide))⟩
  · refine (ht.mono (by decide)).trans ?_
    refine Touches.trans (t := s1) ?_ ((t3.mono (by decide)).trans (tf.mono (by decide)))
    intro p hp'; cases p <;> first | exact absurd (by decide) hp' | rfl
  · rw [hsec, h3sec]; split <;> rfl
  · rw [hsec, h3sec]; split <;> rfl
  · rw [hsec, h3sec]; split <;> rfl
  · rw [hsec, h3sec]; split <;> rfl
  · rw [tf .free (by decide), t3 .free (by decide)]
  · have h3p : s3.pwr = s.pwr := t3 .pwr (by decide)
    by_cases h : act src 1
    · rw [eT h, ← h3p]
      have ll : ∀ a, (logFence s3 6 a).pwr = s3.pwr := fun a => logFence_touch (qs := [.out, .formes, .fault, .colo, .flash]) s3 6 a (by decide) (by decide) (by decide) (by decide) (by decide) (Touches.refl _ _) .pwr (by decide)
      unfold fenceDie; split
      · split
        · rfl
        · rw [ll]
      · show (logFence s3 6 .dieFenced).pwr.enclOpen = _; rw [ll]
    · rw [eT' h, h3p]

theorem peer_fault (s : State) (d : Fin 8) (r : BitVec 3) : (peerFenced s d r).fault = { s.fault with dies := s.fault.dies ||| BitVec.ofNat 8 (2 ^ d.1) } := by
    let s1 : State := { s with fault := { s.fault with dies := s.fault.dies ||| BitVec.ofNat 8 (2 ^ d.1) } }
    let s2 := dropPartials (updateRoutes (holdLinks s1 d.1)) (idOf s d.1)
    let s4 := servicesLoseDie (mirrorDieLost (nextMaster (updateServer s2) d.1) d.1) d.1
    have hE : peerFenced s d r = raise s4 8 d.1 r.toNat := rfl
    have t2 : Touches [.tbl, .span] s1 s2 := dropPartials_touch _ _ (by decide) (updateRoutes_touch _ (by decide) (holdLinks_touch _ _ (by decide) (Touches.refl _ _)))
    have t4 : Touches [.free, .out, .tb, .log, .abut, .cores, .svc, .colo] s2 s4 :=
      servicesLoseDie_touch _ _ (by decide) (by decide) (by decide) (by decide) (mirrorDieLost_touch _ _ (by decide) (by decide) (by decide) (by decide)
        (nextMaster_touch _ _ (by decide) (updateServer_touch _ (by decide) (by decide) (by decide) (by decide) (Touches.refl _ _))))
    rw [hE]; exact ((raise_tt s4 8 d.1 r.toNat) .fault (by decide)).trans ((t4 .fault (by decide)).trans (t2 .fault (by decide)))

/-- Fenced for this reason, or a start has begun. -/
def Held (r : BitVec 3) (t : State) : Prop :=
  (t.fault.fenced = true ∧ t.fault.reason = r) ∨ (t.boot.stage = 0 ∧ t.boot.cur = 0 ∧ t.boot.age = 0)

theorem Held.touch {r : BitVec 3} {ps : List Part} {s t : State} (h : Held r s) (ht : Touches ps s t) (hf : Part.fault ∉ ps)
    (hb : Part.boot ∉ ps) : Held r t := by
  unfold Held; rw [ht .fault hf, ht .boot hb]; exact h

theorem Held.same {r : BitVec 3} {s t : State} (h : Held r s) (hf : t.fault = s.fault) (hb : t.boot = s.boot) : Held r t := by
  unfold Held; rw [hf, hb]; exact h

theorem held_foldl {α : Type} {r : BitVec 3} {g : State → α → State} {l : List α} {s : State}
    (hg : ∀ s x, Held r s → Held r (g s x)) (h : Held r s) : Held r (l.foldl g s) := by
  induction l generalizing s with
  | nil => exact h
  | cons x xs ih => exact ih (hg s x h)

theorem reset_held (r : BitVec 3) (s : State) (c : BitVec 2) : Held r (resetDie s c) := Or.inr ⟨rfl, rfl, rfl⟩
theorem off_held (r : BitVec 3) (s : State) (p : Power) : Held r (powerOff s p) := Or.inr ⟨rfl, rfl, rfl⟩

set_option maxRecDepth 20000 in
theorem logFence_reason (s : State) (x : BitVec 3) (a : FAction) : (logFence s x a).fault.reason = s.fault.reason := by
  have hfr : ∀ s a : State, (faultRise s a).fault = a.fault := fun s a => faultRise_tt s a .fault (by decide)
  unfold logFence logFault; dsimp only
  rw [hfr]
  split <;> rfl

theorem fenceDie_held {r : BitVec 3} {s : State} (x : BitVec 3) (h : Held r s) : Held r (fenceDie s x) := by
  have lb : ∀ a, (logFence s x a).boot = s.boot := fun a =>
    logFence_touch (qs := [.out, .formes, .fault, .colo, .flash]) s x a (by decide) (by decide) (by decide) (by decide) (by decide) (Touches.refl _ _) .boot (by decide)
  have lf : ∀ a, (logFence s x a).fault.fenced = s.fault.fenced := fun a => logFault_fenced _ _ _ _ _ _ _ _
  unfold fenceDie
  split
  · split
    · exact h
    · rcases h with ⟨h1, h2⟩ | h
      · exact Or.inl ⟨(lf _).trans h1, (logFence_reason _ _ _).trans h2⟩
      · right; rw [lb]; exact h
  · rename_i hn
    rcases h with ⟨h1, _⟩ | h
    · exact absurd h1 hn
    · right
      show (logFence s x .dieFenced).boot.stage = 0 ∧ (logFence s x .dieFenced).boot.cur = 0 ∧ (logFence s x .dieFenced).boot.age = 0
      rw [lb]; exact h

theorem alarm_held {r : BitVec 3} {s : State} (src : BitVec 6) (h : Held r s) : Held r (securityAlarm s src) := by
  unfold securityAlarm; dsimp only
  have h1 : Held r (((List.range 6).filter (fun i => src.getLsbD i)).foldl (fun t i => notifyEvent t 18 i (policyBits s i))
      { s with sec := { s.sec with latched := s.sec.latched ||| src } }) :=
    held_foldl (fun a x ha => ha.touch (notifyEvent_touch (qs := [.out, .colo]) a _ _ _ (by decide) (by decide) (Touches.refl _ _)) (by decide) (by decide))
      (h.same rfl rfl)
  have h2 : ∀ b : Bool, Held r (if b then eraseKeys (((List.range 6).filter (fun i => src.getLsbD i)).foldl (fun t i => notifyEvent t 18 i (policyBits s i))
      { s with sec := { s.sec with latched := s.sec.latched ||| src } }) else (((List.range 6).filter (fun i => src.getLsbD i)).foldl (fun t i => notifyEvent t 18 i (policyBits s i))
      { s with sec := { s.sec with latched := s.sec.latched ||| src } })) := by
    intro b; cases b
    · exact h1
    · exact h1.same rfl rfl
  split
  · exact fenceDie_held _ (h2 _)
  · exact h2 _

theorem dieRestart_held {r : BitVec 3} {s : State} (v : Nat) (h : Held r s) : Held r (dieRestart s v) := by
  unfold dieRestart; split
  · exact reset_held _ _ _
  · split
    · exact reset_held _ _ _
    · exact h

theorem applyNum_held {r : BitVec 3} {s : State} (idx sub v : Nat) (h : Held r s) : Held r (applyNum s idx sub v) := by
  have key : ∀ (ps : List Part) (t : State), Touches ps s t → Part.fault ∉ ps → Part.boot ∉ ps → Held r t := fun ps t a b c => h.touch a b c
  by_cases hl : 0x8010 ≤ idx ∧ idx ≤ 0x801B ∧ sub = 3
  · obtain ⟨h1, h2, rfl⟩ := hl
    have : applyNum s idx 3 v = lowerLevel (setEnt s idx 3 v) idx v := by
      unfold applyNum
      split <;> first | omega | skip
      rw [if_neg (by omega), if_pos (by omega)]
    rw [this]
    rcases h with h | h
    · exact Or.inl h
    · exact Or.inr h
  · refine key [.free, .out, .gddr, .proof, .log, .svc, .colo, .flash, .upd, .sec, .formes, .span, .pwr] _ ?_ (by decide) (by decide)
    unfold applyNum
    (try dsimp only)
    split <;> first
      | (simp (maxDischargeDepth := 40) only [startSave_touch, requestClose_touch, setEnt_touch, returnPrep_touch, clearAlarms_touch, updateCmd_touch, svcStart_touch, svcStop_touch, touch_log, touch_upd, touch_ite, Touches.refl, List.mem_cons, List.mem_nil_iff, true_or, or_true, reduceCtorEq])
      | (rw [if_neg hl]; simp (maxDischargeDepth := 40) only [startSave_touch, requestClose_touch, setEnt_touch, returnPrep_touch, clearAlarms_touch, updateCmd_touch, svcStart_touch, svcStop_touch, touch_log, touch_upd, touch_ite, Touches.refl, List.mem_cons, List.mem_nil_iff, true_or, or_true, reduceCtorEq])

theorem refusedWrite_held {r : BitVec 3} {s : State} (idx sub : Nat) (h : Held r s) : Held r (refusedWrite s idx sub) := by
  unfold refusedWrite; split
  · exact alarm_held _ (h.same rfl rfl)
  · exact h

theorem writeEntry_held {r : BitVec 3} {s : State} (a : Asker) (idx sub typ vlen : Nat) (bs : List Byte) (h : Held r s) :
    Held r (writeEntry s a idx sub typ vlen bs).2.1 := by
  unfold writeEntry
  split
  · split
    · rename_i t heq
      have hx : Held r t := by
        split at heq
        · exact h.touch (recordInput_touch (qs := [.out, .log, .gddr, .cores, .formes, .colo, .imp]) heq (by decide) (by decide) (by decide) (Touches.refl _ _)) (by decide) (by decide)
        · injection heq with heq; subst heq; exact h
      show Held r (applyWrite _ _ _ _ _)
      unfold applyWrite; split
      · exact hx.touch (applyOct_touch (qs := [.free, .out, .formes, .gddr, .proof, .log, .span, .abut, .cores, .svc, .colo, .flash, .upd, .sec, .pwr]) _ _ _ _ (by decide) (by decide) (by decide) (by decide) (Touches.refl _ _)) (by decide) (by decide)
      · exact applyNum_held _ _ _ hx
    · exact h
  · exact refusedWrite_held _ _ h
  · exact h

theorem writeItems_held {r : BitVec 3} (a : Asker) (l : List WItem) {s : State} (h : Held r s) : Held r (writeItems a s l).2.2.1 := by
  induction l generalizing s with
  | nil => exact h
  | cons x t ih => exact ih (writeEntry_held _ _ _ _ _ _ h)

theorem doAfter_held {r : BitVec 3} {s : State} (x : After) (h : Held r s) : Held r (doAfter s x) := by
  cases x with
  | restart v => exact dieRestart_held v h
  | fence => exact fenceDie_held 1 h
  | closeSession id => exact h.touch (closeSession_touch (qs := [.colo]) s id (by decide) (Touches.refl _ _)) (by decide) (by decide)
  | unlock n => exact h.same rfl rfl




theorem handleOp_held {r : BitVec 3} {s : State} (a : Asker) (m : ColoMsg) (h : Held r s) : Held r (handleOp s a m).st := by
  have q : ∀ {u : State}, Touches [.free, .out, .span, .abut, .colo, .flash, .sec] s u → Held r u := fun hu => h.touch hu (by decide) (by decide)
  have hr : ∀ c, Held r (refuseMsg s c).st := fun c => q (refuseMsg_touch _ _ (Touches.refl _ _))
  unfold handleOp
  split
  · split
    · exact q (handleRead_touch _ _ (Touches.refl _ _))
    · exact hr _
  · unfold handleWrite; split
    · exact hr _
    · split
      · exact writeItems_held _ _ h
      · exact hr _
  · split
    · exact q (handleReadBlock_touch _ _ (Touches.refl _ _))
    · exact hr _
  · exact q (handleWriteBlock_touch _ _ _ (by decide) (Touches.refl _ _))
  · split
    · exact q (handleNotify_touch _ _ _ (by decide) (by decide) (by decide) (by decide) (Touches.refl _ _))
    · exact hr _
  · exact q (handleSessionOpen_touch _ _ _ (by decide) (by decide) (Touches.refl _ _))
  · exact hr _

theorem process_held {r : BitVec 3} {s : State} (a : Asker) (m : ColoMsg) (h : Held r s) : Held r (process s a m) := by
  have q : ∀ {u v : State}, Held r u → Touches [.out, .colo] u v → Held r v := fun hu ht => hu.touch ht (by decide) (by decide)
  have h1 : Held r { s with colo := { s.colo with busy := true } } := h.same rfl rfl
  unfold process; dsimp only
  refine held_foldl (fun t x ht => doAfter_held x ht) ?_
  have key : ∀ u : Handled, Held r u.st → Held r (releaseEvents (respond (countRequest u.st u.refused) a.key m u)) := fun u hu =>
    q hu (releaseEvents_touch _ (by decide) (by decide) (respond_touch _ _ _ _ (by decide) (by decide) (countRequest_touch _ _ (by decide) (Touches.refl _ _))))
  apply key
  split
  · exact h1.touch (refuseMsg_touch (qs := []) _ _ (Touches.refl _ _)) (by decide) (by decide)
  · exact handleOp_held _ _ h1

theorem message_held {r : BitVec 3} {s : State} (m : ColoMsg) (h : Held r s) : Held r (coloMessage s m) := by
  have q : ∀ {u v : State}, Held r u → Touches [.out, .colo] u v → Held r v := fun hu ht => hu.touch ht (by decide) (by decide)
  have hs : ∀ {u : State} a, Held r u → Held r (serve u a m) := by
    intro u a hu; unfold serve; split
    · exact q hu (sendColo_touch _ _ _ _ (by decide) (by decide) (Touches.refl _ _))
    · exact process_held _ _ hu
  unfold coloMessage; split
  · exact hs _ h
  · split
    · exact q h (respond_touch _ _ _ _ (by decide) (by decide) (countRequest_touch _ _ (by decide) (Touches.refl _ _)))
    · split
      · exact hs _ (q h (touchSession_touch _ _ _ (by decide) (Touches.refl _ _)))
      · exact q h (bumpEnt_touch _ _ _ _ _ (by decide) (Touches.refl _ _))

theorem only_held {r : BitVec 3} {b : Bool} {s u t : State} (he : onlyIf b s u = .next t) (h : Held r s) (hu : b = true → Held r u) : Held r t := by
  cases b
  · have : s = t := by injection he
    rw [← this]; exact h
  · have : u = t := by injection he
    rw [← this]; exact hu rfl

theorem rise_held {r : BitVec 3} {s : State} (x : BitVec 6) (h : Held r s) : Held r (riseSources s x) := by
  unfold riseSources; exact alarm_held _ (h.same rfl rfl)

end Sys2Proof
end

