-- ==== Sys2Proof/Laws/MemoryForme.lean ====
section
/-! SUPPORT. The canonical form of the memories under every change of one Forme: `g_fok` for each operation g on a Forme -/

namespace Sys2Proof

open Machine

set_option maxRecDepth 4000
set_option linter.unusedSimpArgs false
set_option linter.unusedVariables false

theorem FormeOk.g {fm : Forme} (h : FormeOk fm) : ParMem.wf fm.galley = true := h.1
theorem FormeOk.q {fm : Forme} (h : FormeOk fm) : ParMem.wf fm.quire = true := h.2.1
theorem FormeOk.f {fm : Forme} (h : FormeOk fm) : ParMem.wf fm.vu.fount = true := h.2.2

theorem fok_foldl {α : Type} {fm : Forme} {g : Forme → α → Forme} {l : List α}
    (hg : ∀ fm x, FormeOk fm → FormeOk (g fm x)) (h : FormeOk fm) : FormeOk (l.foldl g fm) := by
  induction l generalizing fm with
  | nil => exact h
  | cons x xs ih => exact ih (hg fm x h)

theorem fok_ite {c : Prop} [Decidable c] {a b : Forme} (ha : FormeOk a) (hb : FormeOk b) : FormeOk (if c then a else b) := by
  split
  · exact ha
  · exact hb

theorem fok_cond {c : Bool} {a b : Forme} (ha : FormeOk a) (hb : FormeOk b) : FormeOk (bif c then a else b) := by
  cases c
  · exact hb
  · exact ha

theorem mem_ite {c : Prop} [Decidable c] {a b : State} (ha : MemOk a) (hb : MemOk b) : MemOk (if c then a else b) := by
  split
  · exact ha
  · exact hb

theorem mem_cond {c : Bool} {a b : State} (ha : MemOk a) (hb : MemOk b) : MemOk (bif c then a else b) := by
  cases c
  · exact hb
  · exact ha

theorem mem_foldl {α : Type} {s : State} {g : State → α → State} {l : List α}
    (hg : ∀ s x, MemOk s → MemOk (g s x)) (h : MemOk s) : MemOk (l.foldl g s) := by
  induction l generalizing s with
  | nil => exact h
  | cons x xs ih => exact ih (hg s x h)

theorem memOk_phys {s : State} (h : MemOk s) : Mem.wf s.gddr.phys = true := h.2

theorem memOk_forme {s : State} (f : FormeIx) (h : MemOk s) : FormeOk (s.forme f) := h.1 f

/-- What does not touch the memories keeps them. -/
theorem MemOk.touch {ps : List Part} {s t : State} (h : MemOk s) (ht : Touches ps s t) (hf : Part.formes ∉ ps)
    (hg : Part.gddr ∉ ps) : MemOk t := by
  have h1 : t.formes = s.formes := ht .formes hf
  have h2 : t.gddr = s.gddr := ht .gddr hg
  refine ⟨fun f => ?_, by rw [h2]; exact h.2⟩
  have : t.forme f = s.forme f := by unfold State.forme; rw [h1]
  rw [this]; exact h.1 f

theorem State.forme_modForme_same (s : State) (f : FormeIx) (g : Forme → Forme) :
    (modForme s f g).forme f = g (s.forme f) := by
  simp [State.forme, modForme, vmod, vset]

theorem State.forme_modForme_other (s : State) (f k : FormeIx) (g : Forme → Forme) (h : k ≠ f) :
    (modForme s f g).forme k = s.forme k := by
  exact Laws.vmod_get_other _ _ _ _ h

theorem modForme_mem {s : State} {f : FormeIx} {g : Forme → Forme} (hg : ∀ fm, FormeOk fm → FormeOk (g fm)) (h : MemOk s) :
    MemOk (modForme s f g) := by
  refine ⟨fun k => ?_, h.2⟩
  by_cases hk : k = f
  · subst hk; rw [State.forme_modForme_same]; exact hg _ (h.1 _)
  · rw [State.forme_modForme_other _ _ _ _ hk]; exact h.1 k

theorem modGddr_mem {s : State} {g : Gddr → Gddr} (hg : ∀ x : Gddr, Mem.wf x.phys = true → Mem.wf (g x).phys = true)
    (h : MemOk s) : MemOk (modGddr s g) := ⟨h.1, hg _ h.2⟩

theorem fok_carr {fm : Forme} {v0} (h : FormeOk fm) :
    FormeOk { fm with carr := v0 } :=
  ⟨h.1, h.2.1, h.2.2⟩

theorem fok_err {fm : Forme} {v0} (h : FormeOk fm) :
    FormeOk { fm with err := v0 } :=
  ⟨h.1, h.2.1, h.2.2⟩

theorem fok_fe {fm : Forme} {v0} (h : FormeOk fm) :
    FormeOk { fm with fe := v0 } :=
  ⟨h.1, h.2.1, h.2.2⟩

theorem fok_fe_bal_q_dests {fm : Forme} {v0} {v1} {v2} {v3} (h : FormeOk fm) :
    FormeOk { fm with fe := v0, bal := v1, q := v2, dests := v3 } :=
  ⟨h.1, h.2.1, h.2.2⟩

theorem fok_fe_dests_abort {fm : Forme} {v0} {v1} {v2} (h : FormeOk fm) :
    FormeOk { fm with fe := v0, dests := v1, abort := v2 } :=
  ⟨h.1, h.2.1, h.2.2⟩

theorem fok_fe_lat_tok_bal_pu_dests_abort {fm : Forme} {v0} {v1} {v2} {v3} {v4} {v5} {v6} (h : FormeOk fm) :
    FormeOk { fm with fe := v0, lat := v1, tok := v2, bal := v3, pu := v4, dests := v5, abort := v6 } :=
  ⟨h.1, h.2.1, h.2.2⟩

theorem fok_fe_lat_tok_bal_vu {fm : Forme} {v0} {v1} {v2} {v3} {v4} (h : FormeOk fm) (h4 : ParMem.wf (VecUnit.fount v4) = true) :
    FormeOk { fm with fe := v0, lat := v1, tok := v2, bal := v3, vu := v4 } :=
  ⟨h.1, h.2.1, h4⟩

theorem fok_fe_q {fm : Forme} {v0} {v1} (h : FormeOk fm) :
    FormeOk { fm with fe := v0, q := v1 } :=
  ⟨h.1, h.2.1, h.2.2⟩

theorem fok_galley {fm : Forme} {v0} (h : FormeOk fm) (h0 : ParMem.wf v0 = true) :
    FormeOk { fm with galley := v0 } :=
  ⟨h0, h.2.1, h.2.2⟩

theorem fok_galley_line {fm : Forme} {v0} {v1} (h : FormeOk fm) (h0 : ParMem.wf v0 = true) :
    FormeOk { fm with galley := v0, line := v1 } :=
  ⟨h0, h.2.1, h.2.2⟩

theorem fok_galley_test {fm : Forme} {v0} {v1} (h : FormeOk fm) (h0 : ParMem.wf v0 = true) :
    FormeOk { fm with galley := v0, test := v1 } :=
  ⟨h0, h.2.1, h.2.2⟩

theorem fok_line {fm : Forme} {v0} (h : FormeOk fm) :
    FormeOk { fm with line := v0 } :=
  ⟨h.1, h.2.1, h.2.2⟩

theorem fok_pu {fm : Forme} {v0} (h : FormeOk fm) :
    FormeOk { fm with pu := v0 } :=
  ⟨h.1, h.2.1, h.2.2⟩

theorem fok_pu_vu_galley_quire_test {fm : Forme} {v0} {v1} {v2} {v3} {v4} (h : FormeOk fm) (h1 : ParMem.wf (VecUnit.fount v1) = true) (h2 : ParMem.wf v2 = true) (h3 : ParMem.wf v3 = true) :
    FormeOk { fm with pu := v0, vu := v1, galley := v2, quire := v3, test := v4 } :=
  ⟨h2, h3, h1⟩

theorem fok_q {fm : Forme} {v0} (h : FormeOk fm) :
    FormeOk { fm with q := v0 } :=
  ⟨h.1, h.2.1, h.2.2⟩

theorem fok_quire {fm : Forme} {v0} (h : FormeOk fm) (h0 : ParMem.wf v0 = true) :
    FormeOk { fm with quire := v0 } :=
  ⟨h.1, h0, h.2.2⟩

theorem fok_quire_line {fm : Forme} {v0} {v1} (h : FormeOk fm) (h0 : ParMem.wf v0 = true) :
    FormeOk { fm with quire := v0, line := v1 } :=
  ⟨h.1, h0, h.2.2⟩

theorem fok_test {fm : Forme} {v0} (h : FormeOk fm) :
    FormeOk { fm with test := v0 } :=
  ⟨h.1, h.2.1, h.2.2⟩

theorem fok_tok {fm : Forme} {v0} (h : FormeOk fm) :
    FormeOk { fm with tok := v0 } :=
  ⟨h.1, h.2.1, h.2.2⟩

theorem fok_tok_q {fm : Forme} {v0} {v1} (h : FormeOk fm) :
    FormeOk { fm with tok := v0, q := v1 } :=
  ⟨h.1, h.2.1, h.2.2⟩

theorem fok_vu {fm : Forme} {v0} (h : FormeOk fm) (h0 : ParMem.wf (VecUnit.fount v0) = true) :
    FormeOk { fm with vu := v0 } :=
  ⟨h.1, h.2.1, h0⟩

theorem fok_vu_quire {fm : Forme} {v0} {v1} (h : FormeOk fm) (h0 : ParMem.wf (VecUnit.fount v0) = true) (h1 : ParMem.wf v1 = true) :
    FormeOk { fm with vu := v0, quire := v1 } :=
  ⟨h.1, h1, h0⟩

theorem addToken_fok (fm : Forme) (j : BitVec 4) (n : Nat) (h : FormeOk fm) : FormeOk (addToken fm j n) := by
  unfold addToken
  (try dsimp only)
  (repeat' split) <;> simp (maxDischargeDepth := 40) +contextual only [h, fok_tok, FormeOk.g, FormeOk.q, FormeOk.f, fok_foldl, fok_ite, fok_cond, Laws.ParMem.put_wf, Laws.ParMem.putRaw_wf, Laws.ParMem.putAll_wf, implies_true, and_self]

theorem issue_fok (fm : Forme) (q : Queue) (t : Word) (fl : Flight) (h : FormeOk fm) : FormeOk (issue fm q t fl) := by
  unfold issue
  (try dsimp only)
  (repeat' split) <;> simp (maxDischargeDepth := 40) +contextual only [h, fok_q, FormeOk.g, FormeOk.q, FormeOk.f, fok_foldl, fok_ite, fok_cond, Laws.ParMem.put_wf, Laws.ParMem.putRaw_wf, Laws.ParMem.putAll_wf, implies_true, and_self]

theorem markDone_fok (fm : Forme) (index : BitVec 24) (h : FormeOk fm) : FormeOk (markDone fm index) := by
  unfold markDone
  (try dsimp only)
  (repeat' split) <;> simp (maxDischargeDepth := 40) +contextual only [h, fok_q, FormeOk.g, FormeOk.q, FormeOk.f, fok_foldl, fok_ite, fok_cond, Laws.ParMem.put_wf, Laws.ParMem.putRaw_wf, Laws.ParMem.putAll_wf, implies_true, and_self]

theorem abortForme_fok (fm : Forme) (h : FormeOk fm) : FormeOk (abortForme fm) := by
  unfold abortForme
  (try dsimp only)
  (repeat' split) <;> simp (maxDischargeDepth := 40) +contextual only [h, fok_fe_q, FormeOk.g, FormeOk.q, FormeOk.f, fok_foldl, fok_ite, fok_cond, Laws.ParMem.put_wf, Laws.ParMem.putRaw_wf, Laws.ParMem.putAll_wf, implies_true, and_self]

theorem recordProgErr_fok (fm : Forme) (code : PErr) (q : BitVec 3) (fld : Nat) (index : BitVec 24) (h : FormeOk fm) : FormeOk (recordProgErr fm code q fld index) := by
  unfold recordProgErr
  (try dsimp only)
  (repeat' split) <;> simp (maxDischargeDepth := 40) +contextual only [h, fok_err, FormeOk.g, FormeOk.q, FormeOk.f, fok_foldl, fok_ite, fok_cond, Laws.ParMem.put_wf, Laws.ParMem.putRaw_wf, Laws.ParMem.putAll_wf, implies_true, and_self]

theorem galleyPut_fok (fm : Forme) (o : Nat) (b : Byte) (h : FormeOk fm) : FormeOk (galleyPut fm o b) := by
  unfold galleyPut
  (try dsimp only)
  (repeat' split) <;> simp (maxDischargeDepth := 40) +contextual only [h, fok_galley, fok_galley_test, FormeOk.g, FormeOk.q, FormeOk.f, fok_foldl, fok_ite, fok_cond, Laws.ParMem.put_wf, Laws.ParMem.putRaw_wf, Laws.ParMem.putAll_wf, implies_true, and_self]

theorem galleyPutAll_fok (fm : Forme) (bs : List (Nat × Byte)) (h : FormeOk fm) : FormeOk (galleyPutAll fm bs) := by
  unfold galleyPutAll
  (try dsimp only)
  (repeat' split) <;> simp (maxDischargeDepth := 40) +contextual only [h, galleyPut_fok, FormeOk.g, FormeOk.q, FormeOk.f, fok_foldl, fok_ite, fok_cond, Laws.ParMem.put_wf, Laws.ParMem.putRaw_wf, Laws.ParMem.putAll_wf, implies_true, and_self]

theorem setCvt_fok (fm : Forme) (g : Flg) (h : FormeOk fm) : FormeOk (setCvt fm g) := by
  unfold setCvt
  (try dsimp only)
  (repeat' split) <;> simp (maxDischargeDepth := 40) +contextual only [h, fok_vu, FormeOk.g, FormeOk.q, FormeOk.f, fok_foldl, fok_ite, fok_cond, Laws.ParMem.put_wf, Laws.ParMem.putRaw_wf, Laws.ParMem.putAll_wf, implies_true, and_self]

theorem setTileWord_fok (fm : Forme) (s : Nat) (w : Word) (h : FormeOk fm) : FormeOk (setTileWord fm s w) := by
  unfold setTileWord
  (try dsimp only)
  (repeat' split) <;> simp (maxDischargeDepth := 40) +contextual only [h, fok_pu, FormeOk.g, FormeOk.q, FormeOk.f, fok_foldl, fok_ite, fok_cond, Laws.ParMem.put_wf, Laws.ParMem.putRaw_wf, Laws.ParMem.putAll_wf, implies_true, and_self]

theorem setTileFlags_fok (fm : Forme) (slot : Nat) (g : Flg) (flat : Bool) (h : FormeOk fm) : FormeOk (setTileFlags fm slot g flat) := by
  unfold setTileFlags
  (try dsimp only)
  (repeat' split) <;> simp (maxDischargeDepth := 40) +contextual only [h, setTileWord_fok, fok_pu, FormeOk.g, FormeOk.q, FormeOk.f, fok_foldl, fok_ite, fok_cond, Laws.ParMem.put_wf, Laws.ParMem.putRaw_wf, Laws.ParMem.putAll_wf, implies_true, and_self]

theorem claimRun_fok (fm : Forme) (kind first : Nat) (h : FormeOk fm) : FormeOk (claimRun fm kind first) := by
  unfold claimRun
  (try dsimp only)
  (repeat' split) <;> simp (maxDischargeDepth := 40) +contextual only [h, setTileWord_fok, FormeOk.g, FormeOk.q, FormeOk.f, fok_foldl, fok_ite, fok_cond, Laws.ParMem.put_wf, Laws.ParMem.putRaw_wf, Laws.ParMem.putAll_wf, implies_true, and_self]

theorem dropOverlap_fok (fm : Forme) (kind first : Nat) (h : FormeOk fm) : FormeOk (dropOverlap fm kind first) := by
  unfold dropOverlap
  (try dsimp only)
  (repeat' split) <;> simp (maxDischargeDepth := 40) +contextual only [h, setTileWord_fok, FormeOk.g, FormeOk.q, FormeOk.f, fok_foldl, fok_ite, fok_cond, Laws.ParMem.put_wf, Laws.ParMem.putRaw_wf, Laws.ParMem.putAll_wf, implies_true, and_self]

theorem addKcount_fok (fm : Forme) (slot k : Nat) (h : FormeOk fm) : FormeOk (addKcount fm slot k) := by
  unfold addKcount
  (try dsimp only)
  (repeat' split) <;> simp (maxDischargeDepth := 40) +contextual only [h, setTileWord_fok, FormeOk.g, FormeOk.q, FormeOk.f, fok_foldl, fok_ite, fok_cond, Laws.ParMem.put_wf, Laws.ParMem.putRaw_wf, Laws.ParMem.putAll_wf, implies_true, and_self]

theorem setLaneQuire_fok (fm : Forme) (l j : Nat) (q : BitVec 512) (h : FormeOk fm) : FormeOk (setLaneQuire fm l j q) := by
  unfold setLaneQuire
  (try dsimp only)
  (repeat' split) <;> simp (maxDischargeDepth := 40) +contextual only [h, fok_vu, FormeOk.g, FormeOk.q, FormeOk.f, fok_foldl, fok_ite, fok_cond, Laws.ParMem.put_wf, Laws.ParMem.putRaw_wf, Laws.ParMem.putAll_wf, implies_true, and_self]

theorem setQsat_fok (fm : Forme) (b : Bool) (h : FormeOk fm) : FormeOk (setQsat fm b) := by
  unfold setQsat
  (try dsimp only)
  (repeat' split) <;> simp (maxDischargeDepth := 40) +contextual only [h, fok_vu, FormeOk.g, FormeOk.q, FormeOk.f, fok_foldl, fok_ite, fok_cond, Laws.ParMem.put_wf, Laws.ParMem.putRaw_wf, Laws.ParMem.putAll_wf, implies_true, and_self]

theorem quireAccumulate_fok (s : State) (f : FormeIx) (ps : List Nat) (g : List Val → Val) (fm : Forme) (h : FormeOk fm) : FormeOk (quireAccumulate s f ps g fm) := by
  unfold quireAccumulate
  (try dsimp only)
  (repeat' split) <;> simp (maxDischargeDepth := 40) +contextual only [h, setLaneQuire_fok, setQsat_fok, FormeOk.g, FormeOk.q, FormeOk.f, fok_foldl, fok_ite, fok_cond, Laws.ParMem.put_wf, Laws.ParMem.putRaw_wf, Laws.ParMem.putAll_wf, implies_true, and_self]

theorem rmsStatus_fok (fm : Forme) (rs : List RmsRow) (h : FormeOk fm) : FormeOk (rmsStatus fm rs) := by
  unfold rmsStatus
  (try dsimp only)
  (repeat' split) <;> simp (maxDischargeDepth := 40) +contextual only [h, setCvt_fok, fok_vu, FormeOk.g, FormeOk.q, FormeOk.f, fok_foldl, fok_ite, fok_cond, Laws.ParMem.put_wf, Laws.ParMem.putRaw_wf, Laws.ParMem.putAll_wf, implies_true, and_self]

theorem settleLine_fok (fm : Forme) (rs : List (Nat × Nat)) (h : FormeOk fm) : FormeOk (settleLine fm rs) := by
  unfold settleLine
  (try dsimp only)
  (repeat' split) <;> simp (maxDischargeDepth := 40) +contextual only [h, fok_vu, FormeOk.g, FormeOk.q, FormeOk.f, fok_foldl, fok_ite, fok_cond, Laws.ParMem.put_wf, Laws.ParMem.putRaw_wf, Laws.ParMem.putAll_wf, implies_true, and_self]

theorem claimGrid_fok (fm : Forme) (kind : Nat) (init : Bool) (k : Nat) (tiles : List (Nat × Nat × Nat)) (h : FormeOk fm) : FormeOk (claimGrid fm kind init k tiles) := by
  unfold claimGrid
  (try dsimp only)
  (repeat' split) <;> simp (maxDischargeDepth := 40) +contextual only [h, addKcount_fok, claimRun_fok, dropOverlap_fok, FormeOk.g, FormeOk.q, FormeOk.f, fok_foldl, fok_ite, fok_cond, Laws.ParMem.put_wf, Laws.ParMem.putRaw_wf, Laws.ParMem.putAll_wf, implies_true, and_self]

theorem pairFold_fok {α β : Type} {g : Forme × α → β → Forme × α} {l : List β} {a : Forme × α}
    (hg : ∀ a x, FormeOk a.1 → FormeOk (g a x).1) (h : FormeOk a.1) : FormeOk (l.foldl g a).1 := by
  induction l generalizing a with
  | nil => exact h
  | cons x xs ih => exact ih (hg a x h)

theorem foldEntry_fok (s : State) (f : FormeIx) (kind m n kr : Nat) (fm : Forme) (t : TileFlags) (h : FormeOk fm) :
    FormeOk (foldEntry s f kind m n kr fm t).1 := by
  unfold foldEntry
  dsimp only
  refine pairFold_fok ?_ h
  intro a x ha
  exact fok_quire ha (Laws.ParMem.putAll_wf _ ha.2.1)

theorem stationary_fok (s : State) (f : FormeIx) (kind kr : Nat) (fm : Forme) (h : FormeOk fm) :
    FormeOk (stationary s f kind kr fm).1 := by
  unfold stationary
  dsimp only
  refine pairFold_fok ?_ h
  intro a x ha
  exact foldEntry_fok _ _ _ _ _ _ _ _ ha

theorem dropWindow_fok (fm : Forme) (w : AccWin) (h : FormeOk fm) : FormeOk (dropWindow fm w) := by
  unfold dropWindow
  (try dsimp only)
  (repeat' split) <;> simp (maxDischargeDepth := 40) +contextual only [h, fok_pu, FormeOk.g, FormeOk.q, FormeOk.f, fok_foldl, fok_ite, fok_cond, Laws.ParMem.put_wf, Laws.ParMem.putRaw_wf, Laws.ParMem.putAll_wf, implies_true, and_self]

theorem writeBack_fok (kind : Nat) (acc : Forme × TileFlags) (c : Nat × Nat × AccVal) (h : FormeOk acc.1) :
    FormeOk (writeBack kind acc c).1 := by
  unfold writeBack
  exact fok_quire h (Laws.ParMem.putAll_wf _ h.2.1)

theorem landWindow_fok (fm : Forme) (w : AccWin) (h : FormeOk fm) : FormeOk (landWindow fm w) := by
  unfold landWindow
  dsimp only
  refine fok_pu (pairFold_fok ?_ (dropWindow_fok _ _ h))
  intro a x ha
  exact writeBack_fok _ _ _ ha

theorem zeroRegion_fok (fm : Forme) (a : Acc) (h : FormeOk fm) : FormeOk (zeroRegion fm a) := by
  unfold zeroRegion
  (try dsimp only)
  (repeat' split) <;> simp (maxDischargeDepth := 40) +contextual only [h, fok_quire, FormeOk.g, FormeOk.q, FormeOk.f, fok_foldl, fok_ite, fok_cond, Laws.ParMem.put_wf, Laws.ParMem.putRaw_wf, Laws.ParMem.putAll_wf, implies_true, and_self]

theorem settleFlags_fok (fm : Forme) (a : Acc) (h : FormeOk fm) : FormeOk (settleFlags fm a) := by
  unfold settleFlags
  (try dsimp only)
  (repeat' split) <;> simp (maxDischargeDepth := 40) +contextual only [h, setTileFlags_fok, fok_pu, FormeOk.g, FormeOk.q, FormeOk.f, fok_foldl, fok_ite, fok_cond, Laws.ParMem.put_wf, Laws.ParMem.putRaw_wf, Laws.ParMem.putAll_wf, implies_true, and_self]

theorem accEffect_fok (fm : Forme) (h : FormeOk fm) : FormeOk (accEffect fm) := by
  unfold accEffect
  (try dsimp only)
  (repeat' split) <;> simp (maxDischargeDepth := 40) +contextual only [h, markDone_fok, settleFlags_fok, zeroRegion_fok, fok_pu, FormeOk.g, FormeOk.q, FormeOk.f, fok_foldl, fok_ite, fok_cond, Laws.ParMem.put_wf, Laws.ParMem.putRaw_wf, Laws.ParMem.putAll_wf, implies_true, and_self]

theorem settleDrain_fok (fm : Forme) (d : DWord) (t : TileFlags) (fl : List Nat) (h : FormeOk fm) : FormeOk (settleDrain fm d t fl) := by
  unfold settleDrain
  (try dsimp only)
  (repeat' split) <;> simp (maxDischargeDepth := 40) +contextual only [h, setTileFlags_fok, FormeOk.g, FormeOk.q, FormeOk.f, fok_foldl, fok_ite, fok_cond, Laws.ParMem.put_wf, Laws.ParMem.putRaw_wf, Laws.ParMem.putAll_wf, implies_true, and_self]

theorem clearTiles_fok (fm : Forme) (d : DWord) (h : FormeOk fm) : FormeOk (clearTiles fm d) := by
  unfold clearTiles
  (try dsimp only)
  (repeat' split) <;> simp (maxDischargeDepth := 40) +contextual only [h, claimRun_fok, fok_quire, FormeOk.g, FormeOk.q, FormeOk.f, fok_foldl, fok_ite, fok_cond, Laws.ParMem.put_wf, Laws.ParMem.putRaw_wf, Laws.ParMem.putAll_wf, implies_true, and_self]

theorem retireIdle_fok (fm : Forme) (h : FormeOk fm) : FormeOk (retireIdle fm) := by
  unfold retireIdle
  (try dsimp only)
  (repeat' split) <;> simp (maxDischargeDepth := 40) +contextual only [h, fok_test, FormeOk.g, FormeOk.q, FormeOk.f, fok_foldl, fok_ite, fok_cond, Laws.ParMem.put_wf, Laws.ParMem.putRaw_wf, Laws.ParMem.putAll_wf, implies_true, and_self]

theorem freeForme_fok (fm : Forme) (h : FormeOk fm) : FormeOk (freeForme fm) := by
  unfold freeForme
  (try dsimp only)
  (repeat' split) <;> simp (maxDischargeDepth := 40) +contextual only [h, retireIdle_fok, fok_fe_dests_abort, FormeOk.g, FormeOk.q, FormeOk.f, fok_foldl, fok_ite, fok_cond, Laws.ParMem.put_wf, Laws.ParMem.putRaw_wf, Laws.ParMem.putAll_wf, implies_true, and_self]

theorem restoreMem_fok (fm : Forme) (rd : Nat → Nat → List Byte) (h : FormeOk fm) : FormeOk (restoreMem fm rd) := by
  unfold restoreMem
  (try dsimp only)
  (repeat' split) <;> simp (maxDischargeDepth := 40) +contextual only [h, galleyPutAll_fok, setTileWord_fok, fok_vu_quire, FormeOk.g, FormeOk.q, FormeOk.f, fok_foldl, fok_ite, fok_cond, Laws.ParMem.put_wf, Laws.ParMem.putRaw_wf, Laws.ParMem.putAll_wf, implies_true, and_self]

theorem restoreRun_fok (fm : Forme) (h : Nat) (hf : FormeOk fm) : FormeOk (restoreRun fm h) := ⟨hf.1, hf.2.1, hf.2.2⟩

theorem retirePresses_fok (fm : Forme) (h : FormeOk fm) : FormeOk (retirePresses fm) := by
  unfold retirePresses
  (try dsimp only)
  (repeat' split) <;> simp (maxDischargeDepth := 40) +contextual only [h, fok_pu, FormeOk.g, FormeOk.q, FormeOk.f, fok_foldl, fok_ite, fok_cond, Laws.ParMem.put_wf, Laws.ParMem.putRaw_wf, Laws.ParMem.putAll_wf, implies_true, and_self]

theorem startForme_fok (s : State) (x : Folio) (l : Nat) (fm : Forme) (h : FormeOk fm) : FormeOk (startForme s x l fm) := by
  unfold startForme
  (try dsimp only)
  (repeat' split) <;> simp (maxDischargeDepth := 40) +contextual only [h, fok_fe_lat_tok_bal_pu_dests_abort, FormeOk.g, FormeOk.q, FormeOk.f, fok_foldl, fok_ite, fok_cond, Laws.ParMem.put_wf, Laws.ParMem.putRaw_wf, Laws.ParMem.putAll_wf, implies_true, and_self]

theorem writePressCtrl_fok (fm : Forme) (v : Word) (h : FormeOk fm) : FormeOk (writePressCtrl fm v) := by
  unfold writePressCtrl
  (try dsimp only)
  (repeat' split) <;> simp (maxDischargeDepth := 40) +contextual only [h, fok_pu, FormeOk.g, FormeOk.q, FormeOk.f, fok_foldl, fok_ite, fok_cond, Laws.ParMem.put_wf, Laws.ParMem.putRaw_wf, Laws.ParMem.putAll_wf, implies_true, and_self]

theorem writeBankCtrl_fok (fm : Forme) (v : Word) (h : FormeOk fm) : FormeOk (writeBankCtrl fm v) := by
  unfold writeBankCtrl
  (try dsimp only)
  (repeat' split) <;> simp (maxDischargeDepth := 40) +contextual only [h, fok_test, FormeOk.g, FormeOk.q, FormeOk.f, fok_foldl, fok_ite, fok_cond, Laws.ParMem.put_wf, Laws.ParMem.putRaw_wf, Laws.ParMem.putAll_wf, implies_true, and_self]

theorem writeFaultCtrl_fok (fm : Forme) (v : Word) (h : FormeOk fm) : FormeOk (writeFaultCtrl fm v) := by
  unfold writeFaultCtrl
  (try dsimp only)
  (repeat' split) <;> simp (maxDischargeDepth := 40) +contextual only [h, fok_test, FormeOk.g, FormeOk.q, FormeOk.f, fok_foldl, fok_ite, fok_cond, Laws.ParMem.put_wf, Laws.ParMem.putRaw_wf, Laws.ParMem.putAll_wf, implies_true, and_self]

theorem splitStore_wf {m : ParMem} (o : Nat) (data : Word) (par : BitVec 8) (h : m.wf = true) :
    (splitStore m o data par).wf = true := by
  unfold splitStore
  generalize List.range 8 = l
  induction l generalizing m with
  | nil => exact h
  | cons x xs ih => exact ih (Laws.ParMem.putRaw_wf _ _ _ h)

theorem splitWrite_fok (fm : Forme) (mem o : Nat) (h : FormeOk fm) : FormeOk (splitWrite fm mem o) := by
  unfold splitWrite
  split
  · exact fok_galley h (splitStore_wf _ _ _ h.1)
  · exact fok_quire h (splitStore_wf _ _ _ h.2.1)

theorem splitRead_fok (fm : Forme) (mem o : Nat) (h : FormeOk fm) : FormeOk (splitRead fm mem o) := by
  unfold splitRead
  (try dsimp only)
  (repeat' split) <;> simp (maxDischargeDepth := 40) +contextual only [h, fok_test, FormeOk.g, FormeOk.q, FormeOk.f, fok_foldl, fok_ite, fok_cond, Laws.ParMem.put_wf, Laws.ParMem.putRaw_wf, Laws.ParMem.putAll_wf, implies_true, and_self]

theorem writeSplitAddr_fok (fm : Forme) (v : Word) (h : FormeOk fm) : FormeOk (writeSplitAddr fm v) := by
  unfold writeSplitAddr
  (try dsimp only)
  (repeat' split) <;> simp (maxDischargeDepth := 40) +contextual only [h, splitRead_fok, splitWrite_fok, fok_test, FormeOk.g, FormeOk.q, FormeOk.f, fok_foldl, fok_ite, fok_cond, Laws.ParMem.put_wf, Laws.ParMem.putRaw_wf, Laws.ParMem.putAll_wf, implies_true, and_self]

theorem writeFlip_fok (fm : Forme) (v : Word) (h : FormeOk fm) : FormeOk (writeFlip fm v) := by
  unfold writeFlip
  (try dsimp only)
  (repeat' split) <;> simp (maxDischargeDepth := 40) +contextual only [h, fok_test, FormeOk.g, FormeOk.q, FormeOk.f, fok_foldl, fok_ite, fok_cond, Laws.ParMem.put_wf, Laws.ParMem.putRaw_wf, Laws.ParMem.putAll_wf, implies_true, and_self]

theorem ParMem.zero_wf : ParMem.zero.wf = true := by decide

theorem testedForme_fok (r : StageReport) (f : FormeIx) (fm : Forme) (h : FormeOk fm) : FormeOk (testedForme r f fm) :=
  ⟨ParMem.zero_wf, ParMem.zero_wf, ParMem.zero_wf⟩

theorem writeCvtStatus_fok (fm : Forme) (v : Word) (h : FormeOk fm) : FormeOk (writeCvtStatus fm v) := by
  unfold writeCvtStatus
  (try dsimp only)
  (repeat' split) <;> simp (maxDischargeDepth := 40) +contextual only [h, fok_vu, FormeOk.g, FormeOk.q, FormeOk.f, fok_foldl, fok_ite, fok_cond, Laws.ParMem.put_wf, Laws.ParMem.putRaw_wf, Laws.ParMem.putAll_wf, implies_true, and_self]

theorem writeVecStatus_fok (fm : Forme) (v : Word) (h : FormeOk fm) : FormeOk (writeVecStatus fm v) := by
  unfold writeVecStatus
  (try dsimp only)
  (repeat' split) <;> simp (maxDischargeDepth := 40) +contextual only [h, fok_vu, FormeOk.g, FormeOk.q, FormeOk.f, fok_foldl, fok_ite, fok_cond, Laws.ParMem.put_wf, Laws.ParMem.putRaw_wf, Laws.ParMem.putAll_wf, implies_true, and_self]

theorem writeProgErr_fok (fm : Forme) (v : Word) (h : FormeOk fm) : FormeOk (writeProgErr fm v) := by
  unfold writeProgErr
  (try dsimp only)
  (repeat' split) <;> simp (maxDischargeDepth := 40) +contextual only [h, fok_err, FormeOk.g, FormeOk.q, FormeOk.f, fok_foldl, fok_ite, fok_cond, Laws.ParMem.put_wf, Laws.ParMem.putRaw_wf, Laws.ParMem.putAll_wf, implies_true, and_self]

theorem writeTileStatus_fok (fm : Forme) (k : Nat) (v : Word) (h : FormeOk fm) : FormeOk (writeTileStatus fm k v) := by
  unfold writeTileStatus
  (try dsimp only)
  (repeat' split) <;> simp (maxDischargeDepth := 40) +contextual only [h, setTileWord_fok, FormeOk.g, FormeOk.q, FormeOk.f, fok_foldl, fok_ite, fok_cond, Laws.ParMem.put_wf, Laws.ParMem.putRaw_wf, Laws.ParMem.putAll_wf, implies_true, and_self]

theorem writeFormeSingle_fok (fm : Forme) (o : Nat) (v : Word) (h : FormeOk fm) : FormeOk (writeFormeSingle fm o v) := by
  unfold writeFormeSingle
  (try dsimp only)
  (repeat' split) <;> simp (maxDischargeDepth := 40) +contextual only [h, writeBankCtrl_fok, writeCvtStatus_fok, writeFaultCtrl_fok, writeFlip_fok, writePressCtrl_fok, writeProgErr_fok, writeSplitAddr_fok, writeVecStatus_fok, fok_test, FormeOk.g, FormeOk.q, FormeOk.f, fok_foldl, fok_ite, fok_cond, Laws.ParMem.put_wf, Laws.ParMem.putRaw_wf, Laws.ParMem.putAll_wf, implies_true, and_self]

theorem writeFormeReg_fok (fm : Forme) (o : Nat) (v : Word) (h : FormeOk fm) : FormeOk (writeFormeReg fm o v) := by
  unfold writeFormeReg
  (try dsimp only)
  (repeat' split) <;> simp (maxDischargeDepth := 40) +contextual only [h, writeFormeSingle_fok, writeTileStatus_fok, FormeOk.g, FormeOk.q, FormeOk.f, fok_foldl, fok_ite, fok_cond, Laws.ParMem.put_wf, Laws.ParMem.putRaw_wf, Laws.ParMem.putAll_wf, implies_true, and_self]

end Sys2Proof
end

