-- ==== Sys2Proof/Laws/MemoryForms.lean ====
section
/-! SUPPORT. Every operation of the shared families and of the Formes keeps the memories canonical: `f_mem` -/

namespace Sys2Proof

open Machine

set_option maxRecDepth 4000
set_option linter.unusedSimpArgs false
set_option linter.unusedVariables false

theorem mem_abut {s : State} {v0} (h : MemOk s) :
    MemOk { s with abut := v0 } :=
  ⟨h.1, h.2⟩

theorem mem_bars {s : State} {v0} (h : MemOk s) :
    MemOk { s with bars := v0 } :=
  ⟨h.1, h.2⟩

theorem mem_boot {s : State} {v0} (h : MemOk s) :
    MemOk { s with boot := v0 } :=
  ⟨h.1, h.2⟩

theorem mem_boot_flash {s : State} {v0} {v1} (h : MemOk s) :
    MemOk { s with boot := v0, flash := v1 } :=
  ⟨h.1, h.2⟩

theorem mem_boot_flash_pwr {s : State} {v0} {v1} {v2} (h : MemOk s) :
    MemOk { s with boot := v0, flash := v1, pwr := v2 } :=
  ⟨h.1, h.2⟩

theorem mem_boot_flash_upd {s : State} {v0} {v1} {v2} (h : MemOk s) :
    MemOk { s with boot := v0, flash := v1, upd := v2 } :=
  ⟨h.1, h.2⟩

theorem mem_boot_pwr {s : State} {v0} {v1} (h : MemOk s) :
    MemOk { s with boot := v0, pwr := v1 } :=
  ⟨h.1, h.2⟩

theorem mem_check {s : State} {v0} (h : MemOk s) :
    MemOk { s with check := v0 } :=
  ⟨h.1, h.2⟩

theorem mem_coll {s : State} {v0} (h : MemOk s) :
    MemOk { s with coll := v0 } :=
  ⟨h.1, h.2⟩

theorem mem_colo {s : State} {v0} (h : MemOk s) :
    MemOk { s with colo := v0 } :=
  ⟨h.1, h.2⟩

theorem mem_colo_flash {s : State} {v0} {v1} (h : MemOk s) :
    MemOk { s with colo := v0, flash := v1 } :=
  ⟨h.1, h.2⟩

theorem mem_cores {s : State} {v0} (h : MemOk s) :
    MemOk { s with cores := v0 } :=
  ⟨h.1, h.2⟩

theorem mem_fault {s : State} {v0} (h : MemOk s) :
    MemOk { s with fault := v0 } :=
  ⟨h.1, h.2⟩

theorem mem_fault_flash {s : State} {v0} {v1} (h : MemOk s) :
    MemOk { s with fault := v0, flash := v1 } :=
  ⟨h.1, h.2⟩

theorem mem_flash {s : State} {v0} (h : MemOk s) :
    MemOk { s with flash := v0 } :=
  ⟨h.1, h.2⟩

theorem mem_flash_upd {s : State} {v0} {v1} (h : MemOk s) :
    MemOk { s with flash := v0, upd := v1 } :=
  ⟨h.1, h.2⟩

theorem mem_free {s : State} {v0} (h : MemOk s) :
    MemOk { s with free := v0 } :=
  ⟨h.1, h.2⟩

theorem mem_gddr {s : State} {v0} (h : MemOk s) (h0 : Mem.wf (Gddr.phys v0) = true) :
    MemOk { s with gddr := v0 } :=
  ⟨h.1, h0⟩

theorem mem_gddr_imp {s : State} {v0} {v1} (h : MemOk s) (h0 : Mem.wf (Gddr.phys v0) = true) :
    MemOk { s with gddr := v0, imp := v1 } :=
  ⟨h.1, h0⟩

theorem mem_imp {s : State} {v0} (h : MemOk s) :
    MemOk { s with imp := v0 } :=
  ⟨h.1, h.2⟩

theorem mem_log {s : State} {v0} (h : MemOk s) :
    MemOk { s with log := v0 } :=
  ⟨h.1, h.2⟩

theorem mem_out {s : State} {v0} (h : MemOk s) :
    MemOk { s with out := v0 } :=
  ⟨h.1, h.2⟩

theorem mem_proof {s : State} {v0} (h : MemOk s) :
    MemOk { s with proof := v0 } :=
  ⟨h.1, h.2⟩

theorem mem_pwr {s : State} {v0} (h : MemOk s) :
    MemOk { s with pwr := v0 } :=
  ⟨h.1, h.2⟩

theorem mem_sec {s : State} {v0} (h : MemOk s) :
    MemOk { s with sec := v0 } :=
  ⟨h.1, h.2⟩

theorem mem_sec_pwr {s : State} {v0} {v1} (h : MemOk s) :
    MemOk { s with sec := v0, pwr := v1 } :=
  ⟨h.1, h.2⟩

theorem mem_span {s : State} {v0} (h : MemOk s) :
    MemOk { s with span := v0 } :=
  ⟨h.1, h.2⟩

theorem mem_span_abut_cores_svc_fault_colo_boot_pwr {s : State} {v0} {v1} {v2} {v3} {v4} {v5} {v6} {v7} (h : MemOk s) :
    MemOk { s with span := v0, abut := v1, cores := v2, svc := v3, fault := v4, colo := v5, boot := v6, pwr := v7 } :=
  ⟨h.1, h.2⟩

theorem mem_span_colo_sec {s : State} {v0} {v1} {v2} (h : MemOk s) :
    MemOk { s with span := v0, colo := v1, sec := v2 } :=
  ⟨h.1, h.2⟩

theorem mem_svc {s : State} {v0} (h : MemOk s) :
    MemOk { s with svc := v0 } :=
  ⟨h.1, h.2⟩

theorem mem_tb {s : State} {v0} (h : MemOk s) :
    MemOk { s with tb := v0 } :=
  ⟨h.1, h.2⟩

theorem mem_tb_span {s : State} {v0} {v1} (h : MemOk s) :
    MemOk { s with tb := v0, span := v1 } :=
  ⟨h.1, h.2⟩

theorem mem_tbl {s : State} {v0} (h : MemOk s) :
    MemOk { s with tbl := v0 } :=
  ⟨h.1, h.2⟩

theorem mem_upd {s : State} {v0} (h : MemOk s) :
    MemOk { s with upd := v0 } :=
  ⟨h.1, h.2⟩

theorem setEnt_mem (s : State) (idx sub v : Nat)  (hm : MemOk s) : MemOk (setEnt s idx sub v) := by
  refine hm.touch (ps := [.colo]) ?_ (by decide) (by decide)
  apply setEnt_touch <;> first | exact Touches.refl _ _ | decide

theorem bumpEnt_mem (s : State) (idx sub k width : Nat)  (hm : MemOk s) : MemOk (bumpEnt s idx sub k width) := by
  refine hm.touch (ps := [.colo]) ?_ (by decide) (by decide)
  apply bumpEnt_touch <;> first | exact Touches.refl _ _ | decide

theorem emit_mem (s : State) (o : Out)  (hm : MemOk s) : MemOk (emit s o) := by
  refine hm.touch (ps := [.out]) ?_ (by decide) (by decide)
  apply emit_touch <;> first | exact Touches.refl _ _ | decide

theorem useFree_mem (s : State) (n : Nat)  (hm : MemOk s) : MemOk (useFree s n) := by
  refine hm.touch (ps := [.free]) ?_ (by decide) (by decide)
  apply useFree_touch <;> first | exact Touches.refl _ _ | decide

theorem relist_mem (before after : State)  (hm : MemOk after) : MemOk (relist before after) := by
  refine hm.touch (ps := [.colo]) ?_ (by decide) (by decide)
  apply relist_touch <;> first | exact Touches.refl _ _ | decide

theorem sendColo_mem (s : State) (key : ClientKey) (c : Client) (m : ColoMsg)  (hm : MemOk s) : MemOk (sendColo s key c m) := by
  refine hm.touch (ps := [.out, .colo]) ?_ (by decide) (by decide)
  apply sendColo_touch <;> first | exact Touches.refl _ _ | decide

theorem deliverEvent_mem (s : State) (e : Event) (i : Nat)  (hm : MemOk s) : MemOk (deliverEvent s e i) := by
  refine hm.touch (ps := [.out, .colo]) ?_ (by decide) (by decide)
  apply deliverEvent_touch <;> first | exact Touches.refl _ _ | decide

theorem sendEvent_mem (s : State) (e : Event)  (hm : MemOk s) : MemOk (sendEvent s e) := by
  refine hm.touch (ps := [.out, .colo]) ?_ (by decide) (by decide)
  apply sendEvent_touch <;> first | exact Touches.refl _ _ | decide

theorem notifyEvent_mem (s : State) (kind index detail : Nat)  (hm : MemOk s) : MemOk (notifyEvent s kind index detail) := by
  refine hm.touch (ps := [.out, .colo]) ?_ (by decide) (by decide)
  apply notifyEvent_touch <;> first | exact Touches.refl _ _ | decide

theorem irq_mem (s : State) (k : Nat)  (hm : MemOk s) : MemOk (irq s k) := by
  refine hm.touch (ps := [.cores]) ?_ (by decide) (by decide)
  apply irq_touch <;> first | exact Touches.refl _ _ | decide

theorem raise_mem (s : State) (k index detail : Nat)  (hm : MemOk s) : MemOk (raise s k index detail) := by
  refine hm.touch (ps := [.out, .cores, .colo]) ?_ (by decide) (by decide)
  apply raise_touch <;> first | exact Touches.refl _ _ | decide

theorem faultRise_mem (before after : State)  (hm : MemOk after) : MemOk (faultRise before after) := by
  refine hm.touch (ps := [.out, .colo]) ?_ (by decide) (by decide)
  apply faultRise_touch <;> first | exact Touches.refl _ _ | decide

theorem bucketEvent_mem (s : State) (c : Fin 12)  (hm : MemOk s) : MemOk (bucketEvent s c) := by
  refine hm.touch (ps := [.fault]) ?_ (by decide) (by decide)
  apply bucketEvent_touch <;> first | exact Touches.refl _ _ | decide

theorem logFault_mem (s : State) (cls : MClass) (sev : Sev) (forme : Option FormeIx) (act : FAction) (index : Nat) (folio : BitVec 32) (addr : Nat)  (hm : MemOk s) : MemOk (logFault s cls sev forme act index folio addr) := by
  unfold logFault
  (try dsimp only)
  (repeat' split) <;> simp (maxDischargeDepth := 40) +contextual only [hm, bucketEvent_mem, faultRise_mem, fok_test, mem_fault_flash, mem_foldl, mem_ite, mem_cond, modForme_mem, modGddr_mem, implies_true, and_self, Laws.gddrPutAll_wf, Laws.gddrPut_wf, memOk_phys, FormeOk.g, FormeOk.q, FormeOk.f, fok_foldl, fok_ite, fok_cond, Laws.ParMem.put_wf, Laws.ParMem.putRaw_wf, Laws.ParMem.putAll_wf, implies_true, and_self]

theorem flushEvents_mem (n : Nat) (s : State) (hm : MemOk s) : MemOk (flushEvents n s) := by
  induction n generalizing s with
  | zero => exact hm
  | succ n ih =>
    unfold flushEvents
    dsimp only
    (repeat' split) <;> first
      | exact hm
      | (apply ih; simp (maxDischargeDepth := 40) only [hm, notifyEvent_mem, irq_mem, mem_gddr_imp, Laws.gddrPutAll_wf, memOk_phys])

theorem imposerEvent_mem (s : State) (k : EvKind) (handle : BitVec 16) (reason : Nat) (folioId : BitVec 32) (op : Nat)  (hm : MemOk s) : MemOk (imposerEvent s k handle reason folioId op) := by
  unfold imposerEvent
  (try dsimp only)
  (repeat' split) <;> simp (maxDischargeDepth := 40) +contextual only [hm, flushEvents_mem, useFree_mem, mem_imp, mem_foldl, mem_ite, mem_cond, modForme_mem, modGddr_mem, implies_true, and_self, Laws.gddrPutAll_wf, Laws.gddrPut_wf, memOk_phys, FormeOk.g, FormeOk.q, FormeOk.f, fok_foldl, fok_ite, fok_cond, Laws.ParMem.put_wf, Laws.ParMem.putRaw_wf, Laws.ParMem.putAll_wf, implies_true, and_self]

theorem noteAlarm_mem (s : State) (tag : BitVec 12) (k : Nat)  (hm : MemOk s) : MemOk (noteAlarm s tag k) := by
  refine hm.touch (ps := [.tbl, .proof]) ?_ (by decide) (by decide)
  apply noteAlarm_touch <;> first | exact Touches.refl _ _ | decide

theorem settleAlarms_mem (s : State) (n : Nat)  (hm : MemOk s) : MemOk (settleAlarms s n) := by
  refine hm.touch (ps := [.out, .proof, .cores, .colo]) ?_ (by decide) (by decide)
  apply settleAlarms_touch <;> first | exact Touches.refl _ _ | decide

theorem raiseAlarm_mem (s : State) (tag : BitVec 12) (k : Nat)  (hm : MemOk s) : MemOk (raiseAlarm s tag k) := by
  refine hm.touch (ps := [.out, .tbl, .proof, .cores, .colo]) ?_ (by decide) (by decide)
  apply raiseAlarm_touch <;> first | exact Touches.refl _ _ | decide

theorem remoteSignal_mem (s : State) (f : FormeIx) (j : BitVec 4) (n : Nat)  (hm : MemOk s) : MemOk (remoteSignal s f j n) := by
  unfold remoteSignal
  (try dsimp only)
  (repeat' split) <;> simp (maxDischargeDepth := 40) +contextual only [hm, bumpEnt_mem, addToken_fok, mem_foldl, mem_ite, mem_cond, modForme_mem, modGddr_mem, implies_true, and_self, Laws.gddrPutAll_wf, Laws.gddrPut_wf, memOk_phys, FormeOk.g, FormeOk.q, FormeOk.f, fok_foldl, fok_ite, fok_cond, Laws.ParMem.put_wf, Laws.ParMem.putRaw_wf, Laws.ParMem.putAll_wf, implies_true, and_self]

theorem signalMask_mem (s : State) (mask : BitVec 12) (j : BitVec 4)  (hm : MemOk s) : MemOk (signalMask s mask j) := by
  unfold signalMask
  (try dsimp only)
  (repeat' split) <;> simp (maxDischargeDepth := 40) +contextual only [hm, remoteSignal_mem, mem_foldl, mem_ite, mem_cond, modForme_mem, modGddr_mem, implies_true, and_self, Laws.gddrPutAll_wf, Laws.gddrPut_wf, memOk_phys, FormeOk.g, FormeOk.q, FormeOk.f, fok_foldl, fok_ite, fok_cond, Laws.ParMem.put_wf, Laws.ParMem.putRaw_wf, Laws.ParMem.putAll_wf, implies_true, and_self]

theorem abortSet_mem (s : State) (fs : List FormeIx)  (hm : MemOk s) : MemOk (abortSet s fs) := by
  unfold abortSet
  (try dsimp only)
  (repeat' split) <;> simp (maxDischargeDepth := 40) +contextual only [hm, abortForme_fok, mem_foldl, mem_ite, mem_cond, modForme_mem, modGddr_mem, implies_true, and_self, Laws.gddrPutAll_wf, Laws.gddrPut_wf, memOk_phys, FormeOk.g, FormeOk.q, FormeOk.f, fok_foldl, fok_ite, fok_cond, Laws.ParMem.put_wf, Laws.ParMem.putRaw_wf, Laws.ParMem.putAll_wf, implies_true, and_self]

theorem modFolio_mem (s : State) (h : BitVec 16) (g : Folio → Folio)  (hm : MemOk s) : MemOk (modFolio s h g) := by
  refine hm.touch (ps := [.imp]) ?_ (by decide) (by decide)
  apply modFolio_touch <;> first | exact Touches.refl _ _ | decide

theorem abortFolio_mem (s : State) (f : FormeIx) (code : BitVec 8)  (hm : MemOk s) : MemOk (abortFolio s f code) := by
  unfold abortFolio
  (try dsimp only)
  (repeat' split) <;> simp (maxDischargeDepth := 40) +contextual only [hm, abortSet_mem, modFolio_mem, abortForme_fok, mem_foldl, mem_ite, mem_cond, modForme_mem, modGddr_mem, implies_true, and_self, Laws.gddrPutAll_wf, Laws.gddrPut_wf, memOk_phys, FormeOk.g, FormeOk.q, FormeOk.f, fok_foldl, fok_ite, fok_cond, Laws.ParMem.put_wf, Laws.ParMem.putRaw_wf, Laws.ParMem.putAll_wf, implies_true, and_self]

theorem progError_mem (s : State) (f : FormeIx) (code : PErr) (q : BitVec 3) (fld : Nat) (index : BitVec 24)  (hm : MemOk s) : MemOk (progError s f code q fld index) := by
  unfold progError
  (try dsimp only)
  (repeat' split) <;> simp (maxDischargeDepth := 40) +contextual only [hm, abortFolio_mem, recordProgErr_fok, mem_foldl, mem_ite, mem_cond, modForme_mem, modGddr_mem, implies_true, and_self, Laws.gddrPutAll_wf, Laws.gddrPut_wf, memOk_phys, FormeOk.g, FormeOk.q, FormeOk.f, fok_foldl, fok_ite, fok_cond, Laws.ParMem.put_wf, Laws.ParMem.putRaw_wf, Laws.ParMem.putAll_wf, implies_true, and_self]

theorem setHist_mem (s : State) (g : Nat) (e : HistEntry)  (hm : MemOk s) : MemOk (setHist s g e) := by
  refine hm.touch (ps := [.tbl]) ?_ (by decide) (by decide)
  apply setHist_touch <;> first | exact Touches.refl _ _ | decide

theorem localPut_mem (s : State) (a : Nat) (b : Byte)  (hm : MemOk s) : MemOk (localPut s a b) := by
  unfold localPut
  (try dsimp only)
  (repeat' split) <;> simp (maxDischargeDepth := 40) +contextual only [hm, setHist_mem, galleyPut_fok, fok_quire, fok_vu, mem_gddr, mem_foldl, mem_ite, mem_cond, modForme_mem, modGddr_mem, implies_true, and_self, Laws.gddrPutAll_wf, Laws.gddrPut_wf, memOk_phys, FormeOk.g, FormeOk.q, FormeOk.f, fok_foldl, fok_ite, fok_cond, Laws.ParMem.put_wf, Laws.ParMem.putRaw_wf, Laws.ParMem.putAll_wf, implies_true, and_self]

theorem localPutAll_mem (s : State) (bs : List (Nat × Byte))  (hm : MemOk s) : MemOk (localPutAll s bs) := by
  unfold localPutAll
  (try dsimp only)
  (repeat' split) <;> simp (maxDischargeDepth := 40) +contextual only [hm, localPut_mem, mem_foldl, mem_ite, mem_cond, modForme_mem, modGddr_mem, implies_true, and_self, Laws.gddrPutAll_wf, Laws.gddrPut_wf, memOk_phys, FormeOk.g, FormeOk.q, FormeOk.f, fok_foldl, fok_ite, fok_cond, Laws.ParMem.put_wf, Laws.ParMem.putRaw_wf, Laws.ParMem.putAll_wf, implies_true, and_self]

theorem storedAbort_mem (s : State) (f : FormeIx)  (hm : MemOk s) : MemOk (storedAbort s f) := by
  unfold storedAbort
  (try dsimp only)
  (repeat' split) <;> simp (maxDischargeDepth := 40) +contextual only [hm, abortFolio_mem, mem_foldl, mem_ite, mem_cond, modForme_mem, modGddr_mem, implies_true, and_self, Laws.gddrPutAll_wf, Laws.gddrPut_wf, memOk_phys, FormeOk.g, FormeOk.q, FormeOk.f, fok_foldl, fok_ite, fok_cond, Laws.ParMem.put_wf, Laws.ParMem.putRaw_wf, Laws.ParMem.putAll_wf, implies_true, and_self]

theorem memoryError_mem (s : State) (cls : MClass) (f : FormeIx) (off : Nat)  (hm : MemOk s) : MemOk (memoryError s cls f off) := by
  unfold memoryError
  (try dsimp only)
  (repeat' split) <;> simp (maxDischargeDepth := 40) +contextual only [hm, logFault_mem, storedAbort_mem, fok_line, mem_foldl, mem_ite, mem_cond, modForme_mem, modGddr_mem, implies_true, and_self, Laws.gddrPutAll_wf, Laws.gddrPut_wf, memOk_phys, FormeOk.g, FormeOk.q, FormeOk.f, fok_foldl, fok_ite, fok_cond, Laws.ParMem.put_wf, Laws.ParMem.putRaw_wf, Laws.ParMem.putAll_wf, implies_true, and_self]

theorem gddrError_mem (s : State) (f : Option FormeIx) (act : FAction) (addr : Nat)  (hm : MemOk s) : MemOk (gddrError s f act addr) := by
  unfold gddrError
  (try dsimp only)
  (repeat' split) <;> simp (maxDischargeDepth := 40) +contextual only [hm, bumpEnt_mem, logFault_mem, mem_gddr, mem_foldl, mem_ite, mem_cond, modForme_mem, modGddr_mem, implies_true, and_self, Laws.gddrPutAll_wf, Laws.gddrPut_wf, memOk_phys, FormeOk.g, FormeOk.q, FormeOk.f, fok_foldl, fok_ite, fok_cond, Laws.ParMem.put_wf, Laws.ParMem.putRaw_wf, Laws.ParMem.putAll_wf, implies_true, and_self]

theorem storedError_mem (s : State) (f : FormeIx) (e : ReadErr)  (hm : MemOk s) : MemOk (storedError s f e) := by
  unfold storedError
  (try dsimp only)
  (repeat' split) <;> simp (maxDischargeDepth := 40) +contextual only [hm, gddrError_mem, logFault_mem, memoryError_mem, storedAbort_mem, mem_foldl, mem_ite, mem_cond, modForme_mem, modGddr_mem, implies_true, and_self, Laws.gddrPutAll_wf, Laws.gddrPut_wf, memOk_phys, FormeOk.g, FormeOk.q, FormeOk.f, fok_foldl, fok_ite, fok_cond, Laws.ParMem.put_wf, Laws.ParMem.putRaw_wf, Laws.ParMem.putAll_wf, implies_true, and_self]

theorem pumpPort_mem (n : Nat) (s : State) (p : Fin 11) (hm : MemOk s) : MemOk (pumpPort n s p) := by
  refine hm.touch (ps := [.out, .span]) ?_ (by decide) (by decide)
  apply pumpPort_touch <;> first | exact Touches.refl _ _ | decide

theorem enqueuePort_mem (s : State) (p : Fin 11) (pk : SpanPacket)  (hm : MemOk s) : MemOk (enqueuePort s p pk) := by
  refine hm.touch (ps := [.out, .span]) ?_ (by decide) (by decide)
  apply enqueuePort_touch <;> first | exact Touches.refl _ _ | decide

theorem spanSend_mem (s : State) (pk : SpanPacket)  (hm : MemOk s) : MemOk (spanSend s pk).1 := by
  refine hm.touch (ps := [.out, .span, .colo]) ?_ (by decide) (by decide)
  apply spanSend_touch <;> first | exact Touches.refl _ _ | decide

theorem sendNack_mem (s : State) (pk : SpanPacket) (r : Nack)  (hm : MemOk s) : MemOk (sendNack s pk r) := by
  refine hm.touch (ps := [.out, .span, .colo]) ?_ (by decide) (by decide)
  apply sendNack_touch <;> first | exact Touches.refl _ _ | decide

theorem fenceStop_mem (s : State) (reason : BitVec 3)  (hm : MemOk s) : MemOk (fenceStop s reason) := by
  refine hm.touch (ps := [.span, .abut, .cores, .svc, .fault, .colo, .boot, .pwr]) ?_ (by decide) (by decide)
  apply fenceStop_touch <;> first | exact Touches.refl _ _ | decide

theorem logFence_mem (s : State) (reason : BitVec 3) (act : FAction)  (hm : MemOk s) : MemOk (logFence s reason act) := by
  unfold logFence
  (try dsimp only)
  (repeat' split) <;> simp (maxDischargeDepth := 40) +contextual only [hm, logFault_mem, mem_foldl, mem_ite, mem_cond, modForme_mem, modGddr_mem, implies_true, and_self, Laws.gddrPutAll_wf, Laws.gddrPut_wf, memOk_phys, FormeOk.g, FormeOk.q, FormeOk.f, fok_foldl, fok_ite, fok_cond, Laws.ParMem.put_wf, Laws.ParMem.putRaw_wf, Laws.ParMem.putAll_wf, implies_true, and_self]

theorem fenceDie_mem (s : State) (reason : BitVec 3)  (hm : MemOk s) : MemOk (fenceDie s reason) := by
  unfold fenceDie
  (try dsimp only)
  (repeat' split) <;> simp (maxDischargeDepth := 40) +contextual only [hm, fenceStop_mem, logFence_mem, mem_foldl, mem_ite, mem_cond, modForme_mem, modGddr_mem, implies_true, and_self, Laws.gddrPutAll_wf, Laws.gddrPut_wf, memOk_phys, FormeOk.g, FormeOk.q, FormeOk.f, fok_foldl, fok_ite, fok_cond, Laws.ParMem.put_wf, Laws.ParMem.putRaw_wf, Laws.ParMem.putAll_wf, implies_true, and_self]

theorem fenceFault_mem (s : State) (cls : MClass) (sev : Sev) (index addr : Nat) (reason : BitVec 3)  (hm : MemOk s) : MemOk (fenceFault s cls sev index addr reason) := by
  unfold fenceFault
  (try dsimp only)
  (repeat' split) <;> simp (maxDischargeDepth := 40) +contextual only [hm, fenceStop_mem, logFault_mem, logFence_mem, mem_foldl, mem_ite, mem_cond, modForme_mem, modGddr_mem, implies_true, and_self, Laws.gddrPutAll_wf, Laws.gddrPut_wf, memOk_phys, FormeOk.g, FormeOk.q, FormeOk.f, fok_foldl, fok_ite, fok_cond, Laws.ParMem.put_wf, Laws.ParMem.putRaw_wf, Laws.ParMem.putAll_wf, implies_true, and_self]

theorem eraseKeys_mem (s : State)  (hm : MemOk s) : MemOk (eraseKeys s) := by
  refine hm.touch (ps := [.span, .colo, .sec]) ?_ (by decide) (by decide)
  apply eraseKeys_touch <;> first | exact Touches.refl _ _ | decide

theorem securityAlarm_mem (s : State) (srcs : BitVec 6)  (hm : MemOk s) : MemOk (securityAlarm s srcs) := by
  unfold securityAlarm
  (try dsimp only)
  (repeat' split) <;> simp (maxDischargeDepth := 40) +contextual only [hm, eraseKeys_mem, fenceDie_mem, notifyEvent_mem, mem_sec, mem_foldl, mem_ite, mem_cond, modForme_mem, modGddr_mem, implies_true, and_self, Laws.gddrPutAll_wf, Laws.gddrPut_wf, memOk_phys, FormeOk.g, FormeOk.q, FormeOk.f, fok_foldl, fok_ite, fok_cond, Laws.ParMem.put_wf, Laws.ParMem.putRaw_wf, Laws.ParMem.putAll_wf, implies_true, and_self]

theorem ethSendPacket_mem (s : State) (k : SpanPacket)  (hm : MemOk s) : MemOk (ethSendPacket s k) := by
  refine hm.touch (ps := [.out, .span, .abut, .colo]) ?_ (by decide) (by decide)
  apply ethSendPacket_touch <;> first | exact Touches.refl _ _ | decide

theorem ethSend_mem (s : State) (dst : BitVec 12) (dir : Nat) (report : Bool) (len : Nat) (payload : List Byte)  (hm : MemOk s) : MemOk (ethSend s dst dir report len payload) := by
  refine hm.touch (ps := [.out, .span, .abut, .colo]) ?_ (by decide) (by decide)
  apply ethSend_touch <;> first | exact Touches.refl _ _ | decide

theorem ethNack_mem (s : State) (k : SpanPacket)  (hm : MemOk s) : MemOk (ethNack s k) := by
  unfold ethNack
  (try dsimp only)
  (repeat' split) <;> simp (maxDischargeDepth := 40) +contextual only [hm, logFault_mem, spanSend_mem, mem_abut, mem_foldl, mem_ite, mem_cond, modForme_mem, modGddr_mem, implies_true, and_self, Laws.gddrPutAll_wf, Laws.gddrPut_wf, memOk_phys, FormeOk.g, FormeOk.q, FormeOk.f, fok_foldl, fok_ite, fok_cond, Laws.ParMem.put_wf, Laws.ParMem.putRaw_wf, Laws.ParMem.putAll_wf, implies_true, and_self]

theorem ethToPort_mem (s : State) (tsreq : Bool) (tag : BitVec 32) (bytes : List Byte)  (hm : MemOk s) : MemOk (ethToPort s tsreq tag bytes) := by
  refine hm.touch (ps := [.out, .span, .abut, .colo]) ?_ (by decide) (by decide)
  apply ethToPort_touch <;> first | exact Touches.refl _ _ | decide

theorem ethToOwner_mem (s : State) (d : Nat) (ect : Bool) (time : Nat) (bytes : List Byte)  (hm : MemOk s) : MemOk (ethToOwner s d ect time bytes) := by
  refine hm.touch (ps := [.out, .span, .abut, .colo]) ?_ (by decide) (by decide)
  apply ethToOwner_touch <;> first | exact Touches.refl _ _ | decide

theorem updateServer_mem (s : State)  (hm : MemOk s) : MemOk (updateServer s) := by
  refine hm.touch (ps := [.out, .abut, .cores, .colo]) ?_ (by decide) (by decide)
  apply updateServer_touch <;> first | exact Touches.refl _ _ | decide

theorem dieRejoins_mem (s : State) (d : Nat)  (hm : MemOk s) : MemOk (dieRejoins s d) := by
  refine hm.touch (ps := [.out, .abut, .cores, .fault, .colo]) ?_ (by decide) (by decide)
  apply dieRejoins_touch <;> first | exact Touches.refl _ _ | decide

theorem ceEvent_mem (s : State) (addr : Nat)  (hm : MemOk s) : MemOk (ceEvent s addr) := by
  unfold ceEvent
  (try dsimp only)
  (repeat' split) <;> simp (maxDischargeDepth := 40) +contextual only [hm, logFault_mem, mem_foldl, mem_ite, mem_cond, modForme_mem, modGddr_mem, implies_true, and_self, Laws.gddrPutAll_wf, Laws.gddrPut_wf, memOk_phys, FormeOk.g, FormeOk.q, FormeOk.f, fok_foldl, fok_ite, fok_cond, Laws.ParMem.put_wf, Laws.ParMem.putRaw_wf, Laws.ParMem.putAll_wf, implies_true, and_self]

theorem modChan_mem (s : State) (c : Nat) (f : Chan → Chan)  (hm : MemOk s) : MemOk (modChan s c f) := by
  unfold modChan
  (try dsimp only)
  (repeat' split) <;> simp (maxDischargeDepth := 40) +contextual only [hm, mem_foldl, mem_ite, mem_cond, modForme_mem, modGddr_mem, implies_true, and_self, Laws.gddrPutAll_wf, Laws.gddrPut_wf, memOk_phys, FormeOk.g, FormeOk.q, FormeOk.f, fok_foldl, fok_ite, fok_cond, Laws.ParMem.put_wf, Laws.ParMem.putRaw_wf, Laws.ParMem.putAll_wf, implies_true, and_self]

theorem beginRetrain_mem (s : State) (c : Nat)  (hm : MemOk s) : MemOk (beginRetrain s c) := by
  unfold beginRetrain
  (try dsimp only)
  (repeat' split) <;> simp (maxDischargeDepth := 40) +contextual only [hm, bumpEnt_mem, modChan_mem, mem_foldl, mem_ite, mem_cond, modForme_mem, modGddr_mem, implies_true, and_self, Laws.gddrPutAll_wf, Laws.gddrPut_wf, memOk_phys, FormeOk.g, FormeOk.q, FormeOk.f, fok_foldl, fok_ite, fok_cond, Laws.ParMem.put_wf, Laws.ParMem.putRaw_wf, Laws.ParMem.putAll_wf, implies_true, and_self]

theorem retrainTrigger_mem (s : State) (c : Nat)  (hm : MemOk s) : MemOk (retrainTrigger s c) := by
  unfold retrainTrigger
  (try dsimp only)
  (repeat' split) <;> simp (maxDischargeDepth := 40) +contextual only [hm, beginRetrain_mem, mem_foldl, mem_ite, mem_cond, modForme_mem, modGddr_mem, implies_true, and_self, Laws.gddrPutAll_wf, Laws.gddrPut_wf, memOk_phys, FormeOk.g, FormeOk.q, FormeOk.f, fok_foldl, fok_ite, fok_cond, Laws.ParMem.put_wf, Laws.ParMem.putRaw_wf, Laws.ParMem.putAll_wf, implies_true, and_self]

theorem nextRetrain_mem (s : State) (k : Nat)  (hm : MemOk s) : MemOk (nextRetrain s k) := by
  unfold nextRetrain
  (try dsimp only)
  (repeat' split) <;> simp (maxDischargeDepth := 40) +contextual only [hm, beginRetrain_mem, mem_foldl, mem_ite, mem_cond, modForme_mem, modGddr_mem, implies_true, and_self, Laws.gddrPutAll_wf, Laws.gddrPut_wf, memOk_phys, FormeOk.g, FormeOk.q, FormeOk.f, fok_foldl, fok_ite, fok_cond, Laws.ParMem.put_wf, Laws.ParMem.putRaw_wf, Laws.ParMem.putAll_wf, implies_true, and_self]

theorem retrainFinish_mem (s : State) (ch : Fin 80) (ok : Bool)  (hm : MemOk s) : MemOk (retrainFinish s ch ok) := by
  unfold retrainFinish
  (try dsimp only)
  (repeat' split) <;> simp (maxDischargeDepth := 40) +contextual only [hm, fenceFault_mem, modChan_mem, nextRetrain_mem, retrainTrigger_mem, mem_foldl, mem_ite, mem_cond, modForme_mem, modGddr_mem, implies_true, and_self, Laws.gddrPutAll_wf, Laws.gddrPut_wf, memOk_phys, FormeOk.g, FormeOk.q, FormeOk.f, fok_foldl, fok_ite, fok_cond, Laws.ParMem.put_wf, Laws.ParMem.putRaw_wf, Laws.ParMem.putAll_wf, implies_true, and_self]

theorem raiseRetire_mem (s : State)  (hm : MemOk s) : MemOk (raiseRetire s) := by
  refine hm.touch (ps := [.out, .cores, .colo]) ?_ (by decide) (by decide)
  apply raiseRetire_touch <;> first | exact Touches.refl _ _ | decide

theorem refuseRetire_mem (s : State) (rsn : BitVec 4)  (hm : MemOk s) : MemOk (refuseRetire s rsn) := by
  unfold refuseRetire
  (try dsimp only)
  (repeat' split) <;> simp (maxDischargeDepth := 40) +contextual only [hm, raiseRetire_mem, mem_foldl, mem_ite, mem_cond, modForme_mem, modGddr_mem, implies_true, and_self, Laws.gddrPutAll_wf, Laws.gddrPut_wf, memOk_phys, FormeOk.g, FormeOk.q, FormeOk.f, fok_foldl, fok_ite, fok_cond, Laws.ParMem.put_wf, Laws.ParMem.putRaw_wf, Laws.ParMem.putAll_wf, implies_true, and_self]

theorem recordRetirement_mem (s : State) (l spare : Nat)  (hm : MemOk s) : MemOk (recordRetirement s l spare) := by
  refine hm.touch (ps := [.flash]) ?_ (by decide) (by decide)
  apply recordRetirement_touch <;> first | exact Touches.refl _ _ | decide

theorem retireSpare_mem (s : State) (l : Nat) (hm : MemOk s) : MemOk (retireSpare s l) :=
  raiseRetire_mem _ (recordRetirement_mem _ _ _ (modGddr_mem (fun _ h => h) hm))

theorem retireMapped_mem (s : State) (l spare : Nat) (hm : MemOk s) : MemOk (retireMapped s l spare) :=
  modGddr_mem (fun _ h => h) hm

theorem retireGo_mem (s : State) (l : Nat)  (hm : MemOk s) : MemOk (retireGo s l) := by
  unfold retireGo
  (try dsimp only)
  (repeat' split) <;> simp (maxDischargeDepth := 40) +contextual only [hm, refuseRetire_mem, retireMapped_mem, retireSpare_mem, mem_foldl, mem_ite, mem_cond, modForme_mem, modGddr_mem, implies_true, and_self, Laws.gddrPutAll_wf, Laws.gddrPut_wf, memOk_phys, FormeOk.g, FormeOk.q, FormeOk.f, fok_foldl, fok_ite, fok_cond, Laws.ParMem.put_wf, Laws.ParMem.putRaw_wf, Laws.ParMem.putAll_wf, implies_true, and_self]

theorem writeExtRetire_mem (s : State) (v : Word)  (hm : MemOk s) : MemOk (writeExtRetire s v) := by
  unfold writeExtRetire
  (try dsimp only)
  (repeat' split) <;> simp (maxDischargeDepth := 40) +contextual only [hm, retireGo_mem, mem_foldl, mem_ite, mem_cond, modForme_mem, modGddr_mem, implies_true, and_self, Laws.gddrPutAll_wf, Laws.gddrPut_wf, memOk_phys, FormeOk.g, FormeOk.q, FormeOk.f, fok_foldl, fok_ite, fok_cond, Laws.ParMem.put_wf, Laws.ParMem.putRaw_wf, Laws.ParMem.putAll_wf, implies_true, and_self]

theorem migrationErrors_mem (s : State) (l p : Nat)  (hm : MemOk s) : MemOk (migrationErrors s l p) := by
  unfold migrationErrors
  (try dsimp only)
  (repeat' split) <;> simp (maxDischargeDepth := 40) +contextual only [hm, gddrError_mem, mem_foldl, mem_ite, mem_cond, modForme_mem, modGddr_mem, implies_true, and_self, Laws.gddrPutAll_wf, Laws.gddrPut_wf, memOk_phys, FormeOk.g, FormeOk.q, FormeOk.f, fok_foldl, fok_ite, fok_cond, Laws.ParMem.put_wf, Laws.ParMem.putRaw_wf, Laws.ParMem.putAll_wf, implies_true, and_self]

theorem copyExtent_wf {g : Gddr} (p q : Nat) (h : g.phys.wf = true) : (copyExtent g p q).phys.wf = true := by
  unfold copyExtent
  dsimp only
  generalize List.range extBytes = l
  suffices ∀ m : Mem, m.wf = true →
      (l.foldl (fun m i => m.put (q * extBytes + i) (m.byte (p * extBytes + i))) m).wf = true from this _ h
  intro m hm
  induction l generalizing m with
  | nil => exact hm
  | cons x xs ih => exact ih _ (Laws.Mem.put_wf _ _ hm)

theorem migrationDone_mem (s : State) (hm : MemOk s) : MemOk (migrationDone s) := by
  unfold migrationDone
  dsimp only
  refine raiseRetire_mem _ (recordRetirement_mem _ _ _ (modGddr_mem (fun g h => ?_) (migrationErrors_mem _ _ _ hm)))
  have h1 := copyExtent_wf (extEntry s.gddr s.gddr.ret.moving.toNat).pext.toNat (extEntry s.gddr s.gddr.ret.spare.toNat).pext.toNat h
  simp only [modExt]
  exact h1

theorem reportCrc_mem (s : State) (gs : List Nat) (rep : MemReport)  (hm : MemOk s) : MemOk (reportCrc s gs rep) := by
  unfold reportCrc
  (try dsimp only)
  (repeat' split) <;> simp (maxDischargeDepth := 40) +contextual only [hm, bumpEnt_mem, ceEvent_mem, retrainTrigger_mem, mem_foldl, mem_ite, mem_cond, modForme_mem, modGddr_mem, implies_true, and_self, Laws.gddrPutAll_wf, Laws.gddrPut_wf, memOk_phys, FormeOk.g, FormeOk.q, FormeOk.f, fok_foldl, fok_ite, fok_cond, Laws.ParMem.put_wf, Laws.ParMem.putRaw_wf, Laws.ParMem.putAll_wf, implies_true, and_self]

theorem reportCorrected_mem (s : State) (g : Nat)  (hm : MemOk s) : MemOk (reportCorrected s g) := by
  unfold reportCorrected
  (try dsimp only)
  (repeat' split) <;> simp (maxDischargeDepth := 40) +contextual only [hm, bumpEnt_mem, ceEvent_mem, mem_foldl, mem_ite, mem_cond, modForme_mem, modGddr_mem, implies_true, and_self, Laws.gddrPutAll_wf, Laws.gddrPut_wf, memOk_phys, FormeOk.g, FormeOk.q, FormeOk.f, fok_foldl, fok_ite, fok_cond, Laws.ParMem.put_wf, Laws.ParMem.putRaw_wf, Laws.ParMem.putAll_wf, implies_true, and_self]

theorem reportLost_mem (s : State) (g : Nat)  (hm : MemOk s) : MemOk (reportLost s g) := by
  unfold reportLost
  (try dsimp only)
  (repeat' split) <;> simp (maxDischargeDepth := 40) +contextual only [hm, mem_foldl, mem_ite, mem_cond, modForme_mem, modGddr_mem, implies_true, and_self, Laws.gddrPutAll_wf, Laws.gddrPut_wf, memOk_phys, FormeOk.g, FormeOk.q, FormeOk.f, fok_foldl, fok_ite, fok_cond, Laws.ParMem.put_wf, Laws.ParMem.putRaw_wf, Laws.ParMem.putAll_wf, implies_true, and_self]

theorem applyReport_mem (s : State) (rd wr : List (Nat × Nat)) (rep : MemReport)  (hm : MemOk s) : MemOk (applyReport s rd wr rep) := by
  unfold applyReport
  (try dsimp only)
  (repeat' split) <;> simp (maxDischargeDepth := 40) +contextual only [hm, reportCorrected_mem, reportCrc_mem, reportLost_mem, mem_foldl, mem_ite, mem_cond, modForme_mem, modGddr_mem, implies_true, and_self, Laws.gddrPutAll_wf, Laws.gddrPut_wf, memOk_phys, FormeOk.g, FormeOk.q, FormeOk.f, fok_foldl, fok_ite, fok_cond, Laws.ParMem.put_wf, Laws.ParMem.putRaw_wf, Laws.ParMem.putAll_wf, implies_true, and_self]

theorem countWrite_mem (s : State) (d : Dst) (cells : List (Job × Enc)) (flats : Nat)  (hm : MemOk s) : MemOk (countWrite s d cells flats) := by
  refine hm.touch (ps := [.tbl, .proof]) ?_ (by decide) (by decide)
  apply countWrite_touch <;> first | exact Touches.refl _ _ | decide

theorem sampleWrite_mem (s : State) (d : Dst) (c : Ctl) (m : List (List (Job × Enc)))  (hm : MemOk s) : MemOk (sampleWrite s d c m) := by
  refine hm.touch (ps := [.tbl, .proof]) ?_ (by decide) (by decide)
  apply sampleWrite_touch <;> first | exact Touches.refl _ _ | decide

theorem finishDst_mem (s : State) (f : FormeIx) (d : Dst) (q : Quant) (dl : Option Delay) (encs : List (List Enc))  (hm : MemOk s) : MemOk (finishDst s f d q dl encs) := by
  unfold finishDst
  (try dsimp only)
  (repeat' split) <;> simp (maxDischargeDepth := 40) +contextual only [hm, noteAlarm_mem, setHist_mem, galleyPutAll_fok, mem_foldl, mem_ite, mem_cond, modForme_mem, modGddr_mem, implies_true, and_self, Laws.gddrPutAll_wf, Laws.gddrPut_wf, memOk_phys, FormeOk.g, FormeOk.q, FormeOk.f, fok_foldl, fok_ite, fok_cond, Laws.ParMem.put_wf, Laws.ParMem.putRaw_wf, Laws.ParMem.putAll_wf, implies_true, and_self]

theorem proofDst_mem (s : State) (c : Ctl) (kd : ConvKind) (d : Dst) (q : Quant) (encs : List (List Enc))  (hm : MemOk s) : MemOk (proofDst s c kd d q encs) := by
  refine hm.touch (ps := [.tbl, .proof]) ?_ (by decide) (by decide)
  apply proofDst_touch <;> first | exact Touches.refl _ _ | decide

theorem convertRegion_mem (s : State) (f : FormeIx) (c : Ctl) (kd : ConvKind) (ds : List Dst) (vals : List (List Val))  (hm : MemOk s) : MemOk (convertRegion s f c kd ds vals).st := by
  unfold convertRegion
  (try dsimp only)
  (repeat' split) <;> simp (maxDischargeDepth := 40) +contextual only [hm, finishDst_mem, proofDst_mem, settleAlarms_mem, setCvt_fok, fok_vu, mem_foldl, mem_ite, mem_cond, modForme_mem, modGddr_mem, implies_true, and_self, Laws.gddrPutAll_wf, Laws.gddrPut_wf, memOk_phys, FormeOk.g, FormeOk.q, FormeOk.f, fok_foldl, fok_ite, fok_cond, Laws.ParMem.put_wf, Laws.ParMem.putRaw_wf, Laws.ParMem.putAll_wf, implies_true, and_self]

theorem pushEntry_mem (s : State) (f : FormeIx) (e : QEntry) (bal : Vector (BitVec 16) 16)  (hm : MemOk s) : MemOk (pushEntry s f e bal) := by
  unfold pushEntry
  (try dsimp only)
  (repeat' split) <;> simp (maxDischargeDepth := 40) +contextual only [hm, fok_fe_bal_q_dests, mem_foldl, mem_ite, mem_cond, modForme_mem, modGddr_mem, implies_true, and_self, Laws.gddrPutAll_wf, Laws.gddrPut_wf, memOk_phys, FormeOk.g, FormeOk.q, FormeOk.f, fok_foldl, fok_ite, fok_cond, Laws.ParMem.put_wf, Laws.ParMem.putRaw_wf, Laws.ParMem.putAll_wf, implies_true, and_self]

theorem dispatchNext_mem (s : State) (f : FormeIx)  (hm : MemOk s) : MemOk (dispatchNext s f) := by
  unfold dispatchNext
  (try dsimp only)
  (repeat' split) <;> simp (maxDischargeDepth := 40) +contextual only [hm, gddrError_mem, progError_mem, pushEntry_mem, fok_fe, mem_foldl, mem_ite, mem_cond, modForme_mem, modGddr_mem, implies_true, and_self, Laws.gddrPutAll_wf, Laws.gddrPut_wf, memOk_phys, FormeOk.g, FormeOk.q, FormeOk.f, fok_foldl, fok_ite, fok_cond, Laws.ParMem.put_wf, Laws.ParMem.putRaw_wf, Laws.ParMem.putAll_wf, implies_true, and_self]

theorem waitGrantEffect_mem (s : State) (f : FormeIx) (q : Queue)  (hm : MemOk s) : MemOk (waitGrantEffect s f q) := by
  unfold waitGrantEffect
  (try dsimp only)
  (repeat' split) <;> simp (maxDischargeDepth := 40) +contextual only [hm, fok_tok_q, mem_foldl, mem_ite, mem_cond, modForme_mem, modGddr_mem, implies_true, and_self, Laws.gddrPutAll_wf, Laws.gddrPut_wf, memOk_phys, FormeOk.g, FormeOk.q, FormeOk.f, fok_foldl, fok_ite, fok_cond, Laws.ParMem.put_wf, Laws.ParMem.putRaw_wf, Laws.ParMem.putAll_wf, implies_true, and_self]

theorem waitTimeoutEffect_mem (s : State) (f : FormeIx) (q : Queue)  (hm : MemOk s) : MemOk (waitTimeoutEffect s f q) := by
  unfold waitTimeoutEffect
  (try dsimp only)
  (repeat' split) <;> simp (maxDischargeDepth := 40) +contextual only [hm, progError_mem, mem_foldl, mem_ite, mem_cond, modForme_mem, modGddr_mem, implies_true, and_self, Laws.gddrPutAll_wf, Laws.gddrPut_wf, memOk_phys, FormeOk.g, FormeOk.q, FormeOk.f, fok_foldl, fok_ite, fok_cond, Laws.ParMem.put_wf, Laws.ParMem.putRaw_wf, Laws.ParMem.putAll_wf, implies_true, and_self]

theorem completeEffect_mem (s : State) (f : FormeIx) (index : BitVec 24)  (hm : MemOk s) : MemOk (completeEffect s f index) := by
  unfold completeEffect
  (try dsimp only)
  (repeat' split) <;> simp (maxDischargeDepth := 40) +contextual only [hm, addToken_fok, fok_q, mem_foldl, mem_ite, mem_cond, modForme_mem, modGddr_mem, implies_true, and_self, Laws.gddrPutAll_wf, Laws.gddrPut_wf, memOk_phys, FormeOk.g, FormeOk.q, FormeOk.f, fok_foldl, fok_ite, fok_cond, Laws.ParMem.put_wf, Laws.ParMem.putRaw_wf, Laws.ParMem.putAll_wf, implies_true, and_self]

theorem issueHead_mem (s : State) (f : FormeIx) (q : Queue) (done : Bool) (ctx : Option (Fin 16)) (slot : Option (Fin 8))  (hm : MemOk s) : MemOk (issueHead s f q done ctx slot) := by
  unfold issueHead
  (try dsimp only)
  (repeat' split) <;> simp (maxDischargeDepth := 40) +contextual only [hm, issue_fok, mem_foldl, mem_ite, mem_cond, modForme_mem, modGddr_mem, implies_true, and_self, Laws.gddrPutAll_wf, Laws.gddrPut_wf, memOk_phys, FormeOk.g, FormeOk.q, FormeOk.f, fok_foldl, fok_ite, fok_cond, Laws.ParMem.put_wf, Laws.ParMem.putRaw_wf, Laws.ParMem.putAll_wf, implies_true, and_self]

theorem runHead_mem (s : State) (f : FormeIx) (q : Queue) (names claims : Option (Fin 16)) (bad : Option ReadErr) (eff : State → State) (heff : ∀ t, MemOk t → MemOk (eff t)) (hm : MemOk s) : MemOk (runHead s f q names claims bad eff) := by
  unfold runHead
  (try dsimp only)
  (repeat' split) <;> simp (maxDischargeDepth := 40) +contextual only [hm, heff, issueHead_mem, progError_mem, storedError_mem, mem_foldl, mem_ite, mem_cond, modForme_mem, modGddr_mem, implies_true, and_self, Laws.gddrPutAll_wf, Laws.gddrPut_wf, memOk_phys, FormeOk.g, FormeOk.q, FormeOk.f, fok_foldl, fok_ite, fok_cond, Laws.ParMem.put_wf, Laws.ParMem.putRaw_wf, Laws.ParMem.putAll_wf, implies_true, and_self]

theorem tmarkEffect_mem (f : FormeIx) (w : SWord) (s : State)  (hm : MemOk s) : MemOk (tmarkEffect f w s) := by
  unfold tmarkEffect
  (try dsimp only)
  (repeat' split) <;> simp (maxDischargeDepth := 40) +contextual only [hm, galleyPutAll_fok, mem_foldl, mem_ite, mem_cond, modForme_mem, modGddr_mem, implies_true, and_self, Laws.gddrPutAll_wf, Laws.gddrPut_wf, memOk_phys, FormeOk.g, FormeOk.q, FormeOk.f, fok_foldl, fok_ite, fok_cond, Laws.ParMem.put_wf, Laws.ParMem.putRaw_wf, Laws.ParMem.putAll_wf, implies_true, and_self]

theorem scalepushEffect_mem (f : FormeIx) (w : SWord) (s : State)  (hm : MemOk s) : MemOk (scalepushEffect f w s) := by
  refine hm.touch (ps := [.free, .out, .tbl, .proof, .cores, .colo]) ?_ (by decide) (by decide)
  apply scalepushEffect_touch <;> first | exact Touches.refl _ _ | decide

theorem srseedEffect_mem (f : FormeIx) (w : SWord) (s : State)  (hm : MemOk s) : MemOk (srseedEffect f w s) := by
  unfold srseedEffect
  (try dsimp only)
  (repeat' split) <;> simp (maxDischargeDepth := 40) +contextual only [hm, fok_vu, mem_foldl, mem_ite, mem_cond, modForme_mem, modGddr_mem, implies_true, and_self, Laws.gddrPutAll_wf, Laws.gddrPut_wf, memOk_phys, FormeOk.g, FormeOk.q, FormeOk.f, fok_foldl, fok_ite, fok_cond, Laws.ParMem.put_wf, Laws.ParMem.putRaw_wf, Laws.ParMem.putAll_wf, implies_true, and_self]

theorem srsaveEffect_mem (f : FormeIx) (w : SWord) (s : State)  (hm : MemOk s) : MemOk (srsaveEffect f w s) := by
  unfold srsaveEffect
  (try dsimp only)
  (repeat' split) <;> simp (maxDischargeDepth := 40) +contextual only [hm, galleyPutAll_fok, mem_foldl, mem_ite, mem_cond, modForme_mem, modGddr_mem, implies_true, and_self, Laws.gddrPutAll_wf, Laws.gddrPut_wf, memOk_phys, FormeOk.g, FormeOk.q, FormeOk.f, fok_foldl, fok_ite, fok_cond, Laws.ParMem.put_wf, Laws.ParMem.putRaw_wf, Laws.ParMem.putAll_wf, implies_true, and_self]

theorem srloadEffect_mem (f : FormeIx) (w : SWord) (s : State)  (hm : MemOk s) : MemOk (srloadEffect f w s) := by
  unfold srloadEffect
  (try dsimp only)
  (repeat' split) <;> simp (maxDischargeDepth := 40) +contextual only [hm, fok_vu, mem_foldl, mem_ite, mem_cond, modForme_mem, modGddr_mem, implies_true, and_self, Laws.gddrPutAll_wf, Laws.gddrPut_wf, memOk_phys, FormeOk.g, FormeOk.q, FormeOk.f, fok_foldl, fok_ite, fok_cond, Laws.ParMem.put_wf, Laws.ParMem.putRaw_wf, Laws.ParMem.putAll_wf, implies_true, and_self]

theorem setFlush_mem (s : State) (f : FormeIx) (b : Bool)  (hm : MemOk s) : MemOk (setFlush s f b) := by
  unfold setFlush
  (try dsimp only)
  (repeat' split) <;> simp (maxDischargeDepth := 40) +contextual only [hm, setCvt_fok, mem_foldl, mem_ite, mem_cond, modForme_mem, modGddr_mem, implies_true, and_self, Laws.gddrPutAll_wf, Laws.gddrPut_wf, memOk_phys, FormeOk.g, FormeOk.q, FormeOk.f, fok_foldl, fok_ite, fok_cond, Laws.ParMem.put_wf, Laws.ParMem.putRaw_wf, Laws.ParMem.putAll_wf, implies_true, and_self]

theorem galleyWrite_mem (s : State) (f : FormeIx) (bs : List (Nat × Byte))  (hm : MemOk s) : MemOk (galleyWrite s f bs) := by
  unfold galleyWrite
  (try dsimp only)
  (repeat' split) <;> simp (maxDischargeDepth := 40) +contextual only [hm, galleyPutAll_fok, mem_foldl, mem_ite, mem_cond, modForme_mem, modGddr_mem, implies_true, and_self, Laws.gddrPutAll_wf, Laws.gddrPut_wf, memOk_phys, FormeOk.g, FormeOk.q, FormeOk.f, fok_foldl, fok_ite, fok_cond, Laws.ParMem.put_wf, Laws.ParMem.putRaw_wf, Laws.ParMem.putAll_wf, implies_true, and_self]

theorem storeOut_mem (f : FormeIx) (o : ConvOut)  (hm : MemOk o.st) : MemOk (storeOut f o) := by
  unfold storeOut
  (try dsimp only)
  (repeat' split) <;> simp (maxDischargeDepth := 40) +contextual only [hm, galleyWrite_mem, mem_foldl, mem_ite, mem_cond, modForme_mem, modGddr_mem, implies_true, and_self, Laws.gddrPutAll_wf, Laws.gddrPut_wf, memOk_phys, FormeOk.g, FormeOk.q, FormeOk.f, fok_foldl, fok_ite, fok_cond, Laws.ParMem.put_wf, Laws.ParMem.putRaw_wf, Laws.ParMem.putAll_wf, implies_true, and_self]

theorem convertGrid_mem (s : State) (f : FormeIx) (c : Ctl) (delayed : Bool) (d : Dst) (m : List (List (Val × Bool)))  (hm : MemOk s) : MemOk (convertGrid s f c delayed d m) := by
  unfold convertGrid
  (try dsimp only)
  (repeat' split) <;> simp (maxDischargeDepth := 40) +contextual only [hm, convertRegion_mem, setFlush_mem, storeOut_mem, mem_foldl, mem_ite, mem_cond, modForme_mem, modGddr_mem, implies_true, and_self, Laws.gddrPutAll_wf, Laws.gddrPut_wf, memOk_phys, FormeOk.g, FormeOk.q, FormeOk.f, fok_foldl, fok_ite, fok_cond, Laws.ParMem.put_wf, Laws.ParMem.putRaw_wf, Laws.ParMem.putAll_wf, implies_true, and_self]

theorem runGrid_mem (s : State) (f : FormeIx) (reads : List (Nat × Nat)) (delayed : Bool) (d : Dst) (m : List (List (Val × Bool)))  (hm : MemOk s) : MemOk (runGrid s f reads delayed d m) := by
  unfold runGrid
  (try dsimp only)
  (repeat' split) <;> simp (maxDischargeDepth := 40) +contextual only [hm, convertGrid_mem, runHead_mem, mem_foldl, mem_ite, mem_cond, modForme_mem, modGddr_mem, implies_true, and_self, Laws.gddrPutAll_wf, Laws.gddrPut_wf, memOk_phys, FormeOk.g, FormeOk.q, FormeOk.f, fok_foldl, fok_ite, fok_cond, Laws.ParMem.put_wf, Laws.ParMem.putRaw_wf, Laws.ParMem.putAll_wf, implies_true, and_self]

theorem elementwise_mem (s : State) (f : FormeIx) (ps : List Nat) (g : List Val → Val)  (hm : MemOk s) : MemOk (elementwise s f ps g) := by
  unfold elementwise
  (try dsimp only)
  (repeat' split) <;> simp (maxDischargeDepth := 40) +contextual only [hm, runGrid_mem, mem_foldl, mem_ite, mem_cond, modForme_mem, modGddr_mem, implies_true, and_self, Laws.gddrPutAll_wf, Laws.gddrPut_wf, memOk_phys, FormeOk.g, FormeOk.q, FormeOk.f, fok_foldl, fok_ite, fok_cond, Laws.ParMem.put_wf, Laws.ParMem.putRaw_wf, Laws.ParMem.putAll_wf, implies_true, and_self]

theorem vcmpRun_mem (s : State) (f : FormeIx)  (hm : MemOk s) : MemOk (vcmpRun s f) := by
  unfold vcmpRun
  (try dsimp only)
  (repeat' split) <;> simp (maxDischargeDepth := 40) +contextual only [hm, galleyWrite_mem, runHead_mem, setFlush_mem, mem_foldl, mem_ite, mem_cond, modForme_mem, modGddr_mem, implies_true, and_self, Laws.gddrPutAll_wf, Laws.gddrPut_wf, memOk_phys, FormeOk.g, FormeOk.q, FormeOk.f, fok_foldl, fok_ite, fok_cond, Laws.ParMem.put_wf, Laws.ParMem.putRaw_wf, Laws.ParMem.putAll_wf, implies_true, and_self]

theorem vcvtRun_mem (s : State) (f : FormeIx)  (hm : MemOk s) : MemOk (vcvtRun s f) := by
  unfold vcvtRun
  (try dsimp only)
  (repeat' split) <;> simp (maxDischargeDepth := 40) +contextual only [hm, progError_mem, runGrid_mem, mem_foldl, mem_ite, mem_cond, modForme_mem, modGddr_mem, implies_true, and_self, Laws.gddrPutAll_wf, Laws.gddrPut_wf, memOk_phys, FormeOk.g, FormeOk.q, FormeOk.f, fok_foldl, fok_ite, fok_cond, Laws.ParMem.put_wf, Laws.ParMem.putRaw_wf, Laws.ParMem.putAll_wf, implies_true, and_self]

theorem quireRun_mem (s : State) (f : FormeIx) (ps : List Nat) (g : List Val → Val)  (hm : MemOk s) : MemOk (quireRun s f ps g) := by
  unfold quireRun
  (try dsimp only)
  (repeat' split) <;> simp (maxDischargeDepth := 40) +contextual only [hm, runHead_mem, quireAccumulate_fok, mem_foldl, mem_ite, mem_cond, modForme_mem, modGddr_mem, implies_true, and_self, Laws.gddrPutAll_wf, Laws.gddrPut_wf, memOk_phys, FormeOk.g, FormeOk.q, FormeOk.f, fok_foldl, fok_ite, fok_cond, Laws.ParMem.put_wf, Laws.ParMem.putRaw_wf, Laws.ParMem.putAll_wf, implies_true, and_self]

theorem vqclrRun_mem (s : State) (f : FormeIx)  (hm : MemOk s) : MemOk (vqclrRun s f) := by
  unfold vqclrRun
  (try dsimp only)
  (repeat' split) <;> simp (maxDischargeDepth := 40) +contextual only [hm, runHead_mem, setLaneQuire_fok, mem_foldl, mem_ite, mem_cond, modForme_mem, modGddr_mem, implies_true, and_self, Laws.gddrPutAll_wf, Laws.gddrPut_wf, memOk_phys, FormeOk.g, FormeOk.q, FormeOk.f, fok_foldl, fok_ite, fok_cond, Laws.ParMem.put_wf, Laws.ParMem.putRaw_wf, Laws.ParMem.putAll_wf, implies_true, and_self]

theorem vqredRun_mem (s : State) (f : FormeIx)  (hm : MemOk s) : MemOk (vqredRun s f) := by
  unfold vqredRun
  (try dsimp only)
  (repeat' split) <;> simp (maxDischargeDepth := 40) +contextual only [hm, runHead_mem, setLaneQuire_fok, setQsat_fok, mem_foldl, mem_ite, mem_cond, modForme_mem, modGddr_mem, implies_true, and_self, Laws.gddrPutAll_wf, Laws.gddrPut_wf, memOk_phys, FormeOk.g, FormeOk.q, FormeOk.f, fok_foldl, fok_ite, fok_cond, Laws.ParMem.put_wf, Laws.ParMem.putRaw_wf, Laws.ParMem.putAll_wf, implies_true, and_self]

theorem vqsaveRun_mem (s : State) (f : FormeIx)  (hm : MemOk s) : MemOk (vqsaveRun s f) := by
  unfold vqsaveRun
  (try dsimp only)
  (repeat' split) <;> simp (maxDischargeDepth := 40) +contextual only [hm, galleyWrite_mem, runHead_mem, mem_foldl, mem_ite, mem_cond, modForme_mem, modGddr_mem, implies_true, and_self, Laws.gddrPutAll_wf, Laws.gddrPut_wf, memOk_phys, FormeOk.g, FormeOk.q, FormeOk.f, fok_foldl, fok_ite, fok_cond, Laws.ParMem.put_wf, Laws.ParMem.putRaw_wf, Laws.ParMem.putAll_wf, implies_true, and_self]

theorem vqloadRun_mem (s : State) (f : FormeIx)  (hm : MemOk s) : MemOk (vqloadRun s f) := by
  unfold vqloadRun
  (try dsimp only)
  (repeat' split) <;> simp (maxDischargeDepth := 40) +contextual only [hm, runHead_mem, fok_vu, mem_foldl, mem_ite, mem_cond, modForme_mem, modGddr_mem, implies_true, and_self, Laws.gddrPutAll_wf, Laws.gddrPut_wf, memOk_phys, FormeOk.g, FormeOk.q, FormeOk.f, fok_foldl, fok_ite, fok_cond, Laws.ParMem.put_wf, Laws.ParMem.putRaw_wf, Laws.ParMem.putAll_wf, implies_true, and_self]

theorem vrmsRun_mem (s : State) (f : FormeIx)  (hm : MemOk s) : MemOk (vrmsRun s f) := by
  unfold vrmsRun
  (try dsimp only)
  (repeat' split) <;> simp (maxDischargeDepth := 40) +contextual only [hm, convertGrid_mem, progError_mem, runHead_mem, rmsStatus_fok, mem_foldl, mem_ite, mem_cond, modForme_mem, modGddr_mem, implies_true, and_self, Laws.gddrPutAll_wf, Laws.gddrPut_wf, memOk_phys, FormeOk.g, FormeOk.q, FormeOk.f, fok_foldl, fok_ite, fok_cond, Laws.ParMem.put_wf, Laws.ParMem.putRaw_wf, Laws.ParMem.putAll_wf, implies_true, and_self]

theorem vtopkRun_mem (s : State) (f : FormeIx)  (hm : MemOk s) : MemOk (vtopkRun s f) := by
  unfold vtopkRun
  (try dsimp only)
  (repeat' split) <;> simp (maxDischargeDepth := 40) +contextual only [hm, galleyWrite_mem, runHead_mem, setFlush_mem, mem_foldl, mem_ite, mem_cond, modForme_mem, modGddr_mem, implies_true, and_self, Laws.gddrPutAll_wf, Laws.gddrPut_wf, memOk_phys, FormeOk.g, FormeOk.q, FormeOk.f, fok_foldl, fok_ite, fok_cond, Laws.ParMem.put_wf, Laws.ParMem.putRaw_wf, Laws.ParMem.putAll_wf, implies_true, and_self]

theorem vscaleRun_mem (s : State) (f : FormeIx)  (hm : MemOk s) : MemOk (vscaleRun s f) := by
  unfold vscaleRun
  (try dsimp only)
  (repeat' split) <;> simp (maxDischargeDepth := 40) +contextual only [hm, galleyWrite_mem, runHead_mem, mem_foldl, mem_ite, mem_cond, modForme_mem, modGddr_mem, implies_true, and_self, Laws.gddrPutAll_wf, Laws.gddrPut_wf, memOk_phys, FormeOk.g, FormeOk.q, FormeOk.f, fok_foldl, fok_ite, fok_cond, Laws.ParMem.put_wf, Laws.ParMem.putRaw_wf, Laws.ParMem.putAll_wf, implies_true, and_self]

theorem vsmoothRun_mem (s : State) (f : FormeIx)  (hm : MemOk s) : MemOk (vsmoothRun s f) := by
  unfold vsmoothRun
  (try dsimp only)
  (repeat' split) <;> simp (maxDischargeDepth := 40) +contextual only [hm, galleyWrite_mem, runHead_mem, setFlush_mem, useFree_mem, mem_foldl, mem_ite, mem_cond, modForme_mem, modGddr_mem, implies_true, and_self, Laws.gddrPutAll_wf, Laws.gddrPut_wf, memOk_phys, FormeOk.g, FormeOk.q, FormeOk.f, fok_foldl, fok_ite, fok_cond, Laws.ParMem.put_wf, Laws.ParMem.putRaw_wf, Laws.ParMem.putAll_wf, implies_true, and_self]

theorem funcWrite_mem (f : FormeIx) (s : State) (w : FWord) (d : Dst) (m : List (List (Val × Bool)))  (hm : MemOk s) : MemOk (funcWrite f s w d m) := by
  unfold funcWrite
  (try dsimp only)
  (repeat' split) <;> simp (maxDischargeDepth := 40) +contextual only [hm, convertRegion_mem, storeOut_mem, setCvt_fok, mem_foldl, mem_ite, mem_cond, modForme_mem, modGddr_mem, implies_true, and_self, Laws.gddrPutAll_wf, Laws.gddrPut_wf, memOk_phys, FormeOk.g, FormeOk.q, FormeOk.f, fok_foldl, fok_ite, fok_cond, Laws.ParMem.put_wf, Laws.ParMem.putRaw_wf, Laws.ParMem.putAll_wf, implies_true, and_self]

theorem refetchLine_mem (f : FormeIx) (s : State) (line : Nat)  (hm : MemOk s) : MemOk (refetchLine f s line) := by
  unfold refetchLine
  (try dsimp only)
  (repeat' split) <;> simp (maxDischargeDepth := 40) +contextual only [hm, logFault_mem, useFree_mem, fok_vu, mem_foldl, mem_ite, mem_cond, modForme_mem, modGddr_mem, implies_true, and_self, Laws.gddrPutAll_wf, Laws.gddrPut_wf, memOk_phys, FormeOk.g, FormeOk.q, FormeOk.f, fok_foldl, fok_ite, fok_cond, Laws.ParMem.put_wf, Laws.ParMem.putRaw_wf, Laws.ParMem.putAll_wf, implies_true, and_self]

theorem fountHard_mem (f : FormeIx) (s : State) (line : Nat)  (hm : MemOk s) : MemOk (fountHard f s line) := by
  unfold fountHard
  (try dsimp only)
  (repeat' split) <;> simp (maxDischargeDepth := 40) +contextual only [hm, logFault_mem, storedAbort_mem, fok_vu, mem_foldl, mem_ite, mem_cond, modForme_mem, modGddr_mem, implies_true, and_self, Laws.gddrPutAll_wf, Laws.gddrPut_wf, memOk_phys, FormeOk.g, FormeOk.q, FormeOk.f, fok_foldl, fok_ite, fok_cond, Laws.ParMem.put_wf, Laws.ParMem.putRaw_wf, Laws.ParMem.putAll_wf, implies_true, and_self]

theorem funcRun_mem (s : State) (f : FormeIx)  (hm : MemOk s) : MemOk (funcRun s f) := by
  unfold funcRun
  (try dsimp only)
  (repeat' split) <;> simp (maxDischargeDepth := 40) +contextual only [hm, fountHard_mem, funcWrite_mem, progError_mem, refetchLine_mem, storedError_mem, issue_fok, settleLine_fok, mem_foldl, mem_ite, mem_cond, modForme_mem, modGddr_mem, implies_true, and_self, Laws.gddrPutAll_wf, Laws.gddrPut_wf, memOk_phys, FormeOk.g, FormeOk.q, FormeOk.f, fok_foldl, fok_ite, fok_cond, Laws.ParMem.put_wf, Laws.ParMem.putRaw_wf, Laws.ParMem.putAll_wf, implies_true, and_self]

theorem ftloadEffect_mem (s : State) (f : FormeIx)  (hm : MemOk s) : MemOk (ftloadEffect s f) := by
  unfold ftloadEffect
  (try dsimp only)
  (repeat' split) <;> simp (maxDischargeDepth := 40) +contextual only [hm, issueHead_mem, fok_vu, mem_foldl, mem_ite, mem_cond, modForme_mem, modGddr_mem, implies_true, and_self, Laws.gddrPutAll_wf, Laws.gddrPut_wf, memOk_phys, FormeOk.g, FormeOk.q, FormeOk.f, fok_foldl, fok_ite, fok_cond, Laws.ParMem.put_wf, Laws.ParMem.putRaw_wf, Laws.ParMem.putAll_wf, implies_true, and_self]

theorem dropLoad_mem (s : State) (f : FormeIx) (l : FtLoad)  (hm : MemOk s) : MemOk (dropLoad s f l) := by
  unfold dropLoad
  (try dsimp only)
  (repeat' split) <;> simp (maxDischargeDepth := 40) +contextual only [hm, markDone_fok, fok_vu, mem_foldl, mem_ite, mem_cond, modForme_mem, modGddr_mem, implies_true, and_self, Laws.gddrPutAll_wf, Laws.gddrPut_wf, memOk_phys, FormeOk.g, FormeOk.q, FormeOk.f, fok_foldl, fok_ite, fok_cond, Laws.ParMem.put_wf, Laws.ParMem.putRaw_wf, Laws.ParMem.putAll_wf, implies_true, and_self]

theorem transferEffect_mem (s : State) (f : FormeIx)  (hm : MemOk s) : MemOk (transferEffect s f) := by
  unfold transferEffect
  (try dsimp only)
  (repeat' split) <;> simp (maxDischargeDepth := 40) +contextual only [hm, dropLoad_mem, progError_mem, spanSend_mem, fok_vu, mem_foldl, mem_ite, mem_cond, modForme_mem, modGddr_mem, implies_true, and_self, Laws.gddrPutAll_wf, Laws.gddrPut_wf, memOk_phys, FormeOk.g, FormeOk.q, FormeOk.f, fok_foldl, fok_ite, fok_cond, Laws.ParMem.put_wf, Laws.ParMem.putRaw_wf, Laws.ParMem.putAll_wf, implies_true, and_self]

theorem fillSlot_mem (s : State) (f : FormeIx) (l : FtLoad) (bs : List Byte)  (hm : MemOk s) : MemOk (fillSlot s f l bs) := by
  unfold fillSlot
  (try dsimp only)
  (repeat' split) <;> simp (maxDischargeDepth := 40) +contextual only [hm, markDone_fok, fok_vu, mem_foldl, mem_ite, mem_cond, modForme_mem, modGddr_mem, implies_true, and_self, Laws.gddrPutAll_wf, Laws.gddrPut_wf, memOk_phys, FormeOk.g, FormeOk.q, FormeOk.f, fok_foldl, fok_ite, fok_cond, Laws.ParMem.put_wf, Laws.ParMem.putRaw_wf, Laws.ParMem.putAll_wf, implies_true, and_self]

theorem loadEffect_mem (s : State) (f : FormeIx)  (hm : MemOk s) : MemOk (loadEffect s f) := by
  unfold loadEffect
  (try dsimp only)
  (repeat' split) <;> simp (maxDischargeDepth := 40) +contextual only [hm, dropLoad_mem, fillSlot_mem, storedError_mem, mem_foldl, mem_ite, mem_cond, modForme_mem, modGddr_mem, implies_true, and_self, Laws.gddrPutAll_wf, Laws.gddrPut_wf, memOk_phys, FormeOk.g, FormeOk.q, FormeOk.f, fok_foldl, fok_ite, fok_cond, Laws.ParMem.put_wf, Laws.ParMem.putRaw_wf, Laws.ParMem.putAll_wf, implies_true, and_self]

theorem ringWrite_mem (s : State) (pos : Nat) (bs : List Byte)  (hm : MemOk s) : MemOk (ringWrite s pos bs) := by
  unfold ringWrite
  (try dsimp only)
  (repeat' split) <;> simp (maxDischargeDepth := 40) +contextual only [hm, emit_mem, mem_foldl, mem_ite, mem_cond, modForme_mem, modGddr_mem, implies_true, and_self, Laws.gddrPutAll_wf, Laws.gddrPut_wf, memOk_phys, FormeOk.g, FormeOk.q, FormeOk.f, fok_foldl, fok_ite, fok_cond, Laws.ParMem.put_wf, Laws.ParMem.putRaw_wf, Laws.ParMem.putAll_wf, implies_true, and_self]

theorem writePad_mem (s : State) (rs : List (Nat × Nat × Bool))  (hm : MemOk s) : MemOk (writePad s rs) := by
  unfold writePad
  (try dsimp only)
  (repeat' split) <;> simp (maxDischargeDepth := 40) +contextual only [hm, ringWrite_mem, mem_foldl, mem_ite, mem_cond, modForme_mem, modGddr_mem, implies_true, and_self, Laws.gddrPutAll_wf, Laws.gddrPut_wf, memOk_phys, FormeOk.g, FormeOk.q, FormeOk.f, fok_foldl, fok_ite, fok_cond, Laws.ParMem.put_wf, Laws.ParMem.putRaw_wf, Laws.ParMem.putAll_wf, implies_true, and_self]

theorem putRecord_mem (s : State) (typ src arg : Nat) (payload : List Byte)  (hm : MemOk s) : MemOk (putRecord s typ src arg payload) := by
  unfold putRecord
  (try dsimp only)
  (repeat' split) <;> simp (maxDischargeDepth := 40) +contextual only [hm, ringWrite_mem, writePad_mem, mem_log, mem_foldl, mem_ite, mem_cond, modForme_mem, modGddr_mem, implies_true, and_self, Laws.gddrPutAll_wf, Laws.gddrPut_wf, memOk_phys, FormeOk.g, FormeOk.q, FormeOk.f, fok_foldl, fok_ite, fok_cond, Laws.ParMem.put_wf, Laws.ParMem.putRaw_wf, Laws.ParMem.putAll_wf, implies_true, and_self]

theorem logAppend_mem {s : State} {typ src arg : Nat} {payload : List Byte} {t : State} (he : logAppend s typ src arg payload = some t)  (hm : MemOk s) : MemOk t := by
  revert he
  unfold logAppend
  (try dsimp only)
  (repeat' split) <;> intro he <;> (first | contradiction | (injection he with he; subst he; first | simp (maxDischargeDepth := 40) +contextual only [hm, putRecord_mem, mem_log, mem_foldl, mem_ite, mem_cond, modForme_mem, modGddr_mem, implies_true, and_self, Laws.gddrPutAll_wf, Laws.gddrPut_wf, memOk_phys, FormeOk.g, FormeOk.q, FormeOk.f, fok_foldl, fok_ite, fok_cond, Laws.ParMem.put_wf, Laws.ParMem.putRaw_wf, Laws.ParMem.putAll_wf, implies_true, and_self]))

theorem recordInput_mem {s : State} {typ src arg : Nat} {payload : List Byte} {t : State} (he : recordInput s typ src arg payload = some t)  (hm : MemOk s) : MemOk t := by
  revert he
  unfold recordInput
  (try dsimp only)
  (repeat' split) <;> intro he <;> (first | contradiction | exact logAppend_mem he (by simp (maxDischargeDepth := 40) +contextual only [hm, mem_foldl, mem_ite, mem_cond, modForme_mem, modGddr_mem, implies_true, and_self, Laws.gddrPutAll_wf, Laws.gddrPut_wf, memOk_phys, FormeOk.g, FormeOk.q, FormeOk.f, fok_foldl, fok_ite, fok_cond, Laws.ParMem.put_wf, Laws.ParMem.putRaw_wf, Laws.ParMem.putAll_wf, implies_true, and_self]) | (injection he with he; subst he; first | simp (maxDischargeDepth := 40) +contextual only [hm, mem_foldl, mem_ite, mem_cond, modForme_mem, modGddr_mem, implies_true, and_self, Laws.gddrPutAll_wf, Laws.gddrPut_wf, memOk_phys, FormeOk.g, FormeOk.q, FormeOk.f, fok_foldl, fok_ite, fok_cond, Laws.ParMem.put_wf, Laws.ParMem.putRaw_wf, Laws.ParMem.putAll_wf, implies_true, and_self] | (have hx := logAppend_mem (by assumption) (by simp (maxDischargeDepth := 40) +contextual only [hm, mem_foldl, mem_ite, mem_cond, modForme_mem, modGddr_mem, implies_true, and_self, Laws.gddrPutAll_wf, Laws.gddrPut_wf, memOk_phys, FormeOk.g, FormeOk.q, FormeOk.f, fok_foldl, fok_ite, fok_cond, Laws.ParMem.put_wf, Laws.ParMem.putRaw_wf, Laws.ParMem.putAll_wf, implies_true, and_self]); simp (maxDischargeDepth := 40) +contextual only [hx, hm, mem_foldl, mem_ite, mem_cond, modForme_mem, modGddr_mem, implies_true, and_self, Laws.gddrPutAll_wf, Laws.gddrPut_wf, memOk_phys, FormeOk.g, FormeOk.q, FormeOk.f, fok_foldl, fok_ite, fok_cond, Laws.ParMem.put_wf, Laws.ParMem.putRaw_wf, Laws.ParMem.putAll_wf, implies_true, and_self])))

theorem appendMark_mem (s : State) (payload : List Byte) (hm : MemOk s) : MemOk (appendMark s payload) := by
  unfold appendMark
  cases h : logAppend s 6 0 0 payload with
  | none => exact hm
  | some t => exact logAppend_mem h hm

theorem writeAppend_mem (s : State) (v : Word)  (hm : MemOk s) : MemOk (writeAppend s v) := by
  unfold writeAppend
  (try dsimp only)
  (repeat' split) <;> simp (maxDischargeDepth := 40) +contextual only [hm, appendMark_mem, gddrError_mem, mem_foldl, mem_ite, mem_cond, modForme_mem, modGddr_mem, implies_true, and_self, Laws.gddrPutAll_wf, Laws.gddrPut_wf, memOk_phys, FormeOk.g, FormeOk.q, FormeOk.f, fok_foldl, fok_ite, fok_cond, Laws.ParMem.put_wf, Laws.ParMem.putRaw_wf, Laws.ParMem.putAll_wf, implies_true, and_self]

theorem modQp_mem (s : State) (n : Nat) (g : Qp → Qp)  (hm : MemOk s) : MemOk (modQp s n g) := by
  refine hm.touch (ps := [.abut]) ?_ (by decide) (by decide)
  apply modQp_touch <;> first | exact Touches.refl _ _ | decide

theorem modCq_mem (s : State) (n : Nat) (g : Cq → Cq)  (hm : MemOk s) : MemOk (modCq s n g) := by
  refine hm.touch (ps := [.abut]) ?_ (by decide) (by decide)
  apply modCq_touch <;> first | exact Touches.refl _ _ | decide

theorem modSrq_mem (s : State) (n : Nat) (g : Srq → Srq)  (hm : MemOk s) : MemOk (modSrq s n g) := by
  refine hm.touch (ps := [.abut]) ?_ (by decide) (by decide)
  apply modSrq_touch <;> first | exact Touches.refl _ _ | decide

theorem receiveSignal_mem (s : State) (c : BitVec 256)  (hm : MemOk s) : MemOk (receiveSignal s c) := by
  unfold receiveSignal
  (try dsimp only)
  (repeat' split) <;> simp (maxDischargeDepth := 40) +contextual only [hm, remoteSignal_mem, mem_foldl, mem_ite, mem_cond, modForme_mem, modGddr_mem, implies_true, and_self, Laws.gddrPutAll_wf, Laws.gddrPut_wf, memOk_phys, FormeOk.g, FormeOk.q, FormeOk.f, fok_foldl, fok_ite, fok_cond, Laws.ParMem.put_wf, Laws.ParMem.putRaw_wf, Laws.ParMem.putAll_wf, implies_true, and_self]

theorem writeCompletion_mem (s : State) (n : Nat) (c : BitVec 256)  (hm : MemOk s) : MemOk (writeCompletion s n c) := by
  unfold writeCompletion
  (try dsimp only)
  (repeat' split) <;> simp (maxDischargeDepth := 40) +contextual only [hm, modCq_mem, raise_mem, receiveSignal_mem, mem_foldl, mem_ite, mem_cond, modForme_mem, modGddr_mem, implies_true, and_self, Laws.gddrPutAll_wf, Laws.gddrPut_wf, memOk_phys, FormeOk.g, FormeOk.q, FormeOk.f, fok_foldl, fok_ite, fok_cond, Laws.ParMem.put_wf, Laws.ParMem.putRaw_wf, Laws.ParMem.putAll_wf, implies_true, and_self]

theorem complete_mem (s : State) (n : Nat) (c : BitVec 256)  (hm : MemOk s) : MemOk (complete s n c) := by
  unfold complete
  (try dsimp only)
  (repeat' split) <;> simp (maxDischargeDepth := 40) +contextual only [hm, bumpEnt_mem, modCq_mem, writeCompletion_mem, mem_foldl, mem_ite, mem_cond, modForme_mem, modGddr_mem, implies_true, and_self, Laws.gddrPutAll_wf, Laws.gddrPut_wf, memOk_phys, FormeOk.g, FormeOk.q, FormeOk.f, fok_foldl, fok_ite, fok_cond, Laws.ParMem.put_wf, Laws.ParMem.putRaw_wf, Laws.ParMem.putAll_wf, implies_true, and_self]

theorem flushCq_mem (k : Nat) (s : State) (n : Nat) (hm : MemOk s) : MemOk (flushCq k s n) := by
  induction k generalizing s with
  | zero => exact hm
  | succ k ih =>
    unfold flushCq
    (repeat' split) <;> first
      | exact hm
      | (apply ih; simp (maxDischargeDepth := 40) only [hm, writeCompletion_mem, modCq_mem])

theorem roceOut_mem (s : State) (n : Nat) (p : RocePacket)  (hm : MemOk s) : MemOk (roceOut s n p) := by
  refine hm.touch (ps := [.out, .span, .abut, .colo]) ?_ (by decide) (by decide)
  apply roceOut_touch <;> first | exact Touches.refl _ _ | decide

theorem roceOutAll_mem (s : State) (n : Nat) (ps : List RocePacket)  (hm : MemOk s) : MemOk (roceOutAll s n ps) := by
  refine hm.touch (ps := [.out, .span, .abut, .colo]) ?_ (by decide) (by decide)
  apply roceOutAll_touch <;> first | exact Touches.refl _ _ | decide

theorem resendFrom_mem (s : State) (n : Nat) (psn : BitVec 24)  (hm : MemOk s) : MemOk (resendFrom s n psn) := by
  refine hm.touch (ps := [.out, .span, .abut, .colo]) ?_ (by decide) (by decide)
  apply resendFrom_touch <;> first | exact Touches.refl _ _ | decide

theorem postMsg_mem (s : State) (n : Nat) (m : OutMsg)  (hm : MemOk s) : MemOk (postMsg s n m) := by
  refine hm.touch (ps := [.out, .span, .abut, .colo]) ?_ (by decide) (by decide)
  apply postMsg_touch <;> first | exact Touches.refl _ _ | decide

theorem freeCarriage_mem (s : State) (f : FormeIx) (c : Fin 8)  (hm : MemOk s) : MemOk (freeCarriage s f c) := by
  unfold freeCarriage
  (try dsimp only)
  (repeat' split) <;> simp (maxDischargeDepth := 40) +contextual only [hm, fok_carr, mem_abut, mem_out, mem_foldl, mem_ite, mem_cond, modForme_mem, modGddr_mem, implies_true, and_self, Laws.gddrPutAll_wf, Laws.gddrPut_wf, memOk_phys, FormeOk.g, FormeOk.q, FormeOk.f, fok_foldl, fok_ite, fok_cond, Laws.ParMem.put_wf, Laws.ParMem.putRaw_wf, Laws.ParMem.putAll_wf, implies_true, and_self]

theorem dropCopy_mem (s : State) (f : FormeIx) (c : Fin 8)  (hm : MemOk s) : MemOk (dropCopy s f c) := by
  unfold dropCopy
  (try dsimp only)
  (repeat' split) <;> simp (maxDischargeDepth := 40) +contextual only [hm, freeCarriage_mem, fok_q, mem_foldl, mem_ite, mem_cond, modForme_mem, modGddr_mem, implies_true, and_self, Laws.gddrPutAll_wf, Laws.gddrPut_wf, memOk_phys, FormeOk.g, FormeOk.q, FormeOk.f, fok_foldl, fok_ite, fok_cond, Laws.ParMem.put_wf, Laws.ParMem.putRaw_wf, Laws.ParMem.putAll_wf, implies_true, and_self]

theorem failCopy_mem (s : State) (f : FormeIx) (c : Fin 8)  (hm : MemOk s) : MemOk (failCopy s f c) := by
  unfold failCopy
  (try dsimp only)
  (repeat' split) <;> simp (maxDischargeDepth := 40) +contextual only [hm, dropCopy_mem, progError_mem, mem_foldl, mem_ite, mem_cond, modForme_mem, modGddr_mem, implies_true, and_self, Laws.gddrPutAll_wf, Laws.gddrPut_wf, memOk_phys, FormeOk.g, FormeOk.q, FormeOk.f, fok_foldl, fok_ite, fok_cond, Laws.ParMem.put_wf, Laws.ParMem.putRaw_wf, Laws.ParMem.putAll_wf, implies_true, and_self]

theorem failCopies_mem (s : State) (n : Nat)  (hm : MemOk s) : MemOk (failCopies s n) := by
  unfold failCopies
  (try dsimp only)
  (repeat' split) <;> simp (maxDischargeDepth := 40) +contextual only [hm, failCopy_mem, mem_foldl, mem_ite, mem_cond, modForme_mem, modGddr_mem, implies_true, and_self, Laws.gddrPutAll_wf, Laws.gddrPut_wf, memOk_phys, FormeOk.g, FormeOk.q, FormeOk.f, fok_foldl, fok_ite, fok_cond, Laws.ParMem.put_wf, Laws.ParMem.putRaw_wf, Laws.ParMem.putAll_wf, implies_true, and_self]

theorem sendCompletion_mem (s : State) (n : Nat) (m : OutMsg) (fail : Option Nat)  (hm : MemOk s) : MemOk (sendCompletion s n m fail) := by
  unfold sendCompletion
  (try dsimp only)
  (repeat' split) <;> simp (maxDischargeDepth := 40) +contextual only [hm, complete_mem, mem_foldl, mem_ite, mem_cond, modForme_mem, modGddr_mem, implies_true, and_self, Laws.gddrPutAll_wf, Laws.gddrPut_wf, memOk_phys, FormeOk.g, FormeOk.q, FormeOk.f, fok_foldl, fok_ite, fok_cond, Laws.ParMem.put_wf, Laws.ParMem.putRaw_wf, Laws.ParMem.putAll_wf, implies_true, and_self]

theorem flushSq_mem (k : Nat) (s : State) (n : Nat) (hm : MemOk s) : MemOk (flushSq k s n) := by
  induction k generalizing s with
  | zero => exact hm
  | succ k ih =>
    unfold flushSq
    dsimp only
    split
    · exact hm
    · apply ih
      simp (maxDischargeDepth := 40) only [hm, complete_mem, modQp_mem]

theorem flushRq_mem (k : Nat) (s : State) (n : Nat) (hm : MemOk s) : MemOk (flushRq k s n) := by
  induction k generalizing s with
  | zero => exact hm
  | succ k ih =>
    unfold flushRq
    dsimp only
    split
    · exact hm
    · apply ih
      simp (maxDischargeDepth := 40) only [hm, complete_mem, modQp_mem]

theorem flushInc_mem (s : State) (n : Nat)  (hm : MemOk s) : MemOk (flushInc s n) := by
  unfold flushInc
  (try dsimp only)
  (repeat' split) <;> simp (maxDischargeDepth := 40) +contextual only [hm, complete_mem, modQp_mem, mem_foldl, mem_ite, mem_cond, modForme_mem, modGddr_mem, implies_true, and_self, Laws.gddrPutAll_wf, Laws.gddrPut_wf, memOk_phys, FormeOk.g, FormeOk.q, FormeOk.f, fok_foldl, fok_ite, fok_cond, Laws.ParMem.put_wf, Laws.ParMem.putRaw_wf, Laws.ParMem.putAll_wf, implies_true, and_self]

theorem flushRaws_mem (s : State)  (hm : MemOk s) : MemOk (flushRaws s) := by
  unfold flushRaws
  (try dsimp only)
  (repeat' split) <;> simp (maxDischargeDepth := 40) +contextual only [hm, complete_mem, mem_abut, mem_foldl, mem_ite, mem_cond, modForme_mem, modGddr_mem, implies_true, and_self, Laws.gddrPutAll_wf, Laws.gddrPut_wf, memOk_phys, FormeOk.g, FormeOk.q, FormeOk.f, fok_foldl, fok_ite, fok_cond, Laws.ParMem.put_wf, Laws.ParMem.putRaw_wf, Laws.ParMem.putAll_wf, implies_true, and_self]

theorem qpError_mem (s : State) (n : Nat) (status : Nat)  (hm : MemOk s) : MemOk (qpError s n status) := by
  unfold qpError
  (try dsimp only)
  (repeat' split) <;> simp (maxDischargeDepth := 40) +contextual only [hm, failCopies_mem, flushInc_mem, flushRaws_mem, flushRq_mem, flushSq_mem, modQp_mem, sendCompletion_mem, mem_foldl, mem_ite, mem_cond, modForme_mem, modGddr_mem, implies_true, and_self, Laws.gddrPutAll_wf, Laws.gddrPut_wf, memOk_phys, FormeOk.g, FormeOk.q, FormeOk.f, fok_foldl, fok_ite, fok_cond, Laws.ParMem.put_wf, Laws.ParMem.putRaw_wf, Laws.ParMem.putAll_wf, implies_true, and_self]

theorem modSvc_mem (s : State) (i : Fin 64) (g : Svc → Svc)  (hm : MemOk s) : MemOk (modSvc s i g) := by
  refine hm.touch (ps := [.svc]) ?_ (by decide) (by decide)
  apply modSvc_touch <;> first | exact Touches.refl _ _ | decide

theorem bumpSvc_mem (s : State) (i : Fin 64) (k n width : Nat)  (hm : MemOk s) : MemOk (bumpSvc s i k n width) := by
  refine hm.touch (ps := [.colo]) ?_ (by decide) (by decide)
  apply bumpSvc_touch <;> first | exact Touches.refl _ _ | decide

theorem sendReply_mem (s : State) (i : Fin 64) (r : Req) (st : ReqStatus) (body : List Byte)  (hm : MemOk s) : MemOk (sendReply s i r st body) := by
  refine hm.touch (ps := [.free, .out, .colo]) ?_ (by decide) (by decide)
  apply sendReply_touch <;> first | exact Touches.refl _ _ | decide

theorem answerReq_mem (s : State) (i : Fin 64) (r : Req) (st : ReqStatus) (body : List Byte)  (hm : MemOk s) : MemOk (answerReq s i r st body) := by
  refine hm.touch (ps := [.free, .out, .colo]) ?_ (by decide) (by decide)
  apply answerReq_touch <;> first | exact Touches.refl _ _ | decide

theorem answerAll_mem (s : State) (i : Fin 64) (rs : List Req) (st : ReqStatus)  (hm : MemOk s) : MemOk (answerAll s i rs st) := by
  refine hm.touch (ps := [.free, .out, .colo]) ?_ (by decide) (by decide)
  apply answerAll_touch <;> first | exact Touches.refl _ _ | decide

theorem runtimeMark_mem (s : State) (payload : List Byte)  (hm : MemOk s) : MemOk (runtimeMark s payload) := by
  unfold runtimeMark
  (try dsimp only)
  (repeat' split) <;> simp (maxDischargeDepth := 40) +contextual only [hm, appendMark_mem, mem_foldl, mem_ite, mem_cond, modForme_mem, modGddr_mem, implies_true, and_self, Laws.gddrPutAll_wf, Laws.gddrPut_wf, memOk_phys, FormeOk.g, FormeOk.q, FormeOk.f, fok_foldl, fok_ite, fok_cond, Laws.ParMem.put_wf, Laws.ParMem.putRaw_wf, Laws.ParMem.putAll_wf, implies_true, and_self]

theorem batchMark_mem (s : State) (rs : List Req)  (hm : MemOk s) : MemOk (batchMark s rs) := by
  unfold batchMark
  (try dsimp only)
  (repeat' split) <;> simp (maxDischargeDepth := 40) +contextual only [hm, runtimeMark_mem, useFree_mem, mem_foldl, mem_ite, mem_cond, modForme_mem, modGddr_mem, implies_true, and_self, Laws.gddrPutAll_wf, Laws.gddrPut_wf, memOk_phys, FormeOk.g, FormeOk.q, FormeOk.f, fok_foldl, fok_ite, fok_cond, Laws.ParMem.put_wf, Laws.ParMem.putRaw_wf, Laws.ParMem.putAll_wf, implies_true, and_self]

theorem closeBatch_mem (s : State) (i : Fin 64) (full : Bool)  (hm : MemOk s) : MemOk (closeBatch s i full) := by
  unfold closeBatch
  (try dsimp only)
  (repeat' split) <;> simp (maxDischargeDepth := 40) +contextual only [hm, batchMark_mem, bumpSvc_mem, modSvc_mem, mem_foldl, mem_ite, mem_cond, modForme_mem, modGddr_mem, implies_true, and_self, Laws.gddrPutAll_wf, Laws.gddrPut_wf, memOk_phys, FormeOk.g, FormeOk.q, FormeOk.f, fok_foldl, fok_ite, fok_cond, Laws.ParMem.put_wf, Laws.ParMem.putRaw_wf, Laws.ParMem.putAll_wf, implies_true, and_self]

theorem joinBatch_mem (s : State) (i : Fin 64) (r : Req)  (hm : MemOk s) : MemOk (joinBatch s i r) := by
  unfold joinBatch
  (try dsimp only)
  (repeat' split) <;> simp (maxDischargeDepth := 40) +contextual only [hm, closeBatch_mem, modSvc_mem, mem_foldl, mem_ite, mem_cond, modForme_mem, modGddr_mem, implies_true, and_self, Laws.gddrPutAll_wf, Laws.gddrPut_wf, memOk_phys, FormeOk.g, FormeOk.q, FormeOk.f, fok_foldl, fok_ite, fok_cond, Laws.ParMem.put_wf, Laws.ParMem.putRaw_wf, Laws.ParMem.putAll_wf, implies_true, and_self]

theorem joinStream_mem (s : State) (i : Fin 64) (r : Req)  (hm : MemOk s) : MemOk (joinStream s i r) := by
  refine hm.touch (ps := [.free, .out, .svc, .colo]) ?_ (by decide) (by decide)
  apply joinStream_touch <;> first | exact Touches.refl _ _ | decide

theorem takeReq_mem (s : State) (i : Fin 64) (r : Req)  (hm : MemOk s) : MemOk (takeReq s i r) := by
  unfold takeReq
  (try dsimp only)
  (repeat' split) <;> simp (maxDischargeDepth := 40) +contextual only [hm, answerReq_mem, joinBatch_mem, joinStream_mem, setEnt_mem, useFree_mem, mem_foldl, mem_ite, mem_cond, modForme_mem, modGddr_mem, implies_true, and_self, Laws.gddrPutAll_wf, Laws.gddrPut_wf, memOk_phys, FormeOk.g, FormeOk.q, FormeOk.f, fok_foldl, fok_ite, fok_cond, Laws.ParMem.put_wf, Laws.ParMem.putRaw_wf, Laws.ParMem.putAll_wf, implies_true, and_self]

theorem requestFor_mem (s : State) (i : Fin 64) (r : Req) (ok : Bool)  (hm : MemOk s) : MemOk (requestFor s i r ok) := by
  unfold requestFor
  (try dsimp only)
  (repeat' split) <;> simp (maxDischargeDepth := 40) +contextual only [hm, answerReq_mem, takeReq_mem, mem_foldl, mem_ite, mem_cond, modForme_mem, modGddr_mem, implies_true, and_self, Laws.gddrPutAll_wf, Laws.gddrPut_wf, memOk_phys, FormeOk.g, FormeOk.q, FormeOk.f, fok_foldl, fok_ite, fok_cond, Laws.ParMem.put_wf, Laws.ParMem.putRaw_wf, Laws.ParMem.putAll_wf, implies_true, and_self]

theorem requestIn_mem (s : State) (slots : List (Fin 64)) (o : Origin) (time : Word) (bytes : List Byte)  (hm : MemOk s) : MemOk (requestIn s slots o time bytes) := by
  unfold requestIn
  (try dsimp only)
  (repeat' split) <;> simp (maxDischargeDepth := 40) +contextual only [hm, answerReq_mem, requestFor_mem, mem_foldl, mem_ite, mem_cond, modForme_mem, modGddr_mem, implies_true, and_self, Laws.gddrPutAll_wf, Laws.gddrPut_wf, memOk_phys, FormeOk.g, FormeOk.q, FormeOk.f, fok_foldl, fok_ite, fok_cond, Laws.ParMem.put_wf, Laws.ParMem.putRaw_wf, Laws.ParMem.putAll_wf, implies_true, and_self]

theorem dropWait_mem (s : State) (i : Fin 64) (reqId : Word)  (hm : MemOk s) : MemOk (dropWait s i reqId) := by
  refine hm.touch (ps := [.svc]) ?_ (by decide) (by decide)
  apply dropWait_touch <;> first | exact Touches.refl _ _ | decide

theorem compareValues_mem (s : State) (i : Fin 64) (w : MirrorWait) (crc len : BitVec 32)  (hm : MemOk s) : MemOk (compareValues s i w crc len) := by
  refine hm.touch (ps := [.free, .out, .svc, .colo]) ?_ (by decide) (by decide)
  apply compareValues_touch <;> first | exact Touches.refl _ _ | decide

theorem mirrorReady_mem (s : State) (i : Fin 64) (r : Req) (body : List Byte)  (hm : MemOk s) : MemOk (mirrorReady s i r body) := by
  refine hm.touch (ps := [.free, .out, .svc, .colo]) ?_ (by decide) (by decide)
  apply mirrorReady_touch <;> first | exact Touches.refl _ _ | decide

theorem convertCopy_mem (s : State) (f : FormeIx) (e : QEntry) (rd : Nat → Byte)  (hm : MemOk s) : MemOk (convertCopy s f e rd).1 := by
  unfold convertCopy
  (try dsimp only)
  (repeat' split) <;> simp (maxDischargeDepth := 40) +contextual only [hm, convertRegion_mem, setFlush_mem, mem_foldl, mem_ite, mem_cond, modForme_mem, modGddr_mem, implies_true, and_self, Laws.gddrPutAll_wf, Laws.gddrPut_wf, memOk_phys, FormeOk.g, FormeOk.q, FormeOk.f, fok_foldl, fok_ite, fok_cond, Laws.ParMem.put_wf, Laws.ParMem.putRaw_wf, Laws.ParMem.putAll_wf, implies_true, and_self]

theorem copyResult_mem (s : State) (f : FormeIx) (e : QEntry) (rd : Nat → Byte)  (hm : MemOk s) : MemOk (copyResult s f e rd).1 := by
  unfold copyResult
  (try dsimp only)
  (repeat' split) <;> simp (maxDischargeDepth := 40) +contextual only [hm, convertCopy_mem, useFree_mem, mem_foldl, mem_ite, mem_cond, modForme_mem, modGddr_mem, implies_true, and_self, Laws.gddrPutAll_wf, Laws.gddrPut_wf, memOk_phys, FormeOk.g, FormeOk.q, FormeOk.f, fok_foldl, fok_ite, fok_cond, Laws.ParMem.put_wf, Laws.ParMem.putRaw_wf, Laws.ParMem.putAll_wf, implies_true, and_self]

theorem modCar_mem (s : State) (f : FormeIx) (c : Fin 8) (g : Carriage → Carriage)  (hm : MemOk s) : MemOk (modCar s f c g) := by
  unfold modCar
  (try dsimp only)
  (repeat' split) <;> simp (maxDischargeDepth := 40) +contextual only [hm, fok_carr, mem_foldl, mem_ite, mem_cond, modForme_mem, modGddr_mem, implies_true, and_self, Laws.gddrPutAll_wf, Laws.gddrPut_wf, memOk_phys, FormeOk.g, FormeOk.q, FormeOk.f, fok_foldl, fok_ite, fok_cond, Laws.ParMem.put_wf, Laws.ParMem.putRaw_wf, Laws.ParMem.putAll_wf, implies_true, and_self]

theorem sendRead_mem (s : State) (f : FormeIx) (c : Fin 8) (dst : BitVec 12) (p : Nat × Nat)  (hm : MemOk s) : MemOk (sendRead s f c dst p) := by
  unfold sendRead
  (try dsimp only)
  (repeat' split) <;> simp (maxDischargeDepth := 40) +contextual only [hm, failCopy_mem, spanSend_mem, mem_foldl, mem_ite, mem_cond, modForme_mem, modGddr_mem, implies_true, and_self, Laws.gddrPutAll_wf, Laws.gddrPut_wf, memOk_phys, FormeOk.g, FormeOk.q, FormeOk.f, fok_foldl, fok_ite, fok_cond, Laws.ParMem.put_wf, Laws.ParMem.putRaw_wf, Laws.ParMem.putAll_wf, implies_true, and_self]

theorem sendReads_mem (s : State) (f : FormeIx) (c : Fin 8) (dst : BitVec 12) (ps : List (Nat × Nat))  (hm : MemOk s) : MemOk (sendReads s f c dst ps) := by
  unfold sendReads
  (try dsimp only)
  (repeat' split) <;> simp (maxDischargeDepth := 40) +contextual only [hm, sendRead_mem, mem_foldl, mem_ite, mem_cond, modForme_mem, modGddr_mem, implies_true, and_self, Laws.gddrPutAll_wf, Laws.gddrPut_wf, memOk_phys, FormeOk.g, FormeOk.q, FormeOk.f, fok_foldl, fok_ite, fok_cond, Laws.ParMem.put_wf, Laws.ParMem.putRaw_wf, Laws.ParMem.putAll_wf, implies_true, and_self]

theorem sendWrite_mem (s : State) (f : FormeIx) (c : Fin 8) (pk : SpanPacket)  (hm : MemOk s) : MemOk (sendWrite s f c pk) := by
  unfold sendWrite
  (try dsimp only)
  (repeat' split) <;> simp (maxDischargeDepth := 40) +contextual only [hm, failCopy_mem, spanSend_mem, mem_foldl, mem_ite, mem_cond, modForme_mem, modGddr_mem, implies_true, and_self, Laws.gddrPutAll_wf, Laws.gddrPut_wf, memOk_phys, FormeOk.g, FormeOk.q, FormeOk.f, fok_foldl, fok_ite, fok_cond, Laws.ParMem.put_wf, Laws.ParMem.putRaw_wf, Laws.ParMem.putAll_wf, implies_true, and_self]

theorem sendWrites_mem (s : State) (f : FormeIx) (c : Fin 8) (d : Desc) (ps : List (Nat × Nat))  (hm : MemOk s) : MemOk (sendWrites s f c d ps) := by
  unfold sendWrites
  (try dsimp only)
  (repeat' split) <;> simp (maxDischargeDepth := 40) +contextual only [hm, sendWrite_mem, mem_foldl, mem_ite, mem_cond, modForme_mem, modGddr_mem, implies_true, and_self, Laws.gddrPutAll_wf, Laws.gddrPut_wf, memOk_phys, FormeOk.g, FormeOk.q, FormeOk.f, fok_foldl, fok_ite, fok_cond, Laws.ParMem.put_wf, Laws.ParMem.putRaw_wf, Laws.ParMem.putAll_wf, implies_true, and_self]

theorem pumpPiece_mem (f : FormeIx) (c : Fin 8) (write : Bool) (s : State) (p : Nat × Nat)  (hm : MemOk s) : MemOk (pumpPiece f c write s p) := by
  refine hm.touch (ps := [.out, .span, .abut, .colo]) ?_ (by decide) (by decide)
  apply pumpPiece_touch <;> first | exact Touches.refl _ _ | decide

theorem pumpCopies_mem (s : State)  (hm : MemOk s) : MemOk (pumpCopies s) := by
  refine hm.touch (ps := [.out, .span, .abut, .colo]) ?_ (by decide) (by decide)
  apply pumpCopies_touch <;> first | exact Touches.refl _ _ | decide

theorem ownSignal_mem (s : State) (d : Desc)  (hm : MemOk s) : MemOk (ownSignal s d) := by
  unfold ownSignal
  (try dsimp only)
  (repeat' split) <;> simp (maxDischargeDepth := 40) +contextual only [hm, remoteSignal_mem, mem_foldl, mem_ite, mem_cond, modForme_mem, modGddr_mem, implies_true, and_self, Laws.gddrPutAll_wf, Laws.gddrPut_wf, memOk_phys, FormeOk.g, FormeOk.q, FormeOk.f, fok_foldl, fok_ite, fok_cond, Laws.ParMem.put_wf, Laws.ParMem.putRaw_wf, Laws.ParMem.putAll_wf, implies_true, and_self]

theorem landOwn_mem (s : State) (f : FormeIx) (c : Fin 8) (d : Desc) (bs : List (Nat × Byte))  (hm : MemOk s) : MemOk (landOwn s f c d bs) := by
  unfold landOwn
  (try dsimp only)
  (repeat' split) <;> simp (maxDischargeDepth := 40) +contextual only [hm, failCopy_mem, localPutAll_mem, modCar_mem, ownSignal_mem, pumpCopies_mem, mem_foldl, mem_ite, mem_cond, modForme_mem, modGddr_mem, implies_true, and_self, Laws.gddrPutAll_wf, Laws.gddrPut_wf, memOk_phys, FormeOk.g, FormeOk.q, FormeOk.f, fok_foldl, fok_ite, fok_cond, Laws.ParMem.put_wf, Laws.ParMem.putRaw_wf, Laws.ParMem.putAll_wf, implies_true, and_self]

theorem landRemote_mem (s : State) (f : FormeIx) (c : Fin 8) (d : Desc) (bs : List (Nat × Byte))  (hm : MemOk s) : MemOk (landRemote s f c d bs) := by
  unfold landRemote
  (try dsimp only)
  (repeat' split) <;> simp (maxDischargeDepth := 40) +contextual only [hm, modCar_mem, sendWrites_mem, mem_foldl, mem_ite, mem_cond, modForme_mem, modGddr_mem, implies_true, and_self, Laws.gddrPutAll_wf, Laws.gddrPut_wf, memOk_phys, FormeOk.g, FormeOk.q, FormeOk.f, fok_foldl, fok_ite, fok_cond, Laws.ParMem.put_wf, Laws.ParMem.putRaw_wf, Laws.ParMem.putAll_wf, implies_true, and_self]

theorem carryOut_mem (s : State) (f : FormeIx) (c : Fin 8)  (hm : MemOk s) : MemOk (carryOut s f c) := by
  unfold carryOut
  (try dsimp only)
  (repeat' split) <;> simp (maxDischargeDepth := 40) +contextual only [hm, copyResult_mem, dropCopy_mem, landOwn_mem, landRemote_mem, storedError_mem, mem_foldl, mem_ite, mem_cond, modForme_mem, modGddr_mem, implies_true, and_self, Laws.gddrPutAll_wf, Laws.gddrPut_wf, memOk_phys, FormeOk.g, FormeOk.q, FormeOk.f, fok_foldl, fok_ite, fok_cond, Laws.ParMem.put_wf, Laws.ParMem.putRaw_wf, Laws.ParMem.putAll_wf, implies_true, and_self]

theorem takeCarriage_mem (s : State) (f : FormeIx) (c : Fin 8) (d : Desc) (ps : List (Nat × Nat))  (hm : MemOk s) : MemOk (takeCarriage s f c d ps) := by
  unfold takeCarriage
  (try dsimp only)
  (repeat' split) <;> simp (maxDischargeDepth := 40) +contextual only [hm, issueHead_mem, modCar_mem, mem_foldl, mem_ite, mem_cond, modForme_mem, modGddr_mem, implies_true, and_self, Laws.gddrPutAll_wf, Laws.gddrPut_wf, memOk_phys, FormeOk.g, FormeOk.q, FormeOk.f, fok_foldl, fok_ite, fok_cond, Laws.ParMem.put_wf, Laws.ParMem.putRaw_wf, Laws.ParMem.putAll_wf, implies_true, and_self]

theorem startCopy_mem (s : State) (f : FormeIx) (c : Fin 8) (d : Desc)  (hm : MemOk s) : MemOk (startCopy s f c d) := by
  unfold startCopy
  (try dsimp only)
  (repeat' split) <;> simp (maxDischargeDepth := 40) +contextual only [hm, carryOut_mem, pumpCopies_mem, sendReads_mem, takeCarriage_mem, mem_foldl, mem_ite, mem_cond, modForme_mem, modGddr_mem, implies_true, and_self, Laws.gddrPutAll_wf, Laws.gddrPut_wf, memOk_phys, FormeOk.g, FormeOk.q, FormeOk.f, fok_foldl, fok_ite, fok_cond, Laws.ParMem.put_wf, Laws.ParMem.putRaw_wf, Laws.ParMem.putAll_wf, implies_true, and_self]

theorem ccopyEffect_mem (s : State) (f : FormeIx) (rep : MemReport)  (hm : MemOk s) : MemOk (ccopyEffect s f rep) := by
  unfold ccopyEffect
  (try dsimp only)
  (repeat' split) <;> simp (maxDischargeDepth := 40) +contextual only [hm, applyReport_mem, progError_mem, startCopy_mem, mem_foldl, mem_ite, mem_cond, modForme_mem, modGddr_mem, implies_true, and_self, Laws.gddrPutAll_wf, Laws.gddrPut_wf, memOk_phys, FormeOk.g, FormeOk.q, FormeOk.f, fok_foldl, fok_ite, fok_cond, Laws.ParMem.put_wf, Laws.ParMem.putRaw_wf, Laws.ParMem.putAll_wf, implies_true, and_self]

theorem copyRetire_mem (s : State) (f : FormeIx) (c : Fin 8)  (hm : MemOk s) : MemOk (copyRetire s f c) := by
  unfold copyRetire
  (try dsimp only)
  (repeat' split) <;> simp (maxDischargeDepth := 40) +contextual only [hm, markDone_fok, fok_carr, mem_foldl, mem_ite, mem_cond, modForme_mem, modGddr_mem, implies_true, and_self, Laws.gddrPutAll_wf, Laws.gddrPut_wf, memOk_phys, FormeOk.g, FormeOk.q, FormeOk.f, fok_foldl, fok_ite, fok_cond, Laws.ParMem.put_wf, Laws.ParMem.putRaw_wf, Laws.ParMem.putAll_wf, implies_true, and_self]

theorem pieceArrived_mem (s : State) (f : FormeIx) (c : Fin 8) (a : Nat) (bs : List Byte)  (hm : MemOk s) : MemOk (pieceArrived s f c a bs) := by
  unfold pieceArrived
  (try dsimp only)
  (repeat' split) <;> simp (maxDischargeDepth := 40) +contextual only [hm, carryOut_mem, modCar_mem, sendReads_mem, mem_foldl, mem_ite, mem_cond, modForme_mem, modGddr_mem, implies_true, and_self, Laws.gddrPutAll_wf, Laws.gddrPut_wf, memOk_phys, FormeOk.g, FormeOk.q, FormeOk.f, fok_foldl, fok_ite, fok_cond, Laws.ParMem.put_wf, Laws.ParMem.putRaw_wf, Laws.ParMem.putAll_wf, implies_true, and_self]

theorem windowAcked_mem (s : State) (f : FormeIx) (c : Fin 8) (a : Nat)  (hm : MemOk s) : MemOk (windowAcked s f c a) := by
  unfold windowAcked
  (try dsimp only)
  (repeat' split) <;> simp (maxDischargeDepth := 40) +contextual only [hm, modCar_mem, mem_foldl, mem_ite, mem_cond, modForme_mem, modGddr_mem, implies_true, and_self, Laws.gddrPutAll_wf, Laws.gddrPut_wf, memOk_phys, FormeOk.g, FormeOk.q, FormeOk.f, fok_foldl, fok_ite, fok_cond, Laws.ParMem.put_wf, Laws.ParMem.putRaw_wf, Laws.ParMem.putAll_wf, implies_true, and_self]

theorem copyAcked_mem (s : State) (f : FormeIx) (c : Fin 8) (total : Nat)  (hm : MemOk s) : MemOk (copyAcked s f c total) := by
  unfold copyAcked
  (try dsimp only)
  (repeat' split) <;> simp (maxDischargeDepth := 40) +contextual only [hm, modCar_mem, mem_foldl, mem_ite, mem_cond, modForme_mem, modGddr_mem, implies_true, and_self, Laws.gddrPutAll_wf, Laws.gddrPut_wf, memOk_phys, FormeOk.g, FormeOk.q, FormeOk.f, fok_foldl, fok_ite, fok_cond, Laws.ParMem.put_wf, Laws.ParMem.putRaw_wf, Laws.ParMem.putAll_wf, implies_true, and_self]

theorem copyCorrupt_mem (s : State) (f : FormeIx) (c : Fin 8) (a : Nat) (port : Nat)  (hm : MemOk s) : MemOk (copyCorrupt s f c a port) := by
  unfold copyCorrupt
  (try dsimp only)
  (repeat' split) <;> simp (maxDischargeDepth := 40) +contextual only [hm, dropCopy_mem, logFault_mem, modCar_mem, sendReads_mem, sendWrite_mem, storedAbort_mem, mem_foldl, mem_ite, mem_cond, modForme_mem, modGddr_mem, implies_true, and_self, Laws.gddrPutAll_wf, Laws.gddrPut_wf, memOk_phys, FormeOk.g, FormeOk.q, FormeOk.f, fok_foldl, fok_ite, fok_cond, Laws.ParMem.put_wf, Laws.ParMem.putRaw_wf, Laws.ParMem.putAll_wf, implies_true, and_self]

end Sys2Proof
end

