-- ==== Sys2Proof/Laws/MemorySystem.lean ====
section
/-! SUPPORT. Every other operation keeps the memories canonical: `f_mem` -/

namespace Sys2Proof

open Machine

set_option maxRecDepth 4000
set_option linter.unusedSimpArgs false
set_option linter.unusedVariables false

theorem gddrStore_mem (s : State) (a : Nat) (bs : List Byte)  (hm : MemOk s) : MemOk (gddrStore s a bs) := by
  unfold gddrStore
  (try dsimp only)
  (repeat' split) <;> simp (maxDischargeDepth := 40) +contextual only [hm, mem_foldl, mem_ite, mem_cond, modForme_mem, modGddr_mem, implies_true, and_self, Laws.gddrPutAll_wf, Laws.gddrPut_wf, memOk_phys, FormeOk.g, FormeOk.q, FormeOk.f, fok_foldl, fok_ite, fok_cond, Laws.ParMem.put_wf, Laws.ParMem.putRaw_wf, Laws.ParMem.putAll_wf, implies_true, and_self]

theorem takeSrq_mem {s : State} {k : Nat} {t : (State × RecvEntry)} (he : takeSrq s k = some t)  (hm : MemOk s) : MemOk t.1 := by
  refine hm.touch (ps := [.out, .abut, .cores, .colo]) ?_ (by decide) (by decide)
  apply takeSrq_touch he <;> first | exact Touches.refl _ _ | decide

theorem takeRecvEntry_mem {s : State} {n : Nat} {t : (State × RecvEntry)} (he : takeRecvEntry s n = some t)  (hm : MemOk s) : MemOk t.1 := by
  refine hm.touch (ps := [.out, .abut, .cores, .colo]) ?_ (by decide) (by decide)
  apply takeRecvEntry_touch he <;> first | exact Touches.refl _ _ | decide

theorem entryDone_mem (s : State) (n : Nat) (e : RecvEntry) (status bytes : Nat) (imm : Option (BitVec 32)) (time : Nat)  (hm : MemOk s) : MemOk (entryDone s n e status bytes imm time) := by
  unfold entryDone
  (try dsimp only)
  (repeat' split) <;> simp (maxDischargeDepth := 40) +contextual only [hm, complete_mem, mem_foldl, mem_ite, mem_cond, modForme_mem, modGddr_mem, implies_true, and_self, Laws.gddrPutAll_wf, Laws.gddrPut_wf, memOk_phys, FormeOk.g, FormeOk.q, FormeOk.f, fok_foldl, fok_ite, fok_cond, Laws.ParMem.put_wf, Laws.ParMem.putRaw_wf, Laws.ParMem.putAll_wf, implies_true, and_self]

theorem enterIngress_mem (s : State) (n : Nat) (p : RocePacket)  (hm : MemOk s) : MemOk (enterIngress s n p) := by
  refine hm.touch (ps := [.abut]) ?_ (by decide) (by decide)
  apply enterIngress_touch <;> first | exact Touches.refl _ _ | decide

theorem drainIngress_mem (s : State)  (hm : MemOk s) : MemOk (drainIngress s) := by
  refine hm.touch (ps := [.abut]) ?_ (by decide) (by decide)
  apply drainIngress_touch <;> first | exact Touches.refl _ _ | decide

theorem popRx_mem (s : State)  (hm : MemOk s) : MemOk (popRx s) := by
  refine hm.touch (ps := [.abut]) ?_ (by decide) (by decide)
  apply popRx_touch <;> first | exact Touches.refl _ _ | decide

theorem answer_mem (s : State) (n : Nat) (k : RoceKind) (psn : BitVec 24)  (hm : MemOk s) : MemOk (answer s n k psn) := by
  refine hm.touch (ps := [.out, .span, .abut, .colo]) ?_ (by decide) (by decide)
  apply answer_touch <;> first | exact Touches.refl _ _ | decide

theorem rnrAnswer_mem (s : State) (n : Nat) (p : RocePacket)  (hm : MemOk s) : MemOk (rnrAnswer s n p) := by
  refine hm.touch (ps := [.out, .span, .abut, .colo]) ?_ (by decide) (by decide)
  apply rnrAnswer_touch <;> first | exact Touches.refl _ _ | decide

theorem nakError_mem (s : State) (n : Nat) (code : BitVec 5) (p : RocePacket)  (hm : MemOk s) : MemOk (nakError s n code p) := by
  unfold nakError
  (try dsimp only)
  (repeat' split) <;> simp (maxDischargeDepth := 40) +contextual only [hm, answer_mem, qpError_mem, mem_foldl, mem_ite, mem_cond, modForme_mem, modGddr_mem, implies_true, and_self, Laws.gddrPutAll_wf, Laws.gddrPut_wf, memOk_phys, FormeOk.g, FormeOk.q, FormeOk.f, fok_foldl, fok_ite, fok_cond, Laws.ParMem.put_wf, Laws.ParMem.putRaw_wf, Laws.ParMem.putAll_wf, implies_true, and_self]

theorem entryError_mem (s : State) (n : Nat) (e : RecvEntry) (status : Nat) (code : BitVec 5) (p : RocePacket)  (hm : MemOk s) : MemOk (entryError s n e status code p) := by
  unfold entryError
  (try dsimp only)
  (repeat' split) <;> simp (maxDischargeDepth := 40) +contextual only [hm, entryDone_mem, modQp_mem, nakError_mem, mem_foldl, mem_ite, mem_cond, modForme_mem, modGddr_mem, implies_true, and_self, Laws.gddrPutAll_wf, Laws.gddrPut_wf, memOk_phys, FormeOk.g, FormeOk.q, FormeOk.f, fok_foldl, fok_ite, fok_cond, Laws.ParMem.put_wf, Laws.ParMem.putRaw_wf, Laws.ParMem.putAll_wf, implies_true, and_self]

theorem ackAgain_mem (s : State) (n : Nat)  (hm : MemOk s) : MemOk (ackAgain s n) := by
  refine hm.touch (ps := [.out, .span, .abut, .colo]) ?_ (by decide) (by decide)
  apply ackAgain_touch <;> first | exact Touches.refl _ _ | decide

theorem askMissing_mem (s : State) (n : Nat)  (hm : MemOk s) : MemOk (askMissing s n) := by
  refine hm.touch (ps := [.out, .span, .abut, .colo]) ?_ (by decide) (by decide)
  apply askMissing_touch <;> first | exact Touches.refl _ _ | decide

theorem onRequest_mem (s : State) (again serve : State → Nat → RocePacket → State)
    (ha : ∀ t y z, MemOk t → MemOk (again t y z)) (hs : ∀ t y z, MemOk t → MemOk (serve t y z)) (hm : MemOk s) :
    MemOk (onRequest s again serve) := by
  have h1 : MemOk (popRx s) := popRx_mem _ hm
  unfold onRequest
  dsimp only
  (repeat' split)
  · exact hm
  · exact h1
  · exact hs _ _ _ (modQp_mem _ _ _ h1)
  · exact ha _ _ _ h1
  · exact askMissing_mem _ _ h1

theorem joinMsg_mem {s : State} {n : Nat} {p : RocePacket} {write : Bool} {t : State} {m : InMsg}
    (he : joinMsg s n p write = .msg t m) (hm : MemOk s) : MemOk t := by
  refine hm.touch (ps := [.abut, .out, .cores, .colo]) ?_ (by decide) (by decide)
  apply joinMsg_touch he <;> first | exact Touches.refl _ _ | decide

theorem sendRequest_mem (s : State) (n : Nat) (p : RocePacket) (m : InMsg)  (hm : MemOk s) : MemOk (sendRequest s n p m) := by
  unfold sendRequest
  (try dsimp only)
  (repeat' split) <;> simp (maxDischargeDepth := 40) +contextual only [hm, requestIn_mem, mem_foldl, mem_ite, mem_cond, modForme_mem, modGddr_mem, implies_true, and_self, Laws.gddrPutAll_wf, Laws.gddrPut_wf, memOk_phys, FormeOk.g, FormeOk.q, FormeOk.f, fok_foldl, fok_ite, fok_cond, Laws.ParMem.put_wf, Laws.ParMem.putRaw_wf, Laws.ParMem.putAll_wf, implies_true, and_self]

theorem packetDone_mem (s : State) (n : Nat) (p : RocePacket) (m : InMsg)  (hm : MemOk s) : MemOk (packetDone s n p m) := by
  unfold packetDone
  (try dsimp only)
  (repeat' split) <;> simp (maxDischargeDepth := 40) +contextual only [hm, answer_mem, entryDone_mem, modQp_mem, sendRequest_mem, mem_foldl, mem_ite, mem_cond, modForme_mem, modGddr_mem, implies_true, and_self, Laws.gddrPutAll_wf, Laws.gddrPut_wf, memOk_phys, FormeOk.g, FormeOk.q, FormeOk.f, fok_foldl, fok_ite, fok_cond, Laws.ParMem.put_wf, Laws.ParMem.putRaw_wf, Laws.ParMem.putAll_wf, implies_true, and_self]

theorem sendData_mem (s0 s : State) (n : Nat) (p : RocePacket) (m : InMsg) (e : RecvEntry) (h0 : MemOk s0) (hm : MemOk s) :
    MemOk (sendData s0 s n p m e) := by
  unfold sendData
  (repeat' split) <;> first
    | simp (maxDischargeDepth := 40) only [entryError_mem, rnrAnswer_mem, h0, hm]
    | (have hx := recordInput_mem (by assumption) hm
       simp (maxDischargeDepth := 40) only [packetDone_mem, gddrStore_mem, enterIngress_mem, hx])

theorem writeData_mem (s0 s : State) (n : Nat) (p : RocePacket) (m : InMsg) (h0 : MemOk s0) (hm : MemOk s) :
    MemOk (writeData s0 s n p m) := by
  unfold writeData
  dsimp only
  (repeat' split) <;> first
    | simp (maxDischargeDepth := 40) only [nakError_mem, rnrAnswer_mem, h0, hm]
    | (have hx := recordInput_mem (by assumption) hm
       simp (maxDischargeDepth := 40) only [packetDone_mem, gddrStore_mem, enterIngress_mem, hx])

theorem dataIn_mem (write : Bool) (s : State) (n : Nat) (p : RocePacket) (hm : MemOk s) : MemOk (dataIn write s n p) := by
  unfold dataIn
  split
  · exact rnrAnswer_mem _ _ _ hm
  · split
    · exact nakError_mem _ _ _ _ hm
    · exact rnrAnswer_mem _ _ _ hm
    · rename_i heq
      have hx := joinMsg_mem heq hm
      split
      · exact sendData_mem _ _ _ _ _ _ hm hx
      · exact writeData_mem _ _ _ _ _ hm hx

theorem sendIn_mem (s : State) (n : Nat) (p : RocePacket)  (hm : MemOk s) : MemOk (sendIn s n p) := by
  unfold sendIn
  (try dsimp only)
  (repeat' split) <;> simp (maxDischargeDepth := 40) +contextual only [hm, answer_mem, dataIn_mem, mem_foldl, mem_ite, mem_cond, modForme_mem, modGddr_mem, implies_true, and_self, Laws.gddrPutAll_wf, Laws.gddrPut_wf, memOk_phys, FormeOk.g, FormeOk.q, FormeOk.f, fok_foldl, fok_ite, fok_cond, Laws.ParMem.put_wf, Laws.ParMem.putRaw_wf, Laws.ParMem.putAll_wf, implies_true, and_self]

theorem serveReadIn_mem (s : State) (n : Nat) (p : RocePacket)  (hm : MemOk s) : MemOk (serveReadIn s n p) := by
  unfold serveReadIn
  (try dsimp only)
  (repeat' split) <;> simp (maxDischargeDepth := 40) +contextual only [hm, gddrError_mem, nakError_mem, roceOutAll_mem, mem_foldl, mem_ite, mem_cond, modForme_mem, modGddr_mem, implies_true, and_self, Laws.gddrPutAll_wf, Laws.gddrPut_wf, memOk_phys, FormeOk.g, FormeOk.q, FormeOk.f, fok_foldl, fok_ite, fok_cond, Laws.ParMem.put_wf, Laws.ParMem.putRaw_wf, Laws.ParMem.putAll_wf, implies_true, and_self]

theorem readIn_mem (s : State) (n : Nat) (p : RocePacket)  (hm : MemOk s) : MemOk (readIn s n p) := by
  unfold readIn
  (try dsimp only)
  (repeat' split) <;> simp (maxDischargeDepth := 40) +contextual only [hm, answer_mem, enterIngress_mem, modQp_mem, rnrAnswer_mem, serveReadIn_mem, mem_foldl, mem_ite, mem_cond, modForme_mem, modGddr_mem, implies_true, and_self, Laws.gddrPutAll_wf, Laws.gddrPut_wf, memOk_phys, FormeOk.g, FormeOk.q, FormeOk.f, fok_foldl, fok_ite, fok_cond, Laws.ParMem.put_wf, Laws.ParMem.putRaw_wf, Laws.ParMem.putAll_wf, implies_true, and_self]

theorem finishMsg_mem (s : State) (n : Nat) (m : OutMsg)  (hm : MemOk s) : MemOk (finishMsg s n m) := by
  unfold finishMsg
  (try dsimp only)
  (repeat' split) <;> simp (maxDischargeDepth := 40) +contextual only [hm, modQp_mem, pieceArrived_mem, sendCompletion_mem, windowAcked_mem, mem_foldl, mem_ite, mem_cond, modForme_mem, modGddr_mem, implies_true, and_self, Laws.gddrPutAll_wf, Laws.gddrPut_wf, memOk_phys, FormeOk.g, FormeOk.q, FormeOk.f, fok_foldl, fok_ite, fok_cond, Laws.ParMem.put_wf, Laws.ParMem.putRaw_wf, Laws.ParMem.putAll_wf, implies_true, and_self]

theorem ackUpTo_mem (k : Nat) (s : State) (n : Nat) (psn : BitVec 24) (hm : MemOk s) : MemOk (ackUpTo k s n psn) := by
  induction k generalizing s with
  | zero => exact hm
  | succ k ih =>
    unfold ackUpTo
    (repeat' split) <;> first
      | exact hm
      | (apply ih; simp (maxDischargeDepth := 40) only [hm, finishMsg_mem])

theorem acked_mem (s : State) (n : Nat) (psn : BitVec 24)  (hm : MemOk s) : MemOk (acked s n psn) := by
  unfold acked
  (try dsimp only)
  (repeat' split) <;> simp (maxDischargeDepth := 40) +contextual only [hm, ackUpTo_mem, modQp_mem, mem_foldl, mem_ite, mem_cond, modForme_mem, modGddr_mem, implies_true, and_self, Laws.gddrPutAll_wf, Laws.gddrPut_wf, memOk_phys, FormeOk.g, FormeOk.q, FormeOk.f, fok_foldl, fok_ite, fok_cond, Laws.ParMem.put_wf, Laws.ParMem.putRaw_wf, Laws.ParMem.putAll_wf, implies_true, and_self]

theorem recordResponse_mem {s : State} {n : Nat} {m : OutMsg} {bs : List Byte} {t : State} (he : recordResponse s n m bs = some t)  (hm : MemOk s) : MemOk t := by
  revert he
  unfold recordResponse
  (try dsimp only)
  (repeat' split) <;> intro he <;> (first | contradiction | exact recordInput_mem he (by simp (maxDischargeDepth := 40) +contextual only [hm, mem_foldl, mem_ite, mem_cond, modForme_mem, modGddr_mem, implies_true, and_self, Laws.gddrPutAll_wf, Laws.gddrPut_wf, memOk_phys, FormeOk.g, FormeOk.q, FormeOk.f, fok_foldl, fok_ite, fok_cond, Laws.ParMem.put_wf, Laws.ParMem.putRaw_wf, Laws.ParMem.putAll_wf, implies_true, and_self]) | (injection he with he; subst he; first | simp (maxDischargeDepth := 40) +contextual only [hm, mem_foldl, mem_ite, mem_cond, modForme_mem, modGddr_mem, implies_true, and_self, Laws.gddrPutAll_wf, Laws.gddrPut_wf, memOk_phys, FormeOk.g, FormeOk.q, FormeOk.f, fok_foldl, fok_ite, fok_cond, Laws.ParMem.put_wf, Laws.ParMem.putRaw_wf, Laws.ParMem.putAll_wf, implies_true, and_self] | (have hx := recordInput_mem (by assumption) (by simp (maxDischargeDepth := 40) +contextual only [hm, mem_foldl, mem_ite, mem_cond, modForme_mem, modGddr_mem, implies_true, and_self, Laws.gddrPutAll_wf, Laws.gddrPut_wf, memOk_phys, FormeOk.g, FormeOk.q, FormeOk.f, fok_foldl, fok_ite, fok_cond, Laws.ParMem.put_wf, Laws.ParMem.putRaw_wf, Laws.ParMem.putAll_wf, implies_true, and_self]); simp (maxDischargeDepth := 40) +contextual only [hx, hm, mem_foldl, mem_ite, mem_cond, modForme_mem, modGddr_mem, implies_true, and_self, Laws.gddrPutAll_wf, Laws.gddrPut_wf, memOk_phys, FormeOk.g, FormeOk.q, FormeOk.f, fok_foldl, fok_ite, fok_cond, Laws.ParMem.put_wf, Laws.ParMem.putRaw_wf, Laws.ParMem.putAll_wf, implies_true, and_self])))

theorem readData_mem (s : State) (n : Nat) (p : RocePacket)  (hm : MemOk s) : MemOk (readData s n p) := by
  unfold readData
  (try dsimp only)
  (repeat' split) <;> (first | simp (maxDischargeDepth := 40) +contextual only [hm, acked_mem, gddrStore_mem, modQp_mem, mem_out, mem_foldl, mem_ite, mem_cond, modForme_mem, modGddr_mem, implies_true, and_self, Laws.gddrPutAll_wf, Laws.gddrPut_wf, memOk_phys, FormeOk.g, FormeOk.q, FormeOk.f, fok_foldl, fok_ite, fok_cond, Laws.ParMem.put_wf, Laws.ParMem.putRaw_wf, Laws.ParMem.putAll_wf, implies_true, and_self] | (have hx := recordResponse_mem (by assumption) (by simp (maxDischargeDepth := 40) +contextual only [hm, acked_mem, gddrStore_mem, modQp_mem, mem_out, mem_foldl, mem_ite, mem_cond, modForme_mem, modGddr_mem, implies_true, and_self, Laws.gddrPutAll_wf, Laws.gddrPut_wf, memOk_phys, FormeOk.g, FormeOk.q, FormeOk.f, fok_foldl, fok_ite, fok_cond, Laws.ParMem.put_wf, Laws.ParMem.putRaw_wf, Laws.ParMem.putAll_wf, implies_true, and_self]); simp (maxDischargeDepth := 40) +contextual only [hx, hm, acked_mem, gddrStore_mem, modQp_mem, mem_out, mem_foldl, mem_ite, mem_cond, modForme_mem, modGddr_mem, implies_true, and_self, Laws.gddrPutAll_wf, Laws.gddrPut_wf, memOk_phys, FormeOk.g, FormeOk.q, FormeOk.f, fok_foldl, fok_ite, fok_cond, Laws.ParMem.put_wf, Laws.ParMem.putRaw_wf, Laws.ParMem.putAll_wf, implies_true, and_self]))

theorem retry_mem (s : State) (n : Nat) (psn : BitVec 24)  (hm : MemOk s) : MemOk (retry s n psn) := by
  unfold retry
  (try dsimp only)
  (repeat' split) <;> simp (maxDischargeDepth := 40) +contextual only [hm, modQp_mem, qpError_mem, resendFrom_mem, mem_foldl, mem_ite, mem_cond, modForme_mem, modGddr_mem, implies_true, and_self, Laws.gddrPutAll_wf, Laws.gddrPut_wf, memOk_phys, FormeOk.g, FormeOk.q, FormeOk.f, fok_foldl, fok_ite, fok_cond, Laws.ParMem.put_wf, Laws.ParMem.putRaw_wf, Laws.ParMem.putAll_wf, implies_true, and_self]

theorem nakIn_mem (s : State) (n : Nat) (code : BitVec 5) (psn : BitVec 24)  (hm : MemOk s) : MemOk (nakIn s n code psn) := by
  unfold nakIn
  (try dsimp only)
  (repeat' split) <;> simp (maxDischargeDepth := 40) +contextual only [hm, acked_mem, qpError_mem, retry_mem, useFree_mem, mem_foldl, mem_ite, mem_cond, modForme_mem, modGddr_mem, implies_true, and_self, Laws.gddrPutAll_wf, Laws.gddrPut_wf, memOk_phys, FormeOk.g, FormeOk.q, FormeOk.f, fok_foldl, fok_ite, fok_cond, Laws.ParMem.put_wf, Laws.ParMem.putRaw_wf, Laws.ParMem.putAll_wf, implies_true, and_self]

theorem rnrNakIn_mem (s : State) (n : Nat) (timer : BitVec 5) (psn : BitVec 24)  (hm : MemOk s) : MemOk (rnrNakIn s n timer psn) := by
  unfold rnrNakIn
  (try dsimp only)
  (repeat' split) <;> simp (maxDischargeDepth := 40) +contextual only [hm, acked_mem, modQp_mem, mem_foldl, mem_ite, mem_cond, modForme_mem, modGddr_mem, implies_true, and_self, Laws.gddrPutAll_wf, Laws.gddrPut_wf, memOk_phys, FormeOk.g, FormeOk.q, FormeOk.f, fok_foldl, fok_ite, fok_cond, Laws.ParMem.put_wf, Laws.ParMem.putRaw_wf, Laws.ParMem.putAll_wf, implies_true, and_self]

theorem responseKind_mem (s : State) (n : Nat) (p : RocePacket)  (hm : MemOk s) : MemOk (responseKind s n p) := by
  unfold responseKind
  (try dsimp only)
  (repeat' split) <;> simp (maxDischargeDepth := 40) +contextual only [hm, acked_mem, nakIn_mem, readData_mem, rnrNakIn_mem, mem_foldl, mem_ite, mem_cond, modForme_mem, modGddr_mem, implies_true, and_self, Laws.gddrPutAll_wf, Laws.gddrPut_wf, memOk_phys, FormeOk.g, FormeOk.q, FormeOk.f, fok_foldl, fok_ite, fok_cond, Laws.ParMem.put_wf, Laws.ParMem.putRaw_wf, Laws.ParMem.putAll_wf, implies_true, and_self]

theorem responseIn_mem (s : State)  (hm : MemOk s) : MemOk (responseIn s) := by
  unfold responseIn
  (try dsimp only)
  (repeat' split) <;> simp (maxDischargeDepth := 40) +contextual only [hm, popRx_mem, pumpCopies_mem, responseKind_mem, mem_foldl, mem_ite, mem_cond, modForme_mem, modGddr_mem, implies_true, and_self, Laws.gddrPutAll_wf, Laws.gddrPut_wf, memOk_phys, FormeOk.g, FormeOk.q, FormeOk.f, fok_foldl, fok_ite, fok_cond, Laws.ParMem.put_wf, Laws.ParMem.putRaw_wf, Laws.ParMem.putAll_wf, implies_true, and_self]

theorem rnrRetry_mem (s : State) (n : Nat)  (hm : MemOk s) : MemOk (rnrRetry s n) := by
  unfold rnrRetry
  (try dsimp only)
  (repeat' split) <;> simp (maxDischargeDepth := 40) +contextual only [hm, modQp_mem, qpError_mem, resendFrom_mem, mem_foldl, mem_ite, mem_cond, modForme_mem, modGddr_mem, implies_true, and_self, Laws.gddrPutAll_wf, Laws.gddrPut_wf, memOk_phys, FormeOk.g, FormeOk.q, FormeOk.f, fok_foldl, fok_ite, fok_cond, Laws.ParMem.put_wf, Laws.ParMem.putRaw_wf, Laws.ParMem.putAll_wf, implies_true, and_self]

theorem cnpEffect_mem (s : State)  (hm : MemOk s) : MemOk (cnpEffect s) := by
  refine hm.touch (ps := [.abut, .colo]) ?_ (by decide) (by decide)
  apply cnpEffect_touch <;> first | exact Touches.refl _ _ | decide

theorem takeSq_mem (s : State) (n : Nat)  (hm : MemOk s) : MemOk (takeSq s n) := by
  refine hm.touch (ps := [.abut]) ?_ (by decide) (by decide)
  apply takeSq_touch <;> first | exact Touches.refl _ _ | decide

theorem entryFails_mem (s : State) (n : Nat) (m : OutMsg) (status : Nat)  (hm : MemOk s) : MemOk (entryFails s n m status) := by
  unfold entryFails
  (try dsimp only)
  (repeat' split) <;> simp (maxDischargeDepth := 40) +contextual only [hm, qpError_mem, sendCompletion_mem, mem_foldl, mem_ite, mem_cond, modForme_mem, modGddr_mem, implies_true, and_self, Laws.gddrPutAll_wf, Laws.gddrPut_wf, memOk_phys, FormeOk.g, FormeOk.q, FormeOk.f, fok_foldl, fok_ite, fok_cond, Laws.ParMem.put_wf, Laws.ParMem.putRaw_wf, Laws.ParMem.putAll_wf, implies_true, and_self]

theorem sendEntry_mem (s : State) (n : Nat)  (hm : MemOk s) : MemOk (sendEntry s n) := by
  unfold sendEntry
  (try dsimp only)
  (repeat' split) <;> simp (maxDischargeDepth := 40) +contextual only [hm, entryFails_mem, postMsg_mem, takeSq_mem, mem_foldl, mem_ite, mem_cond, modForme_mem, modGddr_mem, implies_true, and_self, Laws.gddrPutAll_wf, Laws.gddrPut_wf, memOk_phys, FormeOk.g, FormeOk.q, FormeOk.f, fok_foldl, fok_ite, fok_cond, Laws.ParMem.put_wf, Laws.ParMem.putRaw_wf, Laws.ParMem.putAll_wf, implies_true, and_self]

theorem rawSent_mem (s : State) (m : OutMsg) (tsreq : Bool)  (hm : MemOk s) : MemOk (rawSent s m tsreq) := by
  unfold rawSent
  (try dsimp only)
  (repeat' split) <;> simp (maxDischargeDepth := 40) +contextual only [hm, complete_mem, useFree_mem, mem_abut, mem_foldl, mem_ite, mem_cond, modForme_mem, modGddr_mem, implies_true, and_self, Laws.gddrPutAll_wf, Laws.gddrPut_wf, memOk_phys, FormeOk.g, FormeOk.q, FormeOk.f, fok_foldl, fok_ite, fok_cond, Laws.ParMem.put_wf, Laws.ParMem.putRaw_wf, Laws.ParMem.putAll_wf, implies_true, and_self]

theorem rawEntry_mem (s : State)  (hm : MemOk s) : MemOk (rawEntry s) := by
  unfold rawEntry
  (try dsimp only)
  (repeat' split) <;> simp (maxDischargeDepth := 40) +contextual only [hm, entryFails_mem, ethToPort_mem, rawSent_mem, takeSq_mem, mem_foldl, mem_ite, mem_cond, modForme_mem, modGddr_mem, implies_true, and_self, Laws.gddrPutAll_wf, Laws.gddrPut_wf, memOk_phys, FormeOk.g, FormeOk.q, FormeOk.f, fok_foldl, fok_ite, fok_cond, Laws.ParMem.put_wf, Laws.ParMem.putRaw_wf, Laws.ParMem.putAll_wf, implies_true, and_self]

theorem rawReport_mem (s : State) (tag : BitVec 32) (time : Nat)  (hm : MemOk s) : MemOk (rawReport s tag time) := by
  unfold rawReport
  (try dsimp only)
  (repeat' split) <;> simp (maxDischargeDepth := 40) +contextual only [hm, complete_mem, mem_abut, mem_foldl, mem_ite, mem_cond, modForme_mem, modGddr_mem, implies_true, and_self, Laws.gddrPutAll_wf, Laws.gddrPut_wf, memOk_phys, FormeOk.g, FormeOk.q, FormeOk.f, fok_foldl, fok_ite, fok_cond, Laws.ParMem.put_wf, Laws.ParMem.putRaw_wf, Laws.ParMem.putAll_wf, implies_true, and_self]

theorem resetQp_mem (s : State) (n : Nat)  (hm : MemOk s) : MemOk (resetQp s n) := by
  unfold resetQp
  (try dsimp only)
  (repeat' split) <;> simp (maxDischargeDepth := 40) +contextual only [hm, failCopies_mem, modQp_mem, mem_abut, mem_foldl, mem_ite, mem_cond, modForme_mem, modGddr_mem, implies_true, and_self, Laws.gddrPutAll_wf, Laws.gddrPut_wf, memOk_phys, FormeOk.g, FormeOk.q, FormeOk.f, fok_foldl, fok_ite, fok_cond, Laws.ParMem.put_wf, Laws.ParMem.putRaw_wf, Laws.ParMem.putAll_wf, implies_true, and_self]

theorem qpTransition_mem {s : State} {n target : Nat} {t : State} (he : qpTransition s n target = .inr t)  (hm : MemOk s) : MemOk t := by
  revert he
  unfold qpTransition
  (try dsimp only)
  (repeat' split) <;> intro he <;> (first | contradiction | (injection he with he; subst he; first | simp (maxDischargeDepth := 40) +contextual only [hm, modQp_mem, qpError_mem, resetQp_mem, mem_foldl, mem_ite, mem_cond, modForme_mem, modGddr_mem, implies_true, and_self, Laws.gddrPutAll_wf, Laws.gddrPut_wf, memOk_phys, FormeOk.g, FormeOk.q, FormeOk.f, fok_foldl, fok_ite, fok_cond, Laws.ParMem.put_wf, Laws.ParMem.putRaw_wf, Laws.ParMem.putAll_wf, implies_true, and_self]))

theorem qp0Transition_mem {s : State} {target : Nat} {t : State} (he : qp0Transition s target = .inr t)  (hm : MemOk s) : MemOk t := by
  revert he
  unfold qp0Transition
  (try dsimp only)
  (repeat' split) <;> intro he <;> (first | contradiction | (injection he with he; subst he; first | simp (maxDischargeDepth := 40) +contextual only [hm, modQp_mem, qpError_mem, resetQp_mem, mem_foldl, mem_ite, mem_cond, modForme_mem, modGddr_mem, implies_true, and_self, Laws.gddrPutAll_wf, Laws.gddrPut_wf, memOk_phys, FormeOk.g, FormeOk.q, FormeOk.f, fok_foldl, fok_ite, fok_cond, Laws.ParMem.put_wf, Laws.ParMem.putRaw_wf, Laws.ParMem.putAll_wf, implies_true, and_self]))

theorem qpCommand_mem {s : State} {n target : Nat} {t : State} (he : qpCommand s n target = .inr t) (hm : MemOk s) :
    MemOk t := by
  unfold qpCommand at he
  split at he
  · cases he
  · split at he
    · cases he
    · split at he
      · exact qp0Transition_mem he hm
      · exact qpTransition_mem he hm

theorem cqCommand_mem {s : State} {n target : Nat} {t : State} (he : cqCommand s n target = .inr t)  (hm : MemOk s) : MemOk t := by
  refine hm.touch (ps := [.abut]) ?_ (by decide) (by decide)
  apply cqCommand_touch he <;> first | exact Touches.refl _ _ | decide

theorem srqCommand_mem {s : State} {n target : Nat} {t : State} (he : srqCommand s n target = .inr t)  (hm : MemOk s) : MemOk t := by
  refine hm.touch (ps := [.abut]) ?_ (by decide) (by decide)
  apply srqCommand_touch he <;> first | exact Touches.refl _ _ | decide

theorem objCommand_mem {s : State} {n obj target : Nat} {t : State} (he : objCommand s n obj target = .inr t)  (hm : MemOk s) : MemOk t := by
  revert he
  unfold objCommand
  (try dsimp only)
  (repeat' split) <;> intro he <;> (first | contradiction | exact cqCommand_mem he (by simp (maxDischargeDepth := 40) +contextual only [hm, mem_foldl, mem_ite, mem_cond, modForme_mem, modGddr_mem, implies_true, and_self, Laws.gddrPutAll_wf, Laws.gddrPut_wf, memOk_phys, FormeOk.g, FormeOk.q, FormeOk.f, fok_foldl, fok_ite, fok_cond, Laws.ParMem.put_wf, Laws.ParMem.putRaw_wf, Laws.ParMem.putAll_wf, implies_true, and_self]) | exact qpCommand_mem he (by simp (maxDischargeDepth := 40) +contextual only [hm, mem_foldl, mem_ite, mem_cond, modForme_mem, modGddr_mem, implies_true, and_self, Laws.gddrPutAll_wf, Laws.gddrPut_wf, memOk_phys, FormeOk.g, FormeOk.q, FormeOk.f, fok_foldl, fok_ite, fok_cond, Laws.ParMem.put_wf, Laws.ParMem.putRaw_wf, Laws.ParMem.putAll_wf, implies_true, and_self]) | exact srqCommand_mem he (by simp (maxDischargeDepth := 40) +contextual only [hm, mem_foldl, mem_ite, mem_cond, modForme_mem, modGddr_mem, implies_true, and_self, Laws.gddrPutAll_wf, Laws.gddrPut_wf, memOk_phys, FormeOk.g, FormeOk.q, FormeOk.f, fok_foldl, fok_ite, fok_cond, Laws.ParMem.put_wf, Laws.ParMem.putRaw_wf, Laws.ParMem.putAll_wf, implies_true, and_self]) | (injection he with he; subst he; first | simp (maxDischargeDepth := 40) +contextual only [hm, mem_foldl, mem_ite, mem_cond, modForme_mem, modGddr_mem, implies_true, and_self, Laws.gddrPutAll_wf, Laws.gddrPut_wf, memOk_phys, FormeOk.g, FormeOk.q, FormeOk.f, fok_foldl, fok_ite, fok_cond, Laws.ParMem.put_wf, Laws.ParMem.putRaw_wf, Laws.ParMem.putAll_wf, implies_true, and_self] | (have hx := cqCommand_mem (by assumption) (by simp (maxDischargeDepth := 40) +contextual only [hm, mem_foldl, mem_ite, mem_cond, modForme_mem, modGddr_mem, implies_true, and_self, Laws.gddrPutAll_wf, Laws.gddrPut_wf, memOk_phys, FormeOk.g, FormeOk.q, FormeOk.f, fok_foldl, fok_ite, fok_cond, Laws.ParMem.put_wf, Laws.ParMem.putRaw_wf, Laws.ParMem.putAll_wf, implies_true, and_self]); simp (maxDischargeDepth := 40) +contextual only [hx, hm, mem_foldl, mem_ite, mem_cond, modForme_mem, modGddr_mem, implies_true, and_self, Laws.gddrPutAll_wf, Laws.gddrPut_wf, memOk_phys, FormeOk.g, FormeOk.q, FormeOk.f, fok_foldl, fok_ite, fok_cond, Laws.ParMem.put_wf, Laws.ParMem.putRaw_wf, Laws.ParMem.putAll_wf, implies_true, and_self]) | (have hx := qpCommand_mem (by assumption) (by simp (maxDischargeDepth := 40) +contextual only [hm, mem_foldl, mem_ite, mem_cond, modForme_mem, modGddr_mem, implies_true, and_self, Laws.gddrPutAll_wf, Laws.gddrPut_wf, memOk_phys, FormeOk.g, FormeOk.q, FormeOk.f, fok_foldl, fok_ite, fok_cond, Laws.ParMem.put_wf, Laws.ParMem.putRaw_wf, Laws.ParMem.putAll_wf, implies_true, and_self]); simp (maxDischargeDepth := 40) +contextual only [hx, hm, mem_foldl, mem_ite, mem_cond, modForme_mem, modGddr_mem, implies_true, and_self, Laws.gddrPutAll_wf, Laws.gddrPut_wf, memOk_phys, FormeOk.g, FormeOk.q, FormeOk.f, fok_foldl, fok_ite, fok_cond, Laws.ParMem.put_wf, Laws.ParMem.putRaw_wf, Laws.ParMem.putAll_wf, implies_true, and_self]) | (have hx := srqCommand_mem (by assumption) (by simp (maxDischargeDepth := 40) +contextual only [hm, mem_foldl, mem_ite, mem_cond, modForme_mem, modGddr_mem, implies_true, and_self, Laws.gddrPutAll_wf, Laws.gddrPut_wf, memOk_phys, FormeOk.g, FormeOk.q, FormeOk.f, fok_foldl, fok_ite, fok_cond, Laws.ParMem.put_wf, Laws.ParMem.putRaw_wf, Laws.ParMem.putAll_wf, implies_true, and_self]); simp (maxDischargeDepth := 40) +contextual only [hx, hm, mem_foldl, mem_ite, mem_cond, modForme_mem, modGddr_mem, implies_true, and_self, Laws.gddrPutAll_wf, Laws.gddrPut_wf, memOk_phys, FormeOk.g, FormeOk.q, FormeOk.f, fok_foldl, fok_ite, fok_cond, Laws.ParMem.put_wf, Laws.ParMem.putRaw_wf, Laws.ParMem.putAll_wf, implies_true, and_self])))

theorem modCmd_mem (s : State) (g : ObjCmd → ObjCmd)  (hm : MemOk s) : MemOk (modCmd s g) := by
  refine hm.touch (ps := [.abut]) ?_ (by decide) (by decide)
  apply modCmd_touch <;> first | exact Touches.refl _ _ | decide

theorem writeObjCmd_mem (s : State) (v : Word)  (hm : MemOk s) : MemOk (writeObjCmd s v) := by
  unfold writeObjCmd
  (try dsimp only)
  (repeat' split) <;> (first | simp (maxDischargeDepth := 40) +contextual only [hm, modCmd_mem, pumpCopies_mem, mem_foldl, mem_ite, mem_cond, modForme_mem, modGddr_mem, implies_true, and_self, Laws.gddrPutAll_wf, Laws.gddrPut_wf, memOk_phys, FormeOk.g, FormeOk.q, FormeOk.f, fok_foldl, fok_ite, fok_cond, Laws.ParMem.put_wf, Laws.ParMem.putRaw_wf, Laws.ParMem.putAll_wf, implies_true, and_self] | (have hx := objCommand_mem (by assumption) (by simp (maxDischargeDepth := 40) +contextual only [hm, modCmd_mem, pumpCopies_mem, mem_foldl, mem_ite, mem_cond, modForme_mem, modGddr_mem, implies_true, and_self, Laws.gddrPutAll_wf, Laws.gddrPut_wf, memOk_phys, FormeOk.g, FormeOk.q, FormeOk.f, fok_foldl, fok_ite, fok_cond, Laws.ParMem.put_wf, Laws.ParMem.putRaw_wf, Laws.ParMem.putAll_wf, implies_true, and_self]); simp (maxDischargeDepth := 40) +contextual only [hx, hm, modCmd_mem, pumpCopies_mem, mem_foldl, mem_ite, mem_cond, modForme_mem, modGddr_mem, implies_true, and_self, Laws.gddrPutAll_wf, Laws.gddrPut_wf, memOk_phys, FormeOk.g, FormeOk.q, FormeOk.f, fok_foldl, fok_ite, fok_cond, Laws.ParMem.put_wf, Laws.ParMem.putRaw_wf, Laws.ParMem.putAll_wf, implies_true, and_self]))

theorem doorbellError_mem (s : State)  (hm : MemOk s) : MemOk (doorbellError s) := by
  refine hm.touch (ps := [.colo]) ?_ (by decide) (by decide)
  apply doorbellError_touch <;> first | exact Touches.refl _ _ | decide

theorem ringSq_mem (s : State) (n : Nat) (x : BitVec 24)  (hm : MemOk s) : MemOk (ringSq s n x) := by
  unfold ringSq
  (try dsimp only)
  (repeat' split) <;> simp (maxDischargeDepth := 40) +contextual only [hm, doorbellError_mem, flushSq_mem, modQp_mem, mem_foldl, mem_ite, mem_cond, modForme_mem, modGddr_mem, implies_true, and_self, Laws.gddrPutAll_wf, Laws.gddrPut_wf, memOk_phys, FormeOk.g, FormeOk.q, FormeOk.f, fok_foldl, fok_ite, fok_cond, Laws.ParMem.put_wf, Laws.ParMem.putRaw_wf, Laws.ParMem.putAll_wf, implies_true, and_self]

theorem ringRq_mem (s : State) (n : Nat) (x : BitVec 24)  (hm : MemOk s) : MemOk (ringRq s n x) := by
  unfold ringRq
  (try dsimp only)
  (repeat' split) <;> simp (maxDischargeDepth := 40) +contextual only [hm, doorbellError_mem, flushRq_mem, modQp_mem, mem_foldl, mem_ite, mem_cond, modForme_mem, modGddr_mem, implies_true, and_self, Laws.gddrPutAll_wf, Laws.gddrPut_wf, memOk_phys, FormeOk.g, FormeOk.q, FormeOk.f, fok_foldl, fok_ite, fok_cond, Laws.ParMem.put_wf, Laws.ParMem.putRaw_wf, Laws.ParMem.putAll_wf, implies_true, and_self]

theorem ringSrq_mem (s : State) (n : Nat) (x : BitVec 24)  (hm : MemOk s) : MemOk (ringSrq s n x) := by
  refine hm.touch (ps := [.abut, .colo]) ?_ (by decide) (by decide)
  apply ringSrq_touch <;> first | exact Touches.refl _ _ | decide

theorem ringCq_mem (s : State) (n : Nat) (x : BitVec 24) (arm : Bool)  (hm : MemOk s) : MemOk (ringCq s n x arm) := by
  unfold ringCq
  (try dsimp only)
  (repeat' split) <;> simp (maxDischargeDepth := 40) +contextual only [hm, doorbellError_mem, flushCq_mem, modCq_mem, pumpCopies_mem, mem_foldl, mem_ite, mem_cond, modForme_mem, modGddr_mem, implies_true, and_self, Laws.gddrPutAll_wf, Laws.gddrPut_wf, memOk_phys, FormeOk.g, FormeOk.q, FormeOk.f, fok_foldl, fok_ite, fok_cond, Laws.ParMem.put_wf, Laws.ParMem.putRaw_wf, Laws.ParMem.putAll_wf, implies_true, and_self]

theorem writeDoorbell_mem (s : State) (v : Word)  (hm : MemOk s) : MemOk (writeDoorbell s v) := by
  unfold writeDoorbell
  (try dsimp only)
  (repeat' split) <;> simp (maxDischargeDepth := 40) +contextual only [hm, ringCq_mem, ringRq_mem, ringSq_mem, ringSrq_mem, mem_foldl, mem_ite, mem_cond, modForme_mem, modGddr_mem, implies_true, and_self, Laws.gddrPutAll_wf, Laws.gddrPut_wf, memOk_phys, FormeOk.g, FormeOk.q, FormeOk.f, fok_foldl, fok_ite, fok_cond, Laws.ParMem.put_wf, Laws.ParMem.putRaw_wf, Laws.ParMem.putAll_wf, implies_true, and_self]

theorem beginAcc_mem (s : State) (f : FormeIx) (s1 : State)  (hm : MemOk s1) : MemOk (beginAcc s f s1) := by
  unfold beginAcc
  (try dsimp only)
  (repeat' split) <;> simp (maxDischargeDepth := 40) +contextual only [hm, claimGrid_fok, stationary_fok, fok_pu, mem_foldl, mem_ite, mem_cond, modForme_mem, modGddr_mem, implies_true, and_self, Laws.gddrPutAll_wf, Laws.gddrPut_wf, memOk_phys, FormeOk.g, FormeOk.q, FormeOk.f, fok_foldl, fok_ite, fok_cond, Laws.ParMem.put_wf, Laws.ParMem.putRaw_wf, Laws.ParMem.putAll_wf, implies_true, and_self]

theorem paccEffect_mem (s : State) (f : FormeIx)  (hm : MemOk s) : MemOk (paccEffect s f) := by
  unfold paccEffect
  (try dsimp only)
  (repeat' split) <;> simp (maxDischargeDepth := 40) +contextual only [hm, beginAcc_mem, issueHead_mem, progError_mem, storedError_mem, mem_foldl, mem_ite, mem_cond, modForme_mem, modGddr_mem, implies_true, and_self, Laws.gddrPutAll_wf, Laws.gddrPut_wf, memOk_phys, FormeOk.g, FormeOk.q, FormeOk.f, fok_foldl, fok_ite, fok_cond, Laws.ParMem.put_wf, Laws.ParMem.putRaw_wf, Laws.ParMem.putAll_wf, implies_true, and_self]

theorem swapEffect_mem (s : State) (f : FormeIx) (p : Fin 4)  (hm : MemOk s) : MemOk (swapEffect s f p) := by
  unfold swapEffect
  (try dsimp only)
  (repeat' split) <;> simp (maxDischargeDepth := 40) +contextual only [hm, storedError_mem, dropWindow_fok, landWindow_fok, mem_foldl, mem_ite, mem_cond, modForme_mem, modGddr_mem, implies_true, and_self, Laws.gddrPutAll_wf, Laws.gddrPut_wf, memOk_phys, FormeOk.g, FormeOk.q, FormeOk.f, fok_foldl, fok_ite, fok_cond, Laws.ParMem.put_wf, Laws.ParMem.putRaw_wf, Laws.ParMem.putAll_wf, implies_true, and_self]

theorem drainWrite_mem (f : FormeIx) (d : DWord) (x : Side) (ds : List Dst) (s : State)  (hm : MemOk s) : MemOk (drainWrite f d x ds s) := by
  unfold drainWrite
  (try dsimp only)
  (repeat' split) <;> simp (maxDischargeDepth := 40) +contextual only [hm, convertRegion_mem, galleyWrite_mem, setFlush_mem, storeOut_mem, useFree_mem, clearTiles_fok, settleDrain_fok, mem_foldl, mem_ite, mem_cond, modForme_mem, modGddr_mem, implies_true, and_self, Laws.gddrPutAll_wf, Laws.gddrPut_wf, memOk_phys, FormeOk.g, FormeOk.q, FormeOk.f, fok_foldl, fok_ite, fok_cond, Laws.ParMem.put_wf, Laws.ParMem.putRaw_wf, Laws.ParMem.putAll_wf, implies_true, and_self]

theorem drainEffect_mem (s : State) (f : FormeIx)  (hm : MemOk s) : MemOk (drainEffect s f) := by
  unfold drainEffect
  (try dsimp only)
  (repeat' split) <;> simp (maxDischargeDepth := 40) +contextual only [hm, drainWrite_mem, progError_mem, runHead_mem, mem_foldl, mem_ite, mem_cond, modForme_mem, modGddr_mem, implies_true, and_self, Laws.gddrPutAll_wf, Laws.gddrPut_wf, memOk_phys, FormeOk.g, FormeOk.q, FormeOk.f, fok_foldl, fok_ite, fok_cond, Laws.ParMem.put_wf, Laws.ParMem.putRaw_wf, Laws.ParMem.putAll_wf, implies_true, and_self]

theorem tssaveEffect_mem (f : FormeIx) (t : TWord) (s : State)  (hm : MemOk s) : MemOk (tssaveEffect f t s) := by
  unfold tssaveEffect
  (try dsimp only)
  (repeat' split) <;> simp (maxDischargeDepth := 40) +contextual only [hm, galleyWrite_mem, mem_foldl, mem_ite, mem_cond, modForme_mem, modGddr_mem, implies_true, and_self, Laws.gddrPutAll_wf, Laws.gddrPut_wf, memOk_phys, FormeOk.g, FormeOk.q, FormeOk.f, fok_foldl, fok_ite, fok_cond, Laws.ParMem.put_wf, Laws.ParMem.putRaw_wf, Laws.ParMem.putAll_wf, implies_true, and_self]

theorem tsloadEffect_mem (f : FormeIx) (t : TWord) (s : State)  (hm : MemOk s) : MemOk (tsloadEffect f t s) := by
  unfold tsloadEffect
  (try dsimp only)
  (repeat' split) <;> simp (maxDischargeDepth := 40) +contextual only [hm, setTileWord_fok, mem_foldl, mem_ite, mem_cond, modForme_mem, modGddr_mem, implies_true, and_self, Laws.gddrPutAll_wf, Laws.gddrPut_wf, memOk_phys, FormeOk.g, FormeOk.q, FormeOk.f, fok_foldl, fok_ite, fok_cond, Laws.ParMem.put_wf, Laws.ParMem.putRaw_wf, Laws.ParMem.putAll_wf, implies_true, and_self]

theorem refuseWaiting_mem (s : State) (x : Folio)  (hm : MemOk s) : MemOk (refuseWaiting s x) := by
  unfold refuseWaiting
  (try dsimp only)
  (repeat' split) <;> simp (maxDischargeDepth := 40) +contextual only [hm, imposerEvent_mem, mem_foldl, mem_ite, mem_cond, modForme_mem, modGddr_mem, implies_true, and_self, Laws.gddrPutAll_wf, Laws.gddrPut_wf, memOk_phys, FormeOk.g, FormeOk.q, FormeOk.f, fok_foldl, fok_ite, fok_cond, Laws.ParMem.put_wf, Laws.ParMem.putRaw_wf, Laws.ParMem.putAll_wf, implies_true, and_self]

theorem dropFolio_mem (s : State) (x : Folio)  (hm : MemOk s) : MemOk (dropFolio s x) := by
  refine hm.touch (ps := [.imp]) ?_ (by decide) (by decide)
  apply dropFolio_touch <;> first | exact Touches.refl _ _ | decide

theorem endFolio_mem (s : State) (x : Folio) (k : EvKind) (reason : Nat)  (hm : MemOk s) : MemOk (endFolio s x k reason) := by
  unfold endFolio
  (try dsimp only)
  (repeat' split) <;> simp (maxDischargeDepth := 40) +contextual only [hm, dropFolio_mem, imposerEvent_mem, refuseWaiting_mem, relist_mem, freeForme_fok, mem_foldl, mem_ite, mem_cond, modForme_mem, modGddr_mem, implies_true, and_self, Laws.gddrPutAll_wf, Laws.gddrPut_wf, memOk_phys, FormeOk.g, FormeOk.q, FormeOk.f, fok_foldl, fok_ite, fok_cond, Laws.ParMem.put_wf, Laws.ParMem.putRaw_wf, Laws.ParMem.putAll_wf, implies_true, and_self]

theorem freeRange_mem (s : State) (r : Nat × Nat)  (hm : MemOk s) : MemOk (freeRange s r) := by
  unfold freeRange
  (try dsimp only)
  (repeat' split) <;> simp (maxDischargeDepth := 40) +contextual only [hm, localPutAll_mem, useFree_mem, mem_foldl, mem_ite, mem_cond, modForme_mem, modGddr_mem, implies_true, and_self, Laws.gddrPutAll_wf, Laws.gddrPut_wf, memOk_phys, FormeOk.g, FormeOk.q, FormeOk.f, fok_foldl, fok_ite, fok_cond, Laws.ParMem.put_wf, Laws.ParMem.putRaw_wf, Laws.ParMem.putAll_wf, implies_true, and_self]

theorem freeDests_mem (s : State) (f : FormeIx)  (hm : MemOk s) : MemOk (freeDests s f) := by
  unfold freeDests
  (try dsimp only)
  (repeat' split) <;> simp (maxDischargeDepth := 40) +contextual only [hm, freeRange_mem, mem_foldl, mem_ite, mem_cond, modForme_mem, modGddr_mem, implies_true, and_self, Laws.gddrPutAll_wf, Laws.gddrPut_wf, memOk_phys, FormeOk.g, FormeOk.q, FormeOk.f, fok_foldl, fok_ite, fok_cond, Laws.ParMem.put_wf, Laws.ParMem.putRaw_wf, Laws.ParMem.putAll_wf, implies_true, and_self]

theorem abortEffect_mem (s : State) (h : BitVec 16)  (hm : MemOk s) : MemOk (abortEffect s h) := by
  unfold abortEffect
  (try dsimp only)
  (repeat' split) <;> simp (maxDischargeDepth := 40) +contextual only [hm, bumpEnt_mem, endFolio_mem, freeDests_mem, raise_mem, mem_foldl, mem_ite, mem_cond, modForme_mem, modGddr_mem, implies_true, and_self, Laws.gddrPutAll_wf, Laws.gddrPut_wf, memOk_phys, FormeOk.g, FormeOk.q, FormeOk.f, fok_foldl, fok_ite, fok_cond, Laws.ParMem.put_wf, Laws.ParMem.putRaw_wf, Laws.ParMem.putAll_wf, implies_true, and_self]

theorem consume_mem (s : State)  (hm : MemOk s) : MemOk (consume s) := by
  refine hm.touch (ps := [.imp]) ?_ (by decide) (by decide)
  apply consume_touch <;> first | exact Touches.refl _ _ | decide

theorem refuse_mem (s : State) (h : BitVec 16) (reason : Nat) (fid : BitVec 32)  (hm : MemOk s) : MemOk (refuse s h reason fid) := by
  unfold refuse
  (try dsimp only)
  (repeat' split) <;> simp (maxDischargeDepth := 40) +contextual only [hm, imposerEvent_mem, mem_foldl, mem_ite, mem_cond, modForme_mem, modGddr_mem, implies_true, and_self, Laws.gddrPutAll_wf, Laws.gddrPut_wf, memOk_phys, FormeOk.g, FormeOk.q, FormeOk.f, fok_foldl, fok_ite, fok_cond, Laws.ParMem.put_wf, Laws.ParMem.putRaw_wf, Laws.ParMem.putAll_wf, implies_true, and_self]

theorem refuseUnreadable_mem (s : State) (h : BitVec 16) (addr : Nat) (fid : BitVec 32)  (hm : MemOk s) : MemOk (refuseUnreadable s h addr fid) := by
  unfold refuseUnreadable
  (try dsimp only)
  (repeat' split) <;> simp (maxDischargeDepth := 40) +contextual only [hm, gddrError_mem, refuse_mem, mem_foldl, mem_ite, mem_cond, modForme_mem, modGddr_mem, implies_true, and_self, Laws.gddrPutAll_wf, Laws.gddrPut_wf, memOk_phys, FormeOk.g, FormeOk.q, FormeOk.f, fok_foldl, fok_ite, fok_cond, Laws.ParMem.put_wf, Laws.ParMem.putRaw_wf, Laws.ParMem.putAll_wf, implies_true, and_self]

theorem submit_mem (s : State) (w : Nat) (resume : Bool)  (hm : MemOk s) : MemOk (submit s w resume) := by
  unfold submit
  (try dsimp only)
  (repeat' split) <;> simp (maxDischargeDepth := 40) +contextual only [hm, bumpEnt_mem, refuse_mem, refuseUnreadable_mem, mem_imp, mem_foldl, mem_ite, mem_cond, modForme_mem, modGddr_mem, implies_true, and_self, Laws.gddrPutAll_wf, Laws.gddrPut_wf, memOk_phys, FormeOk.g, FormeOk.q, FormeOk.f, fok_foldl, fok_ite, fok_cond, Laws.ParMem.put_wf, Laws.ParMem.putRaw_wf, Laws.ParMem.putAll_wf, implies_true, and_self]

theorem submitCmd_mem (s : State) (w : Nat) (resume : Bool)  (hm : MemOk s) : MemOk (submitCmd s w resume) := by
  unfold submitCmd
  (try dsimp only)
  (repeat' split) <;> simp (maxDischargeDepth := 40) +contextual only [hm, refuse_mem, submit_mem, mem_foldl, mem_ite, mem_cond, modForme_mem, modGddr_mem, implies_true, and_self, Laws.gddrPutAll_wf, Laws.gddrPut_wf, memOk_phys, FormeOk.g, FormeOk.q, FormeOk.f, fok_foldl, fok_ite, fok_cond, Laws.ParMem.put_wf, Laws.ParMem.putRaw_wf, Laws.ParMem.putAll_wf, implies_true, and_self]

theorem startEffect_mem (s : State)  (hm : MemOk s) : MemOk (startEffect s) := by
  unfold startEffect
  (try dsimp only)
  (repeat' split) <;> simp (maxDischargeDepth := 40) +contextual only [hm, consume_mem, refuse_mem, refuseUnreadable_mem, submitCmd_mem, mem_foldl, mem_ite, mem_cond, modForme_mem, modGddr_mem, implies_true, and_self, Laws.gddrPutAll_wf, Laws.gddrPut_wf, memOk_phys, FormeOk.g, FormeOk.q, FormeOk.f, fok_foldl, fok_ite, fok_cond, Laws.ParMem.put_wf, Laws.ParMem.putRaw_wf, Laws.ParMem.putAll_wf, implies_true, and_self]

theorem onFolio_mem (s : State) (w : Nat) (g : State → Folio → State) (hg : ∀ t y, MemOk t → MemOk (g t y)) (hm : MemOk s) : MemOk (onFolio s w g) := by
  unfold onFolio
  (try dsimp only)
  (repeat' split) <;> simp (maxDischargeDepth := 40) +contextual only [hm, hg, refuse_mem, mem_foldl, mem_ite, mem_cond, modForme_mem, modGddr_mem, implies_true, and_self, Laws.gddrPutAll_wf, Laws.gddrPut_wf, memOk_phys, FormeOk.g, FormeOk.q, FormeOk.f, fok_foldl, fok_ite, fok_cond, Laws.ParMem.put_wf, Laws.ParMem.putRaw_wf, Laws.ParMem.putAll_wf, implies_true, and_self]

theorem setFolioFormes_mem (s : State) (x : Folio) (st : FState)  (hm : MemOk s) : MemOk (setFolioFormes s x st) := by
  unfold setFolioFormes
  (try dsimp only)
  (repeat' split) <;> simp (maxDischargeDepth := 40) +contextual only [hm, fok_fe, mem_foldl, mem_ite, mem_cond, modForme_mem, modGddr_mem, implies_true, and_self, Laws.gddrPutAll_wf, Laws.gddrPut_wf, memOk_phys, FormeOk.g, FormeOk.q, FormeOk.f, fok_foldl, fok_ite, fok_cond, Laws.ParMem.put_wf, Laws.ParMem.putRaw_wf, Laws.ParMem.putAll_wf, implies_true, and_self]

theorem requestPause_mem (s : State) (x : Folio) (save : Bool) (base : BitVec 40)  (hm : MemOk s) : MemOk (requestPause s x save base) := by
  unfold requestPause
  (try dsimp only)
  (repeat' split) <;> simp (maxDischargeDepth := 40) +contextual only [hm, modFolio_mem, refuse_mem, setFolioFormes_mem, mem_foldl, mem_ite, mem_cond, modForme_mem, modGddr_mem, implies_true, and_self, Laws.gddrPutAll_wf, Laws.gddrPut_wf, memOk_phys, FormeOk.g, FormeOk.q, FormeOk.f, fok_foldl, fok_ite, fok_cond, Laws.ParMem.put_wf, Laws.ParMem.putRaw_wf, Laws.ParMem.putAll_wf, implies_true, and_self]

theorem writeImages_mem {s : State} {x : Folio} {idle : Bool} {t : State} (he : writeImages s x idle = .inl t ∨ writeImages s x idle = .inr t)  (hm : MemOk s) : MemOk t := by
  revert he
  unfold writeImages
  (try dsimp only)
  (repeat' split) <;> intro he <;> (rcases he with he | he) <;> (first | contradiction | (injection he with he; subst he; first | simp (maxDischargeDepth := 40) +contextual only [hm, storedError_mem, mem_gddr, mem_foldl, mem_ite, mem_cond, modForme_mem, modGddr_mem, implies_true, and_self, Laws.gddrPutAll_wf, Laws.gddrPut_wf, memOk_phys, FormeOk.g, FormeOk.q, FormeOk.f, fok_foldl, fok_ite, fok_cond, Laws.ParMem.put_wf, Laws.ParMem.putRaw_wf, Laws.ParMem.putAll_wf, implies_true, and_self]))

theorem pausedEffect_mem (s : State) (h : BitVec 16)  (hm : MemOk s) : MemOk (pausedEffect s h) := by
  unfold pausedEffect
  (try dsimp only)
  (repeat' split) <;> simp (maxDischargeDepth := 40) +contextual only [hm, imposerEvent_mem, modFolio_mem, setFolioFormes_mem, mem_foldl, mem_ite, mem_cond, modForme_mem, modGddr_mem, implies_true, and_self, Laws.gddrPutAll_wf, Laws.gddrPut_wf, memOk_phys, FormeOk.g, FormeOk.q, FormeOk.f, fok_foldl, fok_ite, fok_cond, Laws.ParMem.put_wf, Laws.ParMem.putRaw_wf, Laws.ParMem.putAll_wf, implies_true, and_self]

theorem saveEffect_mem (s : State) (h : BitVec 16)  (hm : MemOk s) : MemOk (saveEffect s h) := by
  unfold saveEffect
  (try dsimp only)
  (repeat' split) <;> (first | simp (maxDischargeDepth := 40) +contextual only [hm, endFolio_mem, modFolio_mem, mem_foldl, mem_ite, mem_cond, modForme_mem, modGddr_mem, implies_true, and_self, Laws.gddrPutAll_wf, Laws.gddrPut_wf, memOk_phys, FormeOk.g, FormeOk.q, FormeOk.f, fok_foldl, fok_ite, fok_cond, Laws.ParMem.put_wf, Laws.ParMem.putRaw_wf, Laws.ParMem.putAll_wf, implies_true, and_self] | (have hx := writeImages_mem (.inl (by assumption)) (by simp (maxDischargeDepth := 40) +contextual only [hm, endFolio_mem, modFolio_mem, mem_foldl, mem_ite, mem_cond, modForme_mem, modGddr_mem, implies_true, and_self, Laws.gddrPutAll_wf, Laws.gddrPut_wf, memOk_phys, FormeOk.g, FormeOk.q, FormeOk.f, fok_foldl, fok_ite, fok_cond, Laws.ParMem.put_wf, Laws.ParMem.putRaw_wf, Laws.ParMem.putAll_wf, implies_true, and_self]); simp (maxDischargeDepth := 40) +contextual only [hx, hm, endFolio_mem, modFolio_mem, mem_foldl, mem_ite, mem_cond, modForme_mem, modGddr_mem, implies_true, and_self, Laws.gddrPutAll_wf, Laws.gddrPut_wf, memOk_phys, FormeOk.g, FormeOk.q, FormeOk.f, fok_foldl, fok_ite, fok_cond, Laws.ParMem.put_wf, Laws.ParMem.putRaw_wf, Laws.ParMem.putAll_wf, implies_true, and_self]) | (have hx := writeImages_mem (.inr (by assumption)) (by simp (maxDischargeDepth := 40) +contextual only [hm, endFolio_mem, modFolio_mem, mem_foldl, mem_ite, mem_cond, modForme_mem, modGddr_mem, implies_true, and_self, Laws.gddrPutAll_wf, Laws.gddrPut_wf, memOk_phys, FormeOk.g, FormeOk.q, FormeOk.f, fok_foldl, fok_ite, fok_cond, Laws.ParMem.put_wf, Laws.ParMem.putRaw_wf, Laws.ParMem.putAll_wf, implies_true, and_self]); simp (maxDischargeDepth := 40) +contextual only [hx, hm, endFolio_mem, modFolio_mem, mem_foldl, mem_ite, mem_cond, modForme_mem, modGddr_mem, implies_true, and_self, Laws.gddrPutAll_wf, Laws.gddrPut_wf, memOk_phys, FormeOk.g, FormeOk.q, FormeOk.f, fok_foldl, fok_ite, fok_cond, Laws.ParMem.put_wf, Laws.ParMem.putRaw_wf, Laws.ParMem.putAll_wf, implies_true, and_self]))

theorem folioDoneEffect_mem (s : State) (h : BitVec 16)  (hm : MemOk s) : MemOk (folioDoneEffect s h) := by
  unfold folioDoneEffect
  (try dsimp only)
  (repeat' split) <;> (first | simp (maxDischargeDepth := 40) +contextual only [hm, endFolio_mem, mem_foldl, mem_ite, mem_cond, modForme_mem, modGddr_mem, implies_true, and_self, Laws.gddrPutAll_wf, Laws.gddrPut_wf, memOk_phys, FormeOk.g, FormeOk.q, FormeOk.f, fok_foldl, fok_ite, fok_cond, Laws.ParMem.put_wf, Laws.ParMem.putRaw_wf, Laws.ParMem.putAll_wf, implies_true, and_self] | (have hx := writeImages_mem (.inl (by assumption)) (by simp (maxDischargeDepth := 40) +contextual only [hm, endFolio_mem, mem_foldl, mem_ite, mem_cond, modForme_mem, modGddr_mem, implies_true, and_self, Laws.gddrPutAll_wf, Laws.gddrPut_wf, memOk_phys, FormeOk.g, FormeOk.q, FormeOk.f, fok_foldl, fok_ite, fok_cond, Laws.ParMem.put_wf, Laws.ParMem.putRaw_wf, Laws.ParMem.putAll_wf, implies_true, and_self]); simp (maxDischargeDepth := 40) +contextual only [hx, hm, endFolio_mem, mem_foldl, mem_ite, mem_cond, modForme_mem, modGddr_mem, implies_true, and_self, Laws.gddrPutAll_wf, Laws.gddrPut_wf, memOk_phys, FormeOk.g, FormeOk.q, FormeOk.f, fok_foldl, fok_ite, fok_cond, Laws.ParMem.put_wf, Laws.ParMem.putRaw_wf, Laws.ParMem.putAll_wf, implies_true, and_self]) | (have hx := writeImages_mem (.inr (by assumption)) (by simp (maxDischargeDepth := 40) +contextual only [hm, endFolio_mem, mem_foldl, mem_ite, mem_cond, modForme_mem, modGddr_mem, implies_true, and_self, Laws.gddrPutAll_wf, Laws.gddrPut_wf, memOk_phys, FormeOk.g, FormeOk.q, FormeOk.f, fok_foldl, fok_ite, fok_cond, Laws.ParMem.put_wf, Laws.ParMem.putRaw_wf, Laws.ParMem.putAll_wf, implies_true, and_self]); simp (maxDischargeDepth := 40) +contextual only [hx, hm, endFolio_mem, mem_foldl, mem_ite, mem_cond, modForme_mem, modGddr_mem, implies_true, and_self, Laws.gddrPutAll_wf, Laws.gddrPut_wf, memOk_phys, FormeOk.g, FormeOk.q, FormeOk.f, fok_foldl, fok_ite, fok_cond, Laws.ParMem.put_wf, Laws.ParMem.putRaw_wf, Laws.ParMem.putAll_wf, implies_true, and_self]))

theorem reloadSlot_mem (f : FormeIx) (k : Nat) (s : State) (p : Fin 8 × FountSlot)  (hm : MemOk s) : MemOk (reloadSlot f k s p) := by
  unfold reloadSlot
  (try dsimp only)
  (repeat' split) <;> simp (maxDischargeDepth := 40) +contextual only [hm, fok_vu, mem_foldl, mem_ite, mem_cond, modForme_mem, modGddr_mem, implies_true, and_self, Laws.gddrPutAll_wf, Laws.gddrPut_wf, memOk_phys, FormeOk.g, FormeOk.q, FormeOk.f, fok_foldl, fok_ite, fok_cond, Laws.ParMem.put_wf, Laws.ParMem.putRaw_wf, Laws.ParMem.putAll_wf, implies_true, and_self]

theorem restoreForme_mem (x : Folio) (s : State) (p : FormeIx × Nat)  (hm : MemOk s) : MemOk (restoreForme x s p) := by
  unfold restoreForme
  (try dsimp only)
  (repeat' split) <;> simp (maxDischargeDepth := 40) +contextual only [hm, reloadSlot_mem, restoreMem_fok, restoreRun_fok, mem_foldl, mem_ite, mem_cond, modForme_mem, modGddr_mem, implies_true, and_self, Laws.gddrPutAll_wf, Laws.gddrPut_wf, memOk_phys, FormeOk.g, FormeOk.q, FormeOk.f, fok_foldl, fok_ite, fok_cond, Laws.ParMem.put_wf, Laws.ParMem.putRaw_wf, Laws.ParMem.putAll_wf, implies_true, and_self]

theorem retireBank_mem (s : State) (f : FormeIx) (hm : MemOk s) : MemOk (retireBank s f) := by
  unfold retireBank
  dsimp only
  split
  · exact useFree_mem _ _ (modForme_mem (fun fm h => ⟨rfl, h.2⟩) hm)
  · exact hm

theorem startFolio_mem (s : State) (x : Folio) (op : Nat)  (hm : MemOk s) : MemOk (startFolio s x op) := by
  unfold startFolio
  (try dsimp only)
  (repeat' split) <;> simp (maxDischargeDepth := 40) +contextual only [hm, bumpEnt_mem, dropFolio_mem, imposerEvent_mem, modFolio_mem, refuse_mem, refuseUnreadable_mem, relist_mem, restoreForme_mem, retireBank_mem, useFree_mem, retirePresses_fok, startForme_fok, mem_foldl, mem_ite, mem_cond, modForme_mem, modGddr_mem, implies_true, and_self, Laws.gddrPutAll_wf, Laws.gddrPut_wf, memOk_phys, FormeOk.g, FormeOk.q, FormeOk.f, fok_foldl, fok_ite, fok_cond, Laws.ParMem.put_wf, Laws.ParMem.putRaw_wf, Laws.ParMem.putAll_wf, implies_true, and_self]

theorem tryStart_mem (s : State) (x : Folio) (op : Nat)  (hm : MemOk s) : MemOk (tryStart s x op) := by
  unfold tryStart
  (try dsimp only)
  (repeat' split) <;> simp (maxDischargeDepth := 40) +contextual only [hm, startFolio_mem, mem_foldl, mem_ite, mem_cond, modForme_mem, modGddr_mem, implies_true, and_self, Laws.gddrPutAll_wf, Laws.gddrPut_wf, memOk_phys, FormeOk.g, FormeOk.q, FormeOk.f, fok_foldl, fok_ite, fok_cond, Laws.ParMem.put_wf, Laws.ParMem.putRaw_wf, Laws.ParMem.putAll_wf, implies_true, and_self]

theorem startCadence_mem (s : State) (xs : List Folio) (hm : MemOk s) : MemOk (startCadence s xs) := by
  unfold startCadence
  refine mem_foldl ?_ hm
  intro t x ht
  split
  · exact tryStart_mem _ _ _ ht
  · exact ht

theorem scanWindow_mem (a b : List Folio) (s : State) (hm : MemOk s) : MemOk (scanWindow a b s).1 := by
  induction b generalizing a s with
  | nil => exact hm
  | cons x t ih =>
    unfold scanWindow
    dsimp only
    split
    · apply ih
      refine mem_foldl ?_ (tryStart_mem _ _ _ hm)
      intro u y hu
      split
      · exact modFolio_mem _ _ _ hu
      · exact hu
    · split <;> split <;> first | exact hm | exact ih _ _ hm

theorem choose_mem (s : State)  (hm : MemOk s) : MemOk (choose s) := by
  unfold choose
  (try dsimp only)
  (repeat' split) <;> simp (maxDischargeDepth := 40) +contextual only [hm, scanWindow_mem, startCadence_mem, tryStart_mem, mem_foldl, mem_ite, mem_cond, modForme_mem, modGddr_mem, implies_true, and_self, Laws.gddrPutAll_wf, Laws.gddrPut_wf, memOk_phys, FormeOk.g, FormeOk.q, FormeOk.f, fok_foldl, fok_ite, fok_cond, Laws.ParMem.put_wf, Laws.ParMem.putRaw_wf, Laws.ParMem.putAll_wf, implies_true, and_self]

theorem writeCmdRing_mem (s : State) (v : Word)  (hm : MemOk s) : MemOk (writeCmdRing s v) := by
  refine hm.touch (ps := [.imp]) ?_ (by decide) (by decide)
  apply writeCmdRing_touch <;> first | exact Touches.refl _ _ | decide

theorem writeEvtRing_mem (s : State) (v : Word)  (hm : MemOk s) : MemOk (writeEvtRing s v) := by
  unfold writeEvtRing
  (try dsimp only)
  (repeat' split) <;> simp (maxDischargeDepth := 40) +contextual only [hm, flushEvents_mem, mem_imp, mem_foldl, mem_ite, mem_cond, modForme_mem, modGddr_mem, implies_true, and_self, Laws.gddrPutAll_wf, Laws.gddrPut_wf, memOk_phys, FormeOk.g, FormeOk.q, FormeOk.f, fok_foldl, fok_ite, fok_cond, Laws.ParMem.put_wf, Laws.ParMem.putRaw_wf, Laws.ParMem.putAll_wf, implies_true, and_self]

theorem cmdBell_mem (s : State) (v : Word)  (hm : MemOk s) : MemOk (cmdBell s v) := by
  refine hm.touch (ps := [.imp]) ?_ (by decide) (by decide)
  apply cmdBell_touch <;> first | exact Touches.refl _ _ | decide

theorem evtBell_mem (s : State) (v : Word)  (hm : MemOk s) : MemOk (evtBell s v) := by
  unfold evtBell
  (try dsimp only)
  (repeat' split) <;> simp (maxDischargeDepth := 40) +contextual only [hm, flushEvents_mem, mem_imp, mem_foldl, mem_ite, mem_cond, modForme_mem, modGddr_mem, implies_true, and_self, Laws.gddrPutAll_wf, Laws.gddrPut_wf, memOk_phys, FormeOk.g, FormeOk.q, FormeOk.f, fok_foldl, fok_ite, fok_cond, Laws.ParMem.put_wf, Laws.ParMem.putRaw_wf, Laws.ParMem.putAll_wf, implies_true, and_self]

theorem moveOp_mem (s : State) (h : BitVec 16) (op : Nat)  (hm : MemOk s) : MemOk (moveOp s h op) := by
  refine hm.touch (ps := [.imp, .colo]) ?_ (by decide) (by decide)
  apply moveOp_touch <;> first | exact Touches.refl _ _ | decide

theorem lowerOne_mem (s : State)  (hm : MemOk s) : MemOk (lowerOne s) := by
  refine hm.touch (ps := [.imp, .colo]) ?_ (by decide) (by decide)
  apply lowerOne_touch <;> first | exact Touches.refl _ _ | decide

theorem raiseOne_mem (s : State)  (hm : MemOk s) : MemOk (raiseOne s) := by
  refine hm.touch (ps := [.imp, .colo]) ?_ (by decide) (by decide)
  apply raiseOne_touch <;> first | exact Touches.refl _ _ | decide

theorem controlEffect_mem (s : State) (watts : Nat)  (hm : MemOk s) : MemOk (controlEffect s watts) := by
  refine hm.touch (ps := [.imp, .colo]) ?_ (by decide) (by decide)
  apply controlEffect_touch <;> first | exact Touches.refl _ _ | decide

theorem capOps_mem (s : State) (op : Nat)  (hm : MemOk s) : MemOk (capOps s op) := by
  refine hm.touch (ps := [.imp]) ?_ (by decide) (by decide)
  apply capOps_touch <;> first | exact Touches.refl _ _ | decide

theorem limitEffect_mem (s : State)  (hm : MemOk s) : MemOk (limitEffect s) := by
  refine hm.touch (ps := [.imp, .colo]) ?_ (by decide) (by decide)
  apply limitEffect_touch <;> first | exact Touches.refl _ _ | decide

theorem thermalEffect_mem (s : State) (dieMc memMc : Int)  (hm : MemOk s) : MemOk (thermalEffect s dieMc memMc) := by
  refine hm.touch (ps := [.imp]) ?_ (by decide) (by decide)
  apply thermalEffect_touch <;> first | exact Touches.refl _ _ | decide

theorem svcStart_mem (s : State) (i : Fin 64)  (hm : MemOk s) : MemOk (svcStart s i) := by
  refine hm.touch (ps := [.svc]) ?_ (by decide) (by decide)
  apply svcStart_touch <;> first | exact Touches.refl _ _ | decide

theorem svcStop_mem (s : State) (i : Fin 64)  (hm : MemOk s) : MemOk (svcStop s i) := by
  refine hm.touch (ps := [.svc]) ?_ (by decide) (by decide)
  apply svcStop_touch <;> first | exact Touches.refl _ _ | decide

theorem svcLoadEffect_mem (s : State) (i : Fin 64) (r : LoadReport)  (hm : MemOk s) : MemOk (svcLoadEffect s i r) := by
  refine hm.touch (ps := [.svc, .colo]) ?_ (by decide) (by decide)
  apply svcLoadEffect_touch <;> first | exact Touches.refl _ _ | decide

theorem instanceMark_mem (s : State) (k : Nat) (repeating : Bool) (sts : List Stream)  (hm : MemOk s) : MemOk (instanceMark s k repeating sts) := by
  unfold instanceMark
  (try dsimp only)
  (repeat' split) <;> simp (maxDischargeDepth := 40) +contextual only [hm, runtimeMark_mem, mem_foldl, mem_ite, mem_cond, modForme_mem, modGddr_mem, implies_true, and_self, Laws.gddrPutAll_wf, Laws.gddrPut_wf, memOk_phys, FormeOk.g, FormeOk.q, FormeOk.f, fok_foldl, fok_ite, fok_cond, Laws.ParMem.put_wf, Laws.ParMem.putRaw_wf, Laws.ParMem.putAll_wf, implies_true, and_self]

theorem skipReplies_mem (s : State) (i : Fin 64) (sts : List Stream)  (hm : MemOk s) : MemOk (skipReplies s i sts) := by
  refine hm.touch (ps := [.free, .out, .colo]) ?_ (by decide) (by decide)
  apply skipReplies_touch <;> first | exact Touches.refl _ _ | decide

theorem dropWaiting_mem (s : State) (i : Fin 64)  (hm : MemOk s) : MemOk (dropWaiting s i) := by
  refine hm.touch (ps := [.free, .out, .svc, .colo]) ?_ (by decide) (by decide)
  apply dropWaiting_touch <;> first | exact Touches.refl _ _ | decide

theorem waitInstance_mem (s : State) (i : Fin 64) (n : Instance)  (hm : MemOk s) : MemOk (waitInstance s i n) := by
  refine hm.touch (ps := [.free, .out, .svc, .colo]) ?_ (by decide) (by decide)
  apply waitInstance_touch <;> first | exact Touches.refl _ _ | decide

theorem startInstance_mem (s : State) (i : Fin 64)  (hm : MemOk s) : MemOk (startInstance s i) := by
  unfold startInstance
  (try dsimp only)
  (repeat' split) <;> simp (maxDischargeDepth := 40) +contextual only [hm, instanceMark_mem, modSvc_mem, skipReplies_mem, waitInstance_mem, mem_foldl, mem_ite, mem_cond, modForme_mem, modGddr_mem, implies_true, and_self, Laws.gddrPutAll_wf, Laws.gddrPut_wf, memOk_phys, FormeOk.g, FormeOk.q, FormeOk.f, fok_foldl, fok_ite, fok_cond, Laws.ParMem.put_wf, Laws.ParMem.putRaw_wf, Laws.ParMem.putAll_wf, implies_true, and_self]

theorem endInstance_mem (s : State) (i : Fin 64)  (hm : MemOk s) : MemOk (endInstance s i) := by
  refine hm.touch (ps := [.svc]) ?_ (by decide) (by decide)
  apply endInstance_touch <;> first | exact Touches.refl _ _ | decide

theorem resultFor_mem (s : State) (i : Fin 64) (r : Req) (body : List Byte)  (hm : MemOk s) : MemOk (resultFor s i r body) := by
  refine hm.touch (ps := [.free, .out, .svc, .colo]) ?_ (by decide) (by decide)
  apply resultFor_touch <;> first | exact Touches.refl _ _ | decide

theorem resultForPartner_mem (s : State) (i : Fin 64) (reqId : Word) (body : List Byte)  (hm : MemOk s) : MemOk (resultForPartner s i reqId body) := by
  refine hm.touch (ps := [.out, .svc]) ?_ (by decide) (by decide)
  apply resultForPartner_touch <;> first | exact Touches.refl _ _ | decide

theorem replyIn_mem (s : State) (r : Reply)  (hm : MemOk s) : MemOk (replyIn s r) := by
  refine hm.touch (ps := [.free, .out, .svc, .colo]) ?_ (by decide) (by decide)
  apply replyIn_touch <;> first | exact Touches.refl _ _ | decide

theorem valuesIn_mem (s : State) (i : Fin 64) (reqId : Word) (crc len : BitVec 32)  (hm : MemOk s) : MemOk (valuesIn s i reqId crc len) := by
  refine hm.touch (ps := [.free, .out, .svc, .colo]) ?_ (by decide) (by decide)
  apply valuesIn_touch <;> first | exact Touches.refl _ _ | decide

theorem sendUnchecked_mem (s : State) (i : Fin 64) (reqId : Word)  (hm : MemOk s) : MemOk (sendUnchecked s i reqId) := by
  refine hm.touch (ps := [.free, .out, .svc, .colo]) ?_ (by decide) (by decide)
  apply sendUnchecked_touch <;> first | exact Touches.refl _ _ | decide

theorem spreadTakes_mem (s : State) (i : Fin 64)  (hm : MemOk s) : MemOk (spreadTakes s i) := by
  refine hm.touch (ps := [.free, .svc, .colo]) ?_ (by decide) (by decide)
  apply spreadTakes_touch <;> first | exact Touches.refl _ _ | decide

theorem mirrorTakes_mem (s : State) (i : Fin 64)  (hm : MemOk s) : MemOk (mirrorTakes s i) := by
  refine hm.touch (ps := [.free, .out, .svc, .colo]) ?_ (by decide) (by decide)
  apply mirrorTakes_touch <;> first | exact Touches.refl _ _ | decide

theorem svcLosesDie_mem (d : Nat) (s : State) (i : Fin 64)  (hm : MemOk s) : MemOk (svcLosesDie d s i) := by
  refine hm.touch (ps := [.free, .out, .svc, .colo]) ?_ (by decide) (by decide)
  apply svcLosesDie_touch <;> first | exact Touches.refl _ _ | decide

theorem servicesLoseDie_mem (s : State) (d : Nat)  (hm : MemOk s) : MemOk (servicesLoseDie s d) := by
  refine hm.touch (ps := [.free, .out, .svc, .colo]) ?_ (by decide) (by decide)
  apply servicesLoseDie_touch <;> first | exact Touches.refl _ _ | decide

theorem setTag_mem (s : State) (g : Nat) (e : TagEntry)  (hm : MemOk s) : MemOk (setTag s g e) := by
  refine hm.touch (ps := [.tbl]) ?_ (by decide) (by decide)
  apply setTag_touch <;> first | exact Touches.refl _ _ | decide

theorem requestClose_mem (s : State)  (hm : MemOk s) : MemOk (requestClose s) := by
  refine hm.touch (ps := [.proof]) ?_ (by decide) (by decide)
  apply requestClose_touch <;> first | exact Touches.refl _ _ | decide

theorem closeTag_mem (s : State) (g : Nat)  (hm : MemOk s) : MemOk (closeTag s g) := by
  refine hm.touch (ps := [.out, .tbl, .proof, .cores, .colo]) ?_ (by decide) (by decide)
  apply closeTag_touch <;> first | exact Touches.refl _ _ | decide

theorem closeEffect_mem (s : State)  (hm : MemOk s) : MemOk (closeEffect s) := by
  refine hm.touch (ps := [.out, .tbl, .proof, .cores, .colo]) ?_ (by decide) (by decide)
  apply closeEffect_touch <;> first | exact Touches.refl _ _ | decide

theorem accEventsReadEffect_mem (s : State) (f : FormeIx)  (hm : MemOk s) : MemOk (accEventsReadEffect s f) := by
  unfold accEventsReadEffect
  (try dsimp only)
  (repeat' split) <;> simp (maxDischargeDepth := 40) +contextual only [hm, emit_mem, readData_mem, fok_pu, mem_foldl, mem_ite, mem_cond, modForme_mem, modGddr_mem, implies_true, and_self, Laws.gddrPutAll_wf, Laws.gddrPut_wf, memOk_phys, FormeOk.g, FormeOk.q, FormeOk.f, fok_foldl, fok_ite, fok_cond, Laws.ParMem.put_wf, Laws.ParMem.putRaw_wf, Laws.ParMem.putAll_wf, implies_true, and_self]

theorem modPort_mem (s : State) (p : Fin 11) (g : Port → Port)  (hm : MemOk s) : MemOk (modPort s p g) := by
  refine hm.touch (ps := [.span]) ?_ (by decide) (by decide)
  apply modPort_touch <;> first | exact Touches.refl _ _ | decide

theorem writeOwnRoutes_mem (s : State)  (hm : MemOk s) : MemOk (writeOwnRoutes s) := by
  refine hm.touch (ps := [.tbl]) ?_ (by decide) (by decide)
  apply writeOwnRoutes_touch <;> first | exact Touches.refl _ _ | decide

theorem updateRoutes_mem (s : State)  (hm : MemOk s) : MemOk (updateRoutes s) := by
  refine hm.touch (ps := [.tbl]) ?_ (by decide) (by decide)
  apply updateRoutes_touch <;> first | exact Touches.refl _ _ | decide

theorem takePacket_mem (s : State) (p : Fin 11) (typ : Nat)  (hm : MemOk s) : MemOk (takePacket s p typ) := by
  refine hm.touch (ps := [.span]) ?_ (by decide) (by decide)
  apply takePacket_touch <;> first | exact Touches.refl _ _ | decide

theorem refusePacket_mem (s : State) (k : SpanPacket) (r : Nack)  (hm : MemOk s) : MemOk (refusePacket s k r) := by
  refine hm.touch (ps := [.out, .span, .colo]) ?_ (by decide) (by decide)
  apply refusePacket_touch <;> first | exact Touches.refl _ _ | decide

theorem forwardPacket_mem (s : State) (p : Fin 11) (k : SpanPacket)  (hm : MemOk s) : MemOk (forwardPacket s p k) := by
  refine hm.touch (ps := [.out, .span, .colo]) ?_ (by decide) (by decide)
  apply forwardPacket_touch <;> first | exact Touches.refl _ _ | decide

theorem onPacket_mem (s : State) (p : Fin 11) (typ : Nat) (bad good : State → SpanPacket → State)
    (hb : ∀ t y, MemOk t → MemOk (bad t y)) (hg : ∀ t y, MemOk t → MemOk (good t y)) (hm : MemOk s) :
    MemOk (onPacket s p typ bad good) := by
  have h1 : MemOk (takePacket s p typ) := takePacket_mem _ _ _ hm
  unfold onPacket
  dsimp only
  (repeat' split)
  · exact hm
  · exact forwardPacket_mem _ _ _ h1
  · exact bumpEnt_mem _ _ _ _ _ h1
  · exact hb _ _ h1
  · exact hg _ _ h1

theorem answerCorrupt_mem (s : State) (k : SpanPacket)  (hm : MemOk s) : MemOk (answerCorrupt s k) := by
  refine hm.touch (ps := [.out, .span, .colo]) ?_ (by decide) (by decide)
  apply answerCorrupt_touch <;> first | exact Touches.refl _ _ | decide

theorem dropPartials_mem (s : State) (src : BitVec 12)  (hm : MemOk s) : MemOk (dropPartials s src) := by
  refine hm.touch (ps := [.span]) ?_ (by decide) (by decide)
  apply dropPartials_touch <;> first | exact Touches.refl _ _ | decide

theorem rxDiscard_mem (s : State)  (hm : MemOk s) : MemOk (rxDiscard s) := by
  refine hm.touch (ps := [.colo]) ?_ (by decide) (by decide)
  apply rxDiscard_touch <;> first | exact Touches.refl _ _ | decide

theorem recordDatagram_mem {s : State} {body : EthBody} {t : State} (he : recordDatagram s body = some t)  (hm : MemOk s) : MemOk t := by
  revert he
  unfold recordDatagram
  (try dsimp only)
  (repeat' split) <;> intro he <;> (first | contradiction | exact recordInput_mem he (by simp (maxDischargeDepth := 40) +contextual only [hm, mem_foldl, mem_ite, mem_cond, modForme_mem, modGddr_mem, implies_true, and_self, Laws.gddrPutAll_wf, Laws.gddrPut_wf, memOk_phys, FormeOk.g, FormeOk.q, FormeOk.f, fok_foldl, fok_ite, fok_cond, Laws.ParMem.put_wf, Laws.ParMem.putRaw_wf, Laws.ParMem.putAll_wf, implies_true, and_self]) | (injection he with he; subst he; first | simp (maxDischargeDepth := 40) +contextual only [hm, mem_foldl, mem_ite, mem_cond, modForme_mem, modGddr_mem, implies_true, and_self, Laws.gddrPutAll_wf, Laws.gddrPut_wf, memOk_phys, FormeOk.g, FormeOk.q, FormeOk.f, fok_foldl, fok_ite, fok_cond, Laws.ParMem.put_wf, Laws.ParMem.putRaw_wf, Laws.ParMem.putAll_wf, implies_true, and_self] | (have hx := recordInput_mem (by assumption) (by simp (maxDischargeDepth := 40) +contextual only [hm, mem_foldl, mem_ite, mem_cond, modForme_mem, modGddr_mem, implies_true, and_self, Laws.gddrPutAll_wf, Laws.gddrPut_wf, memOk_phys, FormeOk.g, FormeOk.q, FormeOk.f, fok_foldl, fok_ite, fok_cond, Laws.ParMem.put_wf, Laws.ParMem.putRaw_wf, Laws.ParMem.putAll_wf, implies_true, and_self]); simp (maxDischargeDepth := 40) +contextual only [hx, hm, mem_foldl, mem_ite, mem_cond, modForme_mem, modGddr_mem, implies_true, and_self, Laws.gddrPutAll_wf, Laws.gddrPut_wf, memOk_phys, FormeOk.g, FormeOk.q, FormeOk.f, fok_foldl, fok_ite, fok_cond, Laws.ParMem.put_wf, Laws.ParMem.putRaw_wf, Laws.ParMem.putAll_wf, implies_true, and_self])))

theorem datagramDone_mem (s : State) (status bytes time : Nat)  (hm : MemOk s) : MemOk (datagramDone s status bytes time) := by
  unfold datagramDone
  (try dsimp only)
  (repeat' split) <;> simp (maxDischargeDepth := 40) +contextual only [hm, complete_mem, mem_foldl, mem_ite, mem_cond, modForme_mem, modGddr_mem, implies_true, and_self, Laws.gddrPutAll_wf, Laws.gddrPut_wf, memOk_phys, FormeOk.g, FormeOk.q, FormeOk.f, fok_foldl, fok_ite, fok_cond, Laws.ParMem.put_wf, Laws.ParMem.putRaw_wf, Laws.ParMem.putAll_wf, implies_true, and_self]

theorem datagramRequest_mem (s : State) (time : Nat) (body : EthBody)  (hm : MemOk s) : MemOk (datagramRequest s time body) := by
  unfold datagramRequest
  (try dsimp only)
  (repeat' split) <;> simp (maxDischargeDepth := 40) +contextual only [hm, requestIn_mem, mem_foldl, mem_ite, mem_cond, modForme_mem, modGddr_mem, implies_true, and_self, Laws.gddrPutAll_wf, Laws.gddrPut_wf, memOk_phys, FormeOk.g, FormeOk.q, FormeOk.f, fok_foldl, fok_ite, fok_cond, Laws.ParMem.put_wf, Laws.ParMem.putRaw_wf, Laws.ParMem.putAll_wf, implies_true, and_self]

theorem datagram_mem (s : State) (time : Nat) (bytes : List Byte) (body : EthBody) (hm : MemOk s) :
    MemOk (datagram s time bytes body) := by
  unfold datagram
  split
  · exact rxDiscard_mem _ hm
  · split
    · exact rxDiscard_mem _ hm
    · rename_i heq
      have h1 := takeSrq_mem heq hm
      split
      · exact datagramDone_mem _ _ _ _ h1
      · split
        · exact datagramDone_mem _ _ _ _ h1
        · split
          · exact hm
          · rename_i h2
            have h3 := recordDatagram_mem h2 h1
            simp (maxDischargeDepth := 40) only [datagramRequest_mem, datagramDone_mem, gddrStore_mem, h3]

theorem sendCnp_mem (s : State) (n : Nat)  (hm : MemOk s) : MemOk (sendCnp s n) := by
  refine hm.touch (ps := [.out, .span, .abut, .colo]) ?_ (by decide) (by decide)
  apply sendCnp_touch <;> first | exact Touches.refl _ _ | decide

theorem engineIn_mem (s : State) (ect : Bool) (time : Nat) (p : RocePacket)  (hm : MemOk s) : MemOk (engineIn s ect time p) := by
  refine hm.touch (ps := [.out, .span, .abut, .colo]) ?_ (by decide) (by decide)
  apply engineIn_touch <;> first | exact Touches.refl _ _ | decide

theorem frameIn_mem (s : State) (ect : Bool) (time : Nat) (bytes : List Byte) (body : EthBody)  (hm : MemOk s) : MemOk (frameIn s ect time bytes body) := by
  unfold frameIn
  (try dsimp only)
  (repeat' split) <;> simp (maxDischargeDepth := 40) +contextual only [hm, datagram_mem, engineIn_mem, mem_foldl, mem_ite, mem_cond, modForme_mem, modGddr_mem, implies_true, and_self, Laws.gddrPutAll_wf, Laws.gddrPut_wf, memOk_phys, FormeOk.g, FormeOk.q, FormeOk.f, fok_foldl, fok_ite, fok_cond, Laws.ParMem.put_wf, Laws.ParMem.putRaw_wf, Laws.ParMem.putAll_wf, implies_true, and_self]

theorem deliverFrame_mem (s : State) (fr : EthFrame)  (hm : MemOk s) : MemOk (deliverFrame s fr) := by
  unfold deliverFrame
  (try dsimp only)
  (repeat' split) <;> simp (maxDischargeDepth := 40) +contextual only [hm, ethToOwner_mem, frameIn_mem, mem_foldl, mem_ite, mem_cond, modForme_mem, modGddr_mem, implies_true, and_self, Laws.gddrPutAll_wf, Laws.gddrPut_wf, memOk_phys, FormeOk.g, FormeOk.q, FormeOk.f, fok_foldl, fok_ite, fok_cond, Laws.ParMem.put_wf, Laws.ParMem.putRaw_wf, Laws.ParMem.putAll_wf, implies_true, and_self]

theorem ethFrameEffect_mem (s : State) (fr : EthFrame)  (hm : MemOk s) : MemOk (ethFrameEffect s fr) := by
  unfold ethFrameEffect
  (try dsimp only)
  (repeat' split) <;> simp (maxDischargeDepth := 40) +contextual only [hm, deliverFrame_mem, rxDiscard_mem, mem_foldl, mem_ite, mem_cond, modForme_mem, modGddr_mem, implies_true, and_self, Laws.gddrPutAll_wf, Laws.gddrPut_wf, memOk_phys, FormeOk.g, FormeOk.q, FormeOk.f, fok_foldl, fok_ite, fok_cond, Laws.ParMem.put_wf, Laws.ParMem.putRaw_wf, Laws.ParMem.putAll_wf, implies_true, and_self]

theorem forwardedIn_mem (s : State) (pl : List Byte)  (hm : MemOk s) : MemOk (forwardedIn s pl) := by
  unfold forwardedIn
  (try dsimp only)
  (repeat' split) <;> simp (maxDischargeDepth := 40) +contextual only [hm, frameIn_mem, mem_foldl, mem_ite, mem_cond, modForme_mem, modGddr_mem, implies_true, and_self, Laws.gddrPutAll_wf, Laws.gddrPut_wf, memOk_phys, FormeOk.g, FormeOk.q, FormeOk.f, fok_foldl, fok_ite, fok_cond, Laws.ParMem.put_wf, Laws.ParMem.putRaw_wf, Laws.ParMem.putAll_wf, implies_true, and_self]

theorem portOut_mem (s : State) (src : BitVec 12) (pl : List Byte)  (hm : MemOk s) : MemOk (portOut s src pl) := by
  refine hm.touch (ps := [.out, .span, .abut, .colo]) ?_ (by decide) (by decide)
  apply portOut_touch <;> first | exact Touches.refl _ _ | decide

theorem ethPayload_mem (s : State) (src : BitVec 12) (dir : Nat) (pl : List Byte)  (hm : MemOk s) : MemOk (ethPayload s src dir pl) := by
  unfold ethPayload
  (try dsimp only)
  (repeat' split) <;> simp (maxDischargeDepth := 40) +contextual only [hm, forwardedIn_mem, portOut_mem, mem_foldl, mem_ite, mem_cond, modForme_mem, modGddr_mem, implies_true, and_self, Laws.gddrPutAll_wf, Laws.gddrPut_wf, memOk_phys, FormeOk.g, FormeOk.q, FormeOk.f, fok_foldl, fok_ite, fok_cond, Laws.ParMem.put_wf, Laws.ParMem.putRaw_wf, Laws.ParMem.putAll_wf, implies_true, and_self]

theorem ethfwdEffect_mem (s : State) (k : SpanPacket)  (hm : MemOk s) : MemOk (ethfwdEffect s k) := by
  unfold ethfwdEffect
  (try dsimp only)
  (repeat' split) <;> simp (maxDischargeDepth := 40) +contextual only [hm, ethPayload_mem, rawReport_mem, mem_abut, mem_foldl, mem_ite, mem_cond, modForme_mem, modGddr_mem, implies_true, and_self, Laws.gddrPutAll_wf, Laws.gddrPut_wf, memOk_phys, FormeOk.g, FormeOk.q, FormeOk.f, fok_foldl, fok_ite, fok_cond, Laws.ParMem.put_wf, Laws.ParMem.putRaw_wf, Laws.ParMem.putAll_wf, implies_true, and_self]

theorem measureEffect_mem (s : State) (p : Fin 11) (delay : BitVec 16) (offset : BitVec 32)  (hm : MemOk s) : MemOk (measureEffect s p delay offset) := by
  refine hm.touch (ps := [.tb, .span]) ?_ (by decide) (by decide)
  apply measureEffect_touch <;> first | exact Touches.refl _ _ | decide

theorem modBar_mem (s : State) (b : Fin 4) (g : Bar → Bar)  (hm : MemOk s) : MemOk (modBar s b g) := by
  refine hm.touch (ps := [.bars]) ?_ (by decide) (by decide)
  apply modBar_touch <;> first | exact Touches.refl _ _ | decide

theorem abortBar_mem (s : State) (b : Fin 4)  (hm : MemOk s) : MemOk (abortBar s b) := by
  refine hm.touch (ps := [.out, .bars, .span, .cores, .colo]) ?_ (by decide) (by decide)
  apply abortBar_touch <;> first | exact Touches.refl _ _ | decide

theorem releaseBar_mem (s : State) (b : Fin 4) (t : Word) (late : Bool)  (hm : MemOk s) : MemOk (releaseBar s b t late) := by
  unfold releaseBar
  (try dsimp only)
  (repeat' split) <;> simp (maxDischargeDepth := 40) +contextual only [hm, modBar_mem, raise_mem, signalMask_mem, mem_foldl, mem_ite, mem_cond, modForme_mem, modGddr_mem, implies_true, and_self, Laws.gddrPutAll_wf, Laws.gddrPut_wf, memOk_phys, FormeOk.g, FormeOk.q, FormeOk.f, fok_foldl, fok_ite, fok_cond, Laws.ParMem.put_wf, Laws.ParMem.putRaw_wf, Laws.ParMem.putAll_wf, implies_true, and_self]

theorem announce_mem (s : State) (b : Fin 4)  (hm : MemOk s) : MemOk (announce s b) := by
  refine hm.touch (ps := [.out, .bars, .span, .colo]) ?_ (by decide) (by decide)
  apply announce_touch <;> first | exact Touches.refl _ _ | decide

theorem receiveArrival_mem (s : State) (b : Fin 4) (a : Arrival)  (hm : MemOk s) : MemOk (receiveArrival s b a) := by
  refine hm.touch (ps := [.out, .bars, .span, .colo]) ?_ (by decide) (by decide)
  apply receiveArrival_touch <;> first | exact Touches.refl _ _ | decide

theorem arriveBar_mem (s : State) (b : Fin 4)  (hm : MemOk s) : MemOk (arriveBar s b) := by
  refine hm.touch (ps := [.out, .bars, .span, .cores, .colo]) ?_ (by decide) (by decide)
  apply arriveBar_touch <;> first | exact Touches.refl _ _ | decide

theorem writeBar_mem (s : State) (b : Fin 4) (v : Word)  (hm : MemOk s) : MemOk (writeBar s b v) := by
  refine hm.touch (ps := [.out, .bars, .span, .cores, .colo]) ?_ (by decide) (by decide)
  apply writeBar_touch <;> first | exact Touches.refl _ _ | decide

theorem releaseEffect_mem (s : State) (b : Fin 4)  (hm : MemOk s) : MemOk (releaseEffect s b) := by
  unfold releaseEffect
  (try dsimp only)
  (repeat' split) <;> simp (maxDischargeDepth := 40) +contextual only [hm, releaseBar_mem, mem_foldl, mem_ite, mem_cond, modForme_mem, modGddr_mem, implies_true, and_self, Laws.gddrPutAll_wf, Laws.gddrPut_wf, memOk_phys, FormeOk.g, FormeOk.q, FormeOk.f, fok_foldl, fok_ite, fok_cond, Laws.ParMem.put_wf, Laws.ParMem.putRaw_wf, Laws.ParMem.putAll_wf, implies_true, and_self]

theorem keystoneEffect_mem (s : State) (k : SpanPacket)  (hm : MemOk s) : MemOk (keystoneEffect s k) := by
  unfold keystoneEffect
  (try dsimp only)
  (repeat' split) <;> simp (maxDischargeDepth := 40) +contextual only [hm, abortBar_mem, modBar_mem, receiveArrival_mem, releaseBar_mem, mem_foldl, mem_ite, mem_cond, modForme_mem, modGddr_mem, implies_true, and_self, Laws.gddrPutAll_wf, Laws.gddrPut_wf, memOk_phys, FormeOk.g, FormeOk.q, FormeOk.f, fok_foldl, fok_ite, fok_cond, Laws.ParMem.put_wf, Laws.ParMem.putRaw_wf, Laws.ParMem.putAll_wf, implies_true, and_self]

theorem keystoneNack_mem (s : State) (k : SpanPacket)  (hm : MemOk s) : MemOk (keystoneNack s k) := by
  refine hm.touch (ps := [.out, .bars, .span, .cores, .colo]) ?_ (by decide) (by decide)
  apply keystoneNack_touch <;> first | exact Touches.refl _ _ | decide

theorem linkReadEffect_mem (s : State) (p : Fin 11)  (hm : MemOk s) : MemOk (linkReadEffect s p) := by
  unfold linkReadEffect
  (try dsimp only)
  (repeat' split) <;> simp (maxDischargeDepth := 40) +contextual only [hm, emit_mem, modPort_mem, readData_mem, mem_foldl, mem_ite, mem_cond, modForme_mem, modGddr_mem, implies_true, and_self, Laws.gddrPutAll_wf, Laws.gddrPut_wf, memOk_phys, FormeOk.g, FormeOk.q, FormeOk.f, fok_foldl, fok_ite, fok_cond, Laws.ParMem.put_wf, Laws.ParMem.putRaw_wf, Laws.ParMem.putAll_wf, implies_true, and_self]

theorem settleHold_mem (s : State) (p : Fin 11)  (hm : MemOk s) : MemOk (settleHold s p) := by
  refine hm.touch (ps := [.tbl, .span]) ?_ (by decide) (by decide)
  apply settleHold_touch <;> first | exact Touches.refl _ _ | decide

theorem writeLink_mem (s : State) (p : Fin 11) (v : Word)  (hm : MemOk s) : MemOk (writeLink s p v) := by
  refine hm.touch (ps := [.out, .tbl, .span]) ?_ (by decide) (by decide)
  apply writeLink_touch <;> first | exact Touches.refl _ _ | decide

theorem resendFrames_mem (s : State) (p : Fin 11)  (hm : MemOk s) : MemOk (resendFrames s p) := by
  refine hm.touch (ps := [.out, .span, .colo]) ?_ (by decide) (by decide)
  apply resendFrames_touch <;> first | exact Touches.refl _ _ | decide

theorem takeAck_mem (s : State) (p : Fin 11) (fr : SpanFrame)  (hm : MemOk s) : MemOk (takeAck s p fr) := by
  refine hm.touch (ps := [.out, .tbl, .span, .colo]) ?_ (by decide) (by decide)
  apply takeAck_touch <;> first | exact Touches.refl _ _ | decide

theorem takeData_mem (s : State) (p : Fin 11) (fr : SpanFrame) (ok : Bool)  (hm : MemOk s) : MemOk (takeData s p fr ok) := by
  refine hm.touch (ps := [.out, .span]) ?_ (by decide) (by decide)
  apply takeData_touch <;> first | exact Touches.refl _ _ | decide

theorem frameEffect_mem (s : State) (p : Fin 11) (fr : SpanFrame)  (hm : MemOk s) : MemOk (frameEffect s p fr) := by
  refine hm.touch (ps := [.out, .tbl, .span, .colo]) ?_ (by decide) (by decide)
  apply frameEffect_touch <;> first | exact Touches.refl _ _ | decide

theorem retrainEffect_mem (s : State) (p : Fin 11)  (hm : MemOk s) : MemOk (retrainEffect s p) := by
  refine hm.touch (ps := [.span, .colo]) ?_ (by decide) (by decide)
  apply retrainEffect_touch <;> first | exact Touches.refl _ _ | decide

theorem trainFailed_mem (s : State) (p : Fin 11)  (hm : MemOk s) : MemOk (trainFailed s p) := by
  unfold trainFailed
  (try dsimp only)
  (repeat' split) <;> simp (maxDischargeDepth := 40) +contextual only [hm, logFault_mem, modPort_mem, updateRoutes_mem, mem_foldl, mem_ite, mem_cond, modForme_mem, modGddr_mem, implies_true, and_self, Laws.gddrPutAll_wf, Laws.gddrPut_wf, memOk_phys, FormeOk.g, FormeOk.q, FormeOk.f, fok_foldl, fok_ite, fok_cond, Laws.ParMem.put_wf, Laws.ParMem.putRaw_wf, Laws.ParMem.putAll_wf, implies_true, and_self]

theorem joinTimebase_mem (s : State) (far : BitVec 12) (masterNs : Nat)  (hm : MemOk s) : MemOk (joinTimebase s far masterNs) := by
  refine hm.touch (ps := [.tb]) ?_ (by decide) (by decide)
  apply joinTimebase_touch <;> first | exact Touches.refl _ _ | decide

theorem trainedEffect_mem (s : State) (p : Fin 11) (r : TrainReport)  (hm : MemOk s) : MemOk (trainedEffect s p r) := by
  refine hm.touch (ps := [.out, .tb, .tbl, .span, .abut, .cores, .fault, .colo]) ?_ (by decide) (by decide)
  apply trainedEffect_touch <;> first | exact Touches.refl _ _ | decide

theorem trainingEffect_mem (s : State) (p : Fin 11) (r : TrainReport)  (hm : MemOk s) : MemOk (trainingEffect s p r) := by
  unfold trainingEffect
  (try dsimp only)
  (repeat' split) <;> simp (maxDischargeDepth := 40) +contextual only [hm, securityAlarm_mem, trainFailed_mem, trainedEffect_mem, mem_foldl, mem_ite, mem_cond, modForme_mem, modGddr_mem, implies_true, and_self, Laws.gddrPutAll_wf, Laws.gddrPut_wf, memOk_phys, FormeOk.g, FormeOk.q, FormeOk.f, fok_foldl, fok_ite, fok_cond, Laws.ParMem.put_wf, Laws.ParMem.putRaw_wf, Laws.ParMem.putAll_wf, implies_true, and_self]

theorem writeRoute_mem (s : State) (id : BitVec 12) (v : Word)  (hm : MemOk s) : MemOk (writeRoute s id v) := by
  refine hm.touch (ps := [.tbl]) ?_ (by decide) (by decide)
  apply writeRoute_touch <;> first | exact Touches.refl _ _ | decide

theorem modSlot_mem (s : State) (i : Fin 8) (g : CollSlot → CollSlot)  (hm : MemOk s) : MemOk (modSlot s i g) := by
  refine hm.touch (ps := [.coll]) ?_ (by decide) (by decide)
  apply modSlot_touch <;> first | exact Touches.refl _ _ | decide

theorem modJob_mem (s : State) (i : Fin 8) (g : CollJob → CollJob)  (hm : MemOk s) : MemOk (modJob s i g) := by
  refine hm.touch (ps := [.coll]) ?_ (by decide) (by decide)
  apply modJob_touch <;> first | exact Touches.refl _ _ | decide

theorem collRaise_mem (s : State) (i : Fin 8)  (hm : MemOk s) : MemOk (collRaise s i) := by
  refine hm.touch (ps := [.out, .cores, .colo]) ?_ (by decide) (by decide)
  apply collRaise_touch <;> first | exact Touches.refl _ _ | decide

theorem collFail_mem (s : State) (i : Fin 8) (code : BitVec 3)  (hm : MemOk s) : MemOk (collFail s i code) := by
  unfold collFail
  (try dsimp only)
  (repeat' split) <;> simp (maxDischargeDepth := 40) +contextual only [hm, collRaise_mem, freeRange_mem, modSlot_mem, mem_foldl, mem_ite, mem_cond, modForme_mem, modGddr_mem, implies_true, and_self, Laws.gddrPutAll_wf, Laws.gddrPut_wf, memOk_phys, FormeOk.g, FormeOk.q, FormeOk.f, fok_foldl, fok_ite, fok_cond, Laws.ParMem.put_wf, Laws.ParMem.putRaw_wf, Laws.ParMem.putAll_wf, implies_true, and_self]

theorem collSend_mem (s : State) (i : Fin 8) (k : SpanPacket)  (hm : MemOk s) : MemOk (collSend s i k) := by
  unfold collSend
  (try dsimp only)
  (repeat' split) <;> simp (maxDischargeDepth := 40) +contextual only [hm, collFail_mem, spanSend_mem, mem_foldl, mem_ite, mem_cond, modForme_mem, modGddr_mem, implies_true, and_self, Laws.gddrPutAll_wf, Laws.gddrPut_wf, memOk_phys, FormeOk.g, FormeOk.q, FormeOk.f, fok_foldl, fok_ite, fok_cond, Laws.ParMem.put_wf, Laws.ParMem.putRaw_wf, Laws.ParMem.putAll_wf, implies_true, and_self]

theorem trySend_mem (i : Fin 8) (s : State) (n : Nat)  (hm : MemOk s) : MemOk (trySend i s n) := by
  unfold trySend
  (try dsimp only)
  (repeat' split) <;> simp (maxDischargeDepth := 40) +contextual only [hm, collSend_mem, modJob_mem, mem_foldl, mem_ite, mem_cond, modForme_mem, modGddr_mem, implies_true, and_self, Laws.gddrPutAll_wf, Laws.gddrPut_wf, memOk_phys, FormeOk.g, FormeOk.q, FormeOk.f, fok_foldl, fok_ite, fok_cond, Laws.ParMem.put_wf, Laws.ParMem.putRaw_wf, Laws.ParMem.putAll_wf, implies_true, and_self]

theorem collProgress_mem (s : State) (i : Fin 8)  (hm : MemOk s) : MemOk (collProgress s i) := by
  unfold collProgress
  (try dsimp only)
  (repeat' split) <;> simp (maxDischargeDepth := 40) +contextual only [hm, modJob_mem, trySend_mem, mem_foldl, mem_ite, mem_cond, modForme_mem, modGddr_mem, implies_true, and_self, Laws.gddrPutAll_wf, Laws.gddrPut_wf, memOk_phys, FormeOk.g, FormeOk.q, FormeOk.f, fok_foldl, fok_ite, fok_cond, Laws.ParMem.put_wf, Laws.ParMem.putRaw_wf, Laws.ParMem.putAll_wf, implies_true, and_self]

theorem takeAnn_mem (s : State) (i : Fin 8) (a : CollAnn)  (hm : MemOk s) : MemOk (takeAnn s i a) := by
  unfold takeAnn
  (try dsimp only)
  (repeat' split) <;> simp (maxDischargeDepth := 40) +contextual only [hm, collFail_mem, collProgress_mem, modJob_mem, mem_foldl, mem_ite, mem_cond, modForme_mem, modGddr_mem, implies_true, and_self, Laws.gddrPutAll_wf, Laws.gddrPut_wf, memOk_phys, FormeOk.g, FormeOk.q, FormeOk.f, fok_foldl, fok_ite, fok_cond, Laws.ParMem.put_wf, Laws.ParMem.putRaw_wf, Laws.ParMem.putAll_wf, implies_true, and_self]

theorem annEffect_mem (s : State) (k : SpanPacket)  (hm : MemOk s) : MemOk (annEffect s k) := by
  unfold annEffect
  (try dsimp only)
  (repeat' split) <;> simp (maxDischargeDepth := 40) +contextual only [hm, sendNack_mem, takeAnn_mem, mem_coll, mem_foldl, mem_ite, mem_cond, modForme_mem, modGddr_mem, implies_true, and_self, Laws.gddrPutAll_wf, Laws.gddrPut_wf, memOk_phys, FormeOk.g, FormeOk.q, FormeOk.f, fok_foldl, fok_ite, fok_cond, Laws.ParMem.put_wf, Laws.ParMem.putRaw_wf, Laws.ParMem.putAll_wf, implies_true, and_self]

theorem announceAll_mem (s : State) (i : Fin 8) (j : CollJob)  (hm : MemOk s) : MemOk (announceAll s i j) := by
  unfold announceAll
  (try dsimp only)
  (repeat' split) <;> simp (maxDischargeDepth := 40) +contextual only [hm, collSend_mem, mem_foldl, mem_ite, mem_cond, modForme_mem, modGddr_mem, implies_true, and_self, Laws.gddrPutAll_wf, Laws.gddrPut_wf, memOk_phys, FormeOk.g, FormeOk.q, FormeOk.f, fok_foldl, fok_ite, fok_cond, Laws.ParMem.put_wf, Laws.ParMem.putRaw_wf, Laws.ParMem.putAll_wf, implies_true, and_self]

theorem takeKept_mem (s : State) (i : Fin 8) (id : BitVec 32)  (hm : MemOk s) : MemOk (takeKept s i id) := by
  unfold takeKept
  (try dsimp only)
  (repeat' split) <;> simp (maxDischargeDepth := 40) +contextual only [hm, takeAnn_mem, mem_coll, mem_foldl, mem_ite, mem_cond, modForme_mem, modGddr_mem, implies_true, and_self, Laws.gddrPutAll_wf, Laws.gddrPut_wf, memOk_phys, FormeOk.g, FormeOk.q, FormeOk.f, fok_foldl, fok_ite, fok_cond, Laws.ParMem.put_wf, Laws.ParMem.putRaw_wf, Laws.ParMem.putAll_wf, implies_true, and_self]

theorem logCollRead_mem (s : State) (rs : List (Nat × Nat))  (hm : MemOk s) : MemOk (logCollRead s rs) := by
  unfold logCollRead
  (try dsimp only)
  (repeat' split) <;> simp (maxDischargeDepth := 40) +contextual only [hm, gddrError_mem, memoryError_mem, mem_foldl, mem_ite, mem_cond, modForme_mem, modGddr_mem, implies_true, and_self, Laws.gddrPutAll_wf, Laws.gddrPut_wf, memOk_phys, FormeOk.g, FormeOk.q, FormeOk.f, fok_foldl, fok_ite, fok_cond, Laws.ParMem.put_wf, Laws.ParMem.putRaw_wf, Laws.ParMem.putAll_wf, implies_true, and_self]

theorem collStart_mem (s : State) (i : Fin 8)  (hm : MemOk s) : MemOk (collStart s i) := by
  unfold collStart
  (try dsimp only)
  (repeat' split) <;> simp (maxDischargeDepth := 40) +contextual only [hm, announceAll_mem, collFail_mem, collProgress_mem, logCollRead_mem, modSlot_mem, takeKept_mem, mem_foldl, mem_ite, mem_cond, modForme_mem, modGddr_mem, implies_true, and_self, Laws.gddrPutAll_wf, Laws.gddrPut_wf, memOk_phys, FormeOk.g, FormeOk.q, FormeOk.f, fok_foldl, fok_ite, fok_cond, Laws.ParMem.put_wf, Laws.ParMem.putRaw_wf, Laws.ParMem.putAll_wf, implies_true, and_self]

theorem writeColl_mem (s : State) (i : Fin 8) (v : Word)  (hm : MemOk s) : MemOk (writeColl s i v) := by
  unfold writeColl
  (try dsimp only)
  (repeat' split) <;> simp (maxDischargeDepth := 40) +contextual only [hm, collStart_mem, modSlot_mem, mem_foldl, mem_ite, mem_cond, modForme_mem, modGddr_mem, implies_true, and_self, Laws.gddrPutAll_wf, Laws.gddrPut_wf, memOk_phys, FormeOk.g, FormeOk.q, FormeOk.f, fok_foldl, fok_ite, fok_cond, Laws.ParMem.put_wf, Laws.ParMem.putRaw_wf, Laws.ParMem.putAll_wf, implies_true, and_self]

theorem dataEffect_mem (s : State) (k : SpanPacket)  (hm : MemOk s) : MemOk (dataEffect s k) := by
  unfold dataEffect
  (try dsimp only)
  (repeat' split) <;> simp (maxDischargeDepth := 40) +contextual only [hm, collProgress_mem, modJob_mem, spanSend_mem, mem_foldl, mem_ite, mem_cond, modForme_mem, modGddr_mem, implies_true, and_self, Laws.gddrPutAll_wf, Laws.gddrPut_wf, memOk_phys, FormeOk.g, FormeOk.q, FormeOk.f, fok_foldl, fok_ite, fok_cond, Laws.ParMem.put_wf, Laws.ParMem.putRaw_wf, Laws.ParMem.putAll_wf, implies_true, and_self]

theorem repeatEffect_mem (s : State) (i : Fin 8) (peer : BitVec 12)  (hm : MemOk s) : MemOk (repeatEffect s i peer) := by
  unfold repeatEffect
  (try dsimp only)
  (repeat' split) <;> simp (maxDischargeDepth := 40) +contextual only [hm, collSend_mem, modJob_mem, mem_foldl, mem_ite, mem_cond, modForme_mem, modGddr_mem, implies_true, and_self, Laws.gddrPutAll_wf, Laws.gddrPut_wf, memOk_phys, FormeOk.g, FormeOk.q, FormeOk.f, fok_foldl, fok_ite, fok_cond, Laws.ParMem.put_wf, Laws.ParMem.putRaw_wf, Laws.ParMem.putAll_wf, implies_true, and_self]

theorem collDoneEffect_mem (s : State) (i : Fin 8)  (hm : MemOk s) : MemOk (collDoneEffect s i) := by
  unfold collDoneEffect
  (try dsimp only)
  (repeat' split) <;> simp (maxDischargeDepth := 40) +contextual only [hm, collRaise_mem, localPutAll_mem, modSlot_mem, signalMask_mem, mem_foldl, mem_ite, mem_cond, modForme_mem, modGddr_mem, implies_true, and_self, Laws.gddrPutAll_wf, Laws.gddrPut_wf, memOk_phys, FormeOk.g, FormeOk.q, FormeOk.f, fok_foldl, fok_ite, fok_cond, Laws.ParMem.put_wf, Laws.ParMem.putRaw_wf, Laws.ParMem.putAll_wf, implies_true, and_self]

theorem collAcked_mem (s : State) (k : SpanPacket)  (hm : MemOk s) : MemOk (collAcked s k) := by
  refine hm.touch (ps := [.coll]) ?_ (by decide) (by decide)
  apply collAcked_touch <;> first | exact Touches.refl _ _ | decide

theorem collCorrupt_mem (s : State) (i : Fin 8) (j : CollJob) (k : SpanPacket)  (hm : MemOk s) : MemOk (collCorrupt s i j k) := by
  unfold collCorrupt
  (try dsimp only)
  (repeat' split) <;> simp (maxDischargeDepth := 40) +contextual only [hm, collSend_mem, logFault_mem, modJob_mem, mem_foldl, mem_ite, mem_cond, modForme_mem, modGddr_mem, implies_true, and_self, Laws.gddrPutAll_wf, Laws.gddrPut_wf, memOk_phys, FormeOk.g, FormeOk.q, FormeOk.f, fok_foldl, fok_ite, fok_cond, Laws.ParMem.put_wf, Laws.ParMem.putRaw_wf, Laws.ParMem.putAll_wf, implies_true, and_self]

theorem collNack_mem (s : State) (k : SpanPacket)  (hm : MemOk s) : MemOk (collNack s k) := by
  unfold collNack
  (try dsimp only)
  (repeat' split) <;> simp (maxDischargeDepth := 40) +contextual only [hm, collCorrupt_mem, collFail_mem, modJob_mem, repeatEffect_mem, mem_foldl, mem_ite, mem_cond, modForme_mem, modGddr_mem, implies_true, and_self, Laws.gddrPutAll_wf, Laws.gddrPut_wf, memOk_phys, FormeOk.g, FormeOk.q, FormeOk.f, fok_foldl, fok_ite, fok_cond, Laws.ParMem.put_wf, Laws.ParMem.putRaw_wf, Laws.ParMem.putAll_wf, implies_true, and_self]

theorem refuseAt_mem (s : State) (k : SpanPacket) (a : Nat) (r : Nack)  (hm : MemOk s) : MemOk (refuseAt s k a r) := by
  refine hm.touch (ps := [.out, .span, .colo]) ?_ (by decide) (by decide)
  apply refuseAt_touch <;> first | exact Touches.refl _ _ | decide

theorem partialSignal_mem (s : State) (x : Partial)  (hm : MemOk s) : MemOk (partialSignal s x) := by
  unfold partialSignal
  (try dsimp only)
  (repeat' split) <;> simp (maxDischargeDepth := 40) +contextual only [hm, remoteSignal_mem, mem_foldl, mem_ite, mem_cond, modForme_mem, modGddr_mem, implies_true, and_self, Laws.gddrPutAll_wf, Laws.gddrPut_wf, memOk_phys, FormeOk.g, FormeOk.q, FormeOk.f, fok_foldl, fok_ite, fok_cond, Laws.ParMem.put_wf, Laws.ParMem.putRaw_wf, Laws.ParMem.putAll_wf, implies_true, and_self]

theorem writePacketEffect_mem (s : State) (k : SpanPacket)  (hm : MemOk s) : MemOk (writePacketEffect s k) := by
  unfold writePacketEffect
  (try dsimp only)
  (repeat' split) <;> simp (maxDischargeDepth := 40) +contextual only [hm, localPutAll_mem, partialSignal_mem, refuseAt_mem, spanSend_mem, mem_span, mem_foldl, mem_ite, mem_cond, modForme_mem, modGddr_mem, implies_true, and_self, Laws.gddrPutAll_wf, Laws.gddrPut_wf, memOk_phys, FormeOk.g, FormeOk.q, FormeOk.f, fok_foldl, fok_ite, fok_cond, Laws.ParMem.put_wf, Laws.ParMem.putRaw_wf, Laws.ParMem.putAll_wf, implies_true, and_self]

theorem sendSealed_mem (s : State) (k : SpanPacket)  (hm : MemOk s) : MemOk (sendSealed s k) := by
  refine hm.touch (ps := [.out, .span, .colo]) ?_ (by decide) (by decide)
  apply sendSealed_touch <;> first | exact Touches.refl _ _ | decide

theorem logRemoteRead_mem (s : State) (e : ReadErr)  (hm : MemOk s) : MemOk (logRemoteRead s e) := by
  unfold logRemoteRead
  (try dsimp only)
  (repeat' split) <;> simp (maxDischargeDepth := 40) +contextual only [hm, gddrError_mem, logFault_mem, memoryError_mem, mem_foldl, mem_ite, mem_cond, modForme_mem, modGddr_mem, implies_true, and_self, Laws.gddrPutAll_wf, Laws.gddrPut_wf, memOk_phys, FormeOk.g, FormeOk.q, FormeOk.f, fok_foldl, fok_ite, fok_cond, Laws.ParMem.put_wf, Laws.ParMem.putRaw_wf, Laws.ParMem.putAll_wf, implies_true, and_self]

theorem serveRead_mem (s : State) (k : SpanPacket) (n : Nat)  (hm : MemOk s) : MemOk (serveRead s k n) := by
  unfold serveRead
  (try dsimp only)
  (repeat' split) <;> simp (maxDischargeDepth := 40) +contextual only [hm, logRemoteRead_mem, sendSealed_mem, mem_span, mem_foldl, mem_ite, mem_cond, modForme_mem, modGddr_mem, implies_true, and_self, Laws.gddrPutAll_wf, Laws.gddrPut_wf, memOk_phys, FormeOk.g, FormeOk.q, FormeOk.f, fok_foldl, fok_ite, fok_cond, Laws.ParMem.put_wf, Laws.ParMem.putRaw_wf, Laws.ParMem.putAll_wf, implies_true, and_self]

theorem readReqEffect_mem (s : State) (k : SpanPacket)  (hm : MemOk s) : MemOk (readReqEffect s k) := by
  unfold readReqEffect
  (try dsimp only)
  (repeat' split) <;> simp (maxDischargeDepth := 40) +contextual only [hm, refuseAt_mem, serveRead_mem, mem_foldl, mem_ite, mem_cond, modForme_mem, modGddr_mem, implies_true, and_self, Laws.gddrPutAll_wf, Laws.gddrPut_wf, memOk_phys, FormeOk.g, FormeOk.q, FormeOk.f, fok_foldl, fok_ite, fok_cond, Laws.ParMem.put_wf, Laws.ParMem.putRaw_wf, Laws.ParMem.putAll_wf, implies_true, and_self]

theorem loadBytes_mem (s : State) (k : SpanPacket) (hm : MemOk s) : MemOk (loadBytes s k) := by
  unfold loadBytes
  split
  · exact hm
  · refine modForme_mem (fun fm h => ?_) hm
    split
    · dsimp only
      split
      · exact ⟨h.1, h.2.1, h.2.2⟩
      · exact h
    · exact h

theorem readRespEffect_mem (s : State) (k : SpanPacket)  (hm : MemOk s) : MemOk (readRespEffect s k) := by
  unfold readRespEffect
  (try dsimp only)
  (repeat' split) <;> simp (maxDischargeDepth := 40) +contextual only [hm, loadBytes_mem, pieceArrived_mem, pumpCopies_mem, mem_foldl, mem_ite, mem_cond, modForme_mem, modGddr_mem, implies_true, and_self, Laws.gddrPutAll_wf, Laws.gddrPut_wf, memOk_phys, FormeOk.g, FormeOk.q, FormeOk.f, fok_foldl, fok_ite, fok_cond, Laws.ParMem.put_wf, Laws.ParMem.putRaw_wf, Laws.ParMem.putAll_wf, implies_true, and_self]

theorem respNack_mem (s : State) (k : SpanPacket)  (hm : MemOk s) : MemOk (respNack s k) := by
  refine hm.touch (ps := [.out, .span, .colo]) ?_ (by decide) (by decide)
  apply respNack_touch <;> first | exact Touches.refl _ _ | decide

theorem loadCorrupt_mem (s : State) (f : FormeIx) (l : FtLoad) (k : SpanPacket)  (hm : MemOk s) : MemOk (loadCorrupt s f l k) := by
  unfold loadCorrupt
  (try dsimp only)
  (repeat' split) <;> simp (maxDischargeDepth := 40) +contextual only [hm, dropLoad_mem, logFault_mem, respNack_mem, storedAbort_mem, fok_vu, mem_foldl, mem_ite, mem_cond, modForme_mem, modGddr_mem, implies_true, and_self, Laws.gddrPutAll_wf, Laws.gddrPut_wf, memOk_phys, FormeOk.g, FormeOk.q, FormeOk.f, fok_foldl, fok_ite, fok_cond, Laws.ParMem.put_wf, Laws.ParMem.putRaw_wf, Laws.ParMem.putAll_wf, implies_true, and_self]

theorem respCorrupt_mem (s : State) (k : SpanPacket)  (hm : MemOk s) : MemOk (respCorrupt s k) := by
  unfold respCorrupt
  (try dsimp only)
  (repeat' split) <;> simp (maxDischargeDepth := 40) +contextual only [hm, dropCopy_mem, loadCorrupt_mem, logFault_mem, modCar_mem, respNack_mem, storedAbort_mem, mem_foldl, mem_ite, mem_cond, modForme_mem, modGddr_mem, implies_true, and_self, Laws.gddrPutAll_wf, Laws.gddrPut_wf, memOk_phys, FormeOk.g, FormeOk.q, FormeOk.f, fok_foldl, fok_ite, fok_cond, Laws.ParMem.put_wf, Laws.ParMem.putRaw_wf, Laws.ParMem.putAll_wf, implies_true, and_self]

theorem ackEffect_mem (s : State) (k : SpanPacket)  (hm : MemOk s) : MemOk (ackEffect s k) := by
  unfold ackEffect
  (try dsimp only)
  (repeat' split) <;> simp (maxDischargeDepth := 40) +contextual only [hm, collAcked_mem, copyAcked_mem, mem_foldl, mem_ite, mem_cond, modForme_mem, modGddr_mem, implies_true, and_self, Laws.gddrPutAll_wf, Laws.gddrPut_wf, memOk_phys, FormeOk.g, FormeOk.q, FormeOk.f, fok_foldl, fok_ite, fok_cond, Laws.ParMem.put_wf, Laws.ParMem.putRaw_wf, Laws.ParMem.putAll_wf, implies_true, and_self]

theorem serveAgain_mem (s : State) (k : SpanPacket)  (hm : MemOk s) : MemOk (serveAgain s k) := by
  unfold serveAgain
  (try dsimp only)
  (repeat' split) <;> simp (maxDischargeDepth := 40) +contextual only [hm, serveRead_mem, mem_foldl, mem_ite, mem_cond, modForme_mem, modGddr_mem, implies_true, and_self, Laws.gddrPutAll_wf, Laws.gddrPut_wf, memOk_phys, FormeOk.g, FormeOk.q, FormeOk.f, fok_foldl, fok_ite, fok_cond, Laws.ParMem.put_wf, Laws.ParMem.putRaw_wf, Laws.ParMem.putAll_wf, implies_true, and_self]

theorem loadNack_mem (s : State) (k : SpanPacket)  (hm : MemOk s) : MemOk (loadNack s k) := by
  unfold loadNack
  (try dsimp only)
  (repeat' split) <;> simp (maxDischargeDepth := 40) +contextual only [hm, dropLoad_mem, progError_mem, spanSend_mem, mem_foldl, mem_ite, mem_cond, modForme_mem, modGddr_mem, implies_true, and_self, Laws.gddrPutAll_wf, Laws.gddrPut_wf, memOk_phys, FormeOk.g, FormeOk.q, FormeOk.f, fok_foldl, fok_ite, fok_cond, Laws.ParMem.put_wf, Laws.ParMem.putRaw_wf, Laws.ParMem.putAll_wf, implies_true, and_self]

theorem nackEffect_mem (s : State) (k : SpanPacket)  (hm : MemOk s) : MemOk (nackEffect s k) := by
  unfold nackEffect
  (try dsimp only)
  (repeat' split) <;> simp (maxDischargeDepth := 40) +contextual only [hm, collNack_mem, copyCorrupt_mem, ethNack_mem, failCopy_mem, keystoneNack_mem, loadNack_mem, pumpCopies_mem, serveAgain_mem, mem_foldl, mem_ite, mem_cond, modForme_mem, modGddr_mem, implies_true, and_self, Laws.gddrPutAll_wf, Laws.gddrPut_wf, memOk_phys, FormeOk.g, FormeOk.q, FormeOk.f, fok_foldl, fok_ite, fok_cond, Laws.ParMem.put_wf, Laws.ParMem.putRaw_wf, Laws.ParMem.putAll_wf, implies_true, and_self]

theorem aaLine_wf {m : ParMem} (o : Nat) (h : m.wf = true) : (aaLine m o).wf = true := Laws.ParMem.putAll_wf _ h

theorem lineCheck_mem (s : State) (f : FormeIx) (a : Nat) (bad : Bool) (hm : MemOk s) : MemOk (lineCheck s f a bad) := by
  unfold lineCheck
  dsimp only
  have h1 : ∀ (q : Prop) [Decidable q] (o : Nat), MemOk (modForme s f (fun fm =>
      if q then { fm with quire := aaLine fm.quire o, line := none }
      else { fm with galley := aaLine fm.galley o, line := none })) := by
    intro q _ o
    refine modForme_mem (fun fm h => ?_) hm
    split
    · exact ⟨h.1, aaLine_wf _ h.2.1, h.2.2⟩
    · exact ⟨aaLine_wf _ h.1, h.2⟩
  split
  · exact logFault_mem _ _ _ _ _ _ _ _ (h1 _ _)
  · exact h1 _ _

theorem lineCheckEffect_mem (s : State) (f : FormeIx) (stuck : List (Nat × Byte))  (hm : MemOk s) : MemOk (lineCheckEffect s f stuck) := by
  unfold lineCheckEffect
  (try dsimp only)
  (repeat' split) <;> simp (maxDischargeDepth := 40) +contextual only [hm, lineCheck_mem, mem_foldl, mem_ite, mem_cond, modForme_mem, modGddr_mem, implies_true, and_self, Laws.gddrPutAll_wf, Laws.gddrPut_wf, memOk_phys, FormeOk.g, FormeOk.q, FormeOk.f, fok_foldl, fok_ite, fok_cond, Laws.ParMem.put_wf, Laws.ParMem.putRaw_wf, Laws.ParMem.putAll_wf, implies_true, and_self]

theorem leakEffect_mem (s : State) (c : Fin 12)  (hm : MemOk s) : MemOk (leakEffect s c) := by
  refine hm.touch (ps := [.fault]) ?_ (by decide) (by decide)
  apply leakEffect_touch <;> first | exact Touches.refl _ _ | decide

theorem writeLogCtrl_mem (s : State) (v : Word)  (hm : MemOk s) : MemOk (writeLogCtrl s v) := by
  refine hm.touch (ps := [.fault]) ?_ (by decide) (by decide)
  apply writeLogCtrl_touch <;> first | exact Touches.refl _ _ | decide

theorem writeBuckets_mem (s : State) (v : Word)  (hm : MemOk s) : MemOk (writeBuckets s v) := by
  refine hm.touch (ps := [.fault]) ?_ (by decide) (by decide)
  apply writeBuckets_touch <;> first | exact Touches.refl _ _ | decide

theorem writeIntCtrl_mem (s : State) (v : Word)  (hm : MemOk s) : MemOk (writeIntCtrl s v) := by
  refine hm.touch (ps := [.fault]) ?_ (by decide) (by decide)
  apply writeIntCtrl_touch <;> first | exact Touches.refl _ _ | decide

theorem writeFence_mem (s : State) (v : Word)  (hm : MemOk s) : MemOk (writeFence s v) := by
  unfold writeFence
  (try dsimp only)
  (repeat' split) <;> simp (maxDischargeDepth := 40) +contextual only [hm, fenceDie_mem, mem_foldl, mem_ite, mem_cond, modForme_mem, modGddr_mem, implies_true, and_self, Laws.gddrPutAll_wf, Laws.gddrPut_wf, memOk_phys, FormeOk.g, FormeOk.q, FormeOk.f, fok_foldl, fok_ite, fok_cond, Laws.ParMem.put_wf, Laws.ParMem.putRaw_wf, Laws.ParMem.putAll_wf, implies_true, and_self]

theorem holdLinks_mem (s : State) (d : Nat)  (hm : MemOk s) : MemOk (holdLinks s d) := by
  refine hm.touch (ps := [.span]) ?_ (by decide) (by decide)
  apply holdLinks_touch <;> first | exact Touches.refl _ _ | decide

theorem nextMaster_mem (s : State) (d : Nat)  (hm : MemOk s) : MemOk (nextMaster s d) := by
  refine hm.touch (ps := [.tb]) ?_ (by decide) (by decide)
  apply nextMaster_touch <;> first | exact Touches.refl _ _ | decide

theorem mirrorDieLost_mem (s : State) (d : Nat)  (hm : MemOk s) : MemOk (mirrorDieLost s d) := by
  refine hm.touch (ps := [.out, .log, .cores, .colo]) ?_ (by decide) (by decide)
  apply mirrorDieLost_touch <;> first | exact Touches.refl _ _ | decide

theorem peerFenced_mem (s : State) (d : Fin 8) (reason : BitVec 3)  (hm : MemOk s) : MemOk (peerFenced s d reason) := by
  refine hm.touch (ps := [.free, .out, .tb, .tbl, .log, .span, .abut, .cores, .svc, .fault, .colo]) ?_ (by decide) (by decide)
  apply peerFenced_touch <;> first | exact Touches.refl _ _ | decide

theorem checkUnitFails_mem (s : State)  (hm : MemOk s) : MemOk (checkUnitFails s) := by
  refine hm.touch (ps := [.free, .check]) ?_ (by decide) (by decide)
  apply checkUnitFails_touch <;> first | exact Touches.refl _ _ | decide

theorem checkEnds_mem (s : State)  (hm : MemOk s) : MemOk (checkEnds s) := by
  unfold checkEnds
  (try dsimp only)
  (repeat' split) <;> simp (maxDischargeDepth := 40) +contextual only [hm, checkUnitFails_mem, logRemoteRead_mem, mem_check, mem_foldl, mem_ite, mem_cond, modForme_mem, modGddr_mem, implies_true, and_self, Laws.gddrPutAll_wf, Laws.gddrPut_wf, memOk_phys, FormeOk.g, FormeOk.q, FormeOk.f, fok_foldl, fok_ite, fok_cond, Laws.ParMem.put_wf, Laws.ParMem.putRaw_wf, Laws.ParMem.putAll_wf, implies_true, and_self]

theorem regReadEffect_mem (s : State) (r : RegAddr) (hm : MemOk s) : MemOk (regReadEffect s r) := by
  cases r <;> unfold regReadEffect <;> dsimp only <;> (repeat' split) <;>
    simp (maxDischargeDepth := 40) +contextual only [modForme_mem, modPort_mem, mem_proof, fok_pu, hm, implies_true]

theorem mmioRead_mem (s : State) (a : Nat)  (hm : MemOk s) : MemOk (mmioRead s a).2 := by
  unfold mmioRead
  (try dsimp only)
  (repeat' split) <;> simp (maxDischargeDepth := 40) +contextual only [hm, regReadEffect_mem, mem_foldl, mem_ite, mem_cond, modForme_mem, modGddr_mem, implies_true, and_self, Laws.gddrPutAll_wf, Laws.gddrPut_wf, memOk_phys, FormeOk.g, FormeOk.q, FormeOk.f, fok_foldl, fok_ite, fok_cond, Laws.ParMem.put_wf, Laws.ParMem.putRaw_wf, Laws.ParMem.putAll_wf, implies_true, and_self]

theorem setUpdate_mem (s : State) (st : UpdState) (result : BitVec 8)  (hm : MemOk s) : MemOk (setUpdate s st result) := by
  refine hm.touch (ps := [.out, .colo, .upd]) ?_ (by decide) (by decide)
  apply setUpdate_touch <;> first | exact Touches.refl _ _ | decide

theorem setInactive_mem (s : State) (x : SlotImage)  (hm : MemOk s) : MemOk (setInactive s x) := by
  refine hm.touch (ps := [.flash]) ?_ (by decide) (by decide)
  apply setInactive_touch <;> first | exact Touches.refl _ _ | decide

theorem beginUpdate_mem (s : State)  (hm : MemOk s) : MemOk (beginUpdate s) := by
  refine hm.touch (ps := [.out, .colo, .flash, .upd]) ?_ (by decide) (by decide)
  apply beginUpdate_touch <;> first | exact Touches.refl _ _ | decide

theorem verifyUpdate_mem (s : State)  (hm : MemOk s) : MemOk (verifyUpdate s) := by
  refine hm.touch (ps := [.out, .colo, .upd]) ?_ (by decide) (by decide)
  apply verifyUpdate_touch <;> first | exact Touches.refl _ _ | decide

theorem activateUpdate_mem (s : State)  (hm : MemOk s) : MemOk (activateUpdate s) := by
  refine hm.touch (ps := [.out, .colo, .flash, .upd]) ?_ (by decide) (by decide)
  apply activateUpdate_touch <;> first | exact Touches.refl _ _ | decide

theorem commitUpdate_mem (s : State)  (hm : MemOk s) : MemOk (commitUpdate s) := by
  refine hm.touch (ps := [.out, .colo, .flash, .upd]) ?_ (by decide) (by decide)
  apply commitUpdate_touch <;> first | exact Touches.refl _ _ | decide

theorem abandonUpdate_mem (s : State)  (hm : MemOk s) : MemOk (abandonUpdate s) := by
  refine hm.touch (ps := [.out, .colo, .flash, .upd]) ?_ (by decide) (by decide)
  apply abandonUpdate_touch <;> first | exact Touches.refl _ _ | decide

theorem updateCmd_mem (s : State) (v : Nat)  (hm : MemOk s) : MemOk (updateCmd s v) := by
  refine hm.touch (ps := [.out, .colo, .flash, .upd]) ?_ (by decide) (by decide)
  apply updateCmd_touch <;> first | exact Touches.refl _ _ | decide

theorem receivePiece_mem (s : State) (bs : List Byte)  (hm : MemOk s) : MemOk (receivePiece s bs) := by
  refine hm.touch (ps := [.flash]) ?_ (by decide) (by decide)
  apply receivePiece_touch <;> first | exact Touches.refl _ _ | decide

theorem setOct_mem (s : State) (idx sub : Nat) (bs : List Byte)  (hm : MemOk s) : MemOk (setOct s idx sub bs) := by
  refine hm.touch (ps := [.colo]) ?_ (by decide) (by decide)
  apply setOct_touch <;> first | exact Touches.refl _ _ | decide

theorem startSave_mem (s : State) (v : Nat)  (hm : MemOk s) : MemOk (startSave s v) := by
  refine hm.touch (ps := [.colo]) ?_ (by decide) (by decide)
  apply startSave_touch <;> first | exact Touches.refl _ _ | decide

theorem endSave_mem (s : State)  (hm : MemOk s) : MemOk (endSave s) := by
  refine hm.touch (ps := [.colo, .flash]) ?_ (by decide) (by decide)
  apply endSave_touch <;> first | exact Touches.refl _ _ | decide

theorem writeOperatorKey_mem (s : State) (slot : Nat) (key : List Byte)  (hm : MemOk s) : MemOk (writeOperatorKey s slot key) := by
  refine hm.touch (ps := [.colo, .flash]) ?_ (by decide) (by decide)
  apply writeOperatorKey_touch <;> first | exact Touches.refl _ _ | decide

theorem returnPrep_mem (s : State)  (hm : MemOk s) : MemOk (returnPrep s) := by
  refine hm.touch (ps := [.colo, .flash]) ?_ (by decide) (by decide)
  apply returnPrep_touch <;> first | exact Touches.refl _ _ | decide

theorem clearAlarms_mem (s : State) (v : Nat)  (hm : MemOk s) : MemOk (clearAlarms s v) := by
  refine hm.touch (ps := [.sec]) ?_ (by decide) (by decide)
  apply clearAlarms_touch <;> first | exact Touches.refl _ _ | decide

theorem attest_mem (s : State) (nonce : List Byte)  (hm : MemOk s) : MemOk (attest s nonce) := by
  refine hm.touch (ps := [.colo, .sec]) ?_ (by decide) (by decide)
  apply attest_touch <;> first | exact Touches.refl _ _ | decide

theorem newNonce_mem (s : State)  (hm : MemOk s) : MemOk (newNonce s) := by
  refine hm.touch (ps := [.free, .sec]) ?_ (by decide) (by decide)
  apply newNonce_touch <;> first | exact Touches.refl _ _ | decide

theorem unlock_mem (s : State) (level : Nat)  (hm : MemOk s) : MemOk (unlock s level) := by
  refine hm.touch (ps := [.span, .colo, .sec]) ?_ (by decide) (by decide)
  apply unlock_touch <;> first | exact Touches.refl _ _ | decide

theorem unlockRefused_mem (s : State)  (hm : MemOk s) : MemOk (unlockRefused s) := by
  unfold unlockRefused
  (try dsimp only)
  (repeat' split) <;> simp (maxDischargeDepth := 40) +contextual only [hm, securityAlarm_mem, mem_foldl, mem_ite, mem_cond, modForme_mem, modGddr_mem, implies_true, and_self, Laws.gddrPutAll_wf, Laws.gddrPut_wf, memOk_phys, FormeOk.g, FormeOk.q, FormeOk.f, fok_foldl, fok_ite, fok_cond, Laws.ParMem.put_wf, Laws.ParMem.putRaw_wf, Laws.ParMem.putAll_wf, implies_true, and_self]

theorem ParMem.unset_wf (k : Nat) : (ParMem.unset k).wf = true := rfl

theorem dieReset_mem (b : Build) (d : Fin 8) (pending : List Instr) (free : Nat) (out : List Out) (fl : Flash) (p : Power)
    (cause : BitVec 2) : MemOk (dieReset b d pending free out fl p cause) := by
  refine ⟨fun f => ?_, rfl⟩
  have : (dieReset b d pending free out fl p cause).forme f = Forme.reset (free + 2 * f.1) := by
    simp [State.forme, dieReset]
  rw [this]
  exact ⟨rfl, rfl, ParMem.zero_wf⟩

theorem resetDie_mem (s : State) (cause : BitVec 2) (hm : MemOk s) : MemOk (resetDie s cause) := dieReset_mem _ _ _ _ _ _ _ _

theorem dieRestart_mem (s : State) (v : Nat)  (hm : MemOk s) : MemOk (dieRestart s v) := by
  unfold dieRestart
  (try dsimp only)
  (repeat' split) <;> simp (maxDischargeDepth := 40) +contextual only [hm, resetDie_mem, mem_flash, mem_foldl, mem_ite, mem_cond, modForme_mem, modGddr_mem, implies_true, and_self, Laws.gddrPutAll_wf, Laws.gddrPut_wf, memOk_phys, FormeOk.g, FormeOk.q, FormeOk.f, fok_foldl, fok_ite, fok_cond, Laws.ParMem.put_wf, Laws.ParMem.putRaw_wf, Laws.ParMem.putAll_wf, implies_true, and_self]

theorem enterFalsework_mem (s : State) (rom : Bool)  (hm : MemOk s) : MemOk (enterFalsework s rom) := by
  refine hm.touch (ps := [.boot, .pwr]) ?_ (by decide) (by decide)
  apply enterFalsework_touch <;> first | exact Touches.refl _ _ | decide

theorem beginStage_mem (s : State) (done next : BitVec 8)  (hm : MemOk s) : MemOk (beginStage s done next) := by
  refine hm.touch (ps := [.boot]) ?_ (by decide) (by decide)
  apply beginStage_touch <;> first | exact Touches.refl _ _ | decide

theorem romStage_mem (s : State) (b : Bool)  (hm : MemOk s) : MemOk (romStage s b) := by
  refine hm.touch (ps := [.boot, .flash, .upd, .pwr]) ?_ (by decide) (by decide)
  apply romStage_touch <;> first | exact Touches.refl _ _ | decide

theorem keyStage_mem (s : State) (r : StageReport)  (hm : MemOk s) : MemOk (keyStage s r) := by
  unfold keyStage
  (try dsimp only)
  (repeat' split) <;> simp (maxDischargeDepth := 40) +contextual only [hm, beginStage_mem, securityAlarm_mem, mem_sec_pwr, mem_foldl, mem_ite, mem_cond, modForme_mem, modGddr_mem, implies_true, and_self, Laws.gddrPutAll_wf, Laws.gddrPut_wf, memOk_phys, FormeOk.g, FormeOk.q, FormeOk.f, fok_foldl, fok_ite, fok_cond, Laws.ParMem.put_wf, Laws.ParMem.putRaw_wf, Laws.ParMem.putAll_wf, implies_true, and_self]

theorem applySaved_mem (s : State)  (hm : MemOk s) : MemOk (applySaved s) := by
  refine hm.touch (ps := [.colo]) ?_ (by decide) (by decide)
  apply applySaved_touch <;> first | exact Touches.refl _ _ | decide

theorem dropTrial_mem (s : State)  (hm : MemOk s) : MemOk (dropTrial s) := by
  refine hm.touch (ps := [.out, .colo, .flash, .upd]) ?_ (by decide) (by decide)
  apply dropTrial_touch <;> first | exact Touches.refl _ _ | decide

theorem configStage_mem (s : State)  (hm : MemOk s) : MemOk (configStage s) := by
  refine hm.touch (ps := [.out, .colo, .boot, .flash, .upd]) ?_ (by decide) (by decide)
  apply configStage_touch <;> first | exact Touches.refl _ _ | decide

theorem bistStage_mem (s : State) (r : StageReport) (hm : MemOk s) : MemOk (bistStage s r) := by
  unfold bistStage
  refine beginStage_mem _ _ _ ⟨fun f => ?_, hm.2⟩
  have : State.forme { s with formes := vmapIx s.formes (testedForme r) } f = testedForme r f (s.forme f) := by
    simp [State.forme, vmapIx]
  rw [this]
  exact testedForme_fok _ _ _ (hm.1 f)

theorem memoryStage_mem (s : State) (hm : MemOk s) : MemOk (memoryStage s) := by
  unfold memoryStage
  exact beginStage_mem _ _ _ ⟨hm.1, rfl⟩

theorem joinModule_mem (s : State)  (hm : MemOk s) : MemOk (joinModule s) := by
  refine hm.touch (ps := [.tb, .span]) ?_ (by decide) (by decide)
  apply joinModule_touch <;> first | exact Touches.refl _ _ | decide

theorem runtimeStage_mem (s : State)  (hm : MemOk s) : MemOk (runtimeStage s) := by
  refine hm.touch (ps := [.boot, .flash, .pwr]) ?_ (by decide) (by decide)
  apply runtimeStage_touch <;> first | exact Touches.refl _ _ | decide

theorem stageDone_mem (s : State) (r : StageReport)  (hm : MemOk s) : MemOk (stageDone s r) := by
  unfold stageDone
  (try dsimp only)
  (repeat' split) <;> simp (maxDischargeDepth := 40) +contextual only [hm, bistStage_mem, configStage_mem, joinModule_mem, keyStage_mem, memoryStage_mem, romStage_mem, runtimeStage_mem, mem_foldl, mem_ite, mem_cond, modForme_mem, modGddr_mem, implies_true, and_self, Laws.gddrPutAll_wf, Laws.gddrPut_wf, memOk_phys, FormeOk.g, FormeOk.q, FormeOk.f, fok_foldl, fok_ite, fok_cond, Laws.ParMem.put_wf, Laws.ParMem.putRaw_wf, Laws.ParMem.putAll_wf, implies_true, and_self]

theorem stageFail_mem (s : State)  (hm : MemOk s) : MemOk (stageFail s) := by
  unfold stageFail
  (try dsimp only)
  (repeat' split) <;> simp (maxDischargeDepth := 40) +contextual only [hm, enterFalsework_mem, resetDie_mem, mem_boot_flash, mem_flash, mem_foldl, mem_ite, mem_cond, modForme_mem, modGddr_mem, implies_true, and_self, Laws.gddrPutAll_wf, Laws.gddrPut_wf, memOk_phys, FormeOk.g, FormeOk.q, FormeOk.f, fok_foldl, fok_ite, fok_cond, Laws.ParMem.put_wf, Laws.ParMem.putRaw_wf, Laws.ParMem.putAll_wf, implies_true, and_self]

theorem powerOff_mem (s : State) (p : Power) (hm : MemOk s) : MemOk (powerOff s p) := dieReset_mem _ _ _ _ _ _ _ _

theorem railsUp_mem (s : State)  (hm : MemOk s) : MemOk (railsUp s) := by
  unfold railsUp
  (try dsimp only)
  (repeat' split) <;> simp (maxDischargeDepth := 40) +contextual only [hm, resetDie_mem, mem_pwr, mem_foldl, mem_ite, mem_cond, modForme_mem, modGddr_mem, implies_true, and_self, Laws.gddrPutAll_wf, Laws.gddrPut_wf, memOk_phys, FormeOk.g, FormeOk.q, FormeOk.f, fok_foldl, fok_ite, fok_cond, Laws.ParMem.put_wf, Laws.ParMem.putRaw_wf, Laws.ParMem.putAll_wf, implies_true, and_self]

theorem railStep_mem (s : State)  (hm : MemOk s) : MemOk (railStep s) := by
  unfold railStep
  (try dsimp only)
  (repeat' split) <;> simp (maxDischargeDepth := 40) +contextual only [hm, railsUp_mem, mem_pwr, mem_foldl, mem_ite, mem_cond, modForme_mem, modGddr_mem, implies_true, and_self, Laws.gddrPutAll_wf, Laws.gddrPut_wf, memOk_phys, FormeOk.g, FormeOk.q, FormeOk.f, fok_foldl, fok_ite, fok_cond, Laws.ParMem.put_wf, Laws.ParMem.putRaw_wf, Laws.ParMem.putAll_wf, implies_true, and_self]

theorem inputEffect_mem (s : State) (mv : Nat)  (hm : MemOk s) : MemOk (inputEffect s mv) := by
  refine hm.touch (ps := [.pwr]) ?_ (by decide) (by decide)
  apply inputEffect_touch <;> first | exact Touches.refl _ _ | decide

theorem railFault_mem (s : State) (d : Fin 8)  (hm : MemOk s) : MemOk (railFault s d) := by
  unfold railFault
  (try dsimp only)
  (repeat' split) <;> simp (maxDischargeDepth := 40) +contextual only [hm, peerFenced_mem, powerOff_mem, mem_pwr, mem_foldl, mem_ite, mem_cond, modForme_mem, modGddr_mem, implies_true, and_self, Laws.gddrPutAll_wf, Laws.gddrPut_wf, memOk_phys, FormeOk.g, FormeOk.q, FormeOk.f, fok_foldl, fok_ite, fok_cond, Laws.ParMem.put_wf, Laws.ParMem.putRaw_wf, Laws.ParMem.putAll_wf, implies_true, and_self]

theorem riseSources_mem (s : State) (src : BitVec 6)  (hm : MemOk s) : MemOk (riseSources s src) := by
  unfold riseSources
  (try dsimp only)
  (repeat' split) <;> simp (maxDischargeDepth := 40) +contextual only [hm, securityAlarm_mem, mem_sec, mem_foldl, mem_ite, mem_cond, modForme_mem, modGddr_mem, implies_true, and_self, Laws.gddrPutAll_wf, Laws.gddrPut_wf, memOk_phys, FormeOk.g, FormeOk.q, FormeOk.f, fok_foldl, fok_ite, fok_cond, Laws.ParMem.put_wf, Laws.ParMem.putRaw_wf, Laws.ParMem.putAll_wf, implies_true, and_self]

theorem thermalSampleEffect_mem (s : State) (dieMc memMc : Int)  (hm : MemOk s) : MemOk (thermalSampleEffect s dieMc memMc) := by
  unfold thermalSampleEffect
  (try dsimp only)
  (repeat' split) <;> simp (maxDischargeDepth := 40) +contextual only [hm, fenceDie_mem, riseSources_mem, thermalEffect_mem, mem_sec, mem_foldl, mem_ite, mem_cond, modForme_mem, modGddr_mem, implies_true, and_self, Laws.gddrPutAll_wf, Laws.gddrPut_wf, memOk_phys, FormeOk.g, FormeOk.q, FormeOk.f, fok_foldl, fok_ite, fok_cond, Laws.ParMem.put_wf, Laws.ParMem.putRaw_wf, Laws.ParMem.putAll_wf, implies_true, and_self]

theorem enclEffect_mem (s : State) (level : Bool) (hm : MemOk s) : MemOk (enclEffect s level) := by
  have h1 := mem_pwr hm (v0 := { s.pwr with enclOpen := level })
  unfold enclEffect
  dsimp only
  split
  · exact h1
  · split
    · exact riseSources_mem _ _ h1
    · exact ⟨h1.1, h1.2⟩

theorem setIr_mem (s : State) (ir : Byte)  (hm : MemOk s) : MemOk (setIr s ir) := by
  refine hm.touch (ps := [.sec]) ?_ (by decide) (by decide)
  apply setIr_touch <;> first | exact Touches.refl _ _ | decide

theorem bypass_mem (s : State) (ir : Byte)  (hm : MemOk s) : MemOk (bypass s ir) := by
  refine hm.touch (ps := [.out, .sec]) ?_ (by decide) (by decide)
  apply bypass_touch <;> first | exact Touches.refl _ _ | decide

theorem idcode_mem (s : State)  (hm : MemOk s) : MemOk (idcode s) := by
  refine hm.touch (ps := [.out, .sec]) ?_ (by decide) (by decide)
  apply idcode_touch <;> first | exact Touches.refl _ _ | decide

theorem debugRead_mem (s : State) (dr : BitVec 104)  (hm : MemOk s) : MemOk (debugRead s dr) := by
  unfold debugRead
  (try dsimp only)
  (repeat' split) <;> simp (maxDischargeDepth := 40) +contextual only [hm, emit_mem, mmioRead_mem, setIr_mem, useFree_mem, mem_sec, mem_foldl, mem_ite, mem_cond, modForme_mem, modGddr_mem, implies_true, and_self, Laws.gddrPutAll_wf, Laws.gddrPut_wf, memOk_phys, FormeOk.g, FormeOk.q, FormeOk.f, fok_foldl, fok_ite, fok_cond, Laws.ParMem.put_wf, Laws.ParMem.putRaw_wf, Laws.ParMem.putAll_wf, implies_true, and_self]

theorem debugEffect_mem (s : State) (ir : Byte) (dr : BitVec 104)  (hm : MemOk s) : MemOk (debugEffect s ir dr) := by
  unfold debugEffect
  (try dsimp only)
  (repeat' split) <;> simp (maxDischargeDepth := 40) +contextual only [hm, bypass_mem, debugRead_mem, idcode_mem, securityAlarm_mem, mem_foldl, mem_ite, mem_cond, modForme_mem, modGddr_mem, implies_true, and_self, Laws.gddrPutAll_wf, Laws.gddrPut_wf, memOk_phys, FormeOk.g, FormeOk.q, FormeOk.f, fok_foldl, fok_ite, fok_cond, Laws.ParMem.put_wf, Laws.ParMem.putRaw_wf, Laws.ParMem.putAll_wf, implies_true, and_self]

theorem lowerLevel_mem (s : State) (idx v : Nat)  (hm : MemOk s) : MemOk (lowerLevel s idx v) := by
  refine hm.touch (ps := [.fault]) ?_ (by decide) (by decide)
  apply lowerLevel_touch <;> first | exact Touches.refl _ _ | decide

theorem applyNum_mem (s : State) (idx sub v : Nat)  (hm : MemOk s) : MemOk (applyNum s idx sub v) := by
  refine hm.touch (ps := [.out, .proof, .log, .svc, .fault, .colo, .flash, .upd, .sec]) ?_ (by decide) (by decide)
  apply applyNum_touch <;> first | exact Touches.refl _ _ | decide

theorem applyOct_mem (s : State) (idx sub : Nat) (bs : List Byte)  (hm : MemOk s) : MemOk (applyOct s idx sub bs) := by
  refine hm.touch (ps := [.free, .colo, .flash, .sec]) ?_ (by decide) (by decide)
  apply applyOct_touch <;> first | exact Touches.refl _ _ | decide

theorem applyWrite_mem (s : State) (e : EntSpec) (idx sub : Nat) (bs : List Byte)  (hm : MemOk s) : MemOk (applyWrite s e idx sub bs) := by
  refine hm.touch (ps := [.free, .out, .proof, .log, .svc, .fault, .colo, .flash, .upd, .sec]) ?_ (by decide) (by decide)
  apply applyWrite_touch <;> first | exact Touches.refl _ _ | decide

theorem refusedWrite_mem (s : State) (idx sub : Nat)  (hm : MemOk s) : MemOk (refusedWrite s idx sub) := by
  unfold refusedWrite
  (try dsimp only)
  (repeat' split) <;> simp (maxDischargeDepth := 40) +contextual only [hm, newNonce_mem, unlockRefused_mem, mem_foldl, mem_ite, mem_cond, modForme_mem, modGddr_mem, implies_true, and_self, Laws.gddrPutAll_wf, Laws.gddrPut_wf, memOk_phys, FormeOk.g, FormeOk.q, FormeOk.f, fok_foldl, fok_ite, fok_cond, Laws.ParMem.put_wf, Laws.ParMem.putRaw_wf, Laws.ParMem.putAll_wf, implies_true, and_self]

theorem writeEntry_mem (s : State) (a : Asker) (idx sub typ vlen : Nat) (bs : List Byte) (hm : MemOk s) :
    MemOk (writeEntry s a idx sub typ vlen bs).2.1 := by
  unfold writeEntry
  split
  · split
    · rename_i t heq
      have hx : MemOk t := by
        split at heq
        · exact recordInput_mem heq hm
        · injection heq with heq; subst heq; exact hm
      exact applyWrite_mem _ _ _ _ _ hx
    · exact hm
  · exact refusedWrite_mem _ _ _ hm
  · exact hm

theorem closeSession_mem (s : State) (id : BitVec 32)  (hm : MemOk s) : MemOk (closeSession s id) := by
  refine hm.touch (ps := [.colo]) ?_ (by decide) (by decide)
  apply closeSession_touch <;> first | exact Touches.refl _ _ | decide

theorem doAfter_mem (s : State) (x : After)  (hm : MemOk s) : MemOk (doAfter s x) := by
  unfold doAfter
  (try dsimp only)
  (repeat' split) <;> simp (maxDischargeDepth := 40) +contextual only [hm, closeSession_mem, dieRestart_mem, fenceDie_mem, unlock_mem, mem_foldl, mem_ite, mem_cond, modForme_mem, modGddr_mem, implies_true, and_self, Laws.gddrPutAll_wf, Laws.gddrPut_wf, memOk_phys, FormeOk.g, FormeOk.q, FormeOk.f, fok_foldl, fok_ite, fok_cond, Laws.ParMem.put_wf, Laws.ParMem.putRaw_wf, Laws.ParMem.putAll_wf, implies_true, and_self]

theorem refuseMsg_mem (s : State) (c : CStat)  (hm : MemOk s) : MemOk (refuseMsg s c).st := by
  refine hm.touch (ps := []) ?_ (by decide) (by decide)
  apply refuseMsg_touch <;> first | exact Touches.refl _ _ | decide

theorem handleRead_mem (s : State) (b : List Byte)  (hm : MemOk s) : MemOk (handleRead s b).st := by
  refine hm.touch (ps := []) ?_ (by decide) (by decide)
  apply handleRead_touch <;> first | exact Touches.refl _ _ | decide

theorem writeItems_mem (a : Asker) (s : State) (l : List WItem) (hm : MemOk s) : MemOk (writeItems a s l).2.2.1 := by
  induction l generalizing s with
  | nil => exact hm
  | cons x t ih =>
    unfold writeItems
    dsimp only
    exact ih _ (writeEntry_mem _ _ _ _ _ _ _ hm)

theorem handleWrite_mem (s : State) (a : Asker) (b : List Byte)  (hm : MemOk s) : MemOk (handleWrite s a b).st := by
  unfold handleWrite
  (try dsimp only)
  (repeat' split) <;> simp (maxDischargeDepth := 40) +contextual only [hm, refuseMsg_mem, writeItems_mem, mem_foldl, mem_ite, mem_cond, modForme_mem, modGddr_mem, implies_true, and_self, Laws.gddrPutAll_wf, Laws.gddrPut_wf, memOk_phys, FormeOk.g, FormeOk.q, FormeOk.f, fok_foldl, fok_ite, fok_cond, Laws.ParMem.put_wf, Laws.ParMem.putRaw_wf, Laws.ParMem.putAll_wf, implies_true, and_self]

theorem handleReadBlock_mem (s : State) (b : List Byte)  (hm : MemOk s) : MemOk (handleReadBlock s b).st := by
  refine hm.touch (ps := []) ?_ (by decide) (by decide)
  apply handleReadBlock_touch <;> first | exact Touches.refl _ _ | decide

theorem handleWriteBlock_mem (s : State) (a : Asker) (b : List Byte)  (hm : MemOk s) : MemOk (handleWriteBlock s a b).st := by
  refine hm.touch (ps := [.flash]) ?_ (by decide) (by decide)
  apply handleWriteBlock_touch <;> first | exact Touches.refl _ _ | decide

theorem renewSub_mem (s : State) (key : ClientKey) (c : ColoMsg) (mask ack : Nat)  (hm : MemOk s) : MemOk (renewSub s key c mask ack) := by
  refine hm.touch (ps := [.colo]) ?_ (by decide) (by decide)
  apply renewSub_touch <;> first | exact Touches.refl _ _ | decide

theorem addSub_mem (s : State) (key : ClientKey) (c : ColoMsg) (mask : Nat)  (hm : MemOk s) : MemOk (addSub s key c mask) := by
  refine hm.touch (ps := [.colo]) ?_ (by decide) (by decide)
  apply addSub_touch <;> first | exact Touches.refl _ _ | decide

theorem handleNotify_mem (s : State) (a : Asker) (m : ColoMsg)  (hm : MemOk s) : MemOk (handleNotify s a m).st := by
  refine hm.touch (ps := [.out, .span, .abut, .colo]) ?_ (by decide) (by decide)
  apply handleNotify_touch <;> first | exact Touches.refl _ _ | decide

theorem openSession_mem (s : State) (slot : Nat) (ea key : List Byte)  (hm : MemOk s) : MemOk (openSession s slot ea key).st := by
  refine hm.touch (ps := [.free, .colo]) ?_ (by decide) (by decide)
  apply openSession_touch <;> first | exact Touches.refl _ _ | decide

theorem handleSessionOpen_mem (s : State) (a : Asker) (b : List Byte)  (hm : MemOk s) : MemOk (handleSessionOpen s a b).st := by
  refine hm.touch (ps := [.free, .colo]) ?_ (by decide) (by decide)
  apply handleSessionOpen_touch <;> first | exact Touches.refl _ _ | decide

theorem handleOp_mem (s : State) (a : Asker) (m : ColoMsg)  (hm : MemOk s) : MemOk (handleOp s a m).st := by
  unfold handleOp
  (try dsimp only)
  (repeat' split) <;> simp (maxDischargeDepth := 40) +contextual only [hm, handleNotify_mem, handleRead_mem, handleReadBlock_mem, handleSessionOpen_mem, handleWrite_mem, handleWriteBlock_mem, refuseMsg_mem, mem_foldl, mem_ite, mem_cond, modForme_mem, modGddr_mem, implies_true, and_self, Laws.gddrPutAll_wf, Laws.gddrPut_wf, memOk_phys, FormeOk.g, FormeOk.q, FormeOk.f, fok_foldl, fok_ite, fok_cond, Laws.ParMem.put_wf, Laws.ParMem.putRaw_wf, Laws.ParMem.putAll_wf, implies_true, and_self]

theorem respond_mem (s : State) (key : ClientKey) (m : ColoMsg) (h : Handled)  (hm : MemOk s) : MemOk (respond s key m h) := by
  refine hm.touch (ps := [.out, .colo]) ?_ (by decide) (by decide)
  apply respond_touch <;> first | exact Touches.refl _ _ | decide

theorem countRequest_mem (s : State) (refused : Nat)  (hm : MemOk s) : MemOk (countRequest s refused) := by
  refine hm.touch (ps := [.colo]) ?_ (by decide) (by decide)
  apply countRequest_touch <;> first | exact Touches.refl _ _ | decide

theorem releaseEvents_mem (s : State)  (hm : MemOk s) : MemOk (releaseEvents s) := by
  refine hm.touch (ps := [.out, .colo]) ?_ (by decide) (by decide)
  apply releaseEvents_touch <;> first | exact Touches.refl _ _ | decide

theorem process_mem (s : State) (a : Asker) (m : ColoMsg) (hm : MemOk s) : MemOk (process s a m) := by
  have h1 := mem_colo hm (v0 := { s.colo with busy := true })
  unfold process
  dsimp only
  split
  all_goals
    refine mem_foldl ?_ ?_
    · intro t x ht
      exact doAfter_mem _ _ ht
    · simp (maxDischargeDepth := 40) only [releaseEvents_mem, respond_mem, countRequest_mem, refuseMsg_mem, handleOp_mem, h1]

theorem serve_mem (s : State) (a : Asker) (m : ColoMsg)  (hm : MemOk s) : MemOk (serve s a m) := by
  unfold serve
  (try dsimp only)
  (repeat' split) <;> simp (maxDischargeDepth := 40) +contextual only [hm, process_mem, sendColo_mem, mem_foldl, mem_ite, mem_cond, modForme_mem, modGddr_mem, implies_true, and_self, Laws.gddrPutAll_wf, Laws.gddrPut_wf, memOk_phys, FormeOk.g, FormeOk.q, FormeOk.f, fok_foldl, fok_ite, fok_cond, Laws.ParMem.put_wf, Laws.ParMem.putRaw_wf, Laws.ParMem.putAll_wf, implies_true, and_self]

theorem touchSession_mem (s : State) (id : BitVec 32) (m : ColoMsg)  (hm : MemOk s) : MemOk (touchSession s id m) := by
  refine hm.touch (ps := [.colo]) ?_ (by decide) (by decide)
  apply touchSession_touch <;> first | exact Touches.refl _ _ | decide

theorem coloMessage_mem (s : State) (m : ColoMsg)  (hm : MemOk s) : MemOk (coloMessage s m) := by
  unfold coloMessage
  (try dsimp only)
  (repeat' split) <;> simp (maxDischargeDepth := 40) +contextual only [hm, bumpEnt_mem, countRequest_mem, refuseMsg_mem, respond_mem, serve_mem, touchSession_mem, mem_foldl, mem_ite, mem_cond, modForme_mem, modGddr_mem, implies_true, and_self, Laws.gddrPutAll_wf, Laws.gddrPut_wf, memOk_phys, FormeOk.g, FormeOk.q, FormeOk.f, fok_foldl, fok_ite, fok_cond, Laws.ParMem.put_wf, Laws.ParMem.putRaw_wf, Laws.ParMem.putAll_wf, implies_true, and_self]

theorem resendSub_mem (s : State) (x : Sub)  (hm : MemOk s) : MemOk (resendSub s x) := by
  refine hm.touch (ps := [.out, .colo]) ?_ (by decide) (by decide)
  apply resendSub_touch <;> first | exact Touches.refl _ _ | decide

theorem unlockEffect_mem (s : State) (token : List Byte)  (hm : MemOk s) : MemOk (unlockEffect s token) := by
  unfold unlockEffect
  (try dsimp only)
  (repeat' split) <;> simp (maxDischargeDepth := 40) +contextual only [hm, newNonce_mem, unlock_mem, unlockRefused_mem, mem_foldl, mem_ite, mem_cond, modForme_mem, modGddr_mem, implies_true, and_self, Laws.gddrPutAll_wf, Laws.gddrPut_wf, memOk_phys, FormeOk.g, FormeOk.q, FormeOk.f, fok_foldl, fok_ite, fok_cond, Laws.ParMem.put_wf, Laws.ParMem.putRaw_wf, Laws.ParMem.putAll_wf, implies_true, and_self]

theorem writeProofCtrl_mem (s : State) (v : Word)  (hm : MemOk s) : MemOk (writeProofCtrl s v) := by
  refine hm.touch (ps := [.proof]) ?_ (by decide) (by decide)
  apply writeProofCtrl_touch <;> first | exact Touches.refl _ _ | decide

theorem writeImposerBell_mem (s : State) (v : Word)  (hm : MemOk s) : MemOk (writeImposerBell s v) := by
  unfold writeImposerBell
  (try dsimp only)
  (repeat' split) <;> simp (maxDischargeDepth := 40) +contextual only [hm, cmdBell_mem, evtBell_mem, mem_foldl, mem_ite, mem_cond, modForme_mem, modGddr_mem, implies_true, and_self, Laws.gddrPutAll_wf, Laws.gddrPut_wf, memOk_phys, FormeOk.g, FormeOk.q, FormeOk.f, fok_foldl, fok_ite, fok_cond, Laws.ParMem.put_wf, Laws.ParMem.putRaw_wf, Laws.ParMem.putAll_wf, implies_true, and_self]

theorem writeImposerStatus_mem (s : State) (v : Word)  (hm : MemOk s) : MemOk (writeImposerStatus s v) := by
  refine hm.touch (ps := [.imp]) ?_ (by decide) (by decide)
  apply writeImposerStatus_touch <;> first | exact Touches.refl _ _ | decide

theorem writeGroup_mem (s : State) (g : Nat) (v : Word)  (hm : MemOk s) : MemOk (writeGroup s g v) := by
  refine hm.touch (ps := [.coll]) ?_ (by decide) (by decide)
  apply writeGroup_touch <;> first | exact Touches.refl _ _ | decide

theorem writeDieSingle_mem (s : State) (o : Nat) (v : Word)  (hm : MemOk s) : MemOk (writeDieSingle s o v) := by
  unfold writeDieSingle
  (try dsimp only)
  (repeat' split) <;> simp (maxDischargeDepth := 40) +contextual only [hm, clearAlarms_mem, writeAppend_mem, writeBuckets_mem, writeCmdRing_mem, writeDoorbell_mem, writeEvtRing_mem, writeExtRetire_mem, writeFence_mem, writeImposerBell_mem, writeImposerStatus_mem, writeIntCtrl_mem, writeLogCtrl_mem, writeObjCmd_mem, writeProofCtrl_mem, mem_check, mem_foldl, mem_ite, mem_cond, modForme_mem, modGddr_mem, implies_true, and_self, Laws.gddrPutAll_wf, Laws.gddrPut_wf, memOk_phys, FormeOk.g, FormeOk.q, FormeOk.f, fok_foldl, fok_ite, fok_cond, Laws.ParMem.put_wf, Laws.ParMem.putRaw_wf, Laws.ParMem.putAll_wf, implies_true, and_self]

theorem writeDieReg_mem (s : State) (o : Nat) (v : Word)  (hm : MemOk s) : MemOk (writeDieReg s o v) := by
  unfold writeDieReg
  (try dsimp only)
  (repeat' split) <;> simp (maxDischargeDepth := 40) +contextual only [hm, writeBar_mem, writeColl_mem, writeDieSingle_mem, writeGroup_mem, writeLink_mem, mem_foldl, mem_ite, mem_cond, modForme_mem, modGddr_mem, implies_true, and_self, Laws.gddrPutAll_wf, Laws.gddrPut_wf, memOk_phys, FormeOk.g, FormeOk.q, FormeOk.f, fok_foldl, fok_ite, fok_cond, Laws.ParMem.put_wf, Laws.ParMem.putRaw_wf, Laws.ParMem.putAll_wf, implies_true, and_self]

theorem writeRegion_mem (s : State) (n k : Nat) (v : Word)  (hm : MemOk s) : MemOk (writeRegion s n k v) := by
  refine hm.touch (ps := [.tbl]) ?_ (by decide) (by decide)
  apply writeRegion_touch <;> first | exact Touches.refl _ _ | decide

theorem writeWindow_mem (s : State) (n k : Nat) (v : Word)  (hm : MemOk s) : MemOk (writeWindow s n k v) := by
  refine hm.touch (ps := [.tbl]) ?_ (by decide) (by decide)
  apply writeWindow_touch <;> first | exact Touches.refl _ _ | decide

theorem writeTag_mem (s : State) (g k : Nat) (v : Word)  (hm : MemOk s) : MemOk (writeTag s g k v) := by
  refine hm.touch (ps := [.tbl]) ?_ (by decide) (by decide)
  apply writeTag_touch <;> first | exact Touches.refl _ _ | decide

theorem writeHist_mem (s : State) (o : Nat) (v : Word)  (hm : MemOk s) : MemOk (writeHist s o v) := by
  refine hm.touch (ps := [.tbl]) ?_ (by decide) (by decide)
  apply writeHist_touch <;> first | exact Touches.refl _ _ | decide

theorem writeReg_mem (s : State) (v : Word) (r : RegAddr) (hm : MemOk s) : MemOk (writeReg s v r) := by
  cases r <;> unfold writeReg <;> dsimp only <;> (repeat' split) <;>
    simp (maxDischargeDepth := 40) +contextual only [modForme_mem, relist_mem, writeDieReg_mem, writeTag_mem, writeHist_mem,
      writeRoute_mem, writeRegion_mem, writeWindow_mem, writeFormeReg_fok, hm, implies_true]

theorem mmioWrite_mem (s : State) (a : Nat) (v : Word)  (hm : MemOk s) : MemOk (mmioWrite s a v) := by
  unfold mmioWrite
  (try dsimp only)
  (repeat' split) <;> simp (maxDischargeDepth := 40) +contextual only [hm, writeReg_mem, mem_foldl, mem_ite, mem_cond, modForme_mem, modGddr_mem, implies_true, and_self, Laws.gddrPutAll_wf, Laws.gddrPut_wf, memOk_phys, FormeOk.g, FormeOk.q, FormeOk.f, fok_foldl, fok_ite, fok_cond, Laws.ParMem.put_wf, Laws.ParMem.putRaw_wf, Laws.ParMem.putAll_wf, implies_true, and_self]

theorem setLine_mem (s : State) (l : Nat) (x : CacheLine)  (hm : MemOk s) : MemOk (setLine s l x) := by
  refine hm.touch (ps := [.cores]) ?_ (by decide) (by decide)
  apply setLine_touch <;> first | exact Touches.refl _ _ | decide

theorem dropLine_mem (s : State) (l : Nat)  (hm : MemOk s) : MemOk (dropLine s l) := by
  refine hm.touch (ps := [.cores]) ?_ (by decide) (by decide)
  apply dropLine_touch <;> first | exact Touches.refl _ _ | decide

theorem coreFaults_mem (s : State) (hart : Fin 8)  (hm : MemOk s) : MemOk (coreFaults s hart) := by
  refine hm.touch (ps := [.out]) ?_ (by decide) (by decide)
  apply coreFaults_touch <;> first | exact Touches.refl _ _ | decide

theorem cacheError_mem (s : State) (hart : Fin 8) (k : CoreKind) (l : Nat)  (hm : MemOk s) : MemOk (cacheError s hart k l) := by
  unfold cacheError
  (try dsimp only)
  (repeat' split) <;> simp (maxDischargeDepth := 40) +contextual only [hm, dropLine_mem, fenceFault_mem, logFault_mem, mem_foldl, mem_ite, mem_cond, modForme_mem, modGddr_mem, implies_true, and_self, Laws.gddrPutAll_wf, Laws.gddrPut_wf, memOk_phys, FormeOk.g, FormeOk.q, FormeOk.f, fok_foldl, fok_ite, fok_cond, Laws.ParMem.put_wf, Laws.ParMem.putRaw_wf, Laws.ParMem.putAll_wf, implies_true, and_self]

theorem fillLine_mem {s : State} {l : Nat} {t : State} (he : fillLine s l = .inl t ∨ fillLine s l = .inr t)  (hm : MemOk s) : MemOk t := by
  revert he
  unfold fillLine
  (try dsimp only)
  (repeat' split) <;> intro he <;> (rcases he with he | he) <;> (first | contradiction | (injection he with he; subst he; first | simp (maxDischargeDepth := 40) +contextual only [hm, gddrError_mem, setLine_mem, mem_foldl, mem_ite, mem_cond, modForme_mem, modGddr_mem, implies_true, and_self, Laws.gddrPutAll_wf, Laws.gddrPut_wf, memOk_phys, FormeOk.g, FormeOk.q, FormeOk.f, fok_foldl, fok_ite, fok_cond, Laws.ParMem.put_wf, Laws.ParMem.putRaw_wf, Laws.ParMem.putAll_wf, implies_true, and_self]))

theorem fillLines_mem {l : List Nat} {s t : State} (he : fillLines l s = .inl t ∨ fillLines l s = .inr t) (hm : MemOk s) :
    MemOk t := by
  induction l generalizing s with
  | nil => rcases he with he | he <;> first | contradiction | (injection he with he; subst he; exact hm)
  | cons x xs ih =>
    unfold fillLines at he
    cases hx : fillLine s x with
    | inl u =>
      rw [hx] at he
      have hu := fillLine_mem (.inl hx) hm
      rcases he with he | he <;> first | contradiction | (injection he with he; subst he; exact hu)
    | inr u =>
      rw [hx] at he
      exact ih he (fillLine_mem (.inr hx) hm)

theorem storeByte_mem (s : State) (p : Nat × Byte)  (hm : MemOk s) : MemOk (storeByte s p) := by
  refine hm.touch (ps := [.cores]) ?_ (by decide) (by decide)
  apply storeByte_touch <;> first | exact Touches.refl _ _ | decide

theorem cachedAccess_mem (s : State) (hart : Fin 8) (store : Bool) (a n : Nat) (v : Word) (hm : MemOk s) :
    MemOk (cachedAccess s hart store a n v) := by
  unfold cachedAccess
  split
  · rename_i he
    exact coreFaults_mem _ _ (fillLines_mem (.inl he) hm)
  · rename_i he
    have h1 := fillLines_mem (.inr he) hm
    split
    · refine mem_foldl ?_ h1
      intro t x ht
      exact storeByte_mem _ _ ht
    · exact emit_mem _ _ h1

theorem writeBackLine_mem (s : State) (l : Nat)  (hm : MemOk s) : MemOk (writeBackLine s l) := by
  unfold writeBackLine
  (try dsimp only)
  (repeat' split) <;> simp (maxDischargeDepth := 40) +contextual only [hm, setLine_mem, mem_gddr, mem_foldl, mem_ite, mem_cond, modForme_mem, modGddr_mem, implies_true, and_self, Laws.gddrPutAll_wf, Laws.gddrPut_wf, memOk_phys, FormeOk.g, FormeOk.q, FormeOk.f, fok_foldl, fok_ite, fok_cond, Laws.ParMem.put_wf, Laws.ParMem.putRaw_wf, Laws.ParMem.putAll_wf, implies_true, and_self]

theorem memLoad_mem (s : State) (a : Nat)  (hm : MemOk s) : MemOk (memLoad s a) := by
  unfold memLoad
  (try dsimp only)
  (repeat' split) <;> simp (maxDischargeDepth := 40) +contextual only [hm, emit_mem, logFault_mem, memoryError_mem, readData_mem, useFree_mem, mem_foldl, mem_ite, mem_cond, modForme_mem, modGddr_mem, implies_true, and_self, Laws.gddrPutAll_wf, Laws.gddrPut_wf, memOk_phys, FormeOk.g, FormeOk.q, FormeOk.f, fok_foldl, fok_ite, fok_cond, Laws.ParMem.put_wf, Laws.ParMem.putRaw_wf, Laws.ParMem.putAll_wf, implies_true, and_self]

theorem uncachedLoad_mem (s : State) (hart : Fin 8) (a : Nat)  (hm : MemOk s) : MemOk (uncachedLoad s hart a) := by
  unfold uncachedLoad
  (try dsimp only)
  (repeat' split) <;> simp (maxDischargeDepth := 40) +contextual only [hm, coreFaults_mem, emit_mem, memLoad_mem, readData_mem, regReadEffect_mem, mem_foldl, mem_ite, mem_cond, modForme_mem, modGddr_mem, implies_true, and_self, Laws.gddrPutAll_wf, Laws.gddrPut_wf, memOk_phys, FormeOk.g, FormeOk.q, FormeOk.f, fok_foldl, fok_ite, fok_cond, Laws.ParMem.put_wf, Laws.ParMem.putRaw_wf, Laws.ParMem.putAll_wf, implies_true, and_self]

theorem uncachedStore_mem (s : State) (hart : Fin 8) (a : Nat) (v : Word)  (hm : MemOk s) : MemOk (uncachedStore s hart a v) := by
  unfold uncachedStore
  (try dsimp only)
  (repeat' split) <;> simp (maxDischargeDepth := 40) +contextual only [hm, coreFaults_mem, localPutAll_mem, writeReg_mem, mem_foldl, mem_ite, mem_cond, modForme_mem, modGddr_mem, implies_true, and_self, Laws.gddrPutAll_wf, Laws.gddrPut_wf, memOk_phys, FormeOk.g, FormeOk.q, FormeOk.f, fok_foldl, fok_ite, fok_cond, Laws.ParMem.put_wf, Laws.ParMem.putRaw_wf, Laws.ParMem.putAll_wf, implies_true, and_self]

theorem uncachedAccess_mem (s : State) (hart : Fin 8) (store : Bool) (a n : Nat) (v : Word)  (hm : MemOk s) : MemOk (uncachedAccess s hart store a n v) := by
  unfold uncachedAccess
  (try dsimp only)
  (repeat' split) <;> simp (maxDischargeDepth := 40) +contextual only [hm, emit_mem, readData_mem, uncachedLoad_mem, uncachedStore_mem, mem_foldl, mem_ite, mem_cond, modForme_mem, modGddr_mem, implies_true, and_self, Laws.gddrPutAll_wf, Laws.gddrPut_wf, memOk_phys, FormeOk.g, FormeOk.q, FormeOk.f, fok_foldl, fok_ite, fok_cond, Laws.ParMem.put_wf, Laws.ParMem.putRaw_wf, Laws.ParMem.putAll_wf, implies_true, and_self]

theorem dataAccess_mem (s : State) (hart : Fin 8) (store : Bool) (a n : Nat) (v : Word)  (hm : MemOk s) : MemOk (dataAccess s hart store a n v) := by
  unfold dataAccess
  (try dsimp only)
  (repeat' split) <;> simp (maxDischargeDepth := 40) +contextual only [hm, cachedAccess_mem, coreFaults_mem, uncachedAccess_mem, mem_foldl, mem_ite, mem_cond, modForme_mem, modGddr_mem, implies_true, and_self, Laws.gddrPutAll_wf, Laws.gddrPut_wf, memOk_phys, FormeOk.g, FormeOk.q, FormeOk.f, fok_foldl, fok_ite, fok_cond, Laws.ParMem.put_wf, Laws.ParMem.putRaw_wf, Laws.ParMem.putAll_wf, implies_true, and_self]

theorem coreOp_mem (s : State) (hart : Fin 8) (k : CoreKind) (a n : Nat) (v : Word)  (hm : MemOk s) : MemOk (coreOp s hart k a n v) := by
  unfold coreOp
  (try dsimp only)
  (repeat' split) <;> simp (maxDischargeDepth := 40) +contextual only [hm, dataAccess_mem, dropLine_mem, writeBackLine_mem, mem_foldl, mem_ite, mem_cond, modForme_mem, modGddr_mem, implies_true, and_self, Laws.gddrPutAll_wf, Laws.gddrPut_wf, memOk_phys, FormeOk.g, FormeOk.q, FormeOk.f, fok_foldl, fok_ite, fok_cond, Laws.ParMem.put_wf, Laws.ParMem.putRaw_wf, Laws.ParMem.putAll_wf, implies_true, and_self]

theorem coreEffect_mem (s : State) (hart : Fin 8) (k : CoreKind) (a n : Nat) (v : Word) (par : Bool)  (hm : MemOk s) : MemOk (coreEffect s hart k a n v par) := by
  unfold coreEffect
  (try dsimp only)
  (repeat' split) <;> simp (maxDischargeDepth := 40) +contextual only [hm, cacheError_mem, coreOp_mem, mem_foldl, mem_ite, mem_cond, modForme_mem, modGddr_mem, implies_true, and_self, Laws.gddrPutAll_wf, Laws.gddrPut_wf, memOk_phys, FormeOk.g, FormeOk.q, FormeOk.f, fok_foldl, fok_ite, fok_cond, Laws.ParMem.put_wf, Laws.ParMem.putRaw_wf, Laws.ParMem.putAll_wf, implies_true, and_self]

end Sys2Proof
end

