-- ==== Sys2Proof/Laws/MemoryExec.lean ====
section
/-! SUPPORT. Every command keeps the memories canonical: `execX_mem` -/

namespace Sys2Proof

open Machine

set_option maxRecDepth 4000
set_option linter.unusedSimpArgs false
set_option linter.unusedVariables false

theorem onlyIf_mem {c : Bool} {s u t : State} (he : onlyIf c s u = .next t) (hm : MemOk s) (h : MemOk u) : MemOk t := by
  unfold onlyIf at he
  injection he with he
  subst he
  cases c
  · exact hm
  · exact h

theorem execInstructionDispatch_mem {f : FormeIx} {s : State} {t : State} (he : execInstructionDispatch f s = .next t) (hm : MemOk s) : MemOk t := by
  unfold execInstructionDispatch at he
  refine onlyIf_mem he hm ?_
  (try dsimp only)
  (repeat' split) <;> simp (maxDischargeDepth := 40) +contextual only [hm, id_eq, dispatchNext_mem, mem_foldl, mem_ite, mem_cond, modForme_mem, modGddr_mem, implies_true, and_self, Laws.gddrPutAll_wf, Laws.gddrPut_wf, memOk_phys, FormeOk.g, FormeOk.q, FormeOk.f, fok_foldl, fok_ite, fok_cond, Laws.ParMem.put_wf, Laws.ParMem.putRaw_wf, Laws.ParMem.putAll_wf, implies_true, and_self]

theorem execFolioAbortDone_mem {h : BitVec 16} {s : State} {t : State} (he : execFolioAbortDone h s = .next t) (hm : MemOk s) : MemOk t := by
  unfold execFolioAbortDone at he
  refine onlyIf_mem he hm ?_
  (try dsimp only)
  (repeat' split) <;> simp (maxDischargeDepth := 40) +contextual only [hm, id_eq, abortEffect_mem, mem_foldl, mem_ite, mem_cond, modForme_mem, modGddr_mem, implies_true, and_self, Laws.gddrPutAll_wf, Laws.gddrPut_wf, memOk_phys, FormeOk.g, FormeOk.q, FormeOk.f, fok_foldl, fok_ite, fok_cond, Laws.ParMem.put_wf, Laws.ParMem.putRaw_wf, Laws.ParMem.putAll_wf, implies_true, and_self]

theorem execWaitGrant_mem {f : FormeIx} {q : Queue} {s : State} {t : State} (he : execWaitGrant f q s = .next t) (hm : MemOk s) : MemOk t := by
  unfold execWaitGrant at he
  refine onlyIf_mem he hm ?_
  (try dsimp only)
  (repeat' split) <;> simp (maxDischargeDepth := 40) +contextual only [hm, id_eq, waitGrantEffect_mem, mem_foldl, mem_ite, mem_cond, modForme_mem, modGddr_mem, implies_true, and_self, Laws.gddrPutAll_wf, Laws.gddrPut_wf, memOk_phys, FormeOk.g, FormeOk.q, FormeOk.f, fok_foldl, fok_ite, fok_cond, Laws.ParMem.put_wf, Laws.ParMem.putRaw_wf, Laws.ParMem.putAll_wf, implies_true, and_self]

theorem execWaitTimeout_mem {f : FormeIx} {q : Queue} {s : State} {t : State} (he : execWaitTimeout f q s = .next t) (hm : MemOk s) : MemOk t := by
  unfold execWaitTimeout at he
  refine onlyIf_mem he hm ?_
  (try dsimp only)
  (repeat' split) <;> simp (maxDischargeDepth := 40) +contextual only [hm, id_eq, waitTimeoutEffect_mem, mem_foldl, mem_ite, mem_cond, modForme_mem, modGddr_mem, implies_true, and_self, Laws.gddrPutAll_wf, Laws.gddrPut_wf, memOk_phys, FormeOk.g, FormeOk.q, FormeOk.f, fok_foldl, fok_ite, fok_cond, Laws.ParMem.put_wf, Laws.ParMem.putRaw_wf, Laws.ParMem.putAll_wf, implies_true, and_self]

theorem execInstructionComplete_mem {f : FormeIx} {index : BitVec 24} {s : State} {t : State} (he : execInstructionComplete f index s = .next t) (hm : MemOk s) : MemOk t := by
  unfold execInstructionComplete at he
  refine onlyIf_mem he hm ?_
  (try dsimp only)
  (repeat' split) <;> simp (maxDischargeDepth := 40) +contextual only [hm, id_eq, completeEffect_mem, mem_foldl, mem_ite, mem_cond, modForme_mem, modGddr_mem, implies_true, and_self, Laws.gddrPutAll_wf, Laws.gddrPut_wf, memOk_phys, FormeOk.g, FormeOk.q, FormeOk.f, fok_foldl, fok_ite, fok_cond, Laws.ParMem.put_wf, Laws.ParMem.putRaw_wf, Laws.ParMem.putAll_wf, implies_true, and_self]

theorem execCcopy_mem {f : FormeIx} {rep : MemReport} {s : State} {t : State} (he : execCcopy f rep s = .next t) (hm : MemOk s) : MemOk t := by
  unfold execCcopy at he
  refine onlyIf_mem he hm ?_
  (try dsimp only)
  (repeat' split) <;> simp (maxDischargeDepth := 40) +contextual only [hm, id_eq, ccopyEffect_mem, mem_foldl, mem_ite, mem_cond, modForme_mem, modGddr_mem, implies_true, and_self, Laws.gddrPutAll_wf, Laws.gddrPut_wf, memOk_phys, FormeOk.g, FormeOk.q, FormeOk.f, fok_foldl, fok_ite, fok_cond, Laws.ParMem.put_wf, Laws.ParMem.putRaw_wf, Laws.ParMem.putAll_wf, implies_true, and_self]

theorem execCopyComplete_mem {f : FormeIx} {c : Fin 8} {s : State} {t : State} (he : execCopyComplete f c s = .next t) (hm : MemOk s) : MemOk t := by
  unfold execCopyComplete at he
  refine onlyIf_mem he hm ?_
  (try dsimp only)
  (repeat' split) <;> simp (maxDischargeDepth := 40) +contextual only [hm, id_eq, copyRetire_mem, mem_foldl, mem_ite, mem_cond, modForme_mem, modGddr_mem, implies_true, and_self, Laws.gddrPutAll_wf, Laws.gddrPut_wf, memOk_phys, FormeOk.g, FormeOk.q, FormeOk.f, fok_foldl, fok_ite, fok_cond, Laws.ParMem.put_wf, Laws.ParMem.putRaw_wf, Laws.ParMem.putAll_wf, implies_true, and_self]

theorem execPacc_mem {f : FormeIx} {s : State} {t : State} (he : execPacc f s = .next t) (hm : MemOk s) : MemOk t := by
  unfold execPacc at he
  refine onlyIf_mem he hm ?_
  (try dsimp only)
  (repeat' split) <;> simp (maxDischargeDepth := 40) +contextual only [hm, id_eq, paccEffect_mem, mem_foldl, mem_ite, mem_cond, modForme_mem, modGddr_mem, implies_true, and_self, Laws.gddrPutAll_wf, Laws.gddrPut_wf, memOk_phys, FormeOk.g, FormeOk.q, FormeOk.f, fok_foldl, fok_ite, fok_cond, Laws.ParMem.put_wf, Laws.ParMem.putRaw_wf, Laws.ParMem.putAll_wf, implies_true, and_self]

theorem execWindowSwap_mem {f : FormeIx} {p : Fin 4} {s : State} {t : State} (he : execWindowSwap f p s = .next t) (hm : MemOk s) : MemOk t := by
  unfold execWindowSwap at he
  refine onlyIf_mem he hm ?_
  (try dsimp only)
  (repeat' split) <;> simp (maxDischargeDepth := 40) +contextual only [hm, id_eq, swapEffect_mem, mem_foldl, mem_ite, mem_cond, modForme_mem, modGddr_mem, implies_true, and_self, Laws.gddrPutAll_wf, Laws.gddrPut_wf, memOk_phys, FormeOk.g, FormeOk.q, FormeOk.f, fok_foldl, fok_ite, fok_cond, Laws.ParMem.put_wf, Laws.ParMem.putRaw_wf, Laws.ParMem.putAll_wf, implies_true, and_self]

theorem execAccumulateComplete_mem {f : FormeIx} {s : State} {t : State} (he : execAccumulateComplete f s = .next t) (hm : MemOk s) : MemOk t := by
  unfold execAccumulateComplete at he
  refine onlyIf_mem he hm ?_
  (try dsimp only)
  (repeat' split) <;> simp (maxDischargeDepth := 40) +contextual only [hm, id_eq, accEffect_fok, mem_foldl, mem_ite, mem_cond, modForme_mem, modGddr_mem, implies_true, and_self, Laws.gddrPutAll_wf, Laws.gddrPut_wf, memOk_phys, FormeOk.g, FormeOk.q, FormeOk.f, fok_foldl, fok_ite, fok_cond, Laws.ParMem.put_wf, Laws.ParMem.putRaw_wf, Laws.ParMem.putAll_wf, implies_true, and_self]

theorem execDrain_mem {f : FormeIx} {s : State} {t : State} (he : execDrain f s = .next t) (hm : MemOk s) : MemOk t := by
  unfold execDrain at he
  refine onlyIf_mem he hm ?_
  (try dsimp only)
  (repeat' split) <;> simp (maxDischargeDepth := 40) +contextual only [hm, id_eq, drainEffect_mem, mem_foldl, mem_ite, mem_cond, modForme_mem, modGddr_mem, implies_true, and_self, Laws.gddrPutAll_wf, Laws.gddrPut_wf, memOk_phys, FormeOk.g, FormeOk.q, FormeOk.f, fok_foldl, fok_ite, fok_cond, Laws.ParMem.put_wf, Laws.ParMem.putRaw_wf, Laws.ParMem.putAll_wf, implies_true, and_self]

theorem execTssave_mem {f : FormeIx} {s : State} {t : State} (he : execTssave f s = .next t) (hm : MemOk s) : MemOk t := by
  unfold execTssave at he
  refine onlyIf_mem he hm ?_
  (try dsimp only)
  (repeat' split) <;> simp (maxDischargeDepth := 40) +contextual only [hm, id_eq, runHead_mem, tssaveEffect_mem, mem_foldl, mem_ite, mem_cond, modForme_mem, modGddr_mem, implies_true, and_self, Laws.gddrPutAll_wf, Laws.gddrPut_wf, memOk_phys, FormeOk.g, FormeOk.q, FormeOk.f, fok_foldl, fok_ite, fok_cond, Laws.ParMem.put_wf, Laws.ParMem.putRaw_wf, Laws.ParMem.putAll_wf, implies_true, and_self]

theorem execTsload_mem {f : FormeIx} {s : State} {t : State} (he : execTsload f s = .next t) (hm : MemOk s) : MemOk t := by
  unfold execTsload at he
  refine onlyIf_mem he hm ?_
  (try dsimp only)
  (repeat' split) <;> simp (maxDischargeDepth := 40) +contextual only [hm, id_eq, runHead_mem, tsloadEffect_mem, mem_foldl, mem_ite, mem_cond, modForme_mem, modGddr_mem, implies_true, and_self, Laws.gddrPutAll_wf, Laws.gddrPut_wf, memOk_phys, FormeOk.g, FormeOk.q, FormeOk.f, fok_foldl, fok_ite, fok_cond, Laws.ParMem.put_wf, Laws.ParMem.putRaw_wf, Laws.ParMem.putAll_wf, implies_true, and_self]

theorem execVadd_mem {f : FormeIx} {s : State} {t : State} (he : execVadd f s = .next t) (hm : MemOk s) : MemOk t := by
  unfold execVadd at he
  refine onlyIf_mem he hm ?_
  (try dsimp only)
  (repeat' split) <;> simp (maxDischargeDepth := 40) +contextual only [hm, id_eq, elementwise_mem, mem_foldl, mem_ite, mem_cond, modForme_mem, modGddr_mem, implies_true, and_self, Laws.gddrPutAll_wf, Laws.gddrPut_wf, memOk_phys, FormeOk.g, FormeOk.q, FormeOk.f, fok_foldl, fok_ite, fok_cond, Laws.ParMem.put_wf, Laws.ParMem.putRaw_wf, Laws.ParMem.putAll_wf, implies_true, and_self]

theorem execVsub_mem {f : FormeIx} {s : State} {t : State} (he : execVsub f s = .next t) (hm : MemOk s) : MemOk t := by
  unfold execVsub at he
  refine onlyIf_mem he hm ?_
  (try dsimp only)
  (repeat' split) <;> simp (maxDischargeDepth := 40) +contextual only [hm, id_eq, elementwise_mem, mem_foldl, mem_ite, mem_cond, modForme_mem, modGddr_mem, implies_true, and_self, Laws.gddrPutAll_wf, Laws.gddrPut_wf, memOk_phys, FormeOk.g, FormeOk.q, FormeOk.f, fok_foldl, fok_ite, fok_cond, Laws.ParMem.put_wf, Laws.ParMem.putRaw_wf, Laws.ParMem.putAll_wf, implies_true, and_self]

theorem execVmul_mem {f : FormeIx} {s : State} {t : State} (he : execVmul f s = .next t) (hm : MemOk s) : MemOk t := by
  unfold execVmul at he
  refine onlyIf_mem he hm ?_
  (try dsimp only)
  (repeat' split) <;> simp (maxDischargeDepth := 40) +contextual only [hm, id_eq, elementwise_mem, mem_foldl, mem_ite, mem_cond, modForme_mem, modGddr_mem, implies_true, and_self, Laws.gddrPutAll_wf, Laws.gddrPut_wf, memOk_phys, FormeOk.g, FormeOk.q, FormeOk.f, fok_foldl, fok_ite, fok_cond, Laws.ParMem.put_wf, Laws.ParMem.putRaw_wf, Laws.ParMem.putAll_wf, implies_true, and_self]

theorem execVfma_mem {f : FormeIx} {s : State} {t : State} (he : execVfma f s = .next t) (hm : MemOk s) : MemOk t := by
  unfold execVfma at he
  refine onlyIf_mem he hm ?_
  (try dsimp only)
  (repeat' split) <;> simp (maxDischargeDepth := 40) +contextual only [hm, id_eq, elementwise_mem, mem_foldl, mem_ite, mem_cond, modForme_mem, modGddr_mem, implies_true, and_self, Laws.gddrPutAll_wf, Laws.gddrPut_wf, memOk_phys, FormeOk.g, FormeOk.q, FormeOk.f, fok_foldl, fok_ite, fok_cond, Laws.ParMem.put_wf, Laws.ParMem.putRaw_wf, Laws.ParMem.putAll_wf, implies_true, and_self]

theorem execVmin_mem {f : FormeIx} {s : State} {t : State} (he : execVmin f s = .next t) (hm : MemOk s) : MemOk t := by
  unfold execVmin at he
  refine onlyIf_mem he hm ?_
  (try dsimp only)
  (repeat' split) <;> simp (maxDischargeDepth := 40) +contextual only [hm, id_eq, elementwise_mem, mem_foldl, mem_ite, mem_cond, modForme_mem, modGddr_mem, implies_true, and_self, Laws.gddrPutAll_wf, Laws.gddrPut_wf, memOk_phys, FormeOk.g, FormeOk.q, FormeOk.f, fok_foldl, fok_ite, fok_cond, Laws.ParMem.put_wf, Laws.ParMem.putRaw_wf, Laws.ParMem.putAll_wf, implies_true, and_self]

theorem execVmax_mem {f : FormeIx} {s : State} {t : State} (he : execVmax f s = .next t) (hm : MemOk s) : MemOk t := by
  unfold execVmax at he
  refine onlyIf_mem he hm ?_
  (try dsimp only)
  (repeat' split) <;> simp (maxDischargeDepth := 40) +contextual only [hm, id_eq, elementwise_mem, mem_foldl, mem_ite, mem_cond, modForme_mem, modGddr_mem, implies_true, and_self, Laws.gddrPutAll_wf, Laws.gddrPut_wf, memOk_phys, FormeOk.g, FormeOk.q, FormeOk.f, fok_foldl, fok_ite, fok_cond, Laws.ParMem.put_wf, Laws.ParMem.putRaw_wf, Laws.ParMem.putAll_wf, implies_true, and_self]

theorem execVabs_mem {f : FormeIx} {s : State} {t : State} (he : execVabs f s = .next t) (hm : MemOk s) : MemOk t := by
  unfold execVabs at he
  refine onlyIf_mem he hm ?_
  (try dsimp only)
  (repeat' split) <;> simp (maxDischargeDepth := 40) +contextual only [hm, id_eq, elementwise_mem, mem_foldl, mem_ite, mem_cond, modForme_mem, modGddr_mem, implies_true, and_self, Laws.gddrPutAll_wf, Laws.gddrPut_wf, memOk_phys, FormeOk.g, FormeOk.q, FormeOk.f, fok_foldl, fok_ite, fok_cond, Laws.ParMem.put_wf, Laws.ParMem.putRaw_wf, Laws.ParMem.putAll_wf, implies_true, and_self]

theorem execVneg_mem {f : FormeIx} {s : State} {t : State} (he : execVneg f s = .next t) (hm : MemOk s) : MemOk t := by
  unfold execVneg at he
  refine onlyIf_mem he hm ?_
  (try dsimp only)
  (repeat' split) <;> simp (maxDischargeDepth := 40) +contextual only [hm, id_eq, elementwise_mem, mem_foldl, mem_ite, mem_cond, modForme_mem, modGddr_mem, implies_true, and_self, Laws.gddrPutAll_wf, Laws.gddrPut_wf, memOk_phys, FormeOk.g, FormeOk.q, FormeOk.f, fok_foldl, fok_ite, fok_cond, Laws.ParMem.put_wf, Laws.ParMem.putRaw_wf, Laws.ParMem.putAll_wf, implies_true, and_self]

theorem execVcmp_mem {f : FormeIx} {s : State} {t : State} (he : execVcmp f s = .next t) (hm : MemOk s) : MemOk t := by
  unfold execVcmp at he
  refine onlyIf_mem he hm ?_
  (try dsimp only)
  (repeat' split) <;> simp (maxDischargeDepth := 40) +contextual only [hm, id_eq, vcmpRun_mem, mem_foldl, mem_ite, mem_cond, modForme_mem, modGddr_mem, implies_true, and_self, Laws.gddrPutAll_wf, Laws.gddrPut_wf, memOk_phys, FormeOk.g, FormeOk.q, FormeOk.f, fok_foldl, fok_ite, fok_cond, Laws.ParMem.put_wf, Laws.ParMem.putRaw_wf, Laws.ParMem.putAll_wf, implies_true, and_self]

theorem execVsel_mem {f : FormeIx} {s : State} {t : State} (he : execVsel f s = .next t) (hm : MemOk s) : MemOk t := by
  unfold execVsel at he
  refine onlyIf_mem he hm ?_
  (try dsimp only)
  (repeat' split) <;> simp (maxDischargeDepth := 40) +contextual only [hm, id_eq, runGrid_mem, mem_foldl, mem_ite, mem_cond, modForme_mem, modGddr_mem, implies_true, and_self, Laws.gddrPutAll_wf, Laws.gddrPut_wf, memOk_phys, FormeOk.g, FormeOk.q, FormeOk.f, fok_foldl, fok_ite, fok_cond, Laws.ParMem.put_wf, Laws.ParMem.putRaw_wf, Laws.ParMem.putAll_wf, implies_true, and_self]

theorem execVcvt_mem {f : FormeIx} {s : State} {t : State} (he : execVcvt f s = .next t) (hm : MemOk s) : MemOk t := by
  unfold execVcvt at he
  refine onlyIf_mem he hm ?_
  (try dsimp only)
  (repeat' split) <;> simp (maxDischargeDepth := 40) +contextual only [hm, id_eq, vcvtRun_mem, mem_foldl, mem_ite, mem_cond, modForme_mem, modGddr_mem, implies_true, and_self, Laws.gddrPutAll_wf, Laws.gddrPut_wf, memOk_phys, FormeOk.g, FormeOk.q, FormeOk.f, fok_foldl, fok_ite, fok_cond, Laws.ParMem.put_wf, Laws.ParMem.putRaw_wf, Laws.ParMem.putAll_wf, implies_true, and_self]

theorem execVqclr_mem {f : FormeIx} {s : State} {t : State} (he : execVqclr f s = .next t) (hm : MemOk s) : MemOk t := by
  unfold execVqclr at he
  refine onlyIf_mem he hm ?_
  (try dsimp only)
  (repeat' split) <;> simp (maxDischargeDepth := 40) +contextual only [hm, id_eq, vqclrRun_mem, mem_foldl, mem_ite, mem_cond, modForme_mem, modGddr_mem, implies_true, and_self, Laws.gddrPutAll_wf, Laws.gddrPut_wf, memOk_phys, FormeOk.g, FormeOk.q, FormeOk.f, fok_foldl, fok_ite, fok_cond, Laws.ParMem.put_wf, Laws.ParMem.putRaw_wf, Laws.ParMem.putAll_wf, implies_true, and_self]

theorem execVqmac_mem {f : FormeIx} {s : State} {t : State} (he : execVqmac f s = .next t) (hm : MemOk s) : MemOk t := by
  unfold execVqmac at he
  refine onlyIf_mem he hm ?_
  (try dsimp only)
  (repeat' split) <;> simp (maxDischargeDepth := 40) +contextual only [hm, id_eq, quireRun_mem, mem_foldl, mem_ite, mem_cond, modForme_mem, modGddr_mem, implies_true, and_self, Laws.gddrPutAll_wf, Laws.gddrPut_wf, memOk_phys, FormeOk.g, FormeOk.q, FormeOk.f, fok_foldl, fok_ite, fok_cond, Laws.ParMem.put_wf, Laws.ParMem.putRaw_wf, Laws.ParMem.putAll_wf, implies_true, and_self]

theorem execVqadd_mem {f : FormeIx} {s : State} {t : State} (he : execVqadd f s = .next t) (hm : MemOk s) : MemOk t := by
  unfold execVqadd at he
  refine onlyIf_mem he hm ?_
  (try dsimp only)
  (repeat' split) <;> simp (maxDischargeDepth := 40) +contextual only [hm, id_eq, quireRun_mem, mem_foldl, mem_ite, mem_cond, modForme_mem, modGddr_mem, implies_true, and_self, Laws.gddrPutAll_wf, Laws.gddrPut_wf, memOk_phys, FormeOk.g, FormeOk.q, FormeOk.f, fok_foldl, fok_ite, fok_cond, Laws.ParMem.put_wf, Laws.ParMem.putRaw_wf, Laws.ParMem.putAll_wf, implies_true, and_self]

theorem execVqsub_mem {f : FormeIx} {s : State} {t : State} (he : execVqsub f s = .next t) (hm : MemOk s) : MemOk t := by
  unfold execVqsub at he
  refine onlyIf_mem he hm ?_
  (try dsimp only)
  (repeat' split) <;> simp (maxDischargeDepth := 40) +contextual only [hm, id_eq, quireRun_mem, mem_foldl, mem_ite, mem_cond, modForme_mem, modGddr_mem, implies_true, and_self, Laws.gddrPutAll_wf, Laws.gddrPut_wf, memOk_phys, FormeOk.g, FormeOk.q, FormeOk.f, fok_foldl, fok_ite, fok_cond, Laws.ParMem.put_wf, Laws.ParMem.putRaw_wf, Laws.ParMem.putAll_wf, implies_true, and_self]

theorem execVqrnd_mem {f : FormeIx} {s : State} {t : State} (he : execVqrnd f s = .next t) (hm : MemOk s) : MemOk t := by
  unfold execVqrnd at he
  refine onlyIf_mem he hm ?_
  (try dsimp only)
  (repeat' split) <;> simp (maxDischargeDepth := 40) +contextual only [hm, id_eq, runGrid_mem, mem_foldl, mem_ite, mem_cond, modForme_mem, modGddr_mem, implies_true, and_self, Laws.gddrPutAll_wf, Laws.gddrPut_wf, memOk_phys, FormeOk.g, FormeOk.q, FormeOk.f, fok_foldl, fok_ite, fok_cond, Laws.ParMem.put_wf, Laws.ParMem.putRaw_wf, Laws.ParMem.putAll_wf, implies_true, and_self]

theorem execVqred_mem {f : FormeIx} {s : State} {t : State} (he : execVqred f s = .next t) (hm : MemOk s) : MemOk t := by
  unfold execVqred at he
  refine onlyIf_mem he hm ?_
  (try dsimp only)
  (repeat' split) <;> simp (maxDischargeDepth := 40) +contextual only [hm, id_eq, vqredRun_mem, mem_foldl, mem_ite, mem_cond, modForme_mem, modGddr_mem, implies_true, and_self, Laws.gddrPutAll_wf, Laws.gddrPut_wf, memOk_phys, FormeOk.g, FormeOk.q, FormeOk.f, fok_foldl, fok_ite, fok_cond, Laws.ParMem.put_wf, Laws.ParMem.putRaw_wf, Laws.ParMem.putAll_wf, implies_true, and_self]

theorem execVqsave_mem {f : FormeIx} {s : State} {t : State} (he : execVqsave f s = .next t) (hm : MemOk s) : MemOk t := by
  unfold execVqsave at he
  refine onlyIf_mem he hm ?_
  (try dsimp only)
  (repeat' split) <;> simp (maxDischargeDepth := 40) +contextual only [hm, id_eq, vqsaveRun_mem, mem_foldl, mem_ite, mem_cond, modForme_mem, modGddr_mem, implies_true, and_self, Laws.gddrPutAll_wf, Laws.gddrPut_wf, memOk_phys, FormeOk.g, FormeOk.q, FormeOk.f, fok_foldl, fok_ite, fok_cond, Laws.ParMem.put_wf, Laws.ParMem.putRaw_wf, Laws.ParMem.putAll_wf, implies_true, and_self]

theorem execVqload_mem {f : FormeIx} {s : State} {t : State} (he : execVqload f s = .next t) (hm : MemOk s) : MemOk t := by
  unfold execVqload at he
  refine onlyIf_mem he hm ?_
  (try dsimp only)
  (repeat' split) <;> simp (maxDischargeDepth := 40) +contextual only [hm, id_eq, vqloadRun_mem, mem_foldl, mem_ite, mem_cond, modForme_mem, modGddr_mem, implies_true, and_self, Laws.gddrPutAll_wf, Laws.gddrPut_wf, memOk_phys, FormeOk.g, FormeOk.q, FormeOk.f, fok_foldl, fok_ite, fok_cond, Laws.ParMem.put_wf, Laws.ParMem.putRaw_wf, Laws.ParMem.putAll_wf, implies_true, and_self]

theorem execVrms_mem {f : FormeIx} {s : State} {t : State} (he : execVrms f s = .next t) (hm : MemOk s) : MemOk t := by
  unfold execVrms at he
  refine onlyIf_mem he hm ?_
  (try dsimp only)
  (repeat' split) <;> simp (maxDischargeDepth := 40) +contextual only [hm, id_eq, vrmsRun_mem, mem_foldl, mem_ite, mem_cond, modForme_mem, modGddr_mem, implies_true, and_self, Laws.gddrPutAll_wf, Laws.gddrPut_wf, memOk_phys, FormeOk.g, FormeOk.q, FormeOk.f, fok_foldl, fok_ite, fok_cond, Laws.ParMem.put_wf, Laws.ParMem.putRaw_wf, Laws.ParMem.putAll_wf, implies_true, and_self]

theorem execVtopk_mem {f : FormeIx} {s : State} {t : State} (he : execVtopk f s = .next t) (hm : MemOk s) : MemOk t := by
  unfold execVtopk at he
  refine onlyIf_mem he hm ?_
  (try dsimp only)
  (repeat' split) <;> simp (maxDischargeDepth := 40) +contextual only [hm, id_eq, vtopkRun_mem, mem_foldl, mem_ite, mem_cond, modForme_mem, modGddr_mem, implies_true, and_self, Laws.gddrPutAll_wf, Laws.gddrPut_wf, memOk_phys, FormeOk.g, FormeOk.q, FormeOk.f, fok_foldl, fok_ite, fok_cond, Laws.ParMem.put_wf, Laws.ParMem.putRaw_wf, Laws.ParMem.putAll_wf, implies_true, and_self]

theorem execVscale_mem {f : FormeIx} {s : State} {t : State} (he : execVscale f s = .next t) (hm : MemOk s) : MemOk t := by
  unfold execVscale at he
  refine onlyIf_mem he hm ?_
  (try dsimp only)
  (repeat' split) <;> simp (maxDischargeDepth := 40) +contextual only [hm, id_eq, vscaleRun_mem, mem_foldl, mem_ite, mem_cond, modForme_mem, modGddr_mem, implies_true, and_self, Laws.gddrPutAll_wf, Laws.gddrPut_wf, memOk_phys, FormeOk.g, FormeOk.q, FormeOk.f, fok_foldl, fok_ite, fok_cond, Laws.ParMem.put_wf, Laws.ParMem.putRaw_wf, Laws.ParMem.putAll_wf, implies_true, and_self]

theorem execVsmooth_mem {f : FormeIx} {s : State} {t : State} (he : execVsmooth f s = .next t) (hm : MemOk s) : MemOk t := by
  unfold execVsmooth at he
  refine onlyIf_mem he hm ?_
  (try dsimp only)
  (repeat' split) <;> simp (maxDischargeDepth := 40) +contextual only [hm, id_eq, vsmoothRun_mem, mem_foldl, mem_ite, mem_cond, modForme_mem, modGddr_mem, implies_true, and_self, Laws.gddrPutAll_wf, Laws.gddrPut_wf, memOk_phys, FormeOk.g, FormeOk.q, FormeOk.f, fok_foldl, fok_ite, fok_cond, Laws.ParMem.put_wf, Laws.ParMem.putRaw_wf, Laws.ParMem.putAll_wf, implies_true, and_self]

theorem execFunc_mem {f : FormeIx} {s : State} {t : State} (he : execFunc f s = .next t) (hm : MemOk s) : MemOk t := by
  unfold execFunc at he
  refine onlyIf_mem he hm ?_
  (try dsimp only)
  (repeat' split) <;> simp (maxDischargeDepth := 40) +contextual only [hm, id_eq, funcRun_mem, mem_foldl, mem_ite, mem_cond, modForme_mem, modGddr_mem, implies_true, and_self, Laws.gddrPutAll_wf, Laws.gddrPut_wf, memOk_phys, FormeOk.g, FormeOk.q, FormeOk.f, fok_foldl, fok_ite, fok_cond, Laws.ParMem.put_wf, Laws.ParMem.putRaw_wf, Laws.ParMem.putAll_wf, implies_true, and_self]

theorem execFtload_mem {f : FormeIx} {s : State} {t : State} (he : execFtload f s = .next t) (hm : MemOk s) : MemOk t := by
  unfold execFtload at he
  refine onlyIf_mem he hm ?_
  (try dsimp only)
  (repeat' split) <;> simp (maxDischargeDepth := 40) +contextual only [hm, id_eq, ftloadEffect_mem, mem_foldl, mem_ite, mem_cond, modForme_mem, modGddr_mem, implies_true, and_self, Laws.gddrPutAll_wf, Laws.gddrPut_wf, memOk_phys, FormeOk.g, FormeOk.q, FormeOk.f, fok_foldl, fok_ite, fok_cond, Laws.ParMem.put_wf, Laws.ParMem.putRaw_wf, Laws.ParMem.putAll_wf, implies_true, and_self]

theorem execFtloadTransferStart_mem {f : FormeIx} {s : State} {t : State} (he : execFtloadTransferStart f s = .next t) (hm : MemOk s) : MemOk t := by
  unfold execFtloadTransferStart at he
  refine onlyIf_mem he hm ?_
  (try dsimp only)
  (repeat' split) <;> simp (maxDischargeDepth := 40) +contextual only [hm, id_eq, transferEffect_mem, mem_foldl, mem_ite, mem_cond, modForme_mem, modGddr_mem, implies_true, and_self, Laws.gddrPutAll_wf, Laws.gddrPut_wf, memOk_phys, FormeOk.g, FormeOk.q, FormeOk.f, fok_foldl, fok_ite, fok_cond, Laws.ParMem.put_wf, Laws.ParMem.putRaw_wf, Laws.ParMem.putAll_wf, implies_true, and_self]

theorem execFtloadComplete_mem {f : FormeIx} {s : State} {t : State} (he : execFtloadComplete f s = .next t) (hm : MemOk s) : MemOk t := by
  unfold execFtloadComplete at he
  refine onlyIf_mem he hm ?_
  (try dsimp only)
  (repeat' split) <;> simp (maxDischargeDepth := 40) +contextual only [hm, id_eq, loadEffect_mem, mem_foldl, mem_ite, mem_cond, modForme_mem, modGddr_mem, implies_true, and_self, Laws.gddrPutAll_wf, Laws.gddrPut_wf, memOk_phys, FormeOk.g, FormeOk.q, FormeOk.f, fok_foldl, fok_ite, fok_cond, Laws.ParMem.put_wf, Laws.ParMem.putRaw_wf, Laws.ParMem.putAll_wf, implies_true, and_self]

theorem execTsig_mem {f : FormeIx} {s : State} {t : State} (he : execTsig f s = .next t) (hm : MemOk s) : MemOk t := by
  unfold execTsig at he
  refine onlyIf_mem he hm ?_
  (try dsimp only)
  (repeat' split) <;> simp (maxDischargeDepth := 40) +contextual only [hm, id_eq, runHead_mem, mem_foldl, mem_ite, mem_cond, modForme_mem, modGddr_mem, implies_true, and_self, Laws.gddrPutAll_wf, Laws.gddrPut_wf, memOk_phys, FormeOk.g, FormeOk.q, FormeOk.f, fok_foldl, fok_ite, fok_cond, Laws.ParMem.put_wf, Laws.ParMem.putRaw_wf, Laws.ParMem.putAll_wf, implies_true, and_self]

theorem execTwait_mem {f : FormeIx} {s : State} {t : State} (he : execTwait f s = .next t) (hm : MemOk s) : MemOk t := by
  unfold execTwait at he
  refine onlyIf_mem he hm ?_
  (try dsimp only)
  (repeat' split) <;> simp (maxDischargeDepth := 40) +contextual only [hm, id_eq, runHead_mem, mem_foldl, mem_ite, mem_cond, modForme_mem, modGddr_mem, implies_true, and_self, Laws.gddrPutAll_wf, Laws.gddrPut_wf, memOk_phys, FormeOk.g, FormeOk.q, FormeOk.f, fok_foldl, fok_ite, fok_cond, Laws.ParMem.put_wf, Laws.ParMem.putRaw_wf, Laws.ParMem.putAll_wf, implies_true, and_self]

theorem execTmark_mem {f : FormeIx} {s : State} {t : State} (he : execTmark f s = .next t) (hm : MemOk s) : MemOk t := by
  unfold execTmark at he
  refine onlyIf_mem he hm ?_
  (try dsimp only)
  (repeat' split) <;> simp (maxDischargeDepth := 40) +contextual only [hm, id_eq, runHead_mem, tmarkEffect_mem, mem_foldl, mem_ite, mem_cond, modForme_mem, modGddr_mem, implies_true, and_self, Laws.gddrPutAll_wf, Laws.gddrPut_wf, memOk_phys, FormeOk.g, FormeOk.q, FormeOk.f, fok_foldl, fok_ite, fok_cond, Laws.ParMem.put_wf, Laws.ParMem.putRaw_wf, Laws.ParMem.putAll_wf, implies_true, and_self]

theorem execTtime_mem {f : FormeIx} {s : State} {t : State} (he : execTtime f s = .next t) (hm : MemOk s) : MemOk t := by
  unfold execTtime at he
  refine onlyIf_mem he hm ?_
  (try dsimp only)
  (repeat' split) <;> simp (maxDischargeDepth := 40) +contextual only [hm, id_eq, runHead_mem, mem_foldl, mem_ite, mem_cond, modForme_mem, modGddr_mem, implies_true, and_self, Laws.gddrPutAll_wf, Laws.gddrPut_wf, memOk_phys, FormeOk.g, FormeOk.q, FormeOk.f, fok_foldl, fok_ite, fok_cond, Laws.ParMem.put_wf, Laws.ParMem.putRaw_wf, Laws.ParMem.putAll_wf, implies_true, and_self]

theorem execScalepush_mem {f : FormeIx} {s : State} {t : State} (he : execScalepush f s = .next t) (hm : MemOk s) : MemOk t := by
  unfold execScalepush at he
  refine onlyIf_mem he hm ?_
  (try dsimp only)
  (repeat' split) <;> simp (maxDischargeDepth := 40) +contextual only [hm, id_eq, runHead_mem, scalepushEffect_mem, mem_foldl, mem_ite, mem_cond, modForme_mem, modGddr_mem, implies_true, and_self, Laws.gddrPutAll_wf, Laws.gddrPut_wf, memOk_phys, FormeOk.g, FormeOk.q, FormeOk.f, fok_foldl, fok_ite, fok_cond, Laws.ParMem.put_wf, Laws.ParMem.putRaw_wf, Laws.ParMem.putAll_wf, implies_true, and_self]

theorem execSrseed_mem {f : FormeIx} {s : State} {t : State} (he : execSrseed f s = .next t) (hm : MemOk s) : MemOk t := by
  unfold execSrseed at he
  refine onlyIf_mem he hm ?_
  (try dsimp only)
  (repeat' split) <;> simp (maxDischargeDepth := 40) +contextual only [hm, id_eq, runHead_mem, srseedEffect_mem, mem_foldl, mem_ite, mem_cond, modForme_mem, modGddr_mem, implies_true, and_self, Laws.gddrPutAll_wf, Laws.gddrPut_wf, memOk_phys, FormeOk.g, FormeOk.q, FormeOk.f, fok_foldl, fok_ite, fok_cond, Laws.ParMem.put_wf, Laws.ParMem.putRaw_wf, Laws.ParMem.putAll_wf, implies_true, and_self]

theorem execSrsave_mem {f : FormeIx} {s : State} {t : State} (he : execSrsave f s = .next t) (hm : MemOk s) : MemOk t := by
  unfold execSrsave at he
  refine onlyIf_mem he hm ?_
  (try dsimp only)
  (repeat' split) <;> simp (maxDischargeDepth := 40) +contextual only [hm, id_eq, runHead_mem, srsaveEffect_mem, mem_foldl, mem_ite, mem_cond, modForme_mem, modGddr_mem, implies_true, and_self, Laws.gddrPutAll_wf, Laws.gddrPut_wf, memOk_phys, FormeOk.g, FormeOk.q, FormeOk.f, fok_foldl, fok_ite, fok_cond, Laws.ParMem.put_wf, Laws.ParMem.putRaw_wf, Laws.ParMem.putAll_wf, implies_true, and_self]

theorem execSrload_mem {f : FormeIx} {s : State} {t : State} (he : execSrload f s = .next t) (hm : MemOk s) : MemOk t := by
  unfold execSrload at he
  refine onlyIf_mem he hm ?_
  (try dsimp only)
  (repeat' split) <;> simp (maxDischargeDepth := 40) +contextual only [hm, id_eq, runHead_mem, srloadEffect_mem, mem_foldl, mem_ite, mem_cond, modForme_mem, modGddr_mem, implies_true, and_self, Laws.gddrPutAll_wf, Laws.gddrPut_wf, memOk_phys, FormeOk.g, FormeOk.q, FormeOk.f, fok_foldl, fok_ite, fok_cond, Laws.ParMem.put_wf, Laws.ParMem.putRaw_wf, Laws.ParMem.putAll_wf, implies_true, and_self]

theorem execStart_mem {s : State} {t : State} (he : execStart s = .next t) (hm : MemOk s) : MemOk t := by
  unfold execStart at he
  refine onlyIf_mem he hm ?_
  (try dsimp only)
  (repeat' split) <;> simp (maxDischargeDepth := 40) +contextual only [hm, id_eq, startEffect_mem, mem_foldl, mem_ite, mem_cond, modForme_mem, modGddr_mem, implies_true, and_self, Laws.gddrPutAll_wf, Laws.gddrPut_wf, memOk_phys, FormeOk.g, FormeOk.q, FormeOk.f, fok_foldl, fok_ite, fok_cond, Laws.ParMem.put_wf, Laws.ParMem.putRaw_wf, Laws.ParMem.putAll_wf, implies_true, and_self]

theorem execPause_mem {s : State} {t : State} (he : execPause s = .next t) (hm : MemOk s) : MemOk t := by
  unfold execPause at he
  refine onlyIf_mem he hm ?_
  (try dsimp only)
  (repeat' split) <;> simp (maxDischargeDepth := 40) +contextual only [hm, id_eq, consume_mem, onFolio_mem, requestPause_mem, mem_foldl, mem_ite, mem_cond, modForme_mem, modGddr_mem, implies_true, and_self, Laws.gddrPutAll_wf, Laws.gddrPut_wf, memOk_phys, FormeOk.g, FormeOk.q, FormeOk.f, fok_foldl, fok_ite, fok_cond, Laws.ParMem.put_wf, Laws.ParMem.putRaw_wf, Laws.ParMem.putAll_wf, implies_true, and_self]

theorem execSave_mem {s : State} {t : State} (he : execSave s = .next t) (hm : MemOk s) : MemOk t := by
  unfold execSave at he
  refine onlyIf_mem he hm ?_
  (try dsimp only)
  (repeat' split) <;> simp (maxDischargeDepth := 40) +contextual only [hm, id_eq, consume_mem, onFolio_mem, refuse_mem, requestPause_mem, mem_foldl, mem_ite, mem_cond, modForme_mem, modGddr_mem, implies_true, and_self, Laws.gddrPutAll_wf, Laws.gddrPut_wf, memOk_phys, FormeOk.g, FormeOk.q, FormeOk.f, fok_foldl, fok_ite, fok_cond, Laws.ParMem.put_wf, Laws.ParMem.putRaw_wf, Laws.ParMem.putAll_wf, implies_true, and_self]

theorem execResume_mem {s : State} {t : State} (he : execResume s = .next t) (hm : MemOk s) : MemOk t := by
  unfold execResume at he
  refine onlyIf_mem he hm ?_
  (try dsimp only)
  (repeat' split) <;> simp (maxDischargeDepth := 40) +contextual only [hm, id_eq, consume_mem, submitCmd_mem, mem_foldl, mem_ite, mem_cond, modForme_mem, modGddr_mem, implies_true, and_self, Laws.gddrPutAll_wf, Laws.gddrPut_wf, memOk_phys, FormeOk.g, FormeOk.q, FormeOk.f, fok_foldl, fok_ite, fok_cond, Laws.ParMem.put_wf, Laws.ParMem.putRaw_wf, Laws.ParMem.putAll_wf, implies_true, and_self]

theorem execContinueFolio_mem {s : State} {t : State} (he : execContinueFolio s = .next t) (hm : MemOk s) : MemOk t := by
  unfold execContinueFolio at he
  refine onlyIf_mem he hm ?_
  (try dsimp only)
  (repeat' split) <;> simp (maxDischargeDepth := 40) +contextual only [hm, id_eq, consume_mem, modFolio_mem, onFolio_mem, refuse_mem, setFolioFormes_mem, mem_foldl, mem_ite, mem_cond, modForme_mem, modGddr_mem, implies_true, and_self, Laws.gddrPutAll_wf, Laws.gddrPut_wf, memOk_phys, FormeOk.g, FormeOk.q, FormeOk.f, fok_foldl, fok_ite, fok_cond, Laws.ParMem.put_wf, Laws.ParMem.putRaw_wf, Laws.ParMem.putAll_wf, implies_true, and_self]

theorem execDiscard_mem {s : State} {t : State} (he : execDiscard s = .next t) (hm : MemOk s) : MemOk t := by
  unfold execDiscard at he
  refine onlyIf_mem he hm ?_
  (try dsimp only)
  (repeat' split) <;> simp (maxDischargeDepth := 40) +contextual only [hm, id_eq, consume_mem, endFolio_mem, onFolio_mem, refuse_mem, mem_foldl, mem_ite, mem_cond, modForme_mem, modGddr_mem, implies_true, and_self, Laws.gddrPutAll_wf, Laws.gddrPut_wf, memOk_phys, FormeOk.g, FormeOk.q, FormeOk.f, fok_foldl, fok_ite, fok_cond, Laws.ParMem.put_wf, Laws.ParMem.putRaw_wf, Laws.ParMem.putAll_wf, implies_true, and_self]

theorem execFolioStart_mem {s : State} {t : State} (he : execFolioStart s = .next t) (hm : MemOk s) : MemOk t := by
  unfold execFolioStart at he
  refine onlyIf_mem he hm ?_
  (try dsimp only)
  (repeat' split) <;> simp (maxDischargeDepth := 40) +contextual only [hm, id_eq, choose_mem, mem_foldl, mem_ite, mem_cond, modForme_mem, modGddr_mem, implies_true, and_self, Laws.gddrPutAll_wf, Laws.gddrPut_wf, memOk_phys, FormeOk.g, FormeOk.q, FormeOk.f, fok_foldl, fok_ite, fok_cond, Laws.ParMem.put_wf, Laws.ParMem.putRaw_wf, Laws.ParMem.putAll_wf, implies_true, and_self]

theorem execFolioComplete_mem {handle : BitVec 16} {replies : List Reply} {s : State} {t : State} (he : execFolioComplete handle replies s = .next t) (hm : MemOk s) : MemOk t := by
  unfold execFolioComplete at he
  refine onlyIf_mem he hm ?_
  (try dsimp only)
  (repeat' split) <;> simp (maxDischargeDepth := 40) +contextual only [hm, id_eq, folioDoneEffect_mem, replyIn_mem, mem_foldl, mem_ite, mem_cond, modForme_mem, modGddr_mem, implies_true, and_self, Laws.gddrPutAll_wf, Laws.gddrPut_wf, memOk_phys, FormeOk.g, FormeOk.q, FormeOk.f, fok_foldl, fok_ite, fok_cond, Laws.ParMem.put_wf, Laws.ParMem.putRaw_wf, Laws.ParMem.putAll_wf, implies_true, and_self]

theorem execFolioPaused_mem {h : BitVec 16} {s : State} {t : State} (he : execFolioPaused h s = .next t) (hm : MemOk s) : MemOk t := by
  unfold execFolioPaused at he
  refine onlyIf_mem he hm ?_
  (try dsimp only)
  (repeat' split) <;> simp (maxDischargeDepth := 40) +contextual only [hm, id_eq, pausedEffect_mem, mem_foldl, mem_ite, mem_cond, modForme_mem, modGddr_mem, implies_true, and_self, Laws.gddrPutAll_wf, Laws.gddrPut_wf, memOk_phys, FormeOk.g, FormeOk.q, FormeOk.f, fok_foldl, fok_ite, fok_cond, Laws.ParMem.put_wf, Laws.ParMem.putRaw_wf, Laws.ParMem.putAll_wf, implies_true, and_self]

theorem execSaveComplete_mem {h : BitVec 16} {s : State} {t : State} (he : execSaveComplete h s = .next t) (hm : MemOk s) : MemOk t := by
  unfold execSaveComplete at he
  refine onlyIf_mem he hm ?_
  (try dsimp only)
  (repeat' split) <;> simp (maxDischargeDepth := 40) +contextual only [hm, id_eq, saveEffect_mem, mem_foldl, mem_ite, mem_cond, modForme_mem, modGddr_mem, implies_true, and_self, Laws.gddrPutAll_wf, Laws.gddrPut_wf, memOk_phys, FormeOk.g, FormeOk.q, FormeOk.f, fok_foldl, fok_ite, fok_cond, Laws.ParMem.put_wf, Laws.ParMem.putRaw_wf, Laws.ParMem.putAll_wf, implies_true, and_self]

theorem execImposerCmdRing_mem {v : Word} {s : State} {t : State} (he : execImposerCmdRing v s = .next t) (hm : MemOk s) : MemOk t :=
  hm.touch (execImposerCmdRing_touch he) (by decide) (by decide)

theorem execImposerEvtRing_mem {v : Word} {s : State} {t : State} (he : execImposerEvtRing v s = .next t) (hm : MemOk s) : MemOk t := by
  unfold execImposerEvtRing at he
  refine onlyIf_mem he hm ?_
  (try dsimp only)
  (repeat' split) <;> simp (maxDischargeDepth := 40) +contextual only [hm, id_eq, writeEvtRing_mem, mem_foldl, mem_ite, mem_cond, modForme_mem, modGddr_mem, implies_true, and_self, Laws.gddrPutAll_wf, Laws.gddrPut_wf, memOk_phys, FormeOk.g, FormeOk.q, FormeOk.f, fok_foldl, fok_ite, fok_cond, Laws.ParMem.put_wf, Laws.ParMem.putRaw_wf, Laws.ParMem.putAll_wf, implies_true, and_self]

theorem execImposerCmdDoorbell_mem {v : Word} {s : State} {t : State} (he : execImposerCmdDoorbell v s = .next t) (hm : MemOk s) : MemOk t :=
  hm.touch (execImposerCmdDoorbell_touch he) (by decide) (by decide)

theorem execImposerEvtDoorbell_mem {v : Word} {s : State} {t : State} (he : execImposerEvtDoorbell v s = .next t) (hm : MemOk s) : MemOk t := by
  unfold execImposerEvtDoorbell at he
  refine onlyIf_mem he hm ?_
  (try dsimp only)
  (repeat' split) <;> simp (maxDischargeDepth := 40) +contextual only [hm, id_eq, evtBell_mem, mem_foldl, mem_ite, mem_cond, modForme_mem, modGddr_mem, implies_true, and_self, Laws.gddrPutAll_wf, Laws.gddrPut_wf, memOk_phys, FormeOk.g, FormeOk.q, FormeOk.f, fok_foldl, fok_ite, fok_cond, Laws.ParMem.put_wf, Laws.ParMem.putRaw_wf, Laws.ParMem.putAll_wf, implies_true, and_self]

theorem execControlInterval_mem {watts : Nat} {s : State} {t : State} (he : execControlInterval watts s = .next t) (hm : MemOk s) : MemOk t :=
  hm.touch (execControlInterval_touch he) (by decide) (by decide)

theorem execCurrentLimit_mem {s : State} {t : State} (he : execCurrentLimit s = .next t) (hm : MemOk s) : MemOk t :=
  hm.touch (execCurrentLimit_touch he) (by decide) (by decide)

theorem execCurrentLimitEnd_mem {s : State} {t : State} (he : execCurrentLimitEnd s = .next t) (hm : MemOk s) : MemOk t :=
  hm.touch (execCurrentLimitEnd_touch he) (by decide) (by decide)

theorem execThermalSample_mem {dieMc memMc : Int} {s : State} {t : State} (he : execThermalSample dieMc memMc s = .next t) (hm : MemOk s) : MemOk t := by
  unfold execThermalSample at he
  refine onlyIf_mem he hm ?_
  (try dsimp only)
  (repeat' split) <;> simp (maxDischargeDepth := 40) +contextual only [hm, id_eq, thermalSampleEffect_mem, mem_foldl, mem_ite, mem_cond, modForme_mem, modGddr_mem, implies_true, and_self, Laws.gddrPutAll_wf, Laws.gddrPut_wf, memOk_phys, FormeOk.g, FormeOk.q, FormeOk.f, fok_foldl, fok_ite, fok_cond, Laws.ParMem.put_wf, Laws.ParMem.putRaw_wf, Laws.ParMem.putAll_wf, implies_true, and_self]

theorem execStepClose_mem {v : Word} {s : State} {t : State} (he : execStepClose v s = .next t) (hm : MemOk s) : MemOk t :=
  hm.touch (execStepClose_touch he) (by decide) (by decide)

theorem execCloseStep_mem {s : State} {t : State} (he : execCloseStep s = .next t) (hm : MemOk s) : MemOk t :=
  hm.touch (execCloseStep_touch he) (by decide) (by decide)

theorem execProofAlarmRead_mem {s : State} {t : State} (he : execProofAlarmRead s = .next t) (hm : MemOk s) : MemOk t := by
  unfold execProofAlarmRead at he
  refine onlyIf_mem he hm ?_
  (try dsimp only)
  (repeat' split) <;> simp (maxDischargeDepth := 40) +contextual only [hm, id_eq, emit_mem, readData_mem, mem_proof, mem_foldl, mem_ite, mem_cond, modForme_mem, modGddr_mem, implies_true, and_self, Laws.gddrPutAll_wf, Laws.gddrPut_wf, memOk_phys, FormeOk.g, FormeOk.q, FormeOk.f, fok_foldl, fok_ite, fok_cond, Laws.ParMem.put_wf, Laws.ParMem.putRaw_wf, Laws.ParMem.putAll_wf, implies_true, and_self]

theorem execWclr_mem {tag : BitVec 12} {s : State} {t : State} (he : execWclr tag s = .next t) (hm : MemOk s) : MemOk t :=
  hm.touch (execWclr_touch he) (by decide) (by decide)

theorem execAccEventsRead_mem {f : FormeIx} {s : State} {t : State} (he : execAccEventsRead f s = .next t) (hm : MemOk s) : MemOk t := by
  unfold execAccEventsRead at he
  refine onlyIf_mem he hm ?_
  (try dsimp only)
  (repeat' split) <;> simp (maxDischargeDepth := 40) +contextual only [hm, id_eq, accEventsReadEffect_mem, mem_foldl, mem_ite, mem_cond, modForme_mem, modGddr_mem, implies_true, and_self, Laws.gddrPutAll_wf, Laws.gddrPut_wf, memOk_phys, FormeOk.g, FormeOk.q, FormeOk.f, fok_foldl, fok_ite, fok_cond, Laws.ParMem.put_wf, Laws.ParMem.putRaw_wf, Laws.ParMem.putAll_wf, implies_true, and_self]

theorem execSpanLinkRead_mem {p : Fin 11} {s : State} {t : State} (he : execSpanLinkRead p s = .next t) (hm : MemOk s) : MemOk t := by
  unfold execSpanLinkRead at he
  refine onlyIf_mem he hm ?_
  (try dsimp only)
  (repeat' split) <;> simp (maxDischargeDepth := 40) +contextual only [hm, id_eq, linkReadEffect_mem, mem_foldl, mem_ite, mem_cond, modForme_mem, modGddr_mem, implies_true, and_self, Laws.gddrPutAll_wf, Laws.gddrPut_wf, memOk_phys, FormeOk.g, FormeOk.q, FormeOk.f, fok_foldl, fok_ite, fok_cond, Laws.ParMem.put_wf, Laws.ParMem.putRaw_wf, Laws.ParMem.putAll_wf, implies_true, and_self]

theorem execPressRetire_mem {f : FormeIx} {v : Word} {s : State} {t : State} (he : execPressRetire f v s = .next t) (hm : MemOk s) : MemOk t := by
  unfold execPressRetire at he
  refine onlyIf_mem he hm ?_
  (try dsimp only)
  (repeat' split) <;> simp (maxDischargeDepth := 40) +contextual only [hm, id_eq, writePressCtrl_fok, mem_foldl, mem_ite, mem_cond, modForme_mem, modGddr_mem, implies_true, and_self, Laws.gddrPutAll_wf, Laws.gddrPut_wf, memOk_phys, FormeOk.g, FormeOk.q, FormeOk.f, fok_foldl, fok_ite, fok_cond, Laws.ParMem.put_wf, Laws.ParMem.putRaw_wf, Laws.ParMem.putAll_wf, implies_true, and_self]

theorem execBankRetire_mem {f : FormeIx} {v : Word} {s : State} {t : State} (he : execBankRetire f v s = .next t) (hm : MemOk s) : MemOk t := by
  unfold execBankRetire at he
  refine onlyIf_mem he hm ?_
  (try dsimp only)
  (repeat' split) <;> simp (maxDischargeDepth := 40) +contextual only [hm, id_eq, writeBankCtrl_fok, mem_foldl, mem_ite, mem_cond, modForme_mem, modGddr_mem, implies_true, and_self, Laws.gddrPutAll_wf, Laws.gddrPut_wf, memOk_phys, FormeOk.g, FormeOk.q, FormeOk.f, fok_foldl, fok_ite, fok_cond, Laws.ParMem.put_wf, Laws.ParMem.putRaw_wf, Laws.ParMem.putAll_wf, implies_true, and_self]

theorem execRegisterWrite_mem {addr : Addr} {v : Word} {s : State} {t : State} (he : execRegisterWrite addr v s = .next t) (hm : MemOk s) : MemOk t := by
  unfold execRegisterWrite at he
  refine onlyIf_mem he hm ?_
  (try dsimp only)
  (repeat' split) <;> simp (maxDischargeDepth := 40) +contextual only [hm, id_eq, mmioWrite_mem, mem_foldl, mem_ite, mem_cond, modForme_mem, modGddr_mem, implies_true, and_self, Laws.gddrPutAll_wf, Laws.gddrPut_wf, memOk_phys, FormeOk.g, FormeOk.q, FormeOk.f, fok_foldl, fok_ite, fok_cond, Laws.ParMem.put_wf, Laws.ParMem.putRaw_wf, Laws.ParMem.putAll_wf, implies_true, and_self]

theorem execExtRetireGo_mem {v : Word} {s : State} {t : State} (he : execExtRetireGo v s = .next t) (hm : MemOk s) : MemOk t := by
  unfold execExtRetireGo at he
  refine onlyIf_mem he hm ?_
  (try dsimp only)
  (repeat' split) <;> simp (maxDischargeDepth := 40) +contextual only [hm, id_eq, writeExtRetire_mem, mem_foldl, mem_ite, mem_cond, modForme_mem, modGddr_mem, implies_true, and_self, Laws.gddrPutAll_wf, Laws.gddrPut_wf, memOk_phys, FormeOk.g, FormeOk.q, FormeOk.f, fok_foldl, fok_ite, fok_cond, Laws.ParMem.put_wf, Laws.ParMem.putRaw_wf, Laws.ParMem.putAll_wf, implies_true, and_self]

theorem execExtMigrationComplete_mem {s : State} {t : State} (he : execExtMigrationComplete s = .next t) (hm : MemOk s) : MemOk t := by
  unfold execExtMigrationComplete at he
  refine onlyIf_mem he hm ?_
  (try dsimp only)
  (repeat' split) <;> simp (maxDischargeDepth := 40) +contextual only [hm, id_eq, migrationDone_mem, mem_foldl, mem_ite, mem_cond, modForme_mem, modGddr_mem, implies_true, and_self, Laws.gddrPutAll_wf, Laws.gddrPut_wf, memOk_phys, FormeOk.g, FormeOk.q, FormeOk.f, fok_foldl, fok_ite, fok_cond, Laws.ParMem.put_wf, Laws.ParMem.putRaw_wf, Laws.ParMem.putAll_wf, implies_true, and_self]

theorem execChannelRetrain_mem {ch : Fin 80} {s : State} {t : State} (he : execChannelRetrain ch s = .next t) (hm : MemOk s) : MemOk t := by
  unfold execChannelRetrain at he
  refine onlyIf_mem he hm ?_
  (try dsimp only)
  (repeat' split) <;> simp (maxDischargeDepth := 40) +contextual only [hm, id_eq, retrainTrigger_mem, mem_foldl, mem_ite, mem_cond, modForme_mem, modGddr_mem, implies_true, and_self, Laws.gddrPutAll_wf, Laws.gddrPut_wf, memOk_phys, FormeOk.g, FormeOk.q, FormeOk.f, fok_foldl, fok_ite, fok_cond, Laws.ParMem.put_wf, Laws.ParMem.putRaw_wf, Laws.ParMem.putAll_wf, implies_true, and_self]

theorem execRetrainTimer_mem {ch : Fin 80} {s : State} {t : State} (he : execRetrainTimer ch s = .next t) (hm : MemOk s) : MemOk t := by
  unfold execRetrainTimer at he
  refine onlyIf_mem he hm ?_
  (try dsimp only)
  (repeat' split) <;> simp (maxDischargeDepth := 40) +contextual only [hm, id_eq, retrainTrigger_mem, mem_foldl, mem_ite, mem_cond, modForme_mem, modGddr_mem, implies_true, and_self, Laws.gddrPutAll_wf, Laws.gddrPut_wf, memOk_phys, FormeOk.g, FormeOk.q, FormeOk.f, fok_foldl, fok_ite, fok_cond, Laws.ParMem.put_wf, Laws.ParMem.putRaw_wf, Laws.ParMem.putAll_wf, implies_true, and_self]

theorem execRefresh_mem {_ch : Fin 80} {_bank : Fin 16} {s : State} {t : State} (he : execRefresh _ch _bank s = .next t) (hm : MemOk s) : MemOk t :=
  hm.touch (execRefresh_touch he) (by decide) (by decide)

theorem execTimebaseMeasure_mem {p : Fin 11} {delay : BitVec 16} {offset : BitVec 32} {s : State} {t : State} (he : execTimebaseMeasure p delay offset s = .next t) (hm : MemOk s) : MemOk t :=
  hm.touch (execTimebaseMeasure_touch he) (by decide) (by decide)

theorem execKeystoneArrive_mem {b : Fin 4} {v : Word} {s : State} {t : State} (he : execKeystoneArrive b v s = .next t) (hm : MemOk s) : MemOk t :=
  hm.touch (execKeystoneArrive_touch he) (by decide) (by decide)

theorem execCancel_mem {b : Fin 4} {v : Word} {s : State} {t : State} (he : execCancel b v s = .next t) (hm : MemOk s) : MemOk t :=
  hm.touch (execCancel_touch he) (by decide) (by decide)

theorem execKeystoneRelease_mem {b : Fin 4} {s : State} {t : State} (he : execKeystoneRelease b s = .next t) (hm : MemOk s) : MemOk t := by
  unfold execKeystoneRelease at he
  refine onlyIf_mem he hm ?_
  (try dsimp only)
  (repeat' split) <;> simp (maxDischargeDepth := 40) +contextual only [hm, id_eq, releaseEffect_mem, mem_foldl, mem_ite, mem_cond, modForme_mem, modGddr_mem, implies_true, and_self, Laws.gddrPutAll_wf, Laws.gddrPut_wf, memOk_phys, FormeOk.g, FormeOk.q, FormeOk.f, fok_foldl, fok_ite, fok_cond, Laws.ParMem.put_wf, Laws.ParMem.putRaw_wf, Laws.ParMem.putAll_wf, implies_true, and_self]

theorem execKeystoneTimeout_mem {b : Fin 4} {s : State} {t : State} (he : execKeystoneTimeout b s = .next t) (hm : MemOk s) : MemOk t :=
  hm.touch (execKeystoneTimeout_touch he) (by decide) (by decide)

theorem execArrivalExpiry_mem {b : Fin 4} {die : BitVec 12} {s : State} {t : State} (he : execArrivalExpiry b die s = .next t) (hm : MemOk s) : MemOk t :=
  hm.touch (execArrivalExpiry_touch he) (by decide) (by decide)

theorem execImpressionAppend_mem {v : Word} {s : State} {t : State} (he : execImpressionAppend v s = .next t) (hm : MemOk s) : MemOk t := by
  unfold execImpressionAppend at he
  refine onlyIf_mem he hm ?_
  (try dsimp only)
  (repeat' split) <;> simp (maxDischargeDepth := 40) +contextual only [hm, id_eq, writeAppend_mem, mem_foldl, mem_ite, mem_cond, modForme_mem, modGddr_mem, implies_true, and_self, Laws.gddrPutAll_wf, Laws.gddrPut_wf, memOk_phys, FormeOk.g, FormeOk.q, FormeOk.f, fok_foldl, fok_ite, fok_cond, Laws.ParMem.put_wf, Laws.ParMem.putRaw_wf, Laws.ParMem.putAll_wf, implies_true, and_self]

theorem execSpanFrameReceive_mem {p : Fin 11} {fr : SpanFrame} {s : State} {t : State} (he : execSpanFrameReceive p fr s = .next t) (hm : MemOk s) : MemOk t :=
  hm.touch (execSpanFrameReceive_touch he) (by decide) (by decide)

theorem execLinkRetrain_mem {p : Fin 11} {s : State} {t : State} (he : execLinkRetrain p s = .next t) (hm : MemOk s) : MemOk t :=
  hm.touch (execLinkRetrain_touch he) (by decide) (by decide)

theorem execLinkTrainingComplete_mem {p : Fin 11} {r : TrainReport} {s : State} {t : State} (he : execLinkTrainingComplete p r s = .next t) (hm : MemOk s) : MemOk t := by
  unfold execLinkTrainingComplete at he
  refine onlyIf_mem he hm ?_
  (try dsimp only)
  (repeat' split) <;> simp (maxDischargeDepth := 40) +contextual only [hm, id_eq, trainingEffect_mem, mem_foldl, mem_ite, mem_cond, modForme_mem, modGddr_mem, implies_true, and_self, Laws.gddrPutAll_wf, Laws.gddrPut_wf, memOk_phys, FormeOk.g, FormeOk.q, FormeOk.f, fok_foldl, fok_ite, fok_cond, Laws.ParMem.put_wf, Laws.ParMem.putRaw_wf, Laws.ParMem.putAll_wf, implies_true, and_self]

theorem execLinkDown_mem {p : Fin 11} {s : State} {t : State} (he : execLinkDown p s = .next t) (hm : MemOk s) : MemOk t :=
  hm.touch (execLinkDown_touch he) (by decide) (by decide)

theorem execLinkHold_mem {p : Fin 11} {v : Word} {s : State} {t : State} (he : execLinkHold p v s = .next t) (hm : MemOk s) : MemOk t :=
  hm.touch (execLinkHold_touch he) (by decide) (by decide)

theorem execRouteEntryWrite_mem {id : BitVec 12} {v : Word} {s : State} {t : State} (he : execRouteEntryWrite id v s = .next t) (hm : MemOk s) : MemOk t :=
  hm.touch (execRouteEntryWrite_touch he) (by decide) (by decide)

theorem execSpanWrite_mem {p : Fin 11} {s : State} {t : State} (he : execSpanWrite p s = .next t) (hm : MemOk s) : MemOk t := by
  unfold execSpanWrite at he
  refine onlyIf_mem he hm ?_
  (try dsimp only)
  (repeat' split) <;> simp (maxDischargeDepth := 40) +contextual only [hm, id_eq, answerCorrupt_mem, onPacket_mem, writePacketEffect_mem, mem_foldl, mem_ite, mem_cond, modForme_mem, modGddr_mem, implies_true, and_self, Laws.gddrPutAll_wf, Laws.gddrPut_wf, memOk_phys, FormeOk.g, FormeOk.q, FormeOk.f, fok_foldl, fok_ite, fok_cond, Laws.ParMem.put_wf, Laws.ParMem.putRaw_wf, Laws.ParMem.putAll_wf, implies_true, and_self]

theorem execSpanReadReq_mem {p : Fin 11} {s : State} {t : State} (he : execSpanReadReq p s = .next t) (hm : MemOk s) : MemOk t := by
  unfold execSpanReadReq at he
  refine onlyIf_mem he hm ?_
  (try dsimp only)
  (repeat' split) <;> simp (maxDischargeDepth := 40) +contextual only [hm, id_eq, answerCorrupt_mem, onPacket_mem, readReqEffect_mem, mem_foldl, mem_ite, mem_cond, modForme_mem, modGddr_mem, implies_true, and_self, Laws.gddrPutAll_wf, Laws.gddrPut_wf, memOk_phys, FormeOk.g, FormeOk.q, FormeOk.f, fok_foldl, fok_ite, fok_cond, Laws.ParMem.put_wf, Laws.ParMem.putRaw_wf, Laws.ParMem.putAll_wf, implies_true, and_self]

theorem execSpanReadResp_mem {p : Fin 11} {s : State} {t : State} (he : execSpanReadResp p s = .next t) (hm : MemOk s) : MemOk t := by
  unfold execSpanReadResp at he
  refine onlyIf_mem he hm ?_
  (try dsimp only)
  (repeat' split) <;> simp (maxDischargeDepth := 40) +contextual only [hm, id_eq, onPacket_mem, readRespEffect_mem, respCorrupt_mem, mem_foldl, mem_ite, mem_cond, modForme_mem, modGddr_mem, implies_true, and_self, Laws.gddrPutAll_wf, Laws.gddrPut_wf, memOk_phys, FormeOk.g, FormeOk.q, FormeOk.f, fok_foldl, fok_ite, fok_cond, Laws.ParMem.put_wf, Laws.ParMem.putRaw_wf, Laws.ParMem.putAll_wf, implies_true, and_self]

theorem execSpanAck_mem {p : Fin 11} {s : State} {t : State} (he : execSpanAck p s = .next t) (hm : MemOk s) : MemOk t := by
  unfold execSpanAck at he
  refine onlyIf_mem he hm ?_
  (try dsimp only)
  (repeat' split) <;> simp (maxDischargeDepth := 40) +contextual only [hm, id_eq, ackEffect_mem, onPacket_mem, mem_foldl, mem_ite, mem_cond, modForme_mem, modGddr_mem, implies_true, and_self, Laws.gddrPutAll_wf, Laws.gddrPut_wf, memOk_phys, FormeOk.g, FormeOk.q, FormeOk.f, fok_foldl, fok_ite, fok_cond, Laws.ParMem.put_wf, Laws.ParMem.putRaw_wf, Laws.ParMem.putAll_wf, implies_true, and_self]

theorem execSpanNack_mem {p : Fin 11} {s : State} {t : State} (he : execSpanNack p s = .next t) (hm : MemOk s) : MemOk t := by
  unfold execSpanNack at he
  refine onlyIf_mem he hm ?_
  (try dsimp only)
  (repeat' split) <;> simp (maxDischargeDepth := 40) +contextual only [hm, id_eq, nackEffect_mem, onPacket_mem, mem_foldl, mem_ite, mem_cond, modForme_mem, modGddr_mem, implies_true, and_self, Laws.gddrPutAll_wf, Laws.gddrPut_wf, memOk_phys, FormeOk.g, FormeOk.q, FormeOk.f, fok_foldl, fok_ite, fok_cond, Laws.ParMem.put_wf, Laws.ParMem.putRaw_wf, Laws.ParMem.putAll_wf, implies_true, and_self]

theorem execKeystone_mem {p : Fin 11} {s : State} {t : State} (he : execKeystone p s = .next t) (hm : MemOk s) : MemOk t := by
  unfold execKeystone at he
  refine onlyIf_mem he hm ?_
  (try dsimp only)
  (repeat' split) <;> simp (maxDischargeDepth := 40) +contextual only [hm, id_eq, answerCorrupt_mem, keystoneEffect_mem, onPacket_mem, mem_foldl, mem_ite, mem_cond, modForme_mem, modGddr_mem, implies_true, and_self, Laws.gddrPutAll_wf, Laws.gddrPut_wf, memOk_phys, FormeOk.g, FormeOk.q, FormeOk.f, fok_foldl, fok_ite, fok_cond, Laws.ParMem.put_wf, Laws.ParMem.putRaw_wf, Laws.ParMem.putAll_wf, implies_true, and_self]

theorem execEthfwd_mem {p : Fin 11} {s : State} {t : State} (he : execEthfwd p s = .next t) (hm : MemOk s) : MemOk t := by
  unfold execEthfwd at he
  refine onlyIf_mem he hm ?_
  (try dsimp only)
  (repeat' split) <;> simp (maxDischargeDepth := 40) +contextual only [hm, id_eq, answerCorrupt_mem, ethfwdEffect_mem, onPacket_mem, mem_foldl, mem_ite, mem_cond, modForme_mem, modGddr_mem, implies_true, and_self, Laws.gddrPutAll_wf, Laws.gddrPut_wf, memOk_phys, FormeOk.g, FormeOk.q, FormeOk.f, fok_foldl, fok_ite, fok_cond, Laws.ParMem.put_wf, Laws.ParMem.putRaw_wf, Laws.ParMem.putAll_wf, implies_true, and_self]

theorem execCollGo_mem {i : Fin 8} {v : Word} {s : State} {t : State} (he : execCollGo i v s = .next t) (hm : MemOk s) : MemOk t := by
  unfold execCollGo at he
  refine onlyIf_mem he hm ?_
  (try dsimp only)
  (repeat' split) <;> simp (maxDischargeDepth := 40) +contextual only [hm, id_eq, writeColl_mem, mem_foldl, mem_ite, mem_cond, modForme_mem, modGddr_mem, implies_true, and_self, Laws.gddrPutAll_wf, Laws.gddrPut_wf, memOk_phys, FormeOk.g, FormeOk.q, FormeOk.f, fok_foldl, fok_ite, fok_cond, Laws.ParMem.put_wf, Laws.ParMem.putRaw_wf, Laws.ParMem.putAll_wf, implies_true, and_self]

theorem execCollAnnouncement_mem {p : Fin 11} {s : State} {t : State} (he : execCollAnnouncement p s = .next t) (hm : MemOk s) : MemOk t := by
  unfold execCollAnnouncement at he
  refine onlyIf_mem he hm ?_
  (try dsimp only)
  (repeat' split) <;> simp (maxDischargeDepth := 40) +contextual only [hm, id_eq, annEffect_mem, answerCorrupt_mem, onPacket_mem, mem_foldl, mem_ite, mem_cond, modForme_mem, modGddr_mem, implies_true, and_self, Laws.gddrPutAll_wf, Laws.gddrPut_wf, memOk_phys, FormeOk.g, FormeOk.q, FormeOk.f, fok_foldl, fok_ite, fok_cond, Laws.ParMem.put_wf, Laws.ParMem.putRaw_wf, Laws.ParMem.putAll_wf, implies_true, and_self]

theorem execCollData_mem {p : Fin 11} {s : State} {t : State} (he : execCollData p s = .next t) (hm : MemOk s) : MemOk t := by
  unfold execCollData at he
  refine onlyIf_mem he hm ?_
  (try dsimp only)
  (repeat' split) <;> simp (maxDischargeDepth := 40) +contextual only [hm, id_eq, answerCorrupt_mem, dataEffect_mem, onPacket_mem, mem_foldl, mem_ite, mem_cond, modForme_mem, modGddr_mem, implies_true, and_self, Laws.gddrPutAll_wf, Laws.gddrPut_wf, memOk_phys, FormeOk.g, FormeOk.q, FormeOk.f, fok_foldl, fok_ite, fok_cond, Laws.ParMem.put_wf, Laws.ParMem.putRaw_wf, Laws.ParMem.putAll_wf, implies_true, and_self]

theorem execAnnounceRepeat_mem {i : Fin 8} {peer : BitVec 12} {s : State} {t : State} (he : execAnnounceRepeat i peer s = .next t) (hm : MemOk s) : MemOk t := by
  unfold execAnnounceRepeat at he
  refine onlyIf_mem he hm ?_
  (try dsimp only)
  (repeat' split) <;> simp (maxDischargeDepth := 40) +contextual only [hm, id_eq, repeatEffect_mem, mem_foldl, mem_ite, mem_cond, modForme_mem, modGddr_mem, implies_true, and_self, Laws.gddrPutAll_wf, Laws.gddrPut_wf, memOk_phys, FormeOk.g, FormeOk.q, FormeOk.f, fok_foldl, fok_ite, fok_cond, Laws.ParMem.put_wf, Laws.ParMem.putRaw_wf, Laws.ParMem.putAll_wf, implies_true, and_self]

theorem execCollComplete_mem {i : Fin 8} {s : State} {t : State} (he : execCollComplete i s = .next t) (hm : MemOk s) : MemOk t := by
  unfold execCollComplete at he
  refine onlyIf_mem he hm ?_
  (try dsimp only)
  (repeat' split) <;> simp (maxDischargeDepth := 40) +contextual only [hm, id_eq, collDoneEffect_mem, mem_foldl, mem_ite, mem_cond, modForme_mem, modGddr_mem, implies_true, and_self, Laws.gddrPutAll_wf, Laws.gddrPut_wf, memOk_phys, FormeOk.g, FormeOk.q, FormeOk.f, fok_foldl, fok_ite, fok_cond, Laws.ParMem.put_wf, Laws.ParMem.putRaw_wf, Laws.ParMem.putAll_wf, implies_true, and_self]

theorem execCollTimeout_mem {i : Fin 8} {s : State} {t : State} (he : execCollTimeout i s = .next t) (hm : MemOk s) : MemOk t := by
  unfold execCollTimeout at he
  refine onlyIf_mem he hm ?_
  (try dsimp only)
  (repeat' split) <;> simp (maxDischargeDepth := 40) +contextual only [hm, id_eq, collFail_mem, mem_foldl, mem_ite, mem_cond, modForme_mem, modGddr_mem, implies_true, and_self, Laws.gddrPutAll_wf, Laws.gddrPut_wf, memOk_phys, FormeOk.g, FormeOk.q, FormeOk.f, fok_foldl, fok_ite, fok_cond, Laws.ParMem.put_wf, Laws.ParMem.putRaw_wf, Laws.ParMem.putAll_wf, implies_true, and_self]

theorem execEthFrameReceive_mem {fr : EthFrame} {s : State} {t : State} (he : execEthFrameReceive fr s = .next t) (hm : MemOk s) : MemOk t := by
  unfold execEthFrameReceive at he
  refine onlyIf_mem he hm ?_
  (try dsimp only)
  (repeat' split) <;> simp (maxDischargeDepth := 40) +contextual only [hm, id_eq, ethFrameEffect_mem, mem_foldl, mem_ite, mem_cond, modForme_mem, modGddr_mem, implies_true, and_self, Laws.gddrPutAll_wf, Laws.gddrPut_wf, memOk_phys, FormeOk.g, FormeOk.q, FormeOk.f, fok_foldl, fok_ite, fok_cond, Laws.ParMem.put_wf, Laws.ParMem.putRaw_wf, Laws.ParMem.putAll_wf, implies_true, and_self]

theorem execAbutLinkChange_mem {link : BitVec 2} {s : State} {t : State} (he : execAbutLinkChange link s = .next t) (hm : MemOk s) : MemOk t :=
  hm.touch (execAbutLinkChange_touch he) (by decide) (by decide)

theorem execForwardGraceEnd_mem {d : Fin 8} {s : State} {t : State} (he : execForwardGraceEnd d s = .next t) (hm : MemOk s) : MemOk t :=
  hm.touch (execForwardGraceEnd_touch he) (by decide) (by decide)

theorem execRoceSendIn_mem {s : State} {t : State} (he : execRoceSendIn s = .next t) (hm : MemOk s) : MemOk t := by
  unfold execRoceSendIn at he
  refine onlyIf_mem he hm ?_
  (try dsimp only)
  (repeat' split) <;> simp (maxDischargeDepth := 40) +contextual only [hm, id_eq, ackAgain_mem, onRequest_mem, sendIn_mem, mem_foldl, mem_ite, mem_cond, modForme_mem, modGddr_mem, implies_true, and_self, Laws.gddrPutAll_wf, Laws.gddrPut_wf, memOk_phys, FormeOk.g, FormeOk.q, FormeOk.f, fok_foldl, fok_ite, fok_cond, Laws.ParMem.put_wf, Laws.ParMem.putRaw_wf, Laws.ParMem.putAll_wf, implies_true, and_self]

theorem execRoceWriteIn_mem {s : State} {t : State} (he : execRoceWriteIn s = .next t) (hm : MemOk s) : MemOk t := by
  unfold execRoceWriteIn at he
  refine onlyIf_mem he hm ?_
  (try dsimp only)
  (repeat' split) <;> simp (maxDischargeDepth := 40) +contextual only [hm, id_eq, ackAgain_mem, dataIn_mem, onRequest_mem, mem_foldl, mem_ite, mem_cond, modForme_mem, modGddr_mem, implies_true, and_self, Laws.gddrPutAll_wf, Laws.gddrPut_wf, memOk_phys, FormeOk.g, FormeOk.q, FormeOk.f, fok_foldl, fok_ite, fok_cond, Laws.ParMem.put_wf, Laws.ParMem.putRaw_wf, Laws.ParMem.putAll_wf, implies_true, and_self]

theorem execRoceReadIn_mem {s : State} {t : State} (he : execRoceReadIn s = .next t) (hm : MemOk s) : MemOk t := by
  unfold execRoceReadIn at he
  refine onlyIf_mem he hm ?_
  (try dsimp only)
  (repeat' split) <;> simp (maxDischargeDepth := 40) +contextual only [hm, id_eq, onRequest_mem, readIn_mem, serveReadIn_mem, mem_foldl, mem_ite, mem_cond, modForme_mem, modGddr_mem, implies_true, and_self, Laws.gddrPutAll_wf, Laws.gddrPut_wf, memOk_phys, FormeOk.g, FormeOk.q, FormeOk.f, fok_foldl, fok_ite, fok_cond, Laws.ParMem.put_wf, Laws.ParMem.putRaw_wf, Laws.ParMem.putAll_wf, implies_true, and_self]

theorem execRoceResponseIn_mem {s : State} {t : State} (he : execRoceResponseIn s = .next t) (hm : MemOk s) : MemOk t := by
  unfold execRoceResponseIn at he
  refine onlyIf_mem he hm ?_
  (try dsimp only)
  (repeat' split) <;> simp (maxDischargeDepth := 40) +contextual only [hm, id_eq, responseIn_mem, mem_foldl, mem_ite, mem_cond, modForme_mem, modGddr_mem, implies_true, and_self, Laws.gddrPutAll_wf, Laws.gddrPut_wf, memOk_phys, FormeOk.g, FormeOk.q, FormeOk.f, fok_foldl, fok_ite, fok_cond, Laws.ParMem.put_wf, Laws.ParMem.putRaw_wf, Laws.ParMem.putAll_wf, implies_true, and_self]

theorem execCnpIn_mem {s : State} {t : State} (he : execCnpIn s = .next t) (hm : MemOk s) : MemOk t :=
  hm.touch (execCnpIn_touch he) (by decide) (by decide)

theorem execCcTimer_mem {qp : BitVec 14} {s : State} {t : State} (he : execCcTimer qp s = .next t) (hm : MemOk s) : MemOk t :=
  hm.touch (execCcTimer_touch he) (by decide) (by decide)

theorem execAckTimeout_mem {qp : BitVec 14} {s : State} {t : State} (he : execAckTimeout qp s = .next t) (hm : MemOk s) : MemOk t := by
  unfold execAckTimeout at he
  refine onlyIf_mem he hm ?_
  (try dsimp only)
  (repeat' split) <;> simp (maxDischargeDepth := 40) +contextual only [hm, id_eq, pumpCopies_mem, retry_mem, mem_foldl, mem_ite, mem_cond, modForme_mem, modGddr_mem, implies_true, and_self, Laws.gddrPutAll_wf, Laws.gddrPut_wf, memOk_phys, FormeOk.g, FormeOk.q, FormeOk.f, fok_foldl, fok_ite, fok_cond, Laws.ParMem.put_wf, Laws.ParMem.putRaw_wf, Laws.ParMem.putAll_wf, implies_true, and_self]

theorem execRnrTimer_mem {qp : BitVec 14} {s : State} {t : State} (he : execRnrTimer qp s = .next t) (hm : MemOk s) : MemOk t := by
  unfold execRnrTimer at he
  refine onlyIf_mem he hm ?_
  (try dsimp only)
  (repeat' split) <;> simp (maxDischargeDepth := 40) +contextual only [hm, id_eq, pumpCopies_mem, rnrRetry_mem, mem_foldl, mem_ite, mem_cond, modForme_mem, modGddr_mem, implies_true, and_self, Laws.gddrPutAll_wf, Laws.gddrPut_wf, memOk_phys, FormeOk.g, FormeOk.q, FormeOk.f, fok_foldl, fok_ite, fok_cond, Laws.ParMem.put_wf, Laws.ParMem.putRaw_wf, Laws.ParMem.putAll_wf, implies_true, and_self]

theorem execIngressDrain_mem {s : State} {t : State} (he : execIngressDrain s = .next t) (hm : MemOk s) : MemOk t :=
  hm.touch (execIngressDrain_touch he) (by decide) (by decide)

theorem execQpStateCmd_mem {v : Word} {s : State} {t : State} (he : execQpStateCmd v s = .next t) (hm : MemOk s) : MemOk t := by
  unfold execQpStateCmd at he
  refine onlyIf_mem he hm ?_
  (try dsimp only)
  (repeat' split) <;> simp (maxDischargeDepth := 40) +contextual only [hm, id_eq, writeObjCmd_mem, mem_foldl, mem_ite, mem_cond, modForme_mem, modGddr_mem, implies_true, and_self, Laws.gddrPutAll_wf, Laws.gddrPut_wf, memOk_phys, FormeOk.g, FormeOk.q, FormeOk.f, fok_foldl, fok_ite, fok_cond, Laws.ParMem.put_wf, Laws.ParMem.putRaw_wf, Laws.ParMem.putAll_wf, implies_true, and_self]

theorem execCqStateCmd_mem {v : Word} {s : State} {t : State} (he : execCqStateCmd v s = .next t) (hm : MemOk s) : MemOk t := by
  unfold execCqStateCmd at he
  refine onlyIf_mem he hm ?_
  (try dsimp only)
  (repeat' split) <;> simp (maxDischargeDepth := 40) +contextual only [hm, id_eq, writeObjCmd_mem, mem_foldl, mem_ite, mem_cond, modForme_mem, modGddr_mem, implies_true, and_self, Laws.gddrPutAll_wf, Laws.gddrPut_wf, memOk_phys, FormeOk.g, FormeOk.q, FormeOk.f, fok_foldl, fok_ite, fok_cond, Laws.ParMem.put_wf, Laws.ParMem.putRaw_wf, Laws.ParMem.putAll_wf, implies_true, and_self]

theorem execSrqStateCmd_mem {v : Word} {s : State} {t : State} (he : execSrqStateCmd v s = .next t) (hm : MemOk s) : MemOk t := by
  unfold execSrqStateCmd at he
  refine onlyIf_mem he hm ?_
  (try dsimp only)
  (repeat' split) <;> simp (maxDischargeDepth := 40) +contextual only [hm, id_eq, writeObjCmd_mem, mem_foldl, mem_ite, mem_cond, modForme_mem, modGddr_mem, implies_true, and_self, Laws.gddrPutAll_wf, Laws.gddrPut_wf, memOk_phys, FormeOk.g, FormeOk.q, FormeOk.f, fok_foldl, fok_ite, fok_cond, Laws.ParMem.put_wf, Laws.ParMem.putRaw_wf, Laws.ParMem.putAll_wf, implies_true, and_self]

theorem execSqDoorbell_mem {v : Word} {s : State} {t : State} (he : execSqDoorbell v s = .next t) (hm : MemOk s) : MemOk t := by
  unfold execSqDoorbell at he
  refine onlyIf_mem he hm ?_
  (try dsimp only)
  (repeat' split) <;> simp (maxDischargeDepth := 40) +contextual only [hm, id_eq, writeDoorbell_mem, mem_foldl, mem_ite, mem_cond, modForme_mem, modGddr_mem, implies_true, and_self, Laws.gddrPutAll_wf, Laws.gddrPut_wf, memOk_phys, FormeOk.g, FormeOk.q, FormeOk.f, fok_foldl, fok_ite, fok_cond, Laws.ParMem.put_wf, Laws.ParMem.putRaw_wf, Laws.ParMem.putAll_wf, implies_true, and_self]

theorem execRqDoorbell_mem {v : Word} {s : State} {t : State} (he : execRqDoorbell v s = .next t) (hm : MemOk s) : MemOk t := by
  unfold execRqDoorbell at he
  refine onlyIf_mem he hm ?_
  (try dsimp only)
  (repeat' split) <;> simp (maxDischargeDepth := 40) +contextual only [hm, id_eq, writeDoorbell_mem, mem_foldl, mem_ite, mem_cond, modForme_mem, modGddr_mem, implies_true, and_self, Laws.gddrPutAll_wf, Laws.gddrPut_wf, memOk_phys, FormeOk.g, FormeOk.q, FormeOk.f, fok_foldl, fok_ite, fok_cond, Laws.ParMem.put_wf, Laws.ParMem.putRaw_wf, Laws.ParMem.putAll_wf, implies_true, and_self]

theorem execSrqDoorbell_mem {v : Word} {s : State} {t : State} (he : execSrqDoorbell v s = .next t) (hm : MemOk s) : MemOk t := by
  unfold execSrqDoorbell at he
  refine onlyIf_mem he hm ?_
  (try dsimp only)
  (repeat' split) <;> simp (maxDischargeDepth := 40) +contextual only [hm, id_eq, writeDoorbell_mem, mem_foldl, mem_ite, mem_cond, modForme_mem, modGddr_mem, implies_true, and_self, Laws.gddrPutAll_wf, Laws.gddrPut_wf, memOk_phys, FormeOk.g, FormeOk.q, FormeOk.f, fok_foldl, fok_ite, fok_cond, Laws.ParMem.put_wf, Laws.ParMem.putRaw_wf, Laws.ParMem.putAll_wf, implies_true, and_self]

theorem execCqDoorbell_mem {v : Word} {s : State} {t : State} (he : execCqDoorbell v s = .next t) (hm : MemOk s) : MemOk t := by
  unfold execCqDoorbell at he
  refine onlyIf_mem he hm ?_
  (try dsimp only)
  (repeat' split) <;> simp (maxDischargeDepth := 40) +contextual only [hm, id_eq, writeDoorbell_mem, mem_foldl, mem_ite, mem_cond, modForme_mem, modGddr_mem, implies_true, and_self, Laws.gddrPutAll_wf, Laws.gddrPut_wf, memOk_phys, FormeOk.g, FormeOk.q, FormeOk.f, fok_foldl, fok_ite, fok_cond, Laws.ParMem.put_wf, Laws.ParMem.putRaw_wf, Laws.ParMem.putAll_wf, implies_true, and_self]

theorem execSend_mem {qp : BitVec 14} {s : State} {t : State} (he : execSend qp s = .next t) (hm : MemOk s) : MemOk t := by
  unfold execSend at he
  refine onlyIf_mem he hm ?_
  (try dsimp only)
  (repeat' split) <;> simp (maxDischargeDepth := 40) +contextual only [hm, id_eq, sendEntry_mem, mem_foldl, mem_ite, mem_cond, modForme_mem, modGddr_mem, implies_true, and_self, Laws.gddrPutAll_wf, Laws.gddrPut_wf, memOk_phys, FormeOk.g, FormeOk.q, FormeOk.f, fok_foldl, fok_ite, fok_cond, Laws.ParMem.put_wf, Laws.ParMem.putRaw_wf, Laws.ParMem.putAll_wf, implies_true, and_self]

theorem execSendImm_mem {qp : BitVec 14} {s : State} {t : State} (he : execSendImm qp s = .next t) (hm : MemOk s) : MemOk t := by
  unfold execSendImm at he
  refine onlyIf_mem he hm ?_
  (try dsimp only)
  (repeat' split) <;> simp (maxDischargeDepth := 40) +contextual only [hm, id_eq, sendEntry_mem, mem_foldl, mem_ite, mem_cond, modForme_mem, modGddr_mem, implies_true, and_self, Laws.gddrPutAll_wf, Laws.gddrPut_wf, memOk_phys, FormeOk.g, FormeOk.q, FormeOk.f, fok_foldl, fok_ite, fok_cond, Laws.ParMem.put_wf, Laws.ParMem.putRaw_wf, Laws.ParMem.putAll_wf, implies_true, and_self]

theorem execWrite_mem {qp : BitVec 14} {s : State} {t : State} (he : execWrite qp s = .next t) (hm : MemOk s) : MemOk t := by
  unfold execWrite at he
  refine onlyIf_mem he hm ?_
  (try dsimp only)
  (repeat' split) <;> simp (maxDischargeDepth := 40) +contextual only [hm, id_eq, sendEntry_mem, mem_foldl, mem_ite, mem_cond, modForme_mem, modGddr_mem, implies_true, and_self, Laws.gddrPutAll_wf, Laws.gddrPut_wf, memOk_phys, FormeOk.g, FormeOk.q, FormeOk.f, fok_foldl, fok_ite, fok_cond, Laws.ParMem.put_wf, Laws.ParMem.putRaw_wf, Laws.ParMem.putAll_wf, implies_true, and_self]

theorem execWriteImm_mem {qp : BitVec 14} {s : State} {t : State} (he : execWriteImm qp s = .next t) (hm : MemOk s) : MemOk t := by
  unfold execWriteImm at he
  refine onlyIf_mem he hm ?_
  (try dsimp only)
  (repeat' split) <;> simp (maxDischargeDepth := 40) +contextual only [hm, id_eq, sendEntry_mem, mem_foldl, mem_ite, mem_cond, modForme_mem, modGddr_mem, implies_true, and_self, Laws.gddrPutAll_wf, Laws.gddrPut_wf, memOk_phys, FormeOk.g, FormeOk.q, FormeOk.f, fok_foldl, fok_ite, fok_cond, Laws.ParMem.put_wf, Laws.ParMem.putRaw_wf, Laws.ParMem.putAll_wf, implies_true, and_self]

theorem execRead_mem {qp : BitVec 14} {s : State} {t : State} (he : execRead qp s = .next t) (hm : MemOk s) : MemOk t := by
  unfold execRead at he
  refine onlyIf_mem he hm ?_
  (try dsimp only)
  (repeat' split) <;> simp (maxDischargeDepth := 40) +contextual only [hm, id_eq, sendEntry_mem, mem_foldl, mem_ite, mem_cond, modForme_mem, modGddr_mem, implies_true, and_self, Laws.gddrPutAll_wf, Laws.gddrPut_wf, memOk_phys, FormeOk.g, FormeOk.q, FormeOk.f, fok_foldl, fok_ite, fok_cond, Laws.ParMem.put_wf, Laws.ParMem.putRaw_wf, Laws.ParMem.putAll_wf, implies_true, and_self]

theorem execRaw_mem {s : State} {t : State} (he : execRaw s = .next t) (hm : MemOk s) : MemOk t := by
  unfold execRaw at he
  refine onlyIf_mem he hm ?_
  (try dsimp only)
  (repeat' split) <;> simp (maxDischargeDepth := 40) +contextual only [hm, id_eq, rawEntry_mem, mem_foldl, mem_ite, mem_cond, modForme_mem, modGddr_mem, implies_true, and_self, Laws.gddrPutAll_wf, Laws.gddrPut_wf, memOk_phys, FormeOk.g, FormeOk.q, FormeOk.f, fok_foldl, fok_ite, fok_cond, Laws.ParMem.put_wf, Laws.ParMem.putRaw_wf, Laws.ParMem.putAll_wf, implies_true, and_self]

theorem execSvcStart_mem {i : Fin 64} {s : State} {t : State} (he : execSvcStart i s = .next t) (hm : MemOk s) : MemOk t :=
  hm.touch (execSvcStart_touch he) (by decide) (by decide)

theorem execSvcStop_mem {i : Fin 64} {s : State} {t : State} (he : execSvcStop i s = .next t) (hm : MemOk s) : MemOk t :=
  hm.touch (execSvcStop_touch he) (by decide) (by decide)

theorem execSvcLoadComplete_mem {i : Fin 64} {r : LoadReport} {s : State} {t : State} (he : execSvcLoadComplete i r s = .next t) (hm : MemOk s) : MemOk t :=
  hm.touch (execSvcLoadComplete_touch he) (by decide) (by decide)

theorem execSvcDrainComplete_mem {i : Fin 64} {s : State} {t : State} (he : execSvcDrainComplete i s = .next t) (hm : MemOk s) : MemOk t :=
  hm.touch (execSvcDrainComplete_touch he) (by decide) (by decide)

theorem execBatchDeadline_mem {i : Fin 64} {s : State} {t : State} (he : execBatchDeadline i s = .next t) (hm : MemOk s) : MemOk t := by
  unfold execBatchDeadline at he
  refine onlyIf_mem he hm ?_
  (try dsimp only)
  (repeat' split) <;> simp (maxDischargeDepth := 40) +contextual only [hm, id_eq, closeBatch_mem, mem_foldl, mem_ite, mem_cond, modForme_mem, modGddr_mem, implies_true, and_self, Laws.gddrPutAll_wf, Laws.gddrPut_wf, memOk_phys, FormeOk.g, FormeOk.q, FormeOk.f, fok_foldl, fok_ite, fok_cond, Laws.ParMem.put_wf, Laws.ParMem.putRaw_wf, Laws.ParMem.putAll_wf, implies_true, and_self]

theorem execCadenceInstanceStart_mem {i : Fin 64} {s : State} {t : State} (he : execCadenceInstanceStart i s = .next t) (hm : MemOk s) : MemOk t := by
  unfold execCadenceInstanceStart at he
  refine onlyIf_mem he hm ?_
  (try dsimp only)
  (repeat' split) <;> simp (maxDischargeDepth := 40) +contextual only [hm, id_eq, startInstance_mem, mem_foldl, mem_ite, mem_cond, modForme_mem, modGddr_mem, implies_true, and_self, Laws.gddrPutAll_wf, Laws.gddrPut_wf, memOk_phys, FormeOk.g, FormeOk.q, FormeOk.f, fok_foldl, fok_ite, fok_cond, Laws.ParMem.put_wf, Laws.ParMem.putRaw_wf, Laws.ParMem.putAll_wf, implies_true, and_self]

theorem execMirrorValues_mem {i : Fin 64} {reqId : BitVec 64} {crc len : BitVec 32} {s : State} {t : State} (he : execMirrorValues i reqId crc len s = .next t) (hm : MemOk s) : MemOk t :=
  hm.touch (execMirrorValues_touch he) (by decide) (by decide)

theorem execMirrorWaitExpiry_mem {i : Fin 64} {reqId : BitVec 64} {s : State} {t : State} (he : execMirrorWaitExpiry i reqId s = .next t) (hm : MemOk s) : MemOk t :=
  hm.touch (execMirrorWaitExpiry_touch he) (by decide) (by decide)

theorem execLineCheck_mem {f : FormeIx} {stuck : List (Nat × Byte)} {s : State} {t : State} (he : execLineCheck f stuck s = .next t) (hm : MemOk s) : MemOk t := by
  unfold execLineCheck at he
  refine onlyIf_mem he hm ?_
  (try dsimp only)
  (repeat' split) <;> simp (maxDischargeDepth := 40) +contextual only [hm, id_eq, lineCheckEffect_mem, mem_foldl, mem_ite, mem_cond, modForme_mem, modGddr_mem, implies_true, and_self, Laws.gddrPutAll_wf, Laws.gddrPut_wf, memOk_phys, FormeOk.g, FormeOk.q, FormeOk.f, fok_foldl, fok_ite, fok_cond, Laws.ParMem.put_wf, Laws.ParMem.putRaw_wf, Laws.ParMem.putAll_wf, implies_true, and_self]

theorem execFormeRetire_mem {f : FormeIx} {v : Word} {s : State} {t : State} (he : execFormeRetire f v s = .next t) (hm : MemOk s) : MemOk t := by
  unfold execFormeRetire at he
  refine onlyIf_mem he hm ?_
  (try dsimp only)
  (repeat' split) <;> simp (maxDischargeDepth := 40) +contextual only [hm, id_eq, relist_mem, writeFaultCtrl_fok, mem_foldl, mem_ite, mem_cond, modForme_mem, modGddr_mem, implies_true, and_self, Laws.gddrPutAll_wf, Laws.gddrPut_wf, memOk_phys, FormeOk.g, FormeOk.q, FormeOk.f, fok_foldl, fok_ite, fok_cond, Laws.ParMem.put_wf, Laws.ParMem.putRaw_wf, Laws.ParMem.putAll_wf, implies_true, and_self]

theorem execBucketLeak_mem {c : Fin 12} {s : State} {t : State} (he : execBucketLeak c s = .next t) (hm : MemOk s) : MemOk t :=
  hm.touch (execBucketLeak_touch he) (by decide) (by decide)

theorem execAck_mem {v : Word} {s : State} {t : State} (he : execAck v s = .next t) (hm : MemOk s) : MemOk t :=
  hm.touch (execAck_touch he) (by decide) (by decide)

theorem execSplitWrite_mem {f : FormeIx} {v : Word} {s : State} {t : State} (he : execSplitWrite f v s = .next t) (hm : MemOk s) : MemOk t := by
  unfold execSplitWrite at he
  refine onlyIf_mem he hm ?_
  (try dsimp only)
  (repeat' split) <;> simp (maxDischargeDepth := 40) +contextual only [hm, id_eq, writeSplitAddr_fok, mem_foldl, mem_ite, mem_cond, modForme_mem, modGddr_mem, implies_true, and_self, Laws.gddrPutAll_wf, Laws.gddrPut_wf, memOk_phys, FormeOk.g, FormeOk.q, FormeOk.f, fok_foldl, fok_ite, fok_cond, Laws.ParMem.put_wf, Laws.ParMem.putRaw_wf, Laws.ParMem.putAll_wf, implies_true, and_self]

theorem execSplitRead_mem {f : FormeIx} {v : Word} {s : State} {t : State} (he : execSplitRead f v s = .next t) (hm : MemOk s) : MemOk t := by
  unfold execSplitRead at he
  refine onlyIf_mem he hm ?_
  (try dsimp only)
  (repeat' split) <;> simp (maxDischargeDepth := 40) +contextual only [hm, id_eq, writeSplitAddr_fok, mem_foldl, mem_ite, mem_cond, modForme_mem, modGddr_mem, implies_true, and_self, Laws.gddrPutAll_wf, Laws.gddrPut_wf, memOk_phys, FormeOk.g, FormeOk.q, FormeOk.f, fok_foldl, fok_ite, fok_cond, Laws.ParMem.put_wf, Laws.ParMem.putRaw_wf, Laws.ParMem.putAll_wf, implies_true, and_self]

theorem execGalleyFlip_mem {f : FormeIx} {v : Word} {s : State} {t : State} (he : execGalleyFlip f v s = .next t) (hm : MemOk s) : MemOk t := by
  unfold execGalleyFlip at he
  refine onlyIf_mem he hm ?_
  (try dsimp only)
  (repeat' split) <;> simp (maxDischargeDepth := 40) +contextual only [hm, id_eq, writeFlip_fok, mem_foldl, mem_ite, mem_cond, modForme_mem, modGddr_mem, implies_true, and_self, Laws.gddrPutAll_wf, Laws.gddrPut_wf, memOk_phys, FormeOk.g, FormeOk.q, FormeOk.f, fok_foldl, fok_ite, fok_cond, Laws.ParMem.put_wf, Laws.ParMem.putRaw_wf, Laws.ParMem.putAll_wf, implies_true, and_self]

theorem execFenceReq_mem {v : Word} {s : State} {t : State} (he : execFenceReq v s = .next t) (hm : MemOk s) : MemOk t := by
  unfold execFenceReq at he
  refine onlyIf_mem he hm ?_
  (try dsimp only)
  (repeat' split) <;> simp (maxDischargeDepth := 40) +contextual only [hm, id_eq, writeFence_mem, mem_foldl, mem_ite, mem_cond, modForme_mem, modGddr_mem, implies_true, and_self, Laws.gddrPutAll_wf, Laws.gddrPut_wf, memOk_phys, FormeOk.g, FormeOk.q, FormeOk.f, fok_foldl, fok_ite, fok_cond, Laws.ParMem.put_wf, Laws.ParMem.putRaw_wf, Laws.ParMem.putAll_wf, implies_true, and_self]

theorem execPeerFenced_mem {d : Fin 8} {reason : BitVec 3} {s : State} {t : State} (he : execPeerFenced d reason s = .next t) (hm : MemOk s) : MemOk t :=
  hm.touch (execPeerFenced_touch he) (by decide) (by decide)

theorem execCheckGo_mem {v : Word} {s : State} {t : State} (he : execCheckGo v s = .next t) (hm : MemOk s) : MemOk t :=
  hm.touch (execCheckGo_touch he) (by decide) (by decide)

theorem execCheckComplete_mem {s : State} {t : State} (he : execCheckComplete s = .next t) (hm : MemOk s) : MemOk t := by
  unfold execCheckComplete at he
  refine onlyIf_mem he hm ?_
  (try dsimp only)
  (repeat' split) <;> simp (maxDischargeDepth := 40) +contextual only [hm, id_eq, checkEnds_mem, mem_foldl, mem_ite, mem_cond, modForme_mem, modGddr_mem, implies_true, and_self, Laws.gddrPutAll_wf, Laws.gddrPut_wf, memOk_phys, FormeOk.g, FormeOk.q, FormeOk.f, fok_foldl, fok_ite, fok_cond, Laws.ParMem.put_wf, Laws.ParMem.putRaw_wf, Laws.ParMem.putAll_wf, implies_true, and_self]

theorem execColophonRead_mem {m : ColoMsg} {s : State} {t : State} (he : execColophonRead m s = .next t) (hm : MemOk s) : MemOk t := by
  unfold execColophonRead at he
  refine onlyIf_mem he hm ?_
  (try dsimp only)
  (repeat' split) <;> simp (maxDischargeDepth := 40) +contextual only [hm, id_eq, coloMessage_mem, mem_foldl, mem_ite, mem_cond, modForme_mem, modGddr_mem, implies_true, and_self, Laws.gddrPutAll_wf, Laws.gddrPut_wf, memOk_phys, FormeOk.g, FormeOk.q, FormeOk.f, fok_foldl, fok_ite, fok_cond, Laws.ParMem.put_wf, Laws.ParMem.putRaw_wf, Laws.ParMem.putAll_wf, implies_true, and_self]

theorem execColophonWrite_mem {m : ColoMsg} {s : State} {t : State} (he : execColophonWrite m s = .next t) (hm : MemOk s) : MemOk t := by
  unfold execColophonWrite at he
  refine onlyIf_mem he hm ?_
  (try dsimp only)
  (repeat' split) <;> simp (maxDischargeDepth := 40) +contextual only [hm, id_eq, coloMessage_mem, mem_foldl, mem_ite, mem_cond, modForme_mem, modGddr_mem, implies_true, and_self, Laws.gddrPutAll_wf, Laws.gddrPut_wf, memOk_phys, FormeOk.g, FormeOk.q, FormeOk.f, fok_foldl, fok_ite, fok_cond, Laws.ParMem.put_wf, Laws.ParMem.putRaw_wf, Laws.ParMem.putAll_wf, implies_true, and_self]

theorem execReadBlock_mem {m : ColoMsg} {s : State} {t : State} (he : execReadBlock m s = .next t) (hm : MemOk s) : MemOk t := by
  unfold execReadBlock at he
  refine onlyIf_mem he hm ?_
  (try dsimp only)
  (repeat' split) <;> simp (maxDischargeDepth := 40) +contextual only [hm, id_eq, coloMessage_mem, mem_foldl, mem_ite, mem_cond, modForme_mem, modGddr_mem, implies_true, and_self, Laws.gddrPutAll_wf, Laws.gddrPut_wf, memOk_phys, FormeOk.g, FormeOk.q, FormeOk.f, fok_foldl, fok_ite, fok_cond, Laws.ParMem.put_wf, Laws.ParMem.putRaw_wf, Laws.ParMem.putAll_wf, implies_true, and_self]

theorem execWriteBlock_mem {m : ColoMsg} {s : State} {t : State} (he : execWriteBlock m s = .next t) (hm : MemOk s) : MemOk t := by
  unfold execWriteBlock at he
  refine onlyIf_mem he hm ?_
  (try dsimp only)
  (repeat' split) <;> simp (maxDischargeDepth := 40) +contextual only [hm, id_eq, coloMessage_mem, mem_foldl, mem_ite, mem_cond, modForme_mem, modGddr_mem, implies_true, and_self, Laws.gddrPutAll_wf, Laws.gddrPut_wf, memOk_phys, FormeOk.g, FormeOk.q, FormeOk.f, fok_foldl, fok_ite, fok_cond, Laws.ParMem.put_wf, Laws.ParMem.putRaw_wf, Laws.ParMem.putAll_wf, implies_true, and_self]

theorem execNotify_mem {m : ColoMsg} {s : State} {t : State} (he : execNotify m s = .next t) (hm : MemOk s) : MemOk t := by
  unfold execNotify at he
  refine onlyIf_mem he hm ?_
  (try dsimp only)
  (repeat' split) <;> simp (maxDischargeDepth := 40) +contextual only [hm, id_eq, coloMessage_mem, mem_foldl, mem_ite, mem_cond, modForme_mem, modGddr_mem, implies_true, and_self, Laws.gddrPutAll_wf, Laws.gddrPut_wf, memOk_phys, FormeOk.g, FormeOk.q, FormeOk.f, fok_foldl, fok_ite, fok_cond, Laws.ParMem.put_wf, Laws.ParMem.putRaw_wf, Laws.ParMem.putAll_wf, implies_true, and_self]

theorem execSessionOpen_mem {m : ColoMsg} {s : State} {t : State} (he : execSessionOpen m s = .next t) (hm : MemOk s) : MemOk t := by
  unfold execSessionOpen at he
  refine onlyIf_mem he hm ?_
  (try dsimp only)
  (repeat' split) <;> simp (maxDischargeDepth := 40) +contextual only [hm, id_eq, coloMessage_mem, mem_foldl, mem_ite, mem_cond, modForme_mem, modGddr_mem, implies_true, and_self, Laws.gddrPutAll_wf, Laws.gddrPut_wf, memOk_phys, FormeOk.g, FormeOk.q, FormeOk.f, fok_foldl, fok_ite, fok_cond, Laws.ParMem.put_wf, Laws.ParMem.putRaw_wf, Laws.ParMem.putAll_wf, implies_true, and_self]

theorem execSessionConfirmTimeout_mem {id : BitVec 32} {s : State} {t : State} (he : execSessionConfirmTimeout id s = .next t) (hm : MemOk s) : MemOk t :=
  hm.touch (execSessionConfirmTimeout_touch he) (by decide) (by decide)

theorem execSessionIdleEnd_mem {id : BitVec 32} {s : State} {t : State} (he : execSessionIdleEnd id s = .next t) (hm : MemOk s) : MemOk t :=
  hm.touch (execSessionIdleEnd_touch he) (by decide) (by decide)

theorem execSessionClose_mem {v : BitVec 32} {s : State} {t : State} (he : execSessionClose v s = .next t) (hm : MemOk s) : MemOk t :=
  hm.touch (execSessionClose_touch he) (by decide) (by decide)

theorem execResponseKeptExpiry_mem {s : State} {t : State} (he : execResponseKeptExpiry s = .next t) (hm : MemOk s) : MemOk t :=
  hm.touch (execResponseKeptExpiry_touch he) (by decide) (by decide)

theorem execNotifyRetry_mem {s : State} {t : State} (he : execNotifyRetry s = .next t) (hm : MemOk s) : MemOk t :=
  hm.touch (execNotifyRetry_touch he) (by decide) (by decide)

theorem execNotifyLeaseEnd_mem {s : State} {t : State} (he : execNotifyLeaseEnd s = .next t) (hm : MemOk s) : MemOk t :=
  hm.touch (execNotifyLeaseEnd_touch he) (by decide) (by decide)

theorem execConfigSave_mem {v : Byte} {s : State} {t : State} (he : execConfigSave v s = .next t) (hm : MemOk s) : MemOk t :=
  hm.touch (execConfigSave_touch he) (by decide) (by decide)

theorem execOperatorKey_mem {slot : Fin 8} {key : List Byte} {inSession viaMgmt : Bool} {s : State} {t : State} (he : execOperatorKey slot key inSession viaMgmt s = .next t) (hm : MemOk s) : MemOk t :=
  hm.touch (execOperatorKey_touch he) (by decide) (by decide)

theorem execDieIdBase_mem {v : BitVec 16} {s : State} {t : State} (he : execDieIdBase v s = .next t) (hm : MemOk s) : MemOk t :=
  hm.touch (execDieIdBase_touch he) (by decide) (by decide)

theorem execDieRestart_mem {v : Byte} {s : State} {t : State} (he : execDieRestart v s = .next t) (hm : MemOk s) : MemOk t := by
  unfold execDieRestart at he
  refine onlyIf_mem he hm ?_
  (try dsimp only)
  (repeat' split) <;> simp (maxDischargeDepth := 40) +contextual only [hm, id_eq, dieRestart_mem, mem_foldl, mem_ite, mem_cond, modForme_mem, modGddr_mem, implies_true, and_self, Laws.gddrPutAll_wf, Laws.gddrPut_wf, memOk_phys, FormeOk.g, FormeOk.q, FormeOk.f, fok_foldl, fok_ite, fok_cond, Laws.ParMem.put_wf, Laws.ParMem.putRaw_wf, Laws.ParMem.putAll_wf, implies_true, and_self]

theorem execAttestNonce_mem {nonce : List Byte} {s : State} {t : State} (he : execAttestNonce nonce s = .next t) (hm : MemOk s) : MemOk t :=
  hm.touch (execAttestNonce_touch he) (by decide) (by decide)

theorem execDebugUnlock_mem {token : List Byte} {s : State} {t : State} (he : execDebugUnlock token s = .next t) (hm : MemOk s) : MemOk t := by
  unfold execDebugUnlock at he
  refine onlyIf_mem he hm ?_
  (try dsimp only)
  (repeat' split) <;> simp (maxDischargeDepth := 40) +contextual only [hm, id_eq, unlockEffect_mem, mem_foldl, mem_ite, mem_cond, modForme_mem, modGddr_mem, implies_true, and_self, Laws.gddrPutAll_wf, Laws.gddrPut_wf, memOk_phys, FormeOk.g, FormeOk.q, FormeOk.f, fok_foldl, fok_ite, fok_cond, Laws.ParMem.put_wf, Laws.ParMem.putRaw_wf, Laws.ParMem.putAll_wf, implies_true, and_self]

theorem execReturnPrep_mem {v : Byte} {s : State} {t : State} (he : execReturnPrep v s = .next t) (hm : MemOk s) : MemOk t :=
  hm.touch (execReturnPrep_touch he) (by decide) (by decide)

theorem execAlarmClear_mem {v : BitVec 16} {s : State} {t : State} (he : execAlarmClear v s = .next t) (hm : MemOk s) : MemOk t :=
  hm.touch (execAlarmClear_touch he) (by decide) (by decide)

theorem execBegin_mem {s : State} {t : State} (he : execBegin s = .next t) (hm : MemOk s) : MemOk t :=
  hm.touch (execBegin_touch he) (by decide) (by decide)

theorem execVerify_mem {s : State} {t : State} (he : execVerify s = .next t) (hm : MemOk s) : MemOk t :=
  hm.touch (execVerify_touch he) (by decide) (by decide)

theorem execActivate_mem {s : State} {t : State} (he : execActivate s = .next t) (hm : MemOk s) : MemOk t :=
  hm.touch (execActivate_touch he) (by decide) (by decide)

theorem execCommit_mem {s : State} {t : State} (he : execCommit s = .next t) (hm : MemOk s) : MemOk t :=
  hm.touch (execCommit_touch he) (by decide) (by decide)

theorem execAbandon_mem {s : State} {t : State} (he : execAbandon s = .next t) (hm : MemOk s) : MemOk t :=
  hm.touch (execAbandon_touch he) (by decide) (by decide)

theorem execDieReset_mem {cause : BitVec 2} {s : State} {t : State} (he : execDieReset cause s = .next t) (hm : MemOk s) : MemOk t := by
  unfold execDieReset at he
  refine onlyIf_mem he hm ?_
  (try dsimp only)
  (repeat' split) <;> simp (maxDischargeDepth := 40) +contextual only [hm, id_eq, resetDie_mem, mem_foldl, mem_ite, mem_cond, modForme_mem, modGddr_mem, implies_true, and_self, Laws.gddrPutAll_wf, Laws.gddrPut_wf, memOk_phys, FormeOk.g, FormeOk.q, FormeOk.f, fok_foldl, fok_ite, fok_cond, Laws.ParMem.put_wf, Laws.ParMem.putRaw_wf, Laws.ParMem.putAll_wf, implies_true, and_self]

theorem execStartStageComplete_mem {r : StageReport} {s : State} {t : State} (he : execStartStageComplete r s = .next t) (hm : MemOk s) : MemOk t := by
  unfold execStartStageComplete at he
  refine onlyIf_mem he hm ?_
  (try dsimp only)
  (repeat' split) <;> simp (maxDischargeDepth := 40) +contextual only [hm, id_eq, stageDone_mem, mem_foldl, mem_ite, mem_cond, modForme_mem, modGddr_mem, implies_true, and_self, Laws.gddrPutAll_wf, Laws.gddrPut_wf, memOk_phys, FormeOk.g, FormeOk.q, FormeOk.f, fok_foldl, fok_ite, fok_cond, Laws.ParMem.put_wf, Laws.ParMem.putRaw_wf, Laws.ParMem.putAll_wf, implies_true, and_self]

theorem execStageFail_mem {s : State} {t : State} (he : execStageFail s = .next t) (hm : MemOk s) : MemOk t := by
  unfold execStageFail at he
  refine onlyIf_mem he hm ?_
  (try dsimp only)
  (repeat' split) <;> simp (maxDischargeDepth := 40) +contextual only [hm, id_eq, stageFail_mem, mem_foldl, mem_ite, mem_cond, modForme_mem, modGddr_mem, implies_true, and_self, Laws.gddrPutAll_wf, Laws.gddrPut_wf, memOk_phys, FormeOk.g, FormeOk.q, FormeOk.f, fok_foldl, fok_ite, fok_cond, Laws.ParMem.put_wf, Laws.ParMem.putRaw_wf, Laws.ParMem.putAll_wf, implies_true, and_self]

theorem execSpanStageEnd_mem {s : State} {t : State} (he : execSpanStageEnd s = .next t) (hm : MemOk s) : MemOk t :=
  hm.touch (execSpanStageEnd_touch he) (by decide) (by decide)

theorem execPowerQualified_mem {s : State} {t : State} (he : execPowerQualified s = .next t) (hm : MemOk s) : MemOk t :=
  hm.touch (execPowerQualified_touch he) (by decide) (by decide)

theorem execRailSequenceStep_mem {s : State} {t : State} (he : execRailSequenceStep s = .next t) (hm : MemOk s) : MemOk t := by
  unfold execRailSequenceStep at he
  refine onlyIf_mem he hm ?_
  (try dsimp only)
  (repeat' split) <;> simp (maxDischargeDepth := 40) +contextual only [hm, id_eq, railStep_mem, mem_foldl, mem_ite, mem_cond, modForme_mem, modGddr_mem, implies_true, and_self, Laws.gddrPutAll_wf, Laws.gddrPut_wf, memOk_phys, FormeOk.g, FormeOk.q, FormeOk.f, fok_foldl, fok_ite, fok_cond, Laws.ParMem.put_wf, Laws.ParMem.putRaw_wf, Laws.ParMem.putAll_wf, implies_true, and_self]

theorem execPowerLoss_mem {s : State} {t : State} (he : execPowerLoss s = .next t) (hm : MemOk s) : MemOk t := by
  unfold execPowerLoss at he
  refine onlyIf_mem he hm ?_
  (try dsimp only)
  (repeat' split) <;> simp (maxDischargeDepth := 40) +contextual only [hm, id_eq, powerOff_mem, mem_foldl, mem_ite, mem_cond, modForme_mem, modGddr_mem, implies_true, and_self, Laws.gddrPutAll_wf, Laws.gddrPut_wf, memOk_phys, FormeOk.g, FormeOk.q, FormeOk.f, fok_foldl, fok_ite, fok_cond, Laws.ParMem.put_wf, Laws.ParMem.putRaw_wf, Laws.ParMem.putAll_wf, implies_true, and_self]

theorem execOvervoltage_mem {s : State} {t : State} (he : execOvervoltage s = .next t) (hm : MemOk s) : MemOk t := by
  unfold execOvervoltage at he
  refine onlyIf_mem he hm ?_
  (try dsimp only)
  (repeat' split) <;> simp (maxDischargeDepth := 40) +contextual only [hm, id_eq, powerOff_mem, mem_foldl, mem_ite, mem_cond, modForme_mem, modGddr_mem, implies_true, and_self, Laws.gddrPutAll_wf, Laws.gddrPut_wf, memOk_phys, FormeOk.g, FormeOk.q, FormeOk.f, fok_foldl, fok_ite, fok_cond, Laws.ParMem.put_wf, Laws.ParMem.putRaw_wf, Laws.ParMem.putAll_wf, implies_true, and_self]

theorem execInputStateChange_mem {mv : Nat} {s : State} {t : State} (he : execInputStateChange mv s = .next t) (hm : MemOk s) : MemOk t :=
  hm.touch (execInputStateChange_touch he) (by decide) (by decide)

theorem execRailFault_mem {d : Fin 8} {s : State} {t : State} (he : execRailFault d s = .next t) (hm : MemOk s) : MemOk t := by
  unfold execRailFault at he
  refine onlyIf_mem he hm ?_
  (try dsimp only)
  (repeat' split) <;> simp (maxDischargeDepth := 40) +contextual only [hm, id_eq, railFault_mem, mem_foldl, mem_ite, mem_cond, modForme_mem, modGddr_mem, implies_true, and_self, Laws.gddrPutAll_wf, Laws.gddrPut_wf, memOk_phys, FormeOk.g, FormeOk.q, FormeOk.f, fok_foldl, fok_ite, fok_cond, Laws.ParMem.put_wf, Laws.ParMem.putRaw_wf, Laws.ParMem.putAll_wf, implies_true, and_self]

theorem execSecurityAlarm_mem {sources : BitVec 6} {s : State} {t : State} (he : execSecurityAlarm sources s = .next t) (hm : MemOk s) : MemOk t := by
  unfold execSecurityAlarm at he
  refine onlyIf_mem he hm ?_
  (try dsimp only)
  (repeat' split) <;> simp (maxDischargeDepth := 40) +contextual only [hm, id_eq, securityAlarm_mem, mem_foldl, mem_ite, mem_cond, modForme_mem, modGddr_mem, implies_true, and_self, Laws.gddrPutAll_wf, Laws.gddrPut_wf, memOk_phys, FormeOk.g, FormeOk.q, FormeOk.f, fok_foldl, fok_ite, fok_cond, Laws.ParMem.put_wf, Laws.ParMem.putRaw_wf, Laws.ParMem.putAll_wf, implies_true, and_self]

theorem execEnclOpen_mem {level : Bool} {s : State} {t : State} (he : execEnclOpen level s = .next t) (hm : MemOk s) : MemOk t := by
  unfold execEnclOpen at he
  refine onlyIf_mem he hm ?_
  (try dsimp only)
  (repeat' split) <;> simp (maxDischargeDepth := 40) +contextual only [hm, id_eq, enclEffect_mem, mem_foldl, mem_ite, mem_cond, modForme_mem, modGddr_mem, implies_true, and_self, Laws.gddrPutAll_wf, Laws.gddrPut_wf, memOk_phys, FormeOk.g, FormeOk.q, FormeOk.f, fok_foldl, fok_ite, fok_cond, Laws.ParMem.put_wf, Laws.ParMem.putRaw_wf, Laws.ParMem.putAll_wf, implies_true, and_self]

theorem execDebugPortInstruction_mem {ir : Byte} {dr : BitVec 104} {s : State} {t : State} (he : execDebugPortInstruction ir dr s = .next t) (hm : MemOk s) : MemOk t := by
  unfold execDebugPortInstruction at he
  split at he
  · contradiction
  · refine onlyIf_mem he hm ?_
    (try dsimp only)
    (repeat' split) <;> simp (maxDischargeDepth := 40) +contextual only [hm, id_eq, debugEffect_mem, mem_foldl, mem_ite, mem_cond, modForme_mem, modGddr_mem, implies_true, and_self, Laws.gddrPutAll_wf, Laws.gddrPut_wf, memOk_phys, FormeOk.g, FormeOk.q, FormeOk.f, fok_foldl, fok_ite, fok_cond, Laws.ParMem.put_wf, Laws.ParMem.putRaw_wf, Laws.ParMem.putAll_wf, implies_true, and_self]

theorem execSpanCableChange_mem {d : Fin 8} {seated : Bool} {s : State} {t : State} (he : execSpanCableChange d seated s = .next t) (hm : MemOk s) : MemOk t :=
  hm.touch (execSpanCableChange_touch he) (by decide) (by decide)

theorem execSensorSample_mem {r : Sensors} {s : State} {t : State} (he : execSensorSample r s = .next t) (hm : MemOk s) : MemOk t :=
  hm.touch (execSensorSample_touch he) (by decide) (by decide)

theorem execChannelRetrainFinish_mem {ch : Fin 80} {ok : Bool} {s : State} {t : State} (he : execChannelRetrainFinish ch ok s = .next t) (hm : MemOk s) : MemOk t := by
  unfold execChannelRetrainFinish at he
  refine onlyIf_mem he hm ?_
  (try dsimp only)
  (repeat' split) <;> simp (maxDischargeDepth := 40) +contextual only [hm, id_eq, retrainFinish_mem, mem_foldl, mem_ite, mem_cond, modForme_mem, modGddr_mem, implies_true, and_self, Laws.gddrPutAll_wf, Laws.gddrPut_wf, memOk_phys, FormeOk.g, FormeOk.q, FormeOk.f, fok_foldl, fok_ite, fok_cond, Laws.ParMem.put_wf, Laws.ParMem.putRaw_wf, Laws.ParMem.putAll_wf, implies_true, and_self]

theorem execTrainingSignalDetected_mem {p : Fin 11} {s : State} {t : State} (he : execTrainingSignalDetected p s = .next t) (hm : MemOk s) : MemOk t :=
  hm.touch (execTrainingSignalDetected_touch he) (by decide) (by decide)

theorem execCoreAccess_mem {hart : Fin 8} {k : CoreKind} {addr : BitVec 64} {size : BitVec 4} {v : Word} {par : Bool} {s : State} {t : State} (he : execCoreAccess hart k addr size v par s = .next t) (hm : MemOk s) : MemOk t := by
  unfold execCoreAccess at he
  refine onlyIf_mem he hm ?_
  (try dsimp only)
  (repeat' split) <;> simp (maxDischargeDepth := 40) +contextual only [hm, id_eq, coreEffect_mem, mem_foldl, mem_ite, mem_cond, modForme_mem, modGddr_mem, implies_true, and_self, Laws.gddrPutAll_wf, Laws.gddrPut_wf, memOk_phys, FormeOk.g, FormeOk.q, FormeOk.f, fok_foldl, fok_ite, fok_cond, Laws.ParMem.put_wf, Laws.ParMem.putRaw_wf, Laws.ParMem.putAll_wf, implies_true, and_self]

theorem execConfigSaveDone_mem {s : State} {t : State} (he : execConfigSaveDone s = .next t) (hm : MemOk s) : MemOk t :=
  hm.touch (execConfigSaveDone_touch he) (by decide) (by decide)

end Sys2Proof
end

