-- ==== Sys2Proof/WellFormed.lean ====
section
/-! DEFINITION. Well-formed commands: the bounds on their list operands that the spec gives. Every other operand's width is
its type. A command that is not well-formed spells nothing that can reach the block. -/

namespace Sys2Proof

/-- Numbers strictly rising. -/
def rising : List Nat → Bool
  | [] => true
  | [_] => true
  | a :: b :: t => decide (a < b) && rising (b :: t)

/-- At most 4096 payload bytes (R564), and a copy's count within a local address (R565). -/
def SpanPacket.wf (p : SpanPacket) : Bool := decide (p.payload.length ≤ 4096)

/-- Flits of a packet (R564). -/
def SpanPacket.flits (p : SpanPacket) : Nat := 1 + (p.payload.length + 63) / 64

/-- A frame holds 1 to 256 data flits, or is a bare control flit (R548). -/
def SpanFrame.wf (fr : SpanFrame) : Bool :=
  fr.packets.all SpanPacket.wf && decide ((fr.packets.map SpanPacket.flits).foldl (· + ·) 0 ≤ 256)

/-- At most the largest path MTU of payload (R596). -/
def RocePacket.wf (p : RocePacket) : Bool := decide (p.payload.length ≤ 4096)

/-- The body of a frame. -/
def EthBody.wf : EthBody → Bool
  | .roce _ p => p.wf
  | _ => true

/-- At most four physical columns make a Press narrower, but a report may list all 128 (R176): strictly rising. -/
def BistReport.wf (b : BistReport) : Bool := rising (b.cols.map (·.1))

/-- A line has 64 bytes (R693). -/
def lineByteWf (x : Nat × Byte) : Bool := decide (x.1 < 64)

/-- The bounds of a command's operands. -/
def Instr.wf : Instr → Bool
  | .spanFrameReceive _ fr => fr.wf
  | .linkTrainingComplete _ r => decide (r.farKey.length = 64)
  | .ethFrameReceive fr => fr.body.wf
  | .lineCheck _ stuck => stuck.all lineByteWf
  | .operatorKey _ key _ _ => decide (key.length = 64)
  | .attestNonce n => decide (n.length = 32)
  | .debugUnlock t => decide (t.length = 160)
  | .startStageComplete r => r.bist.all BistReport.wf
  | _ => true

end Sys2Proof
end

