-- ==== Sys2Proof/Tests/Slice0.lean ====
section
/-! SUPPORT. The model's own tests: for each statement of Certificates/Slice0/Obligations.lean states that meet its
hypotheses, clause by clause (`test_meets_…`); worked examples of the spec; and ill-formed commands. -/

namespace Sys2Proof.Tests
set_option Elab.async false
open Sys2Proof.Machine

/-- A die whose on-chip memories and GDDR7 read as zero. -/
def s0 : State :=
  { State.reset with
    formes := Vector.replicate 12 { Forme.reset 0 with galley := ParMem.zero, quire := ParMem.zero }
    gddr := { Gddr.reset 0 with phys := ⟨0, []⟩ } }

/-- s0 with its Forme 0 changed. -/
def at0 (g : Forme → Forme) : State := modForme s0 0 g

/-- A granted entry with a word and its records. -/
def entry (w : Nat) (recs : List Nat) : QEntry := ⟨0, BitVec.ofNat 128 w, recs.map (BitVec.ofNat 256), 0, [], true, 0⟩

/-- Queues with one of them given and the others empty. -/
def only (q : Queue) (l : List QEntry) : QueueUnit := (⟨[], [], [], [], [], []⟩ : QueueUnit).put q l

/-- s0 with one granted entry in a queue of Forme 0. -/
def queued (q : Queue) (w : Nat) (recs : List Nat) : State :=
  at0 (fun fm => { fm with q := only q [entry w recs] })

/-- s0 where Forme 0 runs a program of one instruction, whose word stands at address 512 of GDDR7. -/
def running (w : Nat) : State :=
  { at0 (fun fm => { fm with fe := { fm.fe with state := .run, offset := 512, length := 1 } }) with
    gddr := gddrPutAll s0.gddr (placed 512 (leBytes 16 w)) }

theorem test_memory_canonical : MemOk s0 := by
  refine ⟨fun f => ⟨?_, ?_, ?_⟩, ?_⟩ <;> first | (revert f; decide) | decide

/-- Queued commands leave the memories canonical: MemOk holds in the states of the tests below. -/
theorem test_queued_canonical (q : Queue) (w : Nat) (rs : List Nat) : MemOk (queued q w rs) :=
  modForme_mem (fun _ h => h) test_memory_canonical


/-- A die whose Span port 0 is up, with a route to die 1 through it. -/
def linked : State :=
  { s0 with
    span := { s0.span with ports := vset s0.span.ports 0 { Port.reset with st := 2, lanes := 4, farId := 1 } }
    tbl := { s0.tbl with routes := [(1, ⟨1, true, false, false⟩)] } }

/-- A packet from die 1 waits on port 0 of a die that is linked to it, where a Forme 0 holds a copy or a table load. -/
def arrived (k : SpanPacket) (g : Forme → Forme) : State :=
  modForme { linked with span := { linked.span with ports := vmod linked.span.ports 0 (fun x => { x with rx := [k] }) } } 0 g
/-- A packet of a type for a die, from die 1. -/
def packetTo (typ : Nat) (dst : BitVec 12) : SpanPacket := { newPacket s0 typ 1 dst with src := 1, sforme := 0, copyId := 5 }
/-- Such a packet waits whole on port 0. -/
def waitsFor (s : State) (n : Nat) : Bool :=
  match waitingPacket s 0 n with
  | some k => decide (k.dst = s.span.dieId) && hcrcOk k && pcrcOk k
  | none => false
/-- A copy that reads, or that waits for acknowledgements. -/
def copyIn (ph : CarPhase) (fm : Forme) : Forme := { fm with carr := vset fm.carr 0 ⟨true, true, 0, 0, 5, ph, none, [], []⟩ }

def roce (kind : RoceKind) : RocePacket := ⟨2, kind, true, true, 0, none, 0, 0, 0, 0, false, true, 0, []⟩

/-- A die whose queue pair 2 (path MTU 1024) is in a state and expects PSN 10, with a receive entry of 64 bytes at 0x1000 and a
region of all rights over the first megabyte; and a packet for it is the oldest. -/
def pair (st : BitVec 3) : Qp :=
  { qpDefault 2 with
    state := st, ctx := BitVec.ofNat 2048 (3 * 2 ^ 16), rq := ⟨0, 2, 1, 0⟩, recvPsn := 10, sendPsn := 4, unaPsn := 0
    out := [{ blankMsg with opc := 4, lastPsn := 3, len := 4096, posted := true }] }
def engine (q : Qp) (rx : List RocePacket) : State :=
  { s0 with
    gddr := gddrPutAll s0.gddr (placed 0 (leBytes 16 (0x1000 + 64 * 2 ^ 64)))
    tbl := { s0.tbl with regions := [(0, ⟨0, true, true, true, true, 0x100000, 0, 0⟩)] }
    abut := { s0.abut with link := 3, rx := rx, qps := [(2, q)] } }
def packet (kind : RoceKind) (psn : BitVec 24) : RocePacket := { roce kind with psn := psn, payload := List.replicate 64 1 }

def sent0 : SpanPacket := newPacket s0 1 2 0

def frame (dst : BitVec 48) (body : EthBody) : EthFrame := ⟨dst, 0, none, false, true, false, 0, [], body⟩

theorem test_units_on : unitsOn s0 = true := by decide

/-- Meets the hypotheses of CommandsKeepIdentityAndQueue and of StepKeepsMemoryCanonical. -/
theorem test_meets_step : MemOk s0 ∧ ∃ t, step s0 = .next t := ⟨test_memory_canonical, _, rfl⟩
theorem test_meets_tick : s0.pending = [] := by decide

/-- A program whose instruction is a TWAIT on token 0 with count 1, which TOKEN_INIT allows: it goes to SQ. -/
def runsTwait : State := modForme (running 0x1071) 0 (fun fm => { fm with bal := Vector.replicate 16 1 })
theorem test_meets_dispatch :
    unitsOn runsTwait = true ∧ (runsTwait.forme 0).fe.state = .run ∧ (runsTwait.forme 0).fe.next < (runsTwait.forme 0).fe.length
    ∧ gddrRange runsTwait.gddr (nextWordAddr (runsTwait.forme 0)) 16 = true ∧ fetchLost runsTwait 0 = none
    ∧ checkFails runsTwait 0 (fetchNext runsTwait 0) = none
    ∧ ((runsTwait.forme 0).q.get (queueOf (wfield (fetchNext runsTwait 0).word 0 8))).length
      < queueDepth (queueOf (wfield (fetchNext runsTwait 0).word 0 8)) := by decide

/-- Sixteen entries fill SQ, so the TWAIT is held back. -/
def fullQueue : State := modForme runsTwait 0 (fun fm => { fm with q := only .sq (List.replicate 16 (entry 0x1071 [])) })
theorem test_meets_full_queue :
    unitsOn fullQueue = true ∧ (fullQueue.forme 0).fe.state = .run ∧ (fullQueue.forme 0).fe.next < (fullQueue.forme 0).fe.length
    ∧ gddrRange fullQueue.gddr (nextWordAddr (fullQueue.forme 0)) 16 = true ∧ fetchLost fullQueue 0 = none
    ∧ checkFails fullQueue 0 (fetchNext fullQueue 0) = none
    ∧ queueDepth (queueOf (wfield (fetchNext fullQueue 0).word 0 8))
      ≤ ((fullQueue.forme 0).q.get (queueOf (wfield (fetchNext fullQueue 0).word 0 8))).length := by decide +kernel

/-- An unlisted opcode fails with OPCODE; R401 checks it first. -/
theorem test_meets_failed_check :
    unitsOn (running 0xFF) = true ∧ ((running 0xFF).forme 0).fe.state = .run
    ∧ ((running 0xFF).forme 0).fe.next < ((running 0xFF).forme 0).fe.length
    ∧ gddrRange (running 0xFF).gddr (nextWordAddr ((running 0xFF).forme 0)) 16 = true ∧ fetchLost (running 0xFF) 0 = none
    ∧ (checkFails (running 0xFF) 0 (fetchNext (running 0xFF) 0)).map (fun e => (e.1.code, e.2)) = some (1, 0)
    ∧ folioOn (running 0xFF) 0 = none ∧ ((running 0xFF).forme 0).err.valid = false := by decide +kernel

/-- A TWAIT that waits for one count of token 3, ungranted at the head of SQ. -/
def waits (value : BitVec 32) : State :=
  at0 (fun fm => { fm with q := only .sq [{ entry 0x1371 [] with granted := false }], tok := vset fm.tok 3 value })
theorem test_meets_grant : unitsOn (waits 1) = true
    ∧ ((waits 1).forme 0).q.get .sq = [{ entry 0x1371 [] with granted := false }]
    ∧ grantable ((waits 1).forme 0) { entry 0x1371 [] with granted := false } = true
    ∧ grantable ((waits 0).forme 0) { entry 0x1371 [] with granted := false } = false := by decide +kernel

/-- The wait has stood for 100,000 µs. -/
theorem test_meets_wait_timeout :
    let s : State := { waits 0 with tb := { s0.tb with ns := 100000000 } }
    unitsOn s = true ∧ (s.forme 0).lat.waitTimeout ≠ 0 ∧ ((s.forme 0).q.get .sq).head? = some { entry 0x1371 [] with granted := false }
    ∧ (0 : Nat) + (s.forme 0).lat.waitTimeout.toNat * 1000 ≤ s.tb.ns.toNat ∧ folioOn s 0 = none ∧ (s.forme 0).err.valid = false := by
  decide +kernel

/-- A TSIG of token 2 in progress whose effect is made. -/
def flying : Flight := ⟨7, .sq, 0x0312_0070, true, none, none⟩
def inFlight : State := at0 (fun fm => { fm with q := { fm.q with flights := [flying] } })
theorem test_meets_completion : unitsOn inFlight = true
    ∧ (inFlight.forme 0).q.flights.find? (fun y => decide (y.index = 7)) = some flying ∧ flying.done = true := by decide +kernel

theorem test_meets_token_scalars :
    unitsOn (queued .sq 0x70 []) = true ∧ ((queued .sq 0x70 []).forme 0).q.sq.head? = some (entry 0x70 [])
    ∧ (entry 0x70 []).granted = true ∧ (entry 0x70 []).op = 0x70 ∧ (entry 0x71 []).op = 0x71 ∧ (entry 0x73 []).op = 0x73
    ∧ (sword (entry 0x73 []).word).val ≤ (queued .sq 0x73 []).tb.ns.toNat
    ∧ (queued .sq 0x73 []).tb.ns.toNat < (sword (entry (0x73 + 2 ^ 64) []).word).val := by decide +kernel

/-- A given maximum of 1.0 at GADDR 0 reads without error. -/
theorem test_meets_scalepush :
    unitsOn (queued .sq (0x74 + 2 ^ 56) []) = true ∧ ((queued .sq (0x74 + 2 ^ 56) []).forme 0).q.sq.head? = some (entry (0x74 + 2 ^ 56) [])
    ∧ (entry (0x74 + 2 ^ 56) []).granted = true ∧ (entry (0x74 + 2 ^ 56) []).op = 0x74
    ∧ ((queued .sq (0x74 + 2 ^ 56) []).forme 0).galley.firstBad [((sword (entry (0x74 + 2 ^ 56) []).word).gaddr, 4)] = none := by
  decide +kernel

theorem test_meets_tmark : unitsOn (queued .sq 0x72 []) = true
    ∧ ((queued .sq 0x72 []).forme 0).q.sq.head? = some (entry 0x72 []) ∧ (entry 0x72 []).op = 0x72
    ∧ ((queued .sq 0x72 []).forme 0).test.arm = false := by decide +kernel

theorem test_meets_contexts : ∀ op ∈ [0x75, 0x76, 0x77],
    unitsOn (queued .sq op []) = true ∧ ((queued .sq op []).forme 0).q.sq.head? = some (entry op []) ∧ (entry op []).op = op
    ∧ ctxClaimed ((queued .sq op []).forme 0) (sword (entry op []).word).ctx = false
    ∧ ((queued .sq op []).forme 0).test.arm = false
    ∧ ((queued .sq op []).forme 0).galley.firstBad [((sword (entry op []).word).gaddr, 512)] = none := by decide +kernel

/-- Context 0 is claimed by an instruction in progress. -/
def claimed (op : Nat) : State :=
  at0 (fun fm => { fm with q := { only .sq [entry op []] with flights := [⟨3, .vq, 0x40, false, some 0, none⟩] } })
theorem test_meets_claimed_context : ∀ op ∈ [0x75, 0x76, 0x77], unitsOn (claimed op) = true
    ∧ ((claimed op).forme 0).q.sq.head? = some (entry op []) ∧ ctxClaimed ((claimed op).forme 0) (sword (entry op []).word).ctx = true
    ∧ folioOn (claimed op) 0 = none ∧ ((claimed op).forme 0).err.valid = false := by decide +kernel

/-- One element of posit8 zeros for each operation. -/
theorem test_meets_elementwise : ∀ op ∈ [0x40, 0x41, 0x42, 0x43, 0x44, 0x45, 0x46, 0x47],
    let s := queued .vq op [0, 0, 0, 0]
    let d := { headDst s 0 with jctl := 0 }
    vecReady s 0 op = true ∧ claimedBy (s.forme 0) (convCtx (s.forme 0) (headCtl s 0) [d]) = false
    ∧ galleyBad (s.forme 0) 0 (headRanges s 0 [0, 1, 2] ++ dstReads d (headVec s 0).count (headVec s 0).vlen) = none := by
  decide +kernel

/-- Operands at 0, 16 and 32. -/
def adds : State := queued .vq 0x40 [0, 16, 0, 32]
theorem test_meets_vadd : vecReady adds 0 0x40 = true ∧ (headVec adds 0).count = 1 ∧ (headRec adds 0 3).tagged = false
    ∧ isScaled (headRec adds 0 3).format = false ∧ 8 ≤ fmtBits (headRec adds 0 3).format ∧ isQuire (headRec adds 0 3).format = false
    ∧ drawsSr (adds.forme 0).fe.g1 (headCtl adds 0) (headDst adds 0) = false ∧ (adds.forme 0).test.arm = false
    ∧ galleyBad (adds.forme 0) 0 (headRanges adds 0 [0, 1]) = none ∧ (headRec adds 0 3).base < 2 ^ 24 := by decide +kernel

/-- The comparisons, selections and quire operations of one lane. -/
theorem test_meets_vcmp : let s := queued .vq 0x48 [0, 0, 0, 0]
    vecReady s 0 0x48 = true ∧ (s.forme 0).test.arm = false ∧ galleyBad (s.forme 0) 0 (headRanges s 0 [0, 1]) = none := by
  decide +kernel

/-- A destination with JSMOOTH whose smoothing byte is 0xFF: the table stands at 64. -/
def smoothing : State :=
  modForme (queued .vq 0x4A [0, 0, 0, (32 * 2 ^ 141 + 64 * 2 ^ 152)]) 0
    (fun fm => { fm with galley := fm.galley.put 64 0xFF })
theorem test_meets_vsel_vcvt :
    (∀ op ∈ [0x49, 0x4A], let s := queued .vq op [0, 0, 0, 0]
      let d := headDst s 0
      vecReady s 0 op = true ∧ claimedBy (s.forme 0) (convCtx (s.forme 0) (headCtl s 0) [{ d with jctl := 0 }]) = false
      ∧ smoothBad (s.forme 0) d (headVec s 0).count (headVec s 0).vlen = false
      ∧ claimedBy (s.forme 0) (convCtx (s.forme 0) (headCtl s 0) [d]) = false
      ∧ galleyBad (s.forme 0) 0 (headRanges s 0 [0, 1, 2] ++ dstReads d (headVec s 0).count (headVec s 0).vlen) = none
      ∧ galleyBad (s.forme 0) 0 (headRanges s 0 [0] ++ dstReads { d with jctl := 0 } (headVec s 0).count (headVec s 0).vlen) = none)
    ∧ vecReady smoothing 0 0x4A = true
    ∧ smoothBad (smoothing.forme 0) (headDst smoothing 0) (headVec smoothing 0).count (headVec smoothing 0).vlen = true
    ∧ folioOn smoothing 0 = none ∧ (smoothing.forme 0).err.valid = false := by decide +kernel

theorem test_meets_lane_quires : (∀ op ∈ [0x50, 0x51, 0x52, 0x53, 0x54, 0x55, 0x56, 0x57],
    let s := queued .vq op [0, 0, 0, 0]
    let d := { headDst s 0 with jctl := 0 }
    vecReady s 0 op = true ∧ (s.forme 0).test.arm = false
    ∧ (s.forme 0).galley.firstBad [((headRec s 0 0).base, 32768)] = none
    ∧ galleyBad (s.forme 0) 0 (headRanges s 0 [0, 1]) = none ∧ galleyBad (s.forme 0) 0 (headRanges s 0 [0]) = none
    ∧ claimedBy (s.forme 0) (convCtx (s.forme 0) (headCtl s 0) [d]) = false
    ∧ galleyBad (s.forme 0) 0 (dstReads d (headVec s 0).count (headVec s 0).vlen) = none)
    ∧ MemOk (queued .vq 0x56 [0, 0, 0, 0]) := ⟨by decide +kernel, test_queued_canonical _ _ _⟩

/-- The three cases of an addition at the ends of the range, and one inside it. -/
theorem test_meets_quire_additions : let q : BitVec 512 := BitVec.ofNat 512 (2 ^ 511 - 1)
    q ≠ quireNar ∧ (-(2 ^ 511 - 1) ≤ q.toInt + 0 ∧ q.toInt + 0 ≤ 2 ^ 511 - 1) ∧ 2 ^ 511 - 1 < q.toInt + 1
    ∧ (0 : BitVec 512) ≠ quireNar ∧ (0 : BitVec 512).toInt + -(2 ^ 511) < -(2 ^ 511 - 1) := by decide +kernel

/-- A row of one posit32 with ε 0x4000_0000 (1.0), and with ε 0xC000_0000 (−1.0), at byte 16. -/
def rms (eps : List Byte) : State :=
  modForme (queued .vq 0x58 [(2 * 2 ^ 48 + 2 ^ 176), 0, (16 + 2 * 2 ^ 48 + 2 ^ 55), (32 + 2 * 2 ^ 48)]) 0
    (fun fm => { fm with galley := fm.galley.putAll (placed 16 eps) })
theorem test_meets_vrms :
    (let s := rms [0, 0, 0, 0x40]
     let d := { headDst s 0 with jctl := 0, fold := true }
     vecReady s 0 0x58 = true ∧ epsNegative s 0 = false ∧ claimedBy (s.forme 0) (convCtx (s.forme 0) (headCtl s 0) [d]) = false
     ∧ galleyBad (s.forme 0) 0 (headRanges s 0 (vecSrcs 0x58 (headVec s 0)) ++ dstReads d 1 1) = none)
    ∧ (let s := rms [0, 0, 0, 0xC0]
       vecReady s 0 0x58 = true ∧ epsNegative s 0 = true ∧ folioOn s 0 = none ∧ (s.forme 0).err.valid = false) := by decide +kernel

theorem test_meets_vtopk : let s := queued .vq 0x59 [(2 ^ 176), 0, 0, 0]
    vecReady s 0 0x59 = true ∧ (s.forme 0).test.arm = false ∧ galleyBad (s.forme 0) 0 (headRanges s 0 [0]) = none := by
  decide +kernel

theorem test_meets_vscale_vsmooth :
    (let s := queued .vq 0x5A [0, 0, 0, (7 * 2 ^ 48 + 64 * 2 ^ 56 + 128 * 2 ^ 104)]
     vecReady s 0 0x5A = true ∧ (s.forme 0).test.arm = false ∧ (headDst s 0).fmt = .rs8
     ∧ galleyBad (s.forme 0) 0 (headRanges s 0 [0] ++ [((headDst s 0).tsaddr, 4)]) = none)
    ∧ (let s := queued .vq 0x5B [0, 0, 0, 0]
       vecReady s 0 0x5B = true ∧ (s.forme 0).test.arm = false ∧ galleyBad (s.forme 0) 0 (headRanges s 0 [0, 1]) = none) := by
  decide +kernel

/-- Slot 0 holds a FULL8 table. -/
def fount8 : State :=
  modForme (queued .fq 0x60 [0, 0]) 0 (fun fm => { fm with vu := { fm.vu with slots := vset fm.vu.slots 0 ⟨1, true, 0, 0, 0, 0⟩ } })
theorem test_meets_func :
    (let s := fount8
     let w := headFunc s 0
     funcReady s 0 = true
     ∧ slotServes (s.forme 0).vu.slots[w.slot] w.fn (funcRec s 0 0).format ((funcRec s 0 1).dst ((headOf s 0 .fq).clsAt 1)).fmt = true
     ∧ galleyBad (s.forme 0) 0 ((funcRec s 0 0).plane.ranges w.count w.vlen) = none ∧ badLines (s.forme 0) (funcLookups s 0) = []
     ∧ (s.forme 0).vu.ftFail = none)
    ∧ (let s := queued .fq 0x60 [0, 0]
       let w := headFunc s 0
       funcReady s 0 = true
       ∧ slotServes (s.forme 0).vu.slots[w.slot] w.fn (funcRec s 0 0).format ((funcRec s 0 1).dst ((headOf s 0 .fq).clsAt 1)).fmt = false
       ∧ folioOn s 0 = none ∧ (s.forme 0).err.valid = false) := by decide +kernel

/-- A load of slot 2 from address 0 of the own die, waiting and running. -/
def loading (started : Bool) : State :=
  at0 (fun fm => { fm with vu := { fm.vu with ftLoad := some ⟨5, 2, 1, 0, 0, 0, started, [], []⟩ } })
theorem test_meets_fount_loads :
    ftloadReady (queued .fq (0x61 + 2 ^ 27) []) 0 = true
    ∧ transferReady (loading false) 0 = true ∧ loadUnmapped (loading false) ⟨5, 2, 1, 0, 0, 0, false, [], []⟩ = false
    ∧ MemOk (loading true) ∧ unitsOn (loading true) = true ∧ gDie 0 = (loading true).span.dieId
    ∧ readErr (loading true) [(gLocal 0, 131072)] = none :=
  ⟨by decide +kernel, by decide +kernel, by decide +kernel, modForme_mem (fun _ h => h) test_memory_canonical, by decide +kernel,
    by decide +kernel, by decide +kernel⟩

/-- A PACC with INIT of 1 × 1 × 1 posit8 elements on a Forme with all its Presses, then without any, then on a tile of binary32 entries. -/
def pacc (w : Nat) (active : BitVec 4) (words : Table Word) : State :=
  modForme (queued .pq w [0, 0]) 0 (fun fm => { fm with pu := { fm.pu with active := active, tiles := words } })
theorem test_meets_pacc :
    (∀ w ∈ [0x20 + 2 ^ 25 + 2 ^ 60, 0x20 + 2 ^ 25], let s := pacc w 15 []
      paccReady s 0 = true ∧ (s.forme 0).pu.active ≠ 0
      ∧ (headPacc s 0).init = true ∧ galleyBad (s.forme 0) 0 (paccGalley s 0) = none ∧ quireBad (s.forme 0) 0 (paccQuire s 0) = none)
    ∧ (let s := pacc (0x20 + 2 ^ 25) 0 []
       paccReady s 0 = true ∧ (s.forme 0).pu.active = 0 ∧ folioOn s 0 = none ∧ (s.forme 0).err.valid = false)
    ∧ (let s := pacc (0x20 + 2 ^ 60) 15 [(0, 0x300)]
       let w := headPacc s 0
       let kind := (headPair s 0).1
       paccReady s 0 = true ∧ (s.forme 0).pu.active ≠ 0
       ∧ (w.init || decide (w.k = 0) || kindFits (s.forme 0) kind (gridTiles kind w.tile w.m w.n)) = false
       ∧ folioOn s 0 = none ∧ (s.forme 0).err.valid = false) := by decide +kernel

/-- Press 0 has a window of one posit8 element to write back; and an accumulate has made all its updates. -/
def window : AccWin := ⟨4, 0, 0, 0, 1, 1, 0, 0, 1, [.sum true 1]⟩
def landing : State := at0 (fun fm => { fm with pu := { fm.pu with wins := [window] } })
def landed : State := at0 (fun fm => { fm with pu := { fm.pu with accs := [⟨4, 0, 1, 1, 1, 1, true, []⟩] } })
theorem test_meets_windows :
    unitsOn landing = true ∧ nextWindow (landing.forme 0) 0 = some window ∧ quireBad (landing.forme 0) 0 (winReads window) = none
    ∧ unitsOn landed = true ∧ doneAcc (landed.forme 0) = some ⟨4, 0, 1, 1, 1, 1, true, []⟩ := by decide +kernel

/-- A posit8 entry at its largest magnitude: adding 0 and 1; a fresh entry; one at NaR. -/
def deep (b : List Byte) : Forme := { Forme.reset 0 with quire := ParMem.zero.putAll (placed 0 b) }
theorem test_meets_updates :
    (deep (leBytes 32 (2 ^ (dWidth 1 - 1) - 1))).quire.wf = true ∧ readDeep (deep (leBytes 32 (2 ^ (dWidth 1 - 1) - 1))) 1 0 = some (2 ^ (dWidth 1 - 1) - 1)
    ∧ readDeep (deep []) 1 0 = some 0 ∧ (0 : Int) + -(2 ^ (dWidth 1 - 1)) < -(2 ^ (dWidth 1 - 1) - 1)
    ∧ readDeep (deep (leBytes 32 (2 ^ (dWidth 1 - 1)))) 1 0 = none := by decide +kernel

/-- A posit8 drain of one element of tile 0, whose status words say that it holds posit8 entries, or nothing. -/
def drains (words : Table Word) : State :=
  modForme (queued .vq (0x30 + 2 ^ 52) [0, 0, 0]) 0 (fun fm => { fm with pu := { fm.pu with tiles := words } })
theorem test_meets_drain :
    (let s := drains ((List.range 16).map (fun i => (i, 0x100)))
     let d := headDrain s 0
     drainReady s 0 = true ∧ drainFits (s.forme 0) d = true ∧ (drainDsts s 0).any (fun y => smoothBad (s.forme 0) y d.m d.n) = false
     ∧ claimedBy (s.forme 0) (convCtx (s.forme 0) (ctlOf d.cvt) (drainDsts s 0)) = false ∧ drainBad s 0 = none ∧ d.clr = false)
    ∧ (let s := drains []
       drainReady s 0 = true ∧ drainFits (s.forme 0) (headDrain s 0) = false ∧ folioOn s 0 = none ∧ (s.forme 0).err.valid = false) := by
  decide +kernel

theorem test_meets_status_words :
    MemOk (queued .vq 0x31 []) ∧ statusReady (queued .vq 0x31 []) 0 0x31 = true ∧ ((queued .vq 0x31 []).forme 0).test.arm = false
    ∧ statusReady (queued .vq 0x32 []) 0 0x32 = true
    ∧ ((queued .vq 0x32 []).forme 0).galley.firstBad [((headStatus (queued .vq 0x32 []) 0).gaddr, 8)] = none :=
  ⟨test_queued_canonical _ _ _, by decide +kernel⟩

/-- A CCOPY of four posit8 bytes from 0x1000 to 0x2000 of GDDR7 at the head of CQ; and a Carriage whose bytes are written. -/
def copying : State :=
  at0 (fun fm => { fm with q := only .cq [⟨0, 0x10, [], BitVec.ofNat 512 (0x1000 + 0x2000 * 2 ^ 64 + 3 * 2 ^ 144), [], true, 0⟩] })
theorem test_meets_copy :
    ccopyReady copying 0 = true ∧ idleCarriage (copying.forme 0) = some 0 ∧ claimedBy (copying.forme 0) (copyCtx copying 0) = false
    ∧ copyAddress copying (headDesc copying 0) = false ∧ copySmooth copying 0 (headDesc copying 0) = false
    ∧ (headDesc copying 0).bitCopy = true ∧ (headDesc copying 0).clash = false ∧ (headDesc copying 0).remoteSrc copying = false
    ∧ (headDesc copying 0).remoteDst copying = false ∧ (headDesc copying 0).rsen = false ∧ fetchPieces copying (headDesc copying 0) = []
    ∧ readErr (takeCarriage copying 0 0 (headDesc copying 0) []) (ownReads (takeCarriage copying 0 0 (headDesc copying 0) []) 0 (headDesc copying 0)) = none
    ∧ ((bitCopyBytes (headDesc copying 0) (sourceByte copying (headDesc copying 0) [])).map (fun p => p.1)) = [0x2000, 0x2001, 0x2002, 0x2003] := by
  decide +kernel
theorem test_meets_copy_complete :
    let s := at0 (fun fm => { fm with carr := vset fm.carr 7 ⟨true, false, 0, 4, 0, .written, none, [], []⟩ })
    unitsOn s = true ∧ ((s.forme 0).carr[(7 : Fin 8)]).busy = true ∧ ((s.forme 0).carr[(7 : Fin 8)]).phase = .written := by decide +kernel

/-- The command ring at 0 and the event ring at 0x1000; one command waits, with handle 7 and the folio at 0x2000, whose header
names one Forme and whose program has one instruction. -/
def commandWord (opc : Nat) : Nat := opc + 7 * 2 ^ 8 + 0x2000 * 2 ^ 64
def commanded (w : Nat) (folios : List Folio) : State :=
  { s0 with
    gddr := gddrPutAll s0.gddr (placed 0 (leBytes 32 w) ++ placed 0x2000 (leBytes 64 0x101) ++ placed 0x2040 (leBytes 16 (512 + 2 ^ 32)))
    imp := { s0.imp with cmd := ⟨0, 4, 1, 0⟩, evt := ⟨0x1000, 4, 0, 0⟩, folios := folios } }

/-- The folio of that command in a state, on Forme 0 once it has started. -/
def folio (st : FolioState) : Folio :=
  { newFolio (commanded (commandWord 1) []) (commandWord 1) false with state := st, fset := if st = .ready then [] else [0] }

theorem test_meets_submission : ∀ opc ∈ [1, 4],
    let s := commanded (commandWord opc) []
    let w := cmdWord s
    let a := cmdFolio w
    let n := fieldN (headerWord s a) 8 4
    (if opc = 1 then startReady s else opcReady s 4) = true ∧ cmdReadable s = true ∧ cmdFieldBad w = false ∧ submitHandleBad s w = false
    ∧ submitAddrBad s w true = false
    ∧ gddrLost s.gddr a 64 = none ∧ headerOk (headerWord s a) = true ∧ gddrRange s.gddr (a + 64) (16 * n) = true
    ∧ gddrLost s.gddr (a + 64) (16 * n) = none ∧ (List.range n).all (fun l => progOk (progEntry s a l)) = true
    ∧ saveAreaOk s (cmdSave w) n = true ∧ n ≤ (formesInService s).length := by decide +kernel

theorem test_meets_refusals :
    (let s := commanded (commandWord 1 + 16) []
     startReady s = true ∧ cmdReadable s = true ∧ cmdFieldBad (cmdWord s) = true)
    ∧ (let s := commanded (commandWord 1) [folio .running]
       startReady s = true ∧ cmdReadable s = true ∧ cmdFieldBad (cmdWord s) = false ∧ (folioOf s (cmdHandle (cmdWord s))).isSome = true) := by
  decide +kernel

theorem test_meets_folio_commands :
    (∀ opc ∈ [2, 3], let s := commanded (commandWord opc) [folio .running]
      cmdFieldBad (cmdWord s) = false ∧ folioOf s (cmdHandle (cmdWord s)) = some (folio .running) ∧ (folio .running).ext = 0
      ∧ opcReady s opc = true ∧ saveAreaOk s (cmdSave (cmdWord s)) (folio .running).formes.toNat = true)
    ∧ (∀ opc ∈ [5, 6], let s := commanded (commandWord opc) [folio .paused]
      cmdFieldBad (cmdWord s) = false ∧ folioOf s (cmdHandle (cmdWord s)) = some (folio .paused) ∧ opcReady s opc = true) := by
  decide +kernel

/-- A running die with all Presses of all Formes. -/
def held (folios : List Folio) : State :=
  { s0 with
    boot := { s0.boot with state := 1, stage := 6 }
    imp := { s0.imp with folios := folios } }
theorem test_meets_folio_start :
    let s := held [folio .ready]
    chooseReady s = true ∧ (folio .ready).dep = 0 ∧ (folio .ready).cadence = false ∧ (folio .ready).preload = false
    ∧ (folio .ready).resume = false ∧ 1 ≤ entN s 0x2020 3 ∧ fits s (folio .ready) 0 = true := by decide +kernel

/-- Forme 0 with a program of one instruction that has not been dispatched; and with none left. -/
def partly (folios : List Folio) : State := modForme (held folios) 0 (fun fm => { fm with fe := { fm.fe with length := 1 } })
theorem test_meets_folio_ends :
    pausedReady (partly [folio (.pausing true)]) 7 = true ∧ folioOf (partly [folio (.pausing true)]) 7 = some (folio (.pausing true))
    ∧ pausedReady (partly [folio (.pausing false)]) 7 = true
    ∧ saveReady (partly [folio .saving]) 7 = true ∧ folioOf (partly [folio .saving]) 7 = some (folio .saving)
    ∧ folioDoneReady (held [folio .running]) 7 = true ∧ folioOf (held [folio .running]) 7 = some (folio .running)
    ∧ (folio .running).keep = false
    ∧ abortReady (partly [folio .aborting]) 7 = true ∧ folioOf (partly [folio .aborting]) 7 = some (folio .aborting) := by decide +kernel
theorem test_meets_save_images : ∃ u, writeImages (partly [folio .saving]) (folio .saving) false = .inr u := ⟨_, rfl⟩

theorem test_meets_rings :
    ringReady s0 (BitVec.ofNat 64 (4 * 2 ^ 40)) = true ∧ ringReady s0 (BitVec.ofNat 64 (12 * 2 ^ 40)) = true ∧ ringReady s0 0 = true
    ∧ cmdBellReady (commanded 0 []) (BitVec.ofNat 64 (16 + 2 ^ 24)) = true
    ∧ cmdBellReady (commanded 0 []) (BitVec.ofNat 64 (17 + 2 ^ 24)) = false
    ∧ evtBellReady (commanded 0 []) (BitVec.ofNat 64 (2 ^ 49)) = true := by decide +kernel

/-- The limiter acted 1 ms ago; a die at the hard limit of 95 °C is not tripped. -/
theorem test_meets_limits :
    let s : State := { s0 with imp := { s0.imp with limit := true }, tb := { s0.tb with ns := 1000000 } }
    unitsOn s = true ∧ s.imp.limit = true ∧ elapsed s s.imp.limitAt 1000000 = true
    ∧ s.pwr.dieUp = true ∧ tripped s (1000 * Int.ofNat (entN s 0x2010 9)) = false := by decide +kernel

/-- A tag at its streak limit whose elements were all dead, one without COUNT, and an alarm in the queue. -/
def proving : State :=
  { s0 with
    tbl := { s0.tbl with tags := [(3, { tagDefault 3 with count := true, elems := 5, streak := 7, streakLim := 8 }), (9, { tagDefault 9 with elems := 2, streakLim := 1 })] }
    proof := { s0.proof with closing := true, alarms := [⟨3, 2, 1⟩] } }
theorem test_meets_step_close :
    closeReady proving = true ∧ tableWf tagDefault proving.tbl.tags = true ∧ (tagEntry proving 3).count = true
    ∧ (tagEntry proving 9).count = false ∧ bit 1 0 = true ∧ proving.proof.alarms = ⟨3, 2, 1⟩ :: [] ∧ s0.proof.alarms = [] := by decide +kernel
theorem test_meets_step_close_keys : ∀ p ∈ proving.tbl.tags, p.1 < 4096 := by
  intro p hp
  simp only [proving, List.mem_cons, List.not_mem_nil, or_false] at hp
  rcases hp with rfl | rfl <;> decide

/-- The clauses of RetirementAndTestRegistersAct: each request bit; a split access in the Galley, in quire memory, and in neither;
an IDLE Forme whose Galley line, or quire line, is to be checked. -/
theorem test_meets_retirement :
    unitsOn s0 = true ∧ bit 1 0 = true ∧ bit (BitVec.ofNat 64 (2 ^ 26)) 26 = true ∧ bit (BitVec.ofNat 64 (2 ^ 27)) 26 = false
    ∧ bit (BitVec.ofNat 64 (2 ^ 27)) 27 = true ∧ bit (BitVec.ofNat 64 (2 ^ 17)) 17 = true ∧ (s0.forme 0).fe.state = .idle
    ∧ field (BitVec.ofNat 64 (2 ^ 26 + 0xFFF)) 24 2 = 0 ∧ 0xFFF / 8 * 8 < galleyBytes (s0.forme 0)
    ∧ field (BitVec.ofNat 64 (2 ^ 26 + 2 ^ 24)) 24 2 = 1 ∧ field (BitVec.ofNat 64 (2 ^ 26 + 2 ^ 25)) 24 2 = 2
    ∧ (at0 (fun fm => { fm with line := some (galleyAddr 0 64) })).forme 0 = { s0.forme 0 with line := some (galleyAddr 0 64) }
    ∧ quireAddr 0 0 > galleyAddr 0 64 ∧ quireAddr 0 0 ≤ quireAddr 0 64
    ∧ [((63 : Nat), (0 : Nat))].any (fun p => decide (p.1 < 64)) = true := by decide +kernel

/-- Addresses that reach each kind of register, by offset from 0xF0_0000_0000. -/
theorem test_meets_register_writes :
    (List.map (fun (o : Nat) => regOf (regBase + o))
      [0x1000000, 0x1000008, 0x10B0030, 0x1001018, 0x500, 0xE08, 0xE10, 0xE20, 0x80000, 0x500018, 0x600008, 0x10000, 0x47FF8, 0x300000, 0x10C0000])
    = [some (.forme 0 0), some (.forme 0 8), some (.forme 11 0x30), some (.forme 0 0x1018), some (.die 0x500), some (.die 0xE08),
       some (.die 0xE10), some (.die 0xE20), some (.tag 0 0), some (.region 0 3), some (.window 0 1), some (.specimen 0),
       some (.errorLog 0x7FF8), some (.extent 0), none]
    ∧ tableWf tagDefault s0.tbl.tags = true ∧ tableWf regionDefault s0.tbl.regions = true ∧ tableWf windowDefault s0.tbl.windows = true := by
  decide +kernel

/-- The cores with line 1 held, dirty or clean. -/
def caching (dirty : Bool) : State := { s0 with cores := { s0.cores with lines := [(1, ⟨List.replicate 64 0x5A, dirty⟩)] } }
theorem test_meets_caches :
    unitsOn (caching true) = true ∧ gddrRange s0.gddr 64 8 = true ∧ linesOf 64 8 = [1] ∧ linesOf 60 8 = [0, 1]
    ∧ lineOf (caching true) 1 = some ⟨List.replicate 64 0x5A, true⟩ ∧ lineOf (caching false) 1 = some ⟨List.replicate 64 0x5A, false⟩
    ∧ lineOf s0 1 = none ∧ gddrLost s0.gddr 64 64 = none ∧ gddrMapped s0.gddr 64 = true
    ∧ gddrBytes ≤ 0xF000000500 ∧ regOf 0xF000000500 = some (.die 0x500)
    ∧ gddrBytes ≤ 0xFFFFFFFFF8 ∧ regOf 0xFFFFFFFFF8 = none ∧ inFormeMem s0 0xFFFFFFFFF8 = false := by decide +kernel
theorem test_meets_cache_lines : ∀ p ∈ (caching true).cores.lines, p.2.bytes.length = 64 := by
  intro p hp
  simp only [caching, List.mem_cons, List.not_mem_nil, or_false] at hp
  subst hp; decide

/-- An extent table with entry 5 in a state; and a migration of extent 5 to the spare 40448. -/
def extents (st : BitVec 3) (busy : Bool) : State :=
  { s0 with gddr := { s0.gddr with
      ext := [(5, ⟨5, st, 1, false⟩)], ret := { s0.gddr.ret with busy := busy, moving := 5, spare := 40448 } } }
/-- Entries of extents from a on, all in use. -/
def inUse : Nat → Nat → Table ExtEntry
  | 0, _ => []
  | n + 1, a => (a, ⟨BitVec.ofNat 16 a, 4, 0, false⟩) :: inUse n (a + 1)
theorem inUse_get (n a l : Nat) :
    tget extDefault (inUse n a) l = if a ≤ l ∧ l < a + n then ⟨BitVec.ofNat 16 l, 4, 0, false⟩ else extDefault l := by
  induction n generalizing a with
  | zero => simp only [inUse, tget]; rw [if_neg (by omega)]
  | succ n ih =>
    simp only [inUse, tget]
    by_cases h : a = l
    · subst h; simp
    · by_cases h2 : l < a
      all_goals simp [ih, h] <;> (try split) <;> (try split) <;> (try omega) <;> rfl
theorem inUse_wf (n a : Nat) (h : 40448 ≤ a) (h2 : a + n ≤ 40960) : tableWfFrom extDefault a (inUse n a) = true := by
  induction n generalizing a with
  | zero => rfl
  | succ n ih =>
    simp only [inUse, tableWfFrom, ih (a + 1) (by omega) (by omega), Bool.and_true, Bool.and_eq_true, decide_eq_true_eq]
    refine ⟨Nat.le_refl _, ?_⟩
    have e : ¬ a < 40448 := by omega
    have e2 : a < 40960 := by omega
    simp [extDefault, e, e2]

/-- Every spare is in use. -/
def spent : State := { s0 with gddr := { s0.gddr with ext := inUse 512 40448 } }
theorem test_meets_extent_retirement :
    (∀ st ∈ [3, 2, 1, 4], unitsOn (extents (BitVec.ofNat 3 st) false) = true
      ∧ tableWf extDefault (extents (BitVec.ofNat 3 st) false).gddr.ext = true
      ∧ (extEntry (extents (BitVec.ofNat 3 st) false).gddr 5).state = BitVec.ofNat 3 st)
    ∧ field (BitVec.ofNat 64 (5 + 2 ^ 16)) 0 16 = 5 ∧ bit (BitVec.ofNat 64 (5 + 2 ^ 16)) 16 = true
    ∧ lowestSpare (extents 3 false).gddr = some 5 ∧ (extEntry spent.gddr 0).state = 1
    ∧ (extents 2 true).gddr.ret.busy = true ∧ (extents 2 true).gddr.phys.wf = true
    ∧ (extEntry (extents 2 true).gddr 5).pext.toNat ≠ (extEntry (extents 2 true).gddr 40448).pext.toNat := by decide +kernel
theorem test_meets_no_spare : lowestSpare spent.gddr = none := by
  simp only [lowestSpare, List.find?_eq_none, List.mem_range, decide_eq_true_eq]
  intro l hl
  show (tget extDefault (inUse 512 40448) l).state ≠ 3
  rw [inUse_get]
  split
  · intro e; cases e
  · rename_i h
    have h2 : l < 40448 := by omega
    simp only [extDefault, if_pos h2]; decide
theorem test_meets_no_spare_table : tableWf extDefault spent.gddr.ext = true := by
  have h := inUse_wf 512 40448 (by decide) (by decide)
  show tableWfFrom extDefault 0 (inUse 512 40448) = true
  exact (by
    rw [inUse, tableWfFrom] at h ⊢
    simpa using h)

/-- Channel 3 retrains after so many failures; channel 2 stands under the same controller, channel 8 under the next. -/
def retrains (fails : Nat) : State := { s0 with gddr := { s0.gddr with chans := [(3, ⟨true, fails, false, 0⟩)] } }
theorem test_meets_retraining :
    tableWf chanDefault (retrains 1).gddr.chans = true ∧ tableWf (entDefault s0.build s0.dieIndex) s0.colo.ent = true
    ∧ retrainFinishReady (retrains 1) 3 = true ∧ (chanOf (retrains 1).gddr 3).fails < 2 ∧ 2 ≤ (chanOf (retrains 2).gddr 3).fails
    ∧ (chanOf (retrains 1).gddr 3).retraining = true ∧ (chanOf (retrains 1).gddr 2).retraining = false
    ∧ controllerBusy (retrains 1).gddr 0 = true ∧ controllerBusy (retrains 1).gddr 1 = false ∧ 3 ∉ (retrains 1).gddr.wait
    ∧ retrainDue { s0 with tb := { s0.tb with ns := BitVec.ofNat 64 (entN s0 0x3020 8 * 1000000) } } 3 = true := by decide +kernel

/-- s0 with barrier 2 changed, at timebase 100. -/
def atBar (g : Bar → Bar) : State := { s0 with tb := { s0.tb with ns := 100 }, bars := vmod s0.bars 2 g }
/-- A word of SPAN barrier control: the root, P − 1, token 3, Forme 0, ARRIVE, and CANCEL. -/
def barWord (root pm1 arrive cancel : Nat) : Word :=
  BitVec.ofNat 64 (root + pm1 * 2 ^ 12 + 3 * 2 ^ 24 + 2 ^ 28 + arrive * 2 ^ 40 + cancel * 2 ^ 46)

theorem test_meets_barrier_arrival :
    portUp linked.span.ports[(0 : Fin 11)] = true ∧ arriveReady linked 2 (barWord 1 1 1 0) = true ∧ bit (barWord 1 1 1 0) 46 = false
    ∧ (match routePacket linked (keystonePacket linked 2 0 1 0 Bar.reset) none with | .inr p => decide (p = 0) | .inl _ => false) = true
    ∧ (let s := atBar (fun x => { x with arrivals := [⟨1, 90, 0, 1, 95⟩] })
       arriveReady s 2 (barWord 0 1 1 0) = true ∧ BitVec.ofNat 12 (field (barWord 0 1 1 0) 0 12) = s.span.dieId
       ∧ s.bars[(2 : Fin 4)].arrivals.length = 1 ∧ s.bars[(2 : Fin 4)].arrivals.all (fun a => decide (a.die ≠ s.span.dieId)) = true)
    ∧ bit (barWord 0 1 0 1) 46 = true ∧ bit (barWord 0 1 0 1) 40 = false := by decide +kernel

theorem test_meets_barrier_end :
    (let s := atBar (fun x => { x with armed := true, relTime := some 100 })
     releaseReady s 2 = true ∧ s.bars[(2 : Fin 4)].relTime = some 100)
    ∧ (let s : State := { atBar (fun x => { x with armed := true }) with tb := { s0.tb with ns := BitVec.ofNat 64 (1000 * entN s0 0x5010 6) } }
       unitsOn s = true ∧ s.bars[(2 : Fin 4)].armed = true ∧ entN s 0x5010 6 ≠ 0
       ∧ elapsed s s.bars[(2 : Fin 4)].armedAt (1000 * entN s 0x5010 6) = true)
    ∧ (let s : State := { atBar (fun x => { x with arrivals := [⟨1, 0, 0, 1, 0⟩] }) with tb := { s0.tb with ns := BitVec.ofNat 64 (1000 * entN s0 0x5010 6) } }
       expiryReady s 2 1 = true) := by decide +kernel

/-- A KEYSTONE packet of a kind from die 1 waits on port 0; its time is 100 or 99. -/
def keystoned (kind time : Nat) (armed : Bool) : State :=
  let s := atBar (fun x => { x with armed := armed })
  { s with span := { s.span with ports := vmod s.span.ports 0 (fun x =>
    { x with rx := [sealPacket { keystonePacket s 2 kind 0 (BitVec.ofNat 64 time) Bar.reset with src := 1 }] }) } }
theorem test_meets_keystone_packets : ∀ kind ∈ [0, 1, 2], ∀ time ∈ [99, 100], ∀ armed ∈ [true, false],
    let s := keystoned kind time armed
    (match waitingPacket s 0 7 with
     | some k => decide (k.dst = s.span.dieId) && hcrcOk k && pcrcOk k && decide (k.aux.toNat % 4 = 2)
       && decide (k.aux.getLsbD 2 = decide (kind = 1)) && decide (k.aux.getLsbD 3 = decide (kind = 2))
       && decide (leNat (k.payload.take 8) = time)
     | none => false) = true
    ∧ s.bars[(2 : Fin 4)].armed = armed := by decide +kernel

/-- s0, running, with port 0 changed. -/
def atPort (g : Port → Port) : State :=
  { s0 with boot := { s0.boot with state := 1, stage := 6 }, span := { s0.span with ports := vmod s0.span.ports 0 g } }
theorem test_meets_frames :
    (let fr : SpanFrame := ⟨0, 0, false, true, 0, 0, [sent0]⟩
     let x := (atPort (fun x => { x with st := 2 })).span.ports[(0 : Fin 11)]
     unitsOn (atPort (fun x => { x with st := 2 })) = true ∧ portUp x = true ∧ fr.crcOk = true ∧ fr.fecUncorrected = 0
     ∧ fr.packets ≠ [] ∧ fr.seq = x.rxSeq ∧ portUsable x = true)
    ∧ (8 ≤ ((atPort (fun x => { x with st := 3, tries := 8 })).span.ports[(0 : Fin 11)]).tries
      ∧ portUp ((atPort (fun x => { x with st := 3, tries := 8 })).span.ports[(0 : Fin 11)]) = true)
    ∧ trainAllowed (atPort id) = true ∧ ((atPort id).span.ports[(0 : Fin 11)]).st = 0 ∧ ((atPort id).span.ports[(0 : Fin 11)]).hold = false := by
  decide +kernel

/-- Port 0 trains; its wired far end is one die, and any other collides. -/
theorem test_meets_training :
    let s := atPort (fun x => { x with st := 1 })
    (s.span.ports[(0 : Fin 11)]).st = 1 ∧ encPeer s 0 = none ∧ farCollides s 0 (idOf s (portPeer s 0)) = false
    ∧ farCollides s 0 (idOf s (portPeer s 0) + 1) = true ∧ (s.span.ports[(0 : Fin 11)]).fails < 2
    ∧ 2 ≤ ((atPort (fun x => { x with st := 1, fails := 2 })).span.ports[(0 : Fin 11)]).fails := by decide +kernel

theorem test_meets_link_hold_and_routes :
    bit (BitVec.ofNat 64 128) 7 = true ∧ bit 0 7 = false ∧ ((atPort (fun x => { x with st := 4, hreason := 1, hold := true })).span.ports[(0 : Fin 11)]).st = 4
    ∧ tableWf routeDefault linked.tbl.routes = true ∧ (routeOf linked 1).own = false
    ∧ bit (BitVec.ofNat 64 (2 ^ 16)) 16 = true ∧ field (BitVec.ofNat 64 (2 ^ 16)) 0 11 = 0 ∧ field (BitVec.ofNat 64 (2 ^ 16 + 5)) 0 11 = 5 := by
  decide +kernel

/-- The Impression log is on, with a ring of a size and a policy, and holds a retained record of 128 bytes at 0. -/
def logging (size policy : Nat) : State :=
  { s0 with
    colo := { s0.colo with ent := [(entKey 0x7010 1, 1), (entKey 0x7010 3, size), (entKey 0x7010 4, policy)] }
    log := { s0.log with head := 1, recs := [⟨0, 0, 128⟩] } }
theorem test_meets_append :
    entN s0 0x7010 1 ≠ 1 ∧ entN (logging 4096 0) 0x7010 1 = 1
    ∧ (appendPayload (logging 4096 0) (BitVec.ofNat 64 (2 ^ 40))).map List.length = some 64
    ∧ keptHit { logging 4096 0 with log := { s0.log with head := 1, wpos := 128, recs := [⟨0, 0, 128⟩] } } (layRecord 4096 128 128).1 = 0
    ∧ keptHit (logging 4096 0) (layRecord 4096 128 0).1 ≠ 0 ∧ entN (logging 4096 0) 0x7010 4 = 0 := by decide +kernel

/-- For each type: a packet for another die that can be forwarded, one whose HCRC is wrong, one whose PCRC is wrong. -/
theorem test_meets_packets : ∀ n ∈ [1, 2, 3, 4, 5, 8],
    (let s : State := { arrived (sealPacket (packetTo n 2)) id with
        tbl := { s0.tbl with routes := [(2, ⟨2, true, false, false⟩)] }
        span := { (arrived (sealPacket (packetTo n 2)) id).span with ports := vmod (arrived (sealPacket (packetTo n 2)) id).span.ports 1 (fun x => { x with st := 2 }) } }
     let u := takePacket s 0 n
     (waitingPacket s 0 n).any (fun k => decide (k.dst ≠ s.span.dieId) && !knownFenced u k.dst && decide (1 < k.hops)
       && decide (choosePort u k (some 0) = some 1)) = true)
    ∧ (waitingPacket (arrived { sealPacket (packetTo n 0) with hcrc := 1 } id) 0 n).any (fun k => !hcrcOk k && decide (k.dst = s0.span.dieId)) = true
    ∧ (waitingPacket (arrived { sealPacket (packetTo n 0) with pcrc := 1 } id) 0 n).any (fun k => hcrcOk k && !pcrcOk k) = true := by
  decide +kernel

/-- A WRITE of two bytes at a: within GDDR7, not the last, the last; and beyond every unit. -/
def writes (a : Nat) (last : Bool) : SpanPacket := sealPacket { packetTo 1 0 with addr := BitVec.ofNat 40 a, last := last, total := 2, payload := [1, 2] }
theorem test_meets_span_write : ∀ last ∈ [true, false],
    let k := writes 4096 last
    let u := takePacket (arrived k id) 0 1
    let x := countPartial (partialOf u k) k
    waitsFor (arrived k id) 1 = true ∧ remoteErr u k.addr.toNat k.payload.length = none ∧ (x.total = some x.count ↔ last = true) ∧ x.rsen = false
    ∧ waitsFor (arrived (writes 0x8000000000 last) id) 1 = true
    ∧ (remoteErr (takePacket (arrived (writes 0x8000000000 last) id) 0 1) 0x8000000000 2).isSome = true := by decide +kernel

/-- READ_REQ packets at the ends of the range of lengths. -/
theorem test_meets_span_read_req :
    (∀ n ∈ [0, 1, 4096, 4097], waitsFor (arrived (sealPacket { packetTo 2 0 with aux := BitVec.ofNat 32 n }) id) 2 = true)
    ∧ remoteErr s0 0 4096 = none ∧ readErr s0 [(0, 4096)] = none ∧ (remoteErr s0 0x8000000000 1).isSome = true := by decide +kernel

/-- A READ_RESP for a table load, for no copy, and for a copy with two pieces left; an ACK; NACK packets. -/
def tableLoad (fm : Forme) : Forme := { fm with vu := { fm.vu with ftLoad := some ⟨0, 0, 0, 0, 0, 0, true, [], []⟩ } }
theorem test_meets_span_answers :
    (let k := sealPacket { packetTo 3 0 with copyId := 0xFFFF, aux := BitVec.ofNat 32 (0x8000 * 65536), payload := [7] }
     let s := arrived k tableLoad
     waitsFor s 3 = true ∧ forLoad k = true ∧ packetForme k = some 0 ∧ ((s.forme 0).vu.ftLoad.map (·.started)) = some true)
    ∧ (let k := sealPacket { packetTo 3 0 with payload := [7] }
       let s := arrived k (copyIn (.reading [(0, 1), (64, 1)]))
       waitsFor s 3 = true ∧ forLoad k = false ∧ packetCar s k = some (0, 0) ∧ packetCar (arrived k id) k = none
       ∧ (carOf s 0 0).phase = .reading [(0, 1), (64, 1)] ∧ (k.addr.toNat, k.payload.length) ∈ [(0, 1), (64, 1)]
       ∧ eraseFirst (fun (q : Nat × Nat) => decide (q.1 = k.addr.toNat)) [(0, 1), (64, 1)] ≠ [])
    ∧ (let k := sealPacket (packetTo 4 0)
       let s := arrived k (copyIn (.acking [(0, 1)]))
       waitsFor s 4 = true ∧ k.sforme ≠ 15 ∧ packetCar s k = some (0, 0) ∧ (carOf s 0 0).phase = .acking [(0, 1)])
    ∧ (∀ r ∈ [1, 5], let k := sealPacket { packetTo 5 0 with aux := BitVec.ofNat 32 r }
       let s := arrived k (copyIn (.acking [(0, 1)]))
       waitsFor s 5 = true ∧ k.aux.getLsbD 4 = false ∧ forLoad k = false ∧ packetCar s k = some (0, 0) ∧ packetCar (arrived k id) k = none
       ∧ (fieldN k.aux.toNat 0 4 = 5 ↔ r = 5))
    ∧ (∀ r ∈ [1, 5], let k := sealPacket { packetTo 5 0 with copyId := 0xFFFF, aux := BitVec.ofNat 32 (0x8000 * 65536 + r) }
       waitsFor (arrived k tableLoad) 5 = true ∧ k.aux.getLsbD 4 = false ∧ forLoad k = true ∧ packetForme k = some 0) := by decide +kernel

/-- ETHFWD packets: first and last pieces in both directions, with the link of the port up or down. -/
theorem test_meets_ethfwd : ∀ dir ∈ [0, 1], ∀ last ∈ [true, false],
    let k := sealPacket { packetTo 8 0 with addr := BitVec.ofNat 40 dir, last := last, payload := List.replicate 8 0 }
    waitsFor (arrived k id) 8 = true ∧ k.aux.getLsbD 0 = false ∧ k.aux.getLsbD 1 = false ∧ k.addr.toNat % 2 = dir
    ∧ (arrived k id).abut.link ≠ 3 ∧ leNat (k.payload.take 8) % 2 = 0 := by decide +kernel

/-- A descriptor at 0 of a broadcast (kind 3) of one posit8 by group 0, whose list at 64 holds this die alone. -/
def collected (d : Nat) : State :=
  { s0 with
    gddr := gddrPutAll s0.gddr (placed 0 (leBytes 64 d) ++ placed 64 (leBytes 2 0))
    coll := { s0.coll with groups := [(0, BitVec.ofNat 64 (64 + 2 ^ 52))] } }
def broadcasts : Nat := 3 + 2 ^ 32 + 0x1000 * 2 ^ 64 + 0x2000 * 2 ^ 104 + 77 * 2 ^ 160
theorem test_meets_coll_go :
    bit (BitVec.ofNat 64 (2 ^ 40)) 40 = true ∧ (s0.coll.slots[(2 : Fin 8)]).busy = false
    ∧ gddrRange s0.gddr (2 ^ 39 - 64) 64 = false
    ∧ (match goCheck (collected 7) 0 with | .inl c => decide (c = 1) | .inr _ => false) = true
    ∧ (match goCheck { collected broadcasts with coll := s0.coll } 0 with | .inl c => decide (c = 2) | .inr _ => false) = true
    ∧ (match goCheck (collected broadcasts) 0 with | .inl _ => false | .inr j => decide (j.collId = 77) && decide (j.list = [0])) = true := by
  decide +kernel

/-- A job of slot 2 that waits for one byte from die 1, or has an uninvited transfer to it, or has finished. -/
def job (recvs sends : List CollXfer) : CollJob :=
  ⟨3, 0, 0, 1, 0x1000, 0x2000, 0, 1, 77, [1, 0], 1, [], [(0, [5])], [], recvs, sends, 0⟩
def xfer (invited done : Bool) : CollXfer := ⟨1, 0, false, 0, 0, 1, invited, [], false, done, []⟩
def inSlot (s : State) (j : CollJob) : State := { s with coll := { s.coll with slots := vset s.coll.slots 2 ⟨0, true, false, false, 0, false, false, false, some j⟩ } }
/-- A COLL packet from die 1 for COLL_ID 77: an announcement of a kind, or data. -/
def collPacketTo (ann : Bool) (kind : Nat) : SpanPacket :=
  let body : List Byte := if ann then leBytes 12 (kind + 2 ^ 32 + 2 * 2 ^ 64) else [9]
  sealPacket { packetTo 6 0 with sforme := 15, total := 77, aux := (if ann then 0x10000 else 0), payload := body }
theorem test_meets_coll_packets :
    (∀ ann ∈ [true, false], waitsFor (arrived (collPacketTo ann 3) id) 6 = true ∧ (collPacketTo ann 3).aux.getLsbD 16 = ann
      ∧ slotOf (arrived (collPacketTo ann 3) id) 77 = none)
    ∧ (annOf (collPacketTo true 3)).collId = 77
    ∧ slotOf (inSlot (arrived (collPacketTo true 3) id) (job [] [xfer false false])) 77 = some 2
    ∧ annAgrees (job [] [xfer false false]) (annOf (collPacketTo true 3)) = true
    ∧ annAgrees (job [] [xfer false false]) (annOf (collPacketTo true 4)) = false
    ∧ recvIx (job [xfer true false] []) (collPacketTo false 3) = some 0 ∧ (job [xfer true false] []).recvs[0]? = some (xfer true false) := by
  decide +kernel
theorem test_meets_coll_end :
    (let s := inSlot s0 (job [xfer true true] [xfer true true])
     (s.coll.slots[(2 : Fin 8)]).busy = true ∧ (s.coll.slots[(2 : Fin 8)]).job = some (job [xfer true true] [xfer true true])
     ∧ (job [xfer true true] [xfer true true]).recvs.all (·.done) = true ∧ (job [xfer false false] []).recvs.any (fun y => decide (y.peer = 1) && !y.invited) = true)
    ∧ entN s0 0x5030 3 ≠ 0 ∧ (job [] []).started.toNat + 1000 * entN s0 0x5030 3 < (BitVec.ofNat 64 (1000 * entN s0 0x5030 3 + 1)).toNat := by
  decide +kernel

/-- s0 with its Abutment link up, its IPv4 address 10.0.0.1, a packet in the ingress buffer per class, and a grace period that is over. -/
def wired : State :=
  { s0 with
    tb := { s0.tb with ns := 1000000 }
    abut := { s0.abut with link := 3, grace := [(1, 0)], ingress := [⟨2, 0, 64, false⟩, ⟨2, 2, 64, false⟩, ⟨2, 3, 64, false⟩] }
    colo := { s0.colo with ent := [(entKey 0x6000 3, 0x0A000001)] } }
def ip4 : BitVec 128 := 0xFFFF0A000001
theorem test_meets_frames_admitted (dst : BitVec 48) :
    frameAdmitted wired (frame dst (.roce ip4 (roce .send))) = true ∧ frameShared (.roce ip4 (roce .send)) = false
    ∧ frameAdmitted wired (frame dst (.other false)) = true ∧ wired.abut.link = 3 ∧ unitsOn wired = true
    ∧ ownIp wired ip4 = true ∧ ownIp wired 1 = false ∧ (cqOf wired 0).active = false
    ∧ (roce .otherTransport).kind = .otherTransport ∧ 2 ≤ (roce .send).qpn.toNat ∧ (roce .send).qpn.toNat < 16384 :=
  ⟨rfl, rfl, rfl, rfl, by decide +kernel, by decide +kernel, by decide +kernel, by decide +kernel, rfl, by decide, by decide⟩

/-- A frame for another die: one that nobody serves, or one that die 0 forwards. MAC addresses are free values (R598), so that
the tests suppose that they differ. -/
theorem test_meets_frames_passed_by (dst : BitVec 48) (h0 : dst ≠ macOf 0) (h1 : dst ≠ macOf 1) :
    dst ≠ macOf wired.dieIndex.1 ∧ ∀ d, forwardsFor wired d = true → macOf d.1 ≠ dst := by
  refine ⟨h0, fun d hd => ?_⟩
  have e : d = 1 := by revert hd; revert d; decide +kernel
  subst e; exact fun e => h1 e.symm
theorem test_meets_frames_forwarded (h : macOf 1 ≠ macOf 0) :
    (frame (macOf 1) (.other false)).dst ≠ macOf wired.dieIndex.1
    ∧ (forwardDies wired).find? (fun d => decide (macOf d.1 = macOf 1)) = some 1 := by
  have e : forwardDies wired = [1] := by decide +kernel
  refine ⟨h, ?_⟩
  rw [e]; simp [List.find?]

theorem test_meets_frames_discarded :
    4220 < (List.replicate 4221 (0 : Byte)).length ∧ (5 : BitVec 12).toNat ≠ entN wired 0x6000 5
    ∧ ((1 : Fin 8), (0 : Word)) ∈ wired.abut.grace ∧ elapsed wired 0 1000000 = true ∧ wired.abut.ingress ≠ [] := by
  refine ⟨by rw [List.length_replicate]; decide, by decide +kernel, List.mem_singleton.mpr rfl, by decide +kernel, by decide⟩

theorem test_meets_requests :
    (∀ st ∈ [2, 3], let s := engine (pair (BitVec.ofNat 3 st)) [packet .send 10]
      unitsOn s = true ∧ s.abut.rx.head? = some (packet .send 10) ∧ (qpOf s 2).state = BitVec.ofNat 3 st ∧ (packet .send 10).qpn.toNat = 2)
    ∧ psnLe 11 10 = false ∧ psnLe 9 10 = true ∧ (pair 2).gap = false ∧ (pair 0).state ≠ 2 ∧ (pair 0).state ≠ 3 := by decide +kernel
theorem test_meets_requests_in_turn :
    (∀ kind ∈ [RoceKind.send, .write, .readReq], let s := engine (pair 3) [packet kind 10]
      admits s 2 (packet kind 10) = true ∧ cqHolds s (qpOf s 2) = false
      ∧ admits { s with colo := { s.colo with ent := [(entKey 0x6020 4, 0)] } } 2 (packet kind 10) = false)
    ∧ (let s := engine (pair 3) [packet .send 10]
       (match joinMsg s 2 (packet .send 10) false with
       | .msg t m => (match m.entry with
         | some e => decide (m.got = 0) && decide (e.len = 64) && regionOk t e.lkey ((qpOf t 2).fld 0 16) .loc (e.addr + m.got) 64
             && (recordInput t 2 2 (e.addr + m.got) (packet .send 10).payload).isSome
         | none => false)
       | _ => false) = true)
    ∧ (let s := engine { pair 3 with rq := ⟨0, 2, 0, 0⟩ } []
       (match joinMsg s 2 (packet .send 10) false, joinMsg s 2 { packet .write 10 with imm := some 0 } true with
       | .noEntry, .noEntry => true
       | _, _ => false) = true) := by
  refine ⟨by decide +kernel, ?_, ?_⟩ <;> decide +kernel
theorem test_meets_writes_and_reads :
    (let s := engine (pair 3) [packet .write 10]
     (match joinMsg s 2 (packet .write 10) true with
     | .msg t m => regionOk t m.rkey ((qpOf t 2).fld 0 16) .rwrite (m.va + m.got) 64
         && !regionOk t 1 ((qpOf t 2).fld 0 16) .rwrite (m.va + m.got) 64
         && (recordInput t 1 2 (m.va + m.got) (packet .write 10).payload).isSome
     | _ => false) = true)
    ∧ (let s := engine (pair 3) [{ packet .readReq 10 with dmaLen := 4096 }]
       readsHeld s 2 < 16 ∧ regionOk s 0 ((qpOf s 2).fld 0 16) .rread 0 4096 = true ∧ regionOk s 1 ((qpOf s 2).fld 0 16) .rread 0 4096 = false
       ∧ gddrLost s.gddr 0 4096 = none
       ∧ 16 ≤ readsHeld { s with abut := { s.abut with ingress := List.replicate 16 ⟨2, 0, 64, true⟩ } } 2) := by
  refine ⟨?_, ?_⟩ <;> decide +kernel
theorem test_meets_responses :
    (∀ kind ∈ [RoceKind.ack, .readResp, .nak 0, .nak 1, .nak 2, .rnrNak 1], let s := engine (pair 3) [packet kind 2]
      isResponse (packet kind 2).kind = true ∧ responseHeld s = false ∧ psnOpen (qpOf s 2) 2 = true ∧ psnOpen (qpOf s 2) 7 = false)
    ∧ (let s := engine (pair 3) [packet .cnp 0]
       tableWf (entDefault s.build s.dieIndex) s.colo.ent = true ∧ tableWf qpDefault s.abut.qps = true ∧ entN s 0x6020 8 ≠ 0
       ∧ entN { s with colo := { s.colo with ent := [(entKey 0x6020 8, 0)] } } 0x6020 8 = 0 ∧ cnpDue s (pair 3).pace = true
       ∧ cnpDue s { (pair 3).pace with actedAt := some 0 } = false) := by decide +kernel

/-- Queue pair 2 with ACK timeout exponent 1, three retries and RNR retries, and queue pair 0; each with one send entry at 0x100. -/
def sender (n retries : Nat) (till : Option Word) (entry : Nat) : State :=
  { s0 with
    tb := { s0.tb with ns := 1000000 }
    gddr := gddrPutAll s0.gddr (placed 0x100 (leBytes 64 entry))
    tbl := { s0.tbl with regions := [(0, ⟨0, true, true, true, true, 0x100000, 0, 0⟩)] }
    abut := { s0.abut with
      link := 3
      qps := [(n, { pair 3 with ctx := BitVec.ofNat 2048 (3 * 2 ^ 16 + 2 ^ 104 + 3 * 2 ^ 109 + 3 * 2 ^ 112), retries := retries, rnrs := retries, rnrTill := till, sq := ⟨0x100, 2, 1, 0⟩ })] } }
theorem test_meets_timers :
    (∀ retries ∈ [2, 3], let s := sender 2 retries none 0
      unitsOn s = true ∧ (qpOf s 2).out ≠ [] ∧ (qpOf s 2).rnrTill = none ∧ (qpOf s 2).fld 104 5 ≠ 0
      ∧ elapsed s (qpOf s 2).ackedAt (4096 * 2 ^ (qpOf s 2).fld 104 5) = true ∧ (qpOf s 2).fld 109 3 = 3 ∧ (qpOf s 2).retries = retries)
    ∧ (∀ retries ∈ [2, 3], let s := sender 2 retries (some 1000000) 0
      (qpOf s 2).rnrTill = some 1000000 ∧ (qpOf s 2).fld 112 3 = 3 ∧ (qpOf s 2).rnrs = retries)
    ∧ (let s := sender 2 0 none 0
       entN s 0x6020 8 = 1 ∧ elapsed s (qpOf s 2).pace.tickAt (1000 * entN s 0x6020 10) = true ∧ tableWf qpDefault s.abut.qps = true) := by
  decide +kernel

/-- Send entries of each OPC; with a valid key and with one that names no region. -/
theorem test_meets_send_entries :
    (∀ o ∈ [0, 1, 2, 3, 4, 8], let s := sender 2 0 none o
      let e := sqEntry s 2
      maySend s (qpOf s 2) = true ∧ ringUsed (qpOf s 2).sq ≠ 0 ∧ fieldN e 0 8 = o ∧ fieldN e 9 1 = 0 ∧ readRoom (qpOf s 2) = true)
    ∧ (let s := sender 2 0 none 0
       localOk s 2 (sqEntry s 2) (entryMsg (sqEntry s 2)) = true)
    ∧ (let s := { sender 2 0 none (64 * 2 ^ 32) with tbl := s0.tbl }
       localOk s 2 (sqEntry s 2) (entryMsg (sqEntry s 2)) = false) := by decide +kernel
theorem test_meets_raw : ∀ k ∈ [0, 2 ^ 8, 2 ^ 8 + 2 ^ 10], let s := sender 0 0 none (8 + k)
    let e := sqEntry s 0
    maySend s (qpOf s 0) = true ∧ ringUsed (qpOf s 0).sq ≠ 0 ∧ fieldN e 0 8 = 8 ∧ localOk s 0 e (entryMsg e) = true
    ∧ (entryMsg e).len ≤ 4220 ∧ s.abut.link = 3 ∧ ((entryMsg e).sig = true ↔ k ≠ 0) := by decide +kernel

/-- A die with its three tables at 0x1000, 0x10000 and 0x20000: QP 2 has a context with MTU 3 and CQ 0, and CQ 3 and SRQ 4 are
inactive; CQ 0 is active. Queue pair 2 is in a state. -/
def tables (st : BitVec 3) : State :=
  { s0 with
    gddr := gddrPutAll s0.gddr (placed (0x1000 + 512) (leBytes 256 (3 * 2 ^ 16)))
    colo := { s0.colo with ent := [(entKey 0x6010 1, 0x1000), (entKey 0x6010 2, 0x10000), (entKey 0x6010 3, 0x20000)] }
    abut := { s0.abut with
      qps := if st = 0 then [] else [(2, { qpDefault 2 with state := st, ctx := BitVec.ofNat 2048 (3 * 2 ^ 16) })]
      cqs := [(0, ⟨true, ⟨0, 2, 0, 0⟩, false, []⟩)] } }
/-- A word of ABUT.OBJ_CMD with GO. -/
def objWord (num obj target : Nat) : Word := BitVec.ofNat 64 (num + obj * 2 ^ 14 + target * 2 ^ 16 + 2 ^ 19)
theorem test_meets_qp_commands :
    (let v := objWord 2 0 1
     bit v 19 = true ∧ field v 0 14 = 2 ∧ field v 14 2 = 0 ∧ field v 16 3 = 1)
    ∧ unitsOn (tables 0) = true ∧ objBase s0 0 = 0 ∧ objBase (tables 0) 0 ≠ 0 ∧ (qpOf (tables 0) 2).state = 0
    ∧ ctxOk (tables 0) (qpContext (tables 0) 2).toNat = true ∧ ctxOk (tables 0) (qpContext (tables 0) 3).toNat = false
    ∧ (qpOf (tables 1) 2).state.toNat + 1 = 2 ∧ (qpOf (tables 2) 2).state.toNat + 1 = 3 := by decide +kernel
theorem test_meets_cq_and_srq_commands :
    (let s := tables 1
     objBase s0 1 = 0 ∧ objBase s 1 ≠ 0 ∧ field (objWord 4096 1 1) 0 14 = 4096
     ∧ qpNames s (fun q => decide (q.sqcq = 0) || decide (q.rqcq = 0)) = true ∧ qpNames s (fun q => decide (q.sqcq = 3) || decide (q.rqcq = 3)) = false
     ∧ (cqOf s 3).active = false ∧ (cqOf s 0).active = true ∧ ringReservedZero (fieldN (gddrNat s (objBase s 1 + 32 * 3) 32) 0 128) = true
     ∧ fieldN (gddrNat s (objBase s 1 + 32 * 3) 32) 128 128 = 0)
    ∧ (let s := tables 1
       objBase s0 2 = 0 ∧ objBase s 2 ≠ 0 ∧ qpNames s (fun q => decide (q.fld 19 1 = 1) && decide (q.fld 152 10 = 4)) = false
       ∧ (srqOf s 4).active = false ∧ ringReservedZero (fieldN (gddrNat s (objBase s 2 + 32 * 4) 32) 0 128) = true
       ∧ fieldN (gddrNat s (objBase s 2 + 32 * 4) 32) 144 112 = 0
       ∧ (srqOf { s with abut := { s.abut with srqs := [(4, ⟨true, ⟨0, 2, 0, 0⟩, 0⟩)] } } 4).active = true) := by decide +kernel
theorem test_meets_doorbells :
    (∀ x ∈ [0, 1, 4], prodOk ⟨0, 2, 0, 0⟩ (BitVec.ofNat 24 x) = true) ∧ prodOk ⟨0, 2, 0, 0⟩ 5 = false
    ∧ consOk ⟨0, 2, 1, 0⟩ 1 = true ∧ consOk ⟨0, 2, 1, 0⟩ 2 = false
    ∧ (qpOf (tables 3) 2).state = 3 ∧ (qpOf (tables 3) 2).fld 19 1 = 0 ∧ (cqOf (tables 3) 0).wait = []
    ∧ tableWf (entDefault s0.build s0.dieIndex) s0.colo.ent = true
    ∧ (∀ obj ∈ [0, 1, 2, 3], field (BitVec.ofNat 64 (2 + obj * 2 ^ 14 + 2 ^ 16)) 14 2 = obj) := by decide +kernel

/-- s0 with service slot 5 changed and settings of the slot. -/
def atSvc (ent : Table Nat) (x : Svc) : State := { s0 with svc := vset s0.svc 5 x, colo := { s0.colo with ent := ent } }
def req (second : Bool) : Req := ⟨1, 77, 0, false, false, .rdma 2, 0, second, false⟩
def svcIn (st : BitVec 8) : Svc := { Svc.reset with state := st }
theorem test_meets_service_states : unitsOn s0 = true
    ∧ (∀ st ∈ [0, 1, 2, 3, 4], ((atSvc [] (svcIn (BitVec.ofNat 8 st))).svc[(5 : Fin 64)]).state = BitVec.ofNat 8 st)
    ∧ svcQuiet (svcIn 3) = true ∧ tableWf (entDefault s0.build s0.dieIndex) s0.colo.ent = true
    ∧ verifyImage s0 serviceComp (2 ^ 40) 0 [] ≠ .ok := by decide +kernel

/-- Whether an image verifies rests on uninterpreted functions, so that the test supposes one that does. -/
theorem test_meets_service_load (im : List Byte) (h : verifyImage (atSvc [(entKey 0x7105 0x0C, 1)] (svcIn 1)) serviceComp (2 ^ 40) 0 im = .ok) :
    loadReason (atSvc [(entKey 0x7105 0x0C, 1)] (svcIn 1)) 5 ⟨im, 0, true, 0, 0⟩ = .none := by
  simp only [loadReason, h]
  rw [if_neg (fun e => e rfl), if_neg (fun e => e.1 rfl)]
  decide +kernel

theorem test_meets_service_batches :
    (let s := atSvc [] { svcIn 2 with batch := some (0, [req false]) }
     (s.svc[(5 : Fin 64)]).batch = some (0, [req false])
     ∧ elapsed { s with tb := { s.tb with ns := BitVec.ofNat 64 (1000 * svcEnt s 5 7) } } 0 (1000 * svcEnt s 5 7) = true)
    ∧ (let s := atSvc [(entKey 0x7105 8, 1000)] { svcIn 3 with streams := [⟨1, some (req false), none⟩] }
       svcEnt s 5 8 ≠ 0 ∧ (s.svc[(5 : Fin 64)]).nextK * svcEnt s 5 8 + svcEnt s 5 9 ≤ s.tb.ns.toNat
       ∧ (s.svc[(5 : Fin 64)]).streams.any (fun st => st.latest.isSome) = true) := by decide +kernel
theorem test_meets_mirror : ∀ second ∈ [true, false],
    let w : MirrorWait := ⟨req second, [1], 0, 0⟩
    let s := atSvc [(entKey 0x7105 0x0B, 2)] { svcIn 2 with mirror := [w] }
    svcEnt s 5 0x0B = 2 ∧ waitOf s 5 77 = some w ∧ waitOf s 5 78 = none ∧ ((0 : BitVec 32), (0 : BitVec 32)) ≠ bodyValues w.body
    ∧ elapsed { s with tb := { s.tb with ns := BitVec.ofNat 64 (1000 * svcEnt s 5 0x13) } } w.ready (1000 * svcEnt s 5 0x13) = true := by
  decide +kernel

/-- s0 one leak interval after the last leak of bucket 3; and a check of 64 bytes at 0 that runs, or at an address without memory. -/
def checking (a : Nat) (lost : List Nat) : State :=
  { s0 with check := { s0.check with addr := BitVec.ofNat 40 a, len := 64, busy := true }, gddr := { s0.gddr with lost := lost } }
theorem test_meets_buckets_fences_checks :
    unitsOn s0 = true
    ∧ elapsed { s0 with tb := { s0.tb with ns := BitVec.ofNat 64 (1000000 * entN s0 0x8013 4) } } (s0.fault.leakAt[(3 : Fin 12)]) (1000000 * entN s0 0x8013 4) = true
    ∧ bit (BitVec.ofNat 64 (2 ^ 63)) 63 = true ∧ bit 16 4 = true ∧ (5 : Fin 8) ≠ s0.dieIndex ∧ (5 : Fin 8).1 < dieCount s0.build
    ∧ s0.fault.dies.getLsbD 5 = false ∧ bit (BitVec.ofNat 64 (2 ^ 32)) 32 = true
    ∧ checkMapped (checking 0 []) = true ∧ readErr (checking 0 []) [(0, 64)] = none
    ∧ checkMapped (checking 0x8000000000 []) = false ∧ (readErr (checking 0 [0]) [(0, 64)]).isSome = true := by decide +kernel

def client : Client := ⟨1, 2⟩
/-- A request of a kind through the management port. -/
def ask (op : Byte) (body : List Byte) : ColoMsg :=
  ⟨client, true, false, 1, op, 0, false, false, 0, 0, 9, BitVec.ofNat 16 body.length, body, []⟩
/-- The agent of a die that has started, with keys, open access or not, some sessions, and an operator key in slot 0. -/
def agent (opened : Nat) (sessions : List Session) : State :=
  { s0 with
    boot := { s0.boot with state := 1, stage := 6 }
    sec := { s0.sec with keyState := 1 }
    colo := { s0.colo with ent := [(entKey 0x1030 2, opened)], oct := [(entKey 0x9010 0x10, [7])], sessions := sessions } }
def session (id : BitVec 32) : Session := ⟨id, 0, [], [], 0, 0, false, 0, 0⟩
def noKeys (s : State) : State := { s with sec := { s.sec with keyState := 0 } }
/-- Bodies of a READ of 0x1000.1, a WRITE of OCT item 0x9010.2, READ-BLOCK, WRITE-BLOCK of UPDATE_DATA, NOTIFY and SESSION-OPEN. -/
def bodyOf (op : Nat) : List Byte :=
  match op with
  | 1 => leBytes 4 (0x1000 + 2 ^ 16)
  | 2 => leBytes 12 (0x9010 + 2 * 2 ^ 16 + 2 ^ 48)
  | 3 => leBytes 24 0x1000
  | 4 => leBytes 20 0
  | 5 => leBytes 16 1
  | _ => leBytes 68 0
theorem test_meets_colophon_requests : ∀ op ∈ [1, 2, 3, 4, 5, 6], ∀ opened ∈ [0, 1],
    let m := ask (BitVec.ofNat 8 op) (bodyOf op)
    let s := agent opened []
    listens s m = true ∧ m.op = BitVec.ofNat 8 op ∧ malformedMsg m = false ∧ keptFor s (.addr client) m = none
    ∧ readAllowed s ⟨.addr client, true⟩ = decide (opened = 1) ∧ s.colo.sessions.find? (fun x => decide (x.id = 5)) = none
    ∧ listens s { m with session := 5 } = true := by decide +kernel
theorem test_meets_colophon_bodies :
    (readList (bodyOf 1)).isSome = true ∧ readList [1] = none ∧ (writeList 64 (bodyOf 2)).isSome = true ∧ writeList 64 [1] = none
    ∧ (writeList 64 (bodyOf 2)).any (fun l => l.all (fun x => !exemptItem (agent 0 []) ⟨.addr client, true⟩ x)) = true
    ∧ (bodyOf 3).length = 24 ∧ 17 ≤ (bodyOf 4).length ∧ bodyN (bodyOf 4) 3 6 = 0 ∧ (bodyOf 5).length = 16 ∧ bodyN (bodyOf 5) 4 4 = 0
    ∧ bodyN (bodyOf 5) 0 4 ≠ 0 ∧ (bodyOf 6).length = 68 ∧ bodyN (bodyOf 6) 1 3 = 0
    ∧ operatorKeyOf (agent 1 []) 1 = none ∧ (operatorKeyOf (agent 1 []) 0).isSome = true ∧ (agent 1 []).sec.keyState = 1
    ∧ 8 ≤ (agent 1 ((List.range 8).map (fun i => session (BitVec.ofNat 32 (i + 1))))).colo.sessions.length := by decide +kernel
/-- In Falsework without keys, the image of an update is written without a session (R765). -/
theorem test_meets_write_block :
    let s : State := { noKeys (agent 1 []) with upd := { s0.upd with state := 1 }, boot := { s0.boot with state := 3 } }
    readAllowed s ⟨.addr client, true⟩ = true ∧ listens s (ask 4 (bodyOf 4)) = true ∧ pieceStatus s ⟨.addr client, true⟩ 0xA000 2 0 4 = .ok := by
  decide +kernel
/-- A session whose COUNTER the request repeats; and a kept response of the same REQ_ID. -/
theorem test_meets_sessions_and_kept :
    (agent 1 [session 5]).colo.sessions.find? (fun x => decide (x.id = 5)) = some (session 5)
    ∧ sessionMsgOk (session 5) { ask 1 (bodyOf 1) with session := 5 } = false
    ∧ (let s : State := { agent 1 [] with colo := { (agent 1 []).colo with kept := [⟨.addr client, 9, 0, 0, 1, 0, []⟩] } }
       keptFor s (.addr client) (ask 1 (bodyOf 1)) = some ⟨.addr client, 9, 0, 0, 1, 0, []⟩) := by
  refine ⟨by decide +kernel, ?_, by decide +kernel⟩
  simp [sessionMsgOk, session, ask]

/-- The agent after 100,000 s, with the keys of the die, a session, a kept response and a subscription with an event. -/
def aging : State :=
  { s0 with
    boot := { s0.boot with state := 1, stage := 6, age := BitVec.ofNat 64 (10 ^ 14) }
    sec := { s0.sec with keyState := 1 }
    colo := { s0.colo with
      sessions := [⟨5, 0, [], [], 0, 0, false, 0, 0⟩], kept := [⟨.session 5, 9, 0, 0, 1, 0, []⟩]
      subs := [⟨.addr ⟨1, 2⟩, ⟨1, 2⟩, true, 1, [⟨1, 0, 3, 0, 0⟩], 0, 0⟩], saving := some ([], []) } }
theorem test_meets_colophon_timers :
    aging.colo.sessions.find? (fun x => decide (x.id = 5)) = some ⟨5, 0, [], [], 0, 0, false, 0, 0⟩
    ∧ aged aging 0 10000000000 = true ∧ aged aging 0 (1000000000 * entN aging 0x9010 3) = true
    ∧ aging.colo.kept.any (fun x => aged aging x.time 2000000000) = true ∧ aging.fault.fenced = false
    ∧ aging.colo.subs.any (retryDue aging) = true ∧ aging.colo.subs.any (fun x => aged aging x.lastAt (1000000000 * entN aging 0x1030 8)) = true
    ∧ aging.colo.saving = some ([], []) ∧ aging.sec.keyState = 1 := by decide +kernel
theorem test_meets_entry_writes :
    entryWriteOk aging 0x9010 4 (leBytes 4 5) = true ∧ entryWriteOk { aging with colo := { aging.colo with saving := none } } 0x1030 5 [1] = true
    ∧ operatorKeyOk aging 3 (List.replicate 64 1) true true = true ∧ tableWf (fun _ => ([] : List Byte)) aging.colo.oct = true
    ∧ (List.replicate 64 (1 : Byte)).length = 64
    ∧ entryWriteOk aging 0x5000 1 (leBytes 2 16) = true ∧ entryWriteOk aging 0x9050 1 (List.replicate 32 1) = true
    ∧ entryWriteOk aging 0x9020 2 (leBytes 2 3) = true ∧ entryWriteOk aging 0x9000 1 [1] = true
    ∧ entKey 0x5000 2 ≠ entKey 0x5000 1 := by decide +kernel

/-- A die that has started, with the update state given. -/
def updating (st : UpdState) (im : SlotImage) : State :=
  { s0 with
    boot := { s0.boot with state := 1, stage := 6, onTrial := Vector.replicate 5 true }
    sec := { s0.sec with keyState := 1 }
    upd := { s0.upd with state := st.code }
    flash := { s0.flash with images := [(1, im)] } }
theorem test_meets_update_commands :
    (∀ p ∈ [(UpdState.idle, 1), (.receiving, 2), (.verified, 3), (.trial, 4), (.trial, 5), (.verified, 5)],
      entryWriteOk (updating p.1 .factory) 0xA000 3 [BitVec.ofNat 8 p.2] = true ∧ updateCmdOk (updating p.1 .factory) p.2 = true
      ∧ agentMode (updating p.1 .factory) = .full)
    ∧ updateCmdOk (updating .idle .factory) 4 = false ∧ entryWriteOk (updating .idle .factory) 0xA000 3 [4] = false
    ∧ verifySlot (updating .receiving (.written (2 :: List.replicate 255 0))) 0 true 0 = .component ∧ minSecOf (updating .receiving .factory).flash 0 = 0
    ∧ updComp (updating .receiving .factory) = 0 ∧ inactiveSlot (updating .receiving .factory) = true := by decide +kernel
theorem test_meets_verified_update : verifySlot (updating .receiving .factory) 0 true 0 = .ok := by
  have h : slotAt (updating .receiving .factory).flash 0 true = .factory := by decide +kernel
  simp [verifySlot, h]

/-- A start with a stage in progress and a count of failed starts. -/
def starting (cur failed : Nat) : State :=
  { s0 with
    boot := { s0.boot with cur := BitVec.ofNat 8 cur, age := 2000000000 }
    flash := { s0.flash with countA := { s0.flash.countA with failed := BitVec.ofNat 8 failed } } }
theorem test_meets_start_stages :
    (∀ cur ∈ [0, 1, 2, 3, 4, 5, 6], unitsOn (starting cur 0) = true ∧ (starting cur 0).boot.state = 0 ∧ (starting cur 0).boot.cur = BitVec.ofNat 8 cur)
    ∧ loaderSlot (starting 0 2) = some false ∧ failedStarts (starting 0 2).flash = 2 ∧ failedStarts (starting 0 3).flash = 3
    ∧ (slotPart (starting 1 0).flash).tagOk = true ∧ startSources (starting 1 0) default = 0 ∧ firmwareOk (starting 2 0) = true
    ∧ bistOk default = true ∧ aged (starting 5 0) (starting 5 0).boot.stageAt 2000000000 = true := by decide +kernel
theorem test_meets_restarts : ∀ v ∈ [1, 2],
    let s : State := { s0 with boot := { s0.boot with state := 1, stage := 6 }, sec := { s0.sec with keyState := 1 } }
    entryWriteOk s 0x1040 6 [BitVec.ofNat 8 v] = true ∧ s.pwr.dieUp = true := by decide +kernel

/-- The module's input with its switch open or closed, at a step of the rail sequence, and dies whose rails are out. -/
def powered (closed : Bool) (step : BitVec 3) (out : BitVec 8) : State :=
  { s0 with pwr := { s0.pwr with closed := closed, step := step, railsOut := out, dieUp := decide (step = 5) } }
theorem test_meets_power :
    (powered false 0 0).pwr.closed = false ∧ (powered false 0 0).pwr.ovLatch = false
    ∧ (∀ step ∈ [0, 1, 2, 3], (powered true (BitVec.ofNat 3 step) 0).pwr.step.toNat < 4) ∧ (powered true 4 0).pwr.step = 4
    ∧ (powered true 4 0).pwr.railsOut.getLsbD s0.dieIndex.1 = false ∧ (powered true 4 1).pwr.railsOut.getLsbD s0.dieIndex.1 = true
    ∧ (5 : Fin 8).1 < dieCount s0.build ∧ (5 : Fin 8) ≠ s0.dieIndex ∧ unitsOn s0 = true ∧ s0.pwr.dieUp = true ∧ s0.fault.fenced = false
    ∧ s0.sec.live.getLsbD 3 = false ∧ (1000 * (entN s0 0x2010 10 : Int) ≤ 1000 * entN s0 0x2010 10) := by decide +kernel

/-- A started die whose debug port has a level; the ENCLOSURE policy erases keys and fences, or does neither. -/
def guarded (level : Nat) (policy : Nat) : State :=
  { s0 with
    boot := { s0.boot with state := 1, stage := 6 }
    sec := { s0.sec with keyState := 1, debugState := BitVec.ofNat 8 level }
    span := { s0.span with ports := vmod s0.span.ports 8 (fun x => { x with st := 2, enc := true }) }
    colo := { s0.colo with ent := [(entKey 0x9020 5, policy)] } }
theorem test_meets_alarms :
    (guarded 0 0).pwr.dieUp = true ∧ (guarded 0 0).boot.state = 1 ∧ (guarded 0 0).sec.live.getLsbD 2 = false
    ∧ ((guarded 0 0).span.ports[(8 : Fin 11)]).enc = true ∧ (guarded 0 0).fault.fenced = false
    ∧ (∀ level ∈ [0, 1, 2], (guarded level 0).sec.debugState = BitVec.ofNat 8 level)
    ∧ agentMode (guarded 0 0) = .full := by decide +kernel
/-- The token's signature is an uninterpreted function, so the tests suppose what it says. -/
theorem test_meets_tokens (token : List Byte) (h : token.length = 160) :
    agentMode (guarded 0 0) = .full ∧ token.length = 160 ∧ (tokenOk (guarded 0 0) token = true ∨ tokenOk (guarded 0 0) token = false) :=
  ⟨by decide +kernel, h, by cases tokenOk (guarded 0 0) token <;> simp⟩
theorem test_meets_bad_token : tokenOk (guarded 0 0) (List.replicate 160 0) = false := by decide +kernel

/-- A fenced die, on which a shared command, a management command, and a restart answer. -/
def fenced : State := { s0 with fault := { s0.fault with fenced := true, reason := 1 } }
theorem test_meets_fence : unitsOn fenced = false ∧ managementCommand (.pacc 0) = false ∧ fenced.fault.fenced = true
    ∧ (∃ t, exec (.sensorSample default) fenced = .next t) := ⟨by decide, rfl, rfl, _, rfl⟩

/-! ### Worked examples of the spec -/

/-- Chapter "Number Formats": 0xB6 is −2.5, 0x0C80 is 1.25 · 2^−10, and 3.0 is 0x4C or 0x4C00. -/
theorem test_posit_examples :
    (decodePosit 8 0xB6).frac.eqv ⟨-5, 2⟩ = true ∧ (decodePosit 16 0x0C80).frac.eqv ⟨5, 4096⟩ = true
    ∧ (encodePosit 8 (.real ⟨3, 1⟩) .rne).pat = 0x4C ∧ (encodePosit 16 (.real ⟨3, 1⟩) .rne).pat = 0x4C00 := by decide +kernel

/-- R119, and the example of chapters "Scope" and "Conversion and Rounding": lane 3 under key 5, one step, and the rounding of
1.09375 down to 0x40 with k = 12; RNE gives 0x41. And 2^−22 in posit8 under RNE is 0x02. -/
theorem test_stochastic_example :
    srSeed 5 3 = 0xDAA66D2E ∧ xorshift 0xDAA66D2E = 0xF777734F
    ∧ (encodePosit 8 (.real ⟨35, 32⟩) (.sr 12 0xF77)).pat = 0x40 ∧ (encodePosit 8 (.real ⟨35, 32⟩) .rne).pat = 0x41
    ∧ (encodePosit 8 (.real (Frac.pow2 (-22))) .rne).pat = 0x02 := by decide +kernel

/-- A BP8 block with amax 0.37: scale 0x7B, and elements 0x54 and 0x2A. -/
theorem test_bp8_example :
    bp8Scale 2 [.real ⟨37, 100⟩, .real ⟨1, 100⟩] = (0x7B, false)
    ∧ (encodePosit 8 (.real ⟨592, 100⟩) .rne).pat = 0x54 ∧ (encodePosit 8 (.real ⟨16, 100⟩) .rne).pat = 0x2A := by decide +kernel

/-- RS8 rows with amax 0.9, 3.0, 12.0 and 0.3: the tensor scale and the row scales; and 12.0 becomes 0x57. -/
theorem test_rs8_example :
    rs8Tensor 2 [[.real ⟨9, 10⟩], [.real ⟨3, 1⟩], [.real ⟨12, 1⟩], [.real ⟨3, 10⟩]] = 0x30000000
    ∧ (rs8Scale 2 ⟨1, 4⟩ [.real ⟨9, 10⟩]).1 = 0x37 ∧ (rs8Scale 2 ⟨1, 4⟩ [.real ⟨3, 1⟩]).1 = 0x45
    ∧ (rs8Scale 2 ⟨1, 4⟩ [.real ⟨12, 1⟩]).1 = 0x55 ∧ (rs8Scale 2 ⟨1, 4⟩ [.real ⟨3, 10⟩]).1 = 0x2A
    ∧ (encodePosit 8 (.real (Frac.div ⟨12, 1⟩ ⟨13, 8⟩)) .rne).pat = 0x57 := by decide +kernel

/-- The last block of a weight row in Q2 and in Q1. -/
def weights : List Val := [(9, 10), (-1, 10), (3, 10), (-7, 10), (1, 20), (0, 1), (-7, 20), (1, 5)].map (fun p => Val.ofFrac ⟨p.1, p.2⟩)
def codesOf (l : List Job) : List Nat := l.map (fun j => match j with | .code c _ _ => c | _ => 9)
theorem test_q2_q1_example :
    (q2Block weights).1 = [0xC3, 0xD5, 0x2B, 0x3D] ∧ codesOf (q2Block weights).2.1 = [3, 1, 2, 0, 2, 2, 1, 2]
    ∧ packCodes 2 [3, 1, 2, 0, 2, 2, 1, 2] = [0x27, 0x9A]
    ∧ (q1Block weights).1 = 0x32 ∧ packCodes 1 (codesOf (q1Block weights).2.1) = [0x4A] := by decide +kernel

/-- R719: the check values of CRC-32C. -/
theorem test_crc_values :
    crc32c [0x31, 0x32, 0x33, 0x34, 0x35, 0x36, 0x37, 0x38, 0x39] = 0xE3069283 ∧ crc32c (List.replicate 32 0) = 0x8A9136AA
    ∧ crc32c [] = 0 := by decide +kernel

/-- Chapter "Instruction Reference": the folio of C = A × B with its PACC word at 544, about to dispatch it; with TILE = 4 the
dispatch fails and FORME.PROG_ERR reads the example's value. -/
def product (word : Nat) : State :=
  { at0 (fun fm => { fm with fe := { fm.fe with state := .run, offset := 512, length := 5, next := 2 }, bal := Vector.replicate 16 2 }) with
    gddr := gddrPutAll s0.gddr (placed 96 (leBytes 32 (256 * 2 ^ 24)) ++ placed 128 (leBytes 32 0x0000000180040000)
      ++ placed 544 (leBytes 16 word)) }
def dispatched (word : Nat) : State := dispatchNext (product word) 0
theorem test_dispatch_example :
    ((dispatched 0x000020006000004005FCFF0002002020).forme 0).q.pq.map (fun e => (e.index, e.word))
      = [(2, 0x000020006000004005FCFF0002002020)]
    ∧ ((dispatched 0x000020006000004005FCFF0002002020).forme 0).err.valid = false
    ∧ progErrWord ((dispatched (0x000020006000004005FCFF0002002020 + 4 * 2 ^ 32)).forme 0).err = 0x8000000200150002 := by decide +kernel

/-- Chapter "Span Fabric": the tree of six ranks; rank 0 combines 1, 2 and 4, and rank 4 combines 5 and sends to 0. -/
theorem test_tree_of_six :
    treeDown 6 0 = [(0, 1), (1, 2), (2, 4)] ∧ treeDown 6 4 = [(0, 5)] ∧ treeUp 6 4 = [(2, 0)] ∧ treeUp 6 3 = [(0, 2)] := by decide +kernel

/-- R755: the Specimen list is 808 bytes; Forme 7 of the example, which has retired a bank and a Press, reads as listed. -/
def repaired : State :=
  modForme s0 7 (fun fm => { fm with
    pu := { fm.pu with presses := #v[⟨[], false, false, 128⟩, ⟨[37, 90], false, false, 126⟩, ⟨[], true, false, 0⟩, ⟨[12], false, false, 127⟩] }
    test := { fm.test with bank := 13, bankRet := true, bankAct := true } })
theorem test_specimen_example :
    (specimenList repaired).length = 808
    ∧ (List.range 6).map (fun i => leNat (((specimenList repaired).drop (416 + 8 * i)).take 8))
      = [0x01D8003800010002, 0x00F8000000000307, 0x0000800000000000, 0x00007E0200005A25, 0x0000000800000000, 0x00007F010000000C] := by
  decide +kernel

/-- The READ of DIE_COUNT and DIE_POWER_W on a die that draws 1093 W. -/
theorem test_read_example :
    (readItems { s0 with pwr := { s0.pwr with sensors := { s0.pwr.sensors with diePowerW := 1093 } }, boot := { s0.boot with state := 1 } }
      false 0 [(0x1000, 2), (0x2010, 4)]).1
    = [0x00, 0x10, 0x02, 0x00, 0x01, 0x00, 0x01, 0x00, 0x08, 0x00, 0x00, 0x00, 0x10, 0x20, 0x04, 0x00, 0x02, 0x00, 0x02, 0x00,
       0x45, 0x04, 0x00, 0x00] := by decide +kernel

/-! ### Ill-formed commands -/

theorem test_ill_formed_frames :
    (Instr.spanFrameReceive 0 ⟨0, 0, false, true, 0, 0, [{ sent0 with payload := List.replicate 4097 0 }]⟩).wf = false
    ∧ (Instr.spanFrameReceive 0 ⟨0, 0, false, true, 0, 0, List.replicate 4 { sent0 with payload := List.replicate 4096 0 }⟩).wf = false
    ∧ (Instr.ethFrameReceive (frame 0 (.roce 0 { roce .send with payload := List.replicate 4097 0 }))).wf = false := by decide +kernel
theorem test_ill_formed_operands :
    (Instr.linkTrainingComplete 0 ⟨true, 4, 1, 0, 0, [], 0⟩).wf = false ∧ (Instr.lineCheck 0 [(64, 0)]).wf = false
    ∧ (Instr.operatorKey 0 [] true true).wf = false ∧ (Instr.attestNonce []).wf = false ∧ (Instr.debugUnlock []).wf = false
    ∧ (Instr.startStageComplete ⟨[{ (default : BistReport) with cols := [1, 1] }], 0, 0, 0⟩).wf = false
    ∧ (Instr.startStageComplete ⟨[], 0, 0, 0⟩).wf = true := by decide +kernel

end Sys2Proof.Tests
end

section
/-! PROOFS. Chapter 3, conversion and rounding: SRSEED, SRSAVE and SRLOAD at the head of SQ, with their context free. -/

namespace Sys2Proof

open Machine Laws

/-! ### Issue of a scalar instruction that names a context -/

section
variable {f : FormeIx} {s : State} {e : QEntry}

/-- R128, R130, R352: the granted head of SQ whose context no flight claims issues, and its effect follows when its operands
read without error. -/
theorem scalarCtx_head_runs {op : Nat} {eff : State → State} (hu : unitsOn s = true) (hh : (s.forme f).q.sq.head? = some e)
    (hg : e.granted = true) (ho : e.op = op) (hc : ctxClaimed (s.forme f) (sword e.word).ctx = false) :
    onlyIf (headIs s f .sq op) s (runHead s f .sq (scalarCtx s f) none none eff)
      = .next (eff (issueHead s f .sq true none none)) := by
  have hfree : claimedBy (s.forme f) (scalarCtx s f) = false := by
    unfold scalarCtx
    rw [headOf_eq (q := .sq) hh]
    exact hc
  rw [headIs_of (q := .sq) hu hh hg ho, onlyIf_true, runHead_runs hfree]

theorem exec_srseed_head (hu : unitsOn s = true) (hh : (s.forme f).q.sq.head? = some e) (hg : e.granted = true)
    (ho : e.op = 0x75) (hc : ctxClaimed (s.forme f) (sword e.word).ctx = false) :
    exec (.srseed f) s = .next (srseedEffect f (sword e.word) (issueHead s f .sq true none none)) := by
  rw [show exec (.srseed f) s = execSrseed f s from rfl, execSrseed, scalarCtx_head_runs hu hh hg ho hc,
    headOf_eq (q := .sq) hh]

theorem exec_srsave_head (hu : unitsOn s = true) (hh : (s.forme f).q.sq.head? = some e) (hg : e.granted = true)
    (ho : e.op = 0x76) (hc : ctxClaimed (s.forme f) (sword e.word).ctx = false) :
    exec (.srsave f) s = .next (srsaveEffect f (sword e.word) (issueHead s f .sq true none none)) := by
  rw [show exec (.srsave f) s = execSrsave f s from rfl, execSrsave, scalarCtx_head_runs hu hh hg ho hc,
    headOf_eq (q := .sq) hh]

theorem exec_srload_head (hu : unitsOn s = true) (hh : (s.forme f).q.sq.head? = some e) (hg : e.granted = true)
    (ho : e.op = 0x77) (hc : ctxClaimed (s.forme f) (sword e.word).ctx = false)
    (hb : (s.forme f).galley.firstBad [((sword e.word).gaddr, 512)] = none) :
    exec (.srload f) s = .next (srloadEffect f (sword e.word) (issueHead s f .sq true none none)) := by
  have hread : galleyBad (s.forme f) f [((sword e.word).gaddr, 512)] = none := by rw [galleyBad, hb]; rfl
  rw [show exec (.srload f) s = execSrload f s from rfl, execSrload, headOf_eq (q := .sq) hh, hread,
    scalarCtx_head_runs hu hh hg ho hc]

end

/-! ### What the three effects read and write -/

/-- A change of the vector unit alone. -/
theorem fTouches_vu (fm : Forme) (v : VecUnit) : FTouches [.vu] fm { fm with vu := v } := by
  intro p hp
  cases p
  case vu => exact absurd (by decide) hp
  all_goals rfl

theorem ctxBytes_congr {a b : Forme} (h : b.vu = a.vu) (c : Fin 16) : ctxBytes b c = ctxBytes a c := by
  unfold ctxBytes; rw [h]

theorem savedLane_congr {a b : Forme} (h : b.galley = a.galley) (x l : Nat) : savedLane b x l = savedLane a x l := by
  unfold savedLane
  rw [show galleyRd b = galleyRd a from funext fun i => by unfold galleyRd; rw [h]]

section
variable {f : FormeIx} {s : State} {e : QEntry}

/-- R119: the 128 lanes take the states that the key gives them, and nothing else of the vector unit changes. -/
theorem srseed_seeds (hh : (s.forme f).q.sq.head? = some e) (w : SWord) :
    let fm := s.forme f
    let t := srseedEffect f w (issueHead s f .sq true none none)
    (t.forme f).vu = { fm.vu with sr := setLanes fm.vu.sr w.ctx (srSeed (BitVec.ofNat 32 w.val)) }
      ∧ LeavesHead f .sq true none none s t ∧ OnlyForme f [.q, .vu] s t ∧ Touches [.formes] s t := by
  intro fm t
  refine ⟨?_, issueHead_then (q := .sq) hh (fTouches_vu _ _) (by decide)⟩
  simp only [t, fm, srseedEffect, modForme_forme_same, issueHead_vu]

/-- R126: the lanes as they stood before the issue go into a canonical Galley. -/
theorem srsave_stores (hh : (s.forme f).q.sq.head? = some e) (w : SWord) (hw : (s.forme f).galley.wf = true)
    (ha : (s.forme f).test.arm = false) :
    let t := srsaveEffect f w (issueHead s f .sq true none none)
    GalleyStores f w.gaddr (ctxBytes (s.forme f) w.ctx) s t
      ∧ LeavesHead f .sq true none none s t ∧ OnlyForme f [.q, .galley] s t ∧ Touches [.formes] s t := by
  intro t
  let u := issueHead s f .sq true none none
  have ht : t = modForme u f (fun fm => galleyPutAll fm (placed w.gaddr (ctxBytes (s.forme f) w.ctx))) :=
    modForme_congr (by rw [ctxBytes_congr (issueHead_vu s f .sq true none none)])
  obtain ⟨hstore, honly, hq, htouch⟩ :=
    issueHead_stores .sq true none none w.gaddr (ctxBytes (s.forme f) w.ctx) hw ha
  rw [ht]
  exact ⟨hstore, LeavesHead.keep (issueHead_leaves (q := .sq) true none none hh) hq, honly, htouch⟩

/-- R126, R127: the 128 lanes take the states that the Galley holds, 1 for a zero, which SRZERO records. -/
theorem srload_loads (hh : (s.forme f).q.sq.head? = some e) (w : SWord) :
    let fm := s.forme f
    let t := srloadEffect f w (issueHead s f .sq true none none)
    (t.forme f).vu = { fm.vu with
        sr := setLanes fm.vu.sr w.ctx (fun l => if savedLane fm w.gaddr l = 0 then 1 else savedLane fm w.gaddr l)
        cvt := { fm.vu.cvt with srzero := fm.vu.cvt.srzero || (List.range 128).any (fun l => decide (savedLane fm w.gaddr l = 0)) } }
      ∧ LeavesHead f .sq true none none s t ∧ OnlyForme f [.q, .vu] s t ∧ Touches [.formes] s t := by
  intro fm t
  refine ⟨?_, issueHead_then (q := .sq) hh (fTouches_vu _ _) (by decide)⟩
  simp only [t, fm, srloadEffect, modForme_forme_same, issueHead_vu,
    savedLane_congr (issueHead_galley s f .sq true none none)]

end

/-- Settles O16: each of the three issues and then takes its effect; the issue changes neither the lanes nor the Galley that the
effect reads. -/
theorem roundingContextsSeedSaveLoad : Obligations.RoundingContextsSeedSaveLoad := by
  intro f s e w fm hu hh hg hc
  refine ⟨fun ho => ?seed, fun ho hm ha => ?save, fun ho hb => ?load⟩
  case seed => exact ⟨_, exec_srseed_head hu hh hg ho hc, srseed_seeds hh w⟩
  case save =>
    obtain ⟨hformes, _⟩ := hm
    obtain ⟨hgalley, _⟩ := hformes f
    exact ⟨_, exec_srsave_head hu hh hg ho hc, srsave_stores hh w hgalley ha⟩
  case load => exact ⟨_, exec_srload_head hu hh hg ho hc hb, srload_loads hh w⟩

end Sys2Proof
end

section
/-! PROOFS. Chapter 8, programs of a Forme: dispatch of an instruction whose fetch and checks pass, and its stall at a full
queue. -/

namespace Sys2Proof

open Machine Laws

/-! ### Dispatch of an instruction that passes its checks -/

/-- A change of the front end alone. -/
theorem fTouches_fe (fm : Forme) (v : FrontEnd) : FTouches [.fe] fm { fm with fe := v } := by
  intro p hp
  cases p
  case fe => exact absurd (by decide) hp
  all_goals rfl

section
variable {f : FormeIx} {s : State}

/-- R349, R350: the front end of a running Forme with instructions left takes the next one. -/
theorem exec_instructionDispatch_ready (hu : unitsOn s = true) (hr : (s.forme f).fe.state = .run)
    (hn : (s.forme f).fe.next < (s.forme f).fe.length) :
    exec (.instructionDispatch f) s = .next (dispatchNext s f) := by
  have hready : dispatchReady s f = true := by simp [dispatchReady, hu, hr, hn]
  rw [show exec (.instructionDispatch f) s = execInstructionDispatch f s from rfl, execInstructionDispatch, hready,
    onlyIf_true]

/-- R351: an instruction that passes its checks while its queue is full stays where it is, and the front end notes the queue. -/
theorem dispatchNext_full (hg : gddrRange s.gddr (nextWordAddr (s.forme f)) 16 = true) (hl : fetchLost s f = none)
    (hc : checkFails s f (fetchNext s f) = none)
    (hq : queueDepth (queueOf (wfield (fetchNext s f).word 0 8))
      ≤ ((s.forme f).q.get (queueOf (wfield (fetchNext s f).word 0 8))).length) :
    dispatchNext s f = modForme s f (fun fm =>
      { fm with fe := { fm.fe with stall := queueCode (queueOf (wfield (fetchNext s f).word 0 8)) } }) := by
  rw [dispatchNext, hg, hl]
  dsimp only
  rw [hc, Bool.not_true, if_neg Bool.false_ne_true]
  exact if_neg (Nat.not_lt.mpr hq)

end

/-- Settles O8: at a full queue the dispatch changes STALL of the front end and nothing else, so no queue takes an instruction. -/
theorem fullQueueStallsDispatch : Obligations.FullQueueStallsDispatch := by
  intro f s fm x q hu hr hn hg hl hc hq
  refine ⟨_, (exec_instructionDispatch_ready hu hr hn).trans (congrArg _ (dispatchNext_full hg hl hc hq)), ?_, ?_, ?_⟩
  · rw [modForme_forme_same]
  · exact OnlyForme.mod s f _ (fTouches_fe _ _)
  · exact modForme_touches s f _

end Sys2Proof
end

section
/-! PROOFS. Chapter 9, the instruction reference: the record of TMARK and the status words that TSSAVE stores and TSLOAD
loads. -/

namespace Sys2Proof

open Machine Laws

/-! ### A head that issues and stores bytes in the Galley -/

/-- R352: a head that names no context issues, and its bytes go into a canonical Galley with no flip armed. -/
theorem issueHead_stores_leaves {s : State} {f : FormeIx} {q : Queue} {e : QEntry} (a : Nat) (bs : List Byte)
    (hh : ((s.forme f).q.get q).head? = some e) (hw : (s.forme f).galley.wf = true) (ha : (s.forme f).test.arm = false) :
    let t := modForme (issueHead s f q true none none) f (fun fm => galleyPutAll fm (placed a bs))
    GalleyStores f a bs s t ∧ LeavesHead f q true none none s t ∧ OnlyForme f [.q, .galley] s t ∧ Touches [.formes] s t := by
  intro t
  obtain ⟨hstore, honly, hq, htouch⟩ := issueHead_stores q true none none a bs hw ha
  exact ⟨hstore, LeavesHead.keep (issueHead_leaves true none none hh) hq, honly, htouch⟩

theorem galley_wf_of_memOk {s : State} (hm : MemOk s) (f : FormeIx) : (s.forme f).galley.wf = true := by
  obtain ⟨hformes, _⟩ := hm
  obtain ⟨hgalley, _⟩ := hformes f
  exact hgalley

/-! ### TMARK (R426) -/

theorem exec_tmark_head {f : FormeIx} {s : State} {e : QEntry} (hu : unitsOn s = true)
    (hh : (s.forme f).q.sq.head? = some e) (hg : e.granted = true) (ho : e.op = 0x72) :
    exec (.tmark f) s = .next (tmarkEffect f (sword e.word) (issueHead s f .sq true none none)) := by
  rw [show exec (.tmark f) s = execTmark f s from rfl, execTmark, headIs_of (q := .sq) hu hh hg ho, onlyIf_true,
    runHead_plain, headOf_eq (q := .sq) hh]

/-- The issue of a head changes neither the timebase nor FOLIO_ID, so the record is that of the state before it. -/
theorem markBytes_issueHead (s : State) (f : FormeIx) (q : Queue) (mark : Nat) :
    markBytes (issueHead s f q true none none) f mark = markBytes s f mark := by
  have htb : (issueHead s f q true none none).tb = s.tb := issueHead_touches s f q true none none .tb (by decide)
  rw [markBytes, markBytes, htb, issueHead_fe]

/-- Settles O14: TMARK issues and then stores its record, which the issue leaves as it was. -/
theorem tmarkWritesItsRecord : Obligations.TmarkWritesItsRecord := by
  intro f s e hm hu hh hg ho ha
  refine ⟨_, exec_tmark_head hu hh hg ho, ?_⟩
  rw [tmarkEffect, markBytes_issueHead]
  exact issueHead_stores_leaves (q := .sq) _ _ hh (galley_wf_of_memOk hm f) ha

/-! ### TSSAVE and TSLOAD (R417, R418) -/

/-- A status instruction that may run stands at the head of VQ. -/
theorem statusReady_head {s : State} {f : FormeIx} {op : Nat} (h : statusReady s f op = true) :
    ∃ e, ((s.forme f).q.get .vq).head? = some e := by
  simp only [statusReady, Bool.and_eq_true] at h
  obtain ⟨⟨hhead, _⟩, _⟩ := h
  obtain ⟨e, rest, hl, _⟩ := head_of_headIs hhead
  exact ⟨e, by rw [hl]; rfl⟩

theorem exec_tssave_ready {f : FormeIx} {s : State} (h : statusReady s f 0x31 = true) :
    exec (.tssave f) s = .next (tssaveEffect f (headStatus s f) (issueHead s f .vq true none none)) := by
  rw [show exec (.tssave f) s = execTssave f s from rfl, execTssave, h, onlyIf_true, runHead_plain]

theorem exec_tsload_ready {f : FormeIx} {s : State} (h : statusReady s f 0x32 = true) (hb : tsloadBad s f = none) :
    exec (.tsload f) s = .next (tsloadEffect f (headStatus s f) (issueHead s f .vq true none none)) := by
  rw [show exec (.tsload f) s = execTsload f s from rfl, execTsload, h, onlyIf_true, hb, runHead_plain]

theorem tileWord_congr {a b : Forme} (h : b.pu = a.pu) (i : Nat) : tileWord b i = tileWord a i := by
  unfold tileWord; rw [h]

theorem galleyRd_congr {a b : Forme} (h : b.galley = a.galley) : galleyRd b = galleyRd a :=
  funext fun i => by unfold galleyRd; rw [h]

/-- A change of the Press unit alone. -/
theorem fTouches_pu (fm : Forme) (v : PressUnit) : FTouches [.pu] fm { fm with pu := v } := by
  intro p hp
  cases p
  case pu => exact absurd (by decide) hp
  all_goals rfl

/-- R417: the status words as they stood before the issue go into a canonical Galley. -/
theorem tssave_stores {f : FormeIx} {s : State} {e : QEntry} (w : TWord) (hh : ((s.forme f).q.get .vq).head? = some e)
    (hw : (s.forme f).galley.wf = true) (ha : (s.forme f).test.arm = false) :
    let t := tssaveEffect f w (issueHead s f .vq true none none)
    GalleyStores f w.gaddr ((w.slots.map (fun i => leBytes 8 (tileWord (s.forme f) i).toNat)).flatten) s t
      ∧ LeavesHead f .vq true none none s t ∧ OnlyForme f [.q, .galley] s t ∧ Touches [.formes] s t := by
  intro t
  have hwords : ∀ i, tileWord ((issueHead s f .vq true none none).forme f) i = tileWord (s.forme f) i :=
    tileWord_congr (issueHead_pu s f .vq true none none)
  simp only [t, tssaveEffect, galleyWrite, hwords]
  exact issueHead_stores_leaves w.gaddr _ hh hw ha

/-- Status words that depend on the Galley only: setting one leaves the Galley that the next one comes from. -/
theorem foldl_setTileWord (v : (Nat → Byte) → Nat → Word) (slots : List Nat) (fm : Forme) :
    slots.foldl (fun a i => setTileWord a i (v (galleyRd a) i)) fm
      = { fm with pu := { fm.pu with
          tiles := slots.foldl (fun x i => tset (fun _ => 0) x i (v (galleyRd fm) i)) fm.pu.tiles } } := by
  induction slots generalizing fm with
  | nil => rfl
  | cons i slots ih =>
    rw [List.foldl_cons, List.foldl_cons, ih, galleyRd_congr (a := fm) rfl]
    rfl

/-- R418: the slots take the words that the Galley holds, and nothing else of the Press unit changes. -/
theorem tsload_loads {f : FormeIx} {s : State} {e : QEntry} (w : TWord) (hh : ((s.forme f).q.get .vq).head? = some e) :
    let fm := s.forme f
    let t := tsloadEffect f w (issueHead s f .vq true none none)
    (t.forme f).pu = { fm.pu with tiles := w.slots.foldl (fun x i => tset (fun _ => 0) x i
        (loadedWord i (BitVec.ofNat 64 (readLe (galleyRd fm) (w.gaddr + 8 * (i - w.first)) 8)))) fm.pu.tiles }
      ∧ LeavesHead f .vq true none none s t ∧ OnlyForme f [.q, .pu] s t ∧ Touches [.formes] s t := by
  intro fm t
  have hfold := foldl_setTileWord
    (fun rd i => loadedWord i (BitVec.ofNat 64 (readLe rd (w.gaddr + 8 * (i - w.first)) 8))) w.slots
  refine ⟨?_, issueHead_then hh ?_ (by decide)⟩
  · simp only [t, fm, tsloadEffect, modForme_forme_same, hfold, issueHead_pu,
      galleyRd_congr (issueHead_galley s f .vq true none none)]
  · rw [hfold]
    exact fTouches_pu _ _

/-- Settles O34: each of the two issues and then takes its effect; the issue changes neither the status words that TSSAVE stores
nor the Galley that TSLOAD reads. -/
theorem statusWordsSaveAndLoad : Obligations.StatusWordsSaveAndLoad := by
  intro f s fm h
  refine ⟨fun hm hready ha => ?save, fun hready hb => ?load⟩
  case save =>
    obtain ⟨e, hh⟩ := statusReady_head hready
    exact ⟨_, exec_tssave_ready hready, tssave_stores h hh (galley_wf_of_memOk hm f) ha⟩
  case load =>
    obtain ⟨e, hh⟩ := statusReady_head hready
    have hread : tsloadBad s f = none := by
      rw [tsloadBad, galleyBad, hb]
      rfl
    exact ⟨_, exec_tsload_ready hready hread, tsload_loads h hh⟩

end Sys2Proof
end

section
/-! PROOFS. What every command and every step keep (spec/95): the build, the die's place and the waiting commands, and the
canonical form of the memories. -/

namespace Sys2Proof

open Machine Laws

/-! ### Identity and queue (R1, R13) -/

/-- The components that a command may change: all but the build, the die's place in its module and the waiting commands. -/
def commandParts : List Part :=
  [.free, .out, .tb, .formes, .gddr, .tbl, .proof, .imp, .bars, .log, .span, .coll, .abut, .cores, .svc, .fault, .check, .colo,
    .boot, .flash, .upd, .sec, .pwr]

theorem exec_touches {s t : State} : ∀ c, exec c s = .next t → Touches commandParts s t
  | .instructionDispatch _, h => (execInstructionDispatch_touch h).mono (by decide)
  | .folioAbortDone _, h => (execFolioAbortDone_touch h).mono (by decide)
  | .waitGrant _ _, h => (execWaitGrant_touch h).mono (by decide)
  | .waitTimeout _ _, h => (execWaitTimeout_touch h).mono (by decide)
  | .instructionComplete _ _, h => (execInstructionComplete_touch h).mono (by decide)
  | .ccopy _ _, h => (execCcopy_touch h).mono (by decide)
  | .copyComplete _ _, h => (execCopyComplete_touch h).mono (by decide)
  | .pacc _, h => (execPacc_touch h).mono (by decide)
  | .windowSwap _ _, h => (execWindowSwap_touch h).mono (by decide)
  | .accumulateComplete _, h => (execAccumulateComplete_touch h).mono (by decide)
  | .drain _, h => (execDrain_touch h).mono (by decide)
  | .tssave _, h => (execTssave_touch h).mono (by decide)
  | .tsload _, h => (execTsload_touch h).mono (by decide)
  | .vadd _, h => (execVadd_touch h).mono (by decide)
  | .vsub _, h => (execVsub_touch h).mono (by decide)
  | .vmul _, h => (execVmul_touch h).mono (by decide)
  | .vfma _, h => (execVfma_touch h).mono (by decide)
  | .vmin _, h => (execVmin_touch h).mono (by decide)
  | .vmax _, h => (execVmax_touch h).mono (by decide)
  | .vabs _, h => (execVabs_touch h).mono (by decide)
  | .vneg _, h => (execVneg_touch h).mono (by decide)
  | .vcmp _, h => (execVcmp_touch h).mono (by decide)
  | .vsel _, h => (execVsel_touch h).mono (by decide)
  | .vcvt _, h => (execVcvt_touch h).mono (by decide)
  | .vqclr _, h => (execVqclr_touch h).mono (by decide)
  | .vqmac _, h => (execVqmac_touch h).mono (by decide)
  | .vqadd _, h => (execVqadd_touch h).mono (by decide)
  | .vqsub _, h => (execVqsub_touch h).mono (by decide)
  | .vqrnd _, h => (execVqrnd_touch h).mono (by decide)
  | .vqred _, h => (execVqred_touch h).mono (by decide)
  | .vqsave _, h => (execVqsave_touch h).mono (by decide)
  | .vqload _, h => (execVqload_touch h).mono (by decide)
  | .vrms _, h => (execVrms_touch h).mono (by decide)
  | .vtopk _, h => (execVtopk_touch h).mono (by decide)
  | .vscale _, h => (execVscale_touch h).mono (by decide)
  | .vsmooth _, h => (execVsmooth_touch h).mono (by decide)
  | .func _, h => (execFunc_touch h).mono (by decide)
  | .ftload _, h => (execFtload_touch h).mono (by decide)
  | .ftloadTransferStart _, h => (execFtloadTransferStart_touch h).mono (by decide)
  | .ftloadComplete _, h => (execFtloadComplete_touch h).mono (by decide)
  | .tsig _, h => (execTsig_touch h).mono (by decide)
  | .twait _, h => (execTwait_touch h).mono (by decide)
  | .tmark _, h => (execTmark_touch h).mono (by decide)
  | .ttime _, h => (execTtime_touch h).mono (by decide)
  | .scalepush _, h => (execScalepush_touch h).mono (by decide)
  | .srseed _, h => (execSrseed_touch h).mono (by decide)
  | .srsave _, h => (execSrsave_touch h).mono (by decide)
  | .srload _, h => (execSrload_touch h).mono (by decide)
  | .start, h => (execStart_touch h).mono (by decide)
  | .pause, h => (execPause_touch h).mono (by decide)
  | .save, h => (execSave_touch h).mono (by decide)
  | .resume, h => (execResume_touch h).mono (by decide)
  | .continueFolio, h => (execContinueFolio_touch h).mono (by decide)
  | .discard, h => (execDiscard_touch h).mono (by decide)
  | .folioStart, h => (execFolioStart_touch h).mono (by decide)
  | .folioComplete _ _, h => (execFolioComplete_touch h).mono (by decide)
  | .folioPaused _, h => (execFolioPaused_touch h).mono (by decide)
  | .saveComplete _, h => (execSaveComplete_touch h).mono (by decide)
  | .imposerCmdRing _, h => (execImposerCmdRing_touch h).mono (by decide)
  | .imposerEvtRing _, h => (execImposerEvtRing_touch h).mono (by decide)
  | .imposerCmdDoorbell _, h => (execImposerCmdDoorbell_touch h).mono (by decide)
  | .imposerEvtDoorbell _, h => (execImposerEvtDoorbell_touch h).mono (by decide)
  | .controlInterval _, h => (execControlInterval_touch h).mono (by decide)
  | .currentLimit, h => (execCurrentLimit_touch h).mono (by decide)
  | .currentLimitEnd, h => (execCurrentLimitEnd_touch h).mono (by decide)
  | .thermalSample _ _, h => (execThermalSample_touch h).mono (by decide)
  | .stepClose _, h => (execStepClose_touch h).mono (by decide)
  | .closeStep, h => (execCloseStep_touch h).mono (by decide)
  | .proofAlarmRead, h => (execProofAlarmRead_touch h).mono (by decide)
  | .wclr _, h => (execWclr_touch h).mono (by decide)
  | .accEventsRead _, h => (execAccEventsRead_touch h).mono (by decide)
  | .spanLinkRead _, h => (execSpanLinkRead_touch h).mono (by decide)
  | .pressRetire _ _, h => (execPressRetire_touch h).mono (by decide)
  | .bankRetire _ _, h => (execBankRetire_touch h).mono (by decide)
  | .registerWrite _ _, h => (execRegisterWrite_touch h).mono (by decide)
  | .extRetireGo _, h => (execExtRetireGo_touch h).mono (by decide)
  | .extMigrationComplete, h => (execExtMigrationComplete_touch h).mono (by decide)
  | .channelRetrain _, h => (execChannelRetrain_touch h).mono (by decide)
  | .retrainTimer _, h => (execRetrainTimer_touch h).mono (by decide)
  | .refresh ch b, h => (execRefresh_touch (_ch := ch) (_bank := b) h).mono (by decide)
  | .timebaseMeasure _ _ _, h => (execTimebaseMeasure_touch h).mono (by decide)
  | .keystoneArrive _ _, h => (execKeystoneArrive_touch h).mono (by decide)
  | .cancel _ _, h => (execCancel_touch h).mono (by decide)
  | .keystoneRelease _, h => (execKeystoneRelease_touch h).mono (by decide)
  | .keystoneTimeout _, h => (execKeystoneTimeout_touch h).mono (by decide)
  | .arrivalExpiry _ _, h => (execArrivalExpiry_touch h).mono (by decide)
  | .impressionAppend _, h => (execImpressionAppend_touch h).mono (by decide)
  | .spanFrameReceive _ _, h => (execSpanFrameReceive_touch h).mono (by decide)
  | .linkRetrain _, h => (execLinkRetrain_touch h).mono (by decide)
  | .linkTrainingComplete _ _, h => (execLinkTrainingComplete_touch h).mono (by decide)
  | .linkDown _, h => (execLinkDown_touch h).mono (by decide)
  | .linkHold _ _, h => (execLinkHold_touch h).mono (by decide)
  | .routeEntryWrite _ _, h => (execRouteEntryWrite_touch h).mono (by decide)
  | .spanWrite _, h => (execSpanWrite_touch h).mono (by decide)
  | .spanReadReq _, h => (execSpanReadReq_touch h).mono (by decide)
  | .spanReadResp _, h => (execSpanReadResp_touch h).mono (by decide)
  | .spanAck _, h => (execSpanAck_touch h).mono (by decide)
  | .spanNack _, h => (execSpanNack_touch h).mono (by decide)
  | .keystone _, h => (execKeystone_touch h).mono (by decide)
  | .ethfwd _, h => (execEthfwd_touch h).mono (by decide)
  | .collGo _ _, h => (execCollGo_touch h).mono (by decide)
  | .collAnnouncement _, h => (execCollAnnouncement_touch h).mono (by decide)
  | .collData _, h => (execCollData_touch h).mono (by decide)
  | .announceRepeat _ _, h => (execAnnounceRepeat_touch h).mono (by decide)
  | .collComplete _, h => (execCollComplete_touch h).mono (by decide)
  | .collTimeout _, h => (execCollTimeout_touch h).mono (by decide)
  | .ethFrameReceive _, h => (execEthFrameReceive_touch h).mono (by decide)
  | .abutLinkChange _, h => (execAbutLinkChange_touch h).mono (by decide)
  | .forwardGraceEnd _, h => (execForwardGraceEnd_touch h).mono (by decide)
  | .roceSendIn, h => (execRoceSendIn_touch h).mono (by decide)
  | .roceWriteIn, h => (execRoceWriteIn_touch h).mono (by decide)
  | .roceReadIn, h => (execRoceReadIn_touch h).mono (by decide)
  | .roceResponseIn, h => (execRoceResponseIn_touch h).mono (by decide)
  | .cnpIn, h => (execCnpIn_touch h).mono (by decide)
  | .ccTimer _, h => (execCcTimer_touch h).mono (by decide)
  | .ackTimeout _, h => (execAckTimeout_touch h).mono (by decide)
  | .rnrTimer _, h => (execRnrTimer_touch h).mono (by decide)
  | .ingressDrain, h => (execIngressDrain_touch h).mono (by decide)
  | .qpStateCmd _, h => (execQpStateCmd_touch h).mono (by decide)
  | .cqStateCmd _, h => (execCqStateCmd_touch h).mono (by decide)
  | .srqStateCmd _, h => (execSrqStateCmd_touch h).mono (by decide)
  | .sqDoorbell _, h => (execSqDoorbell_touch h).mono (by decide)
  | .rqDoorbell _, h => (execRqDoorbell_touch h).mono (by decide)
  | .srqDoorbell _, h => (execSrqDoorbell_touch h).mono (by decide)
  | .cqDoorbell _, h => (execCqDoorbell_touch h).mono (by decide)
  | .send _, h => (execSend_touch h).mono (by decide)
  | .sendImm _, h => (execSendImm_touch h).mono (by decide)
  | .write _, h => (execWrite_touch h).mono (by decide)
  | .writeImm _, h => (execWriteImm_touch h).mono (by decide)
  | .read _, h => (execRead_touch h).mono (by decide)
  | .raw, h => (execRaw_touch h).mono (by decide)
  | .svcStart _, h => (execSvcStart_touch h).mono (by decide)
  | .svcStop _, h => (execSvcStop_touch h).mono (by decide)
  | .svcLoadComplete _ _, h => (execSvcLoadComplete_touch h).mono (by decide)
  | .svcDrainComplete _, h => (execSvcDrainComplete_touch h).mono (by decide)
  | .batchDeadline _, h => (execBatchDeadline_touch h).mono (by decide)
  | .cadenceInstanceStart _, h => (execCadenceInstanceStart_touch h).mono (by decide)
  | .mirrorValues _ _ _ _, h => (execMirrorValues_touch h).mono (by decide)
  | .mirrorWaitExpiry _ _, h => (execMirrorWaitExpiry_touch h).mono (by decide)
  | .lineCheck _ _, h => (execLineCheck_touch h).mono (by decide)
  | .formeRetire _ _, h => (execFormeRetire_touch h).mono (by decide)
  | .bucketLeak _, h => (execBucketLeak_touch h).mono (by decide)
  | .ack _, h => (execAck_touch h).mono (by decide)
  | .splitWrite _ _, h => (execSplitWrite_touch h).mono (by decide)
  | .splitRead _ _, h => (execSplitRead_touch h).mono (by decide)
  | .galleyFlip _ _, h => (execGalleyFlip_touch h).mono (by decide)
  | .fenceReq _, h => (execFenceReq_touch h).mono (by decide)
  | .peerFenced _ _, h => (execPeerFenced_touch h).mono (by decide)
  | .checkGo _, h => (execCheckGo_touch h).mono (by decide)
  | .checkComplete, h => (execCheckComplete_touch h).mono (by decide)
  | .colophonRead _, h => (execColophonRead_touch h).mono (by decide)
  | .colophonWrite _, h => (execColophonWrite_touch h).mono (by decide)
  | .readBlock _, h => (execReadBlock_touch h).mono (by decide)
  | .writeBlock _, h => (execWriteBlock_touch h).mono (by decide)
  | .notify _, h => (execNotify_touch h).mono (by decide)
  | .sessionOpen _, h => (execSessionOpen_touch h).mono (by decide)
  | .sessionConfirmTimeout _, h => (execSessionConfirmTimeout_touch h).mono (by decide)
  | .sessionIdleEnd _, h => (execSessionIdleEnd_touch h).mono (by decide)
  | .sessionClose _, h => (execSessionClose_touch h).mono (by decide)
  | .responseKeptExpiry, h => (execResponseKeptExpiry_touch h).mono (by decide)
  | .notifyRetry, h => (execNotifyRetry_touch h).mono (by decide)
  | .notifyLeaseEnd, h => (execNotifyLeaseEnd_touch h).mono (by decide)
  | .configSave _, h => (execConfigSave_touch h).mono (by decide)
  | .operatorKey _ _ _ _, h => (execOperatorKey_touch h).mono (by decide)
  | .dieIdBase _, h => (execDieIdBase_touch h).mono (by decide)
  | .dieRestart _, h => (execDieRestart_touch h).mono (by decide)
  | .attestNonce _, h => (execAttestNonce_touch h).mono (by decide)
  | .debugUnlock _, h => (execDebugUnlock_touch h).mono (by decide)
  | .returnPrep _, h => (execReturnPrep_touch h).mono (by decide)
  | .alarmClear _, h => (execAlarmClear_touch h).mono (by decide)
  | .begin, h => (execBegin_touch h).mono (by decide)
  | .verify, h => (execVerify_touch h).mono (by decide)
  | .activate, h => (execActivate_touch h).mono (by decide)
  | .commit, h => (execCommit_touch h).mono (by decide)
  | .abandon, h => (execAbandon_touch h).mono (by decide)
  | .dieReset _, h => (execDieReset_touch h).mono (by decide)
  | .startStageComplete _, h => (execStartStageComplete_touch h).mono (by decide)
  | .stageFail, h => (execStageFail_touch h).mono (by decide)
  | .spanStageEnd, h => (execSpanStageEnd_touch h).mono (by decide)
  | .powerQualified, h => (execPowerQualified_touch h).mono (by decide)
  | .railSequenceStep, h => (execRailSequenceStep_touch h).mono (by decide)
  | .powerLoss, h => (execPowerLoss_touch h).mono (by decide)
  | .overvoltage, h => (execOvervoltage_touch h).mono (by decide)
  | .inputStateChange _, h => (execInputStateChange_touch h).mono (by decide)
  | .railFault _, h => (execRailFault_touch h).mono (by decide)
  | .securityAlarm _, h => (execSecurityAlarm_touch h).mono (by decide)
  | .enclOpen _, h => (execEnclOpen_touch h).mono (by decide)
  | .debugPortInstruction _ _, h => (execDebugPortInstruction_touch h).mono (by decide)
  | .spanCableChange _ _, h => (execSpanCableChange_touch h).mono (by decide)
  | .sensorSample _, h => (execSensorSample_touch h).mono (by decide)
  | .channelRetrainFinish _ _, h => (execChannelRetrainFinish_touch h).mono (by decide)
  | .trainingSignalDetected _, h => (execTrainingSignalDetected_touch h).mono (by decide)
  | .coreAccess _ _ _ _ _ _, h => (execCoreAccess_touch h).mono (by decide)
  | .configSaveDone, h => (execConfigSaveDone_touch h).mono (by decide)

/-- Settles O3: the frame of every command leaves these three components out. -/
theorem commandsKeepIdentityAndQueue : Obligations.CommandsKeepIdentityAndQueue := by
  intro c s t h
  have hc := exec_touches c h
  exact ⟨hc .build (by decide), hc .dieIndex (by decide), hc .pending (by decide)⟩

/-! ### Canonical memories (log 5) -/

theorem exec_memOk {s t : State} (hm : MemOk s) : ∀ c, exec c s = .next t → MemOk t
  | .instructionDispatch _, h => execInstructionDispatch_mem h hm
  | .folioAbortDone _, h => execFolioAbortDone_mem h hm
  | .waitGrant _ _, h => execWaitGrant_mem h hm
  | .waitTimeout _ _, h => execWaitTimeout_mem h hm
  | .instructionComplete _ _, h => execInstructionComplete_mem h hm
  | .ccopy _ _, h => execCcopy_mem h hm
  | .copyComplete _ _, h => execCopyComplete_mem h hm
  | .pacc _, h => execPacc_mem h hm
  | .windowSwap _ _, h => execWindowSwap_mem h hm
  | .accumulateComplete _, h => execAccumulateComplete_mem h hm
  | .drain _, h => execDrain_mem h hm
  | .tssave _, h => execTssave_mem h hm
  | .tsload _, h => execTsload_mem h hm
  | .vadd _, h => execVadd_mem h hm
  | .vsub _, h => execVsub_mem h hm
  | .vmul _, h => execVmul_mem h hm
  | .vfma _, h => execVfma_mem h hm
  | .vmin _, h => execVmin_mem h hm
  | .vmax _, h => execVmax_mem h hm
  | .vabs _, h => execVabs_mem h hm
  | .vneg _, h => execVneg_mem h hm
  | .vcmp _, h => execVcmp_mem h hm
  | .vsel _, h => execVsel_mem h hm
  | .vcvt _, h => execVcvt_mem h hm
  | .vqclr _, h => execVqclr_mem h hm
  | .vqmac _, h => execVqmac_mem h hm
  | .vqadd _, h => execVqadd_mem h hm
  | .vqsub _, h => execVqsub_mem h hm
  | .vqrnd _, h => execVqrnd_mem h hm
  | .vqred _, h => execVqred_mem h hm
  | .vqsave _, h => execVqsave_mem h hm
  | .vqload _, h => execVqload_mem h hm
  | .vrms _, h => execVrms_mem h hm
  | .vtopk _, h => execVtopk_mem h hm
  | .vscale _, h => execVscale_mem h hm
  | .vsmooth _, h => execVsmooth_mem h hm
  | .func _, h => execFunc_mem h hm
  | .ftload _, h => execFtload_mem h hm
  | .ftloadTransferStart _, h => execFtloadTransferStart_mem h hm
  | .ftloadComplete _, h => execFtloadComplete_mem h hm
  | .tsig _, h => execTsig_mem h hm
  | .twait _, h => execTwait_mem h hm
  | .tmark _, h => execTmark_mem h hm
  | .ttime _, h => execTtime_mem h hm
  | .scalepush _, h => execScalepush_mem h hm
  | .srseed _, h => execSrseed_mem h hm
  | .srsave _, h => execSrsave_mem h hm
  | .srload _, h => execSrload_mem h hm
  | .start, h => execStart_mem h hm
  | .pause, h => execPause_mem h hm
  | .save, h => execSave_mem h hm
  | .resume, h => execResume_mem h hm
  | .continueFolio, h => execContinueFolio_mem h hm
  | .discard, h => execDiscard_mem h hm
  | .folioStart, h => execFolioStart_mem h hm
  | .folioComplete _ _, h => execFolioComplete_mem h hm
  | .folioPaused _, h => execFolioPaused_mem h hm
  | .saveComplete _, h => execSaveComplete_mem h hm
  | .imposerCmdRing _, h => execImposerCmdRing_mem h hm
  | .imposerEvtRing _, h => execImposerEvtRing_mem h hm
  | .imposerCmdDoorbell _, h => execImposerCmdDoorbell_mem h hm
  | .imposerEvtDoorbell _, h => execImposerEvtDoorbell_mem h hm
  | .controlInterval _, h => execControlInterval_mem h hm
  | .currentLimit, h => execCurrentLimit_mem h hm
  | .currentLimitEnd, h => execCurrentLimitEnd_mem h hm
  | .thermalSample _ _, h => execThermalSample_mem h hm
  | .stepClose _, h => execStepClose_mem h hm
  | .closeStep, h => execCloseStep_mem h hm
  | .proofAlarmRead, h => execProofAlarmRead_mem h hm
  | .wclr _, h => execWclr_mem h hm
  | .accEventsRead _, h => execAccEventsRead_mem h hm
  | .spanLinkRead _, h => execSpanLinkRead_mem h hm
  | .pressRetire _ _, h => execPressRetire_mem h hm
  | .bankRetire _ _, h => execBankRetire_mem h hm
  | .registerWrite _ _, h => execRegisterWrite_mem h hm
  | .extRetireGo _, h => execExtRetireGo_mem h hm
  | .extMigrationComplete, h => execExtMigrationComplete_mem h hm
  | .channelRetrain _, h => execChannelRetrain_mem h hm
  | .retrainTimer _, h => execRetrainTimer_mem h hm
  | .refresh ch b, h => execRefresh_mem (_ch := ch) (_bank := b) h hm
  | .timebaseMeasure _ _ _, h => execTimebaseMeasure_mem h hm
  | .keystoneArrive _ _, h => execKeystoneArrive_mem h hm
  | .cancel _ _, h => execCancel_mem h hm
  | .keystoneRelease _, h => execKeystoneRelease_mem h hm
  | .keystoneTimeout _, h => execKeystoneTimeout_mem h hm
  | .arrivalExpiry _ _, h => execArrivalExpiry_mem h hm
  | .impressionAppend _, h => execImpressionAppend_mem h hm
  | .spanFrameReceive _ _, h => execSpanFrameReceive_mem h hm
  | .linkRetrain _, h => execLinkRetrain_mem h hm
  | .linkTrainingComplete _ _, h => execLinkTrainingComplete_mem h hm
  | .linkDown _, h => execLinkDown_mem h hm
  | .linkHold _ _, h => execLinkHold_mem h hm
  | .routeEntryWrite _ _, h => execRouteEntryWrite_mem h hm
  | .spanWrite _, h => execSpanWrite_mem h hm
  | .spanReadReq _, h => execSpanReadReq_mem h hm
  | .spanReadResp _, h => execSpanReadResp_mem h hm
  | .spanAck _, h => execSpanAck_mem h hm
  | .spanNack _, h => execSpanNack_mem h hm
  | .keystone _, h => execKeystone_mem h hm
  | .ethfwd _, h => execEthfwd_mem h hm
  | .collGo _ _, h => execCollGo_mem h hm
  | .collAnnouncement _, h => execCollAnnouncement_mem h hm
  | .collData _, h => execCollData_mem h hm
  | .announceRepeat _ _, h => execAnnounceRepeat_mem h hm
  | .collComplete _, h => execCollComplete_mem h hm
  | .collTimeout _, h => execCollTimeout_mem h hm
  | .ethFrameReceive _, h => execEthFrameReceive_mem h hm
  | .abutLinkChange _, h => execAbutLinkChange_mem h hm
  | .forwardGraceEnd _, h => execForwardGraceEnd_mem h hm
  | .roceSendIn, h => execRoceSendIn_mem h hm
  | .roceWriteIn, h => execRoceWriteIn_mem h hm
  | .roceReadIn, h => execRoceReadIn_mem h hm
  | .roceResponseIn, h => execRoceResponseIn_mem h hm
  | .cnpIn, h => execCnpIn_mem h hm
  | .ccTimer _, h => execCcTimer_mem h hm
  | .ackTimeout _, h => execAckTimeout_mem h hm
  | .rnrTimer _, h => execRnrTimer_mem h hm
  | .ingressDrain, h => execIngressDrain_mem h hm
  | .qpStateCmd _, h => execQpStateCmd_mem h hm
  | .cqStateCmd _, h => execCqStateCmd_mem h hm
  | .srqStateCmd _, h => execSrqStateCmd_mem h hm
  | .sqDoorbell _, h => execSqDoorbell_mem h hm
  | .rqDoorbell _, h => execRqDoorbell_mem h hm
  | .srqDoorbell _, h => execSrqDoorbell_mem h hm
  | .cqDoorbell _, h => execCqDoorbell_mem h hm
  | .send _, h => execSend_mem h hm
  | .sendImm _, h => execSendImm_mem h hm
  | .write _, h => execWrite_mem h hm
  | .writeImm _, h => execWriteImm_mem h hm
  | .read _, h => execRead_mem h hm
  | .raw, h => execRaw_mem h hm
  | .svcStart _, h => execSvcStart_mem h hm
  | .svcStop _, h => execSvcStop_mem h hm
  | .svcLoadComplete _ _, h => execSvcLoadComplete_mem h hm
  | .svcDrainComplete _, h => execSvcDrainComplete_mem h hm
  | .batchDeadline _, h => execBatchDeadline_mem h hm
  | .cadenceInstanceStart _, h => execCadenceInstanceStart_mem h hm
  | .mirrorValues _ _ _ _, h => execMirrorValues_mem h hm
  | .mirrorWaitExpiry _ _, h => execMirrorWaitExpiry_mem h hm
  | .lineCheck _ _, h => execLineCheck_mem h hm
  | .formeRetire _ _, h => execFormeRetire_mem h hm
  | .bucketLeak _, h => execBucketLeak_mem h hm
  | .ack _, h => execAck_mem h hm
  | .splitWrite _ _, h => execSplitWrite_mem h hm
  | .splitRead _ _, h => execSplitRead_mem h hm
  | .galleyFlip _ _, h => execGalleyFlip_mem h hm
  | .fenceReq _, h => execFenceReq_mem h hm
  | .peerFenced _ _, h => execPeerFenced_mem h hm
  | .checkGo _, h => execCheckGo_mem h hm
  | .checkComplete, h => execCheckComplete_mem h hm
  | .colophonRead _, h => execColophonRead_mem h hm
  | .colophonWrite _, h => execColophonWrite_mem h hm
  | .readBlock _, h => execReadBlock_mem h hm
  | .writeBlock _, h => execWriteBlock_mem h hm
  | .notify _, h => execNotify_mem h hm
  | .sessionOpen _, h => execSessionOpen_mem h hm
  | .sessionConfirmTimeout _, h => execSessionConfirmTimeout_mem h hm
  | .sessionIdleEnd _, h => execSessionIdleEnd_mem h hm
  | .sessionClose _, h => execSessionClose_mem h hm
  | .responseKeptExpiry, h => execResponseKeptExpiry_mem h hm
  | .notifyRetry, h => execNotifyRetry_mem h hm
  | .notifyLeaseEnd, h => execNotifyLeaseEnd_mem h hm
  | .configSave _, h => execConfigSave_mem h hm
  | .operatorKey _ _ _ _, h => execOperatorKey_mem h hm
  | .dieIdBase _, h => execDieIdBase_mem h hm
  | .dieRestart _, h => execDieRestart_mem h hm
  | .attestNonce _, h => execAttestNonce_mem h hm
  | .debugUnlock _, h => execDebugUnlock_mem h hm
  | .returnPrep _, h => execReturnPrep_mem h hm
  | .alarmClear _, h => execAlarmClear_mem h hm
  | .begin, h => execBegin_mem h hm
  | .verify, h => execVerify_mem h hm
  | .activate, h => execActivate_mem h hm
  | .commit, h => execCommit_mem h hm
  | .abandon, h => execAbandon_mem h hm
  | .dieReset _, h => execDieReset_mem h hm
  | .startStageComplete _, h => execStartStageComplete_mem h hm
  | .stageFail, h => execStageFail_mem h hm
  | .spanStageEnd, h => execSpanStageEnd_mem h hm
  | .powerQualified, h => execPowerQualified_mem h hm
  | .railSequenceStep, h => execRailSequenceStep_mem h hm
  | .powerLoss, h => execPowerLoss_mem h hm
  | .overvoltage, h => execOvervoltage_mem h hm
  | .inputStateChange _, h => execInputStateChange_mem h hm
  | .railFault _, h => execRailFault_mem h hm
  | .securityAlarm _, h => execSecurityAlarm_mem h hm
  | .enclOpen _, h => execEnclOpen_mem h hm
  | .debugPortInstruction _ _, h => execDebugPortInstruction_mem h hm
  | .spanCableChange _ _, h => execSpanCableChange_mem h hm
  | .sensorSample _, h => execSensorSample_mem h hm
  | .channelRetrainFinish _ _, h => execChannelRetrainFinish_mem h hm
  | .trainingSignalDetected _, h => execTrainingSignalDetected_mem h hm
  | .coreAccess _ _ _ _ _ _, h => execCoreAccess_mem h hm
  | .configSaveDone, h => execConfigSaveDone_mem h hm

/-- Settles O6: a command keeps the canonical form, and the passing of a nanosecond touches no memory. -/
theorem stepKeepsMemoryCanonical : Obligations.StepKeepsMemoryCanonical := by
  intro s t hm h
  unfold step at h
  split at h
  case h_1 => injection h with ht; exact ht ▸ hm
  case h_2 c rest _ => exact exec_memOk (s := { s with pending := rest }) hm c h

/-- Settles O5: the reset state is a die reset, after which every memory lists no byte at all. -/
theorem resetMemoryIsCanonical : Obligations.ResetMemoryIsCanonical := dieReset_mem _ _ _ _ _ _ _ _

/-! ### One step (log 3) -/

/-- Settles O1: the front command is taken off the queue and run. -/
theorem stepRunsFrontCommand : Obligations.StepRunsFrontCommand := fun _ _ _ => rfl

theorem step_of_empty {s : State} (h : s.pending = []) : step s = .next (tick s) := by rw [step, h]

/-- Settles O2: with no command waiting the step is the tick, and `timeRuns` is the condition on stage and master. -/
theorem stepOnEmptyQueueIsATick : Obligations.StepOnEmptyQueueIsATick := by
  intro s h
  refine ⟨_, step_of_empty h, rfl, ?_, rfl⟩
  simp [tick, timeRuns]

end Sys2Proof
end

section
/-! PROOFS. Chapter 18, a fenced die (R715, R716): its units stand still, and the fence lasts until a start. -/

namespace Sys2Proof

open Machine Laws

/-! ### Guards of a die whose units are off -/

theorem onlyIf_off {b : Bool} {s t : State} (h : b = false) : onlyIf b s t = .next s := by rw [h, onlyIf_false]

section
variable {s : State}

theorem headIs_off (hu : unitsOn s = false) {f : FormeIx} {q : Queue} {op : Nat} : headIs s f q op = false := by
  rw [headIs, hu, Bool.false_and]

theorem vecReady_off (hu : unitsOn s = false) {f : FormeIx} {op : Nat} : vecReady s f op = false := by
  rw [vecReady, headIs_off hu, Bool.false_and]

theorem packetReady_off (hu : unitsOn s = false) {p : Fin 11} {n : Nat} : packetReady s p n = false := by
  rw [packetReady, hu, Bool.false_and]

theorem cmdWaits_off (hu : unitsOn s = false) : cmdWaits s = false := by simp [cmdWaits, hu]

theorem opcReady_off (hu : unitsOn s = false) {n : Nat} : opcReady s n = false := by simp [opcReady, cmdWaits_off hu]

theorem rxReady_off (hu : unitsOn s = false) {k : RoceKind → Bool} : rxReady s k = false := by
  rw [rxReady, hu, Bool.false_and]

theorem sqReady_off (hu : unitsOn s = false) {n : Nat} : sqReady s n = false := by simp [sqReady, hu]

theorem sendReady_off (hu : unitsOn s = false) {n : Nat} {k : Nat → Bool} : sendReady s n k = false := by
  simp [sendReady, sqReady_off hu]

theorem bellReady_off (hu : unitsOn s = false) {v : Word} {n : Nat} : bellReady s v n = false := by
  rw [bellReady, hu, Bool.false_and]

theorem objReady_off (hu : unitsOn s = false) {v : Word} {n : Nat} : objReady s v n = false := by simp [objReady, hu]

theorem waitOver_off (hu : unitsOn s = false) {i : Fin 64} {r : Word} : waitOver s i r = false := by
  unfold waitOver; split <;> simp [hu]

/-- R715: with the units off a command that is not one of management leaves the state as it is. -/
theorem exec_off (hu : unitsOn s = false) : ∀ c, managementCommand c = false → exec c s = .next s
  | .instructionDispatch _, _ => onlyIf_off (by simp [dispatchReady, hu])
  | .folioAbortDone _, _ => onlyIf_off (by simp [abortReady, hu])
  | .waitGrant _ _, _ => onlyIf_off (by simp [waitGrantReady, hu])
  | .waitTimeout _ _, _ => onlyIf_off (by simp [waitTimeoutReady, hu])
  | .instructionComplete _ _, _ => onlyIf_off (by simp [completeReady, hu])
  | .ccopy _ _, _ => onlyIf_off (by simp [ccopyReady, headIs_off hu])
  | .copyComplete _ _, _ => onlyIf_off (by simp [copyDone, hu])
  | .pacc _, _ => onlyIf_off (by simp [paccReady, headIs_off hu])
  | .windowSwap _ _, _ => onlyIf_off (by simp [swapReady, hu])
  | .accumulateComplete _, _ => onlyIf_off (by simp only [hu, Bool.false_and])
  | .drain _, _ => onlyIf_off (by simp [drainReady, headIs_off hu])
  | .tssave _, _ => onlyIf_off (by simp [statusReady, headIs_off hu])
  | .tsload _, _ => onlyIf_off (by simp [statusReady, headIs_off hu])
  | .vadd _, _ => onlyIf_off (vecReady_off hu)
  | .vsub _, _ => onlyIf_off (vecReady_off hu)
  | .vmul _, _ => onlyIf_off (vecReady_off hu)
  | .vfma _, _ => onlyIf_off (vecReady_off hu)
  | .vmin _, _ => onlyIf_off (vecReady_off hu)
  | .vmax _, _ => onlyIf_off (vecReady_off hu)
  | .vabs _, _ => onlyIf_off (vecReady_off hu)
  | .vneg _, _ => onlyIf_off (vecReady_off hu)
  | .vcmp _, _ => onlyIf_off (vecReady_off hu)
  | .vsel _, _ => onlyIf_off (vecReady_off hu)
  | .vcvt _, _ => onlyIf_off (vecReady_off hu)
  | .vqclr _, _ => onlyIf_off (vecReady_off hu)
  | .vqmac _, _ => onlyIf_off (vecReady_off hu)
  | .vqadd _, _ => onlyIf_off (vecReady_off hu)
  | .vqsub _, _ => onlyIf_off (vecReady_off hu)
  | .vqrnd _, _ => onlyIf_off (vecReady_off hu)
  | .vqred _, _ => onlyIf_off (vecReady_off hu)
  | .vqsave _, _ => onlyIf_off (vecReady_off hu)
  | .vqload _, _ => onlyIf_off (vecReady_off hu)
  | .vrms _, _ => onlyIf_off (vecReady_off hu)
  | .vtopk _, _ => onlyIf_off (vecReady_off hu)
  | .vscale _, _ => onlyIf_off (vecReady_off hu)
  | .vsmooth _, _ => onlyIf_off (vecReady_off hu)
  | .func _, _ => onlyIf_off (by simp [funcReady, fqHead, headIs_off hu])
  | .ftload _, _ => onlyIf_off (by simp [ftloadReady, fqHead, headIs_off hu])
  | .ftloadTransferStart _, _ => onlyIf_off (by simp [transferReady, hu])
  | .ftloadComplete _, _ => onlyIf_off (by simp [loadReady, hu])
  | .tsig _, _ => onlyIf_off (headIs_off hu)
  | .twait _, _ => onlyIf_off (headIs_off hu)
  | .tmark _, _ => onlyIf_off (headIs_off hu)
  | .ttime _, _ => onlyIf_off (by simp only [headIs_off hu, Bool.false_and])
  | .scalepush _, _ => onlyIf_off (headIs_off hu)
  | .srseed _, _ => onlyIf_off (headIs_off hu)
  | .srsave _, _ => onlyIf_off (headIs_off hu)
  | .srload _, _ => onlyIf_off (headIs_off hu)
  | .start, _ => onlyIf_off (by simp [startReady, cmdWaits_off hu])
  | .pause, _ => onlyIf_off (opcReady_off hu)
  | .save, _ => onlyIf_off (opcReady_off hu)
  | .resume, _ => onlyIf_off (opcReady_off hu)
  | .continueFolio, _ => onlyIf_off (opcReady_off hu)
  | .discard, _ => onlyIf_off (opcReady_off hu)
  | .folioStart, _ => onlyIf_off (by simp [chooseReady, hu])
  | .folioComplete _ _, _ => onlyIf_off (by simp [folioDoneReady, hu])
  | .folioPaused _, _ => onlyIf_off (by simp [pausedReady, hu])
  | .saveComplete _, _ => onlyIf_off (by simp [saveReady, hu])
  | .imposerCmdRing _, _ => onlyIf_off (by simp [ringReady, hu])
  | .imposerEvtRing _, _ => onlyIf_off (by simp [ringReady, hu])
  | .imposerCmdDoorbell _, _ => onlyIf_off (by simp [cmdBellReady, hu])
  | .imposerEvtDoorbell _, _ => onlyIf_off (by simp [evtBellReady, hu])
  | .controlInterval _, _ => onlyIf_off hu
  | .currentLimit, _ => onlyIf_off hu
  | .currentLimitEnd, _ => onlyIf_off (by simp only [hu, Bool.false_and])
  | .thermalSample _ _, hm => nomatch hm
  | .stepClose _, _ => onlyIf_off (by simp only [hu, Bool.false_and])
  | .closeStep, _ => onlyIf_off (by simp [closeReady, hu])
  | .proofAlarmRead, _ => onlyIf_off hu
  | .wclr _, _ => onlyIf_off hu
  | .accEventsRead _, _ => onlyIf_off hu
  | .spanLinkRead _, _ => onlyIf_off hu
  | .pressRetire _ _, _ => onlyIf_off hu
  | .bankRetire _ _, _ => onlyIf_off hu
  | .registerWrite _ _, _ => onlyIf_off hu
  | .extRetireGo _, _ => onlyIf_off hu
  | .extMigrationComplete, _ => onlyIf_off (by simp only [hu, Bool.false_and])
  | .channelRetrain _, _ => onlyIf_off hu
  | .retrainTimer _, _ => onlyIf_off (by simp [retrainDue, hu])
  | .refresh _ _, hm => nomatch hm
  | .timebaseMeasure _ _ _, _ => onlyIf_off (by simp only [hu, Bool.false_and])
  | .keystoneArrive _ _, _ => onlyIf_off (by simp [arriveReady, hu])
  | .cancel _ _, _ => onlyIf_off (by simp only [hu, Bool.false_and])
  | .keystoneRelease _, _ => onlyIf_off (by simp [releaseReady, hu])
  | .keystoneTimeout _, _ => onlyIf_off (by simp only [hu, Bool.false_and])
  | .arrivalExpiry _ _, _ => onlyIf_off (by simp [expiryReady, hu])
  | .impressionAppend _, _ => onlyIf_off hu
  | .spanFrameReceive _ _, _ => onlyIf_off (by simp only [hu, Bool.false_and])
  | .linkRetrain _, _ => onlyIf_off (by simp [retrainReady, hu])
  | .linkTrainingComplete _ _, _ => onlyIf_off (by simp only [hu, Bool.false_and])
  | .linkDown _, _ => onlyIf_off (by simp only [hu, Bool.false_and])
  | .linkHold _ _, _ => onlyIf_off hu
  | .routeEntryWrite _ _, _ => onlyIf_off hu
  | .spanWrite _, _ => onlyIf_off (packetReady_off hu)
  | .spanReadReq _, _ => onlyIf_off (packetReady_off hu)
  | .spanReadResp _, _ => onlyIf_off (packetReady_off hu)
  | .spanAck _, _ => onlyIf_off (packetReady_off hu)
  | .spanNack _, _ => onlyIf_off (packetReady_off hu)
  | .keystone _, _ => onlyIf_off (packetReady_off hu)
  | .ethfwd _, _ => onlyIf_off (packetReady_off hu)
  | .collGo _ _, _ => onlyIf_off (by simp only [hu, Bool.false_and])
  | .collAnnouncement _, _ => onlyIf_off (by simp [collWaits, packetReady_off hu])
  | .collData _, _ => onlyIf_off (by simp [collWaits, packetReady_off hu])
  | .announceRepeat _ _, _ => onlyIf_off (by simp [repeatReady, hu])
  | .collComplete _, _ => onlyIf_off (by simp [collDoneReady, hu])
  | .collTimeout _, _ => onlyIf_off (by simp [collLate, hu])
  | .ethFrameReceive _, _ => onlyIf_off (by simp only [hu, Bool.false_and])
  | .abutLinkChange _, _ => onlyIf_off (by simp only [hu, Bool.false_and])
  | .forwardGraceEnd _, _ => onlyIf_off (by simp [graceReady, hu])
  | .roceSendIn, _ => onlyIf_off (rxReady_off hu)
  | .roceWriteIn, _ => onlyIf_off (rxReady_off hu)
  | .roceReadIn, _ => onlyIf_off (rxReady_off hu)
  | .roceResponseIn, _ => onlyIf_off (by simp only [rxReady_off hu, Bool.false_and])
  | .cnpIn, _ => onlyIf_off (rxReady_off hu)
  | .ccTimer _, _ => onlyIf_off (by simp [ccTimerReady, hu])
  | .ackTimeout _, _ => onlyIf_off (by simp [ackTimeoutReady, hu])
  | .rnrTimer _, _ => onlyIf_off (by simp [rnrTimerReady, hu])
  | .ingressDrain, _ => onlyIf_off (by simp only [hu, Bool.false_and])
  | .qpStateCmd _, _ => onlyIf_off (objReady_off hu)
  | .cqStateCmd _, _ => onlyIf_off (objReady_off hu)
  | .srqStateCmd _, _ => onlyIf_off (objReady_off hu)
  | .sqDoorbell _, _ => onlyIf_off (bellReady_off hu)
  | .rqDoorbell _, _ => onlyIf_off (bellReady_off hu)
  | .srqDoorbell _, _ => onlyIf_off (bellReady_off hu)
  | .cqDoorbell _, _ => onlyIf_off (bellReady_off hu)
  | .send _, _ => onlyIf_off (sendReady_off hu)
  | .sendImm _, _ => onlyIf_off (sendReady_off hu)
  | .write _, _ => onlyIf_off (sendReady_off hu)
  | .writeImm _, _ => onlyIf_off (sendReady_off hu)
  | .read _, _ => onlyIf_off (sendReady_off hu)
  | .raw, _ => onlyIf_off (sqReady_off hu)
  | .svcStart _, _ => onlyIf_off (by simp only [hu, Bool.false_and])
  | .svcStop _, _ => onlyIf_off (by simp only [hu, Bool.false_and])
  | .svcLoadComplete _ _, _ => onlyIf_off (by simp only [hu, Bool.false_and])
  | .svcDrainComplete _, _ => onlyIf_off (by simp only [hu, Bool.false_and])
  | .batchDeadline _, _ => onlyIf_off (by simp only [hu, Bool.false_and])
  | .cadenceInstanceStart _, _ => onlyIf_off (by simp [cadenceReady, hu])
  | .mirrorValues _ _ _ _, _ => onlyIf_off (by simp only [hu, Bool.false_and])
  | .mirrorWaitExpiry _ _, _ => onlyIf_off (waitOver_off hu)
  | .lineCheck _ _, _ => onlyIf_off (by simp [lineCheckReady, hu])
  | .formeRetire _ _, _ => onlyIf_off (by simp only [hu, Bool.false_and])
  | .bucketLeak _, _ => onlyIf_off (by simp only [hu, Bool.false_and])
  | .ack _, _ => onlyIf_off (by simp only [hu, Bool.false_and])
  | .splitWrite _ _, _ => onlyIf_off (by simp only [hu, Bool.false_and])
  | .splitRead _ _, _ => onlyIf_off (by simp only [hu, Bool.false_and])
  | .galleyFlip _ _, _ => onlyIf_off (by simp only [hu, Bool.false_and])
  | .fenceReq _, _ => onlyIf_off (by simp only [hu, Bool.false_and])
  | .peerFenced _ _, _ => onlyIf_off (by simp [peerFencedReady, hu])
  | .checkGo _, _ => onlyIf_off (by simp only [hu, Bool.false_and])
  | .checkComplete, _ => onlyIf_off (by simp only [hu, Bool.false_and])
  | .colophonRead _, hm => nomatch hm
  | .colophonWrite _, hm => nomatch hm
  | .readBlock _, hm => nomatch hm
  | .writeBlock _, hm => nomatch hm
  | .notify _, hm => nomatch hm
  | .sessionOpen _, hm => nomatch hm
  | .sessionConfirmTimeout _, hm => nomatch hm
  | .sessionIdleEnd _, hm => nomatch hm
  | .sessionClose _, hm => nomatch hm
  | .responseKeptExpiry, hm => nomatch hm
  | .notifyRetry, hm => nomatch hm
  | .notifyLeaseEnd, hm => nomatch hm
  | .configSave _, hm => nomatch hm
  | .operatorKey _ _ _ _, hm => nomatch hm
  | .dieIdBase _, hm => nomatch hm
  | .dieRestart _, hm => nomatch hm
  | .attestNonce _, hm => nomatch hm
  | .debugUnlock _, hm => nomatch hm
  | .returnPrep _, hm => nomatch hm
  | .alarmClear _, hm => nomatch hm
  | .begin, hm => nomatch hm
  | .verify, hm => nomatch hm
  | .activate, hm => nomatch hm
  | .commit, hm => nomatch hm
  | .abandon, hm => nomatch hm
  | .dieReset _, hm => nomatch hm
  | .startStageComplete _, _ => onlyIf_off (by simp [stageCan, hu])
  | .stageFail, _ => onlyIf_off (by simp [stageFailReady, hu])
  | .spanStageEnd, _ => onlyIf_off (by simp [spanStageReady, hu])
  | .powerQualified, hm => nomatch hm
  | .railSequenceStep, hm => nomatch hm
  | .powerLoss, hm => nomatch hm
  | .overvoltage, hm => nomatch hm
  | .inputStateChange _, hm => nomatch hm
  | .railFault _, hm => nomatch hm
  | .securityAlarm _, hm => nomatch hm
  | .enclOpen _, hm => nomatch hm
  | .debugPortInstruction _ _, hm => nomatch hm
  | .spanCableChange _ _, hm => nomatch hm
  | .sensorSample _, hm => nomatch hm
  | .channelRetrainFinish _ _, _ => onlyIf_off (by simp [retrainFinishReady, hu])
  | .trainingSignalDetected _, _ => onlyIf_off (by simp [trainAllowed, hu])
  | .coreAccess _ _ _ _ _ _, _ => onlyIf_off (by simp only [hu, Bool.false_and])
  | .configSaveDone, hm => nomatch hm

end

/-! ### What management commands make of a fence -/

section
variable {r : BitVec 3} {s t : State}

/-- A change that leaves out the faults and the start keeps the fence. -/
theorem Held.frame {ps : List Part} (h : Held r s) (ht : Touches ps s t) (hps : Part.fault ∉ ps ∧ Part.boot ∉ ps) : Held r t :=
  h.touch ht hps.1 hps.2

/-- The fence of another die is recorded beside this die's own. -/
theorem peerFenced_held (d : Fin 8) (reason : BitVec 3) (h : Held r s) : Held r (peerFenced s d reason) := by
  have hboot : (peerFenced s d reason).boot = s.boot :=
    peerFenced_touch (qs := [.free, .out, .tb, .tbl, .log, .span, .abut, .cores, .svc, .fault, .colo]) s d reason (by decide)
      (by decide) (by decide) (by decide) (by decide) (by decide) (by decide) (by decide) (by decide) (by decide) (by decide)
      (Touches.refl _ s) .boot (by decide)
  unfold Held
  rw [peer_fault, hboot]
  exact h

theorem railStep_held (h : Held r s) : Held r (railStep s) := by
  unfold railStep railsUp
  dsimp only
  split
  · split
    · exact h.same rfl rfl
    · exact reset_held _ _ _
  · exact h.same rfl rfl

theorem railFault_held (d : Fin 8) (h : Held r s) : Held r (railFault s d) := by
  unfold railFault
  dsimp only
  split
  · exact off_held _ _ _
  · split
    · exact peerFenced_held _ _ (h.same rfl rfl)
    · exact h.same rfl rfl

theorem thermalSampleEffect_held (die mem : Int) (h : Held r s) : Held r (thermalSampleEffect s die mem) := by
  have hlimits : Held r (thermalEffect s die mem) :=
    h.frame (thermalEffect_touch (qs := [.imp]) s die mem (by decide) (Touches.refl _ s)) (by decide)
  unfold thermalSampleEffect
  dsimp only
  split
  · exact rise_held _ (fenceDie_held 2 hlimits)
  · exact hlimits.same rfl rfl

theorem enclEffect_held (level : Bool) (h : Held r s) : Held r (enclEffect s level) := by
  unfold enclEffect
  dsimp only
  split
  · exact h.same rfl rfl
  · split
    · exact rise_held _ (h.same rfl rfl)
    · exact h.same rfl rfl

theorem unlockEffect_held (token : List Byte) (h : Held r s) : Held r (unlockEffect s token) := by
  unfold unlockEffect
  split
  · exact h.same rfl rfl
  · exact alarm_held _ (h.same rfl rfl)

theorem debugEffect_held (ir : Byte) (dr : BitVec 104) (h : Held r s) : Held r (debugEffect s ir dr) := by
  unfold debugEffect
  split
  · exact h.same rfl rfl
  split
  · exact h.same rfl rfl
  split
  · exact alarm_held _ (h.same rfl rfl)
  split
  · exact h.frame (debugRead_touch (qs := [.free, .out, .formes, .proof, .span, .sec]) s dr (by decide) (by decide) (by decide)
      (by decide) (by decide) (by decide) (Touches.refl _ s)) (by decide)
  · exact h.same rfl rfl

theorem execDebugPortInstruction_held {ir : Byte} {dr : BitVec 104} (h : Held r s)
    (he : execDebugPortInstruction ir dr s = .next t) : Held r t := by
  unfold execDebugPortInstruction at he
  split at he
  · cases he
  · exact only_held he h (fun _ => debugEffect_held ir dr h)

/-- Whatever the command, a fence lasts unless a start begins. -/
theorem exec_held (h : Held r s) (c : Instr) (hm : managementCommand c = true) (he : exec c s = .next t) : Held r t := by
  cases c
  case refresh => cases he; exact h
  case thermalSample => exact only_held he h (fun _ => thermalSampleEffect_held _ _ h)
  case colophonRead m => exact only_held he h (fun _ => message_held m h)
  case colophonWrite m => exact only_held he h (fun _ => message_held m h)
  case readBlock m => exact only_held he h (fun _ => message_held m h)
  case writeBlock m => exact only_held he h (fun _ => message_held m h)
  case notify m => exact only_held he h (fun _ => message_held m h)
  case sessionOpen m => exact only_held he h (fun _ => message_held m h)
  case sessionConfirmTimeout => exact h.frame (execSessionConfirmTimeout_touch he) (by decide)
  case sessionIdleEnd => exact h.frame (execSessionIdleEnd_touch he) (by decide)
  case sessionClose => exact h.frame (execSessionClose_touch he) (by decide)
  case responseKeptExpiry => exact h.frame (execResponseKeptExpiry_touch he) (by decide)
  case notifyRetry => exact h.frame (execNotifyRetry_touch he) (by decide)
  case notifyLeaseEnd => exact h.frame (execNotifyLeaseEnd_touch he) (by decide)
  case configSave => exact h.frame (execConfigSave_touch he) (by decide)
  case configSaveDone => exact h.frame (execConfigSaveDone_touch he) (by decide)
  case operatorKey => exact h.frame (execOperatorKey_touch he) (by decide)
  case dieIdBase => exact h.frame (execDieIdBase_touch he) (by decide)
  case dieRestart v => exact only_held he h (fun _ => dieRestart_held v.toNat h)
  case attestNonce => exact h.frame (execAttestNonce_touch he) (by decide)
  case debugUnlock token => exact only_held he h (fun _ => unlockEffect_held token h)
  case returnPrep => exact h.frame (execReturnPrep_touch he) (by decide)
  case alarmClear => exact h.frame (execAlarmClear_touch he) (by decide)
  case begin => exact h.frame (execBegin_touch he) (by decide)
  case verify => exact h.frame (execVerify_touch he) (by decide)
  case activate => exact h.frame (execActivate_touch he) (by decide)
  case commit => exact h.frame (execCommit_touch he) (by decide)
  case abandon => exact h.frame (execAbandon_touch he) (by decide)
  case dieReset => exact only_held he h (fun _ => reset_held _ _ _)
  case powerQualified => exact h.frame (execPowerQualified_touch he) (by decide)
  case railSequenceStep => exact only_held he h (fun _ => railStep_held h)
  case powerLoss => exact only_held he h (fun _ => off_held _ _ _)
  case overvoltage => exact only_held he h (fun _ => off_held _ _ _)
  case inputStateChange => exact h.frame (execInputStateChange_touch he) (by decide)
  case railFault d => exact only_held he h (fun _ => railFault_held d h)
  case securityAlarm => exact only_held he h (fun _ => alarm_held _ h)
  case enclOpen level => exact only_held he h (fun _ => enclEffect_held level h)
  case debugPortInstruction => exact execDebugPortInstruction_held h he
  case spanCableChange => exact h.frame (execSpanCableChange_touch he) (by decide)
  case sensorSample => exact h.frame (execSensorSample_touch he) (by decide)
  all_goals exact nomatch hm

end

/-- Settles O60: with the units off only management acts, and no management command lifts a fence but by a start. -/
theorem aFenceLastsUntilTheNextStart : Obligations.AFenceLastsUntilTheNextStart := by
  refine ⟨fun c s hm hu => exec_off hu c hm, fun c s t hf he => ?_⟩
  have hfenced : Held s.fault.reason s := .inl ⟨hf, rfl⟩
  cases hm : managementCommand c
  case false =>
    have hoff : unitsOn s = false := by simp [unitsOn, hf]
    rw [exec_off hoff c hm] at he
    cases he
    exact hfenced
  case true => exact exec_held hfenced c hm he

end Sys2Proof
end

section
/-! PROOFS. Chapter 7, element-wise sums: VADD of one vector into a plain destination stores its rounded exact sums. -/

namespace Sys2Proof

open Machine Laws

/-! ### A row converted into a plain destination -/

/-- A destination of a plain format, not tagged and without Justification, whose rows lie in the Galley one pitch apart. -/
structure PlainDst (d : Dst) : Prop where
  unscaled : isScaled d.fmt = false
  untagged : d.tagged = false
  noJustify : d.jctl = 0
  rows : d.fold = false
  inGalley : d.base < d.wrap

theorem planeBytes_one_row {base pitch wrap : Nat} (h : base < wrap) (row : List Byte) :
    planeBytes base pitch wrap [row] = placed base row := by
  simp [planeBytes, Nat.mod_eq_of_lt h]

/-- A plain destination makes the write read nothing. -/
theorem PlainDst.reads_nothing {d : Dst} (h : PlainDst d) (rows cols : Nat) : dstReads d rows cols = [] := by
  have hrs8 : d.fmt ≠ .rs8 := by
    intro he
    have hu := h.unscaled
    rw [he] at hu
    exact absurd hu (by decide)
  simp [dstReads, hrs8, h.noJustify, jChannels]

/-- R90, R93: one row converted into a plain destination without stochastic rounding is stored at its base, and nothing but
the sticky flags of the vector unit changes beside. -/
theorem convertGrid_stores_row {u : State} {f : FormeIx} {c : Ctl} {dl : Bool} {d : Dst} (row : List (Val × Bool))
    (hd : PlainDst d) (hsr : drawsSr (u.forme f).fe.g1 c d = false) (hw : (u.forme f).galley.wf = true)
    (ha : (u.forme f).test.arm = false) :
    let t := convertGrid u f c dl d [row]
    let md := plainMode (u.forme f).fe.g1 c
    GalleyStores f d.base (packCodes (fmtBits d.fmt) (row.map (fun v => (encodeJob d.fmt c md (.plain v.1)).pat))) u t
      ∧ OnlyForme f [.galley, .vu] u t ∧ Touches [.formes] u t := by
  intro t md
  let s1 := setFlush u f (row.any (·.2))
  let o := convertRegion s1 f c ⟨dl, true⟩ [d] [row.map (·.1)]
  let bs := packCodes (fmtBits d.fmt) (row.map (fun v => (encodeJob d.fmt c md (.plain v.1)).pat))
  have hflush : OnlyForme f [.vu] u s1 := setFlush_only u f _
  have hfe : (s1.forme f).fe = (u.forme f).fe := hflush.2 .fe (by decide)
  obtain ⟨hbytes, honly, htouch⟩ := convertRegion_plain s1 f c ⟨dl, true⟩ d [row.map (·.1)] hd.unscaled hd.untagged
    hd.noJustify (by rw [hfe]; exact hsr)
  have hvu : OnlyForme f [.vu] u o.st := hflush.trans honly
  have hgalley : (o.st.forme f).galley = (u.forme f).galley := hvu.2 .galley (by decide)
  have htest : (o.st.forme f).test = (u.forme f).test := hvu.2 .test (by decide)
  have hrow : o.bytes = [placed d.base bs] := by
    rw [hbytes, hd.rows, hfe]
    simp [planeBytes_one_row hd.inGalley, bs, md, Function.comp_def]
  have ht : t = modForme o.st f (fun fm => galleyPutAll fm (placed d.base bs)) := by
    rw [← storeOut_one hrow]
    simp [t, convertGrid, o, s1]
  obtain ⟨⟨hin, hout⟩, hgal⟩ := galleyWrite_stores (s := o.st) (f := f) d.base bs (by rw [hgalley]; exact hw)
    (by rw [htest]; exact ha)
  rw [ht]
  refine ⟨⟨hin, fun x hx => (hout x hx).trans (by rw [hgalley])⟩, (hvu.mono (by decide)).trans (hgal.mono (by decide)), ?_⟩
  exact ((setFlush_touches u f _).trans htouch).trans (modForme_touches _ _ _)

/-! ### VADD -/

theorem exec_vadd_ready {f : FormeIx} {s : State} (h : vecReady s f 0x40 = true) :
    exec (.vadd f) s = .next (elementwise s f [0, 1] (two Val.add)) := by
  rw [show exec (.vadd f) s = execVadd f s from rfl, execVadd, h, onlyIf_true]

/-- One vector of an element-wise operation is one row. -/
theorem elementGrid_one_row {s : State} {f : FormeIx} (h : (headVec s f).count = 1) (ps : List Nat) (g : List Val → Val) :
    elementGrid s f ps g = [(List.range (headVec s f).vlen).map (fun e =>
      (g ((sourceVals s f ps 0 e).map (·.1)), (sourceVals s f ps 0 e).any (·.2)))] := by
  simp [elementGrid, grid, h]

/-- A store seen from an earlier state with the same Galley. -/
theorem GalleyStores.from {f : FormeIx} {a : Nat} {bs : List Byte} {s u t : State} (h : GalleyStores f a bs u t)
    (k : (u.forme f).galley = (s.forme f).galley) : GalleyStores f a bs s t :=
  ⟨h.1, fun x hx => by rw [← k]; exact h.2 x hx⟩

theorem packCodes_of_bytes {b : Nat} (h : 8 ≤ b) (codes : List Nat) :
    packCodes b codes = (codes.map (leBytes (b / 8))).flatten := by
  rw [packCodes, if_neg (Nat.not_lt.mpr h)]

/-- Settles O19: VADD issues and converts its one row of exact sums, which a plain destination takes as their rounded codes. -/
theorem vaddStoresRoundedSums : Obligations.VaddStoresRoundedSums := by
  intro f s v c r md hm hready hcount htag hscaled hbits _ hsr harm hgood hbase
  let d : Dst := { headDst s f with jctl := 0 }
  let u := issueHead s f .vq true none none
  have hd : PlainDst d := ⟨hscaled, htag, rfl, rfl, Nat.lt_trans hbase (show 2 ^ 24 < 2 ^ 40 by decide)⟩
  have hsr : drawsSr (s.forme f).fe.g1 c d = false := hsr
  have hctx : convCtx (s.forme f) c [d] = none := by simp [convCtx, hsr]
  have hrun : elementwise s f [0, 1] (two Val.add) = convertGrid u f c false d (elementGrid s f [0, 1] (two Val.add)) := by
    unfold elementwise
    rw [runGrid_runs (by rw [hctx]; rfl) (by rw [hd.reads_nothing, List.append_nil]; exact hgood), hctx]
  have hfe : (u.forme f).fe = (s.forme f).fe := issueHead_fe s f .vq true none none
  have hgalley : (u.forme f).galley = (s.forme f).galley := issueHead_galley s f .vq true none none
  have hmode : plainMode (s.forme f).fe.g1 c = md := by
    cases hg1 : (s.forme f).fe.g1 <;> simp [plainMode, md, hg1]
  rw [elementGrid_one_row hcount] at hrun
  obtain ⟨hstore, honly, htouch⟩ := convertGrid_stores_row (dl := false) (u := u) _ hd (by rw [hfe]; exact hsr)
    (by rw [hgalley]; exact galley_wf_of_memOk hm f) (by rw [issueHead_test]; exact harm)
  refine ⟨_, (exec_vadd_ready hready).trans (congrArg _ hrun), ?_,
    ((issueHead_only s f .vq true none none).mono (by decide)).trans (honly.mono (by decide)),
    (issueHead_touches s f .vq true none none).trans htouch⟩
  rw [hfe, hmode, packCodes_of_bytes (b := fmtBits d.fmt) hbits] at hstore
  have hstore := hstore.from hgalley
  simp only [List.map_map, Function.comp_def] at hstore
  exact hstore

end Sys2Proof
end

section
/-! PROOFS. Chapter 7, the QP32 quire of a lane (R301). -/

namespace Sys2Proof

open Machine

/-- R229, R301: the exact sum within the range, the nearer end with QSAT outside it. -/
theorem quireClamp_cases (x : Int) :
    (-(2 ^ 511 - 1) ≤ x → x ≤ 2 ^ 511 - 1 → (quireClamp x).1.toInt = x ∧ (quireClamp x).2 = false)
    ∧ (2 ^ 511 - 1 < x → (quireClamp x).1.toInt = 2 ^ 511 - 1 ∧ (quireClamp x).2 = true)
    ∧ (x < -(2 ^ 511 - 1) → (quireClamp x).1.toInt = -(2 ^ 511 - 1) ∧ (quireClamp x).2 = true) := by
  have hlim : (Int.ofNat (2 ^ 511) : Int) = 2 ^ 511 := Int.natCast_pow 2 511
  have hpos : (0 : Int) < 2 ^ 511 := Int.pow_pos (by decide)
  unfold quireClamp
  rw [hlim]
  have htoInt : ∀ y : Int, -(2 ^ 511 - 1) ≤ y → y ≤ 2 ^ 511 - 1 → (BitVec.ofInt 512 y).toInt = y := fun y h1 h2 =>
    BitVec.toInt_ofInt_eq_self (by decide) (show -2 ^ 511 ≤ y by omega) (show y < 2 ^ 511 by omega)
  generalize (2 : Int) ^ 511 = lim at hpos htoInt ⊢
  refine ⟨fun h1 h2 => ?_, fun h => ?_, fun h => ?_⟩
  · rw [if_neg (by omega), if_neg (by omega)]
    exact ⟨htoInt x h1 h2, rfl⟩
  · rw [if_pos h]
    exact ⟨htoInt _ (by omega) (by omega), rfl⟩
  · rw [if_neg (by omega), if_pos h]
    exact ⟨htoInt _ (by omega) (by omega), rfl⟩

theorem quireAdd_real {q : BitVec 512} (h : q ≠ quireNar) (d : Int) : quireAdd q (some d) = quireClamp (q.toInt + d) := if_neg h

theorem quireAdd_nar (d : Int) : quireAdd quireNar (some d) = (quireNar, false) := by
  simp only [quireAdd, if_true]

/-- Settles O23: an addition to a quire that is not NaR is the clamp of the exact sum. -/
theorem quireAdditionsAreExactOrSaturate : Obligations.QuireAdditionsAreExactOrSaturate := by
  intro q d hq
  obtain ⟨hin, habove, hbelow⟩ := quireClamp_cases (q.toInt + d)
  rw [quireAdd_real hq]
  exact ⟨hin, habove, hbelow, rfl, quireAdd_nar d⟩

end Sys2Proof
end

section
/-! PROOFS. Chapter 5, updates of exact entries of quire memory (R199 to R203). -/

namespace Sys2Proof

open Machine Laws

/-! ### Little-endian bytes (R5) -/

@[simp] theorem leBytes_length (k x : Nat) : (leBytes k x).length = k := by
  induction k generalizing x with
  | zero => rfl
  | succ k ih => rw [leBytes, List.length_cons, ih]

theorem leNat_leBytes (k x : Nat) : leNat (leBytes k x) = x % 256 ^ k := by
  induction k generalizing x with
  | zero => rw [leBytes, leNat, Nat.pow_zero, Nat.mod_one]
  | succ k ih => rw [leBytes, leNat, ih, BitVec.toNat_ofNat, Nat.pow_succ' (m := 256) (n := k), Nat.mod_mul (a := 256) (b := 256 ^ k)]

/-- Bytes written into a canonical memory read back as their number. -/
theorem readLe_placed {m : ParMem} (h : m.wf = true) (a : Nat) (bs : List Byte) :
    readLe (m.putAll (placed a bs)).byte a bs.length = leNat bs := by
  rw [readLe]
  exact congrArg leNat (ParMem.bytes_placed m a bs h)

/-! ### Two's complement (R199) -/

theorem ofSigned_lt (w : Nat) (d : Int) : ofSigned w d < 2 ^ w := by
  have hpos : (0 : Int) < 2 ^ w := Int.pow_pos (by decide)
  have hcast : (Int.ofNat (2 ^ w) : Int) = 2 ^ w := Int.natCast_pow 2 w
  have := Int.emod_lt_of_pos d hpos
  have := Int.emod_nonneg d (Int.ne_of_gt hpos)
  have : ((2 ^ w : Nat) : Int) = 2 ^ w := hcast
  rw [ofSigned, hcast]
  omega

/-- A number within the range reads back from its pattern. -/
theorem toSigned_ofSigned {w : Nat} {d : Int} (hw : 0 < w) (hlo : -2 ^ (w - 1) ≤ d) (hhi : d < 2 ^ (w - 1)) :
    toSigned w (ofSigned w d) = d := by
  obtain ⟨n, rfl⟩ : ∃ n, w = n + 1 := ⟨w - 1, by omega⟩
  rw [toSigned, Nat.mod_eq_of_lt (ofSigned_lt _ _), ofSigned]
  have hcast : (Int.ofNat (2 ^ (n + 1)) : Int) = 2 * 2 ^ n := by
    rw [← Int.pow_succ']
    exact Int.natCast_pow 2 (n + 1)
  have hhalf : ((2 ^ n : Nat) : Int) = 2 ^ n := Int.natCast_pow 2 n
  rw [hcast]
  simp only [Nat.add_sub_cancel, Int.ofNat_eq_natCast] at hlo hhi ⊢
  generalize (2 : Int) ^ n = half at hlo hhi hhalf ⊢
  by_cases hd : 0 ≤ d
  · rw [Int.emod_eq_of_lt hd (by omega), if_pos (by omega)]
    omega
  · have hmod : d % (2 * half) = d + 2 * half := by
      rw [← Int.add_emod_right, Int.emod_eq_of_lt (by omega) (by omega)]
    rw [hmod, if_neg (by omega)]
    omega

/-! ### Exact entries -/

/-- R200: the numbers of an exact entry: all of its width but the pattern of NaR. -/
def DeepRange (kind : Nat) (d : Int) : Prop := -(2 ^ (dWidth kind - 1) - 1) ≤ d ∧ d ≤ 2 ^ (dWidth kind - 1) - 1

/-- R199, R200: the pattern that an exact entry stores. -/
def deepPattern (kind : Nat) (x : Option Int) : Nat :=
  match x with
  | none => 2 ^ (dWidth kind - 1)
  | some d => ofSigned (dWidth kind) d

theorem deepBytes_eq (kind : Nat) (x : Option Int) : deepBytes kind x = leBytes (kindBytes kind) (deepPattern kind x) := rfl

theorem dWidth_pos (kind : Nat) : 0 < dWidth kind := by unfold dWidth; split <;> decide

theorem deepPattern_lt (kind : Nat) (x : Option Int) : deepPattern kind x < 2 ^ dWidth kind := by
  cases x with
  | none => exact Nat.pow_lt_pow_right (by decide) (Nat.sub_lt (dWidth_pos kind) (by decide))
  | some d => exact ofSigned_lt _ _

/-- An exact entry holds its width and no more. -/
theorem dWidth_le_entry {kind : Nat} (h : kind = 1 ∨ kind = 2) : dWidth kind ≤ 8 * kindBytes kind := by
  rcases h with rfl | rfl <;> decide

/-- The pattern of NaR stands for the one number that no entry of the range has. -/
theorem toSigned_nar {w : Nat} (hw : 0 < w) : toSigned w (2 ^ (w - 1)) = -2 ^ (w - 1) := by
  have hlt : 2 ^ (w - 1) < 2 ^ w := Nat.pow_lt_pow_right (by decide) (by omega)
  have hdouble : (2 : Int) ^ w = 2 * 2 ^ (w - 1) := by
    rw [← Int.pow_succ', Nat.sub_add_cancel hw]
  have hcast (k : Nat) : ((2 ^ k : Nat) : Int) = 2 ^ k := Int.natCast_pow 2 k
  rw [toSigned, Nat.mod_eq_of_lt hlt, if_neg (Nat.lt_irrefl _), Int.ofNat_eq_natCast, Int.ofNat_eq_natCast,
    hcast, hcast]
  omega

/-- An entry reads back as it was written. -/
theorem readDeep_written {fm : Forme} {kind : Nat} (off : Nat) {x : Option Int} (hk : kind = 1 ∨ kind = 2)
    (hw : fm.quire.wf = true) (hx : ∀ d, x = some d → DeepRange kind d) :
    readDeep { fm with quire := fm.quire.putAll (placed off (deepBytes kind x)) } kind off = x := by
  have hbytes : readLe (fm.quire.putAll (placed off (deepBytes kind x))).byte off (kindBytes kind) = deepPattern kind x := by
    have h := readLe_placed hw off (deepBytes kind x)
    rw [deepBytes_eq, leBytes_length, leNat_leBytes] at h
    rw [deepBytes_eq, h]
    refine Nat.mod_eq_of_lt (Nat.lt_of_lt_of_le (deepPattern_lt kind x) ?_)
    rw [show 256 = 2 ^ 8 from rfl, ← Nat.pow_mul]
    exact Nat.pow_le_pow_right (by decide) (dWidth_le_entry hk)
  unfold readDeep
  dsimp only
  rw [hbytes, Nat.mod_eq_of_lt (deepPattern_lt kind x)]
  cases x with
  | none => exact if_pos rfl
  | some d =>
    obtain ⟨hlo, hhi⟩ := hx d rfl
    have hback : toSigned (dWidth kind) (deepPattern kind (some d)) = d :=
      toSigned_ofSigned (dWidth_pos kind) (by omega) (by omega)
    rw [if_neg, hback]
    intro hnar
    rw [hnar, toSigned_nar (dWidth_pos kind)] at hback
    omega

/-- R203: a sum within the range stays, one outside it becomes the nearer end. -/
theorem saturateDeep_cases (kind : Nat) (d : Int) :
    let lim : Int := 2 ^ (dWidth kind - 1) - 1
    (-lim ≤ d → d ≤ lim → saturateDeep kind d = (d, false)) ∧ (lim < d → saturateDeep kind d = (lim, true))
      ∧ (d < -lim → saturateDeep kind d = (-lim, true)) := by
  intro lim
  have hlim : 0 ≤ lim := by
    have : (0 : Int) < 2 ^ (dWidth kind - 1) := Int.pow_pos (by decide)
    omega
  refine ⟨fun h1 h2 => ?_, fun h => ?_, fun h => ?_⟩
  · exact (if_neg (Int.not_lt.mpr h2)).trans (if_neg (Int.not_lt.mpr h1))
  · exact if_pos h
  · exact (if_neg (show ¬ lim < d by omega)).trans (if_pos h)

theorem saturateDeep_range (kind : Nat) (d : Int) : DeepRange kind (saturateDeep kind d).1 := by
  obtain ⟨hin, habove, hbelow⟩ := saturateDeep_cases kind d
  have hpos : (0 : Int) < 2 ^ (dWidth kind - 1) := Int.pow_pos (by decide)
  unfold DeepRange
  by_cases h1 : (2 : Int) ^ (dWidth kind - 1) - 1 < d
  · rw [habove h1]
    constructor <;> omega
  · by_cases h2 : d < -(2 ^ (dWidth kind - 1) - 1)
    · rw [hbelow h2]
      constructor <;> omega
    · rw [hin (by omega) (by omega)]
      constructor <;> omega

/-- Settles O32: the entry written is the saturated sum, or NaR, and reads back as such. -/
theorem updatesAddExactlyOrSaturate : Obligations.UpdatesAddExactlyOrSaturate := by
  intro fm kind off fresh d u lim after hw hk
  refine ⟨fun old hold => ?real, fun hfresh hnar => ?nar⟩
  case real =>
    have hu : u = (deepBytes kind (some (saturateDeep kind (old + d)).1), (saturateDeep kind (old + d)).2) := by
      simp only [u, updateEntry, hold]
    have hafter : after = some (saturateDeep kind (old + d)).1 := by
      simp only [after, hu]
      exact readDeep_written off hk hw (fun y hy => Option.some.inj hy ▸ saturateDeep_range kind _)
    obtain ⟨hin, habove, hbelow⟩ := saturateDeep_cases kind (old + d)
    rw [hafter, hu]
    refine ⟨fun h1 h2 => ?_, fun h => ?_, fun h => ?_⟩
    · rw [hin h1 h2]; exact ⟨rfl, rfl⟩
    · rw [habove h]; exact ⟨rfl, rfl⟩
    · rw [hbelow h]; exact ⟨rfl, rfl⟩
  case nar =>
    have hu : u = (deepBytes kind none, false) := by
      simp only [u, updateEntry, hfresh, hnar, Bool.false_eq_true, if_false]
    simp only [after, hu, and_true]
    exact readDeep_written off hk hw (fun y hy => nomatch hy)

end Sys2Proof
end

section
/-! PROOFS. Chapter 7, the instructions of VQ that convert their results, compare, select, rank and scale. -/

namespace Sys2Proof

open Machine Laws

section
variable {f : FormeIx} {s : State}

/-! ### Grid conversions (R295 to R298) -/

/-- What a grid conversion answers: its effect after the issue, and what it leaves unchanged. -/
def GridConverted (s : State) (f : FormeIx) (c : Ctl) (ctx : Option (Fin 16)) (dl : Bool) (d : Dst)
    (m : List (List (Val × Bool))) (t : State) : Prop :=
  t = convertGrid (issueHead s f .vq true ctx none) f c dl d m ∧ LeavesHead f .vq true ctx none s t
    ∧ OnlyForme f [.q, .galley, .vu, .test] s t ∧ Touches [.formes, .tbl, .proof, .colo, .cores, .out] s t

/-- A grid conversion at the head of VQ, with its context free and its operands readable. -/
theorem runGrid_converted {op : Nat} {reads : List (Nat × Nat)} {dl : Bool} {d : Dst} {m : List (List (Val × Bool))}
    (hready : vecReady s f op = true)
    (hc : claimedBy (s.forme f) (convCtx (s.forme f) (headCtl s f) [d]) = false)
    (hb : galleyBad (s.forme f) f (reads ++ dstReads d (headVec s f).count (headVec s f).vlen) = none) :
    GridConverted s f (headCtl s f) (convCtx (s.forme f) (headCtl s f) [d]) dl d m (runGrid s f reads dl d m) := by
  rw [runGrid_runs hc hb]
  exact ⟨rfl, convertGrid_facts s f op _ _ d dl m hready⟩

/-- R298: an element-wise operation converts the exact results of its elements. -/
theorem exec_elementwise_converts {i : Instr} {op : Nat} {ps : List Nat} {g : List Val → Val}
    (hi : exec i s = onlyIf (vecReady s f op) s (elementwise s f ps g)) (hready : vecReady s f op = true)
    (hc : claimedBy (s.forme f) (convCtx (s.forme f) (headCtl s f) [{ headDst s f with jctl := 0 }]) = false)
    (hb : galleyBad (s.forme f) f (headRanges s f ps
      ++ dstReads { headDst s f with jctl := 0 } (headVec s f).count (headVec s f).vlen) = none) :
    ∃ t, exec i s = .next t ∧ GridConverted s f (headCtl s f)
      (convCtx (s.forme f) (headCtl s f) [{ headDst s f with jctl := 0 }]) false { headDst s f with jctl := 0 }
      (elementGrid s f ps g) t := by
  rw [hi, hready, onlyIf_true]
  exact ⟨_, rfl, runGrid_converted hready hc hb⟩

/-- Settles O18: the eight operations differ in their sources and in their exact function. -/
theorem elementwiseConvertsExactResults : Obligations.ElementwiseConvertsExactResults := by
  intro f s v c d ctx i op ps g hmem hready hc hb
  simp only [List.mem_cons, List.not_mem_nil, or_false, Prod.mk.injEq] at hmem
  have hi : exec i s = onlyIf (vecReady s f op) s (elementwise s f ps g) := by
    rcases hmem with ⟨rfl, rfl, rfl, rfl⟩ | ⟨rfl, rfl, rfl, rfl⟩ | ⟨rfl, rfl, rfl, rfl⟩ | ⟨rfl, rfl, rfl, rfl⟩
      | ⟨rfl, rfl, rfl, rfl⟩ | ⟨rfl, rfl, rfl, rfl⟩ | ⟨rfl, rfl, rfl, rfl⟩ | ⟨rfl, rfl, rfl, rfl⟩ <;> rfl
  exact exec_elementwise_converts hi hready hc hb

/-! ### VCMP (R297, R412, R413) -/

/-- Bytes that a head of VQ writes after its issue, with the flush that its decodes raise. -/
theorem issueHead_writes {e : QEntry} (bs : List (Nat × Byte)) (flush : Bool)
    (hh : ((s.forme f).q.get .vq).head? = some e) (ha : (s.forme f).test.arm = false) :
    let t := galleyWrite (setFlush (issueHead s f .vq true none none) f flush) f bs
    GalleyWrites f bs s t ∧ LeavesHead f .vq true none none s t ∧ OnlyForme f [.q, .galley, .vu] s t ∧ Touches [.formes] s t := by
  intro t
  let u := issueHead s f .vq true none none
  have hflush : OnlyForme f [.vu] u (setFlush u f flush) := setFlush_only u f flush
  have harm : ((setFlush u f flush).forme f).test.arm = false := by
    rw [show ((setFlush u f flush).forme f).test = (u.forme f).test from hflush.2 .test (by decide), issueHead_test, ha]
  have hgalley : ((setFlush u f flush).forme f).galley = (s.forme f).galley :=
    (hflush.2 .galley (by decide)).trans (issueHead_galley s f .vq true none none)
  obtain ⟨hwrites, honly, htouch⟩ := galleyWrite_writes (u := setFlush u f flush) (f := f) bs harm
  have hq : (t.forme f).q = (u.forme f).q := (honly.2 .q (by decide)).trans (hflush.2 .q (by decide))
  exact ⟨GalleyWrites.from hwrites hgalley, LeavesHead.keep (issueHead_leaves true none none hh) hq,
    (((issueHead_only s f .vq true none none).mono (by decide)).trans (hflush.mono (by decide))).trans (honly.mono (by decide)),
    ((issueHead_touches s f .vq true none none).trans (setFlush_touches _ _ _)).trans htouch⟩

/-- The masks that a comparison grid gives are the rows of comparisons of its elements. -/
theorem compareGrid_masks (s : State) (f : FormeIx) :
    (compareGrid s f).map (fun x => maskBytes (x.map (·.1))) = (List.range (headVec s f).count).map (fun r =>
      let x (p r e : Nat) := ((headRec s f p).plane.elem (galleyRd (s.forme f)) r e).val (headCtl s f).subn
      leBytes 16 ((List.range (headVec s f).vlen).foldr (fun e acc => b2n (compareVals (headVec s f).aux
        (isPosit (headRec s f 0).format) (isPosit (headRec s f 1).format) (x 0 r e).1 (x 1 r e).1) + 2 * acc) 0)) := by
  simp [compareGrid, grid, maskBytes, sourceVals, List.foldr_map, Function.comp_def]

/-- Settles O20: VCMP issues and writes its masks; the bits above VLEN are those that the number of a mask leaves 0. -/
theorem vcmpWritesMasks : Obligations.VcmpWritesMasks := by
  intro f s v d x row hready ha hb
  obtain ⟨e, hh⟩ := head_of_ready hready
  have hrun : exec (.vcmp f) s = .next (galleyWrite
      (setFlush (issueHead s f .vq true none none) f ((compareGrid s f).any (fun x => x.any (·.2)))) f
      (planeBytes d.base d.pitch (2 ^ 40) ((compareGrid s f).map (fun x => maskBytes (x.map (·.1)))))) := by
    rw [show exec (.vcmp f) s = execVcmp f s from rfl, execVcmp, hready, onlyIf_true, vcmpRun, hb, runHead_plain]
  rw [compareGrid_masks] at hrun
  exact ⟨_, hrun, issueHead_writes _ _ hh ha⟩

/-! ### VSEL, VCVT (R296, R309, R271) -/

/-- R296: VSEL takes of each element the source that its mask bit names. -/
theorem selectGrid_eq (s : State) (f : FormeIx) :
    selectGrid s f = grid (headVec s f).count (headVec s f).vlen (fun r e =>
      if maskBit s f r e then ((headRec s f 0).plane.elem (galleyRd (s.forme f)) r e).val (headCtl s f).subn
      else ((headRec s f 1).plane.elem (galleyRd (s.forme f)) r e).val (headCtl s f).subn) := by
  unfold selectGrid grid sourceVals
  refine List.map_congr_left (fun r _ => List.map_congr_left (fun e _ => ?_))
  cases hm : maskBit s f r e <;> simp [hm]

/-- R309: VCVT takes its source as it is. -/
theorem elementGrid_source (s : State) (f : FormeIx) :
    elementGrid s f [0] (one id) = grid (headVec s f).count (headVec s f).vlen (fun r e =>
      ((headRec s f 0).plane.elem (galleyRd (s.forme f)) r e).val (headCtl s f).subn) := by
  simp [elementGrid, sourceVals, one]

/-- R271: a smoothing byte of 0xFF at the head of VQ is a program error with code 12. -/
theorem exec_vcvt_smoothBad (hready : vecReady s f 0x4A = true)
    (hs : smoothBad (s.forme f) (headDst s f) (headVec s f).count (headVec s f).vlen = true) :
    exec (.vcvt f) s = .next (progError s f .smoothOperand (queueCode .vq) 0 (headOf s f .vq).index) := by
  rw [show exec (.vcvt f) s = execVcvt f s from rfl, execVcvt, hready, onlyIf_true, vcvtRun, hs, if_pos rfl]

theorem exec_vcvt_ready (hready : vecReady s f 0x4A = true)
    (hs : smoothBad (s.forme f) (headDst s f) (headVec s f).count (headVec s f).vlen = false) :
    exec (.vcvt f) s = .next (runGrid s f (headRanges s f [0]) true (headDst s f) (elementGrid s f [0] (one id))) := by
  rw [show exec (.vcvt f) s = execVcvt f s from rfl, execVcvt, hready, onlyIf_true, vcvtRun, hs, if_neg Bool.false_ne_true]

theorem exec_vsel_ready (hready : vecReady s f 0x49 = true) :
    exec (.vsel f) s = .next (runGrid s f (headRanges s f [0, 1, 2]) false { headDst s f with jctl := 0 } (selectGrid s f)) := by
  rw [show exec (.vsel f) s = execVsel f s from rfl, execVsel, hready, onlyIf_true]

/-- Settles O21: VSEL and VCVT convert grids of sources, and the illegal smoothing byte stops the Forme. -/
theorem vselAndVcvtConvertTheirSources : Obligations.VselAndVcvtConvertTheirSources := by
  intro f s v c fm d d0 x bit
  refine ⟨fun hready hc hb => ?sel, fun hready hs hc hb => ?cvt, fun hready hs hf hv => ?bad⟩
  case sel =>
    have h := runGrid_converted (dl := false) (m := selectGrid s f) hready hc hb
    rw [selectGrid_eq] at h
    rw [exec_vsel_ready hready, selectGrid_eq]
    exact ⟨_, rfl, h⟩
  case cvt =>
    have h := runGrid_converted (dl := true) (m := elementGrid s f [0] (one id)) hready hc hb
    rw [elementGrid_source] at h
    rw [exec_vcvt_ready hready hs, elementGrid_source]
    exact ⟨_, rfl, h⟩
  case bad =>
    obtain ⟨herr, hstate, -, -, -, honly, htouch⟩ :=
      progError_facts s f .smoothOperand (queueCode .vq) 0 (headOf s f .vq).index hf hv
    exact ⟨_, exec_vcvt_smoothBad hready hs, herr, hstate, honly, htouch⟩

end

end Sys2Proof
end

section
/-! PROOFS. Chapter 7, the per-lane quires (R299 to R301). -/

namespace Sys2Proof

open Machine Laws

/-! ### Folds over the lanes -/

/-- Clearing quire j of some lanes changes the table of quires only. -/
theorem foldl_setLaneQuire_zero (j : Nat) (lanes : List Nat) (fm : Forme) :
    lanes.foldl (fun fm l => setLaneQuire fm l j 0) fm = { fm with vu := { fm.vu with
      vq := lanes.foldl (fun q l => tset (fun _ => 0) q (4 * l + j) 0) fm.vu.vq } } := by
  induction lanes generalizing fm with
  | nil => rfl
  | cons l lanes ih =>
    rw [List.foldl_cons, List.foldl_cons, ih]
    simp only [setLaneQuire]

/-- Setting quires from the Galley leaves the Galley that the next one comes from. -/
theorem foldl_loadQuire (v : (Nat → Byte) → Nat → BitVec 512) (quires : List Nat) (fm : Forme) :
    quires.foldl (fun fm i => { fm with vu := { fm.vu with vq := tset (fun _ => 0) fm.vu.vq i (v (galleyRd fm) i) } }) fm
      = { fm with vu := { fm.vu with
          vq := quires.foldl (fun q i => tset (fun _ => 0) q i (v (galleyRd fm) i)) fm.vu.vq } } := by
  induction quires generalizing fm with
  | nil => rfl
  | cons i quires ih =>
    rw [List.foldl_cons, List.foldl_cons, ih, galleyRd_congr (a := fm) rfl]
    rfl

/-- Quire j of lane l after an addition, with QSAT (R301). -/
def addLane (j : Nat) (g : Nat → Val) (fm : Forme) (l : Nat) : Forme :=
  let y := quireAdd (laneQuire fm l j) (quireUnits (g l))
  setQsat (setLaneQuire fm l j y.1) y.2

theorem addLane_vu_congr {a b : Forme} (h : a.vu = b.vu) (j : Nat) (g : Nat → Val) (l : Nat) :
    (addLane j g a l).vu = (addLane j g b l).vu := by
  simp only [addLane, setQsat, setLaneQuire, laneQuire, h]

theorem addLane_fTouches (j : Nat) (g : Nat → Val) (fm : Forme) (l : Nat) : FTouches [.vu] fm (addLane j g fm l) :=
  fTouches_vu fm _

/-- The additions of an accumulating instruction, vector by vector and lane by lane. -/
theorem quireAccumulate_eq (s : State) (f : FormeIx) (ps : List Nat) (g : List Val → Val) (fm : Forme) :
    quireAccumulate s f ps g fm = (List.range (headVec s f).count).foldl (fun a r =>
      (List.range (headVec s f).vlen).foldl (addLane (headVec s f).aux (fun l => g ((sourceVals s f ps r l).map (·.1)))) a) fm := rfl

/-- The additions see and change the vector unit only. -/
theorem quireAccumulate_vu_congr {a b : Forme} (h : a.vu = b.vu) (s : State) (f : FormeIx) (ps : List Nat) (g : List Val → Val) :
    (quireAccumulate s f ps g a).vu = (quireAccumulate s f ps g b).vu := by
  rw [quireAccumulate_eq, quireAccumulate_eq]
  refine List.foldl_rel (r := fun c d : Forme => c.vu = d.vu) h (fun r _ c d hcd => ?_)
  exact List.foldl_rel (r := fun c d : Forme => c.vu = d.vu) hcd (fun l _ _ _ hv => addLane_vu_congr hv _ _ l)

theorem quireAccumulate_fTouches (s : State) (f : FormeIx) (ps : List Nat) (g : List Val → Val) (fm : Forme) :
    FTouches [.vu] fm (quireAccumulate s f ps g fm) := by
  rw [quireAccumulate_eq]
  exact FTouches.foldl _ (fun a r => FTouches.foldl _ (fun b l => addLane_fTouches _ _ b l) _ a) _ fm

section
variable {f : FormeIx} {s : State}

/-! ### VQCLR, VQSAVE, VQLOAD, VQRED (R300) -/

theorem exec_vqclr_ready (h : vecReady s f 0x50 = true) :
    exec (.vqclr f) s = .next (modForme (issueHead s f .vq true none none) f (fun fm =>
      (List.range (headVec s f).vlen).foldl (fun fm l => setLaneQuire fm l (headVec s f).aux 0) fm)) := by
  rw [show exec (.vqclr f) s = execVqclr f s from rfl, execVqclr, h, onlyIf_true, vqclrRun, runHead_plain]

theorem exec_vqsave_ready (h : vecReady s f 0x56 = true) :
    exec (.vqsave f) s = .next (galleyWrite (issueHead s f .vq true none none) f
      (placed (headRec s f 3).base (quireArea (s.forme f)))) := by
  rw [show exec (.vqsave f) s = execVqsave f s from rfl, execVqsave, h, onlyIf_true, vqsaveRun, runHead_plain]

theorem exec_vqload_ready (h : vecReady s f 0x57 = true) (hb : (s.forme f).galley.firstBad [((headRec s f 0).base, 32768)] = none) :
    exec (.vqload f) s = .next (modForme (issueHead s f .vq true none none) f (fun fm =>
      (List.range 512).foldl (fun fm i => { fm with vu := { fm.vu with
        vq := tset (fun _ => 0) fm.vu.vq i (BitVec.ofNat 512 (readLe (galleyRd fm) ((headRec s f 0).base + 64 * i) 64)) } }) fm)) := by
  have hread : galleyBad (s.forme f) f [((headRec s f 0).base, 32768)] = none := by rw [galleyBad, hb]; rfl
  rw [show exec (.vqload f) s = execVqload f s from rfl, execVqload, h, onlyIf_true, vqloadRun, hread, runHead_plain]

theorem exec_vqred_ready (h : vecReady s f 0x55 = true) :
    exec (.vqred f) s = .next (modForme (issueHead s f .vq true none none) f (fun fm =>
      let y := quireAdd 0 (quireTotal fm (headVec s f).aux (headVec s f).vlen)
      setQsat (setLaneQuire fm 0 (headVec s f).aux y.1) y.2)) := by
  rw [show exec (.vqred f) s = execVqred f s from rfl, execVqred, h, onlyIf_true, vqredRun, runHead_plain]

theorem quireTotal_congr {a b : Forme} (h : a.vu = b.vu) (j vlen : Nat) : quireTotal a j vlen = quireTotal b j vlen := by
  unfold quireTotal laneQuire
  rw [h]

/-- Settles O22: each of the four issues and then changes the quires, or the Galley, as its rule says. -/
theorem laneQuiresClearSaveLoadReduce : Obligations.LaneQuiresClearSaveLoadReduce := by
  intro f s v fm sum
  have hvu := issueHead_vu s f .vq true none none
  refine ⟨fun hready => ?clear, fun hready hm ha => ?save, fun hready hb => ?load, fun hready => ?reduce⟩
  all_goals obtain ⟨e, hh⟩ := head_of_ready hready
  case clear =>
    rw [exec_vqclr_ready hready]
    refine ⟨_, rfl, ?_, issueHead_then hh (ps := [.vu]) ?_ (by decide)⟩
    · rw [modForme_forme_same, foldl_setLaneQuire_zero, hvu]
    · rw [foldl_setLaneQuire_zero]
      exact fTouches_vu _ _
  case save =>
    rw [exec_vqsave_ready hready]
    exact ⟨_, rfl, issueHead_stores_leaves _ _ hh (galley_wf_of_memOk hm f) ha⟩
  case load =>
    have hfold := foldl_loadQuire (fun rd i => BitVec.ofNat 512 (readLe rd ((headRec s f 0).base + 64 * i) 64)) (List.range 512)
    rw [exec_vqload_ready hready hb]
    refine ⟨_, rfl, ?_, issueHead_then hh (ps := [.vu]) ?_ (by decide)⟩
    · rw [modForme_forme_same, hfold, hvu, galleyRd_congr (issueHead_galley s f .vq true none none)]
    · rw [hfold]
      exact fTouches_vu _ _
  case reduce =>
    rw [exec_vqred_ready hready]
    refine ⟨_, rfl, ?_, issueHead_then hh (ps := [.vu]) (fTouches_vu _ _) (by decide)⟩
    rw [modForme_forme_same, quireTotal_congr hvu]
    simp only [setQsat, setLaneQuire, hvu, Nat.mul_zero, Nat.zero_add]
    rfl

/-! ### VQMAC, VQADD, VQSUB, VQRND (R299, R301) -/

theorem exec_quireRun_accumulates {i : Instr} {op : Nat} {ps : List Nat} {g : List Val → Val}
    (hi : exec i s = onlyIf (vecReady s f op) s (quireRun s f ps g)) (hready : vecReady s f op = true)
    (hb : galleyBad (s.forme f) f (headRanges s f ps) = none) :
    ∃ t, exec i s = .next t ∧ (t.forme f).vu = (quireAccumulate s f ps g (s.forme f)).vu
      ∧ LeavesHead f .vq true none none s t ∧ OnlyForme f [.q, .vu] s t ∧ Touches [.formes] s t := by
  obtain ⟨e, hh⟩ := head_of_ready hready
  rw [hi, hready, onlyIf_true, quireRun, hb, runHead_plain]
  refine ⟨_, rfl, ?_, issueHead_then hh (quireAccumulate_fTouches s f ps g _) (by decide)⟩
  rw [modForme_forme_same]
  exact quireAccumulate_vu_congr (issueHead_vu s f .vq true none none) s f ps g

/-- Settles O24: the three accumulating instructions add element by element, and VQRND converts one row of quires. -/
theorem laneQuiresAccumulateAndRound : Obligations.LaneQuiresAccumulateAndRound := by
  intro f s v c fm d x
  refine ⟨fun i op ps g hmem hready hb => ?accumulate, fun hready hc hb => ?round⟩
  case accumulate =>
    simp only [List.mem_cons, List.not_mem_nil, or_false, Prod.mk.injEq] at hmem
    have hi : ∃ k : List Val → Val, exec i s = onlyIf (vecReady s f op) s (quireRun s f ps k)
        ∧ ∀ r l, k ((sourceVals s f ps r l).map (·.1)) = g r l := by
      rcases hmem with ⟨rfl, rfl, rfl, rfl⟩ | ⟨rfl, rfl, rfl, rfl⟩ | ⟨rfl, rfl, rfl, rfl⟩
      · exact ⟨two Val.mul, rfl, fun _ _ => rfl⟩
      · exact ⟨one id, rfl, fun _ _ => rfl⟩
      · exact ⟨one Val.neg, rfl, fun _ _ => rfl⟩
    obtain ⟨k, hi, hk⟩ := hi
    obtain ⟨t, ht, hvu, hrest⟩ := exec_quireRun_accumulates hi hready hb
    refine ⟨t, ht, hvu.trans ?_, hrest⟩
    rw [quireAccumulate_eq]
    simp only [hk]
    rfl
  case round =>
    rw [show exec (.vqrnd f) s = execVqrnd f s from rfl, execVqrnd, hready, onlyIf_true]
    exact ⟨_, rfl, runGrid_converted (reads := []) hready hc hb⟩

end

end Sys2Proof
end

section
/-! PROOFS. Chapter 7, rows normalised (VRMS), ranked (VTOPK), and the scales and factors of VSCALE and VSMOOTH. -/

namespace Sys2Proof

open Machine Laws

section
variable {f : FormeIx} {s : State}

/-! ### VRMS (R303 to R305) -/

/-- A conversion that follows the issue of a head and a change of the vector unit. -/
theorem issueHead_vu_convert {e : QEntry} {ctx : Option (Fin 16)} {g : Forme → Forme} (c : Ctl) (d : Dst) (dl : Bool)
    (m : List (List (Val × Bool))) (hh : ((s.forme f).q.get .vq).head? = some e) (hg : ∀ fm, FTouches [.vu] fm (g fm)) :
    let t := convertGrid (modForme (issueHead s f .vq true ctx none) f g) f c dl d m
    LeavesHead f .vq true ctx none s t ∧ OnlyForme f [.q, .galley, .vu, .test] s t
      ∧ Touches [.formes, .tbl, .proof, .colo, .cores, .out] s t := by
  intro t
  obtain ⟨hleaves, honly, htouch⟩ := issueHead_then (ctx := ctx) hh (hg _) (by decide)
  have hconv := convertGrid_only (modForme (issueHead s f .vq true ctx none) f g) f c dl d m
  refine ⟨LeavesHead.keep hleaves (hconv.2 .q (by decide)), (honly.mono (by decide)).trans (hconv.mono (by decide)), ?_⟩
  exact convertGrid_touch _ f c dl d m (by decide) (by decide) (by decide) (by decide) (by decide) (by decide)
    (htouch.mono (by decide))

theorem rmsStatus_fTouches (rs : List RmsRow) (fm : Forme) : FTouches [.vu] fm (rmsStatus fm rs) := fTouches_vu fm _

/-- R305: a negative ε is a program error with code 11. -/
theorem exec_vrms_epsNegative (hready : vecReady s f 0x58 = true) (he : epsNegative s f = true) :
    exec (.vrms f) s = .next (progError s f .vrmsEps (queueCode .vq) 0 (headOf s f .vq).index) := by
  rw [show exec (.vrms f) s = execVrms f s from rfl, execVrms, hready, onlyIf_true, vrmsRun, he, if_pos rfl]

/-- Settles O25: with ε not negative VRMS sets its status and converts its rows; else the Forme stops. -/
theorem vrmsNormalisesItsRows : Obligations.VrmsNormalisesItsRows := by
  intro f s fm c d rs ctx
  refine ⟨fun hready he hc hb => ?rows, fun hready he hf hv => ?bad⟩
  case rows =>
    obtain ⟨e, hh⟩ := head_of_ready hready
    rw [show exec (.vrms f) s = execVrms f s from rfl, execVrms, hready, onlyIf_true, vrmsRun, he, if_neg Bool.false_ne_true]
    dsimp only
    rw [hb, runHead_runs hc]
    exact ⟨_, rfl, rfl, issueHead_vu_convert c d false _ hh (rmsStatus_fTouches rs.1)⟩
  case bad =>
    obtain ⟨herr, hstate, -, -, -, honly, htouch⟩ := progError_facts s f .vrmsEps (queueCode .vq) 0 (headOf s f .vq).index hf hv
    exact ⟨_, exec_vrms_epsNegative hready he, herr, hstate, honly, htouch⟩

/-! ### VTOPK (R306) -/

theorem padTo_length {α : Type} {n : Nat} {l : List α} (h : l.length ≤ n) (x : α) : (padTo n x l).length = n := by
  rw [padTo, List.take_of_length_le h, List.length_append, List.length_replicate]
  omega

/-- The ranking keeps at most k entries. -/
theorem topOf_length_le {α : Type} (k : Nat) (xs : List (Val × α)) : (topOf k xs).length ≤ k := by
  have hfold (acc : List (Val × α)) (hacc : acc.length ≤ k) :
      (xs.foldl (fun acc x => (rankInsert x acc).take k) acc).length ≤ k := by
    induction xs generalizing acc with
    | nil => exact hacc
    | cons x xs ih => exact ih _ (List.length_take_le _ _)
  exact hfold [] (Nat.zero_le k)

theorem topkRow_length (s : State) (f : FormeIx) (r : Nat) : (topkRow s f r).length = (headVec s f).aux + 1 :=
  padTo_length (by rw [List.length_map]; exact topOf_length_le _ _) _

/-- Settles O26: VTOPK issues and writes both records; each row has the AUX + 1 entries that the padding completes. -/
theorem vtopkWritesPositionsAndPatterns : Obligations.VtopkWritesPositionsAndPatterns := by
  intro f s p d rows hready ha hb
  refine ⟨fun r hr => ?_, ?_⟩
  · obtain ⟨i, -, rfl⟩ := List.mem_map.mp hr
    exact topkRow_length s f i
  · obtain ⟨e, hh⟩ := head_of_ready hready
    rw [show exec (.vtopk f) s = execVtopk f s from rfl, execVtopk, hready, onlyIf_true, vtopkRun, hb, runHead_plain]
    exact ⟨_, rfl, issueHead_writes _ _ hh ha⟩

/-! ### VSCALE, VSMOOTH (R307, R308, R272) -/

/-- Numbering the cells of a grid gives each its place. -/
theorem zipIdx_map_range {α β : Type} (n : Nat) (g : Nat → α) (h : Nat → α → β) :
    ((List.range n).map g).zipIdx.map (fun p => h p.2 p.1) = (List.range n).map (fun i => h i (g i)) := by
  refine List.ext_getElem (by simp) (fun i h1 h2 => ?_)
  simp

theorem grid_zipIdx {α β : Type} (count vlen : Nat) (g : Nat → Nat → α) (h : Nat → Nat → α → β) :
    (grid count vlen g).zipIdx.map (fun r => r.1.zipIdx.map (fun c => h r.2 c.2 c.1))
      = grid count vlen (fun r e => h r e (g r e)) := by
  refine (zipIdx_map_range count (fun r => (List.range vlen).map (g r)) (fun r row => row.zipIdx.map (fun c => h r c.2 c.1))).trans ?_
  exact List.map_congr_left (fun r _ => zipIdx_map_range vlen (g r) (h r))

/-- Bytes that a head of VQ writes after its issue and the use of free values. -/
theorem issueHead_useFree_writes {e : QEntry} (n : Nat) (bs : List (Nat × Byte)) (flush : Bool)
    (hh : ((s.forme f).q.get .vq).head? = some e) (ha : (s.forme f).test.arm = false) :
    let t := galleyWrite (setFlush (useFree (issueHead s f .vq true none none) n) f flush) f bs
    GalleyWrites f bs s t ∧ LeavesHead f .vq true none none s t ∧ OnlyForme f [.q, .galley, .vu] s t
      ∧ Touches [.formes, .free] s t := by
  have hfree : Touches [.free] s (useFree s n) := useFree_touch s n (by decide) (Touches.refl _ s)
  obtain ⟨hwrites, hleaves, honly, htouch⟩ := issueHead_writes (s := useFree s n) bs flush hh ha
  exact ⟨hwrites, hleaves, honly, (hfree.mono (by decide)).trans (htouch.mono (by decide))⟩

/-- Bytes that a head of VQ writes after its issue alone. -/
theorem issueHead_writes_plain {e : QEntry} (bs : List (Nat × Byte)) (hh : ((s.forme f).q.get .vq).head? = some e)
    (ha : (s.forme f).test.arm = false) :
    let t := galleyWrite (issueHead s f .vq true none none) f bs
    GalleyWrites f bs s t ∧ LeavesHead f .vq true none none s t ∧ OnlyForme f [.q, .galley] s t ∧ Touches [.formes] s t := by
  intro t
  have harm : ((issueHead s f .vq true none none).forme f).test.arm = false := by rw [issueHead_test, ha]
  obtain ⟨hwrites, honly, htouch⟩ := galleyWrite_writes bs harm
  exact ⟨GalleyWrites.from hwrites (issueHead_galley s f .vq true none none),
    LeavesHead.keep (issueHead_leaves true none none hh) (honly.2 .q (by decide)),
    ((issueHead_only s f .vq true none none).mono (by decide)).trans (honly.mono (by decide)),
    (issueHead_touches s f .vq true none none).trans htouch⟩

/-- R272: the factor of a pair of maxima, a free value for a pair that the rule gives none (log 4). -/
def smoothByte (s : State) (f : FormeIx) (r e : Nat) (xs : List (Val × Bool)) : Byte :=
  match smoothFactor (s.forme f).lat.smoothAlpha.toNat (xs.getD 0 (.nan, false)).1 (xs.getD 1 (.nan, false)).1 with
  | some n => BitVec.ofNat 8 n
  | none => Config.freeByte s.free (r * 128 + e)

theorem exec_vsmooth_ready (hready : vecReady s f 0x5B = true)
    (hb : galleyBad (s.forme f) f (headRanges s f [0, 1]) = none) :
    ∃ flush, exec (.vsmooth f) s = .next (galleyWrite (setFlush (useFree (issueHead s f .vq true none none) 1) f flush) f
      (planeBytes (headRec s f 3).base (headRec s f 3).pitch (2 ^ 40) (grid (headVec s f).count (headVec s f).vlen
        (fun r e => smoothByte s f r e (sourceVals s f [0, 1] r e))))) := by
  rw [← grid_zipIdx, show exec (.vsmooth f) s = execVsmooth f s from rfl, execVsmooth, hready, onlyIf_true, vsmoothRun, hb,
    runHead_plain]
  exact ⟨_, rfl⟩

/-- Settles O27: VSCALE stores the scales of the quantised grid, VSMOOTH the factors cell by cell. -/
theorem vscaleAndVsmoothWriteTheirBytes : Obligations.VscaleAndVsmoothWriteTheirBytes := by
  intro f s fm v x d ts q factor
  refine ⟨fun hready ha hb => ?scale, fun hready ha hb => ?smooth⟩
  all_goals obtain ⟨e, hh⟩ := head_of_ready hready
  case scale =>
    rw [show exec (.vscale f) s = execVscale f s from rfl, execVscale, hready, onlyIf_true, vscaleRun, hb, runHead_plain]
    exact ⟨_, rfl, issueHead_writes_plain _ hh ha⟩
  case smooth =>
    obtain ⟨flush, hrun⟩ := exec_vsmooth_ready hready hb
    exact ⟨_, hrun, issueHead_useFree_writes 1 _ flush hh ha⟩

end

end Sys2Proof
end

section
/-! PROOFS. Chapter 8, dispatch (R350 to R352), the grant of a wait (R356, R357) and the token instructions (R385, R425). -/

namespace Sys2Proof

open Machine Laws

section
variable {f : FormeIx} {s : State}

/-! ### Dispatch -/

/-- R361, R362: an instruction that fails no check leaves a balance. -/
theorem balanceAfter_of_checkFails {x : Fetched} (h : checkFails s f x = none) :
    ∃ b, balanceAfter (s.forme f) x.word = .inl b := by
  cases hb : balanceAfter (s.forme f) x.word with
  | inl b => exact ⟨b, rfl⟩
  | inr e => rw [checkFails, hb] at h; dsimp only at h; repeat' split at h
             all_goals cases h

/-- R350: an instruction that passes its checks goes to its queue while there is room. -/
theorem dispatchNext_room {b : Vector (BitVec 16) 16} (hg : gddrRange s.gddr (nextWordAddr (s.forme f)) 16 = true)
    (hl : fetchLost s f = none) (hc : checkFails s f (fetchNext s f) = none)
    (hq : ((s.forme f).q.get (queueOf (wfield (fetchNext s f).word 0 8))).length
      < queueDepth (queueOf (wfield (fetchNext s f).word 0 8)))
    (hb : balanceAfter (s.forme f) (fetchNext s f).word = .inl b) :
    dispatchNext s f = pushEntry s f (entryOf s f (fetchNext s f)) b := by
  rw [dispatchNext, hg, hl]
  dsimp only
  rw [hc, Bool.not_true, if_neg Bool.false_ne_true]
  dsimp only
  rw [if_pos hq, hb]

theorem pushEntry_only (e : QEntry) (b : Vector (BitVec 16) 16) :
    OnlyForme f [.fe, .q, .bal, .dests] s (pushEntry s f e b) :=
  OnlyForme.mod s f _ (by intro p hp; cases p <;> simp at hp <;> rfl)

/-- What the entry of a fetched instruction holds. -/
theorem entryOf_holds (s : State) (f : FormeIx) (x : Fetched) :
    let e := entryOf s f x
    e.word = x.word ∧ e.index.toNat = (s.forme f).fe.next % 2 ^ 24 ∧ e.recs = x.recs ∧ e.desc = x.desc
      ∧ (e.granted = true ↔ wcnt x.word = 0) ∧ e.since = s.tb.ns :=
  ⟨rfl, BitVec.toNat_ofNat _ _, rfl, rfl, decide_eq_true_iff, rfl⟩

/-- The queues, the flights, the front end and the balance once an entry is pushed. -/
theorem pushEntry_forme (s : State) (f : FormeIx) (e : QEntry) (b : Vector (BitVec 16) 16) :
    let fm := s.forme f
    let fm' := (pushEntry s f e b).forme f
    fm'.q.get (queueOf e.op) = fm.q.get (queueOf e.op) ++ [e]
      ∧ (∀ r, r ≠ queueOf e.op → fm'.q.get r = fm.q.get r) ∧ fm'.q.flights = fm.q.flights
      ∧ fm'.fe = { fm.fe with next := fm.fe.next + 1, stall := 0 } ∧ fm'.bal = b := by
  intro fm fm'
  have hforme : fm' = { fm with
      bal := b, fe := { fm.fe with next := fm.fe.next + 1, stall := 0 }
      q := fm.q.put (queueOf e.op) (fm.q.get (queueOf e.op) ++ [e]), dests := fm.dests ++ destRanges s f e } :=
    modForme_forme_same s f _
  rw [hforme]
  exact ⟨queue_get_put_same fm.q _ _, fun r hr => queue_get_put_other fm.q _ r _ hr, queue_put_flights fm.q _ _, rfl, rfl⟩

/-- Settles O7: the checks leave a balance, and with room in its queue the entry of the instruction is pushed there. -/
theorem dispatchAppendsToItsQueue : Obligations.DispatchAppendsToItsQueue := by
  intro f s fm x q hu hr hn hg hl hc hq
  obtain ⟨b, hb⟩ := balanceAfter_of_checkFails hc
  have hrun := (exec_instructionDispatch_ready hu hr hn).trans (congrArg _ (dispatchNext_room hg hl hc hq hb))
  obtain ⟨hword, hrest⟩ := entryOf_holds s f x
  have hop : queueOf (entryOf s f x).op = q := by rw [QEntry.op, hword]
  obtain ⟨htail, hother, hflights, hfe, hbal⟩ := pushEntry_forme s f (entryOf s f x) b
  rw [hop] at htail hother
  exact ⟨_, hrun, ⟨_, htail, hword, hrest⟩, hother, hflights, hfe, hb.trans (congrArg _ hbal.symm), pushEntry_only _ _, modForme_touches s f _⟩

/-! ### Grants -/

theorem waitGrantEffect_head {q : Queue} {e : QEntry} {rest : List QEntry} (hh : (s.forme f).q.get q = e :: rest)
    (hg : e.granted = false) :
    waitGrantEffect s f q = modForme s f (fun fm =>
      { fm with tok := vmod fm.tok (wtok e.word).toFin (· - BitVec.ofNat 32 (wcnt e.word)), q := fm.q.put q (grantHead (fm.q.get q)) }) := by
  simp [waitGrantEffect, ungrantedHead, hh, hg]

/-- Settles O10: the head is granted and its count subtracted; the count does not exceed the token, so nothing wraps. -/
theorem grantSubtractsItsCount : Obligations.GrantSubtractsItsCount := by
  intro f q s e rest fm hu hh hg hgrant
  have hready : waitGrantReady s f q = true := by
    rw [waitGrantReady, hu, Bool.true_and, ungrantedHead, hh]
    simp [hg, hgrant, fm]
  have hcount : wcnt e.word ≤ (fm.tok[(wtok e.word).toFin]).toNat := by
    simp only [grantable, Bool.and_eq_true, decide_eq_true_eq] at hgrant
    exact hgrant.2
  have hforme : (waitGrantEffect s f q).forme f = { fm with
      tok := vmod fm.tok (wtok e.word).toFin (· - BitVec.ofNat 32 (wcnt e.word)), q := fm.q.put q (grantHead (fm.q.get q)) } := by
    rw [waitGrantEffect_head hh hg, modForme_forme_same]
  refine ⟨waitGrantEffect s f q, ?run, ?head, ?others, ?flights, ?token, ?tokens, ?only, ?touches⟩
  case run =>
    rw [show exec (.waitGrant f q) s = execWaitGrant f q s from rfl, execWaitGrant, hready, onlyIf_true]
  case head => rw [hforme, queue_get_put_same, show fm.q.get q = e :: rest from hh]; rfl
  case others => intro r hr; rw [hforme, queue_get_put_other fm.q q r _ hr]
  case flights => rw [hforme, queue_put_flights]
  case token =>
    rw [hforme, vmod_get_same]
    have hlt := (fm.tok[(wtok e.word).toFin]).isLt
    rw [BitVec.toNat_sub_of_le, BitVec.toNat_ofNat, Nat.mod_eq_of_lt (by omega)]
    rw [BitVec.le_def, BitVec.toNat_ofNat, Nat.mod_eq_of_lt (by omega)]
    exact hcount
  case tokens => intro j hj; rw [hforme, vmod_get_other _ _ _ _ hj]
  case only =>
    rw [waitGrantEffect_head hh hg]
    exact OnlyForme.mod s f _ (by intro p hp; cases p <;> simp at hp <;> rfl)
  case touches => rw [waitGrantEffect_head hh hg]; exact modForme_touches s f _

/-! ### TSIG, TWAIT, TTIME -/

/-- A head of SQ that only leaves its queue. -/
theorem issueHead_sq_only {e : QEntry} (hh : (s.forme f).q.sq.head? = some e) :
    LeavesHead f .sq true none none s (issueHead s f .sq true none none)
      ∧ OnlyForme f [.q] s (issueHead s f .sq true none none) ∧ Touches [.formes] s (issueHead s f .sq true none none) :=
  ⟨issueHead_leaves (q := .sq) true none none hh, issueHead_only s f .sq true none none,
    issueHead_touches s f .sq true none none⟩

theorem ttimeDue_head {e : QEntry} (hh : (s.forme f).q.sq.head? = some e) :
    ttimeDue s f = decide ((sword e.word).val ≤ s.tb.ns.toNat) := by
  rw [ttimeDue, headOf_eq (q := .sq) hh]

/-- Settles O13: the three instructions only leave SQ, a TTIME once its time has come. -/
theorem tokenScalarsOnlyIssue : Obligations.TokenScalarsOnlyIssue := by
  intro f s e hu hh hg
  refine ⟨fun ho => ?tsig, fun ho => ?twait, fun ho hdue => ?due, fun ho hearly => ?early⟩
  case tsig =>
    refine ⟨_, ?_, issueHead_sq_only hh⟩
    rw [show exec (.tsig f) s = execTsig f s from rfl, execTsig, headIs_of (q := .sq) hu hh hg ho, onlyIf_true, runHead_plain]
    rfl
  case twait =>
    refine ⟨_, ?_, issueHead_sq_only hh⟩
    rw [show exec (.twait f) s = execTwait f s from rfl, execTwait, headIs_of (q := .sq) hu hh hg ho, onlyIf_true, runHead_plain]
    rfl
  case due =>
    refine ⟨_, ?_, issueHead_sq_only hh⟩
    rw [show exec (.ttime f) s = execTtime f s from rfl, execTtime, headIs_of (q := .sq) hu hh hg ho, ttimeDue_head hh,
      decide_eq_true hdue, Bool.and_self, onlyIf_true, runHead_plain]
    rfl
  case early =>
    rw [show exec (.ttime f) s = execTtime f s from rfl, execTtime, ttimeDue_head hh,
      decide_eq_false (Nat.not_le.mpr hearly), Bool.and_false, onlyIf_false]

/-! ### SCALEPUSH (R284 to R286) -/

/-- R285: what a push takes from its operand or from PENDING, and whether it was replaced. -/
theorem pushOperand_eq (h : Nat) :
    pushOperand h = (if 0x7F800000 ≤ h % 2 ^ 31 then 0x7F7FFFFF else h % 2 ^ 31, decide (0x7F800000 ≤ h % 2 ^ 31)) := by
  rw [pushOperand]
  split
  next h => rw [decide_eq_true h]
  next h => rw [decide_eq_false h]

/-- The maximum that a SCALEPUSH pushes, and whether it was replaced for being NaN or infinite. -/
def pushedMaximum (s : State) (f : FormeIx) (w : SWord) : Nat × Bool :=
  if w.form then pushOperand (readLe (galleyRd (s.forme f)) w.gaddr 4)
  else ((histEntry s (w.val % 4096)).pending.toNat, false)

/-- R284: the entry after the push of a SCALEPUSH. -/
def pushedEntry (s : State) (f : FormeIx) (w : SWord) : HistEntry :=
  pushHist (histEntry s (w.val % 4096)) (pushedMaximum s f w).1 (s.forme f).lat.g1Margin.toNat (pushedMaximum s f w).2
    ((Config.freeWord s.free).setWidth 8)

theorem scalepushEffect_eq (f : FormeIx) (w : SWord) (s : State) :
    scalepushEffect f w s = if (pushedMaximum s f w).2
      then raiseAlarm (setHist (useFree s 1) (w.val % 4096) (pushedEntry s f w)) (BitVec.ofNat 12 (w.val % 4096)) 6
      else setHist (useFree s 1) (w.val % 4096) (pushedEntry s f w) := rfl

/-- R284: a push puts its maximum at HEAD, advances HEAD and COUNT, clears PENDING and only sets FLAT and STALE. -/
theorem pushHist_holds (e : HistEntry) (h margin : Nat) (stale : Bool) (free : BitVec 8) :
    let new := pushHist e h margin stale free
    new.amax = vset e.amax e.head.toFin (BitVec.ofNat 32 h) ∧ new.head = e.head + 1
      ∧ new.count.toNat = (if e.count.toNat < 16 then e.count.toNat + 1 else 16)
      ∧ new.pending = 0 ∧ new.fmt = e.fmt ∧ new.enable = e.enable ∧ new.rebuilt = e.rebuilt
      ∧ new.flat = (e.flat || decide (h = 0)) ∧ new.stale = (e.stale || stale) := by
  refine ⟨rfl, rfl, ?_, rfl, rfl, rfl, rfl, rfl, rfl⟩
  show (if e.count.toNat < 16 then e.count + 1 else 16 : BitVec 5).toNat = _
  split
  · rw [BitVec.toNat_add]
    change (e.count.toNat + 1) % 32 = _
    omega
  · rfl

theorem scalepushEffect_hist (f : FormeIx) (w : SWord) (s : State) :
    (scalepushEffect f w s).tbl.hist = tset histDefault s.tbl.hist (w.val % 4096) (pushedEntry s f w) := by
  rw [scalepushEffect_eq]
  split
  · rw [raiseAlarm_hist]; rfl
  · rfl

theorem scalepushEffect_only (f : FormeIx) (w : SWord) (s : State) (ps : List FPart) :
    OnlyForme f ps s (scalepushEffect f w s) :=
  OnlyForme.of_touch (scalepushEffect_touch (qs := [.tbl, .free, .proof, .colo, .cores, .out]) f w s
    (by decide) (by decide) (by decide) (by decide) (by decide) (by decide) (Touches.refl _ s)) (by decide)

/-- The issue of a head leaves what a push reads. -/
theorem pushedMaximum_issueHead (s : State) (f : FormeIx) (w : SWord) :
    pushedMaximum (issueHead s f .sq true none none) f w = pushedMaximum s f w := by
  rw [pushedMaximum, pushedMaximum, galleyRd_congr (issueHead_galley s f .sq true none none)]
  rfl

theorem exec_scalepush_ready {e : QEntry} (hu : unitsOn s = true) (hh : (s.forme f).q.sq.head? = some e) (hg : e.granted = true)
    (ho : e.op = 0x74)
    (hb : (sword e.word).form = true → (s.forme f).galley.firstBad [((sword e.word).gaddr, 4)] = none) :
    exec (.scalepush f) s = .next (scalepushEffect f (sword e.word) (issueHead s f .sq true none none)) := by
  have hread : scalepushBad s f = none := by
    rw [scalepushBad, headOf_eq (q := .sq) hh]
    split
    next hform => rw [galleyBad, hb hform]; rfl
    next => rfl
  rw [show exec (.scalepush f) s = execScalepush f s from rfl, execScalepush, headIs_of (q := .sq) hu hh hg ho, onlyIf_true,
    hread, runHead_plain, headOf_eq (q := .sq) hh]

/-- Settles O15: the head issues and its maximum is pushed; only a replaced maximum also raises an alarm. -/
theorem scalepushPushesAMaximum : Obligations.ScalepushPushesAMaximum := by
  intro f s e w g old given odd h hu hh hg ho hb
  let s1 := issueHead s f .sq true none none
  have hissue := issueHead_touches s f .sq true none none
  have hpushed : pushedMaximum s f w = (h, odd) := by
    show (if w.form then pushOperand _ else _) = _
    cases hform : w.form with
    | true => rw [if_pos rfl, pushOperand_eq]; simp [h, odd, given, hform]
    | false => simp [h, odd, given, hform]; rfl
  have hentry : pushedEntry s1 f w
      = pushHist old h (s1.forme f).lat.g1Margin.toNat odd ((Config.freeWord s1.free).setWidth 8) := by
    rw [pushedEntry, pushedMaximum_issueHead, hpushed]
    rfl
  obtain ⟨hamax, hhead, hcount, hpending, hfmt, henable, hrebuilt, hflat, hstale⟩ :=
    pushHist_holds old h (s1.forme f).lat.g1Margin.toNat odd ((Config.freeWord s1.free).setWidth 8)
  rw [← hentry] at hamax hhead hcount hpending hfmt henable hrebuilt hflat hstale
  refine ⟨_, pushedEntry s1 f w, exec_scalepush_ready hu hh hg ho hb, scalepushEffect_hist f w s1, hamax, hhead, hcount, hpending,
    hfmt, henable, hrebuilt, hflat, hstale, ?plain, ?leaves, ?only, ?touches⟩
  case plain =>
    intro hodd
    have hplain : scalepushEffect f w s1 = setHist (useFree s1 1) g (pushedEntry s1 f w) := by
      rw [scalepushEffect_eq, pushedMaximum_issueHead, hpushed, hodd, if_neg Bool.false_ne_true]
    rw [hplain]
    exact ⟨rfl, setHist_touch _ _ _ (by decide) (useFree_touch _ 1 (by decide) (hissue.mono (by decide)))⟩
  case leaves =>
    exact LeavesHead.keep (issueHead_leaves (q := .sq) true none none hh) ((scalepushEffect_only f w s1 []).2 .q (by decide))
  case only => exact (issueHead_only s f .sq true none none).trans (scalepushEffect_only f w s1 _)
  case touches =>
    exact scalepushEffect_touch f w s1 (by decide) (by decide) (by decide) (by decide) (by decide) (by decide)
      (hissue.mono (by decide))

end

end Sys2Proof
end

section
/-! PROOFS. Chapter 7, the Fount: functions evaluated from a slot (R313 to R315) and loads of a slot (R335, R336). -/

namespace Sys2Proof

open Machine Laws

section
variable {f : FormeIx} {s : State}

/-- A command of FQ that may run stands at the head of FQ. -/
theorem head_of_fqHead {op : Nat} (h : fqHead s f op = true) : ∃ e, ((s.forme f).q.get .fq).head? = some e := by
  obtain ⟨e, rest, hl, -⟩ := head_of_headIs h
  exact ⟨e, by rw [hl]; rfl⟩

/-! ### FUNC -/

theorem funcWrite_only (f : FormeIx) (s : State) (w : FWord) (d : Dst) (m : List (List (Val × Bool))) :
    OnlyForme f [.galley, .vu, .test] s (funcWrite f s w d m) := by
  refine OnlyForme.trans ?_ (storeOut_only f _)
  refine OnlyForme.trans ?_ (convertRegion_only _ _ _ _ _ _)
  exact only_ite (OnlyForme.mod _ _ _ ((setCvt_only _ _).mono (by decide))) (OnlyForme.refl _ _ _)

/-- R314: a FUNC whose slot does not serve it is a program error with code 10. -/
theorem exec_func_unserved (hready : funcReady s f = true)
    (hs : slotServes (s.forme f).vu.slots[(headFunc s f).slot] (headFunc s f).fn (funcRec s f 0).format
      { (funcRec s f 1).dst ((headOf s f .fq).clsAt 1) with jctl := 0 }.fmt = false) :
    exec (.func f) s = .next (progError s f .fountSlot (queueCode .fq) 0 (headOf s f .fq).index) := by
  rw [show exec (.func f) s = execFunc f s from rfl, execFunc, hready, onlyIf_true, funcRun]
  dsimp only
  rw [hs, Bool.not_false, if_pos rfl]

/-- R313, R315: a FUNC that is served and meets no failing byte issues and writes the values of its elements. -/
theorem exec_func_served (hready : funcReady s f = true)
    (hs : slotServes (s.forme f).vu.slots[(headFunc s f).slot] (headFunc s f).fn (funcRec s f 0).format
      { (funcRec s f 1).dst ((headOf s f .fq).clsAt 1) with jctl := 0 }.fmt = true)
    (hb : galleyBad (s.forme f) f ((funcRec s f 0).plane.ranges (headFunc s f).count (headFunc s f).vlen) = none)
    (hl : badLines (s.forme f) (funcLookups s f) = []) (ht : (s.forme f).vu.ftFail = none) :
    exec (.func f) s = .next (funcWrite f (issueHead s f .fq true none (some (headFunc s f).slot)) (headFunc s f)
      { (funcRec s f 1).dst ((headOf s f .fq).clsAt 1) with jctl := 0 }
      (grid (headFunc s f).count (headFunc s f).vlen (funcValue s f))) := by
  have hsettle : modForme s f (fun fm => settleLine fm (funcLookups s f)) = s :=
    modForme_self (by rw [settleLine, ht])
  rw [show exec (.func f) s = execFunc f s from rfl, execFunc, hready, onlyIf_true, funcRun]
  dsimp only
  rw [hs, Bool.not_true, if_neg Bool.false_ne_true, hb]
  dsimp only
  rw [hl, List.find?_nil, List.foldl_nil, if_pos rfl, hsettle]
  rfl

/-- Settles O28: a served FUNC issues with its slot claimed and converts its values; an unserved one stops the Forme. -/
theorem funcEvaluatesItsTable : Obligations.FuncEvaluatesItsTable := by
  intro f s fm w a d
  refine ⟨fun hready hs hb hl ht => ?served, fun hready hs hf hv => ?unserved⟩
  case served =>
    obtain ⟨e, hh⟩ := head_of_fqHead (Bool.and_eq_true_iff.mp hready).1
    have hissue := issueHead_touches s f .fq true none (some w.slot)
    have honly := funcWrite_only f (issueHead s f .fq true none (some w.slot)) w d (grid w.count w.vlen (funcValue s f))
    refine ⟨_, exec_func_served hready hs hb hl ht, rfl, LeavesHead.keep (issueHead_leaves true none _ hh) (honly.2 .q (by decide)),
      ((issueHead_only s f .fq true none _).mono (by decide)).trans (honly.mono (by decide)), ?_⟩
    exact funcWrite_touch f _ w d _ (by decide) (by decide) (by decide) (by decide) (by decide) (by decide)
      (hissue.mono (by decide))
  case unserved =>
    obtain ⟨herr, hstate, -, -, -, honly, htouch⟩ :=
      progError_facts s f .fountSlot (queueCode .fq) 0 (headOf s f .fq).index hf hv
    exact ⟨_, exec_func_unserved hready hs, herr, hstate, honly, htouch⟩

/-! ### FTLOAD -/

theorem exec_ftload_ready (hready : ftloadReady s f = true) : exec (.ftload f) s = .next (ftloadEffect s f) := by
  rw [show exec (.ftload f) s = execFtload f s from rfl, execFtload, hready, onlyIf_true]

/-- The Forme's record of a load whose transfer has started. -/
def startedLoad (l : FtLoad) (fm : Forme) : Forme :=
  { fm with vu := { fm.vu with ftLoad := some { l with started := true }
                               slots := vmod fm.vu.slots l.slot (fun x => { x with valid := false }) } }

/-- The load that an FTLOAD leaves in its Forme before its transfer starts. -/
def heldLoad (e : QEntry) : FtLoad :=
  ⟨e.index, (lword e.word).slot, BitVec.ofNat 2 (lword e.word).kind, BitVec.ofNat 4 (lword e.word).func,
    BitVec.ofNat 16 (lword e.word).version, BitVec.ofNat 52 (lword e.word).src, false, [], []⟩

theorem ftloadEffect_eq (s : State) (f : FormeIx) :
    ftloadEffect s f = modForme (issueHead s f .fq false none none) f
      (fun fm => { fm with vu := { fm.vu with ftLoad := some (heldLoad (headOf s f .fq)) } }) := rfl

/-- R336: the transfer starts; a load from another die also sends its requests. -/
theorem transferEffect_start {l : FtLoad} (hl : (s.forme f).vu.ftLoad = some l) (hu : loadUnmapped s l = false) :
    transferEffect s f = if gDie l.src.toNat = s.span.dieId then modForme s f (startedLoad l)
      else (List.range 32).foldl (fun t i => (spanSend t (loadRequest s f l i)).1) (modForme s f (startedLoad l)) := by
  rw [transferEffect, hl]
  dsimp only
  rw [hu, if_neg Bool.false_ne_true]
  rfl

theorem requests_touches (l : FtLoad) (is : List Nat) (t : State) :
    Touches [.span, .out, .colo] t (is.foldl (fun t i => (spanSend t (loadRequest s f l i)).1) t) :=
  Touches.foldl _ (fun u _ => spanSend_touch (qs := [.span, .out, .colo]) u _ (by decide) (by decide) (by decide)
    (Touches.refl _ u)) is t

/-- R336: the Forme at the end of a load that brought its image. -/
def filledLoad (l : FtLoad) (bs : List Byte) (fm : Forme) : Forme :=
  markDone { fm with vu := { fm.vu with
    ftLoad := none
    fount := fm.vu.fount.putAll (placed (l.slot.1 * 131072) bs)
    slots := vset fm.vu.slots l.slot ⟨l.kind, true, l.func, l.version, crc32c bs, l.src⟩
    ftFail := none } } l.index

theorem markDone_get (fm : Forme) (ix : BitVec 24) (q : Queue) : (markDone fm ix).q.get q = fm.q.get q := by
  cases q <;> rfl

theorem filledLoad_fTouches (l : FtLoad) (bs : List Byte) (fm : Forme) : FTouches [.q, .vu] fm (filledLoad l bs fm) := by
  intro p hp; cases p <;> simp at hp <;> rfl

/-- The bytes that the table window of a Forme holds after a load of a slot's length. -/
theorem filledLoad_fount {l : FtLoad} {bs : List Byte} {fm : Forme} (hw : fm.vu.fount.wf = true) (hlen : bs.length = 131072) :
    (filledLoad l bs fm).vu.fount.bytes (l.slot.1 * 131072) 131072 = bs
      ∧ ∀ x, (x < l.slot.1 * 131072 ∨ l.slot.1 * 131072 + 131072 ≤ x) →
        (filledLoad l bs fm).vu.fount.byte x = fm.vu.fount.byte x := by
  have hfount : (filledLoad l bs fm).vu.fount = fm.vu.fount.putAll (placed (l.slot.1 * 131072) bs) := rfl
  rw [hfount, ← hlen]
  exact ⟨ParMem.bytes_placed _ _ _ hw, fun x hx => ParMem.bytes_placed_other _ _ _ _ hx⟩

/-- R336: a started load of this die's memory completes with the bytes at SRC when they read without error. -/
theorem exec_ftloadComplete_local {l : FtLoad} (hu : unitsOn s = true) (hl : (s.forme f).vu.ftLoad = some l)
    (hst : l.started = true) (hd : gDie l.src.toNat = s.span.dieId) (hr : readErr s [(gLocal l.src.toNat, 131072)] = none) :
    exec (.ftloadComplete f) s = .next (modForme s f (filledLoad l (localBytes s (gLocal l.src.toNat) 131072))) := by
  have hready : loadReady s f = true := by simp [loadReady, hu, hl, loadArrived, hst, hd]
  rw [show exec (.ftloadComplete f) s = execFtloadComplete f s from rfl, execFtloadComplete, hready, onlyIf_true, loadEffect, hl]
  dsimp only
  rw [if_pos hd, loadImage, if_pos hd, slotBytes, hr]
  rfl

/-- Settles O29: the issue of FTLOAD, the start of its transfer, and its end for a local source. -/
theorem fountLoadsReplaceASlot : Obligations.FountLoadsReplaceASlot := by
  intro f s fm e h
  refine ⟨fun hready => ?issue, fun l hl hready hu => ?start, fun l hm hl hu hst hd hr => ?done⟩
  case issue =>
    obtain ⟨e, hh⟩ := head_of_fqHead (Bool.and_eq_true_iff.mp hready).1
    have hmod : OnlyForme f [.vu] (issueHead s f .fq false none none) (ftloadEffect s f) :=
      OnlyForme.mod _ f _ (fTouches_vu _ _)
    refine ⟨_, exec_ftload_ready hready, ?_, LeavesHead.keep (issueHead_leaves false none none hh) (hmod.2 .q (by decide)),
      ((issueHead_only s f .fq false none none).mono (by decide)).trans (hmod.mono (by decide)),
      (issueHead_touches s f .fq false none none).trans (modForme_touches _ _ _)⟩
    rw [ftloadEffect_eq, modForme_forme_same, issueHead_vu]
    rfl
  case start =>
    have hmod : OnlyForme f [.vu] s (modForme s f (startedLoad l)) := OnlyForme.mod s f _ (fTouches_vu _ _)
    have htouch := modForme_touches s f (startedLoad l)
    have hforme : ((modForme s f (startedLoad l)).forme f).vu = _ := congrArg Forme.vu (modForme_forme_same s f _)
    refine ⟨transferEffect s f, ?_, ?_⟩
    · rw [show exec (.ftloadTransferStart f) s = execFtloadTransferStart f s from rfl, execFtloadTransferStart, hready, onlyIf_true]
    · rw [transferEffect_start hl hu]
      split
      next hd => exact ⟨hforme, hmod, fun _ => htouch, htouch.mono (by decide)⟩
      next hd =>
        have hsent := requests_touches (s := s) (f := f) l (List.range 32) (modForme s f (startedLoad l))
        have hkeep := OnlyForme.of_touch (f := f) (ps := []) hsent (by decide)
        exact ⟨(hkeep.2 .vu (by decide)).trans hforme, hmod.trans (hkeep.mono (by decide)), fun h => absurd h hd,
          (htouch.mono (by decide)).trans (hsent.mono (by decide))⟩
  case done =>
    obtain ⟨bs, hbs⟩ : ∃ bs, bs = localBytes s (gLocal l.src.toNat) 131072 := ⟨_, rfl⟩
    have hlen : bs.length = 131072 := by rw [hbs, localBytes, List.length_map, List.length_range]
    have hforme : (modForme s f (filledLoad l bs)).forme f = filledLoad l bs fm := modForme_forme_same s f _
    obtain ⟨hbytes, hother⟩ := filledLoad_fount (l := l) (hm.1 f).2.2 hlen
    have hrun := exec_ftloadComplete_local hu hl hst hd hr
    rw [← hbs] at hrun ⊢
    refine ⟨_, hrun, ?_, ?_, ?_, ?_, ?_, OnlyForme.mod s f _ (filledLoad_fTouches l bs _), modForme_touches s f _⟩ <;> rw [hforme]
    · exact hbytes
    · exact hother
    · rfl
    · rfl
    · exact fun q => markDone_get _ _ q

end

end Sys2Proof
end

section
/-! PROOFS. Chapter 5, DRAIN: what it writes, and that it keeps quire memory without CLR (R223 to R242). -/

namespace Sys2Proof

open Machine Laws

section
variable {f : FormeIx} {s : State}

theorem setTileFlags_fTouches (fm : Forme) (slot : Nat) (g : Flg) (flat : Bool) :
    FTouches [.pu] fm (setTileFlags fm slot g flat) := fTouches_pu fm _

theorem claimRun_fTouches (fm : Forme) (kind first : Nat) : FTouches [.pu] fm (claimRun fm kind first) :=
  FTouches.foldl _ (fun fm _ => fTouches_pu fm _) _ fm

/-- R232: the flags of a drain are flags of the Press unit's tiles. -/
theorem settleDrain_fTouches (fm : Forme) (d : DWord) (t : TileFlags) (fl : List Nat) :
    FTouches [.pu] fm (settleDrain fm d t fl) := by
  refine FTouches.foldl _ (fun fm x => ?_) _ fm
  dsimp only
  split
  · exact setTileFlags_fTouches _ _ _ _
  · exact FTouches.refl _ _

/-- R234: CLR changes quire memory and the status words of the tiles. -/
theorem clearTiles_fTouches (fm : Forme) (d : DWord) : FTouches [.pu, .quire] fm (clearTiles fm d) := by
  refine FTouches.foldl _ (fun fm t => ?_) _ fm
  have hquire (q : ParMem) : FTouches [.pu, .quire] fm { fm with quire := q } := by
    intro p hp; cases p <;> simp at hp <;> rfl
  exact (hquire _).trans ((claimRun_fTouches _ _ _).mono (by decide))

/-- What a drain does to its Forme at its end: the flags, and under CLR the cleared tiles. -/
def drainEnd (d : DWord) (t : TileFlags) (fl : List Nat) (fm : Forme) : Forme :=
  if d.clr then clearTiles (settleDrain fm d t fl) d else settleDrain fm d t fl

theorem drainEnd_fTouches (d : DWord) (t : TileFlags) (fl : List Nat) (fm : Forme) :
    FTouches (if d.clr then [.pu, .quire] else [.pu]) fm (drainEnd d t fl fm) := by
  rw [drainEnd]
  cases d.clr with
  | true => exact ((settleDrain_fTouches fm d t fl).mono (by decide)).trans (clearTiles_fTouches _ d)
  | false => exact settleDrain_fTouches fm d t fl

/-- A drain writes Galley, vector unit and tiles of its Forme, and quire memory under CLR only. -/
theorem drainWrite_only (f : FormeIx) (d : DWord) (x : Side) (ds : List Dst) (s : State) :
    OnlyForme f ([.galley, .vu, .test] ++ if d.clr then [.pu, .quire] else [.pu]) s (drainWrite f d x ds s) := by
  have hfree : OnlyForme f [.galley, .vu, .test] s (useFree s 1) := ⟨fun _ _ => rfl, FTouches.refl _ _⟩
  have hconv (t : State) (b : Bool) (c : Ctl) (kd : ConvKind) (vals : List (List Val)) (sides : List (Nat × Byte)) :
      OnlyForme f [.galley, .vu, .test] t
        (galleyWrite (storeOut f (convertRegion (setFlush t f b) f c kd ds vals)) f sides) :=
    (((setFlush_only t f b).mono (by decide)).trans ((convertRegion_only _ f c kd ds vals).trans (storeOut_only f _))).trans
      ((galleyWrite_only _ f sides).mono (by decide))
  refine OnlyForme.trans ?_ ((OnlyForme.mod _ f (drainEnd d _ _) (drainEnd_fTouches d _ _ _)).mono (List.subset_append_right _ _))
  exact (hfree.trans (hconv _ _ _ _ _ _)).mono (List.subset_append_left _ _)

/-- R410: a tile that does not fit is a program error with code 8. -/
theorem exec_drain_unfit (hready : drainReady s f = true) (hfit : drainFits (s.forme f) (headDrain s f) = false) :
    exec (.drain f) s = .next (progError s f .tileKind (queueCode .vq) 0 (headOf s f .vq).index) := by
  rw [show exec (.drain f) s = execDrain f s from rfl, execDrain, hready, onlyIf_true, drainEffect]
  rw [hfit, Bool.not_false, if_pos rfl]

theorem exec_drain_fit (hready : drainReady s f = true) (hfit : drainFits (s.forme f) (headDrain s f) = true)
    (hs : (drainDsts s f).any (fun y => smoothBad (s.forme f) y (headDrain s f).m (headDrain s f).n) = false)
    (hc : claimedBy (s.forme f) (convCtx (s.forme f) (ctlOf (headDrain s f).cvt) (drainDsts s f)) = false)
    (hb : drainBad s f = none) :
    exec (.drain f) s = .next (drainWrite f (headDrain s f) (headSide s f) (drainDsts s f)
      (issueHead s f .vq true (convCtx (s.forme f) (ctlOf (headDrain s f).cvt) (drainDsts s f)) none)) := by
  rw [show exec (.drain f) s = execDrain f s from rfl, execDrain, hready, onlyIf_true, drainEffect]
  rw [hfit, Bool.not_true, if_neg Bool.false_ne_true, hs, if_neg Bool.false_ne_true, hb, runHead_runs hc]

/-- Settles O33: the drain issues with its context and writes; without CLR quire memory is not among what it writes. -/
theorem drainWritesItsDestinations : Obligations.DrainWritesItsDestinations := by
  intro f s fm d ds ctx
  refine ⟨fun hready hfit hs hc hb => ?fits, fun hready hfit hf hv => ?unfit⟩
  case fits =>
    obtain ⟨e, rest, hl, -⟩ := head_of_headIs (Bool.and_eq_true_iff.mp (Bool.and_eq_true_iff.mp hready).1).1
    have hleaves := issueHead_leaves (s := s) (f := f) (q := .vq) (e := e) true ctx none (by rw [hl]; rfl)
    have hissue := issueHead_only s f .vq true ctx none
    have hwrite := drainWrite_only f d (headSide s f) ds (issueHead s f .vq true ctx none)
    refine ⟨_, exec_drain_fit hready hfit hs hc hb, rfl, LeavesHead.keep hleaves (hwrite.2 .q ?notQueue), fun hclr => ?quire,
      (hissue.mono (by decide)).trans (hwrite.mono ?parts), ?touches⟩
    case notQueue => cases d.clr <;> decide
    case quire =>
      rw [hclr] at hwrite
      exact (hwrite.2 .quire (by decide)).trans (hissue.2 .quire (by decide))
    case parts => cases d.clr <;> decide
    case touches =>
      exact drainWrite_touch f d _ ds _ (by decide) (by decide) (by decide) (by decide) (by decide) (by decide) (by decide)
        ((issueHead_touches s f .vq true ctx none).mono (by decide))
  case unfit =>
    obtain ⟨herr, hstate, -, -, -, honly, htouch⟩ :=
      progError_facts s f .tileKind (queueCode .vq) 0 (headOf s f .vq).index hf hv
    exact ⟨_, exec_drain_unfit hready hfit, herr, hstate, honly, htouch⟩

end

end Sys2Proof
end

section
/-! PROOFS. Chapter 17, the Imposer's commands: START, RESUME, PAUSE, SAVE, CONTINUE and DISCARD (R670 to R675). -/

namespace Sys2Proof

open Machine Laws

/-! ### Events of the Imposer -/

/-- Of the Imposer only the events change: those that wait, and the count of those written (R676). -/
def OnlyEvents (s t : State) : Prop :=
  t.imp = { s.imp with evt := { s.imp.evt with prod := t.imp.evt.prod }, evWait := t.imp.evWait }

theorem OnlyEvents.refl (s : State) : OnlyEvents s s := rfl

theorem OnlyEvents.of_imp {s t : State} (h : t.imp = s.imp) : OnlyEvents s t := by rw [OnlyEvents, h]

theorem OnlyEvents.trans {s t u : State} (h : OnlyEvents s t) (k : OnlyEvents t u) : OnlyEvents s u := by
  rw [OnlyEvents] at h k ⊢
  rw [k, h]

theorem OnlyEvents.folios {s t : State} (h : OnlyEvents s t) : t.imp.folios = s.imp.folios := by rw [h]
theorem OnlyEvents.ended {s t : State} (h : OnlyEvents s t) : t.imp.ended = s.imp.ended := by rw [h]
theorem OnlyEvents.cmd {s t : State} (h : OnlyEvents s t) : t.imp.cmd = s.imp.cmd := by rw [h]

theorem OnlyEvents.foldl {α : Type} {g : State → α → State} (hg : ∀ s a, OnlyEvents s (g s a)) (l : List α) (s : State) :
    OnlyEvents s (l.foldl g s) := by
  induction l generalizing s with
  | nil => exact OnlyEvents.refl s
  | cons a l ih => exact (hg s a).trans (ih _)

/-- R676: the interrupt and the notification of an event leave the Imposer as it is. -/
theorem eventNotice_imp (s : State) (b : Bool) (kind index : Nat) :
    (notifyEvent (if b then irq s 10 else s) 10 kind index).imp = s.imp :=
  notifyEvent_touch (qs := [.out, .colo, .cores]) _ _ _ _ (by decide) (by decide)
    (touch_ite (irq_touch _ 10 (by decide) (Touches.refl _ _)) (Touches.refl _ _)) .imp (by decide)

theorem flushEvents_onlyEvents (n : Nat) (s : State) : OnlyEvents s (flushEvents n s) := by
  induction n generalizing s with
  | zero => exact OnlyEvents.refl s
  | succ n ih =>
    rw [flushEvents]
    cases hw : s.imp.evWait with
    | nil => exact OnlyEvents.refl s
    | cons r rest =>
      by_cases hroom : ringUsed s.imp.evt < 2 ^ s.imp.evt.log2n.toNat
      · dsimp only
        rw [if_pos hroom]
        refine OnlyEvents.trans ?_ (ih _)
        rw [OnlyEvents, eventNotice_imp]
      · dsimp only
        rw [if_neg hroom]
        exact OnlyEvents.refl s

theorem imposerEvent_onlyEvents (s : State) (k : EvKind) (h : BitVec 16) (r : Nat) (fid : BitVec 32) (op : Nat) :
    OnlyEvents s (imposerEvent s k h r fid op) := by
  rw [imposerEvent]
  split
  · exact OnlyEvents.refl s
  · refine OnlyEvents.trans ?_ (flushEvents_onlyEvents _ _)
    cases k.measured <;> rfl

theorem refuseWaiting_onlyEvents (s : State) (x : Folio) : OnlyEvents s (refuseWaiting s x) :=
  OnlyEvents.foldl (fun t _ => imposerEvent_onlyEvents t _ _ _ _ _) _ s

/-- An event touches no Forme. -/
theorem imposerEvent_formes (s : State) (k : EvKind) (h : BitVec 16) (r : Nat) (fid : BitVec 32) (op : Nat) :
    (imposerEvent s k h r fid op).formes = s.formes :=
  imposerEvent_touch (qs := [.free, .out, .gddr, .imp, .cores, .colo]) s k h r fid op (by decide) (by decide) (by decide)
    (by decide) (by decide) (by decide) (Touches.refl _ s) .formes (by decide)

theorem refuseWaiting_formes (s : State) (x : Folio) : (refuseWaiting s x).formes = s.formes :=
  refuseWaiting_touch (qs := [.free, .out, .gddr, .imp, .cores, .colo]) s x (by decide) (by decide) (by decide)
    (by decide) (by decide) (by decide) (Touches.refl _ s) .formes (by decide)

/-! ### The Formes of a folio -/

/-- A change that is the same twice, made to some Formes: each of them changes, and no other. -/
theorem foldl_modForme {g : Forme → Forme} (hg : ∀ fm, g (g fm) = g fm) (fs : List FormeIx) (s : State) :
    (∀ f ∈ fs, (fs.foldl (fun s f => modForme s f g) s).forme f = g (s.forme f))
      ∧ ∀ f, f ∉ fs → (fs.foldl (fun s f => modForme s f g) s).forme f = s.forme f := by
  induction fs generalizing s with
  | nil => exact ⟨fun f hf => absurd hf (List.not_mem_nil), fun _ _ => rfl⟩
  | cons k fs ih =>
    obtain ⟨hin, hout⟩ := ih (modForme s k g)
    have hstep (f : FormeIx) : (modForme s k g).forme f = if f = k then g (s.forme f) else s.forme f := by
      split
      next h => rw [h, modForme_forme_same]
      next h => exact modForme_forme_other s k f g h
    refine ⟨fun f hf => ?_, fun f hf => ?_⟩
    · by_cases hm : f ∈ fs
      · rw [List.foldl_cons, hin f hm, hstep]
        split
        · exact hg _
        · rfl
      · have hk : f = k := (List.mem_cons.mp hf).resolve_right hm
        rw [List.foldl_cons, hout f hm, hstep, if_pos hk]
    · obtain ⟨hne, hm⟩ := List.ne_and_not_mem_of_not_mem_cons hf
      rw [List.foldl_cons, hout f hm, hstep, if_neg hne]

theorem freeForme_idle (fm : Forme) : (freeForme fm).fe.state = .idle := by
  rw [freeForme, retireIdle]
  split <;> rfl

theorem freeForme_freeForme (fm : Forme) : freeForme (freeForme fm) = freeForme fm := by
  by_cases h : fm.test.retire = true <;> simp [freeForme, retireIdle, h]

/-- FORME.FOLIO.STATE of the Formes of a folio, and nothing else of any Forme. -/
theorem setFolioFormes_forme (s : State) (x : Folio) (st : FState) :
    (∀ f ∈ x.fset, ((setFolioFormes s x st).forme f).fe = { (s.forme f).fe with state := st, stall := 0 })
      ∧ ∀ f, f ∉ x.fset → (setFolioFormes s x st).forme f = s.forme f := by
  obtain ⟨hin, hout⟩ := foldl_modForme (g := fun fm => { fm with fe := { fm.fe with state := st, stall := 0 } })
    (fun _ => rfl) x.fset s
  exact ⟨fun f hf => congrArg Forme.fe (hin f hf), hout⟩

theorem setFolioFormes_touches (s : State) (x : Folio) (st : FState) : Touches [.formes] s (setFolioFormes s x st) :=
  setFolioFormes_touch s x st (by decide) (Touches.refl _ s)

/-! ### A folio that ends -/

/-- What the end of a folio leaves: its handle ended, its place among the folios gone, and its Formes idle (R348). -/
theorem endFolio_gone (s : State) (x : Folio) (k : EvKind) (reason : Nat) :
    let t := endFolio s x k reason
    t.imp.folios = (eraseFirst (fun y => decide (y.handle = x.handle)) s.imp.folios).map
        (fun y => if y.dep = x.handle then { y with dep := 0 } else y)
      ∧ t.imp.ended.head? = some x.handle ∧ t.imp.cmd = s.imp.cmd
      ∧ (∀ f ∈ x.fset, (t.forme f).fe.state = .idle) ∧ ∀ f, f ∉ x.fset → t.forme f = s.forme f := by
  intro t
  let s1 := relist s (x.fset.foldl (fun s f => modForme s f freeForme) s)
  let s2 := imposerEvent s1 k x.handle reason x.folioId 0
  have hend : OnlyEvents (dropFolio s2 x) t := refuseWaiting_onlyEvents _ _
  have hfree : s1.imp = s.imp :=
    relist_touch (qs := [.colo, .formes]) s _ (by decide)
      (touch_foldl (fun u f => (modForme_touches u f freeForme).mono (by decide)) (Touches.refl _ s)) .imp (by decide)
  have hevents : OnlyEvents s s2 := (OnlyEvents.of_imp hfree).trans (imposerEvent_onlyEvents _ _ _ _ _ _)
  have hformes : t.formes = (x.fset.foldl (fun s f => modForme s f freeForme) s).formes :=
    (refuseWaiting_formes _ _).trans (imposerEvent_formes s1 _ _ _ _ _)
  have hforme (f : FormeIx) : t.forme f = (x.fset.foldl (fun s f => modForme s f freeForme) s).forme f := by
    rw [State.forme, hformes]; rfl
  obtain ⟨hin, hout⟩ := foldl_modForme freeForme_freeForme x.fset s
  refine ⟨?_, ?_, ?_, fun f hf => ?_, fun f hf => (hforme f).trans (hout f hf)⟩
  · rw [hend.folios, dropFolio, hevents.folios]
  · rw [hend.ended]; rfl
  · rw [hend.cmd]; exact hevents.cmd
  · rw [hforme, hin f hf, freeForme_idle]

section
variable {s : State}

/-! ### START and RESUME -/

/-- R674: what a START or RESUME must meet for its folio to be submitted. -/
structure Submittable (s : State) (w : Nat) (resume : Bool) : Prop where
  field : cmdFieldBad w = false
  handle : submitHandleBad s w = false
  addr : submitAddrBad s w (resume || cmdKeep w || cmdPreload w) = false
  lost : gddrLost s.gddr (cmdFolio w) 64 = none
  header : headerOk (headerWord s (cmdFolio w)) = true
  range : gddrRange s.gddr (cmdFolio w + 64) (16 * fieldN (headerWord s (cmdFolio w)) 8 4) = true
  progsLost : gddrLost s.gddr (cmdFolio w + 64) (16 * fieldN (headerWord s (cmdFolio w)) 8 4) = none
  progs : (List.range (fieldN (headerWord s (cmdFolio w)) 8 4)).all (fun l => progOk (progEntry s (cmdFolio w) l)) = true
  save : ((resume || cmdKeep w || cmdPreload w) && !saveAreaOk s (cmdSave w) (fieldN (headerWord s (cmdFolio w)) 8 4)) = false
  formes : fieldN (headerWord s (cmdFolio w)) 8 4 ≤ (formesInService s).length

/-- R674: a command that passes every check submits its folio, last. -/
theorem submitCmd_accepted {w : Nat} {resume : Bool} (h : Submittable s w resume) :
    submitCmd s w resume = { s with imp := { s.imp with folios := s.imp.folios ++ [newFolio s w resume] } } := by
  rw [submitCmd, h.field, if_neg Bool.false_ne_true, h.handle, if_neg Bool.false_ne_true, h.addr, if_neg Bool.false_ne_true, submit]
  dsimp only
  rw [h.lost]
  dsimp only
  rw [h.header, h.range, h.progsLost, h.progs, h.save]
  exact if_neg (Nat.not_lt.mpr h.formes)

theorem exec_start_readable (hr : startReady s = true) (hc : cmdReadable s = true) :
    exec .start s = .next (submitCmd (consume s) (cmdWord s) false) := by
  rw [show exec .start s = execStart s from rfl, execStart, hr, onlyIf_true, startEffect]
  rw [if_pos hc]

theorem exec_resume_ready (hr : opcReady s 4 = true) :
    exec .resume s = .next (submitCmd (consume s) (cmdWord s) true) := by
  rw [show exec .resume s = execResume s from rfl, execResume, hr, onlyIf_true]

theorem submitCmd_field {w : Nat} {resume : Bool} (h : cmdFieldBad w = true) :
    submitCmd s w resume = imposerEvent s .refused (cmdHandle w) 4 0 0 := if_pos h

theorem submitCmd_handle {w : Nat} {resume : Bool} (h : cmdFieldBad w = false) (hh : (folioOf s (cmdHandle w)).isSome = true) :
    submitCmd s w resume = imposerEvent s .refused (cmdHandle w) 2 0 0 := by
  have hbad : submitHandleBad s w = true := by rw [submitHandleBad, hh, Bool.or_true, Bool.true_or]
  rw [submitCmd, h, if_neg Bool.false_ne_true, hbad, if_pos rfl]
  rfl

/-! ### Commands that name a folio -/

theorem onFolio_found {w : Nat} {x : Folio} {g : State → Folio → State} (hb : cmdFieldBad w = false)
    (hx : folioOf s (cmdHandle w) = some x) : onFolio s w g = g s x := by
  rw [onFolio, hb, if_neg Bool.false_ne_true, hx]

theorem modifyFirst_modifyFirst {α : Type} (p : α → Bool) (g k : α → α) (hg : ∀ a, p (g a) = p a) (l : List α) :
    modifyFirst p k (modifyFirst p g l) = modifyFirst p (fun a => k (g a)) l := by
  induction l with
  | nil => rfl
  | cons a l ih =>
    cases h : p a with
    | true => simp [modifyFirst, h, hg]
    | false => simp [modifyFirst, h, ih]

theorem consume_touches (s : State) : Touches [.imp] s (consume s) := consume_touch s (by decide) (Touches.refl _ s)

theorem modFolio_touches (s : State) (h : BitVec 16) (g : Folio → Folio) : Touches [.imp] s (modFolio s h g) :=
  modFolio_touch s h g (by decide) (Touches.refl _ s)

/-- A folio changes and then its Formes change their state: what PAUSE, SAVE and CONTINUE do once they are accepted. -/
theorem folio_moved (s : State) (x : Folio) (st : FState) (g : Folio → Folio) :
    let t := setFolioFormes (modFolio (consume s) x.handle g) x st
    t.imp.folios = modifyFirst (fun y => decide (y.handle = x.handle)) g s.imp.folios
      ∧ (∀ f ∈ x.fset, (t.forme f).fe = { (s.forme f).fe with state := st, stall := 0 })
      ∧ (∀ f, f ∉ x.fset → t.forme f = s.forme f) ∧ t.imp.cmd.cons = s.imp.cmd.cons + 1 ∧ Touches [.formes, .imp] s t := by
  intro t
  have hformes := setFolioFormes_touches (modFolio (consume s) x.handle g) x st
  obtain ⟨hin, hout⟩ := setFolioFormes_forme (modFolio (consume s) x.handle g) x st
  have himp : t.imp = (modFolio (consume s) x.handle g).imp := hformes .imp (by decide)
  refine ⟨by rw [himp]; rfl, hin, hout, by rw [himp]; rfl, ?_⟩
  exact ((consume_touches s).mono (by decide)).trans
    (((modFolio_touches _ _ _).mono (by decide)).trans (hformes.mono (by decide)))

theorem modFolio_modFolio (s : State) (h : BitVec 16) (g k : Folio → Folio) (hg : ∀ x, (g x).handle = x.handle) :
    modFolio (modFolio s h g) h k = modFolio s h (fun x => k (g x)) :=
  congrArg (fun l => { s with imp := { s.imp with folios := l } })
    (modifyFirst_modifyFirst _ g k (fun x => by rw [hg]) s.imp.folios)

/-- R372, R675: a pause request for a running folio without external tokens stops dispatch on its Formes. -/
theorem requestPause_running {x : Folio} {save : Bool} {base : BitVec 40} (hs : x.state = .running) (he : x.ext = 0) :
    requestPause s x save base = setFolioFormes (modFolio s x.handle (fun y => { y with
      cmds := y.cmds + 1, state := .pausing save, saveBase := if save then base else y.saveBase })) x .quiesce := by
  rw [requestPause, hs]
  dsimp only
  rw [if_neg (not_not_intro he)]
  exact congrArg (fun t => setFolioFormes t x .quiesce) (modFolio_modFolio s x.handle _ _ (fun _ => rfl))

end

/-- Settles O36: each command is consumed; a submission appends its folio, the refusals send their event, and the commands of a
folio change it and its Formes. -/
theorem imposerCommandsAnswer : Obligations.ImposerCommandsAnswer := by
  intro s w c a n accepted named moved
  refine ⟨fun resume i hi hacc => ?submit, fun hr hc hf => ?field, fun hr hc hf hh => ?handle,
    fun x hn hs he => ⟨fun ho => ?pause, fun ho ha => ?save⟩, fun x hn hs => ⟨fun ho => ?continueFolio, fun ho => ?discard⟩⟩
  case submit =>
    obtain ⟨hfield, hhandle, haddr, hlost, hhead, hrange, hplost, hprogs, hsave, hformes⟩ := hacc
    have hsub : Submittable c w resume := ⟨hfield, hhandle, haddr, hlost, hhead, hrange, hplost, hprogs, hsave, hformes⟩
    have hrun : exec i s = .next (submitCmd c w resume) := by
      obtain ⟨rfl, rfl, hr, hc⟩ | ⟨rfl, rfl, hr⟩ := hi
      · exact exec_start_readable hr hc
      · exact exec_resume_ready hr
    refine ⟨_, hrun, submitCmd_accepted hsub, ?_⟩
    rw [submitCmd_accepted hsub]
    intro p hp
    cases p <;> first | exact absurd (by decide) hp | rfl
  case field => rw [exec_start_readable hr hc, submitCmd_field hf]
  case handle => rw [exec_start_readable hr hc, submitCmd_handle (s := consume s) hf hh]
  case pause =>
    refine ⟨_, ?_, folio_moved s x .quiesce _⟩
    rw [show exec .pause s = execPause s from rfl, execPause, ho, onlyIf_true, onFolio_found (s := consume s) hn.1 hn.2,
      requestPause_running hs he]
    rfl
  case save =>
    refine ⟨_, ?_, folio_moved s x .quiesce _⟩
    rw [show exec .save s = execSave s from rfl, execSave, ho, onlyIf_true, onFolio_found (s := consume s) hn.1 hn.2,
      show saveAreaOk (consume s) (cmdSave (cmdWord s)) x.formes.toNat = true from ha, if_pos rfl, requestPause_running hs he]
    rfl
  case continueFolio =>
    refine ⟨_, ?_, folio_moved s x .run _⟩
    rw [show exec .continueFolio s = execContinueFolio s from rfl, execContinueFolio, ho, onlyIf_true,
      onFolio_found (s := consume s) hn.1 hn.2, if_pos hs]
  case discard =>
    obtain ⟨hfolios, hended, hcmd, hidle, hother⟩ := endFolio_gone (consume s) x .discarded 0
    refine ⟨endFolio (consume s) x .discarded 0, ?_, hfolios, hended, hidle, hother, by rw [hcmd]; rfl, ?_⟩
    · rw [show exec .discard s = execDiscard s from rfl, execDiscard, ho, onlyIf_true,
        onFolio_found (s := consume s) hn.1 hn.2, if_pos hs]
    · exact endFolio_touch _ _ _ _ (by decide) (by decide) (by decide) (by decide) (by decide) (by decide) (by decide)
        ((consume_touches s).mono (by decide))

end Sys2Proof
end

section
/-! PROOFS. Chapters 8 and 17, the life of a folio: its start, pause, save, completion and abort (R348, R372, R677, R678). -/

namespace Sys2Proof

open Machine Laws

section
variable {s : State} {x : Folio}

/-! ### The start of a sole folio (R677, R678) -/

/-- The state in which the Formes of a folio that restores nothing have started. -/
def startedFormes (s : State) (x : Folio) : State :=
  ((idleFormes s).take x.formes.toNat).zipIdx.foldl (fun t p => modForme t p.1 (startForme s x p.2))
    (relist s (((idleFormes s).take x.formes.toNat).foldl (fun t f => retireBank (modForme t f retirePresses) f) s))

theorem startedFormes_touches (s : State) (x : Folio) : Touches [.free, .formes, .colo] s (startedFormes s x) := by
  refine touch_foldl (fun t p => (modForme_touches t p.1 _).mono (by decide)) (relist_touch s _ (by decide) ?_)
  refine touch_foldl (fun t f => ?_) (Touches.refl _ s)
  exact retireBank_touch _ f (by decide) (by decide) ((modForme_touches t f _).mono (by decide))

/-- The same state with the folio running. -/
def runningFolio (s : State) (x : Folio) (op : Nat) : State :=
  modFolio (startedFormes s x) x.handle (fun y =>
    { y with state := .running, fset := (idleFormes s).take x.formes.toNat, op := cappedOp s op })

/-- The counts of a start (R678). -/
def countStart (o : Nat) (t : State) : State :=
  if o = 0 then bumpEnt t 0x2020 6 1 64 else bumpEnt (bumpEnt t 0x2020 6 1 64) 0x2020 7 1 32

theorem countStart_touches (o : Nat) (t : State) : Touches [.colo] t (countStart o t) :=
  touch_ite (bumpEnt_touches _ _ _ _ _) ((bumpEnt_touches _ _ _ _ _).trans (bumpEnt_touches _ _ _ _ _))

/-- R347: a folio without PRELOAD and RESUME starts with nothing restored. -/
theorem startFolio_plain (op : Nat) (hp : x.preload = false) (hr : x.resume = false) :
    startFolio s x op
      = imposerEvent (countStart (cappedOp s op) (runningFolio s x op)) .started x.handle 0 x.folioId (cappedOp s op) := by
  rw [startFolio, hp, hr]
  rfl

theorem startFolio_plain_touches (op : Nat) (hp : x.preload = false) (hr : x.resume = false) :
    Touches [.free, .out, .formes, .gddr, .imp, .cores, .colo] s (startFolio s x op) := by
  rw [startFolio_plain op hp hr]
  refine imposerEvent_touch _ _ _ _ _ _ (by decide) (by decide) (by decide) (by decide) (by decide) (by decide) ?_
  exact ((startedFormes_touches s x).mono (by decide)).trans (((modFolio_touches _ _ _).mono (by decide)).trans
    ((countStart_touches _ _).mono (by decide)))

/-- The folios once a sole folio has started. -/
theorem startFolio_sole (op : Nat) (hp : x.preload = false) (hr : x.resume = false) (hs : s.imp.folios = [x]) :
    (startFolio s x op).imp.folios
      = [{ x with state := .running, fset := (idleFormes s).take x.formes.toNat, op := cappedOp s op }] := by
  have hstart : (startedFormes s x).imp = s.imp := startedFormes_touches s x .imp (by decide)
  have hcount : (countStart (cappedOp s op) (runningFolio s x op)).imp = (runningFolio s x op).imp :=
    countStart_touches _ _ .imp (by decide)
  rw [startFolio_plain op hp hr, (imposerEvent_onlyEvents _ _ _ _ _ _).folios, hcount]
  show modifyFirst _ _ (startedFormes s x).imp.folios = _
  rw [hstart, hs]
  simp [modifyFirst]

/-- R677: the folio that is alone and ready is the only eligible one. -/
theorem eligible_sole (hs : s.imp.folios = [x]) (hx : x.state = .ready) (hd : x.dep = 0) : eligible s = [x] := by
  simp [eligible, eligibleFrom, hs, hx, hd]

/-- R677: choose() starts a sole ready folio that fits at the first operating point. -/
theorem choose_sole (hev : evFull s = false) (hs : s.imp.folios = [x]) (hx : x.state = .ready) (hd : x.dep = 0)
    (hc : x.cadence = false) (hp : x.preload = false) (hr : x.resume = false) (hw : 1 ≤ entN s 0x2020 3)
    (hf : fits s x 0 = true) : choose s = startFolio s x 0 := by
  have helig := eligible_sole hs hx hd
  have hcad : startCadence s ((eligible s).filter (·.cadence)) = s := by simp [helig, hc, startCadence]
  have hwin : ((eligible s).filter (fun y => !y.cadence)).take (entN s 0x2020 3) = [x] := by
    rw [helig, List.filter_cons_of_pos (by rw [hc]; rfl), List.filter_nil]
    exact List.take_of_length_le hw
  have hscan : scanWindow [] [x] s = (startFolio s x 0, false) := by
    simp [scanWindow, hf, hev, tryStart]
  have hgone : stillReady (startFolio s x 0) x.handle = false := by
    rw [stillReady, folioOf, startFolio_sole 0 hp hr hs]
    simp
  rw [choose]
  simp only [hcad, hwin, hscan, List.filter_cons, hgone]
  rfl

/-! ### Pauses, saves and ends -/

/-- What a folio that has left the Imposer leaves, seen from a state with the same Imposer. -/
theorem endFolio_gone_from {u : State} (k : EvKind) (reason : Nat) (y : Folio) (hi : u.imp = s.imp) :
    (endFolio u y k reason).imp.folios = (eraseFirst (fun z => decide (z.handle = y.handle)) s.imp.folios).map
        (fun z => if z.dep = y.handle then { z with dep := 0 } else z)
      ∧ (endFolio u y k reason).imp.ended.head? = some y.handle
      ∧ ∀ f ∈ y.fset, ((endFolio u y k reason).forme f).fe.state = .idle := by
  obtain ⟨hfolios, hended, -, hidle, -⟩ := endFolio_gone u y k reason
  rw [hi] at hfolios
  exact ⟨hfolios, hended, hidle⟩

/-- R533: images that could be written change GDDR7 only. -/
theorem writeImages_touches {idle : Bool} {u : State} (h : writeImages s x idle = .inr u) : Touches [.gddr] s u := by
  rw [writeImages] at h
  split at h
  · cases h
  · cases h
    exact Touches.foldl _ (fun t p q hq => by cases q <;> first | exact absurd (by decide) hq | rfl) _ s

/-- R381: the undefined destinations and the report of a folio that ends by an error. -/
def abortReport (s : State) (x : Folio) : State :=
  let s1 := x.fset.foldl freeDests s
  let failing := (x.fset.filter (fun f => (s.forme f).err.valid)).head?
  if x.code = 0 then bumpEnt s1 0x8000 8 1 32
  else
    let f : Nat := match failing with | some f => f.1 | none => 0
    let d : Nat := match failing with
      | some f => (s.forme f).err.code.toNat + (s.forme f).err.queue.toNat <<< 8 + b2n (s.forme f).err.more <<< 11
          + (s.forme f).err.field.toNat <<< 16 + (s.forme f).err.lforme.toNat <<< 24
      | none => x.code.toNat
    raise (bumpEnt s1 0x4050 2 1 32) 1 f d

theorem abortEffect_found {h : BitVec 16} (hx : folioOf s h = some x) :
    abortEffect s h = endFolio (abortReport s x) x .aborted x.code.toNat := by
  rw [abortEffect, hx]
  rfl

theorem abortReport_touches (s : State) (x : Folio) :
    Touches [.free, .out, .formes, .gddr, .tbl, .cores, .colo] s (abortReport s x) := by
  have hfree : Touches [.free, .out, .formes, .gddr, .tbl, .cores, .colo] s (x.fset.foldl freeDests s) :=
    Touches.foldl _ (fun t f => freeDests_touch t f (by decide) (by decide) (by decide) (by decide) (Touches.refl _ t)) _ s
  have hcount (i j n : Nat) := hfree.trans ((bumpEnt_touches (x.fset.foldl freeDests s) i j 1 n).mono (by decide))
  exact touch_ite (hcount _ _ _) (raise_touch _ _ _ _ (by decide) (by decide) (by decide) (hcount _ _ _))

theorem pausedEffect_found {h : BitVec 16} (hx : folioOf s h = some x) :
    pausedEffect s h = imposerEvent (modFolio (setFolioFormes s x .paused) h (fun y => { y with
      state := if pausing x = some true then .saving else .paused, cmds := if pausing x = some true then y.cmds else y.cmds - 1 }))
      .paused h 0 x.folioId 0 := by
  rw [pausedEffect, hx]

end

/-- Settles O37: choose() starts the sole folio, a quiet folio is paused, and the three ends are ends of a folio. -/
theorem foliosStartPauseAndEnd : Obligations.FoliosStartPauseAndEnd := by
  intro s gone
  refine ⟨fun x hready hs hx hd hc hp hr hw hf => ?start, fun h x hready hx => ?paused, fun h x u hready hx hu => ?saved,
    fun h x replies hready hx hk => ?done, fun h x hready hx => ?aborted⟩
  case start =>
    have hev : evFull s = false := by
      simp only [chooseReady, startsHeld, Bool.and_eq_true, Bool.not_eq_true', Bool.or_eq_false_iff] at hready
      exact hready.1.2.1.2
    refine ⟨_, ?_, rfl, startFolio_sole 0 hp hr hs, startFolio_plain_touches 0 hp hr⟩
    rw [show exec .folioStart s = execFolioStart s from rfl, execFolioStart, hready, onlyIf_true,
      choose_sole hev hs hx hd hc hp hr hw hf]
  case paused =>
    refine ⟨pausedEffect s h, ?_, ?_, fun f hf => ?_, fun f hf => ?_, ?_⟩
    · rw [show exec (.folioPaused h) s = execFolioPaused h s from rfl, execFolioPaused, hready, onlyIf_true]
    · have himp : (setFolioFormes s x .paused).imp = s.imp := setFolioFormes_touches s x .paused .imp (by decide)
      rw [pausedEffect_found hx, (imposerEvent_onlyEvents _ _ _ _ _ _).folios, modFolio, himp]
    · rw [pausedEffect_found hx, State.forme, imposerEvent_formes]
      exact (setFolioFormes_forme s x .paused).1 f hf
    · rw [pausedEffect_found hx, State.forme, imposerEvent_formes]
      exact (setFolioFormes_forme s x .paused).2 f hf
    · exact pausedEffect_touch s h (by decide) (by decide) (by decide) (by decide) (by decide) (by decide) (by decide)
        (Touches.refl _ s)
  case saved =>
    have htouch := writeImages_touches hu
    refine ⟨_, ?_, rfl, endFolio_gone_from .saved 0 _ (htouch .imp (by decide)), ?_⟩
    · rw [show exec (.saveComplete h) s = execSaveComplete h s from rfl, execSaveComplete, hready, onlyIf_true, saveEffect, hx]
      dsimp only
      rw [hu]
    · exact endFolio_touch _ _ _ _ (by decide) (by decide) (by decide) (by decide) (by decide) (by decide) (by decide)
        (htouch.mono (by decide))
  case done =>
    have hend : folioDoneEffect s h = endFolio s x .done 0 := by
      rw [folioDoneEffect, hx]
      dsimp only
      rw [hk, if_neg Bool.false_ne_true]
    have hreply : Touches [.free, .out, .svc, .colo] (endFolio s x .done 0) (replies.foldl replyIn (endFolio s x .done 0)) :=
      Touches.foldl _ (fun t r => replyIn_touch t r (by decide) (by decide) (by decide) (by decide) (Touches.refl _ t)) _ _
    obtain ⟨hfolios, hended, hidle⟩ := endFolio_gone_from (s := s) .done 0 x rfl
    have himp := hreply .imp (by decide)
    have hformes := hreply .formes (by decide)
    refine ⟨replies.foldl replyIn (endFolio s x .done 0), ?_, ⟨?_, ?_, fun f hf => ?_⟩, ?_⟩
    · rw [show exec (.folioComplete h replies) s = execFolioComplete h replies s from rfl, execFolioComplete, hready,
        onlyIf_true, hend]
    · rw [himp]; exact hfolios
    · rw [himp]; exact hended
    · rw [State.forme, hformes]; exact hidle f hf
    · refine (endFolio_touch s x .done 0 (by decide) (by decide) (by decide) (by decide) (by decide) (by decide) (by decide)
        (Touches.refl _ s)).trans (hreply.mono (by decide))
  case aborted =>
    have htouch := abortReport_touches s x
    refine ⟨_, ?_, endFolio_gone_from .aborted x.code.toNat x (htouch .imp (by decide)), ?_⟩
    · rw [show exec (.folioAbortDone h) s = execFolioAbortDone h s from rfl, execFolioAbortDone, hready, onlyIf_true,
        abortEffect_found hx]
    · exact endFolio_touch _ _ _ _ (by decide) (by decide) (by decide) (by decide) (by decide) (by decide) (by decide)
        (htouch.mono (by decide))

end Sys2Proof
end

section
/-! PROOFS. Chapter 17, the Imposer's rings, its control loop, the limiter and heat (R676, R680 to R682). -/

namespace Sys2Proof

open Machine Laws

/-! ### The control loop -/

/-- Of the Imposer the limits, the limiter and the number of folios stay. -/
def KeepsLimits (s t : State) : Prop :=
  t.imp.modLimit = s.imp.modLimit ∧ t.imp.dieLimit = s.imp.dieLimit ∧ t.imp.folios.length = s.imp.folios.length
    ∧ t.imp.limit = s.imp.limit

theorem KeepsLimits.trans {s t u : State} (h : KeepsLimits s t) (k : KeepsLimits t u) : KeepsLimits s u :=
  ⟨k.1.trans h.1, k.2.1.trans h.2.1, k.2.2.1.trans h.2.2.1, k.2.2.2.trans h.2.2.2⟩

theorem length_modifyFirst {α : Type} (p : α → Bool) (g : α → α) (l : List α) : (modifyFirst p g l).length = l.length := by
  induction l with
  | nil => rfl
  | cons a l ih => cases h : p a <;> simp [modifyFirst, h, ih]

theorem moveOp_keepsLimits (s : State) (h : BitVec 16) (op : Nat) : KeepsLimits s (moveOp s h op) := by
  have himp : (moveOp s h op).imp = (modFolio s h (fun x => { x with op := op })).imp :=
    bumpEnt_touches _ _ _ _ _ .imp (by decide)
  rw [KeepsLimits, himp]
  exact ⟨rfl, rfl, length_modifyFirst _ _ _, rfl⟩

theorem lowerOne_keepsLimits (s : State) : KeepsLimits s (lowerOne s) := by
  rw [lowerOne]
  split
  next => exact ⟨rfl, rfl, rfl, rfl⟩
  next x _ => exact moveOp_keepsLimits s x.handle (x.op + 1)

theorem raiseOne_keepsLimits (s : State) : KeepsLimits s (raiseOne s) := by
  rw [raiseOne]
  split
  next => exact ⟨rfl, rfl, rfl, rfl⟩
  next h rest _ =>
    split
    next => exact ⟨rfl, rfl, rfl, rfl⟩
    next x _ =>
      split
      next => exact moveOp_keepsLimits s h (x.op - 1)
      next => exact ⟨rfl, rfl, rfl, rfl⟩

/-- The Imposer once a control interval has latched its limits (R665). -/
def latchLimits (s : State) : State := { s with imp := { s.imp with modLimit := entN s 0x2000 1, dieLimit := entN s 0x2010 1 } }

/-- R665, R680: a control interval latches the limits and then moves one operating point at most. -/
theorem controlEffect_keepsLimits (s : State) (watts : Nat) : KeepsLimits (latchLimits s) (controlEffect s watts) := by
  have hbelow (n : Nat) : KeepsLimits (latchLimits s) { latchLimits s with imp := { (latchLimits s).imp with below := n } } :=
    ⟨rfl, rfl, rfl, rfl⟩
  rw [controlEffect]
  dsimp only
  split
  · exact (hbelow 0).trans (lowerOne_keepsLimits _)
  · split
    · split
      · exact (hbelow _).trans (raiseOne_keepsLimits _)
      · exact hbelow _
    · exact hbelow 0

/-! ### The limiter and heat -/

/-- R682: what a temperature sample leaves in the Imposer. -/
theorem thermalEffect_imp (s : State) (die mem : Int) :
    (thermalEffect s die mem).imp.dieMc = die ∧ (thermalEffect s die mem).imp.memMc = mem
      ∧ (thermalEffect s die mem).imp.hotHold = (if 1000 * Int.ofNat (entN s 0x2010 9) ≤ die ∨ 100000 ≤ mem then true
          else if die < 1000 * Int.ofNat (entN s 0x2010 9) - 5000 ∧ mem < 95000 then false else s.imp.hotHold) := by
  rw [thermalEffect]
  dsimp only
  split
  · exact ⟨rfl, rfl, rfl⟩
  · split <;> exact ⟨rfl, rfl, rfl⟩

theorem exec_thermalSample_below {s : State} {die mem : Int} (hu : s.pwr.dieUp = true) (ht : tripped s die = false) :
    exec (.thermalSample die mem) s = .next { thermalEffect s die mem with
      sec := { (thermalEffect s die mem).sec with live := (thermalEffect s die mem).sec.live &&& ~~~thermalSrc } } := by
  rw [show exec (.thermalSample die mem) s = execThermalSample die mem s from rfl, execThermalSample, hu, onlyIf_true,
    thermalSampleEffect]
  dsimp only
  rw [ht, if_neg Bool.false_ne_true]

theorem limitEffect_imp (s : State) :
    (limitEffect s).imp = { (capOps s 4).imp with limit := true, limitAt := s.tb.ns } := by
  have himp : (bumpEnt (capOps s 4) 0x2000 8 1 32).imp = (capOps s 4).imp := bumpEnt_touches _ _ _ _ _ .imp (by decide)
  rw [limitEffect]
  dsimp only
  rw [himp]

/-! ### The event ring -/

/-- R676: a written event ring starts anew; without a ring nothing waits. -/
theorem writeEvtRing_onlyEvents (s : State) (v : Word) :
    OnlyEvents { s with imp := { s.imp with evt := newRing v } } (writeEvtRing s v)
      ∧ (BitVec.ofNat 5 (field v 40 5) = 0 → (writeEvtRing s v).imp.evWait = []) := by
  rw [writeEvtRing]
  dsimp only
  split
  next h => exact ⟨rfl, fun _ => rfl⟩
  next h => exact ⟨flushEvents_onlyEvents _ _, fun hz => absurd hz h⟩

theorem OnlyEvents.evtRing {s t : State} (h : OnlyEvents s t) :
    t.imp.evt.base = s.imp.evt.base ∧ t.imp.evt.log2n = s.imp.evt.log2n ∧ t.imp.evt.cons = s.imp.evt.cons := by
  rw [h]
  exact ⟨rfl, rfl, rfl⟩

/-- Settles O38: the rings and doorbells, the control interval, the limiter, and a temperature below the trip. -/
theorem ringsIntervalsAndLimits : Obligations.RingsIntervalsAndLimits := by
  intro v s
  refine ⟨fun hr => ?cmdRing, fun hr => ?evtRing, fun hr => ?cmdBell, fun hr => ?evtBell, fun watts hu => ?control,
    fun hu => ?limit, fun hu hl he => ?limitEnd, fun die mem => ?heat⟩
  case cmdRing =>
    rw [show exec (.imposerCmdRing v) s = execImposerCmdRing v s from rfl, execImposerCmdRing, hr, onlyIf_true]
    rfl
  case evtRing =>
    obtain ⟨honly, hwait⟩ := writeEvtRing_onlyEvents s v
    obtain ⟨hbase, hlog, hcons⟩ := honly.evtRing
    refine ⟨writeEvtRing s v, ?_, hbase, hlog, hcons, honly.folios, honly.cmd, hwait,
      writeEvtRing_touch s v (by decide) (by decide) (by decide) (by decide) (by decide) (Touches.refl _ s)⟩
    rw [show exec (.imposerEvtRing v) s = execImposerEvtRing v s from rfl, execImposerEvtRing, hr, onlyIf_true]
  case cmdBell =>
    rw [show exec (.imposerCmdDoorbell v) s = execImposerCmdDoorbell v s from rfl, execImposerCmdDoorbell, hr, onlyIf_true]
    rfl
  case evtBell =>
    have honly : OnlyEvents { s with imp := { s.imp with evt := { s.imp.evt with cons := BitVec.ofNat 24 (field v 25 24) } } }
        (evtBell s v) := flushEvents_onlyEvents _ _
    obtain ⟨hbase, -, hcons⟩ := honly.evtRing
    refine ⟨evtBell s v, ?_, hcons, hbase, honly.folios,
      evtBell_touch s v (by decide) (by decide) (by decide) (by decide) (by decide) (Touches.refl _ s)⟩
    rw [show exec (.imposerEvtDoorbell v) s = execImposerEvtDoorbell v s from rfl, execImposerEvtDoorbell, hr, onlyIf_true]
  case control =>
    obtain ⟨hmod, hdie, hfolios, hlimit⟩ := controlEffect_keepsLimits s watts
    refine ⟨controlEffect s watts, ?_, hmod, hdie, hfolios, hlimit,
      controlEffect_touch s watts (by decide) (by decide) (Touches.refl _ s)⟩
    rw [show exec (.controlInterval watts) s = execControlInterval watts s from rfl, execControlInterval, hu, onlyIf_true]
  case limit =>
    refine ⟨limitEffect s, ?_, by rw [limitEffect_imp], by rw [limitEffect_imp], by rw [limitEffect_imp]; rfl,
      limitEffect_touch s (by decide) (by decide) (Touches.refl _ s)⟩
    rw [show exec .currentLimit s = execCurrentLimit s from rfl, execCurrentLimit, hu, onlyIf_true]
  case limitEnd =>
    rw [show exec .currentLimitEnd s = execCurrentLimitEnd s from rfl, execCurrentLimitEnd, hu, hl, he]
    rfl
  case heat =>
    intro hard hu ht
    obtain ⟨hdie, hmem, hhold⟩ := thermalEffect_imp s die mem
    refine ⟨_, exec_thermalSample_below hu ht, hdie, hmem, hhold, ?_⟩
    have htouch : Touches [.imp] s (thermalEffect s die mem) := thermalEffect_touch s die mem (by decide) (Touches.refl _ s)
    refine (htouch.mono (by decide)).trans ?_
    intro p hp
    cases p <;> first | exact absurd (by decide) hp | rfl

end Sys2Proof
end

section
/-! PROOFS. Chapter 12, the close of a training step and the register reads that clear (R242, R495, R504, R553). -/

namespace Sys2Proof

open Machine Laws

/-! ### Entries of the tag table -/

theorem tagEntry_setTag_same {s : State} (g : Nat) (e : TagEntry) (hw : tableWf tagDefault s.tbl.tags = true) :
    tagEntry (setTag s g e) g = e := tget_tset_same _ _ _ _ hw

theorem tagEntry_setTag_other (s : State) {g h : Nat} (e : TagEntry) (hne : h ≠ g) : tagEntry (setTag s g e) h = tagEntry s h :=
  tget_tset_other _ _ _ _ _ hne

/-- The keys of a canonical table ascend. -/
theorem tableWfFrom_keys {α : Type} [DecidableEq α] (d : Nat → α) (lo : Nat) (t : Table α) (h : tableWfFrom d lo t = true) :
    (t.map (·.1)).Pairwise (· < ·) ∧ ∀ k ∈ t.map (·.1), lo ≤ k := by
  induction t generalizing lo with
  | nil => exact ⟨List.Pairwise.nil, fun k hk => absurd hk List.not_mem_nil⟩
  | cons p t ih =>
    obtain ⟨k, v⟩ := p
    simp only [tableWfFrom, Bool.and_eq_true, decide_eq_true_eq] at h
    obtain ⟨⟨hlo, -⟩, ht⟩ := h
    obtain ⟨hpair, hle⟩ := ih (k + 1) ht
    refine ⟨List.Pairwise.cons (fun j hj => hle j hj) hpair, fun j hj => ?_⟩
    obtain rfl | hj := List.mem_cons.mp hj
    · exact hlo
    · have := hle j hj
      omega

theorem tget_of_not_key {α : Type} (d : Nat → α) (t : Table α) (k : Nat) (h : k ∉ t.map (·.1)) : tget d t k = d k := by
  induction t with
  | nil => rfl
  | cons p t ih =>
    obtain ⟨hne, hm⟩ := List.ne_and_not_mem_of_not_mem_cons h
    rw [tget, if_neg (Ne.symm hne)]
    exact ih hm

/-! ### Alarms -/

/-- What a step close keeps while it goes from tag to tag. -/
structure CloseKeeps (s t : State) : Prop where
  step : t.proof.step = s.proof.step
  limit : entN t 0x4060 1 = entN s 0x4060 1
  tbl : { t.tbl with tags := s.tbl.tags } = s.tbl
  wf : tableWf tagDefault s.tbl.tags = true → tableWf tagDefault t.tbl.tags = true

theorem CloseKeeps.refl (s : State) : CloseKeeps s s := ⟨rfl, rfl, rfl, id⟩

theorem CloseKeeps.trans {s t u : State} (h : CloseKeeps s t) (k : CloseKeeps t u) : CloseKeeps s u := by
  refine ⟨k.step.trans h.step, k.limit.trans h.limit, ?_, fun hw => k.wf (h.wf hw)⟩
  rw [← h.tbl, ← k.tbl]

theorem setTag_closeKeeps (s : State) (g : Nat) (e : TagEntry) : CloseKeeps s (setTag s g e) :=
  ⟨rfl, rfl, rfl, fun hw => tset_wf _ _ hw⟩

theorem noteAlarm_closeKeeps (s : State) (tag : BitVec 12) (k : Nat) : CloseKeeps s (noteAlarm s tag k) := by
  rw [noteAlarm]
  dsimp only
  split <;> exact ⟨rfl, rfl, rfl, fun hw => tset_wf _ _ hw⟩

theorem CloseKeeps.ite {c : Prop} [Decidable c] {s a b : State} (ha : CloseKeeps s a) (hb : CloseKeeps s b) :
    CloseKeeps s (if c then a else b) := by
  split
  · exact ha
  · exact hb

theorem raise_closeKeeps (s : State) (a b c : Nat) : CloseKeeps s (raise s a b c) := by
  have h : Touches [.out, .cores, .colo] s (raise s a b c) :=
    raise_touch s a b c (by decide) (by decide) (by decide) (Touches.refl _ s)
  have htbl := h .tbl (by decide)
  exact ⟨congrArg Proof.step (h .proof (by decide)), raise_entN s a b c _ _, by rw [htbl], by rw [htbl]; exact id⟩

/-- R502 to R504: the settled queue keeps the step, and of the counted objects changes only the count of lost records. -/
theorem settleAlarms_closeKeeps (s : State) (n : Nat) : CloseKeeps s (settleAlarms s n) := by
  have hqueue (l : List Alarm) : CloseKeeps s { s with proof := { s.proof with alarms := l } } := ⟨rfl, rfl, rfl, id⟩
  have hlost (t : State) (v : Nat) : CloseKeeps t (setEnt t 0x4060 4 v) :=
    ⟨rfl, entN_setEnt_other t _ _ v _ _ (by unfold entKey; omega), rfl, id⟩
  rw [settleAlarms]
  refine CloseKeeps.ite (CloseKeeps.refl s) ?_
  refine CloseKeeps.ite (CloseKeeps.trans ?_ (raise_closeKeeps _ _ _ _)) ?_ <;>
    exact (hqueue _).trans (CloseKeeps.ite (hlost _ _) (CloseKeeps.refl _))

/-- R502: the entry of a tag for which an alarm is raised. -/
def alarmedTag (step : BitVec 32) (k : Nat) (e : TagEntry) : TagEntry :=
  { e with alarms := e.alarms ||| BitVec.ofNat 6 (2 ^ (k - 1)), almStep := step }

theorem raiseAlarm_tagEntry {s : State} (tag : BitVec 12) (k : Nat) (hw : tableWf tagDefault s.tbl.tags = true) :
    tagEntry (raiseAlarm s tag k) tag.toNat = alarmedTag s.proof.step k (tagEntry s tag.toNat)
      ∧ ∀ h, h ≠ tag.toNat → tagEntry (raiseAlarm s tag k) h = tagEntry s h := by
  have htags : (raiseAlarm s tag k).tbl.tags
      = tset tagDefault s.tbl.tags tag.toNat (alarmedTag s.proof.step k (tagEntry s tag.toNat)) := by
    rw [raiseAlarm, settleAlarms_tbl, noteAlarm]
    dsimp only
    split <;> rfl
  rw [tagEntry, htags]
  exact ⟨tget_tset_same _ _ _ _ hw, fun h hne => by rw [tagEntry, htags]; exact tget_tset_other _ _ _ _ _ hne⟩

theorem raiseAlarm_closeKeeps (s : State) (tag : BitVec 12) (k : Nat) : CloseKeeps s (raiseAlarm s tag k) :=
  (noteAlarm_closeKeeps s tag k).trans (settleAlarms_closeKeeps _ _)

/-! ### The close of one tag and of all (R495) -/

/-- The entry of a tag after the close, for an entry that counts. -/
def closedEntry (s : State) (e : TagEntry) : TagEntry :=
  { closedTag e with
    alarms := if streakHits s e then e.alarms ||| 1 else e.alarms
    almStep := if streakHits s e then s.proof.step else e.almStep }

theorem streakHits_congr {s t : State} (h : CloseKeeps s t) (e : TagEntry) : streakHits t e = streakHits s e := by
  rw [streakHits, streakHits, h.limit]

theorem closedEntry_congr {s t : State} (h : CloseKeeps s t) (e : TagEntry) : closedEntry t e = closedEntry s e := by
  rw [closedEntry, closedEntry, streakHits_congr h, h.step]

theorem closeTag_closeKeeps (s : State) (g : Nat) : CloseKeeps s (closeTag s g) := by
  rw [closeTag]
  refine CloseKeeps.ite (CloseKeeps.trans ?_ (setTag_closeKeeps _ _ _)) (CloseKeeps.refl s)
  exact CloseKeeps.ite (raiseAlarm_closeKeeps _ _ _) (CloseKeeps.refl s)

/-- R495: closing a tag closes its entry when it counts, and leaves every other entry. -/
theorem closeTag_tagEntry {s : State} {g : Nat} (hg : g < 4096) (hw : tableWf tagDefault s.tbl.tags = true) :
    tagEntry (closeTag s g) g = (if (tagEntry s g).count then closedEntry s (tagEntry s g) else tagEntry s g)
      ∧ ∀ h, h ≠ g → tagEntry (closeTag s g) h = tagEntry s h := by
  rw [closeTag]
  dsimp only
  by_cases hc : (tagEntry s g).count = true
  · rw [if_pos hc, if_pos hc, closedEntry]
    by_cases hs : streakHits s (tagEntry s g) = true
    · have htag : (BitVec.ofNat 12 g).toNat = g := by rw [BitVec.toNat_ofNat]; exact Nat.mod_eq_of_lt hg
      obtain ⟨hsame, hother⟩ := raiseAlarm_tagEntry (BitVec.ofNat 12 g) 1 hw
      rw [htag] at hsame hother
      rw [if_pos hs, if_pos hs, if_pos hs, hsame]
      refine ⟨tagEntry_setTag_same g _ ((raiseAlarm_closeKeeps s _ 1).wf hw), fun h hne => ?_⟩
      rw [tagEntry_setTag_other _ _ hne, hother h hne]
    · rw [if_neg hs, if_neg hs, if_neg hs]
      exact ⟨tagEntry_setTag_same g _ hw, fun h hne => tagEntry_setTag_other _ _ hne⟩
  · rw [if_neg hc, if_neg hc]
    exact ⟨rfl, fun _ _ => rfl⟩

theorem closeTags_closeKeeps (gs : List Nat) (s : State) : CloseKeeps s (gs.foldl closeTag s) := by
  induction gs generalizing s with
  | nil => exact CloseKeeps.refl s
  | cons g gs ih => exact (closeTag_closeKeeps s g).trans (ih _)

/-- R495: each tag of a list is closed once; the others stay. -/
theorem closeTags_tagEntry {s : State} (gs : List Nat) (hnd : gs.Nodup) (hlt : ∀ g ∈ gs, g < 4096)
    (hw : tableWf tagDefault s.tbl.tags = true) :
    (∀ g ∈ gs, tagEntry (gs.foldl closeTag s) g
        = if (tagEntry s g).count then closedEntry s (tagEntry s g) else tagEntry s g)
      ∧ ∀ h, h ∉ gs → tagEntry (gs.foldl closeTag s) h = tagEntry s h := by
  induction gs generalizing s with
  | nil => exact ⟨fun g hg => absurd hg List.not_mem_nil, fun _ _ => rfl⟩
  | cons k gs ih =>
    obtain ⟨hk, hnd⟩ := List.nodup_cons.mp hnd
    have hkeeps := closeTag_closeKeeps s k
    obtain ⟨hsame, hother⟩ := closeTag_tagEntry (hlt k List.mem_cons_self) hw
    obtain ⟨hin, hout⟩ := ih hnd (fun g hg => hlt g (List.mem_cons_of_mem _ hg)) (hkeeps.wf hw)
    refine ⟨fun g hg => ?_, fun h hh => ?_⟩
    · obtain rfl | hg := List.mem_cons.mp hg
      · rw [List.foldl_cons, hout g hk, hsame]
      · have hne : g ≠ k := fun h => hk (h ▸ hg)
        rw [List.foldl_cons, hin g hg, hother g hne, closedEntry_congr hkeeps]
    · obtain ⟨hne, hm⟩ := List.ne_and_not_mem_of_not_mem_cons hh
      rw [List.foldl_cons, hout h hm, hother h hne]

/-- R495: the close closes every tag that counts, whether the table holds its entry or not. -/
theorem closeEffect_tagEntry {s : State} (hw : tableWf tagDefault s.tbl.tags = true) (hlt : ∀ p ∈ s.tbl.tags, p.1 < 4096) (g : Nat) :
    tagEntry (closeEffect s) g = if (tagEntry s g).count then closedEntry s (tagEntry s g) else tagEntry s g := by
  have hnd : (s.tbl.tags.map (·.1)).Nodup :=
    (tableWfFrom_keys tagDefault 0 s.tbl.tags hw).1.imp (fun h => Nat.ne_of_lt h)
  have hkeys : ∀ k ∈ s.tbl.tags.map (·.1), k < 4096 := by
    intro k hk
    obtain ⟨p, hp, rfl⟩ := List.mem_map.mp hk
    exact hlt p hp
  obtain ⟨hin, hout⟩ := closeTags_tagEntry (s.tbl.tags.map (·.1)) hnd hkeys hw
  show tagEntry ((s.tbl.tags.map (·.1)).foldl closeTag s) g = _
  by_cases hg : g ∈ s.tbl.tags.map (·.1)
  · exact hin g hg
  · have hdefault : tagEntry s g = tagDefault g := tget_of_not_key _ _ _ hg
    rw [hout g hg, if_neg]
    rw [hdefault]
    exact Bool.false_ne_true

/-! ### Reads that clear -/

section
variable {s : State}

theorem exec_wclr_on (hu : unitsOn s = true) (tag : BitVec 12) :
    exec (.wclr tag) s = .next (setTag s tag.toNat (clearWorst (tagEntry s tag.toNat))) := by
  rw [show exec (.wclr tag) s = execWclr tag s from rfl, execWclr, hu, onlyIf_true]

theorem exec_proofAlarmRead_on (hu : unitsOn s = true) :
    exec .proofAlarmRead s
      = .next (emit { s with proof := { s.proof with alarms := s.proof.alarms.tail } } (.readData (alarmWord s))) := by
  rw [show exec .proofAlarmRead s = execProofAlarmRead s from rfl, execProofAlarmRead, hu, onlyIf_true]

theorem exec_accEventsRead_on (hu : unitsOn s = true) (f : FormeIx) :
    exec (.accEventsRead f) s = .next (accEventsReadEffect s f) := by
  rw [show exec (.accEventsRead f) s = execAccEventsRead f s from rfl, execAccEventsRead, hu, onlyIf_true]

theorem exec_spanLinkRead_on (hu : unitsOn s = true) (p : Fin 11) :
    exec (.spanLinkRead p) s = .next (linkReadEffect s p) := by
  rw [show exec (.spanLinkRead p) s = execSpanLinkRead p s from rfl, execSpanLinkRead, hu, onlyIf_true]

theorem emit_touches (s : State) (o : Out) : Touches [.out] s (emit s o) := by
  intro p hp; cases p <;> first | exact absurd (by decide) hp | rfl

theorem setTag_touches (s : State) (g : Nat) (e : TagEntry) : Touches [.tbl] s (setTag s g e) := by
  intro p hp; cases p <;> first | exact absurd (by decide) hp | rfl

end

/-- Settles O39: a step close closes each counting tag once; the other commands clear what they return. -/
theorem proofreaderClosesStepsAndReadsClear : Obligations.ProofreaderClosesStepsAndReadsClear := by
  intro s
  refine ⟨fun v hu hv => ?request, fun hr hw hlt => ?close, fun hu => ⟨fun tag hw => ?wclr, fun a rest ha => ?alarm,
    fun ha => ?noAlarm, fun f => ?events, fun p => ?link⟩⟩
  case request =>
    rw [show exec (.stepClose v) s = execStepClose v s from rfl, execStepClose, hu, hv]
    rfl
  case close =>
    have hkeeps := closeTags_closeKeeps (s.tbl.tags.map (·.1)) s
    have hentry := closeEffect_tagEntry hw hlt
    refine ⟨closeEffect s, ?_, congrArg (· + 1) hkeeps.step, rfl, fun g hg => ?_, fun g hg => ?_, hkeeps.tbl, ?_⟩
    · rw [show exec .closeStep s = execCloseStep s from rfl, execCloseStep, hr, onlyIf_true]
    · rw [hentry g, hg, if_neg Bool.false_ne_true]
    · rw [hentry g, if_pos hg]
      rfl
    · exact closeEffect_touch s (by decide) (by decide) (by decide) (by decide) (by decide) (Touches.refl _ s)
  case wclr =>
    exact ⟨_, exec_wclr_on hu tag, tagEntry_setTag_same _ _ hw, fun g hg => tagEntry_setTag_other s _ hg, rfl,
      setTag_touches s _ _⟩
  case alarm =>
    rw [exec_proofAlarmRead_on hu, alarmWord, ha]
    rfl
  case noAlarm =>
    have hself : ({ s with proof := { s.proof with alarms := s.proof.alarms.tail } } : State) = s := by rw [ha, List.tail_nil, ← ha]
    rw [exec_proofAlarmRead_on hu, hself, alarmWord, ha]
    rfl
  case events =>
    refine ⟨_, exec_accEventsRead_on hu f, ?_, rfl, OnlyForme.mod s f _ (fTouches_pu _ _),
      ((modForme_touches s f _).mono (by decide)).trans ((emit_touches _ _).mono (by decide))⟩
    exact congrArg (fun fm => fm.pu.events) (modForme_forme_same s f _)
  case link =>
    refine ⟨_, exec_spanLinkRead_on hu p, modPort_same s p _, rfl, fun q hq => modPort_other s p q _ hq, rfl, ?_⟩
    exact ((modPort_touches s p _).mono (by decide)).trans ((emit_touches _ _).mono (by decide))

end Sys2Proof
end

section
/-! PROOFS. Chapters 4, 9 and 18, retirement requests, checker tests and line checks (R181, R429, R693 to R695, R710, R711). -/

namespace Sys2Proof

open Machine Laws

theorem fTouches_test (fm : Forme) (v : FormeTest) : FTouches [.test] fm { fm with test := v } := by
  intro p hp; cases p <;> simp at hp <;> rfl

theorem fTouches_galley (fm : Forme) (m : ParMem) : FTouches [.galley] fm { fm with galley := m } := by
  intro p hp; cases p <;> simp at hp <;> rfl

theorem fTouches_quire (fm : Forme) (m : ParMem) : FTouches [.quire] fm { fm with quire := m } := by
  intro p hp; cases p <;> simp at hp <;> rfl

/-! ### Split accesses (R710) -/

theorem byte_putRaw_other (m : ParMem) (a : Nat) (b : Byte) (par : Bool) {x : Nat} (h : x ≠ a) :
    (m.putRaw a b par).byte x = m.byte x := by
  have hput : (m.put a b).byte x = m.byte x := Mem.byte_put_other m.mem a x b h
  rw [ParMem.putRaw]
  split <;> exact hput

theorem byte_foldl_putRaw_other (o : Nat) (b : Nat → Byte) (p : Nat → Bool) (js : List Nat) (m : ParMem) {x : Nat}
    (h : ∀ j ∈ js, x ≠ o + j) : (js.foldl (fun m j => m.putRaw (o + j) (b j) (p j)) m).byte x = m.byte x := by
  induction js generalizing m with
  | nil => rfl
  | cons j js ih =>
    rw [List.foldl_cons, ih _ (fun k hk => h k (List.mem_cons_of_mem _ hk)), byte_putRaw_other _ _ _ _ (h j List.mem_cons_self)]

theorem byte_splitStore_other (m : ParMem) (o : Nat) (data : Word) (par : BitVec 8) {x : Nat} (h : x < o ∨ o + 8 ≤ x) :
    (splitStore m o data par).byte x = m.byte x :=
  byte_foldl_putRaw_other o _ _ _ m (fun j hj => by have := List.mem_range.mp hj; omega)

/-- The fields that a write of FORME.SPLIT_ADDR takes whether or not it is carried out. -/
def splitTest (t : FormeTest) (v : Word) : FormeTest :=
  { t with splitOff := BitVec.ofNat 24 (field v 0 24), splitMem := BitVec.ofNat 2 (field v 24 2), splitRef := w1c t.splitRef v 28 }

/-- The memory that MEM of a split access names. -/
def splitMem (mem : Nat) (fm : Forme) : ParMem := if mem = 0 then fm.galley else fm.quire

theorem splitOk_iff (fm : Forme) (mem o : Nat) :
    splitOk fm mem o = true ↔ fm.fe.state = .idle ∧ (mem = 1 ∨ mem = 0 ∧ o < galleyBytes fm) := by
  simp [splitOk]

theorem splitWrite_eq (fm : Forme) (mem o : Nat) :
    (splitWrite fm mem o).test = fm.test
      ∧ splitMem mem (splitWrite fm mem o) = splitStore (splitMem mem fm) o fm.test.splitData fm.test.splitPar
      ∧ FTouches [if mem = 0 then .galley else .quire] fm (splitWrite fm mem o) := by
  rw [splitWrite]
  by_cases h : mem = 0
  · rw [splitMem, splitMem, if_pos h, if_pos h, if_pos h, if_pos h]
    exact ⟨rfl, rfl, fTouches_galley fm _⟩
  · rw [splitMem, splitMem, if_neg h, if_neg h, if_neg h, if_neg h]
    exact ⟨rfl, rfl, fTouches_quire fm _⟩

theorem splitRead_eq (fm : Forme) (mem o : Nat) :
    splitRead fm mem o = { fm with test := { fm.test with
      splitData := BitVec.ofNat 64 (leNat ((splitMem mem fm).bytes o 8)), splitPar := splitPar (splitMem mem fm) o } } := rfl

theorem splitRead_test (fm : Forme) (mem o : Nat) : FTouches [.test] fm (splitRead fm mem o) := fTouches_test fm _

/-- A split access that is refused sets its flag. -/
theorem writeSplitAddr_refused {fm : Forme} {v : Word} (hb : (!bit v 26 && !bit v 27) = false)
    (hok : splitOk fm (field v 24 2) (field v 0 24 / 8 * 8) = false) :
    writeSplitAddr fm v = { fm with test := { splitTest fm.test v with splitRef := true } } := by
  rw [writeSplitAddr]
  dsimp only
  rw [hb, if_neg Bool.false_ne_true, hok, if_neg Bool.false_ne_true]
  rfl

/-- A split write that is carried out, and the read after it when bit 27 asks for it. -/
theorem writeSplitAddr_write {fm : Forme} {v : Word} (hb : bit v 26 = true)
    (hok : splitOk fm (field v 24 2) (field v 0 24 / 8 * 8) = true) :
    writeSplitAddr fm v =
      if bit v 27 then splitRead (splitWrite { fm with test := splitTest fm.test v } (field v 24 2) (field v 0 24 / 8 * 8))
          (field v 24 2) (field v 0 24 / 8 * 8)
        else splitWrite { fm with test := splitTest fm.test v } (field v 24 2) (field v 0 24 / 8 * 8) := by
  rw [writeSplitAddr]
  dsimp only
  rw [hb, Bool.not_true, Bool.false_and, if_neg Bool.false_ne_true, hok, if_pos rfl, if_pos rfl]
  rfl

/-- A split read without a write, carried out. -/
theorem writeSplitAddr_read {fm : Forme} {v : Word} (hw : bit v 26 = false) (hb : bit v 27 = true)
    (hok : splitOk fm (field v 24 2) (field v 0 24 / 8 * 8) = true) :
    writeSplitAddr fm v = splitRead { fm with test := splitTest fm.test v } (field v 24 2) (field v 0 24 / 8 * 8) := by
  rw [writeSplitAddr]
  dsimp only
  rw [hb, hw, Bool.not_true, Bool.and_false, if_neg Bool.false_ne_true, hok, if_pos rfl, if_neg Bool.false_ne_true, if_pos rfl]
  rfl

/-- What a split write that is carried out leaves in its memory and in the registers. -/
theorem writeSplitAddr_stores {fm : Forme} {v : Word} (hb : bit v 26 = true)
    (hok : splitOk fm (field v 24 2) (field v 0 24 / 8 * 8) = true) :
    splitMem (field v 24 2) (writeSplitAddr fm v)
        = splitStore (splitMem (field v 24 2) fm) (field v 0 24 / 8 * 8) fm.test.splitData fm.test.splitPar
      ∧ (writeSplitAddr fm v).test = if bit v 27 then { splitTest fm.test v with
            splitData := BitVec.ofNat 64 (leNat ((splitMem (field v 24 2) (writeSplitAddr fm v)).bytes (field v 0 24 / 8 * 8) 8))
            splitPar := splitPar (splitMem (field v 24 2) (writeSplitAddr fm v)) (field v 0 24 / 8 * 8) }
          else splitTest fm.test v := by
  obtain ⟨htest, hstore, -⟩ := splitWrite_eq { fm with test := splitTest fm.test v } (field v 24 2) (field v 0 24 / 8 * 8)
  rw [writeSplitAddr_write hb hok]
  cases bit v 27 with
  | true =>
    rw [if_pos rfl, if_pos rfl, splitRead_eq, htest]
    exact ⟨hstore, rfl⟩
  | false =>
    rw [if_neg Bool.false_ne_true, if_neg Bool.false_ne_true]
    exact ⟨hstore, htest⟩

/-- A split write changes its memory and the registers of the checker tests. -/
theorem splitWrite_fTouches {fm : Forme} {v : Word} (hb : bit v 26 = true) :
    FTouches [if field v 24 2 = 0 then .galley else .quire, .test] fm (writeSplitAddr fm v) := by
  have hwrite : FTouches [if field v 24 2 = 0 then .galley else .quire, .test] fm
      (splitWrite { fm with test := splitTest fm.test v } (field v 24 2) (field v 0 24 / 8 * 8)) :=
    ((fTouches_test fm _).mono (by simp)).trans ((splitWrite_eq _ _ _).2.2.mono (by simp))
  cases hok : splitOk fm (field v 24 2) (field v 0 24 / 8 * 8) with
  | false =>
    rw [writeSplitAddr_refused (by rw [hb]; rfl) hok]
    exact (fTouches_test fm _).mono (by simp)
  | true =>
    rw [writeSplitAddr_write hb hok]
    cases bit v 27 with
    | true => exact hwrite.trans ((splitRead_test _ _ _).mono (by simp))
    | false => exact hwrite

/-- A split read alone changes the registers of the checker tests. -/
theorem splitRead_fTouches {fm : Forme} {v : Word} (hw : bit v 26 = false) (hb : bit v 27 = true) :
    FTouches [.test] fm (writeSplitAddr fm v) := by
  cases hok : splitOk fm (field v 24 2) (field v 0 24 / 8 * 8) with
  | false =>
    rw [writeSplitAddr_refused (by rw [hb, Bool.not_true, Bool.and_false]) hok]
    exact fTouches_test fm _
  | true =>
    rw [writeSplitAddr_read hw hb hok]
    exact (fTouches_test fm _).trans (splitRead_test _ _ _)

/-! ### Line checks (R693, R694) -/

/-- R694: a HARD record of a Forme's memory sets its HOLD and changes no Forme otherwise. -/
theorem logFault_hard_forme (s : State) (cls : MClass) (f : FormeIx) (act : FAction) (ix : Nat) (fid : BitVec 32) (a : Nat)
    (g : FormeIx) : (logFault s cls .hard (some f) act ix fid a).forme g
      = (modForme s f (fun fm => { fm with test := { fm.test with hold := true } })).forme g := by
  have hrise (b t : State) : (faultRise b t).formes = t.formes := faultRise_tt b t .formes (by decide)
  have hformes : (logFault s cls .hard (some f) act ix fid a).formes
      = (modForme s f (fun fm => { fm with test := { fm.test with hold := true } })).formes := by
    rw [logFault]
    dsimp only
    rw [hrise]
    split <;> rfl
  rw [State.forme, hformes]
  rfl

/-- R693: the Forme once a line of its quire memory or its Galley is checked: it ends as 0xAA bytes. -/
def checkedLine (q : Bool) (b : Nat) (fm : Forme) : Forme :=
  if q then { fm with quire := aaLine fm.quire b, line := none } else { fm with galley := aaLine fm.galley b, line := none }

theorem checkedLine_eq (q : Bool) (b : Nat) (fm : Forme) :
    (checkedLine q b fm).line = none ∧ (checkedLine q b fm).test = fm.test
      ∧ (if q then (checkedLine q b fm).quire else (checkedLine q b fm).galley)
          = (if q then fm.quire else fm.galley).putAll (placed b (List.replicate 64 0xAA))
      ∧ FTouches [if q then .quire else .galley, .line] fm (checkedLine q b fm) := by
  rw [checkedLine]
  simp only [aaLine]
  generalize placed b (List.replicate 64 0xAA) = bytes
  cases q <;> refine ⟨rfl, rfl, rfl, ?_⟩ <;> intro p hp <;> cases p <;> simp at hp <;> rfl

/-- HOLD is set when it is set already or the check found stuck bytes. -/
def holdIf (b : Bool) (fm : Forme) : Forme := { fm with test := { fm.test with hold := fm.test.hold || b } }

theorem holdIf_fTouches (b : Bool) (fm : Forme) : FTouches [.test] fm (holdIf b fm) := fTouches_test fm _

/-- The memory of a line by its local address, and the line's offset there. -/
def lineQuire (f : FormeIx) (a : Nat) : Bool := decide (quireAddr f 0 ≤ a)
def lineOffset (f : FormeIx) (a : Nat) : Nat := a - if lineQuire f a then quireAddr f 0 else galleyAddr f 0

theorem lineCheck_clean (s : State) (f : FormeIx) (a : Nat) :
    lineCheck s f a false = modForme s f (checkedLine (lineQuire f a) (lineOffset f a)) := by
  unfold lineCheck checkedLine lineOffset lineQuire
  dsimp only
  rw [if_neg Bool.false_ne_true]

theorem lineCheck_stuck (s : State) (f : FormeIx) (a : Nat) :
    ∃ cls ix fid, lineCheck s f a true
      = logFault (modForme s f (checkedLine (lineQuire f a) (lineOffset f a))) cls .hard (some f) .none ix fid a := by
  unfold lineCheck checkedLine lineOffset lineQuire
  dsimp only
  rw [if_pos rfl]
  exact ⟨_, _, _, rfl⟩

/-- R693, R694: the Formes after the check of a line, and the rest of the state. -/
theorem lineCheck_facts (s : State) (f : FormeIx) (a : Nat) (bad : Bool) :
    (∀ g, (lineCheck s f a bad).forme g
        = (modForme s f (fun fm => holdIf bad (checkedLine (lineQuire f a) (lineOffset f a) fm))).forme g)
      ∧ (bad = false → (lineCheck s f a bad).fault = s.fault)
      ∧ Touches [.out, .formes, .fault, .colo, .flash] s (lineCheck s f a bad) := by
  have hmod := modForme_touches s f (checkedLine (lineQuire f a) (lineOffset f a))
  cases bad with
  | false =>
    have hsame (fm : Forme) : holdIf false fm = fm := by rw [holdIf, Bool.or_false]
    rw [lineCheck_clean]
    simp only [hsame]
    exact ⟨fun _ => trivial, fun _ => hmod .fault (by decide), hmod.mono (by decide)⟩
  | true =>
    obtain ⟨cls, ix, fid, h⟩ := lineCheck_stuck s f a
    rw [h]
    refine ⟨fun g => ?_, fun h => Bool.noConfusion h, ?_⟩
    · rw [logFault_hard_forme, modForme_modForme]
      simp only [holdIf, Bool.or_true]
    · exact logFault_touch _ _ _ _ _ _ _ _ (by decide) (by decide) (by decide) (by decide) (by decide) (hmod.mono (by decide))

/-! ### The obligation -/

section
variable {s : State} {f : FormeIx} {v : Word}

theorem exec_splitWrite_on (hu : unitsOn s = true) (hb : bit v 26 = true) :
    exec (.splitWrite f v) s = .next (modForme s f (fun fm => writeSplitAddr fm v)) := by
  rw [show exec (.splitWrite f v) s = execSplitWrite f v s from rfl, execSplitWrite, hu, hb]
  rfl

theorem exec_splitRead_on (hu : unitsOn s = true) (hb : bit v 27 = true) :
    exec (.splitRead f v) s = .next (modForme s f (fun fm => writeSplitAddr fm v)) := by
  rw [show exec (.splitRead f v) s = execSplitRead f v s from rfl, execSplitRead, hu, hb]
  rfl

theorem exec_lineCheck_idle {stuck : List (Nat × Byte)} {a : Nat} (hu : unitsOn s = true) (hi : (s.forme f).fe.state = .idle)
    (hl : (s.forme f).line = some a) :
    exec (.lineCheck f stuck) s = .next (lineCheck s f a (stuck.any (fun p => decide (p.1 < 64)))) := by
  have hready : lineCheckReady s f = true := by simp [lineCheckReady, hu, hi, hl]
  rw [show exec (.lineCheck f stuck) s = execLineCheck f stuck s from rfl, execLineCheck, hready, onlyIf_true, lineCheckEffect, hl]

/-- R695: RETIRE takes effect at once on an IDLE Forme. -/
theorem writeFaultCtrl_retire (fm : Forme) (hb : bit v 0 = true) :
    writeFaultCtrl fm v = { fm with test := { fm.test with
      retire := true, hold := w1c fm.test.hold v 2, retired := fm.test.retired || decide (fm.fe.state = .idle) } } := by
  rw [writeFaultCtrl]
  dsimp only
  rw [hb, Bool.or_true, Bool.true_and]
  by_cases h : fm.fe.state = .idle
  · rw [decide_eq_true h, if_pos rfl, Bool.or_true]
  · rw [decide_eq_false h, if_neg Bool.false_ne_true, Bool.or_false]

/-- R693, R694: what the check of a line leaves, for the line's memory and offset. -/
theorem lineCheck_settles {q : Bool} {a b : Nat} (stuck : List (Nat × Byte)) (hu : unitsOn s = true)
    (hi : (s.forme f).fe.state = .idle) (hl : (s.forme f).line = some a) (hq : lineQuire f a = q) (hb : lineOffset f a = b) :
    ∃ t, exec (.lineCheck f stuck) s = .next t ∧ (t.forme f).line = none
      ∧ (if q then (t.forme f).quire else (t.forme f).galley)
          = (if q then (s.forme f).quire else (s.forme f).galley).putAll (placed b (List.replicate 64 0xAA))
      ∧ (t.forme f).test = { (s.forme f).test with hold := (s.forme f).test.hold || stuck.any (fun p => decide (p.1 < 64)) }
      ∧ (stuck.any (fun p => decide (p.1 < 64)) = false → t.fault = s.fault)
      ∧ OnlyForme f [if q then .quire else .galley, .line, .test] s t ∧ Touches [.out, .formes, .fault, .colo, .flash] s t := by
  obtain ⟨hforme, hfault, htouch⟩ := lineCheck_facts s f a (stuck.any (fun p => decide (p.1 < 64)))
  obtain ⟨hline, htest, hmem, hparts⟩ := checkedLine_eq q b (s.forme f)
  rw [hq, hb] at hforme
  have hf := (hforme f).trans (modForme_forme_same s f _)
  refine ⟨_, exec_lineCheck_idle hu hi hl, by rw [hf]; exact hline, by rw [hf]; exact hmem, by rw [hf, holdIf, htest], hfault,
    ⟨fun g hg => (hforme g).trans (modForme_forme_other s f g _ hg), ?_⟩, htouch⟩
  rw [hf]
  exact (hparts.mono (by simp)).trans ((holdIf_fTouches _ _).mono (by simp))

end

/-- Settles O40: each request changes its own register, a split access its memory too, and a line check the line. -/
theorem retirementAndTestRegistersAct : Obligations.RetirementAndTestRegistersAct := by
  intro f v s hu fm mem o test1 inMem memOf
  have hmod (g : Forme → Forme) : (modForme s f g).forme f = g fm := modForme_forme_same s f g
  have hrefused : ¬ inMem → splitOk fm mem o = false := fun h => Bool.eq_false_iff.mpr (fun hok => h ((splitOk_iff fm mem o).mp hok))
  refine ⟨?press, ?bank, fun hb => ?retire, fun hb => ?write, fun hw hb => ?read, fun hb => ?flip, fun a stuck hi hl => ?line⟩
  case press =>
    refine ⟨modForme s f (fun fm => writePressCtrl fm v), ?_, by rw [hmod]; rfl, OnlyForme.mod s f _ (fTouches_pu _ _),
      modForme_touches s f _⟩
    rw [show exec (.pressRetire f v) s = execPressRetire f v s from rfl, execPressRetire, hu, onlyIf_true]
  case bank =>
    refine ⟨modForme s f (fun fm => writeBankCtrl fm v), ?_, ?_, OnlyForme.mod s f _ ?_, modForme_touches s f _⟩
    · rw [show exec (.bankRetire f v) s = execBankRetire f v s from rfl, execBankRetire, hu, onlyIf_true]
    · rw [hmod, writeBankCtrl]
      split <;> rfl
    · rw [writeBankCtrl]
      split
      · exact FTouches.refl _ _
      · exact fTouches_test _ _
  case retire =>
    have honly : OnlyForme f [.test] s (modForme s f (fun fm => writeFaultCtrl fm v)) :=
      OnlyForme.mod s f _ (by rw [writeFaultCtrl_retire _ hb]; exact fTouches_test _ _)
    have hrelist : Touches [.colo] (modForme s f (fun fm => writeFaultCtrl fm v))
        (relist s (modForme s f (fun fm => writeFaultCtrl fm v))) := relist_touch s _ (by decide) (Touches.refl _ _)
    refine ⟨relist s (modForme s f (fun fm => writeFaultCtrl fm v)), ?_, ?_,
      honly.trans (OnlyForme.of_touch hrelist (by decide)), ((modForme_touches s f _).mono (by decide)).trans (hrelist.mono (by decide))⟩
    · rw [show exec (.formeRetire f v) s = execFormeRetire f v s from rfl, execFormeRetire, hu, hb]
      rfl
    · rw [State.forme, hrelist .formes (by decide)]
      exact congrArg Forme.test ((hmod (fun fm => writeFaultCtrl fm v)).trans (writeFaultCtrl_retire fm hb))
  case write =>
    refine ⟨_, exec_splitWrite_on hu hb, fun h => ?_, fun h => ?_, OnlyForme.mod s f _ (splitWrite_fTouches hb),
      modForme_touches s f _, exec_splitRead_on hu⟩
    · obtain ⟨hstore, htest⟩ := writeSplitAddr_stores hb ((splitOk_iff fm mem o).mpr h)
      rw [hmod]
      exact ⟨htest, hstore, fun x hx => (congrArg (fun m => ParMem.byte m x) hstore).trans (byte_splitStore_other _ _ _ _ hx)⟩
    · rw [hmod, writeSplitAddr_refused (by rw [hb]; rfl) (hrefused h)]
      rfl
  case read =>
    refine ⟨_, exec_splitRead_on hu hb, fun h => ?_, fun h => ?_, OnlyForme.mod s f _ (splitRead_fTouches hw hb),
      modForme_touches s f _⟩
    · rw [hmod, writeSplitAddr_read hw hb ((splitOk_iff fm mem o).mpr h)]
      rfl
    · rw [hmod, writeSplitAddr_refused (by rw [hb, Bool.not_true, Bool.and_false]) (hrefused h)]
      rfl
  case flip =>
    refine ⟨modForme s f (fun fm => writeFlip fm v), ?_, ?_, OnlyForme.mod s f _ (fTouches_test _ _), modForme_touches s f _⟩
    · rw [show exec (.galleyFlip f v) s = execGalleyFlip f v s from rfl, execGalleyFlip, hu, hb]
      rfl
    · rw [hmod, writeFlip, hb]
  case line =>
    exact lineCheck_settles stuck hu hi hl rfl rfl

end Sys2Proof
end

section
/-! PROOFS. Writes of registers and table words by address (R6, R437, R439 and the chapters that own the registers). -/

namespace Sys2Proof

open Machine Laws

theorem inArray_none {o base n : Nat} (h : o < base ∨ base + 8 * n ≤ o) : inArray o base n = none := by
  rw [inArray, dif_neg]
  omega

/-- A register of a Forme outside the tile array stands alone. -/
theorem writeFormeReg_single {o : Nat} (fm : Forme) (v : Word) (h : o < 0x0800 ∨ 0x1000 ≤ o) :
    writeFormeReg fm o v = writeFormeSingle fm o v := by
  rw [writeFormeReg, inArray_none (by omega)]

/-- A die register outside the arrays stands alone. -/
theorem writeDieReg_single {o : Nat} (s : State) (v : Word) (h : o < 0x0600 ∨ 0x0C00 ≤ o) :
    writeDieReg s o v = writeDieSingle s o v := by
  rw [writeDieReg, inArray_none (by omega)]
  dsimp only
  rw [inArray_none (by omega)]
  dsimp only
  rw [inArray_none (by omega)]
  dsimp only
  rw [inArray_none (by omega)]

section
variable {s : State} {addr : Addr} {v : Word}

theorem exec_registerWrite_at {r : RegAddr} (hu : unitsOn s = true) (h : regOf addr.toNat = some r) :
    exec (.registerWrite addr v) s = .next (writeReg s v r) := by
  rw [show exec (.registerWrite addr v) s = execRegisterWrite addr v s from rfl, execRegisterWrite, hu, onlyIf_true, mmioWrite, h]

theorem exec_registerWrite_none (hu : unitsOn s = true) (h : regOf addr.toNat = none) :
    exec (.registerWrite addr v) s = .next s := by
  rw [show exec (.registerWrite addr v) s = execRegisterWrite addr v s from rfl, execRegisterWrite, hu, onlyIf_true, mmioWrite, h]

/-- A write of a register of a Forme that stands alone changes that Forme alone. -/
theorem writeReg_forme {f : FormeIx} {o : Nat} {ps : List FPart} (h : o < 0x0800 ∨ 0x1000 ≤ o)
    (hp : FTouches ps (s.forme f) (writeFormeSingle (s.forme f) o v)) :
    (writeReg s v (.forme f o)).forme f = writeFormeSingle (s.forme f) o v
      ∧ OnlyForme f ps s (writeReg s v (.forme f o)) ∧ Touches [.formes, .colo] s (writeReg s v (.forme f o)) := by
  have hreg : writeFormeReg (s.forme f) o v = writeFormeSingle (s.forme f) o v := writeFormeReg_single _ v h
  have hrelist : Touches [.colo] (modForme s f (fun fm => writeFormeReg fm o v)) (writeReg s v (.forme f o)) :=
    relist_touch s _ (by decide) (Touches.refl _ _)
  have hmod : OnlyForme f ps s (modForme s f (fun fm => writeFormeReg fm o v)) := OnlyForme.mod s f _ (hreg ▸ hp)
  refine ⟨?_, hmod.trans (OnlyForme.of_touch hrelist (by decide)),
    ((modForme_touches s f _).mono (by decide)).trans (hrelist.mono (by decide))⟩
  rw [State.forme, hrelist .formes (by decide)]
  exact (modForme_forme_same s f _).trans hreg

theorem writeReg_die {o : Nat} (h : o < 0x0600 ∨ 0x0C00 ≤ o) : writeReg s v (.die o) = writeDieSingle s o v :=
  writeDieReg_single s v h

end

theorem fTouches_err (fm : Forme) (v : ProgErr) : FTouches [.err] fm { fm with err := v } := by
  intro p hp; cases p <;> simp at hp <;> rfl

/-- R504: a write of PROOF.CTRL sets ALMINT and may request a close. -/
theorem writeProofCtrl_eq (s : State) (v : Word) :
    writeProofCtrl s v = { s with proof := { s.proof with almint := bit v 2, closing := s.proof.closing || bit v 0 } } := by
  rw [writeProofCtrl]
  dsimp only
  cases bit v 0 with
  | true => rw [if_pos rfl, Bool.or_true]; rfl
  | false => rw [if_neg Bool.false_ne_true, Bool.or_false]

/-- Settles O41: each register address leads to its own write, which changes the fields of its register. -/
theorem registerWritesReachTheirRegister : Obligations.RegisterWritesReachTheirRegister := by
  intro addr v s hu c at_
  have hat {r : RegAddr} (h : at_ r) : c = .next (writeReg s v r) := exec_registerWrite_at hu h
  have hdie {o : Nat} (h : at_ (.die o)) (ho : o < 0x0600 ∨ 0x0C00 ≤ o) : c = .next (writeDieSingle s o v) :=
    (hat h).trans (congrArg _ (writeReg_die ho))
  refine ⟨fun h => exec_registerWrite_none hu h, fun ⟨o, h⟩ => ?readOnly, fun f h => ?cvt, fun f h => ?vec, fun f h => ?progErr,
    fun f h => ?splitData, fun h => ?proof, fun h => hdie h (by omega), fun h => hdie h (by omega), fun h => ?check,
    fun g h hw => ?tag, fun n k h hw => ?region, fun n k h hw => ?window⟩
  case readOnly => obtain h | h | h := h <;> exact hat h
  case cvt =>
    obtain ⟨hforme, honly, htouch⟩ := writeReg_forme (s := s) (f := f) (o := 0x0000) (v := v) (by omega) (fTouches_vu _ _)
    exact ⟨_, hat h, honly, htouch, congrArg Forme.vu hforme⟩
  case vec =>
    obtain ⟨hforme, honly, htouch⟩ := writeReg_forme (s := s) (f := f) (o := 0x0008) (v := v) (by omega) (fTouches_vu _ _)
    exact ⟨_, hat h, honly, htouch, congrArg Forme.vu hforme⟩
  case progErr =>
    obtain ⟨hforme, honly, htouch⟩ := writeReg_forme (s := s) (f := f) (o := 0x0030) (v := v) (by omega) (fTouches_err _ _)
    exact ⟨_, hat h, honly, htouch, congrArg Forme.err hforme⟩
  case splitData =>
    obtain ⟨hforme, honly, htouch⟩ := writeReg_forme (s := s) (f := f) (o := 0x1018) (v := v) (by omega) (fTouches_test _ _)
    exact ⟨_, hat h, honly, htouch, congrArg Forme.test hforme⟩
  case proof => exact (hdie h (by omega)).trans (congrArg _ (writeProofCtrl_eq s v))
  case check =>
    refine (hdie h (by omega)).trans (congrArg Host.Outcome.next ?_)
    show { s with check := writeCheckSrc s.check v } = _
    rw [writeCheckSrc]
  case tag =>
    refine ⟨setTag s g (writeTagConfig (tagEntry s g) v), hat h, fun k hk => tagEntry_setTag_other s _ hk, rfl,
      setTag_touches s g _, tagEntry_setTag_same g _ hw⟩
  case region =>
    refine ⟨_, hat h, tget_tset_same _ _ _ _ hw, fun m hm => tget_tset_other _ _ _ _ _ hm, rfl, ?_⟩
    intro p hp; cases p <;> first | exact absurd (by decide) hp | rfl
  case window =>
    refine ⟨_, hat h, tget_tset_same _ _ _ _ hw, fun m hm => tget_tset_other _ _ _ _ _ hm, rfl, ?_⟩
    intro p hp; cases p <;> first | exact absurd (by decide) hp | rfl

end Sys2Proof
end

section
/-! PROOFS. Chapters 10, 16 and 18, the caches of the Compositor cores (R437, R625 to R627, R689). -/

namespace Sys2Proof

open Machine Laws

/-! ### Lines of the caches -/

theorem find_tput_same {α : Type} (t : Table α) (k : Nat) (v : α) :
    (tput t k v).find? (fun p => decide (p.1 = k)) = some (k, v) := by
  induction t with
  | nil => simp [tput]
  | cons p t ih =>
    rw [tput]
    split
    · simp
    · split
      · simp
      · next hne _ => simpa [hne] using ih

theorem find_tput_other {α : Type} (t : Table α) (k j : Nat) (v : α) (h : j ≠ k) :
    (tput t k v).find? (fun p => decide (p.1 = j)) = t.find? (fun p => decide (p.1 = j)) := by
  induction t with
  | nil => simp [tput, Ne.symm h]
  | cons p t ih =>
    rw [tput]
    split
    next heq => simp [Ne.symm h, heq]
    next =>
      split
      next => simp [Ne.symm h]
      next => simp [List.find?_cons, ih]

theorem lineOf_setLine_same (s : State) (l : Nat) (x : CacheLine) : lineOf (setLine s l x) l = some x := by
  rw [lineOf, setLine, find_tput_same]
  rfl

theorem lineOf_setLine_other (s : State) {l k : Nat} (x : CacheLine) (h : k ≠ l) : lineOf (setLine s l x) k = lineOf s k := by
  rw [lineOf, setLine, find_tput_other _ _ _ _ h]
  rfl

/-- A line that is there has 64 bytes when every line has. -/
theorem lineOf_length {s : State} (hl : ∀ p ∈ s.cores.lines, p.2.bytes.length = 64) {l : Nat} {x : CacheLine}
    (h : lineOf s l = some x) : x.bytes.length = 64 := by
  rw [lineOf, Option.map_eq_some_iff] at h
  obtain ⟨p, hp, rfl⟩ := h
  exact hl p (List.mem_of_find?_eq_some hp)

/-! ### Stores of bytes (R627) -/

/-- A whole line is there. -/
def HasLine (s : State) (l : Nat) : Prop := ∃ x, lineOf s l = some x ∧ x.bytes.length = 64

/-- A line is there and dirty. -/
def DirtyLine (s : State) (l : Nat) : Prop := (lineOf s l).any (·.dirty) = true

section
variable {s : State}

/-- A stored byte lies in its line, which is then dirty. -/
theorem storeByte_same {a : Nat} {b : Byte} (h : HasLine s (a / 64)) :
    cachedByte (storeByte s (a, b)) a = b ∧ DirtyLine (storeByte s (a, b)) (a / 64) := by
  obtain ⟨x, hx, hlen⟩ := h
  have hstore : storeByte s (a, b) = setLine s (a / 64) ⟨x.bytes.set (a % 64) b, true⟩ := by simp only [storeByte, hx]
  rw [DirtyLine, cachedByte, hstore, lineOf_setLine_same]
  refine ⟨?_, rfl⟩
  have hlt : a % 64 < x.bytes.length := by omega
  simp [List.getD_eq_getElem?_getD, hlt]

/-- A stored byte changes no other byte of the caches. -/
theorem storeByte_other {a y : Nat} (b : Byte) (hy : y ≠ a) : cachedByte (storeByte s (a, b)) y = cachedByte s y := by
  cases hx : lineOf s (a / 64) with
  | none => simp only [storeByte, hx]
  | some x =>
    have hstore : storeByte s (a, b) = setLine s (a / 64) ⟨x.bytes.set (a % 64) b, true⟩ := by simp only [storeByte, hx]
    rw [cachedByte, cachedByte, hstore]
    by_cases hl : y / 64 = a / 64
    · have hne : a % 64 ≠ y % 64 := by omega
      rw [hl, lineOf_setLine_same, hx]
      simp [List.getD_eq_getElem?_getD, List.getElem?_set_ne hne]
    · rw [lineOf_setLine_other _ _ hl]

theorem storeByte_keeps_line {p : Nat × Byte} {l : Nat} :
    (HasLine s l → HasLine (storeByte s p) l) ∧ (DirtyLine s l → DirtyLine (storeByte s p) l) := by
  cases hx : lineOf s (p.1 / 64) with
  | none => simp only [storeByte, hx]; exact ⟨id, id⟩
  | some x =>
    have hstore : storeByte s p = setLine s (p.1 / 64) ⟨x.bytes.set (p.1 % 64) p.2, true⟩ := by simp only [storeByte, hx]
    rw [HasLine, HasLine, DirtyLine, DirtyLine, hstore]
    by_cases hl : l = p.1 / 64
    · rw [hl, lineOf_setLine_same, hx]
      refine ⟨?_, fun _ => rfl⟩
      rintro ⟨y, hy, hlen⟩
      cases hy
      exact ⟨_, rfl, by simpa using hlen⟩
    · rw [lineOf_setLine_other _ _ hl]
      exact ⟨id, id⟩

/-- Of the caches and the interrupt controller only the lines change. -/
theorem storeByte_only (s : State) (p : Nat × Byte) :
    { (storeByte s p).cores with lines := s.cores.lines } = s.cores ∧ Touches [.cores] s (storeByte s p) := by
  cases hx : lineOf s (p.1 / 64) with
  | none => simp only [storeByte, hx]; exact ⟨trivial, Touches.refl _ s⟩
  | some x =>
    simp only [storeByte, hx]
    refine ⟨rfl, ?_⟩
    intro q hq; cases q <;> first | exact absurd (by decide) hq | rfl

theorem storeBytes_only (ps : List (Nat × Byte)) (s : State) :
    { (ps.foldl storeByte s).cores with lines := s.cores.lines } = s.cores ∧ Touches [.cores] s (ps.foldl storeByte s) := by
  induction ps generalizing s with
  | nil => exact ⟨rfl, Touches.refl _ s⟩
  | cons p ps ih =>
    obtain ⟨hcores, htouch⟩ := storeByte_only s p
    obtain ⟨hcores', htouch'⟩ := ih (storeByte s p)
    refine ⟨?_, htouch.trans htouch'⟩
    rw [List.foldl_cons, ← hcores, ← hcores']

/-- Bytes stored from an address on, into lines that are there: each is read back, its line is dirty, and no other byte of the
caches changes. -/
theorem storeBytes_facts (bs : List Byte) (a : Nat) (s : State) (h : ∀ i < bs.length, HasLine s ((a + i) / 64)) :
    let t := (placed a bs).foldl storeByte s
    (∀ i < bs.length, cachedByte t (a + i) = bs.getD i 0 ∧ DirtyLine t ((a + i) / 64))
      ∧ (∀ y, (y < a ∨ a + bs.length ≤ y) → cachedByte t y = cachedByte s y)
      ∧ ∀ l, DirtyLine s l → DirtyLine t l := by
  induction bs generalizing a s with
  | nil => exact ⟨fun i hi => absurd hi (Nat.not_lt_zero i), fun _ _ => rfl, fun _ => id⟩
  | cons b bs ih =>
    have hshift (i : Nat) : a + 1 + i = a + (i + 1) := by omega
    obtain ⟨hin, hout, hdirty⟩ := ih (a + 1) (storeByte s (a, b)) (fun i hi => storeByte_keeps_line.1 (by
      rw [hshift]; exact h (i + 1) (by simpa using hi)))
    obtain ⟨hbyte, hline⟩ := storeByte_same (b := b) (h 0 (Nat.succ_pos _))
    refine ⟨fun i hi => ?_, fun y hy => ?_, fun l hl => hdirty l (storeByte_keeps_line.2 hl)⟩
    · cases i with
      | zero => exact ⟨(hout a (by omega)).trans hbyte, hdirty _ hline⟩
      | succ i => rw [← hshift]; exact hin i (by simpa using hi)
    · rw [List.length_cons] at hy
      exact (hout y (by omega)).trans (storeByte_other b (by omega))

/-! ### Accesses -/

/-- The lines of an access of up to 8 bytes hold its bytes. -/
theorem mem_linesOf {a n i : Nat} (hi : i < n) (hn : n ≤ 8) : (a + i) / 64 ∈ linesOf a n := by
  rw [linesOf]
  split
  · have : (a + i) / 64 = a / 64 := by omega
    simp [this]
  · have : (a + i) / 64 = a / 64 ∨ (a + i) / 64 = a / 64 + 1 := by omega
    simpa using this

theorem fillLines_present (ls : List Nat) (h : ∀ m ∈ ls, (lineOf s m).isSome = true) : fillLines ls s = .inr s := by
  induction ls with
  | nil => rfl
  | cons l ls ih =>
    obtain ⟨x, hx⟩ := Option.isSome_iff_exists.mp (h l List.mem_cons_self)
    simp only [fillLines, fillLine, hx]
    exact ih (fun m hm => h m (List.mem_cons_of_mem _ hm))

/-- A line just fetched reads as GDDR7 does. -/
theorem cachedByte_fetched (s : State) (l y : Nat) (h : y / 64 = l) :
    cachedByte (setLine s l ⟨gddrBytesAt s.gddr (64 * l) 64, false⟩) y = gddrByte s.gddr y := by
  have hlt : y % 64 < 64 := Nat.mod_lt _ (by decide)
  rw [cachedByte, h, lineOf_setLine_same]
  simp only [gddrBytesAt, List.getD_eq_getElem?_getD, List.getElem?_map, List.getElem?_range hlt, Option.map_some, Option.getD_some]
  congr 1
  omega

/-- The bytes that an access returns. -/
def readBytes (n x : Nat) (b : Nat → Byte) : Out := .readData (BitVec.ofNat 64 (leNat ((List.range n).map (fun i => b (x + i)))))

theorem exec_coreAccess_sound (hart : Fin 8) (k : CoreKind) (a : BitVec 64) (size : BitVec 4) (v : Word) (hu : unitsOn s = true)
    (hs : size = 1 ∨ size = 2 ∨ size = 4 ∨ size = 8) :
    exec (.coreAccess hart k a size v false) s = .next (coreOp s hart k a.toNat size.toNat v) := by
  have hsize : coreSizeOk size = true := by obtain rfl | rfl | rfl | rfl := hs <;> rfl
  rw [show exec (.coreAccess hart k a size v false) s = execCoreAccess hart k a size v false s from rfl, execCoreAccess, hu, hsize,
    Bool.and_self, onlyIf_true, coreEffect]
  rw [if_neg Bool.false_ne_true, unitsOn_not_fenced hu, if_neg Bool.false_ne_true]

/-- An access of mapped GDDR7 goes through the caches. -/
theorem dataAccess_cached {hart : Fin 8} {store : Bool} {a n : Nat} {v : Word} (hr : gddrRange s.gddr a n = true)
    (ha : a < gddrBytes) : dataAccess s hart store a n v = cachedAccess s hart store a n v := by
  rw [dataAccess, if_pos ha, coreGddr, hr, if_pos rfl]

theorem dataAccess_uncached {hart : Fin 8} {store : Bool} {a n : Nat} {v : Word} (ha : gddrBytes ≤ a) :
    dataAccess s hart store a n v = uncachedAccess s hart store a n v := if_neg (Nat.not_lt.mpr ha)

theorem uncachedAccess_aligned {hart : Fin 8} {store : Bool} {a n : Nat} {v : Word} (hn : n = 8) (ha : a % 8 = 0) :
    uncachedAccess s hart store a n v = if store then uncachedStore s hart a v else uncachedLoad s hart a :=
  if_neg (by simp [hn, ha])

theorem aligned_of_regOf {a : Nat} {r : RegAddr} (h : regOf a = some r) : a % 8 = 0 := by
  rw [regOf] at h
  split at h
  next hc => exact hc.1
  next => cases h

/-- A load and a fetch do the same once the parity of the line holds. -/
theorem coreOp_read {hart : Fin 8} {k : CoreKind} {a n : Nat} {v : Word} (hk : k = .load ∨ k = .fetch) :
    coreOp s hart k a n v = dataAccess s hart false a n v := by
  obtain rfl | rfl := hk <;> rfl

/-- R689: a clean line whose parity fails is logged and dropped before the access. -/
theorem cacheError_clean {hart : Fin 8} {k : CoreKind} {l : Nat} {line : CacheLine} (hl : lineOf s l = some line)
    (hd : line.dirty = false) : cacheError s hart k l
      = dropLine (logFault s (cacheClass k) .corrected none .refetched hart.1 0 (64 * l)) l := by
  simp only [cacheError, hl, hd, Bool.false_eq_true, if_false]

theorem getLast_drop_append {α : Type} (l : List α) (r : α) (n : Nat) (h : n ≤ l.length) :
    ((l ++ [r]).drop n).getLast? = some r := by
  rw [List.drop_append_of_le_length h]
  simp

end

/-- Settles O42: each kind of access, in the caches and outside GDDR7, with and without its line. -/
theorem coresReachMemoryThroughTheirCaches : Obligations.CoresReachMemoryThroughTheirCaches := by
  intro h a size v s hu hs hlen n x l run bytes
  have hrun (k : CoreKind) : run k = .next (coreOp s h k x n v) := exec_coreAccess_sound h k a size v hu hs
  have hn : n ≤ 8 := by simp only [n]; obtain rfl | rfl | rfl | rfl := hs <;> decide
  have hread {k : CoreKind} (hk : k = .load ∨ k = .fetch) : run k = .next (dataAccess s h false x n v) :=
    (hrun k).trans (congrArg _ (coreOp_read hk))
  refine ⟨fun hr hx hls => ⟨fun k hk => ?load, ?store⟩, fun hr hx hls hl hlost k hk => ?fill, fun line hl hd hm => ?writeBack,
    hrun .inval, fun hx hbad => ⟨?badStore, fun k hk => ?badLoad⟩, fun r hx h8 hreg => ⟨?regStore, fun k hk => ?regLoad⟩,
    fun hx h8 hal hreg hmem k hk => ?fault, fun line hl hd => ?parity⟩
  case load =>
    rw [hread hk, dataAccess_cached hr hx, cachedAccess, fillLines_present _ hls]
    rfl
  case store =>
    have hbytes : (leBytes n v.toNat).length = n := leBytes_length n v.toNat
    have hhas : ∀ i < (leBytes n v.toNat).length, HasLine s ((x + i) / 64) := by
      intro i hi
      obtain ⟨y, hy⟩ := Option.isSome_iff_exists.mp (hls _ (mem_linesOf (hbytes ▸ hi) hn))
      exact ⟨y, hy, lineOf_length hlen hy⟩
    obtain ⟨hin, hout, -⟩ := storeBytes_facts (leBytes n v.toNat) x s hhas
    obtain ⟨hcores, htouch⟩ := storeBytes_only (placed x (leBytes n v.toNat)) s
    rw [hbytes] at hin hout
    refine ⟨(placed x (leBytes n v.toNat)).foldl storeByte s, ?_, hin, hout, hcores, htouch⟩
    rw [hrun, coreOp, dataAccess_cached hr hx, cachedAccess, fillLines_present _ hls]
    rfl
  case fill =>
    have hsame (i : Nat) (hi : i < n) : (x + i) / 64 = l := by simpa [hls] using mem_linesOf (a := x) hi hn
    have hfill : fillLines (linesOf x n) s = .inr (setLine s l ⟨gddrBytesAt s.gddr (64 * l) 64, false⟩) := by
      simp only [hls, fillLines, fillLine, hl, hlost]
    have hbytes : (List.range n).map (fun i => cachedByte (setLine s l ⟨gddrBytesAt s.gddr (64 * l) 64, false⟩) (x + i))
        = (List.range n).map (fun i => gddrByte s.gddr (x + i)) :=
      List.map_congr_left (fun i hi => cachedByte_fetched s l (x + i) (hsame i (List.mem_range.mp hi)))
    rw [hread hk, dataAccess_cached hr hx, cachedAccess, hfill]
    dsimp only
    rw [if_neg Bool.false_ne_true, hbytes]
    rfl
  case writeBack =>
    rw [hrun, coreOp, writeBackLine, hl]
    dsimp only
    rw [if_pos ⟨hd, hm⟩]
    rfl
  case badStore => rw [hrun, coreOp, dataAccess_uncached hx, uncachedAccess, if_pos hbad, if_pos rfl]
  case badLoad =>
    rw [hread hk, dataAccess_uncached hx, uncachedAccess, if_pos hbad, if_neg Bool.false_ne_true]
    rfl
  case regStore =>
    rw [hrun, coreOp, dataAccess_uncached hx, uncachedAccess_aligned h8 (aligned_of_regOf hreg), if_pos rfl, uncachedStore, hreg]
  case regLoad =>
    rw [hread hk, dataAccess_uncached hx, uncachedAccess_aligned h8 (aligned_of_regOf hreg), if_neg Bool.false_ne_true,
      uncachedLoad, hreg]
  case fault =>
    have hload : uncachedLoad s h x = coreFaults s h := by simp only [uncachedLoad, hreg, hmem, Bool.false_eq_true, if_false]
    have hstore : uncachedStore s h x v = coreFaults s h := by
      simp only [uncachedStore, hreg, hmem, Bool.false_eq_true, if_false]
    have hreads {k : CoreKind} (hk : k = .load ∨ k = .fetch) : run k = .next (coreFaults s h) := by
      rw [hread hk, dataAccess_uncached hx, uncachedAccess_aligned h8 hal, if_neg Bool.false_ne_true, hload]
    obtain hk | hk | rfl := hk
    · exact hreads (.inl hk)
    · exact hreads (.inr hk)
    · rw [hrun, coreOp, dataAccess_uncached hx, uncachedAccess_aligned h8 hal, if_pos rfl, hstore]
      rfl
  case parity =>
    let s1 := logFault s .cacheD .corrected none .refetched h.1 0 (64 * l)
    have htouch : Touches [.out, .fault, .colo] s s1 := logFault_none_tt s _ _ _ _ _ _ (by decide) (by decide)
    obtain ⟨hrecs, -, hfenced⟩ := logFault_recs s .cacheD .corrected none .refetched h.1 0 (64 * l)
    have hsize : coreSizeOk size = true := by obtain rfl | rfl | rfl | rfl := hs <;> rfl
    have hdrop (t : State) : Touches [.cores] t (dropLine t l) := by
      intro p hp; cases p <;> first | exact absurd (by decide) hp | rfl
    refine ⟨dropLine (dropLine s1 l) l, ?_, ?_, ?_,
      (htouch.mono (by decide)).trans (((hdrop _).trans (hdrop _)).mono (by decide))⟩
    · have hoff : (dropLine s1 l).fault.fenced = false := hfenced.trans (unitsOn_not_fenced hu)
      rw [show exec (.coreAccess h .inval a size v true) s = execCoreAccess h .inval a size v true s from rfl, execCoreAccess,
        hu, hsize, Bool.and_self, onlyIf_true, coreEffect]
      rw [if_pos rfl, cacheError_clean hl hd, show cacheClass .inval = .cacheD from rfl, hoff, if_neg Bool.false_ne_true]
      rfl
    · show tdel (tdel s1.cores.lines l) l = _
      rw [show s1.cores = s.cores from htouch .cores (by decide)]
    · show s1.fault.recs.getLast? = _
      rw [hrecs, getLast_drop_append _ _ _ (by omega)]
      rfl

end Sys2Proof
end

section
/-! PROOFS. Chapters 11 and 18, GDDR7: retirement and migration of extents, retraining of channels (R471 to R473, R477,
R480 to R483, R698). -/

namespace Sys2Proof

open Machine Laws

section
variable {s : State}

/-! ### Entries of the extent table -/

theorem modGddr_touches (s : State) (g : Gddr → Gddr) : Touches [.gddr] s (modGddr s g) := by
  intro p hp; cases p <;> first | exact absurd (by decide) hp | rfl

theorem extEntry_modExt_same {g : Gddr} (l : Nat) (k : ExtEntry → ExtEntry) (hw : tableWf extDefault g.ext = true) :
    extEntry (modExt g l k) l = k (extEntry g l) := tget_tset_same _ _ _ _ hw

theorem extEntry_modExt_other (g : Gddr) {l m : Nat} (k : ExtEntry → ExtEntry) (h : m ≠ l) :
    extEntry (modExt g l k) m = extEntry g m := tget_tset_other _ _ _ _ _ h

theorem modExt_wf {g : Gddr} (l : Nat) (k : ExtEntry → ExtEntry) (hw : tableWf extDefault g.ext = true) :
    tableWf extDefault (modExt g l k).ext = true := tset_wf _ _ hw

/-- An entry of the extent table in another state. -/
def withState (n : BitVec 3) (e : ExtEntry) : ExtEntry := { e with state := n }

/-- R472: a spare found is in state SPARE. -/
theorem lowestSpare_state {g : Gddr} {l : Nat} (h : lowestSpare g = some l) : (extEntry g l).state = 3 := by
  simpa using List.find?_some h

/-! ### The end of a request: the record in flash and the interrupt (R470, R629) -/

/-- The interrupt of MEM.EXT_RETIRE pends, and nothing of GDDR7 or flash changes. -/
theorem raiseRetire_facts (s : State) :
    (s.fault.fenced = false → ((raiseRetire s).cores.pending ||| (raiseRetire s).cores.claimed).getLsbD 9 = true)
      ∧ (raiseRetire s).gddr = s.gddr ∧ (raiseRetire s).flash = s.flash ∧ Touches [.out, .cores, .colo] s (raiseRetire s) := by
  have h : Touches [.out, .cores, .colo] s (raiseRetire s) := raise_tt s 9 0 _
  exact ⟨raise_bit s 9 0 _ (by decide), h .gddr (by decide), h .flash (by decide), h⟩

theorem recordRetirement_flash (s : State) (l sp : Nat) : (recordRetirement s l sp).flash
    = if s.sec.keyState = 2 then s.flash else { s.flash with retire := s.flash.retire ++ [(l, sp)] } := by
  rw [recordRetirement]
  split <;> rfl

theorem recordRetirement_touches (s : State) (l sp : Nat) : Touches [.flash] s (recordRetirement s l sp) :=
  recordRetirement_touch s l sp (by decide) (Touches.refl _ s)

/-! ### EXT_RETIRE_GO (R471 to R473) -/

/-- The register after a write, before GO acts. -/
def writtenRetire (r : ExtRetire) (v : Word) : ExtRetire :=
  { r with lext := BitVec.ofNat 16 (field v 0 16), done := w1c r.done v 18, refused := w1c r.refused v 19 }

theorem exec_extRetireGo_on (v : Word) (hu : unitsOn s = true) : exec (.extRetireGo v) s
    = .next (if bit v 16 then retireGo (modGddr s (fun g => { g with ret := writtenRetire g.ret v })) (field v 0 16)
        else modGddr s (fun g => { g with ret := writtenRetire g.ret v })) := by
  rw [show exec (.extRetireGo v) s = execExtRetireGo v s from rfl, execExtRetireGo, hu, onlyIf_true]
  rfl

/-- R471: a refusal sets REFUSED with its reason and interrupts. -/
theorem refuseRetire_facts (s : State) (rsn : BitVec 4) :
    (s.fault.fenced = false → ((refuseRetire s rsn).cores.pending ||| (refuseRetire s rsn).cores.claimed).getLsbD 9 = true)
      ∧ (refuseRetire s rsn).gddr = { s.gddr with ret := { s.gddr.ret with refused := true, rsn := rsn } }
      ∧ Touches [.out, .gddr, .cores, .colo] s (refuseRetire s rsn) := by
  obtain ⟨hirq, hgddr, -, htouch⟩ :=
    raiseRetire_facts (modGddr s (fun g => { g with ret := { g.ret with refused := true, rsn := rsn } }))
  exact ⟨hirq, hgddr, ((modGddr_touches s _).mono (by decide)).trans (htouch.mono (by decide))⟩

/-- R473: a spare retires at once. -/
theorem retireSpare_facts (l : Nat) (hw : tableWf extDefault s.gddr.ext = true) (hf : s.fault.fenced = false) :
    let t := retireSpare s l
    extEntry t.gddr l = { extEntry s.gddr l with state := 4 } ∧ (∀ k, k ≠ l → extEntry t.gddr k = extEntry s.gddr k)
      ∧ t.flash = (if s.sec.keyState = 2 then s.flash else { s.flash with retire := s.flash.retire ++ [(l, l)] })
      ∧ (t.cores.pending ||| t.cores.claimed).getLsbD 9 = true
      ∧ t.gddr.ret = { s.gddr.ret with done := true, newpext := (extEntry s.gddr l).pext }
      ∧ { t.gddr with ext := s.gddr.ext, ret := s.gddr.ret } = s.gddr ∧ Touches [.out, .gddr, .cores, .colo, .flash] s t := by
  intro t
  let s1 : State := modGddr s (fun g => { modExt g l (fun e => { e with state := 4 }) with
    ret := { g.ret with done := true, newpext := (extEntry s.gddr l).pext } })
  have hrec := recordRetirement_touches s1 l l
  obtain ⟨hirq, hgddr, hflash, htouch⟩ := raiseRetire_facts (recordRetirement s1 l l)
  have hg : t.gddr = s1.gddr := hgddr.trans (hrec .gddr (by decide))
  refine ⟨?_, fun k hk => ?_, hflash.trans (recordRetirement_flash s1 l l), hirq ?_, by rw [hg]; rfl, by rw [hg]; rfl, ?_⟩
  · rw [hg]; exact extEntry_modExt_same l (withState 4) hw
  · rw [hg]; exact extEntry_modExt_other s.gddr (withState 4) hk
  · rw [hrec .fault (by decide)]; exact hf
  · exact ((modGddr_touches s _).mono (by decide)).trans ((hrec.mono (by decide)).trans (htouch.mono (by decide)))

/-- R472: the migration of a mapped extent begins. -/
theorem retireMapped_facts {l sp : Nat} (hw : tableWf extDefault s.gddr.ext = true) (hne : sp ≠ l) :
    let t := retireMapped s l sp
    extEntry t.gddr sp = { extEntry s.gddr sp with state := 4 } ∧ extEntry t.gddr l = { extEntry s.gddr l with state := 2 }
      ∧ (∀ k, k ≠ l → k ≠ sp → extEntry t.gddr k = extEntry s.gddr k)
      ∧ t.gddr.ret = { s.gddr.ret with busy := true, moving := BitVec.ofNat 16 l, spare := BitVec.ofNat 16 sp }
      ∧ { t.gddr with ext := s.gddr.ext, ret := s.gddr.ret } = s.gddr ∧ Touches [.gddr] s t := by
  intro t
  have hw1 := modExt_wf sp (withState 4) hw
  refine ⟨?_, ?_, fun k hl hs => ?_, rfl, rfl, modGddr_touches s _⟩
  · exact (extEntry_modExt_other (modExt s.gddr sp (withState 4)) (withState 2) hne).trans (extEntry_modExt_same sp _ hw)
  · exact (extEntry_modExt_same l (withState 2) hw1).trans (congrArg _ (extEntry_modExt_other _ _ (Ne.symm hne)))
  · exact (extEntry_modExt_other (modExt s.gddr sp (withState 4)) (withState 2) hl).trans (extEntry_modExt_other _ _ hs)

/-! ### The end of a migration (R472, R477, R697) -/

/-- What the report of unreadable granules of extent l leaves. -/
structure ExtReported (l : Nat) (s t : State) : Prop where
  gddr : { t.gddr with ext := s.gddr.ext } = s.gddr
  other : ∀ k, k ≠ l → extEntry t.gddr k = extEntry s.gddr k
  wf : tableWf extDefault s.gddr.ext = true → tableWf extDefault t.gddr.ext = true
  fenced : t.fault.fenced = s.fault.fenced
  touches : Touches [.out, .gddr, .fault, .colo] s t

theorem ExtReported.refl (l : Nat) (s : State) : ExtReported l s s := ⟨rfl, fun _ _ => rfl, id, rfl, Touches.refl _ s⟩

theorem ExtReported.trans {l : Nat} {s t u : State} (h : ExtReported l s t) (k : ExtReported l t u) : ExtReported l s u :=
  ⟨by rw [← h.gddr, ← k.gddr], fun j hj => (k.other j hj).trans (h.other j hj), fun hw => k.wf (h.wf hw),
    k.fenced.trans h.fenced, h.touches.trans k.touches⟩

theorem ExtReported.phys {l : Nat} {s t : State} (h : ExtReported l s t) : t.gddr.phys = s.gddr.phys :=
  (congrArg Gddr.phys h.gddr :)

theorem ExtReported.ret {l : Nat} {s t : State} (h : ExtReported l s t) : t.gddr.ret = s.gddr.ret :=
  (congrArg Gddr.ret h.gddr :)

theorem gddrError_reported (s : State) {l a : Nat} (ha : a / extBytes = l) : ExtReported l s (gddrError s none .none a) := by
  subst ha
  let s1 : State := modGddr s (fun g => modExt g (a / extBytes) (fun e => { e with ue := true }))
  let s2 := bumpEnt s1 0x3020 6 1 32
  obtain ⟨ix, hlog⟩ : ∃ ix, gddrError s none .none a
      = logFault s2 .gddr7 .uncorrected none .none ix 0 (a / 256 * 256) := ⟨_, rfl⟩
  have htouch : Touches [.out, .fault, .colo] s2 (logFault s2 .gddr7 .uncorrected none .none ix 0 (a / 256 * 256)) :=
    logFault_none_tt s2 _ _ _ _ _ _ (by decide) (by decide)
  have hg : (gddrError s none .none a).gddr = s1.gddr := by rw [hlog]; exact htouch .gddr (by decide)
  refine ⟨by rw [hg]; rfl, fun k hk => ?_, fun hw => ?_, ?_, ?_⟩
  · rw [hg]; exact extEntry_modExt_other s.gddr _ hk
  · rw [hg]; exact modExt_wf _ _ hw
  · rw [hlog, logFault_fenced]; rfl
  · rw [hlog]
    exact ((modGddr_touches s _).mono (by decide)).trans (((bumpEnt_touches s1 _ _ _ _).mono (by decide)).trans (htouch.mono (by decide)))

theorem foldl_gddrError_reported {l : Nat} (as : List Nat) (h : ∀ a ∈ as, a / extBytes = l) (s : State) :
    ExtReported l s (as.foldl (fun t a => gddrError t none .none a) s) := by
  induction as generalizing s with
  | nil => exact ExtReported.refl l s
  | cons a as ih =>
    exact (gddrError_reported s (h a List.mem_cons_self)).trans (ih (fun b hb => h b (List.mem_cons_of_mem _ hb)) _)

theorem migrationErrors_reported (s : State) (l p : Nat) : ExtReported l s (migrationErrors s l p) := by
  have hmap : migrationErrors s l p
      = ((lostOf s.gddr p).map (fun i => l * extBytes + i * 256)).foldl (fun t a => gddrError t none .none a) s := by
    rw [migrationErrors, List.foldl_map]
  rw [hmap]
  refine foldl_gddrError_reported _ (fun a ha => ?_) s
  obtain ⟨i, hi, rfl⟩ := List.mem_map.mp ha
  rw [lostOf] at hi
  have hlt : i < 8192 := List.mem_range.mp (List.mem_filter.mp hi).1
  rw [show extBytes = 2097152 from rfl]
  omega

/-- Bytes copied from one range to another that does not meet it. -/
theorem foldl_copyBytes (src dst n : Nat) (hd : src + n ≤ dst ∨ dst + n ≤ src) (m : Mem) (hw : m.wf = true) :
    let m' := (List.range n).foldl (fun m i => m.put (dst + i) (m.byte (src + i))) m
    (∀ i < n, m'.byte (dst + i) = m.byte (src + i)) ∧ (∀ a, (a < dst ∨ dst + n ≤ a) → m'.byte a = m.byte a) ∧ m'.wf = true := by
  induction n with
  | zero => exact ⟨fun i hi => absurd hi (Nat.not_lt_zero i), fun _ _ => rfl, hw⟩
  | succ n ih =>
    obtain ⟨hin, hout, hwf⟩ := ih (by omega)
    rw [List.range_succ, List.foldl_append, List.foldl_cons, List.foldl_nil]
    refine ⟨fun i hi => ?_, fun a ha => ?_, Mem.put_wf _ _ hwf⟩
    · obtain hlt | rfl := Nat.lt_succ_iff_lt_or_eq.mp hi
      · rw [Mem.byte_put_other _ _ _ _ (by omega), hin i hlt]
      · rw [Mem.byte_put_same _ _ _ hwf, hout _ (by omega)]
    · rw [Mem.byte_put_other _ _ _ _ (by omega), hout a (by omega)]

/-- Two extents do not meet. -/
theorem extents_apart {p q : Nat} (E : Nat) (h : p ≠ q) : p * E + E ≤ q * E ∨ q * E + E ≤ p * E := by
  have hstep {a b : Nat} (hab : a < b) : a * E + E ≤ b * E := by
    rw [← Nat.succ_mul]
    exact Nat.mul_le_mul_right E hab
  obtain hlt | hlt := Nat.lt_or_gt_of_ne h
  · exact .inl (hstep hlt)
  · exact .inr (hstep hlt)

theorem copyExtent_bytes {g : Gddr} {p q : Nat} (h : p ≠ q) (hw : g.phys.wf = true) :
    (∀ i < extBytes, (copyExtent g p q).phys.byte (q * extBytes + i) = g.phys.byte (p * extBytes + i))
      ∧ ∀ a, (a < q * extBytes ∨ q * extBytes + extBytes ≤ a) → (copyExtent g p q).phys.byte a = g.phys.byte a := by
  obtain ⟨hin, hout, -⟩ := foldl_copyBytes (p * extBytes) (q * extBytes) extBytes (extents_apart extBytes h) g.phys hw
  have hphys : (copyExtent g p q).phys
      = (List.range extBytes).foldl (fun m i => m.put (q * extBytes + i) (m.byte (p * extBytes + i))) g.phys := by rw [copyExtent]
  rw [hphys]
  exact ⟨hin, hout⟩

/-- R472: what the end of a migration changes of GDDR7 once the reports are made. -/
def migrated (l : Nat) (p q : BitVec 16) (g : Gddr) : Gddr :=
  let g1 := modExt (copyExtent g p.toNat q.toNat) l (fun e => { e with pext := q, state := 1, cecnt := 0, ue := false })
  { g1 with ret := { g1.ret with busy := false, done := true, newpext := q } }

theorem migrationDone_eq (s : State) :
    migrationDone s = raiseRetire (recordRetirement (modGddr
      (migrationErrors s s.gddr.ret.moving.toNat (extEntry s.gddr s.gddr.ret.moving.toNat).pext.toNat)
      (migrated s.gddr.ret.moving.toNat (extEntry s.gddr s.gddr.ret.moving.toNat).pext
        (extEntry s.gddr s.gddr.ret.spare.toNat).pext)) s.gddr.ret.moving.toNat s.gddr.ret.spare.toNat) := by
  unfold migrationDone migrated
  dsimp only

theorem migrated_phys (l : Nat) (p q : BitVec 16) (g : Gddr) :
    (migrated l p q g).phys = (copyExtent g p.toNat q.toNat).phys := by
  unfold migrated modExt
  dsimp only

theorem copyExtent_ext (g : Gddr) (p q : Nat) : (copyExtent g p q).ext = g.ext := by rw [copyExtent]

theorem copyExtent_ret (g : Gddr) (p q : Nat) : (copyExtent g p q).ret = g.ret := by rw [copyExtent]

theorem migrated_ext (l : Nat) (p q : BitVec 16) (g : Gddr) :
    (migrated l p q g).ext = tmod extDefault g.ext l (fun e => { e with pext := q, state := 1, cecnt := 0, ue := false }) := by
  have hext := copyExtent_ext g p.toNat q.toNat
  rw [migrated]
  generalize copyExtent g p.toNat q.toNat = c at hext ⊢
  rw [← hext, modExt]

theorem migrated_ret (l : Nat) (p q : BitVec 16) (g : Gddr) :
    (migrated l p q g).ret = { g.ret with busy := false, done := true, newpext := q } := by
  have hret := copyExtent_ret g p.toNat q.toNat
  rw [migrated]
  generalize copyExtent g p.toNat q.toNat = c at hret ⊢
  rw [← hret, modExt]

/-- R472: the migrated extent maps the new one; no other entry changes. -/
theorem extEntry_migrated {g : Gddr} (l : Nat) (p q : BitVec 16) (hw : tableWf extDefault g.ext = true) :
    extEntry (migrated l p q g) l = ⟨q, 1, 0, false⟩ ∧ ∀ k, k ≠ l → extEntry (migrated l p q g) k = extEntry g k := by
  refine ⟨?_, fun k hk => ?_⟩ <;> rw [extEntry, migrated_ext, tmod]
  · exact tget_tset_same _ _ _ _ hw
  · exact tget_tset_other _ _ _ _ _ hk

/-- R472, R477, R697: the end of a migration. -/
theorem migrationDone_facts (hw : tableWf extDefault s.gddr.ext = true) (hm : s.gddr.phys.wf = true)
    (hf : s.fault.fenced = false)
    (hne : (extEntry s.gddr s.gddr.ret.moving.toNat).pext.toNat ≠ (extEntry s.gddr s.gddr.ret.spare.toNat).pext.toNat) :
    let l := s.gddr.ret.moving.toNat
    let p := (extEntry s.gddr l).pext.toNat
    let q := (extEntry s.gddr s.gddr.ret.spare.toNat).pext
    let t := migrationDone s
    extEntry t.gddr l = ⟨q, 1, 0, false⟩ ∧ (∀ k, k ≠ l → extEntry t.gddr k = extEntry s.gddr k)
      ∧ (t.cores.pending ||| t.cores.claimed).getLsbD 9 = true
      ∧ t.gddr.ret = { s.gddr.ret with busy := false, done := true, newpext := q }
      ∧ (∀ i, i < extBytes → t.gddr.phys.byte (q.toNat * extBytes + i) = s.gddr.phys.byte (p * extBytes + i))
      ∧ (∀ a, (a < q.toNat * extBytes ∨ q.toNat * extBytes + extBytes ≤ a) → t.gddr.phys.byte a = s.gddr.phys.byte a)
      ∧ t.flash = (if s.sec.keyState = 2 then s.flash
          else { s.flash with retire := s.flash.retire ++ [(l, s.gddr.ret.spare.toNat)] })
      ∧ Touches [.out, .gddr, .cores, .fault, .colo, .flash] s t := by
  intro l p q t
  have hrep := migrationErrors_reported s l p
  have hphys : (migrationErrors s l p).gddr.phys = s.gddr.phys := hrep.phys
  have hret : (migrationErrors s l p).gddr.ret = s.gddr.ret := hrep.ret
  obtain ⟨u, hu⟩ : ∃ u, u = modGddr (migrationErrors s l p) (migrated l (extEntry s.gddr l).pext q) := ⟨_, rfl⟩
  have ht : t = raiseRetire (recordRetirement u l s.gddr.ret.spare.toNat) := by rw [hu]; exact migrationDone_eq s
  have hug : u.gddr = migrated l (extEntry s.gddr l).pext q (migrationErrors s l p).gddr := by rw [hu, modGddr]
  have huTouch : Touches [.out, .gddr, .fault, .colo] s u := by
    rw [hu]; exact hrep.touches.trans ((modGddr_touches _ _).mono (by decide))
  have hrec := recordRetirement_touches u l s.gddr.ret.spare.toNat
  obtain ⟨hirq, hgddr, hflash, htouch⟩ := raiseRetire_facts (recordRetirement u l s.gddr.ret.spare.toNat)
  have hg : t.gddr = migrated l (extEntry s.gddr l).pext q (migrationErrors s l p).gddr := by
    rw [ht, hgddr, hrec .gddr (by decide), hug]
  obtain ⟨hsame, hother⟩ := extEntry_migrated l (extEntry s.gddr l).pext q (hrep.wf hw)
  obtain ⟨hcopy, hkeep⟩ := copyExtent_bytes (g := (migrationErrors s l p).gddr) hne (by rw [hphys]; exact hm)
  rw [hphys] at hcopy hkeep
  have hp : t.gddr.phys = (copyExtent (migrationErrors s l p).gddr p q.toNat).phys := by rw [hg, migrated_phys]
  have hfenced : (recordRetirement u l s.gddr.ret.spare.toNat).fault.fenced = false := by
    rw [hrec .fault (by decide), hu, modGddr, hrep.fenced]
    exact hf
  refine ⟨by rw [hg]; exact hsame, fun k hk => by rw [hg, hother k hk, hrep.other k hk], by rw [ht]; exact hirq hfenced,
    by rw [hg, migrated_ret, hret], ?_, ?_, ?_, ?_⟩
  · exact fun i hi => (congrArg (fun m : Mem => m.byte (q.toNat * extBytes + i)) hp).trans (hcopy i hi)
  · exact fun a ha => (congrArg (fun m : Mem => m.byte a) hp).trans (hkeep a ha)
  · rw [ht, hflash, recordRetirement_flash, huTouch .sec (by decide), huTouch .flash (by decide)]
  · rw [ht]; exact (huTouch.mono (by decide)).trans ((hrec.mono (by decide)).trans (htouch.mono (by decide)))

end

end Sys2Proof
end

section
/-! PROOFS. Chapters 11 and 18, GDDR7: retraining of channels (R480 to R483, R698), and the whole of O43. -/

namespace Sys2Proof

open Machine Laws

section
variable {s : State}

/-! ### Channels -/

theorem chanOf_modChan_same (c : Nat) (f : Chan → Chan) (hw : tableWf chanDefault s.gddr.chans = true) :
    chanOf (modChan s c f).gddr c = f (chanOf s.gddr c) := tget_tset_same _ _ _ _ hw

theorem chanOf_modChan_other {c d : Nat} (f : Chan → Chan) (h : d ≠ c) :
    chanOf (modChan s c f).gddr d = chanOf s.gddr d := tget_tset_other _ _ _ _ _ h

/-- A channel that retrains. -/
def retrains (x : Chan) : Chan := { x with retraining := true }

theorem chanOf_beginRetrain_same (c : Nat) (hw : tableWf chanDefault s.gddr.chans = true) :
    chanOf (beginRetrain s c).gddr c = retrains (chanOf s.gddr c) := chanOf_modChan_same c retrains hw

theorem chanOf_beginRetrain_other {c d : Nat} (h : d ≠ c) : chanOf (beginRetrain s c).gddr d = chanOf s.gddr d :=
  chanOf_modChan_other retrains h

theorem beginRetrain_chansWf (c : Nat) (hw : tableWf chanDefault s.gddr.chans = true) :
    tableWf chanDefault (beginRetrain s c).gddr.chans = true :=
  tset_wf (d := chanDefault) c (retrains (chanOf s.gddr c)) hw

/-- Channels begin to retrain and nothing else of a channel or of the stored bytes changes. -/
structure OnlyRetrains (s t : State) : Prop where
  chan : ∀ c, chanOf t.gddr c = { chanOf s.gddr c with retraining := (chanOf t.gddr c).retraining }
  phys : t.gddr.phys = s.gddr.phys
  touches : Touches [.gddr, .colo] s t

theorem OnlyRetrains.refl (s : State) : OnlyRetrains s s := ⟨fun _ => rfl, rfl, Touches.refl _ s⟩

theorem OnlyRetrains.trans {s t u : State} (h : OnlyRetrains s t) (k : OnlyRetrains t u) : OnlyRetrains s u :=
  ⟨fun c => by rw [k.chan c, h.chan c], k.phys.trans h.phys, h.touches.trans k.touches⟩

/-- A change of the waiting triggers changes no channel. -/
theorem wait_onlyRetrains (s : State) (w : List Nat) : OnlyRetrains s (modGddr s (fun g => { g with wait := w })) :=
  ⟨fun _ => rfl, rfl, (modGddr_touches s _).mono (by decide)⟩

theorem beginRetrain_onlyRetrains (c : Nat) (hw : tableWf chanDefault s.gddr.chans = true) :
    OnlyRetrains s (beginRetrain s c) := by
  refine ⟨fun d => ?_, rfl, beginRetrain_touch s c (by decide) (by decide) (Touches.refl _ s)⟩
  by_cases h : d = c
  · rw [h, chanOf_beginRetrain_same c hw]; rfl
  · rw [chanOf_beginRetrain_other h]

/-- R481: the trigger that acts next is one that waited. -/
theorem nextRetrain_cases (s : State) (k : Nat) : nextRetrain s k = s ∨ ∃ c ∈ s.gddr.wait,
    nextRetrain s k = beginRetrain (modGddr s (fun g => { g with wait := s.gddr.wait.filter (· ≠ c) })) c := by
  rw [nextRetrain]
  split
  · exact .inl rfl
  · split
    · next c hc => exact .inr ⟨c, List.mem_of_find?_eq_some hc, rfl⟩
    · exact .inl rfl

theorem nextRetrain_onlyRetrains (k : Nat) (hw : tableWf chanDefault s.gddr.chans = true) :
    OnlyRetrains s (nextRetrain s k) ∧ tableWf chanDefault (nextRetrain s k).gddr.chans = true := by
  obtain h | ⟨c, -, h⟩ := nextRetrain_cases s k <;> rw [h]
  · exact ⟨.refl s, hw⟩
  · exact ⟨(wait_onlyRetrains s _).trans (beginRetrain_onlyRetrains c hw), beginRetrain_chansWf c hw⟩

/-- The next trigger leaves a channel that does not wait as it is. -/
theorem chanOf_nextRetrain {c : Nat} (k : Nat) (h : c ∉ s.gddr.wait) :
    chanOf (nextRetrain s k).gddr c = chanOf s.gddr c := by
  obtain hn | ⟨d, hd, hn⟩ := nextRetrain_cases s k <;> rw [hn]
  exact chanOf_beginRetrain_other (fun hc => h (hc ▸ hd))

/-- R480, R481: a trigger for a channel that is not lost leaves it retraining or waiting. -/
theorem retrainTrigger_facts (c : Nat) (hw : tableWf chanDefault s.gddr.chans = true) :
    OnlyRetrains s (retrainTrigger s c) ∧ ((chanOf s.gddr c).dead = false →
      (chanOf (retrainTrigger s c).gddr c).retraining = true ∨ c ∈ (retrainTrigger s c).gddr.wait) := by
  simp only [retrainTrigger]
  split
  · next h =>
    refine ⟨.refl s, fun hd => ?_⟩
    simpa [hd] using h
  · split
    · exact ⟨wait_onlyRetrains s _, fun _ => .inr (List.mem_append_right _ List.mem_cons_self)⟩
    · exact ⟨beginRetrain_onlyRetrains c hw, fun _ => .inl (by rw [chanOf_beginRetrain_same c hw]; rfl)⟩

/-- The channel's part of a retraining that ends. -/
def trained (ns : Word) (x : Chan) : Chan := { x with retraining := false, fails := 0, trainedAt := ns }

/-- The channel's part of a retraining that fails. -/
def failed (n : Nat) (x : Chan) : Chan := { x with retraining := false, fails := n, dead := decide (3 ≤ n) }

/-- R483: a channel that trained. -/
theorem retrainFinish_ok (c : Fin 80) (hw : tableWf chanDefault s.gddr.chans = true) (h : c.1 ∉ s.gddr.wait) :
    let t := retrainFinish s c true
    t.gddr.phys = s.gddr.phys ∧ chanOf t.gddr c.1 = trained s.tb.ns (chanOf s.gddr c.1) ∧ Touches [.gddr, .colo] s t := by
  have hw1 : tableWf chanDefault (modChan s c.1 (trained s.tb.ns)).gddr.chans = true := tset_wf _ _ hw
  obtain ⟨hnext, -⟩ := nextRetrain_onlyRetrains (c.1 / 8) hw1
  refine ⟨hnext.phys, (chanOf_nextRetrain (s := modChan s c.1 (trained s.tb.ns)) _ h).trans (chanOf_modChan_same _ _ hw), ?_⟩
  exact ((modGddr_touches s _).mono (by decide)).trans hnext.touches

/-- R483: a channel that failed once or twice retrains again. -/
theorem retrainFinish_again (c : Fin 80) (hw : tableWf chanDefault s.gddr.chans = true) (h : (chanOf s.gddr c.1).fails < 2) :
    let t := retrainFinish s c false
    (chanOf t.gddr c.1).fails = (chanOf s.gddr c.1).fails + 1 ∧ (chanOf t.gddr c.1).dead = false ∧ t.gddr.phys = s.gddr.phys
      ∧ ((chanOf t.gddr c.1).retraining = true ∨ c.1 ∈ t.gddr.wait) ∧ Touches [.gddr, .colo] s t := by
  intro t
  obtain ⟨n, hn⟩ : ∃ n, n = (chanOf s.gddr c.1).fails + 1 := ⟨_, rfl⟩
  have ht : t = retrainTrigger (nextRetrain (modChan s c.1 (failed n)) (c.1 / 8)) c.1 := by
    rw [hn]
    exact if_neg (by omega : ¬ 3 ≤ (chanOf s.gddr c.1).fails + 1)
  have hw1 : tableWf chanDefault (modChan s c.1 (failed n)).gddr.chans = true := tset_wf _ _ hw
  obtain ⟨hnext, hwf⟩ := nextRetrain_onlyRetrains (c.1 / 8) hw1
  obtain ⟨htrig, hagain⟩ := retrainTrigger_facts c.1 hwf
  have hchan := chanOf_modChan_same c.1 (failed n) hw
  have hall := hnext.trans htrig
  rw [ht]
  refine ⟨?_, ?_, hall.phys, hagain ?_, ((modGddr_touches s _).mono (by decide)).trans hall.touches⟩
  · rw [hall.chan, hchan, ← hn]; rfl
  · rw [hall.chan, hchan]; exact decide_eq_false (by omega)
  · rw [hnext.chan, hchan]; exact decide_eq_false (by omega)

/-- R698: a third failure fences the die. -/
theorem retrainFinish_fence (c : Fin 80) (hw : tableWf chanDefault s.gddr.chans = true) (h : 2 ≤ (chanOf s.gddr c.1).fails)
    (hf : s.fault.fenced = false) :
    let t := retrainFinish s c false
    (chanOf t.gddr c.1).dead = true ∧ (chanOf t.gddr c.1).retraining = false ∧ t.fault.fenced = true ∧ t.fault.reason = 4
      ∧ t.gddr.phys = s.gddr.phys
      ∧ Touches [.out, .formes, .gddr, .span, .abut, .cores, .svc, .fault, .colo, .boot, .flash, .pwr] s t := by
  intro t
  obtain ⟨n, hn⟩ : ∃ n, n = (chanOf s.gddr c.1).fails + 1 := ⟨_, rfl⟩
  have hfence : t = fenceFault (modChan s c.1 (failed n)) .gddr7 .hard c.1 0 4 := by
    rw [hn]
    exact if_pos (by omega : 3 ≤ (chanOf s.gddr c.1).fails + 1)
  have hstop : t = fenceStop (logFault (modChan s c.1 (failed n)) .gddr7 .hard none .dieFenced c.1 0 0) 4 := by
    rw [hfence, fenceFault, if_neg (by rw [show (modChan s c.1 (failed n)).fault.fenced = s.fault.fenced from rfl, hf]; decide)]
  have htouch : Touches [.out, .formes, .span, .abut, .cores, .svc, .fault, .colo, .boot, .flash, .pwr]
      (modChan s c.1 (failed n)) t := by
    rw [hfence]
    exact fenceFault_touch _ _ _ _ _ _ (by decide) (by decide) (by decide) (by decide) (by decide) (by decide) (by decide)
      (by decide) (by decide) (by decide) (by decide) (Touches.refl _ _)
  have hg : t.gddr = (modChan s c.1 (failed n)).gddr := htouch .gddr (by decide)
  have hchan := chanOf_modChan_same c.1 (failed n) hw
  refine ⟨?_, ?_, by rw [hstop]; rfl, by rw [hstop]; rfl, by rw [hg]; rfl, ?_⟩
  · rw [hg, hchan]; exact decide_eq_true (by omega)
  · rw [hg, hchan]; rfl
  · exact ((modGddr_touches s _).mono (by decide)).trans (htouch.mono (by decide))

/-- R480: a trigger that acts. -/
theorem beginRetrain_facts (c : Fin 80) (hw : tableWf chanDefault s.gddr.chans = true)
    (he : tableWf (entDefault s.build s.dieIndex) s.colo.ent = true) :
    let t := beginRetrain s c.1
    chanOf t.gddr c.1 = retrains (chanOf s.gddr c.1) ∧ (∀ d : Fin 80, d ≠ c → chanOf t.gddr d.1 = chanOf s.gddr d.1)
      ∧ entN t 0x3020 7 = (entN s 0x3020 7 + 1) % 2 ^ 32 ∧ { t.gddr with chans := s.gddr.chans } = s.gddr
      ∧ Touches [.gddr, .colo] s t :=
  ⟨chanOf_beginRetrain_same c.1 hw, fun _ hd => chanOf_beginRetrain_other (Fin.val_ne_of_ne hd),
    entN_bumpEnt_same (modChan s c.1 retrains) _ _ _ _ he, rfl,
    beginRetrain_touch s c.1 (by decide) (by decide) (Touches.refl _ s)⟩

/-! ### A GO by the state of the extent (R471 to R473) -/

theorem retireGo_busy (l : Nat) (h : s.gddr.ret.busy = true) : retireGo s l = refuseRetire s 1 := if_pos h

theorem retireGo_spare {l : Nat} (h : s.gddr.ret.busy = false) (hst : (extEntry s.gddr l).state = 3) :
    retireGo s l = retireSpare s l := by
  simp only [retireGo, h, hst, Bool.false_eq_true, if_false, if_true]

theorem retireGo_mapped {l sp : Nat} (h : s.gddr.ret.busy = false) (hst : (extEntry s.gddr l).state = 1)
    (hsp : lowestSpare s.gddr = some sp) : retireGo s l = retireMapped s l sp := by
  rw [retireGo, if_neg (by rw [h]; decide), hst, if_neg (by decide), if_pos rfl, hsp]

theorem retireGo_noSpare {l : Nat} (h : s.gddr.ret.busy = false) (hst : (extEntry s.gddr l).state = 1)
    (hsp : lowestSpare s.gddr = none) : retireGo s l = refuseRetire s 2 := by
  rw [retireGo, if_neg (by rw [h]; decide), hst, if_neg (by decide), if_pos rfl, hsp]

theorem retireGo_other {l : Nat} (h : s.gddr.ret.busy = false) (h1 : (extEntry s.gddr l).state ≠ 1)
    (h3 : (extEntry s.gddr l).state ≠ 3) : retireGo s l = refuseRetire s 3 := by
  simp only [retireGo, h, h1, h3, Bool.false_eq_true, if_false]

theorem exec_channelRetrain (c : Fin 80) (hu : unitsOn s = true) : exec (.channelRetrain c) s = .next (retrainTrigger s c.1) := by
  rw [show exec (.channelRetrain c) s = execChannelRetrain c s from rfl, execChannelRetrain, hu, onlyIf_true]

theorem exec_channelRetrainFinish {c : Fin 80} (ok : Bool) (h : retrainFinishReady s c = true) :
    exec (.channelRetrainFinish c ok) s = .next (retrainFinish s c ok) := by
  rw [show exec (.channelRetrainFinish c ok) s = execChannelRetrainFinish c ok s from rfl, execChannelRetrainFinish, h, onlyIf_true]

end

/-- Settles O43: a written request of retirement by its cases (`exec_extRetireGo_on` with the facts of each case), the end of a
migration (`migrationDone_facts`), and the triggers and ends of a retraining. -/
theorem gddr7RetiresAndRetrains : Obligations.Gddr7RetiresAndRetrains := by
  unfold Obligations.Gddr7RetiresAndRetrains
  intro s r ent keeps recorded interrupts chan taken begins
  refine ⟨fun hw hu v => ?retire, fun hw hm hu hb => ?migration, fun hw he c => ⟨fun hu ht => ?taken, fun hu ht hb => ?waits,
    fun hu ht hb => ?begins, fun h => ?timer, fun h => ⟨fun hc => ?trained, fun hn => ?again, fun hn => ?fence⟩, fun b => rfl⟩⟩
  case retire =>
    intro l r1 refused
    have hfenced := unitsOn_not_fenced hu
    have hexec := exec_extRetireGo_on v hu
    let s1 : State := modGddr s (fun g => { g with ret := r1 })
    have hgo (hb : bit v 16 = true) : exec (.extRetireGo v) s = .next (retireGo s1 l) := by rw [hexec, if_pos hb]; rfl
    have hrefuse (n : BitVec 4) (h : exec (.extRetireGo v) s = .next (refuseRetire s1 n)) : refused n := by
      obtain ⟨hirq, hgddr, htouch⟩ := refuseRetire_facts s1 n
      exact ⟨_, h, hgddr, hirq hfenced, ((modGddr_touches s _).mono (by decide)).trans htouch⟩
    refine ⟨fun hb => ?_, fun hb hbusy => ?_, fun hb hbusy hst => ?_, fun sp hb hbusy hst hsp => ?_, fun hb hbusy hst hsp => ?_,
      fun hb hbusy h1 h3 => ?_⟩
    case _ => rw [hexec, if_neg (ne_true_of_eq_false hb)]; rfl
    case _ => exact hrefuse 1 ((hgo hb).trans (congrArg Host.Outcome.next (retireGo_busy l hbusy)))
    case _ =>
      obtain ⟨hsame, hother, hflash, hirq, hret, hrest, htouch⟩ := retireSpare_facts (s := s1) l hw hfenced
      refine ⟨_, (hgo hb).trans (congrArg Host.Outcome.next (retireGo_spare hbusy hst)), hsame, fun k hk _ => hother k hk, hflash,
        hirq, hret, ?_, ((modGddr_touches s _).mono (by decide)).trans htouch⟩
      exact congrArg (fun g : Gddr => { g with ret := r }) hrest
    case _ =>
      have hst3 : (extEntry s.gddr sp).state = 3 := lowestSpare_state hsp
      have hne : sp ≠ l := fun h => by rw [h, show (extEntry s.gddr l).state = 1 from hst] at hst3; exact absurd hst3 (by decide)
      have hact : retireGo s1 l = retireMapped s1 l sp := retireGo_mapped hbusy hst hsp
      obtain ⟨hspare, hsame, hother, hret, hrest, htouch⟩ := retireMapped_facts (s := s1) hw hne
      refine ⟨_, (hgo hb).trans (congrArg Host.Outcome.next hact), hspare, hsame, hother, hret, ?_,
        (modGddr_touches s _).trans htouch⟩
      exact congrArg (fun g : Gddr => { g with ret := r }) hrest
    case _ =>
      exact hrefuse 2 ((hgo hb).trans (congrArg Host.Outcome.next (retireGo_noSpare hbusy hst hsp)))
    case _ => exact hrefuse 3 ((hgo hb).trans (congrArg Host.Outcome.next (retireGo_other hbusy h1 h3)))
  case migration =>
    intro l p q hne
    obtain ⟨hsame, hother, hirq, hret, hcopy, hkeep, hflash, htouch⟩ := migrationDone_facts hw hm (unitsOn_not_fenced hu) hne
    refine ⟨migrationDone s, ?_, hsame, fun k hk _ => hother k hk, hirq, hret, hcopy, hkeep, hflash, htouch⟩
    rw [show exec .extMigrationComplete s = execExtMigrationComplete s from rfl, execExtMigrationComplete, hu,
      show s.gddr.ret.busy = true from hb, Bool.and_true, onlyIf_true]
  case taken => exact (exec_channelRetrain c hu).trans (congrArg Host.Outcome.next (if_pos ht))
  case waits =>
    exact (exec_channelRetrain c hu).trans
      (congrArg Host.Outcome.next ((if_neg (ne_true_of_eq_false ht)).trans (if_pos hb)))
  case begins =>
    obtain ⟨hsame, hother, hcount, hrest, htouch⟩ := beginRetrain_facts c hw he
    refine ⟨_, (exec_channelRetrain c hu).trans (congrArg Host.Outcome.next ?_), ⟨hsame, hother, hcount, hrest⟩, htouch⟩
    exact (if_neg (ne_true_of_eq_false ht)).trans (if_neg (ne_true_of_eq_false hb))
  case timer =>
    have hu : unitsOn s = true := by rw [retrainDue, Bool.and_eq_true] at h; exact h.1
    rw [exec_channelRetrain c hu, show exec (.retrainTimer c) s = execRetrainTimer c s from rfl, execRetrainTimer, h, onlyIf_true]
  case trained => exact ⟨_, exec_channelRetrainFinish true h, retrainFinish_ok c hw hc⟩
  case again => exact ⟨_, exec_channelRetrainFinish false h, retrainFinish_again c hw hn⟩
  case fence =>
    have hu : unitsOn s = true := by rw [retrainFinishReady, Bool.and_eq_true] at h; exact h.1
    exact ⟨_, exec_channelRetrainFinish false h, retrainFinish_fence c hw hn (unitsOn_not_fenced hu)⟩

end Sys2Proof
end

section
/-! PROOFS. Chapter 13, the timebase and the Keystone barrier (R521, R522, R525 to R532). -/

namespace Sys2Proof

open Machine Laws

section
variable {s : State}

/-! ### Barriers -/

theorem modBar_same (s : State) (b : Fin 4) (g : Bar → Bar) : (modBar s b g).bars[b] = g s.bars[b] := vmod_get_same _ _ _

theorem modBar_other (s : State) {b c : Fin 4} (g : Bar → Bar) (h : c ≠ b) : (modBar s b g).bars[c] = s.bars[c] :=
  vmod_get_other _ _ _ _ h

theorem modBar_touches (s : State) (b : Fin 4) (g : Bar → Bar) : Touches [.bars] s (modBar s b g) := by
  intro p hp; cases p <;> first | exact absurd (by decide) hp | rfl

theorem bar_congr {t : State} (h : t.bars = s.bars) (b : Fin 4) : t.bars[b] = s.bars[b] := by rw [h]

/-- The barrier is set to a value, and the other barriers stay. -/
structure BarIs (b : Fin 4) (x : Bar) (s t : State) : Prop where
  same : t.bars[b] = x
  other : ∀ c, c ≠ b → t.bars[c] = s.bars[c]

theorem modBar_is (s : State) (b : Fin 4) (g : Bar → Bar) : BarIs b (g s.bars[b]) s (modBar s b g) :=
  ⟨modBar_same s b g, fun _ h => modBar_other s g h⟩

theorem BarIs.of_eq {b : Fin 4} {x : Bar} {s t u : State} (h : BarIs b x s t) (hu : u.bars = t.bars) : BarIs b x s u :=
  ⟨(bar_congr hu b).trans h.same, fun c hc => (bar_congr hu c).trans (h.other c hc)⟩

theorem BarIs.from {b : Fin 4} {x : Bar} {s t u : State} (hs : ∀ c, c ≠ b → t.bars[c] = s.bars[c]) (h : BarIs b x t u) :
    BarIs b x s u := ⟨h.same, fun c hc => (h.other c hc).trans (hs c hc)⟩

/-- Packets sent one after another. -/
theorem foldl_send_touches {α : Type} (pk : State → α → SpanPacket) (as : List α) (s : State) :
    Touches [.out, .span, .colo] s (as.foldl (fun t a => (spanSend t (pk t a)).1) s) := by
  induction as generalizing s with
  | nil => exact Touches.refl _ s
  | cons a as ih => exact (spanSend_tt s _).trans (ih _)

/-! ### Abort and release (R528, R530, R531) -/

/-- An aborted barrier. -/
def abortedBar (x : Bar) : Bar := { x with armed := false, aborted := true, relTime := none, arrivals := [] }

/-- A released barrier. -/
def releasedBar (time : Word) (late : Bool) (x : Bar) : Bar :=
  { x with armed := false, released := true, late := x.late || late, time := time, relTime := none }

/-- R530, R531: an abort. -/
theorem abortBar_facts (b : Fin 4) (hf : s.fault.fenced = false) :
    BarIs b (abortedBar s.bars[b]) s (abortBar s b)
      ∧ ((abortBar s b).cores.pending ||| (abortBar s b).cores.claimed).getLsbD 11 = true
      ∧ Touches [.out, .bars, .span, .cores, .colo] s (abortBar s b) := by
  obtain ⟨u, hu, hsend⟩ : ∃ u, abortBar s b = raise u 11 b.1 (barDetail u.bars[b])
      ∧ Touches [.out, .span, .colo] (modBar s b abortedBar) u := by
    refine ⟨_, rfl, ?_⟩
    split
    · exact foldl_send_touches (fun t (a : Arrival) => keystonePacket t b 2 a.die 0 s.bars[b]) _ _
    · exact Touches.refl _ _
  have hraise := raise_tt u 11 b.1 (barDetail u.bars[b])
  have hbars : (abortBar s b).bars = (modBar s b abortedBar).bars := by
    rw [hu]; exact (hraise .bars (by decide)).trans (hsend .bars (by decide))
  refine ⟨(modBar_is s b abortedBar).of_eq hbars, ?_, ?_⟩ <;> rw [hu]
  · exact raise_bit u 11 _ _ (by decide) (by rw [hsend .fault (by decide)]; exact hf)
  · exact ((modBar_touches s b _).mono (by decide)).trans ((hsend.mono (by decide)).trans (hraise.mono (by decide)))

/-- R528: a release. -/
theorem releaseBar_facts (b : Fin 4) (time : Word) (late : Bool) (hf : s.fault.fenced = false) :
    let t := releaseBar s b time late
    let x := s.bars[b]
    BarIs b (releasedBar time late x) s t ∧ (t.cores.pending ||| t.cores.claimed).getLsbD 11 = true
      ∧ (∀ f : FormeIx, t.forme f = if x.formes.getLsbD f.1 && formeBusy (s.forme f) && isExt (s.forme f) x.token
          then { s.forme f with tok := vmod (s.forme f).tok x.token.toFin (· + 1) } else s.forme f)
      ∧ Touches [.out, .formes, .bars, .cores, .colo] s t := by
  intro t x
  obtain ⟨u, hu⟩ : ∃ u, u = signalMask (modBar s b (releasedBar time late)) x.formes x.token := ⟨_, rfl⟩
  have ht : t = raise u 11 b.1 (barDetail u.bars[b]) := by rw [hu]; rfl
  have hsig : Touches [.formes, .colo] (modBar s b (releasedBar time late)) u := by
    rw [hu]; exact signalMask_touch _ _ _ (by decide) (by decide) (Touches.refl _ _)
  have hraise := raise_tt u 11 b.1 (barDetail u.bars[b])
  have hbars : t.bars = (modBar s b (releasedBar time late)).bars := by
    rw [ht]; exact (hraise .bars (by decide)).trans (hsig .bars (by decide))
  refine ⟨(modBar_is s b _).of_eq hbars, ?_, fun f => ?_, ?_⟩
  · rw [ht]; exact raise_bit u 11 _ _ (by decide) (by rw [hsig .fault (by decide)]; exact hf)
  · rw [State.forme, ht, hraise .formes (by decide)]
    exact (congrArg (fun v : State => v.forme f) hu).trans (signalMask_facts _ _ _ f)
  · rw [ht]
    exact ((modBar_touches s b _).mono (by decide)).trans ((hsig.mono (by decide)).trans (hraise.mono (by decide)))

/-! ### Arrivals (R526, R527, R532) -/

/-- A barrier whose release time is set. -/
def announcedBar (time : Word) (x : Bar) : Bar := { x with relTime := some time, arrivals := [] }

/-- R527: the release time of a root that holds every arrival. -/
def releaseTime (s : State) (arrivals : List Arrival) : Word :=
  BitVec.ofNat 64 ((arrivals.map (fun a => a.time.toNat)).foldl max 0 + entN s 0x5010 5)

/-- R527: the last arrival sets the release time. -/
theorem announce_full {b : Fin 4} (h : s.bars[b].armed = true ∧ s.bars[b].root = s.span.dieId
      ∧ s.bars[b].arrivals.length = s.bars[b].pm1.toNat + 1) :
    BarIs b (announcedBar (releaseTime s s.bars[b].arrivals) s.bars[b]) s (announce s b)
      ∧ Touches [.out, .bars, .span, .colo] s (announce s b) := by
  obtain ⟨u, hu, hsend⟩ : ∃ u, announce s b = modBar u b (announcedBar (releaseTime s s.bars[b].arrivals))
      ∧ Touches [.out, .span, .colo] s u := by
    refine ⟨_, if_pos h, ?_⟩
    exact foldl_send_touches (fun t (a : Arrival) => keystonePacket t b 1 a.die (releaseTime s s.bars[b].arrivals) s.bars[b]) _ _
  have hbars : u.bars = s.bars := hsend .bars (by decide)
  have his := modBar_is u b (announcedBar (releaseTime s s.bars[b].arrivals))
  rw [hu]
  refine ⟨?_, (hsend.mono (by decide)).trans ((modBar_touches u b _).mono (by decide))⟩
  rw [bar_congr hbars] at his
  exact his.from (fun c _ => bar_congr hbars c)

theorem announce_waits {b : Fin 4} (h : ¬ (s.bars[b].armed = true ∧ s.bars[b].root = s.span.dieId
      ∧ s.bars[b].arrivals.length = s.bars[b].pm1.toNat + 1)) : announce s b = s := if_neg h

/-- A barrier with one more arrival. -/
def withArrival (a : Arrival) (x : Bar) : Bar := { x with arrivals := x.arrivals ++ [a] }

/-- R527: an arrival that the root takes. -/
theorem receiveArrival_new {b : Fin 4} {a : Arrival} (hfit : s.bars[b].armed = false ∨ arrivalFits s.bars[b] a = true)
    (hnew : ∀ y ∈ s.bars[b].arrivals, y.die ≠ a.die) : receiveArrival s b a = announce (modBar s b (withArrival a)) b := by
  have hany : s.bars[b].arrivals.any (fun y => decide (y.die = a.die)) = false := by
    simpa using hnew
  have hbad : (s.bars[b].armed && !arrivalFits s.bars[b] a) = false := by
    obtain h | h := hfit <;> rw [h]
    · rfl
    · rw [Bool.not_true, Bool.and_false]
  rw [receiveArrival]
  simp only [hbad, hany, Bool.false_eq_true, if_false]
  rfl

/-- R527: a barrier that is not armed keeps the arrival. -/
theorem receiveArrival_unarmed {b : Fin 4} {a : Arrival} (h : s.bars[b].armed = false)
    (hnew : ∀ y ∈ s.bars[b].arrivals, y.die ≠ a.die) : receiveArrival s b a = modBar s b (withArrival a) := by
  rw [receiveArrival_new (.inl h) hnew]
  refine announce_waits (fun hfull => ?_)
  rw [modBar_same] at hfull
  exact Bool.false_ne_true (h.symm.trans hfull.1)

/-! ### A write of KEYSTONE.BAR (R525, R526, R531) -/

/-- The sticky bits after a write. -/
def clearedBar (v : Word) (x : Bar) : Bar :=
  { x with released := w1c x.released v 42, late := w1c x.late v 43, error := w1c x.error v 44, aborted := w1c x.aborted v 45 }

/-- A barrier that is not armed after a write. -/
def writtenBar (v : Word) (x : Bar) : Bar :=
  { clearedBar v x with
    root := BitVec.ofNat 12 (field v 0 12), pm1 := BitVec.ofNat 12 (field v 12 12)
    token := BitVec.ofNat 4 (field v 24 4), formes := BitVec.ofNat 12 (field v 28 12) }

/-- A barrier on which this die has arrived. -/
def armedBar (now : Word) (x : Bar) : Bar := { x with armed := true, armedAt := now, relTime := none }

theorem writeBar_arrive {b : Fin 4} {v : Word} (ha : s.bars[b].armed = false) (h40 : bit v 40 = true) (h46 : bit v 46 = false) :
    writeBar s b v = arriveBar (modBar s b (writtenBar v)) b := by
  simp only [writeBar, ha, h40, h46, Bool.false_eq_true, if_false, Bool.not_false, Bool.and_true, if_true]
  rfl

theorem writeBar_cancel {b : Fin 4} {v : Word} (h40 : bit v 40 = false) (h46 : bit v 46 = true) :
    writeBar s b v = abortBar (modBar s b (if s.bars[b].armed then clearedBar v else writtenBar v)) b := by
  cases ha : s.bars[b].armed <;>
    simp only [writeBar, ha, h40, h46, Bool.false_and, Bool.false_eq_true, if_false, if_true] <;> rfl

theorem vmod_vmod {α : Type} {n : Nat} (v : Vector α n) (i : Fin n) (f g : α → α) :
    vmod (vmod v i f) i g = vmod v i (fun x => g (f x)) := by
  simp [vmod, vset]

theorem modBar_modBar (s : State) (b : Fin 4) (f g : Bar → Bar) :
    modBar (modBar s b f) b g = modBar s b (fun x => g (f x)) :=
  congrArg (fun v => { s with bars := v }) (vmod_vmod _ _ _ _)

/-- R526: the arrival is sent to the root. -/
theorem arriveBar_remote {b : Fin 4} {v : Word} {p : Fin 11} :
    let y := writtenBar v s.bars[b]
    let u : State := modBar s b (fun x => armedBar s.tb.ns (writtenBar v x))
    let pk := keystonePacket u b 0 y.root s.tb.ns y
    y.root ≠ s.span.dieId → routePacket u pk none = .inr p →
    arriveBar (modBar s b (writtenBar v)) b = enqueuePort u p (sealPacket pk) := by
  intro y u pk hroot hroute
  have hu : modBar (modBar s b (writtenBar v)) b (armedBar s.tb.ns) = u := modBar_modBar s b _ _
  have hsend : spanSend u pk = (enqueuePort u p (sealPacket pk), none) := by rw [spanSend, hroute]
  have hy : (modBar s b (writtenBar v)).bars[b] = y := modBar_same _ _ _
  have harm : (modBar (modBar s b (writtenBar v)) b fun x => { x with
      armed := true, armedAt := (modBar s b (writtenBar v)).tb.ns, relTime := none }) = u := hu
  simp only [arriveBar, hy]
  rw [if_neg (by exact hroot), harm]
  exact (by rw [hsend] : (match (spanSend u pk).2 with | none => (spanSend u pk).1 | some _ => abortBar (spanSend u pk).1 b)
    = enqueuePort u p (sealPacket pk))

/-- The arrivals that fit the root's own ROOT and PM1, kept from what a barrier held. -/
def keepFits (x y : Bar) : Bar :=
  { y with
    arrivals := x.arrivals.filter (arrivalFits x)
    error := y.error || decide ((x.arrivals.filter (arrivalFits x)).length < x.arrivals.length) }

/-- What the root holds after its own arrival joined the arrivals that fit. -/
def rootBar (own : Arrival) (now : Word) (y : Bar) : Bar := withArrival own (keepFits y (armedBar now y))

/-- R526, R527: the root arrives itself. -/
theorem arriveBar_root {b : Fin 4} (hroot : s.bars[b].root = s.span.dieId)
    (hnew : ∀ a ∈ s.bars[b].arrivals, a.die ≠ s.span.dieId) :
    let y := s.bars[b]
    let held := rootBar ⟨s.span.dieId, s.tb.ns, y.root, y.pm1, s.tb.ns⟩ s.tb.ns y
    BarIs b (if (y.arrivals.filter (arrivalFits y)).length = y.pm1.toNat then announcedBar (releaseTime s held.arrivals) held else held)
        s (arriveBar s b) ∧ Touches [.out, .bars, .span, .colo] s (arriveBar s b) := by
  intro y held
  let own : Arrival := ⟨s.span.dieId, s.tb.ns, y.root, y.pm1, s.tb.ns⟩
  let u : State := modBar s b (rootBar own s.tb.ns)
  have hu : u.bars[b] = held := modBar_same _ _ _
  have hbefore : (modBar s b (fun x => keepFits y (armedBar s.tb.ns x))).bars[b] = keepFits y (armedBar s.tb.ns y) := modBar_same _ _ _
  have hact : arriveBar s b = announce u b := by
    have hroot1 : arriveBar s b = receiveArrival (modBar (modBar s b (armedBar s.tb.ns)) b (keepFits y)) b own := if_pos hroot
    have hu1 : u = modBar (modBar s b (fun x => keepFits y (armedBar s.tb.ns x))) b (withArrival own) := by
      rw [modBar_modBar]
      exact congrArg (fun v => { s with bars := v }) rfl
    rw [hroot1, modBar_modBar, hu1]
    refine receiveArrival_new (.inr ?_) (fun a ha => ?_)
    · rw [hbefore]
      exact (Bool.and_eq_true _ _).mpr ⟨decide_eq_true rfl, decide_eq_true rfl⟩
    · rw [hbefore] at ha
      exact hnew a ((List.mem_filter.mp ha).1)
  have hlen : held.arrivals.length = (y.arrivals.filter (arrivalFits y)).length + 1 := List.length_append
  have his : BarIs b held s u := modBar_is s b (rootBar own s.tb.ns)
  have htu : Touches [.out, .bars, .span, .colo] s u := (modBar_touches s b _).mono (by decide)
  rw [hact]
  by_cases hfull : (y.arrivals.filter (arrivalFits y)).length = y.pm1.toNat
  · obtain ⟨hann, ht⟩ := announce_full (s := u) (b := b) (by rw [hu]; exact ⟨rfl, hroot, by rw [hlen, hfull]; rfl⟩)
    rw [if_pos hfull]
    rw [hu] at hann
    exact ⟨hann.from his.other, htu.trans ht⟩
  · rw [if_neg hfull, announce_waits]
    · exact ⟨his, htu⟩
    · rw [hu]
      rintro ⟨-, -, hn⟩
      rw [hlen] at hn
      exact hfull (Nat.succ.inj hn)

/-! ### KEYSTONE packets (R530, R531, R565) -/

/-- The barrier that a packet names. -/
theorem packet_barrier {k : SpanPacket} {b : Fin 4} (h : k.aux.toNat % 4 = b.1) : (BitVec.ofNat 2 k.aux.toNat).toFin = b :=
  Fin.ext h

/-- The arrival that a packet carries. -/
def arrivalOf (now : Word) (k : SpanPacket) : Arrival :=
  ⟨k.src, BitVec.ofNat 64 (leNat (k.payload.take 8)), BitVec.ofNat 12 (leNat ((k.payload.drop 8).take 2)),
    BitVec.ofNat 12 (leNat ((k.payload.drop 10).take 2)), now⟩

theorem keystoneEffect_abort {k : SpanPacket} {b : Fin 4} (hk : k.aux.toNat % 4 = b.1) (h3 : k.aux.getLsbD 3 = true) :
    keystoneEffect s k = if s.bars[b].armed then abortBar s b else s := by
  simp only [keystoneEffect, packet_barrier hk, h3, if_true]

theorem keystoneEffect_release {k : SpanPacket} {b : Fin 4} (hk : k.aux.toNat % 4 = b.1) (h3 : k.aux.getLsbD 3 = false)
    (h2 : k.aux.getLsbD 2 = true) : keystoneEffect s k = if !s.bars[b].armed then s
      else if BitVec.ofNat 64 (leNat (k.payload.take 8)) < s.tb.ns then releaseBar s b (BitVec.ofNat 64 (leNat (k.payload.take 8))) true
      else modBar s b (fun x => { x with relTime := some (BitVec.ofNat 64 (leNat (k.payload.take 8))) }) := by
  simp only [keystoneEffect, packet_barrier hk, h3, h2, Bool.false_eq_true, if_false, if_true]

theorem keystoneEffect_arrival {k : SpanPacket} {b : Fin 4} (hk : k.aux.toNat % 4 = b.1) (h3 : k.aux.getLsbD 3 = false)
    (h2 : k.aux.getLsbD 2 = false) : keystoneEffect s k = receiveArrival s b (arrivalOf s.tb.ns k) := by
  simp only [keystoneEffect, packet_barrier hk, h3, h2, Bool.false_eq_true, if_false]
  rfl

theorem exec_keystone {p : Fin 11} {k : SpanPacket} (hu : unitsOn s = true) (hw : waitingPacket s p 7 = some k)
    (hd : k.dst = s.span.dieId) (hh : hcrcOk k = true) (hp : pcrcOk k = true) :
    exec (.keystone p) s = .next (keystoneEffect (takePacket s p 7) k) := by
  rw [show exec (.keystone p) s = execKeystone p s from rfl, execKeystone, packetReady_of hu hw, onlyIf_true,
    onPacket_good hw hd hh hp]

/-! ### A measurement, and the timers (R521, R522, R531, R532) -/

theorem exec_timebaseMeasure {p : Fin 11} (delay : BitVec 16) (offset : BitVec 32) (hu : unitsOn s = true)
    (hp : portUp s.span.ports[p] = true) :
    exec (.timebaseMeasure p delay offset) s = .next (measureEffect s p delay offset) := by
  rw [show exec (.timebaseMeasure p delay offset) s = execTimebaseMeasure p delay offset s from rfl, execTimebaseMeasure, hu, hp,
    Bool.and_true, onlyIf_true]

theorem measureEffect_touches (s : State) (p : Fin 11) (delay : BitVec 16) (offset : BitVec 32) :
    Touches [.tb, .span] s (measureEffect s p delay offset) :=
  measureEffect_touch s p delay offset (by decide) (by decide) (Touches.refl _ s)

theorem exec_keystoneRelease {b : Fin 4} {time : Word} (hr : releaseReady s b = true) (ht : s.bars[b].relTime = some time) :
    exec (.keystoneRelease b) s = .next (releaseBar s b time false) := by
  rw [show exec (.keystoneRelease b) s = execKeystoneRelease b s from rfl, execKeystoneRelease, hr, onlyIf_true, releaseEffect, ht]

theorem releaseReady_unitsOn {b : Fin 4} (h : releaseReady s b = true) : unitsOn s = true := by
  rw [releaseReady, Bool.and_eq_true, Bool.and_eq_true] at h
  exact h.1.1

theorem exec_keystoneTimeout {b : Fin 4} (hu : unitsOn s = true) (ha : s.bars[b].armed = true) (hn : entN s 0x5010 6 ≠ 0)
    (he : elapsed s s.bars[b].armedAt (1000 * entN s 0x5010 6) = true) :
    exec (.keystoneTimeout b) s = .next (abortBar s b) := by
  have hexp : keystoneExpired s s.bars[b].armedAt = true := (Bool.and_eq_true _ _).mpr ⟨decide_eq_true hn, he⟩
  rw [show exec (.keystoneTimeout b) s = execKeystoneTimeout b s from rfl, execKeystoneTimeout, hu, ha, hexp, Bool.and_true,
    Bool.and_true, onlyIf_true]

/-- A barrier without the arrivals of a die. -/
def withoutDie (die : BitVec 12) (x : Bar) : Bar := { x with arrivals := x.arrivals.filter (fun a => decide (a.die ≠ die)) }

theorem exec_arrivalExpiry {b : Fin 4} {die : BitVec 12} (h : expiryReady s b die = true) :
    exec (.arrivalExpiry b die) s = .next (modBar s b (withoutDie die)) := by
  rw [show exec (.arrivalExpiry b die) s = execArrivalExpiry b die s from rfl, execArrivalExpiry, h, onlyIf_true]
  rfl

theorem exec_keystoneArrive {b : Fin 4} {v : Word} (h : arriveReady s b v = true) (h46 : bit v 46 = false) :
    exec (.keystoneArrive b v) s = .next (arriveBar (modBar s b (writtenBar v)) b) ∧ s.bars[b].armed = false := by
  have hexec : exec (.keystoneArrive b v) s = .next (writeBar s b v) := by
    rw [show exec (.keystoneArrive b v) s = execKeystoneArrive b v s from rfl, execKeystoneArrive, h, onlyIf_true]
  rw [arriveReady, Bool.and_eq_true, Bool.and_eq_true, Bool.not_eq_true'] at h
  obtain ⟨⟨-, h40⟩, ha⟩ := h
  exact ⟨by rw [hexec, writeBar_arrive ha h40 h46], ha⟩

/-- R531: CANCEL aborts the barrier as the write left it. -/
theorem exec_cancel {b : Fin 4} {v : Word} (hu : unitsOn s = true) (h46 : bit v 46 = true) (h40 : bit v 40 = false) {g : Bar → Bar}
    (hg : g = if s.bars[b].armed then clearedBar v else writtenBar v) : ∃ t, exec (.cancel b v) s = .next t
      ∧ BarIs b (abortedBar (g s.bars[b])) s t ∧ (t.cores.pending ||| t.cores.claimed).getLsbD 11 = true
      ∧ Touches [.out, .bars, .span, .cores, .colo] s t := by
  have hexec : exec (.cancel b v) s = .next (abortBar (modBar s b g) b) := by
    rw [show exec (.cancel b v) s = execCancel b v s from rfl, execCancel, hu, h46, Bool.and_true, onlyIf_true,
      writeBar_cancel h40 h46, ← hg]
  obtain ⟨his, hirq, ht⟩ := abortBar_facts (s := modBar s b g) b (unitsOn_not_fenced hu)
  rw [modBar_same] at his
  exact ⟨_, hexec, his.from (fun _ hc => modBar_other s g hc), hirq, ((modBar_touches s b g).mono (by decide)).trans ht⟩

end

/-- Settles O44: each command and packet by its cases, with what an abort (`abortBar_facts`), a release (`releaseBar_facts`) and
an arrival at the root (`arriveBar_root`) leave. -/
theorem keystoneArrivesReleasesAndAborts : Obligations.KeystoneArrivesReleasesAndAborts := by
  unfold Obligations.KeystoneArrivesReleasesAndAborts
  intro b s x others aborts released
  refine ⟨fun p delay offset hu hp => ?measure, fun v => ?write, fun time hr ht => ?release, fun hu ha hn he => ?timeout,
    fun die h => ?expiry, fun p k hu hw hd hh hp hk => ?packet⟩
  case measure =>
    exact ⟨_, exec_timebaseMeasure delay offset hu hp, rfl, modPort_same _ _ _, fun q hq => modPort_other _ _ _ _ hq, rfl,
      measureEffect_touches s p delay offset⟩
  case write =>
    intro y own keep z
    refine ⟨fun p hr h46 hroot => ?_, fun hr h46 hroot hnew => ?_, fun hu h46 h40 ha => ?_, fun hu h46 h40 ha => ?_⟩
    case _ =>
      intro u pk hroute
      exact (exec_keystoneArrive hr h46).1.trans (congrArg Host.Outcome.next (arriveBar_remote hroot hroute))
    case _ =>
      have hy : (modBar s b (writtenBar v)).bars[b] = y := modBar_same _ _ _
      obtain ⟨his, ht⟩ := arriveBar_root (s := modBar s b (writtenBar v)) (b := b) (by rw [hy]; exact hroot)
        (by rw [hy]; exact hnew)
      refine ⟨_, (exec_keystoneArrive hr h46).1, ?_, fun c hc => (his.other c hc).trans (modBar_other s _ hc),
        ((modBar_touches s b _).mono (by decide)).trans (ht.mono (by decide))⟩
      rw [hy] at his
      exact his.same
    case _ =>
      obtain ⟨t, hexec, his, hirq, ht⟩ := exec_cancel hu h46 h40 (g := clearedBar v) (if_pos ha).symm
      exact ⟨t, hexec, his.same, his.other, hirq, ht⟩
    case _ =>
      obtain ⟨t, hexec, his, hirq, ht⟩ := exec_cancel hu h46 h40 (g := writtenBar v) (if_neg (ne_true_of_eq_false ha)).symm
      exact ⟨t, hexec, his.same, his.other, hirq, ht⟩
  case release =>
    obtain ⟨his, hirq, hformes, htouch⟩ := releaseBar_facts b time false (unitsOn_not_fenced (releaseReady_unitsOn hr))
    exact ⟨_, exec_keystoneRelease hr ht, ⟨his.same, his.other, hirq, hformes⟩, htouch⟩
  case timeout =>
    obtain ⟨his, hirq, htouch⟩ := abortBar_facts b (unitsOn_not_fenced hu)
    exact ⟨_, exec_keystoneTimeout hu ha hn he, his.same, his.other, hirq, htouch⟩
  case expiry =>
    have his := modBar_is s b (withoutDie die)
    exact ⟨_, exec_arrivalExpiry h, his.same, his.other, modBar_touches s b _⟩
  case packet =>
    intro time arrival gives
    have hexec := exec_keystone hu hw hd hh hp
    have hfenced : (takePacket s p 7).fault.fenced = false := unitsOn_not_fenced hu
    have htakeSpan : Touches [.out, .bars, .span, .cores, .colo] s (takePacket s p 7) :=
      (modPort_touches s p _).mono (by decide)
    have htake : Touches [.out, .formes, .bars, .span, .cores, .colo] s (takePacket s p 7) := htakeSpan.mono (by decide)
    have harmed (ha : x.armed = true) : ¬ (!(takePacket s p 7).bars[b].armed) = true := by
      rw [show (takePacket s p 7).bars[b].armed = true from ha]
      decide
    refine ⟨fun h3 ha => ?_, fun h3 h2 ha hlt => ?_, fun h3 h2 ha hlt => ?_, fun h3 h2 ha hnew => ?_, fun ha h => ?_⟩
    case _ =>
      obtain ⟨his, hirq, htouch⟩ := abortBar_facts (s := takePacket s p 7) b hfenced
      have hact := (keystoneEffect_abort (s := takePacket s p 7) hk h3).trans (if_pos ha)
      exact ⟨_, hexec.trans (congrArg Host.Outcome.next hact), ⟨his.same, his.other, hirq, htakeSpan.trans htouch⟩,
        htake.trans (htouch.mono (by decide))⟩
    case _ =>
      obtain ⟨his, hirq, hformes, htouch⟩ := releaseBar_facts (s := takePacket s p 7) b time true hfenced
      have hact := (keystoneEffect_release (s := takePacket s p 7) hk h3 h2).trans ((if_neg (harmed ha)).trans (if_pos hlt))
      exact ⟨_, hexec.trans (congrArg Host.Outcome.next hact), ⟨his.same, his.other, hirq, hformes⟩, htake.trans (htouch.mono (by decide))⟩
    case _ =>
      have hact := (keystoneEffect_release (s := takePacket s p 7) hk h3 h2).trans ((if_neg (harmed ha)).trans (if_neg hlt))
      have his := modBar_is (takePacket s p 7) b (fun x => { x with relTime := some time })
      exact ⟨_, hexec.trans (congrArg Host.Outcome.next hact), ⟨his.same, his.other⟩, htake.trans ((modBar_touches _ b _).mono (by decide))⟩
    case _ =>
      have hact := (keystoneEffect_arrival (s := takePacket s p 7) hk h3 h2).trans
        (receiveArrival_unarmed (a := arrival) ha hnew)
      have his := modBar_is (takePacket s p 7) b (withArrival arrival)
      exact ⟨_, hexec.trans (congrArg Host.Outcome.next hact), ⟨his.same, his.other⟩, htake.trans ((modBar_touches _ b _).mono (by decide))⟩
    case _ =>
      have hsame : keystoneEffect (takePacket s p 7) k = takePacket s p 7 := by
        cases h3 : k.aux.getLsbD 3
        · have h2 : k.aux.getLsbD 2 = true := h.resolve_left (ne_true_of_eq_false h3)
          exact (keystoneEffect_release hk h3 h2).trans (if_pos (by rw [show (takePacket s p 7).bars[b].armed = false from ha]; decide))
        · exact (keystoneEffect_abort hk h3).trans (if_neg (ne_true_of_eq_false ha))
      rw [hsame] at hexec
      exact ⟨_, hexec, rfl, htake⟩

end Sys2Proof
end

section
/-! PROOFS. Chapters 13 and 14, Span links (R547 to R558) and the Impression log (R539, R540, R542, R543). -/

namespace Sys2Proof

open Machine Laws

section
variable {s : State} {p : Fin 11}

/-! ### One port of the Span -/

/-- Port p is set to a value, and nothing else of the Span changes. -/
structure PortIs (p : Fin 11) (x : Port) (s t : State) : Prop where
  same : t.span.ports[p] = x
  only : OnlyPort p s t

theorem modPort_is (s : State) (p : Fin 11) (g : Port → Port) : PortIs p (g s.span.ports[p]) s (modPort s p g) :=
  ⟨modPort_same s p g, OnlyPort.mod s p g⟩

theorem PortIs.of_span {x : Port} {s t u : State} (h : PortIs p x s t) (hu : u.span = t.span) : PortIs p x s u :=
  ⟨(port_congr hu p).trans h.same, h.only.trans (OnlyPort.of_span hu)⟩

theorem modPort_modPort (s : State) (p : Fin 11) (f g : Port → Port) :
    modPort (modPort s p f) p g = modPort s p (fun x => g (f x)) :=
  congrArg (fun v => { s with span := { s.span with ports := v } }) (vmod_vmod _ _ _ _)

/-- A change of port p with the routes of the die written again (R559). -/
theorem updateRoutes_modPort_is (s : State) (p : Fin 11) (g : Port → Port) :
    PortIs p (g s.span.ports[p]) s (updateRoutes (modPort s p g)) ∧ Touches [.tbl, .span] s (updateRoutes (modPort s p g)) :=
  ⟨(modPort_is s p g).of_span (updateRoutes_span _),
    ((modPort_touches s p g).mono (by decide)).trans ((updateRoutes_tt _).mono (by decide))⟩

/-! ### Frames (R549, R550) -/

/-- R549: a port whose next frame has arrived. -/
def receivedPort (fr : SpanFrame) (x : Port) : Port := { x with rxSeq := x.rxSeq + 1, rx := x.rx ++ fr.packets }

/-- The counts of corrected and uncorrected symbols (R550). -/
def countFec (s : State) (fr : SpanFrame) : State := bumpEnt (bumpEnt s 0x5020 3 fr.fecCorrected 64) 0x5020 4 fr.fecUncorrected 32

theorem countFec_touches (s : State) (fr : SpanFrame) : Touches [.colo] s (countFec s fr) :=
  (bumpEnt_touches _ _ _ _ _).trans (bumpEnt_touches _ _ _ _ _)

theorem exec_spanFrameReceive (fr : SpanFrame) (hu : unitsOn s = true) (hp : portUp s.span.ports[p] = true) :
    exec (.spanFrameReceive p fr) s = .next (frameEffect s p fr) := by
  rw [show exec (.spanFrameReceive p fr) s = execSpanFrameReceive p fr s from rfl, execSpanFrameReceive, hu, hp, Bool.and_true,
    onlyIf_true]

/-- R549: the data of a frame in sequence is delivered and acknowledged. -/
theorem takeData_inSequence {fr : SpanFrame} (hne : fr.packets ≠ []) (hseq : fr.seq = s.span.ports[p].rxSeq) :
    takeData s p fr true = emit (modPort s p (receivedPort fr)) (.spanAck p fr.seq false) := by
  simp only [takeData, hne, if_false, Bool.not_true, Bool.false_eq_true]
  exact if_pos hseq

/-- R549: a frame in sequence is delivered once. -/
theorem frameEffect_inSequence {fr : SpanFrame} (hc : fr.crcOk = true) (hf : fr.fecUncorrected = 0) (hne : fr.packets ≠ [])
    (hseq : fr.seq = s.span.ports[p].rxSeq) :
    let t := frameEffect s p fr
    (t.span.ports[p]).rx = (s.span.ports[p]).rx ++ fr.packets ∧ (t.span.ports[p]).rxSeq = (s.span.ports[p]).rxSeq + 1
      ∧ Out.spanAck p fr.seq false ∈ t.out ∧ OnlyPort p s t ∧ Touches [.out, .tbl, .span, .colo] s t := by
  intro t
  have hcount : (countFec s fr).span = s.span := countFec_touches s fr .span (by decide)
  let u : State := emit (modPort (countFec s fr) p (receivedPort fr)) (.spanAck p fr.seq false)
  have ht : t = takeAck u p fr := by
    have hok : (fr.crcOk && decide (fr.fecUncorrected = 0)) = true := by rw [hc, hf]; rfl
    have hdata : takeData (countFec s fr) p fr true = u := takeData_inSequence hne (hseq.trans (by rw [hcount]))
    have heq : t = if (fr.crcOk && decide (fr.fecUncorrected = 0)) = true
        then takeAck (takeData (countFec s fr) p fr (fr.crcOk && decide (fr.fecUncorrected = 0))) p fr
        else takeData (countFec s fr) p fr (fr.crcOk && decide (fr.fecUncorrected = 0)) := rfl
    rw [heq, if_pos hok, hok, hdata]
  have hu : u.span.ports[p] = receivedPort fr s.span.ports[p] := by
    have h := modPort_same (countFec s fr) p (receivedPort fr)
    rw [port_congr hcount] at h
    exact h
  obtain ⟨hrx, hseqEnd, honly, hout⟩ := takeAck_keeps u p fr
  rw [hu] at hrx hseqEnd
  rw [ht]
  refine ⟨hrx, hseqEnd, hout _ (List.mem_append_right _ List.mem_cons_self), ?_, ?_⟩
  · exact (OnlyPort.of_span hcount).trans ((OnlyPort.mod (countFec s fr) p (receivedPort fr)).trans honly)
  · rw [← ht]
    exact frameEffect_touch s p fr (by decide) (by decide) (by decide) (by decide) (Touches.refl _ s)

/-- R549: a bad frame is answered with NAK. -/
theorem frameEffect_bad {fr : SpanFrame} (h : fr.crcOk = false ∨ fr.fecUncorrected ≠ 0) :
    let t := frameEffect s p fr
    t.span = s.span ∧ t.out = s.out ++ [.spanAck p ((s.span.ports[p]).rxSeq - 1) true] ∧ Touches [.out, .colo] s t := by
  have hok : (fr.crcOk && decide (fr.fecUncorrected = 0)) = false := by
    obtain h | h := h
    · rw [h]; rfl
    · rw [decide_eq_false h, Bool.and_false]
  have hcount := countFec_touches s fr
  have hspan : (countFec s fr).span = s.span := hcount .span (by decide)
  have heq : frameEffect s p fr = if (fr.crcOk && decide (fr.fecUncorrected = 0)) = true
      then takeAck (takeData (countFec s fr) p fr (fr.crcOk && decide (fr.fecUncorrected = 0))) p fr
      else takeData (countFec s fr) p fr (fr.crcOk && decide (fr.fecUncorrected = 0)) := rfl
  have hact : frameEffect s p fr = emit (countFec s fr) (.spanAck p ((s.span.ports[p]).rxSeq - 1) true) := by
    rw [heq, hok, if_neg (by decide), ← hspan]
    rfl
  rw [hact]
  exact ⟨hspan, congrArg (· ++ _) (hcount .out (by decide)), (hcount.mono (by decide)).trans ((emit_touches _ _).mono (by decide))⟩

/-! ### Training (R550, R551, R556) -/

theorem exec_linkRetrain (hu : unitsOn s = true) (hp : portUp s.span.ports[p] = true) (h8 : 8 ≤ (s.span.ports[p]).tries) :
    exec (.linkRetrain p) s = .next (retrainEffect s p) := by
  rw [show exec (.linkRetrain p) s = execLinkRetrain p s from rfl, execLinkRetrain, retrainReady, hu, hp, decide_eq_true h8,
    Bool.and_true, Bool.and_true, onlyIf_true]

theorem exec_linkTrainingComplete (r : TrainReport) (hu : unitsOn s = true) (hst : (s.span.ports[p]).st = 1) :
    exec (.linkTrainingComplete p r) s = .next (trainingEffect s p r) := by
  rw [show exec (.linkTrainingComplete p r) s = execLinkTrainingComplete p r s from rfl, execLinkTrainingComplete, hu,
    decide_eq_true hst, Bool.and_true, onlyIf_true]

theorem trainingEffect_failed {r : TrainReport} (h : r.ok = false) : trainingEffect s p r = trainFailed s p := by
  rw [trainingEffect, h]
  rfl

theorem trainingEffect_plain {r : TrainReport} (h : r.ok = true) (he : encPeer s p = none) :
    trainingEffect s p r = trainedEffect s p r := by
  rw [trainingEffect, h, he]
  rfl

/-- R551: a port that is held after its third failure. -/
def failedPort (x : Port) : Port := heldPort 3 { x with fails := 0 }

/-- R551: the third failure in succession holds the link and is logged. -/
theorem trainFailed_held (h : 2 ≤ (s.span.ports[p]).fails) :
    PortIs p (failedPort s.span.ports[p]) s (trainFailed s p) ∧ (trainFailed s p).fault.nextSeq = s.fault.nextSeq + 1 := by
  obtain ⟨his, htouch⟩ := updateRoutes_modPort_is s p failedPort
  have hact : trainFailed s p = logFault (updateRoutes (modPort s p failedPort)) .span .hard none .none p.1 0 0 :=
    if_pos (Nat.succ_le_succ h)
  have hlog : Touches [.out, .formes, .fault, .colo, .flash] (updateRoutes (modPort s p failedPort)) (trainFailed s p) := by
    rw [hact]
    exact logFault_touch _ _ _ _ _ _ _ _ (by decide) (by decide) (by decide) (by decide) (by decide) (Touches.refl _ _)
  refine ⟨his.of_span (hlog .span (by decide)), ?_⟩
  rw [hact, (logFault_recs _ _ _ _ _ _ _ _).2.1, htouch .fault (by decide)]

/-- A port that trained. -/
def trainedPort (r : TrainReport) (full : BitVec 3) (enc : Bool) (x : Port) : Port :=
  { x with
    st := if r.lanes = full then 2 else 3, lanes := r.lanes, farId := r.farId, farPort := r.farPort, delay := r.delay
    enc := enc, hreason := 0, fails := 0, tries := 0 }

/-- R551, R556: the far end is not the die that may be there. -/
theorem trainedEffect_collides {r : TrainReport} (h : farCollides s p r.farId = true) :
    trainedEffect s p r = updateRoutes (modPort s p (heldPort 2)) := if_pos h

theorem settleHold_released (h : (s.span.ports[p]).hold = false) : settleHold s p = s :=
  if_neg (fun hc => Bool.false_ne_true (h.symm.trans hc.1))

theorem joinTimebase_lower {far : BitVec 12} (ns : Nat) (h : far < s.tb.master) :
    (joinTimebase s far ns).tb.master = far ∧ (joinTimebase s far ns).tb.ns = BitVec.ofNat 64 ns := by
  rw [joinTimebase, if_pos h]
  exact ⟨rfl, rfl⟩

/-- R521, R522, R550: a link that trained comes up, or narrow; it sends again what was not acknowledged, and the die joins the
timebase of a lower master. -/
theorem trainedEffect_up {r : TrainReport} (hc : farCollides s p r.farId = false) (hh : (s.span.ports[p]).hold = false) :
    let t := trainedEffect s p r
    let y := trainedPort r (if externalPort p then 2 else 4) (encPeer s p).isSome s.span.ports[p]
    (∃ q w n, PortIs p { y with txq := q, replay := w, txSeq := n } s t)
      ∧ (r.farId < s.tb.master → t.tb.master = r.farId ∧ t.tb.ns = BitVec.ofNat 64 r.masterNs) := by
  intro t y
  let u := modPort s p (trainedPort r (if externalPort p then 2 else 4) (encPeer s p).isSome)
  have hroutes : Touches [.tbl] u (writeOwnRoutes u) := writeOwnRoutes_touch u (by decide) (Touches.refl _ u)
  obtain ⟨s2, hs2⟩ : ∃ s2, s2 = joinTimebase (writeOwnRoutes u) r.farId r.masterNs := ⟨_, rfl⟩
  have hjoin : Touches [.tb] (writeOwnRoutes u) s2 := by
    rw [hs2]; exact joinTimebase_touch _ _ _ (by decide) (Touches.refl _ _)
  obtain ⟨hspan3, htouch3, -⟩ := emits_keep (fun f : BitVec 16 × SpanPacket => Out.span p f.2) (s2.span.ports[p]).replay s2
  obtain ⟨s3, hs3⟩ : ∃ s3, s3 = (s2.span.ports[p]).replay.foldl (fun t f => emit t (.span p f.2)) s2 := ⟨_, rfl⟩
  rw [← hs3] at hspan3 htouch3
  have hspan : s3.span = u.span := hspan3.trans ((hjoin .span (by decide)).trans (hroutes .span (by decide)))
  obtain ⟨⟨q, w, n, hport⟩, honly, hpump, -⟩ := pumpPort_keeps (s3.span.ports[p]).txq.length s3 p
  obtain ⟨s4, hs4⟩ : ∃ s4, s4 = pumpPort (s3.span.ports[p]).txq.length s3 p := ⟨_, rfl⟩
  have h3 : s3.span.ports[p] = y := (port_congr hspan p).trans (modPort_same _ _ _)
  rw [← hs4] at hport honly hpump
  rw [h3] at hport
  have hsettle : settleHold s4 p = s4 := settleHold_released (by rw [hport]; exact hh)
  have ht : t = if externalPort p then s4 else dieRejoins s4 (portPeer s p) := by
    rw [← hsettle, hs4, hs3, hs2]
    exact if_neg (ne_true_of_eq_false hc)
  have hend : Touches [.out, .abut, .cores, .fault, .colo] s4 t := by
    rw [ht]
    split
    · exact Touches.refl _ _
    · exact dieRejoins_touch _ _ (by decide) (by decide) (by decide) (by decide) (by decide) (Touches.refl _ _)
  refine ⟨⟨q, w, n, ?_⟩, fun hlt => ?_⟩
  · have his : PortIs p { y with txq := q, replay := w, txSeq := n } s s4 :=
      ⟨hport, (OnlyPort.mod s p _).trans ((OnlyPort.of_span hspan).trans honly)⟩
    exact his.of_span (hend .span (by decide))
  · have htb : t.tb = s2.tb :=
      (hend .tb (by decide)).trans ((hpump .tb (by decide)).trans (htouch3 .tb (by decide)))
    rw [htb, hs2]
    exact joinTimebase_lower _ (by rw [hroutes .tb (by decide)]; exact hlt)

/-! ### Holding a link (R553, R555) -/

theorem exec_linkHold (v : Word) (hu : unitsOn s = true) : exec (.linkHold p v) s = .next (writeLink s p v) := by
  rw [show exec (.linkHold p v) s = execLinkHold p v s from rfl, execLinkHold, hu, onlyIf_true]

/-- A port with HOLD. -/
def holdPort (h : Bool) (x : Port) : Port := { x with hold := h }

/-- R553, R555: HOLD takes an idle link down at once. -/
theorem writeLink_hold {v : Word} (h : bit v 7 = true) :
    PortIs p (if (s.span.ports[p]).replay = [] ∧ (s.span.ports[p]).st ≠ 4 then heldPort 1 (holdPort true s.span.ports[p])
        else holdPort true s.span.ports[p]) s (writeLink s p v)
      ∧ Touches [.tbl, .span] s (writeLink s p v) := by
  let u := modPort s p (holdPort true)
  have hact : writeLink s p v = settleHold u p := if_pos h
  have hup : u.span.ports[p] = holdPort true s.span.ports[p] := modPort_same _ _ _
  rw [hact]
  by_cases hidle : (s.span.ports[p]).replay = [] ∧ (s.span.ports[p]).st ≠ 4
  · have hsettle : settleHold u p = updateRoutes (modPort s p (fun x => heldPort 1 (holdPort true x))) := by
      rw [← modPort_modPort]
      exact if_pos (by rw [hup]; exact ⟨rfl, hidle⟩)
    rw [if_pos hidle, hsettle]
    exact updateRoutes_modPort_is s p (fun x => heldPort 1 (holdPort true x))
  · have hsettle : settleHold u p = u := if_neg (by rw [hup]; exact fun hc => hidle hc.2)
    rw [if_neg hidle, hsettle]
    exact ⟨modPort_is s p _, (modPort_touches s p _).mono (by decide)⟩

/-- A port whose HOLD ends. -/
def freedPort (x : Port) : Port := { x with hold := false, st := 0, hreason := 0 }

/-- R551, R553: the end of HOLD lets a held link train again. -/
theorem writeLink_free {v : Word} (h : bit v 7 = false) (hst : (s.span.ports[p]).st = 4) (hr : (s.span.ports[p]).hreason = 1) :
    writeLink s p v = modPort s p freedPort := by
  rw [writeLink, if_neg (ne_true_of_eq_false h), if_pos ⟨hst, hr⟩]
  rfl

/-- R553: the end of HOLD lets packets leave again. -/
theorem writeLink_resume {v : Word} (h : bit v 7 = false) (hst : ¬ ((s.span.ports[p]).st = 4 ∧ (s.span.ports[p]).hreason = 1)) :
    ∃ q w n, PortIs p { s.span.ports[p] with hold := false, txq := q, replay := w, txSeq := n } s (writeLink s p v)
      ∧ Touches [.out, .span] s (writeLink s p v) := by
  let u := modPort s p (holdPort false)
  have hact : writeLink s p v = pumpPort (s.span.ports[p]).txq.length u p := by
    rw [writeLink, if_neg (ne_true_of_eq_false h), if_neg hst]
    rfl
  obtain ⟨⟨q, w, n, hport⟩, honly, hpump, -⟩ := pumpPort_keeps (s.span.ports[p]).txq.length u p
  rw [show u.span.ports[p] = holdPort false s.span.ports[p] from modPort_same _ _ _] at hport
  rw [hact]
  exact ⟨q, w, n, ⟨hport, (OnlyPort.mod s p _).trans honly⟩, ((modPort_touches s p _).mono (by decide)).trans hpump⟩

theorem exec_trainingSignalDetected (ht : trainAllowed s = true) (hst : (s.span.ports[p]).st = 0)
    (hh : (s.span.ports[p]).hold = false) :
    exec (.trainingSignalDetected p) s = .next (modPort s p (fun x => { x with st := 1 })) := by
  rw [show exec (.trainingSignalDetected p) s = execTrainingSignalDetected p s from rfl, execTrainingSignalDetected, ht,
    decide_eq_true hst, hh, Bool.not_false, Bool.and_true, Bool.and_true, onlyIf_true]

/-- A port whose link is down. -/
def downPort (x : Port) : Port := { x with st := 0, lanes := 0, enc := false }

theorem exec_linkDown (hu : unitsOn s = true) (hp : portUsable s.span.ports[p] = true) :
    exec (.linkDown p) s = .next (updateRoutes (modPort s p downPort)) := by
  rw [show exec (.linkDown p) s = execLinkDown p s from rfl, execLinkDown, hu, hp, Bool.and_true, onlyIf_true]
  rfl

/-! ### Route entries (R557, R558) -/

theorem exec_routeEntryWrite (id : BitVec 12) (v : Word) (hu : unitsOn s = true) :
    exec (.routeEntryWrite id v) s = .next (writeRoute s id v) := by
  rw [show exec (.routeEntryWrite id v) s = execRouteEntryWrite id v s from rfl, execRouteEntryWrite, hu, onlyIf_true]

/-- The entry that a write asks for. -/
def writtenRoute (v : Word) : Route := ⟨BitVec.ofNat 11 (field v 0 11), bit v 16, bit v 17, false⟩

theorem routeWriteOk_iff {id : BitVec 12} {v : Word} :
    routeWriteOk s id v = true ↔ ¬ ((routeOf s id).own = true ∨ bit v 16 = true ∧ field v 0 11 = 0) := by
  cases hv : bit v 16 <;> simp [routeWriteOk, hv]

/-- R558: a legal write sets its entry and no other. -/
theorem writeRoute_legal {id : BitVec 12} {v : Word} (hw : tableWf routeDefault s.tbl.routes = true)
    (hok : routeWriteOk s id v = true) :
    let t := writeRoute s id v
    routeOf t id = writtenRoute v ∧ (∀ i, i ≠ id → routeOf t i = routeOf s i)
      ∧ { t.tbl with routes := s.tbl.routes } = s.tbl ∧ Touches [.tbl] s t := by
  intro t
  have ht : t = { s with tbl := { s.tbl with routes := tset routeDefault s.tbl.routes id.toNat (writtenRoute v) } } := if_pos hok
  rw [ht]
  refine ⟨tget_tset_same _ _ _ _ hw, fun i hi => tget_tset_other _ _ _ _ _ (fun h => hi (BitVec.eq_of_toNat_eq h)), rfl, ?_⟩
  rw [← ht]
  exact writeRoute_touch s id v (by decide) (Touches.refl _ s)

/-! ### The Impression log (R539, R540, R542, R543) -/

theorem exec_impressionAppend (v : Word) (hu : unitsOn s = true) : exec (.impressionAppend v) s = .next (writeAppend s v) := by
  rw [show exec (.impressionAppend v) s = execImpressionAppend v s from rfl, execImpressionAppend, hu, onlyIf_true]

theorem writeAppend_off {v : Word} (h : entN s 0x7010 1 ≠ 1) : writeAppend s v = s := by
  rw [writeAppend, logOn, decide_eq_false h]
  rfl

theorem writeAppend_on {v : Word} {bs : List Byte} (h : entN s 0x7010 1 = 1) (hp : appendPayload s v = some bs) :
    writeAppend s v = appendMark s bs := by
  rw [writeAppend, logOn, decide_eq_true h, hp]
  rfl

/-- R540: a record that fits without a record that must be kept is written. -/
theorem appendMark_fits {bs : List Byte} (hsize : 64 + recordSize bs.length ≤ logSize s)
    (hkept : keptHit s (layRecord (logSize s) (recordSize bs.length) s.log.wpos).1 = 0) :
    appendMark s bs = putRecord s 6 0 0 bs := by
  rw [appendMark, logAppend]
  simp only [hkept, if_true, if_neg (Nat.not_lt.mpr hsize), Option.getD_some]

/-- R543: under HOLD a record that would overwrite one that must be kept is discarded. -/
theorem appendMark_held {bs : List Byte} (hsize : 64 + recordSize bs.length ≤ logSize s)
    (hkept : keptHit s (layRecord (logSize s) (recordSize bs.length) s.log.wpos).1 ≠ 0) (hhold : entN s 0x7010 4 = 0) :
    appendMark s bs = s := by
  rw [appendMark, logAppend]
  simp only [hkept, hhold, if_true, if_false, if_neg (Nat.not_lt.mpr hsize), Option.getD_none]

/-- R539, R540: what a record leaves in the log's registers. -/
theorem putRecord_log (s : State) (typ src arg : Nat) (bs : List Byte) :
    let n := recordSize bs.length
    let lay := layRecord (logSize s) n s.log.wpos
    (putRecord s typ src arg bs).log = { s.log with
      head := s.log.head + 1, wpos := lay.2.2, recs := s.log.recs.filter (fun r => !overwrites lay.1 r) ++ [⟨s.log.head, lay.2.1, n⟩] } := by
  intro n lay
  obtain ⟨u, hu, hlog⟩ : ∃ u : State, putRecord s typ src arg bs = { u with log := { u.log with
      head := s.log.head + 1, wpos := lay.2.2
      recs := s.log.recs.filter (fun r => !overwrites lay.1 r) ++ [⟨s.log.head, lay.2.1, n⟩] } } ∧ u.log = s.log := by
    refine ⟨_, rfl, ?_⟩
    have hpad := writePad_touch s lay.1 (qs := [.out, .gddr]) (by decide) (by decide) (Touches.refl _ s)
    exact (ringWrite_touch (qs := [.out, .gddr]) _ _ _ (by decide) (by decide) (Touches.refl _ _) .log (by decide)).trans
      (hpad .log (by decide))
  rw [hu, ← hlog]

end

/-- Settles O45: frames (`frameEffect_inSequence`, `frameEffect_bad`), training (`trainFailed_held`, `trainedEffect_up`), HOLD,
route entries and the records of the Impression log, case by case. -/
theorem spanLinksDeliverTrainAndHold : Obligations.SpanLinksDeliverTrainAndHold := by
  unfold Obligations.SpanLinksDeliverTrainAndHold
  intro p s hu x only
  refine ⟨fun fr hp hc hf hne hseq => ⟨_, exec_spanFrameReceive fr hu hp, frameEffect_inSequence hc hf hne hseq⟩,
    fun fr hp h => ⟨_, exec_spanFrameReceive fr hu hp, frameEffect_bad h⟩, fun hp h8 => ?retrain, fun ht hst hh => ?signal,
    fun r hst hr => ⟨fun hn => ?failed, fun hn => ?held⟩, fun r hst hr he => ⟨fun hc => ?collides, fun hc hh => ?up⟩, fun hp => ?down,
    fun v => ⟨fun h => ?hold, fun h hst hr => ?free, fun h hst => ?resume⟩, fun id v hw => ?route,
    fun v => ⟨fun h => ?logOff, fun bs h hp => ?append⟩⟩
  case retrain =>
    have his := modPort_is s p (fun x => { x with st := 1, tries := 0 })
    exact ⟨_, exec_linkRetrain hu hp h8, his.same, his.only,
      ((modPort_touches s p _).mono (by decide)).trans ((bumpEnt_touches _ _ _ _ _).mono (by decide))⟩
  case signal =>
    have his := modPort_is s p (fun x => { x with st := 1 })
    exact ⟨_, exec_trainingSignalDetected ht hst hh, his.same, his.only, modPort_touches s p _⟩
  case failed =>
    have hact : trainFailed s p = modPort s p (fun x => { x with fails := (s.span.ports[p]).fails + 1 }) :=
      if_neg (Nat.not_le.mpr (Nat.succ_lt_succ hn))
    have his := modPort_is s p (fun x => { x with fails := (s.span.ports[p]).fails + 1 })
    rw [exec_linkTrainingComplete r hu hst, trainingEffect_failed hr, hact]
    exact ⟨_, rfl, his.same, his.only, modPort_touches s p _⟩
  case held =>
    obtain ⟨his, hseq⟩ := trainFailed_held hn
    exact ⟨_, (exec_linkTrainingComplete r hu hst).trans (congrArg _ (trainingEffect_failed hr)), his.only, hseq, his.same⟩
  case collides =>
    obtain ⟨his, htouch⟩ := updateRoutes_modPort_is s p (heldPort 2)
    exact ⟨_, (exec_linkTrainingComplete r hu hst).trans
      (congrArg _ ((trainingEffect_plain hr he).trans (trainedEffect_collides hc))), his.only, his.same, htouch⟩
  case up =>
    obtain ⟨⟨q, w, n, his⟩, htb⟩ := trainedEffect_up hc hh
    refine ⟨_, (exec_linkTrainingComplete r hu hst).trans (congrArg _ (trainingEffect_plain hr he)), his.only, ⟨q, w, n, ?_⟩, htb⟩
    rw [his.same, he]
    by_cases h7 : 7 ≤ p.1 <;> simp only [trainedPort, externalPort, h7, decide_true, decide_false, if_true, if_false,
      Bool.false_eq_true] <;> rfl
  case down =>
    obtain ⟨his, htouch⟩ := updateRoutes_modPort_is s p downPort
    exact ⟨_, exec_linkDown hu hp, his.same, his.only, htouch⟩
  case hold =>
    obtain ⟨his, htouch⟩ := writeLink_hold (s := s) (p := p) h
    exact ⟨_, exec_linkHold v hu, his.only, htouch, his.same⟩
  case free =>
    have his := modPort_is s p freedPort
    exact ⟨_, (exec_linkHold v hu).trans (congrArg _ (writeLink_free h hst hr)), his.only, his.same, modPort_touches s p _⟩
  case resume =>
    obtain ⟨q, w, n, his, htouch⟩ := writeLink_resume (s := s) h hst
    exact ⟨_, q, w, n, exec_linkHold v hu, his.only, his.same, htouch⟩
  case route =>
    intro bad
    refine ⟨fun hb => ?_, fun hb => ?_⟩
    · have hno : ¬ routeWriteOk s id v = true := fun h => routeWriteOk_iff.mp h hb
      exact (exec_routeEntryWrite id v hu).trans (congrArg _ (if_neg hno))
    · exact ⟨_, exec_routeEntryWrite id v hu, writeRoute_legal hw (routeWriteOk_iff.mpr hb)⟩
  case logOff => exact (exec_impressionAppend v hu).trans (congrArg _ (writeAppend_off h))
  case append =>
    intro n lay
    refine ⟨fun hsize hkept => ?_, fun hsize hkept hhold => ?_⟩
    · refine ⟨_, (exec_impressionAppend v hu).trans (congrArg _ ((writeAppend_on h hp).trans (appendMark_fits hsize hkept))),
        putRecord_log s 6 0 0 bs, ?_⟩
      exact putRecord_touch s 6 0 0 bs (by decide) (by decide) (by decide) (Touches.refl _ s)
    · exact (exec_impressionAppend v hu).trans (congrArg _ ((writeAppend_on h hp).trans (appendMark_held hsize hkept hhold)))

end Sys2Proof
end

section
/-! PROOFS. Chapters 10, 14 and 15, Span packets (R438, R452, R561, R563, R565 to R568, R593). -/

namespace Sys2Proof

open Machine Laws

section
variable {s : State} {p : Fin 11} {k : SpanPacket}

/-! ### The commands that take a packet -/

theorem exec_spanWrite (hu : unitsOn s = true) (hw : waitingPacket s p 1 = some k) :
    exec (.spanWrite p) s = .next (onPacket s p 1 answerCorrupt writePacketEffect) := by
  rw [show exec (.spanWrite p) s = execSpanWrite p s from rfl, execSpanWrite, packetReady_of hu hw, onlyIf_true]

theorem exec_spanReadReq (hu : unitsOn s = true) (hw : waitingPacket s p 2 = some k) :
    exec (.spanReadReq p) s = .next (onPacket s p 2 answerCorrupt readReqEffect) := by
  rw [show exec (.spanReadReq p) s = execSpanReadReq p s from rfl, execSpanReadReq, packetReady_of hu hw, onlyIf_true]

theorem exec_spanReadResp (hu : unitsOn s = true) (hw : waitingPacket s p 3 = some k) :
    exec (.spanReadResp p) s = .next (onPacket s p 3 respCorrupt readRespEffect) := by
  rw [show exec (.spanReadResp p) s = execSpanReadResp p s from rfl, execSpanReadResp, packetReady_of hu hw, onlyIf_true]

theorem exec_spanAck (hu : unitsOn s = true) (hw : waitingPacket s p 4 = some k) :
    exec (.spanAck p) s = .next (onPacket s p 4 (fun s _ => s) ackEffect) := by
  rw [show exec (.spanAck p) s = execSpanAck p s from rfl, execSpanAck, packetReady_of hu hw, onlyIf_true]

theorem exec_spanNack (hu : unitsOn s = true) (hw : waitingPacket s p 5 = some k) :
    exec (.spanNack p) s = .next (onPacket s p 5 (fun s _ => s) nackEffect) := by
  rw [show exec (.spanNack p) s = execSpanNack p s from rfl, execSpanNack, packetReady_of hu hw, onlyIf_true]

theorem exec_ethfwd (hu : unitsOn s = true) (hw : waitingPacket s p 8 = some k) :
    exec (.ethfwd p) s = .next (onPacket s p 8 answerCorrupt ethfwdEffect) := by
  rw [show exec (.ethfwd p) s = execEthfwd p s from rfl, execEthfwd, packetReady_of hu hw, onlyIf_true]

/-- Log 14: a packet that is no answer is answered. -/
theorem answerCorrupt_request {n : Nat} (h : n = 1 ∨ n = 2 ∨ n = 8) (hk : k.typ.toNat = n) :
    answerCorrupt s k = sendNack s k .corrupt := by
  have hne (m : BitVec 4) (hm : m = 3 ∨ m = 4 ∨ m = 5) : k.typ ≠ m := by
    intro heq
    rw [heq] at hk
    obtain rfl | rfl | rfl := hm <;> obtain rfl | rfl | rfl := h <;> exact absurd hk (by decide)
  have hans : answered k = true := by
    simp only [answered, hne 3 (.inl rfl), hne 4 (.inr (.inl rfl)), hne 5 (.inr (.inr rfl)), ne_eq, not_false_eq_true, decide_true,
      Bool.and_self]
  exact if_pos hans

/-- R561, R563, R567: what every type of packet has in common. -/
theorem packet_common {c : Instr} {n : Nat} {bad good : State → SpanPacket → State} (hw : waitingPacket s p n = some k)
    (hexec : exec c s = .next (onPacket s p n bad good))
    (hasks : n = 1 ∨ n = 2 ∨ n = 8 → bad = answerCorrupt) (hanswer : n = 4 ∨ n = 5 → bad = fun s _ => s) :
    let u := takePacket s p n
    ((u.span.ports[p]).rx = eraseFirst (fun x => decide (x.typ.toNat = n)) (s.span.ports[p]).rx
        ∧ (∀ q, q ≠ p → u.span.ports[q] = s.span.ports[q]) ∧ { u.span with ports := s.span.ports } = s.span ∧ Touches [.span] s u)
    ∧ (∀ q, k.dst ≠ s.span.dieId → knownFenced u k.dst = false → 1 < k.hops → choosePort u k (some p) = some q →
        exec c s = .next (enqueuePort u q (hopPacket k)))
    ∧ (k.dst = s.span.dieId → hcrcOk k = false → ∃ t, exec c s = .next t ∧ t.span = u.span ∧ Touches [.span, .colo] s t
        ∧ (tableWf (entDefault s.build s.dieIndex) s.colo.ent = true → entN t 0x5020 7 = (entN s 0x5020 7 + 1) % 2 ^ 32))
    ∧ (k.dst = s.span.dieId → hcrcOk k = true → pcrcOk k = false →
        (n = 1 ∨ n = 2 ∨ n = 8 → k.typ.toNat = n → exec c s = .next (sendNack u k .corrupt)) ∧ (n = 4 ∨ n = 5 → exec c s = .next u)) := by
  intro u
  have htake : Touches [.span] s u := modPort_touches s p _
  refine ⟨takePacket_keeps s p n, fun q hd hf hh hc => ?_, fun hd hh => ?_, fun hd hh hp => ⟨fun hn hk => ?_, fun hn => ?_⟩⟩
  · rw [hexec, onPacket_forward hw hd hf hh hc]
  · refine ⟨_, hexec.trans (congrArg _ (onPacket_hcrc hw hd hh)), bumpEnt_touches u _ _ _ _ .span (by decide),
      (htake.mono (by decide)).trans ((bumpEnt_touches u _ _ _ _).mono (by decide)), fun he => ?_⟩
    rw [entN_bumpEnt_same u 0x5020 7 1 32 he]
    rfl
  · rw [hexec, onPacket_pcrc hw hd hh hp, hasks hn, answerCorrupt_request hn hk]
  · rw [hexec, onPacket_pcrc hw hd hh hp, hanswer hn]

/-! ### WRITE and READ_REQ (R452, R565, R568) -/

theorem writePacketEffect_refused {a : Nat} {r : Nack} (h : remoteErr s k.addr.toNat k.payload.length = some (a, r)) :
    writePacketEffect s k = refuseAt s k a r := by rw [writePacketEffect, h]

/-- R568: bytes are stored and counted while the copy is not whole. -/
theorem writePacketEffect_counts (h : remoteErr s k.addr.toNat k.payload.length = none)
    (hx : (countPartial (partialOf s k) k).total ≠ some (countPartial (partialOf s k) k).count) :
    let t := writePacketEffect s k
    let v := localPutAll s (placed k.addr.toNat k.payload)
    t.formes = v.formes ∧ t.gddr = v.gddr ∧ t.span.part = otherPartials s k ++ [countPartial (partialOf s k) k]
      ∧ t.span.ports = s.span.ports := by
  intro t v
  have ht : t = { v with span := { v.span with part := otherPartials s k ++ [countPartial (partialOf s k) k] } } := by
    simp only [t, writePacketEffect, h]
    rw [if_neg hx]
  rw [ht]
  have hspan : v.span = s.span := localPutAll_span s _
  exact ⟨rfl, rfl, rfl, by rw [hspan]⟩

/-- R452, R565: the last byte of a copy without a signal is acknowledged. -/
theorem writePacketEffect_last (h : remoteErr s k.addr.toNat k.payload.length = none)
    (hx : (countPartial (partialOf s k) k).total = some (countPartial (partialOf s k) k).count)
    (hr : (countPartial (partialOf s k) k).rsen = false) :
    let v := localPutAll s (placed k.addr.toNat k.payload)
    let w : State := { v with span := { v.span with part := otherPartials s k } }
    writePacketEffect s k = (spanSend w (copyAck w k (countPartial (partialOf s k) k).count)).1 := by
  intro v w
  have hsig : partialSignal w (countPartial (partialOf s k) k) = w := if_neg (ne_true_of_eq_false hr)
  simp only [writePacketEffect, h]
  rw [if_pos hx]
  exact congrArg (fun w => (spanSend w (copyAck w k (countPartial (partialOf s k) k).count)).1) hsig

theorem readReqEffect_size (h : k.aux.toNat % 8192 = 0 ∨ 4096 < k.aux.toNat % 8192) : readReqEffect s k = s := if_pos h

theorem readReqEffect_refused {a : Nat} {r : Nack} (h0 : k.aux.toNat % 8192 ≠ 0) (hn : k.aux.toNat % 8192 ≤ 4096)
    (h : remoteErr s k.addr.toNat (k.aux.toNat % 8192) = some (a, r)) : readReqEffect s k = refuseAt s k a r := by
  simp only [readReqEffect, h]
  exact if_neg (not_or.mpr ⟨h0, Nat.not_lt.mpr hn⟩)

theorem readReqEffect_serves (h0 : k.aux.toNat % 8192 ≠ 0) (hn : k.aux.toNat % 8192 ≤ 4096)
    (h : remoteErr s k.addr.toNat (k.aux.toNat % 8192) = none) : readReqEffect s k = serveRead s k (k.aux.toNat % 8192) := by
  simp only [readReqEffect, h]
  exact if_neg (not_or.mpr ⟨h0, Nat.not_lt.mpr hn⟩)

/-- What a read meets depends on the Formes and GDDR7 only. -/
theorem readErr_congr {t : State} (hf : t.formes = s.formes) (hg : t.gddr = s.gddr) (rs : List (Nat × Nat)) :
    readErr t rs = readErr s rs := by
  have hforme : formeReadErr t rs = formeReadErr s rs := by
    funext f
    rw [formeReadErr, formeReadErr, State.forme, State.forme, hf]
  rw [readErr, readErr, hforme, hg]

/-- R565, R567: the bytes are sent, and the request is remembered. -/
theorem serveRead_sends (n : Nat) (h : readErr s [(k.addr.toNat, n)] = none) :
    ∃ l, serveRead s k n = sendSealed { s with span := { s.span with served := ({ k with payload := [] }, n) :: l } }
      (responsePacket s k (localBytes s k.addr.toNat n) false) := by
  refine ⟨(s.span.served.filter (fun x => decide (x.1 ≠ { k with payload := [] }))).take 511, ?_⟩
  have hread := (readErr_congr (s := s) (t := { s with span := { s.span with served := ({ k with payload := [] }, n)
    :: (s.span.served.filter (fun x => decide (x.1 ≠ { k with payload := [] }))).take 511 } }) rfl rfl [(k.addr.toNat, n)]).trans h
  rw [serveRead, hread]
  rfl

/-! ### READ_RESP and ACK (R438, R565, R567) -/

/-- A byte table with the bytes that a packet brings. -/
def arrivedBytes (k : SpanPacket) (data : Table Byte) : Table Byte :=
  (placed k.addr.toNat k.payload).foldl (fun t p => tput t p.1 p.2) data

/-- R438: bytes of a table load that has started. -/
theorem loadBytes_facts {f : FormeIx} {l : FtLoad} (hf : packetForme k = some f) (hl : (s.forme f).vu.ftLoad = some l)
    (hs : l.started = true) : OnlyForme f [.vu] s (loadBytes s k) ∧ Touches [.formes] s (loadBytes s k)
      ∧ ((loadBytes s k).forme f).vu.ftLoad = some { l with data := arrivedBytes k l.data } := by
  obtain ⟨g, hact, hg⟩ : ∃ g, loadBytes s k = modForme s f g ∧ g (s.forme f)
      = { s.forme f with vu := { (s.forme f).vu with ftLoad := some { l with data := arrivedBytes k l.data } } } := by
    refine ⟨_, by rw [loadBytes, hf], ?_⟩
    simp only [hl, hs, if_true]
    rfl
  rw [hact]
  refine ⟨OnlyForme.mod s f g ?_, modForme_touches s f g, ?_⟩
  · rw [hg]; exact fTouches_vu _ _
  · rw [modForme_forme_same, hg]

theorem length_eraseFirst_le {α : Type} (q : α → Bool) (l : List α) : (eraseFirst q l).length ≤ l.length := by
  induction l with
  | nil => exact Nat.le_refl _
  | cons x xs ih =>
    rw [eraseFirst]
    cases q x
    · exact Nat.succ_le_succ ih
    · exact Nat.le_succ _

/-- A Carriage that a piece of its source has reached. -/
def withPiece (k : SpanPacket) (ps : List (Nat × Nat)) (x : Carriage) : Carriage :=
  { x with data := arrivedBytes k x.data, phase := .reading (eraseFirst (fun q => decide (q.1 = k.addr.toNat)) ps) }

/-- R565: a piece of a copy's source that is not the last. -/
theorem pieceArrived_some {f : FormeIx} {c : Fin 8} {ps : List (Nat × Nat)} (hphase : (carOf s f c).phase = .reading ps)
    (hmem : (k.addr.toNat, k.payload.length) ∈ ps) (hrest : eraseFirst (fun q => decide (q.1 = k.addr.toNat)) ps ≠ [])
    (hlen : ps.length < 64) : pieceArrived s f c k.addr.toNat k.payload = modCar s f c (withPiece k ps) := by
  have hany : ps.any (fun p => decide (p.1 = k.addr.toNat) && decide (p.2 = k.payload.length)) = true :=
    List.any_eq_true.mpr ⟨_, hmem, by simp⟩
  have hfew : decide (64 ≤ (eraseFirst (fun q => decide (q.1 = k.addr.toNat)) ps).length) = false :=
    decide_eq_false (Nat.not_le.mpr (Nat.lt_of_le_of_lt (length_eraseFirst_le _ ps) hlen))
  simp only [pieceArrived, hphase, hany, if_true, hfew, Bool.and_false, Bool.false_eq_true, if_false, hrest]
  cases (carOf s f c).entry <;> rfl

theorem carr_fTouches (fm : Forme) (v : Vector Carriage 8) : FTouches [.carr] fm { fm with carr := v } := by
  intro p hp; cases p <;> first | exact absurd (by decide) hp | rfl

theorem modCar_only (s : State) (f : FormeIx) (c : Fin 8) (g : Carriage → Carriage) : OnlyForme f [.carr] s (modCar s f c g) :=
  OnlyForme.mod s f _ (carr_fTouches _ _)

/-- R568: an ACK completes the writes of a copy. -/
theorem copyAcked_facts {f : FormeIx} {c : Fin 8} {ps : List (Nat × Nat)} (n : Nat) (hphase : (carOf s f c).phase = .acking ps) :
    let t := copyAcked s f c n
    OnlyForme f [.carr] s t ∧ Touches [.formes] s t
      ∧ carOf t f c = { addBytes (carOf s f c) n with phase := .written, remote := false, data := [] }
      ∧ ∀ d, d ≠ c → carOf t f d = carOf s f d := by
  intro t
  refine ⟨modCar_only s f c _, modForme_touches s f _, ?_, fun d hd => carOf_modCar_other s f c d _ hd⟩
  have h := carOf_modCar_same s f c (fun x => match x.phase with
    | .acking _ => { addBytes x n with phase := .written, remote := false, data := [] }
    | _ => x)
  rw [hphase] at h
  exact h

/-! ### NACK (R566, R567) -/

theorem nackEffect_copy (h4 : k.aux.getLsbD 4 = false) (h15 : k.sforme ≠ 15) (hl : forLoad k = false) {r : State}
    (hr : packetCar s k = none ∧ r = s ∨ ∃ f c, packetCar s k = some (f, c)
      ∧ r = if fieldN k.aux.toNat 0 4 = 5 then copyCorrupt s f c k.addr.toNat (backPort s k) else pumpCopies (failCopy s f c)) :
    nackEffect s k = r := by
  rw [nackEffect, h4, if_neg (by decide), if_neg h15, hl, if_neg (by decide)]
  obtain ⟨hc, rfl⟩ | ⟨f, c, hc, rfl⟩ := hr <;> rw [hc]

theorem nackEffect_load {f : FormeIx} {l : FtLoad} (h4 : k.aux.getLsbD 4 = false) (h15 : k.sforme ≠ 15) (hld : forLoad k = true)
    (hf : packetForme k = some f) (hl : (s.forme f).vu.ftLoad = some l) :
    nackEffect s k = if fieldN k.aux.toNat 0 4 = 5 then (spanSend s (loadRequest s f l (k.aux.toNat / 65536 - 0x8000))).1
      else progError (dropLoad s f l) f .address (queueCode .fq) 0 l.index := by
  rw [nackEffect, h4, if_neg (by decide), if_neg h15, hld, if_pos rfl, loadNack, hf]
  simp only [hl]

/-! ### ETHFWD (R593) -/

/-- Pieces of other frames. -/
def otherPieces (s : State) (k : SpanPacket) : List (BitVec 12 × Nat × List Byte) :=
  s.abut.pieces.filter (fun x => !(decide (x.1 = k.src) && decide (x.2.1 = k.addr.toNat % 2)))

theorem ethfwdEffect_first (h0 : k.aux.getLsbD 0 = false) (h1 : k.aux.getLsbD 1 = false) (hl : k.last = false) :
    ethfwdEffect s k = { s with abut := { s.abut with
      pieces := otherPieces s k ++ [(k.src, k.addr.toNat % 2, k.payload)] } } := by
  simp only [ethfwdEffect, h0, h1, hl, Bool.false_eq_true, if_false]
  rfl

theorem ethfwdEffect_whole (h0 : k.aux.getLsbD 0 = false) (h1 : k.aux.getLsbD 1 = false) (hl : k.last = true) :
    ethfwdEffect s k = ethPayload s k.src (k.addr.toNat % 2) k.payload := by
  simp only [ethfwdEffect, h0, h1, hl, Bool.false_eq_true, if_false, if_true]

theorem ethPayload_in {src : BitVec 12} {pl : List Byte} : ethPayload s src 0 pl = forwardedIn s pl := if_pos rfl

theorem ethPayload_down {src : BitVec 12} {pl : List Byte} (h : s.abut.link ≠ 3) : ethPayload s src 1 pl = s := if_pos h

/-- R593: a frame without TSREQ leaves the port. -/
theorem ethPayload_out {src : BitVec 12} {pl : List Byte} (h : s.abut.link = 3) (ht : leNat (pl.take 8) % 2 = 0) :
    ethPayload s src 1 pl = emit s (.ethRaw src false (BitVec.ofNat 32 (leNat (pl.take 8) / 2 ^ 32)) (pl.drop 8)) := by
  have hts : decide (leNat (pl.take 8) % 2 = 1) = false := decide_eq_false (by rw [ht]; decide)
  rw [ethPayload, if_neg (by decide), portOut]
  simp only [hts, h, ne_eq, not_true_eq_false, if_false, Bool.false_eq_true]

end

/-- Settles O46: what every packet has in common (`packet_common`), then each type's effect once the packet is taken. -/
theorem spanPacketsReachTheirCopies : Obligations.SpanPacketsReachTheirCopies := by
  unfold Obligations.SpanPacketsReachTheirCopies
  intro p k s hu here
  have htake (n : Nat) : Touches [.span] s (takePacket s p n) := modPort_touches s p _
  refine ⟨fun c n hc hw => ?common, fun hh => ?write, fun hh => ?readReq, fun hh => ?readResp, fun hh => ?ack, fun hh => ?nack,
    fun hh => ?ethfwd⟩
  case common =>
    simp only [List.mem_cons, List.not_mem_nil, or_false, Prod.mk.injEq] at hc
    obtain ⟨rfl, rfl⟩ | ⟨rfl, rfl⟩ | ⟨rfl, rfl⟩ | ⟨rfl, rfl⟩ | ⟨rfl, rfl⟩ | ⟨rfl, rfl⟩ := hc
    · exact packet_common hw (exec_spanWrite hu hw) (fun _ => rfl) (fun h => absurd h (by decide))
    · exact packet_common hw (exec_spanReadReq hu hw) (fun _ => rfl) (fun h => absurd h (by decide))
    · exact packet_common hw (exec_spanReadResp hu hw) (fun h => absurd h (by decide)) (fun h => absurd h (by decide))
    · exact packet_common hw (exec_spanAck hu hw) (fun h => absurd h (by decide)) (fun _ => rfl)
    · exact packet_common hw (exec_spanNack hu hw) (fun h => absurd h (by decide)) (fun _ => rfl)
    · exact packet_common hw (exec_ethfwd hu hw) (fun _ => rfl) (fun h => absurd h (by decide))
  case write =>
    intro u x v
    obtain ⟨hw, hd, hhc, hpc⟩ := hh
    have hexec : exec (.spanWrite p) s = .next (writePacketEffect u k) :=
      (exec_spanWrite hu hw).trans (congrArg _ (onPacket_good hw hd hhc hpc))
    exact ⟨fun a r h => hexec.trans (congrArg _ (writePacketEffect_refused h)),
      fun h hx => ⟨_, hexec, writePacketEffect_counts h hx⟩,
      fun h hx hr => hexec.trans (congrArg _ (writePacketEffect_last h hx hr))⟩
  case readReq =>
    intro u n
    obtain ⟨hw, hd, hhc, hpc⟩ := hh
    have hexec : exec (.spanReadReq p) s = .next (readReqEffect u k) :=
      (exec_spanReadReq hu hw).trans (congrArg _ (onPacket_good hw hd hhc hpc))
    refine ⟨fun h => hexec.trans (congrArg _ (readReqEffect_size h)),
      fun a r h0 hn h => hexec.trans (congrArg _ (readReqEffect_refused h0 hn h)), fun h0 hn h hr => ?_⟩
    obtain ⟨l, hl⟩ := serveRead_sends n hr
    exact ⟨l, hexec.trans (congrArg _ ((readReqEffect_serves h0 hn h).trans hl))⟩
  case readResp =>
    intro u
    obtain ⟨hw, hd, hhc, hpc⟩ := hh
    have hexec : exec (.spanReadResp p) s = .next (readRespEffect u k) :=
      (exec_spanReadResp hu hw).trans (congrArg _ (onPacket_good hw hd hhc hpc))
    refine ⟨fun f l hld hf hl hs => ?_, fun hld hc => ?_, fun f c ps hld hc hphase hmem hrest hlen => ?_⟩
    · obtain ⟨honly, htouch, hload⟩ := loadBytes_facts (s := u) hf hl hs
      exact ⟨_, hexec.trans (congrArg _ (if_pos hld)), honly, ((htake 3).mono (by decide)).trans (htouch.mono (by decide)), hload⟩
    · have hact : readRespEffect u k = u := by
        rw [readRespEffect, hld, if_neg (by decide), show packetCar u k = none from hc]
      exact hexec.trans (congrArg _ hact)
    · have hact : readRespEffect u k = pumpCopies (pieceArrived u f c k.addr.toNat k.payload) := by
        rw [readRespEffect, hld, if_neg (by decide), show packetCar u k = some (f, c) from hc]
      exact hexec.trans (congrArg _ (hact.trans (congrArg pumpCopies (pieceArrived_some (s := u) hphase hmem hrest hlen))))
  case ack =>
    intro f c ps h15 hc hphase
    obtain ⟨hw, hd, hhc, hpc⟩ := hh
    have hact : ackEffect (takePacket s p 4) k = copyAcked (takePacket s p 4) f c k.total.toNat := by
      rw [ackEffect, if_neg h15, show packetCar (takePacket s p 4) k = some (f, c) from hc]
    obtain ⟨honly, htouch, hsame, hother⟩ := copyAcked_facts (s := takePacket s p 4) k.total.toNat hphase
    exact ⟨_, (exec_spanAck hu hw).trans (congrArg _ ((onPacket_good hw hd hhc hpc).trans hact)), honly,
      ((htake 4).mono (by decide)).trans (htouch.mono (by decide)), hsame, hother⟩
  case nack =>
    intro u
    obtain ⟨hw, hd, hhc, hpc⟩ := hh
    have hexec : exec (.spanNack p) s = .next (nackEffect u k) :=
      (exec_spanNack hu hw).trans (congrArg _ (onPacket_good hw hd hhc hpc))
    refine ⟨fun h4 h15 hld => ⟨fun hc => ?_, fun f c hc h5 => ?_, fun f c hc h5 => ?_⟩, fun f l h4 h15 hld hf hl =>
      ⟨fun h5 => ?_, fun h5 => ?_⟩⟩
    · exact hexec.trans (congrArg _ (nackEffect_copy h4 h15 hld (.inl ⟨hc, rfl⟩)))
    · exact hexec.trans (congrArg _ (nackEffect_copy h4 h15 hld (.inr ⟨f, c, hc, (if_neg h5).symm⟩)))
    · exact hexec.trans (congrArg _ (nackEffect_copy h4 h15 hld (.inr ⟨f, c, hc, (if_pos h5).symm⟩)))
    · exact hexec.trans (congrArg _ ((nackEffect_load (s := u) h4 h15 hld hf hl).trans (if_pos h5)))
    · exact hexec.trans (congrArg _ ((nackEffect_load (s := u) h4 h15 hld hf hl).trans (if_neg h5)))
  case ethfwd =>
    intro u dir mine h0 h1
    obtain ⟨hw, hd, hhc, hpc⟩ := hh
    have hexec : exec (.ethfwd p) s = .next (ethfwdEffect u k) :=
      (exec_ethfwd hu hw).trans (congrArg _ (onPacket_good hw hd hhc hpc))
    have hwhole (hl : k.last = true) {m : Nat} (hm : k.addr.toNat % 2 = m) : ethfwdEffect u k = ethPayload u k.src m k.payload :=
      (ethfwdEffect_whole h0 h1 hl).trans (by rw [hm])
    refine ⟨fun hl => ?_, fun hl hdir hlink => ?_, fun hl hdir hlink hts => ?_, fun hl hdir => ?_⟩
    · refine ⟨_, hexec.trans (congrArg _ (ethfwdEffect_first h0 h1 hl)), ?_, rfl, rfl⟩
      refine ((htake 8).mono (by decide)).trans ?_
      intro q hq; cases q <;> first | exact absurd (by decide) hq | rfl
    · exact hexec.trans (congrArg _ ((hwhole hl hdir).trans (ethPayload_down hlink)))
    · exact ⟨_, hexec.trans (congrArg _ ((hwhole hl hdir).trans (ethPayload_out hlink hts))), rfl, rfl,
        ((htake 8).mono (by decide)).trans ((emit_touches _ _).mono (by decide))⟩
    · exact hexec.trans (congrArg _ ((hwhole hl hdir).trans ethPayload_in))

end Sys2Proof
end

section
/-! PROOFS. Chapter 14, the collective engine (R575 to R586). -/

namespace Sys2Proof

open Machine Laws

section
variable {s : State} {i : Fin 8}

/-! ### Slots -/

theorem modSlot_same (s : State) (i : Fin 8) (g : CollSlot → CollSlot) : (modSlot s i g).coll.slots[i] = g s.coll.slots[i] :=
  vmod_get_same _ _ _

theorem modSlot_other (s : State) {i k : Fin 8} (g : CollSlot → CollSlot) (h : k ≠ i) :
    (modSlot s i g).coll.slots[k] = s.coll.slots[k] := vmod_get_other _ _ _ _ h

theorem modSlot_modSlot (s : State) (i : Fin 8) (f g : CollSlot → CollSlot) :
    modSlot (modSlot s i f) i g = modSlot s i (fun x => g (f x)) :=
  congrArg (fun v => { s with coll := { s.coll with slots := v } }) (vmod_vmod _ _ _ _)

theorem modSlot_touches (s : State) (i : Fin 8) (g : CollSlot → CollSlot) : Touches [.coll] s (modSlot s i g) := by
  intro p hp; cases p <;> first | exact absurd (by decide) hp | rfl

theorem slot_congr {t : State} (h : t.coll = s.coll) (k : Fin 8) : t.coll.slots[k] = s.coll.slots[k] := by rw [h]

/-- Slot i is set to a value, the other slots stay, and the interrupt of the collectives pends. -/
structure SlotRaised (i : Fin 8) (y : CollSlot) (s t : State) : Prop where
  same : t.coll.slots[i] = y
  other : ∀ k, k ≠ i → t.coll.slots[k] = s.coll.slots[k]
  irq : (t.cores.pending ||| t.cores.claimed).getLsbD 3 = true

/-- R586: a slot is set and its interrupt raised, after steps that keep the slots. -/
theorem collRaise_modSlot {u : State} (g : CollSlot → CollSlot) (hc : u.coll = s.coll) (hf : u.fault.fenced = false) :
    SlotRaised i (g s.coll.slots[i]) s (collRaise (modSlot u i g) i) := by
  have hraise : Touches [.out, .cores, .colo] (modSlot u i g) (collRaise (modSlot u i g) i) := raise_tt _ _ _ _
  have hcoll : (collRaise (modSlot u i g) i).coll = (modSlot u i g).coll := hraise .coll (by decide)
  refine ⟨?_, fun k hk => ?_, raise_bit (modSlot u i g) 3 _ _ (by decide) hf⟩
  · rw [slot_congr hcoll, modSlot_same, slot_congr hc]
  · rw [slot_congr hcoll, modSlot_other _ _ hk, slot_congr hc]

/-! ### Failures (R585) -/

/-- A slot whose collective failed. -/
def failedSlot (code : BitVec 3) (x : CollSlot) : CollSlot := { x with busy := false, fail := true, fcode := code, job := none }

/-- R585: the collective of a slot fails. -/
theorem collFail_facts (code : BitVec 3) (hf : s.fault.fenced = false) :
    SlotRaised i (failedSlot code s.coll.slots[i]) s (collFail s i code) := by
  obtain ⟨u, hu, htouch⟩ : ∃ u, collFail s i code = collRaise (modSlot u i (failedSlot code)) i
      ∧ Touches [.free, .formes, .gddr, .tbl] s u := by
    refine ⟨_, rfl, ?_⟩
    split
    · exact freeRange_touch s _ (by decide) (by decide) (by decide) (by decide) (Touches.refl _ s)
    · exact Touches.refl _ s
  rw [hu]
  exact collRaise_modSlot _ (htouch .coll (by decide)) (by rw [htouch .fault (by decide)]; exact hf)

theorem memoryError_fenced (s : State) (cls : MClass) (f : FormeIx) (off : Nat) :
    (memoryError s cls f off).fault.fenced = s.fault.fenced := by
  have habort (u : State) : (storedAbort u f).fault = u.fault :=
    storedAbort_touch (qs := [.formes, .imp]) u f (by decide) (by decide) (Touches.refl _ u) .fault (by decide)
  obtain ⟨ix, a, hact⟩ : ∃ ix a, memoryError s cls f off = if formeBusy (s.forme f)
      then storedAbort (modForme (logFault s cls .replay (some f) .folioAborted ix (s.forme f).fe.folioId a) f
        (fun fm => { fm with line := some a })) f
      else logFault s cls .replay (some f) .none ix 0 a := ⟨_, _, rfl⟩
  rw [hact]
  by_cases hb : formeBusy (s.forme f) = true
  · rw [if_pos hb, habort, modForme_fault, logFault_fenced]
  · rw [if_neg hb, logFault_fenced]

/-- R689, R697: what a GO logs of the data it could not read fences no die. -/
theorem logCollRead_fenced (s : State) (rs : List (Nat × Nat)) : (logCollRead s rs).fault.fenced = s.fault.fenced := by
  rw [logCollRead]
  split
  · exact (gddrError_reported s rfl).fenced
  · exact memoryError_fenced s _ _ _
  · exact memoryError_fenced s _ _ _
  · rfl

/-! ### GO (R575 to R579) -/

/-- A slot after a write of SPAN.COLL. -/
def writtenSlot (v : Word) (x : CollSlot) : CollSlot :=
  { x with daddr := BitVec.ofNat 40 (field v 0 40), done := w1c x.done v 42, fail := w1c x.fail v 43 }

/-- A slot that GO made BUSY. -/
def startedSlot (x : CollSlot) : CollSlot := { x with busy := true, ovf := false, nar := false, flush := false, job := none }

theorem exec_collGo {v : Word} (hu : unitsOn s = true) (hv : bit v 40 = true) (hb : s.coll.slots[i].busy = false) :
    exec (.collGo i v) s = .next (collStart (modSlot s i (writtenSlot v)) i) := by
  have hact : writeColl s i v = collStart (modSlot s i (writtenSlot v)) i := if_pos (by rw [hv, hb]; rfl)
  rw [show exec (.collGo i v) s = execCollGo i v s from rfl, execCollGo, hu, hv, hb, Bool.not_false, Bool.and_true, Bool.and_true,
    onlyIf_true, hact]

/-- A GO reads nothing of the slots. -/
theorem goCheck_modSlot (g : CollSlot → CollSlot) (a : Nat) : goCheck (modSlot s i g) a = goCheck s a := rfl

theorem field_lt (v : Word) (lo n : Nat) : field v lo n < 2 ^ n := Nat.mod_lt _ (Nat.two_pow_pos n)

/-- The descriptor's address that a write sets. -/
theorem writtenSlot_daddr (v : Word) (x : CollSlot) : (writtenSlot v x).daddr.toNat = field v 0 40 := by
  rw [writtenSlot, BitVec.toNat_ofNat, Nat.mod_eq_of_lt (field_lt v 0 40)]

/-- R585: a GO that is refused fails the slot. -/
theorem collStart_fails {a c : Nat} (ha : s.coll.slots[i].daddr.toNat = a) (hc : goCheck s a = .inl c)
    (hf : s.fault.fenced = false) :
    SlotRaised i (failedSlot (BitVec.ofNat 3 c) (startedSlot s.coll.slots[i])) s (collStart s i) := by
  obtain ⟨reads, hact⟩ : ∃ reads, collStart s i = collFail (logCollRead (modSlot s i startedSlot) reads) i (BitVec.ofNat 3 c) := by
    simp only [collStart, ha, hc]
    exact ⟨_, rfl⟩
  have hlog : (logCollRead (modSlot s i startedSlot) reads).coll = (modSlot s i startedSlot).coll :=
    logCollRead_touch (qs := [.out, .formes, .gddr, .imp, .fault, .colo, .flash]) _ _ (by decide) (by decide) (by decide)
      (by decide) (by decide) (by decide) (by decide) (Touches.refl _ _) .coll (by decide)
  have hfails := collFail_facts (s := logCollRead (modSlot s i startedSlot) reads) (i := i) (BitVec.ofNat 3 c)
    (by rw [logCollRead_fenced]; exact hf)
  rw [slot_congr hlog, modSlot_same] at hfails
  rw [hact]
  exact ⟨hfails.same, fun k hk => (hfails.other k hk).trans ((slot_congr hlog k).trans (modSlot_other s _ hk)), hfails.irq⟩

/-- A job whose transfers have been announced. -/
def invitedJob (j : CollJob) : CollJob := { j with recvs := j.recvs.map (fun x => { x with invited := true }) }

/-- R579, R582: a GO that is legal announces its transfers and takes the announcements kept for it. -/
theorem collStart_runs {a : Nat} {j : CollJob} (ha : s.coll.slots[i].daddr.toNat = a) (hj : goCheck s a = .inr j) :
    collStart s i = collProgress (takeKept (announceAll
      (modSlot s i (fun x => { startedSlot x with job := some (invitedJob (primeJob s j)) })) i (primeJob s j)) i j.collId) i := by
  have hmod := modSlot_modSlot s i startedSlot (fun x => { x with job := some (invitedJob (primeJob s j)) })
  simp only [collStart, ha, hj]
  exact congrArg (fun u => collProgress (takeKept (announceAll u i (primeJob s j)) i j.collId) i) hmod

/-! ### Announcements and data (R580, R582, R583) -/

theorem exec_collAnnouncement {p : Fin 11} {k : SpanPacket} (hu : unitsOn s = true) (hw : waitingPacket s p 6 = some k)
    (hd : k.dst = s.span.dieId) (hh : hcrcOk k = true) (hp : pcrcOk k = true) (ha : k.aux.getLsbD 16 = true) :
    exec (.collAnnouncement p) s = .next (annEffect (takePacket s p 6) k) := by
  have hready : collWaits s p true = true := by rw [collWaits, packetReady_of hu hw, hw]; exact decide_eq_true ha
  rw [show exec (.collAnnouncement p) s = execCollAnnouncement p s from rfl, execCollAnnouncement, hready, onlyIf_true,
    onPacket_good hw hd hh hp]

theorem exec_collData {p : Fin 11} {k : SpanPacket} (hu : unitsOn s = true) (hw : waitingPacket s p 6 = some k)
    (hd : k.dst = s.span.dieId) (hh : hcrcOk k = true) (hp : pcrcOk k = true) (ha : k.aux.getLsbD 16 = false) :
    exec (.collData p) s = .next (dataEffect (takePacket s p 6) k) := by
  have hready : collWaits s p false = true := by rw [collWaits, packetReady_of hu hw, hw]; exact decide_eq_true ha
  rw [show exec (.collData p) s = execCollData p s from rfl, execCollData, hready, onlyIf_true, onPacket_good hw hd hh hp]

theorem annEffect_kept {k : SpanPacket} (h : slotOf s (annOf k).collId = none) (hn : s.coll.anns.length < 64) :
    annEffect s k = { s with coll := { s.coll with anns := s.coll.anns ++ [annOf k] } } := by
  simp only [annEffect, h]
  exact if_pos hn

theorem annEffect_full {k : SpanPacket} (h : slotOf s (annOf k).collId = none) (hn : 64 ≤ s.coll.anns.length) :
    annEffect s k = sendNack s k .noaccess := by
  simp only [annEffect, h]
  exact if_neg (Nat.not_lt.mpr hn)

theorem annEffect_taken {k : SpanPacket} {j : CollJob} (h : slotOf s (annOf k).collId = some i) (hj : s.coll.slots[i].job = some j) :
    annEffect s k = if annAgrees j (annOf k) then collProgress (modJob s i (fun q => { q with
        sends := modifyFirst (fun y => decide (y.peer = k.src) && decide (y.off = k.addr.toNat)) (fun y => { y with invited := true }) j.sends })) i
      else collFail s i 4 := by
  simp only [annEffect, h, takeAnn, hj]
  rfl

theorem dataEffect_none {k : SpanPacket} (h : slotOf s (BitVec.ofNat 32 k.total.toNat) = none) : dataEffect s k = s := by
  rw [dataEffect, h]

/-- R580, R582, R583: data fills its transfer; a whole transfer is acknowledged. -/
theorem dataEffect_some {k : SpanPacket} {j : CollJob} {n : Nat} {y : CollXfer}
    (h : slotOf s (BitVec.ofNat 32 k.total.toNat) = some i) (hj : s.coll.slots[i].job = some j) (hn : recvIx j k = some n)
    (hy : j.recvs[n]? = some y) :
    let data := (placed k.addr.toNat k.payload).foldl (fun t p => tput t p.1 p.2) y.data
    let w := modJob s i (fun q => { q with
      recvs := modNth q.recvs n (fun x => { x with data := data })
      flags := if fieldN k.aux.toNat 17 3 = 0 ∨ j.unit y = 0 then q.flags
        else tmod (fun _ => 0) q.flags (k.addr.toNat / j.unit y) (· ||| fieldN k.aux.toNat 17 3) })
    dataEffect s k = collProgress (if data.length = y.bytes then (spanSend w (collAck w k y.off y.bytes)).1 else w) i := by
  have hget : j.recvs.getD n (newXfer [] 0 false 0 0 0) = y := by rw [List.getD_eq_getElem?_getD, hy]; rfl
  simp only [dataEffect, h, hj, hn, hget]

/-- R582: a refused announcement is sent again. -/
theorem exec_announceRepeat {peer : BitVec 12} {j : CollJob} (hu : unitsOn s = true) (hj : s.coll.slots[i].job = some j)
    (hy : ∃ y ∈ j.recvs, y.peer = peer ∧ y.invited = false) :
    let u := modJob s i (fun j => { j with recvs := j.recvs.map (fun x => if x.peer = peer then { x with invited := true } else x) })
    exec (.announceRepeat i peer) s = .next ((j.recvs.filter (fun x => decide (x.peer = peer) && !x.invited)).foldl
      (fun t x => collSend t i (announcement t i j x)) u) := by
  have hready : repeatReady s i peer = true := by
    obtain ⟨y, hmem, hpeer, hinv⟩ := hy
    simp only [repeatReady, hu, hj, Bool.true_and]
    exact List.any_eq_true.mpr ⟨y, hmem, by rw [hpeer, hinv, decide_eq_true rfl]; rfl⟩
  intro u
  rw [show exec (.announceRepeat i peer) s = execAnnounceRepeat i peer s from rfl, execAnnounceRepeat, hready, onlyIf_true,
    repeatEffect, hj]

/-! ### Completion and timeout (R576, R585, R586) -/

/-- A slot whose collective is complete. -/
def doneSlot (j : CollJob) (x : CollSlot) : CollSlot :=
  { x with
    busy := false, done := true, ovf := j.outFlags.testBit 0, nar := j.outFlags.testBit 1, flush := j.outFlags.testBit 2
    job := none }

theorem exec_collComplete {j : CollJob} (hu : unitsOn s = true) (hb : s.coll.slots[i].busy = true) (hj : s.coll.slots[i].job = some j)
    (hr : ∀ y ∈ j.recvs, y.done = true) (hs : ∀ y ∈ j.sends, y.done = true) :
    exec (.collComplete i) s = .next (collRaise (modSlot (signalMask (localPutAll s (placed j.dst j.output)) j.formes j.token) i
      (doneSlot j)) i) := by
  have hfin : j.finished = true := (Bool.and_eq_true _ _).mpr ⟨List.all_eq_true.mpr hr, List.all_eq_true.mpr hs⟩
  have hready : collDoneReady s i = true := by simp only [collDoneReady, hu, hb, hj, hfin, Bool.and_self]
  have hact : collDoneEffect s i = collRaise (modSlot (signalMask (localPutAll s (placed j.dst j.output)) j.formes j.token) i
      (doneSlot j)) i := by
    rw [collDoneEffect, hj]
    rfl
  rw [show exec (.collComplete i) s = execCollComplete i s from rfl, execCollComplete, hready, onlyIf_true, hact]

/-- R576, R586: what completion leaves. -/
theorem collComplete_facts {j : CollJob} (hf : s.fault.fenced = false) :
    let v := localPutAll s (placed j.dst j.output)
    let t := collRaise (modSlot (signalMask v j.formes j.token) i (doneSlot j)) i
    SlotRaised i (doneSlot j s.coll.slots[i]) s t ∧ t.gddr = v.gddr
      ∧ (∀ f : FormeIx, t.forme f = if j.formes.getLsbD f.1 && formeBusy (v.forme f) && isExt (v.forme f) j.token
          then { v.forme f with tok := vmod (v.forme f).tok j.token.toFin (· + 1) } else v.forme f)
      ∧ Touches [.out, .formes, .gddr, .tbl, .coll, .cores, .colo] s t := by
  intro v t
  have hput : Touches [.formes, .gddr, .tbl] s v := localPutAll_touch s _ (by decide) (by decide) (by decide) (Touches.refl _ s)
  obtain ⟨u, hu⟩ : ∃ u, u = signalMask v j.formes j.token := ⟨_, rfl⟩
  have hsig : Touches [.formes, .colo] v u := by
    rw [hu]; exact signalMask_touch v _ _ (by decide) (by decide) (Touches.refl _ v)
  have ht : t = collRaise (modSlot u i (doneSlot j)) i := by rw [hu]
  have hraise : Touches [.out, .cores, .colo] (modSlot u i (doneSlot j)) t := by rw [ht]; exact raise_tt _ _ _ _
  refine ⟨?_, ?_, fun f => ?_, ?_⟩
  · rw [ht]
    exact collRaise_modSlot _ ((hsig .coll (by decide)).trans (hput .coll (by decide)))
      (by rw [hsig .fault (by decide), hput .fault (by decide)]; exact hf)
  · exact (hraise .gddr (by decide)).trans (hsig .gddr (by decide))
  · rw [State.forme, hraise .formes (by decide)]
    exact (congrArg (fun w : State => w.forme f) hu).trans (signalMask_facts v _ _ f)
  · exact (hput.mono (by decide)).trans ((hsig.mono (by decide)).trans
      (((modSlot_touches u i _).mono (by decide)).trans (hraise.mono (by decide))))

theorem exec_collTimeout {j : CollJob} (hu : unitsOn s = true) (hb : s.coll.slots[i].busy = true) (hj : s.coll.slots[i].job = some j)
    (hn : entN s 0x5030 3 ≠ 0) (ht : j.started.toNat + 1000 * entN s 0x5030 3 < s.tb.ns.toNat) :
    exec (.collTimeout i) s = .next (collFail s i 6) := by
  have hready : collLate s i = true := by
    simp only [collLate, hu, hb, hj, decide_eq_true hn, decide_eq_true ht, Bool.and_self]
  rw [show exec (.collTimeout i) s = execCollTimeout i s from rfl, execCollTimeout, hready, onlyIf_true]

end

/-- Settles O47: a GO, an announcement, data, completion and timeout, each by its cases; every failure is `collFail_facts`. -/
theorem collectivesRunToDoneOrFail : Obligations.CollectivesRunToDoneOrFail := by
  unfold Obligations.CollectivesRunToDoneOrFail
  intro i s hu x others irqs fails
  have hfenced := unitsOn_not_fenced hu
  have hfails {y : CollSlot} {code : BitVec 3} {t : State} (h : SlotRaised i (failedSlot code y) s t) : fails y code t :=
    ⟨h.same, h.other, h.irq⟩
  refine ⟨fun v hv hb => ?go, fun p k hw hd hh hp ha => ?announcement, fun p k hw hd hh hp ha => ?data,
    fun peer j hj hy => exec_announceRepeat hu hj hy, fun j hb hj hr hs => ?complete, fun j hb hj hn ht => ?timeout⟩
  case go =>
    intro a y
    have hexec := exec_collGo hu hv hb
    have hslot : (modSlot s i (writtenSlot v)).coll.slots[i] = writtenSlot v x := modSlot_same s i _
    have haddr : (modSlot s i (writtenSlot v)).coll.slots[i].daddr.toNat = a := by rw [hslot]; exact writtenSlot_daddr v x
    have hrefused (c : Nat) (hc : goCheck s a = .inl c) :
        ∃ t, exec (.collGo i v) s = .next t ∧ fails y (BitVec.ofNat 3 c) t := by
      have h := collStart_fails haddr ((goCheck_modSlot _ a).trans hc) hfenced
      rw [hslot] at h
      exact ⟨_, hexec, hfails ⟨h.same, fun k hk => (h.other k hk).trans (modSlot_other s _ hk), h.irq⟩⟩
    refine ⟨fun h => hrefused 1 (if_pos h), fun h hr => hrefused 3 ?_, hrefused, fun j hj => ?_⟩
    · exact (if_neg (not_not_intro h)).trans (if_pos (by rw [show gddrRange s.gddr a 64 = false from hr]; rfl))
    · intro j1 u
      refine hexec.trans (congrArg _ ((collStart_runs haddr ((goCheck_modSlot _ a).trans hj)).trans ?_))
      rw [modSlot_modSlot]
      rfl
  case announcement =>
    intro u
    have hexec := exec_collAnnouncement hu hw hd hh hp ha
    have htake : Touches [.span] s u := modPort_touches s p _
    refine ⟨fun hs hn => ?_, fun hs hn => ?_, fun j hs hj hag => ?_, fun j hs hj hag => ?_⟩
    · refine ⟨_, hexec.trans (congrArg _ (annEffect_kept hs hn)), rfl, rfl, (htake.mono (by decide)).trans ?_⟩
      intro q hq; cases q <;> first | exact absurd (by decide) hq | rfl
    · exact hexec.trans (congrArg _ (annEffect_full hs hn))
    · have h := collFail_facts (s := u) (i := i) 4 hfenced
      exact ⟨_, hexec.trans (congrArg _ ((annEffect_taken (s := u) hs hj).trans (if_neg (ne_true_of_eq_false hag)))),
        hfails ⟨h.same, h.other, h.irq⟩⟩
    · exact hexec.trans (congrArg _ ((annEffect_taken (s := u) hs hj).trans (if_pos hag)))
  case data =>
    intro u
    have hexec := exec_collData hu hw hd hh hp ha
    exact ⟨fun hs => hexec.trans (congrArg _ (dataEffect_none hs)),
      fun j n y hs hj hn hy => hexec.trans (congrArg _ (dataEffect_some (s := u) hs hj hn hy))⟩
  case complete =>
    obtain ⟨hslot, hgddr, hformes, htouch⟩ := collComplete_facts (s := s) (i := i) (j := j) hfenced
    exact ⟨_, exec_collComplete hu hb hj hr hs, hslot.other, hslot.irq, hslot.same, hgddr, hformes, htouch⟩
  case timeout => exact ⟨_, exec_collTimeout hu hb hj hn ht, hfails (collFail_facts 6 hfenced)⟩

end Sys2Proof
end

section
/-! PROOFS. Chapter 15, the Abutment port (R589 to R597, R616, R623). -/

namespace Sys2Proof

open Machine Laws

section
variable {s : State} {fr : EthFrame}

/-! ### Received frames (R589 to R591) -/

theorem abut_touches (s : State) (a : Abut) : Touches [.abut] s { s with abut := a } := by
  intro p hp; cases p <;> first | exact absurd (by decide) hp | rfl

theorem exec_ethFrameReceive (hu : unitsOn s = true) (hl : s.abut.link = 3) :
    exec (.ethFrameReceive fr) s = .next (ethFrameEffect s fr) := by
  rw [show exec (.ethFrameReceive fr) s = execEthFrameReceive fr s from rfl, execEthFrameReceive, hu, decide_eq_true hl,
    Bool.and_true, onlyIf_true]

/-- R589, R590: a discarded frame is counted. -/
theorem rxDiscard_facts (s : State) : Touches [.colo] s (rxDiscard s)
    ∧ (tableWf (entDefault s.build s.dieIndex) s.colo.ent = true → entN (rxDiscard s) 0x6030 1 = (entN s 0x6030 1 + 1) % 2 ^ 64) :=
  ⟨bumpEnt_touches s _ _ _ _, entN_bumpEnt_same s _ _ _ _⟩

/-- R589, R590: the frames that are not admitted. -/
theorem frameAdmitted_false (h : 4220 < fr.bytes.length ∨ fr.fcsOk = false ∨ fr.twoTags = true ∨ fr.body = .pause ∨ fr.body = .fragment
      ∨ fr.body = .other true ∨ ∃ v, fr.vlan = some v ∧ v.toNat ≠ entN s 0x6000 5) : frameAdmitted s fr = false := by
  rw [frameAdmitted]
  obtain h | h | h | h | h | h | ⟨v, hv, hne⟩ := h
  · rw [show decide (fr.bytes.length ≤ maxFrame) = false from decide_eq_false (Nat.not_le.mpr h)]; simp only [Bool.false_and]
  · rw [h]; simp only [Bool.and_false, Bool.false_and]
  · rw [h]; simp only [Bool.not_true, Bool.and_false, Bool.false_and]
  · rw [h, Bool.and_false]
  · rw [h, Bool.and_false]
  · rw [h]; exact Bool.and_false _
  · simp only [hv, decide_eq_false hne, Bool.and_false, Bool.false_and]

theorem ethFrameEffect_discards (h : frameAdmitted s fr = false) : ethFrameEffect s fr = rxDiscard s :=
  if_neg (ne_true_of_eq_false h)

/-- R591, R592: a frame for a die that the port does not serve. -/
theorem ethFrameEffect_passes (h : frameAdmitted s fr = true) (hs : frameShared fr.body = false) (hd : fr.dst ≠ macOf s.dieIndex.1)
    (hnone : ∀ d, forwardsFor s d = true → macOf d.1 ≠ fr.dst) : ethFrameEffect s fr = s := by
  have hfind : (forwardDies s).find? (fun d => decide (macOf d.1 = fr.dst)) = none :=
    List.find?_eq_none.mpr (fun d hd => by rw [decide_eq_true_iff]; exact hnone d (List.mem_filter.mp hd).2)
  rw [ethFrameEffect, if_pos h, deliverFrame, hs, if_neg (by decide), if_neg hd, hfind]

/-- R592, R594: a frame for another served die. -/
theorem ethFrameEffect_forwards {d : Fin 8} (h : frameAdmitted s fr = true) (hs : frameShared fr.body = false)
    (hd : fr.dst ≠ macOf s.dieIndex.1) (hfind : (forwardDies s).find? (fun d => decide (macOf d.1 = fr.dst)) = some d) :
    ethFrameEffect s fr = ethToOwner s d.1 fr.ect fr.time fr.bytes := by
  rw [ethFrameEffect, if_pos h, deliverFrame, hs, if_neg (by decide), if_neg hd, hfind]

theorem ethFrameEffect_own (h : frameAdmitted s fr = true) (hs : frameShared fr.body = false) (hd : fr.dst = macOf s.dieIndex.1) :
    ethFrameEffect s fr = frameIn s fr.ect fr.time fr.bytes fr.body := by
  rw [ethFrameEffect, if_pos h, deliverFrame, hs, if_neg (by decide), if_pos hd]

section
variable {ip : BitVec 128} {p : RocePacket} {ect : Bool} {time : Nat} {bytes : List Byte}

/-- R596: a packet for another address, or whose ICRC fails. -/
theorem frameIn_roce_ignored (h : ownIp s ip = false ∨ p.icrcOk = false) : frameIn s ect time bytes (.roce ip p) = s := by
  refine if_pos ?_
  obtain h | h := h <;> rw [h]
  · rfl
  · exact Bool.or_true _

theorem frameIn_roce (hip : ownIp s ip = true) (hc : p.icrcOk = true) (h2 : 2 ≤ p.qpn.toNat) (hn : p.qpn.toNat < 16384) :
    frameIn s ect time bytes (.roce ip p) = engineIn s ect time p :=
  (if_neg (by rw [hip, hc]; decide)).trans (if_pos ⟨h2, hn⟩)

theorem engineIn_unmarked (hk : p.kind ≠ .otherTransport) (hce : p.ce = false) :
    engineIn s false time p = { s with abut := { s.abut with rx := s.abut.rx ++ [{ p with time := time }] } } :=
  (if_neg hk).trans (if_neg (by rw [hce, Bool.false_and]; decide))

end

/-- R597: a datagram is discarded while completion queue 0 is not active. -/
theorem frameIn_other_inactive {ect : Bool} {time : Nat} {bytes : List Byte} (h : (cqOf s 0).active = false) :
    frameIn s ect time bytes (.other false) = rxDiscard s := by
  rw [frameIn, datagram, h]
  · rfl
  · intros; exact EthBody.noConfusion ‹_›
  · intros; exact EthBody.noConfusion ‹_›

/-! ### The link, the grace period and the ingress buffer (R594, R616, R623) -/

theorem exec_abutLinkChange {l : BitVec 2} (hu : unitsOn s = true) (hs : s.abut.link ≠ 0) (hl : l ≠ 0) :
    exec (.abutLinkChange l) s = .next { s with abut := { s.abut with link := l } } := by
  rw [show exec (.abutLinkChange l) s = execAbutLinkChange l s from rfl, execAbutLinkChange, hu, decide_eq_true hs,
    decide_eq_true hl, Bool.and_true, Bool.and_true, onlyIf_true]

theorem exec_forwardGraceEnd {d : Fin 8} {time : Word} (hu : unitsOn s = true) (hm : (d, time) ∈ s.abut.grace)
    (he : elapsed s time 1000000 = true) : exec (.forwardGraceEnd d) s
      = .next { s with abut := { s.abut with grace := s.abut.grace.filter (fun g => decide (g.1 ≠ d)) } } := by
  have hready : graceReady s d = true := by
    rw [graceReady, hu, Bool.true_and]
    exact List.any_eq_true.mpr ⟨_, hm, (Bool.and_eq_true _ _).mpr ⟨decide_eq_true rfl, he⟩⟩
  rw [show exec (.forwardGraceEnd d) s = execForwardGraceEnd d s from rfl, execForwardGraceEnd, hready, onlyIf_true]

/-- R616: the entry that drains next belongs to the highest class that waits. -/
theorem nextIngress_facts (h : s.abut.ingress ≠ []) : ∃ x, nextIngress s = some x ∧ x ∈ s.abut.ingress
    ∧ ((∃ y ∈ s.abut.ingress, y.cls = 3) → x.cls = 3)
    ∧ ((∀ y ∈ s.abut.ingress, y.cls ≠ 3) → (∃ y ∈ s.abut.ingress, y.cls = 2) → x.cls = 2) := by
  have hnone {n : BitVec 3} (hf : s.abut.ingress.find? (fun x => decide (x.cls = n)) = none) : ∀ y ∈ s.abut.ingress, y.cls ≠ n :=
    fun y hy => by simpa using List.find?_eq_none.mp hf y hy
  rw [nextIngress]
  cases h3 : s.abut.ingress.find? (fun x => decide (x.cls = 3)) with
  | some x =>
    have hx : x.cls = 3 := by simpa using List.find?_some h3
    exact ⟨x, rfl, List.mem_of_find?_eq_some h3, fun _ => hx, fun hno => absurd hx (hno x (List.mem_of_find?_eq_some h3))⟩
  | none =>
    cases h2 : s.abut.ingress.find? (fun x => decide (x.cls = 2)) with
    | some x =>
      have hx : x.cls = 2 := by simpa using List.find?_some h2
      exact ⟨x, rfl, List.mem_of_find?_eq_some h2, fun ⟨y, hy, hc⟩ => absurd hc (hnone h3 y hy), fun _ _ => hx⟩
    | none =>
      obtain ⟨x, rest, hl⟩ := List.exists_cons_of_ne_nil h
      refine ⟨x, by rw [hl]; rfl, by rw [hl]; exact List.mem_cons_self, fun ⟨y, hy, hc⟩ => absurd hc (hnone h3 y hy),
        fun _ ⟨y, hy, hc⟩ => absurd hc (hnone h2 y hy)⟩

theorem exec_ingressDrain {x : Ingress} (hu : unitsOn s = true) (h : s.abut.ingress ≠ []) (hx : nextIngress s = some x) :
    exec .ingressDrain s
      = .next { s with abut := { s.abut with ingress := eraseFirst (fun y => decide (y = x)) s.abut.ingress } } := by
  rw [show exec .ingressDrain s = execIngressDrain s from rfl, execIngressDrain, hu, decide_eq_true h, Bool.and_true, onlyIf_true,
    drainIngress, hx]

end

/-- Settles O48: a received frame by what R589 to R597 make of it, the link, the grace period, and the ingress buffer
(`nextIngress_facts`). -/
theorem abutmentTakesFramesAndDrains : Obligations.AbutmentTakesFramesAndDrains := by
  unfold Obligations.AbutmentTakesFramesAndDrains
  intro s hu
  refine ⟨fun fr hl => ?frame, fun l hs hl => ⟨_, exec_abutLinkChange hu hs hl, rfl, abut_touches s _⟩,
    fun d time hm he => ⟨_, exec_forwardGraceEnd hu hm he, rfl, abut_touches s _⟩, fun h => ?drain⟩
  case frame =>
    intro discards
    have hexec := exec_ethFrameReceive (fr := fr) hu hl
    have hdiscards (h : ethFrameEffect s fr = rxDiscard s) : discards :=
      ⟨_, hexec.trans (congrArg _ h), rxDiscard_facts s⟩
    refine ⟨fun h => hdiscards (ethFrameEffect_discards (frameAdmitted_false h)), fun ha hs =>
      ⟨fun hd => ⟨fun hnone => hexec.trans (congrArg _ (ethFrameEffect_passes ha hs hd hnone)),
        fun d hfind => hexec.trans (congrArg _ (ethFrameEffect_forwards ha hs hd hfind))⟩, fun hd => ⟨fun ip p hb => ?_, fun hb hcq => ?_⟩⟩⟩
    · have hown : ethFrameEffect s fr = frameIn s fr.ect fr.time fr.bytes (.roce ip p) := hb ▸ ethFrameEffect_own ha hs hd
      refine ⟨fun h => hexec.trans (congrArg _ (hown.trans (frameIn_roce_ignored h))), fun hip hc h2 hn =>
        ⟨fun hk => hdiscards (hown.trans ((frameIn_roce hip hc h2 hn).trans (if_pos hk))), fun hk hce hect => ?_⟩⟩
      have hin := frameIn_roce (ect := fr.ect) (time := fr.time) (bytes := fr.bytes) hip hc h2 hn
      rw [hect] at hin hown
      exact ⟨_, hexec.trans (congrArg _ (hown.trans (hin.trans (engineIn_unmarked hk hce)))), rfl, abut_touches s _⟩
    · have hown : ethFrameEffect s fr = frameIn s fr.ect fr.time fr.bytes (.other false) := hb ▸ ethFrameEffect_own ha hs hd
      exact hdiscards (hown.trans (frameIn_other_inactive hcq))
  case drain =>
    obtain ⟨x, hx, hmem, h3, h2⟩ := nextIngress_facts h
    exact ⟨_, x, exec_ingressDrain hu h hx, hmem, h3, h2, rfl, abut_touches s _⟩

end Sys2Proof
end

section
/-! PROOFS. Chapter 15, RoCEv2 packets at their queue pair (R596, R603, R606, R610, R615, R618). -/

namespace Sys2Proof

open Machine Laws

section
variable {s : State} {p : RocePacket}

/-! ### The oldest packet as a request (R596) -/

section
variable {again serve : State → Nat → RocePacket → State} (hp : s.abut.rx.head? = some p)
include hp

theorem onRequest_idle (h2 : (qpOf s p.qpn.toNat).state ≠ 2) (h3 : (qpOf s p.qpn.toNat).state ≠ 3) :
    onRequest s again serve = popRx s := by
  rw [onRequest, rxHead, hp]
  exact if_pos ⟨h2, h3⟩

theorem onRequest_due (h : (qpOf s p.qpn.toNat).state = 2 ∨ (qpOf s p.qpn.toNat).state = 3)
    (hpsn : p.psn = (qpOf s p.qpn.toNat).recvPsn) :
    onRequest s again serve = serve (modQp (popRx s) p.qpn.toNat (fun q => { q with gap := false })) p.qpn.toNat p := by
  rw [onRequest, rxHead, hp]
  exact (if_neg (fun ⟨h2, h3⟩ => h.elim h2 h3)).trans (if_pos hpsn)

theorem onRequest_again (h : (qpOf s p.qpn.toNat).state = 2 ∨ (qpOf s p.qpn.toNat).state = 3)
    (hle : psnLe p.psn (qpOf s p.qpn.toNat).recvPsn = true) (hpsn : p.psn ≠ (qpOf s p.qpn.toNat).recvPsn) :
    onRequest s again serve = again (popRx s) p.qpn.toNat p := by
  rw [onRequest, rxHead, hp]
  exact (if_neg (fun ⟨h2, h3⟩ => h.elim h2 h3)).trans ((if_neg hpsn).trans (if_pos hle))

theorem onRequest_early (h : (qpOf s p.qpn.toNat).state = 2 ∨ (qpOf s p.qpn.toNat).state = 3)
    (hle : psnLe p.psn (qpOf s p.qpn.toNat).recvPsn = false) : onRequest s again serve = askMissing (popRx s) p.qpn.toNat := by
  have hpsn : p.psn ≠ (qpOf s p.qpn.toNat).recvPsn := by
    intro heq
    rw [← heq, psnLe, BitVec.sub_self] at hle
    exact absurd hle (by decide)
  rw [onRequest, rxHead, hp]
  exact (if_neg (fun ⟨h2, h3⟩ => h.elim h2 h3)).trans ((if_neg hpsn).trans (if_neg (ne_true_of_eq_false hle)))

end

/-! ### The commands that take a packet -/

section
variable (hu : unitsOn s = true) (hp : s.abut.rx.head? = some p)
include hu hp

theorem rxReady_of {k : RoceKind → Bool} (hk : k p.kind = true) : rxReady s k = true := by
  rw [rxReady, rxHead, hp, hu]
  exact hk

theorem exec_roceSendIn (hk : isSend p.kind = true) :
    exec .roceSendIn s = .next (onRequest s (fun t n _ => ackAgain t n) sendIn) := by
  rw [show exec .roceSendIn s = execRoceSendIn s from rfl, execRoceSendIn, rxReady_of hu hp hk, onlyIf_true]

theorem exec_roceWriteIn (hk : p.kind = .write) :
    exec .roceWriteIn s = .next (onRequest s (fun t n _ => ackAgain t n) (dataIn true)) := by
  rw [show exec .roceWriteIn s = execRoceWriteIn s from rfl, execRoceWriteIn, rxReady_of hu hp (decide_eq_true hk), onlyIf_true]

theorem exec_roceReadIn (hk : p.kind = .readReq) : exec .roceReadIn s = .next (onRequest s serveReadIn readIn) := by
  rw [show exec .roceReadIn s = execRoceReadIn s from rfl, execRoceReadIn, rxReady_of hu hp (decide_eq_true hk), onlyIf_true]

theorem exec_roceResponseIn (hk : isResponse p.kind = true) (hh : responseHeld s = false) :
    exec .roceResponseIn s = .next (responseIn s) := by
  rw [show exec .roceResponseIn s = execRoceResponseIn s from rfl, execRoceResponseIn, rxReady_of hu hp hk, hh, Bool.not_false,
    Bool.and_true, onlyIf_true]

theorem exec_cnpIn (hk : p.kind = .cnp) : exec .cnpIn s = .next (cnpEffect s) := by
  rw [show exec .cnpIn s = execCnpIn s from rfl, execCnpIn, rxReady_of hu hp (decide_eq_true hk), onlyIf_true]

end

/-! ### A packet in its turn (R603, R606, R610, R615) -/

section
variable {w : State} {n : Nat} {b : Bool}

theorem dataIn_full (h : admits w n p = false) : dataIn b w n p = rnrAnswer w n p := if_pos (by rw [h]; rfl)

theorem readIn_full (h : admits w n p = false) : readIn w n p = rnrAnswer w n p := if_pos (by rw [h]; rfl)

theorem sendIn_unsupported (h : p.kind = .unsupported) : sendIn w n p = answer w n (.nak 1) p.psn := if_pos h

theorem sendIn_send (h : p.kind = .send) : sendIn w n p = dataIn false w n p := if_neg (by rw [h]; decide)

section
variable (ha : admits w n p = true) (hq : cqHolds w (qpOf w n) = false)
include ha hq

theorem dataIn_noEntry (hj : joinMsg w n p b = .noEntry) : dataIn b w n p = rnrAnswer w n p := by
  rw [dataIn, ha, hq, if_neg (by simp), hj]

theorem dataIn_send {t : State} {m : InMsg} {e : RecvEntry} (hj : joinMsg w n p false = .msg t m) (hm : m.entry = some e) :
    dataIn false w n p = sendData w t n p m e := by
  rw [dataIn, ha, hq, if_neg (by simp), hj]
  simp only [hm]

theorem dataIn_write {t : State} {m : InMsg} (hj : joinMsg w n p true = .msg t m) : dataIn true w n p = writeData w t n p m := by
  rw [dataIn, ha, hq, if_neg (by simp), hj]

theorem readIn_tooMany (h : 16 ≤ readsHeld w n) : readIn w n p = answer w n (.nak 1) p.psn := by
  rw [readIn, ha, hq, if_neg (by decide), if_pos h]

theorem readIn_serves (h : readsHeld w n < 16) : readIn w n p = serveReadIn (modQp (enterIngress w n p) n
    (fun q => { q with recvPsn := p.psn + BitVec.ofNat 24 (psnCount p.dmaLen.toNat (qpOf w n).mtu) })) n p := by
  rw [readIn, ha, hq, if_neg (by decide), if_neg (Nat.not_le.mpr h)]

end

variable {t : State} {m : InMsg}

theorem sendData_stores {e : RecvEntry} (hl : m.got + p.payload.length ≤ e.len)
    (hr : regionOk t e.lkey ((qpOf t n).fld 0 16) .loc (e.addr + m.got) p.payload.length = true) {v : State}
    (hv : recordInput t 2 n (e.addr + m.got) p.payload = some v) :
    sendData w t n p m e = packetDone (gddrStore (enterIngress v n p) (e.addr + m.got) p.payload) n p m := by
  rw [sendData, if_neg (Nat.not_lt.mpr hl), hr, if_neg (by decide), hv]

theorem sendData_long {e : RecvEntry} (hl : e.len < m.got + p.payload.length) : sendData w t n p m e = entryError t n e 1 1 p :=
  if_pos hl

theorem writeData_refused (hr : regionOk t m.rkey ((qpOf t n).fld 0 16) .rwrite (m.va + m.got) p.payload.length = false) :
    writeData w t n p m = nakError t n 2 p := if_pos (by rw [hr]; rfl)

theorem writeData_stores (hr : regionOk t m.rkey ((qpOf t n).fld 0 16) .rwrite (m.va + m.got) p.payload.length = true) {v : State}
    (hv : recordInput t 1 n (m.va + m.got) p.payload = some v) :
    writeData w t n p m = packetDone (gddrStore (enterIngress v n p) (m.va + m.got) p.payload) n p m := by
  rw [writeData]
  simp only [hr, Bool.not_true, Bool.false_eq_true, if_false, hv]

theorem serveReadIn_refused (hr : regionOk t p.rkey ((qpOf t n).fld 0 16) .rread p.va.toNat p.dmaLen.toNat = false) :
    serveReadIn t n p = nakError t n 2 p := if_pos (by rw [hr]; rfl)

theorem serveReadIn_serves (hr : regionOk t p.rkey ((qpOf t n).fld 0 16) .rread p.va.toNat p.dmaLen.toNat = true)
    (hl : gddrLost t.gddr p.va.toNat p.dmaLen.toNat = none) :
    serveReadIn t n p = roceOutAll t n (readResponses t (qpOf t n) p) := by
  rw [serveReadIn]
  simp only [hr, Bool.not_true, Bool.false_eq_true, if_false, hl]

end

/-! ### Responses and CNPs (R596, R618) -/

theorem responseIn_ignored (hp : s.abut.rx.head? = some p)
    (h : ¬ ((qpOf s p.qpn.toNat).state = 3 ∧ psnOpen (qpOf s p.qpn.toNat) p.psn = true)) : responseIn s = popRx s := by
  rw [responseIn, rxHead, hp]
  exact if_neg h

theorem responseIn_acts (hp : s.abut.rx.head? = some p) (h3 : (qpOf s p.qpn.toNat).state = 3)
    (ho : psnOpen (qpOf s p.qpn.toNat) p.psn = true) : responseIn s = pumpCopies (responseKind (popRx s) p.qpn.toNat p) := by
  rw [responseIn, rxHead, hp]
  exact if_pos ⟨h3, ho⟩

theorem cnpEffect_idle (hp : s.abut.rx.head? = some p) (h2 : (qpOf s p.qpn.toNat).state ≠ 2)
    (h3 : (qpOf s p.qpn.toNat).state ≠ 3) : cnpEffect s = popRx s := by
  rw [cnpEffect, rxHead, hp]
  exact if_pos ⟨h2, h3⟩

/-- The pace of a queue pair after a CNP. -/
def pacedQp (s : State) (q : Qp) : Qp :=
  { q with pace := { (if cnpDue s q.pace then cnpAct s q.pace else q.pace) with tickAt := s.tb.ns } }

theorem modQp_touches (s : State) (n : Nat) (g : Qp → Qp) : Touches [.abut] s (modQp s n g) := abut_touches s _

theorem qpOf_modQp_same (n : Nat) (g : Qp → Qp) (hw : tableWf qpDefault s.abut.qps = true) :
    qpOf (modQp s n g) n = g (qpOf s n) := tget_tset_same _ _ _ _ hw

theorem qpOf_modQp_other {n m : Nat} (g : Qp → Qp) (h : m ≠ n) : qpOf (modQp s n g) m = qpOf s m := tget_tset_other _ _ _ _ _ h

/-- R618: a CNP is counted, and slows its queue pair where congestion control is on. -/
theorem cnpEffect_facts (hp : s.abut.rx.head? = some p) (h : (qpOf s p.qpn.toNat).state = 2 ∨ (qpOf s p.qpn.toNat).state = 3)
    (he : tableWf (entDefault s.build s.dieIndex) s.colo.ent = true) (hw : tableWf qpDefault s.abut.qps = true) :
    let t := cnpEffect s
    let n := p.qpn.toNat
    entN t 0x6030 5 = (entN s 0x6030 5 + 1) % 2 ^ 64 ∧ Touches [.abut, .colo] s t
      ∧ (entN s 0x6020 8 = 0 → t.abut = (popRx s).abut)
      ∧ (entN s 0x6020 8 ≠ 0 → qpOf t n = pacedQp s (qpOf s n) ∧ (∀ m, m ≠ n → qpOf t m = qpOf s m)
        ∧ { t.abut with qps := s.abut.qps } = (popRx s).abut) := by
  intro t n
  let v := bumpEnt (popRx s) 0x6030 5 1 64
  have hv : Touches [.abut, .colo] s v :=
    ((abut_touches s _).mono (by decide)).trans ((bumpEnt_touches (popRx s) 0x6030 5 1 64).mono (by decide))
  have hcount : entN v 0x6030 5 = (entN s 0x6030 5 + 1) % 2 ^ 64 := entN_bumpEnt_same (popRx s) 0x6030 5 1 64 he
  have ht : t = if entN s 0x6020 8 = 0 then v else modQp v n (pacedQp s) := by
    simp only [t, cnpEffect, rxHead, hp]
    exact if_neg (fun ⟨h2, h3⟩ => h.elim h2 h3)
  by_cases hoff : entN s 0x6020 8 = 0
  · rw [if_pos hoff] at ht
    rw [ht]
    exact ⟨hcount, hv, fun _ => rfl, fun hne => absurd hoff hne⟩
  · rw [if_neg hoff] at ht
    rw [ht]
    exact ⟨hcount, hv.trans ((modQp_touches v n _).mono (by decide)), fun h0 => absurd h0 hoff,
      fun _ => ⟨qpOf_modQp_same (s := v) n (pacedQp s) hw, fun m hm => qpOf_modQp_other (s := v) (pacedQp s) hm, rfl⟩⟩

end

/-- Settles O49: requests by their place in the order of PSNs (`onRequest_…`) and by what the responder finds, responses, and
CNPs (`cnpEffect_facts`). -/
theorem rocePacketsReachTheirQueuePair : Obligations.RocePacketsReachTheirQueuePair := by
  unfold Obligations.RocePacketsReachTheirQueuePair
  intro s p hu hp n q u w
  refine ⟨fun c k hc hk => ?request, fun hst hpsn => ?turn, fun hr hh => ?response, fun hk he hw => ?cnp⟩
  case request =>
    obtain ⟨again, serve, hexec, hagain, hfull⟩ : ∃ again serve, exec c s = .next (onRequest s again serve)
        ∧ (k ≠ .readReq → again u n p = ackAgain u n) ∧ (k ≠ .unsupported → admits w n p = false → serve w n p = rnrAnswer w n p) := by
      simp only [List.mem_cons, List.not_mem_nil, or_false, Prod.mk.injEq] at hc
      obtain ⟨rfl, rfl⟩ | ⟨rfl, rfl⟩ | ⟨rfl, rfl⟩ | ⟨rfl, rfl⟩ := hc
      · exact ⟨_, _, exec_roceSendIn hu hp (by rw [hk]; rfl), fun _ => rfl, fun _ h => (sendIn_send hk).trans (dataIn_full h)⟩
      · exact ⟨_, _, exec_roceSendIn hu hp (by rw [hk]; rfl), fun _ => rfl, fun h => absurd rfl h⟩
      · exact ⟨_, _, exec_roceWriteIn hu hp hk, fun _ => rfl, fun _ h => dataIn_full h⟩
      · exact ⟨_, _, exec_roceReadIn hu hp hk, fun h => absurd rfl h, fun _ h => readIn_full h⟩
    refine ⟨fun h2 h3 => hexec.trans (congrArg _ (onRequest_idle hp h2 h3)), fun hst hle => ⟨fun hg => ?_, fun hg => ?_⟩,
      fun hst hle hne hread => hexec.trans (congrArg _ ((onRequest_again hp hst hle hne).trans (hagain hread))),
      fun hst hpsn hk ha => hexec.trans (congrArg _ ((onRequest_due hp hst hpsn).trans (hfull hk ha)))⟩
    · exact hexec.trans (congrArg _ ((onRequest_early hp hst hle).trans (if_pos hg)))
    · exact hexec.trans (congrArg _ ((onRequest_early hp hst hle).trans (if_neg (ne_true_of_eq_false hg))))
  case turn =>
    have hsend (hk : p.kind = .send) : exec .roceSendIn s = .next (dataIn false w n p) :=
      (exec_roceSendIn hu hp (by rw [hk]; rfl)).trans (congrArg _ ((onRequest_due hp hst hpsn).trans (sendIn_send hk)))
    have hwrite (hk : p.kind = .write) : exec .roceWriteIn s = .next (dataIn true w n p) :=
      (exec_roceWriteIn hu hp hk).trans (congrArg _ (onRequest_due hp hst hpsn))
    have hread (hk : p.kind = .readReq) : exec .roceReadIn s = .next (readIn w n p) :=
      (exec_roceReadIn hu hp hk).trans (congrArg _ (onRequest_due hp hst hpsn))
    refine ⟨fun hk => ?_, fun ha hq => ⟨fun hk => ⟨fun t m e hj hm hl hr v hv => ?_, fun t m e hj hm hl => ?_⟩, fun k c hc hk => ?_,
      fun hk t m hj => ⟨fun hr => ?_, fun hr v hv => ?_⟩, fun hk => ⟨fun hh => ?_, fun hh => ?_⟩⟩⟩
    · exact (exec_roceSendIn hu hp (by rw [hk]; rfl)).trans (congrArg _ ((onRequest_due hp hst hpsn).trans (sendIn_unsupported hk)))
    · exact (hsend hk).trans (congrArg _ ((dataIn_send ha hq hj hm).trans (sendData_stores hl hr hv)))
    · exact (hsend hk).trans (congrArg _ ((dataIn_send ha hq hj hm).trans (sendData_long hl)))
    · obtain ⟨rfl, rfl, hj⟩ | ⟨rfl, rfl, hj⟩ := hc
      · exact (hsend hk).trans (congrArg _ (dataIn_noEntry ha hq hj))
      · exact (hwrite hk).trans (congrArg _ (dataIn_noEntry ha hq hj))
    · exact (hwrite hk).trans (congrArg _ ((dataIn_write ha hq hj).trans (writeData_refused hr)))
    · exact (hwrite hk).trans (congrArg _ ((dataIn_write ha hq hj).trans (writeData_stores hr hv)))
    · exact (hread hk).trans (congrArg _ (readIn_tooMany ha hq hh))
    · intro t
      have hexec : exec .roceReadIn s = .next (serveReadIn t n p) := (hread hk).trans (congrArg _ (readIn_serves ha hq hh))
      exact ⟨fun hr => hexec.trans (congrArg _ (serveReadIn_refused hr)),
        fun hr hl => hexec.trans (congrArg _ (serveReadIn_serves hr hl))⟩
  case response =>
    have hexec := exec_roceResponseIn hu hp hr hh
    refine ⟨fun h => hexec.trans (congrArg _ (responseIn_ignored hp h)), fun h3 ho => ?_⟩
    have hkind {r : State} (h : responseKind u n p = r) : exec .roceResponseIn s = .next (pumpCopies r) :=
      hexec.trans (congrArg _ ((responseIn_acts hp h3 ho).trans (congrArg pumpCopies h)))
    refine ⟨fun hk => hkind ?_, fun hk => hkind ?_, fun hk => hkind ?_, fun hk => hkind ?_, fun hk => hkind ?_,
      fun k hk => hkind ?_⟩ <;> rw [responseKind, hk] <;> rfl
  case cnp =>
    have hexec := exec_cnpIn hu hp hk
    exact ⟨fun h2 h3 => hexec.trans (congrArg _ (cnpEffect_idle hp h2 h3)), fun hst => ⟨_, hexec, cnpEffect_facts hp hst he hw⟩⟩

end Sys2Proof
end

section
/-! PROOFS. Chapter 15, the requester: timers, pacing, send entries and RAW frames (R596, R603, R605, R615, R618, R619). -/

namespace Sys2Proof

open Machine Laws

section
variable {s : State} {k : BitVec 14}

/-! ### Timers (R596, R615) -/

theorem exec_ackTimeout (hu : unitsOn s = true) (hst : (qpOf s k.toNat).state = 3) (ho : (qpOf s k.toNat).out ≠ [])
    (hr : (qpOf s k.toNat).rnrTill = none) (hf : (qpOf s k.toNat).fld 104 5 ≠ 0)
    (he : elapsed s (qpOf s k.toNat).ackedAt (4096 * 2 ^ (qpOf s k.toNat).fld 104 5) = true) :
    exec (.ackTimeout k) s = .next (pumpCopies (retry s k.toNat (qpOf s k.toNat).unaPsn)) := by
  have hready : ackTimeoutReady s k.toNat = true := by
    simp only [ackTimeoutReady, hu, decide_eq_true hst, decide_eq_true ho, hr, decide_eq_true hf, he, Option.isNone_none, Bool.and_self]
  rw [show exec (.ackTimeout k) s = execAckTimeout k s from rfl, execAckTimeout, hready, onlyIf_true]

theorem exec_rnrTimer {till : Word} (hu : unitsOn s = true) (hst : (qpOf s k.toNat).state = 3)
    (hr : (qpOf s k.toNat).rnrTill = some till) (ht : till.toNat ≤ s.tb.ns.toNat) :
    exec (.rnrTimer k) s = .next (pumpCopies (rnrRetry s k.toNat)) := by
  have hready : rnrTimerReady s k.toNat = true := by
    simp only [rnrTimerReady, hu, decide_eq_true hst, hr, decide_eq_true ht, Bool.and_self]
  rw [show exec (.rnrTimer k) s = execRnrTimer k s from rfl, execRnrTimer, hready, onlyIf_true]

/-! ### Pacing (R618, R619) -/

/-- A queue pair after a period without CNP. -/
def tickedQp (s : State) (q : Qp) : Qp := { q with pace := ccTick s q.pace }

theorem exec_ccTimer (hu : unitsOn s = true) (hon : entN s 0x6020 8 = 1)
    (hst : (qpOf s k.toNat).state = 2 ∨ (qpOf s k.toNat).state = 3)
    (he : elapsed s (qpOf s k.toNat).pace.tickAt (1000 * entN s 0x6020 10) = true) :
    exec (.ccTimer k) s = .next (modQp s k.toNat (tickedQp s)) := by
  have hrun : (decide ((qpOf s k.toNat).state = 2) || decide ((qpOf s k.toNat).state = 3)) = true := by simpa using hst
  have hready : ccTimerReady s k.toNat = true := by
    simp only [ccTimerReady, hu, decide_eq_true hon, hrun, he, Bool.and_self]
  rw [show exec (.ccTimer k) s = execCcTimer k s from rfl, execCcTimer, hready, onlyIf_true]
  rfl

/-! ### Send entries (R605) -/

theorem fieldN_lt (x lo w : Nat) : fieldN x lo w < 2 ^ w := Nat.mod_lt _ (Nat.two_pow_pos w)

/-- The operation of a message is the entry's. -/
theorem entryMsg_opc (e : Nat) : (entryMsg e).opc.toNat = fieldN e 0 8 := by
  rw [entryMsg, BitVec.toNat_ofNat, Nat.mod_eq_of_lt (fieldN_lt e 0 8)]

theorem sendReady_of {n o : Nat} {p : Nat → Bool} (hu : unitsOn s = true) (hn : 2 ≤ n) (hm : maySend s (qpOf s n) = true)
    (hr : ringUsed (qpOf s n).sq ≠ 0) (ho : sqOpc s n = o) (hp : p o = true)
    (hf : fieldN (sqEntry s n) 9 1 = 0 ∨ (qpOf s n).inReads = 0) (hroom : o = 4 → readRoom (qpOf s n) = true) :
    sendReady s n p = true := by
  have hfence : (decide (fieldN (sqEntry s n) 9 1 = 0) || decide ((qpOf s n).inReads = 0)) = true := by simpa using hf
  have hread : (decide (o ≠ 4) || readRoom (qpOf s n)) = true := by
    by_cases h4 : o = 4
    · rw [hroom h4, Bool.or_true]
    · rw [decide_eq_true h4, Bool.true_or]
  simp only [sendReady, sqReady, entryMayGo, decide_eq_true hn, hu, hm, decide_eq_true hr, ho, hp, hfence, hread, Bool.and_self]

/-- R605: the five operations, and an operation that no row lists. -/
theorem exec_sendEntry {c : Instr} {o : Nat} (hc : (c, o) ∈ [(Instr.send k, 0), (.sendImm k, 1), (.write k, 2), (.writeImm k, 3),
      (.read k, 4), (.send k, 8)]) (hready : ∀ p : Nat → Bool, p o = true → sendReady s k.toNat p = true) :
    exec c s = .next (sendEntry s k.toNat) := by
  simp only [List.mem_cons, List.not_mem_nil, or_false, Prod.mk.injEq] at hc
  obtain ⟨rfl, rfl⟩ | ⟨rfl, rfl⟩ | ⟨rfl, rfl⟩ | ⟨rfl, rfl⟩ | ⟨rfl, rfl⟩ | ⟨rfl, rfl⟩ := hc
  · rw [show exec (.send k) s = execSend k s from rfl, execSend, hready _ (by decide), onlyIf_true]
  · rw [show exec (.sendImm k) s = execSendImm k s from rfl, execSendImm, hready _ (by decide), onlyIf_true]
  · rw [show exec (.write k) s = execWrite k s from rfl, execWrite, hready _ (by decide), onlyIf_true]
  · rw [show exec (.writeImm k) s = execWriteImm k s from rfl, execWriteImm, hready _ (by decide), onlyIf_true]
  · rw [show exec (.read k) s = execRead k s from rfl, execRead, hready _ (by decide), onlyIf_true]
  · rw [show exec (.send k) s = execSend k s from rfl, execSend, hready _ (by decide), onlyIf_true]

theorem sendEntry_eq {n e : Nat} (he : sqEntry s n = e) :
    sendEntry s n = if 4 < (entryMsg e).opc.toNat ∨ localOk s n e (entryMsg e) = false then entryFails (takeSq s n) n (entryMsg e) 7
      else postMsg (takeSq s n) n (entryMsg e) := by
  rw [sendEntry, he]

/-- R605: an entry that can be executed becomes a message. -/
theorem sendEntry_posts {n e : Nat} (he : sqEntry s n = e) (ho : fieldN e 0 8 ≤ 4) (hl : localOk s n e (entryMsg e) = true) :
    sendEntry s n = postMsg (takeSq s n) n (entryMsg e) := by
  rw [sendEntry_eq he, entryMsg_opc, hl, if_neg]
  rintro (h4 | hf)
  · exact absurd ho (Nat.not_le.mpr h4)
  · exact Bool.false_ne_true hf.symm

theorem sendEntry_fails {n e : Nat} (he : sqEntry s n = e) (h : 4 < fieldN e 0 8 ∨ localOk s n e (entryMsg e) = false) :
    sendEntry s n = qpError (sendCompletion (takeSq s n) n (entryMsg e) (some 7)) n 6 := by
  rw [sendEntry_eq he, entryMsg_opc, if_pos h, entryFails]

/-! ### RAW frames (R605, R621) -/

theorem exec_raw (hu : unitsOn s = true) (hm : maySend s (qpOf s 0) = true) (hr : ringUsed (qpOf s 0).sq ≠ 0) :
    exec .raw s = .next (rawEntry s) := by
  rw [show exec .raw s = execRaw s from rfl, execRaw, sqReady, hu, hm, decide_eq_true hr, Bool.and_true, Bool.and_true, onlyIf_true]

theorem rawOpc_iff {e : Nat} : (entryMsg e).opc ≠ 8 ↔ fieldN e 0 8 ≠ 8 := by
  rw [← entryMsg_opc e]
  exact not_congr ⟨fun h => by rw [h]; rfl, fun h => BitVec.eq_of_toNat_eq h⟩

theorem rawEntry_eq {e : Nat} (he : sqEntry s 0 = e) :
    rawEntry s = if (entryMsg e).opc ≠ 8 ∨ localOk s 0 e (entryMsg e) = false then entryFails (takeSq s 0) 0 (entryMsg e) 7
      else if maxFrame < (entryMsg e).len then entryFails (takeSq s 0) 0 (entryMsg e) 1
      else rawSent (ethToPort (takeSq s 0) (decide (fieldN e 10 1 = 1)) s.abut.nextTag
        (gddrBytesAt s.gddr (entryMsg e).laddr (entryMsg e).len)) (entryMsg e) (decide (fieldN e 10 1 = 1)) := by
  rw [rawEntry, he]

theorem rawEntry_fails {e : Nat} (he : sqEntry s 0 = e) (h : fieldN e 0 8 ≠ 8 ∨ localOk s 0 e (entryMsg e) = false) :
    rawEntry s = qpError (sendCompletion (takeSq s 0) 0 (entryMsg e) (some 7)) 0 6 := by
  rw [rawEntry_eq he, if_pos (h.imp_left rawOpc_iff.mpr), entryFails]

theorem rawEntry_legal {e : Nat} (he : sqEntry s 0 = e) (h8 : fieldN e 0 8 = 8) (hl : localOk s 0 e (entryMsg e) = true) :
    rawEntry s = if maxFrame < (entryMsg e).len then entryFails (takeSq s 0) 0 (entryMsg e) 1
      else rawSent (ethToPort (takeSq s 0) (decide (fieldN e 10 1 = 1)) s.abut.nextTag
        (gddrBytesAt s.gddr (entryMsg e).laddr (entryMsg e).len)) (entryMsg e) (decide (fieldN e 10 1 = 1)) := by
  rw [rawEntry_eq he, hl]
  refine if_neg ?_
  rintro (h | hf)
  · exact rawOpc_iff.mp h h8
  · exact Bool.false_ne_true hf.symm

theorem rawEntry_long {e : Nat} (he : sqEntry s 0 = e) (h8 : fieldN e 0 8 = 8) (hl : localOk s 0 e (entryMsg e) = true)
    (hn : 4220 < (entryMsg e).len) : rawEntry s = qpError (sendCompletion (takeSq s 0) 0 (entryMsg e) (some 1)) 0 6 := by
  rw [rawEntry_legal he h8 hl, if_pos (show maxFrame < _ from hn), entryFails]

/-- R593, R605: a frame leaves the wired port. -/
theorem ethToPort_up {b : Bool} {tag : BitVec 32} {bs : List Byte} (h : s.abut.link = 3) :
    ethToPort s b tag bs = emit s (.ethRaw s.span.dieId b tag bs) := if_pos h

/-- R605: a legal RAW frame leaves the wired port. -/
theorem rawEntry_sent {e : Nat} (he : sqEntry s 0 = e) (h8 : fieldN e 0 8 = 8) (hl : localOk s 0 e (entryMsg e) = true)
    (hn : (entryMsg e).len ≤ 4220) (hlink : s.abut.link = 3) :
    rawEntry s = rawSent (emit (takeSq s 0) (.ethRaw s.span.dieId (decide (fieldN e 10 1 = 1)) s.abut.nextTag
      (gddrBytesAt s.gddr (entryMsg e).laddr (entryMsg e).len))) (entryMsg e) (decide (fieldN e 10 1 = 1)) := by
  rw [rawEntry_legal he h8 hl, if_neg (show ¬ maxFrame < _ from Nat.not_lt.mpr hn), ethToPort_up (s := takeSq s 0) hlink]
  rfl

theorem rawSent_silent {m : OutMsg} {b : Bool} (h : m.sig = false) : rawSent s m b = s := by
  rw [rawSent, h]
  rfl

theorem rawSent_stamped {m : OutMsg} (h : m.sig = true) (hlink : s.abut.link = 3) :
    rawSent s m true = complete s (qpOf s 0).sqcq (rawCompletion m.wrid m.len s.tb.ns.toNat) := by
  rw [rawSent, h, if_neg (by decide), decide_eq_true hlink, Bool.and_true, if_pos rfl]

end

/-- Settles O50: the timers, pacing, and the send entries of a queue pair, each by what R596 and R605 make of it. -/
theorem requestersSendAndRetry : Obligations.RequestersSendAndRetry := by
  unfold Obligations.RequestersSendAndRetry
  intro k s hu n q
  refine ⟨fun hst ho hr hf he => ⟨fun h => ?retries, fun h => ?ends⟩, fun till hst hr ht => ⟨fun h => ?rnr, fun h7 h => ?rnrEnds⟩,
    fun hon hst he hw => ?pace, fun c o hc hn hm hr => ?send, fun hm hr => ?raw⟩
  case retries => exact (exec_ackTimeout hu hst ho hr hf he).trans (congrArg _ (congrArg pumpCopies (if_neg (Nat.not_le.mpr h))))
  case ends => exact (exec_ackTimeout hu hst ho hr hf he).trans (congrArg _ (congrArg pumpCopies (if_pos h)))
  case rnr =>
    have hmore : ¬ (q.fld 112 3 ≠ 7 ∧ q.fld 112 3 ≤ q.rnrs) := fun ⟨h7, hle⟩ => h.elim h7 (Nat.not_lt.mpr hle)
    exact (exec_rnrTimer hu hst hr ht).trans (congrArg _ (congrArg pumpCopies (if_neg hmore)))
  case rnrEnds => exact (exec_rnrTimer hu hst hr ht).trans (congrArg _ (congrArg pumpCopies (if_pos ⟨h7, h⟩)))
  case pace =>
    have hsame : qpOf (modQp s n (tickedQp s)) n = tickedQp s q := qpOf_modQp_same n _ hw
    refine ⟨_, exec_ccTimer hu hon hst he, modQp_touches s n _, ?_, ?_, fun h5 => ?_, ?_, fun m hm => qpOf_modQp_other _ hm, rfl⟩ <;>
      rw [hsame]
    · rfl
    · rfl
    · exact if_pos h5
    · rfl
  case send =>
    intro e m ho hf hroom u
    have hexec := exec_sendEntry hc (fun p hp => sendReady_of hu hn hm hr ho hp hf hroom)
    exact ⟨fun h4 hl => hexec.trans (congrArg _ (sendEntry_posts rfl (ho.symm ▸ h4) hl)),
      fun h => hexec.trans (congrArg _ (sendEntry_fails rfl (ho.symm ▸ h)))⟩
  case raw =>
    intro e m u
    have hexec := exec_raw hu hm hr
    refine ⟨fun h => hexec.trans (congrArg _ (rawEntry_fails rfl h)), fun h8 hl hlen => hexec.trans (congrArg _ (rawEntry_long rfl h8 hl hlen)),
      fun h8 hl hlen hlink => ?_⟩
    have hsent := hexec.trans (congrArg _ (rawEntry_sent rfl h8 hl hlen hlink))
    refine ⟨fun hs => ?_, fun hs ht => ?_⟩
    · refine ⟨_, hsent.trans (congrArg _ (rawSent_silent hs)), rfl, ?_, rfl⟩
      exact ((modQp_touches s 0 _).mono (by decide)).trans ((emit_touches _ _).mono (by decide))
    · rw [show decide (fieldN (sqEntry s 0) 10 1 = 1) = true from decide_eq_true ht] at hsent
      exact hsent.trans (congrArg _ (rawSent_stamped hs hlink))

end Sys2Proof
end

section
/-! PROOFS. Chapter 15, object commands and doorbells (R597, R599, R601 to R604). -/

namespace Sys2Proof

open Machine Laws

section
variable {s : State} {v : Word}

/-! ### ABUT.OBJ_CMD (R601) -/

/-- The fields of OBJ_CMD after a write. -/
def writtenCmd (v : Word) (c : ObjCmd) : ObjCmd :=
  { c with
    num := BitVec.ofNat 14 (field v 0 14), obj := BitVec.ofNat 2 (field v 14 2), target := BitVec.ofNat 3 (field v 16 3)
    done := w1c c.done v 21, refused := w1c c.refused v 22 }

theorem modCmd_touches (s : State) (g : ObjCmd → ObjCmd) : Touches [.abut] s (modCmd s g) := abut_touches s _

theorem exec_objCmd {c : Instr} {o : Nat} (hc : (c, o) ∈ [(Instr.qpStateCmd v, 0), (.cqStateCmd v, 1), (.srqStateCmd v, 2)])
    (hu : unitsOn s = true) (hv : bit v 19 = true) (ho : field v 14 2 = o) : exec c s = .next (writeObjCmd s v) := by
  have hready : objReady s v o = true := by rw [objReady, hu, hv, decide_eq_true ho]; rfl
  simp only [List.mem_cons, List.not_mem_nil, or_false, Prod.mk.injEq] at hc
  obtain ⟨rfl, rfl⟩ | ⟨rfl, rfl⟩ | ⟨rfl, rfl⟩ := hc
  · rw [show exec (.qpStateCmd v) s = execQpStateCmd v s from rfl, execQpStateCmd, hready, onlyIf_true]
  · rw [show exec (.cqStateCmd v) s = execCqStateCmd v s from rfl, execCqStateCmd, hready, onlyIf_true]
  · rw [show exec (.srqStateCmd v) s = execSrqStateCmd v s from rfl, execSrqStateCmd, hready, onlyIf_true]

theorem writeObjCmd_does {w : State} (hv : bit v 19 = true)
    (hw : objCommand (modCmd s (writtenCmd v)) (field v 0 14) (field v 14 2) (field v 16 3) = .inr w) :
    writeObjCmd s v = pumpCopies (modCmd w (fun c => { c with done := true })) := by
  rw [writeObjCmd, if_pos hv, show (modCmd s fun c => { c with
    num := BitVec.ofNat 14 (field v 0 14), obj := BitVec.ofNat 2 (field v 14 2), target := BitVec.ofNat 3 (field v 16 3)
    done := w1c c.done v 21, refused := w1c c.refused v 22 }) = modCmd s (writtenCmd v) from rfl, hw]

theorem writeObjCmd_refuses {r : ObjRefusal} (hv : bit v 19 = true)
    (hw : objCommand (modCmd s (writtenCmd v)) (field v 0 14) (field v 14 2) (field v 16 3) = .inl r) :
    writeObjCmd s v = modCmd (modCmd s (writtenCmd v)) (fun c => { c with refused := true, rsn := r.code }) := by
  rw [writeObjCmd, if_pos hv, show (modCmd s fun c => { c with
    num := BitVec.ofNat 14 (field v 0 14), obj := BitVec.ofNat 2 (field v 14 2), target := BitVec.ofNat 3 (field v 16 3)
    done := w1c c.done v 21, refused := w1c c.refused v 22 }) = modCmd s (writtenCmd v) from rfl, hw]

/-! ### Queue pairs (R602, R603) -/

section
variable {n k : Nat} (hn : 2 ≤ n) (hb : objBase s 0 ≠ 0)
include hn hb

/-- A command for a Reliable Connected queue pair once the table is set. -/
theorem objCommand_qp : objCommand s n 0 k = qpTransition s n k := by
  rw [objCommand, if_pos rfl, qpCommand, if_neg (by omega), if_neg hb, if_neg (by omega)]

theorem objCommand_qp_reset : objCommand s n 0 0 = .inr (resetQp s n) := by
  rw [objCommand_qp hn hb, qpTransition, if_pos rfl]

theorem objCommand_qp_error : objCommand s n 0 4 = .inr (qpError s n 6) := by
  rw [objCommand_qp hn hb, qpTransition, if_neg (by decide), if_pos rfl]

theorem objCommand_qp_init (hq : (qpOf s n).state = 0) (hc : ctxOk s (qpContext s n).toNat = true) :
    objCommand s n 0 1 = .inr (modQp s n (fun _ => loadQp (qpContext s n) 1)) := by
  rw [objCommand_qp hn hb, qpTransition, if_neg (by decide), if_neg (by decide), if_pos (by rw [hq]; rfl), if_pos rfl, if_pos hc]

theorem objCommand_qp_context (hq : (qpOf s n).state = 0) (hc : ctxOk s (qpContext s n).toNat = false) :
    objCommand s n 0 1 = .inl .context := by
  rw [objCommand_qp hn hb, qpTransition, if_neg (by decide), if_neg (by decide), if_pos (by rw [hq]; rfl), if_pos rfl,
    if_neg (ne_true_of_eq_false hc)]

theorem objCommand_qp_next (hk : k = 2 ∨ k = 3) (hq : k = (qpOf s n).state.toNat + 1) :
    objCommand s n 0 k = .inr (modQp s n (fun q => { q with
      state := BitVec.ofNat 3 k, ackedAt := s.tb.ns, pace := { q.pace with tickAt := s.tb.ns } })) := by
  rw [objCommand_qp hn hb, qpTransition, if_neg (by omega), if_neg (by omega), if_pos hq, if_neg (by omega)]

theorem objCommand_qp_transition (h0 : k ≠ 0) (h4 : k ≠ 4) (hq : k ≠ (qpOf s n).state.toNat + 1) :
    objCommand s n 0 k = .inl .transition := by
  rw [objCommand_qp hn hb, qpTransition, if_neg h0, if_neg h4, if_neg hq]

end

theorem objCommand_qp1 {k : Nat} : objCommand s 1 0 k = .inl .context := by
  rw [objCommand, if_pos rfl, qpCommand, if_pos rfl]

theorem objCommand_qp_notable {n k : Nat} (hn : n ≠ 1) (hb : objBase s 0 = 0) : objCommand s n 0 k = .inl .notable := by
  rw [objCommand, if_pos rfl, qpCommand, if_neg hn, if_pos hb]

/-! ### Completion queues and shared receive queues (R597, R599) -/

section
variable {n k : Nat}

theorem objCommand_cq : objCommand s n 1 k = cqCommand s n k := by
  rw [objCommand, if_neg (by decide), if_pos rfl]

theorem objCommand_srq : objCommand s n 2 k = srqCommand s n k := by
  rw [objCommand, if_neg (by decide), if_neg (by decide), if_pos rfl]

theorem cqCommand_number (h : 4096 ≤ n) : cqCommand s n k = .inl .context := by rw [cqCommand, if_pos h]

theorem cqCommand_notable (h : n < 4096) (hb : objBase s 1 = 0) : cqCommand s n k = .inl .notable := by
  rw [cqCommand, if_neg (Nat.not_le.mpr h), if_pos hb]

section
variable (h : n < 4096) (hb : objBase s 1 ≠ 0)
include h hb

theorem cqCommand_named (hq : qpNames s (fun q => decide (q.sqcq = n) || decide (q.rqcq = n)) = true) :
    cqCommand s n 0 = .inl .context := by
  rw [cqCommand, if_neg (Nat.not_le.mpr h), if_neg hb, if_pos rfl, if_pos hq]

theorem cqCommand_drops (hq : qpNames s (fun q => decide (q.sqcq = n) || decide (q.rqcq = n)) = false) :
    cqCommand s n 0 = .inr (modCq s n (fun _ => cqDefault n)) := by
  rw [cqCommand, if_neg (Nat.not_le.mpr h), if_neg hb, if_pos rfl, if_neg (ne_true_of_eq_false hq)]

theorem cqCommand_activates {e : Nat} (he : gddrNat s (objBase s 1 + 32 * n) 32 = e) (ha : (cqOf s n).active = false)
    (hr : ringReservedZero (fieldN e 0 128) = true) (hz : fieldN e 128 128 = 0) :
    cqCommand s n 1 = .inr (modCq s n (fun _ => ⟨true, ringOf (fieldN e 0 128), false, []⟩)) := by
  rw [cqCommand, he, if_neg (Nat.not_le.mpr h), if_neg hb, if_neg (by decide), if_pos ⟨rfl, ha⟩,
    if_pos ((Bool.and_eq_true _ _).mpr ⟨hr, decide_eq_true hz⟩)]

theorem cqCommand_transition (hk : 1 < k ∨ k = 1 ∧ (cqOf s n).active = true) : cqCommand s n k = .inl .transition := by
  have hno : ¬ (k = 1 ∧ (cqOf s n).active = false) := fun ⟨h1, hf⟩ =>
    hk.elim (fun hlt => absurd h1 (Nat.ne_of_gt hlt)) (fun ⟨_, ht⟩ => Bool.false_ne_true (hf.symm.trans ht))
  rw [cqCommand, if_neg (Nat.not_le.mpr h), if_neg hb, if_neg (by omega), if_neg hno]

end

theorem srqCommand_number (h : 1024 ≤ n) : srqCommand s n k = .inl .context := by rw [srqCommand, if_pos h]

theorem srqCommand_notable (h : n < 1024) (hb : objBase s 2 = 0) : srqCommand s n k = .inl .notable := by
  rw [srqCommand, if_neg (Nat.not_le.mpr h), if_pos hb]

section
variable (h : n < 1024) (hb : objBase s 2 ≠ 0)
include h hb

theorem srqCommand_drops (hq : qpNames s (fun q => decide (q.fld 19 1 = 1) && decide (q.fld 152 10 = n)) = false) :
    srqCommand s n 0 = .inr (modSrq s n (fun _ => srqDefault n)) := by
  rw [srqCommand, if_neg (Nat.not_le.mpr h), if_neg hb, if_pos rfl, if_neg (ne_true_of_eq_false hq)]

theorem srqCommand_activates {e : Nat} (he : gddrNat s (objBase s 2 + 32 * n) 32 = e) (ha : (srqOf s n).active = false)
    (hr : ringReservedZero (fieldN e 0 128) = true) (hz : fieldN e 144 112 = 0) :
    srqCommand s n 1 = .inr (modSrq s n (fun _ => ⟨true, ringOf (fieldN e 0 128), BitVec.ofNat 16 (fieldN e 128 16)⟩)) := by
  rw [srqCommand, he, if_neg (Nat.not_le.mpr h), if_neg hb, if_neg (by decide), if_pos ⟨rfl, ha⟩,
    if_pos ((Bool.and_eq_true _ _).mpr ⟨hr, decide_eq_true hz⟩)]

theorem srqCommand_transition (hk : 1 < k ∨ k = 1 ∧ (srqOf s n).active = true) : srqCommand s n k = .inl .transition := by
  have hno : ¬ (k = 1 ∧ (srqOf s n).active = false) := fun ⟨h1, hf⟩ =>
    hk.elim (fun hlt => absurd h1 (Nat.ne_of_gt hlt)) (fun ⟨_, ht⟩ => Bool.false_ne_true (hf.symm.trans ht))
  rw [srqCommand, if_neg (Nat.not_le.mpr h), if_neg hb, if_neg (by omega), if_neg hno]

end

end

/-! ### ABUT.DOORBELL (R604) -/

theorem exec_doorbell {c : Instr} {o : Nat} (hc : (c, o) ∈ [(Instr.sqDoorbell v, 0), (.rqDoorbell v, 1), (.srqDoorbell v, 2), (.cqDoorbell v, 3)])
    (hu : unitsOn s = true) (ho : field v 14 2 = o) : exec c s = .next (writeDoorbell s v) := by
  have hready : bellReady s v o = true := by rw [bellReady, hu, decide_eq_true ho]; rfl
  simp only [List.mem_cons, List.not_mem_nil, or_false, Prod.mk.injEq] at hc
  obtain ⟨rfl, rfl⟩ | ⟨rfl, rfl⟩ | ⟨rfl, rfl⟩ | ⟨rfl, rfl⟩ := hc
  · rw [show exec (.sqDoorbell v) s = execSqDoorbell v s from rfl, execSqDoorbell, hready, onlyIf_true]
  · rw [show exec (.rqDoorbell v) s = execRqDoorbell v s from rfl, execRqDoorbell, hready, onlyIf_true]
  · rw [show exec (.srqDoorbell v) s = execSrqDoorbell v s from rfl, execSrqDoorbell, hready, onlyIf_true]
  · rw [show exec (.cqDoorbell v) s = execCqDoorbell v s from rfl, execCqDoorbell, hready, onlyIf_true]

/-- R604: a discarded doorbell is counted. -/
theorem doorbellError_facts (s : State) : Touches [.colo] s (doorbellError s)
    ∧ (tableWf (entDefault s.build s.dieIndex) s.colo.ent = true → entN (doorbellError s) 0x6030 6 = (entN s 0x6030 6 + 1) % 2 ^ 32) :=
  ⟨bumpEnt_touches s _ _ _ _, entN_bumpEnt_same s _ _ _ _⟩

section
variable {n : Nat} {x : BitVec 24}

theorem ringSq_sets (h1 : n ≠ 1) (h0 : (qpOf s n).state ≠ 0) (h4 : (qpOf s n).state ≠ 4) (hp : prodOk (qpOf s n).sq x = true) :
    ringSq s n x = modQp s n (fun q => { q with sq := { q.sq with prod := x } }) := by
  rw [ringSq, if_pos ⟨h1, h0, hp⟩, if_neg h4]

theorem ringSq_discards (h : n = 1 ∨ (qpOf s n).state = 0 ∨ prodOk (qpOf s n).sq x = false) : ringSq s n x = doorbellError s :=
  if_neg (fun ⟨h1, h0, hp⟩ => h.elim h1 (fun h => h.elim h0 (fun hf => Bool.false_ne_true (hf.symm.trans hp))))

theorem ringRq_sets (h2 : 2 ≤ n) (h0 : (qpOf s n).state ≠ 0) (h4 : (qpOf s n).state ≠ 4) (hs : (qpOf s n).fld 19 1 = 0)
    (hp : prodOk (qpOf s n).rq x = true) : ringRq s n x = modQp s n (fun q => { q with rq := { q.rq with prod := x } }) := by
  rw [ringRq, if_pos ⟨h2, h0, hs, hp⟩, if_neg h4]

theorem ringRq_discards (h : n < 2 ∨ (qpOf s n).state = 0 ∨ (qpOf s n).fld 19 1 = 1 ∨ prodOk (qpOf s n).rq x = false) :
    ringRq s n x = doorbellError s := by
  refine if_neg (fun ⟨h2, h0, hs, hp⟩ => ?_)
  obtain h | h | h | h := h
  · exact absurd h2 (Nat.not_le.mpr h)
  · exact h0 h
  · rw [h] at hs; exact absurd hs (by decide)
  · exact Bool.false_ne_true (h.symm.trans hp)

theorem not_both {a b : Bool} (h : a = false ∨ b = false) : ¬ (a && b) = true := by
  rw [Bool.and_eq_true]
  rintro ⟨rfl, rfl⟩
  exact h.elim Bool.noConfusion Bool.noConfusion

theorem ringSrq_sets (ha : (srqOf s n).active = true) (hp : prodOk (srqOf s n).ring x = true) :
    ringSrq s n x = modSrq s n (fun q => { q with ring := { q.ring with prod := x } }) := if_pos (by rw [ha, hp]; rfl)

theorem ringSrq_discards (h : (srqOf s n).active = false ∨ prodOk (srqOf s n).ring x = false) : ringSrq s n x = doorbellError s :=
  if_neg (not_both h)

theorem ringCq_sets {b : Bool} (ha : (cqOf s n).active = true) (hp : consOk (cqOf s n).ring x = true) (hw : (cqOf s n).wait = []) :
    ringCq s n x b = pumpCopies (modCq s n (fun q => { q with ring := { q.ring with cons := x }, armed := q.armed || b })) := by
  rw [ringCq, ha, hp, hw]
  rfl

theorem ringCq_discards {b : Bool} (h : (cqOf s n).active = false ∨ consOk (cqOf s n).ring x = false) :
    ringCq s n x b = doorbellError s :=
  if_neg (not_both h)

end

end

/-- Settles O51: each object command by its object (`objCommand_qp…`, `cqCommand_…`, `srqCommand_…`), and each doorbell by its
ring. -/
theorem objectsAndDoorbellsAct : Obligations.ObjectsAndDoorbellsAct := by
  unfold Obligations.ObjectsAndDoorbellsAct
  intro v s hu n
  refine ⟨fun hv => ?command, ?bell⟩
  case command =>
    intro c1 u refuses does k
    have hdoes {c : Instr} {o : Nat} {w : State} (hc : (c, o) ∈ [(Instr.qpStateCmd v, 0), (.cqStateCmd v, 1), (.srqStateCmd v, 2)])
        (ho : field v 14 2 = o) (hw : objCommand u n o k = .inr w) : does c w :=
      (exec_objCmd hc hu hv ho).trans (congrArg _ (writeObjCmd_does hv (ho ▸ hw)))
    have hrefuses {c : Instr} {o : Nat} (r : ObjRefusal)
        (hc : (c, o) ∈ [(Instr.qpStateCmd v, 0), (.cqStateCmd v, 1), (.srqStateCmd v, 2)]) (ho : field v 14 2 = o)
        (hw : objCommand u n o k = .inl r) : refuses c r.code :=
      ⟨_, (exec_objCmd hc hu hv ho).trans (congrArg _ (writeObjCmd_refuses hv (ho ▸ hw))), rfl,
        (modCmd_touches s _).trans (modCmd_touches _ _)⟩
    refine ⟨fun ho => ?qp, fun ho => ?cq, fun ho => ?srq⟩
    case qp =>
      intro q
      have hc : (Instr.qpStateCmd v, 0) ∈ [(Instr.qpStateCmd v, 0), (.cqStateCmd v, 1), (.srqStateCmd v, 2)] := by simp
      refine ⟨fun hn => hrefuses .context hc ho ?_, fun hn hb => hrefuses .notable hc ho (objCommand_qp_notable hn hb), fun hn hb =>
        ⟨fun hk => hdoes hc ho ?_, fun hk => hdoes hc ho ?_, fun hk hq hx => hdoes hc ho ?_, fun hk hq hx => hrefuses .context hc ho ?_,
          fun hk hq => hdoes hc ho (objCommand_qp_next (s := u) hn hb hk hq),
          fun h0 h4 hq => hrefuses .transition hc ho (objCommand_qp_transition (s := u) hn hb h0 h4 hq)⟩⟩
      · rw [show n = 1 from hn]; exact objCommand_qp1
      · rw [hk]; exact objCommand_qp_reset hn hb
      · rw [hk]; exact objCommand_qp_error hn hb
      · rw [hk]; exact objCommand_qp_init (s := u) hn hb hq hx
      · rw [hk]; exact objCommand_qp_context (s := u) hn hb hq hx
    case cq =>
      intro e
      have hc : (Instr.cqStateCmd v, 1) ∈ [(Instr.qpStateCmd v, 0), (.cqStateCmd v, 1), (.srqStateCmd v, 2)] := by simp
      refine ⟨fun hn => hrefuses .context hc ho (objCommand_cq.trans (cqCommand_number hn)), fun hn hb =>
        hrefuses .notable hc ho (objCommand_cq.trans (cqCommand_notable hn hb)), fun hn hb =>
        ⟨fun hk hq => hrefuses .context hc ho ?_, fun hk hq => hdoes hc ho ?_, fun hk ha hr hz => hdoes hc ho ?_, fun hk =>
          hrefuses .transition hc ho (objCommand_cq.trans (cqCommand_transition (s := u) hn hb hk))⟩⟩
      · rw [hk]; exact objCommand_cq.trans (cqCommand_named (s := u) hn hb hq)
      · rw [hk]; exact objCommand_cq.trans (cqCommand_drops (s := u) hn hb hq)
      · rw [hk]; exact objCommand_cq.trans (cqCommand_activates (s := u) hn hb rfl ha hr hz)
    case srq =>
      intro e
      have hc : (Instr.srqStateCmd v, 2) ∈ [(Instr.qpStateCmd v, 0), (.cqStateCmd v, 1), (.srqStateCmd v, 2)] := by simp
      refine ⟨fun hn => hrefuses .context hc ho (objCommand_srq.trans (srqCommand_number hn)), fun hn hb =>
        hrefuses .notable hc ho (objCommand_srq.trans (srqCommand_notable hn hb)), fun hn hb =>
        ⟨fun hk hq => hdoes hc ho ?_, fun hk ha hr hz => hdoes hc ho ?_, fun hk =>
          hrefuses .transition hc ho (objCommand_srq.trans (srqCommand_transition (s := u) hn hb hk))⟩⟩
      · rw [hk]; exact objCommand_srq.trans (srqCommand_drops (s := u) hn hb hq)
      · rw [hk]; exact objCommand_srq.trans (srqCommand_activates (s := u) hn hb rfl ha hr hz)
  case bell =>
    intro x q discards
    have hbell {c : Instr} {o : Nat} {w : State}
        (hc : (c, o) ∈ [(Instr.sqDoorbell v, 0), (.rqDoorbell v, 1), (.srqDoorbell v, 2), (.cqDoorbell v, 3)])
        (ho : field v 14 2 = o) (hw : writeDoorbell s v = w) : exec c s = .next w :=
      (exec_doorbell hc hu ho).trans (congrArg _ hw)
    have hdiscards {c : Instr} (h : exec c s = .next (doorbellError s)) : discards c := ⟨_, h, doorbellError_facts s⟩
    refine ⟨fun ho => ?sq, fun ho => ?rq, fun ho => ?srq, fun ho => ?cq⟩
    case sq =>
      have hw : writeDoorbell s v = ringSq s n x := if_pos ho
      exact ⟨fun h1 h0 h4 hp => hbell (by simp) ho (hw.trans (ringSq_sets h1 h0 h4 hp)),
        fun h => hdiscards (hbell (by simp) ho (hw.trans (ringSq_discards h)))⟩
    case rq =>
      have hw : writeDoorbell s v = ringRq s n x := (if_neg (by rw [ho]; decide)).trans (if_pos ho)
      exact ⟨fun h2 h0 h4 hs hp => hbell (by simp) ho (hw.trans (ringRq_sets h2 h0 h4 hs hp)),
        fun h => hdiscards (hbell (by simp) ho (hw.trans (ringRq_discards h)))⟩
    case srq =>
      have hw : writeDoorbell s v = ringSrq s n x :=
        (if_neg (by rw [ho]; decide)).trans ((if_neg (by rw [ho]; decide)).trans (if_pos ho))
      exact ⟨fun ha hp => hbell (by simp) ho (hw.trans (ringSrq_sets ha hp)),
        fun h => hdiscards (hbell (by simp) ho (hw.trans (ringSrq_discards h)))⟩
    case cq =>
      have hw : writeDoorbell s v = ringCq s n x (bit v 40) :=
        (if_neg (by rw [ho]; decide)).trans ((if_neg (by rw [ho]; decide)).trans (if_neg (by rw [ho]; decide)))
      exact ⟨fun ha hp hwait => hbell (by simp) ho (hw.trans (ringCq_sets ha hp hwait)),
        fun h => hdiscards (hbell (by simp) ho (hw.trans (ringCq_discards h)))⟩

end Sys2Proof
end

section
/-! PROOFS. Chapter 16, the life of a hosted service (R632 to R634, R640, R642 to R646, R658 to R660). -/

namespace Sys2Proof

open Machine Laws

section
variable {s : State} {i : Fin 64}

/-! ### One service -/

/-- Service i is set to a value, and the other services stay. -/
structure SvcIs (i : Fin 64) (x : Svc) (s t : State) : Prop where
  same : t.svc[i] = x
  other : ∀ k, k ≠ i → t.svc[k] = s.svc[k]

theorem svc_congr {t : State} (h : t.svc = s.svc) (k : Fin 64) : t.svc[k] = s.svc[k] := by rw [h]

theorem modSvc_touches (s : State) (i : Fin 64) (g : Svc → Svc) : Touches [.svc] s (modSvc s i g) :=
  modSvc_touch s i g (by decide) (Touches.refl _ s)

/-- A change of service i after steps that keep the services. -/
theorem modSvc_is {u : State} (g : Svc → Svc) (h : u.svc = s.svc) : SvcIs i (g s.svc[i]) s (modSvc u i g) := by
  refine ⟨?_, fun k hk => ?_⟩
  · rw [← svc_congr h i]; exact vmod_get_same _ _ _
  · rw [← svc_congr h k]; exact vmod_get_other _ _ _ _ hk

theorem SvcIs.of_svc {x : Svc} {t u : State} (h : SvcIs i x s t) (hu : u.svc = t.svc) : SvcIs i x s u :=
  ⟨(svc_congr hu i).trans h.same, fun k hk => (svc_congr hu k).trans (h.other k hk)⟩

theorem SvcIs.from {x : Svc} {t u : State} (hs : ∀ k, k ≠ i → t.svc[k] = s.svc[k]) (h : SvcIs i x t u) : SvcIs i x s u :=
  ⟨h.same, fun k hk => (h.other k hk).trans (hs k hk)⟩

theorem modSvc_modSvc (s : State) (i : Fin 64) (f g : Svc → Svc) : modSvc (modSvc s i f) i g = modSvc s i (fun x => g (f x)) :=
  congrArg (fun v => { s with svc := v }) (vmod_vmod _ _ _ _)

/-- What answers and counters of a service change. -/
theorem answerReq_touches (s : State) (i : Fin 64) (r : Req) (st : ReqStatus) (body : List Byte) :
    Touches [.free, .out, .colo] s (answerReq s i r st body) :=
  answerReq_touch s i r st body (by decide) (by decide) (by decide) (Touches.refl _ s)

theorem bumpSvc_touches (s : State) (i : Fin 64) (k n w : Nat) : Touches [.colo] s (bumpSvc s i k n w) :=
  bumpEnt_touches s _ _ _ _

/-! ### Starting, stopping and draining (R632 to R634) -/

theorem exec_svcStart (hu : unitsOn s = true) (h : s.svc[i].state = 0) :
    exec (.svcStart i) s = .next (modSvc s i (fun _ => { Svc.reset with state := 1 })) := by
  rw [show exec (.svcStart i) s = execSvcStart i s from rfl, execSvcStart, hu,
    show svcStartOk s i = true from decide_eq_true h, Bool.and_true, onlyIf_true]
  rfl

theorem exec_svcStop (hu : unitsOn s = true) (h : s.svc[i].state = 2 ∨ s.svc[i].state = 4) :
    exec (.svcStop i) s = .next (svcStop s i) := by
  have hok : svcStopOk s i = true := by
    rw [svcStopOk, Bool.or_eq_true, decide_eq_true_iff, decide_eq_true_iff]
    exact h
  rw [show exec (.svcStop i) s = execSvcStop i s from rfl, execSvcStop, hu, hok, Bool.and_true, onlyIf_true]

theorem exec_svcDrainComplete (hu : unitsOn s = true) (h : s.svc[i].state = 3) (hq : svcQuiet s.svc[i] = true) :
    exec (.svcDrainComplete i) s = .next (modSvc s i (fun _ => Svc.reset)) := by
  rw [show exec (.svcDrainComplete i) s = execSvcDrainComplete i s from rfl, execSvcDrainComplete, hu, hq,
    show decide (svcState s i = 3) = true from decide_eq_true h, Bool.and_true, Bool.and_true, onlyIf_true]

/-! ### The end of loading (R633) -/

theorem exec_svcLoadComplete (r : LoadReport) (hu : unitsOn s = true) (h : s.svc[i].state = 1) :
    exec (.svcLoadComplete i r) s = .next (svcLoadEffect s i r) := by
  rw [show exec (.svcLoadComplete i r) s = execSvcLoadComplete i r s from rfl, execSvcLoadComplete, hu,
    show decide (svcState s i = 1) = true from decide_eq_true h, Bool.and_true, onlyIf_true]

/-- A service once its loading has ended. -/
def loadedSvc (s : State) (i : Fin 64) (why : SvcReason) (x : Svc) : Svc :=
  if why = .none then
    { x with state := 2, reason := 0, since := s.tb.ns, nextK := firstInstance (svcEnt s i 8) (svcEnt s i 9) s.tb.ns.toNat }
  else { x with state := 4, reason := why.code }

/-- What loading found, as the Colophon shows it. -/
def showLoad (s : State) (i : Fin 64) (short overh free : Nat) : State :=
  setEnt (setEnt (setEnt s (0x7100 + i.1) 0x10 short) (0x7100 + i.1) 0x12 overh) (0x7100 + i.1) 0x0F free

theorem showLoad_entries {short overh free : Nat} (hw : tableWf (entDefault s.build s.dieIndex) s.colo.ent = true) :
    let t := showLoad s i short overh free
    svcEnt t i 0x0F = free ∧ svcEnt t i 0x10 = short ∧ svcEnt t i 0x12 = overh := by
  intro t
  have h1 := setEnt_wf s (0x7100 + i.1) 0x10 short hw
  have h2 := setEnt_wf (setEnt s (0x7100 + i.1) 0x10 short) (0x7100 + i.1) 0x12 overh h1
  have hkey {j k : Nat} (h : j ≠ k) : entKey (0x7100 + i.1) j ≠ entKey (0x7100 + i.1) k := fun hk => h (Nat.add_left_cancel hk)
  refine ⟨entN_setEnt_same _ _ _ _ h2, ?_, ?_⟩
  · exact (entN_setEnt_other _ _ _ _ _ _ (hkey (by decide))).trans
      ((entN_setEnt_other _ _ _ _ _ _ (hkey (by decide))).trans (entN_setEnt_same _ _ _ _ hw))
  · exact (entN_setEnt_other _ _ _ _ _ _ (hkey (by decide))).trans (entN_setEnt_same _ _ _ _ h1)

theorem svcEnt_modSvc (s : State) (i j : Fin 64) (g : Svc → Svc) (k : Nat) : svcEnt (modSvc s i g) j k = svcEnt s j k := rfl

theorem svcLoadEffect_eq (r : LoadReport) : svcLoadEffect s i r
    = modSvc (showLoad s i r.shortfall.toNat (if r.shortfall ≠ 0 ∧ loadReason s i r = .none then r.overhang.toNat else 0)
      r.kvFree.toNat) i (loadedSvc s i (loadReason s i r)) := rfl

/-! ### Batches and instances (R640, R642 to R646) -/

theorem exec_batchDeadline {b : Word × List Req} (hu : unitsOn s = true) (hb : s.svc[i].batch = some b)
    (he : elapsed s b.1 (1000 * svcEnt s i 7) = true) : exec (.batchDeadline i) s = .next (closeBatch s i false) := by
  have hdue : batchDue s i = true := by rw [batchDue, hb]; exact he
  rw [show exec (.batchDeadline i) s = execBatchDeadline i s from rfl, execBatchDeadline, hu, hdue, Bool.and_true, onlyIf_true]

/-- A service whose batch is in flight. -/
def closedSvc (rs : List Req) (x : Svc) : Svc := { x with batch := none, flight := x.flight ++ rs }

/-- R640, R642: the batch closes, and its requests are in flight. -/
theorem closeBatch_facts {b : Word × List Req} (hb : s.svc[i].batch = some b) :
    let t := closeBatch s i false
    SvcIs i (closedSvc b.2 s.svc[i]) s t
      ∧ (tableWf (entDefault s.build s.dieIndex) s.colo.ent = true → svcEnt t i 0x18 = (svcEnt s i 0x18 + 1) % 2 ^ 64)
      ∧ Touches [.free, .out, .gddr, .log, .svc, .colo] s t := by
  intro t
  obtain ⟨u, hu⟩ : ∃ u, u = batchMark (modSvc s i (closedSvc b.2)) b.2 := ⟨_, rfl⟩
  have ht : t = bumpSvc u i 0x18 1 64 := by
    rw [hu]
    simp only [t, closeBatch, hb]
    rfl
  have hmark : Touches [.free, .out, .gddr, .log] (modSvc s i (closedSvc b.2)) u := by
    rw [hu]
    exact batchMark_touch _ _ (by decide) (by decide) (by decide) (by decide) (Touches.refl _ _)
  have hcolo : u.colo = s.colo := hmark .colo (by decide)
  have hbuild : u.build = s.build := hmark .build (by decide)
  have hdie : u.dieIndex = s.dieIndex := hmark .dieIndex (by decide)
  rw [ht]
  refine ⟨?_, fun hw => ?_, ?_⟩
  · exact ((modSvc_is _ rfl).of_svc (hmark .svc (by decide))).of_svc (bumpSvc_touches u _ _ _ _ .svc (by decide))
  · have hcount := entN_bumpEnt_same u (0x7100 + i.1) 0x18 1 64 (by rw [hbuild, hdie, hcolo]; exact hw)
    rw [entN_congr hbuild hdie (by rw [hcolo])] at hcount
    exact hcount
  · exact ((modSvc_touches s i _).mono (by decide)).trans ((hmark.mono (by decide)).trans ((bumpSvc_touches u _ _ _ _).mono (by decide)))

theorem exec_cadenceInstanceStart (hu : unitsOn s = true) (hp : svcEnt s i 8 ≠ 0)
    (ht : s.svc[i].nextK * svcEnt s i 8 + svcEnt s i 9 ≤ s.tb.ns.toNat)
    (hst : s.svc[i].state = 2 ∨ s.svc[i].state = 3 ∧ ∃ st ∈ s.svc[i].streams, st.latest.isSome = true) :
    exec (.cadenceInstanceStart i) s = .next (startInstance s i) := by
  have hrun : (decide (s.svc[i].state = 2) || (decide (s.svc[i].state = 3) && s.svc[i].streams.any (fun st => st.latest.isSome))) = true := by
    obtain h | ⟨h, st, hmem, hsome⟩ := hst
    · rw [decide_eq_true h, Bool.true_or]
    · rw [decide_eq_true h, List.any_eq_true.mpr ⟨st, hmem, hsome⟩, Bool.and_self, Bool.or_true]
  have hready : cadenceReady s i = true := by
    simp only [cadenceReady, hu, decide_eq_true hp, hrun, decide_eq_true ht, Bool.and_self]
  rw [show exec (.cadenceInstanceStart i) s = execCadenceInstanceStart i s from rfl, execCadenceInstanceStart, hready, onlyIf_true]

/-- A service whose cadence run takes its inputs. -/
def advancedSvc (x : Svc) : Svc := { x with streams := x.streams.map advanceStream, nextK := x.nextK + 1 }

/-- The inputs of the next cadence run. -/
def nextInstance (s : State) (i : Fin 64) : Instance :=
  ⟨s.svc[i].nextK, s.svc[i].streams.filterMap (streamInput (decide (svcEnt s i 0x0A = 1)))⟩

/-- R646: a cadence run waits in the place of one that waited. -/
theorem waitInstance_is (n : Instance) : SvcIs i { s.svc[i] with waiting := some n } s (waitInstance s i n) := by
  have hbump {u : State} {x : Svc} {k m w : Nat} (h : SvcIs i x s u) : SvcIs i x s (bumpSvc u i k m w) :=
    h.of_svc (bumpSvc_touches u i k m w .svc (by decide))
  rw [waitInstance]
  refine hbump ?_
  rw [dropWaiting]
  cases hw : s.svc[i].waiting with
  | none => exact modSvc_is (fun x => { x with waiting := some n }) rfl
  | some old =>
    obtain ⟨u, hu⟩ : ∃ u, u = bumpSvc (answerAll (modSvc s i (fun x => { x with waiting := none })) i old.inputs .skipped) i 0x1A 1 32 := ⟨_, rfl⟩
    have hsvc : u.svc = (modSvc s i (fun x => { x with waiting := none })).svc := by
      rw [hu]
      exact (bumpSvc_touches _ _ _ _ _ .svc (by decide)).trans (answerAll_touch (qs := [.free, .out, .colo]) _ _ _ _ (by decide)
        (by decide) (by decide) (Touches.refl _ _) .svc (by decide))
    have h := modSvc_is (s := modSvc s i (fun x => { x with waiting := none })) (i := i) (fun x => { x with waiting := some n }) hsvc
    rw [(modSvc_is (s := s) (i := i) (fun x => { x with waiting := none }) rfl).same] at h
    simp only [← hu]
    exact h.from (modSvc_is (s := s) (i := i) (fun x => { x with waiting := none }) rfl).other

/-- R643 to R646: what the start of a cadence run leaves. -/
theorem startInstance_facts (s : State) (i : Fin 64) :
    SvcIs i (if (nextInstance s i).inputs = [] then advancedSvc s.svc[i]
        else if s.svc[i].running.isNone then { advancedSvc s.svc[i] with running := some (nextInstance s i) }
        else { advancedSvc s.svc[i] with waiting := some (nextInstance s i) }) s (startInstance s i)
      ∧ Touches [.free, .out, .gddr, .log, .svc, .colo] s (startInstance s i) := by
  refine ⟨?_, startInstance_touch s i (by decide) (by decide) (by decide) (by decide) (by decide) (by decide) (Touches.refl _ s)⟩
  obtain ⟨u, hu, hact⟩ : ∃ u : State, u.svc = s.svc ∧ startInstance s i
      = if (nextInstance s i).inputs = [] then modSvc u i advancedSvc
        else if s.svc[i].running.isNone then modSvc (modSvc u i advancedSvc) i (fun x => { x with running := some (nextInstance s i) })
        else waitInstance (modSvc u i advancedSvc) i (nextInstance s i) := by
    refine ⟨_, ?_, rfl⟩
    have hmark : Touches [.free, .out, .gddr, .log, .colo] s (instanceMark s s.svc[i].nextK (decide (svcEnt s i 0x0A = 1)) s.svc[i].streams) :=
      instanceMark_touch s _ _ _ (by decide) (by decide) (by decide) (Touches.refl _ s)
    split
    · exact hmark .svc (by decide)
    · exact (hmark.trans (skipReplies_touch _ _ _ (by decide) (by decide) (by decide) (Touches.refl _ _))) .svc (by decide)
  have hadv := modSvc_is (s := s) (i := i) advancedSvc hu
  rw [hact]
  split
  · exact hadv
  · split
    · have h := modSvc_is (s := modSvc u i advancedSvc) (i := i) (fun x => { x with running := some (nextInstance s i) }) rfl
      rw [hadv.same] at h
      exact h.from hadv.other
    · have h := waitInstance_is (s := modSvc u i advancedSvc) (i := i) (nextInstance s i)
      rw [hadv.same] at h
      exact h.from hadv.other

/-! ### Mirrored values (R658 to R660) -/

theorem exec_mirrorValues (id : Word) (crc len : BitVec 32) (hu : unitsOn s = true) (hr : svcEnt s i 0x0B = 2) :
    exec (.mirrorValues i id crc len) s = .next (valuesIn s i id crc len) := by
  rw [show exec (.mirrorValues i id crc len) s = execMirrorValues i id crc len s from rfl, execMirrorValues, hu,
    decide_eq_true hr, Bool.and_true, onlyIf_true]

theorem exec_mirrorWaitExpiry {id : Word} {w : MirrorWait} (hu : unitsOn s = true) (hw : waitOf s i id = some w)
    (he : elapsed s w.ready (1000 * svcEnt s i 0x13) = true) :
    exec (.mirrorWaitExpiry i id) s = .next (bumpSvc (answerReq (dropWait s i id) i w.req .ok w.body) i 0x1D 1 32) := by
  have hover : waitOver s i id = true := by
    rw [waitOver, hw]
    exact (Bool.and_eq_true _ _).mpr ⟨hu, he⟩
  rw [show exec (.mirrorWaitExpiry i id) s = execMirrorWaitExpiry i id s from rfl, execMirrorWaitExpiry, hover, onlyIf_true,
    sendUnchecked, hw]

/-- A service whose response no longer waits. -/
def unwaited (id : Word) (x : Svc) : Svc :=
  { x with
    mirror := x.mirror.filter (fun w => decide (w.req.reqId ≠ id))
    peer := x.peer.filter (fun p => decide (p.1 ≠ id)) }

theorem dropWait_is (id : Word) : SvcIs i (unwaited id s.svc[i]) s (dropWait s i id) := modSvc_is _ rfl

theorem dropWait_touches (s : State) (i : Fin 64) (id : Word) : Touches [.svc] s (dropWait s i id) := modSvc_touches s i _

/-- R659: what an answered response leaves. -/
theorem answered_is (id : Word) (r : Req) (st : ReqStatus) (body : List Byte) :
    SvcIs i (unwaited id s.svc[i]) s (answerReq (dropWait s i id) i r st body)
      ∧ Touches [.free, .out, .svc, .colo] s (answerReq (dropWait s i id) i r st body) :=
  ⟨(dropWait_is id).of_svc (answerReq_touches _ _ _ _ _ .svc (by decide)),
    ((dropWait_touches s i id).mono (by decide)).trans ((answerReq_touches _ _ _ _ _).mono (by decide))⟩

section
variable {id : Word} {crc len : BitVec 32} {w : MirrorWait} (hw : waitOf s i id = some w)
include hw

theorem valuesIn_agree (h : (crc, len) = bodyValues w.body) :
    valuesIn s i id crc len = answerReq (dropWait s i w.req.reqId) i w.req .ok w.body := by
  rw [valuesIn, hw]
  exact if_pos h

theorem valuesIn_again (h : (crc, len) ≠ bodyValues w.body) (hs : w.req.second = false) :
    valuesIn s i id crc len = modSvc (dropWait s i w.req.reqId) i (fun x => { x with flight := x.flight ++ [{ w.req with second := true }] }) := by
  rw [valuesIn, hw]
  exact (if_neg h).trans (if_neg (ne_true_of_eq_false hs))

theorem valuesIn_fault (h : (crc, len) ≠ bodyValues w.body) (hs : w.req.second = true) :
    valuesIn s i id crc len
      = notifyEvent (bumpSvc (answerReq (dropWait s i w.req.reqId) i w.req .fault []) i 0x1C 1 32) 17 i.1 0 := by
  rw [valuesIn, hw]
  exact (if_neg h).trans (if_pos hs)

end

end

/-- Settles O52: the life of a service, its batches (`closeBatch_facts`), its instances (`startInstance_facts`), and the
mirrored values case by case. -/
theorem servicesRunTheirLife : Obligations.ServicesRunTheirLife := by
  unfold Obligations.ServicesRunTheirLife
  intro i s hu x others becomes wf
  have hbecomes {c : Instr} (g : Svc → Svc) (h : exec c s = .next (modSvc s i g)) : becomes c (g x) :=
    have his := modSvc_is (s := s) (i := i) g rfl
    ⟨_, h, his.same, his.other, modSvc_touches s i g⟩
  refine ⟨fun h => ?start, fun h => ?stop, fun h => ?stopFailed, fun h hq => ?drained, fun r h => ?load, fun b hb he => ?batch,
    fun hp ht hst => ?cadence, fun id crc len hr => ⟨fun hw => ?kept, fun w hw => ?values⟩, fun id w hw he => ?expiry⟩
  case start => exact hbecomes _ (exec_svcStart hu h)
  case stop => exact hbecomes _ ((exec_svcStop hu (.inl h)).trans (congrArg _ (if_pos h)))
  case stopFailed =>
    have h2 : ¬ svcState s i = 2 := by rw [show svcState s i = 4 from h]; decide
    exact hbecomes (fun _ => Svc.reset) ((exec_svcStop hu (.inr h)).trans (congrArg _ (if_neg h2)))
  case drained => exact hbecomes (fun _ => Svc.reset) (exec_svcDrainComplete hu h hq)
  case load =>
    intro why
    refine ⟨fun hbad => if_pos hbad, _, (exec_svcLoadComplete r hu h).trans (congrArg _ (svcLoadEffect_eq r)), ?_⟩
    have his := modSvc_is (s := s) (i := i) (u := showLoad s i r.shortfall.toNat
      (if r.shortfall ≠ 0 ∧ why = .none then r.overhang.toNat else 0) r.kvFree.toNat) (loadedSvc s i why) rfl
    refine ⟨his.other, ?_, fun hw => his.same.trans (if_neg hw), fun hw => his.same.trans (if_pos hw), fun hwf => ?_⟩
    · rw [← svcLoadEffect_eq r]
      exact svcLoadEffect_touch s i r (by decide) (by decide) (Touches.refl _ s)
    · rw [svcEnt_modSvc, svcEnt_modSvc, svcEnt_modSvc]
      exact showLoad_entries hwf
  case batch =>
    obtain ⟨his, hcount, htouch⟩ := closeBatch_facts hb
    exact ⟨_, exec_batchDeadline hu hb he, his.other, his.same, hcount, htouch⟩
  case cadence =>
    intro n y
    obtain ⟨his, htouch⟩ := startInstance_facts s i
    exact ⟨_, exec_cadenceInstanceStart hu hp ht hst, his.other, htouch, his.same⟩
  case kept =>
    have hact : valuesIn s i id crc len = modSvc s i (fun x => { x with peer := x.peer.filter (fun p => decide (p.1 ≠ id)) ++ [(id, crc, len)] }) := by
      rw [valuesIn, hw]
    exact hbecomes _ ((exec_mirrorValues id crc len hu hr).trans (congrArg _ hact))
  case values =>
    intro y
    have hexec := exec_mirrorValues (i := i) id crc len hu hr
    refine ⟨fun h => ?_, fun h hs => ?_, fun h hs => ?_⟩
    · obtain ⟨his, -⟩ := answered_is (s := s) (i := i) w.req.reqId w.req .ok w.body
      exact ⟨_, hexec.trans (congrArg _ (valuesIn_agree hw h)), rfl, his.same, his.other⟩
    · refine hbecomes (fun x => { unwaited w.req.reqId x with flight := x.flight ++ [{ w.req with second := true }] })
        (hexec.trans (congrArg _ ((valuesIn_again hw h hs).trans ?_)))
      exact modSvc_modSvc s i (unwaited w.req.reqId) _
    · obtain ⟨his, htouch⟩ := answered_is (s := s) (i := i) w.req.reqId w.req .fault []
      have hnote : Touches [.free, .out, .svc, .colo] (answerReq (dropWait s i w.req.reqId) i w.req .fault [])
          (notifyEvent (bumpSvc (answerReq (dropWait s i w.req.reqId) i w.req .fault []) i 0x1C 1 32) 17 i.1 0) :=
        notifyEvent_touch _ _ _ _ (by decide) (by decide) ((bumpSvc_touches _ _ _ _ _).mono (by decide))
      have hsvc : (notifyEvent (bumpSvc (answerReq (dropWait s i w.req.reqId) i w.req .fault []) i 0x1C 1 32) 17 i.1 0).svc
          = (answerReq (dropWait s i w.req.reqId) i w.req .fault []).svc :=
        notifyEvent_touch (qs := [.out, .colo]) _ _ _ _ (by decide) (by decide)
          ((bumpSvc_touches _ _ _ _ _).mono (by decide)) .svc (by decide)
      have hend := his.of_svc hsvc
      exact ⟨_, hexec.trans (congrArg _ (valuesIn_fault hw h hs)), hend.same, hend.other, htouch.trans hnote⟩
  case expiry =>
    obtain ⟨his, htouch⟩ := answered_is (s := s) (i := i) id w.req .ok w.body
    have hend := his.of_svc (bumpSvc_touches (answerReq (dropWait s i id) i w.req .ok w.body) i 0x1D 1 32 .svc (by decide))
    exact ⟨_, exec_mirrorWaitExpiry hu hw he, hend.other, htouch.trans ((bumpSvc_touches _ _ _ _ _).mono (by decide)), hend.same, rfl⟩

end Sys2Proof
end

section
/-! PROOFS. Chapter 18, stored-data integrity (R701, R702, R708, R713 to R717, R719 to R721): buckets, acknowledgement, fences
and the check unit. -/

namespace Sys2Proof
open Machine Laws

/-! ### Buckets and the log -/

theorem exec_bucketLeak {s : State} {c : Fin 12} (hu : unitsOn s = true) (h : elapsed s (s.fault.leakAt[c]) (leakNs s c) = true) :
    exec (.bucketLeak c) s = .next (leakEffect s c) := by
  rw [show exec (.bucketLeak c) s = execBucketLeak c s from rfl, execBucketLeak, hu, h, Bool.and_self, onlyIf_true]

theorem leakEffect_touches (s : State) (c : Fin 12) : Touches [.fault] s (leakEffect s c) :=
  touch_fault (by decide) (Touches.refl _ s)

theorem exec_ack {s : State} {v : Word} (hu : unitsOn s = true) (h : bit v 63 = true) :
    exec (.ack v) s = .next { s with fault := { s.fault with pendHard := false } } := by
  rw [show exec (.ack v) s = execAck v s from rfl, execAck, hu, h, Bool.and_self, onlyIf_true, writeLogCtrl, if_pos h]

/-! ### The fence of this die -/

theorem exec_fenceReq {s : State} {v : Word} (hu : unitsOn s = true) (h : bit v 4 = true) :
    exec (.fenceReq v) s = .next (fenceStop (logFence s 1 .dieFenced) 1) := by
  rw [show exec (.fenceReq v) s = execFenceReq v s from rfl, execFenceReq, hu, h, Bool.and_self, onlyIf_true, writeFence, if_pos h,
    fenceDie, unitsOn_not_fenced hu]
  rfl

/-- A fenced die counts itself among the fenced dies. -/
theorem fenceStop_dies (s : State) (r : BitVec 3) : (fenceStop s r).fault.dies.getLsbD s.dieIndex.1 = true := by
  have hbit : (BitVec.ofNat 8 (2 ^ s.dieIndex.1)).getLsbD s.dieIndex.1 = true := by
    rw [BitVec.getLsbD_ofNat, Nat.testBit_two_pow_self, decide_eq_true s.dieIndex.2]; rfl
  rw [show (fenceStop s r).fault.dies = s.fault.dies ||| BitVec.ofNat 8 (2 ^ s.dieIndex.1) from rfl, BitVec.getLsbD_or, hbit,
    Bool.or_true]

theorem fenceStop_ports (s : State) (r : BitVec 3) (p : Fin 11) :
    (fenceStop s r).span.ports[p] = (s.span.ports[p]).fencedHold := by
  rw [show (fenceStop s r).span.ports = s.span.ports.map Port.fencedHold from rfl]
  exact Vector.getElem_map _ _

theorem fenceStop_svc (s : State) (r : BitVec 3) (i : Fin 64) : (fenceStop s r).svc[i] = Svc.reset := by
  rw [show (fenceStop s r).svc = Vector.replicate 64 Svc.reset from rfl]
  exact Vector.getElem_replicate _

theorem logFence_touches (s : State) (r : BitVec 3) (a : FAction) :
    Touches [.out, .formes, .fault, .colo, .flash] s (logFence s r a) :=
  logFence_touch _ _ _ (by decide) (by decide) (by decide) (by decide) (by decide) (Touches.refl _ s)

/-! ### The fence of another die -/

theorem exec_peerFenced {s : State} {d : Fin 8} (r : BitVec 3) (hu : unitsOn s = true) (hd : d ≠ s.dieIndex)
    (hc : d.1 < dieCount s.build) (hn : s.fault.dies.getLsbD d.1 = false) :
    exec (.peerFenced d r) s = .next (peerFenced s d r) := by
  rw [show exec (.peerFenced d r) s = execPeerFenced d r s from rfl, execPeerFenced, peerFencedReady, hu, decide_eq_true hd,
    decide_eq_true hc, hn, Bool.not_false, Bool.and_self, Bool.and_self, Bool.and_self, onlyIf_true]

/-- A fold of one change over ports leaves a port that is not among them. -/
theorem foldl_modPort_other (g : Port → Port) (l : List (Fin 11)) (s : State) {q : Fin 11} (h : q ∉ l) :
    (l.foldl (fun t p => modPort t p g) s).span.ports[q] = s.span.ports[q] := by
  induction l generalizing s with
  | nil => rfl
  | cons p ps ih =>
    rw [List.mem_cons, not_or] at h
    rw [List.foldl_cons, ih _ h.2, modPort_other s p q g h.1]

/-- A fold of a change that settles a port in one go changes each of its ports so. -/
theorem foldl_modPort_mem (g : Port → Port) (hg : ∀ x, g (g x) = g x) (l : List (Fin 11)) (s : State) {q : Fin 11} (h : q ∈ l) :
    (l.foldl (fun t p => modPort t p g) s).span.ports[q] = g (s.span.ports[q]) := by
  induction l generalizing s with
  | nil => exact absurd h List.not_mem_nil
  | cons p ps ih =>
    rw [List.foldl_cons]
    by_cases hm : q ∈ ps
    · rw [ih _ hm]
      by_cases hqp : q = p
      · rw [hqp, modPort_same, hg]
      · rw [modPort_other s p q g hqp]
    · obtain rfl : q = p := (List.mem_cons.mp h).resolve_right hm
      rw [foldl_modPort_other g ps _ hm, modPort_same]

theorem port_holdLinks_held {s : State} {d : Nat} {p : Fin 11} (hp : p ∈ internalPorts) (hd : portPeer s p = d) :
    (holdLinks s d).span.ports[p] = heldPort 4 (s.span.ports[p]) :=
  foldl_modPort_mem (heldPort 4) (fun _ => rfl) _ s (List.mem_filter.mpr ⟨hp, decide_eq_true hd⟩)

theorem port_holdLinks_other {s : State} {d : Nat} {p : Fin 11} (h : p ∉ internalPorts ∨ portPeer s p ≠ d) :
    (holdLinks s d).span.ports[p] = s.span.ports[p] :=
  foldl_modPort_other (heldPort 4) _ s fun hm =>
    have ⟨hp, hd⟩ := List.mem_filter.mp hm
    h.elim (fun h => h hp) (fun h => h (of_decide_eq_true hd))

/-- The die records another die as fenced. -/
def withPeerFenced (s : State) (d : Fin 8) : State :=
  { s with fault := { s.fault with dies := s.fault.dies ||| BitVec.ofNat 8 (2 ^ d.1) } }

/-- R714, R715: the state in which a fenced peer is reported to the cores. -/
def afterPeerFenced (s : State) (d : Fin 8) : State :=
  servicesLoseDie (mirrorDieLost (nextMaster (updateServer
    (dropPartials (updateRoutes (holdLinks (withPeerFenced s d) d.1)) (idOf s d.1))) d.1) d.1) d.1

theorem peerFenced_eq (s : State) (d : Fin 8) (r : BitVec 3) : peerFenced s d r = raise (afterPeerFenced s d) 8 d.1 r.toNat := rfl

/-- What follows the partial copies of a fenced peer leaves the links alone. -/
theorem afterPeerFenced_touches (s : State) (d : Fin 8) :
    Touches [.free, .out, .tb, .log, .abut, .cores, .svc, .colo]
      (dropPartials (updateRoutes (holdLinks (withPeerFenced s d) d.1)) (idOf s d.1)) (afterPeerFenced s d) :=
  servicesLoseDie_touch _ _ (by decide) (by decide) (by decide) (by decide) (mirrorDieLost_touch _ _ (by decide) (by decide)
    (by decide) (by decide) (nextMaster_touch _ _ (by decide) (updateServer_touch _ (by decide) (by decide) (by decide) (by decide)
      (Touches.refl _ _))))

theorem peerFenced_ports (s : State) (d : Fin 8) (r : BitVec 3) :
    (peerFenced s d r).span.ports = (holdLinks (withPeerFenced s d) d.1).span.ports := by
  have hspan : (peerFenced s d r).span
      = (dropPartials (updateRoutes (holdLinks (withPeerFenced s d) d.1)) (idOf s d.1)).span := by
    rw [peerFenced_eq]
    exact (raise_tt _ 8 d.1 r.toNat .span (by decide)).trans (afterPeerFenced_touches s d .span (by decide))
  rw [hspan, dropPartials, updateRoutes_span]

theorem peerFenced_interrupts {s : State} (d : Fin 8) (r : BitVec 3) (hf : s.fault.fenced = false) :
    ((peerFenced s d r).cores.pending ||| (peerFenced s d r).cores.claimed).getLsbD 8 = true := by
  have hfault : (afterPeerFenced s d).fault = (peerFenced s d r).fault := by
    rw [peerFenced_eq]
    exact (raise_tt _ 8 d.1 r.toNat .fault (by decide)).symm
  have hnot : (afterPeerFenced s d).fault.fenced = false := by
    rw [hfault, peer_fault]
    exact hf
  rw [peerFenced_eq]
  exact raise_bit _ 8 d.1 r.toNat (by decide) hnot

/-! ### The check unit -/

theorem exec_checkGo {s : State} {v : Word} (hu : unitsOn s = true) (h : bit v 32 = true) :
    exec (.checkGo v) s = .next { s with check := writeCheckCtrl s.check v } := by
  rw [show exec (.checkGo v) s = execCheckGo v s from rfl, execCheckGo, hu, h, Bool.and_self, onlyIf_true]

/-- R719: GO of an idle check unit takes the length and CONT, one of a busy unit does not. -/
theorem writeCheckCtrl_go (c : Check) {v : Word} (h : bit v 32 = true) :
    writeCheckCtrl c v = { c with
      done := w1c c.done v 34, fail := w1c c.fail v 35
      len := if c.busy then c.len else BitVec.ofNat 32 (field v 0 32)
      cont := if c.busy then c.cont else bit v 36, busy := true } := by
  rw [writeCheckCtrl]
  obtain ⟨addr, len, cont, busy, done, fail, crc⟩ := c
  cases busy
  case false => rw [h]; rfl
  case true => rfl

theorem exec_checkComplete {s : State} (hu : unitsOn s = true) (h : s.check.busy = true) :
    exec .checkComplete s = .next (checkEnds s) := by
  rw [show exec .checkComplete s = execCheckComplete s from rfl, execCheckComplete, hu, h, Bool.and_self, onlyIf_true]

theorem checkEnds_unmapped {s : State} (h : checkMapped s = false) : checkEnds s = checkUnitFails s := by
  rw [checkEnds, h]
  rfl

theorem checkEnds_unreadable {s : State} {e : ReadErr} (h : checkMapped s = true)
    (hr : readErr s [(s.check.addr.toNat, s.check.len.toNat)] = some e) :
    checkEnds s = checkUnitFails (logRemoteRead s e) := by
  rw [checkEnds, h, hr]
  rfl

theorem checkEnds_reads {s : State} (h : checkMapped s = true)
    (hr : readErr s [(s.check.addr.toNat, s.check.len.toNat)] = none) :
    checkEnds s = { s with check := { s.check with
      busy := false, done := true
      crc := crc32c (localBytes s s.check.addr.toNat s.check.len.toNat) (if s.check.cont then s.check.crc else 0) } } := by
  rw [checkEnds, h, hr]
  rfl

/-- R721: a check that fails sets FAIL; only RESULT is free. -/
theorem checkUnitFails_check (s : State) (r : BitVec 32) :
    { (checkUnitFails s).check with crc := r } = { s.check with busy := false, fail := true, crc := r } := rfl

theorem checkUnitFails_touches (s : State) : Touches [.free, .check] s (checkUnitFails s) :=
  touch_check (by decide) (useFree_touch s 1 (by decide) (Touches.refl _ s))

theorem logRemoteRead_check (s : State) (e : ReadErr) : (logRemoteRead s e).check = s.check :=
  logRemoteRead_touch (qs := [.out, .formes, .gddr, .imp, .fault, .colo, .flash]) s e (by decide) (by decide) (by decide)
    (by decide) (by decide) (by decide) (by decide) (Touches.refl _ s) .check (by decide)

/-- Settles O53: each of the buckets, fences and checks is the rule for its command. -/
theorem bucketsFencesAndChecksAct : Obligations.BucketsFencesAndChecksAct := by
  unfold Obligations.BucketsFencesAndChecksAct
  intro s hu
  have hf : s.fault.fenced = false := unitsOn_not_fenced hu
  refine ⟨fun c h => ?leak, fun v h => exec_ack hu h, fun v h => ?fence, fun d r hd hc hn => ?peer, fun v h => ?go,
    fun hb => ⟨fun hm hr => ?reads, fun hm => ?unmapped, fun e hm hr => ?unreadable⟩⟩
  case leak =>
    exact ⟨_, exec_bucketLeak hu h, leakEffect_touches s c, vmod_get_same _ _ _, vmod_get_same _ _ _,
      fun d hd => ⟨vmod_get_other _ _ _ _ hd, vmod_get_other _ _ _ _ hd⟩, rfl⟩
  case fence =>
    have hlog := logFence_touches s 1 .dieFenced
    obtain ⟨hrecs, hseq, -⟩ := logFault_recs s .fence .uncorrected none .dieFenced (1 : BitVec 3).toNat 0 0
    have hdies := fenceStop_dies (logFence s 1 .dieFenced) 1
    rw [show (logFence s 1 .dieFenced).dieIndex = s.dieIndex from hlog .dieIndex (by decide)] at hdies
    refine ⟨_, exec_fenceReq hu h, rfl, rfl, hdies, rfl, hseq, hrecs, fun p => ?_, ?_, rfl, fenceStop_svc _ _, rfl,
      (hlog.mono (by decide)).trans (fenceStop_touch _ 1 (by decide) (by decide) (by decide)
        (by decide) (by decide) (by decide) (by decide) (by decide) (Touches.refl _ _))⟩
    · rw [fenceStop_ports, show (logFence s 1 .dieFenced).span = s.span from hlog .span (by decide)]
      rfl
    · rw [← show (logFence s 1 .dieFenced).abut = s.abut from hlog .abut (by decide)]
      rfl
  case peer =>
    refine ⟨_, exec_peerFenced r hu hd hc hn, peer_fault s d r, fun p hp hpeer => ?_, fun p hp => ?_, peerFenced_interrupts d r hf,
      peerFenced_touch s d r (by decide) (by decide) (by decide) (by decide) (by decide) (by decide) (by decide) (by decide)
        (by decide) (by decide) (by decide) (Touches.refl _ s)⟩
    · rw [peerFenced_ports, port_holdLinks_held (s := withPeerFenced s d) hp hpeer]
      exact ⟨rfl, rfl⟩
    · rw [peerFenced_ports]
      exact port_holdLinks_other hp
  case go =>
    exact ⟨_, exec_checkGo hu h, touch_check (by decide) (Touches.refl _ s), writeCheckCtrl_go _ h⟩
  case reads => exact (exec_checkComplete hu hb).trans (congrArg _ (checkEnds_reads hm hr))
  case unmapped =>
    exact ⟨_, (exec_checkComplete hu hb).trans (congrArg _ (checkEnds_unmapped hm)), checkUnitFails_touches s,
      checkUnitFails_check s _⟩
  case unreadable =>
    refine ⟨_, (exec_checkComplete hu hb).trans (congrArg _ (checkEnds_unreadable hm hr)), ?_⟩
    rw [checkUnitFails_check, logRemoteRead_check]

end Sys2Proof
end

section
/-! PROOFS. Chapter 19, the Colophon agent's answers (R729 to R743, R745, R746). -/

namespace Sys2Proof
open Machine Laws

/-! ### A message reaches the agent -/

/-- Each of the six requests hands its message to the agent. -/
theorem exec_request {m : ColoMsg} {s : State} (hl : listens s m = true) {c : Instr} {op : Byte}
    (hc : (c, op) ∈ [(Instr.colophonRead m, (1 : Byte)), (.colophonWrite m, 2), (.readBlock m, 3), (.writeBlock m, 4), (.notify m, 5),
      (.sessionOpen m, 6)]) (hop : m.op = op) : exec c s = .next (coloMessage s m) := by
  have hready : coloReady s m op = true := by rw [coloReady, hl, decide_eq_true hop, Bool.and_self]
  simp only [List.mem_cons, Prod.mk.injEq, List.not_mem_nil, or_false] at hc
  rcases hc with ⟨rfl, rfl⟩ | ⟨rfl, rfl⟩ | ⟨rfl, rfl⟩ | ⟨rfl, rfl⟩ | ⟨rfl, rfl⟩ | ⟨rfl, rfl⟩
  case inl =>
    have hrow : (decide (m.op ≤ 1) || decide (6 < m.op.toNat)) = true := by rw [hop]; rfl
    rw [show exec (.colophonRead m) s = execColophonRead m s from rfl, execColophonRead, hl, hrow, Bool.and_self, onlyIf_true]
  case inr.inl =>
    rw [show exec (.colophonWrite m) s = execColophonWrite m s from rfl, execColophonWrite, hready, onlyIf_true]
  case inr.inr.inl => rw [show exec (.readBlock m) s = execReadBlock m s from rfl, execReadBlock, hready, onlyIf_true]
  case inr.inr.inr.inl => rw [show exec (.writeBlock m) s = execWriteBlock m s from rfl, execWriteBlock, hready, onlyIf_true]
  case inr.inr.inr.inr.inl => rw [show exec (.notify m) s = execNotify m s from rfl, execNotify, hready, onlyIf_true]
  case inr.inr.inr.inr.inr => rw [show exec (.sessionOpen m) s = execSessionOpen m s from rfl, execSessionOpen, hready, onlyIf_true]

section
variable {s : State} {m : ColoMsg}

/-! ### Sessions, and requests that repeat -/

/-- R741: a session that is not open. -/
theorem coloMessage_nosession (h : m.session ≠ 0) (hf : s.colo.sessions.find? (fun x => decide (x.id = m.session)) = none) :
    coloMessage s m = respond (countRequest s 1) (.addr m.client) m (refuseMsg s .nosession) := by
  rw [coloMessage, if_neg h, hf]

/-- R742: a MAC or COUNTER that does not hold. -/
theorem coloMessage_forged {se : Session} (h : m.session ≠ 0)
    (hf : s.colo.sessions.find? (fun x => decide (x.id = m.session)) = some se) (hmac : sessionMsgOk se m = false) :
    coloMessage s m = bumpEnt s 0x1030 6 1 32 := by
  rw [coloMessage, if_neg h, hf]
  exact if_neg (ne_true_of_eq_false hmac)

/-- R738: a request that repeats. -/
theorem coloMessage_kept {k : Kept} (h : m.session = 0) (hk : keptFor s (.addr m.client) m = some k) :
    coloMessage s m = sendColo s (answerKey (.addr m.client) k.sid) m.client (responseMsg m k.op k.status k.body) := by
  rw [coloMessage, if_pos h, serve, hk]

/-- The agent is at work on a request. -/
def atWork (s : State) : State := { s with colo := { s.colo with busy := true } }

/-- R728, R738, R749: the answer, its record, the events that waited, and what follows the response. -/
def answered (key : ClientKey) (m : ColoMsg) (h : Handled) : State :=
  h.after.foldl doAfter (releaseEvents (respond (countRequest h.st h.refused) key m h))

/-- Outside a session the client asks by its address. -/
def outside (m : ColoMsg) : Asker := ⟨.addr m.client, m.mgmt⟩

theorem coloMessage_malformed (h : m.session = 0) (hk : keptFor s (.addr m.client) m = none) (hm : malformedMsg m = true) :
    coloMessage s m = answered (.addr m.client) m (refuseMsg (atWork s) .malformed) := by
  rw [coloMessage, if_pos h, serve, hk]
  show process s (outside m) m = _
  rw [process, if_pos hm]
  rfl

theorem coloMessage_handled (h : m.session = 0) (hk : keptFor s (.addr m.client) m = none) (hm : malformedMsg m = false) :
    coloMessage s m = answered (.addr m.client) m (handleOp (atWork s) (outside m) m) := by
  rw [coloMessage, if_pos h, serve, hk]
  show process s (outside m) m = _
  rw [process, if_neg (ne_true_of_eq_false hm)]
  rfl

/-- A refusal changes the agent's own state and what it sends. -/
theorem answered_refusal_touches (s : State) (key : ClientKey) (m : ColoMsg) (r : CStat) :
    Touches [.out, .colo] s (answered key m (refuseMsg (atWork s) r)) :=
  releaseEvents_touch _ (by decide) (by decide) (respond_touch _ _ _ _ (by decide) (by decide) (countRequest_touch _ _ (by decide)
    (touch_colo (by decide) (Touches.refl _ s))))

/-- R731, R732: what makes a request outside a session invalid as a message. -/
theorem malformedMsg_of (h : m.session = 0) (hbad : m.ver ≠ 1 ∨ m.rsvd = true ∨ m.len.toNat ≠ m.body.length ∨ 1344 < m.body.length
      ∨ m.counter ≠ 0 ∨ m.mac ≠ []) : malformedMsg m = true := by
  rw [malformedMsg, decide_eq_true h]
  simp only [Bool.or_eq_true, decide_eq_true_eq, Bool.true_and, maxBody]
  rcases hbad with h | h | h | h | h | h
  · exact .inl (.inl (.inl (.inl (.inl (.inl h)))))
  · exact .inl (.inl (.inl (.inl (.inl (.inr h)))))
  · exact .inl (.inl (.inl (.inl (.inr h))))
  · exact .inl (.inl (.inl (.inr (decide_eq_true h))))
  · exact .inl (.inl (.inr (.inl h)))
  · exact .inl (.inl (.inr (.inr h)))

/-! ### The six operations -/

theorem readAllowed_outside (s : State) (m : ColoMsg) : readAllowed s (outside m) = (m.mgmt && openAccess s) := rfl

theorem readAllowed_atWork (s : State) (a : Asker) : readAllowed (atWork s) a = readAllowed s a := rfl

/-- R740: a request that only reads is refused where nothing permits it. -/
theorem handleOp_auth {a : Asker} (hop : m.op = 1 ∨ m.op = 3 ∨ m.op = 5) (h : readAllowed s a = false) :
    handleOp s a m = refuseMsg s .auth := by
  rcases hop with hop | hop | hop <;> rw [handleOp, hop] <;> exact if_neg (ne_true_of_eq_false h)

theorem handleOp_read {a : Asker} (hop : m.op = 1) (h : readAllowed s a = true) : handleOp s a m = handleRead s m.body := by
  rw [handleOp, hop]
  exact if_pos h

theorem handleOp_write {a : Asker} (hop : m.op = 2) : handleOp s a m = handleWrite s a m.body := by
  rw [handleOp, hop]
  rfl

theorem handleOp_readBlock {a : Asker} (hop : m.op = 3) (h : readAllowed s a = true) :
    handleOp s a m = handleReadBlock s m.body := by
  rw [handleOp, hop]
  exact if_pos h

theorem handleOp_writeBlock {a : Asker} (hop : m.op = 4) : handleOp s a m = handleWriteBlock s a m.body := by
  rw [handleOp, hop]
  rfl

theorem handleOp_notify {a : Asker} (hop : m.op = 5) (h : readAllowed s a = true) : handleOp s a m = handleNotify s a m := by
  rw [handleOp, hop]
  exact if_pos h

theorem handleOp_sessionOpen {a : Asker} (hop : m.op = 6) : handleOp s a m = handleSessionOpen s a m.body := by
  rw [handleOp, hop]
  rfl

section
variable {b : List Byte}

/-! ### READ and WRITE -/

theorem handleRead_malformed (h : readList b = none) : handleRead s b = refuseMsg s .malformed := by
  rw [handleRead, h]

theorem handleRead_items {l : List (Nat × Nat)} (h : readList b = some l) :
    handleRead s b = ⟨.ok, (readItems s false 0 l).1, none, (readItems s false 0 l).2, s, []⟩ := by
  rw [handleRead, h]

theorem handleWrite_malformed {a : Asker} (h : writeList 64 b = none) : handleWrite s a b = refuseMsg s .malformed := by
  rw [handleWrite, h]

/-- R740, R745: no session, no open access and no item that needs neither. -/
theorem handleWrite_auth {l : List WItem} (h : writeList 64 b = some l) (ho : readAllowed s (outside m) = false)
    (hx : m.mgmt = true → ∀ x ∈ l, exemptItem s (outside m) x = false) :
    handleWrite s (outside m) b = refuseMsg s .auth := by
  have hdenied : ((outside m).inSession || ((outside m).mgmt && (openAccess s || l.any (exemptItem s (outside m))))) = false := by
    rw [readAllowed_outside] at ho
    show (m.mgmt && (openAccess s || l.any (exemptItem s (outside m)))) = false
    cases hm : m.mgmt with
    | false => rfl
    | true =>
      rw [hm, Bool.true_and] at ho
      rw [ho, Bool.true_and, Bool.false_or]
      exact List.any_eq_false.mpr fun x hmem => ne_true_of_eq_false (hx hm x hmem)
  rw [handleWrite, h]
  exact if_neg (ne_true_of_eq_false hdenied)

theorem handleWrite_items {l : List WItem} (h : writeList 64 b = some l) (ho : readAllowed s (outside m) = true) :
    handleWrite s (outside m) b = ⟨.ok, (writeItems (outside m) s l).1, none, (writeItems (outside m) s l).2.1,
      (writeItems (outside m) s l).2.2.1, (writeItems (outside m) s l).2.2.2⟩ := by
  have hallowed : ((outside m).inSession || ((outside m).mgmt && (openAccess s || l.any (exemptItem s (outside m))))) = true := by
    rw [readAllowed_outside, Bool.and_eq_true] at ho
    obtain ⟨hm, hopen⟩ := ho
    show (m.mgmt && (openAccess s || l.any (exemptItem s (outside m)))) = true
    rw [hm, hopen]
    rfl
  rw [handleWrite, h]
  exact if_pos hallowed

/-! ### READ-BLOCK and WRITE-BLOCK -/

theorem handleReadBlock_malformed (h : b.length ≠ 24) : handleReadBlock s b = refuseMsg s .malformed := if_pos (.inl h)

theorem handleWriteBlock_malformed {a : Asker} (h : b.length < 17) : handleWriteBlock s a b = refuseMsg s .malformed :=
  if_pos (.inl h)

/-- R737: a piece that is accepted is received. -/
theorem handleWriteBlock_piece (hlen : 17 ≤ b.length) (hz : bodyN b 3 6 = 0) (ho : readAllowed s (outside m) = true)
    (hst : pieceStatus s (outside m) (bodyN b 0 2) (bodyN b 2 1) (bodyN b 9 8) (b.drop 17).length = .ok) :
    ∃ body, handleWriteBlock s (outside m) b = ⟨.ok, body, none, 0, receivePiece s (b.drop 17), []⟩ := by
  have hallowed : ((outside m).inSession
      || ((outside m).mgmt && (openAccess s || sessionExempt s (outside m).mgmt (bodyN b 0 2) (bodyN b 2 1) 0))) = true := by
    rw [readAllowed_outside, Bool.and_eq_true] at ho
    obtain ⟨hm, hopen⟩ := ho
    show (m.mgmt && (openAccess s || _)) = true
    rw [hm, hopen]
    rfl
  rw [handleWriteBlock, if_neg (not_or.mpr ⟨Nat.not_lt.mpr hlen, not_not_intro hz⟩)]
  dsimp only
  rw [if_pos hallowed, hst]
  exact ⟨_, rfl⟩

end

/-! ### NOTIFY -/

/-- R746: the answer to NOTIFY names the mask and the number of the latest event. -/
def notifyAnswer (s : State) (m : ColoMsg) : List Byte := leBytes 4 (bodyN m.body 0 4) ++ leBytes 8 s.colo.evSeq.toNat

section
variable (hlen : m.body.length = 16) (hz : bodyN m.body 4 4 = 0)
include hlen hz

theorem handleNotify_renews {a : Asker} (h : ∃ x ∈ s.colo.subs, x.key = a.key) : handleNotify s a m
    = ⟨.ok, notifyAnswer s m, none, 0, renewSub s a.key m (bodyN m.body 0 4) (bodyN m.body 8 8), []⟩ := by
  have hany : s.colo.subs.any (fun x => decide (x.key = a.key)) = true := by
    obtain ⟨x, hx, hk⟩ := h
    exact List.any_eq_true.mpr ⟨x, hx, decide_eq_true hk⟩
  rw [handleNotify, if_neg (not_or.mpr ⟨not_not_intro hlen, not_not_intro hz⟩)]
  exact if_pos hany

theorem handleNotify_new {a : Asker} (h : ∀ x ∈ s.colo.subs, x.key ≠ a.key) (hmask : bodyN m.body 0 4 ≠ 0) : handleNotify s a m
    = if 4 ≤ s.colo.subs.length then refuseMsg s .busy
      else ⟨.ok, notifyAnswer s m, none, 0, addSub s a.key m (bodyN m.body 0 4), []⟩ := by
  have hany : ¬ s.colo.subs.any (fun x => decide (x.key = a.key)) = true := by
    rw [List.any_eq_true]
    rintro ⟨x, hx, hk⟩
    exact h x hx (of_decide_eq_true hk)
  rw [handleNotify, if_neg (not_or.mpr ⟨not_not_intro hlen, not_not_intro hz⟩)]
  dsimp only
  rw [if_neg hany, if_neg hmask]
  rfl

end

/-! ### SESSION-OPEN -/

section
variable {b : List Byte} (hlen : b.length = 68) (hz : bodyN b 1 3 = 0)
include hlen hz

theorem sessionOpen_wellFormed (m : ColoMsg) :
    ¬ ((outside m).inSession || decide (b.length ≠ 68) || decide (bodyN b 1 3 ≠ 0)) = true := by
  rw [decide_eq_false (not_not_intro hlen), decide_eq_false (not_not_intro hz)]
  exact Bool.false_ne_true

theorem handleSessionOpen_falsework (hk : s.sec.keyState ≠ 1) :
    handleSessionOpen s (outside m) b = refuseMsg s .falsework := by
  rw [handleSessionOpen, if_neg (sessionOpen_wellFormed hlen hz m)]
  exact if_pos hk

theorem handleSessionOpen_unknown (hk : s.sec.keyState = 1) (ho : operatorKeyOf s (bodyN b 0 1) = none) :
    handleSessionOpen s (outside m) b = refuseMsg s .auth := by
  rw [handleSessionOpen, if_neg (sessionOpen_wellFormed hlen hz m), if_neg (not_not_intro hk), ho]

theorem handleSessionOpen_key {k : List Byte} (hk : s.sec.keyState = 1) (ho : operatorKeyOf s (bodyN b 0 1) = some k) :
    handleSessionOpen s (outside m) b
      = if 8 ≤ s.colo.sessions.length then refuseMsg s .busy else openSession s (bodyN b 0 1) (b.drop 4) k := by
  rw [handleSessionOpen, if_neg (sessionOpen_wellFormed hlen hz m), if_neg (not_not_intro hk), ho]

end
end

/-- Settles O54: the agent's answer, refusal by refusal and operation by operation. -/
theorem colophonAnswersItsRequests : Obligations.ColophonAnswersItsRequests := by
  unfold Obligations.ColophonAnswersItsRequests
  intro m s hl key a u c op hc hop answers refuses open_
  have hexec : exec c s = .next (coloMessage s m) := exec_request hl hc hop
  refine ⟨fun hs hf => ?nosession, fun se hs hf hmac => ?forged, fun k hs hk => hexec.trans (congrArg _ (coloMessage_kept hs hk)),
    fun hs hk => ?_⟩
  case nosession =>
    exact ⟨_, hexec.trans (congrArg _ (coloMessage_nosession hs hf)), rfl,
      respond_touch _ _ _ _ (by decide) (by decide) (countRequest_touch _ _ (by decide) (Touches.refl _ s))⟩
  case forged =>
    exact ⟨_, hexec.trans (congrArg _ (coloMessage_forged hs hf hmac)), bumpEnt_touches s _ _ _ _, rfl,
      fun hwf => entN_bumpEnt_same s _ _ _ _ hwf⟩
  have hrefuses {r : CStat} (h : coloMessage s m = answered key m (refuseMsg u r)) : refuses r := by
    have hnext : exec c s = .next (answered key m (refuseMsg u r)) := hexec.trans (congrArg _ h)
    refine ⟨hnext, fun t ht => ?_⟩
    obtain rfl : answered key m (refuseMsg u r) = t := Host.Outcome.next.inj (hnext.symm.trans ht)
    exact answered_refusal_touches s key m r
  refine ⟨fun hbad => hrefuses (coloMessage_malformed hs hk (malformedMsg_of hs hbad)), fun hm => ?_⟩
  have hhandled : coloMessage s m = answered key m (handleOp u a m) := coloMessage_handled hs hk hm
  have answer {h : Handled} (e : handleOp u a m = h) : answers h := by
    rw [e] at hhandled
    exact hexec.trans (congrArg _ hhandled)
  have refuse {r : CStat} (e : handleOp u a m = refuseMsg u r) : refuses r := by
    rw [e] at hhandled
    exact hrefuses hhandled
  refine ⟨fun ho hopen => refuse (handleOp_auth ?_ hopen), fun ho hopen => ⟨fun hr => ?_, fun l hr => ?_⟩,
    fun ho => ⟨fun hw => ?_, fun l hw hopen hx => ?_, fun l hw hopen => ?_⟩, fun ho hopen => ?_, fun ho => ⟨fun hlen => ?_, ?piece⟩,
    fun ho hopen hlen hz => ⟨fun hsub => ?_, fun hsub hmask => ?new⟩,
    fun ho hlen hz => ⟨fun hks => ?_, fun hks hkey => ?_, fun k hks hkey => ?keyed⟩⟩
  · rw [hop]; exact ho
  · exact refuse ((handleOp_read (s := u) (hop.trans ho) hopen).trans (handleRead_malformed hr))
  · exact answer ((handleOp_read (s := u) (hop.trans ho) hopen).trans (handleRead_items hr))
  · exact refuse ((handleOp_write (hop.trans ho)).trans (handleWrite_malformed hw))
  · exact refuse ((handleOp_write (hop.trans ho)).trans (handleWrite_auth hw hopen hx))
  · exact answer ((handleOp_write (hop.trans ho)).trans (handleWrite_items hw hopen))
  · have hblock := handleOp_readBlock (s := u) (a := a) (hop.trans ho) hopen
    exact ⟨answer hblock, fun hlen => refuse (hblock.trans (handleReadBlock_malformed hlen))⟩
  · exact refuse ((handleOp_writeBlock (hop.trans ho)).trans (handleWriteBlock_malformed hlen))
  case piece =>
    intro hlen hz hopen hst
    obtain ⟨body, hbody⟩ := handleWriteBlock_piece (s := u) (m := m) hlen hz hopen hst
    exact ⟨body, answer ((handleOp_writeBlock (hop.trans ho)).trans hbody)⟩
  · exact answer ((handleOp_notify (s := u) (hop.trans ho) hopen).trans (handleNotify_renews hlen hz hsub))
  case new =>
    have hnew := (handleOp_notify (s := u) (hop.trans ho) hopen).trans (handleNotify_new (s := u) (a := a) hlen hz hsub hmask)
    exact ⟨fun hfull => refuse (hnew.trans (if_pos hfull)),
      fun hroom => answer (hnew.trans (if_neg (Nat.not_le.mpr hroom)))⟩
  · exact refuse ((handleOp_sessionOpen (hop.trans ho)).trans (handleSessionOpen_falsework hlen hz hks))
  · exact refuse ((handleOp_sessionOpen (hop.trans ho)).trans (handleSessionOpen_unknown hlen hz hks hkey))
  case keyed =>
    have hkeyed := (handleOp_sessionOpen (hop.trans ho)).trans (handleSessionOpen_key (s := u) (m := m) hlen hz hks hkey)
    exact ⟨fun hfull => refuse (hkeyed.trans (if_pos hfull)),
      fun hroom => answer (hkeyed.trans (if_neg (Nat.not_le.mpr hroom)))⟩

end Sys2Proof
end

section
/-! PROOFS. Chapter 19, the agent's timers (R738, R741 to R743, R746, R747) and the writes of single entries (R727, R744, R745,
R780, R785, R789). -/

namespace Sys2Proof
open Machine Laws

section
variable {s : State}

/-! ### Sessions and kept responses -/

theorem sessionIs_of {id : BitVec 32} {x : Session} {p : Session → Bool}
    (hf : s.colo.sessions.find? (fun x => decide (x.id = id)) = some x) (hp : p x = true) : sessionIs s id p = true := by
  rw [sessionIs, hf]
  exact hp

theorem exec_sessionConfirmTimeout {id : BitVec 32} (h : unconfirmed s id = true) :
    exec (.sessionConfirmTimeout id) s = .next (closeSession s id) := by
  rw [show exec (.sessionConfirmTimeout id) s = execSessionConfirmTimeout id s from rfl, execSessionConfirmTimeout, h, onlyIf_true]

theorem exec_sessionIdleEnd {id : BitVec 32} (h : idleSession s id = true) :
    exec (.sessionIdleEnd id) s = .next (closeSession s id) := by
  rw [show exec (.sessionIdleEnd id) s = execSessionIdleEnd id s from rfl, execSessionIdleEnd, h, onlyIf_true]

theorem exec_sessionClose {id : BitVec 32} (h : entryWriteOk s 0x9010 4 (leBytes 4 id.toNat) = true) :
    exec (.sessionClose id) s = .next (closeSession s id) := by
  rw [show exec (.sessionClose id) s = execSessionClose id s from rfl, execSessionClose, h, onlyIf_true]

theorem exec_responseKeptExpiry (h : ∃ x ∈ s.colo.kept, aged s x.time 2000000000 = true) :
    exec .responseKeptExpiry s = .next { s with
      colo := { s.colo with kept := s.colo.kept.filter (fun x => !aged s x.time 2000000000) } } := by
  have hexpired : keptExpired s = true := List.any_eq_true.mpr h
  rw [show exec .responseKeptExpiry s = execResponseKeptExpiry s from rfl, execResponseKeptExpiry, hexpired, onlyIf_true]

/-! ### Events sent again -/

theorem sendColo_addr (s : State) (c c' : Client) (m : ColoMsg) : sendColo s (.addr c) c' m = emit s (.colophon c' m) := rfl

/-- A message changes neither the subscriptions nor what was sent before. -/
theorem sendColo_keeps (s : State) (key : ClientKey) (c : Client) (m : ColoMsg) :
    s.out ⊆ (sendColo s key c m).out ∧ (sendColo s key c m).colo.subs = s.colo.subs := by
  unfold sendColo
  split
  · exact ⟨List.subset_append_left _ _, rfl⟩
  · split
    · exact ⟨List.subset_append_left _ _, rfl⟩
    · exact ⟨List.subset_append_left _ _, rfl⟩

/-- The messages that deliver a subscription's events, sixteen to a message. -/
def sendPieces (s : State) (x : Sub) (l : List (List Event)) : State :=
  l.foldl (fun t es => sendColo t x.key x.client (notifyMsg x.client x.mgmt es)) s

theorem sendPieces_keeps (x : Sub) (l : List (List Event)) (s : State) :
    s.out ⊆ (sendPieces s x l).out ∧ (sendPieces s x l).colo.subs = s.colo.subs := by
  induction l generalizing s with
  | nil => exact ⟨List.Subset.refl _, rfl⟩
  | cons es l ih =>
    obtain ⟨hout, hsubs⟩ := sendColo_keeps s x.key x.client (notifyMsg x.client x.mgmt es)
    obtain ⟨ihout, ihsubs⟩ := ih (sendColo s x.key x.client (notifyMsg x.client x.mgmt es))
    exact ⟨fun o ho => ihout (hout ho), ihsubs.trans hsubs⟩

/-- Outside a session each piece leaves as it is. -/
theorem sendPieces_sends {x : Sub} {c : Client} (hx : x.key = .addr c) (l : List (List Event)) (s : State) :
    ∀ es ∈ l, Out.colophon x.client (notifyMsg x.client x.mgmt es) ∈ (sendPieces s x l).out := by
  induction l generalizing s with
  | nil => exact fun es h => absurd h List.not_mem_nil
  | cons e l ih =>
    intro es hes
    rcases List.mem_cons.mp hes with rfl | hes
    · refine (sendPieces_keeps x l _).1 ?_
      dsimp only
      rw [hx, sendColo_addr]
      exact List.mem_append_right _ (List.mem_singleton.mpr rfl)
    · exact ih _ es hes

/-- A subscription whose key is among some was sent its events now. -/
def stampSub (now : Word) (l : List Sub) (y : Sub) : Sub :=
  if l.any (fun x => decide (x.key = y.key)) then { y with sentAt := now } else y

theorem stampSub_key (now : Word) (l : List Sub) (y : Sub) : (stampSub now l y).key = y.key := by
  unfold stampSub
  split <;> rfl

theorem stampSub_cons (now : Word) (x : Sub) (l : List Sub) (y : Sub) :
    stampSub now l (stampSub now [x] y) = stampSub now (x :: l) y := by
  rw [stampSub, stampSub_key, stampSub, stampSub, List.any_cons, List.any_cons, List.any_nil, Bool.or_false]
  by_cases hx : x.key = y.key
  · rw [decide_eq_true hx, Bool.true_or]
    simp
  · rw [decide_eq_false hx, Bool.false_or, if_neg Bool.false_ne_true]

theorem resendSub_subs (s : State) (x : Sub) : (resendSub s x).colo.subs = s.colo.subs.map (stampSub s.boot.age [x]) := by
  have hsubs := (sendPieces_keeps x (chunks 16 x.queue) s).2
  show ((sendPieces s x (chunks 16 x.queue)).colo.subs).map _ = _
  rw [hsubs]
  refine List.map_congr_left fun y _ => ?_
  rw [stampSub, List.any_cons, List.any_nil, Bool.or_false]
  by_cases hx : x.key = y.key
  · rw [if_pos hx.symm, if_pos (decide_eq_true hx)]
  · rw [if_neg (Ne.symm hx), if_neg (ne_true_of_eq_false (decide_eq_false hx))]

theorem resendSub_out (s : State) (x : Sub) : s.out ⊆ (resendSub s x).out := (sendPieces_keeps x (chunks 16 x.queue) s).1

theorem resendSub_touches (s : State) (x : Sub) : Touches [.out, .colo] s (resendSub s x) :=
  resendSub_touch _ _ (by decide) (by decide) (Touches.refl _ s)

/-- R747: the events of each subscription are sent, nothing sent before is lost, and the subscriptions are stamped. -/
theorem resendAll_facts (l : List Sub) (s : State) :
    let t := l.foldl resendSub s
    (∀ x ∈ l, (∃ c, x.key = .addr c) → ∀ es ∈ chunks 16 x.queue, Out.colophon x.client (notifyMsg x.client x.mgmt es) ∈ t.out)
    ∧ s.out ⊆ t.out ∧ t.colo.subs = s.colo.subs.map (stampSub s.boot.age l) ∧ Touches [.out, .colo] s t := by
  induction l generalizing s with
  | nil => exact ⟨fun x h => absurd h List.not_mem_nil, List.Subset.refl _, (List.map_id _).symm, Touches.refl _ s⟩
  | cons x l ih =>
    obtain ⟨hsent, hout, hsubs, htouch⟩ := ih (resendSub s x)
    have hx := resendSub_touches s x
    refine ⟨fun y hy hc es hes => ?_, fun o ho => hout (resendSub_out s x ho), ?_, hx.trans htouch⟩
    · rcases List.mem_cons.mp hy with rfl | hy
      · obtain ⟨c, hc⟩ := hc
        exact hout (sendPieces_sends hc (chunks 16 y.queue) s es hes)
      · exact hsent y hy hc es hes
    · rw [List.foldl_cons, hsubs, resendSub_subs, List.map_map, hx .boot (by decide)]
      exact List.map_congr_left fun y _ => stampSub_cons _ x l y

theorem exec_notifyRetry (hf : s.fault.fenced = false) (h : ∃ x ∈ s.colo.subs, retryDue s x = true) :
    exec .notifyRetry s = .next ((s.colo.subs.filter (retryDue s)).foldl resendSub s) := by
  have hready : retryReady s = true := by
    rw [retryReady, hf, show s.colo.subs.any (retryDue s) = true from List.any_eq_true.mpr h]
    rfl
  rw [show exec .notifyRetry s = execNotifyRetry s from rfl, execNotifyRetry, hready, onlyIf_true]

theorem exec_notifyLeaseEnd (h : ∃ x ∈ s.colo.subs, leaseOver s x = true) :
    exec .notifyLeaseEnd s = .next { s with colo := { s.colo with subs := s.colo.subs.filter (fun x => !leaseOver s x) } } := by
  have hover : s.colo.subs.any (leaseOver s) = true := List.any_eq_true.mpr h
  rw [show exec .notifyLeaseEnd s = execNotifyLeaseEnd s from rfl, execNotifyLeaseEnd, hover, onlyIf_true]

/-! ### Saved settings -/

theorem exec_configSave (h : entryWriteOk s 0x1030 5 [1] = true) :
    exec (.configSave 1) s = .next { s with colo := { s.colo with saving := some (savedValues s) } } := by
  rw [show exec (.configSave 1) s = execConfigSave 1 s from rfl, execConfigSave, h, onlyIf_true, startSave]
  exact congrArg _ (if_pos rfl)

theorem exec_configSaveDone (h : s.colo.saving.isSome = true) : exec .configSaveDone s = .next (endSave s) := by
  rw [show exec .configSaveDone s = execConfigSaveDone s from rfl, execConfigSaveDone, h, onlyIf_true]

theorem endSave_saved {e : Table Nat} {o : Table (List Byte)} (h : s.colo.saving = some (e, o)) (hk : s.sec.keyState = 1) :
    endSave s = { s with flash := { s.flash with confEnt := e, confOct := o }, colo := { s.colo with saving := none } } := by
  rw [endSave, h]
  dsimp only
  rw [if_pos (show saveOk s = true from decide_eq_true hk)]

theorem endSave_erased {e : Table Nat} {o : Table (List Byte)} (h : s.colo.saving = some (e, o)) (hk : s.sec.keyState ≠ 1) :
    endSave s = { s with colo := { s.colo with saving := none } } := by
  rw [endSave, h]
  dsimp only
  rw [if_neg (ne_true_of_eq_false (show saveOk s = false from decide_eq_false hk))]

/-! ### Operator keys -/

/-- R744: the key that a slot's bytes hold. -/
def keyIn (slot : Nat) (k : List Byte) : Option (List Byte) :=
  if slot < 8 ∧ k.any (fun b => decide (b ≠ 0)) = true then some (padTo 64 0 k) else none

theorem operatorKeyOf_eq (s : State) (slot : Nat) :
    operatorKeyOf s slot = keyIn slot (tget (fun _ => []) s.colo.oct (entKey 0x9010 (0x10 + slot))) := rfl

/-- The bytes that the table of byte strings keeps. -/
def octKept (bs : List Byte) : List Byte := if bs.all (fun b => decide (b = 0)) then [] else bs

theorem setOct_oct (s : State) (idx sub : Nat) (bs : List Byte) :
    (setOct s idx sub bs).colo.oct = tset (fun _ => []) s.colo.oct (entKey idx sub) (octKept bs) := rfl

theorem setOct_touches (s : State) (idx sub : Nat) (bs : List Byte) : Touches [.colo] s (setOct s idx sub bs) :=
  touch_colo (by decide) (Touches.refl _ s)

theorem padTo_self {k : List Byte} (h : k.length = 64) : padTo 64 0 k = k := by
  rw [padTo, h, List.take_of_length_le (Nat.le_of_eq h)]
  exact List.append_nil k

theorem any_nonzero_eq (k : List Byte) : k.any (fun b => decide (b ≠ 0)) = !k.all (fun b => decide (b = 0)) := by
  rw [List.not_all_eq_any_not]
  simp only [decide_not]

/-- A key of 64 bytes reads back, unless it is all zeros. -/
theorem keyIn_octKept {slot : Nat} {k : List Byte} (hs : slot < 8) (h : k.length = 64) :
    keyIn slot (octKept k) = if k.all (fun b => decide (b = 0)) then none else some k := by
  rw [octKept]
  cases hz : k.all (fun b => decide (b = 0)) with
  | true => rw [if_pos rfl, if_pos rfl, keyIn, if_neg (fun h => Bool.false_ne_true h.2)]
  | false =>
    have hany : k.any (fun b => decide (b ≠ 0)) = true := by rw [any_nonzero_eq, hz]; rfl
    rw [keyIn, if_neg Bool.false_ne_true, if_neg Bool.false_ne_true, if_pos ⟨hs, hany⟩, padTo_self h]

theorem exec_operatorKey {slot : Fin 8} {key : List Byte} {ses mgmt : Bool} (h : operatorKeyOk s slot key ses mgmt = true) :
    exec (.operatorKey slot key ses mgmt) s = .next (writeOperatorKey s slot.1 key) := by
  rw [show exec (.operatorKey slot key ses mgmt) s = execOperatorKey slot key ses mgmt s from rfl, execOperatorKey, h, onlyIf_true]

theorem writeOperatorKey_colo (s : State) (slot : Nat) (key : List Byte) :
    (writeOperatorKey s slot key).colo = (setOct s 0x9010 (0x10 + slot) (padTo 64 0 key)).colo := by
  unfold writeOperatorKey
  dsimp only
  split <;> rfl

/-- R789: enrolling a key clears RETURN_PREPARED. -/
theorem writeOperatorKey_flash (s : State) (slot : Nat) (key : List Byte) :
    (writeOperatorKey s slot key).flash
      = { s.flash with returned := s.flash.returned && key.all (fun b => decide (b = 0)) } := by
  unfold writeOperatorKey
  dsimp only
  rw [any_nonzero_eq]
  cases key.all (fun b => decide (b = 0)) with
  | false => rw [Bool.and_false]; rfl
  | true => rw [Bool.and_true]; rfl

theorem writeOperatorKey_same {slot : Fin 8} {key : List Byte} (hlen : key.length = 64)
    (hwf : tableWf (fun _ => ([] : List Byte)) s.colo.oct = true) :
    operatorKeyOf (writeOperatorKey s slot.1 key) slot.1 = if key.all (fun b => decide (b = 0)) then none else some key := by
  rw [operatorKeyOf_eq, writeOperatorKey_colo, setOct_oct, tget_tset_same _ _ _ _ hwf, padTo_self hlen,
    keyIn_octKept slot.2 hlen]

theorem writeOperatorKey_other {slot k : Nat} (key : List Byte) (hk : k ≠ slot) :
    operatorKeyOf (writeOperatorKey s slot key) k = operatorKeyOf s k := by
  have hne : entKey 0x9010 (0x10 + k) ≠ entKey 0x9010 (0x10 + slot) := by unfold entKey; omega
  rw [operatorKeyOf_eq, writeOperatorKey_colo, setOct_oct, tget_tset_other _ _ _ _ _ hne, ← operatorKeyOf_eq]

/-! ### Other entries -/

theorem exec_dieIdBase {v : BitVec 16} (h : entryWriteOk s 0x5000 1 (leBytes 2 v.toNat) = true) :
    exec (.dieIdBase v) s = .next (setEnt s 0x5000 1 v.toNat) := by
  rw [show exec (.dieIdBase v) s = execDieIdBase v s from rfl, execDieIdBase, h, onlyIf_true]

theorem exec_attestNonce {n : List Byte} (h : entryWriteOk s 0x9050 1 n = true) :
    exec (.attestNonce n) s = .next (attest s n) := by
  rw [show exec (.attestNonce n) s = execAttestNonce n s from rfl, execAttestNonce, h, onlyIf_true]

theorem exec_alarmClear {v : BitVec 16} (h : entryWriteOk s 0x9020 2 (leBytes 2 v.toNat) = true) :
    exec (.alarmClear v) s = .next (clearAlarms s v.toNat) := by
  rw [show exec (.alarmClear v) s = execAlarmClear v s from rfl, execAlarmClear, h, onlyIf_true]

theorem exec_returnPrep (h : entryWriteOk s 0x9000 1 [1] = true) : exec (.returnPrep 1) s = .next (returnPrep s) := by
  rw [show exec (.returnPrep 1) s = execReturnPrep 1 s from rfl, execReturnPrep, h, onlyIf_true]
  exact congrArg _ (if_pos rfl)

theorem attest_touches (s : State) (n : List Byte) : Touches [.colo, .sec] s (attest s n) :=
  (touch_sec (by decide) (Touches.refl _ s)).trans ((setOct_touches _ _ _ _).mono (by decide))

end

/-- Settles O55: each of the agent's timers and single-entry writes is the rule for its command. -/
theorem colophonTimersAndEntriesAct : Obligations.ColophonTimersAndEntriesAct := by
  unfold Obligations.ColophonTimersAndEntriesAct
  intro s closes
  refine ⟨fun id x hf hc ha => exec_sessionConfirmTimeout (sessionIs_of hf ?_),
    fun id x hf ha => exec_sessionIdleEnd (sessionIs_of hf ha), fun id h => exec_sessionClose h, exec_responseKeptExpiry,
    fun hf h => ?retry, exec_notifyLeaseEnd, exec_configSave, fun e o h => ⟨fun hk => ?saved, fun hk => ?erased⟩,
    fun slot key ses mgmt h hlen hwf => ?key, fun v h => ?base, fun n h => ?nonce, fun v h => exec_alarmClear h, exec_returnPrep⟩
  · rw [hc, ha]; rfl
  case retry =>
    obtain ⟨hsent, -, hsubs, htouch⟩ := resendAll_facts (s.colo.subs.filter (retryDue s)) s
    exact ⟨_, exec_notifyRetry hf h, fun x hx hdue => hsent x (List.mem_filter.mpr ⟨hx, hdue⟩), hsubs, htouch⟩
  case saved =>
    exact (exec_configSaveDone (by rw [h]; rfl)).trans (congrArg _ (endSave_saved h hk))
  case erased =>
    exact (exec_configSaveDone (by rw [h]; rfl)).trans (congrArg _ (endSave_erased h hk))
  case key =>
    exact ⟨_, exec_operatorKey h, writeOperatorKey_same hlen hwf, fun k hk => writeOperatorKey_other key hk,
      writeOperatorKey_flash s slot.1 key, writeOperatorKey_touch _ _ _ (by decide) (by decide) (Touches.refl _ s)⟩
  case base =>
    exact ⟨_, exec_dieIdBase h, fun hwf => entN_setEnt_same s _ _ _ hwf, fun i k hk => entN_setEnt_other s _ _ _ i k hk,
      setEnt_touches s _ _ _⟩
  case nonce => exact ⟨_, exec_attestNonce h, rfl, attest_touches s n⟩

end Sys2Proof
end

section
/-! PROOFS. Chapter 20, live update (R773 to R776): the commands of UPDATE_CMD. -/

namespace Sys2Proof
open Machine Laws

section
variable {s : State}

/-! ### A write of UPDATE_CMD -/

/-- R775: UPDATE_CMD takes 1 to 5. -/
def updateCmdSpec : EntSpec := ⟨.u8, .rws, 0, 1, 5⟩

theorem entSpec_updateCmd (b : Build) (d : Fin 8) : entSpec b d 0xA000 3 = some updateCmdSpec := rfl

/-- The status of a write of UPDATE_CMD in a session. -/
theorem checkWrite_updateCmd (s : State) (k : Byte) :
    checkWrite s ⟨.session 0, true⟩ 0xA000 3 (etypeCode .u8) 1 [k]
      = if !writeServed s 0xA000 3 k.toNat then .falsework
        else if outOfInterval updateCmdSpec k.toNat then .range
        else if !updateCmdOk s k.toNat then .state else .ok := by
  have hv : leNat [k] = k.toNat := by simp [leNat]
  rw [checkWrite, entSpec_updateCmd, hv]
  show (if !writeServed s 0xA000 3 k.toNat then CStat.falsework
    else if (outOfInterval updateCmdSpec k.toNat : Prop) ∨ (false : Prop) then .range
    else if !updateCmdOk s k.toNat then .state else .ok) = _
  simp only [Bool.false_eq_true, or_false]

theorem entryWriteOk_updateCmd (s : State) (k : Byte) :
    entryWriteOk s 0xA000 3 [k] = (decide (agentMode s ≠ .silent)
      && decide (checkWrite s ⟨.session 0, true⟩ 0xA000 3 (etypeCode .u8) 1 [k] = .ok)) := by
  rw [entryWriteOk, entSpec_updateCmd]
  rfl

/-- A command that UPDATE_STATE allows is accepted by an agent that serves in full. -/
theorem updateCmd_accepted {k : Byte} (hk : outOfInterval updateCmdSpec k.toNat = false) (hm : agentMode s = .full)
    (hc : updateCmdOk s k.toNat = true) : entryWriteOk s 0xA000 3 [k] = true := by
  have hserved : writeServed s 0xA000 3 k.toNat = true := by rw [writeServed, hm]; rfl
  rw [entryWriteOk_updateCmd, checkWrite_updateCmd, hserved, hk, hc, hm]
  rfl

/-- A command that UPDATE_STATE does not allow is not accepted. -/
theorem updateCmd_refused {k : Byte} (hc : updateCmdOk s k.toNat = false) : ¬ entryWriteOk s 0xA000 3 [k] = true := by
  rw [entryWriteOk_updateCmd, checkWrite_updateCmd, hc, Bool.and_eq_true, decide_eq_true_eq, decide_eq_true_eq]
  rintro ⟨-, h⟩
  split at h
  · cases h
  · split at h <;> cases h

/-- Each of the five commands that is not accepted leaves the state as it is. -/
theorem exec_updateCmd_refused {i : Instr} {k : Byte}
    (hi : (i, k) ∈ [(Instr.begin, (1 : Byte)), (.verify, 2), (.activate, 3), (.commit, 4), (.abandon, 5)])
    (h : entryWriteOk s 0xA000 3 [k] = false) : exec i s = .next s := by
  simp only [List.mem_cons, Prod.mk.injEq, List.not_mem_nil, or_false] at hi
  rcases hi with ⟨rfl, rfl⟩ | ⟨rfl, rfl⟩ | ⟨rfl, rfl⟩ | ⟨rfl, rfl⟩ | ⟨rfl, rfl⟩
  case inl => exact onlyIf_off h
  case inr.inl => exact onlyIf_off h
  case inr.inr.inl => exact onlyIf_off h
  case inr.inr.inr.inl => exact onlyIf_off h
  case inr.inr.inr.inr => exact onlyIf_off h

theorem updateCmd_inInterval {i : Instr} {k : Byte}
    (hi : (i, k) ∈ [(Instr.begin, (1 : Byte)), (.verify, 2), (.activate, 3), (.commit, 4), (.abandon, 5)]) :
    outOfInterval updateCmdSpec k.toNat = false := by
  simp only [List.mem_cons, Prod.mk.injEq, List.not_mem_nil, or_false] at hi
  rcases hi with ⟨-, rfl⟩ | ⟨-, rfl⟩ | ⟨-, rfl⟩ | ⟨-, rfl⟩ | ⟨-, rfl⟩
  case inl => rfl
  case inr.inl => rfl
  case inr.inr.inl => rfl
  case inr.inr.inr.inl => rfl
  case inr.inr.inr.inr => rfl

theorem exec_begin (h : entryWriteOk s 0xA000 3 [1] = true) : exec .begin s = .next (beginUpdate s) := by
  rw [show exec .begin s = execBegin s from rfl, execBegin, h, onlyIf_true]
theorem exec_verify (h : entryWriteOk s 0xA000 3 [2] = true) : exec .verify s = .next (verifyUpdate s) := by
  rw [show exec .verify s = execVerify s from rfl, execVerify, h, onlyIf_true]
theorem exec_activate (h : entryWriteOk s 0xA000 3 [3] = true) : exec .activate s = .next (activateUpdate s) := by
  rw [show exec .activate s = execActivate s from rfl, execActivate, h, onlyIf_true]
theorem exec_commit (h : entryWriteOk s 0xA000 3 [4] = true) : exec .commit s = .next (commitUpdate s) := by
  rw [show exec .commit s = execCommit s from rfl, execCommit, h, onlyIf_true]
theorem exec_abandon (h : entryWriteOk s 0xA000 3 [5] = true) : exec .abandon s = .next (abandonUpdate s) := by
  rw [show exec .abandon s = execAbandon s from rfl, execAbandon, h, onlyIf_true]

/-! ### What an accepted command does -/

/-- R776: the state and the result change, the rest of the update registers and the flash stay, and an event is sent. -/
theorem setUpdate_facts (s : State) (st : UpdState) (r : BitVec 8) :
    (setUpdate s st r).upd = { s.upd with state := st.code, result := r } ∧ (setUpdate s st r).flash = s.flash
      ∧ Touches [.out, .colo, .upd] s (setUpdate s st r) := by
  have hevent {qs : List Part} {sI t : State} (i d : Nat) (ho : Part.out ∈ qs) (hc : Part.colo ∈ qs) (ht : Touches qs sI t) :
      Touches qs sI (notifyEvent t 19 i d) := notifyEvent_touch _ _ _ _ ho hc ht
  exact ⟨hevent (qs := [.out, .colo]) _ _ (by decide) (by decide) (Touches.refl _ _) .upd (by decide),
    hevent (qs := [.out, .colo]) _ _ (by decide) (by decide) (Touches.refl _ _) .flash (by decide),
    hevent _ _ (by decide) (by decide) (touch_upd (by decide) (Touches.refl _ s))⟩

/-- The flash as an update command leaves it. -/
def withFlash (s : State) (fl : Flash) : State := { s with flash := fl }

/-- A command that writes the flash and moves UPDATE_STATE. -/
theorem setUpdate_withFlash (s : State) (fl : Flash) (st : UpdState) (r : BitVec 8) :
    (setUpdate (withFlash s fl) st r).upd = { s.upd with state := st.code, result := r, gen := s.upd.gen }
      ∧ (setUpdate (withFlash s fl) st r).flash = fl ∧ Touches [.out, .colo, .flash, .upd] s (setUpdate (withFlash s fl) st r) := by
  obtain ⟨hupd, hflash, htouch⟩ := setUpdate_facts (withFlash s fl) st r
  exact ⟨hupd, hflash, (touch_flash (by decide) (Touches.refl _ s)).trans (htouch.mono (by decide))⟩

theorem verifyUpdate_ok (h : verifySlot s (updComp s) (inactiveSlot s) (minSecOf s.flash (updComp s)) = .ok) :
    verifyUpdate s = setUpdate s .verified 0 := if_pos h

theorem verifyUpdate_failed (h : verifySlot s (updComp s) (inactiveSlot s) (minSecOf s.flash (updComp s)) ≠ .ok) :
    verifyUpdate s = setUpdate s .failed (verifySlot s (updComp s) (inactiveSlot s) (minSecOf s.flash (updComp s))).code :=
  if_neg h

theorem abandonUpdate_trial (h : updIn s [.trial] = true) : abandonUpdate s
    = setUpdate (withFlash s (clearTried (modComp s.flash (updComp s) (fun x => { x with trial := none })))) .idle s.upd.result := by
  rw [abandonUpdate, if_pos h]
  rfl

theorem abandonUpdate_other (h : updIn s [.trial] = false) :
    abandonUpdate s = setUpdate (withFlash s (clearTried s.flash)) .idle s.upd.result := by
  rw [abandonUpdate, if_neg (ne_true_of_eq_false h)]
  rfl

end

/-- Settles O56: each command moves UPDATE_STATE and the slots as its rule says, and none acts where it is not allowed. -/
theorem updatesAdvanceBySlots : Obligations.UpdatesAdvanceBySlots := by
  unfold Obligations.UpdatesAdvanceBySlots
  intro s c b takes moves
  have hmoves {i : Instr} {st : UpdState} {result : BitVec 8} {fl : Flash}
      (h : exec i s = .next (setUpdate (withFlash s fl) st result)) : moves i st result s.upd.gen fl :=
    ⟨_, h, setUpdate_withFlash s fl st result⟩
  refine ⟨fun i k hi => ⟨fun h => exec_updateCmd_refused hi h, fun hm hc => updateCmd_accepted (updateCmd_inInterval hi) hm hc,
      fun hc => updateCmd_refused hc⟩, fun h => ?begin, fun h => ⟨fun hok => ?verified, fun r hr hne => ?failed⟩,
    fun h => hmoves (exec_activate h), fun h => hmoves (exec_commit h), fun h => ⟨fun ht => ?trial, fun ht => ?other⟩⟩
  case begin =>
    obtain ⟨hupd, hflash, htouch⟩ := setUpdate_facts
      { setInactive s (.written []) with upd := { s.upd with gen := s.upd.gen + 1 } } .receiving s.upd.result
    exact ⟨_, exec_begin h, hupd, hflash,
      (touch_upd (by decide) (touch_flash (by decide) (Touches.refl _ s))).trans (htouch.mono (by decide))⟩
  case verified => exact hmoves ((exec_verify h).trans (congrArg _ (verifyUpdate_ok hok)))
  case failed =>
    rw [← hr] at hne ⊢
    exact hmoves ((exec_verify h).trans (congrArg _ (verifyUpdate_failed hne)))
  case trial => exact hmoves ((exec_abandon h).trans (congrArg _ (abandonUpdate_trial ht)))
  case other => exact hmoves ((exec_abandon h).trans (congrArg _ (abandonUpdate_other ht)))

end Sys2Proof
end

section
/-! PROOFS. Chapter 20, die resets and the stages of a start (R757 to R763, R766, R773). -/

namespace Sys2Proof
open Machine Laws

section
variable {s : State}

/-! ### Die resets -/

/-- R757, R766: a start that begins afresh with this flash and keeps the power of the state before. -/
def FreshStart (s : State) (cause : BitVec 2) (fl : Flash) (t : State) : Prop :=
  t.flash = fl ∧ t.pwr = s.pwr ∧ t.out = s.out ∧ t.pending = s.pending ∧ t.build = s.build ∧ t.dieIndex = s.dieIndex
    ∧ t.boot.state = 0 ∧ t.boot.cur = 0 ∧ t.boot.stage = 0 ∧ t.boot.cause = cause ∧ t.fault = Faults.reset
    ∧ (∀ f : FormeIx, ∃ n, t.forme f = Forme.reset n) ∧ (∀ p : Fin 11, t.span.ports[p] = Port.reset)
    ∧ t.tbl = ⟨[], [], [], [], []⟩ ∧ t.cores = ⟨[], 0, 0⟩ ∧ t.colo.sessions = [] ∧ t.colo.subs = [] ∧ t.colo.ent = [] ∧ t.log.recs = []

theorem resetDie_forme (s : State) (cause : BitVec 2) (f : FormeIx) :
    (resetDie s cause).forme f = Forme.reset (s.free + 2 * f.1) := by
  simp [State.forme, resetDie, dieReset]

theorem resetDie_port (s : State) (cause : BitVec 2) (p : Fin 11) : (resetDie s cause).span.ports[p] = Port.reset := by
  rw [show (resetDie s cause).span.ports = Vector.replicate 11 Port.reset from rfl]
  exact Vector.getElem_replicate _

theorem resetDie_fresh (s : State) (cause : BitVec 2) : FreshStart s cause s.flash (resetDie s cause) :=
  ⟨rfl, rfl, rfl, rfl, rfl, rfl, rfl, rfl, rfl, rfl, rfl, fun f => ⟨_, resetDie_forme s cause f⟩, resetDie_port s cause,
    rfl, rfl, rfl, rfl, rfl, rfl⟩

theorem exec_dieReset {cause : BitVec 2} (hu : s.pwr.dieUp = true) (hc : cause ≠ 3) :
    exec (.dieReset cause) s = .next (resetDie s cause) := by
  rw [show exec (.dieReset cause) s = execDieReset cause s from rfl, execDieReset, resetReady, hu, decide_eq_true hc,
    Bool.and_self, onlyIf_true]

theorem exec_dieRestart {v : Byte} (h : entryWriteOk s 0x1040 6 [v] = true) :
    exec (.dieRestart v) s = .next (dieRestart s v.toNat) := by
  rw [show exec (.dieRestart v) s = execDieRestart v s from rfl, execDieRestart, h, onlyIf_true]

theorem dieRestart_one (s : State) : dieRestart s 1 = resetDie s 1 := if_pos rfl

theorem dieRestart_two (s : State) : dieRestart s 2 = resetDie { s with flash := clearFailed s.flash } 1 := by
  rw [dieRestart, if_neg (by decide), if_pos rfl]

/-- R772: a count part written to both copies is the one in force. -/
theorem countPart_writeCount (fl : Flash) (failed : BitVec 8) (tried : Bool) :
    countPart (writeCount fl failed tried) = ⟨(countPart fl).count + 1, failed, tried, true⟩ :=
  if_pos ⟨rfl, .inr (Nat.le_refl _)⟩

theorem failedStarts_clearFailed (fl : Flash) : failedStarts (clearFailed fl) = 0 := by
  rw [failedStarts, clearFailed, countPart_writeCount]

/-! ### A stage completes -/

section
variable {r : StageReport} (hu : unitsOn s = true) (hb : s.boot.state = 0)
include hu hb

omit hu hb in
theorem exec_startStageComplete (h : stageCan s r = true) : exec (.startStageComplete r) s = .next (stageDone s r) := by
  rw [show exec (.startStageComplete r) s = execStartStageComplete r s from rfl, execStartStageComplete, h, onlyIf_true]

omit hu hb in
/-- R763: stage 0 of a start that has failed too often. -/
theorem romStage_falsework (b : Bool) (h : 3 ≤ failedStarts s.flash) :
    (romStage s b).boot.state = 3 ∧ (romStage s b).boot.romMode = false
      ∧ (romStage s b).boot.reason = (Machine.countStart s.flash).lastFail ∧ (romStage s b).pwr.faultL = true := by
  rw [romStage, if_pos (show 3 ≤ (failedStarts s.flash).toNat from BitVec.le_def.mp h)]
  exact ⟨rfl, rfl, rfl, rfl⟩

omit hu in
theorem romStage_next (b : Bool) (h : failedStarts s.flash < 3) :
    (romStage s b).boot.stage = 0 ∧ (romStage s b).boot.cur = 1 ∧ (romStage s b).boot.state = 0 := by
  rw [romStage, if_neg (Nat.not_le.mpr (show (failedStarts s.flash).toNat < 3 from BitVec.lt_def.mp h))]
  exact ⟨rfl, rfl, hb⟩

omit hu hb in
/-- R758, R773: stage 0 counts the start and runs the loader's slot. -/
theorem romStage_counts (b : Bool) :
    (romStage s b).flash = Machine.countStart s.flash ∧ (romStage s b).boot.chosen[loaderComp] = b := by
  have hchosen : (Vector.ofFn (fun c => if c = loaderComp then b else chooseSlot s.flash c))[loaderComp] = b := by
    rw [Fin.getElem_fin, Vector.getElem_ofFn]
    exact if_pos rfl
  unfold romStage
  dsimp only
  split
  · exact ⟨rfl, hchosen⟩
  · exact ⟨rfl, hchosen⟩

theorem exec_romStage {b : Bool} (hc : s.boot.cur = 0) (hl : loaderSlot s = some b) :
    exec (.startStageComplete r) s = .next (romStage s b) := by
  have hcan : stageCan s r = true := by rw [stageCan, hu, hb, hc, hl]; rfl
  rw [exec_startStageComplete hcan, stageDone, hc, hl]
  rfl

omit hu hb in
/-- An alarm without a source does nothing. -/
theorem securityAlarm_none (s : State) : securityAlarm s 0 = { s with sec := { s.sec with latched := s.sec.latched ||| 0 } } := by
  have hl : (List.range 6).filter (fun i => (0 : BitVec 6).getLsbD i) = [] := by decide
  rw [securityAlarm, hl]
  rfl

theorem exec_keyStage (hc : s.boot.cur = 1) (ht : (slotPart s.flash).tagOk = true) :
    exec (.startStageComplete r) s = .next (keyStage s r) := by
  have hcan : stageCan s r = true := by rw [stageCan, hu, hb, hc, slotPartOk, ht]; rfl
  rw [exec_startStageComplete hcan, stageDone, hc]
  rfl

omit hu in
theorem keyStage_facts (h : startSources s r = 0) :
    ((keyStage s r).boot.stage = 1 ∧ (keyStage s r).boot.cur = 2 ∧ (keyStage s r).boot.state = 0)
      ∧ (keyStage s r).sec.keyState = 1 ∧ (keyStage s r).pwr.slotId = r.slotId := by
  rw [keyStage, h, securityAlarm_none]
  exact ⟨⟨rfl, rfl, hb⟩, rfl, rfl⟩

theorem exec_configStage (hc : s.boot.cur = 2) (hf : firmwareOk s = true) :
    exec (.startStageComplete r) s = .next (configStage s) := by
  have hcan : stageCan s r = true := by rw [stageCan, hu, hb, hc, hf]; rfl
  rw [exec_startStageComplete hcan, stageDone, hc]
  rfl

omit hu hb in
theorem dropTrial_boot (s : State) : (dropTrial s).boot = s.boot :=
  dropTrial_touch (qs := [.out, .colo, .flash, .upd]) s (by decide) (by decide) (by decide) (by decide) (Touches.refl _ s) .boot
    (by decide)

omit hu in
theorem configStage_next : (configStage s).boot.stage = 2 ∧ (configStage s).boot.cur = 3 ∧ (configStage s).boot.state = 0 := by
  refine ⟨rfl, rfl, ?_⟩
  rw [configStage]
  show (dropTrial _).boot.state = 0
  rw [dropTrial_boot]
  exact hb

theorem exec_bistStage (hc : s.boot.cur = 3) (hk : bistOk r = true) :
    exec (.startStageComplete r) s = .next (bistStage s r) := by
  have hcan : stageCan s r = true := by rw [stageCan, hu, hb, hc, hk]; rfl
  rw [exec_startStageComplete hcan, stageDone, hc]
  rfl

omit hu hb in
theorem bistStage_forme (s : State) (r : StageReport) (f : FormeIx) : (bistStage s r).forme f = testedForme r f (s.forme f) := by
  simp [State.forme, bistStage, beginStage, vmapIx]

theorem exec_memoryStage (hc : s.boot.cur = 4) :
    exec (.startStageComplete r) s = .next (joinModule (memoryStage s)) := by
  have hcan : stageCan s r = true := by rw [stageCan, hu, hb, hc]; rfl
  rw [exec_startStageComplete hcan, stageDone, hc]
  rfl

theorem exec_runtimeStage (hc : s.boot.cur = 6) : exec (.startStageComplete r) s = .next (runtimeStage s) := by
  have hcan : stageCan s r = true := by rw [stageCan, hu, hb, hc]; rfl
  rw [exec_startStageComplete hcan, stageDone, hc]
  rfl

theorem exec_spanStageEnd (hc : s.boot.cur = 5)
    (h : internalPorts.all (linkSettled s) = true ∨ aged s s.boot.stageAt 2000000000 = true) :
    exec .spanStageEnd s = .next { s with boot := { s.boot with stage := 5, cur := 6, stageAt := s.boot.age } } := by
  have hready : spanStageReady s = true := by
    rw [spanStageReady, hu, decide_eq_true hb, decide_eq_true hc, Bool.and_self, Bool.and_self, Bool.true_and]
    exact (Bool.or_eq_true _ _).mpr h
  rw [show exec .spanStageEnd s = execSpanStageEnd s from rfl, execSpanStageEnd, hready, onlyIf_true]
  rfl

/-! ### A stage fails -/

theorem exec_stageFail (hc : s.boot.cur ≠ 5) (hk : s.boot.cur.toNat ≤ 6) : exec .stageFail s = .next (stageFail s) := by
  have hready : stageFailReady s = true := by
    rw [stageFailReady, hu, decide_eq_true hb, decide_eq_true hc, decide_eq_true hk]
    rfl
  rw [show exec .stageFail s = execStageFail s from rfl, execStageFail, hready, onlyIf_true]

end

/-- R763: the stage that failed is recorded in flash. -/
def failedFlash (s : State) : Flash := { s.flash with lastFail := s.boot.cur }

/-- The state of a boot ROM that has counted a start without a loader. -/
def failedRom (s : State) : State :=
  { s with flash := Machine.countStart (failedFlash s), boot := { s.boot with chosen := Vector.ofFn (chooseSlot s.flash) } }

theorem stageFail_rom (hc : s.boot.cur = 0) (h : failedStarts s.flash < 3) : stageFail s = resetDie (failedRom s) 2 := by
  rw [stageFail, if_pos hc, if_neg (Nat.not_le.mpr (show (failedStarts s.flash).toNat < 3 from BitVec.lt_def.mp h))]
  rfl

theorem stageFail_falsework (hc : s.boot.cur = 0) (h : 3 ≤ failedStarts s.flash) :
    stageFail s = enterFalsework (failedRom s) true := by
  rw [stageFail, if_pos hc, if_pos (show 3 ≤ (failedStarts s.flash).toNat from BitVec.le_def.mp h)]
  rfl

theorem stageFail_key (hc : s.boot.cur = 1) : stageFail s = resetDie { s with flash := mendSlots (failedFlash s) } 2 := by
  rw [stageFail, if_neg (by rw [hc]; decide), if_pos hc]
  rfl

theorem stageFail_later (h0 : s.boot.cur ≠ 0) (h1 : s.boot.cur ≠ 1) : stageFail s = resetDie { s with flash := failedFlash s } 2 := by
  rw [stageFail, if_neg h0, if_neg h1]
  rfl

end

/-- Settles O57: each reset, each stage and each failed stage is the rule for its command. -/
theorem startsRunTheirStages : Obligations.StartsRunTheirStages := by
  unfold Obligations.StartsRunTheirStages
  intro s fresh gives
  refine ⟨fun cause hu hc => ⟨_, exec_dieReset hu hc, resetDie_fresh s cause⟩, fun h => ?restart, fun h => ⟨?cleared, failedStarts_clearFailed _⟩,
    fun hu hb => ⟨?stage, fun hc h => exec_spanStageEnd hu hb hc h, ?fails⟩⟩
  case restart =>
    exact ⟨_, (exec_dieRestart h).trans (congrArg _ (dieRestart_one s)), resetDie_fresh s 1⟩
  case cleared =>
    exact ⟨_, (exec_dieRestart h).trans (congrArg _ (dieRestart_two s)), resetDie_fresh { s with flash := clearFailed s.flash } 1⟩
  case stage =>
    intro r next
    refine ⟨fun b hc hl => ?rom, fun hc ht hs => ?key, fun hc hf => ?config, fun hc hk => ?bist, fun hc => ?memory,
      fun hc => ?runtime⟩
    case rom =>
      obtain ⟨hflash, hchosen⟩ := romStage_counts (s := s) b
      exact ⟨_, exec_romStage hu hb hc hl, hflash, hchosen, fun h => romStage_next hb b h, fun h => romStage_falsework b h⟩
    case key => exact ⟨_, exec_keyStage hu hb hc ht, keyStage_facts hb hs⟩
    case config => exact ⟨_, exec_configStage hu hb hc hf, configStage_next hb⟩
    case bist =>
      exact ⟨_, exec_bistStage hu hb hc hk, ⟨rfl, rfl, hb⟩, bistStage_forme s r,
        bistStage_touch _ _ (by decide) (by decide) (Touches.refl _ s)⟩
    case memory => exact ⟨_, exec_memoryStage hu hb hc, ⟨rfl, rfl, hb⟩, rfl, rfl, rfl, rfl, rfl⟩
    case runtime =>
      exact ⟨_, exec_runtimeStage hu hb hc, rfl, rfl, rfl, rfl, rfl,
        runtimeStage_touch _ (by decide) (by decide) (by decide) (Touches.refl _ s)⟩
  case fails =>
    intro fl
    have hfail (hc : s.boot.cur ≠ 5) (hk : s.boot.cur.toNat ≤ 6) : exec .stageFail s = .next (stageFail s) :=
      exec_stageFail hu hb hc hk
    have hcur {k : BitVec 8} (hc : s.boot.cur = k) (h5 : k ≠ 5) (h6 : k.toNat ≤ 6) : exec .stageFail s = .next (stageFail s) :=
      hfail (hc ▸ h5) (hc ▸ h6)
    refine ⟨fun hc h => ?_, fun hc h => ?_, fun hc => ?_, fun hc => ?later⟩
    · exact ⟨_, (hcur hc (by decide) (by decide)).trans (congrArg _ (stageFail_rom hc h)), resetDie_fresh (failedRom s) 2⟩
    · exact ⟨_, (hcur hc (by decide) (by decide)).trans (congrArg _ (stageFail_falsework hc h)), rfl, rfl, rfl, rfl⟩
    · exact ⟨_, (hcur hc (by decide) (by decide)).trans (congrArg _ (stageFail_key hc)),
        resetDie_fresh { s with flash := mendSlots (failedFlash s) } 2⟩
    case later =>
      have hk : s.boot.cur ≠ 0 ∧ s.boot.cur ≠ 1 ∧ s.boot.cur ≠ 5 ∧ s.boot.cur.toNat ≤ 6 := by
        rcases hc with hc | hc | hc | hc <;> rw [hc] <;> decide
      obtain ⟨h0, h1, h5, h6⟩ := hk
      exact ⟨_, (hfail h5 h6).trans (congrArg _ (stageFail_later h0 h1)), resetDie_fresh { s with flash := failedFlash s } 2⟩

end Sys2Proof
end

section
/-! PROOFS. Chapters 17, 20 and 21, power (R682, R764, R793 to R799, R802): the input, the rails, the sensors and the trip. -/

namespace Sys2Proof
open Machine Laws

section
variable {s : State}

/-! ### The input switch and the rails -/

theorem exec_powerQualified (hc : s.pwr.closed = false) (hl : s.pwr.ovLatch = false) :
    exec .powerQualified s = .next { s with pwr := { s.pwr with closed := true, step := 0 } } := by
  have hready : qualifyReady s = true := by rw [qualifyReady, hc, hl]; rfl
  rw [show exec .powerQualified s = execPowerQualified s from rfl, execPowerQualified, hready, onlyIf_true]

section
variable (hc : s.pwr.closed = true)
include hc

theorem exec_railSequenceStep (hs : s.pwr.step.toNat < 5) : exec .railSequenceStep s = .next (railStep s) := by
  have hready : sequencing s = true := by rw [sequencing, hc, decide_eq_true hs]; rfl
  rw [show exec .railSequenceStep s = execRailSequenceStep s from rfl, execRailSequenceStep, hready, onlyIf_true]

theorem exec_powerLoss : exec .powerLoss s = .next (powerOff s (s.pwr.unpowered s.pwr.ovLatch)) := by
  rw [show exec .powerLoss s = execPowerLoss s from rfl, execPowerLoss, hc, onlyIf_true]

theorem exec_overvoltage : exec .overvoltage s = .next (powerOff s (s.pwr.unpowered true)) := by
  rw [show exec .overvoltage s = execOvervoltage s from rfl, execOvervoltage, hc, onlyIf_true]

theorem exec_railFault {d : Fin 8} (hd : d.1 < dieCount s.build) (hn : s.pwr.railsOut.getLsbD d.1 = false) :
    exec (.railFault d) s = .next (railFault s d) := by
  have hready : railFaultReady s d = true := by rw [railFaultReady, hc, decide_eq_true hd, hn]; rfl
  rw [show exec (.railFault d) s = execRailFault d s from rfl, execRailFault, hready, onlyIf_true]

end

theorem railStep_earlier (h : s.pwr.step.toNat < 4) :
    railStep s = { s with pwr := { s.pwr with step := s.pwr.step + 1 } } := if_neg (Nat.ne_of_lt h)

/-- The power of a die whose rails have reached the last row. -/
def railsPower (s : State) : Power :=
  { s.pwr with step := 5, good := decide (s.pwr.railsOut = 0), dieUp := !s.pwr.railsOut.getLsbD s.dieIndex.1 }

theorem railStep_own (h4 : s.pwr.step = 4) (h : s.pwr.railsOut.getLsbD s.dieIndex.1 = false) :
    railStep s = resetDie { s with pwr := railsPower s } 0 := by
  rw [railStep, if_pos (by rw [h4]; rfl), railsUp]
  exact if_neg (ne_true_of_eq_false h)

theorem railStep_without (h4 : s.pwr.step = 4) (h : s.pwr.railsOut.getLsbD s.dieIndex.1 = true) :
    railStep s = { s with pwr := railsPower s } := by
  rw [railStep, if_pos (by rw [h4]; rfl), railsUp]
  exact if_pos h

/-- The power that is left when a die's rails fail. -/
def failedRails (s : State) (d : Fin 8) : Power :=
  { s.pwr with railsOut := s.pwr.railsOut ||| BitVec.ofNat 8 (2 ^ d.1), good := false }

theorem railFault_own (s : State) :
    railFault s s.dieIndex = powerOff s { failedRails s s.dieIndex with dieUp := false, faultL := false } := if_pos rfl

/-- The state in which the rails of another die have failed. -/
def withFailedRails (s : State) (d : Fin 8) : State := { s with pwr := failedRails s d }

theorem railFault_other {d : Fin 8} (h : d ≠ s.dieIndex) : railFault s d
    = if peerFencedReady (withFailedRails s d) d then peerFenced (withFailedRails s d) d 0 else withFailedRails s d := if_neg h

/-- Adding a member to a set of dies that has it changes nothing. -/
theorem or_two_pow_self {v : BitVec 8} {d : Fin 8} (h : v.getLsbD d.1 = true) : v ||| BitVec.ofNat 8 (2 ^ d.1) = v := by
  refine BitVec.eq_of_getLsbD_eq fun i hi => ?_
  rw [BitVec.getLsbD_or, BitVec.getLsbD_ofNat, Nat.testBit_two_pow]
  by_cases hid : d.1 = i
  · rw [← hid, h, Bool.true_or]
  · rw [decide_eq_false hid, Bool.and_false, Bool.or_false]

/-- R764: the other dies treat one without rails as one in Falsework mode. -/
theorem railFault_other_facts {d : Fin 8} (h : d ≠ s.dieIndex) (hd : d.1 < dieCount s.build) :
    (railFault s d).pwr = failedRails s d ∧ (railFault s d).flash = s.flash ∧ (railFault s d).boot = s.boot
      ∧ (railFault s d).formes = s.formes
      ∧ (unitsOn s = true → (railFault s d).fault = { s.fault with dies := s.fault.dies ||| BitVec.ofNat 8 (2 ^ d.1) }) := by
  rw [railFault_other h]
  have hpeer : Touches [.free, .out, .tb, .tbl, .log, .span, .abut, .cores, .svc, .fault, .colo] (withFailedRails s d)
      (peerFenced (withFailedRails s d) d 0) :=
    peerFenced_touch _ _ _ (by decide) (by decide) (by decide) (by decide) (by decide) (by decide) (by decide) (by decide)
      (by decide) (by decide) (by decide) (Touches.refl _ _)
  split
  case isTrue => exact ⟨hpeer .pwr (by decide), hpeer .flash (by decide), hpeer .boot (by decide), hpeer .formes (by decide),
    fun _ => peer_fault _ d 0⟩
  case isFalse hnot =>
    refine ⟨rfl, rfl, rfl, rfl, fun hu => ?_⟩
    have hknown : s.fault.dies.getLsbD d.1 = true := by
      refine Decidable.byContradiction fun hn => hnot ?_
      rw [peerFencedReady, show unitsOn (withFailedRails s d) = true from hu]
      show (true && decide (d ≠ s.dieIndex) && decide (d.1 < dieCount s.build) && !s.fault.dies.getLsbD d.1) = true
      rw [decide_eq_true h, decide_eq_true hd, eq_false_of_ne_true hn]
      rfl
    rw [or_two_pow_self hknown]
    rfl

/-! ### The level of the input -/

theorem exec_inputStateChange (s : State) (mv : Nat) : exec (.inputStateChange mv) s = .next (inputEffect s mv) := rfl

/-- R795: below 40 V the latch of an overvoltage is released. -/
def latchedInput (s : State) (mv : Nat) : Power := { s.pwr with ovLatch := s.pwr.ovLatch && decide (40000 ≤ mv) }

/-- R795: only the latch, INPUT_STATE and the count of low events follow the level. -/
theorem inputEffect_keeps (s : State) (mv : Nat) : ∃ b n, inputEffect s mv
    = { s with pwr := { latchedInput s mv with inState := b, lowEvents := n } } := by
  unfold inputEffect
  split
  · split
    · exact ⟨_, _, rfl⟩
    · exact ⟨s.pwr.inState, s.pwr.lowEvents, rfl⟩
  · exact ⟨s.pwr.inState, s.pwr.lowEvents, rfl⟩

theorem inputEffect_band {mv : Nat} {b : BitVec 8} (hc : s.pwr.closed = true) (hb : inputBand mv = some b) :
    (inputEffect s mv).pwr.inState = b
      ∧ (inputEffect s mv).pwr.lowEvents = (if b = 2 ∧ s.pwr.inState ≠ 2 then s.pwr.lowEvents + 1 else s.pwr.lowEvents) := by
  rw [inputEffect, hb]
  dsimp only
  rw [if_pos hc]
  exact ⟨rfl, rfl⟩

theorem inputBand_normal {mv : Nat} (h1 : 56000 ≤ mv) (h2 : mv ≤ 67000) : inputBand mv = some 1 := if_pos ⟨h1, h2⟩

theorem inputBand_low {mv : Nat} (h1 : 52000 ≤ mv) (h2 : mv < 56000) : inputBand mv = some 2 := by
  rw [inputBand, if_neg (fun h => Nat.not_le.mpr h2 h.1), if_pos ⟨h1, h2⟩]

theorem inputBand_high {mv : Nat} (h1 : 67000 < mv) (h2 : mv ≤ 72000) : inputBand mv = some 3 := by
  rw [inputBand, if_neg (by omega), if_neg (by omega), if_pos ⟨h1, h2⟩]

/-! ### Sensors and cables -/

theorem exec_sensorSample (r : Sensors) (hu : s.pwr.dieUp = true) :
    exec (.sensorSample r) s = .next { s with pwr := { s.pwr with sensors := r } } := by
  rw [show exec (.sensorSample r) s = execSensorSample r s from rfl, execSensorSample, hu, onlyIf_true]

/-- The cables that are seated once one of them changes. -/
def seatedCables (v : BitVec 8) (d : Fin 8) (seated : Bool) : BitVec 8 :=
  (v &&& ~~~ BitVec.ofNat 8 (2 ^ d.1)) ||| (if seated then BitVec.ofNat 8 (2 ^ d.1) else 0)

theorem exec_spanCableChange {d : Fin 8} (seated : Bool) (hd : d.1 < dieCount s.build) :
    exec (.spanCableChange d seated) s = .next { s with pwr := { s.pwr with cables := seatedCables s.pwr.cables d seated } } := by
  rw [show exec (.spanCableChange d seated) s = execSpanCableChange d seated s from rfl, execSpanCableChange, decide_eq_true hd,
    onlyIf_true]
  rfl

theorem getLsbD_two_pow (d : Fin 8) (i : Nat) : (BitVec.ofNat 8 (2 ^ d.1)).getLsbD i = decide (d.1 = i) := by
  rw [BitVec.getLsbD_ofNat, Nat.testBit_two_pow]
  by_cases h : d.1 = i
  · rw [← h, decide_eq_true d.2, Bool.true_and]
  · rw [decide_eq_false h, Bool.and_false]

theorem seatedCables_same (v : BitVec 8) (d : Fin 8) (seated : Bool) : (seatedCables v d seated).getLsbD d.1 = seated := by
  rw [seatedCables, BitVec.getLsbD_or, BitVec.getLsbD_and, BitVec.getLsbD_not, getLsbD_two_pow, decide_eq_true rfl, Bool.not_true,
    Bool.and_false, Bool.and_false, Bool.false_or]
  cases seated with
  | false => rw [if_neg Bool.false_ne_true]; exact BitVec.getLsbD_zero
  | true => rw [if_pos rfl, getLsbD_two_pow, decide_eq_true rfl]

theorem seatedCables_other (v : BitVec 8) (d : Fin 8) (seated : Bool) {i : Nat} (h : i ≠ d.1) :
    (seatedCables v d seated).getLsbD i = v.getLsbD i := by
  have hmask : (if seated then BitVec.ofNat 8 (2 ^ d.1) else 0).getLsbD i = false := by
    cases seated with
    | false => rw [if_neg Bool.false_ne_true]; exact BitVec.getLsbD_zero
    | true => rw [if_pos rfl, getLsbD_two_pow, decide_eq_false h.symm]
  rw [seatedCables, BitVec.getLsbD_or, hmask, Bool.or_false, BitVec.getLsbD_and, BitVec.getLsbD_not, getLsbD_two_pow,
    decide_eq_false h.symm]
  by_cases hi : i < 8
  · rw [decide_eq_true hi]
    simp
  · rw [BitVec.getLsbD_of_ge v i (Nat.not_lt.mp hi), Bool.false_and]

/-! ### The trip -/

theorem exec_thermalSample (die mem : Int) (hu : s.pwr.dieUp = true) :
    exec (.thermalSample die mem) s = .next (thermalSampleEffect s die mem) := by
  rw [show exec (.thermalSample die mem) s = execThermalSample die mem s from rfl, execThermalSample, hu, onlyIf_true]

/-- A further fence of a fenced die leaves the fence and the start as they are. -/
theorem fenceDie_again (r : BitVec 3) (h : s.fault.fenced = true) :
    (fenceDie s r).fault.fenced = true ∧ (fenceDie s r).boot = s.boot := by
  rw [fenceDie, if_pos h]
  split
  · exact ⟨h, rfl⟩
  · exact ⟨(logFault_fenced s _ _ _ _ _ _ _).trans h, logFence_touches s r .none .boot (by decide)⟩

theorem fenceDie_first (r : BitVec 3) (h : s.fault.fenced = false) :
    (fenceDie s r).fault.fenced = true ∧ (fenceDie s r).boot.state = 2 := by
  rw [fenceDie, if_neg (ne_true_of_eq_false h)]
  exact ⟨rfl, rfl⟩

theorem fenceDie_sec (s : State) (r : BitVec 3) : (fenceDie s r).sec = s.sec :=
  fenceDie_touch (qs := [.out, .formes, .span, .abut, .cores, .svc, .fault, .colo, .boot, .flash, .pwr]) s r (by decide) (by decide)
    (by decide) (by decide) (by decide) (by decide) (by decide) (by decide) (by decide) (by decide) (by decide) (Touches.refl _ s)
    .sec (by decide)

/-- R784: the alarm's events are sent, and the keys go where a policy says so. -/
def alarmErased (s : State) (src : BitVec 6) : State :=
  let l := (List.range 6).filter (fun i => src.getLsbD i)
  let t := l.foldl (fun t i => notifyEvent t 18 i (policyBits s i))
    { s with sec := { s.sec with latched := s.sec.latched ||| src } }
  if l.any (fun i => (policyBits s i).testBit 0) then eraseKeys t else t

theorem securityAlarm_eq (s : State) (src : BitVec 6) : securityAlarm s src
    = if ((List.range 6).filter (fun i => src.getLsbD i)).any (fun i => (policyBits s i).testBit 1)
      then fenceDie (alarmErased s src) 6 else alarmErased s src := rfl

theorem alarmErased_touches (s : State) (src : BitVec 6) : Touches [.out, .span, .colo, .sec] s (alarmErased s src) := by
  have hevents (l : List Nat) : Touches [.out, .span, .colo, .sec] s (l.foldl (fun t i => notifyEvent t 18 i (policyBits s i))
      { s with sec := { s.sec with latched := s.sec.latched ||| src } }) :=
    touch_foldl (fun _ _ => notifyEvent_touch _ _ _ _ (by decide) (by decide) (Touches.refl _ _))
      (touch_sec (by decide) (Touches.refl _ s))
  unfold alarmErased
  dsimp only
  split
  · exact eraseKeys_touch _ (by decide) (by decide) (by decide) (hevents _)
  · exact hevents _

/-- An alarm on a fenced die leaves the fence and the start as they are. -/
theorem securityAlarm_fenced (src : BitVec 6) (h : s.fault.fenced = true) :
    (securityAlarm s src).fault.fenced = true ∧ (securityAlarm s src).boot = s.boot := by
  have htouch := alarmErased_touches s src
  have hfault : (alarmErased s src).fault.fenced = true := by rw [htouch .fault (by decide)]; exact h
  have hboot : (alarmErased s src).boot = s.boot := htouch .boot (by decide)
  rw [securityAlarm_eq]
  split
  · obtain ⟨hf, hb⟩ := fenceDie_again 6 hfault
    exact ⟨hf, hb.trans hboot⟩
  · exact ⟨hfault, hboot⟩

/-- The levels that an alarm leaves, and the sources that it has latched. -/
theorem securityAlarm_levels (s : State) (src : BitVec 6) :
    (securityAlarm s src).sec.latched = s.sec.latched ||| src ∧ (securityAlarm s src).sec.live = s.sec.live := by
  obtain ⟨hlatched, -, -, -, -, -, hlive, -⟩ := alarm_facts s s src (fun _ => rfl) (Touches.refl _ s) rfl rfl rfl
  exact ⟨hlatched, hlive⟩

/-- R783: sources that rise show in the levels, and those that were low latch. -/
theorem riseSources_levels (s : State) (src : BitVec 6) :
    (riseSources s src).sec.latched = s.sec.latched ||| (src &&& ~~~ s.sec.live)
      ∧ (riseSources s src).sec.live = s.sec.live ||| src :=
  securityAlarm_levels { s with sec := { s.sec with live := s.sec.live ||| src } } (src &&& ~~~ s.sec.live)

theorem riseSources_fenced (src : BitVec 6) (h : s.fault.fenced = true) :
    (riseSources s src).fault.fenced = true ∧ (riseSources s src).boot = s.boot :=
  securityAlarm_fenced (s := { s with sec := { s.sec with live := s.sec.live ||| src } }) _ h

/-- A sample at the trip temperature. -/
theorem thermalSampleEffect_trip {die : Int} (mem : Int) (h : 1000 * (entN s 0x2010 10 : Int) ≤ die) :
    thermalSampleEffect s die mem = riseSources (fenceDie (thermalEffect s die mem) 2) thermalSrc :=
  if_pos (decide_eq_true h)

theorem thermalSampleEffect_fences {die : Int} (mem : Int) (hf : s.fault.fenced = false)
    (h : 1000 * (entN s 0x2010 10 : Int) ≤ die) :
    let t := thermalSampleEffect s die mem
    t.fault.fenced = true ∧ t.boot.state = 2 ∧ t.sec.live.getLsbD 3 = true
      ∧ (s.sec.live.getLsbD 3 = false → t.sec.latched.getLsbD 3 = true) := by
  intro t
  have ht : t = riseSources (fenceDie (thermalEffect s die mem) 2) thermalSrc := thermalSampleEffect_trip mem h
  have hbudget : Touches [.imp] s (thermalEffect s die mem) := thermalEffect_touch _ _ _ (by decide) (Touches.refl _ s)
  have hnot : (thermalEffect s die mem).fault.fenced = false := by rw [hbudget .fault (by decide)]; exact hf
  have hsec : (fenceDie (thermalEffect s die mem) 2).sec = s.sec := (fenceDie_sec _ 2).trans (hbudget .sec (by decide))
  obtain ⟨hfenced, hstate⟩ := fenceDie_first 2 hnot
  obtain ⟨hkept, hboot⟩ := riseSources_fenced thermalSrc hfenced
  obtain ⟨hlatched, hlive⟩ := riseSources_levels (fenceDie (thermalEffect s die mem) 2) thermalSrc
  rw [hsec] at hlatched hlive
  have hbit : thermalSrc.getLsbD 3 = true := by decide
  rw [ht]
  refine ⟨hkept, by rw [hboot]; exact hstate, by rw [hlive, BitVec.getLsbD_or, hbit, Bool.or_true], fun hlow => ?_⟩
  rw [hlatched, BitVec.getLsbD_or, BitVec.getLsbD_and, BitVec.getLsbD_not, hbit, hlow]
  exact Bool.or_true _

end

/-- Settles O58: each of the input's, the rails' and the sensors' commands is its rule. -/
theorem powerFollowsItsInput : Obligations.PowerFollowsItsInput := by
  unfold Obligations.PowerFollowsItsInput
  intro s off
  have hoff (latch : Bool) : off latch (powerOff s (s.pwr.unpowered latch)) :=
    ⟨rfl, rfl, rfl, rfl, rfl, rfl, rfl, rfl, rfl, rfl, rfl, rfl, rfl, rfl, rfl⟩
  refine ⟨exec_powerQualified, fun hc => ⟨fun h => ?row, fun h => ?last, ⟨_, exec_powerLoss hc, hoff _⟩,
      ⟨_, exec_overvoltage hc, hoff true⟩, fun d hd hn => ?rail⟩, fun mv => ?input, fun r hu => exec_sensorSample r hu,
    fun d seated hd => ?cable, fun die mem hu hf h => ?trip⟩
  case row => exact (exec_railSequenceStep hc (Nat.lt_succ_of_lt h)).trans (congrArg _ (railStep_earlier h))
  case last =>
    have hexec := exec_railSequenceStep hc (by rw [h]; decide)
    cases ho : s.pwr.railsOut.getLsbD s.dieIndex.1 with
    | false =>
      refine ⟨_, hexec.trans (congrArg _ (railStep_own h ho)), rfl, ?_, fun _ => ⟨rfl, rfl, rfl⟩, fun hne => absurd hne Bool.false_ne_true⟩
      rw [← ho]
      rfl
    | true =>
      refine ⟨_, hexec.trans (congrArg _ (railStep_without h ho)), rfl, ?_, fun hne => absurd hne.symm Bool.false_ne_true,
        fun _ => touch_pwr (by decide) (Touches.refl _ s)⟩
      rw [← ho]
      rfl
  case rail =>
    refine ⟨_, exec_railFault hc hd hn, ?_⟩
    by_cases hown : d = s.dieIndex
    · rw [hown, railFault_own]
      exact ⟨rfl, rfl, fun _ => ⟨rfl, rfl, rfl, rfl⟩, fun hne => absurd rfl hne⟩
    · obtain ⟨hpwr, hflash, hboot, hformes, hfault⟩ := railFault_other_facts hown hd
      rw [hpwr]
      exact ⟨rfl, rfl, fun h => absurd h hown, fun _ => ⟨hflash, hboot, hformes, hfault⟩⟩
  case input =>
    obtain ⟨b, n, hkeeps⟩ := inputEffect_keeps s mv
    refine ⟨_, exec_inputStateChange s mv, by rw [hkeeps]; exact touch_pwr (by decide) (Touches.refl _ s), by rw [hkeeps]; rfl,
      by rw [hkeeps]; rfl, fun hc => ⟨fun h1 h2 => ?_, fun h1 h2 => ?_, fun h1 h2 => ?_⟩⟩
    · obtain ⟨hs, hn⟩ := inputEffect_band hc (inputBand_normal h1 h2)
      exact ⟨hs, hn.trans (if_neg (fun h => absurd h.1 (by decide)))⟩
    · obtain ⟨hs, hn⟩ := inputEffect_band hc (inputBand_low h1 h2)
      refine ⟨hs, hn.trans ?_⟩
      by_cases h : s.pwr.inState = 2
      · rw [if_pos h, if_neg (fun hne => hne.2 h)]
      · rw [if_neg h, if_pos ⟨rfl, h⟩]
    · obtain ⟨hs, hn⟩ := inputEffect_band hc (inputBand_high h1 h2)
      exact ⟨hs, hn.trans (if_neg (fun h => absurd h.1 (by decide)))⟩
  case cable =>
    exact ⟨_, exec_spanCableChange seated hd, touch_pwr (by decide) (Touches.refl _ s), seatedCables_same _ d seated,
      fun i hi => seatedCables_other _ d seated hi, rfl⟩
  case trip =>
    obtain ⟨hfenced, hstate, hlive, hlatched⟩ := thermalSampleEffect_fences mem hf h
    exact ⟨_, exec_thermalSample die mem hu, hfenced, hstate, hlive, hlatched,
      thermalSampleEffect_touch _ _ _ (by decide) (by decide) (by decide) (by decide) (by decide) (by decide) (by decide) (by decide)
        (by decide) (by decide) (by decide) (by decide) (by decide) (Touches.refl _ s)⟩

end Sys2Proof
end

section
/-! PROOFS. Chapter 20, security alarms, the enclosure's input and the debug port (R782 to R784, R786 to R788, R792). -/

namespace Sys2Proof
open Machine Laws

/-- A policy of a source that has risen names this action. -/
def PolicyActs (s : State) (src : BitVec 6) (k : Nat) : Prop :=
  ∃ i, i < 6 ∧ src.getLsbD i = true ∧ (policyBits s i).testBit k = true

/-- R783, R784: what an alarm leaves. -/
def Alarmed (s : State) (src : BitVec 6) (t : State) : Prop :=
  t.sec.latched = s.sec.latched ||| src
  ∧ (PolicyActs s src 0 → t.sec.keyState = 2 ∧ t.sec.erasures = s.sec.erasures + 1 ∧ (s.fault.fenced = false → t.colo.sessions = [])
      ∧ (¬ PolicyActs s src 1 → ∀ p : Fin 11, (s.span.ports[p]).enc = true → (t.span.ports[p]).st = 0 ∧ (t.span.ports[p]).enc = false))
  ∧ (¬ PolicyActs s src 0 → t.sec.keyState = s.sec.keyState ∧ t.sec.erasures = s.sec.erasures)
  ∧ (PolicyActs s src 1 → s.fault.fenced = false →
      t.fault.fenced = true ∧ t.fault.reason = 6 ∧ t.boot.state = 2 ∧ t.cores = ⟨[], 0, 0⟩)
  ∧ (¬ PolicyActs s src 1 → t.fault = s.fault ∧ t.boot = s.boot ∧ t.cores = s.cores ∧ t.svc = s.svc ∧ t.abut = s.abut)
  ∧ Touches [.free, .out, .formes, .span, .abut, .cores, .svc, .fault, .colo, .boot, .flash, .sec, .pwr] s t

/-- What an alarm leaves of the state in which it is raised. -/
structure AlarmKeeps (u t : State) : Prop where
  live : t.sec.live = u.sec.live
  ir : t.sec.ir = u.sec.ir
  debugOpen : t.sec.debugOpen = u.sec.debugOpen
  debugState : t.sec.debugState = u.sec.debugState
  free : t.free = u.free
  enclOpen : t.pwr.enclOpen = u.pwr.enclOpen

/-- An alarm after a change that leaves the policies, the latches and the keys alone. -/
theorem securityAlarm_after {s u : State} (src : BitVec 6) (hp : ∀ i, policyBits u i = policyBits s i)
    (ht : Touches [.free, .out, .sec, .pwr] s u) (hl : u.sec.latched = s.sec.latched) (hk : u.sec.keyState = s.sec.keyState)
    (he : u.sec.erasures = s.sec.erasures) :
    Alarmed s src (securityAlarm u src) ∧ AlarmKeeps u (securityAlarm u src) := by
  obtain ⟨h1, h2, h3, h4, h5, h6, hlive, hir, hopen, hstate, hfree, hencl⟩ := alarm_facts s u src hp ht hl hk he
  exact ⟨⟨h1, h2, h3, h4, h5, h6⟩, ⟨hlive, hir, hopen, hstate, hfree, hencl⟩⟩

section
variable {s : State}

/-! ### Alarms and the enclosure -/

/-- The security logic works from stage 1 of a start on. -/
theorem securityOn_of (hu : s.pwr.dieUp = true) (hb : ¬ (s.boot.state = 0 ∧ s.boot.cur = 0)) : securityOn s = true := by
  have hstage : (decide (s.boot.state = 0) && decide (s.boot.cur = 0)) = false := by
    rw [← Bool.decide_and]
    exact decide_eq_false hb
  rw [securityOn, hu, hstage]
  rfl

theorem exec_securityAlarm (src : BitVec 6) (h : securityOn s = true) :
    exec (.securityAlarm src) s = .next (securityAlarm s (src &&& ~~~ s.sec.live)) := by
  rw [show exec (.securityAlarm src) s = execSecurityAlarm src s from rfl, execSecurityAlarm, h, onlyIf_true]

theorem exec_enclOpen (s : State) (level : Bool) : exec (.enclOpen level) s = .next (enclEffect s level) := rfl

/-- R792: the state in which the enclosure's input has risen. -/
def enclRisen (s : State) : State :=
  { s with pwr := { s.pwr with enclOpen := true }, sec := { s.sec with live := s.sec.live ||| 4 } }

theorem encl_touches (s : State) (live : BitVec 6) (level : Bool) : Touches [.sec, .pwr] s
    { s with pwr := { s.pwr with enclOpen := level }, sec := { s.sec with live := live } } :=
  touch_pwr (s := { s with sec := { s.sec with live := live } }) (by decide) (touch_sec (by decide) (Touches.refl _ s))

theorem enclEffect_open (h : securityOn s = true) (hlow : s.sec.live.getLsbD 2 = false) :
    enclEffect s true = securityAlarm (enclRisen s) 4 := by
  have hrising : (4 : BitVec 6) &&& ~~~ s.sec.live = 4 := by
    refine BitVec.eq_of_getLsbD_eq fun i hi => ?_
    rw [BitVec.getLsbD_and, BitVec.getLsbD_not, decide_eq_true hi, Bool.true_and]
    have hcases : (4 : BitVec 6).getLsbD i = true → i = 2 := by decide +revert
    cases hb : (4 : BitVec 6).getLsbD i with
    | false => rfl
    | true => rw [hcases hb, hlow]; rfl
  have hrise : enclEffect s true = riseSources { s with pwr := { s.pwr with enclOpen := true } } 4 := by
    rw [enclEffect, h]
    rfl
  rw [hrise, riseSources]
  show securityAlarm (enclRisen s) (4 &&& ~~~ s.sec.live) = _
  rw [hrising]

theorem enclEffect_closed (h : securityOn s = true) : enclEffect s false
    = { s with pwr := { s.pwr with enclOpen := false }, sec := { s.sec with live := s.sec.live &&& ~~~ 4 } } := by
  rw [enclEffect, h]
  rfl

/-! ### The debug port -/

section
variable {ir : Byte} {dr : BitVec 104} (hu : s.pwr.dieUp = true)
include hu

theorem exec_debugPortInstruction (h : levelTwo s ir = false) :
    exec (.debugPortInstruction ir dr) s = .next (debugEffect s ir dr) := by
  rw [show exec (.debugPortInstruction ir dr) s = execDebugPortInstruction ir dr s from rfl, execDebugPortInstruction, h, hu,
    onlyIf_true]
  rfl

theorem exec_debugPort_level2 (h : levelTwo s ir = true) :
    exec (.debugPortInstruction ir dr) s = .refused .debugLevel2 := by
  rw [show exec (.debugPortInstruction ir dr) s = execDebugPortInstruction ir dr s from rfl, execDebugPortInstruction, h, hu]
  rfl

end

theorem levelTwo_named {ir : Byte} (h : ir = irIdcode ∨ ir = irBypass ∨ ir = irMmioRead) : levelTwo s ir = false := by
  rw [levelTwo]
  rcases h with rfl | rfl | rfl
  · rw [decide_eq_false (not_not_intro rfl : ¬ irIdcode ≠ irIdcode), Bool.and_false]; rfl
  · rw [decide_eq_false (not_not_intro rfl : ¬ irBypass ≠ irBypass), Bool.and_false]; rfl
  · rw [decide_eq_false (not_not_intro rfl : ¬ irMmioRead ≠ irMmioRead), Bool.and_false]

theorem levelTwo_closed {ir : Byte} (h : s.sec.debugState ≠ 2) : levelTwo s ir = false := by
  rw [levelTwo, decide_eq_false h]
  rfl

theorem levelTwo_unnamed {ir : Byte} (hs : s.sec.debugState = 2) (h1 : ir ≠ 0x01) (h2 : ir ≠ 0x02) (hf : ir ≠ 0xFF) :
    levelTwo s ir = true := by
  rw [levelTwo, decide_eq_true hs, decide_eq_true (show ir ≠ irIdcode from h1), decide_eq_true (show ir ≠ irBypass from hf),
    decide_eq_true (show ir ≠ irMmioRead from h2)]
  rfl

theorem entryNum_idcode (s : State) : entryNum s 0x9030 4 = leNat (identityN (entKey 0x9030 4) 4) := rfl

theorem debugEffect_idcode (s : State) (dr : BitVec 104) : debugEffect s 0x01 dr = { s with
    sec := { s.sec with ir := 0x01 }
    out := s.out ++ [.debugData (BitVec.ofNat 104 (entryNum { s with sec := { s.sec with ir := 0x01 } } 0x9030 4))] } := by
  rw [debugEffect, if_pos (show (0x01 : Byte) = irIdcode from rfl), idcode, entryNum_idcode, entryNum_idcode]
  rfl

theorem debugEffect_bypass {ir : Byte} {dr : BitVec 104} (h1 : ir ≠ 0x01) (h : ir = 0xFF ∨ (s.sec.debugState ≠ 0 ∧ ir ≠ 0x02)) :
    debugEffect s ir dr = bypass s ir := by
  rw [debugEffect, if_neg (show ir ≠ irIdcode from h1)]
  by_cases hf : ir = irBypass
  · rw [if_pos hf]
  · obtain ⟨hs, h2⟩ := h.resolve_left hf
    rw [if_neg hf, if_neg hs, if_neg (show ir ≠ irMmioRead from h2)]

theorem debugEffect_locked {ir : Byte} {dr : BitVec 104} (hs : s.sec.debugState = 0) (h1 : ir ≠ 0x01) (hf : ir ≠ 0xFF) :
    debugEffect s ir dr = securityAlarm (bypass s ir) 0x10 := by
  rw [debugEffect, if_neg (show ir ≠ irIdcode from h1), if_neg (show ir ≠ irBypass from hf), if_pos hs]

theorem debugEffect_read {dr : BitVec 104} (hs : s.sec.debugState ≠ 0) : debugEffect s 0x02 dr = debugRead s dr := by
  rw [debugEffect, if_neg (by decide : (0x02 : Byte) ≠ irIdcode), if_neg (by decide : (0x02 : Byte) ≠ irBypass), if_neg hs]
  exact if_pos rfl

theorem bypass_touches (s : State) (ir : Byte) : Touches [.out, .sec] s (bypass s ir) :=
  (touch_sec (by decide) (Touches.refl _ s)).trans ((emit_touches _ _).mono (by decide))

theorem mmioRead_touches (s : State) (a : Nat) : Touches [.formes, .proof, .span] s (mmioRead s a).2 :=
  mmioRead_touch _ _ (by decide) (by decide) (by decide) (Touches.refl _ s)

theorem debugRead_sec (s : State) (dr : BitVec 104) :
    (debugRead s dr).sec = { s.sec with ir := 0x02, mmioPrev := (mmioRead s (dr.toNat % 2 ^ 40)).1 } := by
  rw [← show (mmioRead s (dr.toNat % 2 ^ 40)).2.sec = s.sec from mmioRead_touches s _ .sec (by decide)]
  rfl

/-- The 40 bits below what the previous read has found (log 4). -/
def freeLow (s : State) : Nat := (Config.freeWord s.free).toNat % 2 ^ 40

theorem debugRead_out (s : State) (dr : BitVec 104) :
    (debugRead s dr).out = s.out ++ [.debugData (BitVec.ofNat 104 (freeLow s + s.sec.mmioPrev.toNat * 2 ^ 40))] := by
  rw [← show (mmioRead s (dr.toNat % 2 ^ 40)).2.out = s.out from mmioRead_touches s _ .out (by decide)]
  rfl

/-- R786: above those bits stands what the previous read has found. -/
theorem shifted_above (low : Nat) (w : Word) (h : low < 2 ^ 40) :
    (BitVec.ofNat 104 (low + w.toNat * 2 ^ 40)).toNat / 2 ^ 40 = w.toNat := by
  have hw : w.toNat < 2 ^ 64 := w.isLt
  rw [BitVec.toNat_ofNat]
  omega

/-! ### Tokens -/

theorem exec_debugUnlock {token : List Byte} (hm : agentMode s = .full) (hl : token.length = 160) :
    exec (.debugUnlock token) s = .next (unlockEffect s token) := by
  have hserved : unlockServed s token = true := by rw [unlockServed, decide_eq_true hm, decide_eq_true hl]; rfl
  rw [show exec (.debugUnlock token) s = execDebugUnlock token s from rfl, execDebugUnlock, hserved, onlyIf_true]

theorem unlockEffect_accepted {token : List Byte} (h : tokenOk s token = true) :
    unlockEffect s token = unlock (newNonce s) (tokenLevel token) := if_pos h

theorem unlockEffect_refused {token : List Byte} (h : tokenOk s token = false) :
    unlockEffect s token = securityAlarm (newNonce s) 0x10 := if_neg (ne_true_of_eq_false h)

theorem newNonce_touches (s : State) : Touches [.free, .sec] s (newNonce s) :=
  newNonce_touch _ (by decide) (by decide) (Touches.refl _ s)

end

/-- Settles O59: each alarm, each instruction of the debug port and each token is its rule. -/
theorem alarmsAndTheDebugPortAct : Obligations.AlarmsAndTheDebugPortAct := by
  unfold Obligations.AlarmsAndTheDebugPortAct
  intro s hu act alarmed
  refine ⟨fun hb => ?alarms, fun dr => ?idcode, fun ir dr h => ?bypass, fun ir dr hs h1 hf => ?locked, fun dr hs => ?read,
    fun ir dr hs h1 h2 hf => exec_debugPort_level2 hu (levelTwo_unnamed hs h1 h2 hf),
    fun token hm hl => ⟨fun ht => ?accepted, fun ht => ?refused⟩⟩
  case alarms =>
    have hon : securityOn s = true := securityOn_of hu hb
    refine ⟨fun src => ?_, fun hlow => ?_, ?_⟩
    · obtain ⟨ha, hk⟩ := securityAlarm_after (s := s) (src &&& ~~~ s.sec.live) (fun _ => rfl) (Touches.refl _ s) rfl rfl rfl
      exact ⟨_, exec_securityAlarm src hon, ha, hk.live⟩
    · obtain ⟨ha, hk⟩ := securityAlarm_after (s := s) (u := enclRisen s) 4 (fun _ => rfl)
        ((encl_touches s _ _).mono (by decide)) rfl rfl rfl
      exact ⟨_, (exec_enclOpen s true).trans (congrArg _ (enclEffect_open hon hlow)), ha, hk.live, hk.enclOpen⟩
    · exact ⟨_, (exec_enclOpen s false).trans (congrArg _ (enclEffect_closed hon)),
        encl_touches s _ _, rfl, rfl⟩
  case idcode =>
    exact (exec_debugPortInstruction hu (levelTwo_named (.inl rfl))).trans (congrArg _ (debugEffect_idcode s dr))
  case bypass =>
    rcases h with rfl | ⟨hs, h1, h2⟩
    · exact (exec_debugPortInstruction hu (levelTwo_named (.inr (.inl rfl)))).trans
        (congrArg _ (debugEffect_bypass (by decide) (.inl rfl)))
    · exact (exec_debugPortInstruction hu (levelTwo_closed (by rw [hs]; decide))).trans
        (congrArg _ (debugEffect_bypass h1 (.inr ⟨by rw [hs]; decide, h2⟩)))
  case locked =>
    obtain ⟨ha, hk⟩ := securityAlarm_after (s := s) (u := bypass s ir) 0x10 (fun _ => rfl)
      ((bypass_touches s ir).mono (by decide)) rfl rfl rfl
    exact ⟨_, (exec_debugPortInstruction hu (levelTwo_closed (by rw [hs]; decide))).trans
      (congrArg _ (debugEffect_locked hs h1 hf)), ha, hk.ir⟩
  case read =>
    exact ⟨_, (exec_debugPortInstruction hu (levelTwo_named (.inr (.inr rfl)))).trans (congrArg _ (debugEffect_read hs)),
      debugRead_sec s dr, _, debugRead_out s dr, shifted_above _ _ (Nat.mod_lt _ (by decide))⟩
  case accepted =>
    exact ⟨_, (exec_debugUnlock hm hl).trans (congrArg _ (unlockEffect_accepted ht)),
      unlock_touch _ _ (by decide) (by decide) (by decide) ((newNonce_touches s).mono (by decide)), rfl, rfl, rfl, rfl, rfl, rfl⟩
  case refused =>
    obtain ⟨ha, hk⟩ := securityAlarm_after (s := s) (u := newNonce s) 0x10 (fun _ => rfl)
      ((newNonce_touches s).mono (by decide)) rfl rfl rfl
    exact ⟨_, (exec_debugUnlock hm hl).trans (congrArg _ (unlockEffect_refused ht)), ha, hk.free, hk.debugOpen, hk.debugState⟩

end Sys2Proof
end
